-- ==== Sys2Proof/Word.lean ====
section
/-!
DEFINITION. The words the bridge works with.
-/

namespace Sys2Proof

/-- A 32-bit register of the control map (R12). -/
abbrev Word := BitVec 32

/-- A byte of payload or of a register. -/
abbrev Byte := BitVec 8

/-- A 64-bit value: a pair of registers (R14), a host address or a pool handle. -/
abbrev Quad := BitVec 64

end Sys2Proof
end

