-- ==== Sys2Proof/Syntax.lean ====
section
/-!
DEFINITION. The commands of the block: one constructor for each row of spec/opcode_table.json, with the operands that the spec's
text gives the event, and the types of those operands. What only the outside world or a timer knows (which result a host read gave,
which die's application point falls in this step) is an operand of the command (log entries 1 and 5).
-/

namespace Sys2Proof

/-- Where a command of software comes from: the access path (R62; 0 to 7 PCI Express port, 8 to 15 management controller, 16 Body
Bus), the global port of a Body Bus access, and what the PCI Express request carries (R97, R100, R192, R230); `er` of a controller's access
tells an instruction fetch (R239). -/
structure Src where
  path : Nat
  port : Nat := 0
  rid : Nat := 0
  tag : Nat := 0
  pasid : Option Nat := none
  pmr : Bool := false
  er : Bool := false
  ro : Bool := false
  ido : Bool := false
  poison : Bool := false
  deriving DecidableEq, Repr

/-- TYPE of the packets of the link and of transactions (R132): IDL, SYN, ADR, DAT, LCK, ULK, ACK, BERR, RTY, IRQ, IAK; every other value
is reserved. -/
def packetTypes : List Nat := [0x00, 0x01, 0x10, 0x11, 0x12, 0x13, 0x20, 0x21, 0x22, 0x30, 0x31]

/-- Body of an ADR or LCK packet (R134); `size` and `am` are the field's codes. -/
structure AdrBody where
  role : Nat := 0
  tag : Nat
  write : Bool
  block : Bool
  locked : Bool
  size : Nat
  am : Nat
  addr : Nat
  beatsM1 : Nat := 0
  deriving DecidableEq, Repr

/-- Body of a DAT packet (R136). -/
structure DatBody where
  role : Nat
  tag : Nat
  last : Bool
  poison : Bool := false
  offset : Nat
  data : List Byte
  deriving DecidableEq, Repr

/-- ROLE and TAG of a packet that has no more in common with an ADR (R133). -/
structure RoleTag where
  role : Nat
  tag : Nat
  deriving DecidableEq, Repr

/-- LSEQ and TYPE of a packet of a reserved type (R132). -/
structure OddPacket where
  lseq : Nat
  typ : Nat
  deriving DecidableEq, Repr

/-- An event on its way to the event queue: the die from which the home takes it, the words that are written in this step (R254), a queue (die,
number) whose producers a fault has given that many credits too many just before (R264). -/
structure EventStep where
  die : Nat
  words : Nat
  upset : Option (Nat × Nat × Nat)
  deriving DecidableEq, Repr

/-- Body of a SYN (R119). -/
structure Syn where
  lane : Nat
  step : Nat
  rxGood : Nat
  maxWidth : Nat
  maxRate : Nat
  ltReq : Bool
  ltCap : Bool
  width : Nat := 0
  group : Nat := 0
  rxNext : Nat := 0
  preset : Nat := 0
  crcOk : Bool := true
  deriving DecidableEq, Repr

/-- Why a received frame is discarded (R116). `lane` of a violation is the lane on which it was seen, if one. -/
inductive FrameBad where
  | crc (linkPkt : Bool)
  | codeViolation (lane : Nat) (linkPkt : Bool)
  | badLseq
  | ebp
  deriving DecidableEq, Repr

/-- The AtomicOps the bridge completes (R81). -/
inductive AtomicKind where
  | fetchAdd | swap | cas
  deriving DecidableEq, Repr

/-- Completion status of a received completion (R93). -/
inductive CplStatus where
  | success | unsupported | abort
  deriving DecidableEq, Repr

/-- A configuration request of type 0 or type 1 (R90). `off` is the byte offset of the DWORD, `en` its byte enables. -/
structure CfgReq where
  type0 : Bool
  write : Bool
  off : Nat
  en : Nat
  value : Nat
  rid : Nat
  tag : Nat
  deriving DecidableEq, Repr

/-- Where a request that no row of R90 performs is directed: BAR0, BAR2 or BAR4, its offset and length, and the permissions its unit asks for:
0 read, 1 write, 3 AtomicOp (R240). -/
inductive OddBar where
  | bar0 | bar2 | bar4
  deriving DecidableEq, Repr

structure OddTarget where
  bar : OddBar
  off : Nat
  len : Nat
  access : Nat
  deriving DecidableEq, Repr

/-- Messages that the port acts on as the PCI Express standard requires (R90): link power management and slot power limit. -/
inductive PcieMsg where
  | pmActiveStateNak | pmTurnOff | setSlotPowerLimit (value scale : Nat)
  deriving DecidableEq, Repr

/-- An entry of the interrupt map (R217). -/
inductive IrqEntry where
  | bbin (port level : Nat) | cls (c : Nat) | ring (r : Nat)
  deriving DecidableEq, Repr

/-- The PLLs of a die (R22). -/
inductive Pll where
  | a | b | bb
  deriving DecidableEq, Repr

/-- The clock monitors of a die: monitor k of CLK_MON_CNT and of CLK_LOOP_CNT (R387). -/
inductive ClockMon where
  | mon (k : Nat) | loop (k : Nat)
  deriving DecidableEq, Repr

/-- The glitch-free multiplexers of a die (R385, R386). -/
inductive MuxId where
  | root | pllA | pllB | bbPll | fen | portTx (t : Nat)
  deriving DecidableEq, Repr

/-- What wakes the package (R397). -/
inductive WakeCause where
  | perst | clkreq | bodyBus
  deriving DecidableEq, Repr

/-- A mortar packet (R39, R40): source and destination die, stream number, class (0 posted, 1 non-posted, 2 completion), sequence
number and payload words. -/
structure MortarPkt where
  src : Nat
  dst : Nat
  stream : Nat
  cls : Nat
  seq : Nat
  words : List Word
  deriving DecidableEq, Repr

/-- What only the hardware knows of a step of a start on a die (R424 to R427): the primary method fails, the alternate fails, the
step hangs in the method it runs; `detail` is what it finds (BS01 the measured kHz, BS02 1 where XB is absent, BS03 the banks that
fail, BS05 the links that fail to train, BS06 the flash size as a power of two, BS07 the flashes that refuse ledger writes: bit 0 D0's, bit 1
D1's). -/
structure BootFact where
  die : Nat
  step : Nat
  fails : Bool := false
  altFails : Bool := false
  hangs : Bool := false
  detail : Nat := 0
  deriving DecidableEq, Repr

/-- The commands of the bridge: one constructor for each row of spec/opcode_table.json. -/
inductive Instr where
  /-- REGISTER_WRITE (R56). -/
  | registerWrite (src : Src) (off len en v64 at_ : Nat)
  /-- PKG_CONFIG_APPLY (R32). -/
  | pkgConfigApply (die : Nat)
  /-- REGISTER_READ_REJECT (R57). -/
  | registerReadReject (src : Src) (off len : Nat)
  /-- RC_FIELD_READ (R59). -/
  | rcFieldRead (src : Src) (off len : Nat)
  /-- PAIR_LO_READ (R63). -/
  | pairLoRead (src : Src) (off len : Nat)
  /-- PKG_LOCK_SET (R72). -/
  | pkgLockSet (src : Src)
  /-- DIE_LOCK_SET (R68). -/
  | dieLockSet (src : Src) (die : Nat)
  /-- TIL_LOCK_SET (R68). -/
  | tilLockSet (src : Src) (port : Nat)
  /-- SCRUB_VISIT (R74). -/
  | scrubVisit (die off : Nat)
  /-- SEAL_PASS_END (R75). -/
  | sealPassEnd (die : Nat)
  /-- SEAL_COMMIT (R76). -/
  | sealCommit (src : Src) (at_ : Nat)
  /-- ACC_ERR_INFO_READ (R79). -/
  | accErrInfoRead (src : Src) (die sub len : Nat)
  /-- PCIE_CONFIG_REQUEST (R90). -/
  | pcieConfigRequest (die : Nat) (req : CfgReq)
  /-- FUNCTION_LEVEL_RESET (R105). -/
  | functionLevelReset (die : Nat)
  /-- FLR_READY (R105). -/
  | flrReady (die : Nat)
  /-- OUTBOUND_READ (R168). -/
  | outboundRead (src : Src) (off : Nat) (en : List Bool)
  /-- OUTBOUND_WRITE (R199). -/
  | outboundWrite (src : Src) (off : Nat) (bytes : List (Option Byte))
  /-- ATOMIC_OP (R212). -/
  | atomicOp (src : Src) (off : Nat) (op : AtomicKind) (size operand compare : Nat)
  /-- PCIE_UNSUPPORTED_REQUEST (R90). -/
  | pcieUnsupportedRequest (src : Src) (posted : Bool) (at_ : Option OddTarget)
  /-- PCIE_MESSAGE (R90). -/
  | pcieMessage (die : Nat) (msg : PcieMsg)
  /-- PCIE_VENDOR_MESSAGE (R90). -/
  | pcieVendorMessage (die : Nat) (type1 : Bool)
  /-- PCIE_COMPLETION_RECEIVED (R90). -/
  | pcieCompletionReceived (die tag : Nat) (status : CplStatus) (poison last : Bool) (data : List Byte)
  /-- PCIE_COMPLETION_TIMEOUT (R93). -/
  | pcieCompletionTimeout (die tag : Nat)
  /-- NP_LIMIT_EXPIRY (R94). -/
  | npLimitExpiry (die id : Nat)
  /-- HOLD_EXPIRY (R99). -/
  | holdExpiry (die id : Nat)
  /-- PCIE_LINK_UP (R450). -/
  | pcieLinkUp (die rate width : Nat) (flit : Bool)
  /-- PCIE_PERST (R105). -/
  | pciePerst (die : Nat)
  /-- PCIE_HOT_RESET (R105). -/
  | pcieHotReset (die : Nat)
  /-- PCIE_LINK_DOWN (R105). -/
  | pcieLinkDown (die : Nat)
  /-- PCIE_LINK_RETRAIN (R105). -/
  | pcieLinkRetrain (die rate width : Nat)
  /-- L0P_NARROW (R103). -/
  | l0pNarrow (die : Nat)
  /-- L0P_WIDEN (R103). -/
  | l0pWiden (die : Nat)
  /-- L0P_PARTNER_REQUEST (R103). -/
  | l0pPartnerRequest (die width : Nat)
  /-- LTR_IDLE_TIMEOUT (R81). -/
  | ltrIdleTimeout (die : Nat)
  /-- BB_FRAME_BAD (R116). -/
  | bbFrameBad (port : Nat) (kind : FrameBad)
  /-- REPEAT_REQUEST_TIMER (R117). -/
  | repeatRequestTimer (port : Nat)
  /-- IDL_RECEIVED (R114). -/
  | idlReceived (port : Nat) (rep : Bool) (rxNext : Nat)
  /-- ACK_IDL_INTERVAL (R115). -/
  | ackIdlInterval (port : Nat)
  /-- SKP_INTERVAL (R113). -/
  | skpInterval (port : Nat)
  /-- REPLAY_STALL_TIMEOUT (R118). -/
  | replayStallTimeout (port : Nat)
  /-- SYN_RECEIVED (R119). -/
  | synReceived (port lane : Nat) (syn : Syn)
  /-- BB_LANE_LOCK (R122). -/
  | bbLaneLock (port lane : Nat)
  /-- RATE_CHANGE_IDLE_END (R122). -/
  | rateChangeIdleEnd (port : Nat)
  /-- EQ_ADAPT_DONE (R122). -/
  | eqAdaptDone (port : Nat)
  /-- DETECT_RETRY (R122). -/
  | detectRetry (port : Nat)
  /-- FAILED_RETRY (R122). -/
  | failedRetry (port : Nat)
  /-- RETRAIN_PARTNER_TIMEOUT (R123). -/
  | retrainPartnerTimeout (port : Nat)
  /-- LANE_LOCK_LOSS (R125). -/
  | laneLockLoss (port lane : Nat)
  /-- HEALTH_WINDOW_END (R125). -/
  | healthWindowEnd (port : Nat)
  /-- BB_LINK_ENABLE (R122). -/
  | bbLinkEnable (src : Src) (port : Nat)
  /-- BB_LINK_DISABLE (R127). -/
  | bbLinkDisable (src : Src) (port : Nat)
  /-- WIDEN (R127). -/
  | widen (src : Src) (port : Nat)
  /-- RETRAIN (R127). -/
  | retrain (src : Src) (port : Nat)
  /-- ADR_RECEIVED (R156). -/
  | adrReceived (port lseq : Nat) (adr : AdrBody)
  /-- DAT_RECEIVED (R142). -/
  | datReceived (port lseq : Nat) (dat : DatBody)
  /-- LCK_RECEIVED (R211). -/
  | lckReceived (port lseq : Nat) (adr : AdrBody)
  /-- ULK_RECEIVED (R149). -/
  | ulkReceived (port lseq : Nat) (h : RoleTag)
  /-- ACK_RECEIVED (R138). -/
  | ackReceived (port lseq : Nat) (h : RoleTag)
  /-- BERR_RECEIVED (R226). -/
  | berrReceived (port lseq : Nat) (h : RoleTag) (code : Nat)
  /-- RTY_RECEIVED (R228). -/
  | rtyReceived (port lseq : Nat) (h : RoleTag) (reason hint : Nat)
  /-- RETRY_WAIT_END (R228). -/
  | retryWaitEnd (port : Nat)
  /-- RETRY_START_DECAY (R229). -/
  | retryStartDecay (port : Nat)
  /-- UNKNOWN_TYPE_DISCARD (R147). -/
  | unknownTypeDiscard (port : Nat) (p : OddPacket)
  /-- IRQ_RECEIVED (R219). -/
  | irqReceived (port lseq : Nat) (assert_ roak : Bool) (level vector : Nat)
  /-- IAK_RECEIVED (R152). -/
  | iakReceived (port lseq level vector : Nat)
  /-- IAK_SEND (R153). -/
  | iakSend (src : Src) (port level : Nat)
  /-- BUS_TIMER_EXPIRY (R155). -/
  | busTimerExpiry (port : Nat) (asInitiator : Bool)
  /-- QUIET_PERIOD_END (R159). -/
  | quietPeriodEnd (port : Nat)
  /-- TGT_LIMIT_EXPIRY (R158). -/
  | tgtLimitExpiry (port : Nat)
  /-- WINDOW_WRITE (R165). -/
  | windowWrite (src : Src) (inb : Bool) (w word v at_ : Nat)
  /-- WINDOW_DISABLE (R167). -/
  | windowDisable (src : Src) (inb : Bool) (w at_ : Nat)
  /-- PAGE_LINE_READ_DONE (R171). -/
  | pageLineReadDone (die id : Nat) (entries : Option (List Nat))
  /-- TC_INVAL_WINDOW (R172). -/
  | tcInvalWindow (src : Src) (inb tableB : Bool) (w at_ : Nat)
  /-- TC_INVAL_ALL (R172). -/
  | tcInvalAll (src : Src) (at_ : Nat)
  /-- TC_INVAL_PAGE_ONLY (R172). -/
  | tcInvalPageOnly (src : Src) (inb tableB : Bool) (w at_ : Nat)
  /-- TC_SWITCH (R190). -/
  | tcSwitch (src : Src) (group at_ : Nat)
  /-- WC_HOLD_EXPIRY (R182). -/
  | wcHoldExpiry (port idx : Nat)
  /-- PREFETCH_AGE_EXPIRY (R185). -/
  | prefetchAgeExpiry (port idx : Nat)
  /-- TC_PFD_READ (R189). -/
  | tcPfdRead (src : Src) (die : Nat)
  /-- MIRE_CLEAR (R206). -/
  | mireClear (src : Src) (inb : Bool) (w : Nat)
  /-- SEM_TAKE (R215). -/
  | semTake (src : Src) (n : Nat)
  /-- SEM_GIVE (R215). -/
  | semGive (src : Src) (n : Nat)
  /-- SEM_FORCE (R214). -/
  | semForce (src : Src) (n : Nat)
  /-- LOCK_TIMEOUT (R214). -/
  | lockTimeout (n : Nat)
  /-- RESERVATION_EXPIRY (R210). -/
  | reservationExpiry (n : Nat)
  /-- IRQ_ENTRY_WRITE (R218). -/
  | irqEntryWrite (src : Src) (off v at_ : Nat)
  /-- IRQ_BBOUT_PEND_READ (R222). -/
  | irqBboutPendRead (src : Src) (port level sub len : Nat)
  /-- MSIX_MOD_EXPIRY (R223). -/
  | msixModExpiry (entry : IrqEntry)
  /-- NMI_RECEIVED (R224). -/
  | nmiReceived (die : Nat)
  /-- NMI_CAUSE_READ (R225). -/
  | nmiCauseRead (src : Src) (sub len : Nat)
  /-- ERR_READ (R231). -/
  | errRead (src : Src) (die : Nat)
  /-- EVENT_ARRIVE (R232): the home goes on with the entry it is writing or takes the next event of a die; of an entry, `words` words are written
  in this step, the last with its end mark (R254). `upset` tells a fault of a credit count just before (R264): die, queue, words too many. -/
  | eventArrive (e : EventStep)
  /-- EVQ_READ (R234). -/
  | evqRead (src : Src)
  /-- EVQ_HOST_RD_WRITE (R234). -/
  | evqHostRdWrite (src : Src) (v : Nat)
  /-- PROT_PENDING_WRITE (R248). -/
  | protPendingWrite (src : Src) (off v at_ : Nat)
  /-- PROT_COMMIT (R249). -/
  | protCommit (src : Src) (at_ : Nat)
  /-- PROT_DISCARD (R249). -/
  | protDiscard (src : Src) (at_ : Nat)
  /-- PROT_VIO_CLEAR (R246). -/
  | protVioClear (src : Src) (u : Nat)
  /-- QUEUE_FLUSH (R266). -/
  | queueFlush (src : Src) (die q : Nat)
  /-- QUEUE_TAIL_TIMEOUT (R265). -/
  | queueTailTimeout (die q : Nat)
  /-- QUEUE_POINTER_MISMATCH (R268). -/
  | queuePointerMismatch (die q : Nat)
  /-- POOL_CONFIG_WRITE (R273). -/
  | poolConfigWrite (src : Src) (p word v at_ : Nat)
  /-- POOL_ENABLE (R274). -/
  | poolEnable (src : Src) (p at_ : Nat)
  /-- POOL_DISABLE (R274). -/
  | poolDisable (src : Src) (p at_ : Nat)
  /-- POOL_GET (R283). -/
  | poolGet (src : Src) (p owner : Nat)
  /-- POOL_SHARE (R283). -/
  | poolShare (src : Src) (p owner newOwner : Nat)
  /-- POOL_RELEASE (R283). -/
  | poolRelease (src : Src) (p owner : Nat)
  /-- POOL_FREE (R283). -/
  | poolFree (src : Src) (p owner : Nat)
  /-- POOL_CMD_BAD_OP (R284). -/
  | poolCmdBadOp (src : Src) (op p : Nat)
  /-- POOL_REFILL_DONE (R278). -/
  | poolRefillDone (p : Nat) (entries : Option (List Nat))
  /-- POOL_STATE_READ_DONE (R284). -/
  | poolStateReadDone (p id : Nat) (entry : Option Nat)
  /-- RING_CONFIG_WRITE (R292). -/
  | ringConfigWrite (src : Src) (ring word v at_ : Nat)
  /-- RING_ENABLE (R293). -/
  | ringEnable (src : Src) (ring at_ : Nat)
  /-- RING_DISABLE (R293). -/
  | ringDisable (src : Src) (ring at_ : Nat)
  /-- DOORBELL (R295). -/
  | doorbell (src : Src) (ring : Nat) (bar2 : Bool) (pageOff len en value : Nat)
  /-- DESCRIPTOR_FETCH_DONE (R296). -/
  | descriptorFetchDone (ring fail : Nat) (bytes : List Byte)
  /-- NOP (R298). -/
  | nop (ring : Nat)
  /-- COPY (R299). -/
  | copy (ring : Nat)
  /-- FILL (R299). -/
  | fill (ring : Nat)
  /-- RECORD (R300). -/
  | record (ring : Nat)
  /-- PLAYBACK (R303). -/
  | playback (ring : Nat)
  /-- TABLE_SWITCH (R304). -/
  | tableSwitch (ring : Nat)
  /-- TABLE_SWITCH_DRAINED (R304). -/
  | tableSwitchDrained (ring : Nat)
  /-- FENCE (R305). -/
  | fence (ring : Nat)
  /-- FENCE_SATISFIED (R305). -/
  | fenceSatisfied (ring : Nat)
  /-- FENCE_TIMEOUT (R305). -/
  | fenceTimeout (ring : Nat)
  /-- RING_NOTE_TAIL_EXPIRY (R317). -/
  | ringNoteTailExpiry (ring : Nat)
  /-- RING_CPL_RD_WRITE (R316). -/
  | ringCplRdWrite (src : Src) (ring v : Nat)
  /-- RING_STOP (R318). -/
  | ringStop (src : Src) (ring : Nat)
  /-- RING_RESUME (R318). -/
  | ringResume (src : Src) (ring : Nat)
  /-- RING_RESET (R318). -/
  | ringReset (src : Src) (ring : Nat)
  /-- RING_RESET_DONE (R318). -/
  | ringResetDone (ring : Nat)
  /-- MOVER_RESET (R319). -/
  | moverReset (src : Src) (die m : Nat)
  /-- STRIPE_CONFIG_WRITE (R308). -/
  | stripeConfigWrite (src : Src) (s word v at_ : Nat)
  /-- TAP_CONFIG_WRITE (R325). -/
  | tapConfigWrite (src : Src) (t word v at_ : Nat)
  /-- TAP_RESTART (R338). -/
  | tapRestart (src : Src) (t : Nat)
  /-- TAP_FINISH (R328). -/
  | tapFinish (t : Nat)
  /-- TAP_SHED (R335). -/
  | tapShed (t : Nat)
  /-- TAP_LOG_RD_WRITE (R337). -/
  | tapLogRdWrite (src : Src) (t v : Nat)
  /-- TIL_BOND_WRITE (R345). -/
  | tilBondWrite (src : Src) (port v : Nat)
  /-- BOND_BREAK (R351). -/
  | bondBreak (src : Src) (port : Nat)
  /-- EVACUATE (R354). -/
  | evacuate (src : Src) (port : Nat)
  /-- EVACUATION_DRAINED (R354). -/
  | evacuationDrained (port : Nat)
  /-- TILE_RETURN (R354). -/
  | tileReturn (src : Src) (port : Nat)
  /-- TILE_RESET (R357). -/
  | tileReset (src : Src) (port : Nat)
  /-- TILE_RESET_DONE (R357). -/
  | tileResetDone (port : Nat) (ok : Bool)
  /-- RECAL (R367). -/
  | recal (src : Src) (port : Nat)
  /-- TILE_FAULT (R355). -/
  | tileFault (port : Nat)
  /-- DIE_RESET (R358). -/
  | dieReset (src : Src) (die : Nat)
  /-- DIE_RESET_DRAINED (R358). -/
  | dieResetDrained (die badBanks : Nat)
  /-- LEAD_HANDOFF (R364). -/
  | leadHandoff (src : Src) (die : Nat)
  /-- HANDOFF_TIMEOUT (R364). -/
  | handoffTimeout
  /-- MC_RESTART (R365). -/
  | mcRestart (src : Src) (die image : Nat)
  /-- MC_REJOIN (R365). -/
  | mcRejoin (die : Nat) (loaded : Option Nat)
  /-- PLL_SWAP (R366). -/
  | pllSwap (src : Src) (die : Nat)
  /-- PLL_LOCK (R376). -/
  | pllLock (die : Nat) (which : Pll)
  /-- HEARTBEAT_SEND (R362). -/
  | heartbeatSend (die : Nat)
  /-- HEARTBEAT_RECEIVED (R362). -/
  | heartbeatReceived (die from_ : Nat)
  /-- HEARTBEAT_MISS (R362). -/
  | heartbeatMiss (die from_ : Nat)
  /-- LEAD_CLAIM_RECEIVED (R363). -/
  | leadClaimReceived (die claimant : Nat)
  /-- SRAM_UNCORRECTABLE (R359). -/
  | sramUncorrectable (die bank : Nat)
  /-- SRAM_CORRECTED (R359). -/
  | sramCorrected (die : Nat)
  /-- MORTAR_PACKET_RECEIVED (R39). -/
  | mortarPacketReceived (die link : Nat) (pkt : MortarPkt)
  /-- MORTAR_LINK_FAIL (R40). -/
  | mortarLinkFail (die link : Nat)
  /-- MORTAR_DEGRADE (R41). -/
  | mortarDegrade (die link : Nat)
  /-- CLOCK_MONITOR_RESULT (R387). -/
  | clockMonitorResult (die : Nat) (mon : ClockMon) (count : Nat)
  /-- ARBITRATION_RESULT (R391). -/
  | arbitrationResult (die count : Nat)
  /-- PLL_REFERENCE_LOSS (R377). -/
  | pllReferenceLoss (die : Nat) (pll : Pll)
  /-- MUX_HANG (R386). -/
  | muxHang (die : Nat) (mux : MuxId) (edges : Bool)
  /-- FIO_CAL_DONE (R389). -/
  | fioCalDone (die khz : Nat)
  /-- SLEEP_ENTER (R396). -/
  | sleepEnter (src : Src) (die : Nat)
  /-- WAKE_EVENT (R397). -/
  | wakeEvent (die : Nat) (cause : WakeCause)
  /-- WAKE_TIMER_EXPIRY (R397). -/
  | wakeTimerExpiry (die : Nat)
  /-- TEMP_SAMPLE (R406). -/
  | tempSample (die : Nat) (t : Int)
  /-- RAIL_UNDERVOLTAGE (R404). -/
  | railUndervoltage (die rail : Nat)
  /-- PKG_RESET (R418). -/
  | pkgReset (cold : Bool)
  /-- PKG_RESET_RELEASE (R420). -/
  | pkgResetRelease (board : List (Nat × Nat × Byte)) (hw : List BootFact)
  /-- BOOT_STEP_TIMEOUT (R427). -/
  | bootStepTimeout (die : Nat)
  /-- FAILED_START_RESET (R428). -/
  | failedStartReset (hw : List BootFact)
  /-- FLASH_READ (R430). -/
  | flashRead (src : Src) (die : Nat)
  /-- FLASH_ERASE (R430). -/
  | flashErase (src : Src) (die : Nat)
  /-- FLASH_PROGRAM (R430). -/
  | flashProgram (src : Src) (die : Nat)
  /-- FLASH_COMMAND_COMPLETE (R430). -/
  | flashCommandComplete (die : Nat) (ok : Bool)
  /-- FLASH_COMMAND_TIMEOUT (R430). -/
  | flashCommandTimeout (die : Nat)
  /-- MARK_A (R438). -/
  | markA (src : Src) (die : Nat)
  /-- MARK_B (R438). -/
  | markB (src : Src) (die : Nat)
  /-- READMIT (R428). -/
  | readmit (src : Src) (die mask : Nat)
  /-- PRESENCE_REMOVE (R410). -/
  | presenceRemove (port : Nat)
  /-- PRESENCE_DEBOUNCE (R408). -/
  | presenceDebounce (port : Nat)
  /-- MP_EN_WRITE (R408). -/
  | mpEnWrite (src : Src) (port : Nat) (en : Bool)
  /-- MP_CLEAR (R409). -/
  | mpClear (src : Src) (port : Nat)
  /-- MP_POWER_GOOD (R408). -/
  | mpPowerGood (port : Nat)
  /-- MP_DISCHARGED (R408). -/
  | mpDischarged (port : Nat)
  /-- SHORT (R409). -/
  | short (port : Nat)
  /-- OVERCURRENT (R409). -/
  | overcurrent (port : Nat)
  /-- PG_TIMEOUT (R409). -/
  | pgTimeout (port : Nat)
  /-- UNDERVOLTAGE (R409). -/
  | undervoltage (port : Nat)
  /-- DISCHARGE_TIMEOUT (R409). -/
  | dischargeTimeout (port : Nat)
  /-- EXTEST (R414). -/
  | extest (die : Nat)
  /-- SAMPLE_PRELOAD (R413). -/
  | samplePreload (die : Nat)
  /-- IDCODE (R413). -/
  | idcode (die : Nat)
  /-- CLAMP (R414). -/
  | clamp (die : Nat)
  /-- HIGHZ (R414). -/
  | highz (die : Nat)
  /-- BYPASS (R413). -/
  | bypass (die : Nat)
  /-- MONITOR_LEVEL_SAMPLE (R443). -/
  | monitorLevelSample (die slot : Nat)
  /-- MONITOR_CLEAR (R447). -/
  | monitorClear (src : Src) (die slot : Nat)
  /-- MONITOR_SOURCE_WRITE (R447). -/
  | monitorSourceWrite (src : Src) (die slot v : Nat)
  /-- PRESENCE_INSERT (R408). -/
  | presenceInsert (port : Nat)
  /-- PERST_RELEASE (R450). -/
  | perstRelease (die : Nat)
  /-- RAIL_RESTORED (R404). -/
  | railRestored (board : List (Nat × Nat × Byte)) (hw : List BootFact)
  /-- LANE_RECALIBRATION_DONE (R367). -/
  | laneRecalibrationDone (port badLanes : Nat)
  /-- PCIE_L1_ENTRY (R102). -/
  | pcieL1Entry (die state : Nat)
  /-- PCIE_L1_EXIT (R102). -/
  | pcieL1Exit (die : Nat)
  deriving DecidableEq, Repr

end Sys2Proof
end

