-- ==== Sys2Proof/Config.lean ====
section
/-!
DEFINITION. What an implementation fixes and the values the spec leaves open: constants without a body, so that nothing can be proved
about a particular value of them (log entry 4).
-/

namespace Sys2Proof.Config

/-- What fixes the device serial number at manufacture (R83). -/
opaque serialSeed : Nat

/-- The device serial number (R83): 64 bits without structure, neither all zeros nor all ones. -/
def serialNumber : BitVec 64 := BitVec.ofNat 64 (serialSeed % (2 ^ 64 - 2) + 1)

/-- The sample count that lane margining reports (R106). -/
opaque marginSamples : BitVec 7

/-- A value that the spec leaves open, drawn by the counter `free` of the state: a measured latency, load or level. -/
opaque freeValue : Nat → BitVec 32

/-- The count of ring words that an item of a tile's command chain takes (R259 gives 1 to 16). -/
opaque chainWords : Nat → BitVec 4

/-- Word `k` of such an item, whose layout the spec leaves to the engine (R253): item and place. -/
opaque chainWord : Nat → Nat → BitVec 32

/-- The code of the variant in the DETAIL of a START record (R436), by number of dies. -/
opaque ledgerVariant : Nat → BitVec 32

/-- The transmit preset that a SYN asks for on a lane without a saved value (R119, R130). -/
opaque defaultPreset : BitVec 4

/-- What configuration space reads where the PCI Express standard, and not the spec, gives the value (R87): die and byte offset of
the DWORD. -/
opaque standardConfig : Nat → Nat → BitVec 32

/-- What such a DWORD holds after a write of a value over a value (R87): byte offset, old value, written value. -/
opaque standardWrite : Nat → BitVec 32 → BitVec 32 → BitVec 32

end Sys2Proof.Config
end

