-- ==== Sys2Proof/Machine/RegMap.lean ====
section
/-!
DEFINITION. The control map as data: every register of spec/01 to spec/18 with its block, offset, repetition and fields
(access type R16, protection mark R17, reset value). A field value that the spec resets to nothing stands at 0 here and is named in
log entry 7; values that differ by variant or by die are put in place by `Loc.resetWord` of Machine/Bits.lean.
-/

namespace Sys2Proof.Machine

/-- The registers of the control map, by the names of the manual. -/
inductive RegId where
  | PKG_ID | PKG_LOCK | PKG_BB_CTRL_BASE_LO | PKG_BB_CTRL_BASE_HI | PKG_BB_CTRL_PORTS_LO
  | PKG_BB_CTRL_PORTS_HI | PKG_SEAL_CTRL | PKG_SEAL_STAT | PKG_SEAL_VALUE | PROT_CTL | PROT_EPOCH
  | PROT_DRAIN | PROT_DEFAULT | PROT_BIND | PROT_VIO_INFO | PROT_VIO_ADDR_LO | PROT_VIO_ADDR_HI
  | PROT_VIO_DETAIL | PROT_VIO_REQ | PROT_VIO_LEN | PROT_VIO_DENIED | PROT_VIO_CLR | PROT_RGN_BASE_LO
  | PROT_RGN_BASE_HI | PROT_RGN_LIMIT_LO | PROT_RGN_LIMIT_HI | SEM_STAT | SEM_CTL | SEM_SW | SEM_CNT
  | IRQ_BBIN_CTL | IRQ_BBIN_TGT | IRQ_CLASS_CTL | IRQ_CLASS_TGT | IRQ_RING_CTL | IRQ_RING_TGT | IRQ_NMI_CTL
  | IRQ_NMI_CAUSE | IRQ_BBOUT_PEND | POOL_TOTAL_LO | POOL_TOTAL_HI | POOL_CMD | POOL_ARG_LO | POOL_ARG_HI
  | POOL_RES_LO | POOL_RES_HI | POOL_RES_STAT | POOL_CTL | POOL_SIZE | POOL_COUNT | POOL_TARGET
  | POOL_BASE_LO | POOL_BASE_HI | POOL_STATE_LO | POOL_STATE_HI | POOL_RING_LO | POOL_RING_HI | POOL_FREE
  | POOL_RING_RD | POOL_RING_WR | POOL_STAT | POOL_REJECT | POOL_RESV | POOL_CHG | RING_CTL | RING_NOTE
  | RING_DESC_LO | RING_DESC_HI | RING_CPL_LO | RING_CPL_HI | RING_PTR | RING_DB | RING_CPL_PTR | RING_STAT
  | RING_CMD | RING_ERR_IDX | STRIPE_CTL | STRIPE_OFF_LO | STRIPE_OFF_HI | STRIPE_PORTS | PLAY_CONCEAL_LO
  | PLAY_CONCEAL_HI | TAP_CTL | TAP_GEOM | TAP_LOG_LO | TAP_LOG_HI | TAP_LOG_CTL | TAP_LOG_PTR | TAP_STAT
  | TAP_PREV_LO | TAP_PREV_HI | TAP_CMD | TAP_OFF2 | TAP_OFF4 | TAP_OFFA | TAP_LEN | TAP_ERR | MOV_CTL
  | MOV_STAT | MOV_ERR | WIN_O_CTL | WIN_O_PF | WIN_O_BASE_LO | WIN_O_BASE_HI | WIN_O_LIMIT_LO
  | WIN_O_LIMIT_HI | WIN_O_TARGET_LO | WIN_O_TARGET_HI | WIN_O_PTA_LO | WIN_O_PTA_HI | WIN_O_PTB_LO
  | WIN_O_PTB_HI | WIN_O_ROUTE | WIN_O_STAT | WIN_I_CTL | WIN_I_PF | WIN_I_BASE_LO | WIN_I_BASE_HI
  | WIN_I_LIMIT_LO | WIN_I_LIMIT_HI | WIN_I_TARGET_LO | WIN_I_TARGET_HI | WIN_I_PTA_LO | WIN_I_PTA_HI
  | WIN_I_PTB_LO | WIN_I_PTB_HI | WIN_I_ROUTE | WIN_I_STAT | WIN_I_PORTS_LO | WIN_I_PORTS_HI | MON_CTL
  | MON_SRC | MON_SAMPLE | MON_THRESH | MON_STAT | MON_MIN | MON_MAX | MON_COUNT | MON_SUM_LO | MON_SUM_HI
  | MON_BIN | ERR_READ | ERR_STAT | ERR_MIRE_CLR | ERR_MIRE_COUNT | ERR_DEF_INFO | ERR_DEF_NEAR_LO
  | ERR_DEF_NEAR_HI | ERR_DEF_FAR_LO | ERR_DEF_FAR_HI | ERR_DEF_FAIL | ERR_DEF_REQ | ERR_DEF_DONE | EVQ_READ
  | EVQ_STAT | EVQ_CTL | EVQ_HOST_BASE_LO | EVQ_HOST_BASE_HI | EVQ_HOST_WR | EVQ_HOST_RD | DIE_LOCK
  | DIE_PROT_STAT | DIE_ACC_ERR_ADDR_LO | DIE_ACC_ERR_ADDR_HI | DIE_ACC_ERR_INFO | DIE_SVC | DIE_SVC_STAT
  | DIE_SRAM_STAT | DIE_Q_CFG | DIE_Q_CAP | DIE_Q_DEPTH | DIE_Q_COUNT | DIE_Q_STAT | DIE_Q_CTL | CLK_CTL
  | CLK_STAT | CLK_FIO_CAL | CLK_MON_CNT | CLK_LOOP_CNT | CLK_EVENT | CLK_SLEEP | CLK_WAKE | PWR_GATE
  | PWR_TEMP | PWR_MP_CTL | PWR_MP_STAT | PWR_MP_MEAS | PX_LINK_STAT | PX_CTRL | PX_L0P | PX_OUT | PX_EVENT
  | PX_ERR_COUNT | MSIX_PBA | MSIX_ADDR_LO | MSIX_ADDR_HI | MSIX_DATA | MSIX_VCTL | MOR_LINK_STAT
  | MC_BOOT_STAT | MC_BOOT_ALT | MC_BOOT_SKIP | MC_BOOT_COUNT | MC_FLASH_STAT | MC_LEDGER_CTL | MC_FLASH_ADDR
  | MC_FLASH_CMD | MC_FLASH_RES | MC_ROLE | MC_HB | MC_FLASH_BUF | TC_SWITCH | TC_SWITCH_STAT | TC_INVAL
  | TC_INVAL_PAGE | TC_PFD_READ | TC_PFD_STAT | TIL_LOCK | TIL_ARB | TIL_SVC | TIL_SVC_STAT | TIL_BOND
  | BB_LINK_CTRL | BB_LINK_STAT | BB_LANE_STAT | BB_LINK_THRESH | BB_LINK_ERR | BB_LINK_EVENT | BB_LANE_CVA
  | BB_LANE_CVB | BB_TXN_CTRL | BB_TXN_STAT | BB_TXN_EVENT | BB_TXN_ERR | BB_IRQ_RX | BB_IRQ_VECA
  | BB_IRQ_VECB | BB_IRQ_IAK | BB_IRQ_TX | BB_RETRY_CTL | BB_RETRY_TAB_LO | BB_RETRY_TAB_HI
  deriving DecidableEq, Repr

/-- Access type of a field (R16). MW has no field in the map: no register of the spec carries it. -/
inductive FTy where
  | rw | ro | rc | lk | wo
  deriving DecidableEq, Repr

/-- Who keeps a register: a replica on every die (R32, configuration), one home (R33, running state), a die or a tile. -/
inductive Owner where
  | cfg | run | die | tile
  deriving DecidableEq, Repr

/-- One field: its bits, its type, whether it is marked P (R17), and its reset value. -/
structure FieldSpec where
  hi : Nat
  lo : Nat
  ty : FTy
  prot : Bool
  reset : Nat
  deriving DecidableEq, Repr

/-- Where a register block lies (R46 to R49). -/
inductive Block where
  | pkg | die | tile
  deriving DecidableEq, Repr

/-- One register: its block, its keeper, its offset in the block, its repetition (count, stride; outermost first), its fields. -/
structure RegSpec where
  block : Block
  owner : Owner
  base : Nat
  dims : List (Nat × Nat)
  fields : List FieldSpec
  deriving DecidableEq, Repr

/-! Short names for rows of the tables: a field of each type, with a P when it is protected, and a register of each keeper. -/
abbrev rw (hi lo reset : Nat) : FieldSpec := ⟨hi, lo, .rw, false, reset⟩
abbrev rwP (hi lo reset : Nat) : FieldSpec := ⟨hi, lo, .rw, true, reset⟩
abbrev ro (hi lo reset : Nat) : FieldSpec := ⟨hi, lo, .ro, false, reset⟩
abbrev roP (hi lo reset : Nat) : FieldSpec := ⟨hi, lo, .ro, true, reset⟩
abbrev rc (hi lo reset : Nat) : FieldSpec := ⟨hi, lo, .rc, false, reset⟩
abbrev rcP (hi lo reset : Nat) : FieldSpec := ⟨hi, lo, .rc, true, reset⟩
abbrev lk (hi lo reset : Nat) : FieldSpec := ⟨hi, lo, .lk, false, reset⟩
abbrev lkP (hi lo reset : Nat) : FieldSpec := ⟨hi, lo, .lk, true, reset⟩
abbrev wo (hi lo reset : Nat) : FieldSpec := ⟨hi, lo, .wo, false, reset⟩
abbrev woP (hi lo reset : Nat) : FieldSpec := ⟨hi, lo, .wo, true, reset⟩
abbrev cfgReg (base : Nat) (dims : List (Nat × Nat)) (fields : List FieldSpec) : RegSpec := ⟨.pkg, .cfg, base, dims, fields⟩
abbrev runReg (base : Nat) (dims : List (Nat × Nat)) (fields : List FieldSpec) : RegSpec := ⟨.pkg, .run, base, dims, fields⟩
abbrev dieReg (base : Nat) (dims : List (Nat × Nat)) (fields : List FieldSpec) : RegSpec := ⟨.die, .die, base, dims, fields⟩
abbrev tileReg (base : Nat) (dims : List (Nat × Nat)) (fields : List FieldSpec) : RegSpec := ⟨.tile, .tile, base, dims, fields⟩
/-- PKG_ID: spec/02 R51. -/
def PKG_ID.spec : RegSpec := runReg 0x0 []
  [ro 31 16 3592, ro 11 8 1, ro 7 4 8, ro 2 0 0]
/-- PKG_LOCK: spec/02 R72. -/
def PKG_LOCK.spec : RegSpec := runReg 0x10 []
  [ro 15 8 0, lk 0 0 0]
/-- PKG_BB_CTRL_BASE_LO: spec/02 R55. -/
def PKG_BB_CTRL_BASE_LO.spec : RegSpec := cfgReg 0x20 []
  [lkP 31 27 0, lkP 0 0 0]
/-- PKG_BB_CTRL_BASE_HI: spec/02 R55. -/
def PKG_BB_CTRL_BASE_HI.spec : RegSpec := cfgReg 0x24 []
  [lkP 15 0 0]
/-- PKG_BB_CTRL_PORTS_LO: spec/02 R55. -/
def PKG_BB_CTRL_PORTS_LO.spec : RegSpec := cfgReg 0x28 []
  [lkP 31 0 0]
/-- PKG_BB_CTRL_PORTS_HI: spec/02 R55. -/
def PKG_BB_CTRL_PORTS_HI.spec : RegSpec := cfgReg 0x2c []
  [lkP 31 0 0]
/-- PKG_SEAL_CTRL: spec/02 R78. -/
def PKG_SEAL_CTRL.spec : RegSpec := cfgReg 0x60 []
  [wo 0 0 0]
/-- PKG_SEAL_STAT: spec/02 R78. -/
def PKG_SEAL_STAT.spec : RegSpec := runReg 0x64 []
  [rc 31 24 0, ro 23 16 0, ro 15 8 0, rc 7 0 0]
/-- PKG_SEAL_VALUE: spec/02 R78. -/
def PKG_SEAL_VALUE.spec : RegSpec := runReg 0x80 [(8, 4)]
  [ro 31 0 0]
/-- PROT_CTL: spec/09 R252. -/
def PROT_CTL.spec : RegSpec := cfgReg 0x10000 []
  [ro 31 31 0, wo 1 1 0, wo 0 0 0]
/-- PROT_EPOCH: spec/09 R252. -/
def PROT_EPOCH.spec : RegSpec := cfgReg 0x10004 []
  [ro 15 0 0]
/-- PROT_DRAIN: spec/09 R252. -/
def PROT_DRAIN.spec : RegSpec := runReg 0x10008 []
  [ro 7 0 255]
/-- PROT_DEFAULT: spec/09 R252. -/
def PROT_DEFAULT.spec : RegSpec := cfgReg 0x1000c []
  [rwP 14 12 7, rwP 11 9 6, rwP 8 6 7, rwP 5 3 6, rwP 2 0 6]
/-- PROT_BIND: spec/09 R252. -/
def PROT_BIND.spec : RegSpec := cfgReg 0x10400 [(256, 4)]
  [rwP 5 0 0]
/-- PROT_VIO_INFO: spec/09 R252. -/
def PROT_VIO_INFO.spec : RegSpec := runReg 0x11000 [(256, 32)]
  [ro 31 31 0, ro 30 28 0, ro 27 27 0, ro 26 26 0, ro 25 23 0, ro 22 18 0, ro 17 12 0, ro 7 0 0]
/-- PROT_VIO_ADDR_LO: spec/09 R252. -/
def PROT_VIO_ADDR_LO.spec : RegSpec := runReg 0x11004 [(256, 32)]
  [ro 31 0 0]
/-- PROT_VIO_ADDR_HI: spec/09 R252. -/
def PROT_VIO_ADDR_HI.spec : RegSpec := runReg 0x11008 [(256, 32)]
  [ro 31 0 0]
/-- PROT_VIO_DETAIL: spec/09 R252. -/
def PROT_VIO_DETAIL.spec : RegSpec := runReg 0x1100c [(256, 32)]
  [ro 31 12 0, ro 11 6 0, ro 5 4 0, ro 3 3 0]
/-- PROT_VIO_REQ: spec/09 R252. -/
def PROT_VIO_REQ.spec : RegSpec := runReg 0x11010 [(256, 32)]
  [ro 31 16 0, ro 15 0 0]
/-- PROT_VIO_LEN: spec/09 R252. -/
def PROT_VIO_LEN.spec : RegSpec := runReg 0x11014 [(256, 32)]
  [ro 16 0 0]
/-- PROT_VIO_DENIED: spec/09 R252. -/
def PROT_VIO_DENIED.spec : RegSpec := runReg 0x11018 [(256, 32)]
  [ro 16 0 0]
/-- PROT_VIO_CLR: spec/09 R252. -/
def PROT_VIO_CLR.spec : RegSpec := runReg 0x1101c [(256, 32)]
  [wo 0 0 0]
/-- PROT_RGN_BASE_LO: spec/09 R252. -/
def PROT_RGN_BASE_LO.spec : RegSpec := cfgReg 0x18000 [(2048, 16)]
  [rwP 31 12 0, rwP 11 11 0, rwP 10 8 0, rwP 7 6 0, rwP 5 0 0]
/-- PROT_RGN_BASE_HI: spec/09 R252. -/
def PROT_RGN_BASE_HI.spec : RegSpec := cfgReg 0x18004 [(2048, 16)]
  [rwP 31 0 0]
/-- PROT_RGN_LIMIT_LO: spec/09 R252. -/
def PROT_RGN_LIMIT_LO.spec : RegSpec := cfgReg 0x18008 [(2048, 16)]
  [rwP 31 12 0, rwP 11 11 0, rwP 10 10 0, rwP 5 5 0, rwP 4 4 0, rwP 3 3 0, rwP 2 2 0, rwP 1 1 0, rwP 0 0 0]
/-- PROT_RGN_LIMIT_HI: spec/09 R252. -/
def PROT_RGN_LIMIT_HI.spec : RegSpec := cfgReg 0x1800c [(2048, 16)]
  [rwP 31 0 0]
/-- SEM_STAT: spec/07 R216. -/
def SEM_STAT.spec : RegSpec := runReg 0x20000 [(64, 16)]
  [ro 31 31 0, ro 30 29 0, ro 21 16 0, ro 15 15 0, ro 13 8 0, ro 7 0 0]
/-- SEM_CTL: spec/07 R216. -/
def SEM_CTL.spec : RegSpec := cfgReg 0x20004 [(64, 16)]
  [rwP 31 16 100, rwP 15 8 20, wo 0 0 0]
/-- SEM_SW: spec/07 R216. -/
def SEM_SW.spec : RegSpec := runReg 0x20008 [(64, 16)]
  [wo 1 1 0, wo 0 0 0]
/-- SEM_CNT: spec/07 R216. -/
def SEM_CNT.spec : RegSpec := runReg 0x2000c [(64, 16)]
  [rc 31 16 0, rc 15 8 0, rc 7 0 0]
/-- IRQ_BBIN_CTL: spec/08 R217. -/
def IRQ_BBIN_CTL.spec : RegSpec := cfgReg 0x30000 [(512, 8)]
  [rwP 31 31 0, rwP 30 30 0, rwP 29 28 0, rwP 27 27 0, rwP 15 0 0]
/-- IRQ_BBIN_TGT: spec/08 R217. -/
def IRQ_BBIN_TGT.spec : RegSpec := cfgReg 0x30004 [(512, 8)]
  [rwP 29 24 0, rwP 22 20 0, rwP 18 16 0, rwP 10 0 0]
/-- IRQ_CLASS_CTL: spec/08 R217. -/
def IRQ_CLASS_CTL.spec : RegSpec := cfgReg 0x31000 [(64, 8)]
  [rwP 31 31 0, rwP 30 30 0, rwP 29 28 0, rwP 27 27 0, rwP 15 0 0]
/-- IRQ_CLASS_TGT: spec/08 R217. -/
def IRQ_CLASS_TGT.spec : RegSpec := cfgReg 0x31004 [(64, 8)]
  [rwP 29 24 0, rwP 22 20 0, rwP 18 16 0, rwP 10 0 0]
/-- IRQ_RING_CTL: spec/08 R217. -/
def IRQ_RING_CTL.spec : RegSpec := cfgReg 0x32000 [(1024, 8)]
  [rwP 31 31 0, rwP 30 30 0, rwP 29 28 0, rwP 27 27 0, rwP 15 0 0]
/-- IRQ_RING_TGT: spec/08 R217. -/
def IRQ_RING_TGT.spec : RegSpec := cfgReg 0x32004 [(1024, 8)]
  [rwP 29 24 0, rwP 22 20 0, rwP 18 16 0, rwP 10 0 0]
/-- IRQ_NMI_CTL: spec/08 R225. -/
def IRQ_NMI_CTL.spec : RegSpec := cfgReg 0x38000 []
  [lkP 7 0 255]
/-- IRQ_NMI_CAUSE: spec/08 R225. -/
def IRQ_NMI_CAUSE.spec : RegSpec := runReg 0x38004 []
  [rc 31 31 0, rc 23 16 0, rc 6 6 0, rc 5 5 0, rc 4 4 0, rc 3 3 0, rc 2 2 0, rc 1 1 0, rc 0 0 0]
/-- IRQ_BBOUT_PEND: spec/08 R222. -/
def IRQ_BBOUT_PEND.spec : RegSpec := runReg 0x39000 [(512, 4)]
  [ro 31 31 0, ro 30 30 0, ro 26 26 0, ro 25 16 0, ro 7 0 0]
/-- POOL_TOTAL_LO: spec/11 R290. -/
def POOL_TOTAL_LO.spec : RegSpec := runReg 0x40000 []
  [ro 31 0 0]
/-- POOL_TOTAL_HI: spec/11 R290. -/
def POOL_TOTAL_HI.spec : RegSpec := runReg 0x40004 []
  [ro 31 0 0]
/-- POOL_CMD: spec/11 R290. -/
def POOL_CMD.spec : RegSpec := runReg 0x40100 []
  [wo 31 28 0, wo 27 20 0, wo 10 8 0, wo 2 0 0]
/-- POOL_ARG_LO: spec/11 R290. -/
def POOL_ARG_LO.spec : RegSpec := runReg 0x40108 []
  [rw 31 0 0]
/-- POOL_ARG_HI: spec/11 R290. -/
def POOL_ARG_HI.spec : RegSpec := runReg 0x4010c []
  [rw 31 0 0]
/-- POOL_RES_LO: spec/11 R290. -/
def POOL_RES_LO.spec : RegSpec := runReg 0x40110 []
  [ro 31 0 0]
/-- POOL_RES_HI: spec/11 R290. -/
def POOL_RES_HI.spec : RegSpec := runReg 0x40114 []
  [ro 31 0 0]
/-- POOL_RES_STAT: spec/11 R290. -/
def POOL_RES_STAT.spec : RegSpec := runReg 0x40118 []
  [ro 31 16 0, ro 15 12 0, ro 11 8 0, ro 7 0 0]
/-- POOL_CTL: spec/11 R290. -/
def POOL_CTL.spec : RegSpec := cfgReg 0x41000 [(256, 256)]
  [rwP 31 31 0, rwP 30 30 0, rwP 29 28 2, rwP 26 24 0, rwP 21 16 6, rwP 3 0 1]
/-- POOL_SIZE: spec/11 R290. -/
def POOL_SIZE.spec : RegSpec := cfgReg 0x41004 [(256, 256)]
  [rwP 23 0 0]
/-- POOL_COUNT: spec/11 R290. -/
def POOL_COUNT.spec : RegSpec := cfgReg 0x41008 [(256, 256)]
  [rwP 31 0 0]
/-- POOL_TARGET: spec/11 R290. -/
def POOL_TARGET.spec : RegSpec := cfgReg 0x4100c [(256, 256)]
  [rwP 8 8 0, rwP 7 0 0]
/-- POOL_BASE_LO: spec/11 R290. -/
def POOL_BASE_LO.spec : RegSpec := cfgReg 0x41010 [(256, 256)]
  [rwP 31 12 0]
/-- POOL_BASE_HI: spec/11 R290. -/
def POOL_BASE_HI.spec : RegSpec := cfgReg 0x41014 [(256, 256)]
  [rwP 31 0 0]
/-- POOL_STATE_LO: spec/11 R290. -/
def POOL_STATE_LO.spec : RegSpec := cfgReg 0x41018 [(256, 256)]
  [rwP 31 12 0]
/-- POOL_STATE_HI: spec/11 R290. -/
def POOL_STATE_HI.spec : RegSpec := cfgReg 0x4101c [(256, 256)]
  [rwP 31 0 0]
/-- POOL_RING_LO: spec/11 R290. -/
def POOL_RING_LO.spec : RegSpec := cfgReg 0x41020 [(256, 256)]
  [rwP 31 12 0]
/-- POOL_RING_HI: spec/11 R290. -/
def POOL_RING_HI.spec : RegSpec := cfgReg 0x41024 [(256, 256)]
  [rwP 31 0 0]
/-- POOL_FREE: spec/11 R290. -/
def POOL_FREE.spec : RegSpec := runReg 0x41028 [(256, 256)]
  [ro 31 0 0]
/-- POOL_RING_RD: spec/11 R290. -/
def POOL_RING_RD.spec : RegSpec := runReg 0x4102c [(256, 256)]
  [ro 31 0 0]
/-- POOL_RING_WR: spec/11 R290. -/
def POOL_RING_WR.spec : RegSpec := runReg 0x41030 [(256, 256)]
  [ro 31 0 0]
/-- POOL_STAT: spec/11 R290. -/
def POOL_STAT.spec : RegSpec := runReg 0x41034 [(256, 256)]
  [ro 31 24 0, ro 22 16 0, rc 3 3 0, rc 2 2 0, rc 1 1 0, ro 0 0 0]
/-- POOL_REJECT: spec/11 R290. -/
def POOL_REJECT.spec : RegSpec := runReg 0x41038 [(256, 256)]
  [rc 31 16 0, rc 15 8 0, rc 7 0 0]
/-- POOL_RESV: spec/11 R290. -/
def POOL_RESV.spec : RegSpec := cfgReg 0x41040 [(256, 256), (8, 4)]
  [rwP 31 0 0]
/-- POOL_CHG: spec/11 R290. -/
def POOL_CHG.spec : RegSpec := runReg 0x41060 [(256, 256), (8, 4)]
  [ro 31 0 0]
/-- RING_CTL: spec/12 R321. -/
def RING_CTL.spec : RegSpec := cfgReg 0x80000 [(1024, 64)]
  [rwP 31 31 0, rwP 30 30 1, rwP 29 27 0, rwP 26 24 0, rwP 23 20 0, rwP 19 17 0, rwP 4 0 4]
/-- RING_NOTE: spec/12 R321. -/
def RING_NOTE.spec : RegSpec := cfgReg 0x80004 [(1024, 64)]
  [rwP 31 16 100, rwP 15 8 1]
/-- RING_DESC_LO: spec/12 R321. -/
def RING_DESC_LO.spec : RegSpec := cfgReg 0x80008 [(1024, 64)]
  [rwP 31 12 0]
/-- RING_DESC_HI: spec/12 R321. -/
def RING_DESC_HI.spec : RegSpec := cfgReg 0x8000c [(1024, 64)]
  [rwP 31 0 0]
/-- RING_CPL_LO: spec/12 R321. -/
def RING_CPL_LO.spec : RegSpec := cfgReg 0x80010 [(1024, 64)]
  [rwP 31 12 0]
/-- RING_CPL_HI: spec/12 R321. -/
def RING_CPL_HI.spec : RegSpec := cfgReg 0x80014 [(1024, 64)]
  [rwP 31 0 0]
/-- RING_PTR: spec/12 R321. -/
def RING_PTR.spec : RegSpec := runReg 0x80018 [(1024, 64)]
  [ro 31 16 0, ro 15 0 0]
/-- RING_DB: spec/12 R321. -/
def RING_DB.spec : RegSpec := runReg 0x8001c [(1024, 64)]
  [wo 15 0 0]
/-- RING_CPL_PTR: spec/12 R321. -/
def RING_CPL_PTR.spec : RegSpec := runReg 0x80020 [(1024, 64)]
  [ro 31 16 0, rw 15 0 0]
/-- RING_STAT: spec/12 R321. -/
def RING_STAT.spec : RegSpec := runReg 0x80024 [(1024, 64)]
  [ro 31 30 0, ro 23 16 0, rc 4 4 0, rc 3 3 0, rc 2 2 0, rc 1 1 0, rc 0 0 0]
/-- RING_CMD: spec/12 R321. -/
def RING_CMD.spec : RegSpec := runReg 0x80028 [(1024, 64)]
  [wo 2 2 0, wo 1 1 0, wo 0 0 0]
/-- RING_ERR_IDX: spec/12 R321. -/
def RING_ERR_IDX.spec : RegSpec := runReg 0x8002c [(1024, 64)]
  [ro 15 0 0]
/-- STRIPE_CTL: spec/12 R321. -/
def STRIPE_CTL.spec : RegSpec := cfgReg 0x90000 [(256, 32)]
  [rwP 31 31 0, rc 30 30 0, rwP 10 8 0, rwP 4 0 1]
/-- STRIPE_OFF_LO: spec/12 R321. -/
def STRIPE_OFF_LO.spec : RegSpec := cfgReg 0x90004 [(256, 32)]
  [rwP 31 16 0]
/-- STRIPE_OFF_HI: spec/12 R321. -/
def STRIPE_OFF_HI.spec : RegSpec := cfgReg 0x90008 [(256, 32)]
  [rwP 15 0 0]
/-- STRIPE_PORTS: spec/12 R321. -/
def STRIPE_PORTS.spec : RegSpec := cfgReg 0x9000c [(256, 32), (4, 4)]
  [rwP 29 24 0, rwP 21 16 0, rwP 13 8 0, rwP 5 0 0]
/-- PLAY_CONCEAL_LO: spec/13 R342. -/
def PLAY_CONCEAL_LO.spec : RegSpec := cfgReg 0x92000 [(1024, 8)]
  [rwP 31 0 0]
/-- PLAY_CONCEAL_HI: spec/13 R342. -/
def PLAY_CONCEAL_HI.spec : RegSpec := cfgReg 0x92004 [(1024, 8)]
  [rwP 31 0 0]
/-- TAP_CTL: spec/13 R343. -/
def TAP_CTL.spec : RegSpec := cfgReg 0x94000 [(256, 64)]
  [rwP 31 31 0, rwP 30 30 0, rwP 29 29 0, rwP 28 26 0, rwP 25 24 2, rwP 23 23 0, rwP 22 21 0, rwP 20 17 4, rwP 16 14 0,
   rwP 13 11 1, rwP 10 8 0, rwP 7 0 0]
/-- TAP_GEOM: spec/13 R343. -/
def TAP_GEOM.spec : RegSpec := cfgReg 0x94004 [(256, 64)]
  [rwP 31 16 0, rwP 15 0 0]
/-- TAP_LOG_LO: spec/13 R343. -/
def TAP_LOG_LO.spec : RegSpec := cfgReg 0x94008 [(256, 64)]
  [rwP 31 12 0]
/-- TAP_LOG_HI: spec/13 R343. -/
def TAP_LOG_HI.spec : RegSpec := cfgReg 0x9400c [(256, 64)]
  [rwP 31 0 0]
/-- TAP_LOG_CTL: spec/13 R343. -/
def TAP_LOG_CTL.spec : RegSpec := cfgReg 0x94010 [(256, 64)]
  [rwP 31 16 100, rwP 4 0 4]
/-- TAP_LOG_PTR: spec/13 R343. -/
def TAP_LOG_PTR.spec : RegSpec := runReg 0x94014 [(256, 64)]
  [ro 31 16 0, rw 15 0 0]
/-- TAP_STAT: spec/13 R343. -/
def TAP_STAT.spec : RegSpec := runReg 0x94018 [(256, 64)]
  [ro 31 31 0, ro 30 30 0, rc 29 29 0, ro 15 0 0]
/-- TAP_PREV_LO: spec/13 R343. -/
def TAP_PREV_LO.spec : RegSpec := runReg 0x9401c [(256, 64)]
  [ro 31 0 0]
/-- TAP_PREV_HI: spec/13 R343. -/
def TAP_PREV_HI.spec : RegSpec := runReg 0x94020 [(256, 64)]
  [ro 31 0 0]
/-- TAP_CMD: spec/13 R343. -/
def TAP_CMD.spec : RegSpec := runReg 0x94024 [(256, 64)]
  [wo 0 0 0]
/-- TAP_OFF2: spec/13 R343. -/
def TAP_OFF2.spec : RegSpec := runReg 0x94028 [(256, 64)]
  [ro 23 0 0]
/-- TAP_OFF4: spec/13 R343. -/
def TAP_OFF4.spec : RegSpec := runReg 0x9402c [(256, 64)]
  [ro 23 0 0]
/-- TAP_OFFA: spec/13 R343. -/
def TAP_OFFA.spec : RegSpec := runReg 0x94030 [(256, 64)]
  [ro 23 0 0]
/-- TAP_LEN: spec/13 R343. -/
def TAP_LEN.spec : RegSpec := runReg 0x94034 [(256, 64)]
  [ro 23 0 0]
/-- TAP_ERR: spec/13 R343. -/
def TAP_ERR.spec : RegSpec := runReg 0x94038 [(256, 64)]
  [rc 31 24 0, rc 23 16 0, rc 15 8 0, rc 7 0 0]
/-- MOV_CTL: spec/12 R321. -/
def MOV_CTL.spec : RegSpec := cfgReg 0xa0000 [(128, 16)]
  [wo 31 31 0, rwP 11 8 4, rwP 2 0 2]
/-- MOV_STAT: spec/12 R321. -/
def MOV_STAT.spec : RegSpec := runReg 0xa0004 [(128, 16)]
  [ro 31 31 0, ro 30 27 0, ro 26 26 0, ro 25 16 0, ro 15 0 0]
/-- MOV_ERR: spec/12 R321. -/
def MOV_ERR.spec : RegSpec := runReg 0xa0008 [(128, 16)]
  [rc 31 24 0, rc 23 16 0, rc 15 8 0, rc 7 0 0]
/-- WIN_O_CTL: spec/06 R167. -/
def WIN_O_CTL.spec : RegSpec := cfgReg 0x100000 [(4096, 64)]
  [rwP 31 31 0, rwP 30 30 0, rwP 29 28 0, rwP 27 27 0, rwP 26 25 2, rwP 24 24 0, rwP 23 23 0, rwP 22 22 1, rwP 21 21 0,
   rwP 20 20 0, rwP 19 14 0, rwP 13 12 0, rwP 11 11 1, rwP 10 10 0]
/-- WIN_O_PF: spec/06 R167. -/
def WIN_O_PF.spec : RegSpec := cfgReg 0x100004 [(4096, 64)]
  [rwP 27 24 2, rwP 23 16 50, rwP 15 8 10]
/-- WIN_O_BASE_LO: spec/06 R167. -/
def WIN_O_BASE_LO.spec : RegSpec := cfgReg 0x100008 [(4096, 64)]
  [rwP 31 12 0]
/-- WIN_O_BASE_HI: spec/06 R167. -/
def WIN_O_BASE_HI.spec : RegSpec := cfgReg 0x10000c [(4096, 64)]
  [rwP 7 0 0]
/-- WIN_O_LIMIT_LO: spec/06 R167. -/
def WIN_O_LIMIT_LO.spec : RegSpec := cfgReg 0x100010 [(4096, 64)]
  [rwP 31 12 0]
/-- WIN_O_LIMIT_HI: spec/06 R167. -/
def WIN_O_LIMIT_HI.spec : RegSpec := cfgReg 0x100014 [(4096, 64)]
  [rwP 7 0 0]
/-- WIN_O_TARGET_LO: spec/06 R167. -/
def WIN_O_TARGET_LO.spec : RegSpec := cfgReg 0x100018 [(4096, 64)]
  [rwP 31 12 0]
/-- WIN_O_TARGET_HI: spec/06 R167. -/
def WIN_O_TARGET_HI.spec : RegSpec := cfgReg 0x10001c [(4096, 64)]
  [rwP 15 0 0]
/-- WIN_O_PTA_LO: spec/06 R167. -/
def WIN_O_PTA_LO.spec : RegSpec := cfgReg 0x100020 [(4096, 64)]
  [rwP 31 12 0]
/-- WIN_O_PTA_HI: spec/06 R167. -/
def WIN_O_PTA_HI.spec : RegSpec := cfgReg 0x100024 [(4096, 64)]
  [rwP 31 0 0]
/-- WIN_O_PTB_LO: spec/06 R167. -/
def WIN_O_PTB_LO.spec : RegSpec := cfgReg 0x100028 [(4096, 64)]
  [rwP 31 12 0]
/-- WIN_O_PTB_HI: spec/06 R167. -/
def WIN_O_PTB_HI.spec : RegSpec := cfgReg 0x10002c [(4096, 64)]
  [rwP 31 0 0]
/-- WIN_O_ROUTE: spec/06 R167. -/
def WIN_O_ROUTE.spec : RegSpec := cfgReg 0x100030 [(4096, 64)]
  [rwP 29 24 0, rwP 18 16 0, rwP 15 8 0]
/-- WIN_O_STAT: spec/06 R167. -/
def WIN_O_STAT.spec : RegSpec := runReg 0x100034 [(4096, 64)]
  [ro 31 31 0, rc 23 8 0, rc 4 4 0, rc 3 3 0, rc 2 2 0, rc 1 1 0, rc 0 0 0]
/-- WIN_I_CTL: spec/06 R167. -/
def WIN_I_CTL.spec : RegSpec := cfgReg 0x140000 [(4096, 64)]
  [rwP 31 31 0, rwP 30 30 0, rwP 29 28 0, rwP 27 27 0, rwP 26 25 2, rwP 24 24 0, rwP 23 23 0, rwP 22 22 1, rwP 21 21 0,
   rwP 20 20 0, rwP 19 14 0, rwP 13 12 0]
/-- WIN_I_PF: spec/06 R167. -/
def WIN_I_PF.spec : RegSpec := cfgReg 0x140004 [(4096, 64)]
  [rwP 27 24 2, rwP 23 16 50]
/-- WIN_I_BASE_LO: spec/06 R167. -/
def WIN_I_BASE_LO.spec : RegSpec := cfgReg 0x140008 [(4096, 64)]
  [rwP 31 12 0]
/-- WIN_I_BASE_HI: spec/06 R167. -/
def WIN_I_BASE_HI.spec : RegSpec := cfgReg 0x14000c [(4096, 64)]
  [rwP 15 0 0]
/-- WIN_I_LIMIT_LO: spec/06 R167. -/
def WIN_I_LIMIT_LO.spec : RegSpec := cfgReg 0x140010 [(4096, 64)]
  [rwP 31 12 0]
/-- WIN_I_LIMIT_HI: spec/06 R167. -/
def WIN_I_LIMIT_HI.spec : RegSpec := cfgReg 0x140014 [(4096, 64)]
  [rwP 15 0 0]
/-- WIN_I_TARGET_LO: spec/06 R167. -/
def WIN_I_TARGET_LO.spec : RegSpec := cfgReg 0x140018 [(4096, 64)]
  [rwP 31 12 0]
/-- WIN_I_TARGET_HI: spec/06 R167. -/
def WIN_I_TARGET_HI.spec : RegSpec := cfgReg 0x14001c [(4096, 64)]
  [rwP 31 0 0]
/-- WIN_I_PTA_LO: spec/06 R167. -/
def WIN_I_PTA_LO.spec : RegSpec := cfgReg 0x140020 [(4096, 64)]
  [rwP 31 12 0]
/-- WIN_I_PTA_HI: spec/06 R167. -/
def WIN_I_PTA_HI.spec : RegSpec := cfgReg 0x140024 [(4096, 64)]
  [rwP 31 0 0]
/-- WIN_I_PTB_LO: spec/06 R167. -/
def WIN_I_PTB_LO.spec : RegSpec := cfgReg 0x140028 [(4096, 64)]
  [rwP 31 12 0]
/-- WIN_I_PTB_HI: spec/06 R167. -/
def WIN_I_PTB_HI.spec : RegSpec := cfgReg 0x14002c [(4096, 64)]
  [rwP 31 0 0]
/-- WIN_I_ROUTE: spec/06 R167. -/
def WIN_I_ROUTE.spec : RegSpec := cfgReg 0x140030 [(4096, 64)]
  [rwP 26 24 0, rwP 18 16 0, rwP 15 8 0]
/-- WIN_I_STAT: spec/06 R167. -/
def WIN_I_STAT.spec : RegSpec := runReg 0x140034 [(4096, 64)]
  [ro 31 31 0, rc 23 8 0, rc 4 4 0, rc 3 3 0, rc 2 2 0, rc 1 1 0, rc 0 0 0]
/-- WIN_I_PORTS_LO: spec/06 R167. -/
def WIN_I_PORTS_LO.spec : RegSpec := cfgReg 0x140038 [(4096, 64)]
  [rwP 31 0 0]
/-- WIN_I_PORTS_HI: spec/06 R167. -/
def WIN_I_PORTS_HI.spec : RegSpec := cfgReg 0x14003c [(4096, 64)]
  [rwP 31 0 0]
/-- MON_CTL: spec/18 R448. -/
def MON_CTL.spec : RegSpec := runReg 0x180000 [(8, 65536), (64, 128)]
  [rw 31 31 0, rw 30 30 0, wo 29 29 0]
/-- MON_SRC: spec/18 R448. -/
def MON_SRC.spec : RegSpec := runReg 0x180004 [(8, 65536), (64, 128)]
  [rw 31 28 0, rw 11 0 0]
/-- MON_SAMPLE: spec/18 R448. -/
def MON_SAMPLE.spec : RegSpec := runReg 0x180008 [(8, 65536), (64, 128)]
  [rw 15 0 10]
/-- MON_THRESH: spec/18 R448. -/
def MON_THRESH.spec : RegSpec := runReg 0x18000c [(8, 65536), (64, 128)]
  [rw 31 0 0]
/-- MON_STAT: spec/18 R448. -/
def MON_STAT.spec : RegSpec := runReg 0x180010 [(8, 65536), (64, 128)]
  [rc 31 31 0, rc 30 30 0, rc 29 29 0, rc 15 0 0]
/-- MON_MIN: spec/18 R448. -/
def MON_MIN.spec : RegSpec := runReg 0x180014 [(8, 65536), (64, 128)]
  [ro 31 0 4294967295]
/-- MON_MAX: spec/18 R448. -/
def MON_MAX.spec : RegSpec := runReg 0x180018 [(8, 65536), (64, 128)]
  [ro 31 0 0]
/-- MON_COUNT: spec/18 R448. -/
def MON_COUNT.spec : RegSpec := runReg 0x18001c [(8, 65536), (64, 128)]
  [ro 31 0 0]
/-- MON_SUM_LO: spec/18 R448. -/
def MON_SUM_LO.spec : RegSpec := runReg 0x180020 [(8, 65536), (64, 128)]
  [ro 31 0 0]
/-- MON_SUM_HI: spec/18 R448. -/
def MON_SUM_HI.spec : RegSpec := runReg 0x180024 [(8, 65536), (64, 128)]
  [ro 31 0 0]
/-- MON_BIN: spec/18 R448. -/
def MON_BIN.spec : RegSpec := runReg 0x180040 [(8, 65536), (64, 128), (16, 4)]
  [ro 31 0 0]
/-- ERR_READ: spec/08 R231. -/
def ERR_READ.spec : RegSpec := runReg 0x200000 [(8, 256)]
  [ro 31 0 0]
/-- ERR_STAT: spec/08 R231. -/
def ERR_STAT.spec : RegSpec := runReg 0x200004 [(8, 256)]
  [ro 25 16 0, rc 15 0 0]
/-- ERR_MIRE_CLR: spec/07 R207. -/
def ERR_MIRE_CLR.spec : RegSpec := runReg 0x2b0000 []
  [wo 31 31 0, wo 11 0 0]
/-- ERR_MIRE_COUNT: spec/07 R207. -/
def ERR_MIRE_COUNT.spec : RegSpec := runReg 0x2b0004 []
  [ro 13 0 0]
/-- ERR_DEF_INFO: spec/07 R207. -/
def ERR_DEF_INFO.spec : RegSpec := runReg 0x2c0000 [(2, 131072), (4096, 32)]
  [ro 31 31 0, ro 30 30 0, ro 29 24 0, ro 21 16 0, ro 11 0 0]
/-- ERR_DEF_NEAR_LO: spec/07 R207. -/
def ERR_DEF_NEAR_LO.spec : RegSpec := runReg 0x2c0004 [(2, 131072), (4096, 32)]
  [ro 31 0 0]
/-- ERR_DEF_NEAR_HI: spec/07 R207. -/
def ERR_DEF_NEAR_HI.spec : RegSpec := runReg 0x2c0008 [(2, 131072), (4096, 32)]
  [ro 31 0 0]
/-- ERR_DEF_FAR_LO: spec/07 R207. -/
def ERR_DEF_FAR_LO.spec : RegSpec := runReg 0x2c000c [(2, 131072), (4096, 32)]
  [ro 31 0 0]
/-- ERR_DEF_FAR_HI: spec/07 R207. -/
def ERR_DEF_FAR_HI.spec : RegSpec := runReg 0x2c0010 [(2, 131072), (4096, 32)]
  [ro 31 0 0]
/-- ERR_DEF_FAIL: spec/07 R207. -/
def ERR_DEF_FAIL.spec : RegSpec := runReg 0x2c0014 [(2, 131072), (4096, 32)]
  [ro 31 24 0, ro 16 0 0]
/-- ERR_DEF_REQ: spec/07 R207. -/
def ERR_DEF_REQ.spec : RegSpec := runReg 0x2c0018 [(2, 131072), (4096, 32)]
  [ro 31 24 0, ro 22 20 0, ro 15 0 0]
/-- ERR_DEF_DONE: spec/07 R207. -/
def ERR_DEF_DONE.spec : RegSpec := runReg 0x2c001c [(2, 131072), (4096, 32)]
  [ro 16 0 0]
/-- EVQ_READ: spec/08 R234. -/
def EVQ_READ.spec : RegSpec := runReg 0x300000 []
  [ro 31 0 0]
/-- EVQ_STAT: spec/08 R234. -/
def EVQ_STAT.spec : RegSpec := runReg 0x300004 []
  [ro 26 16 0, rc 15 0 0]
/-- EVQ_CTL: spec/08 R234. -/
def EVQ_CTL.spec : RegSpec := cfgReg 0x300008 []
  [rwP 31 31 0, rwP 26 24 0, rwP 23 20 0, rwP 15 0 100]
/-- EVQ_HOST_BASE_LO: spec/08 R234. -/
def EVQ_HOST_BASE_LO.spec : RegSpec := cfgReg 0x300010 []
  [rwP 31 0 0]
/-- EVQ_HOST_BASE_HI: spec/08 R234. -/
def EVQ_HOST_BASE_HI.spec : RegSpec := cfgReg 0x300014 []
  [rwP 31 0 0]
/-- EVQ_HOST_WR: spec/08 R234. -/
def EVQ_HOST_WR.spec : RegSpec := runReg 0x300018 []
  [ro 15 0 0]
/-- EVQ_HOST_RD: spec/08 R234. -/
def EVQ_HOST_RD.spec : RegSpec := runReg 0x30001c []
  [rw 15 0 0]
/-- DIE_LOCK: spec/02 R72. -/
def DIE_LOCK.spec : RegSpec := dieReg 0x10 []
  [lk 0 0 0]
/-- DIE_PROT_STAT: spec/02 R78. -/
def DIE_PROT_STAT.spec : RegSpec := dieReg 0x20 []
  [rc 31 16 0, rc 15 0 0]
/-- DIE_ACC_ERR_ADDR_LO: spec/02 R80. -/
def DIE_ACC_ERR_ADDR_LO.spec : RegSpec := dieReg 0x40 []
  [ro 31 0 0]
/-- DIE_ACC_ERR_ADDR_HI: spec/02 R80. -/
def DIE_ACC_ERR_ADDR_HI.spec : RegSpec := dieReg 0x44 []
  [ro 31 0 0]
/-- DIE_ACC_ERR_INFO: spec/02 R80. -/
def DIE_ACC_ERR_INFO.spec : RegSpec := dieReg 0x48 []
  [rc 31 31 0, rc 30 29 0, rc 28 28 0, rc 27 24 0, rc 23 16 0, rc 15 8 0, rc 3 0 0]
/-- DIE_SVC: spec/14 R358. -/
def DIE_SVC.spec : RegSpec := dieReg 0x80 []
  [rw 9 8 0, wo 3 3 0, wo 2 2 0, wo 1 1 0, wo 0 0 0]
/-- DIE_SVC_STAT: spec/14 R358. -/
def DIE_SVC_STAT.spec : RegSpec := dieReg 0x84 []
  [ro 31 29 0, ro 28 28 0, ro 27 27 0, rc 23 16 0, rc 15 8 0, rc 7 0 0]
/-- DIE_SRAM_STAT: spec/14 R360. -/
def DIE_SRAM_STAT.spec : RegSpec := dieReg 0x88 []
  [ro 31 24 0, ro 23 16 0, rc 15 0 0]
/-- DIE_Q_CFG: spec/10 R270. -/
def DIE_Q_CFG.spec : RegSpec := dieReg 0x8000 [(64, 32)]
  [rwP 31 16 0, ro 15 15 0, ro 14 14 0, ro 5 0 0]
/-- DIE_Q_CAP: spec/10 R270. -/
def DIE_Q_CAP.spec : RegSpec := dieReg 0x8004 [(64, 32)]
  [ro 31 25 0, ro 13 0 0]
/-- DIE_Q_DEPTH: spec/10 R270. -/
def DIE_Q_DEPTH.spec : RegSpec := dieReg 0x8008 [(64, 32)]
  [ro 31 16 0, ro 13 0 0]
/-- DIE_Q_COUNT: spec/10 R270. -/
def DIE_Q_COUNT.spec : RegSpec := dieReg 0x800c [(64, 32)]
  [ro 31 16 0, ro 15 0 0]
/-- DIE_Q_STAT: spec/10 R270. -/
def DIE_Q_STAT.spec : RegSpec := dieReg 0x8010 [(64, 32)]
  [rc 31 24 0, rc 23 16 0, rc 15 4 0, rc 3 3 0, ro 2 2 0, ro 1 1 0, ro 0 0 1]
/-- DIE_Q_CTL: spec/10 R270. -/
def DIE_Q_CTL.spec : RegSpec := dieReg 0x8014 [(64, 32)]
  [wo 0 0 0]
/-- CLK_CTL: spec/15 R397. -/
def CLK_CTL.spec : RegSpec := dieReg 0x10000 []
  [lkP 31 31 1, lkP 21 21 0, lkP 20 20 1, lkP 19 19 0, lkP 15 8 16]
/-- CLK_STAT: spec/15 R397. -/
def CLK_STAT.spec : RegSpec := dieReg 0x10004 []
  [ro 31 30 2, ro 29 29 0, ro 28 28 0, ro 27 25 0, ro 24 22 0, ro 21 19 0, ro 18 18 0, ro 17 17 0, ro 16 16 0,
   ro 15 15 1, ro 14 14 1, ro 13 13 0]
/-- CLK_FIO_CAL: spec/15 R397. -/
def CLK_FIO_CAL.spec : RegSpec := dieReg 0x10008 []
  [ro 19 0 400000]
/-- CLK_MON_CNT: spec/15 R397. -/
def CLK_MON_CNT.spec : RegSpec := dieReg 0x10010 [(8, 4)]
  [ro 31 31 0, ro 23 0 0]
/-- CLK_LOOP_CNT: spec/15 R397. -/
def CLK_LOOP_CNT.spec : RegSpec := dieReg 0x10030 [(8, 4)]
  [ro 31 31 0, ro 11 0 0]
/-- CLK_EVENT: spec/15 R397. -/
def CLK_EVENT.spec : RegSpec := dieReg 0x10050 []
  [rc 12 12 0, rc 11 11 0, rc 10 10 0, rc 9 9 0, rc 8 8 0, rc 7 7 0, rc 6 6 0, rc 5 5 0, rc 4 4 0, rc 3 3 0, rc 2 2 0,
   rc 1 1 0, rc 0 0 0]
/-- CLK_SLEEP: spec/15 R397. -/
def CLK_SLEEP.spec : RegSpec := dieReg 0x10060 []
  [rwP 1 1 0, wo 0 0 0]
/-- CLK_WAKE: spec/15 R397. -/
def CLK_WAKE.spec : RegSpec := dieReg 0x10064 []
  [rc 31 31 0, rc 30 30 0, rc 29 29 0, rc 28 28 0, rc 27 27 0, rw 23 0 0]
/-- PWR_GATE: spec/16 R417. -/
def PWR_GATE.spec : RegSpec := dieReg 0x20000 []
  [ro 15 8 0, ro 7 7 0, ro 6 6 0, ro 5 5 0, ro 4 3 0]
/-- PWR_TEMP: spec/16 R417. -/
def PWR_TEMP.spec : RegSpec := dieReg 0x20004 []
  [ro 31 31 0, rwP 23 16 105, ro 7 0 0]
/-- PWR_MP_CTL: spec/16 R417. -/
def PWR_MP_CTL.spec : RegSpec := dieReg 0x20100 [(8, 16)]
  [rw 31 31 0, lkP 30 30 0, lkP 23 16 20, lkP 15 12 7, lkP 11 8 3, wo 0 0 0]
/-- PWR_MP_STAT: spec/16 R417. -/
def PWR_MP_STAT.spec : RegSpec := dieReg 0x20104 [(8, 16)]
  [ro 31 29 0, ro 28 28 0, ro 27 24 0, rc 15 8 0, rc 7 0 0]
/-- PWR_MP_MEAS: spec/16 R417. -/
def PWR_MP_MEAS.spec : RegSpec := dieReg 0x20108 [(8, 16)]
  [ro 31 16 0, ro 15 0 0]
/-- PX_LINK_STAT: spec/03 R106. -/
def PX_LINK_STAT.spec : RegSpec := dieReg 0x30000 []
  [ro 31 31 0, ro 30 30 0, ro 29 27 0, ro 15 12 0, ro 11 8 0, ro 7 4 0]
/-- PX_CTRL: spec/03 R106. -/
def PX_CTRL.spec : RegSpec := dieReg 0x30004 []
  [rwP 31 16 8000, rwP 15 8 10, rw 2 2 1, rw 1 1 1, rw 0 0 1]
/-- PX_L0P: spec/03 R106. -/
def PX_L0P.spec : RegSpec := dieReg 0x30008 []
  [rw 23 16 100, rw 15 8 20, rw 7 0 60]
/-- PX_OUT: spec/03 R106. -/
def PX_OUT.spec : RegSpec := dieReg 0x30010 []
  [ro 31 16 0, ro 15 0 0]
/-- PX_EVENT: spec/03 R106. -/
def PX_EVENT.spec : RegSpec := dieReg 0x30014 []
  [rc 7 7 0, rc 6 6 0, rc 5 5 0, rc 4 4 0, rc 3 3 0, rc 2 2 0, rc 1 1 0, rc 0 0 0]
/-- PX_ERR_COUNT: spec/03 R106. -/
def PX_ERR_COUNT.spec : RegSpec := dieReg 0x30018 []
  [rc 31 24 0, rc 23 12 0, rc 11 0 0]
/-- MSIX_PBA: spec/03 R88. -/
def MSIX_PBA.spec : RegSpec := dieReg 0x37f00 [(64, 4)]
  [ro 31 0 0]
/-- MSIX_ADDR_LO: spec/03 R88. -/
def MSIX_ADDR_LO.spec : RegSpec := dieReg 0x38000 [(2048, 16)]
  [rw 31 2 0]
/-- MSIX_ADDR_HI: spec/03 R88. -/
def MSIX_ADDR_HI.spec : RegSpec := dieReg 0x38004 [(2048, 16)]
  [rw 31 0 0]
/-- MSIX_DATA: spec/03 R88. -/
def MSIX_DATA.spec : RegSpec := dieReg 0x38008 [(2048, 16)]
  [rw 31 0 0]
/-- MSIX_VCTL: spec/03 R88. -/
def MSIX_VCTL.spec : RegSpec := dieReg 0x3800c [(2048, 16)]
  [rw 0 0 1]
/-- MOR_LINK_STAT: spec/01 R41. -/
def MOR_LINK_STAT.spec : RegSpec := dieReg 0x40000 [(4, 64)]
  [ro 31 31 0, ro 30 30 0, ro 29 28 0, ro 23 21 0, ro 20 19 0, rc 15 0 0]
/-- MC_BOOT_STAT: spec/17 R439. -/
def MC_BOOT_STAT.spec : RegSpec := dieReg 0x50000 []
  [ro 31 31 0, ro 30 30 0, ro 29 25 0, ro 24 21 0, ro 20 20 0, ro 15 8 0, rc 7 0 0]
/-- MC_BOOT_ALT: spec/17 R439. -/
def MC_BOOT_ALT.spec : RegSpec := dieReg 0x50004 []
  [ro 19 0 0]
/-- MC_BOOT_SKIP: spec/17 R439. -/
def MC_BOOT_SKIP.spec : RegSpec := dieReg 0x50008 []
  [ro 19 0 0]
/-- MC_BOOT_COUNT: spec/17 R439. -/
def MC_BOOT_COUNT.spec : RegSpec := dieReg 0x5000c []
  [ro 31 0 0]
/-- MC_FLASH_STAT: spec/17 R439. -/
def MC_FLASH_STAT.spec : RegSpec := dieReg 0x50010 []
  [ro 31 31 0, ro 30 30 0, rc 29 29 0, ro 23 16 0, ro 15 0 0]
/-- MC_LEDGER_CTL: spec/17 R439. -/
def MC_LEDGER_CTL.spec : RegSpec := dieReg 0x50014 []
  [wo 15 8 0, wo 1 1 0, wo 0 0 0]
/-- MC_FLASH_ADDR: spec/17 R439. -/
def MC_FLASH_ADDR.spec : RegSpec := dieReg 0x50020 []
  [rw 23 12 0]
/-- MC_FLASH_CMD: spec/17 R439. -/
def MC_FLASH_CMD.spec : RegSpec := dieReg 0x50024 []
  [wo 1 0 0]
/-- MC_FLASH_RES: spec/17 R439. -/
def MC_FLASH_RES.spec : RegSpec := dieReg 0x50028 []
  [ro 31 31 0, ro 30 28 0, ro 15 0 0]
/-- MC_ROLE: spec/14 R365. -/
def MC_ROLE.spec : RegSpec := dieReg 0x50100 []
  [ro 31 30 0, ro 29 29 0, ro 28 28 0, ro 26 24 0, ro 23 16 0, ro 15 0 0]
/-- MC_HB: spec/14 R365. -/
def MC_HB.spec : RegSpec := dieReg 0x50104 []
  [ro 31 24 50, ro 23 16 3, rc 15 8 0, rc 7 0 0]
/-- MC_FLASH_BUF: spec/17 R439. -/
def MC_FLASH_BUF.spec : RegSpec := dieReg 0x51000 [(1024, 4)]
  [rw 31 0 4294967295]
/-- TC_SWITCH: spec/06 R191. -/
def TC_SWITCH.spec : RegSpec := dieReg 0x500000 []
  [wo 7 0 0]
/-- TC_SWITCH_STAT: spec/06 R191. -/
def TC_SWITCH_STAT.spec : RegSpec := dieReg 0x500004 []
  [ro 23 16 0, ro 7 0 255]
/-- TC_INVAL: spec/06 R191. -/
def TC_INVAL.spec : RegSpec := dieReg 0x500008 []
  [wo 31 31 0, wo 30 30 0, wo 29 29 0, wo 28 28 0, wo 11 0 0]
/-- TC_INVAL_PAGE: spec/06 R191. -/
def TC_INVAL_PAGE.spec : RegSpec := dieReg 0x50000c []
  [rw 26 0 0]
/-- TC_PFD_READ: spec/06 R191. -/
def TC_PFD_READ.spec : RegSpec := dieReg 0x500100 []
  [ro 31 0 0]
/-- TC_PFD_STAT: spec/06 R191. -/
def TC_PFD_STAT.spec : RegSpec := dieReg 0x500104 []
  [ro 26 16 0, rc 15 0 0]
/-- TIL_LOCK: spec/02 R72. -/
def TIL_LOCK.spec : RegSpec := tileReg 0x10 []
  [lk 0 0 0]
/-- TIL_ARB: spec/01 R28. -/
def TIL_ARB.spec : RegSpec := tileReg 0x100 []
  [rw 23 16 4, rw 15 8 4, rw 0 0 1]
/-- TIL_SVC: spec/14 R357. -/
def TIL_SVC.spec : RegSpec := tileReg 0x200 []
  [wo 3 3 0, wo 2 2 0, wo 1 1 0, wo 0 0 0]
/-- TIL_SVC_STAT: spec/14 R357. -/
def TIL_SVC_STAT.spec : RegSpec := tileReg 0x204 []
  [ro 31 29 0, ro 28 28 0, ro 27 27 0, ro 26 21 0, rc 18 16 0, rc 15 8 0, rc 7 0 0]
/-- TIL_BOND: spec/14 R351. -/
def TIL_BOND.spec : RegSpec := tileReg 0x208 []
  [rwP 31 31 0, ro 30 30 0, ro 29 28 0, rc 27 27 0, rwP 5 0 0]
/-- BB_LINK_CTRL: spec/04 R131. -/
def BB_LINK_CTRL.spec : RegSpec := tileReg 0x40000 []
  [lkP 23 20 8, lkP 19 18 2, lkP 17 16 1, rwP 15 15 1, rwP 14 14 1, wo 3 3 0, wo 2 2 0, rw 0 0 0]
/-- BB_LINK_STAT: spec/04 R131. -/
def BB_LINK_STAT.spec : RegSpec := tileReg 0x40004 []
  [ro 31 31 0, ro 30 30 0, ro 29 29 0, ro 28 26 0, ro 25 24 0, ro 23 20 0, ro 18 16 0, ro 15 12 0, ro 11 10 0, ro 9 9 0]
/-- BB_LANE_STAT: spec/04 R131. -/
def BB_LANE_STAT.spec : RegSpec := tileReg 0x40008 []
  [ro 23 16 0, ro 15 8 0, ro 7 0 0]
/-- BB_LINK_THRESH: spec/04 R131. -/
def BB_LINK_THRESH.spec : RegSpec := tileReg 0x4000c []
  [rwP 31 24 16, rwP 23 16 8, rwP 15 8 100, rwP 7 0 4]
/-- BB_LINK_ERR: spec/04 R131. -/
def BB_LINK_ERR.spec : RegSpec := tileReg 0x40010 []
  [rc 31 24 0, rc 23 12 0, rc 11 0 0]
/-- BB_LINK_EVENT: spec/04 R131. -/
def BB_LINK_EVENT.spec : RegSpec := tileReg 0x40014 []
  [rc 9 9 0, rc 8 8 0, rc 7 7 0, rc 6 6 0, rc 5 5 0, rc 4 4 0, rc 3 3 0, rc 2 2 0, rc 1 1 0, rc 0 0 0]
/-- BB_LANE_CVA: spec/04 R131. -/
def BB_LANE_CVA.spec : RegSpec := tileReg 0x40018 []
  [rc 31 24 0, rc 23 16 0, rc 15 8 0, rc 7 0 0]
/-- BB_LANE_CVB: spec/04 R131. -/
def BB_LANE_CVB.spec : RegSpec := tileReg 0x4001c []
  [rc 31 24 0, rc 23 16 0, rc 15 8 0, rc 7 0 0]
/-- BB_TXN_CTRL: spec/05 R161. -/
def BB_TXN_CTRL.spec : RegSpec := tileReg 0x40100 []
  [rwP 31 24 16, rwP 23 16 48, lkP 1 1 1, rwP 0 0 1]
/-- BB_TXN_STAT: spec/05 R161. -/
def BB_TXN_STAT.spec : RegSpec := tileReg 0x40104 []
  [ro 31 31 0, ro 30 30 0, ro 29 29 0, ro 28 28 0, ro 23 23 0, ro 22 22 0, ro 21 21 0, ro 20 20 0, ro 15 15 0]
/-- BB_TXN_EVENT: spec/05 R161. -/
def BB_TXN_EVENT.spec : RegSpec := tileReg 0x40108 []
  [rc 7 7 0, rc 6 6 0, rc 5 5 0, rc 4 4 0, rc 3 3 0, rc 2 2 0, rc 1 1 0, rc 0 0 0]
/-- BB_TXN_ERR: spec/05 R161. -/
def BB_TXN_ERR.spec : RegSpec := tileReg 0x4010c []
  [rc 31 24 0, rc 23 16 0, rc 15 8 0, rc 7 0 0]
/-- BB_IRQ_RX: spec/05 R161. -/
def BB_IRQ_RX.spec : RegSpec := tileReg 0x40200 []
  [ro 14 8 0, ro 7 1 0]
/-- BB_IRQ_VECA: spec/05 R161. -/
def BB_IRQ_VECA.spec : RegSpec := tileReg 0x40204 []
  [ro 31 24 0, ro 23 16 0, ro 15 8 0, ro 7 0 0]
/-- BB_IRQ_VECB: spec/05 R161. -/
def BB_IRQ_VECB.spec : RegSpec := tileReg 0x40208 []
  [ro 23 16 0, ro 15 8 0, ro 7 0 0]
/-- BB_IRQ_IAK: spec/05 R161. -/
def BB_IRQ_IAK.spec : RegSpec := tileReg 0x4020c []
  [wo 2 0 0]
/-- BB_IRQ_TX: spec/05 R161. -/
def BB_IRQ_TX.spec : RegSpec := tileReg 0x40210 []
  [rwP 14 8 127, ro 7 1 0]
/-- BB_RETRY_CTL: spec/08 R229. -/
def BB_RETRY_CTL.spec : RegSpec := tileReg 0x40300 []
  [rwP 23 16 16, rwP 15 8 1, ro 2 0 0]
/-- BB_RETRY_TAB_LO: spec/08 R229. -/
def BB_RETRY_TAB_LO.spec : RegSpec := tileReg 0x40304 []
  [rwP 31 24 8, rwP 23 16 4, rwP 15 8 2, rwP 7 0 1]
/-- BB_RETRY_TAB_HI: spec/08 R229. -/
def BB_RETRY_TAB_HI.spec : RegSpec := tileReg 0x40308 []
  [rwP 31 24 64, rwP 23 16 64, rwP 15 8 32, rwP 7 0 16]

/-- The register tables of the spec. -/
def RegId.spec : RegId → RegSpec
  | .PKG_ID => PKG_ID.spec
  | .PKG_LOCK => PKG_LOCK.spec
  | .PKG_BB_CTRL_BASE_LO => PKG_BB_CTRL_BASE_LO.spec
  | .PKG_BB_CTRL_BASE_HI => PKG_BB_CTRL_BASE_HI.spec
  | .PKG_BB_CTRL_PORTS_LO => PKG_BB_CTRL_PORTS_LO.spec
  | .PKG_BB_CTRL_PORTS_HI => PKG_BB_CTRL_PORTS_HI.spec
  | .PKG_SEAL_CTRL => PKG_SEAL_CTRL.spec
  | .PKG_SEAL_STAT => PKG_SEAL_STAT.spec
  | .PKG_SEAL_VALUE => PKG_SEAL_VALUE.spec
  | .PROT_CTL => PROT_CTL.spec
  | .PROT_EPOCH => PROT_EPOCH.spec
  | .PROT_DRAIN => PROT_DRAIN.spec
  | .PROT_DEFAULT => PROT_DEFAULT.spec
  | .PROT_BIND => PROT_BIND.spec
  | .PROT_VIO_INFO => PROT_VIO_INFO.spec
  | .PROT_VIO_ADDR_LO => PROT_VIO_ADDR_LO.spec
  | .PROT_VIO_ADDR_HI => PROT_VIO_ADDR_HI.spec
  | .PROT_VIO_DETAIL => PROT_VIO_DETAIL.spec
  | .PROT_VIO_REQ => PROT_VIO_REQ.spec
  | .PROT_VIO_LEN => PROT_VIO_LEN.spec
  | .PROT_VIO_DENIED => PROT_VIO_DENIED.spec
  | .PROT_VIO_CLR => PROT_VIO_CLR.spec
  | .PROT_RGN_BASE_LO => PROT_RGN_BASE_LO.spec
  | .PROT_RGN_BASE_HI => PROT_RGN_BASE_HI.spec
  | .PROT_RGN_LIMIT_LO => PROT_RGN_LIMIT_LO.spec
  | .PROT_RGN_LIMIT_HI => PROT_RGN_LIMIT_HI.spec
  | .SEM_STAT => SEM_STAT.spec
  | .SEM_CTL => SEM_CTL.spec
  | .SEM_SW => SEM_SW.spec
  | .SEM_CNT => SEM_CNT.spec
  | .IRQ_BBIN_CTL => IRQ_BBIN_CTL.spec
  | .IRQ_BBIN_TGT => IRQ_BBIN_TGT.spec
  | .IRQ_CLASS_CTL => IRQ_CLASS_CTL.spec
  | .IRQ_CLASS_TGT => IRQ_CLASS_TGT.spec
  | .IRQ_RING_CTL => IRQ_RING_CTL.spec
  | .IRQ_RING_TGT => IRQ_RING_TGT.spec
  | .IRQ_NMI_CTL => IRQ_NMI_CTL.spec
  | .IRQ_NMI_CAUSE => IRQ_NMI_CAUSE.spec
  | .IRQ_BBOUT_PEND => IRQ_BBOUT_PEND.spec
  | .POOL_TOTAL_LO => POOL_TOTAL_LO.spec
  | .POOL_TOTAL_HI => POOL_TOTAL_HI.spec
  | .POOL_CMD => POOL_CMD.spec
  | .POOL_ARG_LO => POOL_ARG_LO.spec
  | .POOL_ARG_HI => POOL_ARG_HI.spec
  | .POOL_RES_LO => POOL_RES_LO.spec
  | .POOL_RES_HI => POOL_RES_HI.spec
  | .POOL_RES_STAT => POOL_RES_STAT.spec
  | .POOL_CTL => POOL_CTL.spec
  | .POOL_SIZE => POOL_SIZE.spec
  | .POOL_COUNT => POOL_COUNT.spec
  | .POOL_TARGET => POOL_TARGET.spec
  | .POOL_BASE_LO => POOL_BASE_LO.spec
  | .POOL_BASE_HI => POOL_BASE_HI.spec
  | .POOL_STATE_LO => POOL_STATE_LO.spec
  | .POOL_STATE_HI => POOL_STATE_HI.spec
  | .POOL_RING_LO => POOL_RING_LO.spec
  | .POOL_RING_HI => POOL_RING_HI.spec
  | .POOL_FREE => POOL_FREE.spec
  | .POOL_RING_RD => POOL_RING_RD.spec
  | .POOL_RING_WR => POOL_RING_WR.spec
  | .POOL_STAT => POOL_STAT.spec
  | .POOL_REJECT => POOL_REJECT.spec
  | .POOL_RESV => POOL_RESV.spec
  | .POOL_CHG => POOL_CHG.spec
  | .RING_CTL => RING_CTL.spec
  | .RING_NOTE => RING_NOTE.spec
  | .RING_DESC_LO => RING_DESC_LO.spec
  | .RING_DESC_HI => RING_DESC_HI.spec
  | .RING_CPL_LO => RING_CPL_LO.spec
  | .RING_CPL_HI => RING_CPL_HI.spec
  | .RING_PTR => RING_PTR.spec
  | .RING_DB => RING_DB.spec
  | .RING_CPL_PTR => RING_CPL_PTR.spec
  | .RING_STAT => RING_STAT.spec
  | .RING_CMD => RING_CMD.spec
  | .RING_ERR_IDX => RING_ERR_IDX.spec
  | .STRIPE_CTL => STRIPE_CTL.spec
  | .STRIPE_OFF_LO => STRIPE_OFF_LO.spec
  | .STRIPE_OFF_HI => STRIPE_OFF_HI.spec
  | .STRIPE_PORTS => STRIPE_PORTS.spec
  | .PLAY_CONCEAL_LO => PLAY_CONCEAL_LO.spec
  | .PLAY_CONCEAL_HI => PLAY_CONCEAL_HI.spec
  | .TAP_CTL => TAP_CTL.spec
  | .TAP_GEOM => TAP_GEOM.spec
  | .TAP_LOG_LO => TAP_LOG_LO.spec
  | .TAP_LOG_HI => TAP_LOG_HI.spec
  | .TAP_LOG_CTL => TAP_LOG_CTL.spec
  | .TAP_LOG_PTR => TAP_LOG_PTR.spec
  | .TAP_STAT => TAP_STAT.spec
  | .TAP_PREV_LO => TAP_PREV_LO.spec
  | .TAP_PREV_HI => TAP_PREV_HI.spec
  | .TAP_CMD => TAP_CMD.spec
  | .TAP_OFF2 => TAP_OFF2.spec
  | .TAP_OFF4 => TAP_OFF4.spec
  | .TAP_OFFA => TAP_OFFA.spec
  | .TAP_LEN => TAP_LEN.spec
  | .TAP_ERR => TAP_ERR.spec
  | .MOV_CTL => MOV_CTL.spec
  | .MOV_STAT => MOV_STAT.spec
  | .MOV_ERR => MOV_ERR.spec
  | .WIN_O_CTL => WIN_O_CTL.spec
  | .WIN_O_PF => WIN_O_PF.spec
  | .WIN_O_BASE_LO => WIN_O_BASE_LO.spec
  | .WIN_O_BASE_HI => WIN_O_BASE_HI.spec
  | .WIN_O_LIMIT_LO => WIN_O_LIMIT_LO.spec
  | .WIN_O_LIMIT_HI => WIN_O_LIMIT_HI.spec
  | .WIN_O_TARGET_LO => WIN_O_TARGET_LO.spec
  | .WIN_O_TARGET_HI => WIN_O_TARGET_HI.spec
  | .WIN_O_PTA_LO => WIN_O_PTA_LO.spec
  | .WIN_O_PTA_HI => WIN_O_PTA_HI.spec
  | .WIN_O_PTB_LO => WIN_O_PTB_LO.spec
  | .WIN_O_PTB_HI => WIN_O_PTB_HI.spec
  | .WIN_O_ROUTE => WIN_O_ROUTE.spec
  | .WIN_O_STAT => WIN_O_STAT.spec
  | .WIN_I_CTL => WIN_I_CTL.spec
  | .WIN_I_PF => WIN_I_PF.spec
  | .WIN_I_BASE_LO => WIN_I_BASE_LO.spec
  | .WIN_I_BASE_HI => WIN_I_BASE_HI.spec
  | .WIN_I_LIMIT_LO => WIN_I_LIMIT_LO.spec
  | .WIN_I_LIMIT_HI => WIN_I_LIMIT_HI.spec
  | .WIN_I_TARGET_LO => WIN_I_TARGET_LO.spec
  | .WIN_I_TARGET_HI => WIN_I_TARGET_HI.spec
  | .WIN_I_PTA_LO => WIN_I_PTA_LO.spec
  | .WIN_I_PTA_HI => WIN_I_PTA_HI.spec
  | .WIN_I_PTB_LO => WIN_I_PTB_LO.spec
  | .WIN_I_PTB_HI => WIN_I_PTB_HI.spec
  | .WIN_I_ROUTE => WIN_I_ROUTE.spec
  | .WIN_I_STAT => WIN_I_STAT.spec
  | .WIN_I_PORTS_LO => WIN_I_PORTS_LO.spec
  | .WIN_I_PORTS_HI => WIN_I_PORTS_HI.spec
  | .MON_CTL => MON_CTL.spec
  | .MON_SRC => MON_SRC.spec
  | .MON_SAMPLE => MON_SAMPLE.spec
  | .MON_THRESH => MON_THRESH.spec
  | .MON_STAT => MON_STAT.spec
  | .MON_MIN => MON_MIN.spec
  | .MON_MAX => MON_MAX.spec
  | .MON_COUNT => MON_COUNT.spec
  | .MON_SUM_LO => MON_SUM_LO.spec
  | .MON_SUM_HI => MON_SUM_HI.spec
  | .MON_BIN => MON_BIN.spec
  | .ERR_READ => ERR_READ.spec
  | .ERR_STAT => ERR_STAT.spec
  | .ERR_MIRE_CLR => ERR_MIRE_CLR.spec
  | .ERR_MIRE_COUNT => ERR_MIRE_COUNT.spec
  | .ERR_DEF_INFO => ERR_DEF_INFO.spec
  | .ERR_DEF_NEAR_LO => ERR_DEF_NEAR_LO.spec
  | .ERR_DEF_NEAR_HI => ERR_DEF_NEAR_HI.spec
  | .ERR_DEF_FAR_LO => ERR_DEF_FAR_LO.spec
  | .ERR_DEF_FAR_HI => ERR_DEF_FAR_HI.spec
  | .ERR_DEF_FAIL => ERR_DEF_FAIL.spec
  | .ERR_DEF_REQ => ERR_DEF_REQ.spec
  | .ERR_DEF_DONE => ERR_DEF_DONE.spec
  | .EVQ_READ => EVQ_READ.spec
  | .EVQ_STAT => EVQ_STAT.spec
  | .EVQ_CTL => EVQ_CTL.spec
  | .EVQ_HOST_BASE_LO => EVQ_HOST_BASE_LO.spec
  | .EVQ_HOST_BASE_HI => EVQ_HOST_BASE_HI.spec
  | .EVQ_HOST_WR => EVQ_HOST_WR.spec
  | .EVQ_HOST_RD => EVQ_HOST_RD.spec
  | .DIE_LOCK => DIE_LOCK.spec
  | .DIE_PROT_STAT => DIE_PROT_STAT.spec
  | .DIE_ACC_ERR_ADDR_LO => DIE_ACC_ERR_ADDR_LO.spec
  | .DIE_ACC_ERR_ADDR_HI => DIE_ACC_ERR_ADDR_HI.spec
  | .DIE_ACC_ERR_INFO => DIE_ACC_ERR_INFO.spec
  | .DIE_SVC => DIE_SVC.spec
  | .DIE_SVC_STAT => DIE_SVC_STAT.spec
  | .DIE_SRAM_STAT => DIE_SRAM_STAT.spec
  | .DIE_Q_CFG => DIE_Q_CFG.spec
  | .DIE_Q_CAP => DIE_Q_CAP.spec
  | .DIE_Q_DEPTH => DIE_Q_DEPTH.spec
  | .DIE_Q_COUNT => DIE_Q_COUNT.spec
  | .DIE_Q_STAT => DIE_Q_STAT.spec
  | .DIE_Q_CTL => DIE_Q_CTL.spec
  | .CLK_CTL => CLK_CTL.spec
  | .CLK_STAT => CLK_STAT.spec
  | .CLK_FIO_CAL => CLK_FIO_CAL.spec
  | .CLK_MON_CNT => CLK_MON_CNT.spec
  | .CLK_LOOP_CNT => CLK_LOOP_CNT.spec
  | .CLK_EVENT => CLK_EVENT.spec
  | .CLK_SLEEP => CLK_SLEEP.spec
  | .CLK_WAKE => CLK_WAKE.spec
  | .PWR_GATE => PWR_GATE.spec
  | .PWR_TEMP => PWR_TEMP.spec
  | .PWR_MP_CTL => PWR_MP_CTL.spec
  | .PWR_MP_STAT => PWR_MP_STAT.spec
  | .PWR_MP_MEAS => PWR_MP_MEAS.spec
  | .PX_LINK_STAT => PX_LINK_STAT.spec
  | .PX_CTRL => PX_CTRL.spec
  | .PX_L0P => PX_L0P.spec
  | .PX_OUT => PX_OUT.spec
  | .PX_EVENT => PX_EVENT.spec
  | .PX_ERR_COUNT => PX_ERR_COUNT.spec
  | .MSIX_PBA => MSIX_PBA.spec
  | .MSIX_ADDR_LO => MSIX_ADDR_LO.spec
  | .MSIX_ADDR_HI => MSIX_ADDR_HI.spec
  | .MSIX_DATA => MSIX_DATA.spec
  | .MSIX_VCTL => MSIX_VCTL.spec
  | .MOR_LINK_STAT => MOR_LINK_STAT.spec
  | .MC_BOOT_STAT => MC_BOOT_STAT.spec
  | .MC_BOOT_ALT => MC_BOOT_ALT.spec
  | .MC_BOOT_SKIP => MC_BOOT_SKIP.spec
  | .MC_BOOT_COUNT => MC_BOOT_COUNT.spec
  | .MC_FLASH_STAT => MC_FLASH_STAT.spec
  | .MC_LEDGER_CTL => MC_LEDGER_CTL.spec
  | .MC_FLASH_ADDR => MC_FLASH_ADDR.spec
  | .MC_FLASH_CMD => MC_FLASH_CMD.spec
  | .MC_FLASH_RES => MC_FLASH_RES.spec
  | .MC_ROLE => MC_ROLE.spec
  | .MC_HB => MC_HB.spec
  | .MC_FLASH_BUF => MC_FLASH_BUF.spec
  | .TC_SWITCH => TC_SWITCH.spec
  | .TC_SWITCH_STAT => TC_SWITCH_STAT.spec
  | .TC_INVAL => TC_INVAL.spec
  | .TC_INVAL_PAGE => TC_INVAL_PAGE.spec
  | .TC_PFD_READ => TC_PFD_READ.spec
  | .TC_PFD_STAT => TC_PFD_STAT.spec
  | .TIL_LOCK => TIL_LOCK.spec
  | .TIL_ARB => TIL_ARB.spec
  | .TIL_SVC => TIL_SVC.spec
  | .TIL_SVC_STAT => TIL_SVC_STAT.spec
  | .TIL_BOND => TIL_BOND.spec
  | .BB_LINK_CTRL => BB_LINK_CTRL.spec
  | .BB_LINK_STAT => BB_LINK_STAT.spec
  | .BB_LANE_STAT => BB_LANE_STAT.spec
  | .BB_LINK_THRESH => BB_LINK_THRESH.spec
  | .BB_LINK_ERR => BB_LINK_ERR.spec
  | .BB_LINK_EVENT => BB_LINK_EVENT.spec
  | .BB_LANE_CVA => BB_LANE_CVA.spec
  | .BB_LANE_CVB => BB_LANE_CVB.spec
  | .BB_TXN_CTRL => BB_TXN_CTRL.spec
  | .BB_TXN_STAT => BB_TXN_STAT.spec
  | .BB_TXN_EVENT => BB_TXN_EVENT.spec
  | .BB_TXN_ERR => BB_TXN_ERR.spec
  | .BB_IRQ_RX => BB_IRQ_RX.spec
  | .BB_IRQ_VECA => BB_IRQ_VECA.spec
  | .BB_IRQ_VECB => BB_IRQ_VECB.spec
  | .BB_IRQ_IAK => BB_IRQ_IAK.spec
  | .BB_IRQ_TX => BB_IRQ_TX.spec
  | .BB_RETRY_CTL => BB_RETRY_CTL.spec
  | .BB_RETRY_TAB_LO => BB_RETRY_TAB_LO.spec
  | .BB_RETRY_TAB_HI => BB_RETRY_TAB_HI.spec

def pkgRegs0 : List RegId :=
  [.PKG_ID, .PKG_LOCK, .PKG_BB_CTRL_BASE_LO, .PKG_BB_CTRL_BASE_HI, .PKG_BB_CTRL_PORTS_LO, .PKG_BB_CTRL_PORTS_HI,
   .PKG_SEAL_CTRL, .PKG_SEAL_STAT, .PKG_SEAL_VALUE, .PROT_CTL, .PROT_EPOCH, .PROT_DRAIN, .PROT_DEFAULT,
   .PROT_BIND, .PROT_VIO_INFO, .PROT_VIO_ADDR_LO, .PROT_VIO_ADDR_HI, .PROT_VIO_DETAIL, .PROT_VIO_REQ,
   .PROT_VIO_LEN, .PROT_VIO_DENIED, .PROT_VIO_CLR, .PROT_RGN_BASE_LO, .PROT_RGN_BASE_HI, .PROT_RGN_LIMIT_LO,
   .PROT_RGN_LIMIT_HI, .SEM_STAT, .SEM_CTL, .SEM_SW, .SEM_CNT, .IRQ_BBIN_CTL, .IRQ_BBIN_TGT, .IRQ_CLASS_CTL,
   .IRQ_CLASS_TGT, .IRQ_RING_CTL, .IRQ_RING_TGT, .IRQ_NMI_CTL, .IRQ_NMI_CAUSE, .IRQ_BBOUT_PEND, .POOL_TOTAL_LO]
def pkgRegs1 : List RegId :=
  [.POOL_TOTAL_HI, .POOL_CMD, .POOL_ARG_LO, .POOL_ARG_HI, .POOL_RES_LO, .POOL_RES_HI, .POOL_RES_STAT, .POOL_CTL,
   .POOL_SIZE, .POOL_COUNT, .POOL_TARGET, .POOL_BASE_LO, .POOL_BASE_HI, .POOL_STATE_LO, .POOL_STATE_HI,
   .POOL_RING_LO, .POOL_RING_HI, .POOL_FREE, .POOL_RING_RD, .POOL_RING_WR, .POOL_STAT, .POOL_REJECT, .POOL_RESV,
   .POOL_CHG, .RING_CTL, .RING_NOTE, .RING_DESC_LO, .RING_DESC_HI, .RING_CPL_LO, .RING_CPL_HI, .RING_PTR,
   .RING_DB, .RING_CPL_PTR, .RING_STAT, .RING_CMD, .RING_ERR_IDX, .STRIPE_CTL, .STRIPE_OFF_LO, .STRIPE_OFF_HI,
   .STRIPE_PORTS]
def pkgRegs2 : List RegId :=
  [.PLAY_CONCEAL_LO, .PLAY_CONCEAL_HI, .TAP_CTL, .TAP_GEOM, .TAP_LOG_LO, .TAP_LOG_HI, .TAP_LOG_CTL, .TAP_LOG_PTR,
   .TAP_STAT, .TAP_PREV_LO, .TAP_PREV_HI, .TAP_CMD, .TAP_OFF2, .TAP_OFF4, .TAP_OFFA, .TAP_LEN, .TAP_ERR, .MOV_CTL,
   .MOV_STAT, .MOV_ERR, .WIN_O_CTL, .WIN_O_PF, .WIN_O_BASE_LO, .WIN_O_BASE_HI, .WIN_O_LIMIT_LO, .WIN_O_LIMIT_HI,
   .WIN_O_TARGET_LO, .WIN_O_TARGET_HI, .WIN_O_PTA_LO, .WIN_O_PTA_HI, .WIN_O_PTB_LO, .WIN_O_PTB_HI, .WIN_O_ROUTE,
   .WIN_O_STAT, .WIN_I_CTL, .WIN_I_PF, .WIN_I_BASE_LO, .WIN_I_BASE_HI, .WIN_I_LIMIT_LO, .WIN_I_LIMIT_HI]
def pkgRegs3 : List RegId :=
  [.WIN_I_TARGET_LO, .WIN_I_TARGET_HI, .WIN_I_PTA_LO, .WIN_I_PTA_HI, .WIN_I_PTB_LO, .WIN_I_PTB_HI, .WIN_I_ROUTE,
   .WIN_I_STAT, .WIN_I_PORTS_LO, .WIN_I_PORTS_HI, .MON_CTL, .MON_SRC, .MON_SAMPLE, .MON_THRESH, .MON_STAT,
   .MON_MIN, .MON_MAX, .MON_COUNT, .MON_SUM_LO, .MON_SUM_HI, .MON_BIN, .ERR_READ, .ERR_STAT, .ERR_MIRE_CLR,
   .ERR_MIRE_COUNT, .ERR_DEF_INFO, .ERR_DEF_NEAR_LO, .ERR_DEF_NEAR_HI, .ERR_DEF_FAR_LO, .ERR_DEF_FAR_HI,
   .ERR_DEF_FAIL, .ERR_DEF_REQ, .ERR_DEF_DONE, .EVQ_READ, .EVQ_STAT, .EVQ_CTL, .EVQ_HOST_BASE_LO,
   .EVQ_HOST_BASE_HI, .EVQ_HOST_WR, .EVQ_HOST_RD]
/-- The registers of the package block, by rising offset. -/
def pkgRegs : List RegId := pkgRegs0 ++ pkgRegs1 ++ pkgRegs2 ++ pkgRegs3

def dieRegs0 : List RegId :=
  [.DIE_LOCK, .DIE_PROT_STAT, .DIE_ACC_ERR_ADDR_LO, .DIE_ACC_ERR_ADDR_HI, .DIE_ACC_ERR_INFO, .DIE_SVC,
   .DIE_SVC_STAT, .DIE_SRAM_STAT, .DIE_Q_CFG, .DIE_Q_CAP, .DIE_Q_DEPTH, .DIE_Q_COUNT, .DIE_Q_STAT, .DIE_Q_CTL,
   .CLK_CTL, .CLK_STAT, .CLK_FIO_CAL, .CLK_MON_CNT, .CLK_LOOP_CNT, .CLK_EVENT, .CLK_SLEEP, .CLK_WAKE, .PWR_GATE,
   .PWR_TEMP, .PWR_MP_CTL, .PWR_MP_STAT, .PWR_MP_MEAS, .PX_LINK_STAT, .PX_CTRL, .PX_L0P, .PX_OUT, .PX_EVENT,
   .PX_ERR_COUNT, .MSIX_PBA, .MSIX_ADDR_LO, .MSIX_ADDR_HI, .MSIX_DATA, .MSIX_VCTL, .MOR_LINK_STAT, .MC_BOOT_STAT]
def dieRegs1 : List RegId :=
  [.MC_BOOT_ALT, .MC_BOOT_SKIP, .MC_BOOT_COUNT, .MC_FLASH_STAT, .MC_LEDGER_CTL, .MC_FLASH_ADDR, .MC_FLASH_CMD,
   .MC_FLASH_RES, .MC_ROLE, .MC_HB, .MC_FLASH_BUF, .TC_SWITCH, .TC_SWITCH_STAT, .TC_INVAL, .TC_INVAL_PAGE,
   .TC_PFD_READ, .TC_PFD_STAT]
/-- The registers of the die block, by rising offset. -/
def dieRegs : List RegId := dieRegs0 ++ dieRegs1

def tileRegs0 : List RegId :=
  [.TIL_LOCK, .TIL_ARB, .TIL_SVC, .TIL_SVC_STAT, .TIL_BOND, .BB_LINK_CTRL, .BB_LINK_STAT, .BB_LANE_STAT,
   .BB_LINK_THRESH, .BB_LINK_ERR, .BB_LINK_EVENT, .BB_LANE_CVA, .BB_LANE_CVB, .BB_TXN_CTRL, .BB_TXN_STAT,
   .BB_TXN_EVENT, .BB_TXN_ERR, .BB_IRQ_RX, .BB_IRQ_VECA, .BB_IRQ_VECB, .BB_IRQ_IAK, .BB_IRQ_TX, .BB_RETRY_CTL,
   .BB_RETRY_TAB_LO, .BB_RETRY_TAB_HI]
/-- The registers of the tile block, by rising offset. -/
def tileRegs : List RegId := tileRegs0

/-- A field named by its register and bits. -/
structure Fld where
  reg : RegId
  hi : Nat
  lo : Nat
  deriving DecidableEq, Repr

/-! PKG_ID (spec/02 R51) -/
abbrev PKG_ID.DEVICE : Fld := ⟨.PKG_ID, 31, 16⟩
abbrev PKG_ID.STEP : Fld := ⟨.PKG_ID, 11, 8⟩
abbrev PKG_ID.DIES : Fld := ⟨.PKG_ID, 7, 4⟩
abbrev PKG_ID.ENTRY_DIE : Fld := ⟨.PKG_ID, 2, 0⟩
/-! PKG_LOCK (spec/02 R72) -/
abbrev PKG_LOCK.COPIES : Fld := ⟨.PKG_LOCK, 15, 8⟩
abbrev PKG_LOCK.LOCK : Fld := ⟨.PKG_LOCK, 0, 0⟩
/-! PKG_BB_CTRL_BASE_LO (spec/02 R55) -/
abbrev PKG_BB_CTRL_BASE_LO.BASE_31_27 : Fld := ⟨.PKG_BB_CTRL_BASE_LO, 31, 27⟩
abbrev PKG_BB_CTRL_BASE_LO.EN : Fld := ⟨.PKG_BB_CTRL_BASE_LO, 0, 0⟩
/-! PKG_BB_CTRL_BASE_HI (spec/02 R55) -/
abbrev PKG_BB_CTRL_BASE_HI.BASE_47_32 : Fld := ⟨.PKG_BB_CTRL_BASE_HI, 15, 0⟩
/-! PKG_BB_CTRL_PORTS_LO (spec/02 R55) -/
abbrev PKG_BB_CTRL_PORTS_LO.PORT_EN : Fld := ⟨.PKG_BB_CTRL_PORTS_LO, 31, 0⟩
/-! PKG_BB_CTRL_PORTS_HI (spec/02 R55) -/
abbrev PKG_BB_CTRL_PORTS_HI.PORT_EN : Fld := ⟨.PKG_BB_CTRL_PORTS_HI, 31, 0⟩
/-! PKG_SEAL_CTRL (spec/02 R78) -/
abbrev PKG_SEAL_CTRL.COMMIT : Fld := ⟨.PKG_SEAL_CTRL, 0, 0⟩
/-! PKG_SEAL_STAT (spec/02 R78) -/
abbrev PKG_SEAL_STAT.FAULT : Fld := ⟨.PKG_SEAL_STAT, 31, 24⟩
abbrev PKG_SEAL_STAT.OPEN : Fld := ⟨.PKG_SEAL_STAT, 23, 16⟩
abbrev PKG_SEAL_STAT.SEALED : Fld := ⟨.PKG_SEAL_STAT, 15, 8⟩
abbrev PKG_SEAL_STAT.MISMATCH : Fld := ⟨.PKG_SEAL_STAT, 7, 0⟩
/-! PKG_SEAL_VALUE (spec/02 R78) -/
abbrev PKG_SEAL_VALUE.SEAL : Fld := ⟨.PKG_SEAL_VALUE, 31, 0⟩
/-! PROT_CTL (spec/09 R252) -/
abbrev PROT_CTL.DIRTY : Fld := ⟨.PROT_CTL, 31, 31⟩
abbrev PROT_CTL.DISCARD : Fld := ⟨.PROT_CTL, 1, 1⟩
abbrev PROT_CTL.COMMIT : Fld := ⟨.PROT_CTL, 0, 0⟩
/-! PROT_EPOCH (spec/09 R252) -/
abbrev PROT_EPOCH.EPOCH : Fld := ⟨.PROT_EPOCH, 15, 0⟩
/-! PROT_DRAIN (spec/09 R252) -/
abbrev PROT_DRAIN.DRAINED : Fld := ⟨.PROT_DRAIN, 7, 0⟩
/-! PROT_DEFAULT (spec/09 R252) -/
abbrev PROT_DEFAULT.BB : Fld := ⟨.PROT_DEFAULT, 14, 12⟩
abbrev PROT_DEFAULT.HOST : Fld := ⟨.PROT_DEFAULT, 11, 9⟩
abbrev PROT_DEFAULT.APERTURE : Fld := ⟨.PROT_DEFAULT, 8, 6⟩
abbrev PROT_DEFAULT.DOORBELL : Fld := ⟨.PROT_DEFAULT, 5, 3⟩
abbrev PROT_DEFAULT.CTRL : Fld := ⟨.PROT_DEFAULT, 2, 0⟩
/-! PROT_BIND (spec/09 R252) -/
abbrev PROT_BIND.SET : Fld := ⟨.PROT_BIND, 5, 0⟩
/-! PROT_VIO_INFO (spec/09 R252) -/
abbrev PROT_VIO_INFO.VALID : Fld := ⟨.PROT_VIO_INFO, 31, 31⟩
abbrev PROT_VIO_INFO.ACCESS : Fld := ⟨.PROT_VIO_INFO, 30, 28⟩
abbrev PROT_VIO_INFO.PRIV : Fld := ⟨.PROT_VIO_INFO, 27, 27⟩
abbrev PROT_VIO_INFO.NOMATCH : Fld := ⟨.PROT_VIO_INFO, 26, 26⟩
abbrev PROT_VIO_INFO.KIND : Fld := ⟨.PROT_VIO_INFO, 25, 23⟩
abbrev PROT_VIO_INFO.REGION : Fld := ⟨.PROT_VIO_INFO, 22, 18⟩
abbrev PROT_VIO_INFO.SET : Fld := ⟨.PROT_VIO_INFO, 17, 12⟩
abbrev PROT_VIO_INFO.MORE : Fld := ⟨.PROT_VIO_INFO, 7, 0⟩
/-! PROT_VIO_ADDR_LO (spec/09 R252) -/
abbrev PROT_VIO_ADDR_LO.ADDR : Fld := ⟨.PROT_VIO_ADDR_LO, 31, 0⟩
/-! PROT_VIO_ADDR_HI (spec/09 R252) -/
abbrev PROT_VIO_ADDR_HI.ADDR : Fld := ⟨.PROT_VIO_ADDR_HI, 31, 0⟩
/-! PROT_VIO_DETAIL (spec/09 R252) -/
abbrev PROT_VIO_DETAIL.PASID : Fld := ⟨.PROT_VIO_DETAIL, 31, 12⟩
abbrev PROT_VIO_DETAIL.PORT : Fld := ⟨.PROT_VIO_DETAIL, 11, 6⟩
abbrev PROT_VIO_DETAIL.SPACE : Fld := ⟨.PROT_VIO_DETAIL, 5, 4⟩
abbrev PROT_VIO_DETAIL.PASID_VALID : Fld := ⟨.PROT_VIO_DETAIL, 3, 3⟩
/-! PROT_VIO_REQ (spec/09 R252) -/
abbrev PROT_VIO_REQ.REQUESTER : Fld := ⟨.PROT_VIO_REQ, 31, 16⟩
abbrev PROT_VIO_REQ.EPOCH : Fld := ⟨.PROT_VIO_REQ, 15, 0⟩
/-! PROT_VIO_LEN (spec/09 R252) -/
abbrev PROT_VIO_LEN.LENGTH : Fld := ⟨.PROT_VIO_LEN, 16, 0⟩
/-! PROT_VIO_DENIED (spec/09 R252) -/
abbrev PROT_VIO_DENIED.DENIED_LEN : Fld := ⟨.PROT_VIO_DENIED, 16, 0⟩
/-! PROT_VIO_CLR (spec/09 R252) -/
abbrev PROT_VIO_CLR.CLEAR : Fld := ⟨.PROT_VIO_CLR, 0, 0⟩
/-! PROT_RGN_BASE_LO (spec/09 R252) -/
abbrev PROT_RGN_BASE_LO.BASE : Fld := ⟨.PROT_RGN_BASE_LO, 31, 12⟩
abbrev PROT_RGN_BASE_LO.EN : Fld := ⟨.PROT_RGN_BASE_LO, 11, 11⟩
abbrev PROT_RGN_BASE_LO.KIND : Fld := ⟨.PROT_RGN_BASE_LO, 10, 8⟩
abbrev PROT_RGN_BASE_LO.SPACE : Fld := ⟨.PROT_RGN_BASE_LO, 7, 6⟩
abbrev PROT_RGN_BASE_LO.PORT : Fld := ⟨.PROT_RGN_BASE_LO, 5, 0⟩
/-! PROT_RGN_BASE_HI (spec/09 R252) -/
abbrev PROT_RGN_BASE_HI.BASE_HI : Fld := ⟨.PROT_RGN_BASE_HI, 31, 0⟩
/-! PROT_RGN_LIMIT_LO (spec/09 R252) -/
abbrev PROT_RGN_LIMIT_LO.LIMIT : Fld := ⟨.PROT_RGN_LIMIT_LO, 31, 12⟩
abbrev PROT_RGN_LIMIT_LO.PORT_ANY : Fld := ⟨.PROT_RGN_LIMIT_LO, 11, 11⟩
abbrev PROT_RGN_LIMIT_LO.SPACE_ANY : Fld := ⟨.PROT_RGN_LIMIT_LO, 10, 10⟩
abbrev PROT_RGN_LIMIT_LO.SR : Fld := ⟨.PROT_RGN_LIMIT_LO, 5, 5⟩
abbrev PROT_RGN_LIMIT_LO.SW : Fld := ⟨.PROT_RGN_LIMIT_LO, 4, 4⟩
abbrev PROT_RGN_LIMIT_LO.SX : Fld := ⟨.PROT_RGN_LIMIT_LO, 3, 3⟩
abbrev PROT_RGN_LIMIT_LO.UR : Fld := ⟨.PROT_RGN_LIMIT_LO, 2, 2⟩
abbrev PROT_RGN_LIMIT_LO.UW : Fld := ⟨.PROT_RGN_LIMIT_LO, 1, 1⟩
abbrev PROT_RGN_LIMIT_LO.UX : Fld := ⟨.PROT_RGN_LIMIT_LO, 0, 0⟩
/-! PROT_RGN_LIMIT_HI (spec/09 R252) -/
abbrev PROT_RGN_LIMIT_HI.LIMIT_HI : Fld := ⟨.PROT_RGN_LIMIT_HI, 31, 0⟩
/-! SEM_STAT (spec/07 R216) -/
abbrev SEM_STAT.HELD : Fld := ⟨.SEM_STAT, 31, 31⟩
abbrev SEM_STAT.KIND : Fld := ⟨.SEM_STAT, 30, 29⟩
abbrev SEM_STAT.HOLDER : Fld := ⟨.SEM_STAT, 21, 16⟩
abbrev SEM_STAT.RESV : Fld := ⟨.SEM_STAT, 15, 15⟩
abbrev SEM_STAT.RESV_PORT : Fld := ⟨.SEM_STAT, 13, 8⟩
abbrev SEM_STAT.WAITING : Fld := ⟨.SEM_STAT, 7, 0⟩
/-! SEM_CTL (spec/07 R216) -/
abbrev SEM_CTL.TIMEOUT : Fld := ⟨.SEM_CTL, 31, 16⟩
abbrev SEM_CTL.RESERVE : Fld := ⟨.SEM_CTL, 15, 8⟩
abbrev SEM_CTL.FORCE : Fld := ⟨.SEM_CTL, 0, 0⟩
/-! SEM_SW (spec/07 R216) -/
abbrev SEM_SW.GIVE : Fld := ⟨.SEM_SW, 1, 1⟩
abbrev SEM_SW.TAKE : Fld := ⟨.SEM_SW, 0, 0⟩
/-! SEM_CNT (spec/07 R216) -/
abbrev SEM_CNT.GRANTS : Fld := ⟨.SEM_CNT, 31, 16⟩
abbrev SEM_CNT.RTY_SENT : Fld := ⟨.SEM_CNT, 15, 8⟩
abbrev SEM_CNT.FORCED : Fld := ⟨.SEM_CNT, 7, 0⟩
/-! IRQ_BBIN_CTL (spec/08 R217) -/
abbrev IRQ_BBIN_CTL.EN : Fld := ⟨.IRQ_BBIN_CTL, 31, 31⟩
abbrev IRQ_BBIN_CTL.TO_BB : Fld := ⟨.IRQ_BBIN_CTL, 30, 30⟩
abbrev IRQ_BBIN_CTL.VMODE : Fld := ⟨.IRQ_BBIN_CTL, 29, 28⟩
abbrev IRQ_BBIN_CTL.IAK_AUTO : Fld := ⟨.IRQ_BBIN_CTL, 27, 27⟩
abbrev IRQ_BBIN_CTL.MOD : Fld := ⟨.IRQ_BBIN_CTL, 15, 0⟩
/-! IRQ_BBIN_TGT (spec/08 R217) -/
abbrev IRQ_BBIN_TGT.PORT : Fld := ⟨.IRQ_BBIN_TGT, 29, 24⟩
abbrev IRQ_BBIN_TGT.DIE : Fld := ⟨.IRQ_BBIN_TGT, 22, 20⟩
abbrev IRQ_BBIN_TGT.LEVEL : Fld := ⟨.IRQ_BBIN_TGT, 18, 16⟩
abbrev IRQ_BBIN_TGT.VECTOR : Fld := ⟨.IRQ_BBIN_TGT, 10, 0⟩
/-! IRQ_CLASS_CTL (spec/08 R217) -/
abbrev IRQ_CLASS_CTL.EN : Fld := ⟨.IRQ_CLASS_CTL, 31, 31⟩
abbrev IRQ_CLASS_CTL.TO_BB : Fld := ⟨.IRQ_CLASS_CTL, 30, 30⟩
abbrev IRQ_CLASS_CTL.VMODE : Fld := ⟨.IRQ_CLASS_CTL, 29, 28⟩
abbrev IRQ_CLASS_CTL.IAK_AUTO : Fld := ⟨.IRQ_CLASS_CTL, 27, 27⟩
abbrev IRQ_CLASS_CTL.MOD : Fld := ⟨.IRQ_CLASS_CTL, 15, 0⟩
/-! IRQ_CLASS_TGT (spec/08 R217) -/
abbrev IRQ_CLASS_TGT.PORT : Fld := ⟨.IRQ_CLASS_TGT, 29, 24⟩
abbrev IRQ_CLASS_TGT.DIE : Fld := ⟨.IRQ_CLASS_TGT, 22, 20⟩
abbrev IRQ_CLASS_TGT.LEVEL : Fld := ⟨.IRQ_CLASS_TGT, 18, 16⟩
abbrev IRQ_CLASS_TGT.VECTOR : Fld := ⟨.IRQ_CLASS_TGT, 10, 0⟩
/-! IRQ_RING_CTL (spec/08 R217) -/
abbrev IRQ_RING_CTL.EN : Fld := ⟨.IRQ_RING_CTL, 31, 31⟩
abbrev IRQ_RING_CTL.TO_BB : Fld := ⟨.IRQ_RING_CTL, 30, 30⟩
abbrev IRQ_RING_CTL.VMODE : Fld := ⟨.IRQ_RING_CTL, 29, 28⟩
abbrev IRQ_RING_CTL.IAK_AUTO : Fld := ⟨.IRQ_RING_CTL, 27, 27⟩
abbrev IRQ_RING_CTL.MOD : Fld := ⟨.IRQ_RING_CTL, 15, 0⟩
/-! IRQ_RING_TGT (spec/08 R217) -/
abbrev IRQ_RING_TGT.PORT : Fld := ⟨.IRQ_RING_TGT, 29, 24⟩
abbrev IRQ_RING_TGT.DIE : Fld := ⟨.IRQ_RING_TGT, 22, 20⟩
abbrev IRQ_RING_TGT.LEVEL : Fld := ⟨.IRQ_RING_TGT, 18, 16⟩
abbrev IRQ_RING_TGT.VECTOR : Fld := ⟨.IRQ_RING_TGT, 10, 0⟩
/-! IRQ_NMI_CTL (spec/08 R225) -/
abbrev IRQ_NMI_CTL.VECTOR : Fld := ⟨.IRQ_NMI_CTL, 7, 0⟩
/-! IRQ_NMI_CAUSE (spec/08 R225) -/
abbrev IRQ_NMI_CAUSE.PEND : Fld := ⟨.IRQ_NMI_CAUSE, 31, 31⟩
abbrev IRQ_NMI_CAUSE.DIE : Fld := ⟨.IRQ_NMI_CAUSE, 23, 16⟩
abbrev IRQ_NMI_CAUSE.FORCED : Fld := ⟨.IRQ_NMI_CAUSE, 6, 6⟩
abbrev IRQ_NMI_CAUSE.FIO : Fld := ⟨.IRQ_NMI_CAUSE, 5, 5⟩
abbrev IRQ_NMI_CAUSE.BBPLL : Fld := ⟨.IRQ_NMI_CAUSE, 4, 4⟩
abbrev IRQ_NMI_CAUSE.PLLB : Fld := ⟨.IRQ_NMI_CAUSE, 3, 3⟩
abbrev IRQ_NMI_CAUSE.PLLA : Fld := ⟨.IRQ_NMI_CAUSE, 2, 2⟩
abbrev IRQ_NMI_CAUSE.XB : Fld := ⟨.IRQ_NMI_CAUSE, 1, 1⟩
abbrev IRQ_NMI_CAUSE.XA : Fld := ⟨.IRQ_NMI_CAUSE, 0, 0⟩
/-! IRQ_BBOUT_PEND (spec/08 R222) -/
abbrev IRQ_BBOUT_PEND.VALID : Fld := ⟨.IRQ_BBOUT_PEND, 31, 31⟩
abbrev IRQ_BBOUT_PEND.ROAK : Fld := ⟨.IRQ_BBOUT_PEND, 30, 30⟩
abbrev IRQ_BBOUT_PEND.RING : Fld := ⟨.IRQ_BBOUT_PEND, 26, 26⟩
abbrev IRQ_BBOUT_PEND.SOURCE : Fld := ⟨.IRQ_BBOUT_PEND, 25, 16⟩
abbrev IRQ_BBOUT_PEND.VECTOR : Fld := ⟨.IRQ_BBOUT_PEND, 7, 0⟩
/-! POOL_TOTAL_LO (spec/11 R290) -/
abbrev POOL_TOTAL_LO.BYTES : Fld := ⟨.POOL_TOTAL_LO, 31, 0⟩
/-! POOL_TOTAL_HI (spec/11 R290) -/
abbrev POOL_TOTAL_HI.BYTES : Fld := ⟨.POOL_TOTAL_HI, 31, 0⟩
/-! POOL_CMD (spec/11 R290) -/
abbrev POOL_CMD.OP : Fld := ⟨.POOL_CMD, 31, 28⟩
abbrev POOL_CMD.POOL : Fld := ⟨.POOL_CMD, 27, 20⟩
abbrev POOL_CMD.OWNER : Fld := ⟨.POOL_CMD, 10, 8⟩
abbrev POOL_CMD.NEW_OWNER : Fld := ⟨.POOL_CMD, 2, 0⟩
/-! POOL_ARG_LO (spec/11 R290) -/
abbrev POOL_ARG_LO.HANDLE : Fld := ⟨.POOL_ARG_LO, 31, 0⟩
/-! POOL_ARG_HI (spec/11 R290) -/
abbrev POOL_ARG_HI.HANDLE : Fld := ⟨.POOL_ARG_HI, 31, 0⟩
/-! POOL_RES_LO (spec/11 R290) -/
abbrev POOL_RES_LO.HANDLE : Fld := ⟨.POOL_RES_LO, 31, 0⟩
/-! POOL_RES_HI (spec/11 R290) -/
abbrev POOL_RES_HI.HANDLE : Fld := ⟨.POOL_RES_HI, 31, 0⟩
/-! POOL_RES_STAT (spec/11 R290) -/
abbrev POOL_RES_STAT.SEQ : Fld := ⟨.POOL_RES_STAT, 31, 16⟩
abbrev POOL_RES_STAT.OP : Fld := ⟨.POOL_RES_STAT, 15, 12⟩
abbrev POOL_RES_STAT.NOWN : Fld := ⟨.POOL_RES_STAT, 11, 8⟩
abbrev POOL_RES_STAT.STATUS : Fld := ⟨.POOL_RES_STAT, 7, 0⟩
/-! POOL_CTL (spec/11 R290) -/
abbrev POOL_CTL.EN : Fld := ⟨.POOL_CTL, 31, 31⟩
abbrev POOL_CTL.KIND : Fld := ⟨.POOL_CTL, 30, 30⟩
abbrev POOL_CTL.SPACE : Fld := ⟨.POOL_CTL, 29, 28⟩
abbrev POOL_CTL.HOST_DIE : Fld := ⟨.POOL_CTL, 26, 24⟩
abbrev POOL_CTL.RING_ORDER : Fld := ⟨.POOL_CTL, 21, 16⟩
abbrev POOL_CTL.OWNERS : Fld := ⟨.POOL_CTL, 3, 0⟩
/-! POOL_SIZE (spec/11 R290) -/
abbrev POOL_SIZE.SIZE : Fld := ⟨.POOL_SIZE, 23, 0⟩
/-! POOL_COUNT (spec/11 R290) -/
abbrev POOL_COUNT.COUNT : Fld := ⟨.POOL_COUNT, 31, 0⟩
/-! POOL_TARGET (spec/11 R290) -/
abbrev POOL_TARGET.STRIPE : Fld := ⟨.POOL_TARGET, 8, 8⟩
abbrev POOL_TARGET.TARGET : Fld := ⟨.POOL_TARGET, 7, 0⟩
/-! POOL_BASE_LO (spec/11 R290) -/
abbrev POOL_BASE_LO.ADDR : Fld := ⟨.POOL_BASE_LO, 31, 12⟩
/-! POOL_BASE_HI (spec/11 R290) -/
abbrev POOL_BASE_HI.ADDR_HI : Fld := ⟨.POOL_BASE_HI, 31, 0⟩
/-! POOL_STATE_LO (spec/11 R290) -/
abbrev POOL_STATE_LO.ADDR : Fld := ⟨.POOL_STATE_LO, 31, 12⟩
/-! POOL_STATE_HI (spec/11 R290) -/
abbrev POOL_STATE_HI.ADDR_HI : Fld := ⟨.POOL_STATE_HI, 31, 0⟩
/-! POOL_RING_LO (spec/11 R290) -/
abbrev POOL_RING_LO.ADDR : Fld := ⟨.POOL_RING_LO, 31, 12⟩
/-! POOL_RING_HI (spec/11 R290) -/
abbrev POOL_RING_HI.ADDR_HI : Fld := ⟨.POOL_RING_HI, 31, 0⟩
/-! POOL_FREE (spec/11 R290) -/
abbrev POOL_FREE.FREE : Fld := ⟨.POOL_FREE, 31, 0⟩
/-! POOL_RING_RD (spec/11 R290) -/
abbrev POOL_RING_RD.RD : Fld := ⟨.POOL_RING_RD, 31, 0⟩
/-! POOL_RING_WR (spec/11 R290) -/
abbrev POOL_RING_WR.WR : Fld := ⟨.POOL_RING_WR, 31, 0⟩
/-! POOL_STAT (spec/11 R290) -/
abbrev POOL_STAT.RR : Fld := ⟨.POOL_STAT, 31, 24⟩
abbrev POOL_STAT.CACHE : Fld := ⟨.POOL_STAT, 22, 16⟩
abbrev POOL_STAT.HOST_FAULT : Fld := ⟨.POOL_STAT, 3, 3⟩
abbrev POOL_STAT.RING_BAD : Fld := ⟨.POOL_STAT, 2, 2⟩
abbrev POOL_STAT.CFG_REFUSED : Fld := ⟨.POOL_STAT, 1, 1⟩
abbrev POOL_STAT.ACTIVE : Fld := ⟨.POOL_STAT, 0, 0⟩
/-! POOL_REJECT (spec/11 R290) -/
abbrev POOL_REJECT.EMPTY : Fld := ⟨.POOL_REJECT, 31, 16⟩
abbrev POOL_REJECT.STALE : Fld := ⟨.POOL_REJECT, 15, 8⟩
abbrev POOL_REJECT.OWNERSHIP : Fld := ⟨.POOL_REJECT, 7, 0⟩
/-! POOL_RESV (spec/11 R290) -/
abbrev POOL_RESV.RESV : Fld := ⟨.POOL_RESV, 31, 0⟩
/-! POOL_CHG (spec/11 R290) -/
abbrev POOL_CHG.CHARGED : Fld := ⟨.POOL_CHG, 31, 0⟩
/-! RING_CTL (spec/12 R321) -/
abbrev RING_CTL.EN : Fld := ⟨.RING_CTL, 31, 31⟩
abbrev RING_CTL.PRIV : Fld := ⟨.RING_CTL, 30, 30⟩
abbrev RING_CTL.HOME_DIE : Fld := ⟨.RING_CTL, 29, 27⟩
abbrev RING_CTL.HOST_DIE : Fld := ⟨.RING_CTL, 26, 24⟩
abbrev RING_CTL.MOVER : Fld := ⟨.RING_CTL, 23, 20⟩
abbrev RING_CTL.OWNER : Fld := ⟨.RING_CTL, 19, 17⟩
abbrev RING_CTL.ORDER : Fld := ⟨.RING_CTL, 4, 0⟩
/-! RING_NOTE (spec/12 R321) -/
abbrev RING_NOTE.TAIL : Fld := ⟨.RING_NOTE, 31, 16⟩
abbrev RING_NOTE.EVERY : Fld := ⟨.RING_NOTE, 15, 8⟩
/-! RING_DESC_LO (spec/12 R321) -/
abbrev RING_DESC_LO.ADDR : Fld := ⟨.RING_DESC_LO, 31, 12⟩
/-! RING_DESC_HI (spec/12 R321) -/
abbrev RING_DESC_HI.ADDR_HI : Fld := ⟨.RING_DESC_HI, 31, 0⟩
/-! RING_CPL_LO (spec/12 R321) -/
abbrev RING_CPL_LO.ADDR : Fld := ⟨.RING_CPL_LO, 31, 12⟩
/-! RING_CPL_HI (spec/12 R321) -/
abbrev RING_CPL_HI.ADDR_HI : Fld := ⟨.RING_CPL_HI, 31, 0⟩
/-! RING_PTR (spec/12 R321) -/
abbrev RING_PTR.POSTED : Fld := ⟨.RING_PTR, 31, 16⟩
abbrev RING_PTR.FETCHED : Fld := ⟨.RING_PTR, 15, 0⟩
/-! RING_DB (spec/12 R321) -/
abbrev RING_DB.TAIL : Fld := ⟨.RING_DB, 15, 0⟩
/-! RING_CPL_PTR (spec/12 R321) -/
abbrev RING_CPL_PTR.CPL_WR : Fld := ⟨.RING_CPL_PTR, 31, 16⟩
abbrev RING_CPL_PTR.CPL_RD : Fld := ⟨.RING_CPL_PTR, 15, 0⟩
/-! RING_STAT (spec/12 R321) -/
abbrev RING_STAT.STATE : Fld := ⟨.RING_STAT, 31, 30⟩
abbrev RING_STAT.LAST_STATUS : Fld := ⟨.RING_STAT, 23, 16⟩
abbrev RING_STAT.CPL_LOST : Fld := ⟨.RING_STAT, 4, 4⟩
abbrev RING_STAT.STOPPED_ERR : Fld := ⟨.RING_STAT, 3, 3⟩
abbrev RING_STAT.FETCH_FAULT : Fld := ⟨.RING_STAT, 2, 2⟩
abbrev RING_STAT.DB_BAD : Fld := ⟨.RING_STAT, 1, 1⟩
abbrev RING_STAT.CFG_REFUSED : Fld := ⟨.RING_STAT, 0, 0⟩
/-! RING_CMD (spec/12 R321) -/
abbrev RING_CMD.RESET : Fld := ⟨.RING_CMD, 2, 2⟩
abbrev RING_CMD.RESUME : Fld := ⟨.RING_CMD, 1, 1⟩
abbrev RING_CMD.STOP : Fld := ⟨.RING_CMD, 0, 0⟩
/-! RING_ERR_IDX (spec/12 R321) -/
abbrev RING_ERR_IDX.INDEX : Fld := ⟨.RING_ERR_IDX, 15, 0⟩
/-! STRIPE_CTL (spec/12 R321) -/
abbrev STRIPE_CTL.EN : Fld := ⟨.STRIPE_CTL, 31, 31⟩
abbrev STRIPE_CTL.CFG_REFUSED : Fld := ⟨.STRIPE_CTL, 30, 30⟩
abbrev STRIPE_CTL.UNIT : Fld := ⟨.STRIPE_CTL, 10, 8⟩
abbrev STRIPE_CTL.WIDTH : Fld := ⟨.STRIPE_CTL, 4, 0⟩
/-! STRIPE_OFF_LO (spec/12 R321) -/
abbrev STRIPE_OFF_LO.OFFSET : Fld := ⟨.STRIPE_OFF_LO, 31, 16⟩
/-! STRIPE_OFF_HI (spec/12 R321) -/
abbrev STRIPE_OFF_HI.OFFSET_HI : Fld := ⟨.STRIPE_OFF_HI, 15, 0⟩
/-! STRIPE_PORTS (spec/12 R321) -/
abbrev STRIPE_PORTS.PORT3 : Fld := ⟨.STRIPE_PORTS, 29, 24⟩
abbrev STRIPE_PORTS.PORT2 : Fld := ⟨.STRIPE_PORTS, 21, 16⟩
abbrev STRIPE_PORTS.PORT1 : Fld := ⟨.STRIPE_PORTS, 13, 8⟩
abbrev STRIPE_PORTS.PORT0 : Fld := ⟨.STRIPE_PORTS, 5, 0⟩
/-! PLAY_CONCEAL_LO (spec/13 R342) -/
abbrev PLAY_CONCEAL_LO.PATTERN : Fld := ⟨.PLAY_CONCEAL_LO, 31, 0⟩
/-! PLAY_CONCEAL_HI (spec/13 R342) -/
abbrev PLAY_CONCEAL_HI.PATTERN : Fld := ⟨.PLAY_CONCEAL_HI, 31, 0⟩
/-! TAP_CTL (spec/13 R343) -/
abbrev TAP_CTL.EN : Fld := ⟨.TAP_CTL, 31, 31⟩
abbrev TAP_CTL.STRICT : Fld := ⟨.TAP_CTL, 30, 30⟩
abbrev TAP_CTL.SHED : Fld := ⟨.TAP_CTL, 29, 29⟩
abbrev TAP_CTL.FORMAT : Fld := ⟨.TAP_CTL, 28, 26⟩
abbrev TAP_CTL.BITS : Fld := ⟨.TAP_CTL, 25, 24⟩
abbrev TAP_CTL.BH : Fld := ⟨.TAP_CTL, 23, 23⟩
abbrev TAP_CTL.COMP : Fld := ⟨.TAP_CTL, 22, 21⟩
abbrev TAP_CTL.TW : Fld := ⟨.TAP_CTL, 20, 17⟩
abbrev TAP_CTL.OWNER : Fld := ⟨.TAP_CTL, 16, 14⟩
abbrev TAP_CTL.CODEC : Fld := ⟨.TAP_CTL, 13, 11⟩
abbrev TAP_CTL.HOST_DIE : Fld := ⟨.TAP_CTL, 10, 8⟩
abbrev TAP_CTL.POOL : Fld := ⟨.TAP_CTL, 7, 0⟩
/-! TAP_GEOM (spec/13 R343) -/
abbrev TAP_GEOM.WIDTH : Fld := ⟨.TAP_GEOM, 31, 16⟩
abbrev TAP_GEOM.HEIGHT : Fld := ⟨.TAP_GEOM, 15, 0⟩
/-! TAP_LOG_LO (spec/13 R343) -/
abbrev TAP_LOG_LO.ADDR : Fld := ⟨.TAP_LOG_LO, 31, 12⟩
/-! TAP_LOG_HI (spec/13 R343) -/
abbrev TAP_LOG_HI.ADDR_HI : Fld := ⟨.TAP_LOG_HI, 31, 0⟩
/-! TAP_LOG_CTL (spec/13 R343) -/
abbrev TAP_LOG_CTL.SHED_US : Fld := ⟨.TAP_LOG_CTL, 31, 16⟩
abbrev TAP_LOG_CTL.ORDER : Fld := ⟨.TAP_LOG_CTL, 4, 0⟩
/-! TAP_LOG_PTR (spec/13 R343) -/
abbrev TAP_LOG_PTR.WR : Fld := ⟨.TAP_LOG_PTR, 31, 16⟩
abbrev TAP_LOG_PTR.RD : Fld := ⟨.TAP_LOG_PTR, 15, 0⟩
/-! TAP_STAT (spec/13 R343) -/
abbrev TAP_STAT.BUSY : Fld := ⟨.TAP_STAT, 31, 31⟩
abbrev TAP_STAT.HAS_PREV : Fld := ⟨.TAP_STAT, 30, 30⟩
abbrev TAP_STAT.CFG_REFUSED : Fld := ⟨.TAP_STAT, 29, 29⟩
abbrev TAP_STAT.SEQ : Fld := ⟨.TAP_STAT, 15, 0⟩
/-! TAP_PREV_LO (spec/13 R343) -/
abbrev TAP_PREV_LO.HANDLE : Fld := ⟨.TAP_PREV_LO, 31, 0⟩
/-! TAP_PREV_HI (spec/13 R343) -/
abbrev TAP_PREV_HI.HANDLE : Fld := ⟨.TAP_PREV_HI, 31, 0⟩
/-! TAP_CMD (spec/13 R343) -/
abbrev TAP_CMD.RESTART : Fld := ⟨.TAP_CMD, 0, 0⟩
/-! TAP_OFF2 (spec/13 R343) -/
abbrev TAP_OFF2.UNITS : Fld := ⟨.TAP_OFF2, 23, 0⟩
/-! TAP_OFF4 (spec/13 R343) -/
abbrev TAP_OFF4.UNITS : Fld := ⟨.TAP_OFF4, 23, 0⟩
/-! TAP_OFFA (spec/13 R343) -/
abbrev TAP_OFFA.UNITS : Fld := ⟨.TAP_OFFA, 23, 0⟩
/-! TAP_LEN (spec/13 R343) -/
abbrev TAP_LEN.UNITS : Fld := ⟨.TAP_LEN, 23, 0⟩
/-! TAP_ERR (spec/13 R343) -/
abbrev TAP_ERR.SHED : Fld := ⟨.TAP_ERR, 31, 24⟩
abbrev TAP_ERR.POOL_FAIL : Fld := ⟨.TAP_ERR, 23, 16⟩
abbrev TAP_ERR.HOST_FAIL : Fld := ⟨.TAP_ERR, 15, 8⟩
abbrev TAP_ERR.CUT : Fld := ⟨.TAP_ERR, 7, 0⟩
/-! MOV_CTL (spec/12 R321) -/
abbrev MOV_CTL.RESET : Fld := ⟨.MOV_CTL, 31, 31⟩
abbrev MOV_CTL.DEPTH : Fld := ⟨.MOV_CTL, 11, 8⟩
abbrev MOV_CTL.PER_PORT : Fld := ⟨.MOV_CTL, 2, 0⟩
/-! MOV_STAT (spec/12 R321) -/
abbrev MOV_STAT.BUSY : Fld := ⟨.MOV_STAT, 31, 31⟩
abbrev MOV_STAT.IN_PROGRESS : Fld := ⟨.MOV_STAT, 30, 27⟩
abbrev MOV_STAT.RESETTING : Fld := ⟨.MOV_STAT, 26, 26⟩
abbrev MOV_STAT.RING : Fld := ⟨.MOV_STAT, 25, 16⟩
abbrev MOV_STAT.STARTED : Fld := ⟨.MOV_STAT, 15, 0⟩
/-! MOV_ERR (spec/12 R321) -/
abbrev MOV_ERR.ABORTED : Fld := ⟨.MOV_ERR, 31, 24⟩
abbrev MOV_ERR.BB_FAIL : Fld := ⟨.MOV_ERR, 23, 16⟩
abbrev MOV_ERR.HOST_FAIL : Fld := ⟨.MOV_ERR, 15, 8⟩
abbrev MOV_ERR.OVERRUNS : Fld := ⟨.MOV_ERR, 7, 0⟩
/-! WIN_O_CTL (spec/06 R167) -/
abbrev WIN_O_CTL.EN : Fld := ⟨.WIN_O_CTL, 31, 31⟩
abbrev WIN_O_CTL.PT_SEL : Fld := ⟨.WIN_O_CTL, 30, 30⟩
abbrev WIN_O_CTL.ORDER : Fld := ⟨.WIN_O_CTL, 29, 28⟩
abbrev WIN_O_CTL.CLASS : Fld := ⟨.WIN_O_CTL, 27, 27⟩
abbrev WIN_O_CTL.COURSE : Fld := ⟨.WIN_O_CTL, 26, 25⟩
abbrev WIN_O_CTL.WRITE : Fld := ⟨.WIN_O_CTL, 24, 24⟩
abbrev WIN_O_CTL.PREFETCH : Fld := ⟨.WIN_O_CTL, 23, 23⟩
abbrev WIN_O_CTL.SIDE_EFFECT : Fld := ⟨.WIN_O_CTL, 22, 22⟩
abbrev WIN_O_CTL.PAGED : Fld := ⟨.WIN_O_CTL, 21, 21⟩
abbrev WIN_O_CTL.LOCK_EN : Fld := ⟨.WIN_O_CTL, 20, 20⟩
abbrev WIN_O_CTL.LOCK : Fld := ⟨.WIN_O_CTL, 19, 14⟩
abbrev WIN_O_CTL.SPACE : Fld := ⟨.WIN_O_CTL, 13, 12⟩
abbrev WIN_O_CTL.PRIV : Fld := ⟨.WIN_O_CTL, 11, 11⟩
abbrev WIN_O_CTL.PROG : Fld := ⟨.WIN_O_CTL, 10, 10⟩
/-! WIN_O_PF (spec/06 R167) -/
abbrev WIN_O_PF.PF_LEN : Fld := ⟨.WIN_O_PF, 27, 24⟩
abbrev WIN_O_PF.PF_LIFE : Fld := ⟨.WIN_O_PF, 23, 16⟩
abbrev WIN_O_PF.WC_HOLD : Fld := ⟨.WIN_O_PF, 15, 8⟩
/-! WIN_O_BASE_LO (spec/06 R167) -/
abbrev WIN_O_BASE_LO.ADDR : Fld := ⟨.WIN_O_BASE_LO, 31, 12⟩
/-! WIN_O_BASE_HI (spec/06 R167) -/
abbrev WIN_O_BASE_HI.ADDR_HI : Fld := ⟨.WIN_O_BASE_HI, 7, 0⟩
/-! WIN_O_LIMIT_LO (spec/06 R167) -/
abbrev WIN_O_LIMIT_LO.ADDR : Fld := ⟨.WIN_O_LIMIT_LO, 31, 12⟩
/-! WIN_O_LIMIT_HI (spec/06 R167) -/
abbrev WIN_O_LIMIT_HI.ADDR_HI : Fld := ⟨.WIN_O_LIMIT_HI, 7, 0⟩
/-! WIN_O_TARGET_LO (spec/06 R167) -/
abbrev WIN_O_TARGET_LO.ADDR : Fld := ⟨.WIN_O_TARGET_LO, 31, 12⟩
/-! WIN_O_TARGET_HI (spec/06 R167) -/
abbrev WIN_O_TARGET_HI.ADDR_HI : Fld := ⟨.WIN_O_TARGET_HI, 15, 0⟩
/-! WIN_O_PTA_LO (spec/06 R167) -/
abbrev WIN_O_PTA_LO.ADDR : Fld := ⟨.WIN_O_PTA_LO, 31, 12⟩
/-! WIN_O_PTA_HI (spec/06 R167) -/
abbrev WIN_O_PTA_HI.ADDR_HI : Fld := ⟨.WIN_O_PTA_HI, 31, 0⟩
/-! WIN_O_PTB_LO (spec/06 R167) -/
abbrev WIN_O_PTB_LO.ADDR : Fld := ⟨.WIN_O_PTB_LO, 31, 12⟩
/-! WIN_O_PTB_HI (spec/06 R167) -/
abbrev WIN_O_PTB_HI.ADDR_HI : Fld := ⟨.WIN_O_PTB_HI, 31, 0⟩
/-! WIN_O_ROUTE (spec/06 R167) -/
abbrev WIN_O_ROUTE.PORT : Fld := ⟨.WIN_O_ROUTE, 29, 24⟩
abbrev WIN_O_ROUTE.PT_DIE : Fld := ⟨.WIN_O_ROUTE, 18, 16⟩
abbrev WIN_O_ROUTE.GROUP : Fld := ⟨.WIN_O_ROUTE, 15, 8⟩
/-! WIN_O_STAT (spec/06 R167) -/
abbrev WIN_O_STAT.MIRE : Fld := ⟨.WIN_O_STAT, 31, 31⟩
abbrev WIN_O_STAT.MIRE_DROPS : Fld := ⟨.WIN_O_STAT, 23, 8⟩
abbrev WIN_O_STAT.CFG_REFUSED : Fld := ⟨.WIN_O_STAT, 4, 4⟩
abbrev WIN_O_STAT.PF_REFUSED : Fld := ⟨.WIN_O_STAT, 3, 3⟩
abbrev WIN_O_STAT.PT_FAULT : Fld := ⟨.WIN_O_STAT, 2, 2⟩
abbrev WIN_O_STAT.PAGE_INVALID : Fld := ⟨.WIN_O_STAT, 1, 1⟩
abbrev WIN_O_STAT.PAGE_WP : Fld := ⟨.WIN_O_STAT, 0, 0⟩
/-! WIN_I_CTL (spec/06 R167) -/
abbrev WIN_I_CTL.EN : Fld := ⟨.WIN_I_CTL, 31, 31⟩
abbrev WIN_I_CTL.PT_SEL : Fld := ⟨.WIN_I_CTL, 30, 30⟩
abbrev WIN_I_CTL.ORDER : Fld := ⟨.WIN_I_CTL, 29, 28⟩
abbrev WIN_I_CTL.CLASS : Fld := ⟨.WIN_I_CTL, 27, 27⟩
abbrev WIN_I_CTL.COURSE : Fld := ⟨.WIN_I_CTL, 26, 25⟩
abbrev WIN_I_CTL.WRITE : Fld := ⟨.WIN_I_CTL, 24, 24⟩
abbrev WIN_I_CTL.PREFETCH : Fld := ⟨.WIN_I_CTL, 23, 23⟩
abbrev WIN_I_CTL.SIDE_EFFECT : Fld := ⟨.WIN_I_CTL, 22, 22⟩
abbrev WIN_I_CTL.PAGED : Fld := ⟨.WIN_I_CTL, 21, 21⟩
abbrev WIN_I_CTL.LOCK_EN : Fld := ⟨.WIN_I_CTL, 20, 20⟩
abbrev WIN_I_CTL.LOCK : Fld := ⟨.WIN_I_CTL, 19, 14⟩
abbrev WIN_I_CTL.SPACE : Fld := ⟨.WIN_I_CTL, 13, 12⟩
/-! WIN_I_PF (spec/06 R167) -/
abbrev WIN_I_PF.PF_LEN : Fld := ⟨.WIN_I_PF, 27, 24⟩
abbrev WIN_I_PF.PF_LIFE : Fld := ⟨.WIN_I_PF, 23, 16⟩
/-! WIN_I_BASE_LO (spec/06 R167) -/
abbrev WIN_I_BASE_LO.ADDR : Fld := ⟨.WIN_I_BASE_LO, 31, 12⟩
/-! WIN_I_BASE_HI (spec/06 R167) -/
abbrev WIN_I_BASE_HI.ADDR_HI : Fld := ⟨.WIN_I_BASE_HI, 15, 0⟩
/-! WIN_I_LIMIT_LO (spec/06 R167) -/
abbrev WIN_I_LIMIT_LO.ADDR : Fld := ⟨.WIN_I_LIMIT_LO, 31, 12⟩
/-! WIN_I_LIMIT_HI (spec/06 R167) -/
abbrev WIN_I_LIMIT_HI.ADDR_HI : Fld := ⟨.WIN_I_LIMIT_HI, 15, 0⟩
/-! WIN_I_TARGET_LO (spec/06 R167) -/
abbrev WIN_I_TARGET_LO.ADDR : Fld := ⟨.WIN_I_TARGET_LO, 31, 12⟩
/-! WIN_I_TARGET_HI (spec/06 R167) -/
abbrev WIN_I_TARGET_HI.ADDR_HI : Fld := ⟨.WIN_I_TARGET_HI, 31, 0⟩
/-! WIN_I_PTA_LO (spec/06 R167) -/
abbrev WIN_I_PTA_LO.ADDR : Fld := ⟨.WIN_I_PTA_LO, 31, 12⟩
/-! WIN_I_PTA_HI (spec/06 R167) -/
abbrev WIN_I_PTA_HI.ADDR_HI : Fld := ⟨.WIN_I_PTA_HI, 31, 0⟩
/-! WIN_I_PTB_LO (spec/06 R167) -/
abbrev WIN_I_PTB_LO.ADDR : Fld := ⟨.WIN_I_PTB_LO, 31, 12⟩
/-! WIN_I_PTB_HI (spec/06 R167) -/
abbrev WIN_I_PTB_HI.ADDR_HI : Fld := ⟨.WIN_I_PTB_HI, 31, 0⟩
/-! WIN_I_ROUTE (spec/06 R167) -/
abbrev WIN_I_ROUTE.HOST_DIE : Fld := ⟨.WIN_I_ROUTE, 26, 24⟩
abbrev WIN_I_ROUTE.PT_DIE : Fld := ⟨.WIN_I_ROUTE, 18, 16⟩
abbrev WIN_I_ROUTE.GROUP : Fld := ⟨.WIN_I_ROUTE, 15, 8⟩
/-! WIN_I_STAT (spec/06 R167) -/
abbrev WIN_I_STAT.MIRE : Fld := ⟨.WIN_I_STAT, 31, 31⟩
abbrev WIN_I_STAT.MIRE_DROPS : Fld := ⟨.WIN_I_STAT, 23, 8⟩
abbrev WIN_I_STAT.CFG_REFUSED : Fld := ⟨.WIN_I_STAT, 4, 4⟩
abbrev WIN_I_STAT.PF_REFUSED : Fld := ⟨.WIN_I_STAT, 3, 3⟩
abbrev WIN_I_STAT.PT_FAULT : Fld := ⟨.WIN_I_STAT, 2, 2⟩
abbrev WIN_I_STAT.PAGE_INVALID : Fld := ⟨.WIN_I_STAT, 1, 1⟩
abbrev WIN_I_STAT.PAGE_WP : Fld := ⟨.WIN_I_STAT, 0, 0⟩
/-! WIN_I_PORTS_LO (spec/06 R167) -/
abbrev WIN_I_PORTS_LO.PORT_EN : Fld := ⟨.WIN_I_PORTS_LO, 31, 0⟩
/-! WIN_I_PORTS_HI (spec/06 R167) -/
abbrev WIN_I_PORTS_HI.PORT_EN : Fld := ⟨.WIN_I_PORTS_HI, 31, 0⟩
/-! MON_CTL (spec/18 R448) -/
abbrev MON_CTL.EN : Fld := ⟨.MON_CTL, 31, 31⟩
abbrev MON_CTL.FREEZE : Fld := ⟨.MON_CTL, 30, 30⟩
abbrev MON_CTL.CLEAR : Fld := ⟨.MON_CTL, 29, 29⟩
/-! MON_SRC (spec/18 R448) -/
abbrev MON_SRC.KIND : Fld := ⟨.MON_SRC, 31, 28⟩
abbrev MON_SRC.NUM : Fld := ⟨.MON_SRC, 11, 0⟩
/-! MON_SAMPLE (spec/18 R448) -/
abbrev MON_SAMPLE.PERIOD : Fld := ⟨.MON_SAMPLE, 15, 0⟩
/-! MON_THRESH (spec/18 R448) -/
abbrev MON_THRESH.THRESH : Fld := ⟨.MON_THRESH, 31, 0⟩
/-! MON_STAT (spec/18 R448) -/
abbrev MON_STAT.OVER : Fld := ⟨.MON_STAT, 31, 31⟩
abbrev MON_STAT.SAT : Fld := ⟨.MON_STAT, 30, 30⟩
abbrev MON_STAT.MOVED : Fld := ⟨.MON_STAT, 29, 29⟩
abbrev MON_STAT.MISSED : Fld := ⟨.MON_STAT, 15, 0⟩
/-! MON_MIN (spec/18 R448) -/
abbrev MON_MIN.MIN : Fld := ⟨.MON_MIN, 31, 0⟩
/-! MON_MAX (spec/18 R448) -/
abbrev MON_MAX.MAX : Fld := ⟨.MON_MAX, 31, 0⟩
/-! MON_COUNT (spec/18 R448) -/
abbrev MON_COUNT.COUNT : Fld := ⟨.MON_COUNT, 31, 0⟩
/-! MON_SUM_LO (spec/18 R448) -/
abbrev MON_SUM_LO.SUM : Fld := ⟨.MON_SUM_LO, 31, 0⟩
/-! MON_SUM_HI (spec/18 R448) -/
abbrev MON_SUM_HI.SUM : Fld := ⟨.MON_SUM_HI, 31, 0⟩
/-! MON_BIN (spec/18 R448) -/
abbrev MON_BIN.HITS : Fld := ⟨.MON_BIN, 31, 0⟩
/-! ERR_READ (spec/08 R231) -/
abbrev ERR_READ.WORD : Fld := ⟨.ERR_READ, 31, 0⟩
/-! ERR_STAT (spec/08 R231) -/
abbrev ERR_STAT.COUNT : Fld := ⟨.ERR_STAT, 25, 16⟩
abbrev ERR_STAT.LOST : Fld := ⟨.ERR_STAT, 15, 0⟩
/-! ERR_MIRE_CLR (spec/07 R207) -/
abbrev ERR_MIRE_CLR.INBOUND : Fld := ⟨.ERR_MIRE_CLR, 31, 31⟩
abbrev ERR_MIRE_CLR.WINDOW : Fld := ⟨.ERR_MIRE_CLR, 11, 0⟩
/-! ERR_MIRE_COUNT (spec/07 R207) -/
abbrev ERR_MIRE_COUNT.COUNT : Fld := ⟨.ERR_MIRE_COUNT, 13, 0⟩
/-! ERR_DEF_INFO (spec/07 R207) -/
abbrev ERR_DEF_INFO.VALID : Fld := ⟨.ERR_DEF_INFO, 31, 31⟩
abbrev ERR_DEF_INFO.DIR : Fld := ⟨.ERR_DEF_INFO, 30, 30⟩
abbrev ERR_DEF_INFO.CAUSE : Fld := ⟨.ERR_DEF_INFO, 29, 24⟩
abbrev ERR_DEF_INFO.PORT : Fld := ⟨.ERR_DEF_INFO, 21, 16⟩
abbrev ERR_DEF_INFO.WINDOW : Fld := ⟨.ERR_DEF_INFO, 11, 0⟩
/-! ERR_DEF_NEAR_LO (spec/07 R207) -/
abbrev ERR_DEF_NEAR_LO.ADDR : Fld := ⟨.ERR_DEF_NEAR_LO, 31, 0⟩
/-! ERR_DEF_NEAR_HI (spec/07 R207) -/
abbrev ERR_DEF_NEAR_HI.ADDR : Fld := ⟨.ERR_DEF_NEAR_HI, 31, 0⟩
/-! ERR_DEF_FAR_LO (spec/07 R207) -/
abbrev ERR_DEF_FAR_LO.ADDR : Fld := ⟨.ERR_DEF_FAR_LO, 31, 0⟩
/-! ERR_DEF_FAR_HI (spec/07 R207) -/
abbrev ERR_DEF_FAR_HI.ADDR : Fld := ⟨.ERR_DEF_FAR_HI, 31, 0⟩
/-! ERR_DEF_FAIL (spec/07 R207) -/
abbrev ERR_DEF_FAIL.CODE : Fld := ⟨.ERR_DEF_FAIL, 31, 24⟩
abbrev ERR_DEF_FAIL.FAIL_LEN : Fld := ⟨.ERR_DEF_FAIL, 16, 0⟩
/-! ERR_DEF_REQ (spec/07 R207) -/
abbrev ERR_DEF_REQ.MORE : Fld := ⟨.ERR_DEF_REQ, 31, 24⟩
abbrev ERR_DEF_REQ.ENTRY_DIE : Fld := ⟨.ERR_DEF_REQ, 22, 20⟩
abbrev ERR_DEF_REQ.REQUESTER : Fld := ⟨.ERR_DEF_REQ, 15, 0⟩
/-! ERR_DEF_DONE (spec/07 R207) -/
abbrev ERR_DEF_DONE.DONE_LEN : Fld := ⟨.ERR_DEF_DONE, 16, 0⟩
/-! EVQ_READ (spec/08 R234) -/
abbrev EVQ_READ.WORD : Fld := ⟨.EVQ_READ, 31, 0⟩
/-! EVQ_STAT (spec/08 R234) -/
abbrev EVQ_STAT.COUNT : Fld := ⟨.EVQ_STAT, 26, 16⟩
abbrev EVQ_STAT.LOST : Fld := ⟨.EVQ_STAT, 15, 0⟩
/-! EVQ_CTL (spec/08 R234) -/
abbrev EVQ_CTL.HOST : Fld := ⟨.EVQ_CTL, 31, 31⟩
abbrev EVQ_CTL.HOST_DIE : Fld := ⟨.EVQ_CTL, 26, 24⟩
abbrev EVQ_CTL.SIZE : Fld := ⟨.EVQ_CTL, 23, 20⟩
abbrev EVQ_CTL.TAIL : Fld := ⟨.EVQ_CTL, 15, 0⟩
/-! EVQ_HOST_BASE_LO (spec/08 R234) -/
abbrev EVQ_HOST_BASE_LO.ADDR : Fld := ⟨.EVQ_HOST_BASE_LO, 31, 0⟩
/-! EVQ_HOST_BASE_HI (spec/08 R234) -/
abbrev EVQ_HOST_BASE_HI.ADDR : Fld := ⟨.EVQ_HOST_BASE_HI, 31, 0⟩
/-! EVQ_HOST_WR (spec/08 R234) -/
abbrev EVQ_HOST_WR.WR : Fld := ⟨.EVQ_HOST_WR, 15, 0⟩
/-! EVQ_HOST_RD (spec/08 R234) -/
abbrev EVQ_HOST_RD.RD : Fld := ⟨.EVQ_HOST_RD, 15, 0⟩
/-! DIE_LOCK (spec/02 R72) -/
abbrev DIE_LOCK.LOCK : Fld := ⟨.DIE_LOCK, 0, 0⟩
/-! DIE_PROT_STAT (spec/02 R78) -/
abbrev DIE_PROT_STAT.FIXED : Fld := ⟨.DIE_PROT_STAT, 31, 16⟩
abbrev DIE_PROT_STAT.FAILED : Fld := ⟨.DIE_PROT_STAT, 15, 0⟩
/-! DIE_ACC_ERR_ADDR_LO (spec/02 R80) -/
abbrev DIE_ACC_ERR_ADDR_LO.OFFSET : Fld := ⟨.DIE_ACC_ERR_ADDR_LO, 31, 0⟩
/-! DIE_ACC_ERR_ADDR_HI (spec/02 R80) -/
abbrev DIE_ACC_ERR_ADDR_HI.OFFSET : Fld := ⟨.DIE_ACC_ERR_ADDR_HI, 31, 0⟩
/-! DIE_ACC_ERR_INFO (spec/02 R80) -/
abbrev DIE_ACC_ERR_INFO.VALID : Fld := ⟨.DIE_ACC_ERR_INFO, 31, 31⟩
abbrev DIE_ACC_ERR_INFO.PATH : Fld := ⟨.DIE_ACC_ERR_INFO, 30, 29⟩
abbrev DIE_ACC_ERR_INFO.WRITE : Fld := ⟨.DIE_ACC_ERR_INFO, 28, 28⟩
abbrev DIE_ACC_ERR_INFO.REASON : Fld := ⟨.DIE_ACC_ERR_INFO, 27, 24⟩
abbrev DIE_ACC_ERR_INFO.PORT : Fld := ⟨.DIE_ACC_ERR_INFO, 23, 16⟩
abbrev DIE_ACC_ERR_INFO.LOST : Fld := ⟨.DIE_ACC_ERR_INFO, 15, 8⟩
abbrev DIE_ACC_ERR_INFO.LENGTH : Fld := ⟨.DIE_ACC_ERR_INFO, 3, 0⟩
/-! DIE_SVC (spec/14 R358) -/
abbrev DIE_SVC.IMAGE : Fld := ⟨.DIE_SVC, 9, 8⟩
abbrev DIE_SVC.MC_RESTART : Fld := ⟨.DIE_SVC, 3, 3⟩
abbrev DIE_SVC.LEAD_HANDOFF : Fld := ⟨.DIE_SVC, 2, 2⟩
abbrev DIE_SVC.PLL_SWAP : Fld := ⟨.DIE_SVC, 1, 1⟩
abbrev DIE_SVC.RESET : Fld := ⟨.DIE_SVC, 0, 0⟩
/-! DIE_SVC_STAT (spec/14 R358) -/
abbrev DIE_SVC_STAT.STATE : Fld := ⟨.DIE_SVC_STAT, 31, 29⟩
abbrev DIE_SVC_STAT.PLL_ROOT : Fld := ⟨.DIE_SVC_STAT, 28, 28⟩
abbrev DIE_SVC_STAT.PLL_BUSY : Fld := ⟨.DIE_SVC_STAT, 27, 27⟩
abbrev DIE_SVC_STAT.LAST_REFUSAL : Fld := ⟨.DIE_SVC_STAT, 23, 16⟩
abbrev DIE_SVC_STAT.SWAPS : Fld := ⟨.DIE_SVC_STAT, 15, 8⟩
abbrev DIE_SVC_STAT.RESETS : Fld := ⟨.DIE_SVC_STAT, 7, 0⟩
/-! DIE_SRAM_STAT (spec/14 R360) -/
abbrev DIE_SRAM_STAT.RETIRED : Fld := ⟨.DIE_SRAM_STAT, 31, 24⟩
abbrev DIE_SRAM_STAT.LAST_BANK : Fld := ⟨.DIE_SRAM_STAT, 23, 16⟩
abbrev DIE_SRAM_STAT.CORRECTED : Fld := ⟨.DIE_SRAM_STAT, 15, 0⟩
/-! DIE_Q_CFG (spec/10 R270) -/
abbrev DIE_Q_CFG.TAIL : Fld := ⟨.DIE_Q_CFG, 31, 16⟩
abbrev DIE_Q_CFG.FLUSHABLE : Fld := ⟨.DIE_Q_CFG, 15, 15⟩
abbrev DIE_Q_CFG.DROP : Fld := ⟨.DIE_Q_CFG, 14, 14⟩
abbrev DIE_Q_CFG.STAGES : Fld := ⟨.DIE_Q_CFG, 5, 0⟩
/-! DIE_Q_CAP (spec/10 R270) -/
abbrev DIE_Q_CAP.ITEM_MAX : Fld := ⟨.DIE_Q_CAP, 31, 25⟩
abbrev DIE_Q_CAP.CAPACITY : Fld := ⟨.DIE_Q_CAP, 13, 0⟩
/-! DIE_Q_DEPTH (spec/10 R270) -/
abbrev DIE_Q_DEPTH.ITEMS : Fld := ⟨.DIE_Q_DEPTH, 31, 16⟩
abbrev DIE_Q_DEPTH.WORDS : Fld := ⟨.DIE_Q_DEPTH, 13, 0⟩
/-! DIE_Q_COUNT (spec/10 R270) -/
abbrev DIE_Q_COUNT.PUSHED : Fld := ⟨.DIE_Q_COUNT, 31, 16⟩
abbrev DIE_Q_COUNT.POPPED : Fld := ⟨.DIE_Q_COUNT, 15, 0⟩
/-! DIE_Q_STAT (spec/10 R270) -/
abbrev DIE_Q_STAT.MISMATCH : Fld := ⟨.DIE_Q_STAT, 31, 24⟩
abbrev DIE_Q_STAT.OVERFLOW : Fld := ⟨.DIE_Q_STAT, 23, 16⟩
abbrev DIE_Q_STAT.FLUSH_DROPS : Fld := ⟨.DIE_Q_STAT, 15, 4⟩
abbrev DIE_Q_STAT.TAIL : Fld := ⟨.DIE_Q_STAT, 3, 3⟩
abbrev DIE_Q_STAT.READING : Fld := ⟨.DIE_Q_STAT, 2, 2⟩
abbrev DIE_Q_STAT.PARTIAL : Fld := ⟨.DIE_Q_STAT, 1, 1⟩
abbrev DIE_Q_STAT.EMPTY : Fld := ⟨.DIE_Q_STAT, 0, 0⟩
/-! DIE_Q_CTL (spec/10 R270) -/
abbrev DIE_Q_CTL.FLUSH : Fld := ⟨.DIE_Q_CTL, 0, 0⟩
/-! CLK_CTL (spec/15 R397) -/
abbrev CLK_CTL.AUTO_RESTORE : Fld := ⟨.CLK_CTL, 31, 31⟩
abbrev CLK_CTL.BB_REF : Fld := ⟨.CLK_CTL, 21, 21⟩
abbrev CLK_CTL.B_REF : Fld := ⟨.CLK_CTL, 20, 20⟩
abbrev CLK_CTL.A_REF : Fld := ⟨.CLK_CTL, 19, 19⟩
abbrev CLK_CTL.BAND : Fld := ⟨.CLK_CTL, 15, 8⟩
/-! CLK_STAT (spec/15 R397) -/
abbrev CLK_STAT.ROOT : Fld := ⟨.CLK_STAT, 31, 30⟩
abbrev CLK_STAT.HELD : Fld := ⟨.CLK_STAT, 29, 29⟩
abbrev CLK_STAT.ARBITRATING : Fld := ⟨.CLK_STAT, 28, 28⟩
abbrev CLK_STAT.PLLA_STATE : Fld := ⟨.CLK_STAT, 27, 25⟩
abbrev CLK_STAT.PLLB_STATE : Fld := ⟨.CLK_STAT, 24, 22⟩
abbrev CLK_STAT.BBPLL_STATE : Fld := ⟨.CLK_STAT, 21, 19⟩
abbrev CLK_STAT.XB_PRESENT : Fld := ⟨.CLK_STAT, 18, 18⟩
abbrev CLK_STAT.XA_OK : Fld := ⟨.CLK_STAT, 17, 17⟩
abbrev CLK_STAT.XB_OK : Fld := ⟨.CLK_STAT, 16, 16⟩
abbrev CLK_STAT.FIO_OK : Fld := ⟨.CLK_STAT, 15, 15⟩
abbrev CLK_STAT.SIO_OK : Fld := ⟨.CLK_STAT, 14, 14⟩
abbrev CLK_STAT.FEN_ON_FIO : Fld := ⟨.CLK_STAT, 13, 13⟩
/-! CLK_FIO_CAL (spec/15 R397) -/
abbrev CLK_FIO_CAL.KHZ : Fld := ⟨.CLK_FIO_CAL, 19, 0⟩
/-! CLK_MON_CNT (spec/15 R397) -/
abbrev CLK_MON_CNT.FAIL : Fld := ⟨.CLK_MON_CNT, 31, 31⟩
abbrev CLK_MON_CNT.COUNT : Fld := ⟨.CLK_MON_CNT, 23, 0⟩
/-! CLK_LOOP_CNT (spec/15 R397) -/
abbrev CLK_LOOP_CNT.FAIL : Fld := ⟨.CLK_LOOP_CNT, 31, 31⟩
abbrev CLK_LOOP_CNT.COUNT : Fld := ⟨.CLK_LOOP_CNT, 11, 0⟩
/-! CLK_EVENT (spec/15 R397) -/
abbrev CLK_EVENT.SWAP_FAIL : Fld := ⟨.CLK_EVENT, 12, 12⟩
abbrev CLK_EVENT.READMIT : Fld := ⟨.CLK_EVENT, 11, 11⟩
abbrev CLK_EVENT.LOOP_FORCED : Fld := ⟨.CLK_EVENT, 10, 10⟩
abbrev CLK_EVENT.RESTORED : Fld := ⟨.CLK_EVENT, 9, 9⟩
abbrev CLK_EVENT.FORCED : Fld := ⟨.CLK_EVENT, 8, 8⟩
abbrev CLK_EVENT.REFCLK_LOST : Fld := ⟨.CLK_EVENT, 7, 7⟩
abbrev CLK_EVENT.SIO_FAIL : Fld := ⟨.CLK_EVENT, 6, 6⟩
abbrev CLK_EVENT.FIO_FAIL : Fld := ⟨.CLK_EVENT, 5, 5⟩
abbrev CLK_EVENT.BBPLL_FAIL : Fld := ⟨.CLK_EVENT, 4, 4⟩
abbrev CLK_EVENT.PLLB_FAIL : Fld := ⟨.CLK_EVENT, 3, 3⟩
abbrev CLK_EVENT.PLLA_FAIL : Fld := ⟨.CLK_EVENT, 2, 2⟩
abbrev CLK_EVENT.XB_FAIL : Fld := ⟨.CLK_EVENT, 1, 1⟩
abbrev CLK_EVENT.XA_FAIL : Fld := ⟨.CLK_EVENT, 0, 0⟩
/-! CLK_SLEEP (spec/15 R397) -/
abbrev CLK_SLEEP.XTAL_ON : Fld := ⟨.CLK_SLEEP, 1, 1⟩
abbrev CLK_SLEEP.ENTER : Fld := ⟨.CLK_SLEEP, 0, 0⟩
/-! CLK_WAKE (spec/15 R397) -/
abbrev CLK_WAKE.REFUSED : Fld := ⟨.CLK_WAKE, 31, 31⟩
abbrev CLK_WAKE.PERST : Fld := ⟨.CLK_WAKE, 30, 30⟩
abbrev CLK_WAKE.CLKREQ : Fld := ⟨.CLK_WAKE, 29, 29⟩
abbrev CLK_WAKE.BODY_BUS : Fld := ⟨.CLK_WAKE, 28, 28⟩
abbrev CLK_WAKE.TIMER : Fld := ⟨.CLK_WAKE, 27, 27⟩
abbrev CLK_WAKE.PERIOD : Fld := ⟨.CLK_WAKE, 23, 0⟩
/-! PWR_GATE (spec/16 R417) -/
abbrev PWR_GATE.TILE_RUN : Fld := ⟨.PWR_GATE, 15, 8⟩
abbrev PWR_GATE.PX_RUN : Fld := ⟨.PWR_GATE, 7, 7⟩
abbrev PWR_GATE.TC_RUN : Fld := ⟨.PWR_GATE, 6, 6⟩
abbrev PWR_GATE.QS_RUN : Fld := ⟨.PWR_GATE, 5, 5⟩
abbrev PWR_GATE.MOV_RUN : Fld := ⟨.PWR_GATE, 4, 3⟩
/-! PWR_TEMP (spec/16 R417) -/
abbrev PWR_TEMP.ALERT : Fld := ⟨.PWR_TEMP, 31, 31⟩
abbrev PWR_TEMP.ALERT_C : Fld := ⟨.PWR_TEMP, 23, 16⟩
abbrev PWR_TEMP.TEMP_C : Fld := ⟨.PWR_TEMP, 7, 0⟩
/-! PWR_MP_CTL (spec/16 R417) -/
abbrev PWR_MP_CTL.EN : Fld := ⟨.PWR_MP_CTL, 31, 31⟩
abbrev PWR_MP_CTL.AUTO : Fld := ⟨.PWR_MP_CTL, 30, 30⟩
abbrev PWR_MP_CTL.ILIM : Fld := ⟨.PWR_MP_CTL, 23, 16⟩
abbrev PWR_MP_CTL.RAMP : Fld := ⟨.PWR_MP_CTL, 15, 12⟩
abbrev PWR_MP_CTL.TFAULT : Fld := ⟨.PWR_MP_CTL, 11, 8⟩
abbrev PWR_MP_CTL.CLEAR : Fld := ⟨.PWR_MP_CTL, 0, 0⟩
/-! PWR_MP_STAT (spec/16 R417) -/
abbrev PWR_MP_STAT.STATE : Fld := ⟨.PWR_MP_STAT, 31, 29⟩
abbrev PWR_MP_STAT.PRESENT : Fld := ⟨.PWR_MP_STAT, 28, 28⟩
abbrev PWR_MP_STAT.CAUSE : Fld := ⟨.PWR_MP_STAT, 27, 24⟩
abbrev PWR_MP_STAT.FAULTS : Fld := ⟨.PWR_MP_STAT, 15, 8⟩
abbrev PWR_MP_STAT.UNPLUGS : Fld := ⟨.PWR_MP_STAT, 7, 0⟩
/-! PWR_MP_MEAS (spec/16 R417) -/
abbrev PWR_MP_MEAS.MV : Fld := ⟨.PWR_MP_MEAS, 31, 16⟩
abbrev PWR_MP_MEAS.MA : Fld := ⟨.PWR_MP_MEAS, 15, 0⟩
/-! PX_LINK_STAT (spec/03 R106) -/
abbrev PX_LINK_STAT.UP : Fld := ⟨.PX_LINK_STAT, 31, 31⟩
abbrev PX_LINK_STAT.FLIT : Fld := ⟨.PX_LINK_STAT, 30, 30⟩
abbrev PX_LINK_STAT.STATE : Fld := ⟨.PX_LINK_STAT, 29, 27⟩
abbrev PX_LINK_STAT.RATE : Fld := ⟨.PX_LINK_STAT, 15, 12⟩
abbrev PX_LINK_STAT.WIDTH : Fld := ⟨.PX_LINK_STAT, 11, 8⟩
abbrev PX_LINK_STAT.ACTIVE_WIDTH : Fld := ⟨.PX_LINK_STAT, 7, 4⟩
/-! PX_CTRL (spec/03 R106) -/
abbrev PX_CTRL.NP_LIMIT : Fld := ⟨.PX_CTRL, 31, 16⟩
abbrev PX_CTRL.HOLD : Fld := ⟨.PX_CTRL, 15, 8⟩
abbrev PX_CTRL.L0P_AUTO : Fld := ⟨.PX_CTRL, 2, 2⟩
abbrev PX_CTRL.IDO_SET : Fld := ⟨.PX_CTRL, 1, 1⟩
abbrev PX_CTRL.RO_SET : Fld := ⟨.PX_CTRL, 0, 0⟩
/-! PX_L0P (spec/03 R106) -/
abbrev PX_L0P.WINDOW : Fld := ⟨.PX_L0P, 23, 16⟩
abbrev PX_L0P.LOW_PCT : Fld := ⟨.PX_L0P, 15, 8⟩
abbrev PX_L0P.HIGH_PCT : Fld := ⟨.PX_L0P, 7, 0⟩
/-! PX_OUT (spec/03 R106) -/
abbrev PX_OUT.REQ_NP : Fld := ⟨.PX_OUT, 31, 16⟩
abbrev PX_OUT.CPL_OWED : Fld := ⟨.PX_OUT, 15, 0⟩
/-! PX_EVENT (spec/03 R106) -/
abbrev PX_EVENT.LINK_DOWN : Fld := ⟨.PX_EVENT, 7, 7⟩
abbrev PX_EVENT.RETRAINED : Fld := ⟨.PX_EVENT, 6, 6⟩
abbrev PX_EVENT.SPEED_DROP : Fld := ⟨.PX_EVENT, 5, 5⟩
abbrev PX_EVENT.NP_LIMIT_HIT : Fld := ⟨.PX_EVENT, 4, 4⟩
abbrev PX_EVENT.HOLD_EXPIRED : Fld := ⟨.PX_EVENT, 3, 3⟩
abbrev PX_EVENT.UNEXPECTED_CPL : Fld := ⟨.PX_EVENT, 2, 2⟩
abbrev PX_EVENT.FLR : Fld := ⟨.PX_EVENT, 1, 1⟩
abbrev PX_EVENT.D3HOT : Fld := ⟨.PX_EVENT, 0, 0⟩
/-! PX_ERR_COUNT (spec/03 R106) -/
abbrev PX_ERR_COUNT.RETRAINS : Fld := ⟨.PX_ERR_COUNT, 31, 24⟩
abbrev PX_ERR_COUNT.CA_SENT : Fld := ⟨.PX_ERR_COUNT, 23, 12⟩
abbrev PX_ERR_COUNT.UR_SENT : Fld := ⟨.PX_ERR_COUNT, 11, 0⟩
/-! MSIX_PBA (spec/03 R88) -/
abbrev MSIX_PBA.PENDING : Fld := ⟨.MSIX_PBA, 31, 0⟩
/-! MSIX_ADDR_LO (spec/03 R88) -/
abbrev MSIX_ADDR_LO.ADDR : Fld := ⟨.MSIX_ADDR_LO, 31, 2⟩
/-! MSIX_ADDR_HI (spec/03 R88) -/
abbrev MSIX_ADDR_HI.ADDR : Fld := ⟨.MSIX_ADDR_HI, 31, 0⟩
/-! MSIX_DATA (spec/03 R88) -/
abbrev MSIX_DATA.DATA : Fld := ⟨.MSIX_DATA, 31, 0⟩
/-! MSIX_VCTL (spec/03 R88) -/
abbrev MSIX_VCTL.MASK : Fld := ⟨.MSIX_VCTL, 0, 0⟩
/-! MOR_LINK_STAT (spec/01 R41) -/
abbrev MOR_LINK_STAT.UP : Fld := ⟨.MOR_LINK_STAT, 31, 31⟩
abbrev MOR_LINK_STAT.DEGRADED : Fld := ⟨.MOR_LINK_STAT, 30, 30⟩
abbrev MOR_LINK_STAT.STATE : Fld := ⟨.MOR_LINK_STAT, 29, 28⟩
abbrev MOR_LINK_STAT.PEER_DIE : Fld := ⟨.MOR_LINK_STAT, 23, 21⟩
abbrev MOR_LINK_STAT.PEER_LINK : Fld := ⟨.MOR_LINK_STAT, 20, 19⟩
abbrev MOR_LINK_STAT.RETRY_COUNT : Fld := ⟨.MOR_LINK_STAT, 15, 0⟩
/-! MC_BOOT_STAT (spec/17 R439) -/
abbrev MC_BOOT_STAT.DONE : Fld := ⟨.MC_BOOT_STAT, 31, 31⟩
abbrev MC_BOOT_STAT.COLD : Fld := ⟨.MC_BOOT_STAT, 30, 30⟩
abbrev MC_BOOT_STAT.STEP : Fld := ⟨.MC_BOOT_STAT, 29, 25⟩
abbrev MC_BOOT_STAT.FAILED_STARTS : Fld := ⟨.MC_BOOT_STAT, 24, 21⟩
abbrev MC_BOOT_STAT.IMAGE : Fld := ⟨.MC_BOOT_STAT, 20, 20⟩
abbrev MC_BOOT_STAT.LEFT_OUT : Fld := ⟨.MC_BOOT_STAT, 15, 8⟩
abbrev MC_BOOT_STAT.LOST : Fld := ⟨.MC_BOOT_STAT, 7, 0⟩
/-! MC_BOOT_ALT (spec/17 R439) -/
abbrev MC_BOOT_ALT.STEPS : Fld := ⟨.MC_BOOT_ALT, 19, 0⟩
/-! MC_BOOT_SKIP (spec/17 R439) -/
abbrev MC_BOOT_SKIP.STEPS : Fld := ⟨.MC_BOOT_SKIP, 19, 0⟩
/-! MC_BOOT_COUNT (spec/17 R439) -/
abbrev MC_BOOT_COUNT.BOOT : Fld := ⟨.MC_BOOT_COUNT, 31, 0⟩
/-! MC_FLASH_STAT (spec/17 R439) -/
abbrev MC_FLASH_STAT.PRESENT : Fld := ⟨.MC_FLASH_STAT, 31, 31⟩
abbrev MC_FLASH_STAT.SFDP : Fld := ⟨.MC_FLASH_STAT, 30, 30⟩
abbrev MC_FLASH_STAT.WRITE_ERR : Fld := ⟨.MC_FLASH_STAT, 29, 29⟩
abbrev MC_FLASH_STAT.SIZE_LOG2 : Fld := ⟨.MC_FLASH_STAT, 23, 16⟩
abbrev MC_FLASH_STAT.FILL : Fld := ⟨.MC_FLASH_STAT, 15, 0⟩
/-! MC_LEDGER_CTL (spec/17 R439) -/
abbrev MC_LEDGER_CTL.READMIT : Fld := ⟨.MC_LEDGER_CTL, 15, 8⟩
abbrev MC_LEDGER_CTL.MARK_B : Fld := ⟨.MC_LEDGER_CTL, 1, 1⟩
abbrev MC_LEDGER_CTL.MARK_A : Fld := ⟨.MC_LEDGER_CTL, 0, 0⟩
/-! MC_FLASH_ADDR (spec/17 R439) -/
abbrev MC_FLASH_ADDR.SECTOR : Fld := ⟨.MC_FLASH_ADDR, 23, 12⟩
/-! MC_FLASH_CMD (spec/17 R439) -/
abbrev MC_FLASH_CMD.OP : Fld := ⟨.MC_FLASH_CMD, 1, 0⟩
/-! MC_FLASH_RES (spec/17 R439) -/
abbrev MC_FLASH_RES.BUSY : Fld := ⟨.MC_FLASH_RES, 31, 31⟩
abbrev MC_FLASH_RES.RESULT : Fld := ⟨.MC_FLASH_RES, 30, 28⟩
abbrev MC_FLASH_RES.DONE : Fld := ⟨.MC_FLASH_RES, 15, 0⟩
/-! MC_ROLE (spec/14 R365) -/
abbrev MC_ROLE.ROLE : Fld := ⟨.MC_ROLE, 31, 30⟩
abbrev MC_ROLE.DEPUTY : Fld := ⟨.MC_ROLE, 29, 29⟩
abbrev MC_ROLE.IMAGE : Fld := ⟨.MC_ROLE, 28, 28⟩
abbrev MC_ROLE.LEAD : Fld := ⟨.MC_ROLE, 26, 24⟩
abbrev MC_ROLE.HEALTHY : Fld := ⟨.MC_ROLE, 23, 16⟩
abbrev MC_ROLE.SYNC_LEVEL : Fld := ⟨.MC_ROLE, 15, 0⟩
/-! MC_HB (spec/14 R365) -/
abbrev MC_HB.PERIOD : Fld := ⟨.MC_HB, 31, 24⟩
abbrev MC_HB.MISS : Fld := ⟨.MC_HB, 23, 16⟩
abbrev MC_HB.HANDOFFS : Fld := ⟨.MC_HB, 15, 8⟩
abbrev MC_HB.TAKEOVERS : Fld := ⟨.MC_HB, 7, 0⟩
/-! MC_FLASH_BUF (spec/17 R439) -/
abbrev MC_FLASH_BUF.DATA : Fld := ⟨.MC_FLASH_BUF, 31, 0⟩
/-! TC_SWITCH (spec/06 R191) -/
abbrev TC_SWITCH.GROUP : Fld := ⟨.TC_SWITCH, 7, 0⟩
/-! TC_SWITCH_STAT (spec/06 R191) -/
abbrev TC_SWITCH_STAT.LAST_GROUP : Fld := ⟨.TC_SWITCH_STAT, 23, 16⟩
abbrev TC_SWITCH_STAT.DRAINED : Fld := ⟨.TC_SWITCH_STAT, 7, 0⟩
/-! TC_INVAL (spec/06 R191) -/
abbrev TC_INVAL.ALL : Fld := ⟨.TC_INVAL, 31, 31⟩
abbrev TC_INVAL.INBOUND : Fld := ⟨.TC_INVAL, 30, 30⟩
abbrev TC_INVAL.TABLE : Fld := ⟨.TC_INVAL, 29, 29⟩
abbrev TC_INVAL.PAGE_ONLY : Fld := ⟨.TC_INVAL, 28, 28⟩
abbrev TC_INVAL.WINDOW : Fld := ⟨.TC_INVAL, 11, 0⟩
/-! TC_INVAL_PAGE (spec/06 R191) -/
abbrev TC_INVAL_PAGE.PAGE : Fld := ⟨.TC_INVAL_PAGE, 26, 0⟩
/-! TC_PFD_READ (spec/06 R191) -/
abbrev TC_PFD_READ.WORD : Fld := ⟨.TC_PFD_READ, 31, 0⟩
/-! TC_PFD_STAT (spec/06 R191) -/
abbrev TC_PFD_STAT.COUNT : Fld := ⟨.TC_PFD_STAT, 26, 16⟩
abbrev TC_PFD_STAT.LOST : Fld := ⟨.TC_PFD_STAT, 15, 0⟩
/-! TIL_LOCK (spec/02 R72) -/
abbrev TIL_LOCK.LOCK : Fld := ⟨.TIL_LOCK, 0, 0⟩
/-! TIL_ARB (spec/01 R28) -/
abbrev TIL_ARB.MOVER_WEIGHT : Fld := ⟨.TIL_ARB, 23, 16⟩
abbrev TIL_ARB.DIRECT_WEIGHT : Fld := ⟨.TIL_ARB, 15, 8⟩
abbrev TIL_ARB.REG_FIRST : Fld := ⟨.TIL_ARB, 0, 0⟩
/-! TIL_SVC (spec/14 R357) -/
abbrev TIL_SVC.RECAL : Fld := ⟨.TIL_SVC, 3, 3⟩
abbrev TIL_SVC.RETURN : Fld := ⟨.TIL_SVC, 2, 2⟩
abbrev TIL_SVC.RESET : Fld := ⟨.TIL_SVC, 1, 1⟩
abbrev TIL_SVC.EVACUATE : Fld := ⟨.TIL_SVC, 0, 0⟩
/-! TIL_SVC_STAT (spec/14 R357) -/
abbrev TIL_SVC_STAT.STATE : Fld := ⟨.TIL_SVC_STAT, 31, 29⟩
abbrev TIL_SVC_STAT.CARRYING : Fld := ⟨.TIL_SVC_STAT, 28, 28⟩
abbrev TIL_SVC_STAT.RECAL_BUSY : Fld := ⟨.TIL_SVC_STAT, 27, 27⟩
abbrev TIL_SVC_STAT.CARRIER : Fld := ⟨.TIL_SVC_STAT, 26, 21⟩
abbrev TIL_SVC_STAT.LAST_REFUSAL : Fld := ⟨.TIL_SVC_STAT, 18, 16⟩
abbrev TIL_SVC_STAT.FAULTS : Fld := ⟨.TIL_SVC_STAT, 15, 8⟩
abbrev TIL_SVC_STAT.EVACS : Fld := ⟨.TIL_SVC_STAT, 7, 0⟩
/-! TIL_BOND (spec/14 R351) -/
abbrev TIL_BOND.EN : Fld := ⟨.TIL_BOND, 31, 31⟩
abbrev TIL_BOND.ANCHOR : Fld := ⟨.TIL_BOND, 30, 30⟩
abbrev TIL_BOND.STATE : Fld := ⟨.TIL_BOND, 29, 28⟩
abbrev TIL_BOND.CFG_REFUSED : Fld := ⟨.TIL_BOND, 27, 27⟩
abbrev TIL_BOND.MATE : Fld := ⟨.TIL_BOND, 5, 0⟩
/-! BB_LINK_CTRL (spec/04 R131) -/
abbrev BB_LINK_CTRL.MAX_WIDTH : Fld := ⟨.BB_LINK_CTRL, 23, 20⟩
abbrev BB_LINK_CTRL.MAX_RATE : Fld := ⟨.BB_LINK_CTRL, 19, 18⟩
abbrev BB_LINK_CTRL.LOOP_MODE : Fld := ⟨.BB_LINK_CTRL, 17, 16⟩
abbrev BB_LINK_CTRL.AUTO_NARROW : Fld := ⟨.BB_LINK_CTRL, 15, 15⟩
abbrev BB_LINK_CTRL.AUTO_RATE : Fld := ⟨.BB_LINK_CTRL, 14, 14⟩
abbrev BB_LINK_CTRL.WIDEN : Fld := ⟨.BB_LINK_CTRL, 3, 3⟩
abbrev BB_LINK_CTRL.RETRAIN : Fld := ⟨.BB_LINK_CTRL, 2, 2⟩
abbrev BB_LINK_CTRL.EN : Fld := ⟨.BB_LINK_CTRL, 0, 0⟩
/-! BB_LINK_STAT (spec/04 R131) -/
abbrev BB_LINK_STAT.UP : Fld := ⟨.BB_LINK_STAT, 31, 31⟩
abbrev BB_LINK_STAT.LOOP : Fld := ⟨.BB_LINK_STAT, 30, 30⟩
abbrev BB_LINK_STAT.FALLBACK : Fld := ⟨.BB_LINK_STAT, 29, 29⟩
abbrev BB_LINK_STAT.STATE : Fld := ⟨.BB_LINK_STAT, 28, 26⟩
abbrev BB_LINK_STAT.RATE : Fld := ⟨.BB_LINK_STAT, 25, 24⟩
abbrev BB_LINK_STAT.WIDTH : Fld := ⟨.BB_LINK_STAT, 23, 20⟩
abbrev BB_LINK_STAT.GROUP : Fld := ⟨.BB_LINK_STAT, 18, 16⟩
abbrev BB_LINK_STAT.PARTNER_WIDTH : Fld := ⟨.BB_LINK_STAT, 15, 12⟩
abbrev BB_LINK_STAT.PARTNER_RATE : Fld := ⟨.BB_LINK_STAT, 11, 10⟩
abbrev BB_LINK_STAT.PARTNER_LT_REQ : Fld := ⟨.BB_LINK_STAT, 9, 9⟩
/-! BB_LANE_STAT (spec/04 R131) -/
abbrev BB_LANE_STAT.ACTIVE : Fld := ⟨.BB_LANE_STAT, 23, 16⟩
abbrev BB_LANE_STAT.BAD : Fld := ⟨.BB_LANE_STAT, 15, 8⟩
abbrev BB_LANE_STAT.LOCK : Fld := ⟨.BB_LANE_STAT, 7, 0⟩
/-! BB_LINK_THRESH (spec/04 R131) -/
abbrev BB_LINK_THRESH.LANE_CV_MAX : Fld := ⟨.BB_LINK_THRESH, 31, 24⟩
abbrev BB_LINK_THRESH.CRC_MAX : Fld := ⟨.BB_LINK_THRESH, 23, 16⟩
abbrev BB_LINK_THRESH.STRIKE_WINDOW : Fld := ⟨.BB_LINK_THRESH, 15, 8⟩
abbrev BB_LINK_THRESH.REPEAT_MAX : Fld := ⟨.BB_LINK_THRESH, 7, 0⟩
/-! BB_LINK_ERR (spec/04 R131) -/
abbrev BB_LINK_ERR.RETRAINS : Fld := ⟨.BB_LINK_ERR, 31, 24⟩
abbrev BB_LINK_ERR.CRC_ERR : Fld := ⟨.BB_LINK_ERR, 23, 12⟩
abbrev BB_LINK_ERR.REPLAYS : Fld := ⟨.BB_LINK_ERR, 11, 0⟩
/-! BB_LINK_EVENT (spec/04 R131) -/
abbrev BB_LINK_EVENT.MISWIRED : Fld := ⟨.BB_LINK_EVENT, 9, 9⟩
abbrev BB_LINK_EVENT.LOOP_REFUSED : Fld := ⟨.BB_LINK_EVENT, 8, 8⟩
abbrev BB_LINK_EVENT.FALLBACK : Fld := ⟨.BB_LINK_EVENT, 7, 7⟩
abbrev BB_LINK_EVENT.RATE_DROP : Fld := ⟨.BB_LINK_EVENT, 6, 6⟩
abbrev BB_LINK_EVENT.NARROWED : Fld := ⟨.BB_LINK_EVENT, 5, 5⟩
abbrev BB_LINK_EVENT.RETRAINED : Fld := ⟨.BB_LINK_EVENT, 4, 4⟩
abbrev BB_LINK_EVENT.REPEAT_LIMIT : Fld := ⟨.BB_LINK_EVENT, 3, 3⟩
abbrev BB_LINK_EVENT.FAILED : Fld := ⟨.BB_LINK_EVENT, 2, 2⟩
abbrev BB_LINK_EVENT.LINK_DOWN : Fld := ⟨.BB_LINK_EVENT, 1, 1⟩
abbrev BB_LINK_EVENT.LINK_UP : Fld := ⟨.BB_LINK_EVENT, 0, 0⟩
/-! BB_LANE_CVA (spec/04 R131) -/
abbrev BB_LANE_CVA.CV3 : Fld := ⟨.BB_LANE_CVA, 31, 24⟩
abbrev BB_LANE_CVA.CV2 : Fld := ⟨.BB_LANE_CVA, 23, 16⟩
abbrev BB_LANE_CVA.CV1 : Fld := ⟨.BB_LANE_CVA, 15, 8⟩
abbrev BB_LANE_CVA.CV0 : Fld := ⟨.BB_LANE_CVA, 7, 0⟩
/-! BB_LANE_CVB (spec/04 R131) -/
abbrev BB_LANE_CVB.CV7 : Fld := ⟨.BB_LANE_CVB, 31, 24⟩
abbrev BB_LANE_CVB.CV6 : Fld := ⟨.BB_LANE_CVB, 23, 16⟩
abbrev BB_LANE_CVB.CV5 : Fld := ⟨.BB_LANE_CVB, 15, 8⟩
abbrev BB_LANE_CVB.CV4 : Fld := ⟨.BB_LANE_CVB, 7, 0⟩
/-! BB_TXN_CTRL (spec/05 R161) -/
abbrev BB_TXN_CTRL.TIMER : Fld := ⟨.BB_TXN_CTRL, 31, 24⟩
abbrev BB_TXN_CTRL.TGT_LIMIT : Fld := ⟨.BB_TXN_CTRL, 23, 16⟩
abbrev BB_TXN_CTRL.LOCK_EN : Fld := ⟨.BB_TXN_CTRL, 1, 1⟩
abbrev BB_TXN_CTRL.EARLY : Fld := ⟨.BB_TXN_CTRL, 0, 0⟩
/-! BB_TXN_STAT (spec/05 R161) -/
abbrev BB_TXN_STAT.OUT_OPEN : Fld := ⟨.BB_TXN_STAT, 31, 31⟩
abbrev BB_TXN_STAT.OUT_TAG : Fld := ⟨.BB_TXN_STAT, 30, 30⟩
abbrev BB_TXN_STAT.OUT_EARLY : Fld := ⟨.BB_TXN_STAT, 29, 29⟩
abbrev BB_TXN_STAT.OUT_LOCKED : Fld := ⟨.BB_TXN_STAT, 28, 28⟩
abbrev BB_TXN_STAT.IN_OPEN : Fld := ⟨.BB_TXN_STAT, 23, 23⟩
abbrev BB_TXN_STAT.IN_TAG : Fld := ⟨.BB_TXN_STAT, 22, 22⟩
abbrev BB_TXN_STAT.IN_EARLY : Fld := ⟨.BB_TXN_STAT, 21, 21⟩
abbrev BB_TXN_STAT.IN_LOCKED : Fld := ⟨.BB_TXN_STAT, 20, 20⟩
abbrev BB_TXN_STAT.QUIET : Fld := ⟨.BB_TXN_STAT, 15, 15⟩
/-! BB_TXN_EVENT (spec/05 R161) -/
abbrev BB_TXN_EVENT.PROTOCOL : Fld := ⟨.BB_TXN_EVENT, 7, 7⟩
abbrev BB_TXN_EVENT.STRAY : Fld := ⟨.BB_TXN_EVENT, 6, 6⟩
abbrev BB_TXN_EVENT.TIMEOUT_OUT : Fld := ⟨.BB_TXN_EVENT, 5, 5⟩
abbrev BB_TXN_EVENT.TIMEOUT_IN : Fld := ⟨.BB_TXN_EVENT, 4, 4⟩
abbrev BB_TXN_EVENT.LINK_LOST : Fld := ⟨.BB_TXN_EVENT, 3, 3⟩
abbrev BB_TXN_EVENT.STALE_IAK : Fld := ⟨.BB_TXN_EVENT, 2, 2⟩
abbrev BB_TXN_EVENT.REASSERT : Fld := ⟨.BB_TXN_EVENT, 1, 1⟩
abbrev BB_TXN_EVENT.UNKNOWN_TYPE : Fld := ⟨.BB_TXN_EVENT, 0, 0⟩
/-! BB_TXN_ERR (spec/05 R161) -/
abbrev BB_TXN_ERR.BERR_RX : Fld := ⟨.BB_TXN_ERR, 31, 24⟩
abbrev BB_TXN_ERR.BERR_TX : Fld := ⟨.BB_TXN_ERR, 23, 16⟩
abbrev BB_TXN_ERR.RTY_RX : Fld := ⟨.BB_TXN_ERR, 15, 8⟩
abbrev BB_TXN_ERR.RTY_TX : Fld := ⟨.BB_TXN_ERR, 7, 0⟩
/-! BB_IRQ_RX (spec/05 R161) -/
abbrev BB_IRQ_RX.ROAK : Fld := ⟨.BB_IRQ_RX, 14, 8⟩
abbrev BB_IRQ_RX.ASSERTED : Fld := ⟨.BB_IRQ_RX, 7, 1⟩
/-! BB_IRQ_VECA (spec/05 R161) -/
abbrev BB_IRQ_VECA.VEC4 : Fld := ⟨.BB_IRQ_VECA, 31, 24⟩
abbrev BB_IRQ_VECA.VEC3 : Fld := ⟨.BB_IRQ_VECA, 23, 16⟩
abbrev BB_IRQ_VECA.VEC2 : Fld := ⟨.BB_IRQ_VECA, 15, 8⟩
abbrev BB_IRQ_VECA.VEC1 : Fld := ⟨.BB_IRQ_VECA, 7, 0⟩
/-! BB_IRQ_VECB (spec/05 R161) -/
abbrev BB_IRQ_VECB.VEC7 : Fld := ⟨.BB_IRQ_VECB, 23, 16⟩
abbrev BB_IRQ_VECB.VEC6 : Fld := ⟨.BB_IRQ_VECB, 15, 8⟩
abbrev BB_IRQ_VECB.VEC5 : Fld := ⟨.BB_IRQ_VECB, 7, 0⟩
/-! BB_IRQ_IAK (spec/05 R161) -/
abbrev BB_IRQ_IAK.LEVEL : Fld := ⟨.BB_IRQ_IAK, 2, 0⟩
/-! BB_IRQ_TX (spec/05 R161) -/
abbrev BB_IRQ_TX.ROAK : Fld := ⟨.BB_IRQ_TX, 14, 8⟩
abbrev BB_IRQ_TX.ASSERTED : Fld := ⟨.BB_IRQ_TX, 7, 1⟩
/-! BB_RETRY_CTL (spec/08 R229) -/
abbrev BB_RETRY_CTL.MAX : Fld := ⟨.BB_RETRY_CTL, 23, 16⟩
abbrev BB_RETRY_CTL.DECAY : Fld := ⟨.BB_RETRY_CTL, 15, 8⟩
abbrev BB_RETRY_CTL.START : Fld := ⟨.BB_RETRY_CTL, 2, 0⟩
/-! BB_RETRY_TAB_LO (spec/08 R229) -/
abbrev BB_RETRY_TAB_LO.TAB3 : Fld := ⟨.BB_RETRY_TAB_LO, 31, 24⟩
abbrev BB_RETRY_TAB_LO.TAB2 : Fld := ⟨.BB_RETRY_TAB_LO, 23, 16⟩
abbrev BB_RETRY_TAB_LO.TAB1 : Fld := ⟨.BB_RETRY_TAB_LO, 15, 8⟩
abbrev BB_RETRY_TAB_LO.TAB0 : Fld := ⟨.BB_RETRY_TAB_LO, 7, 0⟩
/-! BB_RETRY_TAB_HI (spec/08 R229) -/
abbrev BB_RETRY_TAB_HI.TAB7 : Fld := ⟨.BB_RETRY_TAB_HI, 31, 24⟩
abbrev BB_RETRY_TAB_HI.TAB6 : Fld := ⟨.BB_RETRY_TAB_HI, 23, 16⟩
abbrev BB_RETRY_TAB_HI.TAB5 : Fld := ⟨.BB_RETRY_TAB_HI, 15, 8⟩
abbrev BB_RETRY_TAB_HI.TAB4 : Fld := ⟨.BB_RETRY_TAB_HI, 7, 0⟩

end Sys2Proof.Machine
end

