-- ==== Sys2Proof/Machine/Store.lean ====
section
/-!
DEFINITION. Keyed stores: the model's one representation of sparse data (register file, flash, ports, semaphores, pools, rings).
A store lists only the keys whose value differs from the default, keys strictly rising, so that equal stores are equal data.
-/

namespace Sys2Proof.Machine

/-- A key of up to three numbers, compared in lexical order. -/
structure Key where
  a : Nat
  b : Nat := 0
  c : Nat := 0
  deriving DecidableEq, Repr

/-- Lexical order of keys. -/
def Key.lt (x y : Key) : Bool :=
  x.a < y.a || (x.a == y.a && (x.b < y.b || (x.b == y.b && x.c < y.c)))

/-- A store of values by key. -/
abbrev Store (V : Type) := List (Key × V)

/-- The value at a key; `dflt` where the key is not listed. -/
def Store.get {V : Type} (dflt : V) (k : Key) : Store V → V
  | [] => dflt
  | (k', v) :: r => if k' = k then v else Store.get dflt k r

/-- Every entry of a key removed. -/
def Store.erase {V : Type} (k : Key) (m : Store V) : Store V := m.filter fun e => decide (e.1 ≠ k)

/-- An entry put in before the first larger key. -/
def Store.insert {V : Type} (k : Key) (v : V) : Store V → Store V
  | [] => [(k, v)]
  | (k', v') :: r => if k.lt k' then (k, v) :: (k', v') :: r else (k', v') :: Store.insert k v r

/-- The store with a value put at a key; the default value lists nothing. -/
def Store.set {V : Type} [DecidableEq V] (dflt : V) (k : Key) (v : V) (m : Store V) : Store V :=
  if v = dflt then m.erase k else (m.erase k).insert k v

/-- The keys of a store rise strictly. -/
def Store.rising {V : Type} : Store V → Bool
  | [] => true
  | [_] => true
  | (k, _) :: (k', v') :: r => k.lt k' && Store.rising ((k', v') :: r)

/-- The canonical form of a store whose keys have the defaults `dflt`. -/
def Store.wf {V : Type} [DecidableEq V] (dflt : Key → V) (m : Store V) : Bool :=
  m.rising && m.all fun e => decide (e.2 ≠ dflt e.1)

end Sys2Proof.Machine
end

