-- ==== Sys2Proof/Machine/Bits.lean ====
section
/-!
DEFINITION. Bit fields, byte orders and checksums: the arithmetic that register accesses (R12 to R15, R54), packets and descriptors share.
-/

namespace Sys2Proof.Machine

/-- Bits `[hi:lo]` of a word as a number. -/
def bitsOf (w : Word) (hi lo : Nat) : Nat := w.toNat / 2 ^ lo % 2 ^ (hi + 1 - lo)

/-- The mask of bits `[hi:lo]`. -/
def maskOf (hi lo : Nat) : Word := BitVec.ofNat 32 ((2 ^ (hi + 1 - lo) - 1) * 2 ^ lo)

/-- A word with bits `[hi:lo]` replaced by the low bits of a number. -/
def putBits (w : Word) (hi lo v : Nat) : Word :=
  (w &&& ~~~ (maskOf hi lo)) ||| (BitVec.ofNat 32 (v * 2 ^ lo) &&& maskOf hi lo)

/-- Bit `n` of a number. -/
def bitN (x n : Nat) : Bool := x.testBit n

/-- The bits of a register whose fields satisfy `p`. -/
def RegId.maskWhere (r : RegId) (p : FieldSpec → Bool) : Word :=
  (r.spec.fields.filter p).foldl (fun m f => m ||| maskOf f.hi f.lo) 0

/-- The reset value of a register by its table. -/
def RegId.resetWord (r : RegId) : Word :=
  r.spec.fields.foldl (fun m f => putBits m f.hi f.lo f.reset) 0

/-- Where the accesses of a table's rows fall: the register, the die or tile that keeps it (or the replica), its index. -/
structure Loc where
  reg : RegId
  u : Nat := 0
  i : Nat := 0
  deriving DecidableEq, Repr

/-- The key of a register of the map in the register store. -/
def Loc.key (l : Loc) : Key := ⟨l.reg.ctorIdx, l.u, l.i⟩

/-- The reset value of a register at its place: MATE of TIL_BOND names the partner tile, 8 × d + (t XOR 1); TAIL of the queues 60 and
61 is that of the directory (R259). See log entry 7. -/
def Loc.resetWord (l : Loc) : Word :=
  if l.reg = .TIL_BOND then l.reg.resetWord ||| BitVec.ofNat 32 (l.u ^^^ 1)
  else if l.reg = .DIE_Q_CFG ∧ (l.i = 60 ∨ l.i = 61) then BitVec.ofNat 32 (1000 * 65536)
  else l.reg.resetWord

/-- Offset of index `i` (mixed radix, outermost first) in a repetition. -/
def dimOffset : List (Nat × Nat) → Nat → Nat
  | [], _ => 0
  | (n, st) :: r, i =>
    let inner := r.foldl (fun m p => m * p.1) 1
    (i / inner % n) * st + dimOffset r (i % inner)

/-- The index that lies at an offset from the base of a repetition, if one does. -/
def dimIndex : List (Nat × Nat) → Nat → Option Nat
  | [], o => if o = 0 then some 0 else none
  | (n, st) :: r, o =>
    if o / st < n then
      (dimIndex r (o % st)).map fun k => (o / st) * (r.foldl (fun m p => m * p.1) 1) + k
    else none

/-- The start of a die block (R46) and of a tile block in it (R48). -/
def dieBase (d : Nat) : Nat := 0x800000 * (d + 1)
def tileBase (t : Nat) : Nat := dieBase (t / 8) + 0x100000 + (t % 8) * 0x80000

/-- BAR0 offset of a register (R46 to R49). -/
def Loc.offset (l : Loc) : Nat :=
  let s := l.reg.spec
  (match s.block with
    | .pkg => 0
    | .die => dieBase l.u
    | .tile => tileBase l.u) + s.base + dimOffset s.dims l.i

/-- The register of a list that lies at an offset of its block, with its index. -/
def findReg : List RegId → Nat → Option (RegId × Nat)
  | [], _ => none
  | r :: rs, o =>
    if r.spec.base ≤ o then
      match dimIndex r.spec.dims (o - r.spec.base) with
      | some i => some (r, i)
      | none => findReg rs o
    else findReg rs o

/-- Does a package of `n` dies have the unit that an index of a register stands for (R9, R50)? Level 0 and absent ports have no interrupt
map entry (R217), index 26 to 31 and absent dies no protection unit (R235), absent dies no mover, monitor, seal or error record, and
CLK_MON_CNT(7) is no source. See log entry 49. -/
def RegId.present (n : Nat) (r : RegId) (i : Nat) : Bool :=
  match r with
  | .IRQ_BBIN_CTL | .IRQ_BBIN_TGT | .IRQ_BBOUT_PEND => i % 8 != 0 && decide (i < 64 * n)
  | .PROT_BIND | .PROT_VIO_INFO | .PROT_VIO_ADDR_LO | .PROT_VIO_ADDR_HI | .PROT_VIO_DETAIL | .PROT_VIO_REQ | .PROT_VIO_LEN
  | .PROT_VIO_DENIED | .PROT_VIO_CLR => decide (i % 32 < 26) && decide (i < 32 * n)
  | .MOV_CTL | .MOV_STAT | .MOV_ERR => decide (i < 16 * n)
  | .MON_BIN => decide (i < 1024 * n)
  | .PKG_SEAL_VALUE | .ERR_READ | .ERR_STAT => decide (i < n)
  | .CLK_MON_CNT => decide (i < 7)
  | r => !(decide (0x180000 ≤ r.spec.base) && decide (r.spec.base < 0x200000) && r.spec.block == .pkg) || decide (i < 64 * n)

/-- The register at a BAR0 offset aligned to four bytes, for a package of `n` dies; `none` is reserved space (R50).
A configuration register names replica 0 here; the access chooses the replica. -/
def locate (n off : Nat) : Option Loc :=
  (if off < 0x800000 then
    (findReg pkgRegs off).map fun p => ⟨p.1, 0, p.2⟩
  else
    let d := off / 0x800000 - 1
    let o := off % 0x800000
    if d < n then
      if 0x100000 ≤ o ∧ o < 0x500000 then
        let t := (o - 0x100000) / 0x80000
        (findReg tileRegs ((o - 0x100000) % 0x80000)).map fun p => ⟨p.1, 8 * d + t, p.2⟩
      else (findReg dieRegs o).map fun p => ⟨p.1, d, p.2⟩
    else none).filter fun l => l.reg.present n l.i

/-- Does the register hold a P field (R17)? -/
def RegId.isP (r : RegId) : Bool := r.spec.fields.any (·.prot)

/-- The bits of a register that are P. -/
def RegId.pMask (r : RegId) : Word := r.maskWhere (·.prot)

/-- Is the register the _HI half of a pair whose _LO half lies just below it (R14)? The pairs are the registers named so. -/
def RegId.pairHi : RegId → Option RegId
  | .PKG_BB_CTRL_BASE_LO => some .PKG_BB_CTRL_BASE_HI
  | .PKG_BB_CTRL_PORTS_LO => some .PKG_BB_CTRL_PORTS_HI
  | .PROT_RGN_BASE_LO => some .PROT_RGN_BASE_HI
  | .PROT_RGN_LIMIT_LO => some .PROT_RGN_LIMIT_HI
  | .PROT_VIO_ADDR_LO => some .PROT_VIO_ADDR_HI
  | .EVQ_HOST_BASE_LO => some .EVQ_HOST_BASE_HI
  | .POOL_TOTAL_LO => some .POOL_TOTAL_HI
  | .POOL_ARG_LO => some .POOL_ARG_HI
  | .POOL_RES_LO => some .POOL_RES_HI
  | .POOL_BASE_LO => some .POOL_BASE_HI
  | .POOL_STATE_LO => some .POOL_STATE_HI
  | .POOL_RING_LO => some .POOL_RING_HI
  | .RING_DESC_LO => some .RING_DESC_HI
  | .RING_CPL_LO => some .RING_CPL_HI
  | .STRIPE_OFF_LO => some .STRIPE_OFF_HI
  | .PLAY_CONCEAL_LO => some .PLAY_CONCEAL_HI
  | .TAP_LOG_LO => some .TAP_LOG_HI
  | .TAP_PREV_LO => some .TAP_PREV_HI
  | .WIN_O_BASE_LO => some .WIN_O_BASE_HI
  | .WIN_O_LIMIT_LO => some .WIN_O_LIMIT_HI
  | .WIN_O_TARGET_LO => some .WIN_O_TARGET_HI
  | .WIN_O_PTA_LO => some .WIN_O_PTA_HI
  | .WIN_O_PTB_LO => some .WIN_O_PTB_HI
  | .WIN_I_BASE_LO => some .WIN_I_BASE_HI
  | .WIN_I_LIMIT_LO => some .WIN_I_LIMIT_HI
  | .WIN_I_TARGET_LO => some .WIN_I_TARGET_HI
  | .WIN_I_PTA_LO => some .WIN_I_PTA_HI
  | .WIN_I_PTB_LO => some .WIN_I_PTB_HI
  | .WIN_I_PORTS_LO => some .WIN_I_PORTS_HI
  | .MON_SUM_LO => some .MON_SUM_HI
  | .ERR_DEF_NEAR_LO => some .ERR_DEF_NEAR_HI
  | .ERR_DEF_FAR_LO => some .ERR_DEF_FAR_HI
  | .DIE_ACC_ERR_ADDR_LO => some .DIE_ACC_ERR_ADDR_HI
  | .BB_RETRY_TAB_LO => some .BB_RETRY_TAB_HI
  | .MSIX_ADDR_LO => some .MSIX_ADDR_HI
  | _ => none

/-- The bytes of a number, least significant first. -/
def bytesLE (n : Nat) : Nat → List Byte
  | 0 => []
  | k + 1 => BitVec.ofNat 8 n :: bytesLE (n / 256) k

/-- The number whose bytes are given, least significant first. -/
def natLE : List Byte → Nat
  | [] => 0
  | b :: r => b.toNat + 256 * natLE r

/-- The number whose bytes are given, most significant first. -/
def natBE (bs : List Byte) : Nat := natLE bs.reverse

/-- The bytes of a number, most significant first. -/
def bytesBE (n k : Nat) : List Byte := (bytesLE n k).reverse

/-- The 32-bit words of little-endian bytes. -/
def wordsLE : List Byte → List Word
  | a :: b :: c :: e :: r => BitVec.ofNat 32 (natLE [a, b, c, e]) :: wordsLE r
  | [] => []
  | bs => [BitVec.ofNat 32 (natLE bs)]

/-- The bytes of words, each word bits [7:0] first (R15). -/
def bytesOfWords (ws : List Word) : List Byte := ws.flatMap fun w => bytesLE w.toNat 4

/-- One bit of the reflected CRC-32 (R15). -/
def crcBit (c : Word) : Word := if c.getLsbD 0 then (c >>> 1) ^^^ 0xEDB88320#32 else c >>> 1

/-- One byte into the reflected CRC-32. -/
def crcByte (c : Word) (b : Byte) : Word :=
  crcBit (crcBit (crcBit (crcBit (crcBit (crcBit (crcBit (crcBit (c ^^^ b.setWidth 32))))))))

/-- CRC-32 of IEEE 802.3 (R15): reflected polynomial 0x04C1_1DB7, initial value all ones, inverted result. -/
def crc32 (bs : List Byte) : Word := ~~~ (bs.foldl crcByte 0xFFFFFFFF#32)

/-- `List.range'`-like list of offsets: `n` numbers from `a`. -/
def upFrom (a n : Nat) : List Nat := (List.range n).map (a + ·)

/-- The smaller of a counter and its saturation value, raised by one. -/
def satInc (x top : Nat) : Nat := if x < top then x + 1 else top

/-- The places of a list, from 0. -/
def indexed {A : Type} (l : List A) : List (Nat × A) := l.zipIdx.map fun p => (p.2, p.1)

/-- The list with the first element that satisfies `p` taken out, and that element. -/
def takeFirst {A : Type} (p : A → Bool) : List A → Option A × List A
  | [] => (none, [])
  | x :: r => if p x then (some x, r) else let t := takeFirst p r; (t.1, x :: t.2)

/-- The list with `f` applied to the first element that satisfies `p`. -/
def modFirst {A : Type} (p : A → Bool) (f : A → A) : List A → List A
  | [] => []
  | x :: r => if p x then f x :: r else x :: modFirst p f r

end Sys2Proof.Machine
end

