-- ==== Sys2Proof/Machine/State.lean ====
section
/-!
DEFINITION. The state of the bridge as plain data: every register (by location), every FIFO, buffer, counter, mode and pin the spec
gives the block, and the queue of waiting commands.
-/

namespace Sys2Proof.Machine

/-! Variants and locks -/

/-- The variants (R6). -/
inductive Variant where
  | ez2 | ez4 | ez8
  deriving DecidableEq, Repr

/-- Dies present (R6). -/
def Variant.dies : Variant → Nat
  | .ez2 => 2
  | .ez4 => 4
  | .ez8 => 8

/-- Device ID (R7). -/
def Variant.device : Variant → Nat
  | .ez2 => 0x0E02
  | .ez4 => 0x0E04
  | .ez8 => 0x0E08

/-- The lock bits (R68, R72): the package lock copy of each die, the lock of each die and of each tile, by number. -/
structure Locks where
  pkg : Vector Bool 8
  die : Vector Bool 8
  tile : Vector Bool 64
  deriving DecidableEq, Repr

/-! Windows and direct accesses (06, 07) -/

/-- A snapshot of one window's registers (R167). `inb` tells the direction. -/
structure Win where
  inb : Bool := false
  num : Nat := 0
  ctl : Word := 0
  pf : Word := 0
  base : Nat := 0
  limit : Nat := 0
  target : Nat := 0
  pta : Nat := 0
  ptb : Nat := 0
  route : Word := 0
  deriving DecidableEq, Repr

/-- What a direct access does: a read of enabled bytes, a write of enabled bytes, an AtomicOp (R90, R101). -/
inductive AccOp where
  | read (en : List Bool)
  | write (bytes : List (Option Byte))
  | atomic (kind : AtomicKind) (size operand compare : Nat)
  deriving DecidableEq, Repr

/-- A request received for the window aperture, from its acceptance to its end. `owed` is its entry in the port's list of owed
completions; `sw` is the number of table switches its die had applied when it was translated (R191). -/
structure Acc where
  id : Nat
  die : Nat
  rid : Nat
  tag : Nat
  ro : Bool
  ido : Bool
  op : AccOp
  off : Nat
  win : Win
  far : Nat
  epoch : Nat
  sw : Nat
  deriving DecidableEq, Repr

/-- The shape of one Body Bus transaction (R141). -/
inductive Shape where
  | single | block | lck | ulk
  deriving DecidableEq, Repr

/-- One Body Bus transaction to be made: far address, length, data of a write in bus order. -/
structure Course where
  shape : Shape
  write : Bool
  addr : Nat
  len : Nat
  data : List Byte
  deriving DecidableEq, Repr

/-- Classes of waiting work of a tile (R28). -/
inductive WClass where
  | reg | direct | mover
  deriving DecidableEq, Repr

/-- Where an AtomicOp's sequence stands (R149, R212). -/
inductive AtomPhase where
  | acquire | lck | read | write | ulk
  deriving DecidableEq, Repr

/-- What a piece of work at a tile is for: one direct access, several combined reads (R183), a write run (R181), an AtomicOp, or
a block of a mover's descriptor (ring, descriptor count, block number). -/
inductive Job where
  | read (as : List Acc)
  | write (as : List Acc)
  | atomic (a : Acc) (phase : AtomPhase) (old : Nat) (failed : Bool)
  | mover (ring desc blk : Nat)
  deriving DecidableEq, Repr

/-- One piece of work at a tile's outbound engine. `port` is the port on which it runs, `am` its address modifier, `courses` what
is left to do, `done` the bytes already ended with ACK, `got` the bytes read so far by far address, `retries` the counted RTY of the
current course, `waits` whether a retry wait runs and `waitUs` its length (R228), `lock` the semaphore its window is bound to, `extra`
the bytes of an extended block beyond the reads, `blkAt` the first far byte of a block read and `stale` the reason for which its
extension is discarded as it comes, 0 for none (R185, R189), `bad` whether the value that an AtomicOp read has been lost (R360), `ready` whether it
has been translated, `begun` whether a transaction of it has opened,
`came` whether the tile has taken it in (it waits for a mortar route, a place or room otherwise), `again` its place at the head of its class
after an RTY, from 1, behind the transaction ahead of it where that returns too (R29, R145); 0 elsewhere. -/
structure Work where
  id : Nat
  job : Job
  cls : WClass
  port : Nat
  am : Nat
  courses : List Course
  done : Nat := 0
  got : List (Nat × Byte) := []
  retries : Nat := 0
  rtys : Nat := 0
  waits : Bool := false
  waitUs : Nat := 0
  lock : Option Nat := none
  extra : Nat := 0
  blkAt : Nat := 0
  stale : Nat := 0
  bad : Bool := false
  epoch : Nat := 0
  ready : Bool := true
  begun : Bool := false
  came : Bool := true
  again : Nat := 0
  deriving DecidableEq, Repr

/-- The transaction that a port has open as initiator, or its early address (R143, R145): the work, the tag, what has arrived,
whether it waits for RTY FLUSHED (R145), whether it only runs to its end after a tile fault (R355), `at_` the access
number at which it became open (R441). -/
structure OutTxn where
  work : Nat
  tag : Nat
  course : Course
  beats : Nat := 0
  data : List Byte := []
  last : Bool := false
  poison : Bool := false
  flushed : Bool := false
  drain : Bool := false
  at_ : Nat := 0
  deriving DecidableEq, Repr

/-- A write run held for combining (R181, R182): its far bytes from `far` on, none where a byte is not carried. -/
structure Run where
  path : Nat
  win : Win
  far : Nat
  bytes : List (Option Byte)
  accs : List Acc
  deriving DecidableEq, Repr

/-- A prefetched block in tile staging (R185, R189); `used` are the far bytes returned so far as ranges (first, length), `near`
the near address of its first byte. Toward the host: the length of a read still in flight, the reason for which it is discarded as it comes, 0 for
none, and which prefetch it is a piece of (R186). -/
structure PfBlock where
  win : Win
  far : Nat
  data : List Byte
  used : List (Nat × Nat)
  near : Nat := 0
  want : Nat := 0
  gone : Nat := 0
  grp : Nat := 0
  deriving DecidableEq, Repr

/-- What an inbound access decodes to (R156): an answer is a BERR code or, with false, an RTY reason. -/
inductive InTarget where
  | view (off : Nat)
  | cfg
  | window (w : Win)
  | answer (berr : Bool) (code : Nat)
  deriving DecidableEq, Repr

/-- The first failure of an inbound access (R227): BERR code, completion status, poison, tag of the failed request. -/
structure InFail where
  code : Nat
  cpl : Nat
  poison : Bool
  tag : Nat
  deriving DecidableEq, Repr

/-- The transaction open with the bridge as target (R143): what arrived, what it decodes to, the ranges its unit allows (offset,
length), whether a page line is awaited, whether it has been translated and its host address, whether its requests were
made, those that are out by offset and what they brought. -/
structure InTxn where
  id : Nat
  adr : AdrBody
  shape : Shape
  target : InTarget
  parts : List (Nat × Nat) := []
  denied : Bool := false
  epoch : Nat := 0
  sw : Nat := 0
  data : List Byte := []
  gotLast : Bool := false
  poison : Bool := false
  asked : Bool := false
  xlated : Bool := false
  host : Nat := 0
  issued : Bool := false
  waiting : List Nat := []
  pieces : List (Nat × List Byte) := []
  failed : Option InFail := none
  deriving DecidableEq, Repr

/-- Steps of training (R122). -/
inductive TrainStep where
  | idle | cap | rateIdle | eq | confirm | retrain
  deriving DecidableEq, Repr

/-- Phases of a lane recalibration (R367): its six steps, or the lanes outside the active group of a narrower port. -/
inductive RecalPhase where
  | none | narrowHigh | doHigh | mid | narrowLow | doLow | widen | outside
  deriving DecidableEq, Repr

/-- A transaction packet as the link carries it (R132). -/
inductive Pkt where
  | adr (b : AdrBody)
  | lck (b : AdrBody)
  | ulk (tag : Nat)
  | dat (b : DatBody)
  | ack (tag : Nat)
  | berr (tag code : Nat)
  | rty (tag reason hint : Nat)
  | irq (assert_ roak : Bool) (level vector : Nat)
  | iak (level vector : Nat)
  deriving DecidableEq, Repr

/-- TYPE of a transaction packet (R132). -/
def Pkt.typ : Pkt → Nat
  | .adr _ => 0x10
  | .dat _ => 0x11
  | .lck _ => 0x12
  | .ulk _ => 0x13
  | .ack _ => 0x20
  | .berr .. => 0x21
  | .rty .. => 0x22
  | .irq .. => 0x30
  | .iak .. => 0x31

/-- The link of a port (04): sequencing and repeat, training, health. `badCap` are the lanes marked bad at step 3 of R122, `idlSent` the RX_NEXT
of the IDL that the idle transmit side repeats (R114), `synSent` the SYN that a training one repeats (R119). -/
structure Link where
  txSeq : Nat := 0
  replay : List (Nat × Pkt) := []
  waiting : List Pkt := []
  lastDat : Nat := 0
  rxNext : Nat := 0
  repeatRun : Bool := false
  repeats : Nat := 0
  ackDue : Bool := false
  step : TrainStep := .idle
  goodRx : Nat := 0
  partnerGood : Nat := 0
  seen : Bool := false
  partner : Option Syn := none
  rate : Nat := 0
  prevWidth : Nat := 0
  prevGroup : Nat := 0
  capWidth : Nat := 8
  chosen : Option (Nat × Nat) := none
  waitIdl : Bool := false
  cvWin : List Nat := [0, 0, 0, 0, 0, 0, 0, 0]
  crcWin : Nat := 0
  struck : Option Nat := none
  badCap : Nat := 0
  idlSent : Option Nat := none
  synSent : Option Syn := none
  recal : RecalPhase := .none
  deriving DecidableEq, Repr

/-! Semaphores (07) -/

/-- The holder of a semaphore (R208). -/
inductive Holder where
  | atomic (path work : Nat)
  | master (port : Nat)
  | software (path : Nat)
  deriving DecidableEq, Repr

/-- A semaphore: holder, reserved port, waiting AtomicOps in order of arrival, accesses that go first after a release (R210). -/
structure Sem where
  holder : Option Holder := none
  resv : Option Nat := none
  waiting : List Nat := []
  passing : List Nat := []
  deriving DecidableEq, Repr

/-! Queues (10) -/

/-- A queue: whole items held, the last word of each the one with its end mark (R253), items their producer still holds under WAIT (R258), the
words written of an item without its end mark and those its producer has still to write (R254), whether a flush took its first words (R266), the
credits that producers hold beyond the free words and items that overflowed for it (R257, R264), the read cursor, the two counters (R262),
whether a tail notice has been sent since the last word was taken (R265), the write and read pointers, each with its second copy (R255), the
stages of the command chain from stage 0 on (R256). -/
structure QState where
  items : List (List Word) := []
  held : List (List Word) := []
  part : List Word := []
  todo : List Word := []
  skip : Bool := false
  extra : Nat := 0
  spilt : Nat := 0
  cursor : Nat := 0
  pushed : Nat := 0
  popped : Nat := 0
  noticed : Bool := false
  wr : Nat × Nat := (0, 0)
  rd : Nat × Nat := (0, 0)
  chain : List (List Word) := []
  deriving DecidableEq, Repr

/-! PCI Express ports (03) -/

/-- Completion statuses that a port sends (R92). -/
inductive CplSent where
  | success | unsupported | abort | retry
  deriving DecidableEq, Repr

/-- Kinds of request the bridge sends toward host memory (R98). -/
inductive ReqKind where
  | read | write | zeroRead
  deriving DecidableEq, Repr

/-- An inbound transaction as its host requests name it: port, its number, window, first address on the Body Bus and in host memory,
length, the request's place (offset in the access; the zero-length read last), whether its write was acknowledged before. -/
structure InWho where
  port : Nat
  txn : Nat
  win : Nat
  near : Nat
  far : Nat
  len : Nat
  off : Nat
  post : Bool
  deriving DecidableEq, Repr

/-- Who asked for a host request, and which piece of what it asked. -/
inductive Who where
  | page (die id : Nat)
  | poolState (pool id : Nat)
  | poolRefill (pool piece : Nat)
  | poolWrite (pool id : Nat)
  | ringFetch (ring : Nat)
  | ringCpl (ring : Nat)
  | mover (ring desc piece : Nat)
  | inbound (w : InWho)
  | inPrefetch (port win near : Nat)
  | tap (t piece : Nat)
  | tapLog (t : Nat)
  | evq
  | evqBody
  | none
  deriving DecidableEq, Repr

/-- A request toward host memory. `book` marks the bookkeeping writes of R449; `chk` and `sw` hold the die of the
access behind it with the epoch of its check and the switch count of its translation (R191, R251), `from_` the die whose unit asks, none
for the port's own. -/
structure HostReq where
  id : Nat
  die : Nat
  kind : ReqKind
  addr : Nat
  len : Nat
  data : List Byte := []
  ro : Bool := false
  ido : Bool := false
  book : Bool := false
  who : Who := .none
  chk : Option (Nat × Nat) := none
  sw : Option (Nat × Nat) := none
  from_ : Option Nat := none
  deriving DecidableEq, Repr

/-- The engines of a port (05 to 08): tags, open and early transactions, waiting work in order of arrival, held runs, prefetched
blocks, arbitration credits, the inbound side, its lock. `asserted` are the levels the bridge holds asserted on the partner: level,
vector, source (0 for the non-maskable event, 1 + class, 65 + ring), release on acknowledge. `inBad` tells that the early address held is one
R145 forbids, `inCut` is the tag of a write answered before its last DAT (R142), `inPost` the requests of acknowledged writes behind those of
earlier transactions (R196, R200). -/
structure Port where
  link : Link := {}
  nextTag : Nat := 0
  outOpen : Option OutTxn := none
  early : Option OutTxn := none
  quiet : Option Nat := none
  works : List Work := []
  lockedBy : Option Nat := none
  runs : List Run := []
  pf : List PfBlock := []
  lastRead : List (Bool × Nat × Nat) := []
  turn : WClass := .direct
  credDirect : Int := 0
  credMover : Int := 0
  inOpen : Option InTxn := none
  inEarly : Option InTxn := none
  inBad : Bool := false
  inCut : Option Nat := none
  inPost : List HostReq := []
  inLock : Option Nat := none
  asserted : List (Nat × Nat × Nat × Bool) := []
  iakSent : Nat := 0
  deriving DecidableEq, Repr

/-- A non-posted request the port has issued: its tag and the data that has come so far (R95). -/
structure Issued where
  tag : Nat
  req : HostReq
  got : List Byte := []
  deriving DecidableEq, Repr

/-- A received non-posted request that is not yet completed (R92): the address by which its completions are split (R91), whether it is one
to BAR4 (R96), what its error record would say (R94); `mon` is its window, for the monitors (R441), `tile` the list of the tile that brings
its outcome, `kept` an outcome that waits there for a mortar route (R30, R40). -/
structure Owed where
  id : Nat
  rid : Nat
  tag : Nat
  len : Nat := 0
  addr : Nat := 0
  aper : Bool := false
  tile : Option Nat := none
  kept : Option (CplSent × Bool × List Byte) := none
  win : Nat := 0
  port : Nat := 0
  near : Nat := 0
  far : Nat := 0
  mon : Option Nat := none
  deriving DecidableEq, Repr

/-- A request received by a port, while it waits for the credits of its class (R36, R96, R358). -/
inductive Ingress where
  | direct (s : Src) (off : Nat) (op : AccOp)
  | write (s : Src) (off len en v at_ : Nat)
  | read (s : Src) (off len : Nat)
  | bell (s : Src) (ring off len en v : Nat)
  | bellRead (s : Src) (off len : Nat)
  | cfg (die : Nat) (r : CfgReq)
  | odd (s : Src) (posted : Bool) (at_ : Option OddTarget)
  deriving DecidableEq, Repr

/-- A PCI Express port (03): owed completions, issued requests, requests waiting for a tag, requests held under R99, requests that wait for
a mortar route to the port (R30), received posted and non-posted requests that wait for credits (R96), vectors whose
message waits for IAK_AUTO (R220), write failures that wait for the next read of their stream (R199), the bit of the AER first error
pointer and the place of the headers it logged among the free values (R230), readiness, pins. -/
structure Pcie where
  owed : List Owed := []
  issued : List Issued := []
  waitTag : List HostReq := []
  heldReq : List HostReq := []
  unrouted : List HostReq := []
  inP : List Ingress := []
  inNp : List Ingress := []
  aerFirst : Option Nat := none
  aerLog : Option Nat := none
  iakWait : List (Nat × Nat × Nat × Nat) := []
  failNext : List (Nat × Nat × Nat × Bool) := []
  flr : Bool := false
  perst : Bool := true
  ltrIdle : Bool := true
  inL1 : Bool := false
  deriving DecidableEq, Repr

/-- A margined lane of a port (R106): its control word, the status word it shows, the error count limit, the errors counted by the step that
runs. -/
structure Margin where
  ctl : Nat := 0x9C38
  stat : Nat := 0
  limit : Nat := 4
  errs : Nat := 0
  deriving DecidableEq, Repr

/-! Translation cache (06) -/

/-- A cached page line (R171). -/
structure PageLine where
  inb : Bool
  win : Nat
  tableB : Bool
  line : Nat
  entries : List Nat
  deriving DecidableEq, Repr

/-- A page line read in flight: `keep` turns false when an invalidation covers it (R172). -/
structure PageRead where
  id : Nat
  inb : Bool
  win : Nat
  tableB : Bool
  line : Nat
  keep : Bool
  accs : List Acc := []
  ports : List Nat := []
  deriving DecidableEq, Repr

/-- The translation cache of a die: lines, most recently used first, reads in flight, number of switches applied. -/
structure TCache where
  lines : List PageLine := []
  reads : List PageRead := []
  switches : Nat := 0
  deriving DecidableEq, Repr

/-! Package configuration (01) -/

/-- A package configuration write as the lead orders it (R32): `mask` are the bits it sets, under the locks in force when the lead took
it (R72). -/
structure CfgWrite where
  off : Nat
  v : Word
  mask : Word := 0
  path : Nat
  deriving DecidableEq, Repr

/-- A configuration write held while no lead takes any (R36): the length of its access and which of its courses it is (R58, R80), whether a
rejection of it may still be recorded, the die and epoch of its unit's check (R251). -/
structure HeldCfg where
  w : CfgWrite
  len : Nat := 4
  course : Nat := 0
  rec_ : Bool := true
  chk : Option (Nat × Nat) := none
  deriving DecidableEq, Repr

/-- A register read that waits (R32, R288): its source, offset, length and owed completion, whether its unit denied a part of it, the
epoch of the check. -/
structure HeldRead where
  src : Src
  off : Nat
  len : Nat
  owed : Nat
  part : Bool := false
  epoch : Nat := 0
  deriving DecidableEq, Repr

/-- Takeover and handoff (R36, R361 to R364): the lead's die, a claim in progress with the dies that have acknowledged it, a handoff
in progress, whether the lead has failed and none has claimed. -/
structure LeadState where
  lead : Nat := 0
  claim : Option (Nat × List Nat) := none
  handoff : Option Nat := none
  failed : Bool := false
  deriving DecidableEq, Repr

/-! Outputs -/

/-- AER errors (R230). -/
inductive AerErr where
  | unsupported | completerAbort | completionTimeout | poisoned | unexpectedCpl | malformed | internal | correctedInternal
  deriving DecidableEq, Repr

/-- The register that a boundary-scan instruction puts between TDI and TDO, and for EXTEST, CLAMP and HIGHZ that they act (R413, R414). -/
inductive ScanReg where
  | boundary | boundaryDriven | idcode | bypass | bypassClamped | bypassHighz
  deriving DecidableEq, Repr

/-- What the block sends on its pins and links, in order (DESIGN CHOICE, log entry 9). -/
inductive Out where
  | cpl (die rid tag : Nat) (status : CplSent) (poison : Bool) (data : List Byte)
  | req (r : HostReq) (tag : Option Nat)
  | msix (die vector : Nat) (addr : Nat) (data : Word) (ido : Bool)
  | aer (die : Nat) (e : AerErr)
  | ltr (die : Nat) (us : Option Nat)
  | pcieMsg (die : Nat) (ack : Bool)
  | l0p (die width : Nat)
  | pkt (port lseq : Nat) (p : Pkt)
  | idl (port : Nat) (rep : Bool) (rxNext : Nat)
  | skp (port count : Nat)
  | syn (port lane : Nat) (s : Syn)
  | ebp (port : Nat)
  | laneIdle (port : Nat)
  | mcDone (die : Nat) (ok held : Bool) (data : List Byte)
  | viewDone (port : Nat) (ok held : Bool) (data : List Byte)
  | mortar (die link : Nat) (p : MortarPkt)
  | mortarAck (die link src stream seq : Nat)
  | nmi (fromDie : Nat)
  | gate (port : Nat) (on : Bool)
  | dsch (port : Nat) (on : Bool)
  | alert (on : Bool)
  | scan (die : Nat) (reg : ScanReg) (idcode : Nat)
  deriving DecidableEq, Repr

/-- Internal notices: ends of work and of host requests that a later stage of the same step hands to whoever asked. -/
inductive Note where
  | workEnd (w : Work) (ok : Bool) (status code : Nat) (data : List (Nat × Byte))
  | hostEnd (r : HostReq) (tag : Nat) (ok abort poison timeout : Bool) (data : List Byte)
  | issued (who : Who)
  | portDown (port : Nat)
  | portUp (port : Nat) (fresh : Bool)
  | portLeft (port : Nat)
  | sample (kind num die start : Nat)
  | poolEnd (die m ring desc op status handle : Nat)
  | tapPool (t op status handle : Nat)
  | tapGot (ring desc status : Nat)
  | tapDone (ring desc status seq : Nat)
  | cfgWrite (off : Nat) (v : Word) (path : Nat)
  | qpush (die q : Nat) (items : List (List Word))
  | qover (die q id : Nat)
  | pageIn (port win : Nat) (tableB : Bool) (line : Nat) (entries : Option (List Nat))
  | inGo (port : Nat)
  | lock (copies : Nat) (die tile : Option Nat)
  | unlock (tile : Nat)
  deriving DecidableEq, Repr

/-! Buffer pools (11) -/

/-- Who gives a pool command: the mailbox of a path, or a mover for a ring's descriptor (R286, R288). -/
inductive PoolBy where
  | mailbox (path : Nat)
  | mover (die m ring desc : Nat)
  | tap (die m t : Nat)
  deriving DecidableEq, Repr

/-- A pool command (R283). -/
structure PoolCmd where
  by_ : PoolBy
  op : Nat
  pool : Nat
  handle : Nat := 0
  owner : Nat
  newOwner : Nat := 0
  deriving DecidableEq, Repr

/-- A pool command in flight on a buffer (R280): it waits for its state entry to be read, or for its state write to be issued. -/
structure PoolJob where
  id : Nat
  cmd : PoolCmd
  index : Nat
  writing : Bool := false
  result : Nat := 0
  nown : Nat := 0
  deriving DecidableEq, Repr

/-- A refill of a pool's cache in flight: ring entries from `start`, the requests still out, the data of each (R278). -/
structure Refill where
  start : Nat
  count : Nat
  out : List Nat
  got : List (Nat × List Byte) := []
  failed : Bool := false
  deriving DecidableEq, Repr

/-- Running state of a pool beside its registers (R271): cached handles, oldest first, the refill in flight, GETs that wait for it,
commands in flight and commands that wait behind them; `stalled` after a refill that failed. -/
structure Pool where
  cache : List Nat := []
  refill : Option Refill := none
  stalled : Bool := false
  gets : List PoolCmd := []
  jobs : List PoolJob := []
  queue : List PoolCmd := []
  deriving DecidableEq, Repr

/-- A command mailbox (R288): whether a command is unapplied, and the trigger held behind it (R67) with its operand,
reads of POOL_RES_STAT that wait for it (R288). -/
structure Mail where
  busy : Bool := false
  held : Option (Word × Nat) := none
  reads : List HeldRead := []
  deriving DecidableEq, Repr

/-! Picture taps (13) -/

/-- Where a tapped picture stands (R328, R336): waiting for its buffer, taking bytes, the steps of the finish, the steps after a failure. -/
inductive TapPhase where
  | get | run | share | log | relPrev | relOwn | freeOwn | dropPrev | badLog
  deriving DecidableEq, Repr

/-- A tapped picture in progress, under the snapshot of its tap set (R326). `pend` are staged source bytes by picture offset, `at_` the
offset up to which they were taken, `buf` the bytes of the block row being gathered, `row` the block rows written, `first` whether
there is no history from here on, `p4` the previous picture's rows for block row `row`, `parts` the pieces of that read, `out` tap
writes not yet issued. -/
structure TapRun where
  ring : Nat
  desc : Nat
  die : Nat
  m : Nat
  sup : Bool
  ctl : Word
  geom : Word
  rowBytes : Nat
  picture : Nat
  logBase : Nat
  logCtl : Word
  phase : TapPhase := .get
  status : Nat := 0
  poolStatus : Nat := 0
  handle : Nat := 0
  base : Nat := 0
  pend : List (Nat × List Byte) := []
  at_ : Nat := 0
  buf : List Byte := []
  row : Nat := 0
  first : Bool := true
  anyFirst : Bool := false
  p4 : Option (List Byte) := none
  parts : List (Nat × Option (List Byte)) := []
  out : List Nat := []
  nextPiece : Nat := 0
  logOut : Bool := false
  changed : Bool := false
  deriving DecidableEq, Repr

/-- Running state of a tap set beside its registers: the picture in progress, the owner and the mover under which it last held a buffer. -/
structure Tap where
  run : Option TapRun := none
  owner : Nat := 0
  die : Nat := 0
  m : Nat := 0
  deriving DecidableEq, Repr

/-! Movers and rings (12) -/

/-- Snapshot of a stripe set (R308). -/
structure Stripe where
  width : Nat
  unit : Nat
  off : Nat
  ports : List Nat
  deriving DecidableEq, Repr

/-- Where the bytes of a descriptor lie on the Body Bus: a port or a stripe set, the first address, space and order. -/
structure BbMap where
  stripe : Option Stripe := none
  port : Nat := 0
  base : Nat := 0
  space : Nat := 0
  order : Nat := 0
  deriving DecidableEq, Repr

/-- Where they lie in host memory: rows of `row` bytes at `pitch`, contiguous for `row` 0 (R300, R341). -/
structure HostMap where
  base : Nat := 0
  row : Nat := 0
  pitch : Nat := 0
  deriving DecidableEq, Repr

/-- What a descriptor's transfer does. -/
inductive XferKind where
  | toBb | toHost | fillBb | fillHost
  deriving DecidableEq, Repr

/-- A block in progress (R307): offset in the transfer, first far address, length, port and Body Bus address, the ranges (offset in the
block, length) that the protection unit allows, host reads or writes still out, the bytes gathered. -/
structure Blk where
  num : Nat
  off : Nat
  len : Nat
  port : Nat := 0
  addr : Nat := 0
  parts : List (Nat × Nat)
  src : List (Nat × Nat) := []
  reads : List (Nat × Nat) := []
  writes : List (Nat × Nat × Nat) := []
  got : List (Nat × List Byte) := []
  atTile : Bool := false
  epoch : Nat := 0
  deriving DecidableEq, Repr

/-- Where a started descriptor stands. -/
inductive DPhase where
  | tapGet | slotGet | move | tapEnd | entryRead | stateRead | index | switchWait | fenceWait | done
  deriving DecidableEq, Repr

/-- First error of a descriptor: STATUS, DETAIL, INFO, FAIL_PORT (R313, R314). -/
structure DErr where
  status : Nat
  detail : Nat := 0
  info : Nat := 0
  port : Nat := 0
  deriving DecidableEq, Repr

/-- A descriptor in progress. `todo` are the parts of the transfer not yet started (offset, length), `stop` is set by an error after
which no further transfer is issued, `fin` is the status without an error. -/
structure DescRun where
  count : Nat
  words : List Word
  phase : DPhase
  kind : XferKind := .toBb
  bb : BbMap := {}
  host : HostMap := {}
  pat : Nat := 0
  todo : List (Nat × Nat) := []
  blks : List Blk := []
  nextBlk : Nat := 0
  bytes : Nat := 0
  err : Option DErr := none
  stop : Bool := false
  fin : Nat := 0
  info : Nat := 0
  handle : Nat := 0
  len : Nat := 0
  tap : Option Nat := none
  tapStatus : Option (Nat × Nat) := none
  entry : List Word := []
  aborted : Bool := false
  deriving DecidableEq, Repr

/-- Running state of a ring beside its registers (R293): the snapshot, staged descriptors, the fetch in flight, descriptors in progress,
staged completions (their words, whether they ask for a notice), unnoticed completions, EVERY and TAIL in use, the
access number at each doorbell with the tail it posted (R441); `offSeen` says that EN turned 0 while the ring was in reset, `heldCmd` is
the trigger bit of RING_CMD held until the reset ends (R67), `fetchBad` the descriptor that a failed batch read left, with its DETAIL, until
its turn comes (R296). -/
structure Ring where
  ctl : Word := 0
  desc : Nat := 0
  cpl : Nat := 0
  staged : List (Nat × List Word) := []
  fetchOut : Option Nat := none
  runs : List DescRun := []
  cplq : List (List Word × Bool) := []
  cplOut : Bool := false
  unnoticed : Nat := 0
  every : Nat := 1
  tail : Nat := 100
  stamps : List (Nat × Nat) := []
  offSeen : Bool := false
  heldCmd : Option Nat := none
  fetchBad : Option (Nat × Nat) := none
  deriving DecidableEq, Repr

/-- A mover: the ring whose descriptor started last (R291), whether the reset of R319 runs, and whether another is held until it ends
(R67). -/
structure Mover where
  last : Option Nat := none
  resetting : Bool := false
  held : Bool := false
  deriving DecidableEq, Repr

/-! Clocks (15) -/

/-- Clock state of a die beside its registers. Sources are named by monitor number: 0 XA, 1 XB, 2 PLL A, 3 PLL B, 4 Body Bus PLL, 5 PCI
Express reference clock, 6 FIO, 7 SIO. `failed` are the failed sources and `good` their consecutive passing results (R392), `fresh` the
PLLs that passed a result since they locked, `refs` the PLLs (bit 0 A, bit 1 B, bit 2 Body Bus) that refer to XB, `arb` the crystal under
arbitration (R391) and `arbMoved` whether ports left the Body Bus PLL for it, `swap` a swap or, with true, a restoration in progress
(R366, R392), `swRoot` and `swBb` whether the latest switch of
the root or of the Body Bus PLL's domains left a failed source (R386), `waitFaults` port power faults that wait for a held root (R412). -/
structure Clock where
  armed : Bool := false
  failed : Nat := 0
  good : List (Nat × Nat) := []
  fresh : Nat := 0
  refs : Nat := 0
  arb : Option Nat := none
  arbMoved : Bool := false
  swap : Option Bool := none
  calRun : Bool := false
  swRoot : Bool := false
  swBb : Bool := false
  waitFaults : List (Nat × Nat) := []
  deriving DecidableEq, Repr

/-! Port power (16) -/

/-- A magazine port beside its registers: PRES_N low, low for 100 ms, port rail below 2 V, CLEAR waiting for that (R408, R409). -/
structure MagPort where
  present : Bool := false
  debounced : Bool := false
  low : Bool := true
  clear : Bool := false
  deriving DecidableEq, Repr

/-! Start-up (17) -/

/-- A ledger record before its CRC (R436). -/
structure LedgerRec where
  kind : Nat
  step : Nat := 0
  die : Nat := 0
  method : Nat := 0
  reason : Nat := 0
  boot : Nat := 0
  time : Nat := 0
  detail : List Nat := [0, 0, 0]
  deriving DecidableEq, Repr

/-- Outcome of a step in the previous start (R425). -/
inductive StepOutcome where
  | none | primary | primaryFailed | alternate | alternateFailed | skipped
  deriving DecidableEq, Repr

/-- History of a step on a die: its outcome in the previous start, the consecutive starts in which the alternate was used. -/
structure StepHist where
  outcome : StepOutcome := .none
  altRuns : Nat := 0
  deriving DecidableEq, Repr

/-- The fen domains (R402, R418 to R428): reset asserted, the next start cold, the cause of the reset not yet recorded (reason, rail,
die), the die, step and method in which a start hangs, a failed start that waits for its reset with the die that stopped it, the BOOT
number, how many starts have begun since BS07 last read the ledger (R437), the flashes that refuse ledger writes in this start (R438), dies left
out and dies to be tried again. -/
structure Fen where
  asserted : Bool := true
  cold : Bool := true
  cause : Option (Nat × Nat × Nat) := none
  low : List (Nat × Nat) := []
  hung : Option (Nat × Nat × Nat) := none
  failed : Option (Option Nat) := none
  boot : Nat := 0
  ahead : Nat := 0
  noWrite : Nat := 0
  leftOut : List Nat := []
  readmit : List Nat := []
  deriving DecidableEq, Repr

/-- A mortar end of a die (R39, R40): its packets not yet acknowledged, the next sequence number of each stream it sends
(destination, stream), the next expected of each stream it receives (source, stream), the packets delivered ahead of non-posted
ones (R197), packets that came ahead of their turn, packets
taken into the queues of a die whose root is held, with the link they came by. -/
structure Mortar where
  unacked : List MortarPkt := []
  sent : List ((Nat × Nat) × Nat) := []
  expected : List ((Nat × Nat) × Nat) := []
  early : List ((Nat × Nat) × Nat) := []
  ahead : List (Nat × MortarPkt) := []
  queued : List (Nat × MortarPkt) := []
  deriving DecidableEq, Repr

/-- The state of the device (everything but the queue of commands and the lock bits). -/
structure Dev where
  variant : Variant := .ez8
  /-- every register of the map by location (R46 to R49); a location not listed holds its reset value -/
  regs : Store Word := []
  /-- active copies of the protection registers (R248) -/
  active : Store Word := []
  /-- second and third copies of P words where they differ from the first (R73), and of the active protection words (R248) -/
  upsets : Store (Option (Word × Word)) := []
  activeUpsets : Store (Option (Word × Word)) := []
  /-- the lead's copy of die-block and tile-block P words (R74), where it differs from the die's own word -/
  leadCopy : Store (Option Word) := []
  /-- package configuration writes in the lead's order (R32), and how many each die has applied -/
  cfgLog : List CfgWrite := []
  applied : Store Nat := []
  /-- package configuration writes held during a takeover or handoff (R36) -/
  heldCfg : List HeldCfg := []
  /-- reads of package configuration that wait for held writes of their own path (R32) -/
  heldReads : List HeldRead := []
  /-- register accesses whose die no mortar route reaches, in order of arrival (R30, R40) -/
  awaiting : List Ingress := []
  /-- outcomes of host requests that no mortar route brings to the die that asked (R30, R40) -/
  stranded : List Note := []
  lead : LeadState := {}
  /-- dies lost or left out, whose items their mirror holds (R34, R35) -/
  lost : List Nat := []
  /-- the die that holds the items whose rule names a die (R33 to R35), and the mirror of each die, none where it runs without one -/
  homes : Store Nat := []
  mirrors : Store (Option Nat) := []
  /-- high-word shadows by path and pair (R63, R64) -/
  shadows : Store (Option Word) := []
  /-- access path each register block served last (R67) -/
  lastPath : Store Nat := []
  /-- microsecond count of each die -/
  usCount : Store Nat := []
  /-- clock branches of each die that have run since its last microsecond, as PWR_GATE shows them (R395) -/
  ran : Store Nat := []
  pcie : Store Pcie := []
  /-- margined lanes by die and lane (R106) -/
  margins : Store Margin := []
  /-- configuration space DWORDs that differ from their reset value (R82, R87), by die and offset -/
  cfgSpace : Store (Option Word) := []
  ports : Store Port := []
  sems : Store Sem := []
  tcache : Store TCache := []
  /-- queues by die and number (R259) -/
  queues : Store QState := []
  /-- the event queue at its home (R232, R234) and its package event number -/
  evq : QState := {}
  evqSeq : Nat := 0
  evqIssued : Bool := false
  /-- sources pending toward the Body Bus (R221), with the port and level they were mapped to -/
  irqPend : List (IrqEntry × Nat × Nat × Nat) := []
  /-- entries whose MOD gap runs, and whether a source has arrived in it (R223) -/
  modGap : List (IrqEntry × Bool) := []
  /-- entries whose message is pending in the array, with its die and vector (R223) -/
  modPend : List (IrqEntry × Nat × Nat) := []
  pools : Store Pool := []
  mails : Store Mail := []
  taps : Store Tap := []
  rings : Store Ring := []
  movers : Store Mover := []
  clocks : Store Clock := []
  magPorts : Store MagPort := []
  mortars : Store Mortar := []
  fen : Fen := {}
  /-- step history and held step records of each die's fen (R426, R437), consecutive failed starts stopped by each die (R428) -/
  hist : Store StepHist := []
  heldRecs : Store (List LedgerRec) := []
  failedStarts : Store Nat := []
  /-- boot flashes of D0 and D1 (R429): die and address; a byte not listed is erased -/
  flash : Store Byte := []
  /-- flash window command in progress: operation and sector (R430) -/
  flashRun : Store (Option (Nat × Nat)) := []
  /-- lane equalization values in use by port, rate and lane (R434), none where the defaults of R130 apply -/
  eq : Store (List Byte) := []
  /-- SRAM banks retired on each die as a mask (R359) -/
  banks : Store Nat := []
  /-- dies in a die domain reset, whose items their mirror serves (R358) -/
  away : List Nat := []
  /-- image that a restarting controller loads, and whether it is its second try (R365, R438) -/
  mcLoad : Store (Option (Nat × Bool)) := []
  asleep : Bool := false
  /-- boundary-scan instruction of each die (R413) -/
  scanIr : Store Nat := []
  /-- monitor slots: the access number at their latest clear by MON_SRC (R447), their latency samples in the present step (R446) -/
  monFrom : Store Nat := []
  monHits : Store Nat := []
  /-- dies whose last pass made a reload, and dies that compare no more until the next COMMIT (R78) -/
  reloaded : List Nat := []
  sealStop : List Nat := []
  /-- counter that names accesses and requests, counter of the free values (log entries 9 and 4) -/
  nextId : Nat := 0
  free : Nat := 0
  out : List Out := []
  notes : List Note := []
  deriving DecidableEq, Repr

/-- Why a command stops the block. -/
inductive Fault where
  /-- The command names a die, port, window, ring or other unit that the variant lacks (R9): raised by the guard of every command.
  No such event can reach the block; safe (log entry 1). -/
  | absentUnit
  /-- The operands break the form that the command's packet, request or event has: raised by the guard of every command.
  No such event can reach the block; safe (log entry 1). -/
  | illFormed
  deriving DecidableEq, Repr

/-- Why a command has no meaning. -/
inductive Refusal where
  /-- An arm of `exec` that has no meaning yet; safe. -/
  | notModelled (mnemonic : String)
  deriving DecidableEq, Repr

/-- The state of the block: the commands that wait, first in, first out; the lock bits; everything else. -/
structure State where
  pending : List Instr
  locks : Locks
  dev : Dev
  deriving DecidableEq, Repr

/-- All locks clear (R71). -/
def Locks.clear : Locks := ⟨Vector.replicate 8 false, Vector.replicate 8 false, Vector.replicate 64 false⟩

/-- The device in reset, before its start-up: every register at its reset value, nothing held (log entries 3, 6, 7). -/
def Dev.initial (v : Variant) : Dev := { variant := v }

/-- The machine right after reset: PKG_RESET_N still asserted, no command waiting (R418). See log entry 1. -/
def State.reset : State := ⟨[], Locks.clear, Dev.initial .ez8⟩

end Sys2Proof.Machine
end

