-- ==== Sys2Proof/Machine/Ops.lean ====
section
/-!
DEFINITION. The named operations over the state: registers and their fields, dies and homes, queues, events, outputs.
-/

namespace Sys2Proof.Machine

/-! Dies, tiles, homes -/

/-- Dies present. -/
def Dev.n (d : Dev) : Nat := d.variant.dies

/-- The dies present, in ascending order. -/
def Dev.dies (d : Dev) : List Nat := List.range d.n

/-- Is the die in service: present and neither lost nor left out? -/
def Dev.inService (d : Dev) (x : Nat) : Bool := x < d.n && !d.lost.contains x

/-- Mirror of a home (R33): the home XOR 1. -/
def mirrorOf (h : Nat) : Nat := if h % 2 = 0 then h + 1 else h - 1

/-- Die at the far end of a mortar link (R37). -/
def linkPeer (v : Variant) (x k : Nat) : Option Nat :=
  match v, k with
  | .ez2, 0 => some (x ^^^ 1)
  | .ez2, 1 => some (x ^^^ 1)
  | .ez4, 0 => some (x ^^^ 1)
  | .ez4, 1 => some (x ^^^ 2)
  | .ez4, 2 => some (x ^^^ 3)
  | .ez8, 0 => some ((x + 1) % 8)
  | .ez8, 1 => some ((x + 7) % 8)
  | .ez8, 2 => some ((x + 4) % 8)
  | .ez8, 3 => some ((x + 4) % 8)
  | _, _ => none

/-- The mirror that a die keeps (R33 to R35): the die XOR 1 until the lead names another; none where no die in service is one hop away. -/
def Dev.mirror (d : Dev) (x : Nat) : Option Nat := d.mirrors.get (some (mirrorOf x)) ⟨x, 0, 0⟩

/-- The die that holds the items whose rule names die `h`: `h` itself until it is lost or left out (R33 to R35). -/
def Dev.holder (d : Dev) (h : Nat) : Nat := d.homes.get h ⟨h, 0, 0⟩

/-- The home of an item whose rule names die `h`: its holder, or the holder's mirror while the holder is in a die domain reset (R358). -/
def Dev.home (d : Dev) (h : Nat) : Nat :=
  let x := d.holder h
  if d.inService x && !d.away.contains x then x else (d.mirror x).getD x

/-- The mirror that the lead names for a die whose mirror is not in service (R34, R35): the lowest-numbered die in service that is one
mortar hop away. -/
def Dev.newMirror (d : Dev) (x : Nat) : Option Nat :=
  d.dies.find? fun y => y != x && d.inService y && [0, 1, 2, 3].any fun k => linkPeer d.variant x k == some y

/-- The lead names the mirrors anew: a die in service whose mirror is gone takes another. See log entry 48. -/
def Dev.nameMirrors (d : Dev) : Dev :=
  (d.dies.filter fun x => d.inService x && !(d.mirror x).any d.inService).foldl (fun d x =>
    { d with mirrors := d.mirrors.set (some (mirrorOf x)) ⟨x, 0, 0⟩ (d.newMirror x) }) d

/-- The items of a die pass to another. -/
def Dev.passItems (d : Dev) (x y : Nat) : Dev :=
  (d.dies.filter fun h => d.holder h == x).foldl (fun d h => { d with homes := d.homes.set h ⟨h, 0, 0⟩ y }) d

/-- The home of item `x` of semaphores, pools and window states (R33, R162). -/
def Dev.homeOf (d : Dev) (x : Nat) : Nat := d.home (x % d.n)

/-- The die of a global port (R9). -/
def dieOf (port : Nat) : Nat := port / 8

/-- The die on which a command of software enters the package (R62). -/
def srcDie (s : Src) : Nat := if s.path < 8 then s.path else if s.path < 16 then s.path - 8 else dieOf s.port

/-! Registers -/

/-- The word of a register as the store holds it. -/
def Dev.raw (d : Dev) (l : Loc) : Word := d.regs.get l.resetWord l.key

/-- Bitwise majority of three copies (R73). -/
def majority (a b c : Word) : Word := (a &&& b) ||| (a &&& c) ||| (b &&& c)

/-- The value of a register as hardware uses it: on EZ2 and EZ4 the vote of the three copies of its P words (R73). -/
def Dev.at (d : Dev) (l : Loc) : Word :=
  let w := d.raw l
  match d.upsets.get none l.key with
  | none => w
  | some (b, c) => (w &&& ~~~ l.reg.pMask) ||| (majority w b c &&& l.reg.pMask)

/-- A register of the map: `u` is the die, the global tile or the replica that keeps it, `i` its index. -/
def Dev.reg (d : Dev) (r : RegId) (u : Nat := 0) (i : Nat := 0) : Word := d.at ⟨r, u, i⟩

/-- The word of a register put in place; a write sets all three copies (R73). -/
def Dev.put (d : Dev) (l : Loc) (w : Word) : Dev :=
  { d with regs := d.regs.set l.resetWord l.key w, upsets := d.upsets.set none l.key none }

/-- A register set by number of its keeper and index. -/
def Dev.setReg (d : Dev) (r : RegId) (u i : Nat) (w : Word) : Dev := d.put ⟨r, u, i⟩ w

/-- A field as a number. -/
def Dev.fld (d : Dev) (f : Fld) (u : Nat := 0) (i : Nat := 0) : Nat := bitsOf (d.reg f.reg u i) f.hi f.lo

/-- A one-bit field. -/
def Dev.flag (d : Dev) (f : Fld) (u : Nat := 0) (i : Nat := 0) : Bool := d.fld f u i != 0

/-- A field set; the rest of its register stays. -/
def Dev.setFld (d : Dev) (f : Fld) (u i v : Nat) : Dev :=
  d.setReg f.reg u i (putBits (d.reg f.reg u i) f.hi f.lo v)

/-- A saturating counter field raised by one. -/
def Dev.bump (d : Dev) (f : Fld) (u : Nat := 0) (i : Nat := 0) : Dev :=
  d.setFld f u i (satInc (d.fld f u i) (2 ^ (f.hi + 1 - f.lo) - 1))

/-- A saturating counter field raised by `k`. -/
def Dev.bumpBy (d : Dev) (f : Fld) (u i k : Nat) : Dev :=
  d.setFld f u i (min (d.fld f u i + k) (2 ^ (f.hi + 1 - f.lo) - 1))

/-- A 64-bit value in a pair of registers (R14). -/
def Dev.pair (d : Dev) (lo hi : RegId) (u i : Nat) : Nat := (d.reg lo u i).toNat + 2 ^ 32 * (d.reg hi u i).toNat

/-- A pair of registers set. -/
def Dev.setPair (d : Dev) (lo hi : RegId) (u i v : Nat) : Dev :=
  (d.setReg lo u i (BitVec.ofNat 32 v)).setReg hi u i (BitVec.ofNat 32 (v / 2 ^ 32))

/-! Parts of the state by number -/

def Dev.port (d : Dev) (p : Nat) : Port := d.ports.get {} ⟨p, 0, 0⟩
def Dev.setPort (d : Dev) (p : Nat) (x : Port) : Dev := { d with ports := d.ports.set {} ⟨p, 0, 0⟩ x }
def Dev.modPort (d : Dev) (p : Nat) (f : Port → Port) : Dev := d.setPort p (f (d.port p))
def Dev.modLink (d : Dev) (p : Nat) (f : Link → Link) : Dev := d.modPort p fun x => { x with link := f x.link }
def Dev.px (d : Dev) (x : Nat) : Pcie := d.pcie.get {} ⟨x, 0, 0⟩
def Dev.modPx (d : Dev) (x : Nat) (f : Pcie → Pcie) : Dev := { d with pcie := d.pcie.set {} ⟨x, 0, 0⟩ (f (d.px x)) }
def Dev.sem (d : Dev) (s : Nat) : Sem := d.sems.get {} ⟨s, 0, 0⟩
def Dev.modSem (d : Dev) (s : Nat) (f : Sem → Sem) : Dev := { d with sems := d.sems.set {} ⟨s, 0, 0⟩ (f (d.sem s)) }
def Dev.tc (d : Dev) (x : Nat) : TCache := d.tcache.get {} ⟨x, 0, 0⟩
def Dev.modTc (d : Dev) (x : Nat) (f : TCache → TCache) : Dev := { d with tcache := d.tcache.set {} ⟨x, 0, 0⟩ (f (d.tc x)) }
def Dev.us (d : Dev) (x : Nat) : Nat := d.usCount.get 0 ⟨x, 0, 0⟩

/-- Numbers of the ports that hold state, in ascending order. -/
def Dev.livePorts (d : Dev) : List Nat := d.ports.map fun e => e.1.a

/-- An output appended. See log entry 9. -/
def Dev.emit (d : Dev) (o : Out) : Dev := { d with out := d.out ++ [o] }

/-- A notice for a later stage of the same step. See log entry 9. -/
def Dev.note (d : Dev) (n : Note) : Dev := { d with notes := d.notes ++ [n] }

/-- A fresh number for an access or a request. See log entry 9. -/
def Dev.fresh (d : Dev) : Nat × Dev := (d.nextId, { d with nextId := d.nextId + 1 })

/-- A free value (log entry 4). -/
def Dev.draw (d : Dev) : Nat × Dev := ((Config.freeValue d.free).toNat, { d with free := d.free + 1 })

/-! Queues (10) -/

/-- One row of the directory of R259. -/
structure QRow where
  itemMax : Nat
  stages : Nat
  capacity : Nat
  drop : Bool
  flushable : Bool
  tail : Nat
  deriving DecidableEq, Repr

/-- The queue directory (R259). -/
def queueRow (q : Nat) : QRow :=
  if q < 8 then ⟨16, 32, 4096, false, false, 0⟩
  else if q < 16 then ⟨16, 32, 1024, false, false, 0⟩
  else if q < 32 then ⟨16, 8, 1024, false, false, 0⟩
  else if q < 48 then ⟨8, 4, 512, false, false, 0⟩
  else if q < 60 then ⟨80, 0, 8192, false, false, 0⟩
  else if q = 60 then ⟨8, 0, 4096, true, true, 1000⟩
  else if q = 61 then ⟨8, 0, 8192, true, true, 1000⟩
  else if q = 62 then ⟨4, 0, 1024, false, false, 0⟩
  else ⟨4, 0, 4096, true, true, 100⟩

def Dev.queue (d : Dev) (x q : Nat) : QState := d.queues.get {} ⟨x, q, 0⟩
def Dev.modQueue (d : Dev) (x q : Nat) (f : QState → QState) : Dev :=
  { d with queues := d.queues.set {} ⟨x, q, 0⟩ (f (d.queue x q)) }

/-- Words that items take. -/
def itemWords (l : List (List Word)) : Nat := (l.map List.length).foldl (· + ·) 0

/-- Words in a queue's ring, those of a partial item included. -/
def QState.words (s : QState) : Nat := itemWords s.items + s.part.length

/-- Words of the ring that are not free: words held and those that the producer of a partial item has credits for (R257). -/
def QState.used (s : QState) : Nat := s.words + (if s.skip then 0 else s.todo.length)

/-- Credits that the producers hold (R257): one for each free word, and those a fault has added (R264). -/
def QState.credits (cap : Nat) (s : QState) : Nat := cap - s.used + s.extra

/-- A pointer of a ring moved on over `n` words, both copies alike (R255). -/
def ptrAdd (cap n : Nat) (p : Nat × Nat) : Nat × Nat := ((p.1 + n) % cap, (p.2 + n) % cap)

/-- A whole item put in, counted in PUSHED (R262). -/
def QState.push (cap : Nat) (s : QState) (w : List Word) : QState :=
  { s with items := s.items ++ [w], pushed := (s.pushed + 1) % 65536, wr := ptrAdd cap w.length s.wr }

/-- The head item gone, its last word taken (R260). -/
def QState.shift (cap : Nat) (s : QState) (it : List Word) (r : List (List Word)) : QState :=
  { s with items := r, cursor := 0, popped := (s.popped + 1) % 65536, noticed := false, rd := ptrAdd cap it.length s.rd }

/-- Items that wait for credits go in as room returns, in order (R258). -/
def QState.letIn (cap : Nat) : Nat → QState → QState
  | 0, s => s
  | k + 1, s =>
    match s.held with
    | [] => s
    | w :: r => if s.used + w.length ≤ cap then QState.letIn cap k (QState.push cap { s with held := r } w) else s

/-- An item for which its producer has taken credits is written: into the ring, or, where it has no room for it, over the end of the ring, and
its words are dropped with the credits taken for them (R264; DESIGN CHOICE, log entry 52). -/
def QState.write (cap : Nat) (s : QState) (w : List Word) : QState :=
  if s.used + w.length ≤ cap then s.push cap w else { s with spilt := s.spilt + 1, extra := s.extra - w.length }

/-- An item offered under WAIT: written when its producer has the credits and nothing waits, held by its producer otherwise (R257, R258). -/
def QState.offer (cap : Nat) (s : QState) (w : List Word) : QState :=
  if s.held.isEmpty && decide (w.length ≤ s.credits cap) then s.write cap w else { s with held := s.held ++ [w] }

/-- One word taken by the read port (R260): the idle item where no whole item is held (R261). -/
def QState.readWord (cap : Nat) (s : QState) : Word × QState :=
  match s.items with
  | [] => (0, s)
  | it :: r =>
    let w := it.getD s.cursor 0
    if s.cursor + 1 < it.length then (w, { s with cursor := s.cursor + 1, noticed := false })
    else (w, (s.shift cap it r).letIn cap s.held.length)

/-- The head item taken by a hardware consumer (R260). -/
def QState.pop (cap : Nat) (s : QState) : Option (List Word) × QState :=
  match s.items with
  | [] => (none, s)
  | it :: r => (some it, (s.shift cap it r).letIn cap s.held.length)

/-- A queue without its items: the producer of a partial item writes its further words into nothing (R266). -/
def QState.emptied (s : QState) : QState :=
  { s with items := [], part := [], skip := s.skip || !s.part.isEmpty, cursor := 0, noticed := false, chain := [] }

/-- Whole and partial items held, which a flush or reset discards. -/
def QState.count (s : QState) : Nat := s.items.length + (if s.part.isEmpty then 0 else 1)

/-- A flush (R266): every item goes, POPPED takes PUSHED, producers that wait push their items after it (R267). -/
def QState.flush (cap : Nat) (s : QState) : QState :=
  let s' := { s.emptied with popped := s.pushed, rd := s.wr }
  s'.letIn cap s'.held.length

/-- The reset after a pointer mismatch (R268): as a flush, with both counters and both copies of the pointers at 0 and every credit issued
anew. -/
def QState.mismatch (cap : Nat) (s : QState) : QState :=
  let s' := { s.emptied with pushed := 0, popped := 0, wr := (0, 0), rd := (0, 0), extra := 0 }
  s'.letIn cap s'.held.length

/-- An item of a tile's command chain, whose words the spec leaves to the engine but for a TYPE other than 0 (R253). See log entry 13. -/
def chainItem (id : Nat) : List Word :=
  (List.range ((Config.chainWords id).toNat + 1)).map fun k =>
    let w := Config.chainWord id k
    if k = 0 then putBits w 31 28 (bitsOf w 31 28 % 15 + 1) else w

/-! Events (R232, R233) -/

/-- Classes of R233. -/
def evNmi := 0x01
def evAccErr := 0x02
def evPx := 0x03
def evBbLink := 0x04
def evBbTxn := 0x05
def evWin := 0x06
def evMire := 0x07
def evPfd := 0x08
def evSem := 0x09
def evErr := 0x0A
def evProt := 0x0B
def evQueue := 0x0C
def evPool := 0x0D
def evRing := 0x0E
def evTap := 0x0F
def evBond := 0x10
def evClock := 0x11
def evPower := 0x12
def evVote := 0x13
def evMortar := 0x14
def evLead := 0x15
def evBoot := 0x16
def evMon := 0x17

/-- The four words of an event entry, SEQ still 0 (R232). See log entry 30. -/
def eventWords (cls die bit off source time : Nat) : List Word :=
  [BitVec.ofNat 32 (0x20000000 + cls * 2 ^ 22 + die * 2 ^ 19), BitVec.ofNat 32 (bit * 2 ^ 27 + off),
   BitVec.ofNat 32 (source * 65536), BitVec.ofNat 32 time]

/-- An event raised on a die enters its forwarding queue, queue 62 (R232, R259). See log entry 30. -/
def Dev.raise (d : Dev) (x cls : Nat) (l : Loc) (bit source : Nat) : Dev :=
  d.modQueue x 62 fun s => s.offer 1024 (eventWords cls x bit l.offset source (d.us x))

/-- An item has overflowed a queue (R264): counted, its event raised. -/
def Dev.queueOver (d : Dev) (x q : Nat) : Dev :=
  (d.bump DIE_Q_STAT.OVERFLOW x q).raise x evQueue ⟨.DIE_Q_STAT, x, q⟩ DIE_Q_STAT.OVERFLOW.lo q

/-- The same for a queue that stands for a list of an engine: the credits taken for the item's words go (log entry 52). -/
def Dev.engineOver (d : Dev) (x q words : Nat) : Dev :=
  (d.modQueue x q fun s => { s with extra := s.extra - words }).queueOver x q

/-- An event status bit set by hardware; a bit that turns from 0 to 1 raises an event of its class. See log entry 30. -/
def Dev.status (d : Dev) (f : Fld) (u i cls x source : Nat) : Dev :=
  if d.flag f u i then d else (d.setFld f u i 1).raise x cls ⟨f.reg, u, i⟩ f.lo source

/-- A bit of PX_EVENT set (03). See log entry 30. -/
def Dev.pxEvent (d : Dev) (f : Fld) (x : Nat) : Dev := d.status f x 0 evPx x x

/-- A bit of BB_LINK_EVENT set (04). -/
def Dev.linkEvent (d : Dev) (f : Fld) (p : Nat) : Dev := d.status f p 0 evBbLink (dieOf p) p

/-- A bit of BB_TXN_EVENT set (05). -/
def Dev.txnEvent (d : Dev) (f : Fld) (p : Nat) : Dev := d.status f p 0 evBbTxn (dieOf p) p

/-- A bit of WIN_O_STAT or WIN_I_STAT set at the window's home (06); `f` is named by its outbound register. -/
def Dev.winEvent (d : Dev) (f : Fld) (inb : Bool) (w : Nat) : Dev :=
  let r := if inb then RegId.WIN_I_STAT else RegId.WIN_O_STAT
  d.status ⟨r, f.hi, f.lo⟩ 0 w evWin (d.homeOf w) w

/-! Error records (R231) -/

/-- What an error record of R231 says. -/
structure ErrRec where
  kind : Nat
  inb : Bool
  port : Nat := 0
  win : Nat := 0
  near : Nat := 0
  far : Nat := 0
  code : Nat := 0
  cpl : Nat := 0
  poison : Bool := false
  len : Nat := 0
  rid : Nat := 0
  tag : Nat := 0
  deriving DecidableEq, Repr

/-- The eight words of an error record. -/
def ErrRec.words (e : ErrRec) (die time : Nat) : List Word :=
  [BitVec.ofNat 32 (0x30000000 + e.kind * 2 ^ 24 + (if e.inb then 2 ^ 23 else 0) + die * 2 ^ 20 + e.port * 2 ^ 14 + e.win),
   BitVec.ofNat 32 e.near, BitVec.ofNat 32 (e.near / 2 ^ 32), BitVec.ofNat 32 e.far, BitVec.ofNat 32 (e.far / 2 ^ 32),
   BitVec.ofNat 32 (e.code * 2 ^ 24 + e.cpl * 2 ^ 21 + (if e.poison then 2 ^ 20 else 0) + e.len),
   BitVec.ofNat 32 (e.rid * 65536 + e.tag), BitVec.ofNat 32 time]

/-- An item offered to a queue whose policy is DROP (R258): written, or counted in the LOST field its chapter names. Is it in the queue? -/
def Dev.pushDrop (d : Dev) (x q : Nat) (lost : Fld) (u i : Nat) (w : List Word) : Bool × Dev :=
  let s := d.queue x q
  let cap := (queueRow q).capacity
  if w.length ≤ s.credits cap then (decide (s.used + w.length ≤ cap), d.modQueue x q fun s => s.write cap w)
  else (false, d.bump lost u i)

/-- An error record written by a die; a record that is kept raises an event of class 0x0A (R231). -/
def Dev.errRec (d : Dev) (x : Nat) (e : ErrRec) : Dev :=
  let r := d.pushDrop x 60 ERR_STAT.LOST 0 x (e.words x (d.us x))
  if r.1 then r.2.raise x evErr ⟨.ERR_STAT, 0, x⟩ 16 e.port else r.2

/-! Dealing with lists of dies and ports -/

/-- A function of a die done for each die of a list in order. -/
def Dev.eachOf (d : Dev) (xs : List Nat) (f : Dev → Nat → Dev) : Dev := xs.foldl f d

/-- Is a bit of a mask of dies set? -/
def maskHas (m x : Nat) : Bool := m.testBit x

/-- Two events an access path's home tells apart: the die of a path (R62). -/
def pathDie (path port : Nat) : Nat := if path < 8 then path else if path < 16 then path - 8 else dieOf port

end Sys2Proof.Machine
end

