-- ==== Sys2Proof/Machine/Link.lean ====
section
/-!
DEFINITION. The Body Bus link (spec/04): sending and sequencing, repeat runs, training, retrain, health, loop timing.
-/

namespace Sys2Proof.Machine

/-! States of BB_LINK_STAT.STATE -/
def lsDisabled := 0
def lsDetect := 1
def lsTrain := 2
def lsActive := 3
def lsRetrain := 4
def lsFailed := 5

def Dev.lstate (d : Dev) (p : Nat) : Nat := d.fld BB_LINK_STAT.STATE p
def Dev.active? (d : Dev) (p : Nat) : Bool := d.lstate p == lsActive

/-! Sending (R115, R148) -/

/-- Rank of a packet at a packet boundary (R148). -/
def Pkt.rank : Pkt → Nat
  | .irq .. => 1
  | .iak .. => 1
  | .ack .. => 2
  | .berr .. => 2
  | .rty .. => 2
  | .adr .. => 3
  | .lck .. => 3
  | .ulk .. => 3
  | .dat .. => 4

/-- TAG of a packet with ROLE 0 (R133). -/
def Pkt.ownTag : Pkt → Option Nat
  | .adr b => some b.tag
  | .lck b => some b.tag
  | .ulk t => some t
  | .dat b => if b.role = 0 then some b.tag else none
  | _ => none

/-- ROLE of a DAT. -/
def Pkt.datRole : Pkt → Option Nat
  | .dat b => some b.role
  | _ => none

/-- Does a waiting packet hold back one that came after it: of the same rank (but DAT of the other role), a DAT before the final response
of its transaction (R142), a DAT of the open write before the next address (R145)? -/
def Pkt.holdsBack (q p : Pkt) : Bool :=
  (q.rank == p.rank && q.datRole == p.datRole) || (q.datRole == some 1 && p.rank == 2) || (q.datRole == some 0 && p.rank == 3)

/-- The waiting packet that goes next (R148): of highest rank, DAT of the two roles in turn; `last` is the role of the last DAT. -/
def nextTx (last : Nat) (w : List Pkt) : Option (Nat × Pkt) :=
  let ready := (indexed w).filter fun e => !((w.take e.1).any fun q => q.holdsBack e.2)
  ready.foldl (fun best e =>
    match best with
    | none => some e
    | some b =>
      if e.2.rank < b.2.rank || (e.2.rank == 4 && b.2.rank == 4 && b.2.datRole == some last && e.2.datRole != some last) then some e else best) none

/-- Waiting packets sent while the port is ACTIVE and fewer than 64 packets are unacknowledged (R115). -/
def Dev.flushTx : Nat → Dev → Nat → Dev
  | 0, d, _ => d
  | k + 1, d, p =>
    let l := (d.port p).link
    match nextTx l.lastDat l.waiting with
    | none => d
    | some (i, x) =>
      if d.active? p && decide (l.replay.length < 64) then
        let d := d.modLink p fun l =>
          { l with waiting := l.waiting.eraseIdx i, replay := l.replay ++ [(l.txSeq, x)], txSeq := (l.txSeq + 1) % 128,
                   lastDat := x.datRole.getD l.lastDat, idlSent := none }
        Dev.flushTx k (d.emit (.pkt p l.txSeq x)) p
      else d

/-- A transaction packet handed to the link. -/
def Dev.send (d : Dev) (p : Nat) (x : Pkt) : Dev :=
  let d := d.modLink p fun l => { l with waiting := l.waiting ++ [x] }
  d.flushTx (d.port p).link.waiting.length p

/-- The packets of a transaction that wait for their turn are not sent any more (R142, R145). -/
def Dev.unsend (d : Dev) (p tag : Nat) : Dev :=
  d.modLink p fun l => { l with waiting := l.waiting.filter fun x => x.ownTag != some tag }

/-- Has every packet with a tag in which the bridge is initiator been sent (R145)? -/
def Dev.allSent (d : Dev) (p tag : Nat) : Bool := !(d.port p).link.waiting.any fun x => x.ownTag == some tag

/-! Receiving (R116 to R118) -/

/-- An IDL with the link's acknowledgement (R114). -/
def Dev.sendIdl (d : Dev) (p : Nat) (rep : Bool) : Dev :=
  (d.emit (.idl p rep (d.port p).link.rxNext)).modLink p fun l => { l with ackDue := false, idlSent := some l.rxNext }

/-- A repeat run opened by a discard of the first three kinds of R116. -/
def Dev.openRepeat (d : Dev) (p : Nat) : Dev :=
  if (d.port p).link.repeatRun then d
  else (d.modLink p fun l => { l with repeatRun := true, repeats := 1 }).sendIdl p true

/-- The fate of a good transaction packet by its LSEQ (R116, R117): delivered or not. -/
def Dev.linkAccept (d : Dev) (p lseq : Nat) : Bool × Dev :=
  let l := (d.port p).link
  if !d.active? p then (false, d)
  else if lseq % 128 = l.rxNext then
    (true, d.modLink p fun l => { l with rxNext := (l.rxNext + 1) % 128, repeatRun := false, repeats := 0, ackDue := true })
  else if l.repeatRun then (false, d)
  else if (l.rxNext + 128 - lseq % 128) % 128 ≤ 64 then (false, d)
  else (false, d.openRepeat p)

/-! Going down and retraining (R123, R127, R160) -/

/-- Mask of the lanes of a group. -/
def groupMask (w g : Nat) : Nat := (2 ^ w - 1) * 2 ^ g

/-- A state written to BB_LINK_STAT; UP follows ACTIVE, WIDTH reads 0 while the port is not ACTIVE. -/
def Dev.setLstate (d : Dev) (p st : Nat) : Dev :=
  let d := (d.setFld BB_LINK_STAT.STATE p 0 st).setFld BB_LINK_STAT.UP p 0 (if st = lsActive then 1 else 0)
  if st = lsActive then d
  else d.setFld BB_LINK_STAT.WIDTH p 0 0

/-- Lanes that count while a recalibration narrows the port or works on its other half (R367). -/
def recalHalf : RecalPhase → Nat
  | .narrowHigh => 0xF0
  | .doHigh => 0xF0
  | .narrowLow => 0x0F
  | .doLow => 0x0F
  | _ => 0xFF

/-- The SYN of a step on a lane (R119); RX_GOOD leaves out the lanes marked bad (R125). -/
def Dev.synOf (d : Dev) (p step k : Nat) : Syn :=
  let l := (d.port p).link
  let c := l.chosen.getD (0, 0)
  let mw := let m := d.fld BB_LINK_CTRL.MAX_WIDTH p; if m = 1 || m = 2 || m = 4 then m else 8
  { lane := k, step := step, rxGood := l.goodRx &&& recalHalf l.recal &&& (255 - d.fld BB_LANE_STAT.BAD p), maxWidth := mw,
    maxRate := min (d.fld BB_LINK_CTRL.MAX_RATE p) 2, ltReq := false, ltCap := d.fld BB_LINK_CTRL.LOOP_MODE p != 0,
    width := if step = 2 then c.1 else 0, group := if step = 2 then c.2 else 0, rxNext := if step = 2 then l.rxNext else 0,
    preset := if step = 1 then
        (match d.eq.get [] ⟨p, l.rate, k⟩ with | b :: _ => b.toNat % 16 | [] => Config.defaultPreset.toNat) else 0 }

/-- SYN of a step sent on all eight lanes (R119). -/
def Dev.sendSyns (d : Dev) (p step : Nat) : Dev :=
  ((List.range 8).foldl (fun d k => d.emit (.syn p k (d.synOf p step k))) d).modLink p fun l => { l with synSent := some (d.synOf p step 0) }

/-- STEP of the SYN that a training step sends. -/
def TrainStep.syn : TrainStep → Option Nat
  | .cap => some 0
  | .eq => some 1
  | .confirm => some 2
  | .retrain => some 3
  | .idle | .rateIdle => none

/-- What a transmit side without a packet to send repeats: IDL on a port that is ACTIVE or ends its training (R114), SYN on one that trains
(R119). An unchanged IDL or SYN shows once. See log entry 22. -/
def Dev.linkIdle (d : Dev) (p : Nat) : Dev :=
  let l := (d.port p).link
  if d.active? p && (l.waiting.isEmpty || decide (64 ≤ l.replay.length)) || l.waitIdl then
    if l.idlSent = some l.rxNext then d else d.sendIdl p false
  else
    match l.step.syn with
    | some st => if l.synSent.isNone || l.synSent = some (d.synOf p st 0) then d else d.sendSyns p st
    | none => d

/-- A lane recalibration ends (R368). -/
def Dev.recalStop (d : Dev) (p : Nat) : Dev :=
  if (d.port p).link.recal = .none then d
  else (d.modLink p fun l => { l with recal := .none }).setFld TIL_SVC_STAT.RECAL_BUSY p 0 0

/-- The port leaves ACTIVE or RETRAIN for DETECT, DISABLED or FAILED, or moves among those (R160): held packets go. See log entry 23. -/
def Dev.linkDown (d : Dev) (p st : Nat) : Dev :=
  let was := d.lstate p
  let d := (d.recalStop p).setLstate p st
  let d := (d.setFld BB_LINK_STAT.LOOP p 0 0).setFld BB_LANE_STAT.ACTIVE p 0 0
  let d := d.modLink p fun l => { l with replay := [], waiting := [], repeatRun := false, repeats := 0, ackDue := false,
                                         step := .idle, chosen := none, waitIdl := false, struck := none, txSeq := 0, rxNext := 0,
                                         idlSent := none, synSent := none, badCap := 0 }
  if was = lsActive || was = lsRetrain then (d.linkEvent BB_LINK_EVENT.LINK_DOWN p).note (.portDown p) else d

/-- Initial training starts at step 1 of R122: every lane is judged anew. See log entry 22. -/
def Dev.trainStart (d : Dev) (p st : Nat) : Dev :=
  let d := (d.setLstate p st).setFld BB_LANE_STAT.BAD p 0 0
  let d := (d.setFld BB_LANE_STAT.LOCK p 0 0).setFld BB_LINK_STAT.FALLBACK p 0 0
  let d := d.modLink p fun l => { l with step := .cap, goodRx := 0, partnerGood := 0, seen := false, partner := none, rate := 0,
                                         chosen := none, waitIdl := false, capWidth := 8, replay := [], waiting := [], txSeq := 0, rxNext := 0, repeatRun := false,
                                         idlSent := none, badCap := 0 }
  d.sendSyns p 0

/-- FAILED entered (R122, R125). See log entry 23. -/
def Dev.linkFail (d : Dev) (p : Nat) : Dev := (d.linkDown p lsFailed).linkEvent BB_LINK_EVENT.FAILED p

/-- Loop timing falls back to the Body Bus PLL: 16 SKP sets go before the next packet (R129). -/
def Dev.fallBack (d : Dev) (p : Nat) : Dev :=
  if d.flag BB_LINK_STAT.LOOP p then
    let d := (d.setFld BB_LINK_STAT.LOOP p 0 0).setFld BB_LINK_STAT.FALLBACK p 0 1
    (d.linkEvent BB_LINK_EVENT.FALLBACK p).emit (.skp p 16)
  else d

/-! Width (R121, R125) -/

/-- The groups of a width, the one holding lane 0 first, whose lanes all count. -/
def firstGroup (counts w : Nat) : Option (Nat × Nat) :=
  ((List.range (8 / w)).find? fun k => (counts / 2 ^ (k * w)) % 2 ^ w == 2 ^ w - 1).map fun k => (w, k * w)

/-- Width and group by the rule of R121. -/
def pickWidth (counts maxW : Nat) : Option (Nat × Nat) :=
  [8, 4, 2, 1].findSome? fun w => if w ≤ maxW then firstGroup counts w else none

/-- MAX_WIDTH of a code: other values act as 8. -/
def widthOf (m : Nat) : Nat := if m = 1 || m = 2 || m = 4 then m else 8

/-- Width bound of the retrain that WIDEN starts (R127): above every width, so that R121 alone chooses whatever AUTO_NARROW holds. -/
def widenCap := 16

/-- Width and group for the lanes that count (R121, R125): under AUTO_NARROW = 0 a retrain forms its former width or nothing. Where MAX_WIDTH
was written below that width, R125 and R127 differ: the former width is kept (DESIGN CHOICE, log entry 22). -/
def Dev.chooseWidth (d : Dev) (p counts : Nat) : Option (Nat × Nat) :=
  let l := (d.port p).link
  let maxW := min (min (widthOf (d.fld BB_LINK_CTRL.MAX_WIDTH p)) (match l.partner with | some s => widthOf s.maxWidth | none => 8)) l.capWidth
  if d.lstate p == lsRetrain && !d.flag BB_LINK_CTRL.AUTO_NARROW p && l.capWidth == l.prevWidth && l.recal == .none then
    if l.prevWidth = 0 then none else firstGroup counts l.prevWidth
  else pickWidth counts maxW

/-- Loop timing ends at step 2 of a retrain whose lanes still to count put lane 0 out of the group (R126, R129, R368). -/
def Dev.lane0Leaves (d : Dev) (p : Nat) : Dev :=
  match d.chooseWidth p ((255 - d.fld BB_LANE_STAT.BAD p) &&& recalHalf (d.port p).link.recal) with
  | none => d
  | some (_, 0) => d
  | some _ => d.fallBack p

/-- RETRAIN entered at step 2 of R126, or restarted there by a further lane fault; `cap` bounds the width, `drop` lowers the rate.
See log entry 22. -/
def Dev.retrainEnter (d : Dev) (p cap : Nat) (drop : Bool) : Dev :=
  let was := d.lstate p
  if was = lsActive || was = lsRetrain then
    let w := d.fld BB_LINK_STAT.WIDTH p
    let g := d.fld BB_LINK_STAT.GROUP p
    let d := if was = lsActive then
        let d := (d.bump BB_LINK_ERR.RETRAINS p).linkEvent BB_LINK_EVENT.RETRAINED p
        (d.modLink p fun l => { l with prevWidth := w, prevGroup := g }).note (.portLeft p)
      else d
    let rate := min (d.port p).link.rate (min (d.fld BB_LINK_CTRL.MAX_RATE p) 2)
    let d := d.modLink p fun l => { l with step := .retrain, goodRx := 0, seen := false, chosen := none, waitIdl := false,
                                           rate := if drop then rate - 1 else rate,
                                           capWidth := if cap = 0 then l.prevWidth else cap, repeatRun := false, repeats := 0 }
    let d := if drop then d.linkEvent BB_LINK_EVENT.RATE_DROP p else d
    (((d.setLstate p lsRetrain).setFld BB_LANE_STAT.ACTIVE p 0 0).lane0Leaves p).sendSyns p 3
  else d

/-- A retrain at the current width and rate, unless one runs (R127). -/
def Dev.retrain (d : Dev) (p : Nat) : Dev := if d.active? p then d.retrainEnter p 0 false else d

/-- BB_LINK_CTRL.RETRAIN written: without effect while a lane recalibration runs (R127, R368). -/
def Dev.retrainCmd (d : Dev) (p : Nat) : Dev := if (d.port p).link.recal == .none then d.retrain p else d

/-- Width and group at the confirmation step (R121): lanes good in both directions and not marked bad. -/
def Dev.confirmWidth (d : Dev) (p : Nat) : Option (Nat × Nat) :=
  let l := (d.port p).link
  let ok := l.goodRx &&& l.partnerGood &&& (255 - d.fld BB_LANE_STAT.BAD p)
  d.chooseWidth p (if d.lstate p == lsRetrain then ok &&& recalHalf l.recal else ok)

/-- ACTIVE reached (R122 step 8, R126 step 7): width, group, loop timing, then held packets from the partner's RX_NEXT (R123). -/
def Dev.linkActive (d : Dev) (p : Nat) : Dev :=
  let l := (d.port p).link
  match l.chosen with
  | none => d
  | some (w, g) =>
    let re := d.lstate p == lsRetrain
    let d := (d.setFld BB_LINK_STAT.WIDTH p 0 w).setFld BB_LINK_STAT.GROUP p 0 g
    let d := (d.setFld BB_LINK_STAT.RATE p 0 l.rate).setFld BB_LANE_STAT.ACTIVE p 0 (groupMask w g)
    let lt := match l.partner with | some s => s.ltReq | none => false
    let mode := d.fld BB_LINK_CTRL.LOOP_MODE p
    let d := if lt && mode == 0 then d.linkEvent BB_LINK_EVENT.LOOP_REFUSED p else d
    -- a coasting or failed Body Bus PLL keeps a port on its lane 0 until it has relocked (R378)
    let pllBad := 3 ≤ d.fld CLK_STAT.BBPLL_STATE (dieOf p)
    let want := mode == 2 || (lt && mode != 0) || pllBad
    let loop := g == 0 && (d.fld BB_LANE_STAT.LOCK p).testBit 0 && want
    let d := if loop then (d.setFld BB_LINK_STAT.LOOP p 0 1).setFld BB_LINK_STAT.FALLBACK p 0 0
      else if want then d.fallBack p
      else (d.setFld BB_LINK_STAT.LOOP p 0 0).setFld BB_LINK_STAT.FALLBACK p 0 0
    let d := if re && decide (w < l.prevWidth) then d.linkEvent BB_LINK_EVENT.NARROWED p else d
    let d := (d.setLstate p lsActive).setFld BB_LINK_STAT.WIDTH p 0 w
    let d := d.modLink p fun l => { l with step := .idle, waitIdl := false, chosen := none }
    let from_ := match l.partner with | some s => s.rxNext | none => 0
    let keep := l.replay.filter fun e => !decide ((from_ + 128 - e.1) % 128 ∈ List.range' 1 64)
    let d := d.modLink p fun l => { l with replay := keep }
    let d := keep.foldl (fun d e => (d.bump BB_LINK_ERR.REPLAYS p).emit (.pkt p e.1 e.2)) d
    let d := d.linkEvent BB_LINK_EVENT.LINK_UP p
    let d := d.flushTx (d.port p).link.waiting.length p
    if re then d.note (.portUp p false)
    else (d.modPort p fun o => { o with nextTag := 0 }).note (.portUp p true)

/-- The partner's CONFIRM is held against the port's own result (R121): equal results wait for IDL; unequal ones fail the attempt. What follows
a failed attempt the spec leaves open: initial training enters FAILED, a retrain starts again at step 2 (DESIGN CHOICE, log entry 22). -/
def Dev.checkConfirm (d : Dev) (p : Nat) : Dev :=
  let l := (d.port p).link
  match l.chosen, l.partner with
  | some (w, g), some s =>
    if s.step = 2 then
      if s.width = w ∧ s.group = g then d.modLink p fun l => { l with waitIdl := true }
      else if d.lstate p = lsRetrain then d.retrainEnter p l.capWidth false
      else d.linkFail p
    else d
  | _, _ => d

/-- Lanes that do not count at confirmation are marked bad, the width is chosen and CONFIRM sent; with no width the rate drops one
step and training repeats from the rate change (R120), or the port fails. A retrain without a width fails at once: R123 keeps its rate, and
R120 names none (DESIGN CHOICE, log entry 22). -/
def Dev.confirm (d : Dev) (p : Nat) : Dev :=
  let l := (d.port p).link
  let bad := (d.fld BB_LANE_STAT.BAD p) ||| (255 - (l.goodRx &&& l.partnerGood))
  let d := d.setFld BB_LANE_STAT.BAD p 0 bad
  match d.confirmWidth p with
  | some c => ((d.modLink p fun l => { l with chosen := some c, step := .confirm }).sendSyns p 2).checkConfirm p
  | none =>
    if d.lstate p = lsRetrain then d.linkFail p
    else if 0 < l.rate then
      let d := d.setFld BB_LANE_STAT.BAD p 0 l.badCap
      (d.modLink p fun l => { l with step := .rateIdle, rate := l.rate - 1, goodRx := 0, partnerGood := 0 }).emit (.laneIdle p)
    else d.linkFail p

/-- The rate agreed once capabilities are exchanged (R120); silent and miswired lanes are marked bad (R122 step 3). -/
def Dev.agreeRate (d : Dev) (p : Nat) (s : Syn) : Dev :=
  let r := min (min s.maxRate 2) (min (d.fld BB_LINK_CTRL.MAX_RATE p) 2)
  let bad := d.fld BB_LANE_STAT.BAD p ||| (255 - (d.port p).link.goodRx % 256)
  let d := (d.setFld BB_LANE_STAT.BAD p 0 bad).modLink p fun l => { l with badCap := bad }
  if r = 0 then (d.modLink p fun l => { l with rate := 0, step := .eq }).sendSyns p 1
  else (d.modLink p fun l => { l with rate := r, step := .rateIdle, goodRx := 0, partnerGood := 0 }).emit (.laneIdle p)

/-- A CRC error counted in BB_LINK_ERR, and in the health window of a port that is ACTIVE (R116, R125). -/
def Dev.crcError (d : Dev) (p : Nat) : Dev :=
  (if d.active? p then d.modLink p fun l => { l with crcWin := l.crcWin + 1 } else d).bump BB_LINK_ERR.CRC_ERR p

/-- The first SYN in DETECT: TRAIN, from step 1 where a port gone down has not taken it yet (R122). See log entry 22. -/
def Dev.partnerSeen (d : Dev) (p : Nat) : Dev :=
  if (d.port p).link.step = .idle then
    (d.trainStart p lsTrain).setFld BB_LANE_STAT.LOCK p 0 (d.fld BB_LANE_STAT.LOCK p)
  else d.setLstate p lsTrain

/-- A SYN on a lane (R119 to R123). The rate is agreed once every locked lane is good or marked bad, or the partner has gone on; see
log entry 22. -/
def Dev.rxSyn (d : Dev) (p lane : Nat) (s : Syn) : Dev :=
  let st := d.lstate p
  if st = lsDisabled || st = lsFailed then d
  else if !s.crcOk then d.crcError p
  else
    let d := if st = lsActive && (d.fld BB_LANE_STAT.ACTIVE p).testBit lane then d.retrainEnter p 0 false else d
    let d := if d.lstate p = lsDetect then d.partnerSeen p else d
    let d := d.modLink p fun l => { l with seen := true }
    if s.lane ≠ lane then
      ((d.setFld BB_LANE_STAT.BAD p 0 (d.fld BB_LANE_STAT.BAD p ||| 2 ^ lane)).modLink p fun l =>
        { l with goodRx := l.goodRx - (l.goodRx &&& 2 ^ lane) }).linkEvent BB_LINK_EVENT.MISWIRED p
    else if d.active? p then d
    else
      let d := if (d.fld BB_LANE_STAT.LOCK p).testBit lane then
          d.modLink p fun l => { l with goodRx := l.goodRx ||| 2 ^ lane } else d
      let d := d.modLink p fun l => { l with partner := some s, partnerGood := s.rxGood }
      let d := (d.setFld BB_LINK_STAT.PARTNER_WIDTH p 0 s.maxWidth).setFld BB_LINK_STAT.PARTNER_RATE p 0 s.maxRate
      let d := d.setFld BB_LINK_STAT.PARTNER_LT_REQ p 0 (if s.ltReq then 1 else 0)
      let l := (d.port p).link
      let waits := d.fld BB_LANE_STAT.LOCK p &&& (255 - d.fld BB_LANE_STAT.BAD p) &&& (255 - l.goodRx % 256)
      if l.step = .cap && l.goodRx != 0 && (waits == 0 || s.step == 1 || s.step == 2) then d.agreeRate p s
      else if l.step = .confirm then d.checkConfirm p
      else if l.step = .retrain && l.recal != .none && (d.confirmWidth p).any (fun c => c.1 == l.capWidth) then d.confirm p
      else d

/-! Acknowledgement and repeat (R115, R118) -/

/-- An IDL received: packets below RX_NEXT are acknowledged; REPEAT resends from RX_NEXT, or retrains where that packet is not held. -/
def Dev.rxIdl (d : Dev) (p : Nat) (rep : Bool) (rx : Nat) : Dev :=
  let l := (d.port p).link
  if l.waitIdl then d.linkActive p
  else if !d.active? p then d
  else if rep && !(l.replay.any fun e => e.1 == rx) then d.retrain p
  else
    let keep := l.replay.filter fun e => !decide ((rx + 128 - e.1) % 128 ∈ List.range' 1 64)
    let d := d.modLink p fun l => { l with replay := keep }
    let d := if rep then keep.foldl (fun d e => (d.bump BB_LINK_ERR.REPLAYS p).emit (.pkt p e.1 e.2)) (d.emit (.ebp p)) else d
    d.flushTx (d.port p).link.waiting.length p

/-! Health (R125) -/

/-- Code violation counters of BB_LANE_CVA and BB_LANE_CVB. -/
def cvField (lane : Nat) : Fld :=
  let r := if lane < 4 then RegId.BB_LANE_CVA else RegId.BB_LANE_CVB
  ⟨r, 8 * (lane % 4) + 7, 8 * (lane % 4)⟩

/-- A lane marked bad: a retrain where it is in the active group, or a restart of the retrain in progress, whose group held it or may take it
(R125 to R127). -/
def Dev.laneBad (d : Dev) (p lane : Nat) : Dev :=
  let d := d.recalStop p
  let inGroup := if d.active? p then (d.fld BB_LANE_STAT.ACTIVE p).testBit lane
    else
      let l := (d.port p).link
      d.lstate p == lsRetrain && ((groupMask l.prevWidth l.prevGroup).testBit lane || l.chosen.any (fun c => (groupMask c.1 c.2).testBit lane) ||
        (decide (l.prevWidth < l.capWidth) && !(d.fld BB_LANE_STAT.BAD p).testBit lane))
  let d := d.setFld BB_LANE_STAT.BAD p 0 (d.fld BB_LANE_STAT.BAD p ||| 2 ^ lane)
  let d := if lane = 0 then d.fallBack p else d
  if inGroup then d.retrainEnter p (if d.active? p then 0 else (d.port p).link.capWidth) false else d

/-- The end of a 1 ms health window (R125). -/
def Dev.healthEnd (d : Dev) (p : Nat) : Dev :=
  let l := (d.port p).link
  let cvMax := d.fld BB_LINK_THRESH.LANE_CV_MAX p
  let bad := (indexed l.cvWin).filter fun e => decide (cvMax < e.2)
  let crcOver := decide (d.fld BB_LINK_THRESH.CRC_MAX p < l.crcWin)
  let struck := match l.struck with
    | some k => if k + 1 ≤ d.fld BB_LINK_THRESH.STRIKE_WINDOW p then some (k + 1) else none
    | none => none
  let d := d.modLink p fun l => { l with cvWin := [0, 0, 0, 0, 0, 0, 0, 0], crcWin := 0, struck := struck }
  if !bad.isEmpty then bad.foldl (fun d e => d.laneBad p e.1) d
  else if crcOver && d.active? p then
    if struck.isSome && d.flag BB_LINK_CTRL.AUTO_RATE p && decide (0 < l.rate) then
      (d.modLink p fun l => { l with struck := none }).retrainEnter p 0 true
    else (d.modLink p fun l => { l with struck := some 0 }).retrainEnter p 0 false
  else d

/-! Commands of software (R122, R127) -/

def Dev.linkEnable (d : Dev) (p : Nat) : Dev :=
  let d := d.setFld BB_LINK_CTRL.EN p 0 1
  if d.lstate p = lsDisabled then d.trainStart p lsTrain else d

def Dev.linkDisable (d : Dev) (p : Nat) : Dev :=
  let d := d.setFld BB_LINK_CTRL.EN p 0 0
  if d.lstate p = lsDisabled then d
  else
    let d := if (d.port p).link.replay.isEmpty && (d.port p).link.waiting.isEmpty then d else d.emit (.ebp p)
    (d.linkDown p lsDisabled).emit (.laneIdle p)

def Dev.widen (d : Dev) (p : Nat) : Dev :=
  if (d.port p).link.recal != .none then d
  else
    let d := d.setFld BB_LANE_STAT.BAD p 0 0
    if d.active? p then d.retrainEnter p widenCap false else d

end Sys2Proof.Machine
end

