-- ==== Sys2Proof/Machine/Topo.lean ====
section
/-!
DEFINITION. The mortar network (spec/01 R37 to R40): links between dies, routes, the ways of packets, streams between dies.
-/

namespace Sys2Proof.Machine

/-- Link number at the far end: in EZ8 L0 of a die is L1 of the next. -/
def peerLink (v : Variant) (k : Nat) : Nat :=
  match v, k with
  | .ez8, 0 => 1
  | .ez8, 1 => 0
  | _, k => k

/-- Is a link active? -/
def Dev.morUp (d : Dev) (x k : Nat) : Bool := d.fld MOR_LINK_STAT.STATE x k == 2

/-- The link of a doubled pair that carries traffic: the first of the two while it is active. -/
def Dev.pairLink (d : Dev) (x a b : Nat) : Nat := if d.morUp x a then a else b

/-- The links of the route of R39 from a die to another, hop by hop. -/
def Dev.fixedRoute (d : Dev) (a b : Nat) : List Nat :=
  match d.variant with
  | .ez2 => [d.pairLink a 0 1]
  | .ez4 => [(a ^^^ b) - 1]
  | .ez8 =>
    let far := d.pairLink a 2 3
    match (b + 8 - a) % 8 with
    | 1 => [0]
    | 7 => [1]
    | 4 => [far]
    | 2 => [0, 0]
    | 6 => [1, 1]
    | 3 => [far, 1]
    | 5 => [far, 0]
    | _ => []

/-- Where a list of links leads, if every one of them is active and ends at a die in service. -/
def Dev.follow (d : Dev) : Nat → List Nat → Option Nat
  | x, [] => some x
  | x, k :: r =>
    match linkPeer d.variant x k with
    | some y => if d.morUp x k && d.inService y && (r.isEmpty || !d.away.contains y) then d.follow y r else none
    | none => none

/-- The shortest way to a die over active links, from the ends of the ways in `front`; dies in `seen` have been reached. A die in a
domain reset is no hop (R358). See log entry 14. -/
def Dev.shortest (d : Dev) (b : Nat) : Nat → List (List Nat × Nat) → List Nat → Option (List Nat)
  | 0, _, _ => none
  | n + 1, front, seen =>
    match front.find? fun e => e.2 == b with
    | some e => some e.1
    | none =>
      let next := (front.filter fun e => e.1.isEmpty || !d.away.contains e.2).flatMap fun e => [0, 1, 2, 3].filterMap fun k =>
        match linkPeer d.variant e.2 k with
        | some y => if d.morUp e.2 k && d.inService y && !seen.contains y then some (e.1 ++ [k], y) else none
        | none => none
      d.shortest b n next (seen ++ next.map (·.2))

/-- The route of a stream: that of R39 while it holds, the shortest that avoids failed links otherwise (R40). -/
def Dev.route (d : Dev) (a b : Nat) : Option (List Nat) :=
  let f := d.fixedRoute a b
  if d.follow a f = some b then some f else d.shortest b 8 [([], a)] [a]

/-- The other link of a doubled pair, where the die has one (R38). -/
def twinLink (v : Variant) (k : Nat) : Option Nat :=
  match v with
  | .ez2 => some (1 - k)
  | .ez8 => if 2 ≤ k then some (5 - k) else none
  | .ez4 => none

/-- The link that a packet takes of a hop: a doubled pair carries packets in turn while both its links are active (R38, R39).
See log entry 14. -/
def Dev.spread (d : Dev) (x k seq : Nat) : Nat :=
  match twinLink d.variant k with
  | some j => if d.morUp x k && d.morUp x j then (if seq % 2 = 0 then min k j else max k j) else k
  | none => k

/-- The links that a packet takes, hop by hop. -/
def Dev.hops (d : Dev) (seq : Nat) : Nat → List Nat → List (Nat × Nat)
  | _, [] => []
  | x, k :: r => (x, d.spread x k seq) :: (match linkPeer d.variant x k with | some y => d.hops seq y r | none => [])

/-- The way of a packet from die to die, none where no route is left. -/
def Dev.way (d : Dev) (a b seq : Nat) : Option (List (Nat × Nat)) := (d.route a b).map fun r => d.hops seq a r

def Dev.mor (d : Dev) (x : Nat) : Mortar := d.mortars.get {} ⟨x, 0, 0⟩
def Dev.modMor (d : Dev) (x : Nat) (f : Mortar → Mortar) : Dev := { d with mortars := d.mortars.set {} ⟨x, 0, 0⟩ (f (d.mor x)) }

/-- Can traffic go from a die to another (R30, R40)? -/
def Dev.reach (d : Dev) (a b : Nat) : Bool := a == b || (d.route a b).isSome

/-- Streams between dies (R39): a PCI Express port toward a tile, a tile toward a PCI Express port, requests of a die toward a port, their
outcomes; the controllers' own packets use stream 0. See log entry 14. -/
def toTile (lp : Nat) : Nat := 256 + lp
def fromTile (lp : Nat) : Nat := 512 + lp
def toHost (a : Nat) : Nat := 768 + a
def fromHost (x : Nat) : Nat := 1024 + x

/-- A packet of a stream goes from die to die: both ends count it (R39). See log entry 14. -/
def Dev.cross (d : Dev) (a b stream : Nat) : Dev :=
  if a = b then d
  else
    let seq := ((d.mor a).sent.find? fun e => e.1 == (b, stream)).elim 0 (·.2)
    let d := d.modMor a fun m => { m with sent := (m.sent.filter fun e => e.1 != (b, stream)) ++ [((b, stream), seq + 1)] }
    d.modMor b fun m => { m with expected := (m.expected.filter fun e => e.1 != (a, stream)) ++ [((a, stream), seq + 1)] }

end Sys2Proof.Machine
end

