-- ==== Sys2Proof/Machine/Pcie.lean ====
section
/-!
DEFINITION. The PCI Express port (spec/03): configuration space, completions owed, requests issued, held and ended, MSI-X messages,
AER, link power and resets. Positions of bits of configuration space follow the PCI Express standard (log entry 8).
-/

namespace Sys2Proof.Machine

/-! Configuration space (R82 to R88) -/

/-- Header of an extended capability: the ID and next pointer of R87, the version of the standard. See log entry 8. -/
def extCap (ver id next : Nat) : Word := BitVec.ofNat 32 (id + ver * 65536 + next * 2 ^ 20)

/-- The bits of a DWORD that R81, R102 and R106 fix, with their values; the standard gives the rest. See log entry 8. -/
def cfgFixed (off : Nat) : Word × Word :=
  match off with
  | 0x74 => (0xFFFEF03F#32, 0x10008023#32)
  | 0x7C => (0x00FB8FFF#32, 0x00430886#32)
  | 0x94 => (0xFF2FFFFF#32, 0x0023099F#32)
  | 0x9C => (0x000001FF#32, 0x0000007E#32)
  | 0xA0 => (0x0000000F#32, 0x00000006#32)
  | 0x118 => (0x000007FF#32, 0#32)
  | 0x264 => (0x00FBFF1F#32, 0x00A00A1F#32)
  | 0x284 => (0x0000000F#32, 0x0000000E#32)
  | _ => (0#32, 0#32)

/-- Places of configuration space that no structure covers read 0. -/
def cfgEmpty (off : Nat) : Bool :=
  off == 0x28 || off == 0x38 || (0x48 ≤ off && off < 0x50) || (0x5C ≤ off && off < 0x70) || (0xAC ≤ off && off < 0x100) || decide (0x2F0 ≤ off)

/-- The DWORD of the configuration space of the port of die `x` at reset (R82, R84, R85, R87, R88). See log entry 8. -/
def cfgReset (v : Variant) (x off : Nat) : Word :=
  let w := BitVec.ofNat 32
  match off with
  | 0x00 => w (v.device * 65536 + 0x1F8C)
  | 0x04 => w 0x00100000
  | 0x08 => w (0x06800000 + 1)
  | 0x0C => 0
  | 0x10 => 4
  | 0x14 => 0
  | 0x18 => 4
  | 0x1C => 0
  | 0x20 => 4
  | 0x24 => 0
  | 0x2C => w 0x1F8C
  | 0x30 => 0
  | 0x34 => w 0x40
  | 0x3C => 0
  | 0x40 => w (0x0003 * 65536 + 0x5001)
  | 0x44 => 8
  | 0x50 => w (2047 * 65536 + 0x7011)
  | 0x54 => w (dieBase x + 0x38000)
  | 0x58 => w (dieBase x + 0x37F00)
  | 0x70 => w 0x80020010
  | 0x78 => w 0x2810
  | 0x98 => 0
  | 0x100 => extCap 3 0x0001 0x150
  | 0x104 => 0
  | 0x108 => w 0x00400000
  | 0x10C => w 0x00462010
  | 0x110 => 0
  | 0x114 => w 0x6000
  | 0x150 => extCap 1 0x0003 0x160
  | 0x154 => w Config.serialNumber.toNat
  | 0x158 => w (Config.serialNumber.toNat / 2 ^ 32)
  | 0x160 => extCap 1 0x0019 0x180
  | 0x180 => extCap 1 0x0025 0x190
  | 0x190 => extCap 1 0x0026 0x1C0
  | 0x1C0 => extCap 1 0x002A 0x200
  | 0x200 => extCap 1 0x0031 0x220
  | 0x220 => extCap 1 0x0027 0x250
  | 0x250 => extCap 1 0x001B 0x260
  | 0x254 => w 0x1406
  | 0x260 => extCap 2 0x001E 0x280
  | 0x280 => extCap 1 0x002F 0x290
  | 0x288 => 0
  | 0x290 => extCap 1 0x0032 0x2C0
  | 0x2C0 => extCap 1 0x0018 0x2D0
  | 0x2D0 => extCap 1 0x0023 0
  | 0x2D4 => w (0x020 * 2 ^ 20 + 0x1F8C)
  | 0x2D8 => w 0x0001
  | 0x2C4 => 0
  | 0x2E8 => 0
  | 0x2EC => 0
  | _ => if cfgEmpty off then 0 else let f := cfgFixed off; (Config.standardConfig x off &&& ~~~f.1) ||| f.2

/-- PORTS_UP (R84): the ports whose link is in L0, L0p or L1. -/
def Dev.portsUp (d : Dev) : Nat :=
  d.dies.foldl (fun m x => if d.flag PX_LINK_STAT.UP x then m + 2 ^ x else m) 0

/-- A margined lane of a port. -/
def Dev.margin (d : Dev) (x k : Nat) : Margin := d.margins.get {} ⟨x, k, 0⟩
def Dev.setMargin (d : Dev) (x k : Nat) (m : Margin) : Dev := { d with margins := d.margins.set {} ⟨x, k, 0⟩ m }

/-- Can the port margin its lanes: the link in L0 at 16 GT/s or faster (R106)? -/
def Dev.marginReady (d : Dev) (x : Nat) : Bool := d.fld PX_LINK_STAT.STATE x == 2 && decide (4 ≤ d.fld PX_LINK_STAT.RATE x)

/-- The lane of a margining control and status DWORD. -/
def marginLane (off : Nat) : Option Nat := if 0x228 ≤ off ∧ off < 0x248 then some ((off - 0x228) / 4) else none

/-- The DWORD of a log of headers or prefixes: the TLP of the error that the first error pointer names is a free value. See log entry 8. -/
def aerLogWord (off : Nat) : Option Nat :=
  if 0x11C ≤ off ∧ off < 0x12C then some ((off - 0x11C) / 4) else if 0x138 ≤ off ∧ off < 0x148 then some (4 + (off - 0x138) / 4) else none

/-- A DWORD of configuration space as it is stored. -/
def Dev.cfgStored (d : Dev) (x off : Nat) : Word := (d.cfgSpace.get none ⟨x, off, 0⟩).getD (cfgReset d.variant x off)

/-- A DWORD of configuration space as it reads; the fields of the DVSEC read from the die's replica of package state (R84), those that follow
the link from the port (R105). See log entry 8. -/
def Dev.cfgRead (d : Dev) (x off : Nat) : Word :=
  let w := d.cfgStored x off
  match off with
  | 0x2DC => BitVec.ofNat 32 ((2 ^ d.n - 1) * 65536 + d.n * 4096 + x * 256)
  | 0x2E0 => BitVec.ofNat 32 d.portsUp
  | 0x2E4 => BitVec.ofNat 32 d.lead.lead
  | 0x78 => putBits w 21 21 (if (d.px x).issued.isEmpty then 0 else 1)
  | 0x80 => putBits (putBits w 19 16 (d.fld PX_LINK_STAT.RATE x)) 25 20 (d.fld PX_LINK_STAT.WIDTH x)
  | 0xA0 => putBits w 26 26 (d.fld PX_LINK_STAT.FLIT x)
  | 0x118 => putBits w 4 0 ((d.px x).aerFirst.getD 0)
  | 0x224 => BitVec.ofNat 32 (if d.marginReady x then 65536 else 0)
  | _ =>
    match marginLane off, aerLogWord off with
    | some k, _ => let m := d.margin x k; BitVec.ofNat 32 (m.ctl + 65536 * m.stat)
    | _, some k => ((d.px x).aerLog.map fun i => Config.freeValue (i + k)).getD 0
    | _, _ => w

def Dev.cfgPut (d : Dev) (x off : Nat) (w : Word) : Dev :=
  { d with cfgSpace := d.cfgSpace.set none ⟨x, off, 0⟩ (if w = cfgReset d.variant x off then none else some w) }

/-- The bits of a DWORD of configuration space that software sets, for the DWORDs whose fields this manual uses. See log entry 8. -/
def cfgWritable (off : Nat) : Option Word :=
  match off with
  | 0x00 | 0x08 | 0x28 | 0x2C | 0x30 | 0x34 | 0x38 | 0x40 | 0x54 | 0x58 | 0x70 | 0x74 | 0x7C | 0x94 | 0x9C | 0x104 | 0x110 | 0x118 | 0x224 | 0x264 | 0x284 => some 0
  | 0x0C => some 0xFF#32
  | 0x108 | 0x10C => some 0x0057F010#32
  | 0x114 => some 0x000071C1#32
  | 0x268 => some 0xE3FF000F#32
  | 0x26C => some 0xFB#32
  | 0x2C4 => some 0x1FFF1FFF#32
  | 0x04 => some 0x0546#32
  | 0x10 => some 0xF8000000#32
  | 0x14 => some 0xFFFFFFFF#32
  | 0x18 => some 0xFFC00000#32
  | 0x1C => some 0xFFFFFFFF#32
  | 0x20 => some 0
  | 0x24 => some 0xFFFFFF00#32
  | 0x3C => some 0xFF#32
  | 0x44 => some 0x3#32
  | 0x50 => some 0xC0000000#32
  | 0x78 => some 0x0000FFFF#32
  | 0x98 => some 0x0000171F#32
  | 0x254 => some 0x00070000#32
  | 0x288 => some 0x0000007C#32
  | 0x100 | 0x150 | 0x154 | 0x158 | 0x160 | 0x180 | 0x190 | 0x1C0 | 0x200 | 0x220 | 0x250 | 0x260 | 0x280 | 0x290 | 0x2C0 => some 0
  | _ => if 0x2D0 ≤ off || cfgEmpty off || (marginLane off).isSome || (aerLogWord off).isSome then some 0 else none

/-- The bits of a DWORD that a write of 1 clears. See log entry 8. -/
def cfgW1c (off : Nat) : Word :=
  match off with
  | 0x04 => 0xF9000000#32
  | 0x78 => 0x000F0000#32
  | 0x104 => 0x0057F010#32
  | 0x110 => 0x000071C1#32
  | _ => 0

/-- Is a BAR of a port assigned (R450)? -/
def Dev.barSet (d : Dev) (x k : Nat) : Bool :=
  let off := 0x10 + 8 * k
  (d.cfgStored x off).toNat / 4096 != 0 || (d.cfgStored x (off + 4)).toNat != 0

def Dev.memEnable (d : Dev) (x : Nat) : Bool := (d.cfgRead x 0x04).getLsbD 1
def Dev.busMaster (d : Dev) (x : Nat) : Bool := (d.cfgRead x 0x04).getLsbD 2
def Dev.d3hot (d : Dev) (x : Nat) : Bool := bitsOf (d.cfgRead x 0x44) 1 0 == 3
def Dev.msixEnable (d : Dev) (x : Nat) : Bool := (d.cfgRead x 0x50).getLsbD 31
def Dev.msixMask (d : Dev) (x : Nat) : Bool := (d.cfgRead x 0x50).getLsbD 30
def Dev.pasidEnable (d : Dev) (x : Nat) : Bool := (d.cfgRead x 0x254).getLsbD 16
def Dev.ltrEnable (d : Dev) (x : Nat) : Bool := (d.cfgRead x 0x98).getLsbD 10

/-- Max Payload Size and Max Read Request Size in bytes (R81). -/
def Dev.mps (d : Dev) (x : Nat) : Nat := 128 * 2 ^ min (bitsOf (d.cfgRead x 0x78) 7 5) 3
def Dev.mrrs (d : Dev) (x : Nat) : Nat := 128 * 2 ^ min (bitsOf (d.cfgRead x 0x78) 14 12) 5

/-- Outstanding non-posted requests that the enabled tag size allows (R95). -/
def Dev.tagLimit (d : Dev) (x : Nat) : Nat :=
  if (d.cfgRead x 0x288).getLsbD 2 then 4096 else if (d.cfgRead x 0x98).getLsbD 12 then 768 else 256

/-- Can the port issue (R99)? -/
def Dev.canIssue (d : Dev) (x : Nat) : Bool :=
  d.flag PX_LINK_STAT.UP x && d.busMaster x && !d.d3hot x

/-! AER (R230) -/

/-- The bit of an error in the uncorrectable error status register. -/
def AerErr.bit : AerErr → Nat
  | .poisoned => 12
  | .completionTimeout => 14
  | .completerAbort => 15
  | .unexpectedCpl => 16
  | .malformed => 18
  | .unsupported => 20
  | .internal => 22
  | .correctedInternal => 14

/-- Does a memory request find a BAR of the port: 0 BAR0, 1 BAR2, 2 BAR4 (R104, R450)? Before traffic enable none is acted on (R423). See log
entry 43. -/
def Dev.takesBar (d : Dev) (x k : Nat) : Bool := d.flag MC_BOOT_STAT.DONE x && d.memEnable x && !d.d3hot x && d.barSet x k

/-- Bits of a DWORD of configuration space set. -/
def Dev.cfgSet (d : Dev) (x off : Nat) (bits : List Nat) : Dev :=
  d.cfgPut x off (d.cfgStored x off ||| BitVec.ofNat 32 (bits.foldl (fun m k => m + 2 ^ k) 0))

/-- Errors that a TLP carries, whose header is logged. -/
def AerErr.hasTlp : AerErr → Bool
  | .unsupported | .completerAbort | .poisoned | .unexpectedCpl | .malformed => true
  | .completionTimeout | .internal | .correctedInternal => false

/-- The first unmasked error since the pointer was free takes the header log. -/
def Dev.aerHeader (d : Dev) (x : Nat) (e : AerErr) : Dev :=
  if (d.cfgStored x 0x108).getLsbD e.bit || (d.px x).aerFirst.isSome then d
  else
    let i := d.free
    let d := d.modPx x fun p => { p with aerFirst := some e.bit, aerLog := if e.hasTlp then some i else p.aerLog }
    if e.hasTlp then { d with free := i + 8 } else d

/-- An error logged and signalled under AER; with `adv` one that the standard makes advisory where its severity is not fatal. See log
entry 8. -/
def Dev.aer (d : Dev) (x : Nat) (e : AerErr) (adv : Bool := false) : Dev :=
  let ctl := d.cfgStored x 0x78
  let serr := (d.cfgStored x 0x04).getLsbD 8
  if e = .correctedInternal then
    let d := (d.cfgSet x 0x78 [16]).cfgSet x 0x110 [14]
    if !(d.cfgStored x 0x114).getLsbD 14 && ctl.getLsbD 0 then d.emit (.aer x e) else d
  else
    let fatal := (d.cfgStored x 0x10C).getLsbD e.bit
    let adv := adv && !fatal
    let ur := e == .unsupported
    let d := d.cfgSet x 0x78 ((if adv then 16 else if fatal then 18 else 17) :: if ur then [19] else [])
    let d := (d.cfgSet x 0x104 [e.bit]).aerHeader x e
    let d := if adv then d.cfgSet x 0x110 [13] else d
    let d := if e = .poisoned then d.cfgSet x 0x04 [31] else d
    let masked := (d.cfgStored x 0x108).getLsbD e.bit
    let on := if adv then !(d.cfgStored x 0x114).getLsbD 13 && ctl.getLsbD 0 && (!ur || ctl.getLsbD 3)
      else serr || (ctl.getLsbD (if fatal then 2 else 1) && (!ur || fatal || ctl.getLsbD 3))
    if masked || !on then d else (if serr && !adv then d.cfgSet x 0x04 [30] else d).emit (.aer x e)

/-- A posted request logged as Completer Abort or Unsupported Request (R92), counted in PX_ERR_COUNT. -/
def Dev.logPosted (d : Dev) (x : Nat) (abort : Bool) : Dev :=
  if abort then (d.bump PX_ERR_COUNT.CA_SENT x).aer x .completerAbort
  else (d.bump PX_ERR_COUNT.UR_SENT x).aer x .unsupported

/-! Completions sent (R91, R92) -/

/-- Data cut into completions: none longer than the Max Payload Size, every one but the last ending on a Read Completion Boundary. -/
def splitCpl (mps : Nat) : Nat → Nat → List Byte → List (List Byte)
  | 0, _, bs => [bs]
  | k + 1, addr, bs =>
    let len := (addr + mps) / 128 * 128 - addr
    if bs.length ≤ len then [bs] else bs.take len :: splitCpl mps k (addr + len) (bs.drop len)

/-- A completion, counted and logged by its status. -/
def Dev.sendCpl (d : Dev) (x rid tag addr : Nat) (st : CplSent) (poison : Bool) (data : List Byte) : Dev :=
  match st with
  | .success => (splitCpl (d.mps x) 32 addr data).foldl (fun d p => d.emit (.cpl x rid tag .success poison p)) d
  | .abort => (((d.bump PX_ERR_COUNT.CA_SENT x).aer x .completerAbort true).cfgSet x 0x04 [27]).emit (.cpl x rid tag .abort false [])
  | .unsupported => ((d.bump PX_ERR_COUNT.UR_SENT x).aer x .unsupported true).emit (.cpl x rid tag .unsupported false [])
  | .retry => d.emit (.cpl x rid tag .retry false [])

/-- The entry of the list of owed completions with a number. -/
def Dev.owedAt (d : Dev) (x id : Nat) : Option Owed := (d.px x).owed.find? fun o => o.id == id

/-- An owed completion sent by its port; nothing where it is owed no more (R94, R105). -/
def Dev.completeHere (d : Dev) (x id : Nat) (st : CplSent) (poison : Bool) (data : List Byte) : Dev :=
  match d.owedAt x id with
  | none => d
  | some o =>
    let d := d.modPx x fun p => { p with owed := p.owed.filter fun q => q.id != id }
    let d := match o.mon with | some w => d.note (.sample 1 w x id) | none => d
    d.sendCpl x o.rid o.tag o.addr st poison data

/-- The outcome of a request travels from its tile to the port that owes the completion (R30); it waits while no mortar route leads there
(R40). -/
def Dev.complete (d : Dev) (x id : Nat) (st : CplSent) (poison : Bool) (data : List Byte) : Dev :=
  match (d.owedAt x id).bind fun o => o.tile with
  | none => d.completeHere x id st poison data
  | some lp =>
    if d.reach (lp / 8) x then (d.cross (lp / 8) x (fromTile lp)).completeHere x id st poison data
    else d.modPx x fun p => { p with owed := p.owed.map fun o =>
      if o.id = id && o.kept.isNone then { o with kept := some (st, poison, data) } else o }

/-- Outcomes that have waited for a route reach a port. -/
def Dev.cplArrive (d : Dev) (x : Nat) : Dev :=
  (d.px x).owed.foldl (fun d o =>
    match o.kept with
    | some (st, poison, data) => d.complete x o.id st poison data
    | none => d) d

/-! Requests issued (R95 to R99, R449) -/

/-- Relaxed Ordering and ID-Based Ordering of an issued request (R97); `ro` asks for Relaxed Ordering. -/
def Dev.issueAttrs (d : Dev) (x : Nat) (ro : Bool) : Bool × Bool :=
  (ro && (d.cfgRead x 0x78).getLsbD 4 && d.flag PX_CTRL.RO_SET x,
   (d.cfgRead x 0x98).getLsbD 8 && d.flag PX_CTRL.IDO_SET x)

/-- The lowest tag not in use. -/
def freeTag (limit : Nat) (l : List Issued) : Option Nat :=
  (List.range limit).find? fun t => !(l.any fun i => i.tag == t)

/-- The tag that the next non-posted request of a port may take (R95). -/
def Dev.nextTag (d : Dev) (x : Nat) : Option Nat :=
  if (d.px x).issued.length < d.tagLimit x then freeTag 4096 (d.px x).issued else none

/-- A non-posted request issued with a tag. -/
def Dev.issueReq (d : Dev) (r : HostReq) (t : Nat) : Dev :=
  let a := d.issueAttrs r.die r.ro
  let r := { r with ro := a.1, ido := a.2 }
  (d.modPx r.die fun p => { p with issued := p.issued ++ [⟨t, r, []⟩] }).emit (.req r (some t))

/-- A request sent by a port that can issue: a non-posted one takes a tag or waits for one behind those that wait (R95). -/
def Dev.sendReq (d : Dev) (r : HostReq) : Dev :=
  if r.kind = .write then
    let a := d.issueAttrs r.die r.ro
    (d.emit (.req { r with ro := a.1, ido := a.2 } none)).note (.issued r.who)
  else
    match if (d.px r.die).waitTag.isEmpty then d.nextTag r.die else none with
    | some t => d.issueReq r t
    | none => d.modPx r.die fun p => { p with waitTag := p.waitTag ++ [r] }

/-- The LTR value of a busy port sent when it changes (R81). -/
def Dev.ltrBusy (d : Dev) (x : Nat) : Dev :=
  if (d.px x).ltrIdle then
    let d := d.modPx x fun p => { p with ltrIdle := false }
    if d.ltrEnable x && d.flag PX_LINK_STAT.UP x then d.emit (.ltr x (some 5)) else d
  else d

/-- A request toward host memory: sent, or held at its port while the port cannot issue (R99). -/
def Dev.hostReq (d : Dev) (r : HostReq) : Dev :=
  let d := d.ltrBusy r.die
  if d.canIssue r.die && (d.px r.die).heldReq.isEmpty then d.sendReq r
  else d.modPx r.die fun p => { p with heldReq := p.heldReq ++ [r] }

/-- A request of a unit of die `a`, by mortar where its port is on another die (R30, R98): it waits for a route, behind those of its die that
wait (R40). See log entry 14. -/
def Dev.hostFrom (d : Dev) (a : Nat) (r : HostReq) : Dev :=
  let r := { r with from_ := if a = r.die then none else some a }
  if d.reach a r.die && !((d.px r.die).unrouted.any fun q => q.from_ == some a) then (d.cross a r.die (toHost a)).hostReq r
  else d.modPx r.die fun p => { p with unrouted := p.unrouted ++ [r] }

/-- Requests that have waited for a route reach their port. -/
def Dev.reqArrive (d : Dev) (x : Nat) : Dev :=
  let go := (d.px x).unrouted.filter fun r => r.from_.all fun a => d.reach a x
  let d := if go.isEmpty then d else d.modPx x fun p => { p with unrouted := p.unrouted.filter fun r => !go.contains r }
  go.foldl (fun d r => (d.cross (r.from_.getD x) x (toHost (r.from_.getD x))).hostReq r) d

/-- Requests that wait for a tag go on as tags come free (R95). -/
def Dev.retag : Nat → Dev → Nat → Dev
  | 0, d, _ => d
  | k + 1, d, x =>
    match (d.px x).waitTag with
    | [] => d
    | r :: rest =>
      match if d.canIssue x then d.nextTag x else none with
      | some t => Dev.retag k ((d.modPx x fun p => { p with waitTag := rest }).issueReq r t) x
      | none => d

/-- An issued request ends: its requester is told (R93), its tag is free. -/
def Dev.endIssued (d : Dev) (x : Nat) (i : Issued) (ok abort poison timeout : Bool) : Dev :=
  let d := d.modPx x fun p => { p with issued := p.issued.filter fun j => j.tag != i.tag }
  let d := d.note (.hostEnd i.req i.tag ok abort poison timeout i.got)
  d.retag (d.px x).waitTag.length x

/-- A completion received (R90, R93): matched by tag, delivered when its last part has come. A received Unsupported Request or Completer Abort
shows in the requester's status as the standard has it. See log entries 8 and 19. -/
def Dev.rxCompletion (d : Dev) (x tag : Nat) (st : CplStatus) (poison last : Bool) (data : List Byte) : Dev :=
  match (d.px x).issued.find? fun i => i.tag == tag with
  | none => (d.aer x .unexpectedCpl true).pxEvent PX_EVENT.UNEXPECTED_CPL x
  | some i =>
    match st with
    | .success =>
      let i := { i with got := i.got ++ data }
      if poison then ((d.aer x .poisoned).cfgSet x 0x04 (if (d.cfgStored x 0x04).getLsbD 6 then [24] else [])).endIssued x i false false true false
      else if last || decide (i.req.len ≤ i.got.length) then d.endIssued x i true false false false
      else d.modPx x fun p => { p with issued := p.issued.map fun j => if j.tag == tag then i else j }
    | .unsupported => (d.cfgSet x 0x04 [29]).endIssued x i false false false false
    | .abort => (d.cfgSet x 0x04 [28]).endIssued x i false true false false

/-- An issued request reaches its completion timeout (R93). -/
def Dev.rxTimeout (d : Dev) (x tag : Nat) : Dev :=
  match (d.px x).issued.find? fun i => i.tag == tag with
  | none => d
  | some i => (d.aer x .completionTimeout).endIssued x i false false false true

/-- A request to host memory that its requester has been answered otherwise leaves the port. -/
def Dev.dropReq (d : Dev) (x : Nat) (f : Who → Bool) : Dev :=
  let freed := (d.px x).issued.any fun i => f i.req.who
  let d := d.modPx x fun p => { p with issued := p.issued.filter fun i => !f i.req.who, waitTag := p.waitTag.filter fun r => !f r.who,
                                       heldReq := p.heldReq.filter fun r => !f r.who, unrouted := p.unrouted.filter fun r => !f r.who }
  d.retag (if freed then (d.px x).waitTag.length else 0) x

/-- Reads of host memory whose requester has ended: those not yet issued go, the others run to their end and answer nobody. -/
def Dev.forgetReads (d : Dev) (f : Who → Bool) : Dev :=
  let has (x : Nat) : Bool := (d.px x).issued.any (fun i => f i.req.who) || (d.px x).waitTag.any (fun r => f r.who) || (d.px x).heldReq.any (fun r => f r.who) ||
    (d.px x).unrouted.any fun r => f r.who
  d.eachOf (d.dies.filter has) fun (d : Dev) (x : Nat) => d.modPx x fun p =>
    { p with issued := p.issued.map fun i => if f i.req.who then { i with req := { i.req with who := .none } } else i,
             waitTag := p.waitTag.filter fun r => !f r.who, heldReq := p.heldReq.filter fun r => !(r.kind == .read && f r.who),
             unrouted := p.unrouted.filter fun r => !(r.kind == .read && f r.who) }

/-- Writes that wait at a port go on for nobody: their requester counts them as written. -/
def Dev.forgetWrites (d : Dev) (x : Nat) (f : Who → Bool) : Dev :=
  let rid (r : HostReq) : HostReq := if f r.who then { r with who := .none } else r
  if ((d.px x).heldReq ++ (d.px x).unrouted).any fun r => f r.who then
    d.modPx x fun p => { p with heldReq := p.heldReq.map rid, unrouted := p.unrouted.map rid }
  else d

/-- A host range cut into requests: none longer than `most`, none across a 4 KiB boundary (R179): (offset, address, length). -/
def hostCuts (most : Nat) : Nat → Nat → Nat → Nat → List (Nat × Nat × Nat)
  | 0, _, _, _ => []
  | k + 1, off, addr, len =>
    if len = 0 then []
    else
      let n := min (min len most) (4096 - addr % 4096)
      (off, addr, n) :: hostCuts most k (off + n) (addr + n) (len - n)

/-! MSI-X (R88, R89, R99, R223) -/

/-- Is a message of a vector let out now? -/
def Dev.msixOpen (d : Dev) (x v : Nat) : Bool :=
  d.msixEnable x && !d.msixMask x && !d.flag MSIX_VCTL.MASK x v && d.canIssue x

def Dev.msixOut (d : Dev) (x v : Nat) : Dev :=
  d.emit (.msix x v (d.pair .MSIX_ADDR_LO .MSIX_ADDR_HI x v) (d.reg .MSIX_DATA x v) (d.issueAttrs x false).2)

def Dev.setPba (d : Dev) (x v : Nat) (b : Bool) : Dev :=
  let w := d.reg .MSIX_PBA x (v / 32)
  d.setReg .MSIX_PBA x (v / 32) (putBits w (v % 32) (v % 32) (if b then 1 else 0))

/-- A message: sent, or kept pending in the array (R89). The answer tells whether it left. -/
def Dev.msix (d : Dev) (x v : Nat) : Bool × Dev :=
  if d.msixOpen x v then (true, d.msixOut x v) else (false, d.setPba x v true)

/-- Vectors pending in the array of a die, in ascending order. -/
def Dev.pbaPending (d : Dev) (x : Nat) : List Nat :=
  (List.range 64).flatMap fun k =>
    let w := d.reg .MSIX_PBA x k
    if w = 0 then [] else ((List.range 32).filter fun b => w.getLsbD b).map fun b => 32 * k + b

/-! Resets and link states (R105, R450) -/

/-- Is a transaction of a work open on a port, or its address sent early? -/
def Dev.opens (d : Dev) (id : Nat) : Bool :=
  d.livePorts.any fun q => ((d.port q).outOpen.any fun t => t.work == id) || ((d.port q).early.any fun t => t.work == id)

/-- An AtomicOp past its grant fails: the transaction it has open runs to its end, then ULK goes; with none open ULK is next (R94, R214). -/
def Dev.failAtomic (d : Dev) (w : Work) : Work :=
  match w.job with
  | .atomic a ph old _ =>
    if (ph = .read ∨ ph = .write) ∧ !d.opens w.id then
      { w with job := .atomic a .ulk old true, retries := 0, rtys := 0, waits := false }
    else { w with job := .atomic a ph old true }
  | _ => w

/-- AtomicOps of a port past their grant end with ULK and no result (R94, R105). See log entry 21. -/
def Dev.failAtomics (d : Dev) (sel : Acc → Bool) : Dev :=
  d.eachOf d.livePorts fun e p => e.modPort p fun o =>
    { o with works := o.works.map fun w =>
        match w.job with
        | .atomic a ph _ _ => if sel a && ph != .acquire then d.failAtomic w else w
        | _ => w }

/-- Requests not yet sent leave the ports. -/
def Dev.dropWaiting (d : Dev) (f : Who → Bool) : Dev :=
  d.eachOf d.dies fun (d : Dev) (x : Nat) => d.modPx x fun (p : Pcie) =>
    { p with waitTag := p.waitTag.filter fun r => !f r.who, heldReq := p.heldReq.filter fun r => !f r.who,
             unrouted := p.unrouted.filter fun r => !f r.who }

/-- DWORDs of configuration space that a reset of the port leaves: the subsystem IDs of the flash image, and what the standard makes sticky.
See log entry 20. -/
def cfgSticky (off : Nat) : Bool :=
  off == 0x2C || (0x100 ≤ off && off < 0x150) || off == 0xA0 || off == 0x168 || (0x1A0 ≤ off && off < 0x1AC) || (0x294 ≤ off && off < 0x2C0)

/-- Configuration space at its reset values, but for the sticky registers. See log entry 20. -/
def Dev.cfgClear (d : Dev) (x : Nat) : Dev :=
  { d with cfgSpace := d.cfgSpace.filter fun e => e.1.a != x || cfgSticky e.1.b, margins := d.margins.filter fun e => e.1.a != x }

/-- The reset of one port's function (R105): owed completions discarded, issued requests ended as completion timeouts; those that
waited for a tag are held. See log entry 20. -/
def Dev.pxReset (d : Dev) (x : Nat) : Dev :=
  let d := d.failAtomics fun a => a.die == x
  let iss := (d.px x).issued
  let d := d.modPx x fun p => { p with owed := [], issued := [], waitTag := [], heldReq := p.waitTag ++ p.heldReq }
  let d := d.cfgClear x
  iss.foldl (fun d i => (d.aer x .completionTimeout).note (.hostEnd i.req i.tag false false false true [])) d

/-- The link leaves L0, L0p and L1 for down or detect; LINK_DOWN is set where it was up. Requests without credits have not left the host.
See log entry 20. -/
def Dev.pxDown (d : Dev) (x : Nat) : Dev :=
  let up := d.flag PX_LINK_STAT.UP x
  let d := d.setReg .PX_LINK_STAT x 0 0
  let d := d.modPx x fun p => { p with inL1 := false, inP := [], inNp := [] }
  if up then d.pxEvent PX_EVENT.LINK_DOWN x else d

/-- The code of a rate in GT/s steps (1 to 6) and a width, as PX_LINK_STAT shows a link in L0. -/
def linkStatWord (flit : Bool) (rate width : Nat) : Word :=
  BitVec.ofNat 32 (2 ^ 31 + (if flit then 2 ^ 30 else 0) + 2 * 2 ^ 27 + rate % 16 * 4096 + width % 16 * 256 + width % 16 * 16)

/-- Requests that wait go when the port can issue again, in order: those that wait for a tag, then the held ones (R95, R99). -/
def Dev.releaseHeld (d : Dev) (x : Nat) : Dev :=
  if d.canIssue x then
    let d := d.retag (d.px x).waitTag.length x
    (d.px x).heldReq.foldl Dev.sendReq (d.modPx x fun p => { p with heldReq := [] })
  else d

/-- The link reaches L0 (R105, R450): SPEED_DROP where it is slower than 64 GT/s or narrower than x8. See log entry 20. -/
def Dev.pxUp (d : Dev) (x rate width : Nat) (flit : Bool) : Dev :=
  let d := d.setReg .PX_LINK_STAT x 0 (linkStatWord flit rate width)
  let d := if rate < 6 || width < 8 then d.pxEvent PX_EVENT.SPEED_DROP x else d
  d.releaseHeld x

/-- Width in use under L0p (R103). -/
def Dev.setActive (d : Dev) (x w : Nat) : Dev := (d.setFld PX_LINK_STAT.ACTIVE_WIDTH x 0 w).emit (.l0p x w)

end Sys2Proof.Machine
end

