-- ==== Sys2Proof/Machine/Irq.lean ====
section
/-!
DEFINITION. Interrupts and the event queue (spec/08, R151 to R153): the interrupt map, Body Bus levels in both directions, the
non-maskable event, the event queue and its host ring.
-/

namespace Sys2Proof.Machine

/-! The interrupt map (R217) -/

/-- Registers and index of an entry. -/
def irqLoc : IrqEntry → RegId × RegId × Nat
  | .bbin p l => (.IRQ_BBIN_CTL, .IRQ_BBIN_TGT, p * 8 + l)
  | .cls c => (.IRQ_CLASS_CTL, .IRQ_CLASS_TGT, c)
  | .ring r => (.IRQ_RING_CTL, .IRQ_RING_TGT, r)

/-- Place of a source in the order of R221, from 1; the non-maskable event takes 0. -/
def irqOrder : IrqEntry → Nat
  | .bbin _ _ => 0
  | .cls c => 1 + c
  | .ring r => 65 + r

/-- Control and target word of an entry on a die's replica. -/
def Dev.irqWords (d : Dev) (u : Nat) (e : IrqEntry) : Word × Word :=
  let l := irqLoc e
  (d.reg l.1 u l.2.2, d.reg l.2.1 u l.2.2)

/-- Is an entry with EN = 1 in a state of R218 that is refused? -/
def irqInvalid (n : Nat) (isBbin : Bool) (ctl tgt : Word) : Bool :=
  let vec := bitsOf tgt 10 0
  let lvl := bitsOf tgt 18 16
  if ctl.getLsbD 30 then
    isBbin || lvl == 0 || lvl == 7 || decide (255 < vec) || decide (8 * n ≤ bitsOf tgt 29 24)
  else
    vec == 0 || decide (n ≤ bitsOf tgt 22 20) || (isBbin && bitsOf ctl 29 28 == 1 && decide (2047 < vec + 255))

/-! Handler side (R152, R153, R219, R220) -/

/-- Vector field of a level in BB_IRQ_VECA and BB_IRQ_VECB. -/
def vecField (l : Nat) : Fld :=
  if l ≤ 4 then ⟨.BB_IRQ_VECA, 8 * (l - 1) + 7, 8 * (l - 1)⟩ else ⟨.BB_IRQ_VECB, 8 * (l - 5) + 7, 8 * (l - 5)⟩

def setBit (m k : Nat) (b : Bool) : Nat := if b then m ||| 2 ^ k else m &&& (2 ^ 32 - 1 - 2 ^ k)

/-- A level recorded as asserted or released at the handler; with its release goes its method. -/
def Dev.setRxLevel (d : Dev) (p l : Nat) (b : Bool) : Dev :=
  let w := (d.reg .BB_IRQ_RX p 0).toNat
  d.setReg .BB_IRQ_RX p 0 (BitVec.ofNat 32 (if b then setBit w l true else setBit (setBit w l false) (7 + l) false))

/-- IAK for a level with its held vector (R153); nothing for a level not held or already acknowledged (R220). -/
def Dev.sendIak (d : Dev) (p l : Nat) : Dev :=
  let rx := (d.reg .BB_IRQ_RX p 0).toNat
  if 1 ≤ l && decide (l ≤ 7) && rx.testBit l && !(d.port p).iakSent.testBit l then
    let d := d.send p (.iak l (d.fld (vecField l) p))
    if rx.testBit (7 + l) then d.setRxLevel p l false
    else d.modPort p fun o => { o with iakSent := setBit o.iakSent l true }
  else d

/-- Messages pending in the array that may leave now, with the acknowledgements that wait for them (R220). -/
def Dev.flushPba (d : Dev) (x : Nat) : Dev :=
  (d.pbaPending x).foldl (fun d v =>
    if d.msixOpen x v then
      let d := (d.setPba x v false).msixOut x v
      let d := (d.modPend.filter fun e => e.2 == (x, v)).foldl (fun d e =>
        if d.modGap.any fun g => g.1 == e.1 then d else { d with modGap := d.modGap ++ [(e.1, false)] })
        { d with modPend := d.modPend.filter fun e => e.2 != (x, v) }
      let w := (d.px x).iakWait.filter fun e => e.1 == v
      let d := d.modPx x fun q => { q with iakWait := q.iakWait.filter fun e => e.1 != v }
      w.foldl (fun d e =>
        if d.fld (vecField e.2.2.1) e.2.1 == e.2.2.2 then d.sendIak e.2.1 e.2.2.1 else d) d
    else d) d

/-- What a port may send once it can issue again (R99): held requests, then pending messages. -/
def Dev.portResume (d : Dev) (x : Nat) : Dev := if d.canIssue x then (d.releaseHeld x).flushPba x else d

/-! Interrupter side (R221, R222) -/

/-- The first source pending for a port and level in the order of R221. -/
def Dev.firstPend (d : Dev) (p l : Nat) : Option (IrqEntry × Nat) :=
  (d.irqPend.filter fun e => e.2.1 == p && e.2.2.1 == l).foldl (fun best e =>
    match best with
    | none => some (e.1, e.2.2.2)
    | some b => if irqOrder e.1 < irqOrder b.1 then some (e.1, e.2.2.2) else some b) none

/-- BB_IRQ_TX.ASSERTED follows the levels held asserted. -/
def Dev.syncTx (d : Dev) (p : Nat) : Dev :=
  let m := (d.port p).asserted.foldl (fun m e => m ||| 2 ^ (e.1 - 1)) 0
  d.setFld BB_IRQ_TX.ASSERTED p 0 m

/-- IRQ ASSERT = 1 for a level, held from then on with the method of BB_IRQ_TX.ROAK (R153). -/
def Dev.assertIrq (d : Dev) (p l vec src : Nat) : Dev :=
  let roak := (d.fld BB_IRQ_TX.ROAK p).testBit (l - 1)
  let d := d.modPort p fun o => { o with asserted := (o.asserted.filter fun e => e.1 != l) ++ [(l, vec, src, roak)] }
  (d.send p (.irq true roak l vec)).syncTx p

/-- The level follows its first pending source while the port is ACTIVE (R221). -/
def Dev.syncLevel (d : Dev) (p l : Nat) : Dev :=
  if d.active? p then
    match d.firstPend p l with
    | none => d
    | some (e, vec) =>
      match (d.port p).asserted.find? fun a => a.1 == l with
      | some a => if irqOrder e < a.2.2.1 then d.assertIrq p l vec (irqOrder e) else d
      | none => d.assertIrq p l vec (irqOrder e)
  else d

/-- A level released: the source is delivered, the next one asserted. The release waits for a port in RETRAIN (R152). -/
def Dev.deliver (d : Dev) (p l : Nat) (sendRelease : Bool) : Dev :=
  match (d.port p).asserted.find? fun a => a.1 == l with
  | none => d
  | some a =>
    let d := { d with irqPend := d.irqPend.filter fun e => !(e.2.1 == p && e.2.2.1 == l && irqOrder e.1 == a.2.2.1) }
    let d := (d.modPort p fun o => { o with asserted := o.asserted.filter fun e => e.1 != l }).syncTx p
    let d := if sendRelease && (d.active? p || d.lstate p == lsRetrain) then d.send p (.irq false a.2.2.2 l a.2.1) else d
    d.syncLevel p l

/-- A source raises its interrupt (R219, R221, R223); `vec` is the vector received. -/
def Dev.irqRaise (d : Dev) (u : Nat) (e : IrqEntry) (vec : Nat) : Dev :=
  let (ctl, tgt) := d.irqWords u e
  if !ctl.getLsbD 31 then d
  else if ctl.getLsbD 30 then
    let p := bitsOf tgt 29 24
    let l := bitsOf tgt 18 16
    let d := if d.irqPend.any fun q => q.1 == e then d
      else { d with irqPend := d.irqPend ++ [(e, p, l, bitsOf tgt 7 0)] }
    d.syncLevel p l
  else
    let x := bitsOf tgt 22 20
    match e with
    | .bbin p l =>
      let v := bitsOf tgt 10 0 + (if bitsOf ctl 29 28 = 1 then vec else 0)
      let r := d.msix x v
      if !ctl.getLsbD 27 then r.2
      else if r.1 then r.2.sendIak p l
      else r.2.modPx x fun q => { q with iakWait := q.iakWait ++ [(v, p, l, vec)] }
    | _ =>
      if bitsOf ctl 15 0 = 0 then (d.msix x (bitsOf tgt 10 0)).2
      else if d.modGap.any fun g => g.1 == e then
        { d with modGap := d.modGap.map fun g => if g.1 == e then (e, true) else g }
      else
        let v := bitsOf tgt 10 0
        let r := d.msix x v
        if r.1 then { r.2 with modGap := r.2.modGap ++ [(e, false)] }
        else { r.2 with modPend := (r.2.modPend.filter fun q => q != (e, x, v)) ++ [(e, x, v)] }

/-- The end of an entry's MOD gap (R223): sources that arrived in it cause one message, which opens the next gap. -/
def Dev.modEnd (d : Dev) (u : Nat) (e : IrqEntry) : Dev :=
  match d.modGap.find? fun g => g.1 == e with
  | none => d
  | some g =>
    let d := { d with modGap := d.modGap.filter fun q => q.1 != e }
    if g.2 then d.irqRaise u e 0 else d

/-- IRQ received from the partner (R152, R219). -/
def Dev.rxIrq (d : Dev) (p : Nat) (assert_ roak : Bool) (l vec : Nat) : Dev :=
  if l = 0 then d.txnEvent BB_TXN_EVENT.PROTOCOL p
  else
    let held := (d.reg .BB_IRQ_RX p 0).getLsbD l
    if assert_ then
      let d := if held then d.txnEvent BB_TXN_EVENT.REASSERT p else d
      let w := setBit (setBit (d.reg .BB_IRQ_RX p 0).toNat l true) (7 + l) roak
      let d := (d.setReg .BB_IRQ_RX p 0 (BitVec.ofNat 32 w)).setFld (vecField l) p 0 vec
      let d := d.modPort p fun o => { o with iakSent := setBit o.iakSent l false }
      d.irqRaise (dieOf p) (.bbin p l) vec
    else if held then d.setRxLevel p l false
    else d

/-- IAK received from the partner (R152, R222). -/
def Dev.rxIak (d : Dev) (p l vec : Nat) : Dev :=
  if l = 0 then d.txnEvent BB_TXN_EVENT.PROTOCOL p
  else
    match (d.port p).asserted.find? fun a => a.1 == l with
    | none => d.txnEvent BB_TXN_EVENT.STALE_IAK p
    | some a =>
      if a.2.1 ≠ vec then d.txnEvent BB_TXN_EVENT.STALE_IAK p
      else if a.2.2.2 then d.deliver p l false
      else d

/-- IRQ_BBOUT_PEND as it reads (R222): level 7 carries no mapped source. -/
def Dev.bbOutPend (d : Dev) (p l : Nat) : Word :=
  match (d.port p).asserted.find? fun a => a.1 == l with
  | none => 0
  | some a =>
    if a.2.2.1 = 0 then 0
    else
      let ring := decide (65 ≤ a.2.2.1)
      BitVec.ofNat 32 (2 ^ 31 + (if a.2.2.2 then 2 ^ 30 else 0) + (if ring then 2 ^ 26 else 0) +
        (if ring then a.2.2.1 - 65 else a.2.2.1 - 1) * 65536 + a.2.1)

/-- A read that covers byte 3 of IRQ_BBOUT_PEND delivers a source that releases on register access (R222). -/
def Dev.bbOutRead (d : Dev) (p l : Nat) : Dev :=
  match (d.port p).asserted.find? fun a => a.1 == l with
  | none => d
  | some a => if a.2.2.1 = 0 || a.2.2.2 then d else d.deliver p l true

/-- The port is ACTIVE again after going down: every level still held is asserted again (R152), then pending sources (R222). -/
def Dev.irqPortUp (d : Dev) (p : Nat) (fresh : Bool) : Dev :=
  let d := if fresh then (d.port p).asserted.foldl (fun d a => d.send p (.irq true a.2.2.2 a.1 a.2.1)) d else d
  (List.range' 1 6).foldl (fun d l => d.syncLevel p l) d

/-- The port goes down: the handler takes every level as released (R152). -/
def Dev.irqPortDown (d : Dev) (p : Nat) : Dev :=
  (d.setReg .BB_IRQ_RX p 0 0).modPort p fun o => { o with iakSent := 0 }

/-! The non-maskable event (R224, R225) -/

/-- The event on one die: vector 0 on its port, level 7 on its ACTIVE ports that do not hold it yet. -/
def Dev.nmiLocal (d : Dev) (x : Nat) : Dev :=
  let d := (d.msix x 0).2
  (List.range' (8 * x) 8).foldl (fun d p =>
    if d.active? p && !((d.port p).asserted.any fun a => a.1 == 7) then
      d.assertIrq p 7 (d.fld IRQ_NMI_CTL.VECTOR x) 0 else d) d

/-- A non-maskable event detected on a die, with its cause bit of IRQ_NMI_CAUSE. -/
def Dev.nmi (d : Dev) (x : Nat) (cause : Fld) : Dev :=
  let d := (d.setFld IRQ_NMI_CAUSE.PEND 0 0 1).setFld cause 0 0 1
  let d := d.setFld IRQ_NMI_CAUSE.DIE 0 0 (d.fld IRQ_NMI_CAUSE.DIE ||| 2 ^ x)
  let d := d.raise x evNmi ⟨.IRQ_NMI_CAUSE, 0, 0⟩ cause.lo x
  (d.nmiLocal x).emit (.nmi x)

/-- A read that covers byte 3 of IRQ_NMI_CAUSE releases level 7 under the register-access method (R225). -/
def Dev.nmiRelease (d : Dev) : Dev :=
  d.livePorts.foldl (fun d p =>
    match (d.port p).asserted.find? fun a => a.1 == 7 && !a.2.2.2 with
    | some _ => d.deliver p 7 true
    | none => d) d

/-! The event queue (R232, R234) -/

/-- Entries of the host ring: 2^(SIZE + 6), SIZE above 10 acting as 10. -/
def Dev.evqSize (d : Dev) (h : Nat) : Nat := 2 ^ (min (d.fld EVQ_CTL.SIZE h) 10 + 6)

/-- Is the host ring full (R234)? -/
def Dev.evqFull (d : Dev) (h : Nat) : Bool :=
  (d.fld EVQ_HOST_WR.WR + 65536 - d.fld EVQ_HOST_RD.RD) % 65536 == min (d.evqSize h) 65535

/-- The home of the event queue: the lead's die (R33). -/
def Dev.evqHome (d : Dev) : Nat := d.lead.lead

/-- The next entry on its way to the host ring: words 1 to 3 first, word 0 after them (R234, R449). -/
def Dev.evqPump (d : Dev) : Dev :=
  let h := d.evqHome
  if d.flag EVQ_CTL.HOST h && !d.evqIssued && !d.evqFull h then
    match d.evq.items with
    | [] => d
    | it :: _ =>
      let base := d.pair .EVQ_HOST_BASE_LO .EVQ_HOST_BASE_HI h 0 / 4096 * 4096
      let slot := base + 16 * (d.fld EVQ_HOST_WR.WR % d.evqSize h)
      let x := d.fld EVQ_CTL.HOST_DIE h
      let (i, d) := d.fresh
      let (j, d) := d.fresh
      let d := { d with evqIssued := true }
      let d := d.hostFrom d.evqHome
        { id := i, die := x, kind := .write, addr := slot + 4, len := 12, data := bytesOfWords (it.drop 1), book := true, who := .evqBody }
      d.hostFrom d.evqHome
        { id := j, die := x, kind := .write, addr := slot, len := 4, data := bytesOfWords (it.take 1), book := true, who := .evq }
  else d

/-- The writes of an entry that its port still holds are taken back: HOST turned 0, or the queue was emptied (R234, R266). -/
def Dev.evqWithdraw (d : Dev) : Dev :=
  { d.dropWaiting (fun w => w == .evq || w == .evqBody) with evqIssued := false }

/-- An entry of the host ring has been issued: EVQ_HOST_WR advances and the next entry goes (R234). -/
def Dev.evqWritten (d : Dev) : Dev :=
  if !d.evqIssued then d else
  let d := { d with evq := (d.evq.pop 4096).2, evqIssued := false }
  (d.setFld EVQ_HOST_WR.WR 0 0 ((d.fld EVQ_HOST_WR.WR + 1) % 65536)).evqPump

/-- Up to `n` further words of the item being written (R254): with its end mark the item becomes visible and counts in PUSHED; words of an
item whose first words a flush or reset took are dropped, and counted by the second result (R266). -/
def QState.goOn (cap n : Nat) (s : QState) : QState × Nat :=
  let ws := s.todo.take n
  let rest := s.todo.drop n
  if s.skip then ({ s with todo := rest, skip := !rest.isEmpty }, ws.length)
  else
    let s := { s with todo := rest, wr := ptrAdd cap ws.length s.wr }
    if rest.isEmpty && !ws.isEmpty then ({ s with items := s.items ++ [s.part ++ ws], part := [], pushed := (s.pushed + 1) % 65536 }, 0)
    else ({ s with part := s.part ++ ws }, 0)

/-- Further words of the entry that the home is writing. -/
def Dev.evqGoOn (d : Dev) (n : Nat) : Dev :=
  let r := d.evq.goOn 4096 n
  (({ d with evq := r.1 } : Dev).bumpBy DIE_Q_STAT.FLUSH_DROPS d.evqHome 63 r.2).evqPump

/-- An event reaches its home (R232): SEQ given, entry kept or dropped, class interrupt raised. The first `n` words of the entry are written in
this step (R254). See log entries 11 and 52. -/
def Dev.eventTake (d : Dev) (x n : Nat) : Dev :=
  let q := (d.queue x 62).pop 1024
  match q.1 with
  | none => d
  | some it =>
    let d := d.modQueue x 62 fun _ => q.2
    let w0 := (it.headD 0).toNat
    let entry := BitVec.ofNat 32 (w0 + d.evqSeq) :: it.drop 1
    let d := { d with evqSeq := (d.evqSeq + 1) % 65536 }
    let d := if d.evq.credits 4096 < entry.length then d.bump EVQ_STAT.LOST
      else if entry.length ≤ n ∨ 4096 < d.evq.used + entry.length then { d with evq := d.evq.write 4096 entry }
      else { d with evq := (QState.goOn 4096 n { d.evq with todo := entry }).1 }
    (d.irqRaise d.evqHome (.cls (w0 / 2 ^ 22 % 64)) 0).evqPump

/-- The queue that the registers of a die show under a number, changed: queue 63 is the event queue at its home (R259). -/
def Dev.modSeen (d : Dev) (x q : Nat) (f : QState → QState) : Dev :=
  if q = 63 ∧ x = d.evqHome then { d with evq := f d.evq } else d.modQueue x q f

/-- EVENT_ARRIVE (R232, R254, R264): `upset` names a queue (die, number) whose producers a fault has given that many credits too many just
before; then the home goes on with the entry it is writing, or takes the next event of a die. See log entry 52. -/
def Dev.eventArrive (d : Dev) (x n : Nat) (upset : Option (Nat × Nat × Nat)) : Dev :=
  let d := match upset with
    | some (y, q, k) => d.modSeen y q fun s => { s with extra := s.extra + k }
    | none => d
  if d.evq.todo.isEmpty then d.eventTake x n else d.evqGoOn n

/-- A word read through EVQ_READ (R234): the idle item while empty or while HOST = 1. -/
def Dev.evqRead (d : Dev) : Word × Dev :=
  if d.flag EVQ_CTL.HOST d.evqHome then (0, d)
  else let r := d.evq.readWord 4096; (r.1, { d with evq := r.2 })

/-- A write of EVQ_HOST_RD (R234): a value outside the bound takes EVQ_HOST_WR. -/
def Dev.evqRdWrite (d : Dev) (v : Nat) : Dev :=
  let wr := d.fld EVQ_HOST_WR.WR
  let rd := v % 65536
  let rd := if min (d.evqSize d.evqHome) 65535 < (wr + 65536 - rd) % 65536 then wr else rd
  (d.setFld EVQ_HOST_RD.RD 0 0 rd).evqPump

end Sys2Proof.Machine
end

