-- ==== Sys2Proof/Machine/Prot.lean ====
section
/-!
DEFINITION. Protection units (spec/09): the decision on an access, its parts, the violation record, pending and active copies.
-/

namespace Sys2Proof.Machine

/-- Address kinds of R235, by their code in PROT_RGN_BASE_LO. -/
inductive PKind where
  | ctrl | doorbell | aperture | host | bb
  deriving DecidableEq, Repr

def PKind.code : PKind → Nat
  | .ctrl => 0
  | .doorbell => 1
  | .aperture => 2
  | .host => 3
  | .bb => 4

/-- Address bits of a kind (R238). -/
def PKind.width : PKind → Nat
  | .ctrl => 27
  | .doorbell => 22
  | .aperture => 40
  | .host => 64
  | .bb => 48

/-- What a unit is asked (R239, R240): `access` is the code of PROT_VIO_INFO.ACCESS. -/
structure ProtReq where
  u : Nat
  kind : PKind
  addr : Nat
  len : Nat
  space : Nat := 0
  port : Nat := 0
  sup : Bool
  access : Nat
  pasid : Option Nat := none
  rid : Nat := 0
  deriving DecidableEq, Repr

/-- The active copy of a protection register on a die (R248): a P field too, on EZ2 and EZ4 the vote of its three copies (R73). -/
def Dev.actv (d : Dev) (r : RegId) (x i : Nat) : Word :=
  let l : Loc := ⟨r, x, i⟩
  let w := d.active.get r.resetWord l.key
  match d.activeUpsets.get none l.key with
  | none => w
  | some (b, c) => (w &&& ~~~ r.pMask) ||| (majority w b c &&& r.pMask)

/-- An active word put in place; a write sets all three copies (R73). -/
def Dev.putActv (d : Dev) (l : Loc) (w : Word) : Dev :=
  { d with active := d.active.set l.reg.resetWord l.key w, activeUpsets := d.activeUpsets.set none l.key none }

/-- Does region `i` (set × 32 + number) match the byte at an address (R238)? A region that sets an address bit above the width of its kind
matches nothing; its BASE lies below its LIMIT. -/
def Dev.rgnMatch (d : Dev) (x i : Nat) (q : ProtReq) (a : Nat) : Bool :=
  let b := d.actv .PROT_RGN_BASE_LO x i
  let l := d.actv .PROT_RGN_LIMIT_LO x i
  let base := bitsOf b 31 12 * 4096 + 2 ^ 32 * (d.actv .PROT_RGN_BASE_HI x i).toNat
  let lim := bitsOf l 31 12 * 4096 + 4095 + 2 ^ 32 * (d.actv .PROT_RGN_LIMIT_HI x i).toNat
  b.getLsbD 11 && bitsOf b 10 8 == q.kind.code && decide (lim < 2 ^ q.kind.width) && decide (base ≤ a) && decide (a ≤ lim) &&
    (q.kind != .bb || ((bitsOf b 7 6 == q.space || l.getLsbD 10) && (bitsOf b 5 0 == q.port || l.getLsbD 11)))

/-- Permission bits R, W, X that an access needs, high to low (R240). -/
def needOf (access : Nat) : Nat :=
  match access with
  | 0 => 4
  | 1 => 2
  | 2 => 1
  | _ => 6

/-- Decision on one byte: allowed or not, and the region that decided it (R241, R245). -/
def Dev.protByte (d : Dev) (q : ProtReq) (a : Nat) : Bool × Option Nat :=
  let x := q.u / 32
  let set := bitsOf (d.actv .PROT_BIND x q.u) 5 0
  let need := needOf q.access
  match (List.range 32).find? fun r => d.rgnMatch x (set * 32 + r) q a with
  | some r =>
    let l := d.actv .PROT_RGN_LIMIT_LO x (set * 32 + r)
    let perm := if q.sup then bitsOf l 5 3 else bitsOf l 2 0
    (perm &&& need == need, some r)
  | none =>
    let i := q.u % 32
    if 1 ≤ i ∧ i ≤ 8 then (true, none)
    else if q.sup then
      let w := d.actv .PROT_DEFAULT x 0
      let perm := match q.kind with
        | .ctrl => bitsOf w 2 0
        | .doorbell => bitsOf w 5 3
        | .aperture => bitsOf w 8 6
        | .host => bitsOf w 11 9
        | .bb => bitsOf w 14 12
      (perm &&& need == need, none)
    else (false, none)

/-- The access cut where a region can begin or end: (offset, length) pieces of one 4 KiB page each (R238, R242). -/
def pagePieces : Nat → Nat → Nat → Nat → List (Nat × Nat)
  | 0, _, _, _ => []
  | k + 1, addr, off, len =>
    if len = 0 then []
    else
      let n := min len (4096 - (addr + off) % 4096)
      (off, n) :: pagePieces k addr (off + n) (len - n)

/-- Neighbouring ranges joined. -/
def joinRanges : List (Nat × Nat) → List (Nat × Nat)
  | [] => []
  | (o, n) :: r =>
    match joinRanges r with
    | (o', n') :: r' => if o + n = o' then (o, n + n') :: r' else (o, n) :: (o', n') :: r'
    | [] => [(o, n)]

/-- The answer of a unit: the allowed ranges (offset, length), whether any byte is denied, whether all are. -/
structure ProtAns where
  parts : List (Nat × Nat)
  denied : Bool
  whole : Bool
  deriving DecidableEq, Repr

/-- Current epoch of a die (R249). See log entry 31. -/
def Dev.epoch (d : Dev) (x : Nat) : Nat := d.fld PROT_EPOCH.EPOCH x

/-- A violation recorded by a unit (R246): the first one held, later ones counted in MORE. See log entry 31. -/
def Dev.protRecord (d : Dev) (q : ProtReq) (addr deniedLen : Nat) (region : Option Nat) : Dev :=
  if d.flag PROT_VIO_INFO.VALID 0 q.u then d.bump PROT_VIO_INFO.MORE 0 q.u
  else
    let x := q.u / 32
    let set := bitsOf (d.actv .PROT_BIND x q.u) 5 0
    let info := 2 ^ 31 + q.access * 2 ^ 28 + (if q.sup then 2 ^ 27 else 0) + (if region.isNone then 2 ^ 26 else 0) +
      q.kind.code * 2 ^ 23 + region.getD 0 * 2 ^ 18 + set * 2 ^ 12
    let w := BitVec.ofNat 32
    let d := d.setReg .PROT_VIO_INFO 0 q.u (w info)
    let d := d.setPair .PROT_VIO_ADDR_LO .PROT_VIO_ADDR_HI 0 q.u addr
    let d := d.setReg .PROT_VIO_DETAIL 0 q.u (w (q.pasid.getD 0 % 2 ^ 20 * 4096 + (if q.kind = .bb then q.port * 64 + q.space * 16 else 0) +
      (if q.pasid.isSome then 8 else 0)))
    let d := d.setReg .PROT_VIO_REQ 0 q.u (w (q.rid * 65536 + d.epoch x))
    let d := d.setReg .PROT_VIO_LEN 0 q.u (w (q.len % 2 ^ 17))
    let d := d.setReg .PROT_VIO_DENIED 0 q.u (w (deniedLen % 2 ^ 17))
    d.raise x evProt ⟨.PROT_VIO_INFO, 0, q.u⟩ 31 q.u

/-- The check of R245. See log entry 31. -/
def Dev.protCheck (d : Dev) (q : ProtReq) : ProtAns × Dev :=
  let pieces := (pagePieces (q.len / 4096 + 2) q.addr 0 q.len).map fun p => (p, d.protByte q (q.addr + p.1))
  let ok := pieces.filter fun p => p.2.1
  let bad := pieces.filter fun p => !p.2.1
  let parts := joinRanges (ok.map (·.1))
  match bad with
  | [] => (⟨parts, false, false⟩, d)
  | b :: _ =>
    let n := bad.foldl (fun s p => s + p.1.2) 0
    (⟨parts, true, ok.isEmpty⟩, d.protRecord q (q.addr + b.1.1) n b.2.2)

/-- Privilege and execute marking of a request received on a port (R100): supervisor data without PASID or while it is disabled. -/
def Dev.pcieMarks (d : Dev) (s : Src) : Bool × Bool :=
  match s.pasid with
  | some _ => if d.pasidEnable (srcDie s) then (s.pmr, s.er) else (true, false)
  | none => (true, false)

/-- What the unit of a PCI Express port or of a management controller is asked about a control, doorbell or aperture access
(R235, R239). `rw` is 0 read, 1 write, 3 AtomicOp. See log entry 31. -/
def Dev.srcReq (d : Dev) (s : Src) (kind : PKind) (off len rw : Nat) : ProtReq :=
  if s.path < 8 then
    let m := d.pcieMarks s
    { u := 32 * s.path, kind := kind, addr := off, len := len, sup := m.1, access := if rw = 0 && m.2 then 2 else rw,
      pasid := if d.pasidEnable s.path then s.pasid else none, rid := s.rid }
  else { u := 32 * (s.path - 8) + 25, kind := kind, addr := off, len := len, sup := true, access := if rw = 0 && s.er then 2 else rw }

/-- Host requests that the ports of the package still hold or await. -/
def Dev.hostReqs (d : Dev) : List HostReq :=
  d.dies.flatMap fun y => (d.px y).waitTag ++ (d.px y).heldReq ++ (d.px y).unrouted ++ (d.px y).issued.map (·.req)

/-- Is any access checked under another epoch than the current one held on a die (R251)? -/
def Dev.oldEpoch (d : Dev) (x : Nat) : Bool :=
  let e := d.epoch x
  let old (w : Work) : Bool := w.epoch != e && (match w.job with
    | .read as => as.any fun a => a.die == x
    | .write as => as.any fun a => a.die == x
    | .atomic a .. => a.die == x
    | .mover r _ _ => d.fld RING_CTL.HOME_DIE x r == x)
  (d.livePorts.any fun p =>
    let o := d.port p
    o.works.any old || (o.runs.any fun r => r.accs.any fun a => a.die == x && a.epoch != e) ||
    (dieOf p == x && ((o.inOpen.any fun t => t.epoch != e) || (o.inEarly.any fun t => t.epoch != e)))) ||
  ((d.tc x).reads.any fun r => r.accs.any fun a => a.epoch != e) ||
  (d.hostReqs.any fun r => r.chk.any fun c => c.1 == x && c.2 != e) ||
  (d.heldCfg.any fun h => h.chk.any fun c => c.1 == x && c.2 != e) ||
  ((d.heldReads ++ d.mails.flatMap fun m => m.2.reads).any fun r => r.src.path < 16 && srcDie r.src == x && r.epoch != e) ||
  (d.rings.any fun g => d.fld RING_CTL.HOME_DIE x g.1.a == x && g.2.runs.any fun y => y.blks.any fun b => b.epoch != e)

/-- Is any access translated before the latest switch still in flight on a die (R191)? -/
def Dev.oldSwitch (d : Dev) (x : Nat) : Bool :=
  let k := (d.tc x).switches
  let old (a : Acc) : Bool := a.die == x && a.sw != k
  (d.livePorts.any fun p =>
    let o := d.port p
    (o.works.any fun w => match w.job with
      | .read as => as.any old
      | .write as => as.any old
      | .atomic a .. => old a
      | .mover .. => false) ||
    (o.runs.any fun r => r.accs.any old) ||
    (dieOf p == x && ((o.inOpen.any fun t => t.sw != k) || (o.inEarly.any fun t => t.sw != k)))) ||
  ((d.tc x).reads.any fun r => r.accs.any old) || (d.hostReqs.any fun r => r.sw.any fun c => c.1 == x && c.2 != k)

/-- The pending words of the protection registers that a commit copies, as locations of a die (R248, R249). -/
def isProtReg : RegId → Bool
  | .PROT_DEFAULT | .PROT_BIND | .PROT_RGN_BASE_LO | .PROT_RGN_BASE_HI | .PROT_RGN_LIMIT_LO | .PROT_RGN_LIMIT_HI => true
  | _ => false

/-- Keys of the protection registers of a die's replica. -/
def protKey (x : Nat) (k : Key) : Bool :=
  k.b == x && (k.a == RegId.PROT_DEFAULT.ctorIdx || k.a == RegId.PROT_BIND.ctorIdx || k.a == RegId.PROT_RGN_BASE_LO.ctorIdx ||
    k.a == RegId.PROT_RGN_BASE_HI.ctorIdx || k.a == RegId.PROT_RGN_LIMIT_LO.ctorIdx || k.a == RegId.PROT_RGN_LIMIT_HI.ctorIdx)

/-- Entries of one store put in place of the entries of another where a key is chosen. -/
def Store.graft {V : Type} (sel : Key → Bool) (src dst : Store V) : Store V :=
  (src.filter fun e => sel e.1).foldl (fun m e => Store.insert e.1 e.2 m) (dst.filter fun e => !sel e.1)

/-- The register words of a die's protection rules as votes give them (R73). -/
def Dev.votedProt (d : Dev) (x : Nat) : Store Word :=
  d.upsets.foldl (fun m e =>
    match [RegId.PROT_DEFAULT, .PROT_BIND, .PROT_RGN_BASE_LO, .PROT_RGN_BASE_HI, .PROT_RGN_LIMIT_LO, .PROT_RGN_LIMIT_HI].find? fun r =>
        r.ctorIdx == e.1.a with
    | some r => if protKey x e.1 then m.set r.resetWord e.1 (d.at ⟨r, e.1.b, e.1.c⟩) else m
    | none => m) d.regs

/-- The active words of a die as votes give them. -/
def Dev.votedActive (d : Dev) (x : Nat) : Store Word :=
  d.activeUpsets.foldl (fun m e =>
    match [RegId.PROT_DEFAULT, .PROT_BIND, .PROT_RGN_BASE_LO, .PROT_RGN_BASE_HI, .PROT_RGN_LIMIT_LO, .PROT_RGN_LIMIT_HI].find? fun r =>
        r.ctorIdx == e.1.a with
    | some r => if protKey x e.1 then m.set r.resetWord e.1 (d.actv r e.1.b e.1.c) else m
    | none => m) d.active

/-- COMMIT on one die (R249). -/
def Dev.protCommit (d : Dev) (x : Nat) : Dev :=
  let d := { d with active := Store.graft (protKey x) (d.votedProt x) d.active, activeUpsets := d.activeUpsets.filter fun e => !protKey x e.1 }
  (d.setFld PROT_EPOCH.EPOCH x 0 ((d.epoch x + 1) % 65536)).setFld PROT_CTL.DIRTY x 0 0

/-- DISCARD on one die (R249). -/
def Dev.protDiscard (d : Dev) (x : Nat) : Dev :=
  ({ d with regs := Store.graft (protKey x) (d.votedActive x) d.regs, upsets := d.upsets.filter fun e => !protKey x e.1 }).setFld
    PROT_CTL.DIRTY x 0 0

end Sys2Proof.Machine
end

