-- ==== Sys2Proof/Machine/Operands.lean ====
section
/-!
DEFINITION. Operand forms: windows and their snapshots, byte order, courses and burst shapes, the bytes of an access on both buses
(spec/06).
-/

namespace Sys2Proof.Machine

/-! Window registers (R162) -/

/-- A register of a window in its direction, named by the outbound one. -/
def winReg (inb : Bool) (r : RegId) : RegId :=
  if inb then
    match r with
    | .WIN_O_CTL => .WIN_I_CTL
    | .WIN_O_PF => .WIN_I_PF
    | .WIN_O_BASE_LO => .WIN_I_BASE_LO
    | .WIN_O_BASE_HI => .WIN_I_BASE_HI
    | .WIN_O_LIMIT_LO => .WIN_I_LIMIT_LO
    | .WIN_O_LIMIT_HI => .WIN_I_LIMIT_HI
    | .WIN_O_TARGET_LO => .WIN_I_TARGET_LO
    | .WIN_O_TARGET_HI => .WIN_I_TARGET_HI
    | .WIN_O_PTA_LO => .WIN_I_PTA_LO
    | .WIN_O_PTA_HI => .WIN_I_PTA_HI
    | .WIN_O_PTB_LO => .WIN_I_PTB_LO
    | .WIN_O_PTB_HI => .WIN_I_PTB_HI
    | .WIN_O_ROUTE => .WIN_I_ROUTE
    | .WIN_O_STAT => .WIN_I_STAT
    | r => r
  else r

/-- A snapshot of a window from a die's replica (R167). -/
def Dev.window (d : Dev) (x : Nat) (inb : Bool) (w : Nat) : Win :=
  let rd (r : RegId) : Word := d.reg (winReg inb r) x w
  let pr (a b : RegId) : Nat := (rd a).toNat / 4096 * 4096 + 2 ^ 32 * (rd b).toNat
  { inb := inb, num := w, ctl := rd .WIN_O_CTL, pf := rd .WIN_O_PF,
    base := pr .WIN_O_BASE_LO .WIN_O_BASE_HI, limit := pr .WIN_O_LIMIT_LO .WIN_O_LIMIT_HI + 4095,
    target := pr .WIN_O_TARGET_LO .WIN_O_TARGET_HI, pta := pr .WIN_O_PTA_LO .WIN_O_PTA_HI, ptb := pr .WIN_O_PTB_LO .WIN_O_PTB_HI,
    route := rd .WIN_O_ROUTE }

def Win.en (w : Win) : Bool := w.ctl.getLsbD 31
def Win.ptSel (w : Win) : Bool := w.ctl.getLsbD 30
def Win.order (w : Win) : Nat := bitsOf w.ctl 29 28
def Win.memory (w : Win) : Bool := w.ctl.getLsbD 27
def Win.course (w : Win) : Nat := 2 ^ bitsOf w.ctl 26 25
def Win.posted (w : Win) : Bool := w.ctl.getLsbD 24
def Win.prefetch (w : Win) : Bool := w.ctl.getLsbD 23
def Win.sideEffect (w : Win) : Bool := w.ctl.getLsbD 22
def Win.paged (w : Win) : Bool := w.ctl.getLsbD 21
def Win.lock (w : Win) : Option Nat := if w.ctl.getLsbD 20 then some (bitsOf w.ctl 19 14) else none
def Win.space (w : Win) : Nat := bitsOf w.ctl 13 12
/-- Address modifier sent by an outbound window (R135). -/
def Win.am (w : Win) : Nat := bitsOf w.ctl 13 12 * 64 + bitsOf w.ctl 11 11 * 32 + bitsOf w.ctl 10 10 * 16
def Win.pfUnit (w : Win) : Nat := 4096 * 2 ^ min (bitsOf w.pf 27 24) 4
def Win.wcHold (w : Win) : Nat := bitsOf w.pf 15 8
/-- Outbound: the port; inbound: the die of the host port (R98). -/
def Win.routePort (w : Win) : Nat := bitsOf w.route 29 24
def Win.hostDie (w : Win) : Nat := bitsOf w.route 26 24
def Win.ptDie (w : Win) : Nat := bitsOf w.route 18 16
def Win.group (w : Win) : Nat := bitsOf w.route 15 8

/-- Numbers of the windows of a direction whose CTL differs from reset on a die: every enabled window is among them. -/
def Dev.winCands (d : Dev) (x : Nat) (inb : Bool) : List Nat :=
  let c := (winReg inb .WIN_O_CTL).ctorIdx
  (d.regs.filterMap fun e => if e.1.a == c && e.1.b == x then some e.1.c else none) ++
  (d.upsets.filterMap fun e => if e.1.a == c && e.1.b == x then some e.1.c else none)

/-- The lowest number of a list that satisfies `f`. -/
def lowest (f : Nat → Bool) (l : List Nat) : Option Nat :=
  l.foldl (fun b w => if f w then (match b with | some v => some (min v w) | none => some w) else b) none

/-- The outbound window of a request to BAR4 offsets `off` to `off + len - 1` (R163). -/
def Dev.matchOut (d : Dev) (x off len : Nat) : Option Win :=
  (lowest (fun w => let v := d.window x false w; v.en && decide (v.base ≤ off) && decide (off + len - 1 ≤ v.limit))
    (d.winCands x false)).map (d.window x false)

/-- The inbound window of a Body Bus access (R164). -/
def Dev.matchIn (d : Dev) (port space addr len : Nat) : Option Win :=
  let x := dieOf port
  (lowest (fun w =>
    let v := d.window x true w
    let ports := d.pair .WIN_I_PORTS_LO .WIN_I_PORTS_HI x w
    v.en && v.space == space && ports.testBit port && decide (v.base ≤ addr) && decide (addr + len - 1 ≤ v.limit))
    (d.winCands x true)).map (d.window x true)

/-- Is a window in the mire state (R203)? -/
def Dev.mired (d : Dev) (inb : Bool) (w : Nat) : Bool := (d.reg (winReg inb .WIN_O_STAT) 0 w).getLsbD 31

/-- The states of R165 in which a window cannot be enabled. -/
def Dev.winInvalid (d : Dev) (x : Nat) (inb : Bool) (w : Nat) : Bool :=
  let v := d.window x inb w
  decide (v.limit < v.base) ||
  (!inb && decide (2 ^ 40 ≤ v.limit)) ||
  (v.paged && (v.base % 2 ^ 21 != 0 || (v.limit + 1) % 2 ^ 21 != 0)) ||
  (v.memory && (v.space == 0 || v.space == 3)) ||
  (inb && d.pair .WIN_I_PORTS_LO .WIN_I_PORTS_HI x w == 0) ||
  (if inb then decide (d.n ≤ v.hostDie) else decide (8 * d.n ≤ v.routePort)) || decide (d.n ≤ v.ptDie)

/-! Byte order (R173) -/

/-- Bytes of a swap unit. -/
def unitOf (order : Nat) : Nat := 2 ^ order

/-- The address on the other bus of the byte at an address, under ORDER. -/
def swapAddr (order a : Nat) : Nat := a ^^^ (unitOf order - 1)

/-- Address that a naturally aligned access of `s` bytes at `a` maps to: again naturally aligned (R173). -/
def swapSpan (order a s : Nat) : Nat := swapAddr order a / s * s

/-! Courses (R174) and shapes (R175, R178) -/

/-- Size of the course at address `a` with `r` bytes left, none wider than `c` (R174). -/
def courseSize (c a r : Nat) : Nat :=
  if 8 ≤ c ∧ 8 ≤ r ∧ a % 8 = 0 then 8
  else if 4 ≤ c ∧ 4 ≤ r ∧ a % 4 = 0 then 4
  else if 2 ≤ c ∧ 2 ≤ r ∧ a % 2 = 0 then 2
  else 1

/-- Courses of a run of bytes: (address, size), ascending. -/
def coursesOf (c : Nat) : Nat → Nat → Nat → List (Nat × Nat)
  | 0, _, _ => []
  | k + 1, a, r => if r = 0 then [] else let s := courseSize c a r; (a, s) :: coursesOf c k (a + s) (r - s)

/-- Runs of consecutive addresses in an ascending list: (first, length). -/
def runsOf : List Nat → List (Nat × Nat)
  | [] => []
  | a :: r =>
    match runsOf r with
    | (b, n) :: r' => if a + 1 = b then (a, n + 1) :: r' else (a, 1) :: (b, n) :: r'
    | [] => [(a, 1)]

/-- A number put into an ascending list. -/
def insertNat (a : Nat) : List Nat → List Nat
  | [] => [a]
  | b :: r => if a ≤ b then a :: b :: r else b :: insertNat a r

/-- A list of numbers in ascending order. -/
def sortNat (l : List Nat) : List Nat := l.foldr insertNat []

/-- Blocks of a beat-aligned range, split at 64 KiB boundaries (R178). -/
def blocksOf : Nat → Nat → Nat → List (Nat × Nat)
  | 0, _, _ => []
  | k + 1, a, r => if r = 0 then [] else let s := min r (65536 - a % 65536); (a, s) :: blocksOf k (a + s) (r - s)

/-- Head, body and tail of a far run (R178), each with whether it is a block. -/
def cutRun (c a len : Nat) : List (Nat × Nat × Bool) :=
  let lo := (a + 7) / 8 * 8
  let hi := (a + len) / 8 * 8
  if hi ≤ lo then (coursesOf c len a len).map fun p => (p.1, p.2, false)
  else
    ((coursesOf c 8 a (lo - a)).map fun p => (p.1, p.2, false)) ++
    ((blocksOf (len / 65536 + 2) lo (hi - lo)).map fun p => (p.1, p.2, true)) ++
    ((coursesOf c 8 hi (a + len - hi)).map fun p => (p.1, p.2, false))

/-- Far addresses of the enabled bytes of an access: (far, near index). -/
def farBytes (order far : Nat) (en : List Bool) : List (Nat × Nat) :=
  (indexed en).filterMap fun e => if e.2 then some (swapAddr order (far + e.1), e.1) else none

/-- Transactions of a far range of a MEMORY-class window, or of the courses of a REGISTER-class one: (address, length, block),
ascending in far address (R174, R175, R178). `near` is the near address of the first byte. -/
def shapesOf (w : Win) (near far : Nat) (en : List Bool) (isRead : Bool) : List (Nat × Nat × Bool) :=
  let fb := farBytes w.order far en
  if w.memory then
    let as := sortNat (fb.map (·.1))
    if isRead && !w.sideEffect then
      match as with
      | [] => []
      | a :: _ => cutRun w.course a (as.getLastD a + 1 - a)
    else (runsOf as).flatMap fun r => cutRun w.course r.1 r.2
  else
    let runs := runsOf ((indexed en).filterMap fun e => if e.2 then some (near + e.1) else none)
    let cs := runs.flatMap fun r => coursesOf w.course r.2 r.1 r.2
    let fars := cs.map fun c => (swapSpan w.order (far + (c.1 - near)) c.2, c.2)
    (sortNat (fars.map (·.1))).filterMap fun a => (fars.find? fun f => f.1 == a).map fun f => (a, f.2, false)

/-- The byte that a list of far bytes holds at an address. -/
def byteAt (l : List (Nat × Byte)) (a : Nat) : Byte := ((l.find? fun e => e.1 == a).map (·.2)).getD 0

/-- Enabled bytes of an operation. -/
def enOf : AccOp → List Bool
  | .read en => en
  | .write bs => bs.map Option.isSome
  | .atomic _ size _ _ => List.replicate size true

/-- Far bytes of a write. -/
def writeBytes (order far : Nat) (bs : List (Option Byte)) : List (Nat × Byte) :=
  (indexed bs).filterMap fun e => e.2.map fun b => (swapAddr order (far + e.1), b)

/-- The transactions of a direct read or write. -/
def accCourses (a : Acc) : List Course :=
  match a.op with
  | .read en =>
    (shapesOf a.win a.off a.far en true).map fun s => ⟨if s.2.2 then .block else .single, false, s.1, s.2.1, []⟩
  | .write bs =>
    let m := writeBytes a.win.order a.far bs
    (shapesOf a.win a.off a.far (bs.map Option.isSome) false).map fun s =>
      ⟨if s.2.2 then .block else .single, true, s.1, s.2.1, (List.range s.2.1).map fun k => byteAt m (s.1 + k)⟩
  | .atomic .. => []

/-- Lowest and highest far byte of an access. -/
def farRange (a : Acc) : Nat × Nat :=
  match sortNat ((farBytes a.win.order a.far (enOf a.op)).map (·.1)) with
  | [] => (a.far, a.far)
  | lo :: r => (lo, r.getLastD lo)

/-- Data that a read returns: its enabled bytes by near address, 0 at the others. See log entry 26. -/
def readData (a : Acc) (got : List (Nat × Byte)) : List Byte :=
  (indexed (enOf a.op)).map fun e => if e.2 then byteAt got (swapAddr a.win.order (a.far + e.1)) else 0

/-- Near address of the byte at a far address of an access. -/
def nearOf (a : Acc) (far : Nat) : Nat := a.off + (swapAddr a.win.order far - a.far)

/-- Far address of the first byte of an access (R231). -/
def accFar (a : Acc) : Nat := swapAddr a.win.order a.far

/-- Of the bytes that a transaction of some accesses carries, the first on the near bus: near address, far address, its access (R205). -/
def firstOf (as : List Acc) (lo len : Nat) : Option (Nat × Nat × Acc) :=
  as.foldl (fun best a => (farBytes a.win.order a.far (enOf a.op)).foldl (fun best e =>
    if lo ≤ e.1 ∧ e.1 < lo + len then
      match best with
      | some b => if a.off + e.2 < b.1 then some (a.off + e.2, e.1, a) else best
      | none => some (a.off + e.2, e.1, a)
    else best) best) none

/-- The value an AtomicOp writes, or none for a CAS whose compare fails (R101). -/
def atomicNew (k : AtomicKind) (size old operand compare : Nat) : Option Nat :=
  match k with
  | .fetchAdd => some ((old + operand) % 256 ^ size)
  | .swap => some (operand % 256 ^ size)
  | .cas => if old = compare % 256 ^ size then some (operand % 256 ^ size) else none

/-! Page tables (R168, R170) -/

/-- Outcome of a lookup: the far address, a refusal (CAUSE 5, 6 or 7 of R202), or a line that is not cached. -/
inductive Xlate where
  | far (a : Nat)
  | refuse (cause : Nat)
  | miss (line : Nat)
  deriving DecidableEq, Repr

/-- The far address under a page entry (R168, R170). -/
def useEntry (w : Win) (rel entry : Nat) (write : Bool) : Xlate :=
  let page := entry / 2 ^ 21 * 2 ^ 21
  if entry % 2 = 0 ∨ (w.inb = false ∧ 2 ^ 48 ≤ page) then .refuse 6
  else if write ∧ entry / 2 % 2 = 1 then .refuse 7
  else .far (page + rel % 2 ^ 21)

/-- Is a line the one an access of a window wants? -/
def PageLine.isFor (l : PageLine) (w : Win) (line : Nat) : Bool :=
  l.inb == w.inb && l.win == w.num && l.tableB == w.ptSel && l.line == line

/-- Translation of an address of a window on a die (R168). The spec is silent on TARGET or PAGE plus rel beyond the far bus's 48 or 64 bits: the
sum is kept whole, and the packet or request carries its low bits (DESIGN CHOICE, log entry 26). -/
def Dev.translate (d : Dev) (x : Nat) (w : Win) (addr : Nat) (write : Bool) : Xlate :=
  let rel := addr - w.base
  if w.paged then
    let i := rel / 2 ^ 21
    match (d.tc x).lines.find? fun l => l.isFor w (i / 8) with
    | some l => useEntry w rel (l.entries.getD (i % 8) 0) write
    | none => .miss (i / 8)
  else .far (w.target + rel)

/-- A hit makes its line the most recently used (R171). -/
def Dev.touchLine (d : Dev) (x : Nat) (w : Win) (line : Nat) : Dev :=
  d.modTc x fun t =>
    let r := takeFirst (fun l : PageLine => l.isFor w line) t.lines
    match r.1 with
    | some l => { t with lines := l :: r.2 }
    | none => t

end Sys2Proof.Machine
end

