-- ==== Sys2Proof/Machine/Engine.lean ====
section
/-!
DEFINITION. The outbound engine of a tile (R27 to R29, R143 to R147, R193, R226 to R229): waiting work, arbitration, opening and ending
transactions, failures and the mire state, semaphores, prefetched data.
-/

namespace Sys2Proof.Machine

/-! Bonds and carriers as the engine sees them (R344, R347, R353) -/

def Dev.mate (d : Dev) (p : Nat) : Nat := d.fld TIL_BOND.MATE p

/-- Do the tile and its mate name each other (R344)? -/
def Dev.mutual (d : Dev) (p : Nat) : Bool :=
  d.flag TIL_BOND.EN p && d.flag TIL_BOND.EN (d.mate p) && d.mate (d.mate p) == p && d.mate p != p

/-- Is the tile's bond formed (BONDED or HALF) and not broken (R351)? -/
def Dev.bonded (d : Dev) (p : Nat) : Bool := 2 ≤ d.fld TIL_BOND.STATE p && d.mutual p

/-- The port whose lists hold the work of a port: the lower-numbered tile of a bond (R347). -/
def Dev.listOf (d : Dev) (p : Nat) : Nat := if d.bonded p then min p (d.mate p) else p

/-- Ports that may serve a list: both ports of a bond, the anchor's first. -/
def Dev.serving (d : Dev) (p : Nat) : List Nat := if d.bonded p then [min p (d.mate p), max p (d.mate p)] else [p]

/-- Lists a port may serve: its bond's and its own. -/
def Dev.listsFor (d : Dev) (p : Nat) : List Nat := if d.listOf p = p then [p] else [d.listOf p, p]

/-- The partner tile on the same die (R352). -/
def partnerTile (p : Nat) : Nat := if p % 2 = 0 then p + 1 else p - 1

/-- Is the tile SERVING? -/
def Dev.tileServing (d : Dev) (p : Nat) : Bool := d.fld TIL_SVC_STAT.STATE p == 0

/-- Does another tile carry the port (R353)? -/
def Dev.carried (d : Dev) (p : Nat) : Bool :=
  let s := d.fld TIL_SVC_STAT.STATE p
  (s == 2 || s == 3 || s == 5) && d.fld TIL_SVC_STAT.CARRIER p == partnerTile p && d.flag TIL_SVC_STAT.CARRYING (partnerTile p)

/-- The tile whose command chains and staging hold the work of a port: the one that carries it while it is evacuated, a bond's other tile or the
partner (R352, R354). -/
def Dev.chainTile (d : Dev) (p : Nat) : Nat :=
  if d.carried p then partnerTile p else if d.bonded p && !d.tileServing p then d.mate p else p

/-- The tiles whose outbound command chains hold the requests of a port: both tiles of a bond (R348). -/
def Dev.chainTiles (d : Dev) (p : Nat) : List Nat :=
  if d.bonded p && d.tileServing p && d.tileServing (d.mate p) then [p, d.mate p] else [d.chainTile p]

/-- Ports whose requests stand in the outbound command chain of a tile (R348, R353), and those whose accesses stand in its inbound chain. -/
def Dev.servedBy (d : Dev) (t : Nat) : List Nat := ([t, partnerTile t, d.mate t].eraseDups).filter fun p => (d.chainTiles p).contains t
def Dev.servedIn (d : Dev) (t : Nat) : List Nat := [t, partnerTile t].filter fun p => d.chainTile p == t

/-- Is there a tile in service that opens transactions on the port: its own while SERVING, or its carrier; on a die that serves? -/
def Dev.tileOpens (d : Dev) (p : Nat) : Bool :=
  d.fld DIE_SVC_STAT.STATE (dieOf p) == 0 && !d.flag CLK_STAT.HELD (dieOf p) && !d.asleep && (d.tileServing p || (d.carried p && d.tileServing (partnerTile p)))

/-- Does the tile that serves the port have a transaction of the other port it serves in progress (R353)? -/
def Dev.sharedBusy (d : Dev) (p : Nat) (outb : Bool) : Bool :=
  let q := partnerTile p
  (d.carried p || d.carried q) && (if outb then (d.port q).outOpen.isSome else (d.port q).inOpen.isSome)

/-! Accesses of a piece of work -/

def Job.accs : Job → List Acc
  | .read as => as
  | .write as => as
  | .atomic a _ _ _ => [a]
  | .mover .. => []

def Work.win (w : Work) : Option Win := w.job.accs.head?.map (·.win)

/-- Kind of a request for the table of R193: 0 posted write, 1 read, 2 AtomicOp, 3 mover. -/
def Job.kind : Job → Nat
  | .write _ => 0
  | .read _ => 1
  | .atomic .. => 2
  | .mover .. => 3

/-- Do two pieces of direct work of one list belong to one stream (R192)? -/
def sameStream (a b : Acc) : Bool := a.die == b.die && (!(a.ido || b.ido) || a.rid == b.rid)

/-- May later work pass earlier work of its stream (R193)? -/
def mayPass (later earlier : Work) : Bool :=
  match later.job, earlier.job with
  | .mover .., _ => true
  | _, .mover .. => true
  | .write _, .write _ => false
  | .write _, _ => true
  | .read as, .write bs =>
    (as.all fun a => a.ro && bs.all fun b => b.win.num != a.win.num)
  | .read _, .read _ => true
  | .read _, .atomic .. => false
  | .atomic .., _ => false

def streamTied (w v : Work) : Bool := w.job.accs.any fun a => v.job.accs.any fun b => sameStream a b

/-- Does stream order let work `id` open now; `ended` names works taken as ended (R193)? -/
def orderOk (ended : List Nat) (w : Work) : List Work → Bool
  | [] => true
  | v :: r =>
    if v.id = w.id then true
    else (mayPass w v || !streamTied w v || ended.contains v.id) && orderOk ended w r

/-! Semaphores (R208 to R216) -/

/-- Does the holder let an access through (R209, R212)? See log entry 27. -/
def Dev.semLets (d : Dev) (w : Work) : Bool :=
  match w.lock, w.job with
  | none, _ => true
  | _, .atomic .. => true
  | some s, job =>
    let m := d.sem s
    match m.holder with
    | none => true
    | some (.software p) => job.accs.all fun a => a.die == p
    | some _ => m.passing.contains w.id

/-- A grant (R210): counted in GRANTS. -/
def Dev.semGrant (d : Dev) (s : Nat) (h : Holder) : Dev :=
  (d.modSem s fun m => { m with holder := some h, waiting := m.waiting.filter fun i =>
                                                     (match h with | .atomic _ w => i != w | _ => true) }).bump SEM_CNT.GRANTS 0 s

/-- The phase of a waiting AtomicOp set once it is granted. -/
def Dev.atomPhase (d : Dev) (id : Nat) (ph : AtomPhase) : Dev :=
  d.eachOf d.livePorts fun (d : Dev) (p : Nat) => d.modPort p fun (o : Port) =>
    { o with works := o.works.map fun (w : Work) =>
             if w.id = id then
             match w.job with
             | .atomic a _ old f => { w with job := .atomic a ph old f }
             | _ => w
             else w }

/-- Die of the AtomicOp of a work. -/
def Dev.workDie (d : Dev) (id : Nat) : Nat :=
  match (d.livePorts.flatMap fun p => (d.port p).works).find? fun w => w.id == id with
  | some w => (w.job.accs.head?.map (·.die)).getD 0
  | none => 0

/-- The next grant, once the accesses that waited at the release have all been issued (R210). -/
def Dev.semNext (d : Dev) (s : Nat) : Dev :=
  let m := d.sem s
  if m.holder.isNone && m.passing.isEmpty && m.resv.isNone then
    match m.waiting with
    | [] => d
    | w :: _ => (d.semGrant s (.atomic (d.workDie w) w)).atomPhase w .lck
  else d

/-- Does a request wait in its stream for an AtomicOp before it (R193)? -/
def behindAtomic (w : Work) (list : List Work) : Bool :=
  (list.takeWhile fun v => v.id != w.id).any fun v => (match v.job with | .atomic .. => true | _ => false) && !mayPass w v && streamTied w v

/-- A release (R210): accesses that wait on the semaphore at that moment go first. -/
def Dev.semRelease (d : Dev) (s : Nat) : Dev :=
  let held := d.livePorts.flatMap fun p => (d.port p).works.filter fun w =>
    w.lock == some s && w.came && w.ready && !d.semLets w && !behindAtomic w (d.port p).works
  (d.modSem s fun m => { m with holder := none, passing := held.map (·.id) }).semNext s

/-- A piece of work has been issued or has gone: it is no longer ahead of the next grant. -/
def Dev.semPassed (d : Dev) (id : Nat) (lock : Option Nat) : Dev :=
  match lock with
  | none => d
  | some s =>
    if (d.sem s).passing.contains id then
      (d.modSem s fun m => { m with passing := m.passing.filter fun i => i != id }).semNext s
    else d

/-- What waited at a release and is there no more, joined to another read, refused or ended, holds no grant back (R210). -/
def Dev.semTidy (d : Dev) : Dev :=
  d.sems.foldl (fun d e =>
    if e.2.passing.isEmpty then d
    else
      let s := e.1.a
      let there (i : Nat) : Bool := d.livePorts.any fun p => (d.port p).works.any fun w => w.id == i && !w.begun
      (d.modSem s fun m => { m with passing := m.passing.filter there }).semNext s) d

/-- An AtomicOp whose stream order lets it open asks for its semaphore: granted, run under its path's software hold, or queued in
order of arrival (R212). -/
def Dev.semAcquire (d : Dev) (w : Work) (a : Acc) (s : Nat) : Dev :=
  let m := d.sem s
  if m.holder = some (.software a.die) then d.atomPhase w.id .lck
  else if m.waiting.contains w.id then d
  else if m.holder.isNone && m.passing.isEmpty && m.resv.isNone && m.waiting.isEmpty then
    (d.semGrant s (.atomic a.die w.id)).atomPhase w.id .lck
  else d.modSem s fun m => { m with waiting := m.waiting ++ [w.id] }

/-- Lock timeout or FORCE (R214). -/
def Dev.semForce (d : Dev) (s : Nat) : Dev :=
  match (d.sem s).holder with
  | none => d
  | some h =>
    let d := (d.bump SEM_CNT.FORCED 0 s).raise (d.homeOf s) evSem ⟨.SEM_CNT, 0, s⟩ 0 s
    let d := match h with
      | .atomic _ id => d.eachOf d.livePorts fun (e : Dev) (p : Nat) => e.modPort p fun (o : Port) =>
          { o with works := o.works.map fun (w : Work) => if w.id = id then d.failAtomic w else w }
      | .master p => d.modPort p fun o => { o with inLock := none }
      | .software _ => d
    d.semRelease s

/-! Prefetched data (R184 to R189) -/

/-- Is every byte of a block covered by the ranges returned? -/
def coveredBy (used : List (Nat × Nat)) (a n : Nat) : Bool :=
  let rec go : Nat → Nat → Bool
    | 0, _ => true
    | k + 1, x => if a + n ≤ x then true else
        match (used.filter fun r => decide (r.1 ≤ x) && decide (x < r.1 + r.2)).map fun r => r.1 + r.2 with
        | [] => false
        | e => go k (e.foldl max 0)
  go (used.length + 1) a

/-- USED of a block: bit k set when granule k was returned whole or lies beyond the block (R189). -/
def usedMask (b : PfBlock) : Nat :=
  (List.range 64).foldl (fun m k =>
    let a := b.far + 1024 * k
    let e := min (b.far + b.data.length) (a + 1024)
    if decide (e ≤ a) || coveredBy b.used a (e - a) then m + 2 ^ k else m) 0

/-- A block discarded (R188, R189): logged on the tile's die while any of its bytes has not been returned. -/
def Dev.pfDiscard (d : Dev) (p : Nat) (b : PfBlock) (reason : Nat) : Dev :=
  if coveredBy b.used b.far b.data.length then d
  else
    let w := BitVec.ofNat 32
    let m := usedMask b
    let words := [w (0x10000000 + (if b.win.inb then 2 ^ 27 else 0) + p * 2 ^ 18 + b.win.num), w b.far, w (b.far / 2 ^ 32),
      w b.data.length, w m, w (m / 2 ^ 32), crc32 b.data, w (reason * 2 ^ 24)]
    let x := dieOf p
    let r := d.pushDrop x 61 TC_PFD_STAT.LOST x 0 words
    if r.1 then r.2.raise x evPfd ⟨.TC_PFD_STAT, x, 0⟩ 16 p else r.2

/-- The blocks of a tile that satisfy `f` discarded; data still in flight is discarded as it comes. -/
def Dev.pfDrop (d : Dev) (p : Nat) (f : PfBlock → Bool) (reason : Nat) : Dev :=
  let gone := (d.port p).pf.filter fun b => f b && b.want == 0
  let d := d.modPort p fun o =>
    { o with pf := (o.pf.filter fun b => !(f b && b.want == 0)).map fun b => if f b && b.gone == 0 then { b with gone := reason } else b }
  gone.foldl (fun d b => d.pfDiscard p b reason) d

/-- The extensions of reads in progress that satisfy `f` are discarded as they come. -/
def Dev.pfStale (d : Dev) (p : Nat) (f : Work → Win → Bool) (reason : Nat) : Dev :=
  d.modPort p fun o => { o with works := o.works.map fun w =>
    match w.job with
    | .read (a :: _) => if w.stale == 0 && f w a.win then { w with stale := reason } else w
    | _ => w }

/-- Prefetched data of windows goes as they change (R167, R172, R185). -/
def Dev.pfChange (d : Dev) (p : Nat) (f : Win → Bool) : Dev := (d.pfDrop p (fun b => f b.win) 4).pfStale p (fun _ w => f w) 4

/-- Bytes of a write that wait for issue: those of its courses, or before translation those of its requests. -/
def Work.dataLen (w : Work) : Nat :=
  if w.ready then w.courses.foldl (fun t c => t + c.len) 0 else w.job.accs.foldl (fun t a => t + (enOf a.op).length) 0

/-- Bytes staged in a tile: prefetched, direct (held runs included) (R24). -/
def Port.staged (o : Port) : Nat × Nat :=
  (o.pf.foldl (fun s b => s + b.data.length) 0,
   o.works.foldl (fun s w => match w.job with
     | .write _ => if w.came then s + w.dataLen else s
     | _ => s) (o.runs.foldl (fun s r => s + r.bytes.length) 0))

/-- Bytes of the mover blocks staged in a tile or bond, each from its start to its end (R24, R307). -/
def Dev.blkBytes (d : Dev) (lp : Nat) : Nat :=
  d.rings.foldl (fun n e => e.2.runs.foldl (fun n x =>
    if x.kind = .fillHost then n else (x.blks.filter fun b => d.listOf b.port == lp).foldl (fun n b => n + b.len) n) n) 0

/-- Staging that retired banks take from a tile (R359, R360): banks 6t to 6t + 5 of its die. -/
def Dev.bankLoss (d : Dev) (p : Nat) : Nat :=
  65536 * ((List.range 6).filter fun k => (d.banks.get 0 ⟨dieOf p, 0, 0⟩).testBit (6 * (p % 8) + k)).length

/-- Room of the shared outbound store that neither mover blocks nor direct data beyond their reserve hold (R24); a bond has twice the store
(R348). -/
def Dev.sharedRoom (d : Dev) (lp direct : Nat) : Int :=
  let two : Nat := if d.bonded lp then 2 else 1
  ((two * 274432 : Nat) : Int) - d.bankLoss lp - d.blkBytes lp - ((direct - two * 32768 : Nat) : Int)

/-- Oldest blocks go while prefetched data exceeds its room (R24, R185); a bond has twice the room (R348). -/
def Dev.pfTrim : Nat → Dev → Nat → Dev
  | 0, d, _ => d
  | k + 1, d, p =>
    let o := d.port p
    let (pf, direct) := o.staged
    let two := if d.bonded p then 2 else 1
    if two * 131072 - d.bankLoss p < pf || decide (d.sharedRoom p direct < pf) then
      match takeFirst (fun b => b.want == 0) o.pf with
      | (none, _) => d
      | (some b, r) => Dev.pfTrim k ((d.modPort p fun o => { o with pf := r }).pfDiscard p b 3) p
    else d

/-- Does a staged block hold a far byte for accesses under a snapshot of its window? -/
def PfBlock.holds (b : PfBlock) (w : Win) (a : Nat) : Bool := b.win == w && decide (b.far ≤ a) && decide (a < b.far + b.data.length)

/-- The first far byte from `a` on that no staged block holds. -/
def pfReach (pf : List PfBlock) (w : Win) : Nat → Nat → Nat
  | 0, a => a
  | k + 1, a => match pf.find? fun b => b.holds w a with | some b => pfReach pf w k (b.far + b.data.length) | none => a

/-- Last byte of the part of a range, from its first byte on, that is staged. -/
def pfTake (pf : List PfBlock) (w : Win) (lo hi : Nat) : Option Nat :=
  let e := pfReach pf w pf.length lo
  if lo < e then some (min hi (e - 1)) else none

/-- Staged bytes marked as returned. -/
def markUsed (pf : List PfBlock) (w : Win) (lo hi : Nat) : List PfBlock :=
  pf.map fun b =>
    if b.win == w && decide (lo < b.far + b.data.length) && decide (b.far ≤ hi) then
      { b with used := b.used ++ [(max lo b.far, min hi (b.far + b.data.length - 1) + 1 - max lo b.far)] }
    else b

/-- Staged far bytes from `lo` to `hi`. -/
def pfBytes (pf : List PfBlock) (w : Win) (lo hi : Nat) : List (Nat × Byte) :=
  (List.range (hi + 1 - lo)).map fun k =>
    (lo + k, ((pf.find? fun b => b.holds w (lo + k)).map fun b => b.data.getD (lo + k - b.far) 0).getD 0)

/-- Next far byte of the previous read of a window on a tile (R184). -/
def Port.nextFar (o : Port) (inb : Bool) (win : Nat) : Option Nat :=
  (o.lastRead.find? fun e => e.1 == inb && e.2.1 == win).map (·.2.2)

def Port.setNextFar (o : Port) (inb : Bool) (win a : Nat) : Port :=
  { o with lastRead := (o.lastRead.filter fun e => !(e.1 == inb && e.2.1 == win)) ++ [(inb, win, a)] }

/-- Last far byte of the extension of a sequential read that begins at `f` (R184); `limit` bounds it by window and page. -/
def pfEnd (w : Win) (f limit : Nat) : Nat :=
  let u := w.pfUnit
  let e := (f + u - 1) / u * u + u - 1
  min (min e (f / 65536 * 65536 + 65535)) limit

/-- Far address of the last byte of the window, or of the page where it is paged (R165: a page ends no later than its window). -/
def farLimit (w : Win) (far : Nat) : Nat :=
  if w.paged then far / 2 ^ 21 * 2 ^ 21 + 2 ^ 21 - 1 else w.target + (w.limit - w.base)

/-! The mire state and failures (R199, R202 to R205) -/

/-- STAT register field by direction. -/
def statFld (inb : Bool) (f : Fld) : Fld := ⟨winReg inb .WIN_O_STAT, f.hi, f.lo⟩

/-- A write discarded in the mire state (R204). -/
def Dev.mireDrop (d : Dev) (inb : Bool) (w k : Nat) : Dev := d.bumpBy (statFld inb WIN_O_STAT.MIRE_DROPS) 0 w k

/-- What a deferred error record says (R205). -/
structure DefRec where
  cause : Nat
  code : Nat := 0
  port : Nat
  near : Nat
  far : Nat
  len : Nat
  done : Nat := 0
  rid : Nat := 0
  entry : Nat := 0
  deriving DecidableEq, Repr

/-- A window enters the mire state, or counts a further failure in MORE (R203, R205). See log entry 26. -/
def Dev.enterMire (d : Dev) (inb : Bool) (w : Nat) (r : DefRec) : Dev :=
  let i := (if inb then 4096 else 0) + w
  if d.mired inb w then d.bump ERR_DEF_REQ.MORE 0 i
  else
    let v := BitVec.ofNat 32
    let d := d.setReg .ERR_DEF_INFO 0 i (v (2 ^ 31 + (if inb then 2 ^ 30 else 0) + r.cause * 2 ^ 24 + r.port * 65536 + w))
    let d := (d.setPair .ERR_DEF_NEAR_LO .ERR_DEF_NEAR_HI 0 i r.near).setPair .ERR_DEF_FAR_LO .ERR_DEF_FAR_HI 0 i r.far
    let d := d.setReg .ERR_DEF_FAIL 0 i (v ((if r.cause = 1 then r.code else 0) * 2 ^ 24 + r.len))
    let d := d.setReg .ERR_DEF_REQ 0 i (v (r.entry * 2 ^ 20 + (if inb then 0 else r.rid)))
    let d := d.setReg .ERR_DEF_DONE 0 i (v r.done)
    let d := d.setFld (statFld inb WIN_O_STAT.MIRE) 0 w 1
    d.raise (d.homeOf w) evMire ⟨winReg inb .WIN_O_STAT, 0, w⟩ 31 w

/-- The first later read of a write's stream in its window ends in Completer Abort (R199): the first that waits at the tile, or the
next to arrive. -/
def Dev.failNextRead (d : Dev) (p : Nat) (a : Acc) : Dev :=
  let mine (b : Acc) : Bool := b.win.num == a.win.num && sameStream a b && decide (a.id < b.id)
  let hit (w : Work) : Option Acc := match w.job with
    | .read as => if d.livePorts.any fun q => (d.port q).outOpen.any fun t => t.work == w.id then none else as.find? mine
    | _ => none
  match (d.port p).works.findSome? fun w => (hit w).map fun b => (w, b) with
  | some (w, b) =>
    let less (v : Work) : Option Work :=
      if v.id = w.id then
        match v.job with
        | .read [_] => none
        | .read as => some { v with job := .read (as.filter fun c => c.id != b.id) }
        | _ => none
      else some v
    let d := d.modPort p fun o => { o with works := o.works.filterMap less }
    d.complete b.die b.id .abort false []
  | none =>
    d.modPx a.die fun q => { q with failNext := q.failNext ++ [(a.win.num, p, a.rid, a.ido)] }

/-- CPL_STATUS of an error record: Completer Abort. -/
def cplAbort := 4

/-- KIND of the record of a failed outbound access (R231): poisoned data and lost staging come before the kind of the access. See log entry 24. -/
def failKind (poison : Bool) (cause kind : Nat) : Nat := if poison then 6 else if cause = 9 then 7 else kind

/-- The error record of an outbound access that fails on a port (R231). -/
def Dev.accRecord (d : Dev) (port : Nat) (a : Acc) (kind code : Nat) (poison : Bool) : Dev :=
  d.errRec (dieOf port) { kind := kind, inb := false, port := port, win := a.win.num, near := a.off, far := accFar a, code := code,
                          cpl := cplAbort, poison := poison, len := (enOf a.op).length, rid := a.rid, tag := a.tag }

/-- A piece of work fails (R226, R202): `cause` by R202, `code` the BERR code; `c` is the failed transaction. -/
def Dev.failWork (d : Dev) (port : Nat) (w : Work) (c : Course) (cause code : Nat) (poison : Bool) : Dev :=
  let d := d.semPassed w.id w.lock
  let lp := d.listOf w.port
  match w.job with
  | .read as =>
    as.foldl (fun d a =>
      match d.owedAt a.die a.id with
      | none => d
      | some _ => (d.accRecord port a (failKind poison cause 1) code poison).complete a.die a.id .abort false []) d
  | .write as =>
    match firstOf as c.addr c.len with
    | none => d
    | some (near, far, a) =>
      if a.win.posted then
        d.enterMire false a.win.num { cause := cause, code := code, port := a.win.routePort, near := near, far := far, len := c.len,
                                      done := w.done, rid := a.rid, entry := a.die }
      else ((d.accRecord port a (failKind poison cause 2) code poison).logPosted a.die true).failNextRead lp a
  | .atomic a _ _ _ =>
    match d.owedAt a.die a.id with
    | none => d
    | some _ => (d.accRecord port a (failKind poison cause 1) code poison).complete a.die a.id .abort false []
  | .mover .. => d.note (.workEnd w false cause code w.got)

/-- Work taken off its list. -/
def Dev.dropWork (d : Dev) (lp id : Nat) : Dev :=
  d.modPort lp fun o => { o with works := o.works.filter fun w => w.id != id }

/-- A work rewritten in its list. -/
def Dev.putWork (d : Dev) (lp : Nat) (w : Work) : Dev :=
  d.modPort lp fun o => { o with works := o.works.map fun v => if v.id = w.id then w else v }

/-- The list and the work with a number that a port may serve. -/
def Dev.findWork (d : Dev) (p id : Nat) : Option (Nat × Work) :=
  (d.listsFor p ++ d.livePorts).findSome? fun lp => ((d.port lp).works.find? fun w => w.id == id).map fun w => (lp, w)

/-- A work returns to the head of its class, at place `k` (R29, R145). -/
def Dev.backToHead (d : Dev) (p id k : Nat) : Dev :=
  match d.findWork p id with
  | none => d
  | some (lp, w) => if w.again = 0 then d.putWork lp { w with again := k } else d

/-- A read delivered to its requesters. -/
def Dev.finishRead (d : Dev) (as : List Acc) (got : List (Nat × Byte)) : Dev :=
  as.foldl (fun d a => d.complete a.die a.id .success false (readData a got)) d

/-! Arbitration (R28, R29, R194) -/

/-- The class a work counts in: REGISTER-class work joins the direct class while REG_FIRST is 0. -/
def classOf (regFirst : Bool) (w : Work) : WClass := if w.cls = .reg ∧ !regFirst then .direct else w.cls

/-- May a work open now, apart from its class's order? -/
def Dev.canStart (d : Dev) (ended : List Nat) (list : List Work) (w : Work) : Bool :=
  w.came && w.ready && d.semLets w && orderOk ended w list &&
  (match w.job with | .atomic _ .acquire _ _ => false | _ => true)

/-- The first of a class that may open; a retry wait holds later work of its class (R228). -/
def Dev.firstOf (d : Dev) (ended busy : List Nat) (rf : Bool) (c : WClass) (all : List Work) : List Work → Option Work
  | [] => none
  | w :: r =>
    if classOf rf w = c && !busy.contains w.id then
      if w.waits then none
      else if d.canStart ended all w then some w
      else d.firstOf ended busy rf c all r
    else d.firstOf ended busy rf c all r

/-- The head of a class: what an RTY put back at its head (R29), else the first that may open. -/
def Dev.classHead (d : Dev) (ended busy : List Nat) (rf : Bool) (c : WClass) (all : List Work) : Option Work :=
  let back := all.filter fun w => w.again != 0 && classOf rf w == c && !busy.contains w.id
  match (back.find? fun w => w.again == 1).or back.head? with
  | some w => if w.waits then none else if d.canStart ended all w then some w else d.firstOf ended busy rf c all all
  | none => d.firstOf ended busy rf c all all

/-- Length a transaction takes from its class's credit. -/
def Work.nextLen (w : Work) : Nat := (w.courses.head?.map (·.len)).getD 8

/-- Deficit round robin between the direct and the mover class (R28): the chosen class, with the credits and the turn after it. -/
def drr (wd wm : Nat) (hasD hasM emptyD emptyM : Bool) : Nat → WClass × Int × Int → Option (WClass × (WClass × Int × Int))
  | 0, _ => none
  | k + 1, (turn, cd, cm) =>
    if !hasD && !hasM then none
    else if wd = 0 ∧ wm = 0 then
      let c := if turn = .direct then (if hasD then WClass.direct else .mover) else (if hasM then .mover else .direct)
      some (c, (if c = .direct then .mover else .direct, cd, cm))
    else if wd = 0 ∧ hasM then some (.mover, (.mover, cd, cm))
    else if wm = 0 ∧ hasD then some (.direct, (.direct, cd, cm))
    else if turn = .direct then
      if hasD && (decide (0 < cd) || decide (wd = 0)) then some (.direct, (.direct, cd, cm))
      else drr wd wm hasD hasM emptyD emptyM k (.mover, if emptyD then min cd 0 else cd, cm + 4096 * wm)
    else
      if hasM && (decide (0 < cm) || decide (wm = 0)) then some (.mover, (.mover, cd, cm))
      else drr wd wm hasD hasM emptyD emptyM k (.direct, cd + 4096 * wd, if emptyM then min cm 0 else cm)

/-- Turns after which every debt has been paid: a turn of a class that has a weight pays 4 KiB at least. -/
def drrTurns (cd cm : Int) : Nat := 2 * (((-cd).toNat + (-cm).toNat) / 4096) + 6

/-- The next work for a port, with the arbitration state after the choice. -/
def Dev.choose (d : Dev) (p : Nat) (ended busy : List Nat) : Option (Work × (WClass × Int × Int)) :=
  let lists := d.listsFor p
  let all := lists.flatMap fun lp => (d.port lp).works
  let a := lists.headD p
  let o := d.port a
  match (d.port p).lockedBy with
  | some id =>
    match all.find? fun w => w.id == id with
    | some w => if w.waits || busy.contains w.id then none else some (w, (o.turn, o.credDirect, o.credMover))
    | none => none
  | none =>
    let rf := d.flag TIL_ARB.REG_FIRST a
    let head (c : WClass) := d.classHead ended busy rf c all
    match if rf then head .reg else none with
    | some w => some (w, (o.turn, o.credDirect, o.credMover))
    | none =>
      let hd := head .direct
      let hm := head .mover
      let none? (c : WClass) := !(all.any fun w => classOf rf w == c && !busy.contains w.id)
      match drr (d.fld TIL_ARB.DIRECT_WEIGHT a) (d.fld TIL_ARB.MOVER_WEIGHT a) hd.isSome hm.isSome (none? .direct) (none? .mover)
          (drrTurns o.credDirect o.credMover) (o.turn, o.credDirect, o.credMover) with
      | none => none
      | some (.mover, s) => hm.map fun w => (w, s)
      | some (_, s) => hd.map fun w => (w, s)

/-! Opening transactions (R143 to R145, R149) -/

/-- The next transaction of a work. -/
def Work.course (w : Work) : Option Course :=
  match w.job with
  | .atomic a ph old _ =>
    let size := (enOf a.op).length
    let lo := (farRange a).1
    match ph with
    | .acquire => none
    | .lck => some ⟨.lck, false, lo, size, []⟩
    | .read => some ⟨.single, false, lo, size, []⟩
    | .write =>
      match a.op with
      | .atomic k _ operand compare =>
        match atomicNew k size old operand compare with
        | some v =>
          let m := (indexed (bytesLE v size)).map fun e => (swapAddr a.win.order (a.far + e.1), e.2)
          some ⟨.single, true, lo, size, (List.range size).map fun j => byteAt m (lo + j)⟩
        | none => none
      | _ => none
    | .ulk => some ⟨.ulk, false, lo, size, []⟩
  | _ => w.courses.head?

def sizeCode (n : Nat) : Nat := if n = 1 then 0 else if n = 2 then 1 else if n = 4 then 2 else 3

def Work.locked (w : Work) : Bool := match w.job with | .atomic .. => true | _ => false

/-- ADR or LCK of a transaction (R134). -/
def adrFor (w : Work) (c : Course) (tag : Nat) : AdrBody :=
  { tag := tag, write := c.write, block := c.shape == .block, locked := w.locked, size := if c.shape = .block then 0 else sizeCode c.len,
    am := w.am, addr := c.addr % 2 ^ 48, beatsM1 := if c.shape = .block then c.len / 8 - 1 else 0 }

/-- DAT packets of a write (R137): 256 B each but the last; a single has one. -/
def datPackets (role tag : Nat) (poison : Bool) : Nat → Nat → List Byte → List Pkt
  | 0, _, _ => []
  | k + 1, off, bs =>
    if bs.length ≤ 256 then [.dat { role := role, tag := tag, last := true, poison := poison, offset := off, data := bs }]
    else .dat { role := role, tag := tag, last := false, poison := poison, offset := off, data := bs.take 256 } ::
      datPackets role tag poison k (off + 32) (bs.drop 256)

/-- The DAT packets of a write; after a tile fault poisoned, with zero data (R355). -/
def Dev.sendData (d : Dev) (p tag : Nat) (c : Course) (bad : Bool) : Dev :=
  if c.write then
    (datPackets 0 tag bad 257 0 (if bad then List.replicate c.len 0 else c.data)).foldl (fun d k => d.send p k) d
  else d

/-- A transaction opened, or its ADR sent early (R145). -/
def Dev.openTxn (d : Dev) (p lp : Nat) (w : Work) (c : Course) (early : Bool) : Dev :=
  let tag := (d.port p).nextTag
  let t : OutTxn := { work := w.id, tag := tag, course := c, at_ := d.nextId }
  let d := d.modPort p fun o => if early then { o with early := some t, nextTag := 1 - tag } else { o with outOpen := some t, nextTag := 1 - tag }
  let d := d.putWork lp { w with begun := true, again := 0 }
  let d := d.semPassed w.id w.lock
  match c.shape with
  | .ulk => d.send p (.ulk tag)
  | .lck => d.send p (.lck (adrFor w c tag))
  | _ =>
    let d := d.send p (.adr (adrFor w c tag))
    if early then d else d.sendData p tag c false

/-- Far range that a read needs, extended when it is sequential (R184): range, extension. -/
def Dev.readRange (d : Dev) (lp : Nat) (w : Win) (lo hi : Nat) : Nat × Nat :=
  if (d.port lp).nextFar false w.num = some lo then
    let e := pfEnd w lo (farLimit w lo)
    if hi < e then (e, e - hi) else (hi, 0)
  else (hi, 0)

/-- The far bytes of a read that are not staged behind its first byte (R185). -/
def restOf (pf : List PfBlock) (a : Acc) : Nat × Nat :=
  let r := farRange a
  match pfTake pf a.win r.1 r.2 with
  | some e => (e + 1, r.2)
  | none => r

/-- Waiting reads of the same window joined while their ranges form one (R183). -/
def Dev.gather : Nat → Dev → Nat → Win → Nat × Nat × List Acc × List Nat → Nat × Nat × List Acc × List Nat
  | 0, _, _, _, s => s
  | k + 1, d, lp, win, (lo, hi, as, ids) =>
    let all := (d.port lp).works
    match all.find? fun v =>
        !ids.contains v.id && !v.begun && !v.waits && d.canStart ids all v &&
        (match v.job with
          | .read [b] =>
            let r := restOf (d.port lp).pf b
            b.win == win && decide (r.1 ≤ r.2) && decide (r.1 ≤ hi + 1) && decide (lo ≤ r.2 + 1) && r.1 / 65536 == lo / 65536 &&
              r.2 / 65536 == hi / 65536
          | _ => false) with
    | some v =>
      match v.job with
      | .read [b] =>
        let r := restOf (d.port lp).pf b
        Dev.gather k d lp win (min lo r.1, max hi r.2, as ++ [b], ids ++ [v.id])
      | _ => (lo, hi, as, ids)
    | none => (lo, hi, as, ids)

/-- A read made ready to open; one of a prefetching window with its staged part taken, waiting neighbours joined, its extension added
(R183 to R185). -/
def Dev.shapeRead (d : Dev) (lp : Nat) (w : Work) : Work × Dev :=
  match w.job with
  | .read [a] =>
    if a.win.prefetch && !w.begun then
      let pf := (d.port lp).pf
      let r := restOf pf a
      let (lo, hi, as, ids) := Dev.gather (d.port lp).works.length d lp a.win (r.1, r.2, [a], [w.id])
      let staged := as.filterMap fun b => let f := farRange b; (pfTake pf b.win f.1 f.2).map fun e => (f.1, e)
      let got := staged.flatMap fun s => pfBytes pf a.win s.1 s.2
      let d := d.modPort lp fun o => { o with pf := staged.foldl (fun l s => markUsed l a.win s.1 s.2) o.pf }
      -- a block for the rest of a staged read is sequential
      let d := if r.1 != (farRange a).1 then d.modPort lp fun o => o.setNextFar false a.win.num lo else d
      let (e, extra) := d.readRange lp a.win lo hi
      let cs := (cutRun a.win.course lo (e + 1 - lo)).map fun s => (⟨if s.2.2 then .block else .single, false, s.1, s.2.1, []⟩ : Course)
      let d := d.modPort lp fun o =>
        { (o.setNextFar false a.win.num (hi + 1)) with works := o.works.filter fun v => v.id = w.id || !ids.contains v.id }
      let w := { w with job := .read as, courses := cs, got := got, extra := extra, blkAt := lo }
      (w, d.putWork lp w)
    else if w.begun then (w, d)
    else (w, d.modPort lp fun o => o.setNextFar false a.win.num ((farRange a).2 + 1))
  | _ => (w, d)

/-- Prefetched data that a write overlaps is discarded before the write is issued, what a read in progress will bring as it comes (R185). -/
def Dev.writeHits (d : Dev) (p am : Nat) (c : Course) : Dev :=
  if c.write then
    let meets (w : Win) (a n : Nat) : Bool := !w.inb && w.space == am / 64 && decide (c.addr < a + n) && decide (a < c.addr + c.len)
    let mine (v : Work) : Bool := (d.serving p).any fun q => (d.port q).outOpen.any fun t => t.work == v.id
    (d.listsFor p).foldl (fun d lp =>
      (d.pfDrop lp (fun b => meets b.win b.far b.data.length) 2).pfStale lp (fun v w =>
        v.extra != 0 && mine v && meets w v.blkAt ((v.courses.getLast?.elim v.blkAt fun e => e.addr + e.len) - v.blkAt)) 2) d
  else d

/-- Credits after a transaction of a class has started (R28): REGISTER-class work that goes first takes none. -/
def Dev.charge (d : Dev) (a : Nat) (s : WClass × Int × Int) (cls : WClass) (len : Nat) : Dev :=
  d.modPort a fun o =>
    { o with turn := s.1, credDirect := if cls = .direct then s.2.1 - len else s.2.1,
             credMover := if cls = .mover then s.2.2 - len else s.2.2 }

/-- Reads wholly inside staged data answered from staging, zero-length reads ended, AtomicOps in order asking for their semaphores
(R180, R185, R212). One pass over a list. -/
def Dev.sweep (d : Dev) (lp : Nat) : Dev :=
  (d.port lp).works.foldl (fun d w =>
    let all := (d.port lp).works
    match w.job with
    | .read as =>
      match as.head? with
      | none => d
      | some a =>
        if w.begun || !d.canStart [] all w then d
        else if w.courses.isEmpty && w.got.isEmpty then
          ((d.dropWork lp w.id).finishRead as []).semPassed w.id w.lock
        else if a.win.prefetch then
          let r := farRange a
          let pf := (d.port lp).pf
          match pfTake pf a.win r.1 r.2 with
          | some e =>
            if e = r.2 then
              let d := d.modPort lp fun o => (({ o with pf := markUsed o.pf a.win r.1 e } : Port).setNextFar false a.win.num (r.2 + 1))
              ((d.dropWork lp w.id).finishRead [a] (pfBytes pf a.win r.1 e)).semPassed w.id w.lock
            else d
          | none => d
        else d
    | .atomic a .acquire _ _ =>
      if w.ready && orderOk [] w all then
        match w.lock with
        | some s => d.semAcquire w a s
        | none => d
      else d
    | _ => d) d

/-- One attempt to open a transaction, or to send an early address, on a port. -/
def Dev.kick (d : Dev) (p : Nat) : Dev :=
  let o := d.port p
  if !d.active? p || o.quiet.isSome || (o.outOpen.isNone && o.early.isSome) || !d.tileOpens p || d.sharedBusy p true then d
  else
    let lists := d.listsFor p
    let a := lists.headD p
    let other := (d.serving a).filterMap fun q => if q = p then none else (d.port q).outOpen.map (·.work)
    match o.outOpen with
    | none =>
      let d := lists.foldl Dev.sweep d
      match d.choose p [] other with
      | none => d
      | some (w, s) =>
        match d.findWork p w.id with
        | none => d
        | some (lp, w) =>
          let (w, d) := d.shapeRead lp w
          match w.course with
          | none => d
          | some c =>
            let d := d.charge a s (classOf (d.flag TIL_ARB.REG_FIRST a) w) c.len
            (d.writeHits p w.am c).openTxn p lp w c false
    | some t =>
      let lockedNow := match d.findWork p t.work with
        | some (_, w) => w.locked
        | none => true
      if d.flag BB_TXN_CTRL.EARLY p && o.early.isNone && !t.flushed && !t.drain && !lockedNow && d.allSent p t.tag then
        match d.findWork p t.work with
        | none => d
        | some (lt, wt) =>
          -- a later course of the same access may be sent early too
          let self := match wt.job with
            | .atomic .. => none
            | _ => wt.courses[1]?
          match self with
          | some c =>
            let d := d.charge a ((d.port a).turn, (d.port a).credDirect, (d.port a).credMover) (classOf (d.flag TIL_ARB.REG_FIRST a) wt) c.len
            (d.writeHits p wt.am c).openTxn p lt wt c true
          | none =>
            let d := lists.foldl Dev.sweep d
            match d.choose p [t.work] (t.work :: other) with
            | none => d
            | some (w, s) =>
              match d.findWork p w.id with
              | none => d
              | some (lp, w) =>
                if w.locked then d
                else
                  let (w, d) := d.shapeRead lp w
                  match w.course with
                  | none => d
                  | some c =>
                    let d := d.charge a s (classOf (d.flag TIL_ARB.REG_FIRST a) w) c.len
                    (d.writeHits p w.am c).openTxn p lp w c true
      else d

end Sys2Proof.Machine
end

