-- ==== Sys2Proof/Machine/Initiator.lean ====
section
/-!
DEFINITION. The bridge as Body Bus initiator: what each response does (R138 to R150, R226 to R229), local ends, quiet periods, the loss of a
port (R160) and the expiry of a completion limit (R94).
-/

namespace Sys2Proof.Machine

/-- A BERR code as the bridge records it (R139). -/
def berrCode (code : Nat) : Nat := if code ≤ 0x0B then code else 0

/-! Accounts of a transaction's end -/

/-- START after a transaction that received `r` counted RTY (R229). -/
def Dev.retryStart (d : Dev) (p r : Nat) : Dev :=
  if r = 0 then d else d.setFld BB_RETRY_CTL.START p 0 (min 7 (max (d.fld BB_RETRY_CTL.START p) (r - 1)))

/-- Wait of retry `k` of a port in microseconds (R228). -/
def Dev.retryWait (d : Dev) (p k hint : Nat) : Nat :=
  let i := min (d.fld BB_RETRY_CTL.START p + k - 1) 7
  let w := d.reg (if i < 4 then .BB_RETRY_TAB_LO else .BB_RETRY_TAB_HI) p
  max (bitsOf w (8 * (i % 4) + 7) (8 * (i % 4))) hint

/-- The block of a sequential read whose extension stays in staging (R184, R185, R189). -/
def pfBlockOf (w : Work) (lastFar : Nat) : Option PfBlock :=
  match w.job.accs.head? with
  | none => none
  | some a =>
    if w.extra = 0 then none
    else
      let lo := (w.blkAt + 7) / 8 * 8
      let hi := (lastFar + 1) / 8 * 8
      if hi ≤ lo then none
      else some { win := a.win, far := lo, data := (List.range (hi - lo)).map fun k => byteAt w.got (lo + k),
                  used := [(lo, lastFar + 1 - w.extra - lo)], near := nearOf a lo }

/-- The AtomicOp of a work ends: its semaphore released (unless a software hold covers it), its completion sent (R212). -/
def Dev.finishAtomic (d : Dev) (lp : Nat) (w : Work) (a : Acc) (old : Nat) (failed : Bool) : Dev :=
  let d := d.dropWork lp w.id
  let d := match w.lock with
    | some s => if (d.sem s).holder = some (Holder.atomic a.die w.id) then d.semRelease s else d
    | none => d
  if failed then d.complete a.die a.id .abort false []
  else d.complete a.die a.id .success w.bad (bytesLE old (enOf a.op).length)

/-- Work that is not to be issued any more ends: held runs and waiting work of windows in the mire state (R204), AtomicOps that have
failed before their LCK was sent (R94, R214). See log entry 27. -/
def Dev.endIdle (d : Dev) (lp : Nat) : Dev :=
  let gone := (d.port lp).runs.filter fun r => d.mired false r.win.num
  let d := if gone.isEmpty then d else d.modPort lp fun o => { o with runs := o.runs.filter fun r => !gone.contains r }
  let d := gone.foldl (fun d r => d.mireDrop false r.win.num r.accs.length) d
  (d.port lp).works.foldl (fun d w =>
    match w.job with
    | .write as =>
      match as.head? with
      | some a => if d.mired false a.win.num && !d.opens w.id then
          (((d.dropWork lp w.id).retryStart w.port w.rtys).mireDrop false a.win.num as.length).semPassed w.id w.lock else d
      | none => d
    | .read as =>
      match as.head? with
      | some a => if d.mired false a.win.num && w.ready && !d.opens w.id then
          (as.foldl (fun d b => d.complete b.die b.id .abort false []) ((d.dropWork lp w.id).retryStart w.port w.rtys)).semPassed w.id w.lock else d
      | none => d
    | .atomic a .acquire _ _ =>
      if d.mired false a.win.num then
        let d := match w.lock with
          | some s => d.modSem s fun m => { m with waiting := m.waiting.filter fun i => i != w.id }
          | none => d
        (d.dropWork lp w.id).complete a.die a.id .abort false []
      else d
    | .atomic a .lck old failed =>
      if (failed || d.mired false a.win.num) && !d.opens w.id then (d.retryStart w.port w.rtys).finishAtomic lp w a old true else d
    | _ => d) d

/-- The error record of an AtomicOp (R226): one, for its first failure, while its completion is still owed. -/
def Dev.atomicRec (d : Dev) (port : Nat) (a : Acc) (code : Nat) (poison failed : Bool) : Dev :=
  if failed || (d.owedAt a.die a.id).isNone then d else d.accRecord port a (failKind poison 0 1) code poison

/-- The transaction of a work fails (R226): an AtomicOp past its grant goes on to ULK, a refused one releases its semaphore, any other
work ends (R150, R176). `toUlk` is set for a local end, after which the lock's state is unknown. -/
def Dev.failTxn (d : Dev) (p : Nat) (t : OutTxn) (cause code : Nat) (toUlk : Bool) : Dev :=
  match d.findWork p t.work with
  | none => d
  | some (lp, w) =>
    let d := d.retryStart p w.rtys
    match w.job with
    | .atomic a ph old failed =>
      let d := d.atomicRec p a code (t.poison && code == 6) failed
      if ph = .ulk && !toUlk then
        let d := d.modPort p fun o => { o with lockedBy := none }
        d.finishAtomic lp w a old true
      else if ph = .lck && !toUlk then d.finishAtomic lp w a old true
      else
        let d := d.modPort p fun o => { o with lockedBy := some w.id }
        d.putWork lp { w with job := .atomic a .ulk old true, retries := 0, rtys := 0, waits := false }
    | _ => (d.dropWork lp w.id).failWork p w t.course cause code (t.poison && code == 6)

/-- The early address opens once the transaction ahead of it has ended with ACK (R145). -/
def Dev.promote (d : Dev) (p : Nat) : Dev :=
  match (d.port p).early with
  | none => d
  | some t =>
    let d := match d.findWork p t.work with | some (_, w) => d.writeHits p w.am t.course | none => d
    (d.modPort p fun o => { o with outOpen := some { t with at_ := d.nextId }, early := none }).sendData p t.tag t.course t.drain

/-- The open transaction ends: a sample for the monitors (R441). -/
def Dev.outSample (d : Dev) (p : Nat) (t : OutTxn) : Dev := d.note (.sample 3 p (dieOf p) t.at_)

/-- The open transaction ends with BERR or RTY (R142, R145): no further DAT of it goes, and an early address that was sent waits for its RTY
FLUSHED; one not yet sent does not go at all. -/
def Dev.flushEarly (d : Dev) (p tag : Nat) : Dev :=
  let d := d.unsend p tag
  match (d.port p).early with
  | none => d
  | some e =>
    if d.allSent p e.tag then d.modPort p fun o => { o with early := some { e with flushed := true } }
    else ((d.unsend p e.tag).modPort p fun o => { o with early := none, nextTag := e.tag }).backToHead p e.work 2

/-- The phase of an AtomicOp after the ACK of a phase (R149, R150). -/
def nextPhase (a : Acc) (ph : AtomPhase) (old : Nat) (failed : Bool) : AtomPhase :=
  if failed then .ulk
  else
    match ph, a.op with
    | .lck, _ => .read
    | .read, .atomic k size operand compare => if (atomicNew k size old operand compare).isSome then .write else .ulk
    | _, _ => .ulk

/-- A transaction of a work has ended with ACK: its next course, or the end of the work (R176, R226). -/
def Dev.ackWork (d : Dev) (p : Nat) (t : OutTxn) : Dev :=
  match d.findWork p t.work with
  | none => d
  | some (lp, w) =>
    let d := d.retryStart p w.rtys
    let w := { w with retries := 0, rtys := 0, waits := false }
    match w.job with
    | .atomic a ph old failed =>
      let old := if ph = .read then
          natLE ((List.range (enOf a.op).length).map fun k => t.data.getD (swapAddr a.win.order (a.far + k) - t.course.addr) 0)
        else old
      let d := if ph = .lck then d.modPort p fun o => { o with lockedBy := some w.id } else d
      if ph = .ulk then (d.modPort p fun o => { o with lockedBy := none }).finishAtomic lp w a old failed
      else d.putWork lp { w with job := .atomic a (nextPhase a ph old failed) old failed }
    | job =>
      let more : List (Nat × Byte) := (indexed t.data).map fun e => (t.course.addr + e.1, e.2)
      let w := { w with courses := w.courses.drop 1, done := w.done + t.course.len, got := w.got ++ more }
      if w.courses.isEmpty then
        let d := d.dropWork lp w.id
        match job with
        | .read as =>
          let last := (t.course.addr + t.course.len) - 1
          let d := match pfBlockOf w last with
            | some b => if w.stale = 0 then (d.modPort lp fun o => { o with pf := o.pf ++ [b] }).pfTrim 64 lp else d.pfDiscard lp b w.stale
            | none => d
          d.finishRead as w.got
        | .mover .. => d.note (.workEnd w true 0 0 w.got)
        | _ => d
      else d.putWork lp w

/-- The early address is given up: its work returns to the head of its class (R145, R155). -/
def Dev.dropEarly (d : Dev) (p k : Nat) : Dev :=
  match (d.port p).early with
  | none => d
  | some e => ((d.unsend p e.tag).modPort p fun o => { o with early := none }).backToHead p e.work k

/-- The open transaction ends locally as BERR PROTOCOL or BERR TIMEOUT (R147, R155): the quiet period starts, an early address returns. -/
def Dev.localEnd (d : Dev) (p : Nat) (t : OutTxn) (timeout : Bool) : Dev :=
  let d := ((d.outSample p t).unsend p t.tag).modPort p fun o => { o with outOpen := none, quiet := some t.tag }
  let d := d.dropEarly p 1
  if t.drain then d
  else d.failTxn p t (if timeout then 3 else 1) (if timeout then 5 else 8) true

/-- Does a read have all its beats? Writes, LCK and ULK have none. -/
def OutTxn.whole (t : OutTxn) : Bool :=
  t.course.write || t.course.shape == .lck || t.course.shape == .ulk || (t.last && t.data.length == t.course.len)

/-- A packet with ROLE 1 that matches no transaction (R147). See log entry 24. -/
def Dev.stray (d : Dev) (p : Nat) : Dev := d.txnEvent BB_TXN_EVENT.STRAY p

/-- A rule of spec/05 broken by a response: the open transaction ends as BERR PROTOCOL (R147). See log entry 24. -/
def Dev.protoOut (d : Dev) (p : Nat) : Dev :=
  let d := d.txnEvent BB_TXN_EVENT.PROTOCOL p
  match (d.port p).outOpen with
  | some t => d.localEnd p t false
  | none => (d.modPort p fun o => { o with quiet := o.early.map (·.tag) }).dropEarly p 1

/-- Which transaction a ROLE 1 packet with a tag belongs to. -/
inductive OutHit where
  | opened (t : OutTxn) | early (t : OutTxn) | none
  deriving DecidableEq, Repr

def Dev.outHit (d : Dev) (p tag : Nat) : OutHit :=
  match (d.port p).outOpen with
  | some t => if t.tag = tag then .opened t
    else match (d.port p).early with
      | some e => if e.tag = tag then .early e else .none
      | none => .none
  | none =>
    match (d.port p).early with
    | some e => if e.tag = tag then .early e else .none
    | none => .none

/-- ACK received (R138, R142). -/
def Dev.rxAck (d : Dev) (p tag : Nat) : Dev :=
  match d.outHit p tag with
  | .none => d.stray p
  | .early _ => d.protoOut p
  | .opened t =>
    if !t.whole then d.protoOut p
    else
      let d := (d.outSample p t).modPort p fun o => { o with outOpen := none }
      let d := if t.drain then d else if t.poison then d.failTxn p t 1 6 false else d.ackWork p t
      d.promote p

/-- DAT of the target (R136, R142, R147). -/
def Dev.rxDat (d : Dev) (p : Nat) (b : DatBody) : Dev :=
  match d.outHit p b.tag with
  | .none => d.stray p
  | .early _ => d.protoOut p
  | .opened t =>
    let single := t.course.shape != .block
    let bad := t.course.write || t.course.shape == .lck || t.course.shape == .ulk || t.last ||
      (if single then b.offset != 0 || !b.last || b.data.length != t.course.len
       else 8 * b.offset != t.data.length || b.data.length % 8 != 0 || decide (t.course.len < t.data.length + b.data.length))
    if bad then d.protoOut p
    else
      let t := { t with data := t.data ++ b.data, beats := t.beats + b.data.length / 8, last := b.last, poison := t.poison || b.poison }
      d.modPort p fun o => { o with outOpen := some t }

/-- BERR received (R226). -/
def Dev.rxBerr (d : Dev) (p tag code : Nat) : Dev :=
  match d.outHit p tag with
  | .none => d.stray p
  | .early t =>
    let d := d.bump BB_TXN_ERR.BERR_RX p
    if t.flushed then (d.modPort p fun o => { o with early := none }).failTxn p t 1 (berrCode code) false else d.protoOut p
  | .opened t =>
    let d := (d.bump BB_TXN_ERR.BERR_RX p).outSample p t
    let d := (d.modPort p fun o => { o with outOpen := none }).flushEarly p t.tag
    if t.drain then d else d.failTxn p t 1 (berrCode code) false

/-- RTY received (R228, R145). -/
def Dev.rxRty (d : Dev) (p tag reason hint : Nat) : Dev :=
  match d.outHit p tag with
  | .none => d.stray p
  | .early t =>
    let d := d.bump BB_TXN_ERR.RTY_RX p
    if t.flushed then d.dropEarly p 2 else d.protoOut p
  | .opened t =>
    let d := (d.bump BB_TXN_ERR.RTY_RX p).outSample p t
    let d := (d.modPort p fun o => { o with outOpen := none }).flushEarly p t.tag
    let d := if t.drain then d else d.backToHead p t.work 1
    if t.drain || reason = 3 then d
    else
      match d.findWork p t.work with
      | none => d
      | some (lp, w) =>
        match w.job with
        | .atomic a ph old true =>
          if ph = .lck then (d.retryStart p (w.rtys + 1)).finishAtomic lp w a old true
          else if ph = .ulk then
            if d.fld BB_RETRY_CTL.MAX p ≤ w.retries then (d.putWork lp { w with rtys := w.rtys + 1 }).failTxn p t 2 0 false else
            let us := d.retryWait p (w.retries + 1) hint
            d.putWork lp { w with retries := w.retries + 1, rtys := w.rtys + 1, waits := us != 0, waitUs := us }
          else (d.retryStart p (w.rtys + 1)).putWork lp { w with job := .atomic a .ulk old true, retries := 0, rtys := 0, waits := false }
        | _ =>
          if d.fld BB_RETRY_CTL.MAX p ≤ w.retries then
            (d.putWork lp { w with rtys := w.rtys + 1 }).failTxn p t 2 0 false
          else
            let us := d.retryWait p (w.retries + 1) hint
            d.putWork lp { w with retries := w.retries + 1, rtys := w.rtys + 1, waits := us != 0, waitUs := us }

/-- The wait before a retry ends (R228): the work that waits longest on the port's lists goes on. -/
def Dev.retryGo (d : Dev) (p : Nat) : Dev :=
  d.modPort (d.listOf p) fun o => { o with works := modFirst (fun w => w.waits) (fun w => { w with waits := false }) o.works }

/-- One step of the decay of START (R229). -/
def Dev.retryDecay (d : Dev) (p : Nat) : Dev := d.setFld BB_RETRY_CTL.START p 0 (d.fld BB_RETRY_CTL.START p - 1)

/-- The initiator's bus timer expires (R145, R155); it holds its count while the port is not ACTIVE (R124). -/
def Dev.outTimer (d : Dev) (p : Nat) : Dev :=
  if !d.active? p then d else
  match (d.port p).outOpen with
  | some t => (d.txnEvent BB_TXN_EVENT.TIMEOUT_OUT p).localEnd p t true
  | none =>
    match (d.port p).early with
    | some t => ((d.txnEvent BB_TXN_EVENT.TIMEOUT_OUT p).modPort p fun o => { o with quiet := some t.tag }).dropEarly p 2
    | none => d

/-- The quiet period ends (R159). -/
def Dev.quietEnd (d : Dev) (p : Nat) : Dev := d.modPort p fun o => { o with quiet := none }

/-! Write runs (R181, R182) -/

/-- The transactions of a held run: each stretch of its bytes cut by R178. -/
def runCourses (r : Run) : List Course :=
  let have_ := (indexed r.bytes).filterMap fun e => if e.2.isSome then some (r.far + e.1) else none
  ((runsOf have_).flatMap fun s => cutRun r.win.course s.1 s.2).map fun s =>
    ⟨if s.2.2 then .block else .single, true, s.1, s.2.1, (List.range s.2.1).map fun k => ((r.bytes.getD (s.1 + k - r.far) none).getD 0)⟩

/-- The work of an issued run. -/
def runWork (i : Nat) (r : Run) : Work :=
  { id := i, job := .write r.accs, cls := .direct, port := r.win.routePort, am := r.win.am, courses := runCourses r, lock := r.win.lock,
    epoch := (r.accs.head?.map (·.epoch)).getD 0 }

/-- Number of the access that extended a run last. -/
def Run.last (r : Run) : Nat := r.accs.foldl (fun m a => max m a.id) 0

/-- Has the command queue of a tile, but for the waiting work `id`, room for the item of that work in `cap` words (R257, R259)? An item takes 16
words at most. -/
def Dev.chainFits (d : Dev) (lp id cap : Nat) : Bool :=
  let held := (d.servedBy (d.chainTile lp)).flatMap fun p => (d.port p).works.filter fun w => w.came && !w.begun && w.id != id
  decide (16 * (held.length + 1) ≤ cap) ||
    decide (held.foldl (fun s w => s + (Config.chainWords w.id).toNat + 1) 0 + (Config.chainWords id).toNat + 1 ≤ cap)

/-- Has the producer of a request credits for its item in the command queue of the tile (R257)? -/
def Dev.chainRoom (d : Dev) (lp id : Nat) : Bool :=
  let t := d.chainTile lp
  d.chainFits lp id (4096 + (d.queue (dieOf t) (t % 8)).extra)

/-- The item of a request written into the command queue of its tile; one that finds no word free overflows (R264). -/
def Dev.chainPut (d : Dev) (lp id : Nat) : Dev :=
  if d.chainFits lp id 4096 then (d.chainTiles lp).foldl (fun d t => d.note (.qpush (dieOf t) (t % 8) [chainItem id])) d
  else
    let t := d.chainTile lp
    d.note (.qover (dieOf t) (t % 8) id)

/-- A held run issued: it takes its place behind the work of the tile, but before what arrived on its path after its last write and waits for a
page line. -/
def Dev.issueRun (d : Dev) (lp : Nat) (r : Run) : Dev :=
  let (i, d) := d.fresh
  let room := d.chainRoom lp i
  let w := { runWork i r with came := room }
  let before (v : Work) : Bool := !(v.job.accs.any fun b => b.die == r.path && decide (r.last < b.id))
  let d := d.modPort lp fun o => { o with works := o.works.takeWhile before ++ [w] ++ o.works.dropWhile before }
  if room then d.chainPut lp i else d

/-- The held runs of a tile that satisfy `f` issued, oldest first. -/
def Dev.flushRuns (d : Dev) (lp : Nat) (f : Run → Bool) : Dev :=
  let go := (d.port lp).runs.filter f
  let d := d.modPort lp fun o => { o with runs := o.runs.filter fun r => !f r }
  go.foldl (fun d r => d.issueRun lp r) d

/-! The loss of a port (R160, R350) -/

/-- Is the port of a tile out of service that no other tile carries, which a second fault leaves (R357)? -/
def Dev.tileLost (d : Dev) (p : Nat) : Bool :=
  let s := d.fld TIL_SVC_STAT.STATE p
  (s == 2 || s == 3 || s == 5) && !d.carried p

/-- Is the port down, DISABLED, DETECT or FAILED, or lost with its tile? -/
def Dev.portGone (d : Dev) (p : Nat) : Bool :=
  let s := d.lstate p
  s == lsDisabled || s == lsDetect || s == lsFailed || d.tileLost p

/-- Does another port of the bond keep the list of a port alive (R160)? -/
def Dev.bondLives (d : Dev) (p : Nat) : Bool := d.bonded p && d.active? (d.mate p)

/-- Is there no port at all for the work of a list? -/
def Dev.listGone (d : Dev) (p : Nat) : Bool := (d.serving (d.listOf p)).all fun q => d.portGone q

/-- One work of a lost port ended (R160): writes of a window already in the mire state are discarded and counted (R204). -/
def Dev.lostWork (d : Dev) (lp p : Nat) (w : Work) : Dev :=
  let c : Course := w.courses.headD ⟨.single, false, 0, 0, []⟩
  let d := d.retryStart p w.rtys
  match w.job with
  | .write as =>
    match as.head? with
    | some a => if d.mired false a.win.num then (d.mireDrop false a.win.num as.length).semPassed w.id w.lock
      else d.failWork p w c 4 0x0B false
    | none => d
  | .atomic a _ old failed =>
    let d := match w.lock with
      | some s => d.modSem s fun m => { m with waiting := m.waiting.filter fun i => i != w.id }
      | none => d
    (d.atomicRec p a 0x0B false failed).finishAtomic lp w a old true
  | _ => d.failWork p w c 4 0x0B false

/-- Every waiting work of a list ended. -/
def Dev.loseWorks (d : Dev) (lp p : Nat) : Dev :=
  let ws := (d.port lp).works
  let d := d.modPort lp fun o => { o with works := [] }
  ws.foldl (fun d w => d.lostWork lp p w) d

/-- The initiator's side of a port going down: open and early transactions end LINK_LOST, a lock is lost, waiting work ends unless the
other port of a bond is ACTIVE (R160). Where the bond's other port is in TRAIN or RETRAIN, R160 both ends the work of a port that goes down and
lets work wait for a port that trains: it waits (DESIGN CHOICE, log entry 23). -/
def Dev.outLost (d : Dev) (p : Nat) : Dev :=
  let o := d.port p
  let mine := (o.outOpen.toList ++ o.early.toList)
  let d := if mine.isEmpty then d else d.txnEvent BB_TXN_EVENT.LINK_LOST p
  let d := match o.outOpen with | some t => d.outSample p t | none => d
  let locked := o.lockedBy
  let d := d.modPort p fun o => { o with outOpen := none, early := none, quiet := none, lockedBy := none }
  let ended := mine.map (·.work) ++ locked.toList
  let d := d.livePorts.foldl (fun d lp =>
    let ws := (d.port lp).works.filter fun w => ended.contains w.id
    let d := d.modPort lp fun o => { o with works := o.works.filter fun w => !ended.contains w.id }
    ws.foldl (fun d w => d.lostWork lp p w) d) d
  let d := d.flushRuns (d.listOf p) fun _ => true
  if d.bondLives p then d
  else
    if d.listGone p then d.loseWorks (d.listOf p) p else d

/-! The completion limit of the port (R94) -/

/-- NP_LIMIT passes for a received request: Completer Abort, its record; a transaction already begun runs to its end and its result is
discarded; a request still waiting is not issued. See log entry 21. -/
def Dev.npLimit (d : Dev) (x id : Nat) : Dev :=
  match d.owedAt x id with
  | none => d
  | some o =>
    let d := d.completeHere x id .abort false []
    let d := d.pxEvent PX_EVENT.NP_LIMIT_HIT x
    let d := d.errRec x { kind := 8, inb := false, port := o.port, win := o.win, near := o.near, far := o.far, cpl := cplAbort,
                          len := o.len, rid := o.rid, tag := o.tag }
    let d := d.failAtomics fun a => a.die == x && a.id == id
    d.livePorts.foldl (fun d lp =>
      let idle (w : Work) : Bool := !w.begun && (match w.job with
        | .read [a] => a.die == x && a.id == id
        | .atomic a .acquire _ _ => a.die == x && a.id == id
        | _ => false)
      let gone := (d.port lp).works.filter idle
      let d := d.modPort lp fun q => { q with works := q.works.filter fun w => !idle w }
      gone.foldl (fun d w =>
        let d := match w.lock with
          | some s => d.modSem s fun m => { m with waiting := m.waiting.filter fun i => i != w.id }
          | none => d
        d.semPassed w.id w.lock) d) d

end Sys2Proof.Machine
end

