-- ==== Sys2Proof/Machine/Access.lean ====
section
/-!
DEFINITION. Direct accesses through outbound windows, from their arrival at a PCI Express port to their place at a tile (R90, R163 to R184,
R199, R204, R212, R243), the page cache and changes of windows (R167, R171, R172, R190, R191).
-/

namespace Sys2Proof.Machine

def AccOp.isWrite : AccOp → Bool
  | .write _ => true
  | _ => false

/-- The enforcement list of a window: the tile or bond of its port (R203). -/
def Dev.listAt (d : Dev) (w : Win) : Nat := d.listOf w.routePort

/-- Entry of the list of owed completions for a request (R92, R94, R96): `aper` for one to BAR4. -/
def Dev.owe (d : Dev) (s : Src) (off len : Nat) (aper : Bool) : Nat × Dev :=
  let (i, d) := d.fresh
  (i, d.modPx (srcDie s) fun q => { q with owed := q.owed ++ [{ id := i, rid := s.rid, tag := s.tag, len := len, addr := off, aper := aper }] })

/-- What translation has produced for an owed request (R94), and the tile from which its outcome comes. -/
def Dev.oweFar (d : Dev) (a : Acc) : Dev :=
  d.modPx a.die fun q => { q with owed := q.owed.map fun (o : Owed) =>
    if o.id == a.id then { o with win := a.win.num, port := a.win.routePort, near := a.off, far := accFar a, tile := some (d.listAt a.win) } else o }

/-! Credits of received requests (R36, R43, R96, R358) -/

/-- Is a store of received non-posted requests full: 4,096 to BAR4, 64 to the other BARs (R43, R96)? -/
def Dev.npFull (d : Dev) (x : Nat) : Bool :=
  let o := (d.px x).owed
  decide (4096 ≤ (o.filter fun e => e.aper).length) || decide (64 ≤ (o.filter fun e => !e.aper).length)

/-- Does a port withhold the credits of a class: all in a reset of its die (R358), posted ones while more than 256 configuration writes are
held on the die (R36), non-posted ones while a store is full (R96)? A request that waits keeps those behind it waiting. -/
def Dev.barred (d : Dev) (x : Nat) (posted : Bool) : Bool :=
  d.away.contains x || decide (256 < (d.heldCfg.filter fun h => h.w.path % 8 == x).length) && posted || !posted && d.npFull x

/-- Must a request wait for credits as it arrives? -/
def Dev.waitsCredit (d : Dev) (x : Nat) (posted : Bool) : Bool :=
  d.barred x posted || !(d.px x).inP.isEmpty || !posted && !(d.px x).inNp.isEmpty

/-- A request that waits for credits (log entry 51). -/
def Dev.waitCredit (d : Dev) (x : Nat) (posted : Bool) (i : Ingress) : Dev :=
  d.modPx x fun p => if posted then { p with inP := p.inP ++ [i] } else { p with inNp := p.inNp ++ [i] }

/-! Failures before issue -/

/-- A write that fails before issue (R199, R202): `kept` tells whether an error record is written. -/
def Dev.failWrite (d : Dev) (a : Acc) (cause : Nat) (kept : Bool) : Dev :=
  let n := (enOf a.op).length
  if a.win.posted then
    d.enterMire false a.win.num { cause := cause, port := a.win.routePort, near := a.off, far := if cause = 8 then accFar a else 0, len := n,
                                  rid := a.rid, entry := a.die }
  else
    let d := if kept then
        d.errRec (dieOf a.win.routePort) { kind := 2, inb := false, port := a.win.routePort, win := a.win.num, near := a.off,
                                           far := if cause = 8 then accFar a else 0, cpl := cplAbort, len := n, rid := a.rid, tag := a.tag }
      else d
    (d.logPosted a.die true).failNextRead (d.listAt a.win) a

/-- STAT bit of a refusal by its CAUSE (R169, R202). See log entry 26. -/
def refuseBit (cause : Nat) : Fld :=
  match cause with
  | 5 => WIN_O_STAT.PT_FAULT
  | 6 => WIN_O_STAT.PAGE_INVALID
  | _ => WIN_O_STAT.PAGE_WP

/-- An access refused by translation (R169). See log entry 26. -/
def Dev.refuseAcc (d : Dev) (a : Acc) (cause : Nat) : Dev :=
  let d := d.winEvent (refuseBit cause) false a.win.num
  if a.op.isWrite then
    if d.mired false a.win.num then d.mireDrop false a.win.num 1 else d.failWrite a cause true
  else d.complete a.die a.id .abort false []

/-! Placing an access at its tile -/

/-- The work of an access whose far address is known; `id` is its number in the list. -/
def accWork (a : Acc) (id : Nat) (ready : Bool) : Work :=
  { id := id, cls := if a.win.memory then .direct else .reg, port := a.win.routePort, am := a.win.am,
    job := match a.op with
           | .read _ => .read [a]
           | .write _ => .write [a]
           | .atomic .. => .atomic a .acquire 0 false,
    courses := if ready then accCourses a else [], lock := a.win.lock, epoch := a.epoch, ready := ready }

/-- Has the tile's staging room for more bytes of direct writes (R24)? -/
def Dev.roomFor (d : Dev) (lp n : Nat) : Bool :=
  let dir := (d.port lp).staged.2 + n
  decide (dir ≤ (if d.bonded lp then 2 else 1) * 32768) || decide (0 ≤ d.sharedRoom lp dir)

/-- Can a tile take in a request: a mortar route from its port (R30, R40), room in the command queue (R258), and for the data of a write room in
staging, behind earlier writes that wait (R24)? -/
def Dev.mayCome (d : Dev) (lp : Nat) (w : Work) : Bool :=
  (w.job.accs.all fun a => d.reach a.die (dieOf lp)) && d.chainRoom lp w.id &&
  (w.job.kind != 0 ||
    (!(((d.port lp).works.takeWhile fun v => v.id != w.id).any fun v => !v.came && v.job.kind == 0) && d.roomFor lp w.dataLen))

/-- A request taken in by its tile. -/
def Dev.comes (d : Dev) (lp : Nat) (w : Work) : Dev :=
  let d := (w.job.accs.head?.map (·.die)).elim d fun x => d.cross x (dieOf lp) (toTile lp)
  (d.chainPut lp w.id).pfTrim 64 lp

/-- Work put at a tile; for a port that is down it ends at once (R160), a zero-length read too, which R180 would complete with success (DESIGN
CHOICE, log entry 23). It waits where the tile cannot take it in. -/
def Dev.enlist (d : Dev) (w : Work) : Dev :=
  let lp := d.listOf w.port
  if d.listGone w.port then d.lostWork lp w.port w
  else
    let w := { w with came := d.mayCome lp w }
    let d := d.modPort lp fun o => { o with works := o.works ++ [w] }
    if w.came then d.comes lp w else d

/-- Requests that wait for their tile are taken in, in order. -/
def Dev.comeIn (d : Dev) (lp : Nat) : Dev :=
  (d.port lp).works.foldl (fun d w =>
    if !w.came && d.mayCome lp w then (d.putWork lp { w with came := true }).comes lp { w with came := true } else d) d

/-- Does a write extend a held run (R181)? -/
def extendsRun (r : Run) (a : Acc) : Bool :=
  match a.op with
  | .write bs =>
    let m := sortNat ((writeBytes a.win.order a.far bs).map (·.1))
    let lo := m.headD 0
    let hi := m.getLastD 0
    r.path == a.die && r.win == a.win && bs.all Option.isSome && !m.isEmpty && hi + 1 - lo == m.length &&
      lo == r.far + r.bytes.length && hi / 65536 == r.far / 65536
  | _ => false

/-- Does a write extend a run that a tile holds (R181)? Not behind another request of its path that waits for a page line. -/
def Dev.extends (d : Dev) (lp : Nat) (r : Run) (a : Acc) : Bool :=
  extendsRun r a && decide (r.last < a.id) &&
    !((d.port lp).works.any fun v => v.job.accs.any fun b => b.die == a.die && decide (r.last < b.id) && decide (b.id < a.id))

/-- Is a window one whose posted writes are combined (R181)? -/
def Win.combines (w : Win) : Bool := w.memory && w.posted && !w.sideEffect && w.wcHold != 0

/-- Bytes of a write from its lowest far byte to its highest. -/
def runBytes (a : Acc) : Nat × List (Option Byte) :=
  match a.op with
  | .write bs =>
    let m := writeBytes a.win.order a.far bs
    let as := sortNat (m.map (·.1))
    let lo := as.headD 0
    (lo, (List.range (as.getLastD lo + 1 - lo)).map fun k => (m.find? fun e => e.1 == lo + k).map (·.2))
  | _ => (a.far, [])

/-- A combining write joins a held run or opens one (R181, R182). -/
def Dev.runAdd (d : Dev) (lp : Nat) (a : Acc) : Dev :=
  let (lo, bs) := runBytes a
  let d := if d.roomFor lp bs.length then d else d.flushRuns lp fun r => d.extends lp r a
  let ended (r : Run) : Bool := (r.far + r.bytes.length) % 65536 == 0
  match (d.port lp).runs.find? fun r => d.extends lp r a with
  | some r =>
    let d := d.modPort lp fun o =>
      { o with runs := modFirst (fun q => q == r) (fun q => { q with bytes := q.bytes ++ bs, accs := q.accs ++ [a] }) o.runs }
    (d.flushRuns lp ended).pfTrim 64 lp
  | none =>
    let most := if d.bonded lp then 8 else 4
    let d := match (d.port lp).runs with
      | r :: _ => if most ≤ (d.port lp).runs.length then d.flushRuns lp fun q => q == r else d
      | [] => d
    let d := d.modPort lp fun o => { o with runs := o.runs ++ [{ path := a.die, win := a.win, far := lo, bytes := bs, accs := [a] }] }
    (d.flushRuns lp ended).pfTrim 64 lp

/-- May a write join a run, or open one: its window combines, and its port is there? -/
def Dev.mayRun (d : Dev) (lp : Nat) (a : Acc) : Bool :=
  match a.op with
  | .write bs => a.win.combines && !d.listGone lp && (d.active? lp || d.bondLives lp) && bs.any Option.isSome
  | _ => false

/-- An access whose far address is known takes its place (R181, R194). -/
def Dev.place (d : Dev) (a : Acc) : Dev :=
  let d := d.oweFar a
  let lp := d.listAt a.win
  match a.op with
  | .write _ =>
    if d.mayRun lp a && d.mayCome lp (accWork a a.id true) &&
        !((d.port lp).works.any fun v => !v.came && v.job.kind == 0) then d.runAdd lp a
    else d.enlist (accWork a a.id true)
  | _ => d.enlist (accWork a a.id true)

/-! Page lines (R168 to R172) -/

/-- A line wanted by an access: it joins the read in flight or starts one through the port of PT_DIE (R171). -/
def Dev.wantLine (d : Dev) (x : Nat) (w : Win) (line : Nat) (accs : List Acc) (ports : List Nat) : Dev :=
  let isFor (r : PageRead) : Bool := r.keep && r.inb == w.inb && r.win == w.num && r.tableB == w.ptSel && r.line == line
  if (d.tc x).reads.any isFor then
    d.modTc x fun t => { t with reads := modFirst isFor (fun r => { r with accs := r.accs ++ accs, ports := r.ports ++ ports }) t.reads }
  else
    let (i, d) := d.fresh
    let d := d.modTc x fun t =>
      { t with reads := t.reads ++ [{ id := i, inb := w.inb, win := w.num, tableB := w.ptSel, line := line, keep := true, accs := accs, ports := ports }] }
    let (j, d) := d.fresh
    d.hostFrom x
      { id := j, die := w.ptDie, kind := .read, addr := ((if w.ptSel then w.ptb else w.pta) + 64 * line) % 2 ^ 64, len := 64, who := .page x i }

/-- A combining write that waited for its page line joins a run (R181). What came later on its path and is not such a write itself has the
run issued before it (R182). -/
def Dev.runLate (d : Dev) (p : Nat) (a : Acc) : Dev :=
  let d := d.modPort p fun o => { o with works := o.works.filter fun w => !(w.job.accs.any fun b => b.id == a.id) }
  let d := d.flushRuns p fun r => r.path == a.die && decide (r.last < a.id) && !d.extends p r a
  let d := d.runAdd p a
  let later := ((d.port p).works.any fun w => w.job.accs.any fun b => b.die == a.die && decide (a.id < b.id) &&
      !(!w.ready && b.win == a.win && b.op.isWrite)) || ((d.port p).runs.any fun r => r.path == a.die && decide (a.id < r.last))
  if later then d.flushRuns p fun r => r.accs.any fun b => b.id == a.id else d

/-- A waiting access meets its page line. -/
def Dev.lineFor (d : Dev) (line : Option (List Nat)) (a : Acc) : Dev :=
  let lp := d.listAt a.win
  let waits (w : Work) : Bool := !w.ready && w.job.accs.any fun b => b.id == a.id
  match (d.livePorts.find? fun p => (d.port p).works.any waits) with
  | none => d
  | some p =>
    let rel := a.off - a.win.base
    let res := match line with
      | none => Xlate.refuse 5
      | some es => useEntry a.win rel (es.getD (rel / 2 ^ 21 % 8) 0) a.op.isWrite
    match res with
    | .far f =>
      let a := { a with far := f }
      let d := d.oweFar a
      if d.listGone lp then (d.modPort p fun o => { o with works := o.works.filter fun w => !waits w }).lostWork lp a.win.routePort (accWork a a.id true)
      else if d.mayRun lp a && (d.port p).works.any fun w => waits w && w.came then d.runLate p a
      else d.modPort p fun o => { o with works := o.works.map fun w => if waits w then { accWork a a.id true with came := w.came } else w }
    | .refuse c => (d.modPort p fun o => { o with works := o.works.filter fun w => !waits w }).refuseAcc a c
    | .miss _ => d

/-- A page line read ends (R171, R172): cached unless an invalidation covered it, given to every access that waits for it. -/
def Dev.pageDone (d : Dev) (x id : Nat) (line : Option (List Nat)) : Dev :=
  match (d.tc x).reads.find? fun r => r.id == id with
  | none => d
  | some r =>
    let d := d.modTc x fun t => { t with reads := t.reads.filter fun q => q.id != id }
    let d := match line with
      | some es => if r.keep then
          d.modTc x fun t => { t with lines := ({ inb := r.inb, win := r.win, tableB := r.tableB, line := r.line, entries := es } :: t.lines).take 16384 }
        else d
      | none => d
    let d := r.accs.foldl (fun d a => d.lineFor line a) d
    r.ports.foldl (fun d p => d.note (.pageIn p r.win r.tableB r.line line)) d

/-- Cached lines and reads in flight dropped (R172). -/
def Dev.invalidate (d : Dev) (x : Nat) (sel : Bool → Nat → Bool → Bool) : Dev :=
  let d := d.modTc x fun t =>
    { t with lines := t.lines.filter fun l => !sel l.inb l.win l.tableB,
             reads := t.reads.map fun r => if sel r.inb r.win r.tableB then { r with keep := false } else r }
  (d.livePorts.filter fun p => dieOf p == x).foldl (fun d p => d.pfChange p fun w => sel w.inb w.num w.ptSel) d

/-- A window's registers change on a die (R167, R182, R185): runs of its accesses issued under the old snapshot, prefetched data dropped. -/
def Dev.windowTouched (d : Dev) (x : Nat) (sel : Bool → Nat → Bool) : Dev :=
  let d := d.livePorts.foldl (fun d p => d.flushRuns p fun r => r.path == x && sel false r.win.num) d
  (d.livePorts.filter fun p => dieOf p == x).foldl (fun d p => d.pfChange p fun w => sel w.inb w.num) d

/-- Windows of a switch group on a die's replica. -/
def Dev.groupWindows (d : Dev) (x : Nat) (inb : Bool) (g : Nat) : List Nat :=
  let c := (winReg inb .WIN_O_ROUTE).ctorIdx
  (d.regs.filter fun e => e.1.a == c && e.1.b == x && bitsOf e.2 15 8 == g).map fun e => e.1.c

/-- The flip of PT_SEL in every window of a group on a die (R190). -/
def Dev.tcSwitch (d : Dev) (x g : Nat) : Dev :=
  let o := d.groupWindows x false g
  let i := d.groupWindows x true g
  let d := d.windowTouched x fun inb w => if inb then i.contains w else o.contains w
  let flip (inb : Bool) (d : Dev) (w : Nat) : Dev :=
    let r := winReg inb .WIN_O_CTL
    d.setReg r x w (d.reg r x w ^^^ 0x40000000#32)
  let d := i.foldl (flip true) (o.foldl (flip false) d)
  d.modTc x fun t => { t with switches := t.switches + 1 }

/-! Arrival (R90, R199, R204, R243, R244) -/

/-- The unit's refusal of a request to BAR4 (R243). -/
def Dev.denyAcc (d : Dev) (a : Option Acc) (x : Nat) (id : Nat) (isWrite : Bool) : Dev :=
  if isWrite then
    match a with
    | some a => if a.win.posted && d.mired false a.win.num then d else d.failWrite a 8 false
    | none => d.logPosted x true
  else d.complete x id .abort false []

/-- Does a failed NONPOSTED write wait for this read (R199)? -/
def failHits (a : Acc) (lp : Nat) (e : Nat × Nat × Nat × Bool) : Bool :=
  e.1 == a.win.num && e.2.1 == lp && (!(a.ido || e.2.2.2) || e.2.2.1 == a.rid)

/-- The failed write whose first later read an access is (R199): the read is not issued. -/
def Dev.failedRead (d : Dev) (a : Acc) : Option Dev :=
  match a.op with
  | .read _ => ((d.px a.die).failNext.find? (failHits a (d.listAt a.win))).map fun e =>
      (d.modPx a.die fun q => { q with failNext := (takeFirst (fun f => f == e) q.failNext).2 }).complete a.die a.id .abort false []
  | _ => none

/-- An access that a window holds and its unit allows goes on to the mire state, the failed writes of its stream and translation. -/
def Dev.letIn (d : Dev) (a : Acc) : Dev :=
  let x := a.die
  let lp := d.listAt a.win
  if d.mired false a.win.num then
    if a.op.isWrite then d.mireDrop false a.win.num 1 else d.complete x a.id .abort false []
  else
    match d.failedRead a with
    | some e => e
    | none =>
      let t := d.translate x a.win a.off a.op.isWrite
      let d := if a.win.paged then d.touchLine x a.win ((a.off - a.win.base) / 2 ^ 21 / 8) else d
      match t with
      | .refuse c => (d.flushRuns lp fun r => r.path == x).refuseAcc a c
      | .far f =>
        let a := { a with far := f }
        let d := d.flushRuns lp fun r => r.path == x && !d.extends lp r a
        d.place a
      | .miss line =>
        let d := if d.mayRun lp a then d else d.flushRuns lp fun r => r.path == x
        (d.enlist (accWork a a.id false)).wantLine x a.win line [a] []

/-- Is the operand of an AtomicOp off its natural alignment (R101)? See log entry 19. -/
def AccOp.malformed (off : Nat) : AccOp → Bool
  | .atomic _ size _ _ => off % size != 0
  | _ => false

/-- A request whose data the host marked as poisoned is not performed (R230); a non-posted one is answered Unsupported Request. See log entry 8. -/
def Dev.poisoned (d : Dev) (s : Src) (posted : Bool) : Dev :=
  let x := srcDie s
  let d := d.aer x .poisoned
  if posted then d else (d.bump PX_ERR_COUNT.UR_SENT x).emit (.cpl x s.rid s.tag .unsupported false [])

/-- A memory request or AtomicOp to BAR4 that its port takes; a malformed AtomicOp is discarded and logged. See log entry 19. -/
def Dev.directNow (d : Dev) (s : Src) (off : Nat) (op : AccOp) : Dev :=
  let x := srcDie s
  let isRead := match op with | .read _ => true | _ => false
  if op.malformed off then d.aer x .malformed
  else if s.poison && !isRead then d.poisoned s op.isWrite else
  let en := enOf op
  let len := en.length
  let isWrite := op.isWrite
  let (id, d) := if isWrite then d.fresh else d.owe s off len true
  if !d.takesBar x 2 then
    if isWrite then d.logPosted x false else d.complete x id .unsupported false []
  else
    let w := d.matchOut x off len
    let d := match w with
      | some w => d.modPx x fun q => { q with owed := q.owed.map fun (o : Owed) => if o.id == id then { o with mon := some w.num } else o }
      | none => d
    let mk (w : Win) : Acc := { id := id, die := x, rid := s.rid, tag := s.tag, ro := s.ro, ido := s.ido, op := op, off := off, win := w,
                                far := (match d.translate x w off false with | .far f => f | _ => 0), epoch := d.epoch x, sw := (d.tc x).switches }
    if !en.any id' then
      match w with
      | none => if isWrite then d.logPosted x false else d.complete x id .unsupported false []
      | some w => if isWrite then d else if d.mired false w.num then d.complete x id .abort false []
          else (d.failedRead (mk w)).getD ((d.flushRuns (d.listAt w) fun r => r.path == x).place (mk w))
    else
      let acc := match op with | .read _ => 0 | .write _ => 1 | .atomic .. => 3
      let (ans, d) := d.protCheck (d.srcReq s .aperture off len acc)
      if ans.denied then d.denyAcc (w.map mk) x id isWrite
      else
        match w with
        | none => if isWrite then d.logPosted x false else d.complete x id .unsupported false []
        | some w =>
          match op with
          | .atomic _ size _ _ =>
            if w.lock.isNone || decide (w.course < size) then d.complete x id .abort false [] else d.letIn (mk w)
          | _ => d.letIn (mk w)
where id' (b : Bool) : Bool := b

/-- A memory request or AtomicOp to BAR4 at a PCI Express port: it waits while the port withholds its credits (R96). -/
def Dev.direct (d : Dev) (s : Src) (off : Nat) (op : AccOp) : Dev :=
  if d.waitsCredit (srcDie s) op.isWrite then d.waitCredit (srcDie s) op.isWrite (.direct s off op) else d.directNow s off op

end Sys2Proof.Machine
end

