-- ==== Sys2Proof/Machine/Locks.lean ====
section
/-!
DEFINITION. Software and Body Bus masters at the semaphores (spec/07 R208 to R216).
-/

namespace Sys2Proof.Machine

/-- Is a semaphore free for the next grant: not held, and no access of the last release still to be issued (R210)? See log entry 27. -/
def Dev.semFree (d : Dev) (s : Nat) : Bool := (d.sem s).holder.isNone && (d.sem s).passing.isEmpty

/-- Does a path hold any semaphore as software (R213)? See log entry 27. -/
def Dev.swHolds (d : Dev) (path : Nat) : Bool := d.sems.any fun e => e.2.holder == some (.software path)

/-- A write of SEM_SW (R215): both bits set are a GIVE; a write through the Body Bus view has no effect. See log entry 27. -/
def Dev.semSw (d : Dev) (s path : Nat) (take give : Bool) : Dev :=
  if 16 ≤ path then d
  else if give then
    if (d.sem s).holder = some (.software path) then d.semRelease s else d
  else if take && d.semFree s && (d.sem s).resv.isNone && (d.sem s).waiting.isEmpty && !d.swHolds path then
    d.semGrant s (.software path)
  else d

/-- A reservation ends RESERVE after the release (R210). -/
def Dev.semResvEnd (d : Dev) (s : Nat) : Dev :=
  if (d.sem s).holder.isNone then (d.modSem s fun m => { m with resv := none }).semNext s else d

/-- An LCK of a port at a semaphore (R210, R211): granted, or refused with a reservation where none is held. -/
def Dev.semLck (d : Dev) (s port : Nat) : Bool × Dev :=
  let m := d.sem s
  if d.semFree s && (m.resv == none || m.resv == some port) && (m.resv.isSome || m.waiting.isEmpty) then
    (true, (d.modSem s fun m => { m with resv := none }).semGrant s (.master port))
  else
    let d := d.bump SEM_CNT.RTY_SENT 0 s
    if m.resv.isNone && d.fld SEM_CTL.RESERVE (d.homeOf s) s != 0 then (false, d.modSem s fun m => { m with resv := some port }) else (false, d)

/-- The lock of a port as master released (ULK, a port going down). -/
def Dev.masterRelease (d : Dev) (p : Nat) : Dev :=
  match (d.port p).inLock with
  | none => d
  | some s =>
    let d := d.modPort p fun o => { o with inLock := none }
    if (d.sem s).holder = some (.master p) then d.semRelease s else d

/-- Does the holder of a semaphore let an inbound access of a port through (R209)? -/
def Dev.semLetsPort (d : Dev) (s port : Nat) : Bool :=
  match (d.sem s).holder with
  | none => true
  | some h => h == .master port

end Sys2Proof.Machine
end

