-- ==== Sys2Proof/Machine/Pools.lean ====
section
/-!
DEFINITION. Buffer pools (spec/11): handles, the state table, the free store, owners, commands, the mailbox.
-/

namespace Sys2Proof.Machine

def Dev.pool (d : Dev) (p : Nat) : Pool := d.pools.get {} ⟨p, 0, 0⟩
def Dev.modPool (d : Dev) (p : Nat) (f : Pool → Pool) : Dev := { d with pools := d.pools.set {} ⟨p, 0, 0⟩ (f (d.pool p)) }
def Dev.mail (d : Dev) (path : Nat) : Mail := d.mails.get {} ⟨path, 0, 0⟩
def Dev.setMail (d : Dev) (path : Nat) (m : Mail) : Dev := { d with mails := d.mails.set {} ⟨path, 0, 0⟩ m }

/-! Set-up of a pool as its home reads it (R271, R272) -/

def Dev.poolOn (d : Dev) (p : Nat) : Bool := d.flag POOL_STAT.ACTIVE 0 p
def Dev.poolOwners (d : Dev) (p : Nat) : Nat := d.fld POOL_CTL.OWNERS (d.homeOf p) p
def Dev.poolCount (d : Dev) (p : Nat) : Nat := (d.reg .POOL_COUNT (d.homeOf p) p).toNat
def Dev.poolSize (d : Dev) (p : Nat) : Nat := d.fld POOL_SIZE.SIZE (d.homeOf p) p * 4096
def Dev.ringSize (d : Dev) (p : Nat) : Nat := 2 ^ d.fld POOL_CTL.RING_ORDER (d.homeOf p) p
def Dev.poolPair (d : Dev) (lo hi : RegId) (p : Nat) : Nat := d.pair lo hi (d.homeOf p) p / 4096 * 4096
def Dev.poolFree (d : Dev) (p : Nat) : Nat := (d.reg .POOL_FREE 0 p).toNat
def Dev.setPoolFree (d : Dev) (p v : Nat) : Dev := d.setReg .POOL_FREE 0 p (BitVec.ofNat 32 v)
def Dev.poolRd (d : Dev) (p : Nat) : Nat := (d.reg .POOL_RING_RD 0 p).toNat
def Dev.poolWr (d : Dev) (p : Nat) : Nat := (d.reg .POOL_RING_WR 0 p).toNat
def Dev.poolChg (d : Dev) (p o : Nat) : Nat := (d.reg .POOL_CHG 0 (p * 8 + o)).toNat
def Dev.setPoolChg (d : Dev) (p o v : Nat) : Dev := d.setReg .POOL_CHG 0 (p * 8 + o) (BitVec.ofNat 32 v)
def Dev.poolResv (d : Dev) (p o : Nat) : Nat := (d.reg .POOL_RESV (d.homeOf p) (p * 8 + o)).toNat

/-- Handles in the free ring (R278). -/
def Dev.ringHeld (d : Dev) (p : Nat) : Nat := (d.poolWr p + 2 ^ 32 - d.poolRd p) % 2 ^ 32

/-- Free count available to an owner (R282). -/
def Dev.avail (d : Dev) (p o : Nat) : Nat :=
  d.poolFree p - ((List.range (min (d.poolOwners p) 8)).filter fun q => q != o).foldl (fun s q => s + (d.poolResv p q - d.poolChg p q)) 0

/-! Handles and state entries (R275 to R277) -/

def handleOf (pool gen index : Nat) : Nat := pool * 2 ^ 40 + gen * 2 ^ 32 + index
def handlePool (h : Nat) : Nat := h / 2 ^ 40 % 256
def handleGen (h : Nat) : Nat := h / 2 ^ 32 % 256
def handleIndex (h : Nat) : Nat := h % 2 ^ 32

/-- A state entry taken apart. -/
structure PoolEntry where
  gen : Nat
  held : Bool
  freed : Bool
  list : List Nat
  deriving DecidableEq, Repr

def PoolEntry.ofNat (e : Nat) : PoolEntry :=
  { gen := e % 256, held := e.testBit 8, freed := e.testBit 9,
    list := (List.range (min (e / 65536 % 16) 8)).map fun k => e / 2 ^ (24 + 3 * k) % 8 }

def PoolEntry.toNat (e : PoolEntry) : Nat :=
  e.gen % 256 + (if e.held then 256 else 0) + (if e.freed then 512 else 0) + e.list.length * 65536 +
    (indexed e.list).foldl (fun s q => s + q.2 * 2 ^ (24 + 3 * q.1)) 0

/-- The generation after a return (R276). -/
def nextGen (g : Nat) : Nat := if g = 255 then 1 else g + 1

/-! Host accesses of the home die (R280) -/

/-- A write of the pool's bookkeeping, cut at 4 KiB boundaries of host memory. -/
def Dev.poolStore (d : Dev) (p addr : Nat) (bytes : List Byte) (who : Who) : Dev :=
  let x := d.fld POOL_CTL.HOST_DIE (d.homeOf p) p
  let n := min bytes.length (4096 - addr % 4096)
  let (i, d) := d.fresh
  let last := n == bytes.length
  let d := d.hostFrom (d.homeOf p)
    { id := i, die := x, kind := .write, addr := addr, len := n, data := bytes.take n, book := true, who := if last then who else .none }
  if last then d
  else
    let (j, d) := d.fresh
    d.hostFrom (d.homeOf p) { id := j, die := x, kind := .write, addr := addr + n, len := bytes.length - n, data := bytes.drop n, book := true, who := who }

/-- Handles written to the ring at RING_WR, which advances; past the last entry they go on at entry 0 (R278). -/
def Dev.ringPut (d : Dev) (p : Nat) (hs : List Nat) : Dev :=
  let size := d.ringSize p
  let at_ := d.poolWr p % size
  let base := d.poolPair .POOL_RING_LO .POOL_RING_HI p
  let n := min hs.length (size - at_)
  let enc (l : List Nat) : List Byte := l.flatMap fun h => bytesLE h 8
  let d := if n = 0 then d else d.poolStore p (base + 8 * at_) (enc (hs.take n)) .none
  let d := if n < hs.length then d.poolStore p base (enc (hs.drop n)) .none else d
  d.setReg .POOL_RING_WR 0 p (BitVec.ofNat 32 (d.poolWr p + hs.length))

/-- POOL_STAT.CACHE follows the cache. -/
def Dev.syncCache (d : Dev) (p : Nat) : Dev := d.setFld POOL_STAT.CACHE 0 p (d.pool p).cache.length

/-- A handle enters the cache: from 64 on, the 32 oldest go to the ring first (R278). -/
def Dev.cacheIn (d : Dev) (p h : Nat) : Dev :=
  let c := (d.pool p).cache
  let d := if 64 ≤ c.length then
      (d.ringPut p (c.take 32)).modPool p fun q => { q with cache := q.cache.drop 32 }
    else d
  (d.modPool p fun q => { q with cache := q.cache ++ [h] }).syncCache p

/-- An event of class 0x0D with SOURCE p (R290). -/
def Dev.poolStatus (d : Dev) (f : Fld) (p : Nat) : Dev := d.status f 0 p evPool (d.homeOf p) p

/-- A refill read started where the cache is below 16 handles and the ring holds some (R278); in a pool that is off only for GETs that
were in flight (R286). -/
def Dev.refill (d : Dev) (p : Nat) : Dev :=
  let q := d.pool p
  if (d.poolOn p || !q.gets.isEmpty) && q.refill.isNone && !q.stalled && decide (q.cache.length < 16) && decide (0 < d.ringHeld p) then
    let size := d.ringSize p
    let start := d.poolRd p % size
    let n := min (min 32 (d.ringHeld p)) (size - start)
    let addr := d.poolPair .POOL_RING_LO .POOL_RING_HI p + 8 * start
    let x := d.fld POOL_CTL.HOST_DIE (d.homeOf p) p
    let a := min (8 * n) (4096 - addr % 4096)
    let two := decide (a < 8 * n)
    let d := d.modPool p fun q => { q with refill := some { start := start, count := n, out := if two then [0, 1] else [0] } }
    let (i, d) := d.fresh
    let d := d.hostFrom (d.homeOf p) { id := i, die := x, kind := .read, addr := addr, len := a, who := .poolRefill p 0 }
    if two then
      let (j, d) := d.fresh
      d.hostFrom (d.homeOf p) { id := j, die := x, kind := .read, addr := addr + a, len := 8 * n - a, who := .poolRefill p 1 }
    else d
  else d

/-! Results (R285, R288, R290) -/

/-- The outcome of a command given to whoever gave it. -/
def Dev.poolGive (d : Dev) (c : PoolCmd) (status handle nown : Nat) : Dev :=
  match c.by_ with
  | .mailbox path =>
    let seq := (d.fld POOL_RES_STAT.SEQ path + 1) % 65536
    let d := d.setReg .POOL_RES_STAT path 0 (BitVec.ofNat 32 (seq * 65536 + c.op * 4096 + nown * 256 + status))
    let d := d.setPair .POOL_RES_LO .POOL_RES_HI path 0 handle
    d.setMail path { d.mail path with busy := false }
  | .mover die m ring desc => d.note (.poolEnd die m ring desc c.op status handle)
  | .tap _ _ t => d.note (.tapPool t c.op status handle)

/-- A command rejected with a status, with `nown` owners in the list: counted by kind, with an event unless POOL_EMPTY (R290). -/
def Dev.poolReject (d : Dev) (c : PoolCmd) (status : Nat) (nown : Nat := 0) : Dev :=
  let p := c.pool
  let cnt (f : Fld) : Dev := (d.bump f 0 p).raise (d.homeOf p) evPool ⟨.POOL_REJECT, 0, p⟩ f.lo p
  let d :=
    if status = 1 then d.bump POOL_REJECT.EMPTY 0 p
    else if status = 2 then cnt POOL_REJECT.STALE
    else if status = 3 ∨ status = 4 ∨ status = 5 then cnt POOL_REJECT.OWNERSHIP
    else d.raise (d.homeOf p) evPool ⟨.POOL_REJECT, 0, p⟩ 0 p
  d.poolGive c status (if c.op = 1 then 0 else c.handle) nown

/-! Commands (R283, R284) -/

/-- A state entry written for a command, which stays in flight until the write has been issued (R280). -/
def Dev.poolWriteEntry (d : Dev) (p : Nat) (j : PoolJob) (e : PoolEntry) : Dev :=
  let j := { j with writing := true, nown := e.list.length }
  let d := d.modPool p fun q => { q with jobs := (q.jobs.filter fun k => k.id != j.id) ++ [j] }
  d.poolStore p (d.poolPair .POOL_STATE_LO .POOL_STATE_HI p + 8 * j.index) (bytesLE e.toNat 8) (.poolWrite p j.id)

/-- Is a buffer free to be acted on, with fewer than 16 commands in flight (R280)? -/
def Dev.poolClear (d : Dev) (p index : Nat) : Bool :=
  decide ((d.pool p).jobs.length < 16) && !((d.pool p).jobs.any fun j => j.index == index)

/-- A GET takes the oldest cached handle once its buffer has no command in flight (R280), waits for a refill, or ends POOL_EMPTY (R278, R279, R284). -/
def Dev.poolTake (d : Dev) (c : PoolCmd) : Dev :=
  let p := c.pool
  if d.avail p c.owner = 0 then d.poolReject c 1
  else
    match (d.pool p).cache with
    | h :: r =>
      if !d.poolClear p (handleIndex h) then d.modPool p fun q => { q with queue := q.queue ++ [c] }
      else
      let d := (d.modPool p fun q => { q with cache := r }).syncCache p
      let d := (d.setPoolFree p (d.poolFree p - 1)).setPoolChg p c.owner (d.poolChg p c.owner + 1)
      let (i, d) := d.fresh
      d.poolWriteEntry p { id := i, cmd := c, index := handleIndex h, result := h }
        { gen := handleGen h, held := true, freed := false, list := [c.owner] }
    | [] =>
      if d.ringHeld p = 0 then d.poolReject c 1
      else d.modPool p fun q => { q with gets := q.gets ++ [c], stalled := false }

/-- A SHARE, RELEASE or FREE starts by reading its state entry. -/
def Dev.poolStart (d : Dev) (c : PoolCmd) : Dev :=
  let p := c.pool
  let i := handleIndex c.handle
  let (id, d) := d.fresh
  let d := d.modPool p fun q => { q with jobs := q.jobs ++ [{ id := id, cmd := c, index := i, result := c.handle }] }
  let (j, d) := d.fresh
  d.hostFrom (d.homeOf p)
    { id := j, die := d.fld POOL_CTL.HOST_DIE (d.homeOf p) p, kind := .read, addr := d.poolPair .POOL_STATE_LO .POOL_STATE_HI p + 8 * i,
      len := 8, who := .poolState p id }

/-- The buffer that a command acts on: that of its handle, or for a GET the oldest one cached. -/
def Dev.poolIndex (d : Dev) (c : PoolCmd) : Option Nat :=
  if c.op = 1 then (d.pool c.pool).cache.head?.map handleIndex else some (handleIndex c.handle)

/-- Commands that wait start as buffers come free, in order of arrival (R280). See log entry 33. -/
def Dev.poolNext : Nat → Dev → Nat → Dev
  | 0, d, _ => d
  | k + 1, d, p =>
    let r := takeFirst (fun c : PoolCmd => (d.poolIndex c).all fun i => d.poolClear p i) (d.pool p).queue
    match r.1 with
    | none => d
    | some c =>
      let d := d.modPool p fun q => { q with queue := r.2 }
      Dev.poolNext k (if c.op = 1 then d.poolTake c else d.poolStart c) p

/-- A command applied at its home (R284, R286). -/
def Dev.poolCmd (d : Dev) (c : PoolCmd) : Dev :=
  let c := if c.op = 2 ∨ c.op = 3 ∨ c.op = 4 then { c with pool := handlePool c.handle } else c
  let p := c.pool
  let rr := match c.by_ with
    | .mailbox path => path
    | .mover die m _ _ => 16 + 16 * die + m
    | .tap die m _ => 16 + 16 * die + m
  let d := d.setFld POOL_STAT.RR 0 p rr
  if c.op = 0 ∨ 4 < c.op then d.poolReject c 0x0D
  else if !d.poolOn p then d.poolReject c 0x0A
  else if c.op != 1 && (decide (2 ^ 48 ≤ c.handle) || handleGen c.handle == 0 || decide (d.poolCount p ≤ handleIndex c.handle)) then
    d.poolReject c 0x08
  else if d.poolOwners p ≤ c.owner ∨ (c.op = 2 ∧ d.poolOwners p ≤ c.newOwner) then d.poolReject c 0x09
  else if c.op = 1 then (d.poolTake c).refill p
  else if d.poolClear p (handleIndex c.handle) then d.poolStart c
  else d.modPool p fun q => { q with queue := q.queue ++ [c] }

/-- The check of a command against its state entry: the status of the first failing check (7 to 12 of R284), or the new entry. -/
def entryAfter (c : PoolCmd) (e : PoolEntry) : Except Nat PoolEntry :=
  let last := e.list.getLast? == some c.owner
  if e.gen ≠ handleGen c.handle ∨ !e.held ∨ (e.freed ∧ c.op ≠ 3) then .error 2
  else if !e.list.contains c.owner then .error 3
  else if c.op = 2 ∧ e.list.contains c.newOwner then .error 7
  else if c.op = 2 ∧ 8 ≤ e.list.length then .error 6
  else if c.op = 4 ∧ !last then .error 4
  else if c.op = 3 ∧ !e.freed ∧ last then .error 5
  else if c.op = 2 then .ok { e with list := e.list ++ [c.newOwner] }
  else
    let l := e.list.filter fun o => o != c.owner
    if l.isEmpty then .ok { gen := nextGen e.gen, held := false, freed := false, list := [] }
    else .ok { e with list := l, freed := e.freed || c.op == 4 }

/-- Charges after a list changes (R281). -/
def Dev.recharge (d : Dev) (p : Nat) (old new : Option Nat) : Dev :=
  if old = new then d
  else
    let d := match old with
      | some o => d.setPoolChg p o (d.poolChg p o - 1)
      | none => d
    match new with
    | some o => d.setPoolChg p o (d.poolChg p o + 1)
    | none => d

/-- The state entry of a command has been read, or its read has failed (R284). See log entry 33. -/
def Dev.poolStateDone (d : Dev) (p id : Nat) (entry : Option Nat) : Dev :=
  match (d.pool p).jobs.find? fun j => j.id == id && !j.writing with
  | none => d
  | some j =>
    let drop (d : Dev) : Dev := d.modPool p fun q => { q with jobs := q.jobs.filter fun k => k.id != id }
    match entry with
    | none =>
      let d := ((drop d).poolStatus POOL_STAT.HOST_FAULT p).poolReject j.cmd 0x0B
      d.poolNext (d.pool p).queue.length p
    | some v =>
      let e := PoolEntry.ofNat v
      match entryAfter j.cmd e with
      | .error s =>
        let d := (drop d).poolReject j.cmd s e.list.length
        d.poolNext (d.pool p).queue.length p
      | .ok e' =>
        let d := d.recharge p e.list.head? e'.list.head?
        let d := if e'.held then d
          else ((d.cacheIn p (handleOf p e'.gen j.index)).setPoolFree p (d.poolFree p + 1))
        d.poolWriteEntry p j e'

/-- After a change of the cache: a refill where it is low; in a pool that is off the handles go back to the ring (R274). -/
def Dev.poolRest (d : Dev) (p : Nat) : Dev :=
  let q := d.pool p
  if d.poolOn p || !q.gets.isEmpty then d.refill p
  else if q.cache.isEmpty || !q.queue.isEmpty then d
  else ((d.ringPut p q.cache).modPool p fun q => { q with cache := [] }).syncCache p

/-- The state write of a command has been issued: it gives its result (R280, R287). -/
def Dev.poolWritten (d : Dev) (p id : Nat) : Dev :=
  match (d.pool p).jobs.find? fun j => j.id == id && j.writing with
  | none => d
  | some j =>
    let d := d.modPool p fun q => { q with jobs := q.jobs.filter fun k => k.id != id }
    let d := d.poolGive j.cmd 0 j.result j.nown
    let d := d.poolNext (d.pool p).queue.length p
    d.poolRest p

/-! Refill (R278) -/

/-- GETs that waited for a refill are checked again: they take a handle, wait on while the ring holds handles, or end POOL_EMPTY.
See log entry 33. -/
def Dev.poolGets (d : Dev) (p : Nat) : Dev :=
  let w := (d.pool p).gets
  w.foldl Dev.poolTake (d.modPool p fun q => { q with gets := [] })

/-- A refill ends: its entries, or `none` where the read failed. See log entry 33. -/
def Dev.refillEnd (d : Dev) (p : Nat) (entries : Option (List Nat)) : Dev :=
  match (d.pool p).refill with
  | none => d
  | some r =>
    let d := d.modPool p fun q => { q with refill := none }
    match entries with
    | none =>
      let w := (d.pool p).gets
      let d := (d.modPool p fun q => { q with gets := [], stalled := true }).poolStatus POOL_STAT.HOST_FAULT p
      w.foldl (fun d c => d.poolReject c 0x0B) d
    | some es =>
      let d := d.setReg .POOL_RING_RD 0 p (BitVec.ofNat 32 (d.poolRd p + r.count))
      let ok (h : Nat) : Bool := handlePool h == p && decide (handleIndex h < d.poolCount p) && handleGen h != 0 && decide (h < 2 ^ 48)
      let d := (es.take r.count).foldl (fun d h =>
        if ok h then d.cacheIn p h
        else (d.setPoolFree p (d.poolFree p - 1)).poolStatus POOL_STAT.RING_BAD p) d
      ((d.syncCache p).poolGets p).poolRest p

/-- The home die of a pool is lost (R289): commands that had not given their result end HOME_LOST; a GET among them took no handle; a
refill goes on at the mirror. See log entry 39. -/
def Dev.poolHomeLost (d : Dev) (p : Nat) : Dev :=
  let q := d.pool p
  let d := (q.jobs.reverse.filter fun j => j.cmd.op == 1).foldl (fun d j =>
    let d := (d.modPool p fun q => { q with cache := j.result :: q.cache }).syncCache p
    (d.setPoolFree p (d.poolFree p + 1)).setPoolChg p j.cmd.owner (d.poolChg p j.cmd.owner - 1)) d
  let d := d.modPool p fun q => { q with jobs := [], gets := [], queue := [] }
  ((q.jobs.map (·.cmd)) ++ q.gets ++ q.queue).foldl (fun d c => d.poolReject c 0x0C) d

/-- One request of a refill ends. -/
def Dev.refillPiece (d : Dev) (p piece : Nat) (ok : Bool) (data : List Byte) : Dev :=
  match (d.pool p).refill with
  | none => d
  | some r =>
    let r := { r with out := r.out.filter fun k => k != piece, got := r.got ++ [(piece, data)], failed := r.failed || !ok }
    let d := d.modPool p fun q => { q with refill := some r }
    if !r.out.isEmpty then d
    else if r.failed then d.refillEnd p none
    else
      let bs := (r.got.find? fun e => e.1 == 0).elim [] (·.2) ++ (r.got.find? fun e => e.1 == 1).elim [] (·.2)
      d.refillEnd p (some ((List.range r.count).map fun k => natLE ((bs.drop (8 * k)).take 8)))

/-! Set-up (R273, R274) -/

/-- Extent of a pool by a die's replica. -/
def Dev.poolExtent (d : Dev) (x p : Nat) : Nat := (d.reg .POOL_COUNT x p).toNat * (d.fld POOL_SIZE.SIZE x p * 4096)

/-- Pools enabled in a die's replica. -/
def Dev.poolsOn (d : Dev) (x : Nat) : List Nat :=
  (List.range 256).filter fun p => d.flag POOL_CTL.EN x p

/-- POOL_TOTAL (R273). -/
def Dev.poolTotal (d : Dev) (x : Nat) : Nat := (d.poolsOn x).foldl (fun s p => s + d.poolExtent x p) 0

/-- The states of R273 in which a pool cannot be enabled. -/
def Dev.poolInvalid (d : Dev) (x p : Nat) : Bool :=
  let count := (d.reg .POOL_COUNT x p).toNat
  let owners := d.fld POOL_CTL.OWNERS x p
  let order := d.fld POOL_CTL.RING_ORDER x p
  let bb := d.flag POOL_CTL.KIND x p
  let space := d.fld POOL_CTL.SPACE x p
  let target := d.fld POOL_TARGET.TARGET x p
  let base := d.pair .POOL_BASE_LO .POOL_BASE_HI x p / 4096 * 4096
  count == 0 || d.fld POOL_SIZE.SIZE x p == 0 || owners == 0 || decide (8 < owners) ||
  decide (2 ^ order < count) || decide (order < 6) || decide (32 < order) ||
  (bb && (!(space == 1 || space == 2) || (!d.flag POOL_TARGET.STRIPE x p && decide (8 * d.n ≤ target)))) ||
  (bb && decide (2 ^ 48 < base + d.poolExtent x p)) ||
  decide (count < (List.range (min owners 8)).foldl (fun s o => s + (d.reg .POOL_RESV x (p * 8 + o)).toNat) 0) ||
  decide (d.n ≤ d.fld POOL_CTL.HOST_DIE x p) || decide (2 ^ 46 < d.poolTotal x)

/-- The home follows EN (R274). -/
def Dev.poolSwitch (d : Dev) (p : Nat) : Dev :=
  let en := d.flag POOL_CTL.EN (d.homeOf p) p
  if en && !d.poolOn p then
    let d := ((d.setReg .POOL_RING_RD 0 p 0).setReg .POOL_RING_WR 0 p (BitVec.ofNat 32 (d.poolCount p))).setPoolFree p (d.poolCount p)
    let d := (List.range 8).foldl (fun d o => d.setPoolChg p o 0) d
    let d := (d.modPool p fun q => { q with cache := [], stalled := false, refill := none }).syncCache p
    let d := d.forgetReads fun w => w == .poolRefill p 0 || w == .poolRefill p 1
    ((d.setFld POOL_STAT.RR 0 p 0).setFld POOL_STAT.ACTIVE 0 p 1).refill p
  else if !en && d.poolOn p then
    let d := d.setFld POOL_STAT.ACTIVE 0 p 0
    let c := (d.pool p).cache
    ((d.ringPut p c).modPool p fun q => { q with cache := [] }).syncCache p
  else d

/-- After a write to a set-up register of a pool on a die (R273). -/
def Dev.poolCheck (d : Dev) (x p : Nat) : Dev :=
  let bad := d.flag POOL_CTL.EN x p && d.poolInvalid x p
  let d := if bad then d.setFld POOL_CTL.EN x p 0 else d
  if x = d.homeOf p then
    (if bad then d.poolStatus POOL_STAT.CFG_REFUSED p else d).poolSwitch p
  else d

/-! The mailbox (R67, R288) -/

/-- The command that a word of POOL_CMD gives on a path. -/
def mailCmd (path : Nat) (w : Word) (handle : Nat) : PoolCmd :=
  { by_ := .mailbox path, op := bitsOf w 31 28, pool := bitsOf w 27 20, handle := handle, owner := bitsOf w 10 8, newOwner := bitsOf w 2 0 }

/-- A write of POOL_CMD: applied, held behind an unapplied one, or discarded; the answer tells whether it was discarded. -/
def Dev.mailWrite (d : Dev) (path : Nat) (w : Word) : Bool × Dev :=
  let m := d.mail path
  let h := d.pair .POOL_ARG_LO .POOL_ARG_HI path 0
  if !m.busy then (false, (d.setMail path { m with busy := true }).poolCmd (mailCmd path w h))
  else if m.held.isNone then (false, d.setMail path { m with held := some (w, h) })
  else (true, d)

/-- A held trigger is acted on once its mailbox is free. -/
def Dev.mailNext (d : Dev) (path : Nat) : Dev :=
  let m := d.mail path
  if m.busy then d
  else
    match m.held with
    | some (w, h) => (d.setMail path { busy := true, held := none }).poolCmd (mailCmd path w h)
    | none => d

end Sys2Proof.Machine
end

