-- ==== Sys2Proof/Machine/Taps.lean ====
section
/-!
DEFINITION. Picture taps (spec/13 R322 to R338): tap sets, the tap buffer, coarse planes, activity, the finish of a picture and the tap log.
-/

namespace Sys2Proof.Machine

def Dev.tap (d : Dev) (t : Nat) : Tap := d.taps.get {} ⟨t, 0, 0⟩
def Dev.setTap (d : Dev) (t : Nat) (x : Tap) : Dev := { d with taps := d.taps.set {} ⟨t, 0, 0⟩ x }
def Dev.setTapRun (d : Dev) (t : Nat) (r : Option TapRun) : Dev :=
  (d.setTap t { d.tap t with run := r }).setFld TAP_STAT.BUSY 0 t (if r.isSome then 1 else 0)

/-! Formats and geometry (R322, R323, R329) -/

/-- What TAP_CTL and TAP_GEOM say of a picture. -/
structure TapForm where
  fmt : Nat
  bits : Nat
  bh : Nat
  comp : Nat
  width : Nat
  height : Nat
  deriving DecidableEq, Repr

def tapForm (ctl geom : Word) : TapForm :=
  { fmt := bitsOf ctl 28 26, bits := 10 + 2 * bitsOf ctl 25 24, bh := if ctl.getLsbD 23 then 32 else 16, comp := bitsOf ctl 22 21,
    width := bitsOf geom 31 16, height := bitsOf geom 15 0 }

/-- Samples of a picture row. -/
def TapForm.s (f : TapForm) : Nat := if f.fmt = 2 then 2 * f.width else f.width
def TapForm.vs (f : TapForm) : Nat := if f.fmt = 1 then 2 else 1
def TapForm.wc (f : TapForm) : Nat := if f.fmt = 1 then f.width / 2 else if f.fmt = 2 ∧ f.comp ≠ 0 then f.width / 2 else f.width
def TapForm.hc (f : TapForm) : Nat := if f.fmt = 1 then f.height / 2 else f.height
/-- Bytes of a row that hold samples. -/
def TapForm.used (f : TapForm) : Nat := (f.s * f.bits + 7) / 8

def ceilDiv (a b : Nat) : Nat := (a + b - 1) / b
def up4k (n : Nat) : Nat := ceilDiv n 4096 * 4096

def TapForm.nbr (f : TapForm) : Nat := ceilDiv f.height f.bh
def TapForm.ns (f : TapForm) : Nat := ceilDiv f.s 256
def TapForm.seg (f : TapForm) : Nat := 32 * f.bits
def TapForm.w2 (f : TapForm) : Nat := ceilDiv f.wc 2
def TapForm.h2 (f : TapForm) : Nat := ceilDiv f.hc 2
def TapForm.w4 (f : TapForm) : Nat := ceilDiv f.wc 4
def TapForm.h4 (f : TapForm) : Nat := ceilDiv f.hc 4
def TapForm.p2 (f : TapForm) : Nat := ceilDiv (2 * f.w2) 64 * 64
def TapForm.p4 (f : TapForm) : Nat := ceilDiv (2 * f.w4) 64 * 64
def TapForm.lr (f : TapForm) : Nat := f.nbr * f.ns * f.bh * f.seg
def TapForm.o2 (f : TapForm) : Nat := up4k f.lr
def TapForm.o4 (f : TapForm) : Nat := f.o2 + up4k (f.p2 * f.h2)
def TapForm.oa (f : TapForm) : Nat := f.o4 + up4k (f.p4 * f.h4)
def TapForm.len (f : TapForm) : Nat := f.oa + up4k (16 * f.nbr)
/-- Rows of the coarse planes that a block row owns (R331). -/
def TapForm.r2 (f : TapForm) : Nat := f.bh / (2 * f.vs)
def TapForm.r4 (f : TapForm) : Nat := f.r2 / 2

/-- The states of R325 in which a tap set cannot be enabled. -/
def Dev.tapInvalid (d : Dev) (x t : Nat) : Bool :=
  let ctl := d.reg .TAP_CTL x t
  let f := tapForm ctl (d.reg .TAP_GEOM x t)
  let order := d.fld TAP_LOG_CTL.ORDER x t
  decide (2 < f.fmt) || (f.fmt == 2 && decide (14 ≤ f.bits)) ||
  (f.fmt == 0 && decide (0 < f.comp)) || (f.fmt == 2 && decide (2 < f.comp)) ||
  decide (f.width < 8) || decide (f.height < 8) || decide (16384 < f.width) ||
  (f.fmt == 1 && (f.width % 2 == 1 || f.height % 2 == 1)) || (f.fmt == 2 && f.width % 2 == 1) ||
  bitsOf ctl 16 14 == bitsOf ctl 13 11 || decide (d.n ≤ bitsOf ctl 10 8) ||
  decide (order < 4) || decide (16 < order) || d.pair .TAP_LOG_LO .TAP_LOG_HI x t / 4096 == 0

/-! Samples, coarse planes, activity (R323, R330 to R332) -/

/-- The samples of packed bytes, most significant bit first. -/
def unpack (b : Nat) : Nat → Nat → List Byte → List Nat
  | _, _, [] => []
  | acc, nb, x :: r =>
    let acc := acc * 256 + x.toNat
    let nb := nb + 8
    if b ≤ nb then (acc / 2 ^ (nb - b)) % 2 ^ b :: unpack b (acc % 2 ^ (nb - b)) (nb - b) r
    else unpack b acc nb r

/-- Every `step`-th element of a list from place `from_` on. -/
def every (step from_ : Nat) (l : List Nat) : List Nat := ((indexed l).filter fun e => e.1 % step == from_).map (·.2)

/-- Component samples of a picture row. -/
def TapForm.compRow (f : TapForm) (samples : List Nat) : List Nat :=
  if f.fmt = 0 then samples
  else if f.fmt = 1 then every 2 (f.comp % 2) samples
  else if f.comp = 0 then every 2 1 samples
  else every 4 (2 * (f.comp - 1)) samples

/-- Rows of bytes cut from a block row. -/
def rowsOf (rowBytes : Nat) : Nat → List Byte → List (List Byte)
  | 0, _ => []
  | k + 1, bs => bs.take rowBytes :: rowsOf rowBytes k (bs.drop rowBytes)

/-- Component rows that a block row holds. -/
def TapForm.compRows (f : TapForm) (rows : List (List Byte)) : List (List Nat) :=
  let mine := (indexed rows).filter fun e => f.fmt != 1 || e.1 % 2 == f.comp / 2
  mine.map fun e => f.compRow ((unpack f.bits 0 0 (e.2.take f.used)).take f.s)

/-- Sums of neighbouring groups of `n`, the last element standing in for what a group lacks. -/
def groupSums (n : Nat) : Nat → List Nat → List Nat
  | 0, _ => []
  | k + 1, l =>
    match l with
    | [] => []
    | _ =>
      let g := l.take n
      (g.foldl (· + ·) 0 + (n - g.length) * g.getLastD 0) :: groupSums n k (l.drop n)

/-- Sums down columns of `n` rows, the last row standing in for missing ones. -/
def columnSums (n : Nat) (rows : List (List Nat)) : List Nat :=
  let g := rows.take n
  let pad := List.replicate (n - g.length) (g.getLastD [])
  match g ++ pad with
  | [] => []
  | r :: rs => rs.foldl (fun a b => List.zipWith (· + ·) a b) r

/-- A coarse plane of box `n`: averages rounded to nearest, halves up (R331). -/
def boxPlane (n : Nat) : Nat → List (List Nat) → List (List Nat)
  | 0, _ => []
  | k + 1, rows =>
    match rows with
    | [] => []
    | _ =>
      let c := columnSums n rows
      ((groupSums n c.length c).map fun s => (s + n * n / 2) / (n * n)) :: boxPlane n k (rows.drop n)

def absDiff (a b : Nat) : Nat := if a < b then b - a else a - b

/-- Sum of differences of neighbours along a row. -/
def alongRow : List Nat → Nat
  | a :: b :: r => absDiff b a + alongRow (b :: r)
  | _ => 0

def betweenRows (a b : List Nat) : Nat := (List.zipWith absDiff a b).foldl (· + ·) 0

/-- The spatial term of a block row. -/
def spatial : List (List Nat) → Nat
  | [] => 0
  | [a] => alongRow a
  | a :: b :: r => alongRow a + betweenRows b a + spatial (b :: r)

/-- The temporal term against the previous picture's rows. -/
def temporal (c p : List (List Nat)) : Nat := (List.zipWith betweenRows c p).foldl (· + ·) 0

/-- Row of a coarse plane as stored: 16-bit little-endian words, pitch bytes 0. -/
def planeRow (pitch : Nat) (l : List Nat) : List Byte :=
  let bs := l.flatMap fun v => bytesLE v 2
  bs ++ List.replicate (pitch - bs.length) 0

/-- Values of a stored plane row. -/
def planeValues (w : Nat) (bs : List Byte) : List Nat := (List.range w).map fun k => natLE ((bs.drop (2 * k)).take 2)

/-- Block-row reformat of R330: every strip of a block row, its rows in order, unused bytes 0. -/
def TapForm.reformat (f : TapForm) (rows : List (List Byte)) : List Byte :=
  (List.range f.ns).flatMap fun s => (List.range f.bh).flatMap fun y =>
    let seg := (((rows.getD y []).take f.used).drop (s * f.seg)).take f.seg
    seg ++ List.replicate (f.seg - seg.length) 0

/-- The activity record of a block row (R332). -/
def activityRecord (k s t tw : Nat) (first partial_ : Bool) : List Byte :=
  let top := 0xFFFFFFFF
  let s := min s top
  let t := min t top
  bytesLE (min (s + tw * t) top) 4 ++ bytesLE s 4 ++ bytesLE t 4 ++
    bytesLE ((if first then 2 ^ 31 else 0) + (if partial_ then 2 ^ 30 else 0) + k) 4

/-! Host accesses of a tap (R328) -/

def tapDie (r : TapRun) : Nat := bitsOf r.ctl 10 8

/-- The mover's unit asked about a host range. -/
def Dev.moverProt (d : Dev) (die m : Nat) (sup : Bool) (addr len access : Nat) : ProtAns × Dev :=
  d.protCheck { u := 32 * die + 9 + m, kind := .host, addr := addr, len := len, sup := sup, access := access }

/-- A tap failure kept: the first one counts and raises an event (R336). -/
def Dev.tapFail (d : Dev) (t : Nat) (r : TapRun) (status poolStatus : Nat) : Dev × TapRun :=
  let f : Fld := match status with
    | 3 => TAP_ERR.POOL_FAIL
    | 4 => TAP_ERR.HOST_FAIL
    | 5 => TAP_ERR.SHED
    | _ => TAP_ERR.CUT
  ((d.bump f 0 t).raise (d.homeOf t) evTap ⟨.TAP_ERR, 0, t⟩ f.lo t, { r with status := status, poolStatus := poolStatus })

/-- A pool command of a tap. -/
def tapCmd (t : Nat) (die m op pool handle owner newOwner : Nat) : PoolCmd :=
  { by_ := .tap die m t, op := op, pool := pool, handle := handle, owner := owner, newOwner := newOwner }

def tapOwner (r : TapRun) : Nat := bitsOf r.ctl 16 14

/-- The steps after a failure (R336): FREE of the own buffer, RELEASE of the previous one, then the entry. -/
def Dev.tapUnwind (d : Dev) (t : Nat) (r : TapRun) : Dev :=
  let r := { r with pend := [], buf := [], out := [], parts := [] }
  if r.handle ≠ 0 ∧ r.phase ≠ .freeOwn then
    (d.setTapRun t (some { r with phase := .freeOwn })).poolCmd (tapCmd t r.die r.m 4 0 r.handle (tapOwner r) 0)
  else if d.flag TAP_STAT.HAS_PREV 0 t then
    let h := d.pair .TAP_PREV_LO .TAP_PREV_HI 0 t
    ((d.setFld TAP_STAT.HAS_PREV 0 t 0).setTapRun t (some { r with phase := .dropPrev })).poolCmd
      (tapCmd t r.die r.m 3 0 h (d.tap t).owner 0)
  else d.setTapRun t (some { r with phase := .badLog })

/-- The allowed parts of an access of a tap that is denied in part are performed all the same (R243). -/
def Dev.tapAllowed (d : Dev) (r : TapRun) (kind : ReqKind) (addr : Nat) (parts : List (Nat × Nat)) (bytes : List Byte) : Dev :=
  let x := tapDie r
  let most := if kind = .write then d.mps x else d.mrrs x
  (parts.flatMap fun p => (hostCuts most p.2 0 (addr + p.1) p.2).map fun c => (p.1 + c.1, c.2.1, c.2.2)).foldl (fun d c =>
    let (i, d) := d.fresh
    d.hostFrom r.die
      { id := i, die := x, kind := kind, addr := c.2.1, len := c.2.2, data := (bytes.drop c.1).take c.2.2, ro := true,
        chk := some (r.die, d.epoch r.die) }) d

/-- Tap writes to host memory, checked by the mover's unit. -/
def Dev.tapStore (d : Dev) (t addr : Nat) (bytes : List Byte) : Dev :=
  match (d.tap t).run with
  | none => d
  | some r =>
    if r.phase ≠ .run then d
    else
      let x := tapDie r
      let (ans, d) := d.moverProt r.die r.m r.sup addr bytes.length 1
      if ans.denied then
        let (d, r) := (d.tapAllowed r .write addr ans.parts bytes).tapFail t r 4 0
        d.tapUnwind t r
      else
        (hostCuts (d.mps x) bytes.length 0 addr bytes.length).foldl (fun d c =>
          match (d.tap t).run with
          | none => d
          | some r =>
            let p := r.nextPiece
            let d := d.setTapRun t (some { r with nextPiece := p + 1, out := r.out ++ [p] })
            let (i, d) := d.fresh
            d.hostFrom r.die
              { id := i, die := x, kind := .write, addr := c.2.1, len := c.2.2, data := (bytes.drop c.1).take c.2.2, ro := true,
                who := .tap t p, chk := some (r.die, d.epoch r.die) }) d

/-- History ends part way through a picture (R333). -/
def Dev.tapNoHistory (d : Dev) (t : Nat) (r : TapRun) : Dev :=
  ((d.bump TAP_ERR.HOST_FAIL 0 t).raise (d.homeOf t) evTap ⟨.TAP_ERR, 0, t⟩ TAP_ERR.HOST_FAIL.lo t).setTapRun t
    (some { r with first := true, parts := [], p4 := none })

/-- The P4 rows of the next block row read from the previous picture's buffer. -/
def Dev.tapReadPrev (d : Dev) (t : Nat) : Dev :=
  match (d.tap t).run with
  | none => d
  | some r =>
    let f := tapForm r.ctl r.geom
    if r.phase ≠ .run ∨ r.first ∨ f.nbr ≤ r.row then d
    else
      let h := d.pair .TAP_PREV_LO .TAP_PREV_HI 0 t
      let p := handlePool h
      let base := d.poolPair .POOL_BASE_LO .POOL_BASE_HI p + handleIndex h * d.poolSize p
      let y := r.row * f.r4
      let rows := min f.r4 (f.h4 - y)
      let addr := base + f.o4 + y * f.p4
      let len := rows * f.p4
      if len = 0 then d.setTapRun t (some { r with p4 := some [] })
      else
        let x := tapDie r
        let (ans, d) := d.moverProt r.die r.m r.sup addr len 0
        if ans.denied then (d.tapAllowed r .read addr ans.parts []).tapNoHistory t r
        else
          let cuts := hostCuts (d.mrrs x) len 0 addr len
          let d := d.setTapRun t (some { r with nextPiece := r.nextPiece + cuts.length,
                                                parts := (indexed cuts).map fun c => (r.nextPiece + c.1, none) })
          (indexed cuts).foldl (fun d c =>
            let (i, d) := d.fresh
            d.hostFrom r.die
              { id := i, die := x, kind := .read, addr := c.2.2.1, len := c.2.2.2, ro := true, who := .tap t (r.nextPiece + c.1),
                chk := some (r.die, d.epoch r.die) }) d

/-- A block row written once its bytes and its history are there (R330 to R332); then the next one. -/
def Dev.tapRows : Nat → Dev → Nat → Dev
  | 0, d, _ => d
  | n + 1, d, t =>
    match (d.tap t).run with
    | none => d
    | some r =>
      let f := tapForm r.ctl r.geom
      let k := r.row
      let nrows := min f.bh (f.height - k * f.bh)
      if r.phase ≠ .run ∨ f.nbr ≤ k ∨ r.buf.length < nrows * r.rowBytes ∨ (!r.first ∧ r.p4.isNone) then d
      else
        let rows := rowsOf r.rowBytes nrows r.buf
        let comp := f.compRows rows
        let c2 := (boxPlane 2 comp.length comp).take (f.h2 - k * f.r2)
        let c4 := (boxPlane 4 comp.length comp).take (f.h4 - k * f.r4)
        let p4 := (List.range c4.length).map fun y => planeValues f.w4 (((r.p4.getD []).drop (y * f.p4)).take f.p4)
        let tt := if r.first then 0 else temporal c4 p4
        let rec_ := activityRecord k (spatial c2) tt (bitsOf r.ctl 20 17) r.first (decide (nrows < f.bh))
        let d := d.setTapRun t (some { r with buf := r.buf.drop (nrows * r.rowBytes), p4 := none, anyFirst := r.anyFirst || r.first })
        let d := d.tapStore t (r.base + k * f.ns * f.bh * f.seg) (f.reformat rows)
        let d := d.tapStore t (r.base + f.o2 + k * f.r2 * f.p2) (c2.flatMap (planeRow f.p2))
        let d := d.tapStore t (r.base + f.o4 + k * f.r4 * f.p4) (c4.flatMap (planeRow f.p4))
        let d := d.tapStore t (r.base + f.oa + 16 * k) rec_
        match (d.tap t).run with
        | none => d
        | some r => if r.phase ≠ .run then d else Dev.tapRows n ((d.setTapRun t (some { r with row := k + 1 })).tapReadPrev t) t

/-- Staged bytes taken in ascending picture offset (R334). -/
def takePend : Nat → Nat → List Byte → List (Nat × List Byte) → Nat × List Byte × List (Nat × List Byte)
  | 0, a, b, p => (a, b, p)
  | n + 1, a, b, p =>
    match takeFirst (fun e => e.1 == a) p with
    | (some e, r) => takePend n (a + e.2.length) (b ++ e.2) r
    | (none, _) => (a, b, p)

/-- The mover presents bytes of the picture to the tap. -/
def Dev.tapFeed (d : Dev) (t ring desc off : Nat) (bytes : List Byte) : Dev :=
  match (d.tap t).run with
  | none => d
  | some r =>
    if r.ring ≠ ring ∨ r.desc ≠ desc ∨ r.phase ≠ .run then d
    else
      let p := r.pend ++ [(off, bytes)]
      let (a, b, p) := takePend p.length r.at_ r.buf p
      let d := d.setTapRun t (some { r with pend := p, at_ := a, buf := b })
      d.tapRows ((tapForm r.ctl r.geom).nbr + 1) t

/-! The start of a picture (R326, R327) -/

/-- Pictures that the engine of a mover's cluster taps now (R334). -/
def Dev.engineLoad (d : Dev) (die m : Nat) : Nat :=
  (d.taps.filter fun e => e.2.run.any fun r => r.die == die && r.m / 8 == m / 8).length

/-- Checks 1 and 2 of R327: the DETAIL of the first that fails. See log entry 37. -/
def Dev.tapCheck (d : Dev) (t rows rowBytes : Nat) : Option Nat :=
  let x := d.homeOf t
  let ctl := d.reg .TAP_CTL x t
  if !ctl.getLsbD 31 then some 1
  else
    let f := tapForm ctl (d.reg .TAP_GEOM x t)
    let p := bitsOf ctl 7 0
    if rows = f.height ∧ f.used ≤ rowBytes ∧ d.poolOn p ∧ !d.flag POOL_CTL.KIND (d.homeOf p) p ∧ f.len ≤ d.poolSize p then none
    else some 2

/-- Check 3: the tap asks for its buffer, under its snapshot. See log entry 37. -/
def Dev.tapOpen (d : Dev) (t ring desc die m : Nat) (sup : Bool) (rowBytes picture : Nat) : Dev :=
  let x := d.homeOf t
  let ctl := d.reg .TAP_CTL x t
  let r : TapRun := { ring := ring, desc := desc, die := die, m := m, sup := sup, ctl := ctl, geom := d.reg .TAP_GEOM x t, rowBytes := rowBytes,
                      picture := picture, logBase := d.pair .TAP_LOG_LO .TAP_LOG_HI x t / 4096 * 4096, logCtl := d.reg .TAP_LOG_CTL x t,
                      first := !d.flag TAP_STAT.HAS_PREV 0 t }
  let d := d.setTap t { d.tap t with die := die, m := m }
  (d.setTapRun t (some r)).poolCmd (tapCmd t die m 1 (bitsOf ctl 7 0) 0 (tapOwner r) 0)

/-! The finish (R328, R336, R337) -/

/-- Is the tap log full? -/
def Dev.tapLogFull (d : Dev) (t : Nat) (r : TapRun) : Bool :=
  let order := bitsOf r.logCtl 4 0
  (d.fld TAP_LOG_PTR.WR 0 t + 65536 - d.fld TAP_LOG_PTR.RD 0 t) % 65536 == min (2 ^ order) 65535

/-- The tap entry of a picture (R337). -/
def tapEntry (r : TapRun) (seq : Nat) : List Word :=
  let w := BitVec.ofNat 32
  let h := if r.status = 0 ∨ r.poolStatus ≠ 0 then r.handle else 0
  [w (0x60000000 + r.status * 2 ^ 24 + (if r.anyFirst then 2 ^ 23 else 0) + seq), w r.picture, w (r.desc * 65536 + r.ring),
   w (r.row * 65536 + r.poolStatus), w h, w (h / 2 ^ 32), 0, 0]

/-- The entry on its way to the log, words 1 to 7 first, once the log has room (R337, R449). -/
def Dev.tapLog (d : Dev) (t : Nat) : Dev :=
  match (d.tap t).run with
  | none => d
  | some r =>
    if (r.phase = .log ∨ r.phase = .badLog) ∧ !r.logOut ∧ !d.tapLogFull t r then
      let seq := (d.fld TAP_STAT.SEQ 0 t + 1) % 65536
      let e := tapEntry r seq
      let addr := r.logBase + 32 * (d.fld TAP_LOG_PTR.WR 0 t % 2 ^ bitsOf r.logCtl 4 0)
      let d := d.setTapRun t (some { r with logOut := true })
      let (i, d) := d.fresh
      let (j, d) := d.fresh
      let d := d.hostFrom r.die { id := i, die := tapDie r, kind := .write, addr := addr + 4, len := 28, data := bytesOfWords (e.drop 1), book := true }
      d.hostFrom r.die { id := j, die := tapDie r, kind := .write, addr := addr, len := 4, data := bytesOfWords (e.take 1), book := true, who := .tapLog t }
    else d

/-- The picture is over; its set takes the next one. -/
def Dev.tapStoreNew (d : Dev) (t : Nat) (r : TapRun) : Dev :=
  if r.changed then
    ((d.setFld TAP_STAT.HAS_PREV 0 t 0).setTapRun t (some { r with phase := .relOwn })).poolCmd
      (tapCmd t r.die r.m 3 0 r.handle (tapOwner r) 0)
  else
    let d := (d.setPair .TAP_PREV_LO .TAP_PREV_HI 0 t r.handle).setFld TAP_STAT.HAS_PREV 0 t 1
    (d.setTap t { d.tap t with owner := tapOwner r }).setTapRun t none

/-- The entry of a picture has been issued: the completion of its descriptor may go; the finish goes on (R328). -/
def Dev.tapLogged (d : Dev) (t : Nat) : Dev :=
  match (d.tap t).run with
  | none => d
  | some r =>
    let seq := (d.fld TAP_STAT.SEQ 0 t + 1) % 65536
    let d := d.setFld TAP_STAT.SEQ 0 t seq
    let d := d.setFld TAP_LOG_PTR.WR 0 t ((d.fld TAP_LOG_PTR.WR 0 t + 1) % 65536)
    let d := d.note (.tapDone r.ring r.desc r.status seq)
    let r := { r with logOut := false }
    if r.phase = .badLog then d.setTapRun t none
    else if d.flag TAP_STAT.HAS_PREV 0 t then
      (d.setTapRun t (some { r with phase := .relPrev })).poolCmd
        (tapCmd t r.die r.m 3 0 (d.pair .TAP_PREV_LO .TAP_PREV_HI 0 t) (d.tap t).owner 0)
    else d.tapStoreNew t r

/-- The release of the previous buffer failed (R338). -/
def Dev.relFailed (d : Dev) (t status : Nat) : Dev :=
  if status = 0 then d else (d.bump TAP_ERR.POOL_FAIL 0 t).raise (d.homeOf t) evTap ⟨.TAP_ERR, 0, t⟩ TAP_ERR.POOL_FAIL.lo t

/-- A pool command of a tap has its result. -/
def Dev.tapPoolEnd (d : Dev) (t op status handle : Nat) : Dev :=
  match (d.tap t).run with
  | none => if op = 3 then d.relFailed t status else d
  | some r =>
    match r.phase with
    | .get =>
      if status = 0 then
        let p := handlePool handle
        let base := d.poolPair .POOL_BASE_LO .POOL_BASE_HI p + handleIndex handle * d.poolSize p
        let d := d.setTapRun t (some { r with phase := .run, handle := handle, base := base })
        (d.tapReadPrev t).note (.tapGot r.ring r.desc 0)
      else
        let (d, r) := d.tapFail t r 3 status
        ((d.tapUnwind t r).tapLog t).note (.tapGot r.ring r.desc 3)
    | .share =>
      if status = 0 then (d.setTapRun t (some { r with phase := .log })).tapLog t
      else
        let (d, r) := d.tapFail t r 3 status
        d.tapUnwind t { r with phase := .run }
    | .relPrev => (d.relFailed t status).tapStoreNew t r
    | .relOwn => (d.relFailed t status).setTapRun t none
    | .freeOwn =>
      let r := if status = 0 then { r with handle := 0, poolStatus := if r.status = 3 then r.poolStatus else 0 } else { r with poolStatus := status }
      (d.tapUnwind t { r with phase := .freeOwn }).tapLog t
    | .dropPrev => ((d.relFailed t status).setTapRun t (some { r with phase := .badLog })).tapLog t
    | _ => d

/-- TAP_FINISH: every block row is written and every tap write issued, and SHARE goes out (R328). See log entry 37. -/
def Dev.tapFinish (d : Dev) (t : Nat) : Dev :=
  match (d.tap t).run with
  | none => d
  | some r =>
    if r.phase = .run ∧ (tapForm r.ctl r.geom).nbr ≤ r.row ∧ r.out.isEmpty then
      (d.setTapRun t (some { r with phase := .share })).poolCmd
        (tapCmd t r.die r.m 2 0 r.handle (tapOwner r) (bitsOf r.ctl 13 11))
    else d

/-- A picture's tap ends in failure (R335, R336). -/
def Dev.tapAbandon (d : Dev) (t status : Nat) : Dev :=
  match (d.tap t).run with
  | none => d
  | some r =>
    if r.phase = .run then
      let (d, r) := d.tapFail t r status 0
      (d.tapUnwind t r).tapLog t
    else d

/-- TAP_SHED: output staging stayed full for SHED_US under SHED = 1 (R335). See log entry 37. -/
def Dev.tapShed (d : Dev) (t : Nat) : Dev :=
  if (d.tap t).run.any fun r => r.ctl.getLsbD 29 then d.tapAbandon t 5 else d

/-- The descriptor stops reading before the picture's end: CUT, unless every byte was taken (R336). -/
def Dev.tapCut (d : Dev) (t ring desc : Nat) : Dev :=
  match (d.tap t).run with
  | none => d
  | some r => if r.ring = ring ∧ r.desc = desc ∧ r.row < (tapForm r.ctl r.geom).nbr then d.tapAbandon t 6 else d

/-- A host request of a tap ends: a write issued or failed, a piece of the P4 rows read. -/
def Dev.tapHost (d : Dev) (t piece : Nat) (ok : Bool) (data : List Byte) : Dev :=
  match (d.tap t).run with
  | none => d
  | some r =>
    if r.out.contains piece then
      if ok then d.setTapRun t (some { r with out := r.out.filter fun p => p != piece })
      else
        let (d, r) := d.tapFail t r 4 0
        (d.tapUnwind t r).tapLog t
    else if r.parts.any fun p => p.1 == piece then
      if !ok then (d.tapNoHistory t r).tapRows ((tapForm r.ctl r.geom).nbr + 1) t
      else
        let parts := r.parts.map fun p => if p.1 == piece then (p.1, some data) else p
        if parts.all fun p => p.2.isSome then
          let d := d.setTapRun t (some { r with parts := [], p4 := some (parts.flatMap fun p => p.2.getD []) })
          d.tapRows ((tapForm r.ctl r.geom).nbr + 1) t
        else d.setTapRun t (some { r with parts := parts })
    else d

/-! Changes of a tap set (R333, R338) -/

/-- The history is dropped: at once with no picture in progress, at its end otherwise. -/
def Dev.tapForget (d : Dev) (t : Nat) : Dev :=
  match (d.tap t).run with
  | some r => d.setTapRun t (some { r with changed := true })
  | none =>
    if d.flag TAP_STAT.HAS_PREV 0 t then
      let h := d.pair .TAP_PREV_LO .TAP_PREV_HI 0 t
      let x := d.tap t
      (d.setFld TAP_STAT.HAS_PREV 0 t 0).poolCmd (tapCmd t x.die x.m 3 0 h x.owner 0)
    else d

/-- After a write to a set-up register of a tap set on a die (R325, R338); `was` is EN before, `shape` whether TAP_CTL or TAP_GEOM was written. -/
def Dev.tapCheckCfg (d : Dev) (x t : Nat) (was shape : Bool) : Dev :=
  let bad := d.flag TAP_CTL.EN x t && d.tapInvalid x t
  let d := if bad then d.setFld TAP_CTL.EN x t 0 else d
  if x = d.homeOf t then
    let d := if bad then d.setFld TAP_STAT.CFG_REFUSED 0 t 1 else d
    let d := if shape then d.tapForget t else d
    if !was && d.flag TAP_CTL.EN x t then d.setFld TAP_LOG_PTR.WR 0 t 0 else d
  else d

end Sys2Proof.Machine
end

