-- ==== Sys2Proof/Machine/Movers.lean ====
section
/-!
DEFINITION. Movers and descriptor rings (spec/12, spec/13 R339 to R342): doorbells, fetching, descriptors, blocks, completions, notices,
resets.
-/

namespace Sys2Proof.Machine

def Dev.ring (d : Dev) (r : Nat) : Ring := d.rings.get {} ⟨r, 0, 0⟩
def Dev.modRing (d : Dev) (r : Nat) (f : Ring → Ring) : Dev := { d with rings := d.rings.set {} ⟨r, 0, 0⟩ (f (d.ring r)) }
def Dev.mover (d : Dev) (x m : Nat) : Mover := d.movers.get {} ⟨x, m, 0⟩
def Dev.setMover (d : Dev) (x m : Nat) (v : Mover) : Dev := { d with movers := d.movers.set {} ⟨x, m, 0⟩ v }

/-! The snapshot of a ring (R293) -/

def Ring.priv (r : Ring) : Bool := r.ctl.getLsbD 30
def Ring.hostDie (r : Ring) : Nat := bitsOf r.ctl 26 24
def Ring.mover (r : Ring) : Nat := bitsOf r.ctl 23 20
def Ring.owner (r : Ring) : Nat := bitsOf r.ctl 19 17
def Ring.size (r : Ring) : Nat := 2 ^ bitsOf r.ctl 4 0
def Dev.ringDie (d : Dev) (r : Nat) : Nat := d.home (bitsOf (d.ring r).ctl 29 27)
def Dev.ringState (d : Dev) (r : Nat) : Nat := d.fld RING_STAT.STATE 0 r
def Dev.setRingState (d : Dev) (r st : Nat) : Dev := d.setFld RING_STAT.STATE 0 r st
def Dev.posted (d : Dev) (r : Nat) : Nat := d.fld RING_PTR.POSTED 0 r
def Dev.fetched (d : Dev) (r : Nat) : Nat := d.fld RING_PTR.FETCHED 0 r
def Dev.cplWr (d : Dev) (r : Nat) : Nat := d.fld RING_CPL_PTR.CPL_WR 0 r
def Dev.cplRd (d : Dev) (r : Nat) : Nat := d.fld RING_CPL_PTR.CPL_RD 0 r

/-- An RC bit of RING_STAT set, with its event (R315). -/
def Dev.ringEvent (d : Dev) (f : Fld) (r : Nat) : Dev := d.status f 0 r evRing (d.ringDie r) r

/-- Rings of a mover that hold state. -/
def Dev.moverRings (d : Dev) (x m : Nat) : List Nat :=
  (d.rings.map fun e => e.1.a).filter fun r => d.ringDie r == x && (d.ring r).mover == m && d.ringState r != 0

/-- Index of a mover's registers. -/
def movIdx (x m : Nat) : Nat := 16 * x + m

/-! Notices (R317) -/

/-- The ring's notice: the interrupt of IRQ_RING(r); RING_NOTE as written applies from now on. -/
def Dev.notice (d : Dev) (r : Nat) : Dev :=
  let x := d.ringDie r
  let d := d.modRing r fun g => { g with unnoticed := 0, every := max 1 (d.fld RING_NOTE.EVERY x r), tail := d.fld RING_NOTE.TAIL x r }
  d.irqRaise x (.ring r) 0

/-- The tail notice of a ring, which is that of the completion queue of its mover (R265, R317). -/
def Dev.ringTailNotice (d : Dev) (r : Nat) : Dev := (d.notice r).setFld DIE_Q_STAT.TAIL (d.ringDie r) (32 + (d.ring r).mover) 1

/-! Doorbells (R295) -/

/-- A doorbell; none rings before traffic enable (R423). -/
def Dev.doorbell (d : Dev) (r tail : Nat) : Dev :=
  if !d.flag MC_BOOT_STAT.DONE (d.ringDie r) then d else
  let g := d.ring r
  let used := (d.posted r + 65536 - d.cplWr r) % 65536
  let add := (tail + 65536 - d.posted r) % 65536
  if d.ringState r = 0 ∨ d.ringState r = 3 ∨ min g.size 65535 < used + add then d.ringEvent RING_STAT.DB_BAD r
  else
    let d := if add = 0 then d else d.modRing r fun g => { g with stamps := g.stamps ++ [(tail % 65536, d.nextId)] }
    d.setFld RING_PTR.POSTED 0 r (tail % 65536)

/-! Descriptors (R297 to R305) -/

def word (ws : List Word) (k : Nat) : Nat := (ws.getD k 0).toNat
def quad (ws : List Word) (k : Nat) : Nat := word ws k + 2 ^ 32 * word ws (k + 1)
def wbits (ws : List Word) (k hi lo : Nat) : Nat := bitsOf (ws.getD k 0) hi lo
def descOp (ws : List Word) : Nat := wbits ws 0 27 24

/-- Are words `a` to 15 all 0? -/
def zeroFrom (ws : List Word) (a : Nat) : Bool := (ws.drop a).all fun w => w == 0

/-- The field rules of a descriptor's opcode (R297 to R305, R339, R341). -/
def descBad (ws : List Word) : Bool :=
  let w2 := word ws 2
  wbits ws 0 12 0 != 0 ||
  (match descOp ws with
    | 0 => !zeroFrom ws 2
    | 1 =>
      let space := wbits ws 2 29 28
      let u := 2 ^ wbits ws 2 27 26
      wbits ws 2 25 8 != 0 || wbits ws 7 31 16 != 0 || !zeroFrom ws 8 || quad ws 4 % u != quad ws 6 % u ||
      ((space == 0 || space == 3) && w2.testBit 30) || decide (2 ^ 48 < quad ws 6 + word ws 3)
    | 4 =>
      let space := wbits ws 2 29 28
      wbits ws 2 27 8 != 0 || !zeroFrom ws 8 ||
      (w2.testBit 31 && (space == 3 || (space == 0 && w2.testBit 30) || decide (2 ^ 48 < quad ws 4 + word ws 3)))
    | 2 =>
      wbits ws 2 27 24 != 0 || wbits ws 2 15 0 != 0 || wbits ws 13 31 8 != 0 || !zeroFrom ws 14 || decide (word ws 6 < word ws 3) ||
      word ws 7 == 0 || (w2.testBit 30 && word ws 7 != 1) || (w2.testBit 29 && w2.testBit 30) ||
      (w2.testBit 28 && quad ws 11 % 32 != 0)
    | 3 =>
      wbits ws 2 30 0 != 0 || quad ws 8 != 0 || !zeroFrom ws 13 || quad ws 11 % 32 != 0 ||
      (word ws 7 != 0 && word ws 6 != 0 && decide (word ws 6 < word ws 7))
    | 5 => wbits ws 2 31 8 != 0 || wbits ws 2 7 0 == 0 || !zeroFrom ws 3
    | 6 => wbits ws 2 30 26 != 0 || wbits ws 2 15 0 != 0 || wbits ws 3 31 16 != 0 || !zeroFrom ws 5
    | _ => false)

/-- The verdict of a fetched descriptor (R296): STALE_DESC, BAD_OP or BAD_DESC. -/
def descVerdict (count : Nat) (ws : List Word) : Option Nat :=
  if wbits ws 0 31 28 ≠ 4 ∨ wbits ws 0 23 16 ≠ count % 256 then some 0x11
  else if 6 < descOp ws then some 0x10
  else if descBad ws then some 0x0F
  else none

/-! Addresses (R272, R299, R300, R308, R341) -/

/-- A snapshot of a stripe set (R308). -/
def Dev.stripeOf (d : Dev) (x s : Nat) : Stripe :=
  { width := d.fld STRIPE_CTL.WIDTH x s, unit := 65536 * 2 ^ min (d.fld STRIPE_CTL.UNIT x s) 4,
    off := (d.pair .STRIPE_OFF_LO .STRIPE_OFF_HI x s) / 65536 * 65536,
    ports := (List.range 16).map fun k => bitsOf (d.reg .STRIPE_PORTS x (s * 4 + k / 4)) (8 * (k % 4) + 5) (8 * (k % 4)) }

/-- Port and Body Bus address of an address of a descriptor's space (R308). -/
def BbMap.place (b : BbMap) (a : Nat) : Nat × Nat :=
  match b.stripe with
  | none => (b.port, a)
  | some s =>
    let u := a / s.unit
    (s.ports.getD (u % s.width) 0, s.off + u / s.width * s.unit + a % s.unit)

/-- Host segments of a range of the transfer: (offset, address, length). -/
def HostMap.segs (h : HostMap) : Nat → Nat → Nat → List (Nat × Nat × Nat)
  | 0, _, _ => []
  | k + 1, off, len =>
    if len = 0 then []
    else if h.row = 0 then [(off, h.base + off, len)]
    else
      let n := min len (h.row - off % h.row)
      (off, h.base + off / h.row * h.pitch + off % h.row, n) :: h.segs k (off + n) (len - n)

/-- Bytes of one side put in the order of the other: units of `u` bytes reversed (R173); a piece shorter than a unit is reversed whole. -/
def swapUnits (u : Nat) : Nat → List Byte → List Byte
  | 0, bs => bs
  | k + 1, bs => if u ≤ 1 then bs else if bs.length ≤ u then bs.reverse else (bs.take u).reverse ++ swapUnits u k (bs.drop u)

/-- Parts of a transfer whose bytes are consecutive on the Body Bus: before, inside and after its whole swap units (R299). -/
def xferParts (order base len : Nat) : List (Nat × Nat) :=
  let u := unitOf order
  let head := min len ((u - base % u) % u)
  let body := (len - head) / u * u
  let tail := len - head - body
  [(0, head), (head, body), (head + body, tail)].filter fun p => p.2 != 0

/-- First far address of a piece that lies in whole units or inside one unit. -/
def farOf (order base off len : Nat) : Nat :=
  if len < unitOf order then min (swapAddr order (base + off)) (swapAddr order (base + off + len - 1)) else base + off

/-! Progress of a descriptor -/

def Dev.runOf (d : Dev) (r count : Nat) : Option DescRun := (d.ring r).runs.find? fun x => x.count == count
def Dev.putRun (d : Dev) (r : Nat) (x : DescRun) : Dev :=
  d.modRing r fun g => { g with runs := g.runs.map fun y => if y.count == x.count then x else y }

/-- The unit of a mover asked about a Body Bus range. -/
def Dev.moverBbProt (d : Dev) (die m : Nat) (sup : Bool) (addr len space port access : Nat) : ProtAns × Dev :=
  d.protCheck { u := 32 * die + 9 + m, kind := .bb, addr := addr, len := len, space := space, port := port, sup := sup, access := access }

/-- Ranges common to two lists of ranges, as long as they can be. -/
def meetRanges (a b : List (Nat × Nat)) : List (Nat × Nat) :=
  joinRanges (a.flatMap fun p => b.filterMap fun q =>
    let lo := max p.1 q.1
    let hi := min (p.1 + p.2) (q.1 + q.2)
    if lo < hi then some (lo, hi - lo) else none)

/-- The first error of a descriptor kept (R314). -/
def DescRun.fail (x : DescRun) (e : DErr) (stop : Bool) : DescRun :=
  { x with err := some (x.err.getD e), stop := x.stop || stop, todo := if stop then [] else x.todo }

/-- The host side of a range checked by the mover's unit: the ranges allowed, the lowest denied address. -/
def Dev.hostAllowed (d : Dev) (r : Nat) (h : HostMap) (off len access : Nat) : List (Nat × Nat) × Option Nat × Dev :=
  let g := d.ring r
  (h.segs (len + 1) off len).foldl (fun (acc : List (Nat × Nat) × Option Nat × Dev) s =>
    let (ans, d) := acc.2.2.moverProt (d.ringDie r) g.mover g.priv s.2.1 s.2.2 access
    let low := match ans.denied, ans.parts with
      | false, _ => none
      | true, (0, n) :: _ => some (s.2.1 + n)
      | true, _ => some s.2.1
    (acc.1 ++ ans.parts.map (fun p => (s.1 - off + p.1, p.2)), (match acc.2.1 with | some a => some a | none => low), d)) ([], none, d)

/-- Blocks of a mover, and of all movers, staged for a tile or bond (R307). -/
def Dev.staged (d : Dev) (lp : Nat) (f : Nat → Bool) : Nat :=
  d.rings.foldl (fun n e => if f e.1.a then
      n + e.2.runs.foldl (fun k x => k + (x.blks.filter fun b => x.kind != .fillHost && d.listOf b.port == lp).length) 0
    else n) 0

/-- Number of a host piece: its block and its place in the block. -/
def pieceNo (blk k : Nat) : Nat := blk * 2 ^ 20 + k

/-- The bytes gathered for a block, 0 where a range was denied. -/
def Blk.bytes (b : Blk) : List Byte :=
  let rec go : Nat → Nat → List (Nat × List Byte) → List Byte
    | 0, _, _ => []
    | k + 1, at_, l =>
      if b.len ≤ at_ then []
      else
        match l.find? fun e => e.1 == at_ with
        | some e => if e.2.isEmpty then List.replicate (b.len - at_) 0 else e.2 ++ go k (at_ + e.2.length) l
        | none =>
          let next := l.foldl (fun m e => if at_ < e.1 then min m e.1 else m) b.len
          List.replicate (next - at_) 0 ++ go k next l
  go (2 * b.got.length + 2) 0 b.got

/-- Body Bus transactions of the ranges of a block allowed there (R243, R306). -/
def blkCourses (x : DescRun) (b : Blk) (write : Bool) : List Course :=
  let far := swapUnits (unitOf x.bb.order) (b.len + 1) b.bytes
  (if write then b.parts else b.src).flatMap fun p =>
    let cut := if x.bb.space = 1 ∨ x.bb.space = 2 then cutRun 8 (b.addr + p.1) p.2
      else (coursesOf 8 p.2 (b.addr + p.1) p.2).map fun c => (c.1, c.2, false)
    cut.map fun s => ⟨if s.2.2 then .block else .single, write, s.1, s.2.1, if write then (far.drop (s.1 - b.addr)).take s.2.1 else []⟩

/-- A whole block handed to its tile (R307). -/
def Dev.blkToTile (d : Dev) (r : Nat) (x : DescRun) (b : Blk) : Dev :=
  let g := d.ring r
  let write := x.kind == .toBb || x.kind == .fillBb
  let (i, d) := d.fresh
  let w : Work := { id := i, job := .mover r x.count b.num, cls := .mover, port := b.port, am := x.bb.space * 64 + (if g.priv then 32 else 0),
                    courses := blkCourses x b write, epoch := b.epoch }
  let d := d.putRun r { x with blks := x.blks.map fun c => if c.num == b.num then { b with atTile := true, got := [] } else c }
  d.enlist w

/-- Host writes of the allowed ranges of a block. -/
def Dev.blkToHost (d : Dev) (r : Nat) (x : DescRun) (b : Blk) (bytes : List Byte) : Dev :=
  let g := d.ring r
  let hd := g.hostDie
  let cuts := b.parts.flatMap fun p => (x.host.segs (p.2 + 1) (b.off + p.1) p.2).flatMap fun s =>
    (hostCuts (d.mps hd) s.2.2 0 s.2.1 s.2.2).map fun c => (s.1 + c.1, c.2.1, c.2.2)
  let ws := (indexed cuts).map fun c => (pieceNo b.num c.1, c.2.2.2, c.2.2.1)
  let b := { b with writes := ws, atTile := false, got := [] }
  let d := d.putRun r { x with blks := x.blks.map fun c => if c.num == b.num then b else c }
  (indexed cuts).foldl (fun d c =>
    let (i, d) := d.fresh
    d.hostFrom (d.ringDie r)
      { id := i, die := hd, kind := .write, addr := c.2.2.1, len := c.2.2.2, data := (bytes.drop (c.2.1 - b.off)).take c.2.2.2, ro := true,
        who := .mover r x.count (pieceNo b.num c.1), chk := some (d.ringDie r, b.epoch) }) d

/-- Byte (a mod 8) of a pattern at ascending addresses. -/
def patBytes (pat a len : Nat) : List Byte :=
  let p := bytesLE pat 8
  (List.range len).map fun k => p.getD ((a + k) % 8) 0

/-- The next block of a descriptor starts: its ranges checked by the unit, its host reads or its transactions sent. What the unit allows at
the source is read also where the destination is denied (R243). -/
def Dev.startBlk (d : Dev) (r : Nat) (x : DescRun) (off len port addr : Nat) (rest : List (Nat × Nat)) : Dev :=
  let g := d.ring r
  let die := d.ringDie r
  let wr := x.kind == .toBb || x.kind == .fillBb
  let (bbParts, bbLow, d) := if x.kind = .fillHost then ([(0, len)], none, d)
    else
      let (a, d) := d.moverBbProt die g.mover g.priv addr len x.bb.space port (if wr then 1 else 0)
      (a.parts, (match a.denied, a.parts with | false, _ => none | true, (0, n) :: _ => some (addr + n) | true, _ => some addr), d)
  let (hostParts, hostLow, d) := if x.kind = .fillBb then ([(0, len)], none, d)
    else d.hostAllowed r x.host off len (if wr then 0 else 1)
  let low := match (if wr then hostLow else bbLow) with | some a => some a | none => (if wr then bbLow else hostLow)
  let src := if wr then hostParts else bbParts
  let b : Blk := { num := x.nextBlk, off := off, len := len, port := port, addr := addr, parts := meetRanges hostParts bbParts, src := src,
                   epoch := d.epoch die }
  let x := { x with todo := rest, nextBlk := x.nextBlk + 1 }
  let x := match low with | some a => x.fail { status := 0x0B, info := a } false | none => x
  if src.isEmpty || (b.parts.isEmpty && (x.kind == .fillBb || x.kind == .fillHost)) then d.putRun r x
  else
    let x := { x with blks := x.blks ++ [b] }
    let d := d.putRun r x
    match x.kind with
    | .toBb =>
      let hd := g.hostDie
      let cuts := src.flatMap fun p => (x.host.segs (p.2 + 1) (off + p.1) p.2).flatMap fun s =>
        (hostCuts (d.mrrs hd) s.2.2 0 s.2.1 s.2.2).map fun c => (s.1 + c.1, c.2.1, c.2.2)
      let b := { b with reads := (indexed cuts).map fun c => (pieceNo b.num c.1, c.2.1 - off) }
      let d := d.putRun r { x with blks := x.blks.map fun c => if c.num == b.num then b else c }
      (indexed cuts).foldl (fun d c =>
        let (i, d) := d.fresh
        d.hostFrom (d.ringDie r)
          { id := i, die := hd, kind := .read, addr := c.2.2.1, len := c.2.2.2, ro := true, who := .mover r x.count (pieceNo b.num c.1),
            chk := some (die, b.epoch) }) d
    | .toHost => d.blkToTile r x b
    | .fillBb => d.blkToTile r x { b with got := [(0, patBytes x.pat (x.bb.base + off) len)] }
    | .fillHost =>
      let bytes := (x.host.segs (len + 1) off len).flatMap fun s => patBytes x.pat s.2.1 s.2.2
      d.blkToHost r x b bytes

/-! The end of a descriptor (R310, R313 to R316) -/

/-- The words of a completion. -/
def cplWords (x : DescRun) : List Word :=
  let w := BitVec.ofNat 32
  let e := x.err.getD { status := x.fin, info := x.info }
  let fetch := e.status == 0x12
  let op := if fetch then 0 else descOp x.words
  let chk := if fetch then 0 else wbits x.words 0 23 16
  [w (0x50000000 + op * 2 ^ 24 + chk * 65536 + e.status * 256 + e.detail), if fetch then 0 else x.words.getD 1 0, w x.bytes,
   w (x.count * 65536 + e.port), w x.handle, w (x.handle / 2 ^ 32), w e.info, w (e.info / 2 ^ 32)]

/-- Is the completion ring full (R316)? -/
def Dev.cplFull (d : Dev) (r : Nat) : Bool :=
  (d.cplWr r + 65536 - d.cplRd r) % 65536 == min (d.ring r).size 65535

/-- The two writes of a completion: words 1 to 7, then word 0 (R313). -/
def Dev.cplSend (d : Dev) (r : Nat) (ws : List Word) (who : Who) : Dev :=
  let g := d.ring r
  let addr := g.cpl + 32 * (wbits ws 3 31 16 % g.size)
  let (i, d) := d.fresh
  let (j, d) := d.fresh
  let d := d.hostFrom (d.ringDie r) { id := i, die := g.hostDie, kind := .write, addr := addr + 4, len := 28, data := bytesOfWords (ws.drop 1), book := true }
  d.hostFrom (d.ringDie r) { id := j, die := g.hostDie, kind := .write, addr := addr, len := 4, data := bytesOfWords (ws.take 1), book := true, who := who }

/-- The oldest staged completion goes, once the ring has room and the one before it has been issued. -/
def Dev.cplPump (d : Dev) (r : Nat) : Dev :=
  let g := d.ring r
  match g.cplq with
  | [] => d
  | c :: _ => if g.cplOut || d.cplFull r then d else (d.modRing r fun g => { g with cplOut := true }).cplSend r c.1 (.ringCpl r)

/-- A lost completion (R320): STATUS LOST with the INDEX, and the other words 0 except TYPE. -/
def lostCpl (e : List Word × Bool) : List Word × Bool := ([0x50001500#32, 0, 0, e.1.getD 3 0 &&& 0xFFFF0000#32, 0, 0, 0, 0], e.2)

/-- Completions that stand in the queue of a mover; of a lost one the mover holds the INDEX outside the queue (R320). -/
def Dev.cplStaged (d : Dev) (x m : Nat) : Nat :=
  (d.moverRings x m).foldl (fun n r => n + ((d.ring r).cplq.filter fun c => c.1.headD 0 != 0x50001500#32).length) 0

/-- Ended descriptors at the head of the ring are staged as completions, in count order (R310), while the queue of the mover has room or, with
`all`, all of them (R258); one written over the end of the ring is lost (R264, R320). -/
def Dev.stageCpls (all : Bool) : Nat → Dev → Nat → Dev
  | 0, d, _ => d
  | k + 1, d, r =>
    let die := d.ringDie r
    let q := 32 + (d.ring r).mover
    let next := 8 * (d.cplStaged die (d.ring r).mover + 1)
    if !all && decide (512 + (d.queue die q).extra < next) then d
    else
    match (d.ring r).runs with
    | x :: rest =>
      if x.phase = .done then
        let ws := cplWords x
        let c := (ws, wbits x.words 0 14 14 == 1 && (x.err.map (·.status)) != some 0x12)
        let spilt := !all && decide (512 < next)
        let d := d.modRing r fun g => { g with runs := rest, cplq := g.cplq ++ [if spilt then lostCpl c else c] }
        let d := if spilt then (d.engineOver die q 8).ringEvent RING_STAT.CPL_LOST r else d.note (.qpush die q [ws])
        Dev.stageCpls all k d r
      else d
    | [] => d

/-- A completion counts as written (R313, R317): CPL_WR advances; EVERY and NOTE may raise the notice. -/
def Dev.cplWritten (d : Dev) (r : Nat) (c : List Word × Bool) : Dev :=
  let at_ := (d.ring r).stamps.dropWhile fun e => e.1 == d.cplWr r
  let d := d.note (.sample 5 r (d.ringDie r) ((at_.head?.map (·.2)).getD 0))
  let d := d.modRing r fun g => { g with unnoticed := g.unnoticed + 1, stamps := at_ }
  let d := d.setFld RING_CPL_PTR.CPL_WR 0 r ((d.cplWr r + 1) % 65536)
  let d := d.setFld RING_STAT.LAST_STATUS 0 r (wbits c.1 0 15 8)
  if c.2 || decide ((d.ring r).every ≤ (d.ring r).unnoticed) then d.notice r else d

/-- The completion at the head of staging has been issued. -/
def Dev.cplIssued (d : Dev) (r : Nat) : Dev :=
  match (d.ring r).cplq with
  | [] => d
  | c :: rest => ((d.modRing r fun g => { g with cplq := rest, cplOut := false }).cplWritten r c).cplPump r

/-- The ring stops after an error: each such stop raises an event (R315). A ring that has stopped already does not stop again. -/
def Dev.ringStopErr (d : Dev) (r count : Nat) : Dev :=
  if d.ringState r ≠ 1 then d
  else
  let d := d.setRingState r 2
  let d := d.setFld RING_ERR_IDX.INDEX 0 r count
  let d := (d.setFld RING_STAT.STOPPED_ERR 0 r 1).raise (d.ringDie r) evRing ⟨.RING_STAT, 0, r⟩ RING_STAT.STOPPED_ERR.lo r
  d.notice r

/-- Counts of MOV_ERR. -/
def Dev.countEnd (d : Dev) (r status : Nat) : Dev :=
  let i := movIdx (d.ringDie r) (d.ring r).mover
  if status = 0x13 ∨ status = 0x14 then d.bump MOV_ERR.ABORTED 0 i
  else if 5 ≤ status ∧ status ≤ 8 then d.bump MOV_ERR.BB_FAIL 0 i
  else if status = 9 ∨ status = 0x0A ∨ status = 0x12 then d.bump MOV_ERR.HOST_FAIL 0 i
  else if status = 1 then d.bump MOV_ERR.OVERRUNS 0 i
  else d

/-- A descriptor ends. -/
def Dev.endRun (d : Dev) (r : Nat) (x : DescRun) : Dev :=
  let st := (x.err.map (·.status)).getD x.fin
  let d := (d.putRun r { x with phase := .done, blks := [], todo := [] }).countEnd r st
  let cont := wbits x.words 0 13 13 == 1
  let d := if 3 ≤ st ∧ !x.aborted ∧ (!cont ∨ st = 0x11 ∨ st = 0x12) then d.ringStopErr r x.count else d
  (Dev.stageCpls false (d.ring r).runs.length d r).cplPump r

/-- A picture index entry (R339): its eight words. -/
def indexEntry (x : DescRun) : List Word :=
  let w := BitVec.ofNat 32
  let req := word x.words 3 * word x.words 7
  let tapped := match x.tapStatus with | some (0, s) => 2 ^ 25 + s | _ => 0
  [w (0x70000000 + (if x.fin = 1 then 2 ^ 27 else 0) + (if wbits x.words 2 30 30 = 1 then 2 ^ 26 else 0) + tapped), w (word x.words 10),
   w x.handle, w (x.handle / 2 ^ 32), w x.len, w req, w (word x.words 3), w (word x.words 7)]

/-- Numbers of the host requests of an entry. -/
def entryPiece : Nat := 2 ^ 60
def statePiece : Nat := 2 ^ 60 + 1
def indexPiece (k : Nat) : Nat := 2 ^ 60 + 2 + k

/-- The picture's data have ended: its index entry, checked whole, then its three writes (R302, R339); or the end. -/
def Dev.afterMove (d : Dev) (r : Nat) (x : DescRun) : Dev :=
  if x.err.isSome || descOp x.words != 2 || wbits x.words 2 28 28 == 0 then d.endRun r x
  else
    let g := d.ring r
    let a := quad x.words 11 + 32 * word x.words 10
    let (ans, d) := d.moverProt (d.ringDie r) g.mover g.priv a 32 1
    if ans.denied then
      let low := match ans.parts with | (0, n) :: _ => a + n | _ => a
      d.endRun r (x.fail { status := 0x0B, info := low } false)
    else
      let e := indexEntry x
      let d := d.putRun r { x with phase := .index, blks := [{ num := 0, off := 0, len := 0, parts := [],
                                                                writes := [(indexPiece 0, 0, a), (indexPiece 1, 0, a + 4), (indexPiece 2, 0, a)],
                                                                 epoch := d.epoch (d.ringDie r) }] }
      let put (d : Dev) (k addr : Nat) (bs : List Byte) : Dev :=
        let (i, d) := d.fresh
        d.hostFrom (d.ringDie r)
          { id := i, die := g.hostDie, kind := .write, addr := addr, len := bs.length, data := bs, who := .mover r x.count (indexPiece k),
            chk := some (d.ringDie r, d.epoch (d.ringDie r)) }
      put (put (put d 0 a [0, 0, 0, 0]) 1 (a + 4) (bytesOfWords (e.drop 1))) 2 a (bytesOfWords (e.take 1))

/-- Every transfer of a descriptor has ended. -/
def Dev.moved (d : Dev) (r : Nat) (x : DescRun) : Dev :=
  match x.tap, x.tapStatus with
  | some t, none =>
    let d := d.putRun r { x with phase := .tapEnd }
    if x.err.isSome then d.tapCut t r x.count else d
  | _, _ => d.afterMove r x

/-- Blocks start while the tiles have room for them whole (R24, R307) and mortar leads there (R30); the end once nothing is left. -/
def Dev.pumpRun : Nat → Dev → Nat → Nat → Dev
  | 0, d, _, _ => d
  | k + 1, d, r, count =>
    match d.runOf r count with
    | none => d
    | some x =>
      if x.phase ≠ .move then d
      else
        match x.todo with
        | [] => if x.blks.isEmpty then d.moved r x else d
        | (off, len) :: rest =>
          let g := d.ring r
          if x.kind = .fillHost then
            let n := min len 65536
            let rest := if n < len then (off + n, len - n) :: rest else rest
            if 4 ≤ x.blks.length then d else Dev.pumpRun k (d.startBlk r x off n 0 0 rest) r count
          else
            let f0 := x.bb.base + off
            let n := min len (65536 - f0 % 65536)
            let far := farOf x.bb.order x.bb.base off n
            let rest := if n < len then (off + n, len - n) :: rest else rest
            let (port, addr) := x.bb.place far
            let lp := d.listOf port
            let two := if d.bonded lp then 2 else 1
            let per := let v := d.fld MOV_CTL.PER_PORT (d.ringDie r) (movIdx (d.ringDie r) g.mover); two * min 4 (max 1 v)
            if decide (per ≤ d.staged lp fun q => d.ringDie q == d.ringDie r && (d.ring q).mover == g.mover) || decide (4 * two ≤ d.staged lp fun _ => true) ||
                decide (d.sharedRoom lp (d.port lp).staged.2 < n) || !d.reach (d.ringDie r) (dieOf lp) then d
            else Dev.pumpRun k ((d.startBlk r x off n port addr rest).pfTrim 64 lp) r count

def pumpFuel (x : DescRun) : Nat := x.todo.foldl (fun s p => s + p.2 / 65536 + 3) 4

/-- A descriptor goes on. -/
def Dev.goRun (d : Dev) (r count : Nat) : Dev :=
  match d.runOf r count with
  | none => d
  | some x => d.pumpRun (pumpFuel x) r count

/-- Work of a descriptor that has not opened a transaction is taken from the tiles after an error (R314). -/
def Dev.pullWork (d : Dev) (r count : Nat) : Dev :=
  d.livePorts.foldl (fun d lp =>
    let mine (w : Work) : Bool := !w.begun && (match w.job with | .mover a b _ => a == r && b == count | _ => false)
    let blks := ((d.port lp).works.filter mine).filterMap fun w => match w.job with | .mover _ _ b => some b | _ => none
    if blks.isEmpty then d
    else
      let d := d.modPort lp fun o => { o with works := o.works.filter fun w => !mine w }
      match d.runOf r count with
      | some x => d.putRun r { x with blks := x.blks.filter fun b => !blks.contains b.num }
      | none => d) d

/-- An error that ends the issue of transfers (R314): blocks that only read or wait go, those at a tile run to their end. -/
def Dev.stopRun (d : Dev) (r : Nat) (x : DescRun) (e : DErr) : Dev :=
  let x := x.fail e true
  let gone := x.blks.filter fun b => !(b.atTile || !b.writes.isEmpty)
  let x := { x with blks := x.blks.filter fun b => b.atTile || !b.writes.isEmpty }
  let d := d.forgetReads fun w => match w with | .mover q c k => q == r && c == x.count && gone.any fun b => b.num == k / 2 ^ 20 | _ => false
  let d := (d.putRun r x).pullWork r x.count
  let d := match x.tap with | some t => d.tapCut t r x.count | none => d
  d.goRun r x.count

/-- The tile's answer to a block (R314). -/
def Dev.blkEnd (d : Dev) (w : Work) (ok : Bool) (cause code : Nat) (data : List (Nat × Byte)) : Dev :=
  match w.job with
  | .mover r count num =>
    match d.runOf r count with
    | none => d
    | some x =>
      match x.blks.find? fun b => b.num == num with
      | none => d
      | some b =>
        let drop : DescRun := { x with blks := x.blks.filter fun c => c.num != num }
        if ok then
          if x.kind = .toHost ∧ !x.stop ∧ !b.parts.isEmpty then
            let far := (List.range b.len).map fun k => byteAt data (b.addr + k)
            d.blkToHost r x b (swapUnits (unitOf x.bb.order) (b.len + 1) far)
          else
            let n := if x.kind = .toHost then 0 else b.parts.foldl (fun s p => s + p.2) 0
            (d.putRun r { drop with bytes := drop.bytes + n }).goRun r count
        else
          let n := if x.kind = .toHost then 0 else w.done
          -- causes of R202; 9 stands for data lost with an SRAM bank (R360), 0x13 for a tile fault (R356)
          let st := match cause with | 1 => 5 | 2 => 6 | 3 => 7 | 9 => 0x0A | 0x13 => 0x13 | _ => 8
          let info := (w.courses.head?.map (·.addr)).getD b.addr
          d.stopRun r { drop with bytes := drop.bytes + n }
            { status := st, detail := if st = 5 then code else if st = 0x13 then 3 else 0, info := info, port := w.port }
  | _ => d

/-! PLAYBACK and RECORD (R300, R303, R340) -/

/-- The Body Bus place of a pool's slot (R272). -/
def Dev.slotMap (d : Dev) (p index : Nat) : BbMap :=
  let h := d.homeOf p
  let t := d.fld POOL_TARGET.TARGET h p
  { stripe := if d.flag POOL_TARGET.STRIPE h p then some (d.stripeOf h t) else none, port := t,
    base := d.poolPair .POOL_BASE_LO .POOL_BASE_HI p + index * d.poolSize p, space := d.fld POOL_CTL.SPACE h p }

/-- Is a pool's target usable: its port present, its stripe set enabled? -/
def Dev.slotTarget (d : Dev) (p : Nat) : Bool :=
  let h := d.homeOf p
  let t := d.fld POOL_TARGET.TARGET h p
  if d.flag POOL_TARGET.STRIPE h p then d.flag STRIPE_CTL.EN h t else decide (t < 8 * d.n)

/-- A RECORD whose slot is known starts its transfer (R300, R301). -/
def Dev.recordMove (d : Dev) (r : Nat) (x : DescRun) (handle : Nat) : Dev :=
  let ws := x.words
  let p := handlePool handle
  let full := word ws 3 * word ws 7
  let cap := d.poolSize p
  let len := min full cap
  let tooLong := decide (cap < full)
  let x := { x with phase := .move, kind := .toBb, bb := d.slotMap p (handleIndex handle), handle := handle, len := len,
                    host := { base := quad ws 4, row := word ws 3, pitch := word ws 6 }, fin := if tooLong then 1 else 0,
                    info := if tooLong then word ws 3 else 0 }
  (d.putRun r { x with todo := if len = 0 then [] else [(0, len)] }).goRun r x.count

/-- A RECORD obtains its slot (R300). -/
def Dev.recordSlot (d : Dev) (r : Nat) (x : DescRun) : Dev :=
  let ws := x.words
  if wbits ws 2 31 31 = 1 then
    let g := d.ring r
    (d.putRun r { x with phase := .slotGet }).poolCmd
      { by_ := .mover (d.ringDie r) g.mover r x.count, op := 1, pool := wbits ws 2 23 16, owner := g.owner }
  else d.recordMove r x (quad ws 8)

/-- The slot's pool as RECORD wants it: POOL with a DETAIL, BAD_DESC or BAD_TARGET otherwise (R300, R308). -/
def Dev.recordCheck (d : Dev) (ws : List Word) : Option DErr :=
  let get := wbits ws 2 31 31 == 1
  let h := quad ws 8
  let p := if get then wbits ws 2 23 16 else handlePool h
  if !get && !d.poolOn p then some { status := 4, detail := 0x0A }
  else if !get && decide (d.poolCount p ≤ handleIndex h) then some { status := 4, detail := 0x08 }
  else if !d.poolOn p then none
  else if !d.flag POOL_CTL.KIND (d.homeOf p) p then some { status := 0x0F }
  else if wbits ws 2 30 30 == 0 && decide (d.poolSize p < word ws 3 * word ws 7) then some { status := 0x0F }
  else if !d.slotTarget p then some { status := 0x0E }
  else none

/-- A RECORD starts (R300, R327). -/
def Dev.startRecord (d : Dev) (r : Nat) (x : DescRun) : Dev :=
  let x := if wbits x.words 2 31 31 = 1 then x else { x with handle := quad x.words 8 }
  match d.recordCheck x.words with
  | some e => d.endRun r (x.fail e true)
  | none =>
    if wbits x.words 2 29 29 = 1 then
      let t := wbits x.words 13 7 0
      match d.tapCheck t (word x.words 7) (word x.words 3) with
      | some detail => d.endRun r (x.fail { status := 0x0C, detail := detail } true)
      | none =>
        let g := d.ring r
        (d.putRun r { x with phase := .tapGet, tap := some t }).tapOpen t r x.count (d.ringDie r) g.mover g.priv (word x.words 3) (word x.words 10)
    else d.recordSlot r x

/-- Does a tap failure end the descriptor (R336)? -/
def Dev.tapStrict (d : Dev) (x : DescRun) : Bool := x.tap.any fun t => d.flag TAP_CTL.STRICT (d.homeOf t) t

/-- The tap has its buffer, or has not (R336). -/
def Dev.tapGot (d : Dev) (r count status : Nat) : Dev :=
  match d.runOf r count with
  | none => d
  | some x =>
    if x.phase ≠ .tapGet then d
    else
      let strict := d.tapStrict x
      if x.err.isSome then d.moved r { x with phase := .move }
      else if status != 0 && strict then d.moved r (({ x with phase := .move } : DescRun).fail { status := 0x0C, detail := status } true)
      else d.recordSlot r x

/-- The tap's entry has been issued (R328): the descriptor may end. -/
def Dev.tapDone (d : Dev) (r count status seq : Nat) : Dev :=
  match d.runOf r count with
  | none => d
  | some x =>
    let strict := d.tapStrict x
    let x := { x with tapStatus := some (status, seq) }
    let x := if (status == 3 || status == 4 || status == 5) && strict then x.fail { status := 0x0C, detail := status } false else x
    if x.phase = .tapEnd then d.afterMove r x else d.putRun r x

/-- A pool command of a mover has its result (R300). -/
def Dev.slotGot (d : Dev) (r count status handle : Nat) : Dev :=
  match d.runOf r count with
  | none => d
  | some x =>
    if x.phase ≠ .slotGet then d
    else if x.err.isSome then d.moved r { x with phase := .move, handle := if status = 0 then handle else 0 }
    else if status = 0 then d.recordMove r x handle
    else
      let d := match x.tap with | some t => d.tapCut t r count | none => d
      match d.runOf r count with
      | some x => d.moved r (({ x with phase := .move } : DescRun).fail { status := 4, detail := status } true)
      | none => d

/-- A PLAYBACK starts by reading its index entry (R340). -/
def Dev.startPlayback (d : Dev) (r : Nat) (x : DescRun) : Dev :=
  let g := d.ring r
  let a := quad x.words 11 + 32 * word x.words 10
  let (ans, d) := d.moverProt (d.ringDie r) g.mover g.priv a 32 0
  if ans.denied then
    let low := match ans.parts with | (0, n) :: _ => a + n | _ => a
    d.endRun r (x.fail { status := 0x0B, info := low } true)
  else
    let (i, d) := d.fresh
    (d.putRun r { x with phase := .entryRead }).hostFrom (d.ringDie r)
      { id := i, die := g.hostDie, kind := .read, addr := a, len := 32, who := .mover r x.count entryPiece,
        chk := some (d.ringDie r, d.epoch (d.ringDie r)) }

/-- ABSENT: no data moves; under CONCEAL the destination is filled (R303, R342). -/
def Dev.playAbsent (d : Dev) (r : Nat) (x : DescRun) : Dev :=
  let x := { x with fin := 2 }
  if wbits x.words 2 31 31 = 0 then d.endRun r x
  else
    let ws := x.words
    let row := if word ws 6 = 0 then 0 else word ws 7
    let len := word ws 3
    let x := { x with phase := .move, kind := .fillHost, pat := d.pair .PLAY_CONCEAL_LO .PLAY_CONCEAL_HI (d.ringDie r) r,
                      host := { base := quad ws 4, row := row, pitch := word ws 6 }, todo := if len = 0 then [] else [(0, len)] }
    (d.putRun r x).goRun r x.count

/-- Checks 2 to 4 of R340 on the entry read, then the read of the slot's state entry. -/
def Dev.playEntry (d : Dev) (r : Nat) (x : DescRun) (e : List Word) : Dev :=
  let h := quad e 2
  let p := handlePool h
  if wbits e 0 31 28 ≠ 7 ∨ word e 1 ≠ word x.words 10 then d.playAbsent r x
  else if !d.poolOn p then d.endRun r (x.fail { status := 4, detail := 0x0A } true)
  else if d.poolCount p ≤ handleIndex h ∨ handleGen h = 0 then d.endRun r (x.fail { status := 4, detail := 0x08 } true)
  else if !d.flag POOL_CTL.KIND (d.homeOf p) p || !d.slotTarget p then d.endRun r (x.fail { status := 0x0E } true)
  else
    let (i, d) := d.fresh
    (d.putRun r { x with phase := .stateRead, entry := e }).hostFrom (d.ringDie r)
      { id := i, die := d.fld POOL_CTL.HOST_DIE (d.homeOf p) p, kind := .read, addr := d.poolPair .POOL_STATE_LO .POOL_STATE_HI p + 8 * handleIndex h,
        len := 8, who := .mover r x.count statePiece }

/-- Checks 6 and 7, then the copy (R340, R341). -/
def Dev.playState (d : Dev) (r : Nat) (x : DescRun) (v : Nat) : Dev :=
  let h := quad x.entry 2
  let p := handlePool h
  let len := word x.entry 4
  let s := PoolEntry.ofNat v
  if s.gen ≠ handleGen h ∨ !s.held then d.playAbsent r x
  else if word x.words 3 < len then d.endRun r (x.fail { status := 3 } true)
  else
    let ws := x.words
    let row := if word ws 6 = 0 then 0 else word ws 7
    let x := { x with phase := .move, kind := .toHost, bb := d.slotMap p (handleIndex h), host := { base := quad ws 4, row := row, pitch := word ws 6 },
                      todo := if len = 0 then [] else [(0, len)] }
    (d.putRun r x).goRun r x.count

/-! COPY and FILL (R299) -/

/-- A COPY or FILL starts (R299, R306). -/
def Dev.startXfer (d : Dev) (r : Nat) (x : DescRun) : Dev :=
  let ws := x.words
  let fill := descOp ws == 4
  let bit31 := wbits ws 2 31 31 == 1
  let stripe := wbits ws 2 30 30 == 1
  let target := wbits ws 2 7 0
  let usesBb := !fill || bit31
  let die := d.ringDie r
  let len := word ws 3
  if usesBb && (if stripe then !d.flag STRIPE_CTL.EN die target else decide (8 * d.n ≤ target)) then
    d.endRun r (x.fail { status := 0x0E } true)
  else
    let order := if fill then 0 else wbits ws 2 27 26
    let base := if fill then quad ws 4 else quad ws 6
    let bb : BbMap := { stripe := if stripe then some (d.stripeOf die target) else none, port := target, base := base, space := wbits ws 2 29 28, order := order }
    let kind : XferKind := if fill then (if bit31 then .fillBb else .fillHost) else (if bit31 then .toHost else .toBb)
    let x := { x with phase := .move, kind := kind, bb := if usesBb then bb else {}, host := { base := quad ws 4 }, pat := quad ws 6,
                      todo := if kind = .fillHost then (if len = 0 then [] else [(0, len)]) else xferParts order base len }
    (d.putRun r x).goRun r x.count

/-! Starting descriptors (R291, R296, R310) -/

/-- Descriptors of a mover in progress. -/
def Dev.inProgress (d : Dev) (x m : Nat) : Nat :=
  (d.moverRings x m).foldl (fun n r => n + ((d.ring r).runs.filter fun y => y.phase != .done).length) 0

/-- May the head of a ring start now, its own conditions apart: RUNNING, the mover free, room for completions, order within the ring? -/
def Dev.canBegin (d : Dev) (r : Nat) (ws : List Word) : Bool :=
  let g := d.ring r
  let x := d.ringDie r
  let depth := let v := d.fld MOV_CTL.DEPTH x (movIdx x g.mover); min 8 (max 1 v)
  let alone := wbits ws 0 15 15 == 1 || descOp ws == 5 || descOp ws == 6
  let waiting := (d.moverRings x g.mover).foldl (fun n q => n + (d.ring q).cplq.length) 0
  d.ringState r == 1 && !(d.mover x g.mover).resetting && decide (d.inProgress x g.mover < depth) && decide (waiting < 64) &&
    d.fld DIE_SVC_STAT.STATE x == 0 && (!alone || (g.runs.isEmpty && g.cplq.isEmpty))

/-- Does a good RECORD wait for its tap set or for a compression engine (R327, R329)? -/
def Dev.tapBusy (d : Dev) (r count : Nat) (ws : List Word) : Bool :=
  (descVerdict count ws).isNone && descOp ws == 2 && wbits ws 2 29 29 == 1 &&
    ((d.tap (wbits ws 13 7 0)).run.isSome || decide (4 ≤ d.engineLoad (d.ringDie r) (d.ring r).mover))

/-- Has a ring a staged descriptor that could start, were it the ring's turn? See log entry 34. -/
def Dev.headReady (d : Dev) (r : Nat) : Bool :=
  match (d.ring r).staged with
  | (count, ws) :: _ => d.canBegin r ws && !d.tapBusy r count ws
  | [] => false

/-- Places from the ring served last to a ring, in round-robin order (R291). See log entry 34. -/
def Dev.turnOf (d : Dev) (x m r : Nat) : Nat :=
  match (d.mover x m).last with
  | some q => (r + 1023 - q % 1024) % 1024
  | none => r

/-- Is it a ring's turn (R291): can its head start, and that of no ring before it? -/
def Dev.turn (d : Dev) (r : Nat) : Bool :=
  let x := d.ringDie r
  let m := (d.ring r).mover
  d.headReady r && (d.moverRings x m).all fun q => decide (d.turnOf x m r ≤ d.turnOf x m q) || !d.headReady q

/-- Taken from staging: counted as started. See log entry 34. -/
def Dev.begin_ (d : Dev) (r : Nat) (count : Nat) (ws : List Word) (phase : DPhase) : Dev :=
  let g := d.ring r
  let i := movIdx (d.ringDie r) g.mover
  let d := d.setMover (d.ringDie r) g.mover { d.mover (d.ringDie r) g.mover with last := some r }
  let d := d.modRing r fun g => { g with staged := g.staged.drop 1, runs := g.runs ++ [{ count := count, words := ws, phase := phase }] }
  (d.setFld MOV_STAT.RING 0 i r).setFld MOV_STAT.STARTED 0 i ((d.fld MOV_STAT.STARTED 0 i + 1) % 65536)

/-- The descriptor that a failed batch read leaves ends FETCH_ERROR, once those before it have started (R296, R310). -/
def Dev.endFetch (d : Dev) (r : Nat) : Dev :=
  match (d.ring r).fetchBad with
  | some (c, detail) =>
    if (d.ring r).staged.isEmpty && d.ringState r == 1 then
      let x : DescRun := { count := c, words := [], phase := .move }
      let d := d.modRing r fun g => { g with runs := g.runs ++ [x], fetchBad := none }
      d.endRun r (x.fail { status := 0x12, detail := detail, info := (d.ring r).desc + 64 * (c % (d.ring r).size) } true)
    else d
  | none => d

/-- A descriptor that fails a check of R296 ends when its turn comes. -/
def Dev.endBad : Nat → Dev → Nat → Dev
  | 0, d, r => d.endFetch r
  | k + 1, d, r =>
    match (d.ring r).staged with
    | (count, ws) :: _ =>
      match descVerdict count ws with
      | some st =>
        if d.turn r then
          let d := d.begin_ r count ws .move
          match d.runOf r count with
          | some x => Dev.endBad k (d.endRun r (x.fail { status := st } true)) r
          | none => d
        else d
      | none => d
    | [] => d.endFetch r

/-- The ring's head started, when it is a good descriptor of an opcode and may start. See log entry 34. -/
def Dev.startOp (d : Dev) (r op : Nat) (f : Dev → DescRun → Dev) : Dev :=
  match (d.ring r).staged with
  | (count, ws) :: _ =>
    if descOp ws = op ∧ (descVerdict count ws).isNone ∧ d.turn r then
      let d := d.begin_ r count ws .move
      match d.runOf r count with
      | some x => f d x
      | none => d
    else d
  | [] => d

/-- A TABLE_SWITCH writes TC_SWITCH through the home die and waits for the drain (R304). -/
def Dev.startSwitch (d : Dev) (r : Nat) (x : DescRun) : Dev :=
  (d.putRun r { x with phase := .switchWait }).note
    (.cfgWrite (Loc.offset ⟨.TC_SWITCH, 0, 0⟩) (BitVec.ofNat 32 (wbits x.words 2 7 0)) (d.ringDie r))

/-- TC_SWITCH_STAT.DRAINED (R191), once every die has applied what the lead has ordered. -/
def Dev.drained (d : Dev) : Bool :=
  d.dies.all fun x => d.applied.get 0 ⟨x, 0, 0⟩ == d.cfgLog.length && !d.oldSwitch x

def Dev.switchDone (d : Dev) (r : Nat) : Dev :=
  match (d.ring r).runs.find? fun x => x.phase == .switchWait with
  | some x => if d.drained && !(d.notes.any fun n => match n with | .cfgWrite .. => true | _ => false) then d.endRun r x else d
  | none => d

/-- Has ring OTHER reached the count a fence awaits (R305)? -/
def Dev.fenceMet (d : Dev) (x : DescRun) : Bool :=
  wbits x.words 2 31 31 == 0 || decide ((d.cplWr (wbits x.words 2 25 16) + 65536 - wbits x.words 3 15 0) % 65536 < 32768)

def Dev.startFence (d : Dev) (r : Nat) (x : DescRun) : Dev :=
  let o := wbits x.words 2 25 16
  if wbits x.words 2 31 31 = 1 ∧ (d.ringState o = 0 ∨ !d.flag RING_CTL.EN (d.ringDie o) o) then d.endRun r (x.fail { status := 0x0E } true)
  else if d.fenceMet x then d.endRun r x
  else d.putRun r { x with phase := .fenceWait }

/-- A fence that waits on a ring ends (R305). -/
def Dev.fenceEnd (d : Dev) (r : Nat) (timeout : Bool) : Dev :=
  match (d.ring r).runs.find? fun x => x.phase == .fenceWait with
  | none => d
  | some x =>
    if d.fenceMet x then d.endRun r x
    else if timeout && word x.words 4 != 0 then d.endRun r (x.fail { status := 0x0D } true)
    else d

/-! Host requests of a mover end (R93, R314) -/

/-- HOST_ERROR or POISON of a failed host request. -/
def hostErr (abort poison timeout : Bool) (info : Nat) : DErr :=
  if poison then { status := 0x0A, info := info }
  else { status := 9, detail := if timeout then 8 else if abort then 4 else 1, info := info }

/-- A write of a mover has been issued. -/
def Dev.moverIssued (d : Dev) (r count piece : Nat) : Dev :=
  match d.runOf r count with
  | none => d
  | some x =>
    match x.blks.find? fun b => b.writes.any fun w => w.1 == piece with
    | none => d
    | some b =>
      let n := ((b.writes.find? fun w => w.1 == piece).map (·.2.1)).getD 0
      let ws := b.writes.filter fun w => w.1 != piece
      let x : DescRun := { x with bytes := x.bytes + n, blks := if ws.isEmpty then x.blks.filter fun c => c.num != b.num
                                                    else x.blks.map fun c => if c.num == b.num then { b with writes := ws } else c }
      if x.phase = .index then (if x.blks.isEmpty then d.endRun r x else d.putRun r x)
      else (d.putRun r x).goRun r count

/-- A host request of a mover ends in a completion, or in error (R93, R99). -/
def Dev.moverHost (d : Dev) (r count piece : Nat) (ok abort poison timeout : Bool) (data : List Byte) : Dev :=
  match d.runOf r count with
  | none => d
  | some x =>
    if piece = entryPiece ∧ x.phase = .entryRead then
      if x.err.isSome then d.endRun r x
      else if ok then d.playEntry r x (wordsLE data)
      else d.endRun r (x.fail (hostErr abort poison timeout (quad x.words 11 + 32 * word x.words 10)) true)
    else if piece = statePiece ∧ x.phase = .stateRead then
      if x.err.isSome then d.endRun r x
      else if ok then d.playState r x (natLE data)
      else
        let p := handlePool (quad x.entry 2)
        d.endRun r (x.fail (hostErr abort poison timeout (d.poolPair .POOL_STATE_LO .POOL_STATE_HI p + 8 * handleIndex (quad x.entry 2))) true)
    else
      match x.blks.find? fun b => (b.reads.any fun q => q.1 == piece) || b.writes.any fun w => w.1 == piece with
      | none => d
      | some b =>
        let at_ := ((b.reads.find? fun q => q.1 == piece).map (·.2)).getD 0
        if b.writes.any fun w => w.1 == piece then
          let addr := ((b.writes.find? fun w => w.1 == piece).map (·.2.2)).getD 0
          let ws := b.writes.filter fun w => w.1 != piece
          let x : DescRun := { x with blks := if ws.isEmpty then x.blks.filter fun c => c.num != b.num
                                      else x.blks.map fun c => if c.num == b.num then { b with writes := ws } else c }
          if x.phase = .index then
            let x := x.fail (hostErr abort poison timeout addr) true
            if x.blks.isEmpty then d.endRun r x else d.putRun r x
          else d.stopRun r x (hostErr abort poison timeout addr)
        else if !ok then
          let addr := ((x.host.segs 2 (b.off + at_) 1).head?.map (·.2.1)).getD 0
          d.stopRun r x (hostErr abort poison timeout addr)
        else
          let b := { b with reads := b.reads.filter fun q => q.1 != piece, got := b.got ++ [(at_, data)] }
          let x := { x with blks := x.blks.map fun c => if c.num == b.num then b else c }
          let d := d.putRun r x
          if !b.reads.isEmpty then d
          else
            let d := match x.tap with
              | some t => b.src.foldl (fun (d : Dev) (p : Nat × Nat) => d.tapFeed t r count (b.off + p.1) ((b.bytes.drop p.1).take p.2)) d
              | none => d
            match d.runOf r count with
            | some x =>
              if b.parts.isEmpty then (d.putRun r { x with blks := x.blks.filter fun c => c.num != b.num }).goRun r count
              else (d.blkToTile r x b).goRun r count
            | none => d

/-! Fetching (R296) -/

/-- Staged descriptors of a mover. -/
def Dev.stagedOf (d : Dev) (x m : Nat) : Nat := (d.moverRings x m).foldl (fun n r => n + (d.ring r).staged.length) 0

/-- Descriptors of batches that a mover is reading; each has its credits (R257). -/
def Dev.fetching (d : Dev) (x m : Nat) : Nat := (d.moverRings x m).foldl (fun n r => n + (d.ring r).fetchOut.getD 0) 0

/-- A batch read started. -/
def Dev.fetch (d : Dev) (r : Nat) : Dev :=
  let g := d.ring r
  let x := d.ringDie r
  let left := (d.posted r + 65536 - d.fetched r) % 65536
  let slot := d.fetched r % g.size
  let n := min (min 8 left) (g.size - slot)
  if d.ringState r = 1 ∧ g.fetchOut.isNone ∧ g.fetchBad.isNone ∧ left ≠ 0 ∧ !(d.mover x g.mover).resetting ∧
      16 * (d.stagedOf x g.mover + d.fetching x g.mover + n) ≤ 1024 + (d.queue x (16 + g.mover)).extra ∧ d.fld DIE_SVC_STAT.STATE x = 0 then
    let d := d.modRing r fun g => { g with fetchOut := some n }
    let (i, d) := d.fresh
    d.hostFrom (d.ringDie r) { id := i, die := g.hostDie, kind := .read, addr := g.desc + 64 * slot, len := 64 * n, who := .ringFetch r }
  else d

/-- A batch read ends: descriptors are staged, or the first of them is to end FETCH_ERROR (R296, R315). `fail` is its DETAIL. -/
def Dev.fetchDone (d : Dev) (r fail : Nat) (bytes : List Byte) : Dev :=
  match (d.ring r).fetchOut with
  | none => d
  | some n =>
    let d := d.modRing r fun g => { g with fetchOut := none }
    let c := d.fetched r
    if fail = 0 then
      let die := d.ringDie r
      let q := 16 + (d.ring r).mover
      -- descriptors written over the end of the ring are dropped and fetched again (R264, R320)
      let fit := min n (64 - d.stagedOf die (d.ring r).mover)
      let ws := (List.range fit).map fun k => ((c + k) % 65536, wordsLE ((bytes.drop (64 * k)).take 64))
      let d := d.modRing r fun g => { g with staged := g.staged ++ ws }
      let d := d.setFld RING_PTR.FETCHED 0 r ((c + fit) % 65536)
      (List.range (n - fit)).foldl (fun d _ => d.engineOver die q 16) (d.note (.qpush die q (ws.map (·.2))))
    else
      let d := (d.setFld RING_PTR.FETCHED 0 r ((c + 1) % 65536)).ringEvent RING_STAT.FETCH_FAULT r
      (d.modRing r fun g => { g with fetchBad := some (c, fail) }).endFetch r

/-! Stops, resets and losses (R318, R319, R321) -/

/-- What a ring has fetched and not started. -/
def Ring.unstarted (g : Ring) : Nat := g.staged.length + (if g.fetchBad.isSome then 1 else 0)

/-- What a ring has fetched and not started goes, and FETCHED goes back over it (R319, R320). -/
def Dev.unfetch (d : Dev) (r : Nat) : Dev :=
  let back := (d.fetched r + 65536 - (d.ring r).unstarted % 65536) % 65536
  (d.modRing r fun g => { g with staged := [], fetchBad := none }).setFld RING_PTR.FETCHED 0 r back

/-- A batch read in progress is forgotten. -/
def Dev.dropFetch (d : Dev) (r : Nat) : Dev :=
  (d.modRing r fun g => { g with fetchOut := none }).forgetReads fun w => w == .ringFetch r

/-- Descriptors in progress end with a status once their transactions have run to their end. -/
def Dev.abortRuns (d : Dev) (r : Nat) (e : DErr) : Dev :=
  ((d.ring r).runs.filter fun x => x.phase != .done).foldl (fun d y =>
    match d.runOf r y.count with
    | none => d
    | some x =>
      let x := { x with aborted := true }
      match x.phase with
      | .move => d.stopRun r x e
      | .switchWait | .fenceWait => d.endRun r (x.fail e true)
      | .entryRead | .stateRead => (d.forgetReads fun w => w == .mover r x.count entryPiece || w == .mover r x.count statePiece).endRun r (x.fail e true)
      | .tapEnd => d.putRun r (x.fail e true)
      | _ => d.putRun r (x.fail e true)) d

/-- Fences of other rings that wait on a ring end ABORTED (R305). -/
def Dev.abortFences (d : Dev) (r : Nat) : Dev :=
  (d.rings.map fun e => e.1.a).foldl (fun d q =>
    match (d.ring q).runs.find? fun x => x.phase == .fenceWait && wbits x.words 2 31 31 == 1 && wbits x.words 2 25 16 == r with
    | some x => d.endRun q (x.fail { status := 0x13, detail := 2 } true)
    | none => d) d

/-- STOP and RESUME (R318); a ring that stops raises its notice (R317). See log entry 35. -/
def Dev.ringStop (d : Dev) (r : Nat) : Dev := if d.ringState r = 1 then (d.setRingState r 2).notice r else d
def Dev.ringResume (d : Dev) (r : Nat) : Dev := if d.ringState r = 2 then d.setRingState r 1 else d

/-- EN turns from 0 to 1 at the home (R293): the snapshot, the counts at 0, STATE RUNNING. -/
def Dev.ringUp (d : Dev) (x r : Nat) : Dev :=
  let d := d.modRing r fun _ => { ctl := d.reg .RING_CTL x r, desc := d.pair .RING_DESC_LO .RING_DESC_HI x r / 4096 * 4096,
                                  cpl := d.pair .RING_CPL_LO .RING_CPL_HI x r / 4096 * 4096,
                                  every := max 1 (d.fld RING_NOTE.EVERY x r), tail := d.fld RING_NOTE.TAIL x r }
  ((d.setReg .RING_PTR 0 r 0).setReg .RING_CPL_PTR 0 r 0).setRingState r 1

/-- RESET of a ring begins (R318). See log entry 35. -/
def Dev.ringReset (d : Dev) (r : Nat) : Dev :=
  if d.ringState r = 0 ∨ d.ringState r = 3 then d
  else
    let d := d.setRingState r 3
    let d := (d.modRing r fun g => { g with staged := [], fetchBad := none }).dropFetch r
    (d.abortRuns r { status := 0x13, detail := 2 }).abortFences r

/-- The reset ends: completions left over are written or lost, the pointers restart (R318). See log entry 35. -/
def Dev.ringResetEnd (d : Dev) (r : Nat) : Dev :=
  if d.ringState r ≠ 3 ∨ ((d.ring r).runs.any fun x => x.phase != .done) then d
  else
    let d := Dev.stageCpls true (d.ring r).runs.length d r
    let sent := (d.ring r).cplq.take (if (d.ring r).cplOut then 1 else 0)
    let q := (d.ring r).cplq.drop (if (d.ring r).cplOut then 1 else 0)
    let d := d.forgetWrites (d.ring r).hostDie fun w => w == .ringCpl r
    let d := sent.foldl (fun d c => d.cplWritten r c) d
    let d := q.foldl (fun d c => if d.cplFull r then d.ringEvent RING_STAT.CPL_LOST r else (d.cplSend r c.1 .none).cplWritten r c) d
    let held := (d.ring r).heldCmd
    let off := (d.ring r).offSeen
    let d := d.modRing r fun g => { g with cplq := [], cplOut := false, unnoticed := 0, offSeen := false, heldCmd := none }
    let d := (d.setReg .RING_PTR 0 r 0).setReg .RING_CPL_PTR 0 r 0
    let x := d.home (d.fld RING_CTL.HOME_DIE (d.ringDie r) r)
    let d := if !d.flag RING_CTL.EN x r then d.setRingState r 0
      else if off then d.ringUp x r else d.setRingState r 1
    match held with
    | some 0 => d.ringStop r
    | some 1 => d.ringResume r
    | some _ => d.ringReset r
    | none => d

/-- A trigger of RING_CMD: held while a reset runs, and with true discarded where one is held already (R67). -/
def Dev.ringTrigger (d : Dev) (r k : Nat) : Bool × Dev :=
  if d.ringState r = 3 then
    if (d.ring r).heldCmd.isSome then (true, d) else (false, d.modRing r fun g => { g with heldCmd := some k })
  else (false, match k with
    | 0 => d.ringStop r
    | 1 => d.ringResume r
    | _ => d.ringReset r)

/-- Reset of a mover begins (R319). -/
def Dev.moverResetBegin (d : Dev) (x m : Nat) : Dev :=
  let rs := d.moverRings x m
  let d := d.setMover x m { d.mover x m with resetting := true, held := false }
  let d := d.setFld MOV_STAT.RESETTING 0 (movIdx x m) 1
  rs.foldl (fun d r =>
    let d := (d.dropFetch r).unfetch r
    d.abortRuns r { status := 0x13, detail := 1 }) d

/-- MOV_CTL.RESET: held while a reset of the mover runs (R67, R319). -/
def Dev.moverReset (d : Dev) (x m : Nat) : Dev :=
  if (d.mover x m).resetting then d.setMover x m { d.mover x m with held := true } else d.moverResetBegin x m

/-- The reset of a mover is over once nothing of it is in progress and its completions are written: its rings stop, and a held reset
begins (R319, R67). -/
def Dev.moverResetEnd (d : Dev) (x m : Nat) : Dev :=
  if (d.mover x m).resetting && d.inProgress x m == 0 && (d.moverRings x m).all fun r => (d.ring r).runs.isEmpty && (d.ring r).cplq.isEmpty then
    let held := (d.mover x m).held
    let d := (d.setMover x m { d.mover x m with resetting := false, held := false }).setFld MOV_STAT.RESETTING 0 (movIdx x m) 0
    let d := (d.moverRings x m).foldl (fun d r => d.ringStop r) d
    if held then d.moverResetBegin x m else d
  else d

/-- The home die of a ring is lost: what was in progress ends HOME_LOST and is not run again; what had not started is fetched again
(R321). See log entry 39. -/
def Dev.ringHomeLost (d : Dev) (r : Nat) : Dev :=
  ((d.abortRuns r { status := 0x14 }).dropFetch r).unfetch r

/-! Set-up (R292, R293, R308) -/

/-- The states of R292 in which a ring cannot be enabled. -/
def Dev.ringInvalid (d : Dev) (x r : Nat) : Bool :=
  let order := d.fld RING_CTL.ORDER x r
  decide (order < 4) || decide (16 < order) || decide (d.n ≤ d.fld RING_CTL.HOME_DIE x r) || decide (d.n ≤ d.fld RING_CTL.HOST_DIE x r) ||
  d.pair .RING_DESC_LO .RING_DESC_HI x r / 4096 == 0 || d.pair .RING_CPL_LO .RING_CPL_HI x r / 4096 == 0

/-- After a write to a set-up register of a ring on a die (R292, R293). A HOME_DIE that names an absent die is taken modulo the dies present
for the place of CFG_REFUSED (DESIGN CHOICE, log entry 36). -/
def Dev.ringCheck (d : Dev) (x r : Nat) : Dev :=
  let bad := d.flag RING_CTL.EN x r && d.ringInvalid x r
  let d := if bad then d.setFld RING_CTL.EN x r 0 else d
  let on := d.ringState r != 0
  let home := if on then d.ringDie r else d.home (d.fld RING_CTL.HOME_DIE x r % d.n)
  if x = home then
    let d := if bad then d.status RING_STAT.CFG_REFUSED 0 r evRing x r else d
    let en := d.flag RING_CTL.EN x r
    if en && !on then d.ringUp x r
    else if !en && on then
      let d := d.ringReset r
      d.modRing r fun g => { g with offSeen := true }
    else d
  else d

/-- The states of R308 in which a stripe set cannot be enabled. -/
def Dev.stripeInvalid (d : Dev) (x s : Nat) : Bool :=
  let w := d.fld STRIPE_CTL.WIDTH x s
  let v := d.stripeOf x s
  let ps := v.ports.take w
  w == 0 || decide (16 < w) || (ps.any fun p => decide (8 * d.n ≤ p)) || !decide ps.Nodup ||
    d.pair .STRIPE_OFF_LO .STRIPE_OFF_HI x s % v.unit != 0

/-- After a write to a register of a stripe set on a die (R308). -/
def Dev.stripeCheck (d : Dev) (x s : Nat) : Dev :=
  if d.flag STRIPE_CTL.EN x s && d.stripeInvalid x s then
    (d.setFld STRIPE_CTL.EN x s 0).setFld STRIPE_CTL.CFG_REFUSED x s 1
  else d

/-- Every ring goes on as far as it can: bad heads end, batches are read, completions leave (R296, R307, R316). -/
def Dev.ringPump (d : Dev) : Dev :=
  (d.rings.map fun e => e.1.a).foldl (fun d r =>
    let d := (d.ring r).runs.foldl (fun d x => d.goRun r x.count) d
    let d := d.endBad (d.ring r).staged.length r
    let d := (Dev.stageCpls false (d.ring r).runs.length d r).cplPump r
    (d.moverResetEnd (d.ringDie r) (d.ring r).mover).fetch r) d

end Sys2Proof.Machine
end

