-- ==== Sys2Proof/Machine/Clocks.lean ====
section
/-!
DEFINITION. Clocks (spec/15, R366): PLLs, monitors and their judgement, failures, arbitration, readmission, swap and restoration,
fen-only sleep and waking.
-/

namespace Sys2Proof.Machine

def Dev.clk (d : Dev) (x : Nat) : Clock := d.clocks.get {} ⟨x, 0, 0⟩
def Dev.modClk (d : Dev) (x : Nat) (f : Clock → Clock) : Dev := { d with clocks := d.clocks.set {} ⟨x, 0, 0⟩ (f (d.clk x)) }

/-! States of a PLL in CLK_STAT -/
def psOff := 0
def psLocking := 1
def psLocked := 2
def psCoast := 3
def psFailed := 4

/-- Monitor number of a PLL: 2 PLL A, 3 PLL B, 4 Body Bus PLL. -/
def pllMon : Pll → Nat
  | .a => 2
  | .b => 3
  | .bb => 4

/-- CLK_STAT field with the state of a PLL, by monitor number. -/
def pllField (k : Nat) : Fld := if k = 2 then CLK_STAT.PLLA_STATE else if k = 3 then CLK_STAT.PLLB_STATE else CLK_STAT.BBPLL_STATE

def Dev.pll (d : Dev) (x k : Nat) : Nat := d.fld (pllField k) x
def Dev.setPll (d : Dev) (x k st : Nat) : Dev := d.setFld (pllField k) x 0 st

def Dev.srcFailed (d : Dev) (x k : Nat) : Bool := (d.clk x).failed.testBit k

/-- Is a crystal there and not failed (R374, R375)? -/
def Dev.crystalOk (d : Dev) (x c : Nat) : Bool := !d.srcFailed x c && (c == 0 || d.flag CLK_STAT.XB_PRESENT x)

/-- CLK_EVENT bit of a source's failure. -/
def failBit (k : Nat) : Fld :=
  match k with
  | 0 => CLK_EVENT.XA_FAIL
  | 1 => CLK_EVENT.XB_FAIL
  | 2 => CLK_EVENT.PLLA_FAIL
  | 3 => CLK_EVENT.PLLB_FAIL
  | 4 => CLK_EVENT.BBPLL_FAIL
  | 5 => CLK_EVENT.REFCLK_LOST
  | 6 => CLK_EVENT.FIO_FAIL
  | _ => CLK_EVENT.SIO_FAIL

/-- IRQ_NMI_CAUSE bit of a source. -/
def nmiBit (k : Nat) : Fld :=
  match k with
  | 0 => IRQ_NMI_CAUSE.XA
  | 1 => IRQ_NMI_CAUSE.XB
  | 2 => IRQ_NMI_CAUSE.PLLA
  | 3 => IRQ_NMI_CAUSE.PLLB
  | 4 => IRQ_NMI_CAUSE.BBPLL
  | _ => IRQ_NMI_CAUSE.FIO

/-- A bit of CLK_EVENT set; SOURCE is the bit number. -/
def Dev.clkEvent (d : Dev) (f : Fld) (x : Nat) : Dev := d.status f x 0 evClock x f.lo

/-- CLK_STAT follows which sources are failed. -/
def Dev.syncOk (d : Dev) (x : Nat) : Dev :=
  let b (v : Bool) : Nat := if v then 1 else 0
  let d := d.setFld CLK_STAT.XA_OK x 0 (b (d.crystalOk x 0))
  let d := d.setFld CLK_STAT.XB_OK x 0 (b (d.crystalOk x 1))
  (d.setFld CLK_STAT.FIO_OK x 0 (b (!d.srcFailed x 6))).setFld CLK_STAT.SIO_OK x 0 (b (!d.srcFailed x 7))

/-- A source marked failed, with its event (R390). -/
def Dev.markFailed (d : Dev) (x k : Nat) : Dev :=
  let d := d.modClk x fun c => { c with failed := c.failed ||| 2 ^ k, good := c.good.filter fun e => e.1 != k }
  (d.syncOk x).clkEvent (failBit k) x

/-! References (R375) -/

/-- The crystal a PLL refers to now. -/
def Dev.refOf (d : Dev) (x k : Nat) : Nat := if (d.clk x).refs.testBit (k - 2) then 1 else 0

def Dev.setRef (d : Dev) (x k c : Nat) : Dev := d.modClk x fun q => { q with refs := setBit q.refs (k - 2) (c == 1) }

/-- The crystal that CLK_CTL selects for a PLL, or the other one where that is absent or failed. -/
def Dev.wantedRef (d : Dev) (x k : Nat) : Nat :=
  let sel := d.fld (if k = 2 then CLK_CTL.A_REF else if k = 3 then CLK_CTL.B_REF else CLK_CTL.BB_REF) x
  if d.crystalOk x sel then sel else if d.crystalOk x (1 - sel) then 1 - sel else sel

/-- Every PLL that refers to a failed crystal moves to the other one where that is good. -/
def Dev.moveRefs (d : Dev) (x c : Nat) : Dev :=
  if d.crystalOk x (1 - c) then [2, 3, 4].foldl (fun d k => if d.refOf x k = c then d.setRef x k (1 - c) else d) d else d

/-! The root -/

def rootFio := 2

/-- Monitor number of the core PLL that carries the root, if one does. -/
def Dev.carrier (d : Dev) (x : Nat) : Option Nat :=
  match d.fld CLK_STAT.ROOT x with
  | 0 => some 2
  | 1 => some 3
  | _ => none

/-- The spare core PLL: the one PLL_ROOT does not name. -/
def Dev.spare (d : Dev) (x : Nat) : Nat := if d.flag DIE_SVC_STAT.PLL_ROOT x then 2 else 3

def Dev.setRoot (d : Dev) (x src : Nat) : Dev := d.setFld CLK_STAT.ROOT x 0 src

def Dev.rootHeld (d : Dev) (x : Nat) : Bool := d.flag CLK_STAT.HELD x

/-- The root held. The port measurements keep their last values meanwhile, which are free (PWR_MP_MEAS, log entry 4). -/
def Dev.hold (d : Dev) (x : Nat) : Dev :=
  let d := (List.range 8).foldl (fun (d : Dev) t => let (v, d) := d.draw; d.setReg .PWR_MP_MEAS x t (BitVec.ofNat 32 v)) d
  d.setFld CLK_STAT.HELD x 0 1
def Dev.unhold (d : Dev) (x : Nat) : Dev := d.setFld CLK_STAT.HELD x 0 0

/-- A core PLL started from its reference (R366 step 1, R375). -/
def Dev.startPll (d : Dev) (x k : Nat) : Dev :=
  let d := d.setRef x k (d.wantedRef x k)
  (d.setPll x k psLocking).modClk x fun c => { c with fresh := setBit c.fresh k false }

/-- A restoration begins: root on FIO, AUTO_RESTORE, a crystal that is not failed, no swap running (R392). -/
def Dev.restore (d : Dev) (x : Nat) : Dev :=
  let k := d.spare x
  if d.flag CLK_CTL.AUTO_RESTORE x && d.fld CLK_STAT.ROOT x == rootFio && (d.clk x).swap.isNone && !d.srcFailed x k &&
      (d.crystalOk x 0 || d.crystalOk x 1) && d.fld MC_BOOT_STAT.STEP x != 0 then
    let d := (d.modClk x fun c => { c with swap := some true }).setFld DIE_SVC_STAT.PLL_BUSY x 0 1
    if d.pll x k = psLocked then d else d.startPll x k
  else d

/-- A held root waits for the spare, started from a crystal unless it starts already or is failed (R393). -/
def Dev.awaitSpare (d : Dev) (x : Nat) : Dev :=
  if (d.clk x).swap.isSome || d.srcFailed x (d.spare x) then d
  else ((d.modClk x fun c => { c with swap := some true }).setFld DIE_SVC_STAT.PLL_BUSY x 0 1).startPll x (d.spare x)

/-- The root moved to FIO away from its carrier; held instead while FIO is failed, until the spare locks (R377, R393). -/
def Dev.rootToFio (d : Dev) (x : Nat) : Dev :=
  if d.srcFailed x 6 then (d.hold x).awaitSpare x
  else ((d.setRoot x rootFio).unhold x).modClk x fun c => { c with swRoot := true }

/-- A swap or restoration ends without a switch (R366, R394). -/
def Dev.swapFail (d : Dev) (x : Nat) : Dev :=
  ((d.modClk x fun c => { c with swap := none }).setFld DIE_SVC_STAT.PLL_BUSY x 0 0).clkEvent CLK_EVENT.SWAP_FAIL x

/-- Steps 4 and 5 of R366: the root moves to the spare, the former carrier stops. A root that was held on a failed carrier (R393) is switched
away from it only now, with the carrier's non-maskable event (R390). -/
def Dev.swapDone (d : Dev) (x : Nat) : Dev :=
  match (d.clk x).swap with
  | none => d
  | some restoring =>
    let k := d.spare x
    let old := 5 - k
    let fromFio := d.fld CLK_STAT.ROOT x == rootFio
    let fails := !fromFio && (d.pll x old == psFailed || d.pll x old == psCoast)
    let d := if fails then d.nmi x (nmiBit old) else d
    let d := (d.setRoot x (k - 2)).unhold x
    let d := d.modClk x fun c => { c with swap := none, swRoot := false }
    let d := if d.pll x old = psFailed then d else d.setPll x old psOff
    let d := (d.setFld DIE_SVC_STAT.PLL_ROOT x 0 (k - 2)).setFld DIE_SVC_STAT.PLL_BUSY x 0 0
    let d := if restoring then d else d.bump DIE_SVC_STAT.SWAPS x
    if fromFio then d.clkEvent CLK_EVENT.RESTORED x else d

/-- DIE_SVC.PLL_SWAP (R366): refusal 0x04 while a swap runs or the spare is failed. -/
def Dev.pllSwap (d : Dev) (x : Nat) (refuse : Dev → Dev) : Dev :=
  let k := d.spare x
  if (d.clk x).swap.isSome || d.srcFailed x k then refuse d
  else ((d.modClk x fun c => { c with swap := some false }).setFld DIE_SVC_STAT.PLL_BUSY x 0 1).startPll x k

/-! Ports on a failing Body Bus PLL (R378) -/

/-- Local-timed ACTIVE ports of a die whose active group holds lane 0. -/
def Dev.loopable (d : Dev) (x : Nat) : List Nat :=
  (List.range' (8 * x) 8).filter fun p =>
    d.active? p && !d.flag BB_LINK_STAT.LOOP p && (d.fld BB_LANE_STAT.ACTIVE p).testBit 0

/-- Their transmit sides move to the recovered clock of lane 0, with 16 SKP sets each (R129, R378). -/
def Dev.portsToLoop (d : Dev) (x : Nat) : Dev :=
  let ps := d.loopable x
  let d := if ps.isEmpty then d else d.modClk x fun c => { c with swBb := true }
  ps.foldl (fun d p => (d.setFld BB_LINK_STAT.LOOP p 0 1).emit (.skp p 16)) d

/-! Failures (R390, R391) -/

/-- A core PLL fails or reports reference loss; `st` is its state from then on. -/
def Dev.corePllDown (d : Dev) (x k st : Nat) : Dev :=
  let d := if st = psFailed then d.markFailed x k else d.clkEvent (failBit k) x
  let d := (d.setPll x k st).modClk x fun c => { c with fresh := setBit c.fresh k false }
  if d.carrier x = some k then
    let held := d.srcFailed x 6
    let d := d.rootToFio x
    (if held then d else d.nmi x (nmiBit k)).restore x
  else if (d.clk x).swap.isSome && d.spare x == k then d.swapFail x
  else d

/-- The Body Bus PLL coasts or fails (R378); the non-maskable event is raised where a port has been switched away. See log entry 41. -/
def Dev.bbPllDown (d : Dev) (x st : Nat) : Dev :=
  let d := if st = psFailed then d.markFailed x 4 else d.clkEvent (failBit 4) x
  let d := d.setPll x 4 st
  let moved := !(d.loopable x).isEmpty
  let d := d.portsToLoop x
  if moved then d.nmi x IRQ_NMI_CAUSE.BBPLL else d

/-- A crystal marked failed, its PLLs referred to the other; a swap whose spare referred to it ends (R375, R394). A root on FIO is restored from
the other crystal (R392). -/
def Dev.crystalFail (d : Dev) (x c : Nat) : Dev :=
  let d := d.markFailed x c
  let ends := (d.clk x).swap.isSome && d.refOf x (d.spare x) == c && d.pll x (d.spare x) != psOff
  let d := if ends then d.swapFail x else d
  (d.moveRefs x c).restore x

/-- Does a PLL that is locked refer to a crystal? -/
def Dev.lockedOn (d : Dev) (x k c : Nat) : Bool := d.pll x k == psLocked && d.refOf x k == c

/-- A crystal's result fails (R390): arbitration while a PLL that carries a domain is locked on it, failed otherwise. -/
def Dev.crystalResultFail (d : Dev) (x c : Nat) : Dev :=
  let carries := match d.carrier x with | some k => d.lockedOn x k c | none => false
  let bb := d.lockedOn x 4 c
  let coasting := [5 - d.spare x, 4].any fun k => d.pll x k == psCoast && d.refOf x k == c
  if (d.clk x).arb.isSome then d.crystalFail x c
  else if (carries || bb) && !d.srcFailed x 6 then
    let d := if carries then d.hold x else d
    let moved := bb && !(d.loopable x).isEmpty
    let d := if bb then d.portsToLoop x else d
    (d.modClk x fun q => { q with arb := some c, arbMoved := moved }).setFld CLK_STAT.ARBITRATING x 0 1
  else if coasting then (d.crystalFail x c).nmi x (nmiBit c)
  else d.crystalFail x c

/-- The root released on its carrier, arbitration over. -/
def Dev.arbEnd (d : Dev) (x : Nat) : Dev :=
  ((d.modClk x fun q => { q with arb := none, arbMoved := false }).setFld CLK_STAT.ARBITRATING x 0 0).unhold x

/-- The crystal under arbitration is blamed: the root moves to FIO where it carried the root (R391). -/
def Dev.arbCrystal (d : Dev) (x c : Nat) : Dev :=
  let carries := match d.carrier x with | some k => d.lockedOn x k c | none => false
  let d := d.crystalFail x c
  let d := if carries then d.setRoot x rootFio else d
  let moved := (d.clk x).arbMoved
  let d := d.arbEnd x
  (if carries || moved then d.nmi x (nmiBit c) else d).restore x

/-- FIO is blamed: released on the carrier, fallback to FIO suspended (R391, R393). -/
def Dev.fioFail (d : Dev) (x : Nat) : Dev :=
  let d := d.markFailed x 6
  let d := if (d.clk x).arb.isSome then d.arbEnd x else d
  d.nmi x IRQ_NMI_CAUSE.FIO

/-! Judgement (R387, R388, R393) -/

/-- Nominal frequency of a monitored clock, in quarters of a kHz; none where the monitor gives no result. -/
def Dev.nominal (d : Dev) (x : Nat) (m : ClockMon) : Option Nat :=
  match m with
  | .mon 0 => some 100000
  | .mon 1 => if d.flag CLK_STAT.XB_PRESENT x then some 108000 else none
  | .mon 4 => if d.pll x 4 = psLocked || d.pll x 4 = psFailed then some 625000 else none
  | .mon 5 => some 400000
  | .mon 6 => some 1600000
  | .mon k =>
    if k = 2 ∨ k = 3 then
      let st := d.pll x k
      if st = psLocked ∨ st = psFailed then some 1000000 else if st = psCoast then some 200000 else none
    else none
  | .loop t =>
    let p := 8 * x + t
    if d.flag BB_LINK_STAT.LOOP p then
      match (d.port p).link.rate with
      | 0 => some 78125
      | 1 => some 156250
      | _ => some 312500
    else none

/-- Does a count lie within the band around the expected count? Windows are 4,000 FIO cycles; 64 SIO periods for FIO itself, and for
every monitor while FIO is failed, then with the band widened by the 2 % of SIO (R387, R393). -/
def Dev.passes (d : Dev) (x : Nat) (m : ClockMon) (count : Nat) : Bool :=
  match d.nominal x m with
  | none => true
  | some q =>
    let band := max (d.fld CLK_CTL.BAND x) 4
    let khz := d.fld CLK_FIO_CAL.KHZ x
    let slow := d.srcFailed x 6
    -- both sides scaled: count × unit against nominal × window
    let fio := match m with | .mon 6 => true | _ => false
    let have_ := if fio then 262144 * count else if slow then 4 * 262144 * count else 4 * khz * count
    let want := if fio then khz * 64000 else if slow then q * 64000 else q * 4000
    let band := if slow && !fio then band + 4 else band
    let diff := if have_ < want then want - have_ else have_ - want
    decide (200 * diff ≤ want * band)

/-- A passing result: readmission after 1,024 in a row (R392), a swap's confirmation (R366). See log entry 41. -/
def Dev.resultPass (d : Dev) (x k : Nat) : Dev :=
  if d.srcFailed x k then
    let n := ((d.clk x).good.find? fun e => e.1 == k).elim 0 (·.2) + 1
    if 1024 ≤ n then
      let d := d.modClk x fun c => { c with failed := setBit c.failed k false, good := c.good.filter fun e => e.1 != k }
      let d := if (k = 2 || k = 3 || k = 4) && d.pll x k == psFailed then d.setPll x k psLocked else d
      ((d.syncOk x).clkEvent CLK_EVENT.READMIT x).restore x
    else d.modClk x fun c => { c with good := (c.good.filter fun e => e.1 != k) ++ [(k, n)] }
  else if (k = 2 || k = 3) && d.pll x k == psLocked then
    let d := d.modClk x fun c => { c with fresh := setBit c.fresh k true }
    if (d.clk x).swap.isSome && d.spare x == k then d.swapDone x else d
  else d

/-- A failing result of a numbered source (R390). See log entry 41. -/
def Dev.resultFail (d : Dev) (x k : Nat) : Dev :=
  if d.srcFailed x k then d.modClk x fun c => { c with good := c.good.filter fun e => e.1 != k }
  else
    match k with
    | 0 => d.crystalResultFail x 0
    | 1 => d.crystalResultFail x 1
    | 4 => d.bbPllDown x psFailed
    | 5 => d.clkEvent CLK_EVENT.REFCLK_LOST x
    | 6 =>
      -- with FIO passing against a crystal in the same period, SIO is at fault
      let against := d.crystalOk x 0 && d.fld CLK_MON_CNT.COUNT x 0 != 0 && !d.flag CLK_MON_CNT.FAIL x 0
      if against && (d.clk x).arb.isNone then (d.markFailed x 7).setFld CLK_STAT.FEN_ON_FIO x 0 1 else d.fioFail x
    | _ => d.corePllDown x k psFailed

/-- A monitor result (R387): stored, judged under the band in force, acted on. Nothing before the monitors are armed (BS12).
See log entry 41. -/
def Dev.monResult (d : Dev) (x : Nat) (m : ClockMon) (count : Nat) : Dev :=
  if !(d.clk x).armed || (d.nominal x m).isNone then d
  else
    let ok := d.passes x m count
    let bad := if ok then 0 else 1
    match m with
    | .mon k =>
      let d := (d.setFld CLK_MON_CNT.COUNT x k count).setFld CLK_MON_CNT.FAIL x k bad
      if ok then d.resultPass x k else d.resultFail x k
    | .loop t =>
      let d := (d.setFld CLK_LOOP_CNT.COUNT x t count).setFld CLK_LOOP_CNT.FAIL x t bad
      if ok then d else d.fallBack (8 * x + t)

/-- The arbitration window ends (R391). -/
def Dev.arbResult (d : Dev) (x count : Nat) : Dev :=
  match (d.clk x).arb with
  | none => d
  | some c =>
    let d := d.setFld CLK_MON_CNT.COUNT x 6 count
    if d.passes x (.mon 6) count then (d.setFld CLK_MON_CNT.FAIL x 6 0).arbCrystal x c
    else (d.setFld CLK_MON_CNT.FAIL x 6 1).fioFail x

/-- A PLL reports the loss of its reference and coasts (R377, R378). -/
def Dev.refLoss (d : Dev) (x : Nat) (p : Pll) : Dev :=
  let k := pllMon p
  let st := d.pll x k
  if st = psLocked ∨ st = psLocking then
    if k = 4 then d.bbPllDown x psCoast else d.corePllDown x k psCoast
  else d

/-- A PLL locks (R376): a held root whose second fault waits for the spare takes it at once (R393). -/
def Dev.pllLocks (d : Dev) (x : Nat) (p : Pll) : Dev :=
  let k := pllMon p
  let st := d.pll x k
  if st = psLocking ∨ st = psCoast then
    let d := (d.setPll x k psLocked).modClk x fun c => { c with fresh := setBit c.fresh k false }
    if d.rootHeld x && (d.clk x).arb.isNone && k != 4 && d.spare x == k then d.swapDone x else d
  else d

/-- A multiplexer hangs (R386): with edges on the old clock it goes on waiting; without, the forced path is taken. -/
def Dev.muxHangs (d : Dev) (x : Nat) (m : MuxId) (edges : Bool) : Dev :=
  if edges then d
  else
    match m with
    | .root =>
      if (d.clk x).swRoot then
        ((d.modClk x fun c => { c with swRoot := false }).clkEvent CLK_EVENT.FORCED x).nmi x IRQ_NMI_CAUSE.FORCED
      else d
    | .bbPll =>
      if (d.clk x).swBb then
        ((d.modClk x fun c => { c with swBb := false }).clkEvent CLK_EVENT.FORCED x).nmi x IRQ_NMI_CAUSE.FORCED
      else d
    | .portTx t =>
      let p := 8 * x + t
      if d.flag BB_LINK_STAT.LOOP p then (d.fallBack p).clkEvent CLK_EVENT.LOOP_FORCED x else d
    | .pllA => d
    | .pllB => d
    | .fen => d

/-- The measurement of FIO that a die domain reset began ends (R389). -/
def Dev.fioCal (d : Dev) (x khz : Nat) : Dev :=
  if (d.clk x).calRun then (d.setFld CLK_FIO_CAL.KHZ x 0 khz).modClk x fun c => { c with calRun := false } else d

/-! Fen-only sleep (R396, R397) -/

/-- Do the conditions of R396 hold? -/
def Dev.maySleep (d : Dev) : Bool :=
  (d.dies.all fun x => (d.fld PX_LINK_STAT.STATE x == 0 || d.fld PX_LINK_STAT.STATE x == 5 || d.d3hot x) &&
    (d.clk x).swap.isNone && (d.clk x).arb.isNone && d.fld DIE_SVC_STAT.STATE x == 0) &&
  ((List.range (8 * d.n)).all fun p => (d.lstate p == lsDisabled || d.lstate p == lsDetect) && d.fld TIL_SVC_STAT.STATE p != 1 && d.fld TIL_SVC_STAT.STATE p != 4) &&
  (d.rings.all fun e => e.2.runs.isEmpty) &&
  ((List.range 1024).all fun r => d.fld RING_PTR.FETCHED 0 r == d.fld RING_PTR.POSTED 0 r) &&
  ((List.range 64).all fun s => (d.sem s).holder.isNone)

/-- CLK_SLEEP.ENTER: the package sleeps, or the die records the refusal. -/
def Dev.sleep (d : Dev) (x : Nat) : Dev :=
  if d.maySleep then { d with asleep := true } else d.setFld CLK_WAKE.REFUSED x 0 1

/-- A wake event on every die: the root on FIO, CAUSE set, DETECT sends SYN again, the root restored under R392. -/
def Dev.wake (d : Dev) (cause : Fld) : Dev :=
  let d := { d with asleep := false }
  let d := d.dies.foldl (fun d x =>
    let d := [CLK_WAKE.PERST, CLK_WAKE.CLKREQ, CLK_WAKE.BODY_BUS, CLK_WAKE.TIMER].foldl (fun d f => d.setFld f x 0 0) d
    let d := (d.setFld cause x 0 1).setRoot x rootFio
    let d := (d.setPll x 2 psOff).setPll x 3 psOff
    d.restore x) d
  (List.range (8 * d.n)).foldl (fun d p => if d.lstate p = lsDetect then d.sendSyns p 0 else d) d

/-- WAKE_EVENT: one of the inputs of R397 while the package sleeps; a Body Bus lane counts where a port of the die was in DETECT. -/
def Dev.wakeInput (d : Dev) (x : Nat) (c : WakeCause) : Dev :=
  if !d.asleep then d
  else
    match c with
    | .perst => d.wake CLK_WAKE.PERST
    | .clkreq => d.wake CLK_WAKE.CLKREQ
    | .bodyBus => if (List.range' (8 * x) 8).any fun p => d.lstate p == lsDetect then d.wake CLK_WAKE.BODY_BUS else d

/-- CLK_WAKE.TIMER of a die expires; a timer of 0 never does. -/
def Dev.wakeTimer (d : Dev) (x : Nat) : Dev :=
  if d.asleep && d.fld CLK_WAKE.PERIOD x != 0 then d.wake CLK_WAKE.TIMER else d

end Sys2Proof.Machine
end

