-- ==== Sys2Proof/Machine/Power.lean ====
section
/-!
DEFINITION. Magazine port power, temperature, boundary scan (spec/16).
-/

namespace Sys2Proof.Machine

def Dev.mp (d : Dev) (p : Nat) : MagPort := d.magPorts.get {} ⟨p, 0, 0⟩
def Dev.modMp (d : Dev) (p : Nat) (f : MagPort → MagPort) : Dev := { d with magPorts := d.magPorts.set {} ⟨p, 0, 0⟩ (f (d.mp p)) }

/-! States of PWR_MP_STAT.STATE (R408) -/
def mpOff := 0
def mpDischarging := 1
def mpRamp := 2
def mpOn := 3
def mpFault := 4

def Dev.mpState (d : Dev) (p : Nat) : Nat := d.fld PWR_MP_STAT.STATE (dieOf p) (p % 8)

/-- GATE and DSCH of a state: (gate, discharge). -/
def mpPins (st : Nat) (low : Bool) : Bool × Bool :=
  (st == mpRamp || st == mpOn, (st == mpDischarging || st == mpFault) && !low)

/-- A change of state: pins driven, event of class 0x12 with the port as SOURCE; a port taken out of ON loses its partner's lanes
(R127, R409). See log entry 42. -/
def Dev.mpGo (d : Dev) (p st : Nat) : Dev :=
  let old := d.mpState p
  if old = st then d
  else
    let x := dieOf p
    let was := mpPins old (d.mp p).low
    let d := if st = mpRamp then d.modMp p fun m => { m with low := false } else d
    let now := mpPins st (d.mp p).low
    let d := (d.setFld PWR_MP_STAT.STATE x (p % 8) st).raise x evPower ⟨.PWR_MP_STAT, x, p % 8⟩ 29 p
    let d := if was.1 != now.1 then d.emit (.gate p now.1) else d
    let d := if was.2 != now.2 then d.emit (.dsch p now.2) else d
    if old = mpOn && d.active? p then
      (((d.setFld BB_LANE_STAT.LOCK p 0 0).setFld BB_LANE_STAT.BAD p 0 255).fallBack p).retrainEnter p 0 false
    else d

/-- The power conditions of R408, FAULT apart. See log entry 42. -/
def Dev.mpWanted (d : Dev) (p : Nat) : Bool := d.flag PWR_MP_CTL.EN (dieOf p) (p % 8) && (d.mp p).present

/-- The state follows the power conditions; under AUTO a magazine present for 100 ms enables an OFF port (R408). See log entry 42. -/
def Dev.mpCheck (d : Dev) (p : Nat) : Dev :=
  let x := dieOf p
  let d := if d.flag PWR_MP_CTL.AUTO x (p % 8) && d.mpState p == mpOff && (d.mp p).debounced && (d.mp p).present then
      d.setFld PWR_MP_CTL.EN x (p % 8) 1 else d
  let st := d.mpState p
  if d.mpWanted p then (if st = mpOff && (d.mp p).low then d.mpGo p mpRamp else d)
  else if st = mpRamp || st = mpOn then d.mpGo p mpDischarging
  else d

/-- PRES_N goes low. See log entry 42. -/
def Dev.mpInsert (d : Dev) (p : Nat) : Dev :=
  ((d.modMp p fun m => { m with present := true, debounced := false }).setFld PWR_MP_STAT.PRESENT (dieOf p) (p % 8) 1).mpCheck p

/-- PRES_N has been low for 100 ms. -/
def Dev.mpDebounce (d : Dev) (p : Nat) : Dev :=
  if (d.mp p).present then (d.modMp p fun m => { m with debounced := true }).mpCheck p else d

/-- PRES_N rises (R410): in RAMP or ON the pad path discharges the port and UNPLUGS counts; AUTO clears EN. -/
def Dev.mpRemove (d : Dev) (p : Nat) : Dev :=
  let x := dieOf p
  let st := d.mpState p
  let d := (d.modMp p fun m => { m with present := false, debounced := false }).setFld PWR_MP_STAT.PRESENT x (p % 8) 0
  let d := if st = mpRamp || st = mpOn then d.bump PWR_MP_STAT.UNPLUGS x (p % 8) else d
  let d := if d.flag PWR_MP_CTL.AUTO x (p % 8) then d.setFld PWR_MP_CTL.EN x (p % 8) 0 else d
  d.mpCheck p

/-- A write of PWR_MP_CTL.EN. -/
def Dev.mpEnable (d : Dev) (p : Nat) (en : Bool) : Dev :=
  (d.setFld PWR_MP_CTL.EN (dieOf p) (p % 8) (if en then 1 else 0)).mpCheck p

/-- FAULT ends: OFF, and RAMP where the power conditions hold (R409). -/
def Dev.mpLeaveFault (d : Dev) (p : Nat) : Dev := ((d.modMp p fun m => { m with clear := false }).mpGo p mpOff).mpCheck p

/-- A write of 1 to PWR_MP_CTL.CLEAR: FAULT ends once VSNS is below 2 V. -/
def Dev.mpClear (d : Dev) (p : Nat) : Dev :=
  if d.mpState p = mpFault then
    if (d.mp p).low then d.mpLeaveFault p else d.modMp p fun m => { m with clear := true }
  else d

/-- VSNS reaches 10.8 V. -/
def Dev.mpGood (d : Dev) (p : Nat) : Dev := if d.mpState p = mpRamp then d.mpGo p mpOn else d

/-- VSNS falls below 2 V while the rail discharges. -/
def Dev.mpLow (d : Dev) (p : Nat) : Dev :=
  let st := d.mpState p
  if st = mpDischarging then ((d.modMp p fun m => { m with low := true }).emit (.dsch p false)).mpGo p mpOff |>.mpCheck p
  else if (st = mpFault || st = mpOff) && !(d.mp p).low then
    let d := (d.modMp p fun m => { m with low := true }).emit (.dsch p false)
    if (d.mp p).clear then d.mpLeaveFault p else d.mpCheck p
  else d

/-- FAULT entered with its cause (R409). -/
def Dev.mpFail (d : Dev) (p cause : Nat) : Dev :=
  let x := dieOf p
  ((d.setFld PWR_MP_STAT.CAUSE x (p % 8) cause).bump PWR_MP_STAT.FAULTS x (p % 8)).mpGo p mpFault

/-- The states in which each cause is judged. -/
def mpJudged (cause st : Nat) : Bool :=
  match cause with
  | 1 => st == mpOn || st == mpRamp
  | 2 => st == mpOn || st == mpRamp
  | 3 => st == mpRamp
  | 4 => st == mpOn
  | _ => st == mpDischarging

/-- A fault condition: SHORT acts by the pad path at once, the others wait while the root is held (R412). -/
def Dev.mpCondition (d : Dev) (p cause : Nat) : Dev :=
  if !mpJudged cause (d.mpState p) then d
  else if cause != 2 && d.rootHeld (dieOf p) then d.modClk (dieOf p) fun c => { c with waitFaults := c.waitFaults ++ [(p, cause)] }
  else d.mpFail p cause

/-- Conditions that waited are judged when the root runs again. -/
def Dev.mpJudge (d : Dev) (x : Nat) : Dev :=
  let w := (d.clk x).waitFaults
  if w.isEmpty || d.rootHeld x then d
  else w.foldl (fun d e => if mpJudged e.2 (d.mpState e.1) then d.mpFail e.1 e.2 else d) (d.modClk x fun c => { c with waitFaults := [] })

/-! Temperature (R406) -/

/-- A reading of a die's junction temperature, within −128 °C and 127 °C. -/
def Dev.temp (d : Dev) (x : Nat) (t : Int) : Dev :=
  let d := d.setFld PWR_TEMP.TEMP_C x 0 ((t % 256).toNat)
  let lim : Int := let a := d.fld PWR_TEMP.ALERT_C x; if a < 128 then a else a - 256
  let hot := decide (lim ≤ t)
  let was := d.dies.any fun y => d.flag PWR_TEMP.ALERT y
  let d := if hot then d.status PWR_TEMP.ALERT x 0 evPower x x else d.setFld PWR_TEMP.ALERT x 0 0
  let now := d.dies.any fun y => d.flag PWR_TEMP.ALERT y
  if was != now then d.emit (.alert now) else d

/-! Boundary scan (R413, R414) -/

/-- IDCODE of a die. See log entry 47. -/
def Dev.idcodeOf (d : Dev) (x : Nat) : Nat :=
  d.fld PKG_ID.STEP * 2 ^ 28 + (0xE000 + 0x10 * (d.variant.device % 256 / 2) + x) * 2 ^ 12 + 0x2D9 * 2 + 1

/-- What an instruction code puts between TDI and TDO: EXTEST, CLAMP and HIGHZ act as BYPASS unless PKG_RESET_N is asserted.
See log entry 47. -/
def scanReg (asserted : Bool) (code : Nat) : ScanReg :=
  match code with
  | 0 => if asserted then .boundaryDriven else .bypass
  | 1 => .boundary
  | 2 => .idcode
  | 4 => if asserted then .bypassClamped else .bypass
  | 5 => if asserted then .bypassHighz else .bypass
  | _ => .bypass

/-- An instruction taken by a die's instruction register. See log entry 47. -/
def Dev.scan (d : Dev) (x code : Nat) : Dev :=
  let d := { d with scanIr := d.scanIr.set 2 ⟨x, 0, 0⟩ code }
  let r := scanReg d.fen.asserted code
  d.emit (.scan x r (if r = .idcode then d.idcodeOf x else 0))

end Sys2Proof.Machine
end

