-- ==== Sys2Proof/Machine/Monitors.lean ====
section
/-!
DEFINITION. Monitors (spec/18): slots, samples, results. A latency is a free value (log entry 4), for the model keeps no time below 1 µs.
-/

namespace Sys2Proof.Machine

/-- Index of a slot's registers. -/
def slotIx (x s : Nat) : Nat := 64 * x + s

/-- Is a kind of R441 a latency kind, a level kind? -/
def isLatency (k : Nat) : Bool := 1 ≤ k && k ≤ 5
def isLevel (k : Nat) : Bool := k == 6 || k == 7

/-- The bin of a value (R444). -/
def binOf (kind v : Nat) : Nat :=
  let unit := if isLatency kind then 16 else 1
  if v < unit then 0 else min 15 (Nat.log2 (v / unit) + 1)

/-- Results of a slot cleared (R447). -/
def Dev.monClear (d : Dev) (x s : Nat) : Dev :=
  let i := slotIx x s
  let d := (d.setReg .MON_MIN 0 i 0xFFFFFFFF).setReg .MON_MAX 0 i 0
  let d := ((d.setReg .MON_COUNT 0 i 0).setReg .MON_SUM_LO 0 i 0).setReg .MON_SUM_HI 0 i 0
  let d := (List.range 16).foldl (fun d k => d.setReg .MON_BIN 0 (16 * i + k) 0) d
  (d.setFld MON_STAT.OVER 0 i 0).setFld MON_STAT.SAT 0 i 0

/-- One sample into a slot's results (R444). -/
def Dev.monPut (d : Dev) (x s v : Nat) : Dev :=
  let i := slotIx x s
  let top := 2 ^ 32 - 1
  let v := min v top
  let w := BitVec.ofNat 32
  let mx := max (d.fld MON_MAX.MAX 0 i) v
  let n := satInc (d.fld MON_COUNT.COUNT 0 i) top
  let sum := min (d.pair .MON_SUM_LO .MON_SUM_HI 0 i + v) (2 ^ 64 - 1)
  let b := 16 * i + binOf (d.fld MON_SRC.KIND 0 i) v
  let h := satInc (d.fld MON_BIN.HITS 0 b) top
  let d := d.setReg .MON_MIN 0 i (w (min (d.fld MON_MIN.MIN 0 i) v))
  let d := ((d.setReg .MON_MAX 0 i (w mx)).setReg .MON_COUNT 0 i (w n)).setReg .MON_BIN 0 b (w h)
  let d := d.setPair .MON_SUM_LO .MON_SUM_HI 0 i sum
  let d := if mx = top || n = top || h = top || sum = 2 ^ 64 - 1 then d.setFld MON_STAT.SAT 0 i 1 else d
  let t := d.fld MON_THRESH.THRESH 0 i
  if t != 0 && decide (t < v) then d.status MON_STAT.OVER 0 i evMon x (64 * x + s) else d

/-- A sample offered to a slot: recorded, counted in MISSED while frozen, ignored while the slot is off (R446). See log entry 45. -/
def Dev.monRecord (d : Dev) (x s v : Nat) : Dev :=
  let i := slotIx x s
  if !d.flag MON_CTL.EN 0 i then d
  else if d.flag MON_CTL.FREEZE 0 i then d.bump MON_STAT.MISSED 0 i
  else d.monPut x s v

/-- Slots of a die that watch a source. See log entry 45. -/
def Dev.watchers (d : Dev) (x kind num : Nat) : List Nat :=
  (List.range 64).filter fun s =>
    d.flag MON_CTL.EN 0 (slotIx x s) && d.fld MON_SRC.KIND 0 (slotIx x s) == kind && d.fld MON_SRC.NUM 0 (slotIx x s) == num

/-- A latency sample into a slot. A slot takes four in a cycle (R446): one beyond the fourth of a step is missed or taken by a free bit, for the
model keeps no cycles. See log entry 45. -/
def Dev.monTake (d : Dev) (x s v : Nat) : Dev :=
  let k := d.monHits.get 0 ⟨x, s, 0⟩
  let d := { d with monHits := d.monHits.set 0 ⟨x, s, 0⟩ (k + 1) }
  if k < 4 then d.monRecord x s v
  else
    let (b, d) := d.draw
    if b % 2 = 1 then d.bump MON_STAT.MISSED 0 (slotIx x s) else d.monRecord x s v

/-- A latency sample of a source that ended (R441): one value for every slot that watches it, but for slots whose source was written
after the start (R447). See log entry 45. -/
def Dev.monSample (d : Dev) (kind num x start : Nat) : Dev :=
  match d.watchers x kind num with
  | [] => d
  | ss =>
    let (v, d) := d.draw
    ss.foldl (fun d s => if d.monFrom.get 0 ⟨x, s, 0⟩ ≤ start then d.monTake x s v else d) d

/-- A ring's home moves off die `x` to `home`: its slots there stop (R441). -/
def Dev.monMoved (d : Dev) (x r home : Nat) : Dev :=
  if x = home then d
  else (d.watchers x 5 r ++ d.watchers x 7 r).foldl (fun d s => d.setFld MON_STAT.MOVED 0 (slotIx x s) 1) d

/-- A level slot's interval passes (R443). See log entry 45. -/
def Dev.monLevel (d : Dev) (x s : Nat) : Dev :=
  let i := slotIx x s
  let num := d.fld MON_SRC.NUM 0 i
  match d.fld MON_SRC.KIND 0 i with
  | 6 => if num < 64 then
      let items := if num = 63 then (if d.evqHome = x then d.evq.items.length else 0) else (d.queue x num).items.length
      d.monRecord x s items
    else d
  | 7 => if num < 1024 && d.fld RING_CTL.HOME_DIE x num == x then
      d.monRecord x s ((d.fld RING_PTR.POSTED 0 num + 65536 - d.fld RING_CPL_PTR.CPL_WR 0 num) % 65536)
    else d
  | _ => d

/-- A write to MON_SRC: stored, the slot cleared (R447). -/
def Dev.monSource (d : Dev) (x s v : Nat) : Dev :=
  let i := slotIx x s
  let d := (d.setFld MON_SRC.KIND 0 i (v / 2 ^ 28)).setFld MON_SRC.NUM 0 i v
  ({ d with monFrom := d.monFrom.set 0 ⟨x, s, 0⟩ d.nextId } : Dev).monClear x s

/-- The monitors of a die after a die domain reset (R447). -/
def Dev.monReset (d : Dev) (x : Nat) : Dev :=
  let mon (r : Nat) : Bool := [RegId.MON_CTL, .MON_SRC, .MON_SAMPLE, .MON_THRESH, .MON_STAT, .MON_MIN, .MON_MAX, .MON_COUNT,
    .MON_SUM_LO, .MON_SUM_HI].any fun q => q.ctorIdx == r
  let bin := RegId.MON_BIN.ctorIdx
  { d with regs := d.regs.filter fun e => !((mon e.1.a && e.1.c / 64 == x) || (e.1.a == bin && e.1.c / 1024 == x)),
           monFrom := d.monFrom.filter fun e => e.1.a != x }

end Sys2Proof.Machine
end

