-- ==== Sys2Proof/Machine/Mortar.lean ====
section
/-!
DEFINITION. Mortar links (spec/01 R37 to R41, R197, R270): packets, acknowledgements, resends, failure and degraded width. Traffic between
dies is not cut into packets in this model (log entry 14); the packets here are the controllers' own and those the links bring.
-/

namespace Sys2Proof.Machine

/-- A packet put on the first link of its route from a die. -/
def Dev.mortarHop (d : Dev) (x : Nat) (p : MortarPkt) : Dev :=
  match d.way x p.dst p.seq with
  | some ((_, k) :: _) => d.emit (.mortar x k p)
  | _ => d

/-- A packet of a die's own, kept until it is acknowledged (R40). See log entry 14. -/
def Dev.mortarSend (d : Dev) (a b stream cls : Nat) (ws : List Word) : Dev :=
  let seq := ((d.mor a).sent.find? fun e => e.1 == (b, stream)).elim 0 (·.2)
  let p : MortarPkt := { src := a, dst := b, stream := stream, cls := cls, seq := seq, words := ws }
  let d := d.modMor a fun m =>
    { m with unacked := m.unacked ++ [p], sent := (m.sent.filter fun e => e.1 != (b, stream)) ++ [((b, stream), seq + 1)] }
  d.mortarHop a p

/-- The source no longer keeps the packets of a stream up to a sequence number. -/
def Dev.mortarAcked (d : Dev) (a b stream seq : Nat) : Dev :=
  d.modMor a fun m => { m with unacked := m.unacked.filter fun p => !(p.dst == b && p.stream == stream && decide (p.seq ≤ seq)) }

/-- Queue of a mortar link and class (R259). See log entry 17. -/
def morQueue (k cls : Nat) : Nat := 48 + 3 * k + cls

/-- Queued packets of a die taken by their consumers while its root runs, and acknowledged when taken (R39, R270): up to the last that the stream
has delivered in sequence. -/
def Dev.mortarTake (d : Dev) (x : Nat) : Dev :=
  let q := (d.mor x).queued
  if q.isEmpty || d.rootHeld x then d
  else
    q.foldl (fun d e =>
      let d := d.modQueue x (morQueue e.1 e.2.cls) fun s => (s.pop 8192).2
      let key := (e.2.src, e.2.stream)
      let next := ((d.mor x).expected.find? fun q => q.1 == key).elim 0 (·.2)
      let more := q.any fun f => (f.2.src, f.2.stream) == key && decide (e.2.seq < f.2.seq)
      if next ≤ e.2.seq then d
      else
        let last := if more then e.2.seq else next - 1
        (d.mortarAcked e.2.src x e.2.stream last).emit (.mortarAck x e.1 e.2.src e.2.stream last))
      (d.modMor x fun m => { m with queued := [] })

/-- Does a packet wait only behind non-posted ones of its stream (R197)? Class 1 is non-posted. -/
def Dev.mortarAhead (d : Dev) (x next : Nat) (p : MortarPkt) : Bool :=
  let m := d.mor x
  p.cls != 1 && (List.range' next (p.seq - next)).all fun s =>
    m.early.contains ((p.src, p.stream), s) || ((m.ahead.map (·.2)) ++ ((d.mor p.src).unacked.filter fun q => q.dst == x)).any fun q =>
      q.src == p.src && q.stream == p.stream && q.seq == s && q.cls == 1

/-- The first sequence number from `n` on that was not delivered ahead. -/
def skipEarly (early : List ((Nat × Nat) × Nat)) (key : Nat × Nat) : Nat → Nat → Nat
  | 0, n => n
  | k + 1, n => if early.contains (key, n) then skipEarly early key k (n + 1) else n

/-- The senders send again what a receive queue has lost (R269). -/
def Dev.mortarAgain (d : Dev) (ps : List MortarPkt) : Dev :=
  ps.foldl (fun d p =>
    if (d.mor p.src).unacked.contains p then
      match d.way p.src p.dst p.seq with
      | some ((_, k) :: _) => (d.bump MOR_LINK_STAT.RETRY_COUNT p.src k).emit (.mortar p.src k p)
      | _ => d
    else d) d

/-- Packets that are next in their streams, and posted ones and completions that wait only behind non-posted ones, enter the queues of the links
they came by; each class of a link has a queue and credits of its own (R197, R257). One that overflows its queue is sent again (R264, R269). -/
def Dev.mortarOrder : Nat → Dev → Nat → Dev
  | 0, d, _ => d
  | n + 1, d, x =>
    let m := d.mor x
    let next (p : MortarPkt) : Nat := (m.expected.find? fun e => e.1 == (p.src, p.stream)).elim 0 (·.2)
    match takeFirst (fun (e : Nat × MortarPkt) => e.2.seq == next e.2 || d.mortarAhead x (next e.2) e.2) m.ahead with
    | (none, _) => d
    | (some e, rest) =>
      let key := (e.2.src, e.2.stream)
      let q := morQueue e.1 e.2.cls
      let s := d.queue x q
      let spilt := s.held.isEmpty && decide (e.2.words.length ≤ s.credits 8192) && decide (8192 < s.used + e.2.words.length)
      let d := d.modMor x fun m =>
        if spilt then { m with ahead := rest }
        else if e.2.seq = next e.2 then
          let n := skipEarly m.early key m.early.length (e.2.seq + 1)
          { m with ahead := rest, queued := m.queued ++ [e], expected := (m.expected.filter fun q => q.1 != key) ++ [(key, n)],
                   early := m.early.filter fun q => !(q.1 == key && decide (q.2 < n)) }
        else { m with ahead := rest, queued := m.queued ++ [e], early := m.early ++ [(key, e.2.seq)] }
      let d := d.modQueue x q fun s => s.offer 8192 e.2.words
      Dev.mortarOrder n (if spilt then d.mortarAgain [e.2] else d) x

/-- A packet received on a link: sent on by a die that is only a hop, discarded as a duplicate, or delivered in stream order.
See log entry 14. -/
def Dev.mortarRx (d : Dev) (x k : Nat) (p : MortarPkt) : Dev :=
  if !d.morUp x k then d
  else if p.dst ≠ x then d.mortarHop x p
  else
    let m := d.mor x
    let next := (m.expected.find? fun e => e.1 == (p.src, p.stream)).elim 0 (·.2)
    if p.seq < next || m.early.contains ((p.src, p.stream), p.seq) || m.ahead.any fun e => e.2.src == p.src && e.2.stream == p.stream && e.2.seq == p.seq then d
    else
      let d := d.modMor x fun m => { m with ahead := m.ahead ++ [(k, p)] }
      (d.mortarOrder (d.mor x).ahead.length x).mortarTake x

/-- A link's state at both of its ends. -/
def Dev.morBoth (d : Dev) (x k : Nat) (f : Dev → Nat → Nat → Dev) : Dev :=
  match linkPeer d.variant x k with
  | some y => f (f d x k) y (peerLink d.variant k)
  | none => f d x k

/-- An event of a link; SOURCE is the link number. -/
def Dev.morEvent (d : Dev) (x k bit : Nat) : Dev := d.raise x evMortar ⟨.MOR_LINK_STAT, x, k⟩ bit k

/-- Every packet not yet acknowledged whose route changed is sent again on its new route (R40). See log entry 14. -/
def Dev.mortarResend (before : Dev) (d : Dev) : Dev :=
  d.dies.foldl (fun d a =>
    (d.mor a).unacked.foldl (fun d p =>
      if before.way a p.dst p.seq = d.way a p.dst p.seq then d
      else
        match d.way a p.dst p.seq with
        | some ((_, k) :: _) => (d.bump MOR_LINK_STAT.RETRY_COUNT a k).emit (.mortar a k p)
        | _ => d) d) d

/-- The first `n` members that satisfy `f`, and the rest. -/
def takeSome (f : Nat × MortarPkt → Bool) : Nat → List (Nat × MortarPkt) → List (Nat × MortarPkt) × List (Nat × MortarPkt)
  | _, [] => ([], [])
  | 0, l => ([], l)
  | n + 1, a :: r =>
    if f a then (a :: (takeSome f n r).1, (takeSome f n r).2) else ((takeSome f (n + 1) r).1, a :: (takeSome f (n + 1) r).2)

/-- A receive queue loses the packets it holds. None of them was acknowledged: their streams expect them again (R40, R269). The packets lost,
and the device without them. See log entry 14. -/
def Dev.mortarFlush (d : Dev) (x q : Nat) (f : QState → QState) : List MortarPkt × Dev :=
  let r := takeSome (fun e => morQueue e.1 e.2.cls == q) (d.queue x q).items.length (d.mor x).queued
  let back (e : (Nat × Nat) × Nat) : (Nat × Nat) × Nat := (e.1, r.1.foldl (fun s g => if e.1 == (g.2.src, g.2.stream) then min s g.2.seq else s) e.2)
  let d := if r.1.isEmpty then d else d.modMor x fun m => { m with queued := r.2, expected := m.expected.map back }
  (r.1.map (·.2), d.modQueue x q f)

/-- A link fails: its receive queues are flushed, and what used it goes another way (R40, R41, R259). -/
def Dev.morFail (d : Dev) (x k : Nat) : Dev :=
  if d.morUp x k then
    let b := d
    let d := d.morBoth x k fun d y j => ((d.setFld MOR_LINK_STAT.STATE y j 3).setFld MOR_LINK_STAT.UP y j 0).morEvent y j 31
    let d := d.morBoth x k fun d y j => [0, 1, 2].foldl (fun d c => (d.mortarFlush y (morQueue j c) fun s => s.flush 8192).2) d
    Dev.mortarResend b d
  else d

/-- A module loses lanes in one half: x8 on the good half; with both halves hit it has failed (R41). -/
def Dev.morDegrade (d : Dev) (x k : Nat) : Dev :=
  if !d.morUp x k then d
  else if d.flag MOR_LINK_STAT.DEGRADED x k then d.morFail x k
  else d.morBoth x k fun d y j => (d.setFld MOR_LINK_STAT.DEGRADED y j 1).morEvent y j 30

/-- A link trained at start-up (R37). -/
def Dev.morTrain (d : Dev) (x k : Nat) (ok : Bool) : Dev :=
  match linkPeer d.variant x k with
  | none => d
  | some y =>
    let d := d.setFld MOR_LINK_STAT.STATE x k (if ok then 2 else 3)
    let d := (d.setFld MOR_LINK_STAT.PEER_DIE x k y).setFld MOR_LINK_STAT.PEER_LINK x k (peerLink d.variant k)
    d.setFld MOR_LINK_STAT.UP x k (if ok then 1 else 0)

end Sys2Proof.Machine
end

