-- ==== Sys2Proof/Machine/Cfg.lean ====
section
/-!
DEFINITION. Package configuration (R32, R36): what a write sets, its application on each die with the checks of the register's unit,
protected words with their votes and seals (R73 to R78), the lead's order of writes.
-/

namespace Sys2Proof.Machine

/-! What a write sets (R16, R69, R70) -/

/-- Bits of a register that a write sets: RW fields, and LK fields while their lock is clear. -/
def RegId.writable (r : RegId) (locked : Bool) : Word := r.maskWhere fun f => f.ty == .rw || (f.ty == .lk && !locked)

/-- Is any LK field of the register hit by a write under a set lock (R69)? The lock registers take their bit's 1 as a trigger. -/
def RegId.isLk (r : RegId) : Bool := r.spec.fields.any fun f => f.ty == .lk

/-- Bits for ports and dies that a variant lacks are reserved. -/
def Dev.presentMask (d : Dev) (r : RegId) : Word :=
  let ports (lo : Nat) : Word := BitVec.ofNat 32 ((2 ^ (8 * d.n) - 1) / 2 ^ lo)
  match r with
  | .PKG_BB_CTRL_PORTS_LO => ports 0
  | .PKG_BB_CTRL_PORTS_HI => ports 32
  | .WIN_I_PORTS_LO => ports 0
  | .WIN_I_PORTS_HI => ports 32
  | _ => 0xFFFFFFFF#32

/-- A word as it stands after a write under a mask of bits. -/
def merged (old v mask : Word) : Word := (old &&& ~~~mask) ||| (v &&& mask)

/-! Protected words (R17, R73 to R78) -/

/-- The seal of a die is opened by a write to one of its P fields (R77). -/
def Dev.openSeal (d : Dev) (x : Nat) : Dev :=
  if d.variant = .ez8 && (d.fld PKG_SEAL_STAT.SEALED).testBit x then
    d.setFld PKG_SEAL_STAT.OPEN 0 0 (d.fld PKG_SEAL_STAT.OPEN ||| 2 ^ x)
  else d

/-- The P words of a die in ascending BAR0 address order (R75): its replica of package configuration, its die block, its tile blocks;
a protection register's active copy follows its pending one (R248), the TAIL of queue 63 is that of EVQ_CTL (R259). Bits that are not P
count as 0. -/
def Dev.pWords (d : Dev) (x : Nat) : List Word :=
  let at_ (off : Nat) : List Word :=
    match locate d.n off with
    | none => []
    | some l =>
      if !l.reg.isP then []
      else
        let u := if l.reg.spec.block = .pkg then x else l.u
        let w := (if l.reg = .DIE_Q_CFG && l.i == 63 then BitVec.ofNat 32 (d.fld EVQ_CTL.TAIL x * 65536) else d.reg l.reg u l.i) &&& l.reg.pMask
        if isProtReg l.reg then [w, d.actv l.reg x l.i &&& l.reg.pMask] else [w]
  (List.range (0x800000 / 4)).flatMap (fun k => at_ (4 * k)) ++ (List.range (0x800000 / 4)).flatMap (fun k => at_ (dieBase x + 4 * k))

/-- The CRC of the walker over a die (R75). -/
def Dev.sealOf (d : Dev) (x : Nat) : Word := crc32 (bytesOfWords (d.pWords x))

/-- COMMIT of the seal on one die (R76): EZ8 only. -/
def Dev.sealCommit (d : Dev) (x : Nat) : Dev :=
  if d.variant = .ez8 then
    let d := d.setReg .PKG_SEAL_VALUE 0 x (d.sealOf x)
    let d := d.setFld PKG_SEAL_STAT.SEALED 0 0 (d.fld PKG_SEAL_STAT.SEALED ||| 2 ^ x)
    let d := d.setFld PKG_SEAL_STAT.OPEN 0 0 (setBit (d.fld PKG_SEAL_STAT.OPEN) x false)
    { d with sealStop := d.sealStop.filter fun y => y != x, reloaded := d.reloaded.filter fun y => y != x }
  else d

/-- The die whose copy is the lead's: in a takeover that of the new lead, the claimant or the deputy (R78, R363). -/
def Dev.copyLead (d : Dev) : Nat :=
  match d.lead.claim with
  | some (c, _) => c
  | none => if d.lead.failed then (d.dies.find? fun y => d.flag MC_ROLE.DEPUTY y).getD d.lead.lead else d.lead.lead

/-- The die whose copy is the lead's, or a standby's where the die is the lead's own (R78). On EZ2 and EZ4 the spec names no other copy for the
lead's own die: a standby's is taken there too. See log entry 50. -/
def Dev.copyOf (d : Dev) (x : Nat) : Nat :=
  let y := d.copyLead
  if x = y then ((d.dies.find? fun y => y != x && d.inService y && d.fld MC_ROLE.ROLE y == 1).getD x) else y

/-- P bits of one word put in place, the other bits kept. -/
def Dev.putP (d : Dev) (l : Loc) (w : Word) : Dev := d.put l (merged (d.raw l) w l.reg.pMask)

/-- The register whose keys have a constructor number. -/
def cfgOfKey (a : Nat) : Option RegId := pkgRegs.find? fun r => r.ctorIdx == a && r.isP && r.spec.owner == .cfg

/-- The P fields of a die reloaded from the lead's copy (R74, R78): replica, active protection rules, die and tile blocks. -/
def Dev.reloadP (d : Dev) (x : Nat) : Dev :=
  let y := d.copyOf x
  let keys := (d.regs.filter fun e => e.1.b == x || e.1.b == y).map fun e => (e.1.a, e.1.c)
  let d := keys.foldl (fun d k =>
    match cfgOfKey k.1 with
    | some r => d.putP ⟨r, x, k.2⟩ (d.reg r y k.2)
    | none => d) d
  let act := (d.active.filter fun e => e.1.b == y).map fun e => (({ e.1 with b := x } : Key), e.2)
  let d := { d with active := Store.graft (fun k => k.b == x) act d.active }
  d.leadCopy.foldl (fun d e =>
    match e.2 with
    | none => d
    | some w =>
      match (dieRegs ++ tileRegs).find? fun r => r.ctorIdx == e.1.a with
      | some r =>
        if r.isP && (if r.spec.block = .tile then e.1.b / 8 == x else e.1.b == x) then
          { (d.putP ⟨r, e.1.b, e.1.c⟩ w) with leadCopy := d.leadCopy.set none e.1 none }
        else d
      | none => d) d

/-- The walker's pass ends on a die (R75, R78): after a second mismatch no comparison is made until the next COMMIT, whatever a read of FAULT
clears. -/
def Dev.sealPass (d : Dev) (x : Nat) : Dev :=
  let bit (f : Fld) : Bool := (d.fld f).testBit x
  if d.variant ≠ .ez8 || !bit PKG_SEAL_STAT.SEALED || bit PKG_SEAL_STAT.OPEN || d.sealStop.contains x then d
  else if d.sealOf x = d.reg .PKG_SEAL_VALUE 0 x then { d with reloaded := d.reloaded.filter fun y => y != x }
  else if d.reloaded.contains x then
    let d := d.setFld PKG_SEAL_STAT.FAULT 0 0 (d.fld PKG_SEAL_STAT.FAULT ||| 2 ^ x)
    { d with reloaded := d.reloaded.filter fun y => y != x, sealStop := d.sealStop ++ [x] }
  else
    let d := (d.reloadP x).setFld PKG_SEAL_STAT.MISMATCH 0 0 (d.fld PKG_SEAL_STAT.MISMATCH ||| 2 ^ x)
    ({ d with reloaded := d.reloaded ++ [x] }).raise x evVote ⟨.PKG_SEAL_STAT, 0, 0⟩ x x

/-- The vote of the three copies of a word field by field (R73, R74): a copy of a field that stands alone is rewritten and counted; a field
whose three copies all differ takes the value of the lead's copy. Two-valued bits always have a majority, so that a three-way disagreement
shows as three different values of the field. The word, the fields fixed, the fields reloaded. See log entry 50. -/
def voteFields (a b c lead : Word) (fs : List FieldSpec) : Word × Nat × Nat :=
  fs.foldl (fun s f =>
    let m := maskOf f.hi f.lo
    let x := a &&& m
    let y := b &&& m
    let z := c &&& m
    if x = y && y = z then s
    else if x = y || x = z || y = z then (merged s.1 (if x = y || x = z then x else y) m, s.2.1 + 1, s.2.2)
    else (merged s.1 lead m, s.2.1, s.2.2 + 1)) (a, 0, 0)

/-- What a scrub found on a die: fields fixed counted, each field reloaded counted with its event (R74). -/
def Dev.scrubbed (d : Dev) (x fixed failed : Nat) : Dev :=
  (List.range failed).foldl (fun d _ => (d.bump DIE_PROT_STAT.FAILED x).raise x evVote ⟨.DIE_PROT_STAT, x, 0⟩ 0 x)
    (d.bumpBy DIE_PROT_STAT.FIXED x 0 fixed)

/-- The scrubber visits one P register (R73, R74) and, of a protection register, its active copy too (R248, R252). -/
def Dev.scrub (d : Dev) (x : Nat) (l : Loc) : Dev :=
  if d.variant = .ez8 || !l.reg.isP then d
  else
    let fs := l.reg.spec.fields.filter (·.prot)
    let d := match d.upsets.get none l.key with
      | none => d
      | some (b, c) =>
        let lead := if l.reg.spec.block = .pkg then d.reg l.reg (d.copyOf x) l.i
          else (d.leadCopy.get none l.key).getD (majority (d.raw l) b c)
        let v := voteFields (d.raw l) b c lead fs
        (d.put l v.1).scrubbed x v.2.1 v.2.2
    match d.activeUpsets.get none l.key with
    | none => d
    | some (b, c) =>
      let v := voteFields (d.active.get l.reg.resetWord l.key) b c (d.actv l.reg (d.copyOf x) l.i) fs
      (d.putActv l v.1).scrubbed x v.2.1 v.2.2

/-! Application on one die -/

/-- A window's register has been written on a die (R165 to R167). -/
def Dev.windowWritten (d : Dev) (x : Nat) (inb : Bool) (w : Nat) (ctl : Bool) : Dev :=
  let v := d.window x inb w
  let home := x == d.homeOf w
  let c := winReg inb .WIN_O_CTL
  let pfBad := ctl && v.prefetch && (!v.memory || v.sideEffect)
  let d := if pfBad then
      let d := d.setReg c x w (putBits (d.reg c x w) 23 23 0)
      if home then d.winEvent WIN_O_STAT.PF_REFUSED inb w else d
    else d
  let d := if v.en && d.winInvalid x inb w then
      let d := d.setReg c x w (putBits (d.reg c x w) 31 31 0)
      if home then d.winEvent WIN_O_STAT.CFG_REFUSED inb w else d
    else d
  d.windowTouched x fun i k => i == inb && k == w

/-- An interrupt map entry has been written on a die (R218). -/
def Dev.irqWritten (d : Dev) (x : Nat) (ctl tgt : RegId) (i : Nat) (bbin : Bool) : Dev :=
  let c := d.reg ctl x i
  if c.getLsbD 31 && irqInvalid d.n bbin c (d.reg tgt x i) then d.setReg ctl x i (putBits c 31 31 0) else d

/-- TC_INVAL on a die (R172). -/
def Dev.tcInval (d : Dev) (x : Nat) (v : Word) : Dev :=
  let inb := v.getLsbD 30
  let tb := v.getLsbD 29
  let w := bitsOf v 11 0
  if v.getLsbD 31 then d.invalidate x fun _ _ _ => true
  else if v.getLsbD 28 then
    let v := d.window x inb w
    let all := d.fld TC_INVAL_PAGE.PAGE x
    let page := if inb then all else all % 2 ^ 19
    let line := page / 8
    if (v.limit - v.base) / 2 ^ 21 < page then d else
    let hit (i : Bool) (k : Nat) (b : Bool) (n : Nat) : Bool := i == inb && k == w && b == tb && n == line
    let covers (b : PfBlock) : Bool := b.win.paged && decide ((b.near - b.win.base) / 2 ^ 24 ≤ line) &&
      decide (line ≤ (b.near + (max b.data.length b.want) - 1 - b.win.base) / 2 ^ 24)
    let d := d.modTc x fun t =>
      { t with lines := t.lines.filter fun l => !hit l.inb l.win l.tableB l.line,
               reads := t.reads.map fun r => if hit r.inb r.win r.tableB r.line then { r with keep := false } else r }
    (d.livePorts.filter fun p => dieOf p == x).foldl (fun d p =>
      (d.pfDrop p (fun b => b.win.inb == inb && b.win.num == w && b.win.ptSel == tb && covers b) 4).pfStale p (fun v u =>
        u.inb == inb && u.num == w && u.ptSel == tb && u.paged && v.job.accs.any fun a => (a.off - u.base) / 2 ^ 24 == line) 4) d
  else d.invalidate x fun i k b => i == inb && k == w && b == tb

/-- What a written configuration register sets in motion on a die. -/
def Dev.cfgHook (d : Dev) (x : Nat) (r : RegId) (i : Nat) (v : Word) : Dev :=
  match r with
  | .WIN_O_CTL => d.windowWritten x false i true
  | .WIN_O_PF | .WIN_O_BASE_LO | .WIN_O_BASE_HI | .WIN_O_LIMIT_LO | .WIN_O_LIMIT_HI | .WIN_O_TARGET_LO | .WIN_O_TARGET_HI
  | .WIN_O_PTA_LO | .WIN_O_PTA_HI | .WIN_O_PTB_LO | .WIN_O_PTB_HI | .WIN_O_ROUTE => d.windowWritten x false i false
  | .WIN_I_CTL => d.windowWritten x true i true
  | .WIN_I_PF | .WIN_I_BASE_LO | .WIN_I_BASE_HI | .WIN_I_LIMIT_LO | .WIN_I_LIMIT_HI | .WIN_I_TARGET_LO | .WIN_I_TARGET_HI
  | .WIN_I_PTA_LO | .WIN_I_PTA_HI | .WIN_I_PTB_LO | .WIN_I_PTB_HI | .WIN_I_ROUTE | .WIN_I_PORTS_LO | .WIN_I_PORTS_HI =>
    d.windowWritten x true i false
  | .IRQ_BBIN_CTL | .IRQ_BBIN_TGT => d.irqWritten x .IRQ_BBIN_CTL .IRQ_BBIN_TGT i true
  | .IRQ_CLASS_CTL | .IRQ_CLASS_TGT => d.irqWritten x .IRQ_CLASS_CTL .IRQ_CLASS_TGT i false
  | .IRQ_RING_CTL | .IRQ_RING_TGT => d.irqWritten x .IRQ_RING_CTL .IRQ_RING_TGT i false
  | .PROT_DEFAULT | .PROT_BIND | .PROT_RGN_BASE_LO | .PROT_RGN_BASE_HI | .PROT_RGN_LIMIT_LO | .PROT_RGN_LIMIT_HI =>
    d.setFld PROT_CTL.DIRTY x 0 1
  | .PROT_CTL => if v.getLsbD 0 then d.protCommit x else if v.getLsbD 1 then d.protDiscard x else d
  | .PKG_SEAL_CTRL => if v.getLsbD 0 then d.sealCommit x else d
  | .POOL_CTL | .POOL_SIZE | .POOL_COUNT | .POOL_TARGET | .POOL_BASE_LO | .POOL_BASE_HI | .POOL_STATE_LO | .POOL_STATE_HI
  | .POOL_RING_LO | .POOL_RING_HI => d.poolCheck x i
  | .POOL_RESV => d.poolCheck x (i / 8)
  | .RING_CTL => d.ringCheck x i
  | .RING_NOTE | .RING_DESC_LO | .RING_DESC_HI | .RING_CPL_LO | .RING_CPL_HI => d.ringCheck x i
  | .STRIPE_CTL | .STRIPE_OFF_LO | .STRIPE_OFF_HI => d.stripeCheck x i
  | .STRIPE_PORTS => d.stripeCheck x (i / 4)
  | .TAP_LOG_LO | .TAP_LOG_HI | .TAP_LOG_CTL => d.tapCheckCfg x i (d.flag TAP_CTL.EN x i) false
  | .TAP_GEOM => d.tapCheckCfg x i (d.flag TAP_CTL.EN x i) true
  | .EVQ_CTL | .EVQ_HOST_BASE_LO | .EVQ_HOST_BASE_HI =>
    if x = d.evqHome then (if d.flag EVQ_CTL.HOST x then d else d.evqWithdraw).evqPump else d
  | .SEM_CTL => if v.getLsbD 0 && x == d.homeOf i then d.semForce i else d
  | .MOV_CTL => if v.getLsbD 31 && x == i / 16 then d.moverReset x (i % 16) else d
  | .TC_SWITCH =>
    let g := bitsOf v 7 0
    if g = 0 then d else (d.tcSwitch x g).setFld TC_SWITCH_STAT.LAST_GROUP x 0 g
  | .TC_INVAL => d.tcInval x v
  | _ => d

/-- One configuration write applied on a die: the word, the seal, the unit's checks. -/
def Dev.cfgPlace (d : Dev) (x : Nat) (w : CfgWrite) : Dev :=
  match locate d.n w.off with
  | none => d
  | some l =>
    let r := l.reg
    let d := if w.mask &&& r.pMask != 0#32 then d.openSeal x else d
    let was := d.flag TAP_CTL.EN x l.i
    let home := d.home (d.fld RING_CTL.HOME_DIE x l.i)
    let m := if r = .POOL_BASE_HI && d.flag POOL_CTL.KIND x l.i then w.mask &&& 0xFFFF#32 else w.mask
    let d := if m = 0 then d else d.setReg r x l.i (merged (d.reg r x l.i) w.v m)
    match r with
    | .TAP_CTL => d.tapCheckCfg x l.i was true
    | .RING_CTL =>
      let d := d.cfgHook x r l.i w.v
      if x = home then d.monMoved x l.i (d.home (d.fld RING_CTL.HOME_DIE x l.i)) else d
    | _ => d.cfgHook x r l.i w.v

/-! Access error record (R79, R80) -/

/-- A rejected access recorded on the die where it entered, or counted while a record is held. -/
def Dev.accErr (d : Dev) (s : Src) (write : Bool) (reason off len : Nat) : Dev :=
  let x := srcDie s
  if d.flag DIE_ACC_ERR_INFO.VALID x then d.bump DIE_ACC_ERR_INFO.LOST x
  else
    let path := if s.path < 8 then 0 else if s.path < 16 then 2 else 1
    let d := (d.setReg .DIE_ACC_ERR_ADDR_LO x 0 (BitVec.ofNat 32 off)).setReg .DIE_ACC_ERR_ADDR_HI x 0 0
    let d := (d.setFld DIE_ACC_ERR_INFO.PATH x 0 path).setFld DIE_ACC_ERR_INFO.WRITE x 0 (if write then 1 else 0)
    let d := (d.setFld DIE_ACC_ERR_INFO.REASON x 0 reason).setFld DIE_ACC_ERR_INFO.PORT x 0 (if path = 1 then s.port else 0)
    let d := d.setFld DIE_ACC_ERR_INFO.LENGTH x 0 (min len 15)
    d.status DIE_ACC_ERR_INFO.VALID x 0 evAccErr x (if path = 1 then s.port else x)

/-! The lead's order (R32, R36) -/

/-- Configuration writes a die has applied, counted from the start of the list. -/
def Dev.appliedAt (d : Dev) (x : Nat) : Nat := d.applied.get 0 ⟨x, 0, 0⟩

/-- The next write of the lead's order applied on a die. See log entry 5. -/
def Dev.applyNext (d : Dev) (x : Nat) : Dev :=
  match d.cfgLog[d.appliedAt x]? with
  | none => d
  | some w => ({ d with applied := d.applied.set 0 ⟨x, 0, 0⟩ (d.appliedAt x + 1) } : Dev).cfgPlace x w

/-- Every write up to a length of the list applied on a die. See log entry 5. -/
def Dev.applyTo (d : Dev) (x n : Nat) : Dev := (List.range (n - d.appliedAt x)).foldl (fun d _ => d.applyNext x) d

/-- Dies that take configuration writes: those in service and not in a die domain reset. -/
def Dev.replicas (d : Dev) : List Nat := d.dies.filter fun x => d.inService x && !d.away.contains x

/-- Writes that every die has applied leave the list. -/
def Dev.pruneCfg (d : Dev) : Dev :=
  let k := d.replicas.foldl (fun m x => min m (d.appliedAt x)) d.cfgLog.length
  if k = 0 then d
  else { d with cfgLog := d.cfgLog.drop k,
                applied := d.dies.foldl (fun s x => Store.set 0 ⟨x, 0, 0⟩ (d.appliedAt x - k) s) d.applied }

/-- The lead takes a write in order of arrival; the dies whose bit `at_` holds apply it in this step. See log entry 5. -/
def Dev.leadTakes (d : Dev) (w : CfgWrite) (at_ : Nat) : Dev :=
  let d := { d with cfgLog := d.cfgLog ++ [w] }
  let n := d.cfgLog.length
  ((d.replicas.filter fun x => at_.testBit x).foldl (fun d x => d.applyTo x n) d).pruneCfg

/-- Is a takeover or a handoff in progress (R36, R364)? See log entry 29. -/
def Dev.leadBusy (d : Dev) : Bool := d.lead.claim.isSome || d.lead.handoff.isSome || d.lead.failed

/-- Every die applies what a path has written before a read on the path returns (R32). -/
def Dev.waitPath (d : Dev) (path : Nat) : Dev :=
  let n := (indexed d.cfgLog).foldl (fun m e => if e.2.path = path then e.1 + 1 else m) 0
  if n = 0 then d else (d.replicas.foldl (fun d x => d.applyTo x n) d).pruneCfg

/-- The masked form of a write as the lead takes it: LK bits only while every copy of the package lock is clear (R72); the TAIL of
queue 63 is that of EVQ_CTL (R259). -/
def Dev.cfgWord (d : Dev) (L : Locks) (off : Nat) (v : Word) (path : Nat) : CfgWrite :=
  let locked := (List.range 8).any fun k => L.pkg.toList.getD k false
  match locate d.n off with
  | some l =>
    if l.reg = .DIE_Q_CFG then { off := Loc.offset ⟨.EVQ_CTL, 0, 0⟩, v := v >>> 16, mask := 0xFFFF#32, path := path }
    else { off := off, v := v, mask := l.reg.writable locked &&& d.presentMask l.reg, path := path }
  | none => { off := off, v := v, path := path }

/-- A configuration write from a PCI Express port or controller: forwarded, or held while no lead takes writes (R36). See log entry 5. -/
def Dev.cfgWrite (d : Dev) (L : Locks) (off : Nat) (v : Word) (path at_ : Nat) : Dev :=
  if d.leadBusy then
    { d with heldCfg := d.heldCfg ++ [{ w := { off := off, v := v, path := path }, chk := some (path % 8, d.epoch (path % 8)) }] }
  else d.leadTakes (d.cfgWord L off v path) at_

/-- The writes held since the list had `k` entries are the courses of one access: its length, whether it has its record (R80). -/
def Dev.noteHeld (d : Dev) (k len : Nat) (recorded : Bool) : Dev :=
  if d.heldCfg.length = k then d
  else { d with heldCfg := (indexed d.heldCfg).map fun e =>
                  if k ≤ e.1 then { e.2 with len := len, course := e.1 - k, rec_ := !recorded } else e.2 }

/-- Held writes applied by the new lead in order of arrival (R36, R363). An LK field whose lock is set when the lead takes the write is
left and recorded then (R69, R72), once for an access (R80). Every die applies the writes in this step: the spec leaves the order
among the dies open. See log entries 5 and 29. -/
def Dev.releaseCfg (d : Dev) (L : Locks) : Dev :=
  let locked := (List.range 8).any fun k => L.pkg.toList.getD k false
  (d.heldCfg.foldl (fun (s : Bool × Dev) h =>
    let hit := locked && (locate s.2.n h.w.off).any fun l => l.reg.isLk
    let prior := h.course != 0 && s.1
    let d := if hit && h.rec_ && !prior then s.2.accErr { path := h.w.path } true 5 h.w.off h.len else s.2
    (hit || prior, d.leadTakes (d.cfgWord L h.w.off h.w.v h.w.path) 255)) (false, ({ d with heldCfg := [] } : Dev))).2

end Sys2Proof.Machine
end

