-- ==== Sys2Proof/Machine/Flash.lean ====
section
/-!
DEFINITION. The boot flashes of D0 and D1 (spec/17 R429 to R438): sectors, header, images, EQ store, ledger and flash window.
-/

namespace Sys2Proof.Machine

/-! Bytes of a flash -/

/-- Bytes from an address on, given the listed bytes in ascending order; an unlisted one is erased. -/
def fillBytes : Nat → Nat → Store Byte → List Byte
  | 0, _, _ => []
  | k + 1, a, [] => 0xFF#8 :: fillBytes k (a + 1) []
  | k + 1, a, e :: r => if e.1.b = a then e.2 :: fillBytes k (a + 1) r else 0xFF#8 :: fillBytes k (a + 1) (e :: r)

/-- Is a key a byte of the flash of die `x` from `a` to `a + n - 1`? -/
def inFlash (x a n : Nat) (k : Key) : Bool := k.a == x && decide (a ≤ k.b) && decide (k.b < a + n)

def Dev.flashBytes (d : Dev) (x a n : Nat) : List Byte := fillBytes n a (d.flash.filter fun e => inFlash x a n e.1)

def Dev.flashWord (d : Dev) (x a : Nat) : Nat := natLE (d.flashBytes x a 4)

/-- Bytes written over what lies there; erased bytes are not listed. -/
def Dev.flashPut (d : Dev) (x a : Nat) (bs : List Byte) : Dev :=
  let at_ : Key := ⟨x, a, 0⟩
  let keep := d.flash.filter fun e => !inFlash x a bs.length e.1
  let new : Store Byte := ((indexed bs).filter fun e => e.2 != 0xFF#8).map fun e => (⟨x, a + e.1, 0⟩, e.2)
  { d with flash := (keep.filter fun e => e.1.lt at_) ++ new ++ (keep.filter fun e => !e.1.lt at_) }

def Dev.flashErase (d : Dev) (x a n : Nat) : Dev := { d with flash := d.flash.filter fun e => !inFlash x a n e.1 }

/-- Free bytes (log entry 4). -/
def Dev.drawBytes : Nat → Dev → List Byte × Dev
  | 0, d => ([], d)
  | k + 1, d =>
    let (v, d) := d.draw
    let (r, d) := Dev.drawBytes k d
    (bytesLE v 4 ++ r, d)

/-- A die with a flash that answered at BS06 and that serves (R430). -/
def Dev.hasFlash (d : Dev) (x : Nat) : Bool := x ≤ 1 && d.flag MC_FLASH_STAT.PRESENT x

/-- An event of class 0x16; SOURCE is the die. -/
def Dev.bootEvent (d : Dev) (x : Nat) (f : Fld) : Dev := d.raise x evBoot ⟨f.reg, x, 0⟩ f.lo x

/-! Ledger records (R436) -/

/-- The seven words of a record before its CRC. -/
def LedgerRec.words (r : LedgerRec) : List Word :=
  let w := BitVec.ofNat 32
  [w (9 * 2 ^ 28 + r.kind % 16 * 2 ^ 24 + r.step % 32 * 2 ^ 19 + r.die % 8 * 2 ^ 16 + r.method % 4 * 2 ^ 14 + r.reason % 256), w r.boot, w r.time,
   w (r.detail.getD 0 0), w (r.detail.getD 1 0), w (r.detail.getD 2 0), 0]

/-- The 32 bytes of a record. -/
def LedgerRec.bytes (r : LedgerRec) : List Byte :=
  let bs := bytesOfWords r.words
  bs ++ bytesLE (crc32 bs).toNat 4

/-- A record read back; none where it is free or its CRC does not match. -/
def readRec (bs : List Byte) : Option LedgerRec :=
  let ws := wordsLE bs
  let w (k : Nat) : Nat := (ws.getD k 0).toNat
  if w 0 = 2 ^ 32 - 1 || crc32 (bs.take 28) != ws.getD 7 0 || w 0 / 2 ^ 28 != 9 then none
  else some { kind := w 0 / 2 ^ 24 % 16, step := w 0 / 2 ^ 19 % 32, die := w 0 / 2 ^ 16 % 8, method := w 0 / 2 ^ 14 % 4, reason := w 0 % 256,
              boot := w 1, time := w 2, detail := [w 3, w 4, w 5] }

def ledgerBase : Nat := 0x10000
def ledgerCount : Nat := 16384

/-- Numbers without repeats, in the order of their first place. -/
def distinct : List Nat → List Nat
  | [] => []
  | a :: r => a :: (distinct r).filter fun b => b != a

/-- Places of the ledger of a flash that are not free throughout. -/
def Dev.ledgerPlaces (d : Dev) (x : Nat) : List Nat :=
  distinct ((d.flash.filter fun e => inFlash x ledgerBase (32 * ledgerCount) e.1).map fun e => (e.1.b - ledgerBase) / 32)

/-- The valid records of a flash by place. -/
def Dev.ledgerRecs (d : Dev) (x : Nat) : List (Nat × LedgerRec) :=
  (d.ledgerPlaces x).filterMap fun i => (readRec (d.flashBytes x (ledgerBase + 32 * i) 32)).map fun r => (i, r)

/-- Place of the last valid record: the one behind which a whole sector's worth of places holds none. -/
def lastPlace (ps : List Nat) : Option Nat :=
  (ps.filter fun i => ps.all fun j => decide (128 < (j + ledgerCount - i) % ledgerCount) || i == j).getLast?

/-- The records of a flash from the oldest to the latest. -/
def Dev.ledger (d : Dev) (x : Nat) : List LedgerRec :=
  let rs := d.ledgerRecs x
  match lastPlace (rs.map (·.1)) with
  | none => []
  | some l => ((rs.filter fun e => l < e.1) ++ rs.filter fun e => e.1 ≤ l).map (·.2)

/-- The place next written: the first free one after the last valid record. -/
def Dev.ledgerNext (d : Dev) (x : Nat) : Nat :=
  let ps := d.ledgerPlaces x
  match lastPlace ((d.ledgerRecs x).map (·.1)) with
  | none => ((List.range ledgerCount).find? fun i => !ps.contains i).getD 0
  | some l => (((List.range ledgerCount).map fun k => (l + 1 + k) % ledgerCount).find? fun i => !ps.contains i).getD 0

/-- Does the flash of a die refuse writes of the ledger in this start (R438)? -/
def Dev.refuses (d : Dev) (x : Nat) : Bool := d.fen.noWrite.testBit x

/-- The flashes that the ledger is written to: those of dies in service. -/
def Dev.ledgerDies (d : Dev) : List Nat := [0, 1].filter fun x => d.hasFlash x && d.inService x

/-- A record appended to one flash: the next sector is erased before the first record of a sector (R436). A write that the flash refuses sets
WRITE_ERR (R438). -/
def Dev.ledgerAppend (d : Dev) (x : Nat) (r : LedgerRec) : Dev :=
  if d.hasFlash x then
    if d.refuses x then (d.setFld MC_FLASH_STAT.WRITE_ERR x 0 1).bootEvent x MC_FLASH_STAT.WRITE_ERR
    else
    let i := d.fld MC_FLASH_STAT.FILL x
    let d := if i % 128 = 0 then d.flashErase x (ledgerBase + 4096 * ((i / 128 + 1) % 128)) 4096 else d
    (d.flashPut x (ledgerBase + 32 * i) r.bytes).setFld MC_FLASH_STAT.FILL x 0 ((i + 1) % ledgerCount)
  else d

/-- A record kept by the fen of a die, to be written at the next BS07; its number counts from the ledger's last start (R437). -/
def Dev.keepRec (d : Dev) (x : Nat) (r : LedgerRec) : Dev :=
  { d with heldRecs := d.heldRecs.set [] ⟨x, 0, 0⟩ (d.heldRecs.get [] ⟨x, 0, 0⟩ ++ [r]) }

/-- A record written by Pertil or by the fens, with the number of the start and the time, to the flashes of the dies in service; where all of
them refuse it, it is kept until one accepts writes (BS19's alternate method, R420, R438). -/
def Dev.ledgerWrite (d : Dev) (r : LedgerRec) : Dev :=
  let (t, d) := d.draw
  let ys := d.ledgerDies
  let keep := !ys.isEmpty && ys.all d.refuses
  let d := ys.foldl (fun d x => d.ledgerAppend x { r with boot := d.fen.boot, time := t }) d
  if keep then d.keepRec (ys.headD 0) { r with boot := d.fen.ahead, time := t } else d

/-- The records of both flashes, those of D0 first. -/
def Dev.ledgers (d : Dev) : List LedgerRec := [0, 1].flatMap fun x => if d.hasFlash x && d.inService x then d.ledger x else []

/-- The latest record of a kind: that of the highest start number. -/
def Dev.latest (d : Dev) (kind : Nat) : Option LedgerRec :=
  (d.ledgers.filter fun r => r.kind == kind).foldl (fun b r =>
    match b with
    | none => some r
    | some q => if q.boot ≤ r.boot then some r else some q) none

/-! Header, images, EQ store (R431 to R435) -/

/-- The header of a flash, where its MAGIC and CRC check. See log entry 6. -/
def Dev.header (d : Dev) (x : Nat) : Option (List Word) :=
  let bs := d.flashBytes x 0 4096
  let ws := wordsLE bs
  if ws.getD 0 0 = 0x455A4648#32 ∧ crc32 (bs.take 4092) = ws.getD 1023 0 then some ws else none

def imageBase (image : Nat) : Nat := if image = 0 then 0x100000 else 0x800000

/-- SYNC_LEVEL of a valid image (R432). -/
def Dev.imageSync (d : Dev) (x image : Nat) : Option Nat :=
  let b := imageBase image
  let len := d.flashWord x b
  let sync := d.flashWord x (b + 4) % 65536
  if len % 4 = 0 ∧ len ≤ 7 * 2 ^ 20 - 20 ∧ sync ≠ 0 ∧ sync ≠ 0xFFFF then
    if (crc32 (d.flashBytes x b (16 + len))).toNat = d.flashWord x (b + 16 + len) then some sync else none
  else none

/-- The image that the latest IMAGE_MARK names, image A without one. -/
def Dev.markedImage (d : Dev) : Nat := ((d.latest 6).map fun r => r.detail.headD 0 % 2).getD 0

/-- The current half of the EQ store. -/
def Dev.eqHalf (d : Dev) : Option Nat := (d.latest 8).map fun r => r.detail.headD 0 % 2

def eqBase (half : Nat) : Nat := 0x90000 + 0x8000 * half

/-- Lane values of a half: (port, rate, lane) with the bytes of a valid entry. -/
def Dev.eqRead (d : Dev) (x half : Nat) : List (Key × List Byte) :=
  let es := d.flash.filter fun e => inFlash x (eqBase half) 12288 e.1
  (distinct (es.map fun e => (e.1.b - eqBase half) / 8)).filterMap fun n =>
    let bs := d.flashBytes x (eqBase half + 8 * n) 8
    if bs.getD 7 0xFF#8 = 0 then some (⟨n / 24, n / 8 % 3, n % 8⟩, bs) else none

/-- The values in use written to the half that is not current, in both flashes, then the EQ record (R434). -/
def Dev.eqSave (d : Dev) (x : Nat) : Dev :=
  let half := 1 - d.eqHalf.getD 1
  let d := [0, 1].foldl (fun d y =>
    if d.hasFlash y && d.inService y then
      d.eq.foldl (fun d e => d.flashPut y (eqBase half + 8 * ((e.1.a * 3 + e.1.b) * 8 + e.1.c)) e.2) (d.flashErase y (eqBase half) 0x8000)
    else d) d
  d.ledgerWrite { kind := 8, die := x, detail := [half, 0, 0] }

/-- Lane values found by an adaptation: free values in the form of R435. -/
def Dev.eqAdapt (d : Dev) (p rate lane : Nat) : Dev :=
  let (v, d) := d.draw
  let (w, d) := d.draw
  let bs := [BitVec.ofNat 8 (v % 16)] ++ (bytesLE v 4).drop 1 ++ (bytesLE w 4).take 3 ++ [0]
  { d with eq := d.eq.set [] ⟨p, rate, lane⟩ bs }

/-! The flash window (R430) -/

/-- A command of the window ends: its result, DONE, the event of a result other than OK. -/
def Dev.flashEnd (d : Dev) (x result : Nat) : Dev :=
  let d := (d.setFld MC_FLASH_RES.RESULT x 0 result).setFld MC_FLASH_RES.DONE x 0 ((d.fld MC_FLASH_RES.DONE x + 1) % 65536)
  if result = 0 then d else d.bootEvent x MC_FLASH_RES.RESULT

def Dev.flashWindow (d : Dev) (x : Nat) : Option (Nat × Nat) := d.flashRun.get none ⟨x, 0, 0⟩

def Dev.setFlashRun (d : Dev) (x : Nat) (v : Option (Nat × Nat)) : Dev :=
  ({ d with flashRun := d.flashRun.set none ⟨x, 0, 0⟩ v } : Dev).setFld MC_FLASH_RES.BUSY x 0 (if v.isSome then 1 else 0)

/-- MC_FLASH_CMD.OP written (R430). See log entry 44. -/
def Dev.flashCmd (d : Dev) (x op : Nat) : Dev :=
  let s := d.fld MC_FLASH_ADDR.SECTOR x
  let slot := imageBase ((d.latest 6).map (fun r => r.detail.headD 0 % 2) |>.getD 0) / 4096
  if op = 0 then d
  else if !d.hasFlash x then d.flashEnd x 1
  else if (d.flashWindow x).isSome then d.flashEnd x 4
  else if op ≠ 1 && decide (0x10 ≤ s) && decide (s < 0x90) then d.flashEnd x 2
  else if op ≠ 1 && (d.latest 6).isSome && decide (slot ≤ s) && decide (s < slot + 0x700) then d.flashEnd x 3
  else d.setFlashRun x (some (op, s))

/-- The 4 KiB buffer of a die. -/
def Dev.flashBuf (d : Dev) (x : Nat) : List Byte := (List.range 1024).flatMap fun k => bytesLE (d.reg .MC_FLASH_BUF x k).toNat 4

def Dev.setFlashBuf (d : Dev) (x : Nat) (bs : List Byte) : Dev :=
  (indexed (wordsLE bs)).foldl (fun d e => d.setReg .MC_FLASH_BUF x e.1 e.2) d

/-- The command in progress completes; a PROGRAM whose read-back differs leaves unknown bytes. See log entry 44. -/
def Dev.flashDone (d : Dev) (x : Nat) (ok : Bool) : Dev :=
  match d.flashWindow x with
  | none => d
  | some (op, s) =>
    let d := d.setFlashRun x none
    if op = 1 then (d.setFlashBuf x (d.flashBytes x (4096 * s) 4096)).flashEnd x 0
    else if op = 2 then (d.flashErase x (4096 * s) 4096).flashEnd x 0
    else if ok then (d.flashPut x (4096 * s) (d.flashBuf x)).flashEnd x 0
    else
      let (bs, d) := Dev.drawBytes 1024 d
      (d.flashPut x (4096 * s) bs).flashEnd x 5

/-- The flash does not finish a command in its time (R430): what the sector or the buffer then holds is unknown. See log entry 44. -/
def Dev.flashTimeout (d : Dev) (x : Nat) : Dev :=
  match d.flashWindow x with
  | none => d
  | some (op, s) =>
    let d := d.setFlashRun x none
    let (bs, d) := Dev.drawBytes 1024 d
    (if op = 1 then d.setFlashBuf x bs else d.flashPut x (4096 * s) bs).flashEnd x 6

/-! MC_LEDGER_CTL (R428, R438) -/

/-- MARK_A or MARK_B. -/
def Dev.markImage (d : Dev) (x image : Nat) : Dev :=
  let y := if d.hasFlash 0 then 0 else 1
  let sync := d.flashWord y (imageBase image + 4) % 65536
  (d.ledgerWrite { kind := 6, die := x, detail := [image, sync, 0] }).bootEvent x
    (if image = 0 then MC_LEDGER_CTL.MARK_A else MC_LEDGER_CTL.MARK_B)

/-- READMIT: left-out dies to be tried at the next package reset, an event for each. -/
def Dev.readmitDies (d : Dev) (x mask : Nat) : Dev :=
  (d.fen.leftOut.filter fun y => mask.testBit y).foldl (fun d y =>
    let d := { d with fen := { d.fen with readmit := (d.fen.readmit.filter fun z => z != y) ++ [y] } }
    d.raise x evBoot ⟨.MC_LEDGER_CTL, x, 0⟩ (8 + y) x) d

end Sys2Proof.Machine
end

