-- ==== Sys2Proof/Machine/Target.lean ====
section
/-!
DEFINITION. The bridge as Body Bus target: answers and the ends of transactions (R138 to R158), host requests of an inbound access
(R177, R179, R186, R196, R200, R201), their outcomes (R227, R231), the loss of a port (R160).
-/

namespace Sys2Proof.Machine

/-- Bytes that an ADR or LCK names. -/
def adrLen (b : AdrBody) : Nat := if b.block then 8 * (b.beatsM1 + 1) else 2 ^ b.size

/-- Space code, privilege and execute marking of an address modifier (R135). -/
def amSpace (am : Nat) : Nat := am / 64 % 4
def amSup (am : Nat) : Bool := am.testBit 5
def amExec (am : Nat) : Bool := am.testBit 4

/-- Offset of the first byte that an access's unit allows, and bytes from there to its last (R243). -/
def firstPart (parts : List (Nat × Nat)) : Nat := (parts.head?.map (·.1)).getD 0
def spanParts (parts : List (Nat × Nat)) (len : Nat) : Nat :=
  match parts.getLast? with
  | some e => e.1 + e.2 - firstPart parts
  | none => len

def InTxn.win? (t : InTxn) : Option Win := match t.target with | .window w => some w | _ => none

/-- Does a request belong to an inbound transaction that is not yet answered? -/
def Who.isIn (port txn : Nat) : Who → Bool
  | .inbound w => w.port == port && w.txn == txn && !w.post
  | _ => false

/-! Ends of a transaction (R138, R145, R146) -/

/-- A response as target, counted in BB_TXN_ERR. -/
def Dev.inSend (d : Dev) (p : Nat) (k : Pkt) : Dev :=
  let d := match k with
    | .berr .. => d.bump BB_TXN_ERR.BERR_TX p
    | .rty .. => d.bump BB_TXN_ERR.RTY_TX p
    | _ => d
  d.send p k

/-- What becomes of a held early address once the transaction ahead of it has ended: opened after an ACK, RTY FLUSHED otherwise; one
that R145 forbids is answered BERR PROTOCOL. -/
def Dev.inNext (d : Dev) (p : Nat) (ack : Bool) : Dev :=
  match (d.port p).inEarly with
  | none => d
  | some e =>
    let bad := (d.port p).inBad
    let d := d.modPort p fun o => { o with inEarly := none, inBad := false }
    if bad then
      let d := d.txnEvent BB_TXN_EVENT.PROTOCOL p
      let d := if e.shape = .ulk then d.masterRelease p else d
      d.inSend p (.berr e.adr.tag 8)
    else if ack then (d.modPort p fun o => { o with inOpen := some e }).note (.inGo p)
    else d.inSend p (.rty e.adr.tag 3 0)

/-- The final response of the open transaction. -/
def Dev.inFinal (d : Dev) (p : Nat) (t : InTxn) (k : Pkt) (ack : Bool) : Dev :=
  let d := d.modPort p fun o =>
    { o with inOpen := none, inCut := if t.adr.write && !t.gotLast then some t.adr.tag else o.inCut }
  let d := d.dropWaiting (Who.isIn p t.id)
  let d := d.note (.sample 4 p (dieOf p) t.id)
  let d := match t.win? with | some w => d.note (.sample 2 w.num (dieOf p) t.id) | none => d
  (d.inSend p k).inNext p ack

def Dev.inAck (d : Dev) (p : Nat) (t : InTxn) : Dev := d.inFinal p t (.ack t.adr.tag) true
def Dev.inBerr (d : Dev) (p : Nat) (t : InTxn) (code : Nat) : Dev := d.inFinal p t (.berr t.adr.tag code) false
/-- An RTY of the bridge as target. R350 gives HINT 0 with its RTY BUSY; for the other reasons the spec gives no HINT: the bridge sends 0, none
(DESIGN CHOICE, log entry 25). -/
def Dev.inRty (d : Dev) (p : Nat) (t : InTxn) (reason : Nat) : Dev := d.inFinal p t (.rty t.adr.tag reason 0) false

/-- The data of a read, then its ACK (R158). -/
def Dev.inData (d : Dev) (p : Nat) (t : InTxn) (bs : List Byte) : Dev :=
  ((datPackets 1 t.adr.tag false 257 0 bs).foldl (fun d k => d.send p k) d).inAck p t

/-- A protocol violation that ends the open transaction (R146). -/
def Dev.inProto (d : Dev) (p : Nat) : Dev :=
  let d := d.txnEvent BB_TXN_EVENT.PROTOCOL p
  match (d.port p).inOpen with
  | some t => d.inBerr p t 8
  | none => d

/-- The error record of a failed inbound access (R227, R231). -/
def Dev.inRecord (d : Dev) (p : Nat) (t : InTxn) (f : InFail) : Dev :=
  let far := match t.win? with | some w => swapAddr w.order t.host | none => 0
  d.errRec (dieOf p) { kind := 3, inb := true, port := p, win := (t.win?.map (·.num)).getD 0, near := t.adr.addr, far := far, code := f.code,
                       cpl := f.cpl, poison := f.poison, len := adrLen t.adr, tag := f.tag }

/-! Requests toward the host (R177, R179, R196, R200) -/

/-- The ports whose inbound transactions form one stream: both of a bond (R347), those one tile serves (R196, R353). -/
def Dev.inStream (d : Dev) (p : Nat) : List Nat := if d.bonded p then [p, d.mate p] else p :: (d.servedIn (d.chainTile p)).filter fun q => q != p

/-- Is a request of an inbound transaction, of a port in a list, that came before transaction `i`? -/
def HostReq.inBefore (r : HostReq) (ps : List Nat) (i : Nat) : Bool :=
  match r.who with | .inbound w => ps.contains w.port && decide (w.txn < i) | _ => false

/-- Does a request of an inbound transaction of the stream that came before `i` wait at a host port? -/
def Dev.inHeld (d : Dev) (p i : Nat) : Bool :=
  d.dies.any fun x => ((d.px x).heldReq ++ (d.px x).waitTag ++ (d.px x).unrouted).any fun r => r.inBefore (d.inStream p) i

/-- Is a request of an earlier inbound transaction of the stream still to be issued (R196, R347)? -/
def Dev.inBehind (d : Dev) (p i : Nat) : Bool :=
  let ps := d.inStream p
  d.inHeld p i || ps.any fun q =>
    ((d.port q).inPost.any fun r => r.inBefore ps i) ||
      (q != p && (d.port q).inOpen.any fun t => t.win?.isSome && !t.issued && decide (t.id < i))

/-- Requests of acknowledged writes go once those before them have gone (R196, R200). -/
def Dev.inPostGo (d : Dev) (p : Nat) : Dev :=
  (d.port p).inPost.foldl (fun d r =>
    if d.inBehind p (match r.who with | .inbound w => w.txn | _ => 0) then d
    else (d.modPort p fun o => { o with inPost := o.inPost.filter fun q => q.id != r.id }).hostFrom (dieOf p) r) d

/-- The requests of an access: (offset in the access, host address, length), ascending in host address; `host` is that of its first allowed
byte. -/
def inPieces (t : InTxn) (w : Win) (most : Nat) : List (Nat × Nat × Nat) :=
  match t.shape with
  | .block => t.parts.flatMap fun p => hostCuts most (p.2 / 64 + 3) p.1 (t.host + (p.1 - firstPart t.parts)) p.2
  | _ =>
    let cs := (coursesOf w.course 8 t.adr.addr (adrLen t.adr)).map fun c =>
      let o := c.1 - t.adr.addr
      (o, swapSpan w.order (t.host + o) c.2, c.2)
    if t.parts.isEmpty then [] else (sortNat (cs.map fun c => c.2.1)).filterMap fun a => cs.find? fun c => c.2.1 == a

/-- Bytes in host order of one request of a write. -/
def inSlice (t : InTxn) (w : Win) (c : Nat × Nat × Nat) : List Byte :=
  match t.shape with
  | .block => ((swapUnits (unitOf w.order) t.data.length t.data).drop c.1).take c.2.2
  | _ => (List.range c.2.2).map fun k => t.data.getD (swapAddr w.order (c.2.1 + k) - t.host) 0

/-- Data in bus order of a read whose requests have all ended. -/
def inGathered (t : InTxn) (w : Win) : List Byte :=
  let cs := inPieces t w 4096
  match t.shape with
  | .block =>
    let offs := sortNat (t.pieces.map (·.1))
    let all := offs.flatMap fun o => ((t.pieces.find? fun e => e.1 == o).map (·.2)).getD []
    swapUnits (unitOf w.order) all.length all
  | _ =>
    let m : List (Nat × Byte) := cs.flatMap fun c =>
      let bs := ((t.pieces.find? fun e => e.1 == c.1).map (·.2)).getD []
      (List.range c.2.2).map fun k => (swapAddr w.order (c.2.1 + k), bs.getD k 0)
    (List.range (adrLen t.adr)).map fun k => byteAt m (t.host + k)

def inWho (p : Nat) (t : InTxn) (w : Win) (off : Nat) (post : Bool) : InWho :=
  { port := p, txn := t.id, win := w.num, near := t.adr.addr, far := swapAddr w.order t.host, len := adrLen t.adr, off := off, post := post }

/-- Pieces of one prefetch whose ranges meet are one block. -/
def joinPf (b : PfBlock) : List PfBlock → PfBlock × List PfBlock
  | [] => (b, [])
  | c :: r =>
    if c.grp == b.grp && c.want == 0 && c.far + c.data.length == b.far then
      joinPf { c with data := c.data ++ b.data, used := c.used ++ b.used } r
    else if c.grp == b.grp && c.want == 0 && b.far + b.data.length == c.far then
      joinPf { b with data := b.data ++ c.data, used := b.used ++ c.used } r
    else let s := joinPf b r; (s.1, c :: s.2)

/-- Reads beyond a sequential block read of a prefetching window whose own reads are those of `lo` to `hi` (R184, R186). -/
def Dev.inPrefetch (d : Dev) (p : Nat) (t : InTxn) (w : Win) (lo hi : Nat) : Dev :=
  let e := pfEnd w lo (farLimit w lo)
  if hi < e then
    let (g, d) := d.fresh
    (hostCuts (d.mrrs w.hostDie) 1040 (adrLen t.adr) (hi + 1) (e - hi)).foldl (fun d c =>
      let (i, d) := d.fresh
      let d := d.modPort p fun o =>
        { o with pf := o.pf ++ [{ win := w, far := c.2.1, data := [], used := [], near := t.adr.addr + c.1, want := c.2.2, grp := g }] }
      d.hostFrom (dieOf p)
        { id := i, die := w.hostDie, kind := .read, addr := c.2.1 % 2 ^ 64, len := c.2.2, who := .inPrefetch p w.num (t.adr.addr + c.1) }) d
  else d

/-- The requests of an access that may go: reads staged whole; writes with the zero-length read behind them unless the window is POSTED
and the access not locked (R200, R201). A denied part leaves the allowed ones performed (R243); of a window in the mire state nothing goes (R204). -/
def Dev.inIssue (d : Dev) (p : Nat) (t : InTxn) (w : Win) : Dev :=
  let x := w.hostDie
  if d.mired true w.num then (if t.adr.write then d.mireDrop true w.num 1 else d).inBerr p t 9
  else if t.adr.write then
    let post := w.posted && !t.adr.locked
    let d := d.pfDrop p (fun b => b.win.inb && decide (t.host < b.far + max b.data.length b.want) && decide (b.far < t.host + spanParts t.parts (adrLen t.adr))) 2
    let cs := inPieces t w (d.mps x)
    let d := cs.foldl (fun d c =>
      let (i, d) := d.fresh
      let r : HostReq :=
        { id := i, die := x, kind := .write, addr := c.2.1 % 2 ^ 64, len := c.2.2, data := inSlice t w c, who := .inbound (inWho p t w c.1 post),
          chk := some (dieOf p, t.epoch), sw := some (dieOf p, t.sw) }
      if post && d.inBehind p t.id then d.modPort p fun o => { o with inPost := o.inPost ++ [r] } else d.hostFrom (dieOf p) r) d
    if post then if t.denied then d.inBerr p t 2 else d.inAck p t
    else
      let top := cs.foldl (fun m c => max m (c.2.1 + c.2.2)) 1
      let (i, d) := d.fresh
      let d := d.modPort p fun o => { o with inOpen := some { t with issued := true, waiting := [adrLen t.adr] } }
      d.hostFrom (dieOf p) { id := i, die := x, kind := .zeroRead, addr := (top - 1) % 2 ^ 64 / 4 * 4, len := 0, who := .inbound (inWho p t w (adrLen t.adr) false) }
  else
    let hi := t.host + spanParts t.parts (adrLen t.adr) - 1
    let blk := t.shape = .block && w.prefetch && !t.denied
    let pf := (d.port p).pf
    let seq := (d.port p).nextFar true w.num == some t.host
    let staged := if blk then pfTake pf w t.host hi else none
    let d := d.modPort p fun o =>
      ({ o with pf := staged.elim o.pf fun e => markUsed o.pf w t.host e } : Port).setNextFar true w.num (hi + 1)
    let head := staged.elim [] fun e => (pfBytes pf w t.host e).map (·.2)
    if staged = some hi then d.inData p t (swapUnits (unitOf w.order) head.length head)
    else
      let lo := t.host + head.length
      let cs := if head.isEmpty then inPieces t w (d.mrrs x) else hostCuts (d.mrrs x) 1040 head.length lo (hi + 1 - lo)
      let t := if head.isEmpty then t else { t with pieces := [(0, head)] }
      let d := d.modPort p fun o => { o with inOpen := some { t with issued := true, waiting := cs.map (·.1) } }
      let d := cs.foldl (fun d c =>
        let (i, d) := d.fresh
        d.hostFrom (dieOf p)
          { id := i, die := x, kind := .read, addr := c.2.1 % 2 ^ 64, len := c.2.2, who := .inbound (inWho p t w c.1 false),
            chk := some (dieOf p, t.epoch), sw := some (dieOf p, t.sw) }) d
      if blk && (seq || staged.isSome) then d.inPrefetch p t w lo hi else d

/-! Their outcomes -/

/-- Every request of the open access has ended: its answer (R200, R227, R243). -/
def Dev.inConclude (d : Dev) (p : Nat) (t : InTxn) (w : Win) : Dev :=
  if t.denied then d.inBerr p t 2
  else
    match t.failed with
    | some f => (d.inRecord p t f).inBerr p t f.code
    | none => if t.adr.write then d.inAck p t else d.inData p t (inGathered t w)

/-- Completion status of a failed request: Unsupported Request 1, Completer Abort 4, none for a timeout or a poisoned completion. -/
def failCpl (abort poison timeout : Bool) : Nat := if poison || timeout then 0 else if abort then 4 else 1

/-- A failed request of which no answer follows (R231): KIND REQ_TIMEOUT or REQ_ERROR. -/
def Dev.reqRecord (d : Dev) (r : HostReq) (tag port win near far len : Nat) (abort poison timeout : Bool) : Dev :=
  d.errRec r.die { kind := if timeout then 4 else 5, inb := true, port := port, win := win, near := near, far := far,
                   cpl := failCpl abort poison timeout, poison := poison, len := len, tag := tag }

/-- Does a request of a window's acknowledged writes wait? -/
def Who.isPost (win : Nat) : Who → Bool
  | .inbound v => v.post && v.win == win
  | _ => false

/-- A POSTED write fails after its ACK (R202, SRAM or HOLD): the window enters the mire state; what was not issued is discarded, an access that
waits for its host port ends BERR FAR (R204). -/
def Dev.inPostFail (d : Dev) (w : InWho) (r : HostReq) (cause : Nat) : Dev :=
  let d := d.enterMire true w.win { cause := cause, port := w.port, near := w.near + w.off, far := r.addr, len := r.len, done := w.off,
                                    entry := dieOf w.port }
  let gone := ((d.dies.flatMap fun x => (d.px x).heldReq ++ (d.px x).unrouted) ++ d.livePorts.flatMap fun p => (d.port p).inPost).filter fun q =>
    q.who.isPost w.win
  let ids := distinct (gone.filterMap fun q => match q.who with | .inbound v => if v.txn = w.txn then none else some v.txn | _ => none)
  let d := (d.dropWaiting (Who.isPost w.win)).mireDrop true w.win ids.length
  d.livePorts.foldl (fun d p =>
    let d := d.modPort p fun o => { o with inPost := o.inPost.filter fun q => !q.who.isPost w.win }
    match (d.port p).inOpen with
    | some t =>
      let waits := d.dies.any fun x => ((d.px x).heldReq ++ (d.px x).waitTag ++ (d.px x).unrouted).any fun q => q.who.isIn p t.id
      if (t.win?.map (·.num)) == some w.win && t.issued && waits then
        (if t.adr.write then d.mireDrop true w.win 1 else d).inBerr p t 9
      else d
    | none => d) d

/-- A host request of an inbound access ends. -/
def Dev.inHost (d : Dev) (w : InWho) (r : HostReq) (tag : Nat) (ok abort poison timeout : Bool) (data : List Byte) : Dev :=
  if w.post then if ok then d else d.inPostFail w r 0x0A
  else
    let mine := match (d.port w.port).inOpen with | some t => if t.id = w.txn then some t else none | none => none
    match mine with
    | none => if ok then d else d.reqRecord r tag w.port w.win w.near w.far w.len abort poison timeout
    | some t =>
      match t.win? with
      | none => d
      | some win =>
        let f : InFail := { code := if poison then 6 else 9, cpl := failCpl abort poison timeout, poison := poison, tag := tag }
        let t := { t with waiting := if t.adr.write && !ok then [] else t.waiting.filter fun o => o != w.off,
                          pieces := if ok then t.pieces ++ [(w.off, data)] else t.pieces,
                          failed := if ok || t.failed.isSome then t.failed else some f }
        let d := d.modPort w.port fun o => { o with inOpen := some t }
        if t.waiting.isEmpty then d.inConclude w.port t win else d

/-- Prefetched host data arrives (R186). -/
def Dev.inPfHost (d : Dev) (p win near : Nat) (r : HostReq) (tag : Nat) (ok abort poison timeout : Bool) (data : List Byte) : Dev :=
  let mine (b : PfBlock) : Bool := b.win.inb && b.win.num == win && b.far % 2 ^ 64 == r.addr && b.want != 0
  let t := takeFirst mine (d.port p).pf
  match t.1 with
  | none => if ok then d else d.reqRecord r tag p win near r.addr r.len abort poison timeout
  | some b =>
    if ok then
      let b := { b with data := data, want := 0 }
      if b.gone = 0 then
        let s := joinPf b t.2
        (d.modPort p fun o => { o with pf := s.2 ++ [s.1] }).pfTrim 64 p
      else (d.modPort p fun o => { o with pf := t.2 }).pfDiscard p b b.gone
    else (d.modPort p fun o => { o with pf := t.2 }).reqRecord r tag p win near r.addr r.len abort poison timeout

/-! Limits (R155, R158) and the loss of the port (R160) -/

/-- TGT_LIMIT passes for the open transaction: RTY NOT_READY for a read, BERR TIMEOUT with its record for a write. -/
def Dev.inLimit (d : Dev) (p : Nat) : Dev :=
  match (d.port p).inOpen with
  | none => d
  | some t =>
    if t.adr.write then
      let tag := ((d.dies.flatMap fun x => (d.px x).issued).find? fun i => i.req.who.isIn p t.id).map (·.tag)
      (d.inRecord p t { code := 5, cpl := 0, poison := false, tag := tag.getD 0 }).inBerr p t 5
    else d.inRty p t 5

/-- The target's bus timer expires (R155); it holds its count while the port is not ACTIVE (R124). -/
def Dev.inTimer (d : Dev) (p : Nat) : Dev :=
  if !d.active? p then d else
  match (d.port p).inOpen with
  | none => d
  | some t => (d.txnEvent BB_TXN_EVENT.TIMEOUT_IN p).inBerr p t 5

/-- The target's side of a port going down. -/
def Dev.inLost (d : Dev) (p : Nat) : Dev :=
  let o := d.port p
  let mine := o.inOpen.toList ++ o.inEarly.toList
  let d := if mine.isEmpty then d else d.txnEvent BB_TXN_EVENT.LINK_LOST p
  let d := d.dropWaiting fun q => mine.any fun t => q.isIn p t.id
  (d.modPort p fun o => { o with inOpen := none, inEarly := none, inBad := false, inCut := none }).masterRelease p

end Sys2Proof.Machine
end

