-- ==== Sys2Proof/Machine/Service.lean ====
section
/-!
DEFINITION. Bonds, evacuation, tile faults, tile and die resets, lane recalibration (spec/14 R344 to R358, R367, R368), SRAM banks
(R359, R360), queue resets (spec/10 R266 to R269), the lead and the controllers (R361 to R365), the loss of a die (R34).
-/

namespace Sys2Proof.Machine

/-! Bonds (R344 to R351) -/

/-- The STATE a tile's bond has by R344 and R350: BONDED while both tiles serve and both ports are ACTIVE, HALF otherwise. -/
def Dev.bondState (d : Dev) (p : Nat) : Nat :=
  let m := d.mate p
  if d.tileServing p && d.tileServing m && d.active? p && d.active? m then 2 else 3

/-- The anchor: the lower tile of a whole bond, the surviving tile of a half one. -/
def Dev.bondAnchor (d : Dev) (p : Nat) : Bool :=
  let m := d.mate p
  if d.bondState p = 2 then p < m
  else
    let ok (q : Nat) : Bool := d.tileServing q && d.active? q
    if ok p != ok m then ok p else p < m

/-- STATE and ANCHOR set; a change of STATE raises an event of class 0x10. -/
def Dev.setBond (d : Dev) (p st : Nat) (anchor : Bool) : Dev :=
  let was := d.fld TIL_BOND.STATE p
  let d := (d.setFld TIL_BOND.STATE p 0 st).setFld TIL_BOND.ANCHOR p 0 (if anchor then 1 else 0)
  if st = was then d else d.raise (dieOf p) evBond ⟨.TIL_BOND, p, 0⟩ 28 p

/-- Is an evacuation or return of the tile under way (a write of TIL_BOND then waits, R351)? -/
def Dev.moving (d : Dev) (p : Nat) : Bool :=
  let s := d.fld TIL_SVC_STAT.STATE p
  s == 1 || s == 4

/-- A tile's bond follows the conditions: formed, half, forming, or gone once no request of it remains. -/
def Dev.bondSync (d : Dev) (p : Nat) : Dev :=
  let m := d.mate p
  if d.moving p || (d.flag TIL_BOND.EN p && d.moving m) then d
  else if d.mutual p then
    let st := d.bondState p
    let d := d.setBond p st (d.bondAnchor p)
    d.setBond m st (d.bondAnchor m)
  else if 2 ≤ d.fld TIL_BOND.STATE p then
    if (d.port p).works.isEmpty && (d.port m).works.isEmpty && (d.port p).outOpen.isNone then d.setBond p 0 false else d
  else d

/-- A write of TIL_BOND (R345, R351): the refused states store EN = 0. -/
def Dev.bondWritten (d : Dev) (p oldMate : Nat) : Dev :=
  let m := d.mate p
  let bad := d.flag TIL_BOND.EN p && (m == p || decide (8 * d.n ≤ m) || (dieOf m == dieOf p && m != partnerTile p))
  let d := if bad then (d.setFld TIL_BOND.EN p 0 0).setFld TIL_BOND.CFG_REFUSED p 0 1 else d
  let d := if d.flag TIL_BOND.EN p && d.fld TIL_BOND.STATE p == 0 then d.setBond p 1 false
    else if !d.flag TIL_BOND.EN p && d.fld TIL_BOND.STATE p == 1 then d.setBond p 0 false else d
  ((d.bondSync p).bondSync oldMate).bondSync (d.mate p)

/-! Evacuation (R352 to R354) -/

/-- A refusal of TIL_SVC. See log entry 38. -/
def Dev.tilRefuse (d : Dev) (p code : Nat) : Dev :=
  (d.setFld TIL_SVC_STAT.LAST_REFUSAL p 0 code).raise (dieOf p) evBond ⟨.TIL_SVC_STAT, p, 0⟩ 16 p

/-- The tile that receives a tile's port and work (R352). -/
def Dev.receiver (d : Dev) (p : Nat) : Nat :=
  if d.bonded p && !(d.reg .MC_BOOT_ALT (dieOf p)).getLsbD 11 then d.mate p else partnerTile p

/-- Why a tile cannot receive, if it cannot: not SERVING, or already carrying. -/
def Dev.cannotReceive (d : Dev) (q : Nat) : Option Nat :=
  if !d.tileServing q then some 2 else if d.flag TIL_SVC_STAT.CARRYING q then some 3 else none

/-- Has a port neither an open nor an early transaction? -/
def Dev.portQuiet (d : Dev) (p : Nat) : Bool :=
  let o := d.port p
  o.outOpen.isNone && o.early.isNone && o.inOpen.isNone && o.inEarly.isNone

/-- Items of the outbound and inbound command chains of a port. -/
def Dev.chainItems (d : Dev) (p : Nat) : List (List Word) × List (List Word) :=
  let o := d.port p
  ((o.works.filter fun w => w.came && !w.begun).map fun w => chainItem w.id, (o.inOpen.toList ++ o.inEarly.toList).map fun t => chainItem t.id)

/-- Work of a port put into the command chains of another tile; those of its own are flushed behind it (R259, R269). -/
def Dev.moveChains (d : Dev) (p q : Nat) : Dev :=
  let c := d.chainItems p
  let d := (d.modQueue (dieOf p) (p % 8) fun s => s.flush 4096).modQueue (dieOf p) (8 + p % 8) fun s => s.flush 1024
  (d.note (.qpush (dieOf q) (q % 8) c.1)).note (.qpush (dieOf q) (8 + q % 8) c.2)

/-- The port and work of a tile pass to its receiver; the lists of its work are kept by port. -/
def Dev.moveTo (d : Dev) (p st : Nat) : Dev :=
  let q := d.receiver p
  let d := d.moveChains p q
  let d := (d.setFld TIL_SVC_STAT.STATE p 0 st).setFld TIL_SVC_STAT.CARRIER p 0 q
  let d := if q = partnerTile p then d.setFld TIL_SVC_STAT.CARRYING q 0 1 else d
  d.bondSync p

/-- The port and work come back: SERVING. -/
def Dev.moveBack (d : Dev) (p : Nat) : Dev :=
  let q := d.fld TIL_SVC_STAT.CARRIER p
  let d := if q = partnerTile p then d.setFld TIL_SVC_STAT.CARRYING q 0 0 else d
  ((d.setFld TIL_SVC_STAT.STATE p 0 0).setFld TIL_SVC_STAT.CARRIER p 0 0).bondSync p

/-- The open transactions of an evacuating or returning tile have ended. -/
def Dev.evacDrained (d : Dev) (p : Nat) : Dev :=
  let st := d.fld TIL_SVC_STAT.STATE p
  if !d.portQuiet p then d
  else if st = 1 then ((d.pfDrop p (fun _ => true) 5).moveTo p 2).bump TIL_SVC_STAT.EVACS p
  else if st = 4 then d.moveBack p
  else d

/-- TIL_SVC.EVACUATE. -/
def Dev.evacuate (d : Dev) (p : Nat) : Dev :=
  if !d.tileServing p then d.tilRefuse p 1
  else
    match d.cannotReceive (d.receiver p) with
    | some c => d.tilRefuse p c
    | none => d.setFld TIL_SVC_STAT.STATE p 0 1

/-- TIL_SVC.RETURN: refused while the tile is neither SERVING nor EVACUATED. -/
def Dev.tileBack (d : Dev) (p : Nat) : Dev :=
  let st := d.fld TIL_SVC_STAT.STATE p
  if st = 0 then d
  else if st = 2 then
    let d := d.setFld TIL_SVC_STAT.STATE p 0 4
    if d.portQuiet p then d.moveBack p else d
  else d.tilRefuse p 1

/-! Tile faults (R355, R356) -/

/-- The work of an interrupted transaction: kept for a second attempt where it is repeatable, ended in error otherwise. -/
def Dev.faultWork (d : Dev) (p id : Nat) : Dev :=
  match d.findWork p id with
  | none => d
  | some (lp, w) =>
    let space := w.am / 64
    let side := match w.win with | some v => v.sideEffect | none => false
    let c : Course := w.courses.headD ⟨.single, false, 0, 0, []⟩
    match w.job with
    | .atomic a _ old _ =>
      (d.modPort p fun o => { o with lockedBy := some id }).putWork lp { w with job := .atomic a .ulk old true, retries := 0, rtys := 0, waits := false }
    | job =>
      if (space == 1 || space == 2) && !side then d.putWork lp { w with retries := 0, rtys := 0, waits := false }
      else
        let d := d.dropWork lp id
        match job with
        | .read as => (as.foldl (fun d a => d.complete a.die a.id .abort false []) d).semPassed w.id w.lock
        | .mover .. => d.failWork p w c 0x13 0 false
        | _ => d.failWork p w c 4 0x0B false

/-- DAT packets of the bridge as initiator that were not yet sent go poisoned, with zero data. -/
def poisonWaiting (l : List Pkt) : List Pkt :=
  l.map fun k => match k with
    | .dat b => if b.role = 0 then .dat { b with poison := true, data := List.replicate b.data.length 0 } else k
    | k => k

/-- The TAG of an inbound read whose DAT still wait. -/
def readTag (l : List Pkt) : Option Nat := l.findSome? fun k => match k with
  | .dat b => if b.role = 1 then some b.tag else none
  | _ => none

/-- The remaining DAT of an inbound read go poisoned, then BERR DATA; a read whose first DAT still waits ends with RTY BUSY alone (R355). -/
def Dev.faultReads (d : Dev) (p : Nat) : Dev :=
  let ks := (d.port p).link.waiting
  match readTag ks with
  | none => d
  | some tag =>
    let mine (k : Pkt) : Bool := match k with | .dat b => b.role == 1 | _ => false
    let begun := !ks.any fun k => match k with | .dat b => b.role == 1 && b.offset == 0 | _ => false
    let d := d.bump (if begun then BB_TXN_ERR.BERR_TX else BB_TXN_ERR.RTY_TX) p
    let last (k : Pkt) : Pkt := if k = .ack tag then (if begun then .berr tag 6 else .rty tag 1 0) else k
    let zero (k : Pkt) : Pkt := match k with
      | .dat b => if mine k then .dat { b with poison := true, data := List.replicate b.data.length 0 } else k
      | _ => k
    d.modLink p fun l => { l with waiting := ((if begun then ks else ks.filter fun k => !mine k).map zero).map last }

/-- What the link of a port does on its own after its tile has failed: open outbound transactions run to their end without effect. -/
def Dev.faultLink (d : Dev) (p : Nat) : Dev :=
  let o := d.port p
  let ids := (o.outOpen.toList ++ o.early.toList).map (·.work)
  let d := d.modLink p fun l => { l with waiting := poisonWaiting l.waiting }
  let d := d.modPort p fun o => { o with outOpen := o.outOpen.map fun t => { t with drain := true }, early := o.early.map fun t => { t with drain := true } }
  let d := (ids.foldl (fun d i => d.faultWork p i) d).faultReads p
  match o.inOpen with
  | none => d
  | some t => if t.adr.write then d.inBerr p t 5 else d.inRty p t 1

/-- One piece of work whose item of the command chain is discarded, gone from its list (R269). -/
def Dev.chainDrop (d : Dev) (p : Nat) (w : Work) : Dev :=
  let c : Course := w.courses.headD ⟨.single, false, 0, 0, []⟩
  match w.job with
  | .read as => (as.foldl (fun d a => d.complete a.die a.id .abort false []) d).semPassed w.id w.lock
  | .write _ => d.failWork w.port w c 9 0 false
  | .mover .. => d.failWork w.port w c 0x13 0 false
  | .atomic a _ old _ =>
    let d := match w.lock with
      | some s => d.modSem s fun m => { m with waiting := m.waiting.filter fun i => i != w.id }
      | none => d
    d.finishAtomic p w a old true

/-- A free bit: whether an item's words lie in the retired bank, whether an item fails its check. See log entry 4. -/
def Dev.drawBit (d : Dev) : Bool × Dev :=
  let (v, d) := d.draw
  (v % 2 == 1, d)

/-- The items of a failed tile's command chain are checked as they pass to its receiver; those that fail end as R269 gives (R355). Items of a
bond stand in the chain of its other tile too (R348). See log entry 38. -/
def Dev.itemsChecked (d : Dev) (p : Nat) : Dev :=
  if d.bonded p then d
  else ((d.port p).works.filter fun w => w.came && !w.begun).foldl (fun d w =>
    let (bad, d) := d.drawBit
    if bad then (d.dropWork p w.id).chainDrop p w else d) d

/-- A logic fault in a tile. -/
def Dev.tileFault (d : Dev) (p : Nat) : Dev :=
  let st := d.fld TIL_SVC_STAT.STATE p
  let q := d.receiver p
  let can := (d.cannotReceive q).isNone
  let carries := d.flag TIL_SVC_STAT.CARRYING p
  let d := (d.bump TIL_SVC_STAT.FAULTS p).setFld TIL_SVC_STAT.STATE p 0 5
  let d := d.raise (dieOf p) evBond ⟨.TIL_SVC_STAT, p, 0⟩ 8 p
  if st = 2 || st = 3 || st = 4 || st = 5 then d
  else if carries then
    -- a second fault: both ports are lost
    let o := partnerTile p
    ((((d.setFld TIL_SVC_STAT.CARRYING p 0 0).inLost p).inLost o).outLost p).outLost o
  else if can then ((d.faultLink p).itemsChecked p).moveTo p 5
  else ((d.inLost p).outLost p).bondSync p

/-! Domain resets (R357, R358) -/

/-- A register at its reset value but for its P fields. -/
def Dev.resetLoc (d : Dev) (l : Loc) : Dev := d.put l (merged l.resetWord (d.raw l) l.reg.pMask)

/-- Listed registers of a keeper at reset but for their P fields. See log entry 39. -/
def Dev.resetRegs (d : Dev) (rs : List RegId) (u : Nat) : Dev :=
  let ks := d.regs.filter fun e => e.1.b == u
  rs.foldl (fun d r => (ks.filter fun e => e.1.a == r.ctorIdx).foldl (fun d e => d.resetLoc ⟨r, u, e.1.c⟩) d) d

/-- The P fields of the tile block from the lead's copy (R74). -/
def Dev.reloadTile (d : Dev) (p : Nat) : Dev :=
  d.leadCopy.foldl (fun d e =>
    match e.2, tileRegs.find? fun r => r.ctorIdx == e.1.a with
    | some w, some r =>
      if r.isP && e.1.b == p then { (d.putP ⟨r, p, e.1.c⟩ w) with leadCopy := d.leadCopy.set none e.1 none } else d
    | _, _ => d) d

/-- The registers of a tile's domain. See log entry 39. -/
def tileDomain : List RegId := [.TIL_ARB, .BB_TXN_CTRL, .BB_TXN_EVENT, .BB_TXN_ERR, .BB_RETRY_CTL, .BB_RETRY_TAB_LO, .BB_RETRY_TAB_HI]

/-- A register block after a reset of its domain takes path 16 as the one served last (R67). -/
def Dev.freshBlock (d : Dev) (b : Nat) : Dev := { d with lastPath := d.lastPath.set 16 ⟨b, 0, 0⟩ 16 }

/-- A tile's domain reset: registers, counts of TIL_SVC_STAT, chains, staged data; banks of its staging are tested anew. -/
def Dev.tileClear (d : Dev) (p : Nat) : Dev :=
  let x := dieOf p
  let d := (d.resetRegs tileDomain p).freshBlock (16 + p)
  let d := ((d.setFld TIL_SVC_STAT.LAST_REFUSAL p 0 0).setFld TIL_SVC_STAT.FAULTS p 0 0).setFld TIL_SVC_STAT.EVACS p 0 0
  let d := (d.setFld TIL_BOND.CFG_REFUSED p 0 0).pfDrop p (fun _ => true) 5
  let d := (d.setReg .DIE_Q_STAT x (p % 8) 0).setReg .DIE_Q_STAT x (8 + p % 8) 0
  let d := (d.modQueue x (p % 8) fun _ => {}).modQueue x (8 + p % 8) fun _ => {}
  d.reloadTile p

/-- Does TIL_SVC.RESET act (R357)? -/
def Dev.tileMayReset (d : Dev) (p : Nat) : Bool :=
  let s := d.fld TIL_SVC_STAT.STATE p
  s == 2 || s == 5

/-- TIL_SVC.RESET: RESETTING; the lock of the tile is cleared with it (R71). -/
def Dev.tileReset (d : Dev) (p : Nat) : Dev :=
  if d.tileMayReset p then ((d.tileClear p).setFld TIL_SVC_STAT.STATE p 0 3).note (.unlock p) else d

/-- The retired banks as DIE_SRAM_STAT counts them. -/
def Dev.setBanks (d : Dev) (x mask : Nat) : Dev :=
  ({ d with banks := d.banks.set 0 ⟨x, 0, 0⟩ mask } : Dev).setFld DIE_SRAM_STAT.RETIRED x 0
    ((List.range 96).filter fun k => mask.testBit k).length

def Dev.bankMask (d : Dev) (x : Nat) : Nat := d.banks.get 0 ⟨x, 0, 0⟩

/-- The test of a tile's staging ends: EVACUATED, its banks in use again, or FAILED. -/
def Dev.tileTested (d : Dev) (p : Nat) (ok : Bool) : Dev :=
  if d.fld TIL_SVC_STAT.STATE p = 3 then
    let x := dieOf p
    let d := if ok then d.setBanks x (((List.range 6).map fun k => 6 * (p % 8) + k).foldl (fun m k => if m.testBit k then m - 2 ^ k else m) (d.bankMask x)) else d
    (d.setFld TIL_SVC_STAT.STATE p 0 (if ok then 2 else 5)).bondSync p
  else d

/-- A refusal of DIE_SVC. See log entry 38. -/
def Dev.dieRefuse (d : Dev) (x code : Nat) : Dev :=
  (d.setFld DIE_SVC_STAT.LAST_REFUSAL x 0 code).raise x evBond ⟨.DIE_SVC_STAT, x, 0⟩ 16 x

def tilesOf (x : Nat) : List Nat := List.range' (8 * x) 8

/-- DIE_SVC.RESET (R358): DRAINING; homes pass to the mirror; tiles bonded across dies evacuate to their mates. -/
def Dev.dieReset (d : Dev) (x : Nat) : Dev :=
  if x = d.lead.lead then d.dieRefuse x 1
  else if d.dies.any fun y => y != x && d.fld DIE_SVC_STAT.STATE y != 0 then d.dieRefuse x 2
  else if (tilesOf x).any fun p => (let s := d.fld TIL_SVC_STAT.STATE p; s == 2 || s == 5) then d.dieRefuse x 3
  else if d.fld DIE_SVC_STAT.STATE x ≠ 0 then d
  else
    let d := { (d.setFld DIE_SVC_STAT.STATE x 0 1) with away := d.away ++ [x] }
    ((tilesOf x).filter fun p => d.bonded p && dieOf (d.mate p) != x).foldl (fun d p => d.evacuate p) d

/-- Does the end of draining reset the die now? -/
def Dev.dieMayReset (d : Dev) (x : Nat) : Bool :=
  d.fld DIE_SVC_STAT.STATE x == 1 && (tilesOf x).all fun p => (d.port p).outOpen.isNone && (d.port p).inOpen.isNone

/-- The registers of a die's core domain beside its tiles'. See log entry 39. -/
def dieDomain : List RegId :=
  [.DIE_PROT_STAT, .DIE_ACC_ERR_ADDR_LO, .DIE_ACC_ERR_ADDR_HI, .DIE_ACC_ERR_INFO, .DIE_SVC, .DIE_SRAM_STAT, .DIE_Q_STAT, .TC_SWITCH_STAT,
   .TC_INVAL_PAGE, .TC_PFD_STAT]

/-- A controller's role shown in MC_ROLE; the deputy is the lowest-numbered STANDBY other than the lead that the lead sees healthy
(R361, R365). See log entry 40. -/
def Dev.roleSync (d : Dev) : Dev :=
  let h := d.fld MC_ROLE.HEALTHY d.lead.lead
  let dep := d.dies.find? fun x => x != d.lead.lead && d.inService x && d.fld MC_ROLE.ROLE x == 1 && (d.lead.failed || h.testBit x)
  d.dies.foldl (fun d x => (d.setFld MC_ROLE.DEPUTY x 0 (if dep = some x then 1 else 0)).setFld MC_ROLE.LEAD x 0 d.lead.lead) d

def Dev.deputy (d : Dev) : Option Nat := d.dies.find? fun x => d.flag MC_ROLE.DEPUTY x

/-- A controller starts to load an image (R365). -/
def Dev.mcLoading (d : Dev) (x image : Nat) : Dev :=
  ({ (d.setFld MC_ROLE.ROLE x 0 0) with mcLoad := d.mcLoad.set none ⟨x, 0, 0⟩ (some (image, false)) } : Dev).roleSync

/-- A record of BS01 or BS03 in a die domain reset (R419). -/
def Dev.dieRecord (d : Dev) (x step : Nat) : Dev := d.ledgerWrite { kind := 9, step := step, die := x }

/-- The measurement of FIO that a die domain reset began ends, with its record (R389, R419). -/
def Dev.fioCalDone (d : Dev) (x khz : Nat) : Dev := if (d.clk x).calRun then (d.fioCal x khz).dieRecord x 1 else d

/-- A bank newly retired: BANK record with the die's retired banks (R438). -/
def Dev.bankRecord (d : Dev) (x : Nat) : Dev :=
  let m := d.bankMask x
  d.ledgerWrite { kind := 7, die := x, detail := [m % 2 ^ 32, m / 2 ^ 32 % 2 ^ 32, m / 2 ^ 64 % 2 ^ 32] }

/-- The core domain of a die reset, tested, reloaded and returned to service; `bad` are the banks that fail the test. See log entry 39. -/
def Dev.dieDrained (d : Dev) (x bad : Nat) : Dev :=
  if d.dieMayReset x then
    let d := ((d.resetRegs dieDomain x).freshBlock (1 + x)).setBanks x (bad % 2 ^ 96)
    let d := (tilesOf x).foldl (fun d p => d.tileClear p) d
    let d := d.modTc x fun t => { t with lines := [], reads := t.reads.map fun r => { r with keep := false } }
    let d := ((List.range 64).foldl (fun d q => d.modQueue x q fun _ => {}) d).monReset x
    let d := { (d.reloadP x) with away := d.away.filter fun y => y != x }
    let d := d.applyTo x d.cfgLog.length
    let d := (d.setFld DIE_SVC_STAT.STATE x 0 0).bump DIE_SVC_STAT.RESETS x
    let d := (tilesOf x).foldl (fun d p =>
      let s := d.fld TIL_SVC_STAT.STATE p
      if s = 0 then d.bondSync p else d.moveBack p) d
    let d := (d.modClk x fun c => { c with calRun := true, refs := setBit c.refs 2 (d.wantedRef x 4 == 1) }).dieRecord x 3
    let d := if bad % 2 ^ 96 = 0 then d else d.bankRecord x
    d.mcLoading x (d.fld MC_ROLE.IMAGE x)
  else d

/-! Lane recalibration (R367, R368) -/

/-- TIL_SVC.RECAL. -/
def Dev.recal (d : Dev) (p : Nat) : Dev :=
  if !d.active? p || d.flag TIL_SVC_STAT.RECAL_BUSY p then d.tilRefuse p 4
  else
    let d := d.setFld TIL_SVC_STAT.RECAL_BUSY p 0 1
    if d.fld BB_LINK_STAT.WIDTH p = 8 then (d.modLink p fun l => { l with recal := .narrowHigh }).retrainEnter p 4 false
    else d.modLink p fun l => { l with recal := .outside }

/-- The port is ACTIVE again in the course of a recalibration; it ends after the current step while its tile is evacuated. -/
def Dev.recalUp (d : Dev) (p : Nat) : Dev :=
  let go (d : Dev) (r : RecalPhase) : Dev := d.modLink p fun l => { l with recal := r }
  match (d.port p).link.recal with
  | .narrowHigh => go d .doHigh
  | .mid => if d.tileServing p then (go d .narrowLow).retrainEnter p 4 false else d.recalStop p
  | .narrowLow => go d .doLow
  | .widen => (d.recalStop p).eqSave (dieOf p)
  | _ => d

/-- Lanes recalibrated: new values for those that pass, the others excluded. -/
def Dev.recalLanes (d : Dev) (p mask bad : Nat) : Dev :=
  (List.range 8).foldl (fun d k =>
    if mask.testBit k then
      if bad.testBit k then d.setFld BB_LANE_STAT.BAD p 0 (d.fld BB_LANE_STAT.BAD p ||| 2 ^ k)
      else d.eqAdapt p (d.port p).link.rate k
    else d) d

/-- The recalibration of one half ends: the port retrains to full width, restarting a retrain that runs. -/
def Dev.recalDone (d : Dev) (p bad : Nat) : Dev :=
  let go (d : Dev) (r : RecalPhase) : Dev := d.modLink p fun l => { l with recal := r }
  if !d.active? p && d.lstate p != lsRetrain then d
  else
    match (d.port p).link.recal with
    | .doHigh => (go (d.recalLanes p 0x0F bad) .mid).retrainEnter p 8 false
    | .doLow => (go (d.recalLanes p 0xF0 bad) .widen).retrainEnter p 8 false
    | .outside =>
      let l := (d.port p).link
      let out := 255 - if d.active? p then d.fld BB_LANE_STAT.ACTIVE p else groupMask l.prevWidth l.prevGroup
      let d := d.setFld BB_LANE_STAT.BAD p 0 0
      (go (d.recalLanes p out bad) .widen).retrainEnter p 8 false
    | _ => d

/-! Queues that lose their items (R266 to R269) -/

/-- Capacity of a queue in words. -/
def queueCap (q : Nat) : Nat := (queueRow q).capacity

/-- The LOST counter of a store-held queue. See log entry 32. -/
def Dev.countLost (d : Dev) (x q k : Nat) : Dev :=
  if q = 60 then d.bumpBy ERR_STAT.LOST 0 x k
  else if q = 61 then d.bumpBy TC_PFD_STAT.LOST x 0 k
  else if q = 62 || q = 63 then d.bumpBy EVQ_STAT.LOST 0 0 k
  else d

/-- A flush by software (R266); a write for any other queue has no effect. See log entry 32. -/
def Dev.queueFlush (d : Dev) (x q : Nat) : Dev :=
  if !(queueRow q).flushable then d
  else if q = 63 then
    if x = d.evqHome then { (d.countLost x q d.evq.count).evqWithdraw with evq := d.evq.flush 4096 } else d
  else (d.countLost x q (d.queue x q).count).modQueue x q fun s => s.flush (queueCap q)

/-- Waiting work of a port ends as R269 gives for its command chain. See log entry 32. -/
def Dev.chainLost (d : Dev) (p : Nat) : Dev :=
  let open_ (w : Work) : Bool := !w.came || d.opens w.id
  let ws := (d.port p).works.filter fun w => !open_ w
  let d := d.modPort p fun o => { o with works := o.works.filter open_ }
  ws.foldl (fun d w => d.chainDrop p w) d

/-- The work whose item overflowed the command chain of a tile (R264): counted, its event raised, its owner told. -/
def Dev.chainOver (d : Dev) (x q id : Nat) : Dev :=
  let d := d.engineOver x q ((Config.chainWords id).toNat + 1)
  (d.servedBy (8 * x + q)).foldl (fun d p =>
    match d.findWork p id with
    | some (lp, w) => (d.dropWork lp id).chainDrop lp w
    | none => d) d

/-- Items that overflowed a queue of records or events: each counts, raises its event and is lost for its owner (R264, R269). -/
def Dev.tellOver (d : Dev) (x q : Nat) : Dev :=
  let n := (if q = 63 ∧ x = d.evqHome then d.evq else d.queue x q).spilt
  if n = 0 then d
  else (List.range n).foldl (fun d _ => (d.queueOver x q).countLost x q 1) (d.modSeen x q fun s => { s with spilt := 0 })

/-- Staged completions of a ring are written as STATUS LOST with their INDEX (R320). -/
def Dev.cplsLost (d : Dev) (r : Nat) : Dev :=
  let at_ := if (d.ring r).cplOut then 1 else 0
  if (d.ring r).cplq.length ≤ at_ then d
  else
    (d.modRing r fun g => { g with cplq := g.cplq.take at_ ++ (g.cplq.drop at_).map lostCpl }).ringEvent RING_STAT.CPL_LOST r

/-- Body Bus transactions of a port, open or waiting, are answered BERR DATA as its inbound chain is discarded (R269). -/
def Dev.chainInLost (d : Dev) (p : Nat) : Dev :=
  let early := (d.port p).inEarly
  let d := d.modPort p fun o => { o with inEarly := none, inBad := false }
  let d := match (d.port p).inOpen with
    | some t => d.inBerr p t 6
    | none => d
  match early with
  | some e => (if e.shape = .ulk then d.masterRelease p else d).inSend p (.berr e.adr.tag 6)
  | none => d

/-- A pointer mismatch resets a queue (R268, R269). See log entry 32. -/
def Dev.queueMismatch (d : Dev) (x q : Nat) : Dev :=
  let d := (d.bump DIE_Q_STAT.MISMATCH x q).raise x evQueue ⟨.DIE_Q_STAT, x, q⟩ DIE_Q_STAT.MISMATCH.lo q
  let d := if q = 63 then if x = d.evqHome then d.countLost x q d.evq.count else d else d.countLost x q (d.queue x q).count
  let d := if q = 63 then (if x = d.evqHome then { d.evqWithdraw with evq := d.evq.mismatch 4096 } else d)
    else if 48 ≤ q && q < 60 then
      let r := d.mortarFlush x q fun s => s.mismatch (queueCap q)
      r.2.mortarAgain r.1
    else d.modQueue x q fun s => s.mismatch (queueCap q)
  if q < 8 then (d.servedBy (8 * x + q)).foldl Dev.chainLost d
  else if q < 16 then (d.servedIn (8 * x + q - 8)).foldl Dev.chainInLost d
  else if q < 32 then (d.moverRings x (q - 16)).foldl (fun d r => d.unfetch r) d
  else if q < 48 then (d.moverRings x (q - 32)).foldl (fun d r => d.cplsLost r) d
  else d

/-! SRAM banks (R359, R360) -/

/-- Requests of acknowledged writes that wait in a tile's staging. -/
def Dev.inStagedPosts (d : Dev) (p : Nat) : List HostReq :=
  ((d.dies.flatMap fun x => (d.px x).heldReq ++ (d.px x).unrouted) ++ (d.port p).inPost).filter fun r =>
    match r.who with | .inbound w => w.port == p && w.post | _ => false

/-- One of them gone. -/
def Dev.dropPost (d : Dev) (r : HostReq) : Dev :=
  let d := d.eachOf d.dies fun (d : Dev) (x : Nat) => d.modPx x fun (q : Pcie) =>
    { q with heldReq := q.heldReq.filter fun e => e.id != r.id, unrouted := q.unrouted.filter fun e => e.id != r.id }
  d.eachOf d.livePorts fun (d : Dev) (p : Nat) => d.modPort p fun (o : Port) => { o with inPost := o.inPost.filter fun e => e.id != r.id }

/-- Staged data of a tile that lay in a retired bank (R360). An AtomicOp whose read value is lost writes nothing more and completes poisoned;
a prefetched block goes as one that lost its room (R185). See log entry 37. -/
def Dev.stagingLost (d : Dev) (p : Nat) : Dev :=
  let d := (d.port p).works.foldl (fun d w =>
    let staged := match w.job with
      | .read _ => !w.got.isEmpty || (w.came && !w.begun)
      | .write _ => w.came
      | .mover .. => !w.got.isEmpty || w.courses.any fun c => !c.data.isEmpty
      | .atomic _ ph _ failed => (ph == .write || ph == .ulk) && !failed
    if !staged then d
    else
      let (hit, d) := d.drawBit
      if !hit then d
      else
        let c : Course := w.courses.headD ⟨.single, false, 0, 0, []⟩
        match w.job with
        | .atomic a ph old f => d.putWork p { w with bad := true, job := .atomic a (if ph = .write ∧ !d.opens w.id then .ulk else ph) old f }
        | job =>
          let d := d.modPort p fun o => { o with outOpen := o.outOpen.map fun t => if t.work = w.id then { t with drain := true } else t }
          let d := d.dropWork p w.id
          match job with
          | .read as => (as.foldl (fun d a => d.complete a.die a.id .success true (readData a w.got)) d).semPassed w.id w.lock
          | _ => d.failWork w.port w c 9 0 false) d
  let d := (d.port p).runs.foldl (fun d r =>
    let (hit, d) := d.drawBit
    if hit then
      let w := runWork 0 r
      (d.modPort p fun o => { o with runs := o.runs.filter fun q => q != r }).failWork r.win.routePort w
        (w.courses.headD ⟨.single, false, 0, 0, []⟩) 9 0 false
    else d) d
  let d := (d.port p).pf.foldl (fun d b =>
    if b.want != 0 then d
    else
      let (hit, d) := d.drawBit
      if hit then d.pfDrop p (fun c => c == b) 3 else d) d
  let d := (d.inStagedPosts p).foldl (fun d r =>
    let (hit, d) := d.drawBit
    match r.who with
    | .inbound w => if hit && (d.inStagedPosts p).contains r then (d.dropPost r).inPostFail w r 9 else d
    | _ => d) d
  let (hit, d) := d.drawBit
  match (d.port p).inOpen with
  | some t =>
    if hit && (!t.data.isEmpty || !t.pieces.isEmpty) then (d.inRecord p t { code := 6, cpl := 0, poison := false, tag := 0 }).inBerr p t 6 else d
  | none => d

/-- An uncorrectable error retires a bank. -/
def Dev.sramFail (d : Dev) (x bank : Nat) : Dev :=
  if (d.bankMask x).testBit bank then d
  else
    let d := (d.setBanks x (d.bankMask x + 2 ^ bank)).setFld DIE_SRAM_STAT.LAST_BANK x 0 bank
    let d := (d.raise x evBond ⟨.DIE_SRAM_STAT, x, 0⟩ 24 bank).bankRecord x
    let d := d.aer (if d.flag PX_LINK_STAT.UP x then x else d.lead.lead) .internal
    if bank < 48 then (d.stagingLost (8 * x + bank / 6)).pfTrim 64 (8 * x + bank / 6)
    else if bank < 72 then d.modTc x fun t => { t with lines := [] }
    else if bank < 88 then
      ((List.range' 16 44) ++ [62]).foldl (fun d q =>
        if (d.queue x q).words = 0 then d
        else
          let (hit, d) := d.drawBit
          if hit then d.queueMismatch x q else d) d
    else
      let d := [60, 61].foldl (fun d q =>
        let (hit, d) := d.drawBit
        if hit then (d.countLost x q (d.queue x q).count).modQueue x q fun s => s.flush (queueCap q) else d) d
      let d :=
        if x = d.evqHome then
          let (hit, d) := d.drawBit
          if hit then { (d.countLost x 63 d.evq.count).evqWithdraw with evq := d.evq.flush 4096 } else d
        else d
      (List.range 64).foldl (fun d s =>
        let (hit, d) := d.drawBit
        if hit then d.monClear x s else d) d

/-- A corrected error counts and shows under AER. -/
def Dev.sramFixed (d : Dev) (x : Nat) : Dev := (d.bump DIE_SRAM_STAT.CORRECTED x).aer x .correctedInternal

/-! The lead and the controllers (R361 to R365) -/

/-- Streams of the controllers' packets (log entry 14): heartbeats and claims. -/
def hbStream : Nat := 0
def claimStream : Nat := 1

/-- A controller's heartbeat to every other die. See log entry 40. -/
def Dev.heartbeat (d : Dev) (x : Nat) : Dev :=
  (d.dies.filter fun y => y != x && d.inService y).foldl (fun d y => d.mortarSend x y hbStream 0 [0x10000000#32]) d

/-- A die becomes lead: role, DVSEC, event of class 0x15, held writes in order of arrival. -/
def Dev.newLead (d : Dev) (L : Locks) (x : Nat) : Dev :=
  let old := d.lead.lead
  let d := ({ d with lead := { lead := x } } : Dev).nameMirrors
  let d := (d.setFld MC_ROLE.ROLE x 0 3).raise x evLead ⟨.MC_ROLE, x, 0⟩ 30 x
  let d := if old != x && d.fld MC_ROLE.ROLE old == 3 then d.setFld MC_ROLE.ROLE old 0 1 else d
  (d.roleSync.releaseCfg L).evqPump

/-- Takeover (R363): every replica at the highest sequence found, then the new lead. -/
def Dev.takeover (d : Dev) (L : Locks) (x : Nat) : Dev :=
  let old := d.lead.lead
  let top := d.replicas.foldl (fun m y => max m (d.appliedAt y)) 0
  let d := (d.replicas.foldl (fun d y => d.applyTo y top) d)
  -- writes of the old lead that no die had applied are applied again by the new one
  let rest := d.cfgLog.drop top
  let d := ({ d with cfgLog := d.cfgLog.take top, heldCfg := (rest.map fun w => { w := w, rec_ := false }) ++ d.heldCfg } : Dev).pruneCfg
  let d := (d.mcLoading old (d.fld MC_ROLE.IMAGE old)).newLead L x
  d.bump MC_HB.TAKEOVERS x

/-- Has every healthy die acknowledged the claim (R363)? -/
def Dev.claimDone (d : Dev) (x : Nat) (acks : List Nat) : Bool :=
  d.dies.all fun y => !d.inService y || !(d.fld MC_ROLE.HEALTHY x).testBit y || acks.contains y

/-- The deputy claims the lead. See log entry 40. -/
def Dev.claimLead (d : Dev) (L : Locks) (x : Nat) : Dev :=
  let d := { d with lead := { d.lead with claim := some (x, [x]) } }
  let d := (d.dies.filter fun y => y != x && d.inService y).foldl (fun d y => d.mortarSend x y claimStream 1 [0x10000000#32]) d
  if d.claimDone x [x] then d.takeover L x else d

/-- A claim received by a die (R363, R365): acknowledged, the lower-numbered of two standing. -/
def Dev.claimReceived (d : Dev) (L : Locks) (x claimant : Nat) : Dev :=
  match d.lead.claim with
  | none => d
  | some (c, acks) =>
    if c < claimant || (claimant != c && d.fld MC_ROLE.ROLE claimant != 1) then d
    else
      let acks := (if claimant = c then acks else [claimant]).filter (fun y => y != x) ++ [x]
      let d := { d with lead := { d.lead with claim := some (claimant, acks) } }
      let d := d.mortarSend x claimant claimStream 2 [0x10000000#32]
      if d.claimDone claimant acks then d.takeover L claimant else d

/-- A handoff ends: the target becomes lead; an OBSERVER's level becomes the level of the standbys (R364). See log entry 29. -/
def Dev.handoffDone (d : Dev) (L : Locks) (e : Nat) : Dev :=
  let old := d.lead.lead
  let obs := d.fld MC_ROLE.ROLE e == 2
  let lvl := d.fld MC_ROLE.SYNC_LEVEL e
  let d := (d.newLead L e).bump MC_HB.HANDOFFS e
  let d := if obs then
      d.dies.foldl (fun d y =>
        if y = e || d.fld MC_ROLE.ROLE y = 0 then d
        else d.setFld MC_ROLE.ROLE y 0 (if d.fld MC_ROLE.SYNC_LEVEL y = lvl then 1 else 2)) d
    else d
  let d := if old != e && d.fld MC_ROLE.ROLE old == 3 then d.setFld MC_ROLE.ROLE old 0 1 else d
  d.roleSync

/-- A handoff completes once the lead has no write in hand. See log entry 29. -/
def Dev.handoffTry (d : Dev) (L : Locks) : Dev :=
  match d.lead.handoff with
  | some e => if d.cfgLog.isEmpty && (d.fld MC_ROLE.HEALTHY d.lead.lead).testBit e then d.handoffDone L e else d
  | none => d

/-- DIE_SVC.LEAD_HANDOFF (R364). -/
def Dev.handoff (d : Dev) (L : Locks) (e : Nat) : Dev :=
  let r := d.fld MC_ROLE.ROLE e
  if (r = 1 || r = 2) && (d.fld MC_ROLE.HEALTHY d.lead.lead).testBit e && !d.leadBusy then
    ({ d with lead := { d.lead with handoff := some e } } : Dev).handoffTry L
  else d.dieRefuse e 5

/-- The target does not confirm within 100 µs: the old lead resumes. -/
def Dev.handoffLate (d : Dev) (L : Locks) : Dev :=
  match d.lead.handoff with
  | none => d
  | some e => (({ d with lead := { d.lead with handoff := none } } : Dev).dieRefuse e 5).releaseCfg L

/-- DIE_SVC.MC_RESTART (R365). -/
def Dev.mcRestart (d : Dev) (x image : Nat) : Dev :=
  if x = d.lead.lead then d.dieRefuse x 6 else d.mcLoading x (if image = 1 then 1 else 0)

/-- A restarting controller has its image and rejoins; one that cannot load it raises its event and tries the other image once, then stays
RESTARTING (R365, R438). See log entry 40. -/
def Dev.mcRejoin (d : Dev) (x : Nat) (loaded : Option Nat) : Dev :=
  match d.mcLoad.get none ⟨x, 0, 0⟩ with
  | none => d
  | some (image, second) =>
    let put (d : Dev) (v : Option (Nat × Bool)) : Dev := { d with mcLoad := d.mcLoad.set none ⟨x, 0, 0⟩ v }
    match loaded with
    | none =>
      let d := put d (if second then none else some (1 - image, true))
      if second then d else d.bootEvent x MC_ROLE.ROLE
    | some im =>
      let y := if d.hasFlash 0 then 0 else 1
      let sync := d.flashWord y (imageBase im + 4) % 65536
      let d := put d none
      let d := (d.setFld MC_ROLE.IMAGE x 0 (im % 2)).setFld MC_ROLE.SYNC_LEVEL x 0 sync
      (d.setFld MC_ROLE.ROLE x 0 (if sync = d.fld MC_ROLE.SYNC_LEVEL d.lead.lead then 1 else 2)).roleSync

/-- What a die sees of another's health has changed; the lead names the deputy by what it sees (R361, R365). -/
def Dev.setHealth (d : Dev) (x mask : Nat) : Dev :=
  let d := d.setFld MC_ROLE.HEALTHY x 0 mask
  if x = d.lead.lead then d.roleSync else d

/-- A heartbeat arrives: the sender is healthy; a lead whose place was claimed restarts (R365); one that was taken as failed and of
which no claim was made goes on. See log entry 40. -/
def Dev.heartbeatIn (d : Dev) (L : Locks) (x from_ : Nat) : Dev :=
  let d := d.setHealth x (d.fld MC_ROLE.HEALTHY x ||| 2 ^ from_)
  if from_ != d.lead.lead then d
  else if d.lead.claim.isSome then
    if d.fld MC_ROLE.ROLE from_ == 3 then d.mcLoading from_ (d.fld MC_ROLE.IMAGE from_) else d
  else if d.lead.failed then ({ d with lead := { d.lead with failed := false } } : Dev).releaseCfg L
  else d

/-- Has a die no active mortar link? -/
def Dev.cutOff (d : Dev) (x : Nat) : Bool := (List.range 4).all fun k => (linkPeer d.variant x k).isNone || !d.morUp x k

/-- The running state of the items that a die held is gone with it, where no mirror held it too (R35). See log entry 48. -/
def Dev.runningLost (d : Dev) (own : Nat → Bool) : Dev :=
  { d with sems := d.sems.filter fun e => !own (e.1.a % d.n), pools := d.pools.filter fun e => !own (e.1.a % d.n),
           taps := d.taps.filter fun e => !own (e.1.a % d.n), rings := d.rings.filter fun e => !own (bitsOf e.2.ctl 29 27) }

/-- A die is lost (R34): its mirror is home of every item it held, its own and those it held for a die lost before; descriptors and pool
commands in flight there end HOME_LOST (R321, R289), pictures of its tap sets end CUT (R338), its ports are gone. The lead then names new
mirrors; while there is none, the next lead does. -/
def Dev.dieLost (d : Dev) (x : Nat) : Dev :=
  if d.lost.contains x then d
  else
    let held := d.dies.filter fun h => d.holder h == x
    let own (h : Nat) : Bool := held.contains h
    let d := { d with lost := d.lost ++ [x] }
    let d := (tilesOf x).foldl (fun d p =>
      let d := (d.setFld TIL_SVC_STAT.STATE p 0 5).linkDown p lsDetect
      d.bondSync (d.mate p)) d
    let d := match (d.mirror x).filter d.inService with
      | some m => d.passItems x m
      | none => (d.runningLost own).passItems x ((d.dies.find? d.inService).getD x)
    let rings := (d.rings.map fun e => e.1.a).filter fun r => own (bitsOf (d.ring r).ctl 29 27)
    let d := rings.foldl (fun d r => d.ringHomeLost r) d
    let pools := (d.pools.map fun e => e.1.a).filter fun p => own (p % d.n)
    let d := pools.foldl (fun d p => d.poolHomeLost p) d
    let taps := (d.taps.map fun e => e.1.a).filter fun t => own (t % d.n)
    let d := taps.foldl (fun d t => d.tapAbandon t 6) d
    if d.lead.failed || x == d.lead.lead then d else d.nameMirrors

/-- A die is taken as failed (R362): unhealthy; the deputy claims a failed lead's place; a die that mortar does not reach is lost.
In sleep the status lines are not silent, and no die is taken as failed (R396). See log entry 40. -/
def Dev.heartbeatMiss (d : Dev) (L : Locks) (x from_ : Nat) : Dev :=
  if d.asleep then d else
  let h := d.fld MC_ROLE.HEALTHY x
  let d := if d.cutOff from_ then d.dieLost from_ else d
  let d := d.setHealth x (h - (if h.testBit from_ then 2 ^ from_ else 0))
  if from_ = d.lead.lead && d.lead.claim.isNone then
    let d := { d with lead := { d.lead with failed := true } }
    if d.deputy = some x then d.claimLead L x else d
  else d

end Sys2Proof.Machine
end

