-- ==== Sys2Proof/Machine/RegAccess.lean ====
section
/-!
DEFINITION. Register accesses of every path (spec/02): forms of writes and reads (R56 to R61), shadows (R63, R64), fields that a read
clears (R59), live fields, locks (R69), the access error record (R79, R80), and what each trigger and each written register sets in motion.
-/

namespace Sys2Proof.Machine

/-! Places -/

/-- Is the register package configuration (R32)? Three registers of the translation cache block and the TAIL of queue 63 are. -/
def Loc.isCfg (l : Loc) : Bool :=
  match l.reg with
  | .TC_SWITCH | .TC_INVAL | .TC_INVAL_PAGE => true
  | .DIE_Q_CFG => l.i == 63
  | r => r.spec.owner == .cfg

/-- The registers of a path's own mailbox (R288). -/
def RegId.isMail : RegId → Bool
  | .POOL_CMD | .POOL_ARG_LO | .POOL_ARG_HI | .POOL_RES_LO | .POOL_RES_HI | .POOL_RES_STAT => true
  | _ => false

/-- The registers of a flash window (R430). -/
def RegId.isFlash : RegId → Bool
  | .MC_FLASH_ADDR | .MC_FLASH_CMD | .MC_FLASH_RES | .MC_FLASH_BUF => true
  | _ => false

/-- Where an access finds a register: configuration in the replica of the die on which it entered (R32), a mailbox by its path. -/
def Loc.seenBy (l : Loc) (s : Src) : Loc :=
  if l.reg.isMail then { l with u := s.path }
  else if l.isCfg && l.reg != .DIE_Q_CFG then { l with u := srcDie s }
  else l

/-- Is the lock that guards a register's block set (R68, R72)? -/
def lockOf (L : Locks) (l : Loc) : Bool :=
  match l.reg.spec.block with
  | .pkg => (List.range 8).any fun k => L.pkg.toList.getD k false
  | .die => L.die.toList.getD l.u false
  | .tile => L.tile.toList.getD l.u false

/-- Bits of the copies of the package lock. -/
def lockCopies (L : Locks) : Nat := (indexed L.pkg.toList).foldl (fun m e => if e.2 then m + 2 ^ e.1 else m) 0

/-! Live fields -/

/-- A mask of dies, absent ones reading 1. -/
def Dev.dieBits (d : Dev) (f : Nat → Bool) : Nat :=
  (List.range 8).foldl (fun m x => if d.n ≤ x || f x then m + 2 ^ x else m) 0

/-- Windows now in the mire state. -/
def Dev.mireCount (d : Dev) : Nat :=
  (d.regs.filter fun e => (e.1.a == RegId.WIN_O_STAT.ctorIdx || e.1.a == RegId.WIN_I_STAT.ctorIdx) && e.2.getLsbD 31).length

/-- SEM_STAT. -/
def Dev.semStat (d : Dev) (n : Nat) : Word :=
  let m := d.sem n
  let h := match m.holder with
    | none => 0
    | some (.atomic p _) => 2 ^ 31 + 1 * 2 ^ 29 + p * 65536
    | some (.master p) => 2 ^ 31 + 2 * 2 ^ 29 + p * 65536
    | some (.software p) => 2 ^ 31 + 3 * 2 ^ 29 + p * 65536
  let r := match m.resv with
    | none => 0
    | some p => 32768 + p * 256
  BitVec.ofNat 32 (h + r + min m.waiting.length 255)

/-- One bit of a word. -/
def bitIf (b : Bool) (k : Nat) : Nat := if b then 2 ^ k else 0

/-- BB_TXN_STAT. -/
def Dev.txnStat (d : Dev) (p : Nat) : Word :=
  let o := d.port p
  let tag (b : Nat) : Bool := b % 2 == 1
  BitVec.ofNat 32 (bitIf o.outOpen.isSome 31 + bitIf ((o.outOpen.map fun t => tag t.tag).getD false) 30 + bitIf o.early.isSome 29 +
    bitIf o.lockedBy.isSome 28 + bitIf o.inOpen.isSome 23 + bitIf ((o.inOpen.map fun t => tag t.adr.tag).getD false) 22 +
    bitIf o.inEarly.isSome 21 + bitIf o.inLock.isSome 20 + bitIf o.quiet.isSome 15)

/-- The state of a queue as its registers show it: queue 63 is the event queue at its home. See log entry 17. -/
def Dev.queueSeen (d : Dev) (x q : Nat) : QState := if q = 63 ∧ x = d.evqHome then d.evq else d.queue x q

/-- The form of a tap set as its home die has it. -/
def Dev.tapFormOf (d : Dev) (t : Nat) : TapForm := tapForm (d.reg .TAP_CTL (d.homeOf t) t) (d.reg .TAP_GEOM (d.homeOf t) t)

/-! Clock branches (R395) -/

/-- Does a port hold work, or hand an access to its partner? -/
def Port.works? (o : Port) : Bool :=
  !o.works.isEmpty || o.outOpen.isSome || o.early.isSome || o.inOpen.isSome || o.inEarly.isSome || !o.runs.isEmpty || !o.inPost.isEmpty

/-- Does a PCI Express port hold work? -/
def Pcie.works? (q : Pcie) : Bool := !q.owed.isEmpty || !q.issued.isEmpty || !q.waitTag.isEmpty || !q.heldReq.isEmpty || !q.inP.isEmpty || !q.inNp.isEmpty

/-- Does a mover's ring hold work? -/
def Ring.works? (g : Ring) : Bool := (g.runs.any fun x => x.phase != .done) || g.fetchOut.isSome || !g.cplq.isEmpty

/-- The queues of a die whose rings lie in its queue store hold words (R259). -/
def Dev.queuesHold (d : Dev) (x : Nat) : Bool :=
  d.queues.any fun e => e.1.a == x && decide (16 ≤ e.1.b) && e.1.b != 60 && e.1.b != 61 && e.1.b != 63 && e.2.words != 0

/-- The clock branches of a die that run because their blocks hold work (R395), as PWR_GATE numbers them. -/
def Dev.branchMask (d : Dev) (x : Nat) : Nat :=
  let tiles := (d.livePorts.filter fun p => (d.port p).works?).foldl (fun m p =>
    let t := d.chainTile p
    if dieOf t = x then m ||| 2 ^ (8 + t % 8) else m) 0
  let movs := d.rings.foldl (fun m e => if e.2.works? && d.ringDie e.1.a == x then m ||| 2 ^ (3 + e.2.mover / 8) else m) 0
  tiles ||| movs ||| bitIf (d.px x).works? 7 ||| bitIf (!(d.tc x).reads.isEmpty) 6 ||| bitIf (d.queuesHold x) 5

/-- The branches of a die that a step made run: what their blocks hold has changed. -/
def Dev.branchMoved (b d : Dev) (x : Nat) : Nat :=
  let tiles := (List.range 8).foldl (fun m t =>
    if { b.port (8 * x + t) with link := {} } ≠ { d.port (8 * x + t) with link := {} } then m ||| 2 ^ (8 + t) else m) 0
  let px (q : Pcie) : List Owed × List Issued × List HostReq × List HostReq := (q.owed, q.issued, q.waitTag, q.heldReq)
  tiles ||| bitIf (px (b.px x) != px (d.px x)) 7 ||| bitIf (b.tc x != d.tc x) 6 ||| bitIf (b.queues.any fun e => e.1.a == x && d.queue x e.1.b != e.2) 5 |||
    (d.rings.foldl (fun m e => if d.ringDie e.1.a == x && b.ring e.1.a != e.2 then m ||| 2 ^ (3 + e.2.mover / 8) else m) 0)

/-- Branches that ran since the last microsecond. -/
def Dev.markRan (d : Dev) (x m : Nat) : Dev := { d with ran := d.ran.set 0 ⟨x, 0, 0⟩ (d.ran.get 0 ⟨x, 0, 0⟩ ||| m) }

/-- The die and branch of the block that holds a register (R395). -/
def Dev.branchOf (d : Dev) (off : Nat) : Option (Nat × Nat) :=
  match locate d.n off with
  | none => none
  | some l =>
    match l.reg with
    | .PX_LINK_STAT | .PX_CTRL | .PX_L0P | .PX_OUT | .PX_EVENT | .PX_ERR_COUNT => some (l.u, 7)
    | .TC_SWITCH | .TC_SWITCH_STAT | .TC_INVAL | .TC_INVAL_PAGE | .TC_PFD_READ | .TC_PFD_STAT => some (l.u, 6)
    | .DIE_Q_CFG | .DIE_Q_CAP | .DIE_Q_DEPTH | .DIE_Q_COUNT | .DIE_Q_STAT | .DIE_Q_CTL => some (l.u, 5)
    | .MOV_CTL | .MOV_STAT | .MOV_ERR => some (l.i / 16, 3 + l.i % 16 / 8)
    | .RING_CTL | .RING_NOTE | .RING_DESC_LO | .RING_DESC_HI | .RING_CPL_LO | .RING_CPL_HI | .RING_PTR | .RING_DB | .RING_CPL_PTR | .RING_STAT
    | .RING_CMD | .RING_ERR_IDX => some (d.ringDie l.i, 3 + (d.ring l.i).mover / 8)
    | r => if r.spec.block = .tile then some (dieOf l.u, 8 + l.u % 8) else none

/-- The value of a register at the cycle of a read (R448): stored fields with the live ones in place. One measured register is free. -/
def Dev.liveWord (d : Dev) (L : Locks) (s : Src) (l : Loc) : Word × Dev :=
  let w := d.at l
  let num (n : Nat) : Word × Dev := (BitVec.ofNat 32 n, d)
  let lowMask (f : Fld) (v : Nat) : Word × Dev := (putBits w f.hi f.lo v, d)
  if l.reg.isFlash && !d.hasFlash l.u then (0, d) else
  match l.reg with
  | .PKG_ID => num (d.variant.device * 65536 + 256 + d.n * 16 + srcDie s)
  | .PKG_LOCK => num (lockCopies L * 256 + bitIf (lockOf L l) 0)
  | .DIE_LOCK | .TIL_LOCK => num (bitIf (lockOf L l) 0)
  | .PKG_SEAL_STAT | .PKG_SEAL_VALUE => if d.variant = .ez8 then (w, d) else num 0
  | .DIE_PROT_STAT => if d.variant = .ez8 then num 0 else (w, d)
  | .DIE_Q_CFG =>
    let r := queueRow l.i
    let tail := if l.i = 63 then d.fld EVQ_CTL.TAIL l.u else if (32 ≤ l.i && l.i < 48) || l.i = 62 then 0 else bitsOf w 31 16
    num (tail * 65536 + bitIf r.flushable 15 + bitIf r.drop 14 + r.stages)
  | .DIE_Q_CAP => num ((queueRow l.i).itemMax * 2 ^ 25 + (queueRow l.i).capacity)
  | .DIE_Q_DEPTH => let q := d.queueSeen l.u l.i; num (q.items.length * 65536 + q.words)
  | .DIE_Q_COUNT => let q := d.queueSeen l.u l.i; num (q.pushed * 65536 + q.popped)
  | .DIE_Q_STAT =>
    let q := d.queueSeen l.u l.i
    (putBits w 2 0 (bitIf (q.cursor != 0) 2 + bitIf (!q.part.isEmpty) 1 + bitIf q.items.isEmpty 0), d)
  | .ERR_STAT => lowMask ERR_STAT.COUNT (d.queue l.i 60).items.length
  | .TC_PFD_STAT => lowMask TC_PFD_STAT.COUNT (d.queue l.u 61).items.length
  | .EVQ_STAT => lowMask EVQ_STAT.COUNT d.evq.items.length
  | .SEM_STAT => (d.semStat l.i, d)
  | .BB_TXN_STAT => (d.txnStat l.u, d)
  | .PX_OUT => num (min (d.px l.u).issued.length 65535 * 65536 + min (d.px l.u).owed.length 65535)
  | .POOL_TOTAL_LO => num (d.poolTotal (srcDie s))
  | .POOL_TOTAL_HI => num (d.poolTotal (srcDie s) / 2 ^ 32)
  | .ERR_MIRE_COUNT => num d.mireCount
  | .PROT_DRAIN => num (d.dieBits fun x => !d.oldEpoch x)
  | .TC_SWITCH_STAT => lowMask TC_SWITCH_STAT.DRAINED (d.dieBits fun x => !d.oldSwitch x)
  | .IRQ_BBOUT_PEND => (d.bbOutPend (l.i / 8) (l.i % 8), d)
  | .TAP_OFF2 => num ((d.tapFormOf l.i).o2 / 4096)
  | .TAP_OFF4 => num ((d.tapFormOf l.i).o4 / 4096)
  | .TAP_OFFA => num ((d.tapFormOf l.i).oa / 4096)
  | .TAP_LEN => num ((d.tapFormOf l.i).len / 4096)
  | .MOV_STAT =>
    let n := d.inProgress (l.i / 16) (l.i % 16)
    (putBits w 31 26 (bitIf (n != 0) 5 + min n 15 * 2 + bitIf (d.mover (l.i / 16) (l.i % 16)).resetting 0), d)
  | .MC_BOOT_STAT => lowMask MC_BOOT_STAT.LEFT_OUT (d.fen.leftOut.foldl (fun m x => m ||| 2 ^ x) 0)
  | .CLK_LOOP_CNT => if d.flag BB_LINK_STAT.LOOP (8 * l.u + l.i) then (w, d) else lowMask CLK_LOOP_CNT.COUNT 0
  | .PWR_GATE => num (d.ran.get 0 ⟨l.u, 0, 0⟩ ||| d.branchMask l.u)
  | .PWR_MP_MEAS => if d.rootHeld l.u then (w, d) else let (v, d) := d.draw; (BitVec.ofNat 32 v, d)
  | _ => (w, d)

/-! Reads -/

/-- The _LO half of the pair whose _HI half a register is. -/
def RegId.pairLo (r : RegId) : Option RegId := (pkgRegs ++ dieRegs ++ tileRegs).find? fun q => q.pairHi == some r

/-- Key of a path's shadow of a pair; with `last`, of the mark that its latest access to the pair was a _LO read. See log entry 28. -/
def shadowKey (path : Nat) (lo : Loc) (last : Bool) : Key :=
  ⟨path * 512 + lo.reg.ctorIdx, (if lo.isCfg then 0 else lo.u) * 2 + (if last then 1 else 0), lo.i⟩

/-- A mark or a shadow put in place. See log entry 28. -/
def Dev.setShadow (d : Dev) (k : Key) (v : Option Word) : Dev := { d with shadows := d.shadows.set none k v }

/-- The mask of the register bits in bytes `[7:0]` (bit 0) to `[31:24]` (bit 3). -/
def byteBits (m : Nat) : Word :=
  BitVec.ofNat 32 ((List.range 4).foldl (fun w k => if m.testBit k then w + 255 * 256 ^ k else w) 0)

/-- The fields that a read clears, in the bytes it returns (R59). A configuration register's are cleared in every replica. -/
def Dev.clearRc (d : Dev) (l : Loc) (mask : Nat) : Dev :=
  let m := l.reg.maskWhere (fun f => f.ty == .rc) &&& byteBits mask
  if m = 0 then d
  else
    let one (d : Dev) (l : Loc) : Dev := { d with regs := d.regs.set l.resetWord l.key (d.raw l &&& ~~~m) }
    if l.reg.spec.owner = .cfg then d.dies.foldl (fun d x => one d { l with u := x }) d else one d l

/-- Is the register a queue read port (R60)? -/
def RegId.isPort : RegId → Bool
  | .EVQ_READ | .ERR_READ | .TC_PFD_READ => true
  | _ => false

/-- One word taken from a queue read port (R260). -/
def Dev.takeWord (d : Dev) (l : Loc) : Word × Dev :=
  match l.reg with
  | .EVQ_READ => d.evqRead
  | .ERR_READ => let r := (d.queue l.i 60).readWord 4096; (r.1, d.modQueue l.i 60 fun _ => r.2)
  | .TC_PFD_READ => let r := (d.queue l.u 61).readWord 8192; (r.1, d.modQueue l.u 61 fun _ => r.2)
  | _ => (0, d)

/-- One course of a read: the register at an offset, `mask` the bytes of the register that are returned. -/
def Dev.readCourse (d : Dev) (L : Locks) (s : Src) (off mask : Nat) : Word × Dev :=
  match locate d.n off with
  | none => (0, d)
  | some l =>
    let l := l.seenBy s
    let r := l.reg
    if r.isPort then d.takeWord l
    else if 16 ≤ s.path && (r.isMail || r.isFlash) then (0, d)
    else
      match r.pairLo.map fun q => (⟨q, l.u, l.i⟩ : Loc) with
      | some lo =>
        let k := shadowKey s.path lo true
        if (d.shadows.get none k).isSome then
          (((d.shadows.get none (shadowKey s.path lo false)).getD 0), d.setShadow k none)
        else d.liveWord L s l
      | none =>
        let (v, d) := d.liveWord L s l
        let d := match r.pairHi with
          | none => d
          | some h =>
            let (hv, d) := d.liveWord L s ⟨h, l.u, l.i⟩
            let d := if mask.testBit 0 then d.setShadow (shadowKey s.path l false) (some hv) else d
            d.setShadow (shadowKey s.path l true) (some 1)
        let d := if mask.testBit 3 then
            match r with
            | .IRQ_BBOUT_PEND => d.bbOutRead (l.i / 8) (l.i % 8)
            | .IRQ_NMI_CAUSE => d.nmiRelease
            | _ => d
          else d
        (v, d.clearRc l mask)

/-- The byte of a register, counted from bits [7:0], that an address within it carries (R54). -/
def laneOf (bb : Bool) (j : Nat) : Nat := if bb then 3 - j else j

/-- The bytes of a register in address order. -/
def wordBytes (bb : Bool) (w : Word) : List Byte := if bb then bytesBE w.toNat 4 else bytesLE w.toNat 4

/-- The register block that serves an access (R67): the package block, a die block or a tile block. -/
def blockOf (off : Nat) : Nat :=
  if off < 0x800000 then 0
  else
    let o := off % 0x800000
    if 0x100000 ≤ o ∧ o < 0x500000 then 16 + 8 * (off / 0x800000 - 1) + (o - 0x100000) / 0x80000 else off / 0x800000

/-- The block remembers the path it served last; its clock branch runs for the access (R395). -/
def Dev.served (d : Dev) (s : Src) (off : Nat) : Dev :=
  { d with lastPath := d.lastPath.set 16 ⟨blockOf off, 0, 0⟩ s.path,
           ran := match d.branchOf off with
             | some (x, k) => (d.markRan x (2 ^ k)).ran
             | none => d.ran }

/-- The words that an access of a length at an offset touches, in ascending order. -/
def wordsAt (off len : Nat) : List Nat := if len = 0 then [] else (List.range ((off % 4 + len + 3) / 4)).map fun k => off / 4 * 4 + 4 * k

/-- Why a read is rejected (R57, R60). -/
def Dev.readReason (d : Dev) (off len : Nat) : Option Nat :=
  if 8 < len then some 3
  else if 8 < off % 8 + len then some 4
  else if (wordsAt off len).any fun a =>
      ((locate d.n a).any fun l => l.reg.isPort) && !(decide (off ≤ a) && decide (a + 4 ≤ off + len)) then some 7
  else none

/-- A read that is performed: its courses in order, the bytes asked for. See log entry 28. -/
def Dev.regRead (d : Dev) (L : Locks) (s : Src) (off len : Nat) : List Byte × Dev :=
  let bb := decide (16 ≤ s.path)
  let ws := wordsAt off len
  let d := if ws.any fun a => (locate d.n a).any Loc.isCfg then d.waitPath s.path else d
  ws.foldl (fun (acc : List Byte × Dev) a =>
    let js := (List.range 4).filter fun j => decide (off ≤ a + j) && decide (a + j < off + len)
    let mask := js.foldl (fun m j => m + 2 ^ laneOf bb j) 0
    let (w, d) := acc.2.readCourse L s a mask
    (acc.1 ++ js.map fun j => (wordBytes bb w).getD j 0, d)) ([], d.served s off)

/-! Writes -/

/-- ERR_MIRE_CLR for a window (R206). -/
def Dev.mireClear (d : Dev) (inb : Bool) (w : Nat) : Dev :=
  if d.mired inb w then
    (d.setFld (statFld inb WIN_O_STAT.MIRE) 0 w 0).setFld ERR_DEF_INFO.VALID 0 ((if inb then 4096 else 0) + w) 0
  else d

/-- A record of a protection unit released (R246). -/
def Dev.vioClear (d : Dev) (u : Nat) : Dev := (d.setFld PROT_VIO_INFO.VALID 0 u 0).setFld PROT_VIO_INFO.MORE 0 u 0

/-- Bits of a list that a write sets, of its trigger bits. -/
def bitsSet (v : Word) (ks : List Nat) : List Nat := ks.filter fun k => v.getLsbD k

/-- A write of TIL_SVC (R354, R357, R367): one command bit acts, several are refused. See log entry 38. -/
def Dev.tilSvc (d : Dev) (p : Nat) (v : Word) : Dev :=
  match bitsSet v [0, 1, 2, 3] with
  | [] => d
  | [0] => d.evacuate p
  | [1] => d.tileReset p
  | [2] => d.tileBack p
  | [3] => d.recal p
  | _ => d.tilRefuse p 5

/-- DIE_SVC.PLL_SWAP (R366). The spec gives no refusal code for a swap that meets a running one: that code is free. See log entry 4. -/
def Dev.swapCmd (d : Dev) (x : Nat) : Dev :=
  d.pllSwap x fun d =>
    if (d.clk x).swap.isSome then
      let (v, d) := d.draw
      d.dieRefuse x (v % 256)
    else d.dieRefuse x 4

/-- A write of DIE_SVC (R358, R364 to R366): one action bit acts, several are refused. See log entry 38. -/
def Dev.dieSvc (d : Dev) (L : Locks) (x : Nat) (v : Word) : Dev :=
  match bitsSet v [0, 1, 2, 3] with
  | [] => d
  | [0] => d.dieReset x
  | [1] => d.swapCmd x
  | [2] => d.handoff L x
  | [3] => d.mcRestart x (bitsOf v 9 8)
  | _ => d.dieRefuse x 7

/-- A write of RING_CMD (R318): with several bits it acts as RESET. -/
def Dev.ringCmd (d : Dev) (r : Nat) (v : Word) : Bool × Dev :=
  match bitsSet v [0, 1, 2] with
  | [] => (false, d)
  | [k] => d.ringTrigger r k
  | _ => d.ringTrigger r 2

/-- A write of MC_LEDGER_CTL (R428, R438); one with both MARK bits set is discarded. -/
def Dev.ledgerCtl (d : Dev) (x : Nat) (v : Word) : Dev :=
  if v.getLsbD 0 && v.getLsbD 1 then d
  else
    let d := if v.getLsbD 0 then d.markImage x 0 else d
    let d := if v.getLsbD 1 then d.markImage x 1 else d
    if bitsOf v 15 8 = 0 then d else d.readmitDies x (bitsOf v 15 8)

/-- What a written register of a die, a tile or running state sets in motion; with true, a trigger was discarded (R67). -/
def Dev.writeHook (d : Dev) (L : Locks) (s : Src) (l : Loc) (locked : Bool) (old v : Word) : Bool × Dev :=
  let ok (d : Dev) : Bool × Dev := (false, d)
  let i := l.i
  let bb := decide (16 ≤ s.path)
  match l.reg with
  | .PKG_LOCK => ok (if v.getLsbD 0 then d.note (.lock (2 ^ d.n - 1) none none) else d)
  | .DIE_LOCK => ok (if v.getLsbD 0 && !locked then d.note (.lock 0 (some l.u) none) else d)
  | .TIL_LOCK => ok (if v.getLsbD 0 && !locked then d.note (.lock 0 none (some l.u)) else d)
  | .TIL_SVC => ok (d.tilSvc l.u v)
  | .TIL_BOND => ok (d.bondWritten l.u (bitsOf old 5 0))
  | .BB_LINK_CTRL =>
    let d := if v.getLsbD 0 then (if old.getLsbD 0 then d else d.linkEnable l.u) else d.linkDisable l.u
    let d := if v.getLsbD 2 then d.retrainCmd l.u else d
    ok (if v.getLsbD 3 then d.widen l.u else d)
  | .BB_IRQ_IAK => ok (d.sendIak l.u (bitsOf v 2 0))
  | .DIE_SVC => ok (d.dieSvc L l.u v)
  | .DIE_Q_CTL => ok (if v.getLsbD 0 then d.queueFlush l.u i else d)
  | .CLK_CTL => ok (d.restore l.u)
  | .CLK_SLEEP => ok (if v.getLsbD 0 then d.sleep l.u else d)
  | .PWR_MP_CTL =>
    let p := 8 * l.u + i
    let d := d.mpEnable p (v.getLsbD 31)
    ok (if v.getLsbD 0 then d.mpClear p else d)
  | .MSIX_ADDR_LO | .MSIX_ADDR_HI | .MSIX_DATA | .MSIX_VCTL => ok (d.flushPba l.u)
  | .MC_FLASH_CMD => ok (if bb || bitsOf v 1 0 = 0 then d else d.flashCmd l.u (bitsOf v 1 0))
  | .MC_LEDGER_CTL => ok (d.ledgerCtl l.u v)
  | .PROT_VIO_CLR => ok (if v.getLsbD 0 then d.vioClear i else d)
  | .EVQ_HOST_RD => ok (d.evqRdWrite (bitsOf v 15 0))
  | .SEM_SW => ok (d.semSw i s.path (v.getLsbD 0) (v.getLsbD 1))
  | .POOL_CMD => if bb then ok d else d.mailWrite s.path v
  | .RING_DB => ok (d.doorbell i (bitsOf v 15 0))
  | .RING_CMD => d.ringCmd i v
  | .RING_CPL_PTR => ok (d.cplPump i)
  | .TAP_CMD => ok (if v.getLsbD 0 then d.tapForget i else d)
  | .TAP_LOG_PTR => ok (d.tapLog i)
  | .MON_CTL => ok (if v.getLsbD 29 then d.monClear (i / 64) (i % 64) else d)
  | .MON_SRC => ok (d.monSource (i / 64) (i % 64) v.toNat)
  | .ERR_MIRE_CLR => ok (d.mireClear (v.getLsbD 31) (bitsOf v 11 0))
  | _ => ok d

/-- The bits of a register that a write sets (R16, R69), reserved places and fields without effect left out. -/
def Dev.setMask (d : Dev) (s : Src) (l : Loc) (locked : Bool) : Word :=
  if l.reg = .DIE_Q_CFG && ((32 ≤ l.i && l.i < 48) || l.i = 62) then 0
  else if 16 ≤ s.path && (l.reg.isMail || l.reg.isFlash) then 0
  else if l.reg = .EVQ_HOST_RD || l.reg.isMail && l.u = 16 then 0
  else if l.reg.isFlash && !d.hasFlash l.u then 0
  else l.reg.writable locked &&& d.presentMask l.reg

/-- The die that keeps a register's P words. -/
def Loc.keeper (l : Loc) : Nat := if l.reg.spec.block = .tile then dieOf l.u else l.u

/-- Is a write of a word recorded as LOCKED (R69)? One of 1 to PKG_LOCK.LOCK is not while a copy is clear: it sets that copy (R72). -/
def Dev.lockHit (d : Dev) (L : Locks) (l : Loc) (v : Word) : Bool :=
  l.reg.isLk && lockOf L l && !(l.reg == .PKG_LOCK && v.getLsbD 0 && lockCopies L != 2 ^ d.n - 1)

/-- One course of a write; `some` gives the reason of a course that is recorded. -/
def Dev.writeCourse (d : Dev) (L : Locks) (s : Src) (off : Nat) (v : Word) (at_ : Nat) : Option Nat × Dev :=
  match locate d.n off with
  | none => (some 6, d)
  | some l =>
    let locked := lockOf L l
    let hit := bif d.lockHit L l v then some 5 else none
    let l := l.seenBy s
    let lo : Option Loc := if l.reg.pairHi.isSome then some l else l.reg.pairLo.map fun q => ⟨q, l.u, l.i⟩
    let d := match lo with
      | some lo => d.setShadow (shadowKey s.path lo true) none
      | none => d
    if l.isCfg then
      let twice := l.reg == .MOV_CTL && v.getLsbD 31 && (d.mover (l.i / 16) (l.i % 16)).held
      (if twice then some 10 else if d.leadBusy then none else hit, d.cfgWrite L off v s.path at_)
    else
      let m : Word := d.setMask s l locked
      let old := d.at l
      let d := if m = 0 then d
        else if m &&& l.reg.pMask != 0#32 then
          let d := (d.openSeal l.keeper).put l (merged old v m)
          { d with leadCopy := d.leadCopy.set none l.key none }
        else d.put l (merged old v m)
      let (busy, d) := d.writeHook L s l locked old v
      (bif busy then some 10 else hit, d)

/-- Outcome of a register write: performed, rejected, or answered RTY while no lead takes configuration writes (R36). -/
inductive WAns where
  | ok | rejected | held
  deriving DecidableEq, Repr

/-- Why a write is rejected as a whole (R56); `en` are its byte enables. Where a write breaks several rows of the table, its length and place
are named before a disabled byte: the spec gives no order. See log entry 28. -/
def writeReason (off len en : Nat) : Option Nat :=
  if 8 < len then some 3
  else if 8 < off % 8 + len then some 4
  else if len = 4 ∧ off % 4 ≠ 0 then some 2
  else if (len ≠ 4 ∧ len ≠ 8) ∨ en % 2 ^ len ≠ 2 ^ len - 1 then some 1
  else none

/-- A register write of any path: `v` holds the word of the lower register in its bits [31:0] and that of the upper in [63:32]. -/
def Dev.regWrite (d : Dev) (L : Locks) (s : Src) (off len en v at_ : Nat) : WAns × Dev :=
  match writeReason off len en with
  | some r => (.rejected, d.accErr s true r off len)
  | none =>
    let ws := wordsAt off len
    let cfg := ws.any fun a => (locate d.n a).any Loc.isCfg
    if 16 ≤ s.path && d.leadBusy && cfg then (.held, d)
    else
      let k := d.heldCfg.length
      let d := d.served s off
      let (first, d) := (indexed ws).foldl (fun (acc : Option (Nat × Nat) × Dev) e =>
        let (r, d) := acc.2.writeCourse L s e.2 (BitVec.ofNat 32 (v / 2 ^ (32 * e.1))) at_
        (match acc.1, r with
          | none, some r => some (r, e.2)
          | f, _ => f, d)) (none, d)
      let d := if cfg then d.noteHeld k len first.isSome else d
      match first with
      | some (r, a) => (.ok, d.accErr s true r a len)
      | none => (.ok, d)

/-! Accesses as commands -/

/-- Does the port take memory requests to BAR0, with `k` 1 to BAR2 (R104, R450)? -/
def Dev.takesMem (d : Dev) (s : Src) (k : Nat := 0) : Bool := 8 ≤ s.path || d.takesBar s.path k

/-- Does mortar lead from the die of an access to every die and tile block it touches (R30, R40)? -/
def Dev.regReach (d : Dev) (s : Src) (off len : Nat) : Bool :=
  (wordsAt off len).all fun a =>
    match locate d.n a with
    | some l =>
      match l.reg.spec.block with
      | .pkg => true
      | .die => d.reach (srcDie s) l.u
      | .tile => d.reach (srcDie s) (dieOf l.u)
    | none => true

/-- A register write that its port has taken: the unit's check first (R244), the answer on the path it came by. -/
def Dev.busWriteNow (d : Dev) (L : Locks) (s : Src) (off len en v at_ : Nat) : Dev :=
  let x := srcDie s
  if !d.takesMem s then d.logPosted x false
  else if s.poison then d.poisoned s true
  else if s.path < 16 then
    let (ans, d) := d.protCheck (d.srcReq s .ctrl off len 1)
    if ans.whole then if s.path < 8 then d.logPosted x true else d.emit (.mcDone x false false [])
    else
      let (a, d) := d.regWrite L s off len en v at_
      if s.path < 8 then (if a = .rejected then d.logPosted x true else d)
      else d.emit (.mcDone x (a != .rejected && !ans.denied) false [])
  else
    let (a, d) := d.regWrite L s off len en v at_
    d.emit (.viewDone s.port (a == .ok) (a == .held) [])

/-- A register write of a command: it waits while its port withholds posted credits (R36), or while no mortar route leads to its die (R40). -/
def Dev.busWrite (d : Dev) (L : Locks) (s : Src) (off len en v at_ : Nat) : Dev :=
  if s.path < 8 && d.waitsCredit s.path true then d.waitCredit s.path true (.write s off len en v at_)
  else if !d.regReach s off len then { d with awaiting := d.awaiting ++ [.write s off len en v at_] }
  else d.busWriteNow L s off len en v at_

/-- The completion of a register read of a port: the one it owes where the read has waited, or one sent at once. -/
def Dev.readCpl (d : Dev) (s : Src) (off : Nat) (owed : Option Nat) (st : CplSent) (data : List Byte) : Dev :=
  match owed with
  | some id => d.complete (srcDie s) id st false data
  | none => d.sendCpl (srcDie s) s.rid s.tag off st false data

/-- The read of a command that its unit allowed: rejected and recorded, or performed and answered. -/
def Dev.answerRead (d : Dev) (L : Locks) (s : Src) (off len : Nat) (owed : Option Nat) (part : Bool) : Dev :=
  let x := srcDie s
  match d.readReason off len with
  | some r =>
    let d := d.accErr s false r off len
    if s.path < 8 then d.readCpl s off owed .abort []
    else if s.path < 16 then d.emit (.mcDone x false false [])
    else d.emit (.viewDone s.port false false [])
  | none =>
    let (bs, d) := d.regRead L s off len
    if s.path < 8 then d.readCpl s off owed .success bs
    else if s.path < 16 then d.emit (.mcDone x (!part) false (if part then [] else bs))
    else d.emit (.viewDone s.port true false bs)

/-- Does a read wait for the commands of its mailbox (R288)? -/
def Dev.mailWaits (d : Dev) (s : Src) (off len : Nat) : Bool :=
  s.path < 16 && (d.mail s.path).busy && (wordsAt off len).any fun a => (locate d.n a).any fun l => l.reg == .POOL_RES_STAT

/-- Does a read of package configuration wait for a write of its path that is held (R32, R36)? -/
def Dev.cfgWaits (d : Dev) (s : Src) (off len : Nat) : Bool :=
  (d.heldCfg.any fun h => h.w.path == s.path) && (wordsAt off len).any fun a => (locate d.n a).any Loc.isCfg

/-- Does a read wait for a mortar route (R40)? -/
def Dev.farWaits (d : Dev) (s : Src) (off len : Nat) : Bool := !d.regReach s off len

/-- A register read that its port has taken. See log entry 16. -/
def Dev.busReadNow (d : Dev) (L : Locks) (s : Src) (off len : Nat) : Dev :=
  if !d.takesMem s then d.readCpl s off none .unsupported []
  else
    let (ans, d) := if s.path < 16 then d.protCheck (d.srcReq s .ctrl off len 0) else (⟨[], false, false⟩, d)
    let mail := d.mailWaits s off len
    if ans.whole then if s.path < 8 then d.readCpl s off none .abort [] else d.emit (.mcDone (srcDie s) false false [])
    else if (mail || d.cfgWaits s off len || d.farWaits s off len) && (d.readReason off len).isNone then
      let (id, d) := if s.path < 8 then d.owe s off len false else (0, d)
      let r : HeldRead := { src := s, off := off, len := len, owed := id, part := ans.denied, epoch := d.epoch (srcDie s) }
      if mail then let m := d.mail s.path; d.setMail s.path { m with reads := m.reads ++ [r] }
      else { d with heldReads := d.heldReads ++ [r] }
    else d.answerRead L s off len none ans.denied

/-- A register read of a command: it waits while its port withholds non-posted credits (R96). -/
def Dev.busRead (d : Dev) (L : Locks) (s : Src) (off len : Nat) : Dev :=
  if s.path < 8 && d.waitsCredit s.path false then d.waitCredit s.path false (.read s off len) else d.busReadNow L s off len

/-- A read that has waited is answered. -/
def Dev.answerHeld (d : Dev) (L : Locks) (r : HeldRead) : Dev := d.answerRead L r.src r.off r.len (some r.owed) r.part

/-- Reads that waited for a mailbox are answered once its commands are applied. -/
def Dev.mailReads (d : Dev) (L : Locks) (path : Nat) : Dev :=
  let m := d.mail path
  if m.busy || m.reads.isEmpty then d
  else m.reads.foldl (fun d r => d.answerHeld L r) (d.setMail path { m with reads := [] })

/-- How many paths a register block serves before a path when several wait (R67): ascending from the one after the path served last. -/
def Dev.blockTurn (d : Dev) (block path : Nat) : Nat := (path + 16 - d.lastPath.get 16 ⟨block, 0, 0⟩) % 17

/-- Accesses that wait at a register block together, in the order in which it serves them (R67). -/
def Dev.inTurn {A : Type} (d : Dev) (block : Nat) (path : A → Nat) (l : List A) : List A :=
  (List.range 17).flatMap fun k => l.filter fun a => d.blockTurn block (path a) == k

/-- Reads that waited for held writes of their path, or for a mortar route, are answered, in the order of R67. -/
def Dev.cfgReads (d : Dev) (L : Locks) : Dev :=
  let go (r : HeldRead) : Bool := !d.cfgWaits r.src r.off r.len && !d.farWaits r.src r.off r.len
  if d.heldReads.any go then
    (d.inTurn 0 (fun r => r.src.path) (d.heldReads.filter go)).foldl (fun d r => d.answerHeld L r)
      { d with heldReads := d.heldReads.filter fun r => !go r }
  else d

/-- The write of a command that names a field: the field set, the writable rest of its register as it reads, triggers 0. -/
def Dev.swCmd (d : Dev) (L : Locks) (s : Src) (l : Loc) (f : Word → Word) (at_ : Nat := 255) : Dev :=
  let keep := l.reg.maskWhere fun f => f.ty == .rw || f.ty == .lk
  d.busWrite L s l.offset 4 15 (f (d.at (l.seenBy s) &&& keep)).toNat at_

end Sys2Proof.Machine
end

