-- ==== Sys2Proof/Machine/Inbound.lean ====
section
/-!
DEFINITION. Packets received as Body Bus target (spec/05): rules of R141, R145, R146 and R150, decode (R156), the Body Bus view (R52, R53),
the identity block (R157), inbound windows (R164, R168, R204, R209, R211), data (R142).
-/

namespace Sys2Proof.Machine

/-! Decode (R156) -/

/-- May a tile take inbound transactions: its start completed, its die not in a reset, the port served (R349, R358, R422)? -/
def Dev.portServed (d : Dev) (p : Nat) : Bool :=
  d.flag MC_BOOT_STAT.DONE (dieOf p) && d.fld DIE_SVC_STAT.STATE (dieOf p) == 0 && (d.tileServing p || d.carried p)

/-- BAR0 offset of an access to the Body Bus view of a port (R52). -/
def Dev.viewOff (d : Dev) (p addr : Nat) : Option Nat :=
  let x := dieOf p
  let ports := d.pair .PKG_BB_CTRL_PORTS_LO .PKG_BB_CTRL_PORTS_HI x 0
  let base := d.fld PKG_BB_CTRL_BASE_HI.BASE_47_32 x * 2 ^ 32 + d.fld PKG_BB_CTRL_BASE_LO.BASE_31_27 x * 2 ^ 27
  if d.flag PKG_BB_CTRL_BASE_LO.EN x && ports.testBit p && decide (base ≤ addr) && decide (addr < base + 0x8000000) then some (addr - base)
  else none

/-- The identity block of a port (R157). -/
def Dev.identity (d : Dev) (p : Nat) : List Byte :=
  let view := d.flag PKG_BB_CTRL_BASE_LO.EN (dieOf p) && (d.pair .PKG_BB_CTRL_PORTS_LO .PKG_BB_CTRL_PORTS_HI (dieOf p) 0).testBit p
  bytesBE 0x1F8C 2 ++ bytesBE d.variant.device 2 ++ [BitVec.ofNat 8 p, BitVec.ofNat 8 (dieOf p), 1#8, 0#8] ++
    bytesBE (1 + bitIf (d.flag BB_TXN_CTRL.LOCK_EN p) 1 + bitIf view 2) 4 ++ bytesBE 0 4

/-- The decode of the parts of an access that its unit allows, first match taken (R53, R141, R150, R156, R157, R211, R244). A locked single to
the view that also breaks R53 is answered BERR LOCK (R211) and not recorded: the spec orders the two nowhere (DESIGN CHOICE, log entry 25). -/
def Dev.inDecode (d : Dev) (p : Nat) (shape : Shape) (b : AdrBody) (parts : List (Nat × Nat)) : InTarget × Dev :=
  let len := adrLen b
  let at_ := b.addr + firstPart parts
  let span := spanParts parts len
  let space := amSpace b.am
  let lck := shape == .lck
  let lk := lck || b.locked
  let berr (code : Nat) : InTarget × Dev := (.answer true code, d)
  if lck && !d.flag BB_TXN_CTRL.LOCK_EN p then berr 7
  else if b.locked && !lck && (d.port p).inLock.isNone then berr 7
  else if space = 3 && lk then berr 4
  else if !b.block && b.addr % len != 0 then berr 3
  else
    match if space = 0 then d.viewOff p at_ else none with
    | some off =>
      let s : Src := { path := 16, port := p }
      if b.block then (.answer true 0x0A, d.accErr s b.write 8 off span)
      else if lk then berr 7
      else if !amSup b.am || amExec b.am then (.answer true 0x0A, d.accErr s b.write 9 off len)
      else (.view off, d)
    | none =>
      if b.block && (space == 0 || space == 3 || lk) then berr 4
      else if b.block && (b.addr % 8 != 0 || b.addr / 65536 != (b.addr + len - 1) / 65536) then berr 3
      else if space = 3 then
        if 16 < b.addr + len then berr 1 else if b.write then berr 4 else (.cfg, d)
      else
        match d.matchIn p space at_ span with
        | none => if b.locked && !lck then berr 7 else berr 1
        | some w =>
          if lk && w.lock.isNone then berr 7
          else if b.locked && !lck && w.lock != (d.port p).inLock then berr 7
          else if b.block && !w.memory then berr 4
          else (.window w, d)

/-- The access as its port takes it: service, unit, form and decode, in this order (R243, R244, R146, R156). See log entry 25. -/
def Dev.inTake (d : Dev) (p : Nat) (shape : Shape) (b : AdrBody) : InTxn × Dev :=
  let x := dieOf p
  let (id, d) := d.fresh
  let t : InTxn := { id := id, adr := b, shape := shape, target := .answer true 8, epoch := d.epoch x, sw := (d.tc x).switches }
  if shape = .ulk then (t, d)
  else if !d.portServed p then ({ t with target := .answer false 1 }, d)
  else
    let acc := if shape = .lck then 4 else if b.write then 1 else if amExec b.am then 2 else 0
    let (ans, d) := d.protCheck { u := 32 * x + 1 + p % 8, kind := .bb, addr := b.addr, len := adrLen b, space := amSpace b.am, port := p,
                                  sup := amSup b.am, access := acc, pasid := none, rid := 0 }
    if ans.whole then ({ t with target := .answer true 2 }, d)
    else if (if b.block then b.size != 0 else decide (3 < b.size) || b.beatsM1 != 0) then (t, d.txnEvent BB_TXN_EVENT.PROTOCOL p)
    else if shape = .lck && (d.port p).inLock.isSome then (t, d.masterRelease p)
    else
      let (g, d) := d.inDecode p shape b ans.parts
      ({ t with target := g, parts := ans.parts, denied := ans.denied }, d)

/-! A transaction that is open -/

/-- A view read (R52, R57). See log entry 25. -/
def Dev.inViewRead (d : Dev) (L : Locks) (p : Nat) (t : InTxn) (off : Nat) : Dev :=
  let s : Src := { path := 16, port := p }
  let len := adrLen t.adr
  match d.readReason off len with
  | some r => (d.accErr s false r off len).inBerr p t 0x0A
  | none =>
    let (bs, d) := d.regRead L s off len
    d.inData p t bs

/-- A view write whose data is whole (R36, R54 to R56). -/
def Dev.inViewWrite (d : Dev) (L : Locks) (p : Nat) (t : InTxn) (off : Nat) : Dev :=
  if t.poison then d.inBerr p t 6
  else
    let len := adrLen t.adr
    let v := natBE (t.data.take 4) + 2 ^ 32 * natBE ((t.data.drop 4).take 4)
    let (a, d) := d.regWrite L { path := 16, port := p } off len (2 ^ len - 1) v 255
    match a with
    | .ok => d.inAck p t
    | .rejected => d.inBerr p t 0x0A
    | .held => d.inRty p t 4

/-- The BERR code of a refused translation (R169). -/
def pageBerr (cause : Nat) : Nat := if cause = 5 then 9 else if cause = 6 then 1 else 4

/-- Translation of the open access has an outcome: its requests go, behind those of earlier accesses (R196), or its answer. -/
def Dev.inXlate (d : Dev) (p : Nat) (t : InTxn) (w : Win) (r : Xlate) : Dev :=
  match r with
  | .refuse c => (d.winEvent (refuseBit c) true w.num).inBerr p t (pageBerr c)
  | .miss line =>
    (d.modPort p fun o => { o with inOpen := some { t with asked := true } }).wantLine (dieOf p) w line [] [p]
  | .far f =>
    let t := { t with host := f, asked := false, xlated := true }
    let d := d.modPort p fun o => { o with inOpen := some t }
    if d.inBehind p t.id && !(t.adr.write && w.posted && !t.adr.locked) then d else d.inIssue p t w

/-- The open access of a window goes on: bad data (R142), translation (R168). -/
def Dev.inGoWindow (d : Dev) (p : Nat) (t : InTxn) (w : Win) : Dev :=
  if t.adr.write && t.poison then d.inBerr p t 6
  else if d.mired true w.num then (if t.adr.write then d.mireDrop true w.num 1 else d).inBerr p t 9
  else
    let x := dieOf p
    let a := t.adr.addr + firstPart t.parts
    let r := d.translate x w a t.adr.write
    (if w.paged then d.touchLine x w ((a - w.base) / 2 ^ 21 / 8) else d).inXlate p t w r

/-- The transaction of a port has just become open (R143): what its target answers at once, the mire state, its semaphore.
See log entry 25. -/
def Dev.inStart (d : Dev) (L : Locks) (p : Nat) : Dev :=
  match (d.port p).inOpen with
  | none => d
  | some t =>
    let d := d.modPort p fun o => { o with inCut := if o.inCut = some t.adr.tag then none else o.inCut }
    if t.shape = .ulk then (d.masterRelease p).inAck p t
    else
      match t.target with
      | .answer true code => d.inBerr p t code
      | .answer false reason => d.inRty p t reason
      | .cfg => d.inData p t ((d.identity p).drop t.adr.addr |>.take (adrLen t.adr))
      | .view off => if t.adr.write then d else d.inViewRead L p t off
      | .window w =>
        if t.shape != .lck && d.mired true w.num then (if t.adr.write then d.mireDrop true w.num 1 else d).inBerr p t 9
        else if t.shape = .lck then
          match w.lock with
          | none => d.inBerr p t 7
          | some s =>
            let (got, d) := d.semLck s p
            if got then (d.modPort p fun o => { o with inLock := some s }).inAck p t else d.inRty p t 2
        else
          match w.lock.filter fun s => !d.semLetsPort s p with
          | some s => (d.bump SEM_CNT.RTY_SENT 0 s).inRty p t 2
          | none => if t.adr.write then d else d.inGoWindow p t w

/-- The open write's last DAT has arrived. -/
def Dev.inReady (d : Dev) (L : Locks) (p : Nat) (t : InTxn) : Dev :=
  match t.target with
  | .view off => d.inViewWrite L p t off
  | .window w => d.inGoWindow p t w
  | _ => d

/-- A translated access that waits behind requests of earlier ones goes on (R167, R196). -/
def Dev.inPump (d : Dev) (p : Nat) : Dev :=
  let d := d.inPostGo p
  match (d.port p).inOpen with
  | some t =>
    match t.target with
    | .window w =>
      if t.xlated && !t.issued && !d.inBehind p t.id then d.inIssue p t w else d
    | _ => d
  | none => d

/-- A page line that the open access waited for has arrived or failed (R171). -/
def Dev.inLine (d : Dev) (p win : Nat) (tableB : Bool) (line : Nat) (entries : Option (List Nat)) : Dev :=
  match (d.port p).inOpen with
  | some t =>
    match t.target with
    | .window w =>
      let rel := t.adr.addr + firstPart t.parts - w.base
      if t.asked && w.num == win && w.ptSel == tableB && rel / 2 ^ 21 / 8 == line then
        d.inXlate p t w (match entries with
          | none => .refuse 5
          | some es => useEntry w rel (es.getD (rel / 2 ^ 21 % 8) 0) t.adr.write)
      else d
    | _ => d
  | none => d

/-! Arrival (R142, R143, R145, R146) -/

/-- An ADR, LCK or ULK arrives. -/
def Dev.inAddr (d : Dev) (L : Locks) (p : Nat) (shape : Shape) (b : AdrBody) : Dev :=
  let free (d : Dev) : Dev := if shape = .ulk then d.masterRelease p else d
  match (d.port p).inOpen with
  | none =>
    let (t, d) := d.inTake p shape b
    ((d.note (.qpush (dieOf (d.chainTile p)) (8 + d.chainTile p % 8) [chainItem t.id])).modPort p fun o => { o with inOpen := some t }).inStart L p
  | some o =>
    if o.adr.tag = b.tag then free (d.inProto p)
    else if (o.adr.write && !o.gotLast) || (d.port p).inEarly.isSome then
      let e := (d.port p).inEarly
      let d := free ((d.modPort p fun o => { o with inEarly := none, inBad := false }).inProto p)
      match e with
      | none => d
      | some e => (if e.shape = .ulk then d.masterRelease p else d).inSend p (.berr e.adr.tag 8)
    else
      let bad := shape != .single && shape != .block || b.locked || o.shape == .lck || o.shape == .ulk || o.adr.locked
      if bad then
        let (id, d) := d.fresh
        (d.note (.qpush (dieOf (d.chainTile p)) (8 + d.chainTile p % 8) [chainItem id])).modPort p fun o =>
          { o with inEarly := some { id := id, adr := b, shape := shape, target := .answer true 8 }, inBad := true }
      else
        let (t, d) := d.inTake p shape b
        (d.note (.qpush (dieOf (d.chainTile p)) (8 + d.chainTile p % 8) [chainItem t.id])).modPort p fun o => { o with inEarly := some t, inBad := false }

/-- A DAT with ROLE 0 arrives. -/
def Dev.inDat (d : Dev) (L : Locks) (p : Nat) (b : DatBody) : Dev :=
  let o := d.port p
  let mine := o.inOpen.filter fun t => t.adr.tag == b.tag && t.adr.write
  match mine with
  | none => if o.inCut = some b.tag then d else d.txnEvent BB_TXN_EVENT.PROTOCOL p
  | some t =>
    let n := adrLen t.adr
    let got := t.data.length + b.data.length
    let whole := !t.adr.block || (b.data.length % 8 == 0 && !b.data.isEmpty)
    if t.gotLast || 8 * b.offset != t.data.length || decide (n < got) || (b.last && got != n) || !whole then d.inProto p
    else
      let t := { t with data := t.data ++ b.data, gotLast := b.last, poison := t.poison || b.poison }
      let d := d.modPort p fun o => { o with inOpen := some t }
      if b.last then d.inReady L p t else d

/-- An ADR, LCK or ULK with ROLE 1 belongs to no transaction in which the bridge is initiator (R133, R147). See log entry 24. -/
def Dev.outOdd (d : Dev) (p tag : Nat) : Dev :=
  match d.outHit p tag with
  | .none => d.stray p
  | _ => d.protoOut p

/-- A packet as the link hands it on, once it is accepted. -/
def Dev.onPacket (d : Dev) (p lseq : Nat) (f : Dev → Dev) : Dev :=
  let (ok, d) := d.linkAccept p lseq
  if ok then f d else d

/-- An ADR that the link accepted. -/
def Dev.rxAdr (d : Dev) (L : Locks) (p : Nat) (b : AdrBody) : Dev :=
  if b.role = 1 then d.outOdd p b.tag else d.inAddr L p (if b.block then .block else .single) b

/-- An LCK that the link accepted: a single with LOCKED = 1 (R134). -/
def Dev.rxLck (d : Dev) (L : Locks) (p : Nat) (b : AdrBody) : Dev :=
  if b.role = 1 then d.outOdd p b.tag else d.inAddr L p .lck { b with write := false, block := false, locked := true }

/-- A final response that the link accepted, sorted by ROLE (R133): one with ROLE 0 belongs to no transaction in which the bridge is target,
and is discarded as a protocol violation. See log entry 24. -/
def Dev.rxFinal (d : Dev) (p role : Nat) (f : Dev → Dev) : Dev :=
  if role = 1 then f d else d.txnEvent BB_TXN_EVENT.PROTOCOL p

/-- A ULK that the link accepted (R149). -/
def Dev.rxUlk (d : Dev) (L : Locks) (p role tag : Nat) : Dev :=
  if role = 1 then d.outOdd p tag else d.inAddr L p .ulk { tag := tag, write := false, block := false, locked := true, size := 0, am := 0, addr := 0 }

/-- A DAT that the link accepted, sorted by ROLE (R133). -/
def Dev.rxData (d : Dev) (L : Locks) (p : Nat) (b : DatBody) : Dev := if b.role = 1 then d.rxDat p b else d.inDat L p b

end Sys2Proof.Machine
end

