-- ==== Sys2Proof/Machine/Boot.lean ====
section
/-!
DEFINITION. Start-up (spec/17): package resets and what survives them (R418, R412), the boot steps with their methods (R420 to R427), failed
starts (R428), the records of a start (R436 to R438), presets and locks of the flash header (R431, R433).
-/

namespace Sys2Proof.Machine

/-! Package reset (R418) -/

/-- Is the package held in reset: PKG_RESET_N asserted, or a rail low (R404)? -/
def Dev.inReset (d : Dev) : Bool := d.fen.asserted || !d.fen.low.isEmpty

/-- Is a start under way or stopped short of BS19? -/
def Dev.starting (d : Dev) : Bool := !d.inReset && (d.fen.hung.isSome || d.fen.failed.isSome)

/-- A flash command that a reset cuts short leaves unknown bytes in its sector. See log entry 44. -/
def Dev.cutFlash (d : Dev) (x : Nat) : Dev :=
  match d.flashWindow x with
  | some (op, s) =>
    if op = 1 then d
    else
      let (bs, d) := Dev.drawBytes 1024 d
      d.flashPut x (4096 * s) bs
  | none => d

/-- What a port's power stage keeps over a reset: the pin, and whether its rail is below 2 V. -/
def keptMag (m : MagPort) : MagPort := { present := m.present, low := m.low }

/-- The package enters reset with a cause (reason, rail, die): registers and units as after reset; the flashes, pins, the retained
storage of the fens while VDD_FEN is in range and the counters of the model stay. PKG_ALERT_N is let go with the alerts (R406). -/
def Dev.packageReset (d : Dev) (cold : Bool) (cause : Nat × Nat × Nat) : Dev :=
  let d := (d.cutFlash 0).cutFlash 1
  let n : Dev := { variant := d.variant }
  let n := { n with flash := d.flash, banks := d.banks, scanIr := d.scanIr, nextId := d.nextId, free := d.free, out := d.out,
                    notes := d.notes, hist := if cold then [] else d.hist, heldRecs := if cold then [] else d.heldRecs,
                    failedStarts := if cold then [] else d.failedStarts,
                    fen := { d.fen with cold := d.fen.cold || cold, cause := some cause, hung := none, failed := none,
                                        ahead := if cold then 0 else d.fen.ahead, noWrite := 0 } }
  let n := if d.dies.any fun x => d.flag PWR_TEMP.ALERT x then n.emit (.alert false) else n
  let n := d.dies.foldl (fun (n : Dev) x => n.modPx x fun p => { p with perst := (d.px x).perst }) n
  (d.magPorts.map fun e => e.1.a).foldl (fun (n : Dev) p =>
    let m := d.mp p
    let was := mpPins (d.mpState p) m.low
    let n := n.modMp p fun _ => keptMag m
    let n := if was.1 then n.emit (.gate p false) else n
    if !m.low && !was.2 then n.emit (.dsch p true) else n) n

/-! Steps (R420) -/

def bootOptional (s : Nat) : Bool := s == 2 || s == 10 || s == 13 || s == 14 || s == 15
def bootHasAlt (s : Nat) : Bool := !(s == 10 || s == 13 || s == 14 || s == 15)
def bootLead (s : Nat) : Bool := s == 10 || s == 11 || s == 13 || s == 14 || s == 15 || s == 17 || s == 19

/-- The flash die that serves reads of the header, presets and EQ store. -/
def Dev.flashDie (d : Dev) : Nat := if d.hasFlash 0 && d.inService 0 then 0 else 1

/-- Dies on which a step runs. -/
def Dev.bootDies (d : Dev) (s : Nat) : List Nat :=
  let all := d.dies.filter fun x => d.inService x
  if bootLead s then [d.lead.lead]
  else if s = 6 then all.filter fun x => decide (x ≤ 1)
  else if s = 7 || s = 8 then all.filter fun x => d.hasFlash x
  else all

/-! Records (R436 to R438) -/

/-- A record held by a die's fen: at most 32 on a die without a flash (R437). -/
def Dev.holdRec (d : Dev) (x : Nat) (r : LedgerRec) : Dev :=
  let l := d.heldRecs.get [] ⟨x, 0, 0⟩
  if 2 ≤ x ∧ 32 ≤ l.length then d.bump MC_BOOT_STAT.LOST x
  else
    let (t, d) := d.draw
    d.keepRec x { r with boot := d.fen.ahead, time := t }

/-- A record of this start: held until BS07 has given the start its number. -/
def Dev.bootRec (d : Dev) (x : Nat) (r : LedgerRec) : Dev :=
  if d.reg .MC_BOOT_COUNT x = 0 then d.holdRec x r else d.ledgerWrite r

/-- Held records of a die without a flash go to the fen of D0, or of D1 where D0 is left out. -/
def Dev.sendHeld (d : Dev) (x : Nat) : Dev :=
  if x ≤ 1 then d
  else
    let y := if d.inService 0 then 0 else 1
    let l := d.heldRecs.get [] ⟨x, 0, 0⟩
    { d with heldRecs := (d.heldRecs.set [] ⟨y, 0, 0⟩ (d.heldRecs.get [] ⟨y, 0, 0⟩ ++ l)).set [] ⟨x, 0, 0⟩ [] }

/-- The fens note the cause of the reset before a start, of the start that it ended (R438). -/
def Dev.noteCause (d : Dev) : Dev :=
  let (t, d) := d.draw
  let c := d.fen.cause.getD (1, 0, 0)
  d.keepRec (if d.inService 0 then 0 else 1)
    { kind := 5, die := c.2.2, reason := c.1, boot := d.fen.ahead - 1, time := t,
      detail := if c.1 = 3 then [c.2.1, c.2.2, 0] else [0, 0, 0] }

/-- Both ledgers take the causes of the resets since the last BS07, START and the held records, numbered on from the ledger's highest BOOT
`found` (R436 to R438); where no flash accepts them they stay held. -/
def Dev.flushHeld (d : Dev) (found : Nat) : Dev :=
  let new := found + d.fen.ahead
  let put (d : Dev) (r : LedgerRec) : Dev := d.ledgerDies.foldl (fun d x => d.ledgerAppend x r) d
  let held := (d.heldRecs.get [] ⟨0, 0, 0⟩ ++ d.heldRecs.get [] ⟨1, 0, 0⟩).map fun r => { r with boot := found + r.boot }
  let (t, d) := d.draw
  let mask := d.dies.foldl (fun m x => if d.inService x then m ||| 2 ^ x else m) 0
  let start : LedgerRec := { kind := 1, boot := new, time := t, detail := [(Config.ledgerVariant d.n).toNat, mask, 0] }
  let none_ := d.ledgerDies.all d.refuses
  let d := ((held.filter fun r => r.kind == 5) ++ start :: held.filter fun r => r.kind != 5).foldl put d
  let d := { d with fen := { d.fen with boot := new } }
  let d := if none_ then d.keepRec (d.ledgerDies.headD 0) { start with boot := d.fen.ahead }
    else { d with heldRecs := (d.heldRecs.set [] ⟨0, 0, 0⟩ []).set [] ⟨1, 0, 0⟩ [], fen := { d.fen with ahead := 0 } }
  d.dies.foldl (fun d x => d.setReg .MC_BOOT_COUNT x 0 (BitVec.ofNat 32 new)) d

/-! History (R425, R426) -/

/-- The outcome that the records of one step on one die in one start show; an open start record counts as a failure unless the start was
cut by PKG_RESET_N (R428). -/
def outcomeOf (rs : List LedgerRec) (external : Bool) : StepOutcome :=
  let has (kind method : Nat) : Bool := rs.any fun r => r.kind == kind && r.method == method
  let isOpen (method : Nat) : Bool := has 2 method && !has 3 method && !has 4 method && !external
  if has 4 1 || isOpen 1 then .alternateFailed
  else if has 3 1 then .alternate
  else if has 4 0 || isOpen 0 then .primaryFailed
  else if has 3 0 then .primary
  else if has 3 2 then .skipped
  else .none

/-- The outcome of a step on a die in a start by the ledger. -/
def ledgerOutcome (rs : List LedgerRec) (boot x s : Nat) : StepOutcome :=
  let mine := rs.filter fun r => r.boot == boot
  outcomeOf (mine.filter fun r => (r.kind == 2 || r.kind == 3 || r.kind == 4) && r.die == x && r.step == s)
    (mine.any fun r => r.kind == 5 && r.reason == 2)

/-- Consecutive starts, the latest first, in which the alternate was used, up to 16. -/
def altCount (rs : List LedgerRec) (x s : Nat) : Nat → Nat → Nat
  | 0, _ => 0
  | k + 1, b => if ledgerOutcome rs b x s = .alternate then altCount rs x s k (b - 1) + 1 else 0

def Dev.stepHist (d : Dev) (x s : Nat) : StepHist := d.hist.get {} ⟨x, s, 0⟩

/-- The method of a step (0 primary, 1 alternate, 2 skipped) from its history. -/
def methodFor (s : Nat) (h : StepHist) : Nat :=
  match h.outcome with
  | .none | .primary | .skipped => 0
  | .primaryFailed => if bootHasAlt s then 1 else 2
  | .alternate => if h.altRuns < 16 then 1 else 0
  | .alternateFailed => if bootOptional s then 2 else 0

/-- The method that a step takes on a die in this start: BS00 to BS06 by the fen's storage, the others by the ledger. See log entry 43. -/
def Dev.bootMethod (d : Dev) (x s : Nat) : Nat :=
  if s ≤ 6 then if d.fen.cold then 0 else methodFor s (d.stepHist x s)
  else
    let rs := d.ledgers
    let top := rs.foldl (fun m r => max m r.boot) 0
    let prev := if d.reg .MC_BOOT_COUNT x = 0 then top + d.fen.ahead - 1 else d.fen.boot - 1
    methodFor s { outcome := ledgerOutcome rs prev x s, altRuns := altCount rs x s 16 prev }

/-- The outcome of a step kept by the fen. -/
def Dev.setHist (d : Dev) (x s : Nat) (o : StepOutcome) : Dev :=
  let runs := if o = .alternate then (d.stepHist x s).altRuns + 1 else if o = .none then (d.stepHist x s).altRuns else 0
  { d with hist := d.hist.set {} ⟨x, s, 0⟩ { outcome := o, altRuns := runs } }

/-! What the steps do -/

/-- A preset record applied (R433): unit, form, lock; whether its register took it. -/
def Dev.presetOne (d : Dev) (L : Locks) (off : Nat) (v : Word) : Bool × Dev :=
  let s : Src := { path := 8 + d.lead.lead }
  let (ans, d) := d.protCheck (d.srcReq s .ctrl off 4 1)
  if ans.denied then (false, d)
  else
    match writeReason off 4 15 with
    | some r => (false, d.accErr s true r off 4)
    | none =>
      let (r, d) := d.writeCourse L s off v 255
      match r with
      | some r => (false, d.accErr s true r off 4)
      | none => (true, d)

/-- BS14: the records in flash order; a count or a CRC that does not match applies none. -/
def Dev.presets (d : Dev) (L : Locks) : Bool × Dev :=
  match d.header d.flashDie with
  | none => (true, d)
  | some h =>
    let n := bitsOf (h.getD 3 0) 15 0
    let bs := d.flashBytes d.flashDie 0xA0000 (8 * min n 49152)
    if 49152 < n || crc32 bs != h.getD 4 0 then (false, d)
    else
      let ws := wordsLE bs
      (List.range n).foldl (fun (a : Bool × Dev) k =>
        let r := a.2.presetOne L (bitsOf (ws.getD (2 * k) 0) 26 0) (ws.getD (2 * k + 1) 0)
        (a.1 && r.1, r.2)) (true, d)

/-- BS15: the locks that LOCK_MASK names (R431). -/
def Dev.headerLocks (d : Dev) : Dev :=
  match d.header d.flashDie with
  | none => d
  | some h =>
    let m := (h.getD 5 0).toNat
    let up := d.dies.filter fun x => d.inService x
    let d := if m.testBit 0 then d.note (.lock (2 ^ d.n - 1) none none) else d
    let d := if m.testBit 1 then up.foldl (fun d x => d.note (.lock 0 (some x) none)) d else d
    if m.testBit 2 then (up.flatMap tilesOf).foldl (fun d p => d.note (.lock 0 none (some p))) d else d

/-- A die takes the image it has loaded. -/
def Dev.takeImage (d : Dev) (x image sync : Nat) : Dev :=
  ((d.setFld MC_BOOT_STAT.IMAGE x 0 image).setFld MC_ROLE.IMAGE x 0 image).setFld MC_ROLE.SYNC_LEVEL x 0 sync

/-- BS08 on a flash die: the image passes to the dies without a flash from the lowest flash die. -/
def Dev.loadImage (d : Dev) (x image : Nat) : Bool × Dev :=
  match d.imageSync x image with
  | none => (false, d)
  | some sync =>
    let d := d.takeImage x image sync
    (true, if x = d.flashDie then (d.dies.filter fun y => !d.hasFlash y).foldl (fun d y => d.takeImage y image sync) d else d)

/-- The election of BS09: the lowest controller that runs leads; controllers of another level observe (R361). See log entry 10. -/
def Dev.elect (d : Dev) : Dev :=
  match d.dies.find? fun x => d.inService x && d.fld MC_ROLE.ROLE x != 0 with
  | none => { d with fen := { d.fen with failed := some none } }
  | some l =>
    let d := { d with lead := { lead := l } }
    let sync := d.fld MC_ROLE.SYNC_LEVEL l
    let mask := d.dies.foldl (fun m x => if d.inService x then m ||| 2 ^ x else m) 0
    let d := d.dies.foldl (fun d x =>
      let d := d.setFld MC_ROLE.HEALTHY x 0 mask
      if x = l then d.setFld MC_ROLE.ROLE x 0 3
      else if d.fld MC_ROLE.ROLE x = 1 && d.fld MC_ROLE.SYNC_LEVEL x != sync then d.setFld MC_ROLE.ROLE x 0 2 else d) d
    d.roleSync

/-- What a step does by a method, with what the hardware finds (BootFact); false where it detects a failure. See log entry 43. -/
def Dev.bootDo (d : Dev) (L : Locks) (s x method detail : Nat) : Bool × Dev :=
  let ok (d : Dev) : Bool × Dev := (true, d)
  match s with
  | 1 =>
    let (v, d) := if method = 0 then (detail, d) else d.draw
    ok (d.setFld CLK_FIO_CAL.KHZ x 0 v)
  | 2 =>
    let d := d.setFld CLK_STAT.XB_PRESENT x 0 (if detail = 1 then 0 else 1)
    let d := (d.startPll x 4).setPll x 4 psLocked
    let k := if method = 0 then 2 else 3
    let d := ((d.startPll x k).setPll x k psLocked).setRoot x (k - 2)
    ok ((d.setFld DIE_SVC_STAT.PLL_ROOT x 0 (k - 2)).syncOk x)
  | 3 =>
    if method = 0 then
      let m := detail % 2 ^ 96
      let d := d.setBanks x m
      ok (if m = 0 then d else d.bootRec x { kind := 7, die := x, detail := [m % 2 ^ 32, m / 2 ^ 32 % 2 ^ 32, m / 2 ^ 64 % 2 ^ 32] })
    else ok (d.setBanks x (d.bankMask x))
  | 5 =>
    ok ((List.range 4).foldl (fun d k => if detail.testBit k && method = 1 then d else d.morTrain x k (!detail.testBit k)) d)
  | 6 =>
    let d := d.setFld MC_FLASH_STAT.PRESENT x 0 1
    ok ((d.setFld MC_FLASH_STAT.SFDP x 0 (if method = 0 then 1 else 0)).setFld MC_FLASH_STAT.SIZE_LOG2 x 0 (max 24 detail))
  | 7 =>
    let d := { d with fen := { d.fen with noWrite := d.fen.noWrite ||| detail % 4 } }
    let d := d.setFld MC_FLASH_STAT.FILL x 0 (d.ledgerNext x)
    if d.reg .MC_BOOT_COUNT x = 0 then
      let d := [0, 1].foldl (fun d y => if d.hasFlash y && d.inService y then d.setFld MC_FLASH_STAT.FILL y 0 (d.ledgerNext y) else d) d
      let rs := if method = 0 then d.ledgers else match d.ledger 0 with | [] => d.ledger 1 | l => l
      ok (d.flushHeld (rs.foldl (fun m r => max m r.boot) 0))
    else ok d
  | 8 => d.loadImage x (if method = 0 then d.markedImage else 1 - d.markedImage)
  | 9 =>
    ok (if method = 0 then d.setFld MC_ROLE.ROLE x 0 1
      else { d with mcLoad := d.mcLoad.set none ⟨x, 0, 0⟩ (some (d.fld MC_BOOT_STAT.IMAGE x, false)) })
  | 10 =>
    match d.header d.flashDie with
    | none => ok d
    | some h => if bitsOf (h.getD 2 0) 15 0 = 0xFFFF then ok d else ok (d.dies.foldl (fun d y => d.cfgPut y 0x2C (h.getD 2 0)) d)
  | 12 =>
    let d := d.modClk x fun c => { c with armed := true }
    ok (if method = 0 then d else d.setFld CLK_CTL.BAND x 0 0x20)
  | 13 =>
    match d.eqHalf with
    | none => ok d
    | some h => ok { d with eq := (d.eqRead d.flashDie h).foldl (fun m e => Store.set [] e.1 e.2 m) d.eq }
  | 14 => d.presets L
  | 15 => ok d.headerLocks
  | 17 =>
    if d.variant = .ez8 then ok ((d.dies.filter fun y => d.inService y).foldl (fun d y => d.sealCommit y) d)
    else (d.dies.all fun y => d.fld DIE_PROT_STAT.FAILED y == 0, d)
  | 19 =>
    if method = 0 && d.ledgerDies.all d.refuses then (false, d) else
    let d := { d with failedStarts := [], fen := { d.fen with cold := false, cause := none } }
    let d := d.fen.leftOut.foldl (fun d y => d.ledgerWrite { kind := 10, die := y }) d
    ok ((d.dies.filter fun y => d.inService y).foldl (fun d y => (d.setFld MC_BOOT_STAT.FAILED_STARTS y 0 0).setFld MC_BOOT_STAT.DONE y 0 1) d)
  | _ => ok d

/-! The course of a start (R425, R427, R428) -/

/-- Has the start stopped? -/
def Dev.bootStopped (d : Dev) : Bool := d.fen.hung.isSome || d.fen.failed.isSome

/-- A start fails; a die that has stopped four in a row by a required step is left out of the next (R428). -/
def Dev.startFails (d : Dev) (x : Option Nat) : Dev :=
  let d := { d with fen := { d.fen with hung := none, failed := some x } }
  match x with
  | none => { d with failedStarts := [] }
  | some x =>
    let k := d.failedStarts.get 0 ⟨x, 0, 0⟩ + 1
    let d := ({ d with failedStarts := Store.set 0 ⟨x, 0, 0⟩ k [] } : Dev).setFld MC_BOOT_STAT.FAILED_STARTS x 0 (min k 15)
    if k < 4 then d
    else if d.dies.any fun y => y != x && !d.fen.leftOut.contains y then
      { d with fen := { d.fen with leftOut := (d.fen.leftOut.filter fun y => y != x) ++ [x] }, failedStarts := [] }
    else d.emit (.alert true)

/-- The registers of the dies on which a step's method is shown. -/
def Dev.markStep (d : Dev) (s x : Nat) (r : RegId) : Dev :=
  (if bootLead s then d.dies else [x]).foldl (fun d y => d.setReg r y 0 (d.reg r y ||| BitVec.ofNat 32 (2 ^ s))) d

/-- A step without a method left: skipped where it is optional; it stops the start where it is required, but for BS06 while the other
flash may answer. -/
def Dev.stepLost (d : Dev) (s x : Nat) : Dev :=
  if bootOptional s then
    ((d.markStep s x .MC_BOOT_SKIP).bootRec x { kind := 3, step := s, die := x, method := 2 })
  else if s = 6 && (if x = 0 then d.inService 1 else d.hasFlash 0) then d
  else d.startFails (some x)

/-- One method of a step carried out: DONE or FAIL with REASON CHECK. See log entry 43. -/
def Dev.tryMethod (d : Dev) (L : Locks) (s x method detail : Nat) (fails : Bool) : Bool × Dev :=
  let d := d.bootRec x { kind := 2, step := s, die := x, method := method }
  let d := if method = 1 then d.markStep s x .MC_BOOT_ALT else d
  let (good, d) := if fails then (false, d) else d.bootDo L s x method detail
  if good then
    let d := (d.bootRec x { kind := 3, step := s, die := x, method := method }).setHist x s (if method = 1 then .alternate else .primary)
    (true, if s = 5 then d.sendHeld x else d)
  else
    let d := if s = 19 && method = 0 then
        (d.dies.filter fun y => d.hasFlash y).foldl (fun d y => (d.setFld MC_FLASH_STAT.WRITE_ERR y 0 1).bootEvent y MC_FLASH_STAT.WRITE_ERR) d
      else d.bootRec x { kind := 4, step := s, die := x, method := method, reason := 1 }
    (false, d.setHist x s (if method = 1 then .alternateFailed else .primaryFailed))

/-- A step on a die. See log entry 43. -/
def Dev.runStep (d : Dev) (L : Locks) (hw : List BootFact) (s x : Nat) : Dev :=
  if d.bootStopped then d
  else
    let f := (hw.find? fun f => f.die == x && f.step == s).getD { die := x, step := s }
    let method := d.bootMethod x s
    let d := (if bootLead s then d.dies else [x]).foldl (fun d y => d.setFld MC_BOOT_STAT.STEP y 0 s) d
    let d := if d.stepHist x s = {} then d else d.setHist x s .none
    if method = 2 then (d.setHist x s .skipped).stepLost s x
    else if f.hangs then
      let d := d.bootRec x { kind := 2, step := s, die := x, method := method }
      { d with fen := { d.fen with hung := some (x, s, method) } }
    else if method = 1 then
      let (good, d) := d.tryMethod L s x 1 f.detail f.altFails
      if good then d else d.stepLost s x
    else
      let (good, d) := d.tryMethod L s x 0 f.detail f.fails
      if good then d
      else if bootHasAlt s then
        let (good, d) := d.tryMethod L s x 1 f.detail f.altFails
        if good then d else d.stepLost s x
      else d.stepLost s x

/-- A die left out holds no running state: its items are homed as if it had been lost before start-up (R35). -/
def Dev.leaveOut (d : Dev) (x : Nat) : Dev :=
  let d := { d with lost := d.lost ++ [x] }
  (d.passItems x (((d.mirror x).filter d.inService).getD ((d.dies.find? d.inService).getD x))).nameMirrors

/-- The start from BS00, as far as it goes. See log entry 10. -/
def Dev.start (d : Dev) (L : Locks) (hw : List BootFact) : Dev :=
  let out := if d.fen.cold then [] else d.fen.leftOut.filter fun x => !d.fen.readmit.contains x
  let d := { d with fen := { d.fen with leftOut := out, readmit := [], ahead := d.fen.ahead + 1 }, lost := [], homes := [], mirrors := [] }
  let d := (out.foldl Dev.leaveOut d).noteCause
  let d := { d with lead := { lead := (d.dies.find? fun x => d.inService x).getD 0 } }
  let d := d.dies.foldl (fun d x =>
    (d.setFld MC_BOOT_STAT.COLD x 0 (if d.fen.cold then 1 else 0)).setFld MC_BOOT_STAT.FAILED_STARTS x 0
      (min (d.failedStarts.get 0 ⟨x, 0, 0⟩) 15)) d
  (List.range 20).foldl (fun d s =>
    if d.bootStopped then d
    else
      let d := (d.bootDies s).foldl (fun d x => d.runStep L hw s x) d
      if s = 9 && !d.bootStopped then d.elect else d) d

/-- Cells that the board's flashes hold beside what the bridge wrote. See log entry 6. -/
def Dev.boardFlash (d : Dev) (board : List (Nat × Nat × Byte)) : Dev :=
  board.foldl (fun d c => if c.1 ≤ 1 ∧ c.2.1 < 2 ^ 24 then d.flashPut c.1 c.2.1 [c.2.2] else d) d

/-- PKG_RESET_N asserted, or the rails' first rise (R418). -/
def Dev.assertReset (d : Dev) (cold : Bool) : Dev :=
  let d := d.packageReset cold (if cold then 1 else 2, 0, 0)
  { d with fen := { d.fen with asserted := true } }

/-- PKG_RESET_N released: the start begins unless a rail holds the package. -/
def Dev.releaseReset (d : Dev) (L : Locks) (board : List (Nat × Nat × Byte)) (hw : List BootFact) : Dev :=
  if !d.fen.asserted then d
  else
    let d := ({ d with fen := { d.fen with asserted := false } } : Dev).boardFlash board
    if d.fen.low.isEmpty then d.start L hw else d

/-- A step exceeds its limit (R427). -/
def Dev.stepTimeout (d : Dev) (x : Nat) (reason : Nat := 2) : Dev :=
  match d.fen.hung with
  | some (y, s, m) =>
    if x = y then
      let d := (d.bootRec y { kind := 4, step := s, die := y, method := m, reason := reason }).setHist y s (if m = 1 then .alternateFailed else .primaryFailed)
      d.startFails (if reason = 2 && !bootOptional s then some y else none)
    else d
  | none => d

/-- Has a start failed that no reset has followed yet? -/
def Dev.mayRestart (d : Dev) : Bool := d.fen.failed.isSome && !d.inReset

/-- The fen makes a package reset after a failed start. -/
def Dev.restart (d : Dev) (L : Locks) (hw : List BootFact) : Dev :=
  if d.mayRestart then (d.packageReset false (4, 0, 0)).start L hw else d

/-- A rail of a die falls (R404): a start that had not reached BS19 fails with REASON RAIL (R428). -/
def Dev.railLow (d : Dev) (x rail : Nat) : Dev :=
  let d := match d.fen.hung with
    | some (y, _, _) => d.stepTimeout y 3
    | none => d
  let d := d.packageReset false (3, rail, x)
  { d with fen := { d.fen with low := (d.fen.low.filter fun e => e != (x, rail)) ++ [(x, rail)] } }

/-- Every rail has been back within range for 1 ms. -/
def Dev.railsBack (d : Dev) (L : Locks) (board : List (Nat × Nat × Byte)) (hw : List BootFact) : Dev :=
  if d.fen.low.isEmpty then d
  else
    let d := ({ d with fen := { d.fen with low := [] } } : Dev).boardFlash board
    if d.fen.asserted then d else d.start L hw

end Sys2Proof.Machine
end

