-- ==== Sys2Proof/Machine/Margin.lean ====
section
/-!
DEFINITION. Lane margining at the receiver (R106): commands in the control words of the lanes, answers in their status words, an error count of
its own. Codes and layouts follow the PCI Express standard (log entry 8).
-/

namespace Sys2Proof.Machine

/-- A control or status word of a lane: receiver number, margin type, payload. -/
def marginWord (rx ty payload : Nat) : Nat := rx + 8 * ty + 256 * payload

/-- What a report command reads of the figures of R106: the capability bits, steps, offsets, sample count, lanes less one. -/
def marginReport (code : Nat) : Option Nat :=
  match code with
  | 0x88 => some 0x17
  | 0x89 => some 32
  | 0x8A => some 16
  | 0x8B => some 20
  | 0x8C => some 15
  | 0x8D => some 0
  | 0x8E => some 0
  | 0x8F => some Config.marginSamples.toNat
  | 0x90 => some 7
  | _ => none

/-- Steps that a step command asks for and the most there are, by its margin type: timing or voltage, each direction apart. -/
def marginSteps (ty payload : Nat) : Option (Nat × Nat) :=
  if ty = 3 then some (payload % 64, 16) else if ty = 4 then some (payload % 128, 32) else none

/-- A margining command of a lane acts (R106): it is answered in the status word, for the port's own receiver 6 and, where it changes nothing of
a receiver, for receiver 0. Status of a step: 10b in progress, 11b refused. -/
def Margin.act (m : Margin) : Margin :=
  let rx := m.ctl % 8
  let ty := m.ctl / 8 % 8
  let payload := m.ctl / 256 % 256
  let answer (v : Nat) : Margin := { m with stat := marginWord rx ty v }
  if m.ctl.testBit 6 || !(rx == 0 || rx == 6) then m
  else if ty = 7 then answer payload
  else if ty = 1 then if rx = 6 then (marginReport payload).elim m answer else m
  else if ty = 2 then
    if 0xC0 ≤ payload then { answer payload with limit := payload % 64 }
    else if payload = 0x0F then { answer payload with errs := 0 }
    else if payload = 0x55 then { answer payload with errs := 0 }
    else m
  else
    match marginSteps ty payload with
    | some (k, most) => if rx = 6 then (if k ≤ most then { answer 0x80 with errs := 0 } else answer 0xC0) else m
    | none => m

/-- Does a step of the lane run? -/
def Margin.stepping (m : Margin) : Bool := (m.stat / 8 % 8 == 3 || m.stat / 8 % 8 == 4) && m.stat / 256 / 64 == 2

/-- The errors that a running step has seen since, a free value; past the limit the step ends with status 00b. AER does not count them (R106). -/
def Margin.count (m : Margin) (seen : Nat) : Margin :=
  let n := min 63 (m.errs + seen)
  { m with errs := n, stat := marginWord (m.stat % 8) (m.stat / 8 % 8) ((if m.limit < n then 0 else 0x80) + n) }

/-- A write of a lane's control word (R106). -/
def Dev.marginWrite (d : Dev) (x k en : Nat) (v : Word) : Dev :=
  let m := d.margin x k
  let m := { m with ctl := (merged (BitVec.ofNat 32 m.ctl) v (byteBits en &&& 0xFF7F#32)).toNat }
  d.setMargin x k (if d.marginReady x then m.act else m)

/-- A read of a lane's status word (R106). -/
def Dev.marginRead (d : Dev) (x k : Nat) : Dev :=
  let m := d.margin x k
  if m.stepping && d.marginReady x then
    let (v, d) := d.draw
    d.setMargin x k (m.count (v % 64))
  else d

end Sys2Proof.Machine
end

