-- ==== Sys2Proof/Machine/Entry.lean ====
section
/-!
DEFINITION. Requests received by a PCI Express port beside those of its window aperture (spec/03 R90, R92, R96): configuration requests, reads and
writes of BAR2, unsupported requests, and how requests that wait for credits or for a mortar route go on.
-/

namespace Sys2Proof.Machine

/-- May configuration requests be answered (R422): BS18 has completed on the die? -/
def Dev.cfgReady (d : Dev) (x : Nat) : Bool := (d.flag MC_BOOT_STAT.DONE x || d.fld MC_BOOT_STAT.STEP x == 19) && !(d.px x).flr

/-- May the link train: PERST_N released and BS04 complete (R422)? -/
def Dev.phyReady (d : Dev) (x : Nat) : Bool := !(d.px x).perst && (d.flag MC_BOOT_STAT.DONE x || decide (4 < d.fld MC_BOOT_STAT.STEP x))

/-- Function Level Reset (R105): as a hot reset, the link kept; the function answers Request Retry Status until it is ready. -/
def Dev.flr (d : Dev) (x : Nat) : Dev := (d.pxReset x).modPx x fun p => { p with flr := true }

/-- A reset of the port that takes the link with it (R105, R450). -/
def Dev.portReset (d : Dev) (x : Nat) : Dev := (d.pxReset x).pxDown x

/-- The LTR message that the bit LTR Mechanism Enable sends when it turns to 1 (R81). -/
def Dev.ltrOn (d : Dev) (x : Nat) : Dev :=
  if d.flag PX_LINK_STAT.UP x then d.emit (.ltr x (if (d.px x).ltrIdle then none else some 5)) else d

/-- A DWORD of configuration space after a write of its enabled bytes: status bits clear by 1, D1 and D2 are no states of the
function, what R81 fixes stays (log entry 8). -/
def Dev.cfgNext (d : Dev) (x off : Nat) (en : Nat) (v : Word) : Word :=
  let old := d.cfgStored x off
  let m := byteBits en
  match cfgWritable off with
  | some w => if off = 0x44 && (bitsOf v 1 0 == 1 || bitsOf v 1 0 == 2) then old else merged old v (w &&& m) &&& ~~~(v &&& m &&& cfgW1c off)
  | none => Config.standardWrite off old (merged old v m)

/-- A configuration write and what it sets in motion: FLR, D3hot (R104), messages and requests that may go now (R89, R99). -/
def Dev.cfgStore (d : Dev) (x off en : Nat) (v : Word) : Dev :=
  let old := d.cfgStored x off
  let new := d.cfgNext x off en v
  if let some k := marginLane off then d.marginWrite x k en v
  else if off = 0x78 && en.testBit 1 && v.getLsbD 15 then (d.cfgPut x off (putBits new 15 15 0)).flr x
  else
    let d := d.cfgPut x off new
    let d := if off = 0x104 && (d.px x).aerFirst.any (fun b => !new.getLsbD b) then d.modPx x fun p => { p with aerFirst := none } else d
    let d := if off = 0x44 && bitsOf old 1 0 != 3 && bitsOf new 1 0 == 3 then d.pxEvent PX_EVENT.D3HOT x else d
    let d := if off = 0x98 && !old.getLsbD 10 && new.getLsbD 10 then d.ltrOn x else d
    d.portResume x

/-- A configuration request that its port takes (R90, R92). -/
def Dev.cfgRequestNow (d : Dev) (x : Nat) (r : CfgReq) : Dev :=
  if !r.type0 then d.sendCpl x r.rid r.tag 0 .unsupported false []
  else if !d.cfgReady x then d.sendCpl x r.rid r.tag 0 .retry false []
  else if r.write then (d.sendCpl x r.rid r.tag 0 .success false []).cfgStore x r.off r.en (BitVec.ofNat 32 r.value)
  else
    let d := (marginLane r.off).elim d fun k => d.marginRead x k
    d.sendCpl x r.rid r.tag 0 .success false (bytesLE (d.cfgRead x r.off).toNat 4)

/-- A configuration request: it waits while the port withholds non-posted credits (R96, R358). -/
def Dev.cfgRequest (d : Dev) (x : Nat) (r : CfgReq) : Dev :=
  if d.waitsCredit x false then d.waitCredit x false (.cfg x r) else d.cfgRequestNow x r

/-- The kind and number of a BAR for its checks (R235, R450). -/
def oddKind : OddBar → PKind × Nat
  | .bar0 => (.ctrl, 0)
  | .bar2 => (.doorbell, 1)
  | .bar4 => (.aperture, 2)

/-- A request that no table entry performs (R90, R92): the unit's check of a target in a BAR comes first (R244). -/
def Dev.unsupportedNow (d : Dev) (s : Src) (posted : Bool) (at_ : Option OddTarget) : Dev :=
  let x := srcDie s
  let (denied, d) : Bool × Dev := match at_ with
    | some t => if d.takesBar x (oddKind t.bar).2 then let r := d.protCheck (d.srcReq s (oddKind t.bar).1 t.off t.len t.access); (r.1.denied, r.2) else (false, d)
    | none => (false, d)
  if posted then d.logPosted x denied else d.sendCpl x s.rid s.tag 0 (if denied then .abort else .unsupported) false []

/-- A request of a type that is not supported: it too waits for credits (R96). -/
def Dev.unsupported (d : Dev) (s : Src) (posted : Bool) (at_ : Option OddTarget) : Dev :=
  if d.waitsCredit (srcDie s) posted then d.waitCredit (srcDie s) posted (.odd s posted at_) else d.unsupportedNow s posted at_

/-! Doorbells and reads of BAR2 (R90, R294) -/

/-- A write to a ring's page of BAR2 (R90, R294): a doorbell in its one form, discarded otherwise. -/
def Dev.bar2WriteNow (d : Dev) (s : Src) (r off len en v : Nat) : Dev :=
  let x := srcDie s
  if !d.takesMem s 1 then d.logPosted x false
  else if s.poison then d.poisoned s true
  else
    let (ans, d) := d.protCheck (d.srcReq s .doorbell (4096 * r + off) len 1)
    if ans.denied || off != 0 || len != 4 || en % 16 != 15 then d.logPosted x true else d.doorbell r (v % 65536)

def Dev.bar2Write (d : Dev) (s : Src) (r off len en v : Nat) : Dev :=
  if d.waitsCredit (srcDie s) true then d.waitCredit (srcDie s) true (.bell s r off len en v) else d.bar2WriteNow s r off len en v

/-- A read of BAR2 that the unit allows brings zeros (R90, R243). See log entry 15. -/
def Dev.bar2ReadNow (d : Dev) (s : Src) (off len : Nat) : Dev :=
  if !d.takesMem s 1 then d.readCpl s off none .unsupported []
  else
    let (ans, d) := d.protCheck (d.srcReq s .doorbell off len 0)
    if ans.denied then d.readCpl s off none .abort [] else d.readCpl s off none .success (List.replicate len 0#8)

def Dev.bar2Read (d : Dev) (s : Src) (off len : Nat) : Dev :=
  if d.waitsCredit (srcDie s) false then d.waitCredit (srcDie s) false (.bellRead s off len) else d.bar2ReadNow s off len

/-! Requests that waited (R30, R36, R96) -/

/-- A request that has its credits is taken. -/
def Dev.take (d : Dev) (L : Locks) : Ingress → Dev
  | .direct s off op => d.directNow s off op
  | .write s off len en v at_ =>
    if d.regReach s off len then d.busWriteNow L s off len en v at_ else { d with awaiting := d.awaiting ++ [.write s off len en v at_] }
  | .read s off len => d.busReadNow L s off len
  | .bell s r off len en v => d.bar2WriteNow s r off len en v
  | .bellRead s off len => d.bar2ReadNow s off len
  | .cfg x r => d.cfgRequestNow x r
  | .odd s posted at_ => d.unsupportedNow s posted at_

/-- The first requests of a port that wait for credits are taken once it gives them: posted ones go past non-posted ones (R96). -/
def Dev.creditsBack (d : Dev) (L : Locks) (x : Nat) : Dev :=
  let p := d.px x
  match p.inP, p.inNp with
  | [], [] => d
  | i :: r, _ => if d.barred x true then d else (d.modPx x fun p => { p with inP := r }).take L i
  | [], i :: r => if d.barred x false then d else (d.modPx x fun p => { p with inNp := r }).take L i

/-- Register writes that waited for a mortar route are performed, in order of arrival (R40). -/
def Dev.routesBack (d : Dev) (L : Locks) : Dev :=
  let go (i : Ingress) : Bool := match i with
    | .write s off len _ _ _ => d.regReach s off len
    | _ => true
  let now := d.awaiting.filter go
  if now.isEmpty then d else now.foldl (fun d i => d.take L i) { d with awaiting := d.awaiting.filter fun i => !go i }

/-- What waited for a mortar route goes on (R30, R40): requests toward host memory and outcomes of requests, at every port, outcomes of host
requests, register writes. -/
def Dev.mortarBack (d : Dev) (L : Locks) : Dev :=
  let d := d.dies.foldl (fun d x => (d.reqArrive x).cplArrive x) d
  let go (n : Note) : Bool := match n with
    | .hostEnd r .. => r.from_.all fun a => d.reach r.die a
    | _ => true
  let now := d.stranded.filter go
  let d := if now.isEmpty then d else now.foldl Dev.note { d with stranded := d.stranded.filter fun n => !go n }
  d.routesBack L

end Sys2Proof.Machine
end

