-- ==== Sys2Proof/Machine/Settle.lean ====
section
/-!
DEFINITION. What follows from a command in the same step: the ends of work and of host requests reach whoever asked for them, and
everything that can go on does, until nothing changes. The queues of R259 that stand for lists of the engines are kept in step here.
-/

namespace Sys2Proof.Machine

/-! Notices -/

/-- DETAIL of a failed descriptor fetch (R314): as HOST_ERROR, 0x10 for poison. -/
def fetchDetail (ok abort poison timeout : Bool) : Nat :=
  if ok then 0 else if poison then 0x10 else if timeout then 8 else if abort then 4 else 1

/-- 64-bit values of a page line or of a refill. -/
def quadsOf (bs : List Byte) : List Nat := (List.range (bs.length / 8)).map fun k => natLE ((bs.drop (8 * k)).take 8)

/-- A host request ends: its asker hears of it. -/
def Dev.hostEnded (d : Dev) (r : HostReq) (tag : Nat) (ok abort poison timeout : Bool) (data : List Byte) : Dev :=
  match r.who with
  | .page x i => d.pageDone x i (if ok then some (quadsOf data) else none)
  | .poolState p i => d.poolStateDone p i (if ok then some (natLE data) else none)
  | .poolRefill p k => d.refillPiece p k ok data
  | .poolWrite .. => d
  | .ringFetch g => d.fetchDone g (fetchDetail ok abort poison timeout) data
  | .ringCpl _ => d
  | .mover g c k => d.moverHost g c k ok abort poison timeout data
  | .inbound w => d.inHost w r tag ok abort poison timeout data
  | .inPrefetch p w a => d.inPfHost p w a r tag ok abort poison timeout data
  | .tap t k => d.tapHost t k ok data
  | .tapLog _ => d
  | .evq | .evqBody => d
  | .none => d

/-- A write of the bridge has been issued: its asker hears of it. -/
def Dev.writeIssued (d : Dev) : Who → Dev
  | .poolWrite p i => d.poolWritten p i
  | .ringCpl r => d.cplIssued r
  | .tapLog t => d.tapLogged t
  | .tap t k => d.tapHost t k true []
  | .evq => d.evqWritten
  | .mover r c k => d.moverIssued r c k
  | _ => d

/-- A port has gone down (R160, R152, R189, R350). See log entry 23. -/
def Dev.portLost (d : Dev) (p : Nat) : Dev :=
  ((((d.outLost p).inLost p).irqPortDown p).pfDrop p (fun _ => true) 6).bondSync p

/-- Lane values of the first training of a port at a rate, saved as R434 gives. -/
def Dev.eqFirst (d : Dev) (p : Nat) : Dev :=
  let rate := (d.port p).link.rate
  if (List.range 8).any fun k => !(d.eq.get [] ⟨p, rate, k⟩).isEmpty then d
  else
    let lanes := (List.range 8).filter fun k => (d.fld BB_LANE_STAT.LOCK p).testBit k && !(d.fld BB_LANE_STAT.BAD p).testBit k
    (lanes.foldl (fun d k => d.eqAdapt p rate k) d).eqSave (dieOf p)

/-- Locks set by the commands of this step, over those before it. -/
def Locks.after (L : Locks) (ns : List Note) : Locks :=
  ns.foldl (fun L n => match n with
    | .lock copies die tile =>
      let L : Locks := (List.range 8).foldl (fun (L : Locks) x => if copies.testBit x then { L with pkg := L.pkg.setIfInBounds x true } else L) L
      let L : Locks := match die with | some x => { L with die := L.die.setIfInBounds x true } | none => L
      match tile with | some t => { L with tile := L.tile.setIfInBounds t true } | none => L
    | _ => L) L

def Note.isLock : Note → Bool
  | .lock .. => true
  | .unlock _ => true
  | _ => false

/-- One notice acted on. -/
def Dev.onNote (d : Dev) (L : Locks) : Note → Dev
  | .workEnd w ok status code data => d.blkEnd w ok status code data
  | .hostEnd r tag ok abort poison timeout data =>
    match r.from_ with
    | none => d.hostEnded r tag ok abort poison timeout data
    | some a =>
      if d.reach r.die a then (d.cross r.die a (fromHost r.die)).hostEnded r tag ok abort poison timeout data
      else { d with stranded := d.stranded ++ [.hostEnd r tag ok abort poison timeout data] }
  | .issued who => d.writeIssued who
  | .portDown p => d.portLost p
  | .portUp p fresh => (((if fresh then d.eqFirst p else d).irqPortUp p fresh).recalUp p).bondSync p
  | .portLeft p => ((d.flushRuns (d.listOf p) fun _ => true).pfDrop p (fun _ => true) 6).bondSync p
  | .sample kind num x start => d.monSample kind num x start
  | .poolEnd _ _ r c _ status handle => d.slotGot r c status handle
  | .tapPool t op status handle => d.tapPoolEnd t op status handle
  | .tapGot r c status => d.tapGot r c status
  | .tapDone r c status seq => d.tapDone r c status seq
  | .cfgWrite off v path => d.cfgWrite L off v path 255
  | .qpush x q items => d.modQueue x q fun s => items.foldl (QState.push (queueCap q)) s
  | .qover x q id => d.chainOver x q id
  | .pageIn p w b line es => d.inLine p w b line es
  | .inGo p => d.inStart L p
  | .lock .. | .unlock _ => d

/-- The next notice to act on; notices of locks stay for the end of the step. -/
def Dev.nextNote (d : Dev) : Option (Note × Dev) :=
  let r := takeFirst (fun n => !n.isLock) d.notes
  r.1.map fun n => (n, { d with notes := r.2 })

/-! What goes on by itself -/

/-- Mailboxes that are free take what they hold and answer what waits for them (R67, R288). -/
def Dev.mailPump (d : Dev) (L : Locks) : Dev :=
  (d.inTurn 0 id (d.mails.map fun e => e.1.a)).foldl (fun d path =>
    let d := d.mailNext path
    if (d.mail path).busy then d else d.mailReads L path) d

/-- Rings, mailboxes, waiting power faults and mortar packets, a handoff, waiting inbound accesses, and every port once.
See log entry 16. -/
def Dev.pump (d : Dev) (L : Locks) : Dev :=
  let d := ((d.ringPump).mailPump L).cfgReads L
  let d := d.dies.foldl (fun d x => ((d.mpJudge x).mortarTake x).creditsBack L x) (d.mortarBack L)
  let d := d.dies.foldl (fun d x => (List.range' 48 16).foldl (fun d q => d.tellOver x q) d) d
  let d := d.handoffTry L
  let d := d.semTidy
  let d := d.livePorts.foldl Dev.comeIn (d.livePorts.foldl Dev.endIdle (d.livePorts.foldl Dev.inPump d))
  let d := (d.livePorts.flatMap d.serving).foldl Dev.kick d
  d.livePorts.foldl Dev.linkIdle d

/-- Everything that follows, until nothing changes. See log entry 16. -/
def Dev.settleN (L : Locks) : Nat → Dev → Dev
  | 0, d => d
  | n + 1, d =>
    match d.nextNote with
    | some (k, e) => Dev.settleN L n (e.onNote (L.after e.notes) k)
    | none =>
      let e := d.pump (L.after d.notes)
      if e = d then d else Dev.settleN L n e

/-! Queues of the engines (R257, R259, R262) -/

/-- What a queue of the engines holds: waiting work of a tile, its inbound accesses, staged descriptors and completions of a mover.
See log entry 13. -/
def Dev.engineItems (d : Dev) (x q : Nat) : List (List Word) :=
  if q < 8 then (d.servedBy (8 * x + q)).flatMap fun p => (d.chainItems p).1
  else if q < 16 then (d.servedIn (8 * x + q - 8)).flatMap fun p => (d.chainItems p).2
  else if q < 32 then (d.moverRings x (q - 16)).flatMap fun r => (d.ring r).staged.map (·.2)
  else ((d.moverRings x (q - 32)).flatMap fun r => (d.ring r).cplq.map (·.1)).filter fun c => c.headD 0 != 0x50001500#32

/-- A queue takes what its engine holds: items gone count as taken, items it did not have as put in; the first items stand in the stages of the
command chain, each fallen forward as far as it goes (R256). See log entry 17. -/
def QState.sync (q : Nat) (s : QState) (items : List (List Word)) : QState :=
  let r := queueRow q
  { s with items := items, popped := (s.popped + (s.items.length - items.length)) % 65536,
           pushed := (s.pushed + (items.length - s.items.length)) % 65536, chain := items.take r.stages,
           rd := ptrAdd r.capacity (itemWords s.items - itemWords items) s.rd, wr := ptrAdd r.capacity (itemWords items - itemWords s.items) s.wr }

def Dev.syncQueues (d : Dev) : Dev :=
  d.dies.foldl (fun d x => (List.range 48).foldl (fun d q =>
    let items := d.engineItems x q
    if items.isEmpty && (d.queue x q).items.isEmpty then d else d.modQueue x q fun s => s.sync q items) d) d

/-- Steps that one command can cause at most; notices beyond them stay for the next command. See log entry 18. -/
def settleFuel : Nat := 2 ^ 32

def Dev.settle (d : Dev) (L : Locks) : Dev := (d.settleN L settleFuel).syncQueues

/-! The end of a command -/

/-- The locks after a command: set ones stay; the lock of a tile goes with its reset (R71, R357). -/
def Locks.close (L : Locks) (d : Dev) : Locks :=
  let L := L.after d.notes
  d.notes.foldl (fun L n => match n with
    | .unlock t => if d.fld TIL_SVC_STAT.STATE t = 3 then { L with tile := L.tile.setIfInBounds t false } else L
    | _ => L) L

/-- The clock branches that have run since the last microsecond, with those that a step has made run (R395). See log entry 53. -/
def Dev.ranAfter (b d : Dev) : Store Nat := (d.dies.foldl (fun d x => d.markRan x (d.branchMask x ||| b.branchMoved d x)) d).ran

/-- The state after a command whose effect on the device is `d`: locks taken, their notices gone; a part keeps its variant (R6). -/
def State.close (s : State) (d : Dev) : State :=
  { s with locks := s.locks.close d, dev := { d with notes := d.notes.filter fun n => !n.isLock, variant := s.dev.variant, ran := s.dev.ranAfter d, monHits := [] } }

end Sys2Proof.Machine
end

