-- ==== Sys2Proof/WellFormed.lean ====
section
/-!
DEFINITION. Which commands can reach the block: operands within the fields that carry them (`wf`), units within the variant (`present`).
No other command can arise from the spec's packets, requests and events (log entry 1).
-/

namespace Sys2Proof

/-! Operands -/

/-- Widths that a PCI Express link or an L0p change can have. -/
def isWidth (w : Nat) : Bool := w == 1 || w == 2 || w == 4 || w == 8

/-- The path exists (R62), and the fields of the request are in range. -/
def Src.wf (s : Src) : Bool :=
  s.path ≤ 16 && s.port < 64 && s.rid < 65536 && s.tag < 16384 && (!s.poison || s.path < 8) && (match s.pasid with | some p => decide (p < 2 ^ 20) | none => true)

def Src.present (s : Src) (n : Nat) : Bool :=
  if s.path < 8 then s.path < n else if s.path < 16 then s.path < 8 + n else s.port < 8 * n

/-- Fields of R133 and R134. -/
def AdrBody.wf (b : AdrBody) : Bool :=
  b.role < 2 && b.tag < 2 && b.size < 8 && b.am < 256 && b.addr < 2 ^ 48 && b.beatsM1 < 8192

/-- Fields of R136. -/
def DatBody.wf (b : DatBody) : Bool := b.role < 2 && b.tag < 2 && b.offset < 8192 && b.data.length ≤ 256

def Syn.wf (s : Syn) : Bool := s.lane < 8 && s.rxNext < 128

def FrameBad.wf : FrameBad → Bool
  | .codeViolation lane _ => lane < 8
  | .crc _ | .badLseq | .ebp => true

def CfgReq.wf (r : CfgReq) : Bool :=
  r.off < 4096 && r.off % 4 == 0 && r.en < 16 && r.value < 2 ^ 32 && r.rid < 65536 && r.tag < 16384

/-- A target within its BAR (R85). -/
def OddTarget.wf (t : OddTarget) : Bool :=
  1 ≤ t.len && t.len ≤ 4096 && (t.access == 0 || t.access == 1 || t.access == 3) &&
    t.off + t.len ≤ (match t.bar with | .bar0 => 2 ^ 27 | .bar2 => 2 ^ 22 | .bar4 => 2 ^ 40)

def PcieMsg.wf : PcieMsg → Bool
  | .setSlotPowerLimit v s => v < 256 && s < 4
  | .pmActiveStateNak | .pmTurnOff => true

/-- Entries of the interrupt map (R217). -/
def IrqEntry.wf : IrqEntry → Bool
  | .bbin p l => p < 64 && l < 8
  | .cls c => c < 64
  | .ring r => r < 1024

def IrqEntry.present (n : Nat) : IrqEntry → Bool
  | .bbin p _ => p < 8 * n
  | .cls _ | .ring _ => true

/-- Monitors of R387. -/
def ClockMon.wf : ClockMon → Bool
  | .mon k => k < 8
  | .loop t => t < 8

def MuxId.wf : MuxId → Bool
  | .portTx t => t < 8
  | .root | .pllA | .pllB | .bbPll | .fen => true

def MortarPkt.wf (p : MortarPkt) : Bool := p.src < 8 && p.dst < 8 && p.cls < 3 && p.words.length ≤ 80 &&
  (match p.words with | w :: _ => w.extractLsb' 28 4 != 0 | [] => false)

def MortarPkt.present (n : Nat) (p : MortarPkt) : Bool := p.src < n && p.dst < n

def BootFact.wf (b : BootFact) : Bool := b.die < 8 && b.step < 20

/-- What the board has in its boot flashes (R429): die, address, byte. -/
def boardWf (b : List (Nat × Nat × Byte)) : Bool := b.all fun e => e.1 < 2 && e.2.1 < 2 ^ 24

/-- Values of 64 bits that a read brought, at most `k`, none where the read failed. -/
def quads (k : Nat) : Option (List Nat) → Bool
  | none => true
  | some es => es.length ≤ k && es.all fun e => e < 2 ^ 64

/-- Offsets of the interrupt map tables (R217, R218). -/
def irqTable (off : Nat) : Bool := off % 4 == 0 && 0x30000 ≤ off && off < 0x34000

/-- Offsets of the rule sets, bindings and PROT_DEFAULT (R237). -/
def protTable (off : Nat) : Bool :=
  off % 4 == 0 && (off == 0x1000C || (0x10400 ≤ off && off < 0x10800) || (0x18000 ≤ off && off < 0x20000))

/-! Commands -/

/-- Operands within the fields that carry them. -/
def Instr.wf : Instr → Bool
  | .registerWrite src off len en v64 at_ => src.wf && off < 2 ^ 27 && len ≤ 4096 && en < 256 && v64 < 2 ^ 64 && at_ < 256
  | .pkgConfigApply die => die < 8
  | .registerReadReject src off len => src.wf && len ≤ 4096 && (off < 2 ^ 27 || (src.path < 8 && off < 2 ^ 27 + 2 ^ 22))
  | .rcFieldRead src off len => src.wf && off < 2 ^ 27 && len ≤ 4096
  | .pairLoRead src off len => src.wf && off < 2 ^ 27 && len ≤ 4096
  | .pkgLockSet src => src.wf
  | .dieLockSet src die => src.wf && die < 8
  | .tilLockSet src port => src.wf && port < 64
  | .scrubVisit die off => die < 8 && off < 2 ^ 27
  | .sealPassEnd die => die < 8
  | .sealCommit src at_ => src.wf && at_ < 256
  | .accErrInfoRead src die sub len => src.wf && die < 8 && 1 ≤ len && sub + len ≤ 4
  | .pcieConfigRequest die req => die < 8 && req.wf
  | .functionLevelReset die => die < 8
  | .flrReady die => die < 8
  | .outboundRead src off en => src.wf && src.path < 8 && off < 2 ^ 40 && 1 ≤ en.length && off + en.length ≤ 2 ^ 40 && en.length ≤ 4096
  | .outboundWrite src off bytes => src.wf && src.path < 8 && off < 2 ^ 40 && 1 ≤ bytes.length && off + bytes.length ≤ 2 ^ 40 && bytes.length ≤ 4096
  | .atomicOp src off _ size operand compare => src.wf && src.path < 8 && off < 2 ^ 40 && (size == 4 || size == 8) && operand < 256 ^ size && compare < 256 ^ size
  | .pcieUnsupportedRequest src _ at_ => src.wf && src.path < 8 && (match at_ with | some t => t.wf | none => true)
  | .pcieMessage die msg => die < 8 && msg.wf
  | .pcieVendorMessage die _ => die < 8
  | .pcieCompletionReceived die tag _ _ _ data => die < 8 && tag < 16384 && data.length ≤ 4096
  | .pcieCompletionTimeout die tag => die < 8 && tag < 16384
  | .npLimitExpiry die _ => die < 8
  | .holdExpiry die _ => die < 8
  | .pcieLinkUp die rate width _ => die < 8 && (1 ≤ rate && rate ≤ 6) && isWidth width
  | .pciePerst die => die < 8
  | .pcieHotReset die => die < 8
  | .pcieLinkDown die => die < 8
  | .pcieLinkRetrain die rate width => die < 8 && (1 ≤ rate && rate ≤ 6) && isWidth width
  | .l0pNarrow die => die < 8
  | .l0pWiden die => die < 8
  | .l0pPartnerRequest die width => die < 8 && isWidth width
  | .ltrIdleTimeout die => die < 8
  | .bbFrameBad port kind => port < 64 && kind.wf
  | .repeatRequestTimer port => port < 64
  | .idlReceived port _ rxNext => port < 64 && rxNext < 128
  | .ackIdlInterval port => port < 64
  | .skpInterval port => port < 64
  | .replayStallTimeout port => port < 64
  | .synReceived port lane syn => port < 64 && lane < 8 && syn.wf
  | .bbLaneLock port lane => port < 64 && lane < 8
  | .rateChangeIdleEnd port => port < 64
  | .eqAdaptDone port => port < 64
  | .detectRetry port => port < 64
  | .failedRetry port => port < 64
  | .retrainPartnerTimeout port => port < 64
  | .laneLockLoss port lane => port < 64 && lane < 8
  | .healthWindowEnd port => port < 64
  | .bbLinkEnable src port => src.wf && port < 64
  | .bbLinkDisable src port => src.wf && port < 64
  | .widen src port => src.wf && port < 64
  | .retrain src port => src.wf && port < 64
  | .adrReceived port lseq adr => port < 64 && lseq < 128 && adr.wf
  | .datReceived port lseq dat => port < 64 && lseq < 128 && dat.wf
  | .lckReceived port lseq adr => port < 64 && lseq < 128 && adr.wf
  | .ulkReceived port lseq h => port < 64 && lseq < 128 && h.role < 2 && h.tag < 2
  | .ackReceived port lseq h => port < 64 && lseq < 128 && h.role < 2 && h.tag < 2
  | .berrReceived port lseq h code => port < 64 && lseq < 128 && h.role < 2 && h.tag < 2 && code < 256
  | .rtyReceived port lseq h reason hint => port < 64 && lseq < 128 && h.role < 2 && h.tag < 2 && reason < 256 && hint < 256
  | .retryWaitEnd port => port < 64
  | .retryStartDecay port => port < 64
  | .unknownTypeDiscard port p => port < 64 && p.lseq < 128 && p.typ < 256 && !packetTypes.contains p.typ
  | .irqReceived port lseq _ _ level vector => port < 64 && lseq < 128 && level < 8 && vector < 256
  | .iakReceived port lseq level vector => port < 64 && lseq < 128 && level < 8 && vector < 256
  | .iakSend src port level => src.wf && port < 64 && level < 8
  | .busTimerExpiry port _ => port < 64
  | .quietPeriodEnd port => port < 64
  | .tgtLimitExpiry port => port < 64
  | .windowWrite src _ w word v at_ => src.wf && w < 4096 && v < 2 ^ 32 && at_ < 256 && word < 16
  | .windowDisable src _ w at_ => src.wf && w < 4096 && at_ < 256
  | .pageLineReadDone die _ entries => die < 8 && quads 8 entries
  | .tcInvalWindow src _ _ w at_ => src.wf && w < 4096 && at_ < 256
  | .tcInvalAll src at_ => src.wf && at_ < 256
  | .tcInvalPageOnly src _ _ w at_ => src.wf && w < 4096 && at_ < 256
  | .tcSwitch src group at_ => src.wf && group < 256 && at_ < 256
  | .wcHoldExpiry port _ => port < 64
  | .prefetchAgeExpiry port _ => port < 64
  | .tcPfdRead src die => src.wf && die < 8
  | .mireClear src _ w => src.wf && w < 4096
  | .semTake src n => src.wf && n < 64
  | .semGive src n => src.wf && n < 64
  | .semForce src n => src.wf && n < 64
  | .lockTimeout n => n < 64
  | .reservationExpiry n => n < 64
  | .irqEntryWrite src off v at_ => src.wf && off < 2 ^ 27 && v < 2 ^ 32 && at_ < 256 && irqTable off
  | .irqBboutPendRead src port level sub len => src.wf && port < 64 && level < 8 && 1 ≤ len && sub + len ≤ 4
  | .msixModExpiry entry => entry.wf
  | .nmiReceived die => die < 8
  | .nmiCauseRead src sub len => src.wf && 1 ≤ len && sub + len ≤ 4
  | .errRead src die => src.wf && die < 8
  | .eventArrive e => e.die < 8 && 1 ≤ e.words && e.words ≤ 4 &&
    (match e.upset with | some (x, q, k) => x < 8 && q < 64 && k ≤ 8192 | none => true)
  | .evqRead src => src.wf
  | .evqHostRdWrite src v => src.wf && v < 65536
  | .protPendingWrite src off v at_ => src.wf && off < 2 ^ 27 && v < 2 ^ 32 && at_ < 256 && protTable off
  | .protCommit src at_ => src.wf && at_ < 256
  | .protDiscard src at_ => src.wf && at_ < 256
  | .protVioClear src u => src.wf && u < 256
  | .queueFlush src die q => src.wf && die < 8 && q < 64
  | .queueTailTimeout die q => die < 8 && q < 64
  | .queuePointerMismatch die q => die < 8 && q < 64
  | .poolConfigWrite src p word v at_ => src.wf && p < 256 && v < 2 ^ 32 && at_ < 256 && word < 24
  | .poolEnable src p at_ => src.wf && p < 256 && at_ < 256
  | .poolDisable src p at_ => src.wf && p < 256 && at_ < 256
  | .poolGet src p owner => src.wf && p < 256 && owner < 8
  | .poolShare src p owner newOwner => src.wf && p < 256 && owner < 8 && newOwner < 8
  | .poolRelease src p owner => src.wf && p < 256 && owner < 8
  | .poolFree src p owner => src.wf && p < 256 && owner < 8
  | .poolCmdBadOp src op p => src.wf && op < 16 && p < 256 && (op == 0 || 4 < op)
  | .poolRefillDone p entries => p < 256 && quads 64 entries
  | .poolStateReadDone p _ entry => p < 256 && (entry.all fun e => e < 2 ^ 64)
  | .ringConfigWrite src ring word v at_ => src.wf && ring < 1024 && v < 2 ^ 32 && at_ < 256 && word < 6
  | .ringEnable src ring at_ => src.wf && ring < 1024 && at_ < 256
  | .ringDisable src ring at_ => src.wf && ring < 1024 && at_ < 256
  | .doorbell src ring bar2 pageOff len en value => src.wf && ring < 1024 && pageOff < 4096 && en < 256 && value < 2 ^ 64 &&
    (len ≤ 4096 && (!bar2 || src.path < 8))
  | .descriptorFetchDone ring fail bytes => ring < 1024 && fail < 32 && bytes.length ≤ 512
  | .nop ring => ring < 1024
  | .copy ring => ring < 1024
  | .fill ring => ring < 1024
  | .record ring => ring < 1024
  | .playback ring => ring < 1024
  | .tableSwitch ring => ring < 1024
  | .tableSwitchDrained ring => ring < 1024
  | .fence ring => ring < 1024
  | .fenceSatisfied ring => ring < 1024
  | .fenceTimeout ring => ring < 1024
  | .ringNoteTailExpiry ring => ring < 1024
  | .ringCplRdWrite src ring v => src.wf && ring < 1024 && v < 65536
  | .ringStop src ring => src.wf && ring < 1024
  | .ringResume src ring => src.wf && ring < 1024
  | .ringReset src ring => src.wf && ring < 1024
  | .ringResetDone ring => ring < 1024
  | .moverReset src die m => src.wf && die < 8 && m < 16
  | .stripeConfigWrite src s word v at_ => src.wf && s < 256 && v < 2 ^ 32 && at_ < 256 && word < 7
  | .tapConfigWrite src t word v at_ => src.wf && t < 256 && v < 2 ^ 32 && at_ < 256 && word < 5
  | .tapRestart src t => src.wf && t < 256
  | .tapFinish t => t < 256
  | .tapShed t => t < 256
  | .tapLogRdWrite src t v => src.wf && t < 256 && v < 65536
  | .tilBondWrite src port v => src.wf && port < 64 && v < 2 ^ 32
  | .bondBreak src port => src.wf && port < 64
  | .evacuate src port => src.wf && port < 64
  | .evacuationDrained port => port < 64
  | .tileReturn src port => src.wf && port < 64
  | .tileReset src port => src.wf && port < 64
  | .tileResetDone port _ => port < 64
  | .recal src port => src.wf && port < 64
  | .tileFault port => port < 64
  | .dieReset src die => src.wf && die < 8
  | .dieResetDrained die badBanks => die < 8 && badBanks < 2 ^ 96
  | .leadHandoff src die => src.wf && die < 8
  | .handoffTimeout => true
  | .mcRestart src die image => src.wf && die < 8 && image < 2
  | .mcRejoin die loaded => die < 8 && (loaded.all fun i => i < 2)
  | .pllSwap src die => src.wf && die < 8
  | .pllLock die _ => die < 8
  | .heartbeatSend die => die < 8
  | .heartbeatReceived die from_ => die < 8 && from_ < 8
  | .heartbeatMiss die from_ => die < 8 && from_ < 8
  | .leadClaimReceived die claimant => die < 8 && claimant < 8
  | .sramUncorrectable die bank => die < 8 && bank < 96
  | .sramCorrected die => die < 8
  | .mortarPacketReceived die link pkt => die < 8 && link < 4 && pkt.wf
  | .mortarLinkFail die link => die < 8 && link < 4
  | .mortarDegrade die link => die < 8 && link < 4
  | .clockMonitorResult die mon count => die < 8 && mon.wf && count < 2 ^ 32
  | .arbitrationResult die count => die < 8 && count < 2 ^ 32
  | .pllReferenceLoss die _ => die < 8
  | .muxHang die mux _ => die < 8 && mux.wf
  | .fioCalDone die khz => die < 8 && khz < 2 ^ 32
  | .sleepEnter src die => src.wf && die < 8
  | .wakeEvent die _ => die < 8
  | .wakeTimerExpiry die => die < 8
  | .tempSample die t => die < 8 && (-128 ≤ t && t ≤ 127)
  | .railUndervoltage die rail => die < 8 && rail < 3
  | .pkgReset _ => true
  | .pkgResetRelease board hw => boardWf board && hw.all BootFact.wf
  | .bootStepTimeout die => die < 8
  | .failedStartReset hw => hw.all BootFact.wf
  | .flashRead src die => src.wf && die < 8
  | .flashErase src die => src.wf && die < 8
  | .flashProgram src die => src.wf && die < 8
  | .flashCommandComplete die _ => die < 8
  | .flashCommandTimeout die => die < 8
  | .markA src die => src.wf && die < 8
  | .markB src die => src.wf && die < 8
  | .readmit src die mask => src.wf && die < 8 && mask < 256
  | .presenceRemove port => port < 64
  | .presenceDebounce port => port < 64
  | .mpEnWrite src port _ => src.wf && port < 64
  | .mpClear src port => src.wf && port < 64
  | .mpPowerGood port => port < 64
  | .mpDischarged port => port < 64
  | .short port => port < 64
  | .overcurrent port => port < 64
  | .pgTimeout port => port < 64
  | .undervoltage port => port < 64
  | .dischargeTimeout port => port < 64
  | .extest die => die < 8
  | .samplePreload die => die < 8
  | .idcode die => die < 8
  | .clamp die => die < 8
  | .highz die => die < 8
  | .bypass die => die < 8
  | .monitorLevelSample die slot => die < 8 && slot < 64
  | .monitorClear src die slot => src.wf && die < 8 && slot < 64
  | .monitorSourceWrite src die slot v => src.wf && die < 8 && slot < 64 && v < 2 ^ 32
  | .presenceInsert port => port < 64
  | .perstRelease die => die < 8
  | .railRestored board hw => boardWf board && hw.all BootFact.wf
  | .laneRecalibrationDone port badLanes => port < 64 && badLanes < 256
  | .pcieL1Entry die state => die < 8 && state < 3
  | .pcieL1Exit die => die < 8

/-- Units within a variant of `n` dies (R9). -/
def Instr.present (n : Nat) : Instr → Bool
  | .registerWrite src _ _ _ _ _ => src.present n
  | .pkgConfigApply die => die < n
  | .registerReadReject src _ _ => src.present n
  | .rcFieldRead src _ _ => src.present n
  | .pairLoRead src _ _ => src.present n
  | .pkgLockSet src => src.present n
  | .dieLockSet src die => src.present n && die < n
  | .tilLockSet src port => src.present n && port < 8 * n
  | .scrubVisit die _ => die < n
  | .sealPassEnd die => die < n
  | .sealCommit src _ => src.present n
  | .accErrInfoRead src die _ _ => src.present n && die < n
  | .pcieConfigRequest die _ => die < n
  | .functionLevelReset die => die < n
  | .flrReady die => die < n
  | .outboundRead src _ _ => src.present n
  | .outboundWrite src _ _ => src.present n
  | .atomicOp src _ _ _ _ _ => src.present n
  | .pcieUnsupportedRequest src _ _ => src.present n
  | .pcieMessage die _ => die < n
  | .pcieVendorMessage die _ => die < n
  | .pcieCompletionReceived die _ _ _ _ _ => die < n
  | .pcieCompletionTimeout die _ => die < n
  | .npLimitExpiry die _ => die < n
  | .holdExpiry die _ => die < n
  | .pcieLinkUp die _ _ _ => die < n
  | .pciePerst die => die < n
  | .pcieHotReset die => die < n
  | .pcieLinkDown die => die < n
  | .pcieLinkRetrain die _ _ => die < n
  | .l0pNarrow die => die < n
  | .l0pWiden die => die < n
  | .l0pPartnerRequest die _ => die < n
  | .ltrIdleTimeout die => die < n
  | .bbFrameBad port _ => port < 8 * n
  | .repeatRequestTimer port => port < 8 * n
  | .idlReceived port _ _ => port < 8 * n
  | .ackIdlInterval port => port < 8 * n
  | .skpInterval port => port < 8 * n
  | .replayStallTimeout port => port < 8 * n
  | .synReceived port _ _ => port < 8 * n
  | .bbLaneLock port _ => port < 8 * n
  | .rateChangeIdleEnd port => port < 8 * n
  | .eqAdaptDone port => port < 8 * n
  | .detectRetry port => port < 8 * n
  | .failedRetry port => port < 8 * n
  | .retrainPartnerTimeout port => port < 8 * n
  | .laneLockLoss port _ => port < 8 * n
  | .healthWindowEnd port => port < 8 * n
  | .bbLinkEnable src port => src.present n && port < 8 * n
  | .bbLinkDisable src port => src.present n && port < 8 * n
  | .widen src port => src.present n && port < 8 * n
  | .retrain src port => src.present n && port < 8 * n
  | .adrReceived port _ _ => port < 8 * n
  | .datReceived port _ _ => port < 8 * n
  | .lckReceived port _ _ => port < 8 * n
  | .ulkReceived port _ _ => port < 8 * n
  | .ackReceived port _ _ => port < 8 * n
  | .berrReceived port _ _ _ => port < 8 * n
  | .rtyReceived port _ _ _ _ => port < 8 * n
  | .retryWaitEnd port => port < 8 * n
  | .retryStartDecay port => port < 8 * n
  | .unknownTypeDiscard port _ => port < 8 * n
  | .irqReceived port _ _ _ _ _ => port < 8 * n
  | .iakReceived port _ _ _ => port < 8 * n
  | .iakSend src port _ => src.present n && port < 8 * n
  | .busTimerExpiry port _ => port < 8 * n
  | .quietPeriodEnd port => port < 8 * n
  | .tgtLimitExpiry port => port < 8 * n
  | .windowWrite src _ _ _ _ _ => src.present n
  | .windowDisable src _ _ _ => src.present n
  | .pageLineReadDone die _ _ => die < n
  | .tcInvalWindow src _ _ _ _ => src.present n
  | .tcInvalAll src _ => src.present n
  | .tcInvalPageOnly src _ _ _ _ => src.present n
  | .tcSwitch src _ _ => src.present n
  | .wcHoldExpiry port _ => port < 8 * n
  | .prefetchAgeExpiry port _ => port < 8 * n
  | .tcPfdRead src die => src.present n && die < n
  | .mireClear src _ _ => src.present n
  | .semTake src _ => src.present n
  | .semGive src _ => src.present n
  | .semForce src _ => src.present n
  | .lockTimeout _ => true
  | .reservationExpiry _ => true
  | .irqEntryWrite src _ _ _ => src.present n
  | .irqBboutPendRead src port _ _ _ => src.present n && port < 8 * n
  | .msixModExpiry entry => entry.present n
  | .nmiReceived die => die < n
  | .nmiCauseRead src _ _ => src.present n
  | .errRead src die => src.present n && die < n
  | .eventArrive e => e.die < n && (match e.upset with | some (x, _, _) => decide (x < n) | none => true)
  | .evqRead src => src.present n
  | .evqHostRdWrite src _ => src.present n
  | .protPendingWrite src _ _ _ => src.present n
  | .protCommit src _ => src.present n
  | .protDiscard src _ => src.present n
  | .protVioClear src u => src.present n && u < 32 * n
  | .queueFlush src die _ => src.present n && die < n
  | .queueTailTimeout die _ => die < n
  | .queuePointerMismatch die _ => die < n
  | .poolConfigWrite src _ _ _ _ => src.present n
  | .poolEnable src _ _ => src.present n
  | .poolDisable src _ _ => src.present n
  | .poolGet src _ _ => src.present n
  | .poolShare src _ _ _ => src.present n
  | .poolRelease src _ _ => src.present n
  | .poolFree src _ _ => src.present n
  | .poolCmdBadOp src _ _ => src.present n
  | .poolRefillDone _ _ => true
  | .poolStateReadDone _ _ _ => true
  | .ringConfigWrite src _ _ _ _ => src.present n
  | .ringEnable src _ _ => src.present n
  | .ringDisable src _ _ => src.present n
  | .doorbell src _ _ _ _ _ _ => src.present n
  | .descriptorFetchDone _ _ _ => true
  | .nop _ => true
  | .copy _ => true
  | .fill _ => true
  | .record _ => true
  | .playback _ => true
  | .tableSwitch _ => true
  | .tableSwitchDrained _ => true
  | .fence _ => true
  | .fenceSatisfied _ => true
  | .fenceTimeout _ => true
  | .ringNoteTailExpiry _ => true
  | .ringCplRdWrite src _ _ => src.present n
  | .ringStop src _ => src.present n
  | .ringResume src _ => src.present n
  | .ringReset src _ => src.present n
  | .ringResetDone _ => true
  | .moverReset src die _ => src.present n && die < n
  | .stripeConfigWrite src _ _ _ _ => src.present n
  | .tapConfigWrite src _ _ _ _ => src.present n
  | .tapRestart src _ => src.present n
  | .tapFinish _ => true
  | .tapShed _ => true
  | .tapLogRdWrite src _ _ => src.present n
  | .tilBondWrite src port _ => src.present n && port < 8 * n
  | .bondBreak src port => src.present n && port < 8 * n
  | .evacuate src port => src.present n && port < 8 * n
  | .evacuationDrained port => port < 8 * n
  | .tileReturn src port => src.present n && port < 8 * n
  | .tileReset src port => src.present n && port < 8 * n
  | .tileResetDone port _ => port < 8 * n
  | .recal src port => src.present n && port < 8 * n
  | .tileFault port => port < 8 * n
  | .dieReset src die => src.present n && die < n
  | .dieResetDrained die _ => die < n
  | .leadHandoff src die => src.present n && die < n
  | .handoffTimeout => true
  | .mcRestart src die _ => src.present n && die < n
  | .mcRejoin die _ => die < n
  | .pllSwap src die => src.present n && die < n
  | .pllLock die _ => die < n
  | .heartbeatSend die => die < n
  | .heartbeatReceived die from_ => die < n && from_ < n
  | .heartbeatMiss die from_ => die < n && from_ < n
  | .leadClaimReceived die claimant => die < n && claimant < n
  | .sramUncorrectable die _ => die < n
  | .sramCorrected die => die < n
  | .mortarPacketReceived die _ pkt => die < n && pkt.present n
  | .mortarLinkFail die _ => die < n
  | .mortarDegrade die _ => die < n
  | .clockMonitorResult die _ _ => die < n
  | .arbitrationResult die _ => die < n
  | .pllReferenceLoss die _ => die < n
  | .muxHang die _ _ => die < n
  | .fioCalDone die _ => die < n
  | .sleepEnter src die => src.present n && die < n
  | .wakeEvent die _ => die < n
  | .wakeTimerExpiry die => die < n
  | .tempSample die _ => die < n
  | .railUndervoltage die _ => die < n
  | .pkgReset _ => true
  | .pkgResetRelease board hw => (hw.all fun b => b.die < n) && (board.all fun b => b.1 < n)
  | .bootStepTimeout die => die < n
  | .failedStartReset hw => hw.all fun b => b.die < n
  | .flashRead src die => src.present n && die < n
  | .flashErase src die => src.present n && die < n
  | .flashProgram src die => src.present n && die < n
  | .flashCommandComplete die _ => die < n
  | .flashCommandTimeout die => die < n
  | .markA src die => src.present n && die < n
  | .markB src die => src.present n && die < n
  | .readmit src die _ => src.present n && die < n
  | .presenceRemove port => port < 8 * n
  | .presenceDebounce port => port < 8 * n
  | .mpEnWrite src port _ => src.present n && port < 8 * n
  | .mpClear src port => src.present n && port < 8 * n
  | .mpPowerGood port => port < 8 * n
  | .mpDischarged port => port < 8 * n
  | .short port => port < 8 * n
  | .overcurrent port => port < 8 * n
  | .pgTimeout port => port < 8 * n
  | .undervoltage port => port < 8 * n
  | .dischargeTimeout port => port < 8 * n
  | .extest die => die < n
  | .samplePreload die => die < n
  | .idcode die => die < n
  | .clamp die => die < n
  | .highz die => die < n
  | .bypass die => die < n
  | .monitorLevelSample die _ => die < n
  | .monitorClear src die _ => src.present n && die < n
  | .monitorSourceWrite src die _ _ => src.present n && die < n
  | .presenceInsert port => port < 8 * n
  | .perstRelease die => die < n
  | .railRestored board hw => (hw.all fun b => b.die < n) && (board.all fun b => b.1 < n)
  | .laneRecalibrationDone port _ => port < 8 * n
  | .pcieL1Entry die _ => die < n
  | .pcieL1Exit die => die < n

end Sys2Proof
end

