-- ==== Sys2Proof/Machine/Run.lean ====
section
/-!
DEFINITION. How a command runs: the guard of its form and of its units, its own effect on the device, what follows from it in the same
step, the locks it sets or a reset clears. Every meaning is one call of an operation of this file.
-/

namespace Sys2Proof.Machine

/-- Can the command reach this block: operands in their fields, units that the variant has? See log entry 1. -/
def Dev.takes (d : Dev) (i : Instr) : Bool := i.wf && i.present d.n

/-- A command that cannot reach the block stops it (log entry 1); any other goes on to its effect. -/
def guarded (i : Instr) (s : State) (next : State) : Host.Outcome State Fault Refusal :=
  if !i.wf then .fault .illFormed
  else if !i.present s.dev.n then .fault .absentUnit
  else .next next

/-- The state with another device in it; a part keeps its variant (R6). -/
def State.withDev (s : State) (e : Dev) : State := { s with dev := { e with variant := s.dev.variant } }

/-- The state after a command whose own effect leaves the device at `e`: what it lets go on does, until nothing changes. -/
def State.after (s : State) (e : Dev) : State := s.close (e.settle s.locks)

/-- A command whose effect may let other engines go on. -/
def perform (i : Instr) (s : State) (f : Locks → Dev → Dev) : Host.Outcome State Fault Refusal :=
  guarded i s (s.after (f s.locks s.dev))

/-- A command whose effect lets no engine go on. -/
def performAlone (i : Instr) (s : State) (f : Dev → Dev) : Host.Outcome State Fault Refusal :=
  guarded i s (s.withDev (f s.dev))

/-- A microsecond passes (R380): the count of every die whose root runs advances; none does in reset or asleep. Of the clock branches, those of
blocks that hold work have run in it (R395). See log entries 2 and 53. -/
def Dev.tickAll (d : Dev) : Dev :=
  let d := { d with ran := (d.dies.foldl (fun (d : Dev) x => d.markRan x (d.branchMask x)) { d with ran := [] }).ran }
  if d.inReset || d.asleep then d
  else d.dies.foldl (fun d x => if d.rootHeld x then d else { d with usCount := d.usCount.set 0 ⟨x, 0, 0⟩ (d.us x + 1) }) d

/-- What a timer in microseconds does as it expires: timers run from the microsecond count of their die, which holds while the root is held and
stops in sleep, so none expires then (R380, R396). See log entry 2. -/
def Dev.timed (d : Dev) (x : Nat) (f : Dev → Dev) : Dev := if d.rootHeld x || d.asleep then d else f d

/-- The locks of a die and its tiles, and its copy of the package lock, cleared (R71). -/
def Locks.clearDie (L : Locks) (x : Nat) : Locks :=
  { pkg := L.pkg.setIfInBounds x false, die := L.die.setIfInBounds x false,
    tile := (tilesOf x).foldl (fun (v : Vector Bool 64) t => v.setIfInBounds t false) L.tile }

/-- A package reset: every lock clear (R71), then its effect. -/
def performReset (i : Instr) (s : State) (f : Locks → Dev → Dev) : Host.Outcome State Fault Refusal :=
  perform i { s with locks := Locks.clear } f

/-- A die domain reset: the locks of the die clear where the reset takes place (R71, R358). -/
def performDieReset (i : Instr) (x : Nat) (s : State) (f : Locks → Dev → Dev) : Host.Outcome State Fault Refusal :=
  perform i (if s.dev.dieMayReset x then { s with locks := s.locks.clearDie x } else s) f

end Sys2Proof.Machine
end

