-- ==== Sys2Proof/Machine/CmdBoot.lean ====
section
/-!
DEFINITION. Commands of resets, start-up, the boot flashes and the ledger (spec/17).
-/

namespace Sys2Proof.Machine

/-- RAIL_UNDERVOLTAGE (R404): A watched rail falls low: a package reset. -/
def execRailUndervoltage (die rail : Nat) (s : State) : Host.Outcome State Fault Refusal :=
  performReset (.railUndervoltage die rail) s fun _ d => d.railLow die rail

/-- RAIL_RESTORED (R404): Every rail is back: the package starts. -/
def execRailRestored (board : List (Nat × Nat × Byte)) (hw : List BootFact) (s : State) : Host.Outcome State Fault Refusal :=
  perform (.railRestored board hw) s fun L d => d.railsBack L board hw

/-- PKG_RESET (R418): PKG_RESET_N is asserted, or the rails first rise. -/
def execPkgReset (cold : Bool) (s : State) : Host.Outcome State Fault Refusal :=
  performReset (.pkgReset cold) s fun _ d => d.assertReset cold

/-- PKG_RESET_RELEASE (R420): PKG_RESET_N is released: the package starts. -/
def execPkgResetRelease (board : List (Nat × Nat × Byte)) (hw : List BootFact) (s : State) : Host.Outcome State Fault Refusal :=
  perform (.pkgResetRelease board hw) s fun L d => d.releaseReset L board hw

/-- BOOT_STEP_TIMEOUT (R427): A boot step exceeds its limit. -/
def execBootStepTimeout (die : Nat) (s : State) : Host.Outcome State Fault Refusal :=
  perform (.bootStepTimeout die) s fun _ d => d.stepTimeout die

/-- FAILED_START_RESET (R428): A failed start is followed by a package reset, which clears the locks (R71). -/
def execFailedStartReset (hw : List BootFact) (s : State) : Host.Outcome State Fault Refusal :=
  perform (.failedStartReset hw) (if s.dev.mayRestart then { s with locks := Locks.clear } else s) fun L d => d.restart L hw

/-- FLASH_READ (R430): READ of the flash window. -/
def execFlashRead (src : Src) (die : Nat) (s : State) : Host.Outcome State Fault Refusal :=
  perform (.flashRead src die) s fun L d => d.swCmd L src ⟨.MC_FLASH_CMD, die, 0⟩ fun c => putBits c 1 0 1

/-- FLASH_ERASE (R430): ERASE of the flash window. -/
def execFlashErase (src : Src) (die : Nat) (s : State) : Host.Outcome State Fault Refusal :=
  perform (.flashErase src die) s fun L d => d.swCmd L src ⟨.MC_FLASH_CMD, die, 0⟩ fun c => putBits c 1 0 2

/-- FLASH_PROGRAM (R430): PROGRAM of the flash window. -/
def execFlashProgram (src : Src) (die : Nat) (s : State) : Host.Outcome State Fault Refusal :=
  perform (.flashProgram src die) s fun L d => d.swCmd L src ⟨.MC_FLASH_CMD, die, 0⟩ fun c => putBits c 1 0 3

/-- FLASH_COMMAND_COMPLETE (R430): A flash command finishes. -/
def execFlashCommandComplete (die : Nat) (ok : Bool) (s : State) : Host.Outcome State Fault Refusal :=
  performAlone (.flashCommandComplete die ok) s fun d => d.flashDone die ok

/-- FLASH_COMMAND_TIMEOUT (R430): A flash command takes too long. -/
def execFlashCommandTimeout (die : Nat) (s : State) : Host.Outcome State Fault Refusal :=
  performAlone (.flashCommandTimeout die) s fun d => d.flashTimeout die

/-- MARK_A (R438): MC_LEDGER_CTL.MARK_A. -/
def execMarkA (src : Src) (die : Nat) (s : State) : Host.Outcome State Fault Refusal :=
  perform (.markA src die) s fun L d => d.swCmd L src ⟨.MC_LEDGER_CTL, die, 0⟩ fun c => putBits c 0 0 1

/-- MARK_B (R438): MC_LEDGER_CTL.MARK_B. -/
def execMarkB (src : Src) (die : Nat) (s : State) : Host.Outcome State Fault Refusal :=
  perform (.markB src die) s fun L d => d.swCmd L src ⟨.MC_LEDGER_CTL, die, 0⟩ fun c => putBits c 1 1 1

/-- READMIT (R428): MC_LEDGER_CTL.READMIT. -/
def execReadmit (src : Src) (die mask : Nat) (s : State) : Host.Outcome State Fault Refusal :=
  perform (.readmit src die mask) s fun L d => d.swCmd L src ⟨.MC_LEDGER_CTL, die, 0⟩ fun c => putBits c 15 8 mask

end Sys2Proof.Machine
end

