-- ==== Sys2Proof/Machine/CmdBus.lean ====
section
/-!
DEFINITION. Commands of the Body Bus transactions (spec/05, spec/08).
-/

namespace Sys2Proof.Machine

/-- A packet of a reserved TYPE (R147). -/
def Dev.oddType (d : Dev) (p lseq : Nat) : Dev := d.onPacket p lseq fun d => d.txnEvent BB_TXN_EVENT.UNKNOWN_TYPE p

/-- ADR_RECEIVED (R156): An ADR arrives. -/
def execAdrReceived (port lseq : Nat) (adr : AdrBody) (s : State) : Host.Outcome State Fault Refusal :=
  perform (.adrReceived port lseq adr) s fun L d => d.onPacket port lseq fun d => d.rxAdr L port adr

/-- DAT_RECEIVED (R142): A DAT arrives. -/
def execDatReceived (port lseq : Nat) (dat : DatBody) (s : State) : Host.Outcome State Fault Refusal :=
  perform (.datReceived port lseq dat) s fun L d => d.onPacket port lseq fun d => d.rxData L port dat

/-- LCK_RECEIVED (R211): An LCK arrives. -/
def execLckReceived (port lseq : Nat) (adr : AdrBody) (s : State) : Host.Outcome State Fault Refusal :=
  perform (.lckReceived port lseq adr) s fun L d => d.onPacket port lseq fun d => d.rxLck L port adr

/-- ULK_RECEIVED (R149): A ULK arrives. -/
def execUlkReceived (port lseq : Nat) (h : RoleTag) (s : State) : Host.Outcome State Fault Refusal :=
  perform (.ulkReceived port lseq h) s fun L d => d.onPacket port lseq fun d => d.rxUlk L port h.role h.tag

/-- ACK_RECEIVED (R138): An ACK arrives. -/
def execAckReceived (port lseq : Nat) (h : RoleTag) (s : State) : Host.Outcome State Fault Refusal :=
  perform (.ackReceived port lseq h) s fun _ d => d.onPacket port lseq fun d => d.rxFinal port h.role fun d => d.rxAck port h.tag

/-- BERR_RECEIVED (R226): A BERR arrives. -/
def execBerrReceived (port lseq : Nat) (h : RoleTag) (code : Nat) (s : State) : Host.Outcome State Fault Refusal :=
  perform (.berrReceived port lseq h code) s fun _ d => d.onPacket port lseq fun d => d.rxFinal port h.role fun d => d.rxBerr port h.tag code

/-- RTY_RECEIVED (R228): An RTY arrives. -/
def execRtyReceived (port lseq : Nat) (h : RoleTag) (reason hint : Nat) (s : State) : Host.Outcome State Fault Refusal :=
  perform (.rtyReceived port lseq h reason hint) s fun _ d =>
    d.onPacket port lseq fun d => d.rxFinal port h.role fun d => d.rxRty port h.tag reason hint

/-- RETRY_WAIT_END (R228): The wait before a retry ends. -/
def execRetryWaitEnd (port : Nat) (s : State) : Host.Outcome State Fault Refusal :=
  perform (.retryWaitEnd port) s fun _ d => d.timed (dieOf port) fun d => d.retryGo port

/-- RETRY_START_DECAY (R229): START of BB_RETRY_CTL decays. -/
def execRetryStartDecay (port : Nat) (s : State) : Host.Outcome State Fault Refusal :=
  performAlone (.retryStartDecay port) s fun d => d.timed (dieOf port) fun d => d.retryDecay port

/-- UNKNOWN_TYPE_DISCARD (R147): A packet of a reserved TYPE is discarded. -/
def execUnknownTypeDiscard (port : Nat) (p : OddPacket) (s : State) : Host.Outcome State Fault Refusal :=
  perform (.unknownTypeDiscard port p) s fun _ d => d.oddType port p.lseq

/-- IRQ_RECEIVED (R219): An IRQ arrives. -/
def execIrqReceived (port lseq : Nat) (assert_ roak : Bool) (level vector : Nat) (s : State) : Host.Outcome State Fault Refusal :=
  perform (.irqReceived port lseq assert_ roak level vector) s fun _ d =>
    d.onPacket port lseq fun d => d.rxIrq port assert_ roak level vector

/-- IAK_RECEIVED (R152): An IAK arrives. -/
def execIakReceived (port lseq level vector : Nat) (s : State) : Host.Outcome State Fault Refusal :=
  perform (.iakReceived port lseq level vector) s fun _ d => d.onPacket port lseq fun d => d.rxIak port level vector

/-- IAK_SEND (R153): BB_IRQ_IAK written with a level. -/
def execIakSend (src : Src) (port level : Nat) (s : State) : Host.Outcome State Fault Refusal :=
  perform (.iakSend src port level) s fun L d => d.swCmd L src ⟨.BB_IRQ_IAK, port, 0⟩ fun w => putBits w 2 0 level

/-- BUS_TIMER_EXPIRY (R155): A bus timer expires, as initiator or as target. -/
def execBusTimerExpiry (port : Nat) (asInitiator : Bool) (s : State) : Host.Outcome State Fault Refusal :=
  perform (.busTimerExpiry port asInitiator) s fun _ d => d.timed (dieOf port) fun d => if asInitiator then d.outTimer port else d.inTimer port

/-- QUIET_PERIOD_END (R159): The quiet period of a port ends. -/
def execQuietPeriodEnd (port : Nat) (s : State) : Host.Outcome State Fault Refusal :=
  perform (.quietPeriodEnd port) s fun _ d => d.timed (dieOf port) fun d => d.quietEnd port

/-- TGT_LIMIT_EXPIRY (R158): TGT_LIMIT passes for the open inbound transaction. -/
def execTgtLimitExpiry (port : Nat) (s : State) : Host.Outcome State Fault Refusal :=
  perform (.tgtLimitExpiry port) s fun _ d => d.timed (dieOf port) fun d => d.inLimit port

end Sys2Proof.Machine
end

