-- ==== Sys2Proof/Machine/CmdClock.lean ====
section
/-!
DEFINITION. Commands of the clocks and of sleep (spec/15).
-/

namespace Sys2Proof.Machine

/-- PLL_SWAP (R366): DIE_SVC.PLL_SWAP. -/
def execPllSwap (src : Src) (die : Nat) (s : State) : Host.Outcome State Fault Refusal :=
  perform (.pllSwap src die) s fun L d => d.swCmd L src ⟨.DIE_SVC, die, 0⟩ fun c => putBits c 1 1 1

/-- PLL_LOCK (R376): A PLL reaches lock. -/
def execPllLock (die : Nat) (which : Pll) (s : State) : Host.Outcome State Fault Refusal :=
  perform (.pllLock die which) s fun _ d => d.pllLocks die which

/-- CLOCK_MONITOR_RESULT (R387): A monitor window ends. -/
def execClockMonitorResult (die : Nat) (mon : ClockMon) (count : Nat) (s : State) : Host.Outcome State Fault Refusal :=
  perform (.clockMonitorResult die mon count) s fun _ d => d.monResult die mon count

/-- ARBITRATION_RESULT (R391): The arbitration window ends. -/
def execArbitrationResult (die count : Nat) (s : State) : Host.Outcome State Fault Refusal :=
  perform (.arbitrationResult die count) s fun _ d => d.arbResult die count

/-- PLL_REFERENCE_LOSS (R377): A PLL loses its reference. -/
def execPllReferenceLoss (die : Nat) (pll : Pll) (s : State) : Host.Outcome State Fault Refusal :=
  perform (.pllReferenceLoss die pll) s fun _ d => d.refLoss die pll

/-- MUX_HANG (R386): A multiplexer sees no low phase of the old clock. -/
def execMuxHang (die : Nat) (mux : MuxId) (edges : Bool) (s : State) : Host.Outcome State Fault Refusal :=
  perform (.muxHang die mux edges) s fun _ d => d.muxHangs die mux edges

/-- FIO_CAL_DONE (R389): The measurement of FIO ends. -/
def execFioCalDone (die khz : Nat) (s : State) : Host.Outcome State Fault Refusal :=
  performAlone (.fioCalDone die khz) s fun d => d.fioCalDone die khz

/-- SLEEP_ENTER (R396): CLK_SLEEP.ENTER. -/
def execSleepEnter (src : Src) (die : Nat) (s : State) : Host.Outcome State Fault Refusal :=
  perform (.sleepEnter src die) s fun L d => d.swCmd L src ⟨.CLK_SLEEP, die, 0⟩ fun c => putBits c 0 0 1

/-- WAKE_EVENT (R397): An input wakes the package. -/
def execWakeEvent (die : Nat) (cause : WakeCause) (s : State) : Host.Outcome State Fault Refusal :=
  perform (.wakeEvent die cause) s fun _ d => d.wakeInput die cause

/-- WAKE_TIMER_EXPIRY (R397): The wake timer of a die expires. -/
def execWakeTimerExpiry (die : Nat) (s : State) : Host.Outcome State Fault Refusal :=
  perform (.wakeTimerExpiry die) s fun _ d => d.wakeTimer die

end Sys2Proof.Machine
end

