-- ==== Sys2Proof/Machine/CmdIrq.lean ====
section
/-!
DEFINITION. Commands of interrupts, the non-maskable event, error records and events (spec/08).
-/

namespace Sys2Proof.Machine

/-- The die that acts for an entry of the interrupt map: that of the port, the home of the event queue, the home of the ring. -/
def Dev.entryDie (d : Dev) : IrqEntry → Nat
  | .bbin p _ => dieOf p
  | .cls _ => d.evqHome
  | .ring r => d.ringDie r

/-- IRQ_ENTRY_WRITE (R218): An entry of the interrupt map written. -/
def execIrqEntryWrite (src : Src) (off v at_ : Nat) (s : State) : Host.Outcome State Fault Refusal :=
  perform (.irqEntryWrite src off v at_) s fun L d => d.busWrite L src off 4 15 v at_

/-- IRQ_BBOUT_PEND_READ (R222): Bytes of IRQ_BBOUT_PEND read. -/
def execIrqBboutPendRead (src : Src) (port level sub len : Nat) (s : State) : Host.Outcome State Fault Refusal :=
  perform (.irqBboutPendRead src port level sub len) s fun L d =>
    d.busRead L src (Loc.offset ⟨.IRQ_BBOUT_PEND, 0, 8 * port + level⟩ + sub) len

/-- MSIX_MOD_EXPIRY (R223): The MOD gap of an entry ends. -/
def execMsixModExpiry (entry : IrqEntry) (s : State) : Host.Outcome State Fault Refusal :=
  perform (.msixModExpiry entry) s fun _ d => d.timed (d.entryDie entry) fun d => d.modEnd (d.entryDie entry) entry

/-- NMI_RECEIVED (R224): The non-maskable event reaches a die. -/
def execNmiReceived (die : Nat) (s : State) : Host.Outcome State Fault Refusal :=
  perform (.nmiReceived die) s fun _ d => d.nmiLocal die

/-- NMI_CAUSE_READ (R225): Bytes of IRQ_NMI_CAUSE read. -/
def execNmiCauseRead (src : Src) (sub len : Nat) (s : State) : Host.Outcome State Fault Refusal :=
  perform (.nmiCauseRead src sub len) s fun L d => d.busRead L src (Loc.offset ⟨.IRQ_NMI_CAUSE, 0, 0⟩ + sub) len

/-- ERR_READ (R231): A word of the error records read. -/
def execErrRead (src : Src) (die : Nat) (s : State) : Host.Outcome State Fault Refusal :=
  perform (.errRead src die) s fun L d => d.busRead L src (Loc.offset ⟨.ERR_READ, 0, die⟩) 4

/-- EVENT_ARRIVE (R232): An event reaches the home of the event queue. -/
def execEventArrive (e : EventStep) (s : State) : Host.Outcome State Fault Refusal :=
  perform (.eventArrive e) s fun _ d => d.eventArrive e.die e.words e.upset

/-- EVQ_READ (R234): A word of the event queue read. -/
def execEvqRead (src : Src) (s : State) : Host.Outcome State Fault Refusal :=
  perform (.evqRead src) s fun L d => d.busRead L src (Loc.offset ⟨.EVQ_READ, 0, 0⟩) 4

/-- EVQ_HOST_RD_WRITE (R234): EVQ_HOST_RD written. -/
def execEvqHostRdWrite (src : Src) (v : Nat) (s : State) : Host.Outcome State Fault Refusal :=
  perform (.evqHostRdWrite src v) s fun L d => d.swCmd L src ⟨.EVQ_HOST_RD, 0, 0⟩ fun c => putBits c 15 0 v

end Sys2Proof.Machine
end

