-- ==== Sys2Proof/Machine/CmdLead.lean ====
section
/-!
DEFINITION. Commands of the lead, the controllers and mortar (spec/01, spec/14).
-/

namespace Sys2Proof.Machine

/-- LEAD_HANDOFF (R364): DIE_SVC.LEAD_HANDOFF. -/
def execLeadHandoff (src : Src) (die : Nat) (s : State) : Host.Outcome State Fault Refusal :=
  perform (.leadHandoff src die) s fun L d => d.swCmd L src ⟨.DIE_SVC, die, 0⟩ fun c => putBits c 2 2 1

/-- HANDOFF_TIMEOUT (R364): The target of a handoff does not confirm. -/
def execHandoffTimeout (s : State) : Host.Outcome State Fault Refusal :=
  perform .handoffTimeout s fun L d => d.handoffLate L

/-- MC_RESTART (R365): DIE_SVC.MC_RESTART from an image. -/
def execMcRestart (src : Src) (die image : Nat) (s : State) : Host.Outcome State Fault Refusal :=
  perform (.mcRestart src die image) s fun L d => d.swCmd L src ⟨.DIE_SVC, die, 0⟩ fun c => putBits (putBits c 3 3 1) 9 8 image

/-- MC_REJOIN (R365): A restarting controller rejoins. -/
def execMcRejoin (die : Nat) (loaded : Option Nat) (s : State) : Host.Outcome State Fault Refusal :=
  perform (.mcRejoin die loaded) s fun _ d => d.mcRejoin die loaded

/-- HEARTBEAT_SEND (R362): The heartbeat period of a die ends. -/
def execHeartbeatSend (die : Nat) (s : State) : Host.Outcome State Fault Refusal :=
  perform (.heartbeatSend die) s fun _ d => d.heartbeat die

/-- HEARTBEAT_RECEIVED (R362): A heartbeat arrives. -/
def execHeartbeatReceived (die from_ : Nat) (s : State) : Host.Outcome State Fault Refusal :=
  perform (.heartbeatReceived die from_) s fun L d => d.heartbeatIn L die from_

/-- HEARTBEAT_MISS (R362): A die is taken as failed. -/
def execHeartbeatMiss (die from_ : Nat) (s : State) : Host.Outcome State Fault Refusal :=
  perform (.heartbeatMiss die from_) s fun L d => d.heartbeatMiss L die from_

/-- LEAD_CLAIM_RECEIVED (R363): A claim of the lead arrives. -/
def execLeadClaimReceived (die claimant : Nat) (s : State) : Host.Outcome State Fault Refusal :=
  perform (.leadClaimReceived die claimant) s fun L d => d.claimReceived L die claimant

/-- MORTAR_PACKET_RECEIVED (R39): A mortar packet arrives. -/
def execMortarPacketReceived (die link : Nat) (pkt : MortarPkt) (s : State) : Host.Outcome State Fault Refusal :=
  perform (.mortarPacketReceived die link pkt) s fun _ d => d.mortarRx die link pkt

/-- MORTAR_LINK_FAIL (R40): A mortar link fails. -/
def execMortarLinkFail (die link : Nat) (s : State) : Host.Outcome State Fault Refusal :=
  perform (.mortarLinkFail die link) s fun _ d => d.morFail die link

/-- MORTAR_DEGRADE (R41): A mortar module loses lanes of one half. -/
def execMortarDegrade (die link : Nat) (s : State) : Host.Outcome State Fault Refusal :=
  perform (.mortarDegrade die link) s fun _ d => d.morDegrade die link

end Sys2Proof.Machine
end

