-- ==== Sys2Proof/Machine/CmdLink.lean ====
section
/-!
DEFINITION. Commands of the Body Bus links (spec/04).
-/

namespace Sys2Proof.Machine

/-- Code violations of a lane, in the window and in its counter (R125). -/
def Dev.violation (d : Dev) (p lane : Nat) : Dev :=
  (d.modLink p fun l => { l with cvWin := l.cvWin.modify lane (· + 1) }).bump (cvField lane) p

/-- A frame discarded on an ACTIVE port (R116): a repeat run opens, but for a damaged IDL or SYN; while the port looks for its partner or trains,
damaged frames and code violations only count. A lane outside the active group carries no packet: its violation only counts on the lane (R125). -/
def Dev.frameBad (d : Dev) (p : Nat) (k : FrameBad) : Dev :=
  if !d.active? p then
    if d.lstate p == lsDisabled || d.lstate p == lsFailed then d
    else
      match k with
      | .crc true => if d.lstate p == lsDetect then d else d.crcError p
      | .codeViolation lane l => if l && d.lstate p != lsDetect then (d.violation p lane).crcError p else d.violation p lane
      | _ => d
  else
    match k with
    | .crc l => if l then d.crcError p else (d.crcError p).openRepeat p
    | .codeViolation lane l =>
      if !(d.fld BB_LANE_STAT.ACTIVE p).testBit lane then d.violation p lane
      else if l then (d.violation p lane).crcError p
      else ((d.violation p lane).crcError p).openRepeat p
    | .badLseq => d.openRepeat p
    | .ebp => d.openRepeat p

/-- The repeat timer of 2 µs (R117): the request again, or a retrain after REPEAT_MAX. -/
def Dev.repeatTimer (d : Dev) (p : Nat) : Dev :=
  let l := (d.port p).link
  if !l.repeatRun then d
  else if d.fld BB_LINK_THRESH.REPEAT_MAX p ≤ l.repeats then (d.linkEvent BB_LINK_EVENT.REPEAT_LIMIT p).retrain p
  else (d.modLink p fun l => { l with repeats := l.repeats + 1 }).sendIdl p true

/-- 256 symbol times with an accepted packet unacknowledged (R115). -/
def Dev.ackIdle (d : Dev) (p : Nat) : Dev := if (d.port p).link.ackDue && d.active? p then d.sendIdl p false else d

/-- A transmit side that runs sends an SKP set (R113). -/
def Dev.skp (d : Dev) (p : Nat) : Dev := if lsDetect ≤ d.lstate p && d.lstate p ≤ lsRetrain then d.emit (.skp p 1) else d

/-- 64 packets held and none acknowledged for 10 µs (R118). -/
def Dev.replayStall (d : Dev) (p : Nat) : Dev := if (d.port p).link.replay.length = 64 then d.retrain p else d

/-- A lane gains lock while the port looks for its partner or trains (R122). -/
def Dev.laneLock (d : Dev) (p lane : Nat) : Dev :=
  if d.lstate p = lsDisabled || d.lstate p = lsFailed then d
  else d.setFld BB_LANE_STAT.LOCK p 0 (d.fld BB_LANE_STAT.LOCK p ||| 2 ^ lane)

/-- The electrical idle of a rate change ends: the lanes lock anew, STEP EQ (R122). -/
def Dev.rateIdleEnd (d : Dev) (p : Nat) : Dev :=
  if (d.port p).link.step = .rateIdle then
    ((d.modLink p fun l => { l with step := .eq }).setFld BB_LANE_STAT.LOCK p 0 0).sendSyns p 1
  else d

/-- Equalization has adapted, or the retrain's lanes have: width confirmation (R121, R122, R126). -/
def Dev.eqDone (d : Dev) (p : Nat) : Dev :=
  let st := (d.port p).link.step
  if (st = .eq ∨ st = .retrain) ∧ (d.port p).link.seen then d.confirm p else d

/-- Training starts again from DETECT, or from FAILED, or where no partner SYN has answered step 1 (R122): STATE shows DETECT until a SYN is seen,
where step 1 of the table shows TRAIN (DESIGN CHOICE, log entry 22). -/
def Dev.tryAgain (d : Dev) (p st : Nat) : Dev :=
  if d.lstate p = st || (st == lsDetect && d.lstate p == lsTrain && !(d.port p).link.seen) then d.trainStart p lsDetect else d

/-- No partner SYN within 1 ms of RETRAIN (R123). -/
def Dev.partnerGone (d : Dev) (p : Nat) : Dev :=
  if d.lstate p = lsRetrain && !(d.port p).link.seen then d.linkDown p lsDetect else d

/-- A lane loses lock (R125). -/
def Dev.lockLoss (d : Dev) (p lane : Nat) : Dev :=
  if (d.fld BB_LANE_STAT.LOCK p).testBit lane then
    let d := d.setFld BB_LANE_STAT.LOCK p 0 (d.fld BB_LANE_STAT.LOCK p - 2 ^ lane)
    let d := d.modLink p fun l => { l with goodRx := l.goodRx - (l.goodRx &&& 2 ^ lane) }
    if d.active? p || d.lstate p == lsRetrain then d.laneBad p lane else d
  else d

/-- BB_FRAME_BAD (R116): A received frame is discarded. -/
def execBbFrameBad (port : Nat) (kind : FrameBad) (s : State) : Host.Outcome State Fault Refusal :=
  perform (.bbFrameBad port kind) s fun _ d => d.frameBad port kind

/-- REPEAT_REQUEST_TIMER (R117): The repeat timer expires. -/
def execRepeatRequestTimer (port : Nat) (s : State) : Host.Outcome State Fault Refusal :=
  perform (.repeatRequestTimer port) s fun _ d => d.repeatTimer port

/-- IDL_RECEIVED (R114): An IDL acknowledges, asks for a repeat, or ends training. -/
def execIdlReceived (port : Nat) (rep : Bool) (rxNext : Nat) (s : State) : Host.Outcome State Fault Refusal :=
  perform (.idlReceived port rep rxNext) s fun _ d => d.rxIdl port rep rxNext

/-- ACK_IDL_INTERVAL (R115): An IDL is inserted for an unacknowledged packet. -/
def execAckIdlInterval (port : Nat) (s : State) : Host.Outcome State Fault Refusal :=
  perform (.ackIdlInterval port) s fun _ d => d.ackIdle port

/-- SKP_INTERVAL (R113): An SKP set is sent. -/
def execSkpInterval (port : Nat) (s : State) : Host.Outcome State Fault Refusal :=
  performAlone (.skpInterval port) s fun d => d.skp port

/-- REPLAY_STALL_TIMEOUT (R118): The replay store is full and stalled. -/
def execReplayStallTimeout (port : Nat) (s : State) : Host.Outcome State Fault Refusal :=
  perform (.replayStallTimeout port) s fun _ d => d.replayStall port

/-- SYN_RECEIVED (R119): A SYN arrives on a lane. -/
def execSynReceived (port lane : Nat) (syn : Syn) (s : State) : Host.Outcome State Fault Refusal :=
  perform (.synReceived port lane syn) s fun _ d => d.rxSyn port lane syn

/-- BB_LANE_LOCK (R122): A lane gains lock. -/
def execBbLaneLock (port lane : Nat) (s : State) : Host.Outcome State Fault Refusal :=
  performAlone (.bbLaneLock port lane) s fun d => d.laneLock port lane

/-- RATE_CHANGE_IDLE_END (R122): The electrical idle of a rate change ends. -/
def execRateChangeIdleEnd (port : Nat) (s : State) : Host.Outcome State Fault Refusal :=
  perform (.rateChangeIdleEnd port) s fun _ d => d.rateIdleEnd port

/-- EQ_ADAPT_DONE (R122): Equalization has adapted on every lane. -/
def execEqAdaptDone (port : Nat) (s : State) : Host.Outcome State Fault Refusal :=
  perform (.eqAdaptDone port) s fun _ d => d.eqDone port

/-- DETECT_RETRY (R122): 10 ms in DETECT pass. -/
def execDetectRetry (port : Nat) (s : State) : Host.Outcome State Fault Refusal :=
  perform (.detectRetry port) s fun _ d => d.tryAgain port lsDetect

/-- FAILED_RETRY (R122): 100 ms in FAILED pass. -/
def execFailedRetry (port : Nat) (s : State) : Host.Outcome State Fault Refusal :=
  perform (.failedRetry port) s fun _ d => d.tryAgain port lsFailed

/-- RETRAIN_PARTNER_TIMEOUT (R123): No partner SYN answers a retrain. -/
def execRetrainPartnerTimeout (port : Nat) (s : State) : Host.Outcome State Fault Refusal :=
  perform (.retrainPartnerTimeout port) s fun _ d => d.partnerGone port

/-- LANE_LOCK_LOSS (R125): A lane loses lock. -/
def execLaneLockLoss (port lane : Nat) (s : State) : Host.Outcome State Fault Refusal :=
  perform (.laneLockLoss port lane) s fun _ d => d.lockLoss port lane

/-- HEALTH_WINDOW_END (R125): A health window ends. -/
def execHealthWindowEnd (port : Nat) (s : State) : Host.Outcome State Fault Refusal :=
  perform (.healthWindowEnd port) s fun _ d => d.healthEnd port

/-- BB_LINK_ENABLE (R122): BB_LINK_CTRL.EN written 1. -/
def execBbLinkEnable (src : Src) (port : Nat) (s : State) : Host.Outcome State Fault Refusal :=
  perform (.bbLinkEnable src port) s fun L d => d.swCmd L src ⟨.BB_LINK_CTRL, port, 0⟩ fun w => putBits w 0 0 1

/-- BB_LINK_DISABLE (R127): BB_LINK_CTRL.EN written 0. -/
def execBbLinkDisable (src : Src) (port : Nat) (s : State) : Host.Outcome State Fault Refusal :=
  perform (.bbLinkDisable src port) s fun L d => d.swCmd L src ⟨.BB_LINK_CTRL, port, 0⟩ fun w => putBits w 0 0 0

/-- WIDEN (R127): BB_LINK_CTRL.WIDEN written. -/
def execWiden (src : Src) (port : Nat) (s : State) : Host.Outcome State Fault Refusal :=
  perform (.widen src port) s fun L d => d.swCmd L src ⟨.BB_LINK_CTRL, port, 0⟩ fun w => putBits w 3 3 1

/-- RETRAIN (R127): BB_LINK_CTRL.RETRAIN written. -/
def execRetrain (src : Src) (port : Nat) (s : State) : Host.Outcome State Fault Refusal :=
  perform (.retrain src port) s fun L d => d.swCmd L src ⟨.BB_LINK_CTRL, port, 0⟩ fun w => putBits w 2 2 1

end Sys2Proof.Machine
end

