-- ==== Sys2Proof/Machine/CmdMon.lean ====
section
/-!
DEFINITION. Commands of the monitors (spec/18).
-/

namespace Sys2Proof.Machine

/-- MONITOR_LEVEL_SAMPLE (R443): The period of a level slot passes. -/
def execMonitorLevelSample (die slot : Nat) (s : State) : Host.Outcome State Fault Refusal :=
  performAlone (.monitorLevelSample die slot) s fun d => d.timed die fun d => d.monLevel die slot

/-- MONITOR_CLEAR (R447): MON_CTL.CLEAR of a slot. -/
def execMonitorClear (src : Src) (die slot : Nat) (s : State) : Host.Outcome State Fault Refusal :=
  perform (.monitorClear src die slot) s fun L d => d.swCmd L src ⟨.MON_CTL, 0, slotIx die slot⟩ fun c => putBits c 29 29 1

/-- MONITOR_SOURCE_WRITE (R447): MON_SRC of a slot written. -/
def execMonitorSourceWrite (src : Src) (die slot v : Nat) (s : State) : Host.Outcome State Fault Refusal :=
  perform (.monitorSourceWrite src die slot v) s fun L d =>
    d.busWrite L src (Loc.offset ⟨.MON_SRC, 0, slotIx die slot⟩) 4 15 v 255

end Sys2Proof.Machine
end

