-- ==== Sys2Proof/Machine/CmdPcie.lean ====
section
/-!
DEFINITION. Commands of the PCI Express ports (spec/03).
-/

namespace Sys2Proof.Machine

/-- Power management and slot power messages, as the standard requires (log entry 8). -/
def Dev.message (d : Dev) (x : Nat) : PcieMsg → Dev
  | .pmActiveStateNak => d
  | .pmTurnOff => d.emit (.pcieMsg x true)
  | .setSlotPowerLimit v s => d.cfgPut x 0x74 (putBits (d.cfgRead x 0x74) 27 18 (v + 256 * s))

/-- The function is ready after a Function Level Reset: PX_EVENT.FLR (R105). -/
def Dev.flrEnd (d : Dev) (x : Nat) : Dev :=
  if (d.px x).flr then (d.modPx x fun p => { p with flr := false }).pxEvent PX_EVENT.FLR x else d

/-- HOLD passes for a held request (R99): a completion timeout; bookkeeping writes stay (R449). -/
def Dev.holdOver (d : Dev) (x id : Nat) : Dev :=
  let p := d.px x
  match (p.heldReq ++ if d.canIssue x then [] else p.waitTag).find? fun r => r.id == id && !r.book with
  | none => d
  | some r =>
    let d := d.modPx x fun p => { p with heldReq := p.heldReq.filter fun q => q.id != id, waitTag := p.waitTag.filter fun q => q.id != id }
    ((d.aer x .completionTimeout).pxEvent PX_EVENT.HOLD_EXPIRED x).note (.hostEnd r 0 false false false true [])

/-- The link reaches L0 (R450). -/
def Dev.linkUp (d : Dev) (x rate width : Nat) (flit : Bool) : Dev :=
  if d.phyReady x then ((d.modPx x fun p => { p with inL1 := false }).pxUp x rate width flit).portResume x else d

/-- Recovery or a speed change with the link up (R105). -/
def Dev.linkRetrain (d : Dev) (x rate width : Nat) : Dev :=
  if d.flag PX_LINK_STAT.UP x then
    ((d.bump PX_ERR_COUNT.RETRAINS x).pxEvent PX_EVENT.RETRAINED x).pxUp x rate width (d.flag PX_LINK_STAT.FLIT x)
  else d

/-- Is L0p enabled (Device 3, log entry 8), and the link in L0? -/
def Dev.l0pOn (d : Dev) (x : Nat) : Bool := (d.cfgRead x 0x288).getLsbD 3 && d.fld PX_LINK_STAT.STATE x == 2

/-- Narrowing by one step under L0P_AUTO (R103), where LOW_PCT is below HIGH_PCT. -/
def Dev.l0pLess (d : Dev) (x : Nat) : Dev :=
  let w := d.fld PX_LINK_STAT.ACTIVE_WIDTH x
  if d.l0pOn x && d.flag PX_CTRL.L0P_AUTO x && decide (d.fld PX_L0P.LOW_PCT x < d.fld PX_L0P.HIGH_PCT x) && decide (1 < w) then
    d.setActive x (w / 2)
  else d

/-- Back to the negotiated width (R103). -/
def Dev.l0pMore (d : Dev) (x : Nat) : Dev :=
  if d.l0pOn x && d.flag PX_CTRL.L0P_AUTO x && d.fld PX_LINK_STAT.ACTIVE_WIDTH x != d.fld PX_LINK_STAT.WIDTH x then
    d.setActive x (d.fld PX_LINK_STAT.WIDTH x)
  else d

/-- A width that the link partner asks for (R103). -/
def Dev.l0pAsked (d : Dev) (x w : Nat) : Dev :=
  if d.l0pOn x && decide (w ≤ d.fld PX_LINK_STAT.WIDTH x) then d.setActive x w else d

/-- No request has been outstanding or held for 100 µs (R81). -/
def Dev.ltrQuiet (d : Dev) (x : Nat) : Dev :=
  let p := d.px x
  if p.ltrIdle || !p.issued.isEmpty || !p.waitTag.isEmpty || !p.heldReq.isEmpty then d
  else
    let d := d.modPx x fun p => { p with ltrIdle := true }
    if d.ltrEnable x && d.flag PX_LINK_STAT.UP x then d.emit (.ltr x none) else d

/-- ASPM L1 or a substate entered from L0 (R102): 0 L1, 1 L1.1, 2 L1.2. -/
def Dev.l1In (d : Dev) (x st : Nat) : Dev :=
  if d.flag PX_LINK_STAT.UP x then (d.setFld PX_LINK_STAT.STATE x 0 (3 + st)).modPx x fun p => { p with inL1 := true } else d

/-- Back to L0 (R102). -/
def Dev.l1Out (d : Dev) (x : Nat) : Dev :=
  if (d.px x).inL1 then (d.setFld PX_LINK_STAT.STATE x 0 2).modPx x fun p => { p with inL1 := false } else d

/-- PCIE_CONFIG_REQUEST (R90): A configuration request is performed, refused or answered Request Retry Status. -/
def execPcieConfigRequest (die : Nat) (req : CfgReq) (s : State) : Host.Outcome State Fault Refusal :=
  perform (.pcieConfigRequest die req) s fun _ d => d.cfgRequest die req

/-- FUNCTION_LEVEL_RESET (R105): Function Level Reset of a port. -/
def execFunctionLevelReset (die : Nat) (s : State) : Host.Outcome State Fault Refusal :=
  perform (.functionLevelReset die) s fun _ d => d.flr die

/-- FLR_READY (R105): The function is ready again after a Function Level Reset. -/
def execFlrReady (die : Nat) (s : State) : Host.Outcome State Fault Refusal :=
  performAlone (.flrReady die) s fun d => d.flrEnd die

/-- OUTBOUND_READ (R168): A memory read to BAR4. -/
def execOutboundRead (src : Src) (off : Nat) (en : List Bool) (s : State) : Host.Outcome State Fault Refusal :=
  perform (.outboundRead src off en) s fun _ d => d.direct src off (.read en)

/-- OUTBOUND_WRITE (R199): A memory write to BAR4. -/
def execOutboundWrite (src : Src) (off : Nat) (bytes : List (Option Byte)) (s : State) : Host.Outcome State Fault Refusal :=
  perform (.outboundWrite src off bytes) s fun _ d => d.direct src off (.write bytes)

/-- ATOMIC_OP (R212): A FetchAdd, Swap or CAS to BAR4. -/
def execAtomicOp (src : Src) (off : Nat) (op : AtomicKind) (size operand compare : Nat) (s : State) : Host.Outcome State Fault Refusal :=
  perform (.atomicOp src off op size operand compare) s fun _ d => d.direct src off (.atomic op size operand compare)

/-- PCIE_UNSUPPORTED_REQUEST (R90): A request that is answered or logged as Unsupported Request. See log entry 19. -/
def execPcieUnsupportedRequest (src : Src) (posted : Bool) (at_ : Option OddTarget) (s : State) : Host.Outcome State Fault Refusal :=
  perform (.pcieUnsupportedRequest src posted at_) s fun _ d => d.unsupported src posted at_

/-- PCIE_MESSAGE (R90): A power management or slot power message. -/
def execPcieMessage (die : Nat) (msg : PcieMsg) (s : State) : Host.Outcome State Fault Refusal :=
  performAlone (.pcieMessage die msg) s fun d => d.message die msg

/-- PCIE_VENDOR_MESSAGE (R90): A vendor-defined message: type 1 silently discarded, type 0 logged. -/
def execPcieVendorMessage (die : Nat) (type1 : Bool) (s : State) : Host.Outcome State Fault Refusal :=
  performAlone (.pcieVendorMessage die type1) s fun d => if type1 then d else d.logPosted die false

/-- PCIE_COMPLETION_RECEIVED (R90): A completion delivered by its tag, or unexpected. -/
def execPcieCompletionReceived (die tag : Nat) (status : CplStatus) (poison last : Bool) (data : List Byte) (s : State) : Host.Outcome State Fault Refusal :=
  perform (.pcieCompletionReceived die tag status poison last data) s fun _ d => d.rxCompletion die tag status poison last data

/-- PCIE_COMPLETION_TIMEOUT (R93): The completion timeout of an issued request. -/
def execPcieCompletionTimeout (die tag : Nat) (s : State) : Host.Outcome State Fault Refusal :=
  perform (.pcieCompletionTimeout die tag) s fun _ d => d.rxTimeout die tag

/-- NP_LIMIT_EXPIRY (R94): NP_LIMIT passes for a received request. See log entry 21. -/
def execNpLimitExpiry (die id : Nat) (s : State) : Host.Outcome State Fault Refusal :=
  perform (.npLimitExpiry die id) s fun _ d => d.timed die fun d => d.npLimit die id

/-- HOLD_EXPIRY (R99): HOLD passes for a held request. See log entry 21. -/
def execHoldExpiry (die id : Nat) (s : State) : Host.Outcome State Fault Refusal :=
  perform (.holdExpiry die id) s fun _ d => d.timed die fun d => d.holdOver die id

/-- PCIE_LINK_UP (R450): The link of a port reaches L0. -/
def execPcieLinkUp (die rate width : Nat) (flit : Bool) (s : State) : Host.Outcome State Fault Refusal :=
  perform (.pcieLinkUp die rate width flit) s fun _ d => d.linkUp die rate width flit

/-- PCIE_PERST (R105): PERST_N of a port is asserted. -/
def execPciePerst (die : Nat) (s : State) : Host.Outcome State Fault Refusal :=
  perform (.pciePerst die) s fun _ d => (d.modPx die fun p => { p with perst := true }).portReset die

/-- PCIE_HOT_RESET (R105): A hot reset of a port. -/
def execPcieHotReset (die : Nat) (s : State) : Host.Outcome State Fault Refusal :=
  perform (.pcieHotReset die) s fun _ d => d.portReset die

/-- PCIE_LINK_DOWN (R105): The link of a port goes down. -/
def execPcieLinkDown (die : Nat) (s : State) : Host.Outcome State Fault Refusal :=
  perform (.pcieLinkDown die) s fun _ d => d.portReset die

/-- PCIE_LINK_RETRAIN (R105): The link passes through recovery or a speed change. -/
def execPcieLinkRetrain (die rate width : Nat) (s : State) : Host.Outcome State Fault Refusal :=
  perform (.pcieLinkRetrain die rate width) s fun _ d => d.linkRetrain die rate width

/-- L0P_NARROW (R103): The port narrows one step under L0p. -/
def execL0pNarrow (die : Nat) (s : State) : Host.Outcome State Fault Refusal :=
  performAlone (.l0pNarrow die) s fun d => d.l0pLess die

/-- L0P_WIDEN (R103): The port returns to full width under L0p. -/
def execL0pWiden (die : Nat) (s : State) : Host.Outcome State Fault Refusal :=
  performAlone (.l0pWiden die) s fun d => d.l0pMore die

/-- L0P_PARTNER_REQUEST (R103): The partner asks for a width under L0p. -/
def execL0pPartnerRequest (die width : Nat) (s : State) : Host.Outcome State Fault Refusal :=
  performAlone (.l0pPartnerRequest die width) s fun d => d.l0pAsked die width

/-- LTR_IDLE_TIMEOUT (R81): The port reports No Requirement once idle for 100 µs. -/
def execLtrIdleTimeout (die : Nat) (s : State) : Host.Outcome State Fault Refusal :=
  performAlone (.ltrIdleTimeout die) s fun d => d.timed die fun d => d.ltrQuiet die

/-- PERST_RELEASE (R450): PERST_N of a port is released. -/
def execPerstRelease (die : Nat) (s : State) : Host.Outcome State Fault Refusal :=
  performAlone (.perstRelease die) s fun d => d.modPx die fun p => { p with perst := false }

/-- PCIE_L1_ENTRY (R102): The link enters L1 or a substate. -/
def execPcieL1Entry (die state : Nat) (s : State) : Host.Outcome State Fault Refusal :=
  performAlone (.pcieL1Entry die state) s fun d => d.l1In die state

/-- PCIE_L1_EXIT (R102): The link leaves L1. -/
def execPcieL1Exit (die : Nat) (s : State) : Host.Outcome State Fault Refusal :=
  performAlone (.pcieL1Exit die) s fun d => d.l1Out die

end Sys2Proof.Machine
end

