-- ==== Sys2Proof/Machine/CmdPool.lean ====
section
/-!
DEFINITION. Commands of the buffer pools (spec/11).
-/

namespace Sys2Proof.Machine

/-- The word of POOL_CMD for a command (R283, R288). -/
def poolWord (op p owner newOwner : Nat) : Word := BitVec.ofNat 32 (op * 2 ^ 28 + p * 2 ^ 20 + owner * 256 + newOwner)

/-- POOL_CMD written through the mailbox of its path; handles stand in POOL_ARG. -/
def Dev.poolMail (d : Dev) (L : Locks) (s : Src) (w : Word) : Dev := d.busWrite L s (Loc.offset ⟨.POOL_CMD, 0, 0⟩) 4 15 w.toNat 255

/-- A refill of a pool has ended (R278): its requests leave the ports. -/
def Dev.refillOver (d : Dev) (p : Nat) (entries : Option (List Nat)) : Dev :=
  (d.dies.foldl (fun d x => d.dropReq x fun w => w == .poolRefill p 0 || w == .poolRefill p 1) d).refillEnd p entries

/-- The state entry of a command has been read (R284). -/
def Dev.stateOver (d : Dev) (p id : Nat) (entry : Option Nat) : Dev :=
  (d.dies.foldl (fun d x => d.dropReq x fun w => w == .poolState p id) d).poolStateDone p id entry

/-- POOL_CONFIG_WRITE (R273): A set-up word of a pool written. -/
def execPoolConfigWrite (src : Src) (p word v at_ : Nat) (s : State) : Host.Outcome State Fault Refusal :=
  perform (.poolConfigWrite src p word v at_) s fun L d => d.busWrite L src (Loc.offset ⟨.POOL_CTL, 0, p⟩ + 4 * word) 4 15 v at_

/-- POOL_ENABLE (R274): EN of a pool written 1. -/
def execPoolEnable (src : Src) (p at_ : Nat) (s : State) : Host.Outcome State Fault Refusal :=
  perform (.poolEnable src p at_) s fun L d =>
    d.swCmd L src ⟨.POOL_CTL, 0, p⟩ (fun c => putBits c POOL_CTL.EN.hi POOL_CTL.EN.lo 1) at_

/-- POOL_DISABLE (R274): EN of a pool written 0. -/
def execPoolDisable (src : Src) (p at_ : Nat) (s : State) : Host.Outcome State Fault Refusal :=
  perform (.poolDisable src p at_) s fun L d =>
    d.swCmd L src ⟨.POOL_CTL, 0, p⟩ (fun c => putBits c POOL_CTL.EN.hi POOL_CTL.EN.lo 0) at_

/-- POOL_GET (R283): GET through a mailbox. -/
def execPoolGet (src : Src) (p owner : Nat) (s : State) : Host.Outcome State Fault Refusal :=
  perform (.poolGet src p owner) s fun L d => d.poolMail L src (poolWord 1 p owner 0)

/-- POOL_SHARE (R283): SHARE through a mailbox. -/
def execPoolShare (src : Src) (p owner newOwner : Nat) (s : State) : Host.Outcome State Fault Refusal :=
  perform (.poolShare src p owner newOwner) s fun L d => d.poolMail L src (poolWord 2 p owner newOwner)

/-- POOL_RELEASE (R283): RELEASE through a mailbox. -/
def execPoolRelease (src : Src) (p owner : Nat) (s : State) : Host.Outcome State Fault Refusal :=
  perform (.poolRelease src p owner) s fun L d => d.poolMail L src (poolWord 3 p owner 0)

/-- POOL_FREE (R283): FREE through a mailbox. -/
def execPoolFree (src : Src) (p owner : Nat) (s : State) : Host.Outcome State Fault Refusal :=
  perform (.poolFree src p owner) s fun L d => d.poolMail L src (poolWord 4 p owner 0)

/-- POOL_CMD_BAD_OP (R284): A reserved OP through a mailbox. -/
def execPoolCmdBadOp (src : Src) (op p : Nat) (s : State) : Host.Outcome State Fault Refusal :=
  perform (.poolCmdBadOp src op p) s fun L d => d.poolMail L src (poolWord op p 0 0)

/-- POOL_REFILL_DONE (R278): A refill read ends. -/
def execPoolRefillDone (p : Nat) (entries : Option (List Nat)) (s : State) : Host.Outcome State Fault Refusal :=
  perform (.poolRefillDone p entries) s fun _ d => d.refillOver p entries

/-- POOL_STATE_READ_DONE (R284): A state entry read ends. -/
def execPoolStateReadDone (p id : Nat) (entry : Option Nat) (s : State) : Host.Outcome State Fault Refusal :=
  perform (.poolStateReadDone p id entry) s fun _ d => d.stateOver p id entry

end Sys2Proof.Machine
end

