-- ==== Sys2Proof/Machine/CmdPower.lean ====
section
/-!
DEFINITION. Commands of temperature and magazine port power (spec/16).
-/

namespace Sys2Proof.Machine

/-- TEMP_SAMPLE (R406): A reading of the junction temperature. -/
def execTempSample (die : Nat) (t : Int) (s : State) : Host.Outcome State Fault Refusal :=
  performAlone (.tempSample die t) s fun d => d.temp die t

/-- PRESENCE_INSERT (R408): PRES_N of a port falls. -/
def execPresenceInsert (port : Nat) (s : State) : Host.Outcome State Fault Refusal :=
  performAlone (.presenceInsert port) s fun d => d.mpInsert port

/-- PRESENCE_DEBOUNCE (R408): PRES_N has been low for 100 ms. -/
def execPresenceDebounce (port : Nat) (s : State) : Host.Outcome State Fault Refusal :=
  performAlone (.presenceDebounce port) s fun d => d.mpDebounce port

/-- PRESENCE_REMOVE (R410): PRES_N of a port rises. -/
def execPresenceRemove (port : Nat) (s : State) : Host.Outcome State Fault Refusal :=
  perform (.presenceRemove port) s fun _ d => d.mpRemove port

/-- MP_EN_WRITE (R408): PWR_MP_CTL.EN written. -/
def execMpEnWrite (src : Src) (port : Nat) (en : Bool) (s : State) : Host.Outcome State Fault Refusal :=
  perform (.mpEnWrite src port en) s fun L d =>
    d.swCmd L src ⟨.PWR_MP_CTL, dieOf port, port % 8⟩ fun c => putBits c 31 31 (if en then 1 else 0)

/-- MP_CLEAR (R409): PWR_MP_CTL.CLEAR written. -/
def execMpClear (src : Src) (port : Nat) (s : State) : Host.Outcome State Fault Refusal :=
  perform (.mpClear src port) s fun L d => d.swCmd L src ⟨.PWR_MP_CTL, dieOf port, port % 8⟩ fun c => putBits c 0 0 1

/-- MP_POWER_GOOD (R408): VSNS reaches 10.8 V. -/
def execMpPowerGood (port : Nat) (s : State) : Host.Outcome State Fault Refusal :=
  performAlone (.mpPowerGood port) s fun d => d.mpGood port

/-- MP_DISCHARGED (R408): The port rail falls below 2 V. -/
def execMpDischarged (port : Nat) (s : State) : Host.Outcome State Fault Refusal :=
  performAlone (.mpDischarged port) s fun d => d.mpLow port

/-- SHORT (R409): Current reaches the short threshold. -/
def execShort (port : Nat) (s : State) : Host.Outcome State Fault Refusal :=
  perform (.short port) s fun _ d => d.mpCondition port 2

/-- OVERCURRENT (R409): Current is held at ILIM for TFAULT. -/
def execOvercurrent (port : Nat) (s : State) : Host.Outcome State Fault Refusal :=
  perform (.overcurrent port) s fun _ d => d.mpCondition port 1

/-- PG_TIMEOUT (R409): VSNS stays below 10.8 V. -/
def execPgTimeout (port : Nat) (s : State) : Host.Outcome State Fault Refusal :=
  performAlone (.pgTimeout port) s fun d => d.mpCondition port 3

/-- UNDERVOLTAGE (R409): VSNS stays below 10.0 V in ON. -/
def execUndervoltage (port : Nat) (s : State) : Host.Outcome State Fault Refusal :=
  perform (.undervoltage port) s fun _ d => d.mpCondition port 4

/-- DISCHARGE_TIMEOUT (R409): VSNS does not fall below 2 V. -/
def execDischargeTimeout (port : Nat) (s : State) : Host.Outcome State Fault Refusal :=
  performAlone (.dischargeTimeout port) s fun d => d.mpCondition port 5

end Sys2Proof.Machine
end

