-- ==== Sys2Proof/Machine/CmdProt.lean ====
section
/-!
DEFINITION. Commands of the protection units (spec/09).
-/

namespace Sys2Proof.Machine

/-- PROT_PENDING_WRITE (R248): A word of the pending rules written. -/
def execProtPendingWrite (src : Src) (off v at_ : Nat) (s : State) : Host.Outcome State Fault Refusal :=
  perform (.protPendingWrite src off v at_) s fun L d => d.busWrite L src off 4 15 v at_

/-- PROT_COMMIT (R249): PROT_CTL.COMMIT written. -/
def execProtCommit (src : Src) (at_ : Nat) (s : State) : Host.Outcome State Fault Refusal :=
  perform (.protCommit src at_) s fun L d => d.swCmd L src ⟨.PROT_CTL, 0, 0⟩ (fun c => putBits c 0 0 1) at_

/-- PROT_DISCARD (R249): PROT_CTL.DISCARD written. -/
def execProtDiscard (src : Src) (at_ : Nat) (s : State) : Host.Outcome State Fault Refusal :=
  perform (.protDiscard src at_) s fun L d => d.swCmd L src ⟨.PROT_CTL, 0, 0⟩ (fun c => putBits c 1 1 1) at_

/-- PROT_VIO_CLEAR (R246): PROT_VIO_CLR.CLEAR of a unit written. -/
def execProtVioClear (src : Src) (u : Nat) (s : State) : Host.Outcome State Fault Refusal :=
  perform (.protVioClear src u) s fun L d => d.swCmd L src ⟨.PROT_VIO_CLR, 0, u⟩ fun c => putBits c 0 0 1

end Sys2Proof.Machine
end

