-- ==== Sys2Proof/Machine/CmdQueue.lean ====
section
/-!
DEFINITION. Commands of the queues (spec/10).
-/

namespace Sys2Proof.Machine

/-- TAIL of a queue (R259, R265): 63 takes EVQ_CTL.TAIL; a ring's own TAIL counts where the queue is 32 to 47. -/
def Dev.queueTail (d : Dev) (x q : Nat) : Nat :=
  if q = 63 then d.fld EVQ_CTL.TAIL d.evqHome
  else if 32 ≤ q && q < 48 || q = 62 then 0
  else d.fld DIE_Q_CFG.TAIL x q

/-- The tail notice of a queue that holds an item, once until a word is taken (R265). -/
def Dev.tailNotice (d : Dev) (x q : Nat) : Dev :=
  if 32 ≤ q && q < 48 then (d.moverRings x (q - 32)).foldl (fun d r => if (d.ring r).cplq.isEmpty || (d.ring r).tail == 0 then d else d.ringTailNotice r) d
  else
    let s := d.queueSeen x q
    if s.items.isEmpty || s.noticed || d.queueTail x q == 0 then d
    else
      let d := d.setFld DIE_Q_STAT.TAIL x q 1
      if q = 63 then ({ d with evq := { d.evq with noticed := true } } : Dev).irqRaise d.evqHome (.cls 63) 0
      else (d.modQueue x q fun s => { s with noticed := true }).raise x evQueue ⟨.DIE_Q_STAT, x, q⟩ DIE_Q_STAT.TAIL.lo q

/-- QUEUE_FLUSH (R266): DIE_Q_CTL.FLUSH of a queue written. -/
def execQueueFlush (src : Src) (die q : Nat) (s : State) : Host.Outcome State Fault Refusal :=
  perform (.queueFlush src die q) s fun L d => d.swCmd L src ⟨.DIE_Q_CTL, die, q⟩ fun c => putBits c 0 0 1

/-- QUEUE_TAIL_TIMEOUT (R265): A queue's tail timer reaches TAIL. -/
def execQueueTailTimeout (die q : Nat) (s : State) : Host.Outcome State Fault Refusal :=
  perform (.queueTailTimeout die q) s fun _ d => d.timed die fun d => d.tailNotice die q

/-- QUEUE_POINTER_MISMATCH (R268): The pointers of a queue disagree. -/
def execQueuePointerMismatch (die q : Nat) (s : State) : Host.Outcome State Fault Refusal :=
  perform (.queuePointerMismatch die q) s fun _ d => d.queueMismatch die q

end Sys2Proof.Machine
end

