-- ==== Sys2Proof/Machine/CmdRegs.lean ====
section
/-!
DEFINITION. Commands of the control map (spec/01, spec/02): accesses, locks, seals, the access error record.
-/

namespace Sys2Proof.Machine

/-- Offsets from 2^27 on stand for BAR2 (log entry 15). -/
def bar2Base : Nat := 2 ^ 27

/-- REGISTER_WRITE (R56): A register write of any path, performed or rejected. -/
def execRegisterWrite (src : Src) (off len en v64 at_ : Nat) (s : State) : Host.Outcome State Fault Refusal :=
  perform (.registerWrite src off len en v64 at_) s fun L d => d.busWrite L src off len en v64 at_

/-- PKG_CONFIG_APPLY (R32): A die applies the next package configuration write of the lead's order. -/
def execPkgConfigApply (die : Nat) (s : State) : Host.Outcome State Fault Refusal :=
  perform (.pkgConfigApply die) s fun _ d => d.applyNext die

/-- REGISTER_READ_REJECT (R57): A register read of any path, answered or rejected by its form; BAR2 reads zeros (R90). See log entry 15. -/
def execRegisterReadReject (src : Src) (off len : Nat) (s : State) : Host.Outcome State Fault Refusal :=
  perform (.registerReadReject src off len) s fun L d => if bar2Base ≤ off then d.bar2Read src (off - bar2Base) len else d.busRead L src off len

/-- RC_FIELD_READ (R59): A read that covers an RC field clears the bits it returns. -/
def execRcFieldRead (src : Src) (off len : Nat) (s : State) : Host.Outcome State Fault Refusal :=
  perform (.rcFieldRead src off len) s fun L d => d.busRead L src off len

/-- PAIR_LO_READ (R63): A read of a _LO half keeps the _HI half for the path. -/
def execPairLoRead (src : Src) (off len : Nat) (s : State) : Host.Outcome State Fault Refusal :=
  perform (.pairLoRead src off len) s fun L d => d.busRead L src off len

/-- PKG_LOCK_SET (R72): PKG_LOCK.LOCK set in every copy. -/
def execPkgLockSet (src : Src) (s : State) : Host.Outcome State Fault Refusal :=
  perform (.pkgLockSet src) s fun L d => d.swCmd L src ⟨.PKG_LOCK, 0, 0⟩ fun w => putBits w 0 0 1

/-- DIE_LOCK_SET (R68): DIE_LOCK.LOCK of a die set. -/
def execDieLockSet (src : Src) (die : Nat) (s : State) : Host.Outcome State Fault Refusal :=
  perform (.dieLockSet src die) s fun L d => d.swCmd L src ⟨.DIE_LOCK, die, 0⟩ fun w => putBits w 0 0 1

/-- TIL_LOCK_SET (R68): TIL_LOCK.LOCK of a tile set. -/
def execTilLockSet (src : Src) (port : Nat) (s : State) : Host.Outcome State Fault Refusal :=
  perform (.tilLockSet src port) s fun L d => d.swCmd L src ⟨.TIL_LOCK, port, 0⟩ fun w => putBits w 0 0 1

/-- The scrubber visits the register at an offset as its die keeps it (R74). -/
def Dev.scrubAt (d : Dev) (x off : Nat) : Dev :=
  match locate d.n off with
  | some l =>
    if l.isCfg then d.scrub x { l with u := x }
    else if l.reg.spec.block ≠ .pkg ∧ l.keeper = x then d.scrub x l
    else d
  | none => d

/-- SCRUB_VISIT (R74): The three copies of a P field are voted. -/
def execScrubVisit (die off : Nat) (s : State) : Host.Outcome State Fault Refusal :=
  performAlone (.scrubVisit die off) s fun d => d.scrubAt die off

/-- SEAL_PASS_END (R75): The CRC walker of EZ8 ends a pass. -/
def execSealPassEnd (die : Nat) (s : State) : Host.Outcome State Fault Refusal :=
  perform (.sealPassEnd die) s fun _ d => d.sealPass die

/-- SEAL_COMMIT (R76): PKG_SEAL_CTRL.COMMIT written. -/
def execSealCommit (src : Src) (at_ : Nat) (s : State) : Host.Outcome State Fault Refusal :=
  perform (.sealCommit src at_) s fun L d => d.swCmd L src ⟨.PKG_SEAL_CTRL, 0, 0⟩ (fun w => putBits w 0 0 1) at_

/-- ACC_ERR_INFO_READ (R79): Bytes of DIE_ACC_ERR_INFO read; byte 3 releases the record. -/
def execAccErrInfoRead (src : Src) (die sub len : Nat) (s : State) : Host.Outcome State Fault Refusal :=
  perform (.accErrInfoRead src die sub len) s fun L d => d.busRead L src (Loc.offset ⟨.DIE_ACC_ERR_INFO, die, 0⟩ + sub) len

end Sys2Proof.Machine
end

