-- ==== Sys2Proof/Machine/CmdRing.lean ====
section
/-!
DEFINITION. Commands of the rings and movers and their descriptors (spec/12, spec/13).
-/

namespace Sys2Proof.Machine

/-- A batch read has ended (R296): its request leaves the port. -/
def Dev.fetchOver (d : Dev) (r fail : Nat) (bytes : List Byte) : Dev :=
  (d.dropReq (d.ring r).hostDie fun w => w == .ringFetch r).fetchDone r fail bytes

/-- A ring's tail timer reaches TAIL (R317). -/
def Dev.ringTail (d : Dev) (r : Nat) : Dev :=
  if (d.ring r).tail == 0 || ((d.ring r).unnoticed == 0 && (d.ring r).cplq.isEmpty) then d else d.ringTailNotice r

/-- RING_CONFIG_WRITE (R292): A set-up word of a ring written. -/
def execRingConfigWrite (src : Src) (ring word v at_ : Nat) (s : State) : Host.Outcome State Fault Refusal :=
  perform (.ringConfigWrite src ring word v at_) s fun L d =>
    d.busWrite L src (Loc.offset ⟨.RING_CTL, 0, ring⟩ + 4 * word) 4 15 v at_

/-- RING_ENABLE (R293): EN of a ring written 1. -/
def execRingEnable (src : Src) (ring at_ : Nat) (s : State) : Host.Outcome State Fault Refusal :=
  perform (.ringEnable src ring at_) s fun L d =>
    d.swCmd L src ⟨.RING_CTL, 0, ring⟩ (fun c => putBits c RING_CTL.EN.hi RING_CTL.EN.lo 1) at_

/-- RING_DISABLE (R293): EN of a ring written 0. -/
def execRingDisable (src : Src) (ring at_ : Nat) (s : State) : Host.Outcome State Fault Refusal :=
  perform (.ringDisable src ring at_) s fun L d =>
    d.swCmd L src ⟨.RING_CTL, 0, ring⟩ (fun c => putBits c RING_CTL.EN.hi RING_CTL.EN.lo 0) at_

/-- DOORBELL (R295): A write to a BAR2 page, or to RING_DB. See log entry 15. -/
def execDoorbell (src : Src) (ring : Nat) (bar2 : Bool) (pageOff len en value : Nat) (s : State) : Host.Outcome State Fault Refusal :=
  perform (.doorbell src ring bar2 pageOff len en value) s fun L d =>
    if bar2 then d.bar2Write src ring pageOff len en value else d.busWrite L src (Loc.offset ⟨.RING_DB, 0, ring⟩) len en value 255

/-- DESCRIPTOR_FETCH_DONE (R296): A batch read ends. -/
def execDescriptorFetchDone (ring fail : Nat) (bytes : List Byte) (s : State) : Host.Outcome State Fault Refusal :=
  perform (.descriptorFetchDone ring fail bytes) s fun _ d => d.fetchOver ring fail bytes

/-- NOP (R298): A NOP at the head of the ring starts, and completes. -/
def execNop (ring : Nat) (s : State) : Host.Outcome State Fault Refusal :=
  perform (.nop ring) s fun _ d => d.startOp ring 0 fun d x => d.endRun ring x

/-- COPY (R299): A COPY at the head of the ring starts. -/
def execCopy (ring : Nat) (s : State) : Host.Outcome State Fault Refusal :=
  perform (.copy ring) s fun _ d => d.startOp ring 1 fun d x => d.startXfer ring x

/-- FILL (R299): A FILL at the head of the ring starts. -/
def execFill (ring : Nat) (s : State) : Host.Outcome State Fault Refusal :=
  perform (.fill ring) s fun _ d => d.startOp ring 4 fun d x => d.startXfer ring x

/-- RECORD (R300): A RECORD at the head of the ring starts. -/
def execRecord (ring : Nat) (s : State) : Host.Outcome State Fault Refusal :=
  perform (.record ring) s fun _ d => d.startOp ring 2 fun d x => d.startRecord ring x

/-- PLAYBACK (R303): A PLAYBACK at the head of the ring starts. -/
def execPlayback (ring : Nat) (s : State) : Host.Outcome State Fault Refusal :=
  perform (.playback ring) s fun _ d => d.startOp ring 3 fun d x => d.startPlayback ring x

/-- TABLE_SWITCH (R304): A TABLE_SWITCH at the head of the ring starts. -/
def execTableSwitch (ring : Nat) (s : State) : Host.Outcome State Fault Refusal :=
  perform (.tableSwitch ring) s fun _ d => d.startOp ring 5 fun d x => d.startSwitch ring x

/-- TABLE_SWITCH_DRAINED (R304): DRAINED reads all ones after a TABLE_SWITCH. -/
def execTableSwitchDrained (ring : Nat) (s : State) : Host.Outcome State Fault Refusal :=
  perform (.tableSwitchDrained ring) s fun _ d => d.switchDone ring

/-- FENCE (R305): A FENCE at the head of the ring starts. -/
def execFence (ring : Nat) (s : State) : Host.Outcome State Fault Refusal :=
  perform (.fence ring) s fun _ d => d.startOp ring 6 fun d x => d.startFence ring x

/-- FENCE_SATISFIED (R305): The ring that a fence awaits has reached its count. -/
def execFenceSatisfied (ring : Nat) (s : State) : Host.Outcome State Fault Refusal :=
  perform (.fenceSatisfied ring) s fun _ d => d.fenceEnd ring false

/-- FENCE_TIMEOUT (R305): LIMIT of a fence passes. -/
def execFenceTimeout (ring : Nat) (s : State) : Host.Outcome State Fault Refusal :=
  perform (.fenceTimeout ring) s fun _ d => d.timed (d.ringDie ring) fun d => d.fenceEnd ring true

/-- RING_NOTE_TAIL_EXPIRY (R317): The ring's tail timer expires. -/
def execRingNoteTailExpiry (ring : Nat) (s : State) : Host.Outcome State Fault Refusal :=
  perform (.ringNoteTailExpiry ring) s fun _ d => d.timed (d.ringDie ring) fun d => d.ringTail ring

/-- RING_CPL_RD_WRITE (R316): CPL_RD of a ring written. -/
def execRingCplRdWrite (src : Src) (ring v : Nat) (s : State) : Host.Outcome State Fault Refusal :=
  perform (.ringCplRdWrite src ring v) s fun L d =>
    d.swCmd L src ⟨.RING_CPL_PTR, 0, ring⟩ fun c => putBits c RING_CPL_PTR.CPL_RD.hi RING_CPL_PTR.CPL_RD.lo v

/-- RING_STOP (R318): RING_CMD.STOP. -/
def execRingStop (src : Src) (ring : Nat) (s : State) : Host.Outcome State Fault Refusal :=
  perform (.ringStop src ring) s fun L d => d.swCmd L src ⟨.RING_CMD, 0, ring⟩ fun c => putBits c 0 0 1

/-- RING_RESUME (R318): RING_CMD.RESUME. -/
def execRingResume (src : Src) (ring : Nat) (s : State) : Host.Outcome State Fault Refusal :=
  perform (.ringResume src ring) s fun L d => d.swCmd L src ⟨.RING_CMD, 0, ring⟩ fun c => putBits c 1 1 1

/-- RING_RESET (R318): RING_CMD.RESET. -/
def execRingReset (src : Src) (ring : Nat) (s : State) : Host.Outcome State Fault Refusal :=
  perform (.ringReset src ring) s fun L d => d.swCmd L src ⟨.RING_CMD, 0, ring⟩ fun c => putBits c 2 2 1

/-- RING_RESET_DONE (R318): The reset of a ring ends. -/
def execRingResetDone (ring : Nat) (s : State) : Host.Outcome State Fault Refusal :=
  perform (.ringResetDone ring) s fun _ d => d.ringResetEnd ring

/-- MOVER_RESET (R319): MOV_CTL.RESET of a mover. -/
def execMoverReset (src : Src) (die m : Nat) (s : State) : Host.Outcome State Fault Refusal :=
  perform (.moverReset src die m) s fun L d => d.swCmd L src ⟨.MOV_CTL, 0, movIdx die m⟩ fun c => putBits c 31 31 1

/-- STRIPE_CONFIG_WRITE (R308): A word of a stripe set written. -/
def execStripeConfigWrite (src : Src) (s_ word v at_ : Nat) (s : State) : Host.Outcome State Fault Refusal :=
  perform (.stripeConfigWrite src s_ word v at_) s fun L d =>
    d.busWrite L src (Loc.offset ⟨.STRIPE_CTL, 0, s_⟩ + 4 * word) 4 15 v at_

end Sys2Proof.Machine
end

