-- ==== Sys2Proof/Machine/CmdScan.lean ====
section
/-!
DEFINITION. Commands of boundary scan (spec/16 R413, R414).
-/

namespace Sys2Proof.Machine

/-- EXTEST (R414): The instruction EXTEST is loaded. -/
def execExtest (die : Nat) (s : State) : Host.Outcome State Fault Refusal :=
  performAlone (.extest die) s fun d => d.scan die 0

/-- SAMPLE_PRELOAD (R413): The instruction SAMPLE_PRELOAD is loaded. -/
def execSamplePreload (die : Nat) (s : State) : Host.Outcome State Fault Refusal :=
  performAlone (.samplePreload die) s fun d => d.scan die 1

/-- IDCODE (R413): The instruction IDCODE is loaded. -/
def execIdcode (die : Nat) (s : State) : Host.Outcome State Fault Refusal :=
  performAlone (.idcode die) s fun d => d.scan die 2

/-- CLAMP (R414): The instruction CLAMP is loaded. -/
def execClamp (die : Nat) (s : State) : Host.Outcome State Fault Refusal :=
  performAlone (.clamp die) s fun d => d.scan die 4

/-- HIGHZ (R414): The instruction HIGHZ is loaded. -/
def execHighz (die : Nat) (s : State) : Host.Outcome State Fault Refusal :=
  performAlone (.highz die) s fun d => d.scan die 5

/-- BYPASS (R413): The instruction BYPASS is loaded. -/
def execBypass (die : Nat) (s : State) : Host.Outcome State Fault Refusal :=
  performAlone (.bypass die) s fun d => d.scan die 255

end Sys2Proof.Machine
end

