-- ==== Sys2Proof/Machine/CmdSem.lean ====
section
/-!
DEFINITION. Commands of the semaphores (spec/07).
-/

namespace Sys2Proof.Machine

/-- SEM_TAKE (R215): TAKE of a semaphore. -/
def execSemTake (src : Src) (n : Nat) (s : State) : Host.Outcome State Fault Refusal :=
  perform (.semTake src n) s fun L d => d.swCmd L src ⟨.SEM_SW, 0, n⟩ fun c => putBits c 0 0 1

/-- SEM_GIVE (R215): GIVE of a semaphore. -/
def execSemGive (src : Src) (n : Nat) (s : State) : Host.Outcome State Fault Refusal :=
  perform (.semGive src n) s fun L d => d.swCmd L src ⟨.SEM_SW, 0, n⟩ fun c => putBits c 1 1 1

/-- SEM_FORCE (R214): FORCE of a semaphore. -/
def execSemForce (src : Src) (n : Nat) (s : State) : Host.Outcome State Fault Refusal :=
  perform (.semForce src n) s fun L d => d.swCmd L src ⟨.SEM_CTL, 0, n⟩ fun c => putBits c 0 0 1

/-- LOCK_TIMEOUT (R214): The lock timeout of a semaphore passes. -/
def execLockTimeout (n : Nat) (s : State) : Host.Outcome State Fault Refusal :=
  perform (.lockTimeout n) s fun _ d => d.timed (d.homeOf n) fun d => d.semForce n

/-- RESERVATION_EXPIRY (R210): A reservation ends. -/
def execReservationExpiry (n : Nat) (s : State) : Host.Outcome State Fault Refusal :=
  perform (.reservationExpiry n) s fun _ d => d.timed (d.homeOf n) fun d => d.semResvEnd n

end Sys2Proof.Machine
end

