-- ==== Sys2Proof/Machine/CmdTap.lean ====
section
/-!
DEFINITION. Commands of the picture taps (spec/13).
-/

namespace Sys2Proof.Machine

/-- TAP_CONFIG_WRITE (R325): A set-up word of a tap set written. -/
def execTapConfigWrite (src : Src) (t word v at_ : Nat) (s : State) : Host.Outcome State Fault Refusal :=
  perform (.tapConfigWrite src t word v at_) s fun L d => d.busWrite L src (Loc.offset ⟨.TAP_CTL, 0, t⟩ + 4 * word) 4 15 v at_

/-- TAP_RESTART (R338): TAP_CMD.RESTART. -/
def execTapRestart (src : Src) (t : Nat) (s : State) : Host.Outcome State Fault Refusal :=
  perform (.tapRestart src t) s fun L d => d.swCmd L src ⟨.TAP_CMD, 0, t⟩ fun c => putBits c 0 0 1

/-- TAP_FINISH (R328): Every tap write of a picture is issued. -/
def execTapFinish (t : Nat) (s : State) : Host.Outcome State Fault Refusal :=
  perform (.tapFinish t) s fun _ d => d.tapFinish t

/-- TAP_SHED (R335): Output staging stays full. -/
def execTapShed (t : Nat) (s : State) : Host.Outcome State Fault Refusal :=
  perform (.tapShed t) s fun _ d => d.tapShed t

/-- TAP_LOG_RD_WRITE (R337): TAP_LOG_PTR.RD written. -/
def execTapLogRdWrite (src : Src) (t v : Nat) (s : State) : Host.Outcome State Fault Refusal :=
  perform (.tapLogRdWrite src t v) s fun L d =>
    d.swCmd L src ⟨.TAP_LOG_PTR, 0, t⟩ fun c => putBits c TAP_LOG_PTR.RD.hi TAP_LOG_PTR.RD.lo v

end Sys2Proof.Machine
end

