-- ==== Sys2Proof/Machine/CmdTile.lean ====
section
/-!
DEFINITION. Commands of bonds, tiles, dies and SRAM banks (spec/14).
-/

namespace Sys2Proof.Machine

/-- TIL_BOND_WRITE (R345): TIL_BOND written. -/
def execTilBondWrite (src : Src) (port v : Nat) (s : State) : Host.Outcome State Fault Refusal :=
  perform (.tilBondWrite src port v) s fun L d => d.busWrite L src (Loc.offset ⟨.TIL_BOND, port, 0⟩) 4 15 v 255

/-- BOND_BREAK (R351): TIL_BOND.EN written 0. -/
def execBondBreak (src : Src) (port : Nat) (s : State) : Host.Outcome State Fault Refusal :=
  perform (.bondBreak src port) s fun L d => d.swCmd L src ⟨.TIL_BOND, port, 0⟩ fun c => putBits c TIL_BOND.EN.hi TIL_BOND.EN.lo 0

/-- EVACUATE (R354): TIL_SVC.EVACUATE. -/
def execEvacuate (src : Src) (port : Nat) (s : State) : Host.Outcome State Fault Refusal :=
  perform (.evacuate src port) s fun L d => d.swCmd L src ⟨.TIL_SVC, port, 0⟩ fun c => putBits c 0 0 1

/-- EVACUATION_DRAINED (R354): The last open transaction of an evacuated tile ends. -/
def execEvacuationDrained (port : Nat) (s : State) : Host.Outcome State Fault Refusal :=
  perform (.evacuationDrained port) s fun _ d => d.evacDrained port

/-- TILE_RETURN (R354): TIL_SVC.RETURN. -/
def execTileReturn (src : Src) (port : Nat) (s : State) : Host.Outcome State Fault Refusal :=
  perform (.tileReturn src port) s fun L d => d.swCmd L src ⟨.TIL_SVC, port, 0⟩ fun c => putBits c 2 2 1

/-- TILE_RESET (R357): TIL_SVC.RESET. -/
def execTileReset (src : Src) (port : Nat) (s : State) : Host.Outcome State Fault Refusal :=
  perform (.tileReset src port) s fun L d => d.swCmd L src ⟨.TIL_SVC, port, 0⟩ fun c => putBits c 1 1 1

/-- TILE_RESET_DONE (R357): A tile reset ends. -/
def execTileResetDone (port : Nat) (ok : Bool) (s : State) : Host.Outcome State Fault Refusal :=
  perform (.tileResetDone port ok) s fun _ d => d.tileTested port ok

/-- RECAL (R367): TIL_SVC.RECAL. -/
def execRecal (src : Src) (port : Nat) (s : State) : Host.Outcome State Fault Refusal :=
  perform (.recal src port) s fun L d => d.swCmd L src ⟨.TIL_SVC, port, 0⟩ fun c => putBits c 3 3 1

/-- LANE_RECALIBRATION_DONE (R367): The recalibration of one half of a port's lanes ends. -/
def execLaneRecalibrationDone (port badLanes : Nat) (s : State) : Host.Outcome State Fault Refusal :=
  perform (.laneRecalibrationDone port badLanes) s fun _ d => d.recalDone port badLanes

/-- TILE_FAULT (R355): A tile's checks find a fault. -/
def execTileFault (port : Nat) (s : State) : Host.Outcome State Fault Refusal :=
  perform (.tileFault port) s fun _ d => d.tileFault port

/-- DIE_RESET (R358): DIE_SVC.RESET. -/
def execDieReset (src : Src) (die : Nat) (s : State) : Host.Outcome State Fault Refusal :=
  perform (.dieReset src die) s fun L d => d.swCmd L src ⟨.DIE_SVC, die, 0⟩ fun c => putBits c 0 0 1

/-- DIE_RESET_DRAINED (R358): The die domain is reset, once nothing is open on it. -/
def execDieResetDrained (die badBanks : Nat) (s : State) : Host.Outcome State Fault Refusal :=
  performDieReset (.dieResetDrained die badBanks) die s fun _ d => d.dieDrained die badBanks

/-- SRAM_UNCORRECTABLE (R359): An uncorrectable error retires a bank. -/
def execSramUncorrectable (die bank : Nat) (s : State) : Host.Outcome State Fault Refusal :=
  perform (.sramUncorrectable die bank) s fun _ d => d.sramFail die bank

/-- SRAM_CORRECTED (R359): A corrected error counts. -/
def execSramCorrected (die : Nat) (s : State) : Host.Outcome State Fault Refusal :=
  performAlone (.sramCorrected die) s fun d => d.sramFixed die

end Sys2Proof.Machine
end

