-- ==== Sys2Proof/Machine/CmdWindow.lean ====
section
/-!
DEFINITION. Commands of the translation windows and their caches (spec/06, spec/07).
-/

namespace Sys2Proof.Machine

/-- The n-th held run of a tile issued (R182). -/
def Dev.runOut (d : Dev) (p n : Nat) : Dev :=
  match (d.port p).runs[n]? with
  | some r => d.flushRuns p fun q => q == r
  | none => d

/-- The n-th prefetched block of a tile grown old (R185). -/
def Dev.pfAge (d : Dev) (p n : Nat) : Dev :=
  match (d.port p).pf[n]? with
  | some b => if b.want = 0 then d.pfDrop p (fun q => q == b) 1 else d
  | none => d

/-- A read of a page line has ended (R171): its request leaves the port that made it. -/
def Dev.lineDone (d : Dev) (x id : Nat) (entries : Option (List Nat)) : Dev :=
  (d.dies.foldl (fun d y => d.dropReq y fun w => w == .page x id) d).pageDone x id entries

/-- First register of a window (R167). -/
def winLoc (inb : Bool) (w : Nat) : Loc := ⟨winReg inb .WIN_O_CTL, 0, w⟩

/-- WINDOW_WRITE (R165): A word of a window written. -/
def execWindowWrite (src : Src) (inb : Bool) (w word v at_ : Nat) (s : State) : Host.Outcome State Fault Refusal :=
  perform (.windowWrite src inb w word v at_) s fun L d => d.busWrite L src ((winLoc inb w).offset + 4 * word) 4 15 v at_

/-- WINDOW_DISABLE (R167): EN of a window written 0. -/
def execWindowDisable (src : Src) (inb : Bool) (w at_ : Nat) (s : State) : Host.Outcome State Fault Refusal :=
  perform (.windowDisable src inb w at_) s fun L d => d.swCmd L src (winLoc inb w) (fun c => putBits c 31 31 0) at_

/-- PAGE_LINE_READ_DONE (R171): A page line read ends. -/
def execPageLineReadDone (die id : Nat) (entries : Option (List Nat)) (s : State) : Host.Outcome State Fault Refusal :=
  perform (.pageLineReadDone die id entries) s fun _ d => d.lineDone die id entries

/-- TC_INVAL_WINDOW (R172): TC_INVAL for one table of one window. -/
def execTcInvalWindow (src : Src) (inb tableB : Bool) (w at_ : Nat) (s : State) : Host.Outcome State Fault Refusal :=
  perform (.tcInvalWindow src inb tableB w at_) s fun L d =>
    d.swCmd L src ⟨.TC_INVAL, 0, 0⟩ (fun _ => BitVec.ofNat 32 (bitIf inb 30 + bitIf tableB 29 + w)) at_

/-- TC_INVAL_ALL (R172): TC_INVAL with ALL. -/
def execTcInvalAll (src : Src) (at_ : Nat) (s : State) : Host.Outcome State Fault Refusal :=
  perform (.tcInvalAll src at_) s fun L d => d.swCmd L src ⟨.TC_INVAL, 0, 0⟩ (fun _ => BitVec.ofNat 32 (2 ^ 31)) at_

/-- TC_INVAL_PAGE_ONLY (R172): TC_INVAL with PAGE_ONLY. -/
def execTcInvalPageOnly (src : Src) (inb tableB : Bool) (w at_ : Nat) (s : State) : Host.Outcome State Fault Refusal :=
  perform (.tcInvalPageOnly src inb tableB w at_) s fun L d =>
    d.swCmd L src ⟨.TC_INVAL, 0, 0⟩ (fun _ => BitVec.ofNat 32 (bitIf inb 30 + bitIf tableB 29 + 2 ^ 28 + w)) at_

/-- TC_SWITCH (R190): TC_SWITCH written with a group. -/
def execTcSwitch (src : Src) (group at_ : Nat) (s : State) : Host.Outcome State Fault Refusal :=
  perform (.tcSwitch src group at_) s fun L d => d.swCmd L src ⟨.TC_SWITCH, 0, 0⟩ (fun c => putBits c 7 0 group) at_

/-- WC_HOLD_EXPIRY (R182): WC_HOLD passes for a held run. -/
def execWcHoldExpiry (port idx : Nat) (s : State) : Host.Outcome State Fault Refusal :=
  perform (.wcHoldExpiry port idx) s fun _ d => d.timed (dieOf port) fun d => d.runOut port idx

/-- PREFETCH_AGE_EXPIRY (R185): PF_LIFE passes for a prefetched block. -/
def execPrefetchAgeExpiry (port idx : Nat) (s : State) : Host.Outcome State Fault Refusal :=
  perform (.prefetchAgeExpiry port idx) s fun _ d => d.timed (dieOf port) fun d => d.pfAge port idx

/-- TC_PFD_READ (R189): A word of the prefetch-discard log read. -/
def execTcPfdRead (src : Src) (die : Nat) (s : State) : Host.Outcome State Fault Refusal :=
  perform (.tcPfdRead src die) s fun L d => d.busRead L src (Loc.offset ⟨.TC_PFD_READ, die, 0⟩) 4

/-- MIRE_CLEAR (R206): ERR_MIRE_CLR written for a window. -/
def execMireClear (src : Src) (inb : Bool) (w : Nat) (s : State) : Host.Outcome State Fault Refusal :=
  perform (.mireClear src inb w) s fun L d =>
    d.swCmd L src ⟨.ERR_MIRE_CLR, 0, 0⟩ fun c => putBits (putBits c 31 31 (if inb then 1 else 0)) 11 0 w

end Sys2Proof.Machine
end

