-- ==== Sys2Proof/Machine/Dispatch.lean ====
section
/-! DEFINITION. One arm per command, each one call of its meaning. -/

namespace Sys2Proof.Machine

def exec (i : Instr) (s : State) : Host.Outcome State Fault Refusal :=
  match i with
  | .registerWrite src off len en v64 at_ => Sys2Proof.Machine.execRegisterWrite src off len en v64 at_ s
  | .pkgConfigApply die => Sys2Proof.Machine.execPkgConfigApply die s
  | .registerReadReject src off len => Sys2Proof.Machine.execRegisterReadReject src off len s
  | .rcFieldRead src off len => Sys2Proof.Machine.execRcFieldRead src off len s
  | .pairLoRead src off len => Sys2Proof.Machine.execPairLoRead src off len s
  | .pkgLockSet src => Sys2Proof.Machine.execPkgLockSet src s
  | .dieLockSet src die => Sys2Proof.Machine.execDieLockSet src die s
  | .tilLockSet src port => Sys2Proof.Machine.execTilLockSet src port s
  | .scrubVisit die off => Sys2Proof.Machine.execScrubVisit die off s
  | .sealPassEnd die => Sys2Proof.Machine.execSealPassEnd die s
  | .sealCommit src at_ => Sys2Proof.Machine.execSealCommit src at_ s
  | .accErrInfoRead src die sub len => Sys2Proof.Machine.execAccErrInfoRead src die sub len s
  | .pcieConfigRequest die req => Sys2Proof.Machine.execPcieConfigRequest die req s
  | .functionLevelReset die => Sys2Proof.Machine.execFunctionLevelReset die s
  | .flrReady die => Sys2Proof.Machine.execFlrReady die s
  | .outboundRead src off en => Sys2Proof.Machine.execOutboundRead src off en s
  | .outboundWrite src off bytes => Sys2Proof.Machine.execOutboundWrite src off bytes s
  | .atomicOp src off op size operand compare => Sys2Proof.Machine.execAtomicOp src off op size operand compare s
  | .pcieUnsupportedRequest src posted at_ => Sys2Proof.Machine.execPcieUnsupportedRequest src posted at_ s
  | .pcieMessage die msg => Sys2Proof.Machine.execPcieMessage die msg s
  | .pcieVendorMessage die type1 => Sys2Proof.Machine.execPcieVendorMessage die type1 s
  | .pcieCompletionReceived die tag status poison last data => Sys2Proof.Machine.execPcieCompletionReceived die tag status poison last data s
  | .pcieCompletionTimeout die tag => Sys2Proof.Machine.execPcieCompletionTimeout die tag s
  | .npLimitExpiry die id => Sys2Proof.Machine.execNpLimitExpiry die id s
  | .holdExpiry die id => Sys2Proof.Machine.execHoldExpiry die id s
  | .pcieLinkUp die rate width flit => Sys2Proof.Machine.execPcieLinkUp die rate width flit s
  | .pciePerst die => Sys2Proof.Machine.execPciePerst die s
  | .pcieHotReset die => Sys2Proof.Machine.execPcieHotReset die s
  | .pcieLinkDown die => Sys2Proof.Machine.execPcieLinkDown die s
  | .pcieLinkRetrain die rate width => Sys2Proof.Machine.execPcieLinkRetrain die rate width s
  | .l0pNarrow die => Sys2Proof.Machine.execL0pNarrow die s
  | .l0pWiden die => Sys2Proof.Machine.execL0pWiden die s
  | .l0pPartnerRequest die width => Sys2Proof.Machine.execL0pPartnerRequest die width s
  | .ltrIdleTimeout die => Sys2Proof.Machine.execLtrIdleTimeout die s
  | .bbFrameBad port kind => Sys2Proof.Machine.execBbFrameBad port kind s
  | .repeatRequestTimer port => Sys2Proof.Machine.execRepeatRequestTimer port s
  | .idlReceived port rep rxNext => Sys2Proof.Machine.execIdlReceived port rep rxNext s
  | .ackIdlInterval port => Sys2Proof.Machine.execAckIdlInterval port s
  | .skpInterval port => Sys2Proof.Machine.execSkpInterval port s
  | .replayStallTimeout port => Sys2Proof.Machine.execReplayStallTimeout port s
  | .synReceived port lane syn => Sys2Proof.Machine.execSynReceived port lane syn s
  | .bbLaneLock port lane => Sys2Proof.Machine.execBbLaneLock port lane s
  | .rateChangeIdleEnd port => Sys2Proof.Machine.execRateChangeIdleEnd port s
  | .eqAdaptDone port => Sys2Proof.Machine.execEqAdaptDone port s
  | .detectRetry port => Sys2Proof.Machine.execDetectRetry port s
  | .failedRetry port => Sys2Proof.Machine.execFailedRetry port s
  | .retrainPartnerTimeout port => Sys2Proof.Machine.execRetrainPartnerTimeout port s
  | .laneLockLoss port lane => Sys2Proof.Machine.execLaneLockLoss port lane s
  | .healthWindowEnd port => Sys2Proof.Machine.execHealthWindowEnd port s
  | .bbLinkEnable src port => Sys2Proof.Machine.execBbLinkEnable src port s
  | .bbLinkDisable src port => Sys2Proof.Machine.execBbLinkDisable src port s
  | .widen src port => Sys2Proof.Machine.execWiden src port s
  | .retrain src port => Sys2Proof.Machine.execRetrain src port s
  | .adrReceived port lseq adr => Sys2Proof.Machine.execAdrReceived port lseq adr s
  | .datReceived port lseq dat => Sys2Proof.Machine.execDatReceived port lseq dat s
  | .lckReceived port lseq adr => Sys2Proof.Machine.execLckReceived port lseq adr s
  | .ulkReceived port lseq h => Sys2Proof.Machine.execUlkReceived port lseq h s
  | .ackReceived port lseq h => Sys2Proof.Machine.execAckReceived port lseq h s
  | .berrReceived port lseq h code => Sys2Proof.Machine.execBerrReceived port lseq h code s
  | .rtyReceived port lseq h reason hint => Sys2Proof.Machine.execRtyReceived port lseq h reason hint s
  | .retryWaitEnd port => Sys2Proof.Machine.execRetryWaitEnd port s
  | .retryStartDecay port => Sys2Proof.Machine.execRetryStartDecay port s
  | .unknownTypeDiscard port p => Sys2Proof.Machine.execUnknownTypeDiscard port p s
  | .irqReceived port lseq assert_ roak level vector => Sys2Proof.Machine.execIrqReceived port lseq assert_ roak level vector s
  | .iakReceived port lseq level vector => Sys2Proof.Machine.execIakReceived port lseq level vector s
  | .iakSend src port level => Sys2Proof.Machine.execIakSend src port level s
  | .busTimerExpiry port asInitiator => Sys2Proof.Machine.execBusTimerExpiry port asInitiator s
  | .quietPeriodEnd port => Sys2Proof.Machine.execQuietPeriodEnd port s
  | .tgtLimitExpiry port => Sys2Proof.Machine.execTgtLimitExpiry port s
  | .windowWrite src inb w word v at_ => Sys2Proof.Machine.execWindowWrite src inb w word v at_ s
  | .windowDisable src inb w at_ => Sys2Proof.Machine.execWindowDisable src inb w at_ s
  | .pageLineReadDone die id entries => Sys2Proof.Machine.execPageLineReadDone die id entries s
  | .tcInvalWindow src inb tableB w at_ => Sys2Proof.Machine.execTcInvalWindow src inb tableB w at_ s
  | .tcInvalAll src at_ => Sys2Proof.Machine.execTcInvalAll src at_ s
  | .tcInvalPageOnly src inb tableB w at_ => Sys2Proof.Machine.execTcInvalPageOnly src inb tableB w at_ s
  | .tcSwitch src group at_ => Sys2Proof.Machine.execTcSwitch src group at_ s
  | .wcHoldExpiry port idx => Sys2Proof.Machine.execWcHoldExpiry port idx s
  | .prefetchAgeExpiry port idx => Sys2Proof.Machine.execPrefetchAgeExpiry port idx s
  | .tcPfdRead src die => Sys2Proof.Machine.execTcPfdRead src die s
  | .mireClear src inb w => Sys2Proof.Machine.execMireClear src inb w s
  | .semTake src n => Sys2Proof.Machine.execSemTake src n s
  | .semGive src n => Sys2Proof.Machine.execSemGive src n s
  | .semForce src n => Sys2Proof.Machine.execSemForce src n s
  | .lockTimeout n => Sys2Proof.Machine.execLockTimeout n s
  | .reservationExpiry n => Sys2Proof.Machine.execReservationExpiry n s
  | .irqEntryWrite src off v at_ => Sys2Proof.Machine.execIrqEntryWrite src off v at_ s
  | .irqBboutPendRead src port level sub len => Sys2Proof.Machine.execIrqBboutPendRead src port level sub len s
  | .msixModExpiry entry => Sys2Proof.Machine.execMsixModExpiry entry s
  | .nmiReceived die => Sys2Proof.Machine.execNmiReceived die s
  | .nmiCauseRead src sub len => Sys2Proof.Machine.execNmiCauseRead src sub len s
  | .errRead src die => Sys2Proof.Machine.execErrRead src die s
  | .eventArrive e => Sys2Proof.Machine.execEventArrive e s
  | .evqRead src => Sys2Proof.Machine.execEvqRead src s
  | .evqHostRdWrite src v => Sys2Proof.Machine.execEvqHostRdWrite src v s
  | .protPendingWrite src off v at_ => Sys2Proof.Machine.execProtPendingWrite src off v at_ s
  | .protCommit src at_ => Sys2Proof.Machine.execProtCommit src at_ s
  | .protDiscard src at_ => Sys2Proof.Machine.execProtDiscard src at_ s
  | .protVioClear src u => Sys2Proof.Machine.execProtVioClear src u s
  | .queueFlush src die q => Sys2Proof.Machine.execQueueFlush src die q s
  | .queueTailTimeout die q => Sys2Proof.Machine.execQueueTailTimeout die q s
  | .queuePointerMismatch die q => Sys2Proof.Machine.execQueuePointerMismatch die q s
  | .poolConfigWrite src p word v at_ => Sys2Proof.Machine.execPoolConfigWrite src p word v at_ s
  | .poolEnable src p at_ => Sys2Proof.Machine.execPoolEnable src p at_ s
  | .poolDisable src p at_ => Sys2Proof.Machine.execPoolDisable src p at_ s
  | .poolGet src p owner => Sys2Proof.Machine.execPoolGet src p owner s
  | .poolShare src p owner newOwner => Sys2Proof.Machine.execPoolShare src p owner newOwner s
  | .poolRelease src p owner => Sys2Proof.Machine.execPoolRelease src p owner s
  | .poolFree src p owner => Sys2Proof.Machine.execPoolFree src p owner s
  | .poolCmdBadOp src op p => Sys2Proof.Machine.execPoolCmdBadOp src op p s
  | .poolRefillDone p entries => Sys2Proof.Machine.execPoolRefillDone p entries s
  | .poolStateReadDone p id entry => Sys2Proof.Machine.execPoolStateReadDone p id entry s
  | .ringConfigWrite src ring word v at_ => Sys2Proof.Machine.execRingConfigWrite src ring word v at_ s
  | .ringEnable src ring at_ => Sys2Proof.Machine.execRingEnable src ring at_ s
  | .ringDisable src ring at_ => Sys2Proof.Machine.execRingDisable src ring at_ s
  | .doorbell src ring bar2 pageOff len en value => Sys2Proof.Machine.execDoorbell src ring bar2 pageOff len en value s
  | .descriptorFetchDone ring fail bytes => Sys2Proof.Machine.execDescriptorFetchDone ring fail bytes s
  | .nop ring => Sys2Proof.Machine.execNop ring s
  | .copy ring => Sys2Proof.Machine.execCopy ring s
  | .fill ring => Sys2Proof.Machine.execFill ring s
  | .record ring => Sys2Proof.Machine.execRecord ring s
  | .playback ring => Sys2Proof.Machine.execPlayback ring s
  | .tableSwitch ring => Sys2Proof.Machine.execTableSwitch ring s
  | .tableSwitchDrained ring => Sys2Proof.Machine.execTableSwitchDrained ring s
  | .fence ring => Sys2Proof.Machine.execFence ring s
  | .fenceSatisfied ring => Sys2Proof.Machine.execFenceSatisfied ring s
  | .fenceTimeout ring => Sys2Proof.Machine.execFenceTimeout ring s
  | .ringNoteTailExpiry ring => Sys2Proof.Machine.execRingNoteTailExpiry ring s
  | .ringCplRdWrite src ring v => Sys2Proof.Machine.execRingCplRdWrite src ring v s
  | .ringStop src ring => Sys2Proof.Machine.execRingStop src ring s
  | .ringResume src ring => Sys2Proof.Machine.execRingResume src ring s
  | .ringReset src ring => Sys2Proof.Machine.execRingReset src ring s
  | .ringResetDone ring => Sys2Proof.Machine.execRingResetDone ring s
  | .moverReset src die m => Sys2Proof.Machine.execMoverReset src die m s
  | .stripeConfigWrite src s_ word v at_ => Sys2Proof.Machine.execStripeConfigWrite src s_ word v at_ s
  | .tapConfigWrite src t word v at_ => Sys2Proof.Machine.execTapConfigWrite src t word v at_ s
  | .tapRestart src t => Sys2Proof.Machine.execTapRestart src t s
  | .tapFinish t => Sys2Proof.Machine.execTapFinish t s
  | .tapShed t => Sys2Proof.Machine.execTapShed t s
  | .tapLogRdWrite src t v => Sys2Proof.Machine.execTapLogRdWrite src t v s
  | .tilBondWrite src port v => Sys2Proof.Machine.execTilBondWrite src port v s
  | .bondBreak src port => Sys2Proof.Machine.execBondBreak src port s
  | .evacuate src port => Sys2Proof.Machine.execEvacuate src port s
  | .evacuationDrained port => Sys2Proof.Machine.execEvacuationDrained port s
  | .tileReturn src port => Sys2Proof.Machine.execTileReturn src port s
  | .tileReset src port => Sys2Proof.Machine.execTileReset src port s
  | .tileResetDone port ok => Sys2Proof.Machine.execTileResetDone port ok s
  | .recal src port => Sys2Proof.Machine.execRecal src port s
  | .tileFault port => Sys2Proof.Machine.execTileFault port s
  | .dieReset src die => Sys2Proof.Machine.execDieReset src die s
  | .dieResetDrained die badBanks => Sys2Proof.Machine.execDieResetDrained die badBanks s
  | .leadHandoff src die => Sys2Proof.Machine.execLeadHandoff src die s
  | .handoffTimeout => Sys2Proof.Machine.execHandoffTimeout s
  | .mcRestart src die image => Sys2Proof.Machine.execMcRestart src die image s
  | .mcRejoin die loaded => Sys2Proof.Machine.execMcRejoin die loaded s
  | .pllSwap src die => Sys2Proof.Machine.execPllSwap src die s
  | .pllLock die which => Sys2Proof.Machine.execPllLock die which s
  | .heartbeatSend die => Sys2Proof.Machine.execHeartbeatSend die s
  | .heartbeatReceived die from_ => Sys2Proof.Machine.execHeartbeatReceived die from_ s
  | .heartbeatMiss die from_ => Sys2Proof.Machine.execHeartbeatMiss die from_ s
  | .leadClaimReceived die claimant => Sys2Proof.Machine.execLeadClaimReceived die claimant s
  | .sramUncorrectable die bank => Sys2Proof.Machine.execSramUncorrectable die bank s
  | .sramCorrected die => Sys2Proof.Machine.execSramCorrected die s
  | .mortarPacketReceived die link pkt => Sys2Proof.Machine.execMortarPacketReceived die link pkt s
  | .mortarLinkFail die link => Sys2Proof.Machine.execMortarLinkFail die link s
  | .mortarDegrade die link => Sys2Proof.Machine.execMortarDegrade die link s
  | .clockMonitorResult die mon count => Sys2Proof.Machine.execClockMonitorResult die mon count s
  | .arbitrationResult die count => Sys2Proof.Machine.execArbitrationResult die count s
  | .pllReferenceLoss die pll => Sys2Proof.Machine.execPllReferenceLoss die pll s
  | .muxHang die mux edges => Sys2Proof.Machine.execMuxHang die mux edges s
  | .fioCalDone die khz => Sys2Proof.Machine.execFioCalDone die khz s
  | .sleepEnter src die => Sys2Proof.Machine.execSleepEnter src die s
  | .wakeEvent die cause => Sys2Proof.Machine.execWakeEvent die cause s
  | .wakeTimerExpiry die => Sys2Proof.Machine.execWakeTimerExpiry die s
  | .tempSample die t => Sys2Proof.Machine.execTempSample die t s
  | .railUndervoltage die rail => Sys2Proof.Machine.execRailUndervoltage die rail s
  | .pkgReset cold => Sys2Proof.Machine.execPkgReset cold s
  | .pkgResetRelease board hw => Sys2Proof.Machine.execPkgResetRelease board hw s
  | .bootStepTimeout die => Sys2Proof.Machine.execBootStepTimeout die s
  | .failedStartReset hw => Sys2Proof.Machine.execFailedStartReset hw s
  | .flashRead src die => Sys2Proof.Machine.execFlashRead src die s
  | .flashErase src die => Sys2Proof.Machine.execFlashErase src die s
  | .flashProgram src die => Sys2Proof.Machine.execFlashProgram src die s
  | .flashCommandComplete die ok => Sys2Proof.Machine.execFlashCommandComplete die ok s
  | .flashCommandTimeout die => Sys2Proof.Machine.execFlashCommandTimeout die s
  | .markA src die => Sys2Proof.Machine.execMarkA src die s
  | .markB src die => Sys2Proof.Machine.execMarkB src die s
  | .readmit src die mask => Sys2Proof.Machine.execReadmit src die mask s
  | .presenceRemove port => Sys2Proof.Machine.execPresenceRemove port s
  | .presenceDebounce port => Sys2Proof.Machine.execPresenceDebounce port s
  | .mpEnWrite src port en => Sys2Proof.Machine.execMpEnWrite src port en s
  | .mpClear src port => Sys2Proof.Machine.execMpClear src port s
  | .mpPowerGood port => Sys2Proof.Machine.execMpPowerGood port s
  | .mpDischarged port => Sys2Proof.Machine.execMpDischarged port s
  | .short port => Sys2Proof.Machine.execShort port s
  | .overcurrent port => Sys2Proof.Machine.execOvercurrent port s
  | .pgTimeout port => Sys2Proof.Machine.execPgTimeout port s
  | .undervoltage port => Sys2Proof.Machine.execUndervoltage port s
  | .dischargeTimeout port => Sys2Proof.Machine.execDischargeTimeout port s
  | .extest die => Sys2Proof.Machine.execExtest die s
  | .samplePreload die => Sys2Proof.Machine.execSamplePreload die s
  | .idcode die => Sys2Proof.Machine.execIdcode die s
  | .clamp die => Sys2Proof.Machine.execClamp die s
  | .highz die => Sys2Proof.Machine.execHighz die s
  | .bypass die => Sys2Proof.Machine.execBypass die s
  | .monitorLevelSample die slot => Sys2Proof.Machine.execMonitorLevelSample die slot s
  | .monitorClear src die slot => Sys2Proof.Machine.execMonitorClear src die slot s
  | .monitorSourceWrite src die slot v => Sys2Proof.Machine.execMonitorSourceWrite src die slot v s
  | .presenceInsert port => Sys2Proof.Machine.execPresenceInsert port s
  | .perstRelease die => Sys2Proof.Machine.execPerstRelease die s
  | .railRestored board hw => Sys2Proof.Machine.execRailRestored board hw s
  | .laneRecalibrationDone port badLanes => Sys2Proof.Machine.execLaneRecalibrationDone port badLanes s
  | .pcieL1Entry die state => Sys2Proof.Machine.execPcieL1Entry die state s
  | .pcieL1Exit die => Sys2Proof.Machine.execPcieL1Exit die s

end Sys2Proof.Machine
end

