-- ==== Sys2Proof/Machine/Step.lean ====
section
/-!
DEFINITION. One step: the command at the front of the queue, or the passing of a microsecond where none waits.
-/

namespace Sys2Proof.Machine

/-- A microsecond on an empty queue (log entry 2): the counts that stamp events and records advance, unless the package sleeps or is in
reset, or the die's root is held (R380). -/
def State.tick (s : State) : State := { s with dev := s.dev.tickAll }

/-- A step takes the command at the front of the queue and runs it with the rest. -/
def step (s : State) : Host.Outcome State Fault Refusal :=
  match s.pending with
  | [] => .next s.tick
  | i :: rest => exec i { s with pending := rest }

/-- The state with the command that a word spells put at the front of its queue. See log entry 1. -/
def State.withFetchWord (s : State) (nbits w : Nat) : State :=
  match decodeTableWord nbits w with
  | some i => { s with pending := i :: s.pending }
  | none => s

end Sys2Proof.Machine
end

