-- ==== Sys2Proof/Safety.lean ====
section
/-!
DEFINITION. The terms that statements use: commands that can reach the block, accesses that their port and their protection unit let
through, the answer of a write, devices at rest, what a run from a queue of commands keeps.
-/

namespace Sys2Proof.Machine

/-- How many registers a repetition holds. -/
def dimCount (l : List (Nat × Nat)) : Nat := l.foldl (fun m p => m * p.1) 1

/-- Does a package of `n` dies hold the register at a location? Registers of the package block stand at 0. -/
def Loc.fits (l : Loc) (n : Nat) : Bool :=
  decide (l.i < dimCount l.reg.spec.dims) && l.reg.present n l.i &&
    match l.reg.spec.block with
    | .pkg => l.u == 0
    | .die => decide (l.u < n)
    | .tile => decide (l.u < 8 * n)

/-- Can every command that waits reach the block (log entry 1)? -/
def State.Ready (s : State) : Prop := ∀ i ∈ s.pending, s.dev.takes i = true

/-- Does a request that a port takes find its credits (R36, R96)? Controllers and views need none. -/
def Dev.unbarred (d : Dev) (src : Src) (posted : Bool) : Bool := decide (8 ≤ src.path) || !d.waitsCredit src.path posted

/-- Is an access to control space let through: the port has a credit for it and answers memory requests (R36, R87, R450), mortar leads to the
die of every register it touches (R40), a write is not poisoned (R226), and the unit of the port or of the management controller denies no byte
(R244)? A Body Bus view has passed its unit at the tile. -/
def Dev.grants (d : Dev) (src : Src) (off len rw : Nat) : Bool :=
  d.unbarred src (rw == 1) && d.regReach src off len && (rw == 0 || !src.poison) && d.takesMem src &&
    (decide (16 ≤ src.path) || !(d.protCheck (d.srcReq src .ctrl off len rw)).1.denied)

/-- Do the timers of a die run: its root is not held, the package not asleep (R380, R396; log entry 2)? -/
abbrev Dev.Runs (d : Dev) (x : Nat) : Prop := d.rootHeld x = false ∧ d.asleep = false

/-- Is the write of a register's word let through? -/
def Dev.lets (d : Dev) (src : Src) (l : Loc) : Bool := d.grants src l.offset 4 1

/-- A register write of one word is performed: the block remembers the path (R67). -/
def Dev.written (d : Dev) (src : Src) (l : Loc) : Dev := d.served src l.offset

/-- Registers of package configuration whose bit 31 turns their unit on where its set-up is legal. -/
def enabling : List RegId :=
  [.WIN_O_CTL, .WIN_I_CTL, .IRQ_BBIN_CTL, .IRQ_CLASS_CTL, .IRQ_RING_CTL, .POOL_CTL, .RING_CTL, .STRIPE_CTL, .TAP_CTL]

/-- Is the set-up of a unit, as a die's replica has it, one that cannot be enabled (R165, R218, R273, R292, R308, R325)? -/
def Dev.refusesEn (d : Dev) (x : Nat) (l : Loc) : Bool :=
  let irq (bbin : Bool) (c t : RegId) : Bool := irqInvalid d.n bbin (d.reg c x l.i) (d.reg t x l.i)
  match l.reg with
  | .WIN_O_CTL => d.winInvalid x false l.i
  | .WIN_I_CTL => d.winInvalid x true l.i
  | .IRQ_BBIN_CTL => irq true .IRQ_BBIN_CTL .IRQ_BBIN_TGT
  | .IRQ_CLASS_CTL => irq false .IRQ_CLASS_CTL .IRQ_CLASS_TGT
  | .IRQ_RING_CTL => irq false .IRQ_RING_CTL .IRQ_RING_TGT
  | .POOL_CTL => d.poolInvalid x l.i
  | .RING_CTL => d.ringInvalid x l.i
  | .STRIPE_CTL => d.stripeInvalid x l.i
  | .TAP_CTL => d.tapInvalid x l.i
  | _ => false

/-- Does a write of the word `v` to TC_INVAL, applied on a die, name a line of its cache (R172)? -/
def Dev.invalidates (d : Dev) (x : Nat) (v : Word) (l : PageLine) : Bool :=
  let inb := v.getLsbD 30
  let w := bitsOf v 11 0
  let page := if inb then d.fld TC_INVAL_PAGE.PAGE x else d.fld TC_INVAL_PAGE.PAGE x % 2 ^ 19
  v.getLsbD 31 || (l.inb == inb && l.win == w && l.tableB == v.getLsbD 29 &&
    (!v.getLsbD 28 || (l.line == page / 8 && decide (page ≤ ((d.window x inb w).limit - (d.window x inb w).base) / 2 ^ 21))))

/-- The bits `m` of a word put into a register; a protected word opens the seal of its die (R77) and needs no copy at the lead. -/
def Dev.stored (d : Dev) (l : Loc) (m v : Word) : Dev :=
  if m = 0 then d
  else if m &&& l.reg.pMask != 0#32 then
    let e := (d.openSeal l.keeper).put l (merged (d.at l) v m)
    { e with leadCopy := e.leadCopy.set none l.key none }
  else d.put l (merged (d.at l) v m)

/-- A performed write is answered: nothing on a PCI Express port, where it is posted; done to a management controller; ACK to a view. -/
def Dev.answered (d : Dev) (src : Src) : Dev :=
  if src.path < 8 then d
  else if src.path < 16 then d.emit (.mcDone (srcDie src) true false [])
  else d.emit (.viewDone src.port true false [])

/-- A register read of four or fewer words is answered: a completion, the end of a controller's read, or the data of a view. -/
def Dev.readDone (d : Dev) (src : Src) (off : Nat) (data : List Byte) : Dev :=
  if src.path < 8 then d.sendCpl src.path src.rid src.tag off .success false data
  else if src.path < 16 then d.emit (.mcDone (src.path - 8) true false data)
  else d.emit (.viewDone src.port true false data)

/-- Registers outside package configuration whose write stores its bits and sets nothing else in motion. -/
def storing : List RegId :=
  [.MON_SAMPLE, .MON_THRESH, .CLK_CTL, .CLK_WAKE, .PWR_TEMP, .PX_CTRL, .PX_L0P, .TIL_ARB, .BB_LINK_THRESH, .BB_TXN_CTRL, .BB_IRQ_TX,
   .BB_RETRY_CTL]

/-- Can the port send a packet at once: ACTIVE, nothing waits, fewer than 64 packets unacknowledged (R115)? -/
def Dev.Clear (d : Dev) (p : Nat) : Prop :=
  d.fld BB_LINK_STAT.STATE p = 3 ∧ (d.port p).link.waiting = [] ∧ (d.port p).link.replay.length < 63

/-- A packet sent at once (R115): numbered, kept in the replay store, out. -/
def Dev.sent (d : Dev) (p : Nat) (x : Pkt) : Dev :=
  (d.modLink p fun l =>
    { l with waiting := [], replay := l.replay ++ [(l.txSeq, x)], txSeq := (l.txSeq + 1) % 128, lastDat := x.datRole.getD l.lastDat,
             idlSent := none }).emit
      (.pkt p (d.port p).link.txSeq x)

/-- Is a packet's LSEQ the one an ACTIVE port expects (R116)? -/
def Dev.Expects (d : Dev) (p lseq : Nat) : Prop := d.fld BB_LINK_STAT.STATE p = 3 ∧ lseq % 128 = (d.port p).link.rxNext

/-- The link has taken the packet it expected: it expects the next one, a repeat run is over, an acknowledgement is due. -/
def Dev.accepted (d : Dev) (p : Nat) : Dev :=
  d.modLink p fun l => { l with rxNext := (l.rxNext + 1) % 128, repeatRun := false, repeats := 0, ackDue := true }

/-- Does the protection unit of a port let the whole of an inbound access through (R244)? -/
def Dev.admits (d : Dev) (p : Nat) (a : AdrBody) : Prop :=
  let q : ProtReq := { u := 32 * dieOf p + 1 + p % 8, kind := .bb, addr := a.addr, len := adrLen a, space := amSpace a.am, port := p,
                       sup := amSup a.am, access := 0 }
  ∀ k ∈ [0, 1, 2, 4], (d.protCheck { q with access := k }).1.denied = false

/-- A ring with nothing in progress has its head, of an opcode and well formed, ready to start, and it is the ring's turn (R291, R296). -/
def Dev.Heads (d : Dev) (r op count : Nat) (ws : List Word) (rest : List (Nat × List Word)) : Prop :=
  (d.ring r).staged = (count, ws) :: rest ∧ count < 65536 ∧ descOp ws = op ∧ descVerdict count ws = none ∧ d.turn r = true ∧
    (d.ring r).runs = [] ∧ (d.ring r).cplq = []

/-- The one descriptor of a ring has ended: its completion is staged, with its status and its count (R313). -/
def Dev.Completes (d : Dev) (r count status : Nat) : Prop :=
  (d.ring r).runs = [] ∧ ∃ c : List Word × Bool, (d.ring r).cplq = [c] ∧ wbits c.1 0 15 8 = status ∧ wbits c.1 3 31 16 = count

/-- Nothing is left that goes on by itself: no notice waits, no engine moves, every queue holds what its engine holds. -/
def Dev.Rests (d : Dev) (L : Locks) : Prop := d.nextNote = none ∧ d.pump (L.after d.notes) = d ∧ d.syncQueues = d

/-- Every lock set in the first is set in the second. -/
def Locks.Within (L M : Locks) : Prop :=
  (∀ x : Fin 8, L.pkg[x] = true → M.pkg[x] = true) ∧ (∀ x : Fin 8, L.die[x] = true → M.die[x] = true) ∧
    (∀ t : Fin 64, L.tile[t] = true → M.tile[t] = true)

/-- Every register but those of a list reads the same. -/
def Dev.SameRegs (d e : Dev) (but : List Loc) : Prop := ∀ l : Loc, l ∉ but → e.at l = d.at l

/-- The command answers, where it can reach the block, the next state in which its own effect leaves the device at `e` and what that
effect lets go on has been done. -/
abbrev State.Does (s : State) (i : Instr) (e : Dev) : Prop := s.dev.takes i = true → exec i s = .next (s.after e)

/-- As `Does`, for a command that lets nothing go on: the device of the next state is `e`. -/
abbrev State.DoesOnly (s : State) (i : Instr) (e : Dev) : Prop := s.dev.takes i = true → exec i s = .next (s.withDev e)

/-- As `Does`, of an effect that is said by what holds of the device after it. -/
abbrev State.DoesSome (s : State) (i : Instr) (P : Dev → Prop) : Prop :=
  s.dev.takes i = true → ∃ e : Dev, exec i s = .next (s.after e) ∧ P e

/-- As `DoesOnly`, of an effect that is said by what holds of the device after it. -/
abbrev State.DoesJust (s : State) (i : Instr) (P : Dev → Prop) : Prop :=
  s.dev.takes i = true → ∃ e : Dev, exec i s = .next (s.withDev e) ∧ P e

end Sys2Proof.Machine
end

