-- ==== Sys2Proof/Certificates/Slice0/Obligations.lean ====
section
/-!
DEFINITION. The statements about the block. `s.after e` is the state after a command whose own effect leaves the device at `e`: what
that effect lets go on is then done, which is nothing where `e` rests (Obligations.RestKeepsEffect). `Dev.written`, `Dev.stored` and
`Dev.answered` are the parts of a register write (Safety.lean).
-/

open Sys2Proof Sys2Proof.Machine

/-! ## Semaphores (spec/07) -/

/-- R215: a TAKE of a free semaphore that no port has reserved grants it to the path that wrote it, and counts in SEM_CNT.GRANTS; the
registers, the other semaphores and everything else stay. -/
def Obligations.SemTakeGrants : Prop :=
  ∀ (s : State) (src : Src) (n : Nat), s.dev.lets src ⟨.SEM_SW, 0, n⟩ = true → src.path < 16 → s.dev.sem n = {} →
    s.dev.swHolds src.path = false →
    s.Does (.semTake src n)
      ((((s.dev.written src ⟨.SEM_SW, 0, n⟩).modSem n fun m => { m with holder := some (.software src.path) }).bump
        SEM_CNT.GRANTS 0 n).answered src)
/-- R210, R214, R215: releases. A GIVE of the holding path and a lock timeout leave the semaphore free, the timeout counted in FORCED with
an event at the semaphore's home; FORCE does the same where no controller is away; a reservation ends alone. Nothing waits on the
semaphore, and the timers of its home run (log entry 2). -/
def Obligations.SemReleases : Prop :=
  ∀ (s : State) (src : Src) (n h : Nat), (∀ p ∈ s.dev.livePorts, ∀ w ∈ (s.dev.port p).works, w.lock ≠ some n) →
    (s.dev.sem n = { holder := some (.software h) } → src.path = h → h < 16 → s.dev.lets src ⟨.SEM_SW, 0, n⟩ = true →
      s.Does (.semGive src n) (((s.dev.written src ⟨.SEM_SW, 0, n⟩).modSem n fun _ => {}).answered src)) ∧
    (s.dev.sem n = { holder := some (.software h) } → src.path ≠ h → s.dev.lets src ⟨.SEM_SW, 0, n⟩ = true →
      s.Does (.semGive src n) ((s.dev.written src ⟨.SEM_SW, 0, n⟩).answered src)) ∧
    (s.dev.sem n = { holder := some (.software h) } → s.dev.Runs (s.dev.homeOf n) →
      s.Does (.lockTimeout n) (((s.dev.bump SEM_CNT.FORCED 0 n).raise (s.dev.homeOf n) evSem ⟨.SEM_CNT, 0, n⟩ 0 n).modSem n fun _ => {})) ∧
    (s.dev.sem n = { holder := some (.software h) } → src.path < 16 → s.dev.lets src ⟨.SEM_CTL, 0, n⟩ = true → s.dev.leadBusy = false →
      s.dev.cfgLog = [] → s.dev.applied = [] → s.dev.homeOf n ∈ s.dev.replicas →
      s.DoesSome (.semForce src n) fun e =>
        e.sem n = {} ∧ e.fld SEM_CNT.FORCED 0 n = min (s.dev.fld SEM_CNT.FORCED 0 n + 1) 255 ∧ ∀ k : Nat, k ≠ n → e.sem k = s.dev.sem k) ∧
    (∀ q : Nat, s.dev.sem n = { resv := some q } → s.dev.Runs (s.dev.homeOf n) →
      s.Does (.reservationExpiry n) (s.dev.modSem n fun _ => {}))

/-! ## PCI Express ports (spec/03) -/

/-- R90, R92, R96: a type 0 configuration read of a started function is answered with the DWORD, a write with Successful Completion and
stores its writable bits in the bytes enabled (the Command register and the BARs; a status bit clears by 1), and lets messages and held
requests go; before the function is ready the answer is Request Retry Status; a type 1 request is an Unsupported Request, counted and
logged. A request for which the port has no credit waits. Log entries 8 and 51 hold what the model reads into the rules here. -/
def Obligations.PcieConfigRequests : Prop :=
  ∀ (s : State) (x : Nat) (r : CfgReq),
    (s.dev.waitsCredit x false = true →
      s.Does (.pcieConfigRequest x r) (s.dev.modPx x fun p => { p with inNp := p.inNp ++ [.cfg x r] })) ∧
    (s.dev.waitsCredit x false = false →
    (r.type0 = true → s.dev.flag MC_BOOT_STAT.DONE x = true → (s.dev.px x).flr = false → r.write = false → marginLane r.off = none →
      s.Does (.pcieConfigRequest x r) (s.dev.emit (.cpl x r.rid r.tag .success false (bytesLE (s.dev.cfgRead x r.off).toNat 4)))) ∧
    (∀ w c : Word, r.type0 = true → s.dev.flag MC_BOOT_STAT.DONE x = true → (s.dev.px x).flr = false → r.write = true →
      (r.off, w, c) ∈ [(0x04, 0x0546#32, 0xF9000000#32), (0x10, 0xF8000000#32, 0), (0x14, 0xFFFFFFFF#32, 0), (0x18, 0xFFC00000#32, 0),
        (0x1C, 0xFFFFFFFF#32, 0), (0x24, 0xFFFFFF00#32, 0), (0x3C, 0xFF#32, 0)] →
      s.Does (.pcieConfigRequest x r) (((s.dev.emit (.cpl x r.rid r.tag .success false [])).cfgPut x r.off
        (merged (s.dev.cfgRead x r.off) (BitVec.ofNat 32 r.value) (w &&& byteBits r.en) &&&
          ~~~(BitVec.ofNat 32 r.value &&& byteBits r.en &&& c))).portResume x)) ∧
    (r.type0 = true → (s.dev.px x).flr = true → s.Does (.pcieConfigRequest x r) (s.dev.emit (.cpl x r.rid r.tag .retry false []))) ∧
    (r.type0 = false → s.Does (.pcieConfigRequest x r)
      (((s.dev.bump PX_ERR_COUNT.UR_SENT x).aer x .unsupported true).emit (.cpl x r.rid r.tag .unsupported false []))))

/-- R105: a Function Level Reset discards the completions owed, ends the requests issued, returns the Command register to its reset value,
keeps the link and the requests held or waiting for a tag, and leaves the function not ready until the command FLR_READY, which sets
PX_EVENT.FLR: the reset has completed. R105, R450: PERST_N, a hot reset and a link that goes down discard the completions owed, end the requests issued, clear the
Command register and PX_LINK_STAT, and keep PX_CTRL, PX_L0P and PX_ERR_COUNT; LINK_DOWN is set where the link was up. Requests held wait
on, and those that waited for a tag are held; the requests ended may take the first error pointer and its header.
Log entries 8 and 20 hold what the model reads into the rules here. -/
def Obligations.PcieResets : Prop :=
  (∀ (s : State) (x : Nat),
    s.DoesSome (.functionLevelReset x) (fun e =>
      e.px x = { s.dev.px x with
                 owed := [], issued := [], waitTag := [], heldReq := (s.dev.px x).waitTag ++ (s.dev.px x).heldReq, flr := true,
                 aerFirst := (e.px x).aerFirst, aerLog := (e.px x).aerLog } ∧
        ((s.dev.px x).issued = [] → (e.px x).aerFirst = (s.dev.px x).aerFirst ∧ (e.px x).aerLog = (s.dev.px x).aerLog) ∧
        e.cfgRead x 0x04 = 0x00100000#32 ∧ (∀ l : Loc, e.at l = s.dev.at l) ∧ (∀ y : Nat, y ≠ x → e.px y = s.dev.px y)) ∧
    ((s.dev.px x).flr = true → s.DoesOnly (.flrReady x) ((s.dev.modPx x fun p => { p with flr := false }).pxEvent PX_EVENT.FLR x)) ∧
    ((s.dev.px x).flr = false → s.DoesOnly (.flrReady x) s.dev)) ∧
  (∀ (s : State) (x : Nat) (i : Instr), i ∈ [Instr.pciePerst x, .pcieHotReset x, .pcieLinkDown x] →
    s.DoesSome i (fun e =>
      (e.px x).owed = [] ∧ (e.px x).issued = [] ∧ (e.px x).waitTag = [] ∧ (e.px x).heldReq = (s.dev.px x).waitTag ++ (s.dev.px x).heldReq ∧
        ((e.px x).perst = ((s.dev.px x).perst || i == .pciePerst x)) ∧ (e.px x).inP = [] ∧ (e.px x).inNp = [] ∧ e.cfgRead x 0x04 = 0x00100000#32 ∧
        e.reg .PX_LINK_STAT x = 0 ∧ (s.dev.flag PX_LINK_STAT.UP x = true → e.flag PX_EVENT.LINK_DOWN x = true) ∧
        (∀ l : Loc, l ≠ ⟨.PX_EVENT, x, 0⟩ → l ≠ ⟨.PX_LINK_STAT, x, 0⟩ → e.at l = s.dev.at l) ∧
        (∀ y : Nat, y ≠ x → e.px y = s.dev.px y)))

/-- R450, R105, R102: what the link of a port does. A started port whose PERST_N is released takes the rate and the width it reached, in
L0; a slower or narrower one sets SPEED_DROP; held requests go. A retrain counts in RETRAINS. L1 and its substates are entered from a link
that is up and left for L0. PERST_N released only lets the link train. R103, R81: under L0p with L0P_AUTO a lightly loaded port halves its
width and a loaded one returns to the negotiated width; a width the partner asks for is taken; after 100 µs without a request the port
reports No Requirement. Where their conditions fail these do nothing. Log entries 2, 8 and 20 hold what the model reads into the rules here. -/
def Obligations.PcieLinkStates : Prop :=
  (∀ (s : State) (x rate width : Nat),
    (∀ flit : Bool, s.dev.flag MC_BOOT_STAT.DONE x = true → (s.dev.px x).perst = false → rate = 6 → width = 8 →
      s.Does (.pcieLinkUp x rate width flit) ((((s.dev.modPx x fun p => { p with inL1 := false }).setReg .PX_LINK_STAT x 0
        (if flit then 0xD0006880#32 else 0x90006880#32)).releaseHeld x).portResume x)) ∧
    (∀ flit : Bool, s.dev.flag MC_BOOT_STAT.DONE x = true → (s.dev.px x).perst = false → rate < 6 →
      s.Does (.pcieLinkUp x rate width flit) (((((s.dev.modPx x fun p => { p with inL1 := false }).setReg .PX_LINK_STAT x 0
        (linkStatWord flit rate width)).pxEvent PX_EVENT.SPEED_DROP x).releaseHeld x).portResume x)) ∧
    (s.dev.flag PX_LINK_STAT.UP x = true → rate = 6 → width = 8 → s.dev.flag PX_LINK_STAT.FLIT x = true →
      s.Does (.pcieLinkRetrain x rate width) (((((s.dev.bump PX_ERR_COUNT.RETRAINS x).pxEvent PX_EVENT.RETRAINED x).setReg
        .PX_LINK_STAT x 0 0xD0006880#32).releaseHeld x))) ∧
    (∀ st : Nat, s.dev.flag PX_LINK_STAT.UP x = true →
      s.DoesOnly (.pcieL1Entry x st) ((s.dev.setFld PX_LINK_STAT.STATE x 0 (3 + st)).modPx x fun p => { p with inL1 := true })) ∧
    ((s.dev.px x).inL1 = true →
      s.DoesOnly (.pcieL1Exit x) ((s.dev.setFld PX_LINK_STAT.STATE x 0 2).modPx x fun p => { p with inL1 := false })) ∧
    s.DoesOnly (.perstRelease x) (s.dev.modPx x fun p => { p with perst := false })) ∧
  (∀ (s : State) (x : Nat),
    ((s.dev.cfgRead x 0x288).getLsbD 3 = true → s.dev.fld PX_LINK_STAT.STATE x = 2 →
      (s.dev.flag PX_CTRL.L0P_AUTO x = true → s.dev.fld PX_L0P.LOW_PCT x < s.dev.fld PX_L0P.HIGH_PCT x →
        1 < s.dev.fld PX_LINK_STAT.ACTIVE_WIDTH x →
        s.DoesOnly (.l0pNarrow x) ((s.dev.setFld PX_LINK_STAT.ACTIVE_WIDTH x 0 (s.dev.fld PX_LINK_STAT.ACTIVE_WIDTH x / 2)).emit
          (.l0p x (s.dev.fld PX_LINK_STAT.ACTIVE_WIDTH x / 2)))) ∧
      (s.dev.flag PX_CTRL.L0P_AUTO x = true → s.dev.fld PX_LINK_STAT.ACTIVE_WIDTH x ≠ s.dev.fld PX_LINK_STAT.WIDTH x →
        s.DoesOnly (.l0pWiden x) ((s.dev.setFld PX_LINK_STAT.ACTIVE_WIDTH x 0 (s.dev.fld PX_LINK_STAT.WIDTH x)).emit
          (.l0p x (s.dev.fld PX_LINK_STAT.WIDTH x)))) ∧
      (∀ w : Nat, w ≤ s.dev.fld PX_LINK_STAT.WIDTH x →
        s.DoesOnly (.l0pPartnerRequest x w) ((s.dev.setFld PX_LINK_STAT.ACTIVE_WIDTH x 0 w).emit (.l0p x w)))) ∧
    (s.dev.Runs x → (s.dev.px x).ltrIdle = false → (s.dev.px x).issued = [] → (s.dev.px x).waitTag = [] → (s.dev.px x).heldReq = [] →
      (s.dev.cfgRead x 0x98).getLsbD 10 = true → s.dev.flag PX_LINK_STAT.UP x = true →
      s.DoesOnly (.ltrIdleTimeout x) ((s.dev.modPx x fun p => { p with ltrIdle := true }).emit (.ltr x none))) ∧
    ((s.dev.px x).ltrIdle = true ∨ (s.dev.px x).issued ≠ [] ∨ (s.dev.px x).waitTag ≠ [] ∨ (s.dev.px x).heldReq ≠ [] →
      s.DoesOnly (.ltrIdleTimeout x) s.dev) ∧
    (s.dev.flag PX_LINK_STAT.UP x = false → ∀ st rate width : Nat,
      s.DoesOnly (.pcieL1Entry x st) s.dev ∧ s.Does (.pcieLinkRetrain x rate width) s.dev) ∧
    ((s.dev.px x).inL1 = false → s.DoesOnly (.pcieL1Exit x) s.dev) ∧
    ((s.dev.px x).perst = true → ∀ (rate width : Nat) (flit : Bool), s.Does (.pcieLinkUp x rate width flit) s.dev) ∧
    (s.dev.fld PX_LINK_STAT.STATE x ≠ 2 → ∀ w : Nat,
      s.DoesOnly (.l0pNarrow x) s.dev ∧ s.DoesOnly (.l0pWiden x) s.dev ∧ s.DoesOnly (.l0pPartnerRequest x w) s.dev))

/-- R90, R92: messages of power management and of slot power are acted on, vendor-defined ones are discarded (type 0 logged as
Unsupported Request), and a request that the table of R90 answers with Unsupported Request is counted, logged and, where it is not
posted, answered so; one to a BAR whose protection unit denies it is counted, logged and answered as Completer Abort (R244). The port has
credits for it; without one it waits (R96). Log entries 8, 20 and 51 hold what the model reads into the rules here. -/
def Obligations.PcieMessagesAndUnsupported : Prop :=
  ∀ (s : State) (x : Nat),
    s.DoesOnly (.pcieMessage x .pmTurnOff) (s.dev.emit (.pcieMsg x true)) ∧
    s.DoesOnly (.pcieMessage x .pmActiveStateNak) s.dev ∧
    (∀ v k : Nat, s.DoesOnly (.pcieMessage x (.setSlotPowerLimit v k))
      (s.dev.cfgPut x 0x74 (putBits (s.dev.cfgRead x 0x74) 27 18 (v + 256 * k)))) ∧
    s.DoesOnly (.pcieVendorMessage x true) s.dev ∧
    s.DoesOnly (.pcieVendorMessage x false) ((s.dev.bump PX_ERR_COUNT.UR_SENT x).aer x .unsupported) ∧
    (∀ src : Src, srcDie src = x →
      (s.dev.waitsCredit x true = false →
        s.Does (.pcieUnsupportedRequest src true none) ((s.dev.bump PX_ERR_COUNT.UR_SENT x).aer x .unsupported)) ∧
      (s.dev.waitsCredit x false = false →
        s.Does (.pcieUnsupportedRequest src false none)
          (((s.dev.bump PX_ERR_COUNT.UR_SENT x).aer x .unsupported true).emit (.cpl x src.rid src.tag .unsupported false []))) ∧
      (∀ (t : OddTarget) (c : ProtAns × Dev), s.dev.takesBar x (oddKind t.bar).2 = true →
        c = s.dev.protCheck (s.dev.srcReq src (oddKind t.bar).1 t.off t.len t.access) → c.1.denied = true →
        (s.dev.waitsCredit x true = false →
          s.Does (.pcieUnsupportedRequest src true (some t)) ((c.2.bump PX_ERR_COUNT.CA_SENT x).aer x .completerAbort)) ∧
        (s.dev.waitsCredit x false = false →
          s.Does (.pcieUnsupportedRequest src false (some t))
            ((((c.2.bump PX_ERR_COUNT.CA_SENT x).aer x .completerAbort true).cfgSet x 0x04 [27]).emit
              (.cpl x src.rid src.tag .abort false [])))) ∧
      (∀ (posted : Bool) (t : Option OddTarget), s.dev.waitsCredit x posted = true →
        s.Does (.pcieUnsupportedRequest src posted t) (s.dev.waitCredit x posted (.odd src posted t))))

/-- R90, R93: a completion that matches no tag is logged and sets UNEXPECTED_CPL; the last part of a matched one frees its tag and is
delivered; one with error status shows in the requester's status register, a completion timeout is logged, and both end the request in
error. No request waits for a tag. Log entries 8 and 19 hold what the model reads into the rules here. -/
def Obligations.PcieCompletions : Prop :=
  ∀ (s : State) (x tag : Nat),
    (∀ (st : CplStatus) (poison last : Bool) (data : List Byte), (∀ i ∈ (s.dev.px x).issued, i.tag ≠ tag) →
      s.Does (.pcieCompletionReceived x tag st poison last data) ((s.dev.aer x .unexpectedCpl true).pxEvent PX_EVENT.UNEXPECTED_CPL x)) ∧
    ((∀ i ∈ (s.dev.px x).issued, i.tag ≠ tag) → s.Does (.pcieCompletionTimeout x tag) s.dev) ∧
    (∀ i : Issued, (s.dev.px x).issued = [i] → i.tag = tag → (s.dev.px x).waitTag = [] →
      (∀ data : List Byte, s.Does (.pcieCompletionReceived x tag .success false true data)
        ((s.dev.modPx x fun p => { p with issued := [] }).note (.hostEnd i.req tag true false false false (i.got ++ data)))) ∧
      (∀ data : List Byte, s.Does (.pcieCompletionReceived x tag .success true true data)
        ((((s.dev.aer x .poisoned).cfgSet x 0x04 (if (s.dev.cfgStored x 0x04).getLsbD 6 then [24] else [])).modPx x
            fun p => { p with issued := [] }).note
          (.hostEnd i.req tag false false true false (i.got ++ data)))) ∧
      (∀ (poison last : Bool) (data : List Byte), s.Does (.pcieCompletionReceived x tag .unsupported poison last data)
        (((s.dev.cfgSet x 0x04 [29]).modPx x fun p => { p with issued := [] }).note
          (.hostEnd i.req tag false false false false i.got))) ∧
      (∀ (poison last : Bool) (data : List Byte), s.Does (.pcieCompletionReceived x tag .abort poison last data)
        (((s.dev.cfgSet x 0x04 [28]).modPx x fun p => { p with issued := [] }).note
          (.hostEnd i.req tag false true false false i.got))) ∧
      s.Does (.pcieCompletionTimeout x tag) (((s.dev.aer x .completionTimeout).modPx x fun p => { p with issued := [] }).note
          (.hostEnd i.req tag false false false true i.got)))

/-- R94, R99: a received request at NP_LIMIT, wherever it waits, is owed no more, is answered Completer Abort and sets NP_LIMIT_HIT; with no
port in use nothing else changes but that it is counted, logged and leaves an error record of KIND NP_LIMIT. A request held for HOLD, or one
that waits for a tag at a port that cannot issue, ends as a completion timeout and sets HOLD_EXPIRED; bookkeeping writes wait on. A request
that is not there leaves everything as it is. Log entries 2, 8 and 21 hold what the model reads into the rules here. -/
def Obligations.PcieLimits : Prop :=
  ∀ (s : State) (x id : Nat),
    (∀ o : Owed, s.dev.Runs x → s.dev.owedAt x id = some o →
      s.DoesSome (.npLimitExpiry x id) fun e =>
        (e.px x).owed = (s.dev.px x).owed.filter (fun q => q.id != id) ∧ .cpl x o.rid o.tag .abort false [] ∈ e.out ∧
          e.flag PX_EVENT.NP_LIMIT_HIT x = true) ∧
    (∀ o : Owed, s.dev.Runs x → s.dev.owedAt x id = some o → o.mon = none → s.dev.ports = [] →
      s.Does (.npLimitExpiry x id) ((((((((s.dev.modPx x fun p => { p with owed := p.owed.filter fun q => q.id != id }).bump
        PX_ERR_COUNT.CA_SENT x).aer x .completerAbort true).cfgSet x 0x04 [27]).emit (.cpl x o.rid o.tag .abort false [])).pxEvent PX_EVENT.NP_LIMIT_HIT x).errRec x
          { kind := 8, inb := false, port := o.port, win := o.win, near := o.near, far := o.far, cpl := 4, len := o.len,
            rid := o.rid, tag := o.tag }))) ∧
    (s.dev.owedAt x id = none → s.Does (.npLimitExpiry x id) s.dev) ∧
    (∀ r : HostReq, s.dev.Runs x →
      ((s.dev.px x).heldReq ++ (if s.dev.canIssue x then [] else (s.dev.px x).waitTag)).find? (fun r => r.id == id && !r.book) = some r →
      s.Does (.holdExpiry x id) ((((s.dev.modPx x fun p => { p with heldReq := p.heldReq.filter fun q => q.id != id,
                                                                    waitTag := p.waitTag.filter fun q => q.id != id }).aer x
        .completionTimeout).pxEvent PX_EVENT.HOLD_EXPIRED x).note (.hostEnd r 0 false false false true []))) ∧
    ((∀ r ∈ (s.dev.px x).heldReq ++ (s.dev.px x).waitTag, r.id ≠ id ∨ r.book = true) → s.Does (.holdExpiry x id) s.dev)

/-! ## Links (spec/04) -/

/-- R116, R117, R115, R113: a damaged packet on an ACTIVE port counts and opens a repeat run, which asks for the packet expected; a
damaged link packet only counts; a packet with a wrong LSEQ or ending in EBP opens the run without a count. The repeat timer asks again
while fewer than REPEAT_MAX requests have failed. An unacknowledged packet draws an IDL; a running transmit side sends SKP sets. -/
def Obligations.LinkFrames : Prop :=
  ∀ (s : State) (p : Nat),
    (s.dev.fld BB_LINK_STAT.STATE p = 3 → (s.dev.port p).link.repeatRun = false →
      (∀ k : FrameBad, k = .badLseq ∨ k = .ebp → s.Does (.bbFrameBad p k)
        ((s.dev.modLink p fun l => { l with repeatRun := true, repeats := 1 }).sendIdl p true)) ∧
      s.Does (.bbFrameBad p (.crc false))
        ((((s.dev.modLink p fun l => { l with crcWin := l.crcWin + 1 }).bump BB_LINK_ERR.CRC_ERR p).modLink p
          fun l => { l with repeatRun := true, repeats := 1 }).sendIdl p true) ∧
      s.Does (.bbFrameBad p (.crc true)) ((s.dev.modLink p fun l => { l with crcWin := l.crcWin + 1 }).bump BB_LINK_ERR.CRC_ERR p) ∧
      ((s.dev.fld BB_LANE_STAT.ACTIVE p).testBit 2 = true → s.Does (.bbFrameBad p (.codeViolation 2 true))
        ((((s.dev.modLink p fun l => { l with cvWin := l.cvWin.modify 2 (· + 1) }).bump ⟨.BB_LANE_CVA, 23, 16⟩ p).modLink p
          fun l => { l with crcWin := l.crcWin + 1 }).bump BB_LINK_ERR.CRC_ERR p))) ∧
    ((s.dev.port p).link.repeatRun = true → (s.dev.port p).link.repeats < s.dev.fld BB_LINK_THRESH.REPEAT_MAX p →
      s.Does (.repeatRequestTimer p) ((s.dev.modLink p fun l => { l with repeats := l.repeats + 1 }).sendIdl p true)) ∧
    ((s.dev.port p).link.repeatRun = false → s.Does (.repeatRequestTimer p) s.dev) ∧
    (s.dev.fld BB_LINK_STAT.STATE p = 3 → (s.dev.port p).link.ackDue = true → s.Does (.ackIdlInterval p) (s.dev.sendIdl p false)) ∧
    ((s.dev.port p).link.ackDue = false → s.Does (.ackIdlInterval p) s.dev) ∧
    (∀ rep : Bool, (s.dev.sendIdl p rep).out = s.dev.out ++ [.idl p rep (s.dev.port p).link.rxNext] ∧
      ((s.dev.sendIdl p rep).port p).link.ackDue = false ∧ ∀ l : Loc, (s.dev.sendIdl p rep).at l = s.dev.at l) ∧
    ((1 ≤ s.dev.fld BB_LINK_STAT.STATE p ∧ s.dev.fld BB_LINK_STAT.STATE p ≤ 4 → s.DoesOnly (.skpInterval p) (s.dev.emit (.skp p 1))) ∧
      (s.dev.fld BB_LINK_STAT.STATE p = 0 ∨ 5 ≤ s.dev.fld BB_LINK_STAT.STATE p → s.DoesOnly (.skpInterval p) s.dev))

/-- R114, R115, R118: an IDL frees the packets below its RX_NEXT from the replay store; with REPEAT it ends the packet being sent with
EBP, resends every held packet from RX_NEXT onward in order and counts each in REPLAYS. No packet waits to be sent. -/
def Obligations.LinkAcknowledge : Prop :=
  ∀ (s : State) (p rx : Nat) (seqs : List (Nat × Pkt)), s.dev.fld BB_LINK_STAT.STATE p = 3 → (s.dev.port p).link.waitIdl = false →
    (s.dev.port p).link.waiting = [] →
    (seqs = (s.dev.port p).link.replay.filter fun e => !decide (1 ≤ (rx + 128 - e.1) % 128 ∧ (rx + 128 - e.1) % 128 ≤ 64)) →
    s.Does (.idlReceived p false rx) (s.dev.modLink p fun l => { l with replay := seqs }) ∧
    (∀ e ∈ seqs.head?, e.1 = rx →
      s.Does (.idlReceived p true rx) (seqs.foldl (fun d e => (d.bump BB_LINK_ERR.REPLAYS p).emit (.pkt p e.1 e.2))
        ((s.dev.modLink p fun l => { l with replay := seqs }).emit (.ebp p))))

/-- R123, R125, R126, R127: an ACTIVE port retrains when its replay store stays full, when REPEAT_MAX requests have failed, when a SYN
arrives on an active lane, when a lane of its group loses lock, when the CRC errors of a window exceed CRC_MAX, and when software asks
for it: STATE is RETRAIN, no lane is active, the retrain is counted and its event set, packets held wait, and SYN goes out in STEP
RETRAIN on all eight lanes. -/
def Obligations.LinkRetrains : Prop :=
  ∀ (s : State) (p : Nat) (i : Instr), s.dev.fld BB_LINK_STAT.STATE p = 3 → (s.dev.port p).link.recal = .none → p < 64 →
    (i = .replayStallTimeout p ∧ (s.dev.port p).link.replay.length = 64 ∨
      i = .repeatRequestTimer p ∧ (s.dev.port p).link.repeatRun = true ∧
        s.dev.fld BB_LINK_THRESH.REPEAT_MAX p ≤ (s.dev.port p).link.repeats ∨
      (∃ lane y, i = .synReceived p lane y ∧ y.crcOk = true ∧ y.lane = lane ∧ y.rxGood = 0 ∧
        (s.dev.fld BB_LANE_STAT.ACTIVE p).testBit lane = true) ∨
      (∃ lane, i = .laneLockLoss p lane ∧ lane ≠ 0 ∧ (s.dev.fld BB_LANE_STAT.LOCK p).testBit lane = true ∧
        (s.dev.fld BB_LANE_STAT.ACTIVE p).testBit lane = true) ∨
      i = .healthWindowEnd p ∧ (s.dev.port p).link.cvWin = [0, 0, 0, 0, 0, 0, 0, 0] ∧ (s.dev.port p).link.struck = none ∧
        s.dev.fld BB_LINK_THRESH.CRC_MAX p < (s.dev.port p).link.crcWin ∨
      (∃ src, i = .retrain src p ∧ s.dev.lets src ⟨.BB_LINK_CTRL, p, 0⟩ = true ∧ lockOf s.locks ⟨.BB_LINK_CTRL, p, 0⟩ = false ∧
        s.dev.flag BB_LINK_CTRL.EN p = true) ∨
      (∃ src, i = .widen src p ∧ s.dev.lets src ⟨.BB_LINK_CTRL, p, 0⟩ = true ∧ lockOf s.locks ⟨.BB_LINK_CTRL, p, 0⟩ = false ∧
        s.dev.flag BB_LINK_CTRL.EN p = true)) →
    s.DoesSome i fun e =>
      e.fld BB_LINK_STAT.STATE p = 4 ∧ e.fld BB_LINK_STAT.UP p = 0 ∧ e.fld BB_LINK_STAT.WIDTH p = 0 ∧
        e.fld BB_LANE_STAT.ACTIVE p = 0 ∧ e.fld BB_LINK_ERR.RETRAINS p = satInc (s.dev.fld BB_LINK_ERR.RETRAINS p) 255 ∧
        e.flag BB_LINK_EVENT.RETRAINED p = true ∧ (e.port p).link.replay = (s.dev.port p).link.replay ∧
        (e.port p).link.step = .retrain ∧ (e.port p).works = (s.dev.port p).works ∧ (∀ q : Nat, q ≠ p → e.port q = s.dev.port q)

/-- R122, R127: training starts, from DETECT and from FAILED when their periods end and when software enables a DISABLED port: every lane
is judged anew, the rate is the lowest, SYN in STEP CAP goes out on all eight lanes, and the other ports stay. R127, R123, R160: a port
that software disables, and a port in RETRAIN whose partner stays silent, go down: DISABLED or DETECT, no width, the packets held
discarded, LINK_DOWN set. Log entry 22 holds what the model reads into the rules here. -/
def Obligations.LinkStartsAndEnds : Prop :=
  (∀ (s : State) (p : Nat) (i : Instr) (st : Nat),
    (i = .detectRetry p ∧ s.dev.fld BB_LINK_STAT.STATE p = 1 ∧ st = 1 ∨ i = .failedRetry p ∧ s.dev.fld BB_LINK_STAT.STATE p = 5 ∧ st = 1 ∨
      (∃ src, i = .bbLinkEnable src p ∧ s.dev.lets src ⟨.BB_LINK_CTRL, p, 0⟩ = true ∧ lockOf s.locks ⟨.BB_LINK_CTRL, p, 0⟩ = false ∧
        s.dev.fld BB_LINK_STAT.STATE p = 0 ∧ s.dev.flag BB_LINK_CTRL.EN p = false ∧ st = 2)) →
    s.DoesSome i fun e =>
      e.fld BB_LINK_STAT.STATE p = st ∧ e.fld BB_LINK_STAT.UP p = 0 ∧ e.fld BB_LINK_STAT.WIDTH p = 0 ∧ e.fld BB_LANE_STAT.BAD p = 0 ∧
        e.fld BB_LANE_STAT.LOCK p = 0 ∧ (e.port p).link.step = .cap ∧ (e.port p).link.rate = 0 ∧ (e.port p).link.goodRx = 0 ∧
        (e.port p).link.replay = [] ∧ (∀ k : Nat, k < 8 → ∃ y : Syn, y.step = 0 ∧ y.lane = k ∧ .syn p k y ∈ e.out) ∧
        (∀ q : Nat, q ≠ p → e.port q = s.dev.port q)) ∧
  (∀ (s : State) (p : Nat) (i : Instr) (st : Nat),
    ((∃ src, i = .bbLinkDisable src p ∧ s.dev.lets src ⟨.BB_LINK_CTRL, p, 0⟩ = true ∧ lockOf s.locks ⟨.BB_LINK_CTRL, p, 0⟩ = false ∧
        s.dev.fld BB_LINK_STAT.STATE p = 3 ∧ st = 0) ∨
      i = .retrainPartnerTimeout p ∧ s.dev.fld BB_LINK_STAT.STATE p = 4 ∧ (s.dev.port p).link.seen = false ∧ st = 1) →
    s.DoesSome i fun e =>
      e.fld BB_LINK_STAT.STATE p = st ∧ e.fld BB_LINK_STAT.UP p = 0 ∧ e.fld BB_LINK_STAT.WIDTH p = 0 ∧ (e.port p).link.replay = [] ∧
        (e.port p).link.waiting = [] ∧ e.flag BB_LINK_EVENT.LINK_DOWN p = true ∧ (∀ q : Nat, q ≠ p → e.port q = s.dev.port q))

/-- R122, R119: what happens while a port trains. A lane that locks is noted unless the port is disabled or failed; adapted lanes confirm the
width, and outside its step each of these does nothing; after the electrical idle of a rate change the lanes lock
anew, in STEP EQ; a SYN in DETECT shows the partner and starts TRAIN; adapted lanes confirm the full width, in STEP CONFIRM; an IDL ends
training: ACTIVE at the width, group and rate chosen, LINK_UP set. Log entry 22 holds what the model reads into the rules here. -/
def Obligations.LinkTrainingSteps : Prop :=
  ∀ (s : State) (p : Nat),
    (∀ lane : Nat,
      (s.dev.fld BB_LINK_STAT.STATE p ≠ 0 → s.dev.fld BB_LINK_STAT.STATE p ≠ 5 →
        s.DoesOnly (.bbLaneLock p lane) (s.dev.setFld BB_LANE_STAT.LOCK p 0 (s.dev.fld BB_LANE_STAT.LOCK p ||| 2 ^ lane))) ∧
      (s.dev.fld BB_LINK_STAT.STATE p = 0 ∨ s.dev.fld BB_LINK_STAT.STATE p = 5 → s.DoesOnly (.bbLaneLock p lane) s.dev)) ∧
    ((s.dev.port p).link.step = .rateIdle →
      s.Does (.rateChangeIdleEnd p) (((s.dev.modLink p fun l => { l with step := .eq }).setFld BB_LANE_STAT.LOCK p 0 0).sendSyns p 1)) ∧
    ((s.dev.port p).link.step ≠ .rateIdle → s.Does (.rateChangeIdleEnd p) s.dev) ∧
    ((s.dev.port p).link.step = .eq ∨ (s.dev.port p).link.step = .retrain → (s.dev.port p).link.seen = true →
      s.Does (.eqAdaptDone p) (s.dev.confirm p)) ∧
    ((s.dev.port p).link.step ≠ .eq ∧ (s.dev.port p).link.step ≠ .retrain ∨ (s.dev.port p).link.seen = false → s.Does (.eqAdaptDone p) s.dev) ∧
    (∀ (lane : Nat) (y : Syn), s.dev.fld BB_LINK_STAT.STATE p = 1 → y.crcOk = true → y.lane = lane →
      (s.dev.port p).link.step = .cap → (s.dev.fld BB_LANE_STAT.LOCK p).testBit lane = true →
      y.step = 0 → s.dev.fld BB_LANE_STAT.LOCK p &&& (255 - s.dev.fld BB_LANE_STAT.BAD p) &&&
        (255 - ((s.dev.port p).link.goodRx ||| 2 ^ lane) % 256) ≠ 0 →
      s.DoesSome (.synReceived p lane y) fun e =>
        e.fld BB_LINK_STAT.STATE p = 2 ∧ (e.port p).link.partner = some y ∧ (e.port p).link.partnerGood = y.rxGood ∧
          (e.port p).link.goodRx = (s.dev.port p).link.goodRx ||| 2 ^ lane ∧ e.fld BB_LINK_STAT.PARTNER_RATE p = y.maxRate % 4 ∧
          e.flag BB_LINK_STAT.PARTNER_LT_REQ p = y.ltReq) ∧
    (∀ y : Syn, s.dev.fld BB_LINK_STAT.STATE p = 2 → (s.dev.port p).link.step = .eq → (s.dev.port p).link.seen = true →
      (s.dev.port p).link.goodRx = 255 → (s.dev.port p).link.partnerGood = 255 → (s.dev.port p).link.capWidth = 8 →
      (s.dev.port p).link.partner = some y → y.maxWidth = 8 → y.step = 1 → s.dev.fld BB_LINK_CTRL.MAX_WIDTH p = 8 →
      s.DoesSome (.eqAdaptDone p) fun e =>
        (e.port p).link.chosen = some (8, 0) ∧ (e.port p).link.step = .confirm ∧ e.fld BB_LANE_STAT.BAD p = s.dev.fld BB_LANE_STAT.BAD p ∧
          e.fld BB_LINK_STAT.STATE p = 2) ∧
    (∀ (w g rx : Nat) (rep : Bool), s.dev.fld BB_LINK_STAT.STATE p = 2 → (s.dev.port p).link.waitIdl = true →
      (s.dev.port p).link.chosen = some (w, g) → w ≤ 8 → g < 8 → (s.dev.port p).link.rate < 4 → (s.dev.port p).link.replay = [] →
      (s.dev.port p).link.waiting = [] → (s.dev.port p).link.partner = none → s.dev.fld BB_LINK_CTRL.LOOP_MODE p = 1 →
      s.dev.fld CLK_STAT.BBPLL_STATE (dieOf p) = 2 → s.dev.flag BB_LINK_STAT.LOOP p = false →
      s.DoesSome (.idlReceived p rep rx) fun e =>
        e.fld BB_LINK_STAT.STATE p = 3 ∧ e.fld BB_LINK_STAT.UP p = 1 ∧ e.fld BB_LINK_STAT.WIDTH p = w ∧ e.fld BB_LINK_STAT.GROUP p = g ∧
          e.fld BB_LINK_STAT.RATE p = (s.dev.port p).link.rate ∧ e.flag BB_LINK_EVENT.LINK_UP p = true ∧ (e.port p).link.step = .idle ∧
          (e.port p).nextTag = 0)

/-! ## Body Bus transactions (spec/05, spec/08) -/

/-- R116, R117: a transaction packet of any type that a port does not expect is not acted on: a port that is not ACTIVE, one in a repeat
run and a repetition of a packet already taken discard it; one that is ahead opens a repeat run, which asks for the packet expected. -/
def Obligations.BusPacketsOutOfOrder : Prop :=
  ∀ (s : State) (p lseq : Nat) (i : Instr),
    ((∃ b, i = .adrReceived p lseq b) ∨ (∃ b, i = .datReceived p lseq b) ∨ (∃ b, i = .lckReceived p lseq b) ∨
      (∃ h, i = .ulkReceived p lseq h) ∨ (∃ h, i = .ackReceived p lseq h) ∨ (∃ h c, i = .berrReceived p lseq h c) ∨
      (∃ h r k, i = .rtyReceived p lseq h r k) ∨ (∃ y, i = .unknownTypeDiscard p ⟨lseq, y⟩) ∨ (∃ a r l v, i = .irqReceived p lseq a r l v) ∨
      (∃ l v, i = .iakReceived p lseq l v)) →
    (s.dev.fld BB_LINK_STAT.STATE p ≠ 3 ∨ (lseq % 128 ≠ (s.dev.port p).link.rxNext ∧
        ((s.dev.port p).link.repeatRun = true ∨ ((s.dev.port p).link.rxNext + 128 - lseq % 128) % 128 ≤ 64)) → s.Does i s.dev) ∧
    (s.dev.fld BB_LINK_STAT.STATE p = 3 → lseq % 128 ≠ (s.dev.port p).link.rxNext → (s.dev.port p).link.repeatRun = false →
      64 < ((s.dev.port p).link.rxNext + 128 - lseq % 128) % 128 →
      s.Does i ((s.dev.modLink p fun l => { l with repeatRun := true, repeats := 1 }).sendIdl p true))

/-- R138, R226, R228, R229, R142, R155, R159: the bridge as initiator. ACK ends the open transaction, whose work is done; BERR ends it in
error and counts; RTY counts and leaves the work, at the head of its class, to wait for its next try, which comes when the wait ends; a DAT of a block read is kept;
the bus timer ends the transaction locally, with a quiet period until its end; START decays by one. The work is that of a mover, the
only work of its port. Whatever a port has open, a response it expects is acted on, one of the target's role is a protocol error, and its
timers act while they run: the bus timer on an ACTIVE port (R124). Log entries 2 and 24 hold what the model reads into the rules here. -/
def Obligations.BusInitiator : Prop :=
  (∀ (s : State) (p lseq : Nat),
    (s.dev.Expects p lseq → ∀ tag code reason hint : Nat,
      s.Does (.ackReceived p lseq ⟨1, tag⟩) ((s.dev.accepted p).rxAck p tag) ∧
      s.Does (.berrReceived p lseq ⟨1, tag⟩ code) ((s.dev.accepted p).rxBerr p tag code) ∧
      s.Does (.rtyReceived p lseq ⟨1, tag⟩ reason hint) ((s.dev.accepted p).rxRty p tag reason hint) ∧
      (∀ role : Nat, role ≠ 1 → ∀ i ∈ [Instr.ackReceived p lseq ⟨role, tag⟩, .berrReceived p lseq ⟨role, tag⟩ code,
          .rtyReceived p lseq ⟨role, tag⟩ reason hint],
        s.Does i ((s.dev.accepted p).txnEvent BB_TXN_EVENT.PROTOCOL p)) ∧
      (∀ typ : Nat, s.Does (.unknownTypeDiscard p ⟨lseq, typ⟩) ((s.dev.accepted p).txnEvent BB_TXN_EVENT.UNKNOWN_TYPE p))) ∧
    (s.dev.Runs (dieOf p) →
      (s.dev.fld BB_LINK_STAT.STATE p = 3 → s.Does (.busTimerExpiry p true) (s.dev.outTimer p)) ∧
      (s.dev.fld BB_LINK_STAT.STATE p ≠ 3 → s.Does (.busTimerExpiry p true) s.dev) ∧
      s.Does (.quietPeriodEnd p) (s.dev.modPort p fun o => { o with quiet := none }) ∧
      s.Does (.retryWaitEnd p) (s.dev.modPort (s.dev.listOf p) fun o =>
        { o with works := modFirst (fun w => w.waits) (fun w => { w with waits := false }) o.works }) ∧
      s.DoesOnly (.retryStartDecay p) (s.dev.setFld BB_RETRY_CTL.START p 0 (s.dev.fld BB_RETRY_CTL.START p - 1)))) ∧
  ∀ (s : State) (p lseq : Nat) (t : OutTxn) (w : Work) (r c b : Nat), s.dev.listOf p = p → (s.dev.port p).works = [w] → w.id = t.work →
    w.job = .mover r c b → w.rtys = 0 → w.lock = none → (s.dev.port p).outOpen = some t → (s.dev.port p).early = none → t.drain = false →
    s.dev.Runs (dieOf p) → s.dev.fld BB_LINK_STAT.STATE p = 3 →
    (s.dev.Expects p lseq →
      (t.course.write = true → w.courses = [t.course] → t.poison = false →
        s.DoesSome (.ackReceived p lseq ⟨1, t.tag⟩) fun e =>
          (e.port p).outOpen = none ∧ (e.port p).works = [] ∧ (∃ v : Work, v.id = w.id ∧ .workEnd v true 0 0 v.got ∈ e.notes)) ∧
      (∀ code : Nat, s.DoesSome (.berrReceived p lseq ⟨1, t.tag⟩ code) fun e =>
        (e.port p).outOpen = none ∧ (e.port p).works = [] ∧ .workEnd w false 1 (if code ≤ 0x0B then code else 0) w.got ∈ e.notes ∧
          e.fld BB_TXN_ERR.BERR_RX p = satInc (s.dev.fld BB_TXN_ERR.BERR_RX p) 65535) ∧
      (∀ reason hint : Nat, reason ≠ 3 → w.retries < s.dev.fld BB_RETRY_CTL.MAX p →
        s.DoesSome (.rtyReceived p lseq ⟨1, t.tag⟩ reason hint) fun e =>
          (e.port p).outOpen = none ∧ e.fld BB_TXN_ERR.RTY_RX p = satInc (s.dev.fld BB_TXN_ERR.RTY_RX p) 65535 ∧
            ∃ us : Nat, hint ≤ us ∧ (e.port p).works = [{ w with retries := w.retries + 1, rtys := 1, waits := us != 0, waitUs := us,
                                                                         again := if w.again = 0 then 1 else w.again }]) ∧
      (∀ x : DatBody, x.role = 1 → x.tag = t.tag → t.course.write = false → t.course.shape = .block → t.last = false →
        8 * x.offset = t.data.length → x.data.length % 8 = 0 → t.data.length + x.data.length ≤ t.course.len →
        s.Does (.datReceived p lseq x) ((s.dev.accepted p).modPort p fun o =>
          { o with outOpen := some { t with data := t.data ++ x.data, beats := t.beats + x.data.length / 8, last := x.last,
                                            poison := t.poison || x.poison } }))) ∧
    s.DoesSome (.busTimerExpiry p true) (fun e =>
      (e.port p).outOpen = none ∧ (e.port p).works = [] ∧ (e.port p).quiet = some t.tag ∧ .workEnd w false 3 5 w.got ∈ e.notes ∧
        e.flag BB_TXN_EVENT.TIMEOUT_OUT p = true) ∧
    (w.waits = true → s.Does (.retryWaitEnd p) (s.dev.modPort p fun o => { o with works := [({ w with waits := false } : Work)] }))

/-- R156, R157, R164, R211, R149, R142, R158, R155: the bridge as target, with no early address held. A read of the identity block brings
its bytes and ACK; an address that no window matches is answered BERR DECODE; LCK of a window bound to a free semaphore that nobody has
reserved takes it; ULK gives it back; DAT of a block write is kept; when TGT_LIMIT passes a read is answered RTY NOT_READY, and when the
bus timer expires a transaction ends with BERR TIMEOUT. Whatever a port has open, an access packet it expects is acted on, one of the
initiator's role answers nothing, and its timers act while they run: the bus timer on an ACTIVE port (R124). Log entries 2 and 25 hold what
the model reads into the rules here. -/
def Obligations.BusTarget : Prop :=
  (∀ (s : State) (p lseq : Nat),
    (s.dev.Expects p lseq →
      (∀ a : AdrBody,
        s.Does (.adrReceived p lseq a) ((s.dev.accepted p).rxAdr s.locks p a) ∧
        s.Does (.lckReceived p lseq a) ((s.dev.accepted p).rxLck s.locks p a) ∧
        (a.role = 1 → s.Does (.adrReceived p lseq a) ((s.dev.accepted p).outOdd p a.tag) ∧
          s.Does (.lckReceived p lseq a) ((s.dev.accepted p).outOdd p a.tag))) ∧
      (∀ role tag : Nat, s.Does (.ulkReceived p lseq ⟨role, tag⟩) ((s.dev.accepted p).rxUlk s.locks p role tag) ∧
        s.Does (.ulkReceived p lseq ⟨1, tag⟩) ((s.dev.accepted p).outOdd p tag)) ∧
      (∀ x : DatBody, s.Does (.datReceived p lseq x) ((s.dev.accepted p).rxData s.locks p x))) ∧
    (s.dev.Runs (dieOf p) →
      (s.dev.fld BB_LINK_STAT.STATE p = 3 → s.Does (.busTimerExpiry p false) (s.dev.inTimer p)) ∧
      (s.dev.fld BB_LINK_STAT.STATE p ≠ 3 → s.Does (.busTimerExpiry p false) s.dev) ∧
      s.Does (.tgtLimitExpiry p) (s.dev.inLimit p) ∧
      ((s.dev.port p).inOpen = none → s.Does (.tgtLimitExpiry p) s.dev))) ∧
  ∀ (s : State) (p lseq : Nat), (s.dev.port p).inEarly = none →
    (s.dev.Expects p lseq → s.dev.Clear p → (s.dev.port p).inOpen = none → ∀ a : AdrBody, a.role = 0 → s.dev.portServed p = true →
      s.dev.admits p a →
      (a.write = false → a.block = false → a.locked = false → a.beatsM1 = 0 → amSpace a.am = 3 → a.size ≤ 3 → a.addr % 2 ^ a.size = 0 →
        a.addr + 2 ^ a.size ≤ 16 →
        s.DoesSome (.adrReceived p lseq a) fun e =>
          (e.port p).inOpen = none ∧ e.out = s.dev.out ++
            [.pkt p (s.dev.port p).link.txSeq
              (.dat ⟨1, a.tag, true, false, 0, ((s.dev.identity p).drop a.addr).take (2 ^ a.size)⟩),
             .pkt p (((s.dev.port p).link.txSeq + 1) % 128) (.ack a.tag)]) ∧
      (a.write = false → a.block = false → a.locked = false → a.beatsM1 = 0 → amSpace a.am = 1 → a.size ≤ 3 → a.addr % 2 ^ a.size = 0 →
        s.dev.matchIn p 1 a.addr (2 ^ a.size) = none →
        s.DoesSome (.adrReceived p lseq a) fun e =>
          (e.port p).inOpen = none ∧ e.out = s.dev.out ++ [.pkt p (s.dev.port p).link.txSeq (.berr a.tag 1)] ∧
            e.fld BB_TXN_ERR.BERR_TX p = satInc (s.dev.fld BB_TXN_ERR.BERR_TX p) 65535) ∧
      (∀ (w : Win) (n : Nat), s.dev.flag BB_TXN_CTRL.LOCK_EN p = true → a.beatsM1 = 0 → amSpace a.am = 1 → a.size ≤ 3 →
        a.addr % 2 ^ a.size = 0 → s.dev.matchIn p 1 a.addr (2 ^ a.size) = some w → w.lock = some n →
        s.dev.sem n = {} → (s.dev.port p).inLock = none →
        s.DoesSome (.lckReceived p lseq a) fun e =>
          (e.port p).inOpen = none ∧ (e.port p).inLock = some n ∧ (e.sem n).holder = some (.master p) ∧
            e.out = s.dev.out ++ [.pkt p (s.dev.port p).link.txSeq (.ack a.tag)])) ∧
    (s.dev.Expects p lseq → s.dev.Clear p → (s.dev.port p).inOpen = none → ∀ tag n : Nat, (s.dev.port p).inLock = some n →
      s.dev.sem n = { holder := some (.master p) } → (s.dev.livePorts.all fun q => (s.dev.port q).works.isEmpty) = true →
      s.DoesSome (.ulkReceived p lseq ⟨0, tag⟩) fun e =>
        (e.port p).inOpen = none ∧ (e.port p).inLock = none ∧ e.sem n = {} ∧
          e.out = s.dev.out ++ [.pkt p (s.dev.port p).link.txSeq (.ack tag)]) ∧
    (∀ t : InTxn, (s.dev.port p).inOpen = some t →
      (∀ x : DatBody, s.dev.Expects p lseq → x.role = 0 → x.tag = t.adr.tag → t.adr.write = true → t.adr.block = true → t.gotLast = false →
        8 * x.offset = t.data.length → x.data.length % 8 = 0 → x.data ≠ [] → t.data.length + x.data.length ≤ adrLen t.adr →
        x.last = false →
        s.Does (.datReceived p lseq x) ((s.dev.accepted p).modPort p fun o =>
          { o with inOpen := some { t with data := t.data ++ x.data, gotLast := false, poison := t.poison || x.poison } })) ∧
      (s.dev.Runs (dieOf p) → s.dev.Clear p → t.adr.write = false → s.DoesSome (.tgtLimitExpiry p) fun e =>
        (e.port p).inOpen = none ∧ e.out = s.dev.out ++ [.pkt p (s.dev.port p).link.txSeq (.rty t.adr.tag 5 0)] ∧
          e.fld BB_TXN_ERR.RTY_TX p = satInc (s.dev.fld BB_TXN_ERR.RTY_TX p) 65535) ∧
      (s.dev.Runs (dieOf p) → s.dev.Clear p → s.DoesSome (.busTimerExpiry p false) fun e =>
        (e.port p).inOpen = none ∧ e.out = s.dev.out ++ [.pkt p (s.dev.port p).link.txSeq (.berr t.adr.tag 5)] ∧
          e.flag BB_TXN_EVENT.TIMEOUT_IN p = true))

/-- R152, R153, R219, R220, R222: levels of the Body Bus. An IRQ that asserts a level whose entry is off is held with its vector and its
method; one that releases it clears both; an IAK for a level the bridge does not hold is stale, one for a level it holds under the
acknowledge method delivers the source; a write of BB_IRQ_IAK acknowledges a held level with its vector, once. Whatever is held, an IRQ and
an IAK that a port expects are acted on. -/
def Obligations.BusInterrupts : Prop :=
  ∀ (s : State) (p lseq l v : Nat), 1 ≤ l → l ≤ 7 →
    (s.dev.Expects p lseq →
      (∀ asserts roak : Bool, s.Does (.irqReceived p lseq asserts roak l v) ((s.dev.accepted p).rxIrq p asserts roak l v)) ∧
      s.Does (.iakReceived p lseq l v) ((s.dev.accepted p).rxIak p l v) ∧
      (∀ roak : Bool, (s.dev.reg .BB_IRQ_RX p).getLsbD l = false →
        (s.dev.reg .IRQ_BBIN_CTL (dieOf p) (p * 8 + l)).getLsbD 31 = false →
        s.DoesSome (.irqReceived p lseq true roak l v) fun e =>
          (e.reg .BB_IRQ_RX p).getLsbD l = true ∧ (e.reg .BB_IRQ_RX p).getLsbD (7 + l) = roak ∧ e.fld (vecField l) p = v ∧
            (e.port p).iakSent.testBit l = false) ∧
      (∀ roak : Bool, (s.dev.reg .BB_IRQ_RX p).getLsbD l = true →
        s.DoesSome (.irqReceived p lseq false roak l v) fun e =>
          (e.reg .BB_IRQ_RX p).getLsbD l = false ∧ (e.reg .BB_IRQ_RX p).getLsbD (7 + l) = false) ∧
      ((s.dev.port p).asserted = [] → s.Does (.iakReceived p lseq l v) ((s.dev.accepted p).txnEvent BB_TXN_EVENT.STALE_IAK p)) ∧
      (∀ n : Nat, (s.dev.port p).asserted = [(l, v, n, true)] → s.dev.irqPend = [] →
        s.DoesSome (.iakReceived p lseq l v) fun e => (e.port p).asserted = [] ∧ e.fld BB_IRQ_TX.ASSERTED p = 0 ∧ e.out = s.dev.out)) ∧
    (∀ src : Src, s.dev.Clear p → s.dev.lets src ⟨.BB_IRQ_IAK, p, 0⟩ = true → (s.dev.reg .BB_IRQ_RX p).getLsbD l = true →
      (s.dev.reg .BB_IRQ_RX p).getLsbD (7 + l) = false → (s.dev.port p).iakSent.testBit l = false →
      s.Does (.iakSend src p l) ((((s.dev.written src ⟨.BB_IRQ_IAK, p, 0⟩).sent p (.iak l (s.dev.fld (vecField l) p))).modPort p
        fun o => { o with iakSent := setBit o.iakSent l true }).answered src))

/-! ## Registers and their accesses (spec/01, spec/02) -/

/-- R16, R56, R77: a write of one word that its unit lets through stores the writable bits of the register and nothing else, opens the
seal where the register is protected, and is answered by its path. -/
def Obligations.RegisterWriteStores : Prop :=
  ∀ (s : State) (src : Src) (l : Loc) (v at_ : Nat), l.fits s.dev.n = true → s.dev.lets src l = true → lockOf s.locks l = false →
    l.reg ∈ storing → v < 2 ^ 32 →
    s.Does (.registerWrite src l.offset 4 15 v at_)
      (((s.dev.written src l).stored l (l.reg.writable false) (BitVec.ofNat 32 v)).answered src)

/-- R69, R79: under a set lock a write leaves the LK bits of a register as they are and is recorded as LOCKED; a write with missing byte
enables, a length other than four or eight bytes or a crossing is rejected as a whole, recorded, and changes no other register.
Log entry 28 holds what the model reads into the rules here. -/
def Obligations.RegisterWriteRefused : Prop :=
  ∀ (s : State) (src : Src) (l : Loc), l.fits s.dev.n = true → s.dev.flag DIE_ACC_ERR_INFO.VALID (srcDie src) = false →
    (∀ v at_ : Nat, l.reg ∈ [.CLK_CTL, .BB_TXN_CTRL] → s.dev.lets src l = true → lockOf s.locks l = true →
      s.DoesSome (.registerWrite src l.offset 4 15 v at_) fun e =>
        e.at l &&& l.reg.maskWhere (·.ty == .lk) = s.dev.at l &&& l.reg.maskWhere (·.ty == .lk) ∧
          e.flag DIE_ACC_ERR_INFO.VALID (srcDie src) = true ∧ e.fld DIE_ACC_ERR_INFO.REASON (srcDie src) = 5 ∧
          e.reg .DIE_ACC_ERR_ADDR_LO (srcDie src) = BitVec.ofNat 32 l.offset) ∧
    (∀ len en v at_ reason : Nat, s.dev.grants src l.offset len 1 = true →
      len = 12 ∧ reason = 3 ∨ len = 8 ∧ l.offset % 8 = 4 ∧ reason = 4 ∨ len = 2 ∧ reason = 1 ∨ len = 4 ∧ en = 7 ∧ reason = 1 →
      s.DoesSome (.registerWrite src l.offset len en v at_) fun e =>
        e.fld DIE_ACC_ERR_INFO.REASON (srcDie src) = reason ∧ e.flag DIE_ACC_ERR_INFO.WRITE (srcDie src) = true ∧
          e.fld DIE_ACC_ERR_INFO.LENGTH (srcDie src) = len ∧
          (∀ k : Loc, k.reg ∉ [.DIE_ACC_ERR_INFO, .DIE_ACC_ERR_ADDR_LO, .DIE_ACC_ERR_ADDR_HI, .PX_ERR_COUNT] → e.at k = s.dev.at k))

/-- R68: the lock of a register's block guards it: TIL_LOCK of its tile, DIE_LOCK of its die, the copies of PKG_LOCK. DIE_LOCK, TIL_LOCK and
PKG_LOCK, written 1 where clear, set their lock, the package lock in the copy of every die (R72), and set no other. What the write lets go
on is taken as nothing (`Rests`). -/
def Obligations.LocksSet : Prop :=
  (∀ (L : Locks) (l : Loc), (l.reg.spec.block = .pkg → (lockOf L l = true ↔ ∃ x : Fin 8, L.pkg[x] = true)) ∧
    (∀ x : Fin 8, l.reg.spec.block = .die → l.u = x.val → lockOf L l = L.die[x]) ∧
    (∀ p : Fin 64, l.reg.spec.block = .tile → l.u = p.val → lockOf L l = L.tile[p])) ∧
  (∀ (s : State) (src : Src) (i : Instr) (l : Loc) (k : Note), s.dev.lets src l = true → lockOf s.locks l = false → s.dev.notes = [] →
    (i = .pkgLockSet src ∧ l = ⟨.PKG_LOCK, 0, 0⟩ ∧ k = .lock (2 ^ s.dev.n - 1) none none ∨
      (∃ x, i = .dieLockSet src x ∧ l = ⟨.DIE_LOCK, x, 0⟩ ∧ k = .lock 0 (some x) none) ∨
      (∃ p, i = .tilLockSet src p ∧ l = ⟨.TIL_LOCK, p, 0⟩ ∧ k = .lock 0 none (some p))) →
    ((((s.dev.written src l).stored l 1 1).note k).answered src).Rests s.locks → s.dev.takes i = true →
    ∃ t : State, exec i s = .next t ∧ t.dev.notes = [] ∧
      (∀ x : Fin 8, t.locks.pkg[x] = (s.locks.pkg[x] || l.reg == .PKG_LOCK && decide (x.val < s.dev.n))) ∧
      (∀ x : Fin 8, t.locks.die[x] = (s.locks.die[x] || l == ⟨.DIE_LOCK, x.val, 0⟩)) ∧
      ∀ p : Fin 64, t.locks.tile[p] = (s.locks.tile[p] || l == ⟨.TIL_LOCK, p.val, 0⟩))

/-- R57, R50, R59, R63, R64, R79: reads. A register's bytes come in the order of the path; reserved space reads 0; a read that crosses an
aligned eight bytes is rejected and recorded; the RC fields a read returns are cleared, DIE_ACC_ERR_INFO.VALID with the bytes that hold
it; a read of a _LO half keeps the _HI half for the path. R90: a read of BAR2 that its unit allows brings zeros. No write of the path is
under way (R32), no command of its mailbox waits (R288). R60, R189, R222, R225, R231, R234: reads that take. A read of ERR_READ,
TC_PFD_READ or EVQ_READ takes the next word of its queue; a read that covers byte 3 of IRQ_BBOUT_PEND delivers a source held under the
register-access method, a read of IRQ_NMI_CAUSE clears what it returns and releases level 7 of every port.
Log entries 15, 16 and 28 hold what the model reads into the rules here. -/
def Obligations.RegisterReads : Prop :=
  (∀ (s : State) (src : Src) (off len : Nat), src.path < 8 → s.dev.waitsCredit src.path false = false → s.dev.takesBar src.path 1 = true →
    (s.dev.protCheck (s.dev.srcReq src .doorbell off len 0)).1.denied = false →
    s.Does (.registerReadReject src (2 ^ 27 + off) len)
      (s.dev.sendCpl src.path src.rid src.tag off .success false (List.replicate len 0))) ∧
  (∀ (s : State) (src : Src) (off : Nat), src.path < 16 → s.dev.grants src off 4 0 = true → (s.dev.mail src.path).busy = false →
    (∀ h ∈ s.dev.heldCfg, h.w.path ≠ src.path) → (∀ c ∈ s.dev.cfgLog, c.path ≠ src.path) →
    (off < 2 ^ 27 → off % 4 = 0 → locate s.dev.n off = none →
      s.Does (.registerReadReject src off 4) ((s.dev.served src off).readDone src off [0, 0, 0, 0])) ∧
    (off < 2 ^ 27 → off % 8 = 6 → s.dev.flag DIE_ACC_ERR_INFO.VALID (srcDie src) = false →
      s.DoesSome (.registerReadReject src off 4) fun e =>
        e.fld DIE_ACC_ERR_INFO.REASON (srcDie src) = 4 ∧ e.flag DIE_ACC_ERR_INFO.WRITE (srcDie src) = false)) ∧
  (∀ (s : State) (src : Src) (l : Loc), l.fits s.dev.n = true → src.path < 16 →
    (∀ len : Nat, len ≤ 4 → s.dev.grants src (l.offset + (4 - len)) len 0 = true) → (s.dev.mail src.path).busy = false →
    (∀ h ∈ s.dev.heldCfg, h.w.path ≠ src.path) → (∀ c ∈ s.dev.cfgLog, c.path ≠ src.path) →
    (l.reg ∈ storing → s.Does (.registerReadReject src l.offset 4) ((s.dev.written src l).readDone src l.offset
      (bytesLE (s.dev.at l).toNat 4))) ∧
    (l.reg ∈ [.PX_EVENT, .BB_LINK_EVENT, .BB_TXN_EVENT, .CLK_EVENT] →
      s.Does (.rcFieldRead src l.offset 4) (({ s.dev.written src l with
        regs := s.dev.regs.set l.resetWord l.key (s.dev.raw l &&& ~~~(l.reg.maskWhere (·.ty == .rc))) } : Dev).readDone src l.offset
          (bytesLE (s.dev.at l).toNat 4))) ∧
    (∀ x sub : Nat, l = ⟨.DIE_ACC_ERR_INFO, x, 0⟩ → sub = 3 →
      s.DoesSome (.accErrInfoRead src x sub 1) fun e =>
        e.fld DIE_ACC_ERR_INFO.VALID x = 0 ∧ e.fld DIE_ACC_ERR_INFO.REASON x = s.dev.fld DIE_ACC_ERR_INFO.REASON x) ∧
    (l.reg = .BB_RETRY_TAB_LO → s.DoesSome (.pairLoRead src l.offset 4) fun e =>
      e.shadows.get none (shadowKey src.path l false) = some (s.dev.reg .BB_RETRY_TAB_HI l.u) ∧
        e.shadows.get none (shadowKey src.path l true) = some 1 ∧ ∀ k : Loc, e.at k = s.dev.at k) ∧
    (∀ w : Word, l.reg = .BB_RETRY_TAB_HI → s.dev.shadows.get none (shadowKey src.path ⟨.BB_RETRY_TAB_LO, l.u, 0⟩ true) = some 1 →
      s.dev.shadows.get none (shadowKey src.path ⟨.BB_RETRY_TAB_LO, l.u, 0⟩ false) = some w →
      s.Does (.registerReadReject src l.offset 4) (((s.dev.written src l).setShadow (shadowKey src.path ⟨.BB_RETRY_TAB_LO, l.u, 0⟩ true)
        none).readDone src l.offset (bytesLE w.toNat 4)))) ∧
  (∀ (s : State) (src : Src) (x : Nat), 8 ≤ src.path → src.path < 16 →
    (∀ l ∈ ([⟨.ERR_READ, 0, x⟩, ⟨.TC_PFD_READ, x, 0⟩, ⟨.EVQ_READ, 0, 0⟩, ⟨.IRQ_NMI_CAUSE, 0, 0⟩] : List Loc),
      s.dev.grants src l.offset 4 0 = true) →
    (∀ it : List Word, (s.dev.queue x 60).items = [it] → (s.dev.queue x 60).cursor = 0 → it.length = 8 →
      s.DoesSome (.errRead src x) fun e =>
        (e.queue x 60).items = [it] ∧ (e.queue x 60).cursor = 1 ∧
          e.out = s.dev.out ++ [.mcDone (src.path - 8) true false (bytesLE (it.getD 0 0).toNat 4)]) ∧
    (∀ it : List Word, (s.dev.queue x 61).items = [it] → (s.dev.queue x 61).cursor = 7 → it.length = 8 → (s.dev.queue x 61).held = [] →
      s.DoesSome (.tcPfdRead src x) fun e =>
        (e.queue x 61).items = [] ∧ (e.queue x 61).popped = ((s.dev.queue x 61).popped + 1) % 65536 ∧
          e.out = s.dev.out ++ [.mcDone (src.path - 8) true false (bytesLE (it.getD 7 0).toNat 4)]) ∧
    (s.dev.flag EVQ_CTL.HOST s.dev.evqHome = false → s.dev.evq.items = [] →
      s.Does (.evqRead src) ((s.dev.written src ⟨.EVQ_READ, 0, 0⟩).readDone src 0 [0, 0, 0, 0])) ∧
    (∀ it : List Word, s.dev.flag EVQ_CTL.HOST s.dev.evqHome = false → s.dev.evq.items = [it] → s.dev.evq.cursor = 0 → it.length = 4 →
      s.DoesSome (.evqRead src) fun e =>
        e.evq.cursor = 1 ∧ e.out = s.dev.out ++ [.mcDone (src.path - 8) true false (bytesLE (it.getD 0 0).toNat 4)]) ∧
    (∀ p l v n : Nat, s.dev.grants src (Loc.offset ⟨.IRQ_BBOUT_PEND, 0, 8 * p + l⟩) 4 0 = true →
      (s.dev.port p).asserted = [(l, v, n, false)] → 1 ≤ n → s.dev.irqPend = [] → s.dev.fld BB_LINK_STAT.STATE p ≠ 3 →
      s.DoesSome (.irqBboutPendRead src p l 0 4) fun e => (e.port p).asserted = [] ∧ e.fld BB_IRQ_TX.ASSERTED p = 0) ∧
    (∀ p : Nat, s.dev.livePorts = [p] → (∃ v, (s.dev.port p).asserted = [(7, v, 0, false)]) → s.dev.irqPend = [] →
      s.dev.fld BB_LINK_STAT.STATE p ≠ 3 →
      s.DoesSome (.nmiCauseRead src 0 4) fun e => e.fld IRQ_NMI_CAUSE.PEND = 0 ∧ (e.port p).asserted = []))

/-- R32: a write of package configuration, let through on a path that is no Body Bus view while a lead takes writes, enters the lead's
order; the dies that `at_` names apply it in the step and leave the list once every die has, the others later, with PKG_CONFIG_APPLY. The
writes of every command that names such a register, with the bits that make it that command, and what a die that applies it holds after it:
R165, R218, R273, R292, R308, R325 (EN stays 0 on an illegal set-up), R248, R249, R172, R190, R76, R259. Log entry 5 holds what the model
reads into the rules here. -/
def Obligations.ConfigurationOrdered : Prop :=
  ∀ (s : State) (src : Src) (i : Instr) (l : Loc) (P : Word → Prop) (at_ : Nat), src.path < 16 → s.dev.leadBusy = false → s.dev.cfgLog = [] →
    s.dev.applied = [] → s.dev.replicas ≠ [] → l.fits s.dev.n = true → l.isCfg = true → l.reg ≠ .MOV_CTL → lockOf s.locks l = false →
    s.dev.lets src l = true →
    ((∃ v, i = .registerWrite src l.offset 4 15 v at_ ∧ P = (· = BitVec.ofNat 32 v)) ∨
      (∃ w k v inb, i = .windowWrite src inb w k v at_ ∧ l.offset = (winLoc inb w).offset + 4 * k ∧ P = (· = BitVec.ofNat 32 v)) ∨
      (∃ w inb, i = .windowDisable src inb w at_ ∧ l = winLoc inb w ∧ P = fun c => c.getLsbD 31 = false) ∨
      (∃ inb b w, i = .tcInvalWindow src inb b w at_ ∧ l = ⟨.TC_INVAL, 0, 0⟩ ∧
        P = fun c => c.getLsbD 31 = false ∧ c.getLsbD 30 = inb ∧ c.getLsbD 29 = b ∧ c.getLsbD 28 = false ∧ bitsOf c 11 0 = w) ∨
      (i = .tcInvalAll src at_ ∧ l = ⟨.TC_INVAL, 0, 0⟩ ∧ P = fun c => c.getLsbD 31 = true) ∨
      (∃ inb b w, i = .tcInvalPageOnly src inb b w at_ ∧ l = ⟨.TC_INVAL, 0, 0⟩ ∧
        P = fun c => c.getLsbD 31 = false ∧ c.getLsbD 30 = inb ∧ c.getLsbD 29 = b ∧ c.getLsbD 28 = true ∧ bitsOf c 11 0 = w) ∨
      (∃ g, i = .tcSwitch src g at_ ∧ l = ⟨.TC_SWITCH, 0, 0⟩ ∧ P = fun c => bitsOf c 7 0 = g) ∨
      (i = .sealCommit src at_ ∧ l = ⟨.PKG_SEAL_CTRL, 0, 0⟩ ∧ P = fun c => c.getLsbD 0 = true) ∨
      (∃ v, i = .irqEntryWrite src l.offset v at_ ∧ P = (· = BitVec.ofNat 32 v)) ∨
      (∃ v, i = .protPendingWrite src l.offset v at_ ∧ P = (· = BitVec.ofNat 32 v)) ∨
      (i = .protCommit src at_ ∧ l = ⟨.PROT_CTL, 0, 0⟩ ∧ P = fun c => c.getLsbD 0 = true) ∨
      (i = .protDiscard src at_ ∧ l = ⟨.PROT_CTL, 0, 0⟩ ∧ P = fun c => c.getLsbD 0 = false ∧ c.getLsbD 1 = true) ∨
      (∃ p k v, i = .poolConfigWrite src p k v at_ ∧ l.offset = Loc.offset ⟨.POOL_CTL, 0, p⟩ + 4 * k ∧ P = (· = BitVec.ofNat 32 v)) ∨
      (∃ p, i = .poolEnable src p at_ ∧ l = ⟨.POOL_CTL, 0, p⟩ ∧ P = fun c => bitsOf c POOL_CTL.EN.hi POOL_CTL.EN.lo = 1) ∨
      (∃ p, i = .poolDisable src p at_ ∧ l = ⟨.POOL_CTL, 0, p⟩ ∧ P = fun c => bitsOf c POOL_CTL.EN.hi POOL_CTL.EN.lo = 0) ∨
      (∃ r k v, i = .ringConfigWrite src r k v at_ ∧ l.offset = Loc.offset ⟨.RING_CTL, 0, r⟩ + 4 * k ∧ P = (· = BitVec.ofNat 32 v)) ∨
      (∃ r, i = .ringEnable src r at_ ∧ l = ⟨.RING_CTL, 0, r⟩ ∧ P = fun c => bitsOf c RING_CTL.EN.hi RING_CTL.EN.lo = 1) ∨
      (∃ r, i = .ringDisable src r at_ ∧ l = ⟨.RING_CTL, 0, r⟩ ∧ P = fun c => bitsOf c RING_CTL.EN.hi RING_CTL.EN.lo = 0) ∨
      (∃ n k v, i = .stripeConfigWrite src n k v at_ ∧ l.offset = Loc.offset ⟨.STRIPE_CTL, 0, n⟩ + 4 * k ∧ P = (· = BitVec.ofNat 32 v)) ∨
      (∃ n k v, i = .tapConfigWrite src n k v at_ ∧ l.offset = Loc.offset ⟨.TAP_CTL, 0, n⟩ + 4 * k ∧ P = (· = BitVec.ofNat 32 v))) →
    s.DoesSome i fun e =>
      (at_ = 0 → (∃ c : CfgWrite, e.cfgLog = [c] ∧ (l.reg ≠ .DIE_Q_CFG → c.off = l.offset ∧ P c.v) ∧ c.path = src.path) ∧
        ∀ k : Loc, e.at k = s.dev.at k) ∧
      ((∃ x ∈ s.dev.replicas, at_.testBit x = false) → ∃ c : CfgWrite, e.cfgLog = [c] ∧
        (l.reg ≠ .DIE_Q_CFG → c.off = l.offset ∧ P c.v) ∧ c.path = src.path) ∧
      ((∀ x ∈ s.dev.replicas, at_.testBit x = true) → e.cfgLog = []) ∧
      ∃ v : Word, P v ∧ ∀ x ∈ s.dev.replicas,
        let mask := (s.dev.cfgWord s.locks l.offset v src.path).mask
        let word := merged (s.dev.reg l.reg x l.i) v mask
        let on := v.getLsbD 31 && !(s.dev.setReg l.reg x l.i word).refusesEn x l
        (at_.testBit x = false → e.reg l.reg x l.i = s.dev.reg l.reg x l.i) ∧
        (at_.testBit x = true →
          (l.reg ∉ enabling → l.reg ∉ [.POOL_BASE_HI, .PROT_CTL, .DIE_Q_CFG] → e.reg l.reg x l.i = word) ∧
          (l.reg = .DIE_Q_CFG → e.fld EVQ_CTL.TAIL x = bitsOf v 31 16) ∧
          (l.reg ∈ enabling → (e.reg l.reg x l.i).getLsbD 31 = on) ∧
          (l.reg = .POOL_CTL → x = s.dev.homeOf l.i → e.poolOn l.i = on) ∧
          (l.reg = .RING_CTL → (∀ y ∈ s.dev.replicas, at_.testBit y = true → y = x) → s.dev.ringState l.i = 0 → on = true →
            x = s.dev.home (bitsOf word RING_CTL.HOME_DIE.hi RING_CTL.HOME_DIE.lo % s.dev.n) → e.ringState l.i = 1) ∧
          (isProtReg l.reg = true → e.fld PROT_CTL.DIRTY x = 1) ∧
          (l.reg = .PROT_CTL → v.getLsbD 0 = true →
            e.fld PROT_EPOCH.EPOCH x = (s.dev.fld PROT_EPOCH.EPOCH x + 1) % 65536 ∧ e.fld PROT_CTL.DIRTY x = 0) ∧
          (l.reg = .PROT_CTL → v.getLsbD 0 = false → v.getLsbD 1 = true → e.fld PROT_CTL.DIRTY x = 0) ∧
          (l.reg = .TC_INVAL → (e.tc x).lines = (s.dev.tc x).lines.filter fun n => !s.dev.invalidates x v n) ∧
          (l.reg = .TC_SWITCH → bitsOf v 7 0 ≠ 0 →
            e.fld TC_SWITCH_STAT.LAST_GROUP x = bitsOf v 7 0 ∧ (e.tc x).switches = (s.dev.tc x).switches + 1) ∧
          (l.reg = .PKG_SEAL_CTRL → v.getLsbD 0 = true → s.dev.variant = .ez8 →
            (e.fld PKG_SEAL_STAT.SEALED).testBit x = true ∧ (e.fld PKG_SEAL_STAT.OPEN).testBit x = false))

/-- R32, R249, R172, R190, R206, R274, R293, R218: what a die does when it applies the next write of the lead's order. It stores the bits the
write may set; COMMIT makes the pending rules of the die active and starts a new epoch, DISCARD brings the active ones back; TC_INVAL with
ALL empties its translation cache; TC_SWITCH of a group is noted; a window, an interrupt entry or a ring turned off reads EN = 0.
Log entry 5 holds what the model reads into the rules here. -/
def Obligations.ConfigurationApplied : Prop :=
  ∀ (s : State) (x : Nat) (c : CfgWrite) (l : Loc) (rest : List CfgWrite), l.fits s.dev.n = true → c.off = l.offset → l.u = 0 →
    s.dev.cfgLog = c :: rest → s.dev.appliedAt x = 0 →
    s.DoesSome (.pkgConfigApply x) fun e =>
      e.appliedAt x = 1 ∧ e.cfgLog = c :: rest ∧
        (l.reg ∈ [.PKG_BB_CTRL_BASE_LO, .PKG_BB_CTRL_BASE_HI, .PKG_BB_CTRL_PORTS_LO, .PKG_BB_CTRL_PORTS_HI, .IRQ_NMI_CTL,
          .PLAY_CONCEAL_LO, .PLAY_CONCEAL_HI, .TC_INVAL_PAGE] → c.mask ≠ 0 →
          e.reg l.reg x l.i = merged (s.dev.reg l.reg x l.i) c.v c.mask) ∧
        (l.reg = .PROT_CTL → c.mask = 0 → c.v.getLsbD 0 = true →
          e.fld PROT_EPOCH.EPOCH x = (s.dev.fld PROT_EPOCH.EPOCH x + 1) % 65536 ∧ e.fld PROT_CTL.DIRTY x = 0 ∧
            ∀ (r : RegId) (k : Nat), isProtReg r = true → e.actv r x k = s.dev.at ⟨r, x, k⟩) ∧
        (l.reg = .PROT_CTL → c.mask = 0 → c.v.getLsbD 0 = false → c.v.getLsbD 1 = true → e.fld PROT_CTL.DIRTY x = 0 ∧
            ∀ (r : RegId) (k : Nat), isProtReg r = true → e.at ⟨r, x, k⟩ = s.dev.actv r x k) ∧
        (l.reg = .TC_INVAL → c.mask = 0 → c.v.getLsbD 31 = true → (e.tc x).lines = []) ∧
        (l.reg = .TC_SWITCH → c.mask = 0 → bitsOf c.v 7 0 ≠ 0 →
          e.fld TC_SWITCH_STAT.LAST_GROUP x = bitsOf c.v 7 0 ∧ (e.tc x).switches = (s.dev.tc x).switches + 1) ∧
        (l.reg ∈ [.WIN_O_CTL, .WIN_I_CTL] → c.mask.getLsbD 31 = true → c.v.getLsbD 31 = false →
          (e.reg l.reg x l.i).getLsbD 31 = false) ∧
        (∀ y : Nat, y ≠ x → e.appliedAt y = s.dev.appliedAt y)
/-! ## Protected words and queues (spec/02, spec/10) -/

/-- R73: a word held in three copies is read as the bitwise majority of them in its protected bits, and a write sets all three. R74, R75,
R78: a visit of the scrubber puts the majority of three copies in place and counts each field that it fixes in FIXED; a field of which all
three differ takes the lead's copy of a die or tile register and counts in FAILED. At the end of a pass of the walker of EZ8 a sealed die
that is not open keeps its registers where the CRC matches its seal, turns FAULT after a reload and is compared no more, and otherwise notes
MISMATCH and takes the protected words of package configuration from the lead's replica. Log entry 50 holds what the model reads into the
rules here. -/
def Obligations.ProtectedWords : Prop :=
  ∀ (s : State) (x : Nat) (l : Loc), x < s.dev.n →
    (∀ b c : Word, s.dev.upsets.get none l.key = some (b, c) →
      s.dev.at l &&& l.reg.pMask = ((s.dev.raw l &&& b) ||| (s.dev.raw l &&& c) ||| (b &&& c)) &&& l.reg.pMask) ∧
    (∀ w : Word, (s.dev.put l w).at l = w ∧ (s.dev.put l w).upsets.get none l.key = none) ∧
    (∀ b c : Word, s.dev.variant ≠ .ez8 → l.reg.isP = true → l.fits s.dev.n = true → l.reg.spec.block ≠ .pkg → l.isCfg = false →
      l.keeper = x → s.dev.upsets.get none l.key = some (b, c) → s.dev.activeUpsets.get none l.key = none →
      (s.dev.raw l &&& l.reg.pMask = b &&& l.reg.pMask →
        s.DoesJust (.scrubVisit x l.offset) fun e =>
          e.upsets.get none l.key = none ∧ e.at l = s.dev.at l ∧
            e.fld DIE_PROT_STAT.FIXED x = min (s.dev.fld DIE_PROT_STAT.FIXED x + (l.reg.spec.fields.filter fun f =>
              f.prot && s.dev.raw l &&& maskOf f.hi f.lo != c &&& maskOf f.hi f.lo).length) 65535 ∧
            ∀ k : Loc, k ≠ l → k ≠ ⟨.DIE_PROT_STAT, x, 0⟩ → e.at k = s.dev.at k) ∧
      (∀ (w : Word) (f : FieldSpec), l.reg.spec.fields.filter (·.prot) = [f] →
        s.dev.raw l &&& maskOf f.hi f.lo ≠ b &&& maskOf f.hi f.lo → s.dev.raw l &&& maskOf f.hi f.lo ≠ c &&& maskOf f.hi f.lo →
        b &&& maskOf f.hi f.lo ≠ c &&& maskOf f.hi f.lo → s.dev.leadCopy.get none l.key = some w →
        s.DoesJust (.scrubVisit x l.offset) fun e =>
          e.upsets.get none l.key = none ∧ e.at l = merged (s.dev.raw l) w (maskOf f.hi f.lo) ∧
            e.fld DIE_PROT_STAT.FAILED x = min (s.dev.fld DIE_PROT_STAT.FAILED x + 1) 65535)) ∧
    (∀ off : Nat, s.DoesOnly (.scrubVisit x off) (s.dev.scrubAt x off)) ∧ s.Does (.sealPassEnd x) (s.dev.sealPass x) ∧
    (s.dev.variant = .ez8 → (s.dev.fld PKG_SEAL_STAT.SEALED).testBit x = true → (s.dev.fld PKG_SEAL_STAT.OPEN).testBit x = false →
      s.dev.sealStop.contains x = false → s.dev.upsets = [] →
      s.DoesSome (.sealPassEnd x) fun e =>
        if s.dev.sealOf x = s.dev.reg .PKG_SEAL_VALUE 0 x then (∀ k : Loc, e.at k = s.dev.at k) ∧ x ∉ e.reloaded
        else if s.dev.reloaded.contains x = true then
          (e.fld PKG_SEAL_STAT.FAULT).testBit x = true ∧ x ∈ e.sealStop ∧ ∀ k : Loc, k ≠ ⟨.PKG_SEAL_STAT, 0, 0⟩ → e.at k = s.dev.at k
        else
          (e.fld PKG_SEAL_STAT.MISMATCH).testBit x = true ∧ x ∈ e.reloaded ∧
            ∀ (r : RegId) (k : Nat), r ∈ pkgRegs → r.isP = true → r.spec.owner = .cfg →
              e.reg r x k &&& r.pMask = s.dev.reg r (s.dev.copyOf x) k &&& r.pMask)

/-- R265, R266, R268: a flush of a queue of records empties it, sets POPPED to PUSHED and counts what it discards in LOST; of any other
queue it does nothing. A tail notice sets TAIL and raises an event, once. A pointer mismatch empties the queue, sets both counters to 0 and
counts MISMATCH. No producer waits for room. A notice and a mismatch of any queue do what its kind gives. Log entries 2 and 32 hold what the
model reads into the rules here. -/
def Obligations.QueuesLoseItems : Prop :=
  ∀ (s : State) (src : Src) (x : Nat),
    (∀ q : Nat, q = 60 ∨ q = 61 → (s.dev.queue x q).held = [] → s.dev.lets src ⟨.DIE_Q_CTL, x, q⟩ = true →
      s.DoesSome (.queueFlush src x q) fun e =>
        (e.queue x q).items = [] ∧ (e.queue x q).cursor = 0 ∧ (e.queue x q).popped = (s.dev.queue x q).pushed ∧
          (e.queue x q).pushed = (s.dev.queue x q).pushed ∧
          e.fld ERR_STAT.LOST 0 x = (if q = 60 then min (s.dev.fld ERR_STAT.LOST 0 x + (s.dev.queue x q).count) 65535
            else s.dev.fld ERR_STAT.LOST 0 x) ∧
          e.fld TC_PFD_STAT.LOST x = (if q = 61 then min (s.dev.fld TC_PFD_STAT.LOST x + (s.dev.queue x q).count) 65535
            else s.dev.fld TC_PFD_STAT.LOST x)) ∧
    (∀ q : Nat, q < 60 ∨ q = 62 → s.dev.lets src ⟨.DIE_Q_CTL, x, q⟩ = true →
      s.Does (.queueFlush src x q) ((s.dev.written src ⟨.DIE_Q_CTL, x, q⟩).answered src)) ∧
    (∀ q : Nat, (s.dev.Runs x → s.Does (.queueTailTimeout x q) (s.dev.tailNotice x q)) ∧
      s.Does (.queuePointerMismatch x q) (s.dev.queueMismatch x q)) ∧
    (∀ q : Nat, q = 60 ∨ q = 61 → s.dev.Runs x → (s.dev.queue x q).items ≠ [] → s.dev.fld DIE_Q_CFG.TAIL x q ≠ 0 →
      ((s.dev.queue x q).noticed = false →
        s.Does (.queueTailTimeout x q) (((s.dev.setFld DIE_Q_STAT.TAIL x q 1).modQueue x q fun k => { k with noticed := true }).raise x
          evQueue ⟨.DIE_Q_STAT, x, q⟩ 3 q)) ∧
      ((s.dev.queue x q).noticed = true → s.Does (.queueTailTimeout x q) s.dev)) ∧
    (∀ q : Nat, q = 60 ∨ q = 61 → (s.dev.queue x q).held = [] →
      s.DoesSome (.queuePointerMismatch x q) fun e =>
        (e.queue x q).items = [] ∧ (e.queue x q).pushed = 0 ∧ (e.queue x q).popped = 0 ∧
          e.fld DIE_Q_STAT.MISMATCH x q = min (s.dev.fld DIE_Q_STAT.MISMATCH x q + 1) 255)

/-! ## Bonds and tiles (spec/14) -/

/-- R344, R345, R350, R351: a write of TIL_BOND with EN = 1 that names the tile itself or another tile of its die than its partner stores
EN = 0 and sets CFG_REFUSED; one whose mate does not name the tile back reads FORMING; one whose mate does, both tiles serving and both
ports ACTIVE, makes both BONDED with the lower one the anchor. EN = 0 ends a bond that has no work. Tiles serve; no lock or unit stands in
the way. R351: a write of EN = 0 breaks a bond: with no work left in either tile, STATE reads NONE in the tile written; a FORMING one too.
-/
def Obligations.Bonds : Prop :=
  (∀ (s : State) (src : Src) (p : Nat), p < 8 * s.dev.n → s.dev.lets src ⟨.TIL_BOND, p, 0⟩ = true → s.dev.upsets = [] →
    (∀ q : Nat, q = p ∨ q = partnerTile p → s.dev.tileServing q = true ∧ s.dev.fld BB_LINK_STAT.STATE q = 3) →
    s.dev.reg .TIL_BOND p = BitVec.ofNat 32 (p ^^^ 1) →
    (∀ m : Nat, m = p ∨ dieOf m = dieOf p ∧ m ≠ partnerTile p →
      s.DoesSome (.tilBondWrite src p (2 ^ 31 + m)) fun e =>
        e.fld TIL_BOND.EN p = 0 ∧ e.fld TIL_BOND.CFG_REFUSED p = 1 ∧ e.fld TIL_BOND.STATE p = 0) ∧
    (s.dev.reg .TIL_BOND (partnerTile p) = BitVec.ofNat 32 p →
      s.DoesSome (.tilBondWrite src p (2 ^ 31 + partnerTile p)) fun e =>
        e.fld TIL_BOND.EN p = 1 ∧ e.fld TIL_BOND.STATE p = 1 ∧ e.reg .TIL_BOND (partnerTile p) = BitVec.ofNat 32 p) ∧
    (s.dev.reg .TIL_BOND (partnerTile p) = BitVec.ofNat 32 (2 ^ 31 + 2 ^ 28 + p) →
      s.DoesSome (.tilBondWrite src p (2 ^ 31 + partnerTile p)) fun e =>
        e.fld TIL_BOND.EN p = 1 ∧ e.fld TIL_BOND.STATE p = 2 ∧ e.fld TIL_BOND.STATE (partnerTile p) = 2 ∧
          e.fld TIL_BOND.ANCHOR (min p (partnerTile p)) = 1 ∧ e.fld TIL_BOND.ANCHOR (max p (partnerTile p)) = 0)) ∧
  (∀ (s : State) (src : Src) (p st : Nat), p < 8 * s.dev.n → s.dev.lets src ⟨.TIL_BOND, p, 0⟩ = true → s.dev.upsets = [] →
    (∀ q : Nat, q = p ∨ q = partnerTile p → s.dev.tileServing q = true ∧ (s.dev.port q).works = [] ∧ (s.dev.port q).outOpen = none) →
    1 ≤ st → st ≤ 3 → s.dev.reg .TIL_BOND p = BitVec.ofNat 32 (2 ^ 31 + st * 2 ^ 28 + partnerTile p) →
    s.DoesSome (.bondBreak src p) fun e =>
      e.fld TIL_BOND.EN p = 0 ∧ e.fld TIL_BOND.STATE p = 0 ∧ e.fld TIL_BOND.MATE p = partnerTile p)

/-- R354, R352: EVACUATE of a SERVING tile whose receiver serves and carries nothing starts an evacuation, refused with a code otherwise;
when the last transaction ends the tile is EVACUATED and its partner carries its port; RETURN brings the port back. The tile has no bond. -/
def Obligations.Evacuation : Prop :=
  ∀ (s : State) (src : Src) (p : Nat), p < 8 * s.dev.n → s.dev.reg .TIL_BOND p = BitVec.ofNat 32 (p ^^^ 1) →
    (s.dev.lets src ⟨.TIL_SVC, p, 0⟩ = true →
      (s.dev.fld TIL_SVC_STAT.STATE p = 0 → s.dev.fld TIL_SVC_STAT.STATE (partnerTile p) = 0 →
        s.dev.flag TIL_SVC_STAT.CARRYING (partnerTile p) = false →
        s.Does (.evacuate src p) (((s.dev.written src ⟨.TIL_SVC, p, 0⟩).setFld TIL_SVC_STAT.STATE p 0 1).answered src)) ∧
      (∀ c : Nat, s.dev.fld TIL_SVC_STAT.STATE p ≠ 0 ∧ c = 1 ∨
          s.dev.fld TIL_SVC_STAT.STATE p = 0 ∧ s.dev.fld TIL_SVC_STAT.STATE (partnerTile p) ≠ 0 ∧ c = 2 ∨
          s.dev.fld TIL_SVC_STAT.STATE p = 0 ∧ s.dev.fld TIL_SVC_STAT.STATE (partnerTile p) = 0 ∧
            s.dev.flag TIL_SVC_STAT.CARRYING (partnerTile p) = true ∧ c = 3 →
        s.Does (.evacuate src p) ((((s.dev.written src ⟨.TIL_SVC, p, 0⟩).setFld TIL_SVC_STAT.LAST_REFUSAL p 0 c).raise (dieOf p) evBond
          ⟨.TIL_SVC_STAT, p, 0⟩ 16 p).answered src)) ∧
      (s.dev.fld TIL_SVC_STAT.STATE p = 2 → s.dev.portQuiet p = true → s.dev.fld TIL_SVC_STAT.CARRIER p = partnerTile p →
        s.DoesSome (.tileReturn src p) fun e =>
          e.fld TIL_SVC_STAT.STATE p = 0 ∧ e.fld TIL_SVC_STAT.CARRIER p = 0 ∧ e.flag TIL_SVC_STAT.CARRYING (partnerTile p) = false) ∧
      (s.dev.fld TIL_SVC_STAT.STATE p = 5 → s.DoesSome (.tileReturn src p) fun e =>
        e.fld TIL_SVC_STAT.STATE p = 5 ∧ e.fld TIL_SVC_STAT.LAST_REFUSAL p = 1)) ∧
    (s.dev.fld TIL_SVC_STAT.STATE p = 1 → s.dev.portQuiet p = true → (s.dev.port p).pf = [] →
      s.DoesSome (.evacuationDrained p) fun e =>
        e.fld TIL_SVC_STAT.STATE p = 2 ∧ e.fld TIL_SVC_STAT.CARRIER p = partnerTile p ∧ e.flag TIL_SVC_STAT.CARRYING (partnerTile p) = true ∧
          e.fld TIL_SVC_STAT.EVACS p = min (s.dev.fld TIL_SVC_STAT.EVACS p + 1) 255 ∧ (e.port p).works = (s.dev.port p).works) ∧
    (s.dev.portQuiet p = false ∨ s.dev.fld TIL_SVC_STAT.STATE p ≠ 1 ∧ s.dev.fld TIL_SVC_STAT.STATE p ≠ 4 →
      s.Does (.evacuationDrained p) s.dev)

/-- R357, R71: RESET of an EVACUATED or FAILED tile makes it RESETTING, returns every field of its domain that is not P to its reset value
and lets the tile's lock go; of any other tile it does nothing. The tile then reads EVACUATED, or FAILED where its test fails. -/
def Obligations.TileResets : Prop :=
  ∀ (s : State) (src : Src) (p : Nat), p < 8 * s.dev.n →
    (s.dev.lets src ⟨.TIL_SVC, p, 0⟩ = true →
      (s.dev.fld TIL_SVC_STAT.STATE p = 2 ∨ s.dev.fld TIL_SVC_STAT.STATE p = 5 →
        s.DoesSome (.tileReset src p) fun e =>
          e.fld TIL_SVC_STAT.STATE p = 3 ∧ Note.unlock p ∈ e.notes ∧ e.fld TIL_SVC_STAT.FAULTS p = 0 ∧ e.fld TIL_SVC_STAT.EVACS p = 0 ∧
            e.fld TIL_SVC_STAT.LAST_REFUSAL p = 0 ∧ (e.port p).pf = [] ∧
            ∀ (r : RegId) (k : Nat), r ∈ tileDomain → e.reg r p k &&& ~~~r.pMask = Loc.resetWord ⟨r, p, k⟩ &&& ~~~r.pMask) ∧
      (s.dev.fld TIL_SVC_STAT.STATE p ≠ 2 → s.dev.fld TIL_SVC_STAT.STATE p ≠ 5 →
        s.Does (.tileReset src p) ((s.dev.written src ⟨.TIL_SVC, p, 0⟩).answered src))) ∧
    (∀ ok : Bool, s.dev.fld TIL_SVC_STAT.STATE p = 3 → s.DoesSome (.tileResetDone p ok) fun e =>
      e.fld TIL_SVC_STAT.STATE p = if ok then 2 else 5) ∧
    (∀ ok : Bool, s.dev.fld TIL_SVC_STAT.STATE p ≠ 3 → s.Does (.tileResetDone p ok) s.dev)

/-- R355, R367: a logic fault in a SERVING tile with nothing open and nothing in its command chain makes it FAILED, counts FAULTS and switches
its port to its partner; in an EVACUATED one it only counts. RECAL is refused while the port is not ACTIVE; at x8 it retrains the port to x4, on a narrower port it
recalibrates the lanes outside the group, of which those that fail stay BAD while the port retrains.
Log entry 38 holds what the model reads into the rules here. -/
def Obligations.TileFaultsAndRecal : Prop :=
  (∀ (s : State) (p bad : Nat), s.Does (.tileFault p) (s.dev.tileFault p) ∧
    s.Does (.laneRecalibrationDone p bad) (s.dev.recalDone p bad)) ∧
  ∀ (s : State) (src : Src) (p : Nat), p < 8 * s.dev.n → s.dev.reg .TIL_BOND p = BitVec.ofNat 32 (p ^^^ 1) →
    (s.dev.fld TIL_SVC_STAT.STATE p = 0 → s.dev.flag TIL_SVC_STAT.CARRYING p = false → s.dev.fld TIL_SVC_STAT.STATE (partnerTile p) = 0 →
      s.dev.flag TIL_SVC_STAT.CARRYING (partnerTile p) = false → s.dev.portQuiet p = true →
      (∀ w ∈ (s.dev.port p).works, w.came = true → w.begun = true) →
      s.DoesSome (.tileFault p) fun e =>
        e.fld TIL_SVC_STAT.STATE p = 5 ∧ e.fld TIL_SVC_STAT.CARRIER p = partnerTile p ∧ e.flag TIL_SVC_STAT.CARRYING (partnerTile p) = true ∧
          e.fld TIL_SVC_STAT.FAULTS p = min (s.dev.fld TIL_SVC_STAT.FAULTS p + 1) 255 ∧ (e.port p).works = (s.dev.port p).works) ∧
    (s.dev.fld TIL_SVC_STAT.STATE p = 2 → s.DoesSome (.tileFault p) fun e =>
      e.fld TIL_SVC_STAT.STATE p = 5 ∧ e.fld TIL_SVC_STAT.FAULTS p = min (s.dev.fld TIL_SVC_STAT.FAULTS p + 1) 255 ∧
        ∀ k : Loc, k ≠ ⟨.TIL_SVC_STAT, p, 0⟩ → e.at k = s.dev.at k) ∧
    (s.dev.lets src ⟨.TIL_SVC, p, 0⟩ = true →
      (s.dev.fld BB_LINK_STAT.STATE p ≠ 3 → s.DoesSome (.recal src p) fun e =>
        e.fld TIL_SVC_STAT.LAST_REFUSAL p = 4 ∧ e.fld TIL_SVC_STAT.RECAL_BUSY p = s.dev.fld TIL_SVC_STAT.RECAL_BUSY p) ∧
      (s.dev.fld BB_LINK_STAT.STATE p = 3 → s.dev.flag TIL_SVC_STAT.RECAL_BUSY p = false →
        s.DoesSome (.recal src p) fun e =>
          e.fld TIL_SVC_STAT.RECAL_BUSY p = 1 ∧
            (if s.dev.fld BB_LINK_STAT.WIDTH p = 8 then
              e.fld BB_LINK_STAT.STATE p = 4 ∧ (e.port p).link.capWidth = 4 ∧ (e.port p).link.recal = .narrowHigh
            else e.fld BB_LINK_STAT.STATE p = 3 ∧ (e.port p).link.recal = .outside))) ∧
    (∀ bad : Nat, bad < 256 → s.dev.fld BB_LINK_STAT.STATE p = 3 → (s.dev.port p).link.recal = .outside →
      s.DoesSome (.laneRecalibrationDone p bad) fun e =>
        e.fld BB_LANE_STAT.BAD p = (bad &&& (255 - s.dev.fld BB_LANE_STAT.ACTIVE p)) ∧ e.fld BB_LINK_STAT.STATE p = 4 ∧
          (e.port p).link.recal = .widen)

/-! ## Dies and SRAM (spec/14) -/

/-- R358: DIE_SVC.RESET of a die is refused with code 1 for the lead's die, 2 while another die is in a reset, 3 while a tile of the die
is EVACUATED or FAILED; otherwise draining begins and the die's items pass to its mirror. No tile has a bond. R358, R71: once nothing is
open on a draining die its core domain is reset: the locks of the die and of its tiles and its copy of the package lock clear, its queues
are empty, its page lines gone, its record of rejected accesses released, the banks that failed the test retired; homes come back, the die
serves again, RESETS counts, its controller restarts. With a transaction open nothing happens.
Log entry 39 holds what the model reads into the rules here. -/
def Obligations.DieResets : Prop :=
  (∀ (s : State) (src : Src) (x : Nat), x < s.dev.n → s.dev.lets src ⟨.DIE_SVC, x, 0⟩ = true → (∀ p ∈ tilesOf x, s.dev.bonded p = false) →
    let out (p : Nat) : Prop := s.dev.fld TIL_SVC_STAT.STATE p = 2 ∨ s.dev.fld TIL_SVC_STAT.STATE p = 5;
    (x ≠ s.dev.lead.lead → (∀ y : Nat, y < s.dev.n → s.dev.fld DIE_SVC_STAT.STATE y = 0) → (∀ p ∈ tilesOf x, ¬ out p) →
      s.DoesSome (.dieReset src x) fun e =>
        e.fld DIE_SVC_STAT.STATE x = 1 ∧ e.away = s.dev.away ++ [x] ∧
          ∀ k : Loc, k ≠ ⟨.DIE_SVC, x, 0⟩ → k ≠ ⟨.DIE_SVC_STAT, x, 0⟩ → e.at k = s.dev.at k) ∧
    (∀ c : Nat, x = s.dev.lead.lead ∧ c = 1 ∨
        x ≠ s.dev.lead.lead ∧ (∃ y, y < s.dev.n ∧ y ≠ x ∧ s.dev.fld DIE_SVC_STAT.STATE y ≠ 0) ∧ c = 2 ∨
        x ≠ s.dev.lead.lead ∧ (∀ y : Nat, y < s.dev.n → s.dev.fld DIE_SVC_STAT.STATE y = 0) ∧ (∃ p ∈ tilesOf x, out p) ∧ c = 3 →
      s.DoesSome (.dieReset src x) fun e =>
        e.fld DIE_SVC_STAT.LAST_REFUSAL x = c ∧ e.fld DIE_SVC_STAT.STATE x = s.dev.fld DIE_SVC_STAT.STATE x ∧ e.away = s.dev.away)) ∧
  (∀ (s : State) (x bad : Nat), x < s.dev.n → bad < 2 ^ 96 →
    (s.dev.dieMayReset x = true → s.dev.cfgLog = [] → s.dev.takes (.dieResetDrained x bad) = true →
      ∃ e : Dev, exec (.dieResetDrained x bad) s = .next (State.after { s with locks := s.locks.clearDie x } e) ∧
        e.fld DIE_SVC_STAT.STATE x = 0 ∧ e.fld DIE_SVC_STAT.RESETS x = min (s.dev.fld DIE_SVC_STAT.RESETS x + 1) 255 ∧ x ∉ e.away ∧
        (∀ q : Nat, q < 64 → q ≠ 62 → e.queue x q = {}) ∧ (e.tc x).lines = [] ∧ e.reg .DIE_ACC_ERR_INFO x = 0 ∧ e.bankMask x = bad ∧
        e.fld MC_ROLE.ROLE x = 0) ∧
    (s.dev.dieMayReset x = false → s.Does (.dieResetDrained x bad) s.dev))

/-- R359, R230: an uncorrectable error retires a bank once: DIE_SRAM_STAT counts it and names it; one of the translation cache takes the page
lines of the die with it. A corrected error counts and shows under AER.
Log entries 8 and 19 hold what the model reads into the rules here. -/
def Obligations.SramErrors : Prop :=
  ∀ (s : State) (x bank : Nat),
    (48 ≤ bank → bank < 72 → (s.dev.bankMask x).testBit bank = false →
      s.DoesSome (.sramUncorrectable x bank) fun e =>
        e.bankMask x = s.dev.bankMask x + 2 ^ bank ∧ e.fld DIE_SRAM_STAT.LAST_BANK x = bank ∧ (e.tc x).lines = [] ∧
          ∀ y : Nat, y ≠ x → e.tc y = s.dev.tc y) ∧
    s.Does (.sramUncorrectable x bank) (s.dev.sramFail x bank) ∧
    ((s.dev.bankMask x).testBit bank = true → s.Does (.sramUncorrectable x bank) s.dev) ∧
    s.DoesOnly (.sramCorrected x) ((s.dev.bump DIE_SRAM_STAT.CORRECTED x).aer x .correctedInternal)

/-! ## Magazine port power and temperature (spec/16) -/

/-- R408, R410: a port is in RAMP once EN is 1 and a magazine is present, by a write, by an insertion, or under AUTO once it has been
present for 100 ms; ON at 10.8 V; DISCHARGING when EN is written 0 or the magazine goes, which counts UNPLUGS; OFF below 2 V. No lock is
set. R409, R412: each fault condition, judged in the states that know it, puts the port into FAULT with its CAUSE and counts FAULTS; SHORT
acts while the root is held, the others then wait; a write of CLEAR ends FAULT once the rail is below 2 V. R406: a temperature reading is
stored; ALERT is 1 while it is at or above ALERT_C, both in two's complement, and its turn to 1 raises an event of class 0x12; PKG_ALERT_N
follows the ALERT of all dies. Log entry 42 holds what the model reads into the rules here. -/
def Obligations.PowerAndTemperature : Prop :=
  (∀ (s : State) (src : Src) (p : Nat), p < 8 * s.dev.n →
    let x := dieOf p; let t := p % 8; let d := s.dev;
    (d.lets src ⟨.PWR_MP_CTL, x, t⟩ = true → lockOf s.locks ⟨.PWR_MP_CTL, x, t⟩ = false → d.flag PWR_MP_CTL.AUTO x t = false →
      (d.fld PWR_MP_STAT.STATE x t = 0 → (d.mp p).present = true → (d.mp p).low = true →
        s.DoesSome (.mpEnWrite src p true) fun e =>
          e.fld PWR_MP_CTL.EN x t = 1 ∧ e.fld PWR_MP_STAT.STATE x t = 2 ∧ Out.gate p true ∈ e.out) ∧
      (∀ st : Nat, st = 0 ∧ (d.mp p).present = false ∨ st = 4 → d.fld PWR_MP_STAT.STATE x t = st →
        s.DoesSome (.mpEnWrite src p true) fun e => e.fld PWR_MP_CTL.EN x t = 1 ∧ e.fld PWR_MP_STAT.STATE x t = st) ∧
      (d.fld PWR_MP_STAT.STATE x t = 2 ∨ d.fld PWR_MP_STAT.STATE x t = 3 →
        s.DoesSome (.mpEnWrite src p false) fun e =>
          e.fld PWR_MP_CTL.EN x t = 0 ∧ e.fld PWR_MP_STAT.STATE x t = 1 ∧ Out.gate p false ∈ e.out)) ∧
    (d.flag PWR_MP_CTL.AUTO x t = false → d.fld PWR_MP_STAT.STATE x t = 0 → (d.mp p).low = true →
      s.DoesJust (.presenceInsert p) fun e =>
        e.fld PWR_MP_STAT.PRESENT x t = 1 ∧ (e.mp p).present = true ∧
          e.fld PWR_MP_STAT.STATE x t = if d.flag PWR_MP_CTL.EN x t then 2 else 0) ∧
    (d.flag PWR_MP_CTL.AUTO x t = true → d.fld PWR_MP_STAT.STATE x t = 0 → (d.mp p).low = true → (d.mp p).present = true →
      s.DoesJust (.presenceDebounce p) fun e => e.fld PWR_MP_CTL.EN x t = 1 ∧ e.fld PWR_MP_STAT.STATE x t = 2) ∧
    (d.fld PWR_MP_STAT.STATE x t = 2 ∨ d.fld PWR_MP_STAT.STATE x t = 3 →
      s.DoesSome (.presenceRemove p) fun e =>
        e.fld PWR_MP_STAT.STATE x t = 1 ∧ e.fld PWR_MP_STAT.PRESENT x t = 0 ∧ (e.mp p).present = false ∧
          e.fld PWR_MP_STAT.UNPLUGS x t = min (d.fld PWR_MP_STAT.UNPLUGS x t + 1) 255 ∧
          e.fld PWR_MP_CTL.EN x t = (if d.flag PWR_MP_CTL.AUTO x t then 0 else d.fld PWR_MP_CTL.EN x t) ∧ Out.gate p false ∈ e.out) ∧
    (d.fld PWR_MP_STAT.STATE x t = 2 → s.DoesJust (.mpPowerGood p) fun e => e.fld PWR_MP_STAT.STATE x t = 3) ∧
    (d.fld PWR_MP_STAT.STATE x t ≠ 2 → s.DoesOnly (.mpPowerGood p) d) ∧
    (d.fld PWR_MP_STAT.STATE x t = 1 → d.flag PWR_MP_CTL.AUTO x t = false →
      s.DoesJust (.mpDischarged p) fun e =>
        e.fld PWR_MP_STAT.STATE x t = if d.flag PWR_MP_CTL.EN x t && (d.mp p).present then 2 else 0)) ∧
  (∀ (s : State) (src : Src) (p : Nat), p < 8 * s.dev.n →
    let x := dieOf p; let t := p % 8; let d := s.dev;
    let faulted (e : Dev) (c : Nat) : Prop := e.fld PWR_MP_STAT.STATE x t = 4 ∧ e.fld PWR_MP_STAT.CAUSE x t = c ∧
      e.fld PWR_MP_STAT.FAULTS x t = min (d.fld PWR_MP_STAT.FAULTS x t + 1) 255;
    let on : Prop := d.fld PWR_MP_STAT.STATE x t = 2 ∨ d.fld PWR_MP_STAT.STATE x t = 3;
    (on → s.DoesSome (.short p) fun e => faulted e 2) ∧
    (on → d.rootHeld x = false → s.DoesSome (.overcurrent p) fun e => faulted e 1) ∧
    (d.fld PWR_MP_STAT.STATE x t = 2 → d.rootHeld x = false → s.DoesJust (.pgTimeout p) fun e => faulted e 3) ∧
    (d.fld PWR_MP_STAT.STATE x t = 3 → d.rootHeld x = false → s.DoesSome (.undervoltage p) fun e => faulted e 4) ∧
    (d.fld PWR_MP_STAT.STATE x t = 1 → d.rootHeld x = false → s.DoesJust (.dischargeTimeout p) fun e => faulted e 5) ∧
    (on → d.rootHeld x = true → s.Does (.overcurrent p) (d.modClk x fun c => { c with waitFaults := c.waitFaults ++ [(p, 1)] })) ∧
    (d.fld PWR_MP_STAT.STATE x t = 0 → s.Does (.short p) d) ∧
    (d.lets src ⟨.PWR_MP_CTL, x, t⟩ = true → lockOf s.locks ⟨.PWR_MP_CTL, x, t⟩ = false → d.fld PWR_MP_STAT.STATE x t = 4 →
      ((d.mp p).low = true → d.flag PWR_MP_CTL.AUTO x t = false → s.DoesSome (.mpClear src p) fun e =>
        e.fld PWR_MP_STAT.STATE x t = if d.flag PWR_MP_CTL.EN x t && (d.mp p).present then 2 else 0) ∧
      ((d.mp p).low = false → s.DoesSome (.mpClear src p) fun e =>
        e.fld PWR_MP_STAT.STATE x t = 4 ∧ (e.mp p).clear = true))) ∧
  (∀ (s : State) (x : Nat) (t : Int), x < s.dev.n → -128 ≤ t → t ≤ 127 →
    let hot : Prop := (BitVec.ofNat 8 (s.dev.fld PWR_TEMP.ALERT_C x)).toInt ≤ t;
    s.DoesJust (.tempSample x t) fun e =>
      (BitVec.ofNat 8 (e.fld PWR_TEMP.TEMP_C x)).toInt = t ∧ (hot ↔ e.fld PWR_TEMP.ALERT x = 1) ∧
        (hot → s.dev.flag PWR_TEMP.ALERT x = false → (s.dev.queue x 62).extra = 0 →
          (s.dev.queue x 62).items.length + (s.dev.queue x 62).held.length + 1 =
            (e.queue x 62).items.length + (e.queue x 62).held.length) ∧
        (hot → (∀ y : Nat, s.dev.flag PWR_TEMP.ALERT y = false) → e.out = s.dev.out ++ [.alert true]) ∧
        (¬ hot → s.dev.flag PWR_TEMP.ALERT x = true → (∀ y : Nat, y ≠ x → s.dev.flag PWR_TEMP.ALERT y = false) →
          e.out = s.dev.out ++ [.alert false]))

/-! ## Clocks and sleep (spec/15) -/

/-- R366, R376, R392: PLL_SWAP starts the spare core PLL, refused with code 4 while it is failed, and with some code while a swap runs (the
spec names none); the spare locks; the monitor result that confirms it moves the root to it, stops the old carrier, flips PLL_ROOT and
counts SWAPS. Log entry 4 holds what the model reads into the rules here. -/
def Obligations.PllSwaps : Prop :=
  ∀ (s : State) (src : Src) (x : Nat), x < s.dev.n →
    let d := s.dev; let k := d.spare x;
    (d.lets src ⟨.DIE_SVC, x, 0⟩ = true →
      ((d.clk x).swap = none → d.srcFailed x k = false → s.DoesSome (.pllSwap src x) fun e =>
        (e.clk x).swap = some false ∧ e.fld DIE_SVC_STAT.PLL_BUSY x = 1 ∧ e.pll x k = 1 ∧ e.fld CLK_STAT.ROOT x = d.fld CLK_STAT.ROOT x) ∧
      ((d.clk x).swap = none → d.srcFailed x k = true → s.DoesSome (.pllSwap src x) fun e =>
        e.fld DIE_SVC_STAT.LAST_REFUSAL x = 4 ∧ e.clk x = d.clk x) ∧
      (∀ b : Bool, (d.clk x).swap = some b → s.DoesSome (.pllSwap src x) fun e =>
        e.fld DIE_SVC_STAT.LAST_REFUSAL x = (Config.freeValue d.free).toNat % 256 ∧ e.clk x = d.clk x)) ∧
    (∀ q : Pll, d.rootHeld x = false →
      (d.pll x (pllMon q) = 1 ∨ d.pll x (pllMon q) = 3 → s.DoesSome (.pllLock x q) fun e =>
        e.pll x (pllMon q) = 2 ∧ e.fld CLK_STAT.ROOT x = d.fld CLK_STAT.ROOT x) ∧
      (d.pll x (pllMon q) = 2 → s.Does (.pllLock x q) d)) ∧
    (∀ count : Nat, (d.clk x).armed = true → (d.clk x).swap = some false → d.srcFailed x k = false → d.pll x k = 2 → d.pll x (5 - k) = 2 →
      d.fld CLK_STAT.ROOT x = (if d.flag DIE_SVC_STAT.PLL_ROOT x then 1 else 0) → d.passes x (.mon k) count = true →
      s.DoesSome (.clockMonitorResult x (.mon k) count) fun e =>
        e.fld CLK_STAT.ROOT x = k - 2 ∧ e.fld DIE_SVC_STAT.PLL_ROOT x = k - 2 ∧ e.fld DIE_SVC_STAT.PLL_BUSY x = 0 ∧
          (e.clk x).swap = none ∧ e.pll x (5 - k) = 0 ∧ e.pll x k = 2 ∧ e.fld DIE_SVC_STAT.SWAPS x = min (d.fld DIE_SVC_STAT.SWAPS x + 1) 255)

/-- R387, R389, R390, R391, R377, R378: monitor results and losses of reference. A result is stored and judged; the carrying PLL that
fails moves the root to FIO, non-maskable; a failing crystal under a locked carrier holds the root for the arbitration, which fails the
crystal where FIO passes and FIO otherwise; a PLL that loses its reference coasts, the Body Bus PLL taking its ports to their loop clock.
AUTO_RESTORE is off in these; nothing is judged before the monitors are armed. R386: a hung multiplexer whose old clock still has edges goes
on waiting; without edges the forced path is taken, non-maskable for the root, LOOP_FORCED only for a loop-timed port. R389: the
measurement of FIO, while one runs, ends with its result in CLK_FIO_CAL and its record. Each report of a clock is acted on in every state.
Log entry 41 holds what the model reads into the rules here. -/
def Obligations.ClockFailures : Prop :=
  (∀ (s : State) (x count : Nat) (m : ClockMon) (q : Pll) (mx : MuxId) (edges : Bool),
    s.Does (.clockMonitorResult x m count) (s.dev.monResult x m count) ∧ s.Does (.arbitrationResult x count) (s.dev.arbResult x count) ∧
      s.Does (.pllReferenceLoss x q) (s.dev.refLoss x q) ∧ s.Does (.pllLock x q) (s.dev.pllLocks x q) ∧
      s.Does (.muxHang x mx edges) (s.dev.muxHangs x mx edges) ∧
      ((s.dev.clk x).calRun = false → s.DoesOnly (.fioCalDone x count) s.dev)) ∧
  (∀ (s : State) (x count : Nat), x < s.dev.n → s.dev.flag CLK_CTL.AUTO_RESTORE x = false →
    let d := s.dev;
    ((d.clk x).armed = false → ∀ m : ClockMon, s.Does (.clockMonitorResult x m count) d) ∧
    ((d.clk x).armed = true → (d.clk x).arb = none → (d.clk x).swap = none → d.srcFailed x 6 = false → count < 2 ^ 20 →
      (d.pll x 2 = 2 → d.srcFailed x 2 = false → d.fld CLK_STAT.ROOT x = 0 → d.passes x (.mon 2) count = false →
        s.DoesSome (.clockMonitorResult x (.mon 2) count) fun e =>
          e.fld CLK_MON_CNT.COUNT x 2 = count ∧ e.fld CLK_MON_CNT.FAIL x 2 = 1 ∧ e.fld CLK_STAT.ROOT x = 2 ∧ e.pll x 2 = 4 ∧
            e.fld CLK_EVENT.PLLA_FAIL x = 1 ∧ e.fld IRQ_NMI_CAUSE.PLLA = 1 ∧ e.srcFailed x 2 = true) ∧
      (d.pll x 2 = 2 → d.refOf x 2 = 0 → d.fld CLK_STAT.ROOT x = 0 → d.srcFailed x 0 = false → d.passes x (.mon 0) count = false →
        s.DoesSome (.clockMonitorResult x (.mon 0) count) fun e =>
          e.fld CLK_STAT.HELD x = 1 ∧ e.fld CLK_STAT.ARBITRATING x = 1 ∧ (e.clk x).arb = some 0 ∧ e.srcFailed x 0 = false)) ∧
    (∀ c : Nat, (d.clk x).arb = some c → c < 2 → d.fld CLK_STAT.ROOT x = 0 → d.pll x 2 = 2 → d.refOf x 2 = c → (d.clk x).swap = none →
      (d.passes x (.mon 6) count = true → s.DoesSome (.arbitrationResult x count) fun e =>
        e.fld CLK_STAT.ROOT x = 2 ∧ e.fld CLK_STAT.HELD x = 0 ∧ e.fld CLK_STAT.ARBITRATING x = 0 ∧ (e.clk x).arb = none ∧
          e.srcFailed x c = true ∧ e.fld (nmiBit c) = 1) ∧
      (d.passes x (.mon 6) count = false → s.DoesSome (.arbitrationResult x count) fun e =>
        e.fld CLK_STAT.ROOT x = 0 ∧ e.fld CLK_STAT.HELD x = 0 ∧ e.fld CLK_STAT.ARBITRATING x = 0 ∧ (e.clk x).arb = none ∧
          e.srcFailed x 6 = true ∧ e.fld IRQ_NMI_CAUSE.FIO = 1)) ∧
    (d.pll x 2 = 2 → d.fld CLK_STAT.ROOT x = 0 → d.srcFailed x 6 = false → s.DoesSome (.pllReferenceLoss x .a) fun e =>
      e.pll x 2 = 3 ∧ e.fld CLK_STAT.ROOT x = 2 ∧ e.fld IRQ_NMI_CAUSE.PLLA = 1) ∧
    (d.pll x 4 = 2 → s.DoesSome (.pllReferenceLoss x .bb) fun e =>
      e.pll x 4 = 3 ∧ ∀ p ∈ d.loopable x, e.fld BB_LINK_STAT.LOOP p = 1) ∧
    (∀ q : Pll, d.pll x (pllMon q) = 0 → s.Does (.pllReferenceLoss x q) d) ∧
    (∀ khz : Nat, (d.clk x).calRun = true →
      s.DoesOnly (.fioCalDone x khz) (((d.setFld CLK_FIO_CAL.KHZ x 0 khz).modClk x fun c => { c with calRun := false }).dieRecord x 1))) ∧
  (∀ (s : State) (x : Nat), x < s.dev.n →
    (∀ m : MuxId, s.Does (.muxHang x m true) s.dev) ∧
    ((s.dev.clk x).swRoot = true → s.DoesSome (.muxHang x .root false) fun e =>
      e.fld CLK_EVENT.FORCED x = 1 ∧ e.fld IRQ_NMI_CAUSE.FORCED = 1 ∧ (e.clk x).swRoot = false ∧ Out.nmi x ∈ e.out) ∧
    (∀ t : Nat, t < 8 → s.dev.flag BB_LINK_STAT.LOOP (8 * x + t) = true →
      s.DoesSome (.muxHang x (.portTx t) false) fun e =>
        e.fld CLK_EVENT.LOOP_FORCED x = 1 ∧ e.reg .IRQ_NMI_CAUSE = s.dev.reg .IRQ_NMI_CAUSE))

/-- R396, R397: CLK_SLEEP.ENTER puts the package to sleep while the conditions of R396 hold and is refused otherwise; a wake input, or the
timer of a die that runs, wakes it: every die's root is on FIO and CLK_WAKE names the cause. An input to a package awake does nothing.
R380, R396: no timer in microseconds of a die expires while its root is held or the package sleeps (DEDUCED, log entry 2).
Log entry 41 holds what the model reads into the rules here. -/
def Obligations.SleepAndWake : Prop :=
  (∀ (s : State) (x k : Nat), s.dev.rootHeld x = true ∨ s.dev.asleep = true →
    (∀ i ∈ [Instr.npLimitExpiry x k, .holdExpiry x k, .queueTailTimeout x k], s.Does i s.dev) ∧
    (∀ i ∈ [Instr.ltrIdleTimeout x, .monitorLevelSample x k], s.DoesOnly i s.dev) ∧
    (∀ p : Nat, dieOf p = x →
      (∀ i ∈ [Instr.retryWaitEnd p, .busTimerExpiry p true, .busTimerExpiry p false, .quietPeriodEnd p, .tgtLimitExpiry p, .wcHoldExpiry p k,
        .prefetchAgeExpiry p k], s.Does i s.dev) ∧
      s.DoesOnly (.retryStartDecay p) s.dev)) ∧
  ∀ (s : State) (src : Src) (x : Nat), x < s.dev.n →
    (s.dev.lets src ⟨.CLK_SLEEP, x, 0⟩ = true →
      (s.dev.maySleep = true → s.DoesSome (.sleepEnter src x) fun e => e.asleep = true ∧ ∀ k : Loc, k.reg ≠ .CLK_SLEEP → k.reg ≠ .PKG_SEAL_STAT →
        e.at k = s.dev.at k) ∧
      (s.dev.maySleep = false → s.DoesSome (.sleepEnter src x) fun e => e.asleep = s.dev.asleep ∧ e.fld CLK_WAKE.REFUSED x = 1)) ∧
    (s.dev.asleep = true → ∀ y : Nat, y < s.dev.n →
      (s.DoesSome (.wakeEvent x .perst) fun e => e.asleep = false ∧ e.fld CLK_STAT.ROOT y = 2 ∧ e.fld CLK_WAKE.PERST y = 1) ∧
      (s.DoesSome (.wakeEvent x .clkreq) fun e => e.asleep = false ∧ e.fld CLK_STAT.ROOT y = 2 ∧ e.fld CLK_WAKE.CLKREQ y = 1) ∧
      (∀ p : Nat, dieOf p = x → s.dev.fld BB_LINK_STAT.STATE p = 1 →
        s.DoesSome (.wakeEvent x .bodyBus) fun e => e.asleep = false ∧ e.fld CLK_STAT.ROOT y = 2 ∧ e.fld CLK_WAKE.BODY_BUS y = 1) ∧
      (s.dev.fld CLK_WAKE.PERIOD x ≠ 0 →
        s.DoesSome (.wakeTimerExpiry x) fun e => e.asleep = false ∧ e.fld CLK_STAT.ROOT y = 2 ∧ e.fld CLK_WAKE.TIMER y = 1) ∧
      (s.dev.fld CLK_WAKE.PERIOD x = 0 → s.Does (.wakeTimerExpiry x) s.dev)) ∧
    (s.dev.asleep = false → ∀ c : WakeCause, s.Does (.wakeEvent x c) s.dev ∧ s.Does (.wakeTimerExpiry x) s.dev)

/-! ## Boot flashes and the ledger (spec/17) -/

/-- R430: a command of the flash window runs on the sector of MC_FLASH_ADDR; it ends at once with RESULT 1 on a die without a flash, 4
while another runs, 2 for an ERASE or PROGRAM of a sector of the ledger or the EQ store. A READ that completes leaves the sector in the
buffer, an ERASE all ones in the sector, a PROGRAM the buffer in it, with RESULT 0 and one more DONE; one whose read-back differs gives
RESULT 5, one that takes too long RESULT 6. R436, R438, R428: MARK_A and MARK_B append an IMAGE_MARK record, with the image and its
SYNC_LEVEL, at the place that FILL names; READMIT puts the dies it names among those left out up for the next start.
Log entry 44 holds what the model reads into the rules here. -/
def Obligations.FlashAndLedger : Prop :=
  (∀ (s : State) (src : Src) (x : Nat) (i : Instr) (op : Nat),
    (i = .flashRead src x ∧ op = 1 ∨ i = .flashErase src x ∧ op = 2 ∨ i = .flashProgram src x ∧ op = 3) →
    let d := s.dev; let sec := d.fld MC_FLASH_ADDR.SECTOR x;
    let ended (e : Dev) (r : Nat) : Prop := e.fld MC_FLASH_RES.RESULT x = r ∧ e.fld MC_FLASH_RES.DONE x = (d.fld MC_FLASH_RES.DONE x + 1) % 65536;
    (d.lets src ⟨.MC_FLASH_CMD, x, 0⟩ = true → src.path < 16 →
      (d.hasFlash x = true → d.flashWindow x = none → sec < 16 ∨ op = 1 →
        s.DoesSome i fun e => e.flashWindow x = some (op, sec) ∧ e.fld MC_FLASH_RES.BUSY x = 1 ∧ e.flash = d.flash) ∧
      (d.hasFlash x = false → s.DoesSome i fun e => ended e 1 ∧ e.flashWindow x = d.flashWindow x) ∧
      (d.hasFlash x = true → d.flashWindow x ≠ none → s.DoesSome i fun e => ended e 4 ∧ e.flashWindow x = d.flashWindow x) ∧
      (d.hasFlash x = true → d.flashWindow x = none → op ≠ 1 → 16 ≤ sec → sec < 144 →
        s.DoesSome i fun e => ended e 2 ∧ e.flashWindow x = none ∧ e.flash = d.flash)) ∧
    (∀ (t : Nat) (ok : Bool), d.flashWindow x = some (op, t) → op ≠ 3 ∨ ok = true →
      s.DoesJust (.flashCommandComplete x ok) fun e =>
        ended e 0 ∧ e.fld MC_FLASH_RES.BUSY x = 0 ∧ e.flashWindow x = none ∧
          (op = 1 → e.flashBuf x = d.flashBytes x (4096 * t) 4096 ∧ e.flash = d.flash) ∧
          (op = 2 → e.flashBytes x (4096 * t) 4096 = List.replicate 4096 0xFF#8) ∧
          (op = 3 → e.flashBytes x (4096 * t) 4096 = d.flashBuf x)) ∧
    (∀ t : Nat, d.flashWindow x = some (3, t) → s.DoesJust (.flashCommandComplete x false) fun e => ended e 5 ∧ e.flashWindow x = none) ∧
    (∀ t : Nat, d.flashWindow x = some (op, t) → s.DoesJust (.flashCommandTimeout x) fun e => ended e 6 ∧ e.flashWindow x = none) ∧
    (d.flashWindow x = none → s.DoesOnly (.flashCommandTimeout x) d)) ∧
  (∀ (s : State) (src : Src) (x : Nat), s.dev.lets src ⟨.MC_LEDGER_CTL, x, 0⟩ = true →
    (∀ (i : Instr) (image : Nat), i = .markA src x ∧ image = 0 ∨ i = .markB src x ∧ image = 1 → s.dev.hasFlash 0 = true →
      s.dev.inService 0 = true → s.dev.refuses 0 = false →
      s.DoesSome i fun e =>
        e.fld MC_FLASH_STAT.FILL 0 = (s.dev.fld MC_FLASH_STAT.FILL 0 + 1) % 16384 ∧
          ∃ t : Nat, e.flashBytes 0 (ledgerBase + 32 * s.dev.fld MC_FLASH_STAT.FILL 0) 32 =
            LedgerRec.bytes { kind := 6, die := x, boot := s.dev.fen.boot, time := t,
                              detail := [image, s.dev.flashWord 0 (imageBase image + 4) % 65536, 0] }) ∧
    (∀ mask : Nat, mask < 256 → s.DoesSome (.readmit src x mask) fun e =>
      (∀ y ∈ s.dev.fen.leftOut, mask.testBit y = true → y ∈ e.fen.readmit) ∧ e.fen.leftOut = s.dev.fen.leftOut ∧
        (∀ y ∈ s.dev.fen.readmit, y ∈ e.fen.readmit)))

/-! ## Interrupts, events, protection records (spec/08, spec/09) -/

/-- R223, R224, R232, R234, R246: the MOD gap of an entry ends while the timers of its die run; a source that arrived in it causes a message,
which opens the next gap as it leaves, or waits in the pending array for its vector; the
non-maskable event asserts level 7 on every ACTIVE port of the die it reaches; an event takes the next SEQ at its home and is kept, or
counted in LOST where its producer has no credits for it (R257, R258); a write of EVQ_HOST_RD outside the entries written takes
EVQ_HOST_WR; a violation record is released. Each of the events is acted on in every state.
Log entries 30 and 52 hold what the model reads into the rules here. -/
def Obligations.InterruptsAndEvents : Prop :=
  (∀ (s : State) (x n : Nat) (upset : Option (Nat × Nat × Nat)) (en : IrqEntry),
    s.Does (.eventArrive ⟨x, n, upset⟩) (s.dev.eventArrive x n upset) ∧ s.Does (.nmiReceived x) (s.dev.nmiLocal x) ∧
      (s.dev.Runs (s.dev.entryDie en) → s.Does (.msixModExpiry en) (s.dev.modEnd (s.dev.entryDie en) en)) ∧
      (¬ s.dev.Runs (s.dev.entryDie en) → s.Does (.msixModExpiry en) s.dev)) ∧
  ∀ (s : State) (src : Src) (x : Nat), x < s.dev.n →
    (∀ c : Nat, c < 64 → s.dev.Runs s.dev.evqHome →
      let ctl := s.dev.reg .IRQ_CLASS_CTL s.dev.evqHome c; let tgt := s.dev.reg .IRQ_CLASS_TGT s.dev.evqHome c;
      let y := bitsOf tgt 22 20; let v := bitsOf tgt 10 0;
      (s.dev.modGap = [] → s.Does (.msixModExpiry (.cls c)) s.dev) ∧
      (s.dev.modGap = [(.cls c, false)] → s.Does (.msixModExpiry (.cls c)) { s.dev with modGap := [] }) ∧
      (s.dev.modGap = [(.cls c, true)] → ctl.getLsbD 31 = true → ctl.getLsbD 30 = false → bitsOf ctl 15 0 ≠ 0 →
        (s.dev.msixOpen y v = true → s.DoesSome (.msixModExpiry (.cls c)) fun e =>
          e.modGap = [(.cls c, false)] ∧ ∃ ido : Bool,
            e.out = s.dev.out ++ [.msix y v (s.dev.pair .MSIX_ADDR_LO .MSIX_ADDR_HI y v) (s.dev.reg .MSIX_DATA y v) ido]) ∧
        (s.dev.msixOpen y v = false → s.DoesSome (.msixModExpiry (.cls c)) fun e =>
          e.modGap = [] ∧ (.cls c, y, v) ∈ e.modPend ∧ e.out = s.dev.out))) ∧
    (s.DoesSome (.nmiReceived x) fun e => ∀ p : Nat, dieOf p = x → s.dev.fld BB_LINK_STAT.STATE p = 3 →
      (∀ a ∈ (s.dev.port p).asserted, a.1 ≠ 7) → ∃ roak : Bool, (7, s.dev.fld IRQ_NMI_CTL.VECTOR x, 0, roak) ∈ (e.port p).asserted) ∧
    (∀ (w0 : Word) (it : List Word) (r : List (List Word)) (n : Nat), (s.dev.queue x 62).items = (w0 :: it) :: r →
      (s.dev.queue x 62).held = [] → it.length < n → s.dev.evq.todo = [] →
      s.DoesSome (.eventArrive ⟨x, n, none⟩) fun e =>
        (e.queue x 62).items = r ∧ e.evqSeq = (s.dev.evqSeq + 1) % 65536 ∧
          (s.dev.evq.extra = 0 → s.dev.evq.used + it.length < 4096 →
            e.evq.items = s.dev.evq.items ++ [BitVec.ofNat 32 (w0.toNat + s.dev.evqSeq) :: it] ∧ e.fld EVQ_STAT.LOST = s.dev.fld EVQ_STAT.LOST) ∧
          (s.dev.evq.credits 4096 ≤ it.length → e.evq = s.dev.evq ∧ e.fld EVQ_STAT.LOST = min (s.dev.fld EVQ_STAT.LOST + 1) 65535)) ∧
    (∀ n : Nat, (s.dev.queue x 62).items = [] → s.dev.evq.todo = [] → s.Does (.eventArrive ⟨x, n, none⟩) s.dev) ∧
    (∀ v : Nat, v < 65536 → s.dev.lets src ⟨.EVQ_HOST_RD, 0, 0⟩ = true →
      s.DoesSome (.evqHostRdWrite src v) fun e =>
        e.fld EVQ_HOST_RD.RD = if min (s.dev.evqSize s.dev.evqHome) 65535 < (s.dev.fld EVQ_HOST_WR.WR + 65536 - v) % 65536 then
          s.dev.fld EVQ_HOST_WR.WR else v) ∧
    (∀ u : Nat, s.dev.lets src ⟨.PROT_VIO_CLR, 0, u⟩ = true →
      s.Does (.protVioClear src u) ((((s.dev.written src ⟨.PROT_VIO_CLR, 0, u⟩).setFld PROT_VIO_INFO.VALID 0 u 0).setFld
        PROT_VIO_INFO.MORE 0 u 0).answered src))

/-! ## Buffer pools (spec/11) -/

/-- R67, R279, R282, R284, R288: commands of the mailbox of a path. A GET takes the oldest cached handle, counts it to its owner and out of the
free count, and writes its state entry; with nothing available to the owner it ends with status 1. A SHARE, RELEASE or FREE of a handle that
its pool knows reads the state entry first. A reserved OP ends with status 0x0D, a pool that is off with 0x0A, an owner outside OWNERS with
9. A command given behind one that runs is held. -/
def Obligations.PoolCommands : Prop :=
  ∀ (s : State) (src : Src) (p owner : Nat), s.dev.lets src ⟨.POOL_CMD, 0, 0⟩ = true → src.path < 16 → p < 256 → owner < 8 →
    let d := s.dev; let m := src.path; let h := d.pair .POOL_ARG_LO .POOL_ARG_HI m 0;
    let ended (e : Dev) (op st : Nat) : Prop := (e.mail m).busy = false ∧ e.reg .POOL_RES_STAT m =
      BitVec.ofNat 32 ((d.fld POOL_RES_STAT.SEQ m + 1) % 65536 * 65536 + op * 4096 + st);
    (d.mail m = {} →
      (d.poolOn p = true → owner < d.poolOwners p →
        (∀ (g : Nat) (r : List Nat), (d.pool p).cache = g :: r → 0 < d.avail p owner → d.poolClear p (handleIndex g) = true →
          s.DoesSome (.poolGet src p owner) fun e =>
            (e.pool p).cache = r ∧ e.poolFree p + 1 = d.poolFree p ∧ e.poolChg p owner = (d.poolChg p owner + 1) % 2 ^ 32 ∧
              (e.mail m).busy = true ∧ ∃ j ∈ (e.pool p).jobs, j.index = handleIndex g ∧ j.writing = true ∧ j.result = g) ∧
        (d.avail p owner = 0 → s.DoesSome (.poolGet src p owner) fun e =>
          ended e 1 1 ∧ e.fld POOL_REJECT.EMPTY 0 p = min (d.fld POOL_REJECT.EMPTY 0 p + 1) 65535)) ∧
      (d.poolOn p = true → d.poolOwners p ≤ owner → s.DoesSome (.poolGet src p owner) fun e => ended e 1 9) ∧
      (d.poolOn p = false → s.DoesSome (.poolGet src p owner) fun e => ended e 1 10) ∧
      (∀ op : Nat, op = 0 ∨ 4 < op → op < 16 → s.DoesSome (.poolCmdBadOp src op p) fun e => ended e op 13) ∧
      (∀ (i : Instr) (op q : Nat), i = .poolShare src p owner q ∧ op = 2 ∨ i = .poolRelease src p owner ∧ op = 3 ∨
          i = .poolFree src p owner ∧ op = 4 → q < 8 → h < 2 ^ 48 → d.poolOn (handlePool h) = true → handleGen h ≠ 0 →
        handleIndex h < d.poolCount (handlePool h) → owner < d.poolOwners (handlePool h) → (op = 2 → q < d.poolOwners (handlePool h)) →
        (d.pool (handlePool h)).jobs = [] →
        s.DoesSome i fun e =>
          (e.mail m).busy = true ∧ ∃ j : PoolJob, (e.pool (handlePool h)).jobs = [j] ∧ j.index = handleIndex h ∧ j.writing = false ∧
            j.cmd.op = op ∧ j.cmd.owner = owner ∧ j.result = h)) ∧
    ((d.mail m).busy = true → (d.mail m).held = none → s.DoesSome (.poolGet src p owner) fun e =>
      e.mail m = { d.mail m with held := some (poolWord 1 p owner 0, h) } ∧ e.pool p = d.pool p)

/-- R276, R281, R284, R287, R278: the end of the read of a state entry. A FREE by the only owner returns the buffer: its generation moves on, it
enters the cache, the free count rises, the owner's charge falls; a SHARE adds an owner; a failed check ends with its status, a failed read
with 0x0B. A refill puts its handles into the cache, which has room for them, and moves RING_RD; a refill that fails sets HOST_FAULT. Both ends
are acted on in every state.
Log entry 33 holds what the model reads into the rules here. -/
def Obligations.PoolReads : Prop :=
  (∀ (s : State) (p id : Nat), (∀ v : Option Nat, s.Does (.poolStateReadDone p id v) (s.dev.stateOver p id v)) ∧
    ∀ es : Option (List Nat), s.Does (.poolRefillDone p es) (s.dev.refillOver p es)) ∧
  ∀ (s : State) (p id : Nat), p < 256 →
    let d := s.dev;
    (∀ (j : PoolJob) (m : Nat), (d.pool p).jobs = [j] → (d.pool p).queue = [] → j.id = id → j.writing = false → j.cmd.by_ = .mailbox m →
      j.cmd.pool = p → m < 16 →
      let ended (e : Dev) (st nown : Nat) : Prop := (e.mail m).busy = false ∧ (e.pool p).jobs = [] ∧ e.reg .POOL_RES_STAT m =
        BitVec.ofNat 32 ((d.fld POOL_RES_STAT.SEQ m + 1) % 65536 * 65536 + j.cmd.op * 4096 + nown * 256 + st);
      (∀ v : Nat, j.cmd.op = 4 → PoolEntry.ofNat v = ⟨handleGen j.cmd.handle, true, false, [j.cmd.owner]⟩ → handleGen j.cmd.handle < 255 →
        (d.pool p).cache.length < 64 → d.poolFree p < 2 ^ 32 - 1 → 0 < d.poolChg p j.cmd.owner → j.cmd.owner < 8 →
        s.DoesSome (.poolStateReadDone p id (some v)) fun e =>
          (e.pool p).cache = (d.pool p).cache ++ [handleOf p (handleGen j.cmd.handle + 1) j.index] ∧ e.poolFree p = d.poolFree p + 1 ∧
            e.poolChg p j.cmd.owner + 1 = d.poolChg p j.cmd.owner ∧ ∃ k : PoolJob, (e.pool p).jobs = [k] ∧ k.id = id ∧ k.writing = true) ∧
      (∀ v o : Nat, j.cmd.op = 2 → PoolEntry.ofNat v = ⟨handleGen j.cmd.handle, true, false, [o]⟩ → j.cmd.owner = o → j.cmd.newOwner ≠ o →
        s.DoesSome (.poolStateReadDone p id (some v)) fun e =>
          e.poolFree p = d.poolFree p ∧ e.poolChg p o = d.poolChg p o ∧ ∃ k : PoolJob, (e.pool p).jobs = [k] ∧ k.writing = true ∧ k.nown = 2) ∧
      (∀ v st : Nat, entryAfter j.cmd (PoolEntry.ofNat v) = .error st → j.cmd.op ≠ 1 →
        s.DoesSome (.poolStateReadDone p id (some v)) fun e => ended e st (PoolEntry.ofNat v).list.length) ∧
      s.DoesSome (.poolStateReadDone p id none) fun e => ended e 11 0 ∧ e.fld POOL_STAT.HOST_FAULT 0 p = 1) ∧
    ((∀ j ∈ (d.pool p).jobs, j.id ≠ id) → ∀ v : Option Nat, s.DoesSome (.poolStateReadDone p id v) fun e =>
      (∀ k : Nat, e.pool k = d.pool k) ∧ ∀ l : Loc, e.at l = d.at l) ∧
    (∀ (r : Refill) (es : List Nat), (d.pool p).refill = some r → (d.pool p).gets = [] → d.poolOn p = true → es.length = r.count →
      (d.pool p).cache.length + es.length ≤ 64 → (∀ h ∈ es, handlePool h = p ∧ handleIndex h < d.poolCount p ∧ handleGen h ≠ 0 ∧ h < 2 ^ 48) →
      s.DoesSome (.poolRefillDone p (some es)) fun e =>
        (e.pool p).cache = (d.pool p).cache ++ es ∧ e.poolRd p = (d.poolRd p + r.count) % 2 ^ 32 ∧ e.poolFree p = d.poolFree p) ∧
    (∀ r : Refill, (d.pool p).refill = some r → (d.pool p).gets = [] →
      s.DoesSome (.poolRefillDone p none) fun e =>
        (e.pool p).refill = none ∧ e.fld POOL_STAT.HOST_FAULT 0 p = 1 ∧ (e.pool p).cache = (d.pool p).cache)

/-! ## Rings and movers (spec/12, spec/13) -/

/-- R295, R294, R296, R316, R317: after traffic enable of the ring's die a doorbell, in BAR2 or by RING_DB, that keeps within the ring moves
POSTED, any other sets DB_BAD; before it (R423), and of another form in BAR2 (R90), it moves nothing. A batch
that has been read stages its descriptors and moves FETCHED; one that failed ends its first descriptor FETCH_ERROR and stops the ring. A
write of CPL_RD stores it. The tail timer raises the notice while completions are not yet noticed. Log entries 15, 17 and 43 hold what the
model reads into the rules here. -/
def Obligations.RingPointers : Prop :=
  ∀ (s : State) (src : Src) (r v : Nat), v < 65536 →
    let d := s.dev; let add := (v + 65536 - d.posted r) % 65536;
    let room : Prop := (d.ringState r = 1 ∨ d.ringState r = 2) ∧
      (d.posted r + 65536 - d.cplWr r) % 65536 + add ≤ min (d.ring r).size 65535;
    let enabled : Prop := d.flag MC_BOOT_STAT.DONE (d.ringDie r) = true;
    let held (e : Dev) : Prop := e.posted r = d.posted r ∧ e.ring r = d.ring r;
    (∀ b : Bool, (if b = true then d.waitsCredit (srcDie src) true = false ∧ src.poison = false ∧ d.takesMem src 1 = true ∧
          (d.protCheck (d.srcReq src .doorbell (4096 * r) 4 1)).1.denied = false
        else d.lets src ⟨.RING_DB, 0, r⟩ = true) →
      (enabled → room → s.DoesSome (.doorbell src r b 0 4 15 v) fun e =>
        e.posted r = v ∧ e.fetched r = d.fetched r ∧ ∀ k : Loc, k ≠ ⟨.RING_PTR, 0, r⟩ → e.at k = d.at k) ∧
      (enabled → ¬ room → s.DoesSome (.doorbell src r b 0 4 15 v) fun e => held e ∧ e.fld RING_STAT.DB_BAD 0 r = 1) ∧
      (¬ enabled → s.DoesSome (.doorbell src r b 0 4 15 v) held)) ∧
    (∀ off len en : Nat, d.waitsCredit (srcDie src) true = false → off ≠ 0 ∨ len ≠ 4 ∨ en % 16 ≠ 15 →
      s.DoesSome (.doorbell src r true off len en v) held) ∧
    (∀ (fail : Nat) (bytes : List Byte), s.Does (.descriptorFetchDone r fail bytes) (d.fetchOver r fail bytes)) ∧
    (∀ (n : Nat) (bytes : List Byte), (d.ring r).fetchOut = some n → d.stagedOf (d.ringDie r) (d.ring r).mover + n ≤ 64 →
      s.DoesSome (.descriptorFetchDone r 0 bytes) fun e =>
        (e.ring r).staged = (d.ring r).staged ++ ((List.range n).map fun k =>
          ((d.fetched r + k) % 65536, wordsLE ((bytes.drop (64 * k)).take 64))) ∧
          e.fetched r = (d.fetched r + n) % 65536 ∧ (e.ring r).fetchOut = none) ∧
    (∀ (n fail : Nat) (bytes : List Byte), (d.ring r).fetchOut = some n → 0 < fail → (d.ring r).staged = [] → (d.ring r).runs = [] →
      (d.ring r).cplq = [] →
      d.ringState r = 1 → d.cplStaged (d.ringDie r) (d.ring r).mover < 64 → s.DoesSome (.descriptorFetchDone r fail bytes) fun e =>
        e.Completes r (d.fetched r) 0x12 ∧ e.ringState r = 2 ∧ e.fld RING_STAT.FETCH_FAULT 0 r = 1 ∧
          e.fld RING_ERR_IDX.INDEX 0 r = d.fetched r ∧ e.fetched r = (d.fetched r + 1) % 65536) ∧
    (d.lets src ⟨.RING_CPL_PTR, 0, r⟩ = true →
      s.DoesSome (.ringCplRdWrite src r v) fun e => e.cplRd r = v ∧ e.cplWr r = d.cplWr r) ∧
    ((d.ring r).tail ≠ 0 → (d.ring r).unnoticed ≠ 0 → d.Runs (d.ringDie r) →
      s.DoesSome (.ringNoteTailExpiry r) fun e => (e.ring r).unnoticed = 0 ∧ (e.ring r).tail = d.fld RING_NOTE.TAIL (d.ringDie r) r) ∧
    ((d.ring r).tail = 0 → s.Does (.ringNoteTailExpiry r) d)

/-- R298, R304, R305: a NOP completes OK. A FENCE that awaits nothing, or a ring that has reached its count, completes OK; one that names a
ring that is off ends BAD_TARGET; another waits until the count is reached, or ends FENCE_TIMEOUT after LIMIT. A TABLE_SWITCH writes
TC_SWITCH and completes OK once every die has drained. The mover's completion queue has room where a wait ends (R258). With nothing to start
nothing happens. Log entry 34 holds what the model reads into the rules here. -/
def Obligations.DescriptorsWithoutData : Prop :=
  ∀ (s : State) (r count : Nat) (ws : List Word) (rest : List (Nat × List Word)),
    let d := s.dev; let other := wbits ws 2 25 16;
    let on : Prop := d.ringState other ≠ 0 ∧ d.flag RING_CTL.EN (d.ringDie other) other = true;
    let room : Prop := d.cplStaged (d.ringDie r) (d.ring r).mover < 64;
    (s.Does (.fenceSatisfied r) (d.fenceEnd r false) ∧ s.Does (.tableSwitchDrained r) (d.switchDone r) ∧
      (d.Runs (d.ringDie r) → s.Does (.fenceTimeout r) (d.fenceEnd r true))) ∧
    (d.Heads r 0 count ws rest → s.DoesSome (.nop r) fun e => e.Completes r count 0 ∧ (e.ring r).staged = rest) ∧
    ((d.ring r).staged = [] → ∀ i ∈ [Instr.nop r, .copy r, .fill r, .record r, .playback r, .tableSwitch r, .fence r], s.Does i d) ∧
    (d.Heads r 6 count ws rest →
      (wbits ws 2 31 31 = 0 ∨ on ∧ (d.cplWr other + 65536 - wbits ws 3 15 0) % 65536 < 32768 →
        s.DoesSome (.fence r) fun e => e.Completes r count 0) ∧
      (wbits ws 2 31 31 = 1 → ¬ on → s.DoesSome (.fence r) fun e => e.Completes r count 0x0E) ∧
      (wbits ws 2 31 31 = 1 → on → 32768 ≤ (d.cplWr other + 65536 - wbits ws 3 15 0) % 65536 →
        s.DoesSome (.fence r) fun e => ∃ x : DescRun, (e.ring r).runs = [x] ∧ x.phase = .fenceWait ∧ x.count = count ∧ x.words = ws)) ∧
    (∀ x : DescRun, (d.ring r).runs = [x] → (d.ring r).cplq = [] → x.phase = .fenceWait → x.count = count → x.words = ws → x.err = none →
      x.fin = 0 → count < 65536 → room →
      (d.fenceMet x = true → s.DoesSome (.fenceSatisfied r) (fun e => e.Completes r count 0) ∧
        (d.Runs (d.ringDie r) → s.DoesSome (.fenceTimeout r) fun e => e.Completes r count 0)) ∧
      (d.fenceMet x = false → word ws 4 ≠ 0 → d.Runs (d.ringDie r) → s.DoesSome (.fenceTimeout r) fun e => e.Completes r count 0x0D) ∧
      (d.fenceMet x = false → s.Does (.fenceSatisfied r) d)) ∧
    (d.Heads r 5 count ws rest → s.DoesSome (.tableSwitch r) fun e =>
      (∃ x : DescRun, (e.ring r).runs = [x] ∧ x.phase = .switchWait) ∧
        Note.cfgWrite (Loc.offset ⟨.TC_SWITCH, 0, 0⟩) (BitVec.ofNat 32 (wbits ws 2 7 0)) (d.ringDie r) ∈ e.notes) ∧
    (∀ x : DescRun, (d.ring r).runs = [x] → (d.ring r).cplq = [] → x.phase = .switchWait → x.count = count → x.err = none → x.fin = 0 →
      count < 65536 → d.notes = [] →
      (d.drained = true → room → s.DoesSome (.tableSwitchDrained r) fun e => e.Completes r count 0) ∧
      (d.drained = false → s.Does (.tableSwitchDrained r) d))

/-- R299, R307, R340, R300: a COPY or a FILL of one block (within one port and 64 KiB, every byte allowed, nothing else of its port at
a mover, room in its tile's staging by R24, a mortar route to its tile by R30) starts its block, cut from the whole of its bytes; one of an
absent port ends BAD_TARGET, one of no bytes completes OK. A PLAYBACK
reads its index entry. A RECORD that obtains its slot gives a GET to its pool; one that names a slot of a pool that is off ends POOL.
Log entry 34 holds what the model reads into the rules here. -/
def Obligations.DescriptorsOfData : Prop :=
  ∀ (s : State) (r count : Nat) (ws : List Word) (rest : List (Nat × List Word)), (∀ e ∈ s.dev.rings, e.2.runs = []) →
    let d := s.dev; let g := d.ring r; let len := word ws 3; let port := wbits ws 2 7 0; let full : ProtAns := ⟨[(0, len)], false, false⟩;
    let host (acc : Nat) : Prop := (d.moverProt (d.ringDie r) g.mover g.priv (quad ws 4) len acc).1 = full;
    let bb (a acc : Nat) : Prop := (d.moverBbProt (d.ringDie r) g.mover g.priv a len (wbits ws 2 29 28) port acc).1 = full;
    let moves (i : Instr) (k : XferKind) (p a : Nat) : Prop := s.DoesSome i fun e => ∃ (x : DescRun) (b : Blk),
      (e.ring r).runs = [x] ∧ x.phase = .move ∧ x.kind = k ∧ x.blks = [b] ∧ x.todo = [] ∧ b.off = 0 ∧ b.len = len ∧ b.parts = [(0, len)] ∧
        b.port = p ∧ b.addr = a;
    let lp := d.listOf port;
    let one (a : Nat) : Prop := port < 8 * d.n ∧ 0 < len ∧ a % 65536 + len ≤ 65536 ∧ len ≤ d.sharedRoom lp (d.port lp).staged.2 ∧
      d.reach (d.ringDie r) (dieOf lp) = true;
    (d.Heads r 1 count ws rest → wbits ws 2 30 30 = 0 → wbits ws 2 27 26 = 0 →
      (one (quad ws 6) → wbits ws 2 31 31 = 0 → host 0 → bb (quad ws 6) 1 → moves (.copy r) .toBb port (quad ws 6)) ∧
      (one (quad ws 6) → wbits ws 2 31 31 = 1 → host 1 → bb (quad ws 6) 0 → d.listGone port = false →
        moves (.copy r) .toHost port (quad ws 6)) ∧
      (port < 8 * d.n → len = 0 → s.DoesSome (.copy r) fun e => e.Completes r count 0) ∧
      (8 * d.n ≤ port → s.DoesSome (.copy r) fun e => e.Completes r count 0x0E)) ∧
    (d.Heads r 4 count ws rest →
      (wbits ws 2 31 31 = 1 → wbits ws 2 30 30 = 0 → one (quad ws 4) → bb (quad ws 4) 1 → d.listGone port = false →
        moves (.fill r) .fillBb port (quad ws 4)) ∧
      (wbits ws 2 31 31 = 0 → 0 < len → len ≤ 65536 → host 1 → moves (.fill r) .fillHost 0 0) ∧
      (wbits ws 2 31 31 = 0 → len = 0 → s.DoesSome (.fill r) fun e => e.Completes r count 0) ∧
      (wbits ws 2 31 31 = 1 → wbits ws 2 30 30 = 0 → 8 * d.n ≤ port → s.DoesSome (.fill r) fun e => e.Completes r count 0x0E)) ∧
    (d.Heads r 3 count ws rest →
      (d.moverProt (d.ringDie r) g.mover g.priv (quad ws 11 + 32 * word ws 10) 32 0).1 = ⟨[(0, 32)], false, false⟩ →
      s.DoesSome (.playback r) fun e => ∃ x : DescRun, (e.ring r).runs = [x] ∧ x.phase = .entryRead ∧ x.count = count ∧ x.words = ws) ∧
    (d.Heads r 2 count ws rest →
      (∀ (p h : Nat) (more : List Nat), wbits ws 2 31 31 = 1 → wbits ws 2 29 29 = 0 → p = wbits ws 2 23 16 → d.poolOn p = true →
        d.flag POOL_CTL.KIND (d.homeOf p) p = true → word ws 3 * word ws 7 ≤ d.poolSize p → d.slotTarget p = true →
        g.owner < d.poolOwners p → (d.pool p).cache = h :: more → 0 < d.avail p g.owner → d.poolClear p (handleIndex h) = true →
        s.DoesSome (.record r) fun e => (∃ x : DescRun, (e.ring r).runs = [x] ∧ x.phase = .slotGet ∧ x.count = count ∧ x.words = ws) ∧
          (e.pool p).cache = more) ∧
      (wbits ws 2 31 31 = 0 → d.poolOn (handlePool (quad ws 8)) = false → s.DoesSome (.record r) fun e => e.Completes r count 4))

/-- R318, R67, R319: STOP stops a ring that runs, RESUME lets it go on, RESET begins its reset and drops what is fetched; a command given
while a ring's reset runs is held. A reset with nothing left sets the pointers to 0 and the ring runs again, or is OFF where EN is 0. The
reset of a mover drops what its rings have fetched, and FETCHED goes back over it.
Log entry 35 holds what the model reads into the rules here. -/
def Obligations.RingControl : Prop :=
  ∀ (s : State) (src : Src) (r : Nat), src.path < 16 →
    let d := s.dev; let g := d.ring r;
    (d.lets src ⟨.RING_CMD, 0, r⟩ = true →
      (d.ringState r = 1 → s.DoesSome (.ringStop src r) fun e => e.ringState r = 2 ∧ (e.ring r).unnoticed = 0 ∧ (e.ring r).runs = g.runs) ∧
      (d.ringState r ≠ 1 → d.ringState r ≠ 3 → s.DoesSome (.ringStop src r) fun e => e.ring r = g ∧ e.ringState r = d.ringState r) ∧
      (d.ringState r = 2 → s.DoesSome (.ringResume src r) fun e => e.ringState r = 1 ∧ e.ring r = g) ∧
      (d.ringState r = 0 ∨ d.ringState r = 1 → s.DoesSome (.ringResume src r) fun e => e.ringState r = d.ringState r ∧ e.ring r = g) ∧
      (d.ringState r = 1 ∨ d.ringState r = 2 → (∀ e ∈ d.rings, e.2.runs = []) →
        s.DoesSome (.ringReset src r) fun e => e.ringState r = 3 ∧ (e.ring r).staged = [] ∧ (e.ring r).fetchOut = none) ∧
      (d.ringState r = 3 → g.heldCmd = none → ∀ (i : Instr) (k : Nat),
        i = .ringStop src r ∧ k = 0 ∨ i = .ringResume src r ∧ k = 1 ∨ i = .ringReset src r ∧ k = 2 →
        s.DoesSome i fun e => e.ring r = { g with heldCmd := some k } ∧ e.ringState r = 3)) ∧
    (d.ringState r = 3 → g.runs = [] → g.cplq = [] → g.cplOut = false → g.heldCmd = none → g.offSeen = false →
      s.DoesSome (.ringResetDone r) fun e =>
        e.posted r = 0 ∧ e.fetched r = 0 ∧ e.cplWr r = 0 ∧ e.cplRd r = 0 ∧
          e.ringState r = if d.flag RING_CTL.EN (d.home (d.fld RING_CTL.HOME_DIE (d.ringDie r) r)) r = true then 1 else 0) ∧
    (d.ringState r ≠ 3 → s.Does (.ringResetDone r) d) ∧
    (∀ x m : Nat, d.lets src ⟨.MOV_CTL, 0, movIdx x m⟩ = true → d.leadBusy = false → d.cfgLog = [] → d.applied = [] → x ∈ d.replicas →
      m < 16 → (d.mover x m).resetting = false →
      s.DoesSome (.moverReset src x m) fun e =>
        (e.mover x m).resetting = true ∧ e.fld MOV_STAT.RESETTING 0 (movIdx x m) = 1 ∧
          ∀ q ∈ d.moverRings x m, (d.ring q).runs = [] → (e.ring q).staged = [] ∧ (e.ring q).fetchOut = none ∧
            e.fetched q = (d.fetched q + 65536 - (d.ring q).unstarted % 65536) % 65536)

/-! ## Picture taps (spec/13) -/

/-- R328, R335, R336, R337, R338: TAP_FINISH shares the buffer of a picture that is written whole, and of no other. TAP_SHED frees the buffer of
a picture under SHED = 1, counted in TAP_ERR. RESTART drops the history: at once with no picture in progress, with a RELEASE of the buffer
held; else at the picture's end. A write of TAP_LOG_PTR.RD that leaves room lets a waiting entry out. Pools and handles concerned are good
there; the two events are acted on in every state.
Log entry 37 holds what the model reads into the rules here. -/
def Obligations.Taps : Prop :=
  (∀ (s : State) (t : Nat), s.Does (.tapFinish t) (s.dev.tapFinish t) ∧ s.Does (.tapShed t) (s.dev.tapShed t)) ∧
  ∀ (s : State) (src : Src) (t : Nat),
    let d := s.dev; let x := d.tap t;
    let good (h o : Nat) : Prop := d.poolOn (handlePool h) = true ∧ h < 2 ^ 48 ∧ handleGen h ≠ 0 ∧ handleIndex h < d.poolCount (handlePool h) ∧
      o < d.poolOwners (handlePool h) ∧ (d.pool (handlePool h)).jobs = [];
    let gives (e : Dev) (op h o : Nat) : Prop := ∃ j : PoolJob, (e.pool (handlePool h)).jobs = [j] ∧ j.cmd.op = op ∧ j.cmd.handle = h ∧
      j.cmd.owner = o ∧ j.writing = false ∧ j.index = handleIndex h;
    (∀ q : TapRun, x.run = some q → q.phase = .run → (tapForm q.ctl q.geom).nbr ≤ q.row → q.out = [] → good q.handle (tapOwner q) →
      bitsOf q.ctl 13 11 < d.poolOwners (handlePool q.handle) →
      s.DoesSome (.tapFinish t) fun e => (e.tap t).run = some { q with phase := .share } ∧ gives e 2 q.handle (tapOwner q)) ∧
    (x.run = none → s.Does (.tapFinish t) d ∧ s.Does (.tapShed t) d) ∧
    (∀ q : TapRun, x.run = some q → q.phase ≠ .run ∨ q.row < (tapForm q.ctl q.geom).nbr ∨ q.out ≠ [] → s.Does (.tapFinish t) d) ∧
    (∀ q : TapRun, x.run = some q → q.phase = .run → q.ctl.getLsbD 29 = true → q.handle ≠ 0 → good q.handle (tapOwner q) →
      s.DoesSome (.tapShed t) fun e => (∃ k : TapRun, (e.tap t).run = some k ∧ k.status = 5 ∧ k.phase = .freeOwn ∧ k.handle = q.handle) ∧
        gives e 4 q.handle (tapOwner q) ∧ e.fld TAP_ERR.SHED 0 t = min (d.fld TAP_ERR.SHED 0 t + 1) 255) ∧
    (∀ q : TapRun, x.run = some q → q.ctl.getLsbD 29 = false → s.Does (.tapShed t) d) ∧
    (d.lets src ⟨.TAP_CMD, 0, t⟩ = true →
      (∀ q : TapRun, x.run = some q → s.DoesSome (.tapRestart src t) fun e =>
        (e.tap t).run = some { q with changed := true } ∧ e.fld TAP_STAT.HAS_PREV 0 t = d.fld TAP_STAT.HAS_PREV 0 t) ∧
      (x.run = none → d.fld TAP_STAT.HAS_PREV 0 t = 1 →
        let h := d.pair .TAP_PREV_LO .TAP_PREV_HI 0 t;
        good h x.owner → s.DoesSome (.tapRestart src t) fun e => e.fld TAP_STAT.HAS_PREV 0 t = 0 ∧ gives e 3 h x.owner) ∧
      (x.run = none → d.fld TAP_STAT.HAS_PREV 0 t = 0 →
        s.Does (.tapRestart src t) ((d.written src ⟨.TAP_CMD, 0, t⟩).answered src))) ∧
    (∀ v : Nat, d.lets src ⟨.TAP_LOG_PTR, 0, t⟩ = true → v < 65536 →
      (∀ q : TapRun, x.run = some q → q.phase = .log ∨ q.phase = .badLog → q.logOut = false →
        (d.fld TAP_LOG_PTR.WR 0 t + 65536 - v) % 65536 ≠ min (2 ^ bitsOf q.logCtl 4 0) 65535 →
        s.DoesSome (.tapLogRdWrite src t v) fun e => e.fld TAP_LOG_PTR.RD 0 t = v ∧ (e.tap t).run = some { q with logOut := true }) ∧
      (x.run = none → s.DoesSome (.tapLogRdWrite src t v) fun e =>
        e.fld TAP_LOG_PTR.RD 0 t = v ∧ e.fld TAP_LOG_PTR.WR 0 t = d.fld TAP_LOG_PTR.WR 0 t ∧ e.tap t = x))

/-! ## Windows (spec/05 to spec/08) -/

/-- R163: the outbound window of a request to BAR4 offsets off to off + len - 1 is the lowest-numbered one that is enabled and holds all of
them; with none such there is no window. R164: for an inbound access, the space and the bit of the receiving port besides. -/
def Obligations.WindowsMatch : Prop :=
  ∀ (d : Dev) (x p off len space : Nat),
    let out (w : Nat) : Prop := (d.window x false w).en = true ∧ (d.window x false w).base ≤ off ∧ off + len - 1 ≤ (d.window x false w).limit;
    let inb (w : Nat) : Prop := (d.window (dieOf p) true w).en = true ∧ (d.window (dieOf p) true w).space = space ∧
      (d.pair .WIN_I_PORTS_LO .WIN_I_PORTS_HI (dieOf p) w).testBit p = true ∧ (d.window (dieOf p) true w).base ≤ off ∧
      off + len - 1 ≤ (d.window (dieOf p) true w).limit;
    (∀ w : Nat, out w → (∀ v : Nat, v < w → ¬ out v) → d.matchOut x off len = some (d.window x false w)) ∧
    ((∀ w : Nat, ¬ out w) → d.matchOut x off len = none) ∧
    (∀ w : Nat, inb w → (∀ v : Nat, v < w → ¬ inb v) → d.matchIn p space off len = some (d.window (dieOf p) true w)) ∧
    ((∀ w : Nat, ¬ inb w) → d.matchIn p space off len = none)

/-- R171, R182, R185, R188, R189, R206: a page line that has been read is cached, unless an invalidation covered it, and an access that waits for
it becomes a transaction at its tile, where it is no write that may join a run. WC_HOLD passes for a held run: it is issued behind the work of
its tile, none of which came later on its path. PF_LIFE passes for a prefetched
block that is whole: it is dropped, and logged with reason 1 while any of its bytes has not been returned; one still being read stays.
ERR_MIRE_CLR ends the mire state of a window and releases its record. The timers act while those of the tile's die run (log entry 2).
Log entries 23 and 26 hold what the model reads into the rules here. -/
def Obligations.WindowTimers : Prop :=
  ∀ (s : State) (src : Src) (port die id idx : Nat),
    let d := s.dev; let o := d.port port;
    (d.Runs (dieOf port) → s.Does (.wcHoldExpiry port idx) (d.runOut port idx) ∧ s.Does (.prefetchAgeExpiry port idx) (d.pfAge port idx)) ∧
    (∀ q : Run, o.runs[idx]? = some q → o.runs.filter (· == q) = [q] → d.Runs (dieOf port) →
      (∀ v ∈ o.works, ∀ b ∈ v.job.accs, b.die = q.path → b.id ≤ q.last) → s.DoesSome (.wcHoldExpiry port idx) fun e =>
      (e.port port).runs = o.runs.filter (· != q) ∧ ∃ w : Work, (e.port port).works = o.works ++ [w] ∧ w.job = .write q.accs ∧
        w.port = q.win.routePort ∧ w.courses = runCourses q ∧ w.cls = .direct) ∧
    (o.runs[idx]? = none → s.Does (.wcHoldExpiry port idx) d) ∧
    (∀ b : PfBlock, o.pf[idx]? = some b → b.want ≠ 0 → s.Does (.prefetchAgeExpiry port idx) d) ∧
    (∀ b : PfBlock, o.pf[idx]? = some b → o.pf.filter (· == b) = [b] → b.want = 0 → d.Runs (dieOf port) →
      s.DoesSome (.prefetchAgeExpiry port idx) fun e =>
      (e.port port).pf = o.pf.filter (· != b) ∧
        (coveredBy b.used b.far b.data.length = true → ∀ k : Nat, e.queue (dieOf port) k = d.queue (dieOf port) k) ∧
        (coveredBy b.used b.far b.data.length = false → (d.queue (dieOf port) 61).extra = 0 → (d.queue (dieOf port) 61).used + 8 ≤ 8192 → ∃ w : List Word,
          (e.queue (dieOf port) 61).items = (d.queue (dieOf port) 61).items ++ [w] ∧ w.getD 1 0 = BitVec.ofNat 32 b.far ∧
            w.getD 3 0 = BitVec.ofNat 32 b.data.length ∧ bitsOf (w.getD 7 0) 31 24 = 1)) ∧
    (o.pf[idx]? = none → s.Does (.prefetchAgeExpiry port idx) d) ∧
    (∀ es : Option (List Nat), s.Does (.pageLineReadDone die id es) (d.lineDone die id es)) ∧
    (∀ r : PageRead, (d.tc die).reads.find? (fun q => q.id == id) = some r → r.ports = [] →
      (r.accs = [] →
        (∀ es : List Nat, s.DoesSome (.pageLineReadDone die id (some es)) fun e =>
          (e.tc die).reads = (d.tc die).reads.filter (fun q => q.id != id) ∧ (e.tc die).lines = if r.keep = true then
            (({ inb := r.inb, win := r.win, tableB := r.tableB, line := r.line, entries := es } : PageLine) :: (d.tc die).lines).take 16384
            else (d.tc die).lines) ∧
        s.DoesSome (.pageLineReadDone die id none) fun e =>
          (e.tc die).reads = (d.tc die).reads.filter (fun q => q.id != id) ∧ (e.tc die).lines = (d.tc die).lines) ∧
      (∀ (a : Acc) (w : Work) (f : Nat) (es : List Nat), r.accs = [a] → port ∈ d.livePorts → o.works = [w] → w.ready = false →
        w.job.accs = [a] → (∀ q ∈ d.livePorts, q ≠ port → (d.port q).works = []) → d.listGone (d.listAt a.win) = false →
        (a.op.isWrite = true → a.win.combines = false) →
        useEntry a.win (a.off - a.win.base) (es.getD ((a.off - a.win.base) / 2 ^ 21 % 8) 0) a.op.isWrite = .far f →
        s.DoesSome (.pageLineReadDone die id (some es)) fun e =>
          (e.port port).works = [{ accWork { a with far := f } a.id true with came := w.came }])) ∧
    (∀ (inb : Bool) (w : Nat), d.lets src ⟨.ERR_MIRE_CLR, 0, 0⟩ = true →
      (d.mired inb w = true → s.DoesSome (.mireClear src inb w) fun e =>
        e.mired inb w = false ∧ e.fld ERR_DEF_INFO.VALID 0 ((if inb then 4096 else 0) + w) = 0) ∧
      (d.mired inb w = false → s.Does (.mireClear src inb w) ((d.written src ⟨.ERR_MIRE_CLR, 0, 0⟩).answered src)))

/-- R90, R94, R101, R168, R174, R204, R212, R243: a memory access or AtomicOp to BAR4. Off its natural alignment an AtomicOp is malformed, logged and
discarded. Before traffic enable, with memory space off or in D3hot, with BAR4 unassigned, and where no window holds it, a write is logged and
a read or AtomicOp is answered Unsupported
Request. One that a window holds, that its unit allows and that translates becomes a transaction at the tile of the window's port, its
completion owed. In the mire state a write is discarded and counted, a read answered Completer Abort; so is a read that its unit denies,
and an AtomicOp in a window without a lock. Nothing of the port is owed under a number to come, and the data of a write are not poisoned. Where
the port withholds the credits of its class the request waits (R96); the port acts on each of the three in every state.
Log entries 8, 19, 43 and 51 hold what the model reads into the rules here. -/
def Obligations.DirectAccesses : Prop :=
  ∀ (s : State) (src : Src) (off : Nat) (i : Instr) (op : AccOp), src.path < 8 →
    ((∃ en, i = .outboundRead src off en ∧ op = .read en) ∨ (∃ bs, i = .outboundWrite src off bs ∧ op = .write bs) ∨
      (∃ k n v c, i = .atomicOp src off k n v c ∧ op = .atomic k n v c)) →
    (∀ o ∈ (s.dev.px src.path).owed, o.id < s.dev.nextId) →
    let d := s.dev; let x := src.path; let len := (enOf op).length; let some_ := (enOf op).any fun b => b;
    let answer (st : CplSent) : Prop := s.DoesSome i fun e =>
      e.out.getLast? = some (.cpl x src.rid src.tag st false []) ∧ (e.px x).owed = (d.px x).owed ∧ e.ports = d.ports;
    let acc := (match op with | .read _ => 0 | .write _ => 1 | .atomic .. => 3);
    let allowed : Prop := (d.protCheck (d.srcReq src .aperture off len acc)).1.denied = false;
    let taken : Prop := d.flag MC_BOOT_STAT.DONE x = true ∧ d.memEnable x = true ∧ d.d3hot x = false ∧ d.barSet x 2 = true;
    s.Does i (d.direct src off op) ∧
    (d.waitsCredit x op.isWrite = true → s.Does i (d.waitCredit x op.isWrite (.direct src off op))) ∧
    (d.waitsCredit x op.isWrite = false → op.malformed off = true → s.Does i (d.aer x .malformed)) ∧
    (d.waitsCredit x op.isWrite = false → op.malformed off = false → (src.poison = true → ∃ en, op = .read en) →
      (¬ taken ∨ (d.matchOut x off len = none ∧ (some_ = true → allowed)) →
        (op.isWrite = false → answer .unsupported) ∧
        (op.isWrite = true → s.DoesSome i fun e => e.fld PX_ERR_COUNT.UR_SENT x = min (d.fld PX_ERR_COUNT.UR_SENT x + 1) 65535 ∧
          e.ports = d.ports)) ∧
      (∀ w : Win, taken → d.matchOut x off len = some w →
        (some_ = true → ¬ allowed → op.isWrite = false → answer .abort) ∧
        (some_ = true → allowed → (∀ k n v c, op = .atomic k n v c → w.lock ≠ none ∧ n ≤ w.course) →
          (d.mired false w.num = true → op.isWrite = false → answer .abort) ∧
          (d.mired false w.num = true → op.isWrite = true → s.DoesSome i fun e =>
            e.fld WIN_O_STAT.MIRE_DROPS 0 w.num = min (d.fld WIN_O_STAT.MIRE_DROPS 0 w.num + 1) 65535 ∧ e.ports = d.ports) ∧
          (∀ f : Nat, d.mired false w.num = false → (d.px x).failNext = [] → d.translate x w off op.isWrite = .far f →
            (d.port (d.listAt w)).runs = [] → d.listGone w.routePort = false → (op.isWrite = true → w.combines = false) →
            s.DoesSome i fun e => ∃ (k : Work) (a : Acc), (e.port (d.listAt w)).works = (d.port (d.listAt w)).works ++ [k] ∧
              k.job.accs = [a] ∧ a.op = op ∧ a.off = off ∧ a.far = f ∧ a.win = w ∧ k.port = w.routePort ∧ k.am = w.am ∧ k.ready = true ∧
              k.courses = accCourses a ∧ (op.isWrite = false → ∃ o : Owed, (e.px x).owed = (d.px x).owed ++ [o] ∧ o.rid = src.rid ∧
                o.tag = src.tag ∧ o.far = swapAddr w.order f))) ∧
        (∀ k n v c, op = .atomic k n v c → allowed → w.lock = none ∨ w.course < n → answer .abort) ∧
        (some_ = false → d.mired false w.num = true → op.isWrite = false → answer .abort) ∧
        (some_ = false → op.isWrite = true → s.DoesSome i fun e => (∀ l : Loc, e.at l = d.at l) ∧ e.ports = d.ports ∧ e.out = d.out)))

/-! ## Monitors and boundary scan (spec/18, spec/16) -/

/-- R441, R443, R444, R446, R447: while the timers of its die run, a level slot takes the depth of its queue, or the distance of its ring's
counters, into minimum,
maximum, count, sum and one bin, each up to its largest value; above its threshold it sets OVER. A slot that is off takes nothing, a
frozen one counts what it misses. CLEAR, and a write of the source, empty the slot's results. R413, R414: the register that each
instruction of the scan chain puts between TDI and TDO; EXTEST, CLAMP and HIGHZ act only while PKG_RESET_N is asserted and as BYPASS
otherwise; none changes a register of the bridge. Log entries 45 and 47 hold what the model reads into the rules here. -/
def Obligations.MonitorsAndScan : Prop :=
  (∀ (s : State) (src : Src) (x slot : Nat), slot < 64 → x < s.dev.n →
    let d := s.dev; let i := slotIx x slot; let num := d.fld MON_SRC.NUM 0 i; let kind := d.fld MON_SRC.KIND 0 i;
    let value : Option Nat := if kind = 6 ∧ num < 63 then some (d.queue x num).items.length
      else if kind = 7 ∧ num < 1024 ∧ d.fld RING_CTL.HOME_DIE x num = x then some ((d.posted num + 65536 - d.cplWr num) % 65536)
      else none;
    let cleared (e : Dev) : Prop := e.fld MON_MIN.MIN 0 i = 2 ^ 32 - 1 ∧ e.fld MON_MAX.MAX 0 i = 0 ∧ e.fld MON_COUNT.COUNT 0 i = 0 ∧
      e.pair .MON_SUM_LO .MON_SUM_HI 0 i = 0 ∧ (∀ k : Nat, k < 16 → e.fld MON_BIN.HITS 0 (16 * i + k) = 0) ∧ e.fld MON_STAT.OVER 0 i = 0 ∧
      e.fld MON_STAT.SAT 0 i = 0;
    (d.Runs x → s.DoesOnly (.monitorLevelSample x slot) (d.monLevel x slot)) ∧
    (∀ v : Nat, value = some v → d.flag MON_CTL.EN 0 i = true → v < 2 ^ 32 → d.Runs x →
      (d.flag MON_CTL.FREEZE 0 i = false → s.DoesJust (.monitorLevelSample x slot) fun e =>
        e.fld MON_MIN.MIN 0 i = min (d.fld MON_MIN.MIN 0 i) v ∧ e.fld MON_MAX.MAX 0 i = max (d.fld MON_MAX.MAX 0 i) v ∧
          e.fld MON_COUNT.COUNT 0 i = min (d.fld MON_COUNT.COUNT 0 i + 1) (2 ^ 32 - 1) ∧
          e.pair .MON_SUM_LO .MON_SUM_HI 0 i = min (d.pair .MON_SUM_LO .MON_SUM_HI 0 i + v) (2 ^ 64 - 1) ∧
          (∀ k : Nat, k < 16 → e.fld MON_BIN.HITS 0 (16 * i + k) =
            if k = (if v = 0 then 0 else min 15 (Nat.log2 v + 1)) then min (d.fld MON_BIN.HITS 0 (16 * i + k) + 1) (2 ^ 32 - 1)
            else d.fld MON_BIN.HITS 0 (16 * i + k)) ∧
          (d.fld MON_THRESH.THRESH 0 i ≠ 0 → d.fld MON_THRESH.THRESH 0 i < v → e.fld MON_STAT.OVER 0 i = 1) ∧
          (d.fld MON_THRESH.THRESH 0 i = 0 ∨ v ≤ d.fld MON_THRESH.THRESH 0 i → e.fld MON_STAT.OVER 0 i = d.fld MON_STAT.OVER 0 i)) ∧
      (d.flag MON_CTL.FREEZE 0 i = true → s.DoesOnly (.monitorLevelSample x slot) (d.bump MON_STAT.MISSED 0 i))) ∧
    (d.flag MON_CTL.EN 0 i = false ∨ kind ≠ 6 ∧ kind ≠ 7 → s.DoesOnly (.monitorLevelSample x slot) d) ∧
    (d.lets src ⟨.MON_CTL, 0, i⟩ = true → s.DoesSome (.monitorClear src x slot) fun e => cleared e ∧ e.flag MON_CTL.EN 0 i = d.flag MON_CTL.EN 0 i) ∧
    (∀ v : Nat, v < 2 ^ 32 → d.lets src ⟨.MON_SRC, 0, i⟩ = true → s.DoesSome (.monitorSourceWrite src x slot v) fun e =>
      cleared e ∧ e.fld MON_SRC.KIND 0 i = v / 2 ^ 28 ∧ e.fld MON_SRC.NUM 0 i = v % 4096)) ∧
  (∀ (s : State) (x : Nat),
    let d := s.dev; let held := d.fen.asserted;
    let puts (i : Instr) (code : Nat) (r : ScanReg) (v : Nat) : Prop := s.DoesJust i fun e =>
      e.scanIr.get 2 ⟨x, 0, 0⟩ = code ∧ e.out = d.out ++ [.scan x r v] ∧ ∀ l : Loc, e.at l = d.at l;
    puts (.extest x) 0 (if held then .boundaryDriven else .bypass) 0 ∧ puts (.samplePreload x) 1 .boundary 0 ∧
    puts (.idcode x) 2 .idcode (d.fld PKG_ID.STEP * 2 ^ 28 + (0xE000 + 0x10 * (d.variant.device % 256 / 2) + x) * 2 ^ 12 + 0x2D9 * 2 + 1) ∧
    puts (.clamp x) 4 (if held then .bypassClamped else .bypass) 0 ∧ puts (.highz x) 5 (if held then .bypassHighz else .bypass) 0 ∧
    puts (.bypass x) 255 .bypass 0)

/-! ## The lead, the controllers, mortar (spec/01, spec/14) -/

/-- R364: LEAD_HANDOFF to a healthy STANDBY or OBSERVER hands it the lead once no write is in hand, counted in HANDOFFS and shown by every
die; to an OBSERVER the controllers of its level become STANDBY and the others OBSERVER; to any other controller it is refused with code 5.
A target that does not confirm leaves the lead where it was, with code 5. No write is in hand or held there; the end of the wait is acted on
in every state.
Log entry 29 holds what the model reads into the rules here. -/
def Obligations.LeadHandoff : Prop :=
  (∀ s : State, s.Does .handoffTimeout (s.dev.handoffLate s.locks)) ∧
  ∀ (s : State) (src : Src) (x : Nat), x < s.dev.n → x ≠ s.dev.lead.lead → s.dev.cfgLog = [] → s.dev.heldCfg = [] →
    (s.dev.lets src ⟨.DIE_SVC, x, 0⟩ = true → s.dev.leadBusy = false →
      ((s.dev.fld MC_ROLE.HEALTHY s.dev.lead.lead).testBit x = true → s.dev.fld MC_ROLE.ROLE s.dev.lead.lead = 3 →
        (s.dev.fld MC_ROLE.ROLE x = 1 →
          s.DoesSome (.leadHandoff src x) fun e =>
            e.lead = { lead := x } ∧ e.fld MC_ROLE.ROLE x = 3 ∧ e.fld MC_ROLE.ROLE s.dev.lead.lead = 1 ∧
              e.fld MC_HB.HANDOFFS x = min (s.dev.fld MC_HB.HANDOFFS x + 1) 255 ∧ ∀ y : Nat, y < s.dev.n → e.fld MC_ROLE.LEAD y = x) ∧
        (s.dev.fld MC_ROLE.ROLE x = 2 → s.dev.lead.lead < s.dev.n →
          s.DoesSome (.leadHandoff src x) fun e =>
            e.lead = { lead := x } ∧ e.fld MC_ROLE.ROLE x = 3 ∧ ∀ y : Nat, y < s.dev.n → y ≠ x → s.dev.fld MC_ROLE.ROLE y ≠ 0 →
              e.fld MC_ROLE.ROLE y = if s.dev.fld MC_ROLE.SYNC_LEVEL y = s.dev.fld MC_ROLE.SYNC_LEVEL x then 1 else 2)) ∧
      (s.dev.fld MC_ROLE.ROLE x = 0 ∨ s.dev.fld MC_ROLE.ROLE x = 3 ∨
          (s.dev.fld MC_ROLE.HEALTHY s.dev.lead.lead).testBit x = false →
        s.DoesSome (.leadHandoff src x) fun e =>
          e.lead = s.dev.lead ∧ e.fld DIE_SVC_STAT.LAST_REFUSAL x = 5 ∧ e.reg .MC_ROLE x = s.dev.reg .MC_ROLE x)) ∧
    (s.dev.lead.handoff = some x →
      s.DoesSome .handoffTimeout fun e =>
        e.lead = { s.dev.lead with handoff := none } ∧ e.fld DIE_SVC_STAT.LAST_REFUSAL x = 5 ∧ e.reg .MC_ROLE x = s.dev.reg .MC_ROLE x) ∧
    (s.dev.lead.handoff = none → s.Does .handoffTimeout s.dev)

/-- R362, R363, R365: a heartbeat goes to every other die in service; one received marks its sender healthy, and restarts the controller
of an old lead whose place is claimed; a missed one marks the sender unhealthy, and of the lead it makes the deputy claim the lead,
which it has once every healthy die has acknowledged; the deputy is the lowest-numbered STANDBY that the lead sees healthy; of two
claims the lower-numbered stands. No write is in hand or held. R365: MC_RESTART of the lead's controller is refused with code 6; of
another it makes it RESTARTING with the image asked for. A controller that has its image rejoins with its SYNC_LEVEL, STANDBY at the
lead's level and OBSERVER otherwise; one that cannot load it tries the other image once and stays RESTARTING. In sleep no die is taken as
failed (R396). Each of these is acted on in every state. Log entry 40 holds what the model reads into the rules here. -/
def Obligations.Controllers : Prop :=
  (∀ (s : State) (x y : Nat), s.Does (.heartbeatSend x) (s.dev.heartbeat x) ∧ s.Does (.heartbeatReceived x y) (s.dev.heartbeatIn s.locks x y) ∧
    s.Does (.leadClaimReceived x y) (s.dev.claimReceived s.locks x y) ∧ (∀ l : Option Nat, s.Does (.mcRejoin x l) (s.dev.mcRejoin x l)) ∧
    (s.dev.asleep = false → s.Does (.heartbeatMiss x y) (s.dev.heartbeatMiss s.locks x y)) ∧
    (s.dev.asleep = true → s.Does (.heartbeatMiss x y) s.dev)) ∧
  (∀ (s : State) (x y : Nat), x < s.dev.n → y < s.dev.n → x ≠ y → s.dev.cfgLog = [] → s.dev.heldCfg = [] →
    (s.dev.inService y = true → s.DoesSome (.heartbeatSend x) fun e =>
      (∃ p ∈ (e.mor x).unacked, p.src = x ∧ p.dst = y ∧ p.stream = hbStream) ∧ ∀ k : Loc, e.at k = s.dev.at k) ∧
    (s.dev.lead.claim = none → (y = s.dev.lead.lead → s.dev.lead.failed = false) →
      s.Does (.heartbeatReceived x y) (s.dev.setHealth x (s.dev.fld MC_ROLE.HEALTHY x ||| 2 ^ y))) ∧
    (s.dev.lead.claim ≠ none → y = s.dev.lead.lead → s.dev.fld MC_ROLE.ROLE y = 3 →
      s.DoesSome (.heartbeatReceived x y) fun e =>
        (e.fld MC_ROLE.HEALTHY x).testBit y = true ∧ e.fld MC_ROLE.ROLE y = 0 ∧ e.lead = s.dev.lead) ∧
    (y ≠ s.dev.lead.lead → s.dev.cutOff y = false → (s.dev.fld MC_ROLE.HEALTHY x).testBit y = true → s.dev.asleep = false →
      s.Does (.heartbeatMiss x y) (s.dev.setHealth x (s.dev.fld MC_ROLE.HEALTHY x - 2 ^ y))) ∧
    (∀ mask : Nat, mask < 256 → (s.dev.setHealth x mask).fld MC_ROLE.HEALTHY x = mask ∧
      ∀ l : Loc, l.reg ≠ .MC_ROLE → (s.dev.setHealth x mask).at l = s.dev.at l) ∧
    (∀ mask z : Nat, x = s.dev.lead.lead → s.dev.lead.failed = false → mask < 256 → z < s.dev.n → z ≠ x → s.dev.inService z = true →
      s.dev.fld MC_ROLE.ROLE z = 1 → mask.testBit z = true →
      (∀ v : Nat, v < z → v ≠ x → s.dev.inService v = false ∨ s.dev.fld MC_ROLE.ROLE v ≠ 1 ∨ mask.testBit v = false) →
      (s.dev.setHealth x mask).deputy = some z) ∧
    (y = s.dev.lead.lead → s.dev.cutOff y = false → s.dev.lead.claim = none → s.dev.deputy = some x → s.dev.asleep = false →
      ((∃ z, z < s.dev.n ∧ z ≠ x ∧ z ≠ y ∧ s.dev.inService z = true ∧ (s.dev.fld MC_ROLE.HEALTHY x).testBit z = true) →
        s.DoesSome (.heartbeatMiss x y) fun e =>
          e.lead = { s.dev.lead with failed := true, claim := some (x, [x]) } ∧ (e.fld MC_ROLE.HEALTHY x).testBit y = false) ∧
      ((∀ z : Nat, z < s.dev.n → z ≠ x → z ≠ y → s.dev.inService z = false ∨ (s.dev.fld MC_ROLE.HEALTHY x).testBit z = false) →
        s.DoesSome (.heartbeatMiss x y) fun e =>
          e.lead = { lead := x } ∧ e.fld MC_ROLE.ROLE x = 3 ∧ e.fld MC_ROLE.ROLE y = 0 ∧
            e.fld MC_HB.TAKEOVERS x = min (s.dev.fld MC_HB.TAKEOVERS x + 1) 255)) ∧
    (s.dev.lead.claim = none → s.Does (.leadClaimReceived x y) s.dev) ∧
    (∀ (c : Nat) (acks : List Nat), s.dev.lead.claim = some (c, acks) →
      (c < y → s.Does (.leadClaimReceived x y) s.dev) ∧
      (c = y → (∃ z, z < s.dev.n ∧ z ≠ x ∧ z ∉ acks ∧ s.dev.inService z = true ∧ (s.dev.fld MC_ROLE.HEALTHY y).testBit z = true) →
        s.DoesSome (.leadClaimReceived x y) fun e =>
          e.lead = { s.dev.lead with claim := some (c, acks.filter (fun z => z != x) ++ [x]) }) ∧
      (c = y → y ≠ s.dev.lead.lead →
        (∀ z : Nat, z < s.dev.n → z ≠ x → z ∉ acks → s.dev.inService z = false ∨ (s.dev.fld MC_ROLE.HEALTHY y).testBit z = false) →
        s.DoesSome (.leadClaimReceived x y) fun e => e.lead = { lead := y } ∧ e.fld MC_ROLE.ROLE y = 3))) ∧
  (∀ (s : State) (src : Src) (x : Nat), x < s.dev.n →
    (∀ image : Nat, image < 2 → s.dev.lets src ⟨.DIE_SVC, x, 0⟩ = true →
      (x = s.dev.lead.lead → s.DoesSome (.mcRestart src x image) fun e =>
        e.fld DIE_SVC_STAT.LAST_REFUSAL x = 6 ∧ e.fld MC_ROLE.ROLE x = s.dev.fld MC_ROLE.ROLE x) ∧
      (x ≠ s.dev.lead.lead → s.DoesSome (.mcRestart src x image) fun e =>
        e.fld MC_ROLE.ROLE x = 0 ∧ e.mcLoad.get none ⟨x, 0, 0⟩ = some (image, false) ∧ e.fld DIE_SVC.IMAGE x = image)) ∧
    (∀ (image : Nat) (second : Bool), image < 2 → s.dev.mcLoad.get none ⟨x, 0, 0⟩ = some (image, second) →
      s.DoesSome (.mcRejoin x none) fun e =>
        e.mcLoad.get none ⟨x, 0, 0⟩ = (if second then none else some (1 - image, true)) ∧ e.reg .MC_ROLE x = s.dev.reg .MC_ROLE x) ∧
    (∀ (image im : Nat) (second : Bool), im < 2 → s.dev.mcLoad.get none ⟨x, 0, 0⟩ = some (image, second) → s.dev.hasFlash 0 = true →
      x ≠ s.dev.lead.lead →
      s.DoesSome (.mcRejoin x (some im)) fun e =>
        e.mcLoad.get none ⟨x, 0, 0⟩ = none ∧ e.fld MC_ROLE.IMAGE x = im ∧
          e.fld MC_ROLE.SYNC_LEVEL x = s.dev.flashWord 0 (imageBase im + 4) % 65536 ∧
          e.fld MC_ROLE.ROLE x = if e.fld MC_ROLE.SYNC_LEVEL x = s.dev.fld MC_ROLE.SYNC_LEVEL s.dev.lead.lead then 1 else 2) ∧
    (∀ l : Option Nat, s.dev.mcLoad.get none ⟨x, 0, 0⟩ = none → s.Does (.mcRejoin x l) s.dev))

/-- R39, R40, R41, R270: a packet for another die goes on along its route, by the link of a doubled pair whose turn it is (R38); one whose turn
it is in its stream is taken and acknowledged by a
die whose root runs; a duplicate is discarded. A link that fails is down at both ends; one that loses lanes in one half runs degraded, in
both halves it fails. A link that is down does nothing. Each is acted on in every state.
Log entry 14 holds what the model reads into the rules here. -/
def Obligations.MortarLinks : Prop :=
  ∀ (s : State) (x k : Nat), x < s.dev.n →
    ((∀ p : MortarPkt, s.Does (.mortarPacketReceived x k p) (s.dev.mortarRx x k p)) ∧ s.Does (.mortarLinkFail x k) (s.dev.morFail x k) ∧
      s.Does (.mortarDegrade x k) (s.dev.morDegrade x k)) ∧
    (∀ p : MortarPkt, s.dev.morUp x k = true →
      (∀ (j : Nat) (r : List Nat), p.dst ≠ x → s.dev.route x p.dst = some (j :: r) →
        s.Does (.mortarPacketReceived x k p) (s.dev.emit (.mortar x (s.dev.spread x j p.seq) p))) ∧
      (p.dst = x → s.dev.mor x = {} → p.seq = 0 → s.dev.rootHeld x = false → s.dev.mor p.src = {} → s.dev.queue x (morQueue k p.cls) = {} →
        s.DoesSome (.mortarPacketReceived x k p) fun e =>
          e.out = s.dev.out ++ [.mortarAck x k p.src p.stream 0] ∧ (e.mor x).expected = [((p.src, p.stream), 1)] ∧ (e.mor x).ahead = [] ∧
            (e.mor x).queued = []) ∧
      (∀ q : Nat, p.dst = x → (s.dev.mor x).expected = [((p.src, p.stream), q)] → p.seq < q → s.Does (.mortarPacketReceived x k p) s.dev)) ∧
    (∀ y : Nat, linkPeer s.dev.variant x k = some y → s.dev.morUp x k = true →
      s.DoesSome (.mortarLinkFail x k) (fun e =>
        e.fld MOR_LINK_STAT.STATE x k = 3 ∧ e.fld MOR_LINK_STAT.UP x k = 0 ∧ e.fld MOR_LINK_STAT.STATE y (peerLink s.dev.variant k) = 3 ∧
          e.fld MOR_LINK_STAT.UP y (peerLink s.dev.variant k) = 0) ∧
      (s.dev.flag MOR_LINK_STAT.DEGRADED x k = false → s.DoesSome (.mortarDegrade x k) fun e =>
        e.fld MOR_LINK_STAT.DEGRADED x k = 1 ∧ e.fld MOR_LINK_STAT.DEGRADED y (peerLink s.dev.variant k) = 1 ∧
          e.fld MOR_LINK_STAT.STATE x k = s.dev.fld MOR_LINK_STAT.STATE x k) ∧
      (s.dev.flag MOR_LINK_STAT.DEGRADED x k = true → s.DoesSome (.mortarDegrade x k) fun e => e.fld MOR_LINK_STAT.STATE x k = 3)) ∧
    (∀ i : Instr, i = .mortarLinkFail x k ∨ i = .mortarDegrade x k → s.dev.morUp x k = false → s.Does i s.dev)

/-! ## Resets and start-up (spec/16, spec/17) -/

/-- R404, R418, R71, R412: a rail that falls low and an assertion of PKG_RESET_N reset the package: every lock clear, every register at its
reset value, nothing at any tile, ring or pool in progress, the cause kept. A release ends the reset where no rail is low, the return of the
rails where the pin is released: the start then runs to its end, or stops failed or hung. No flash command runs, no start hangs.
Log entry 43 holds what the model reads into the rules here. -/
def Obligations.PackageResets : Prop :=
  ∀ s : State, s.dev.flashWindow 0 = none → s.dev.flashWindow 1 = none → s.dev.fen.hung = none →
    let d := s.dev;
    let resets (i : Instr) (P : Dev → Prop) : Prop := d.takes i = true → ∃ e : Dev, exec i s = .next (State.after { s with locks := Locks.clear } e) ∧
      e.inReset = true ∧ (∀ l : Loc, e.at l = ({ variant := d.variant } : Dev).at l) ∧ e.ports = [] ∧ e.rings = [] ∧ e.pools = [] ∧ e.cfgLog = [] ∧
      e.flash = d.flash ∧ P e;
    let starts (e : Dev) : Prop := e.inReset = false ∧ (e.fen.hung = none → e.fen.failed = none →
      ∀ y ∈ e.dies, e.inService y = true → e.fld MC_BOOT_STAT.DONE y = 1);
    (∀ die rail : Nat, resets (.railUndervoltage die rail) fun e => e.fen.cause = some (3, rail, die) ∧ (die, rail) ∈ e.fen.low) ∧
    (∀ cold : Bool, resets (.pkgReset cold) fun e => e.fen.asserted = true ∧ e.fen.cause = some (if cold then 1 else 2, 0, 0)) ∧
    (∀ (board : List (Nat × Nat × Byte)) (hw : List BootFact),
      (d.fen.asserted = true → d.fen.low = [] → d.fen.failed = none → s.DoesSome (.pkgResetRelease board hw) starts) ∧
      (d.fen.asserted = true → d.fen.low ≠ [] → s.DoesSome (.pkgResetRelease board hw) fun e =>
        e.fen = { d.fen with asserted := false } ∧ ∀ l : Loc, e.at l = d.at l) ∧
      (d.fen.asserted = false → s.Does (.pkgResetRelease board hw) d) ∧
      (d.fen.low ≠ [] → d.fen.asserted = false → d.fen.failed = none → s.DoesSome (.railRestored board hw) starts) ∧
      (d.fen.low ≠ [] → d.fen.asserted = true → s.DoesSome (.railRestored board hw) fun e =>
        e.fen = { d.fen with low := [] } ∧ ∀ l : Loc, e.at l = d.at l) ∧
      (d.fen.low = [] → s.Does (.railRestored board hw) d))

/-- R427, R428: a boot step that exceeds its limit ends the start as failed, counted for its die where the step is required; after four the
die is left out of the next start, unless none would be left, and then PKG_ALERT_N is held low. A failed start is followed by a package
reset, which clears the locks (R71) and starts again. Log entry 43 holds what the model reads into the rules here. -/
def Obligations.FailedStarts : Prop :=
  ∀ (s : State) (x : Nat),
    let d := s.dev;
    (∀ step method : Nat, d.fen.hung = some (x, step, method) →
      s.DoesSome (.bootStepTimeout x) fun e => e.fen.hung = none ∧
        (bootOptional step = true → e.fen.failed = some none) ∧
        (bootOptional step = false → e.fen.failed = some (some x) ∧
          let k := d.failedStarts.get 0 ⟨x, 0, 0⟩ + 1;
          e.fld MC_BOOT_STAT.FAILED_STARTS x = min k 15 ∧
            (k < 4 → e.failedStarts.get 0 ⟨x, 0, 0⟩ = k ∧ e.fen.leftOut = d.fen.leftOut) ∧
            (4 ≤ k → (∃ y ∈ d.dies, y ≠ x ∧ y ∉ d.fen.leftOut) → x ∈ e.fen.leftOut) ∧
            (4 ≤ k → (∀ y ∈ d.dies, y = x ∨ y ∈ d.fen.leftOut) → e.fen.leftOut = d.fen.leftOut ∧ Out.alert true ∈ e.out))) ∧
    ((∀ step method : Nat, d.fen.hung ≠ some (x, step, method)) → s.Does (.bootStepTimeout x) d) ∧
    (∀ hw : List BootFact,
      (d.fen.failed ≠ none → d.inReset = false → d.takes (.failedStartReset hw) = true →
        ∃ e : Dev, exec (.failedStartReset hw) s = .next (State.after { s with locks := Locks.clear } e) ∧ e.inReset = false ∧
          (e.fen.hung = none → e.fen.failed = none → ∀ y ∈ e.dies, e.inService y = true → e.fld MC_BOOT_STAT.DONE y = 1)) ∧
      (d.fen.failed = none ∨ d.inReset = true → s.Does (.failedStartReset hw) d))

/-! ## The queue of commands and runs -/

/-- A step runs the command at the front of the queue, on the state with the queue's rest; on an empty queue a microsecond passes, which
changes no register, lock or pin (log entry 2); no word spells a command, so none is put in front (log entry 1). -/
def Obligations.StepRunsFront : Prop :=
  (∀ (c : Instr) (s : State), step { s with pending := c :: s.pending } = exec c s) ∧
    (∀ s : State, s.pending = [] → ∃ t : State, step s = .next t ∧ t.pending = [] ∧ t.locks = s.locks ∧ t.dev.out = s.dev.out ∧
      ∀ l : Loc, t.dev.at l = s.dev.at l) ∧
    ∀ (nbits w : Nat) (s : State), decodeTableWord nbits w = none ∧ s.withFetchWord nbits w = s

/-- What reset leaves: no command waits, no lock is set (R71), PKG_RESET_N is asserted, ports are down, nothing is in progress, and every
register named reads its reset value. Log entries 3 and 7 hold what the model reads into the rules here. -/
def Obligations.ResetState : Prop :=
  State.reset.pending = [] ∧ State.reset.locks = Locks.clear ∧ State.reset.dev.inReset = true ∧ State.reset.Ready ∧
    (∀ p : Nat, State.reset.dev.fld BB_LINK_STAT.STATE p = 0 ∧ State.reset.dev.port p = {}) ∧
    (∀ n : Nat, State.reset.dev.sem n = {} ∧ State.reset.dev.pool n = {} ∧ State.reset.dev.ring n = {}) ∧
    (∀ x : Nat, State.reset.dev.fld DIE_SVC_STAT.STATE x = 0 ∧ State.reset.dev.fld MC_BOOT_STAT.DONE x = 0) ∧ State.reset.dev.out = []

/-- A command that is ill formed, or names a unit that the variant lacks, stops (log entry 1); every other command answers a next state,
with the queue and the variant as they were (R6). -/
def Obligations.CommandsComplete : Prop :=
  ∀ (i : Instr) (s : State),
    (i.wf = false → exec i s = .fault .illFormed) ∧
    (i.wf = true → i.present s.dev.n = false → exec i s = .fault .absentUnit) ∧
    (s.dev.takes i = true → ∃ t : State, exec i s = .next t ∧ t.pending = s.pending ∧ t.dev.variant = s.dev.variant)

/-- The state after a command whose own effect leaves the device at rest is that effect, its locks taken: where nothing goes on by itself,
every statement that ends in `s.after e` says the whole next state. -/
def Obligations.RestKeepsEffect : Prop :=
  ∀ (s : State) (e : Dev), e.Rests s.locks → s.after e = s.close e

/-- Commands that can reach the block never stop it: every step from a state whose waiting commands can reach it answers a next state of
the same kind. Log entry 1 holds what the model reads into the rules here. -/
def Obligations.ReadyKept : Prop :=
  ∀ s : State, s.Ready → ∃ t : State, step s = .next t ∧ t.Ready ∧ t.pending = s.pending.tail ∧ t.dev.variant = s.dev.variant

/-- A queue of commands that can reach the block is served whole: as many steps as commands wait leave the queue empty.
Log entry 1 holds what the model reads into the rules here. -/
def Obligations.QueueRunsOut : Prop :=
  ∀ s : State, s.Ready → ∃ t : State, Sys2Proof.core.run s.pending.length s = .next t ∧ t.pending = []

/-- R71: a lock once set stays set over every step that is no package reset, but for the locks of a die in the reset of that die and the
lock of a tile in the reset of that tile. -/
def Obligations.LocksStay : Prop :=
  ∀ s t : State, step s = .next t → (∀ (c : Instr) (rest : List Instr), s.pending = c :: rest →
      (∀ die rail, c ≠ .railUndervoltage die rail) ∧ (∀ b, c ≠ .pkgReset b) ∧ ∀ hw, c ≠ .failedStartReset hw) →
    (∀ x : Fin 8, (∀ bad rest, s.pending ≠ .dieResetDrained x.val bad :: rest) →
      (s.locks.pkg[x] = true → t.locks.pkg[x] = true) ∧ (s.locks.die[x] = true → t.locks.die[x] = true)) ∧
    ∀ p : Fin 64, (∀ bad rest, s.pending ≠ .dieResetDrained (p.val / 8) bad :: rest) →
      s.locks.tile[p] = true → t.locks.tile[p] = true ∨ t.dev.fld TIL_SVC_STAT.STATE p.val = 3
end

