-- ==== Sys2Proof/Laws/Map.lean ====
section
/-!
SUPPORT. The register map is unambiguous: the offset that the map gives a register leads back to it, so that no two registers share an
address (R46 to R49).
-/

namespace Sys2Proof.Machine

/-- The largest offset in a repetition. -/
def dimExtent : List (Nat × Nat) → Nat
  | [] => 0
  | (n, st) :: r => (n - 1) * st + dimExtent r

/-- Each level of a repetition is wide enough for the next, and none is empty. -/
def dimNested : List (Nat × Nat) → Bool
  | [] => true
  | (n, st) :: r => decide (0 < n) && decide (dimExtent r < st) && dimNested r

/-- The largest offset in a repetition, levels that repeat at multiples of `m` left out. -/
def dimInner (m : Nat) : List (Nat × Nat) → Nat
  | [] => 0
  | (n, st) :: r => (if st % m = 0 then 0 else (n - 1) * st) + dimInner m r

theorem dimCount_foldl (l : List (Nat × Nat)) (a : Nat) : l.foldl (fun m p => m * p.1) a = a * dimCount l := by
  induction l generalizing a with
  | nil => simp [dimCount]
  | cons p r ih =>
    rw [dimCount, List.foldl_cons, List.foldl_cons, ih, ih, Nat.one_mul, Nat.mul_assoc]

theorem dimCount_cons (n st : Nat) (r : List (Nat × Nat)) : dimCount ((n, st) :: r) = n * dimCount r := by
  rw [dimCount, List.foldl_cons, dimCount_foldl, Nat.one_mul]

theorem dimOffset_cons (n st : Nat) (r : List (Nat × Nat)) (i : Nat) :
    dimOffset ((n, st) :: r) i = (i / dimCount r % n) * st + dimOffset r (i % dimCount r) := rfl

theorem dimOffset_le (l : List (Nat × Nat)) (h : dimNested l = true) (i : Nat) : dimOffset l i ≤ dimExtent l := by
  induction l generalizing i with
  | nil => simp [dimOffset, dimExtent]
  | cons p r ih =>
    obtain ⟨n, st⟩ := p
    simp only [dimNested, Bool.and_eq_true, decide_eq_true_eq] at h
    rw [dimOffset_cons, dimExtent]
    have : i / dimCount r % n ≤ n - 1 := by have := Nat.mod_lt (i / dimCount r) h.1.1; omega
    exact Nat.add_le_add (Nat.mul_le_mul_right st this) (ih h.2 _)

/-- An offset in a repetition lies within `dimInner` of a multiple of `m`. -/
theorem dimOffset_near (m : Nat) (l : List (Nat × Nat)) (h : dimNested l = true) (i : Nat) :
    ∃ q t, dimOffset l i = m * q + t ∧ t ≤ dimInner m l := by
  induction l generalizing i with
  | nil => exact ⟨0, 0, by simp [dimOffset], by simp⟩
  | cons p r ih =>
    obtain ⟨n, st⟩ := p
    simp only [dimNested, Bool.and_eq_true, decide_eq_true_eq] at h
    obtain ⟨q, t, e, le⟩ := ih h.2 (i % dimCount r)
    rw [dimOffset_cons, e]
    have hk : i / dimCount r % n ≤ n - 1 := by have := Nat.mod_lt (i / dimCount r) h.1.1; omega
    by_cases hs : st % m = 0
    · obtain ⟨c, rfl⟩ := Nat.dvd_of_mod_eq_zero hs
      exact ⟨i / dimCount r % n * c + q, t, by ring, by simp [dimInner, le]⟩
    · exact ⟨q, i / dimCount r % n * st + t, by ring, by simpa [dimInner, hs] using Nat.add_le_add (Nat.mul_le_mul_right st hk) le⟩

theorem dimOffset_of_index (l : List (Nat × Nat)) (o i : Nat) (h : dimIndex l o = some i) : dimOffset l i = o ∧ i < dimCount l := by
  induction l generalizing o i with
  | nil =>
    simp only [dimIndex] at h
    split at h <;> simp_all [dimOffset, dimCount]
  | cons p r ih =>
    obtain ⟨n, st⟩ := p
    simp only [dimIndex] at h
    split at h
    · rename_i hn
      obtain ⟨k, hk, rfl⟩ := Option.map_eq_some_iff.mp h
      obtain ⟨e, lt⟩ := ih _ _ hk
      rw [dimOffset_cons, dimCount_cons, dimCount_foldl, Nat.one_mul]
      have hc : 0 < dimCount r := Nat.lt_of_le_of_lt (Nat.zero_le _) lt
      rw [Nat.mul_comm (o / st), Nat.mul_add_div hc, Nat.mul_add_mod, Nat.div_eq_of_lt lt, Nat.mod_eq_of_lt lt, Nat.add_zero,
        Nat.mod_eq_of_lt hn, e]
      refine ⟨Nat.div_add_mod' o st, ?_⟩
      calc dimCount r * (o / st) + k < dimCount r * (o / st) + dimCount r := by omega
        _ = dimCount r * (o / st + 1) := by ring
        _ ≤ dimCount r * n := Nat.mul_le_mul_left _ hn
        _ = n * dimCount r := Nat.mul_comm _ _
    · cases h

theorem dimIndex_of_offset (l : List (Nat × Nat)) (h : dimNested l = true) (i : Nat) (hi : i < dimCount l) :
    dimIndex l (dimOffset l i) = some i := by
  induction l generalizing i with
  | nil =>
    have : i = 0 := by simpa [dimCount] using hi
    simp [dimIndex, dimOffset, this]
  | cons p r ih =>
    obtain ⟨n, st⟩ := p
    simp only [dimNested, Bool.and_eq_true, decide_eq_true_eq] at h
    rw [dimCount_cons] at hi
    have hc : 0 < dimCount r := Nat.pos_of_ne_zero fun e => by simp [e] at hi
    have hq : i / dimCount r < n := Nat.div_lt_of_lt_mul (by rwa [Nat.mul_comm] at hi)
    have ho : dimOffset r (i % dimCount r) < st := Nat.lt_of_le_of_lt (dimOffset_le r h.2 _) h.1.2
    rw [dimOffset_cons, Nat.mod_eq_of_lt hq]
    have hst : 0 < st := Nat.lt_of_le_of_lt (Nat.zero_le _) ho
    have e1 : (i / dimCount r * st + dimOffset r (i % dimCount r)) / st = i / dimCount r := by
      rw [Nat.mul_comm, Nat.mul_add_div hst, Nat.div_eq_of_lt ho, Nat.add_zero]
    have e2 : (i / dimCount r * st + dimOffset r (i % dimCount r)) % st = dimOffset r (i % dimCount r) := by
      rw [Nat.mul_comm, Nat.mul_add_mod, Nat.mod_eq_of_lt ho]
    simp only [dimIndex, e1, e2, hq, if_true, ih h.2 _ (Nat.mod_lt _ hc), Option.map_some, dimCount_foldl, Nat.one_mul]
    rw [Nat.mul_comm, Nat.div_add_mod]

/-! Registers that share no address -/

/-- Two repetitions lie apart in every window of `m` bytes. -/
def apartMod (m : Nat) (r s : RegSpec) : Bool :=
  let a := r.base % m
  let b := s.base % m
  let i := dimInner m r.dims
  let j := dimInner m s.dims
  decide (a + i < m) && decide (b + j < m) && (decide (a + i < b) || decide (b + j < a))

/-- Two registers share no address: their extents lie apart, or they do in every window of some size. -/
def apart (r s : RegSpec) : Bool :=
  decide (r.base + dimExtent r.dims < s.base) || decide (s.base + dimExtent s.dims < r.base) ||
    [0x8, 0x10, 0x20, 0x40, 0x80, 0x100, 0x10000].any fun m => apartMod m r s

theorem near_mod {b q t m x : Nat} (i : Nat) (h : x = b + (m * q + t)) (ht : t ≤ i) (hb : b % m + i < m) :
    b % m ≤ x % m ∧ x % m ≤ b % m + i := by
  have e : x % m = b % m + t := by
    rw [h, show b + (m * q + t) = (b % m + t) + m * (b / m + q) by
      have := Nat.div_add_mod b m
      rw [Nat.mul_add]; omega, Nat.add_mul_mod_self_left]
    exact Nat.mod_eq_of_lt (by omega)
  omega

theorem apart_ne {r s : RegSpec} (h : apart r s = true) (hr : dimNested r.dims = true) (hs : dimNested s.dims = true) (i j : Nat) :
    r.base + dimOffset r.dims i ≠ s.base + dimOffset s.dims j := by
  intro e
  have h1 := dimOffset_le r.dims hr i
  have h2 := dimOffset_le s.dims hs j
  simp only [apart, Bool.or_eq_true, decide_eq_true_eq, List.any_eq_true] at h
  rcases h with (h | h) | ⟨m, -, h⟩
  · omega
  · omega
  · simp only [apartMod, Bool.and_eq_true, Bool.or_eq_true, decide_eq_true_eq] at h
    obtain ⟨q, t, e1, l1⟩ := dimOffset_near m r.dims hr i
    obtain ⟨q', t', e2, l2⟩ := dimOffset_near m s.dims hs j
    have n1 := near_mod (x := r.base + dimOffset r.dims i) _ (by rw [e1]) l1 h.1.1
    have n2 := near_mod (x := r.base + dimOffset r.dims i) _ (by rw [e, e2]) l2 h.1.2
    omega

/-- A register of a list whose registers lie apart is found at its offset. -/
theorem findReg_offset (l : List RegId) (r : RegId) (i : Nat) (hm : r ∈ l) (hi : i < dimCount r.spec.dims)
    (hn : ∀ s ∈ l, dimNested s.spec.dims = true) (ha : ∀ s ∈ l, s = r ∨ apart s.spec r.spec = true) :
    findReg l (r.spec.base + dimOffset r.spec.dims i) = some (r, i) := by
  induction l with
  | nil => cases hm
  | cons s l ih =>
    rcases ha s (by simp) with rfl | hs
    · have : s.spec.base + dimOffset s.spec.dims i - s.spec.base = dimOffset s.spec.dims i := by omega
      simp [findReg, this, dimIndex_of_offset _ (hn s (by simp)) i hi]
    · have hr : r ∈ l := by
        rcases List.mem_cons.mp hm with rfl | h
        · exact absurd rfl (apart_ne hs (hn r (by simp)) (hn r (by simp)) 0 0)
        · exact h
      have rec_ := ih hr (fun x hx => hn x (by simp [hx])) (fun x hx => ha x (by simp [hx]))
      simp only [findReg]
      split
      · split
        · rename_i hle j hj
          have := (dimOffset_of_index _ _ _ hj).1
          exact absurd (by omega) (apart_ne hs (hn s (by simp)) (hn r (by simp [hr])) j i)
        · exact rec_
      · exact rec_

theorem pkgRegs_nested : ∀ s ∈ pkgRegs, dimNested s.spec.dims = true := by decide +kernel
theorem dieRegs_nested : ∀ s ∈ dieRegs, dimNested s.spec.dims = true := by decide +kernel
theorem tileRegs_nested : ∀ s ∈ tileRegs, dimNested s.spec.dims = true := by decide +kernel
theorem pkgRegs_apart : ∀ r ∈ pkgRegs, ∀ s ∈ pkgRegs, s = r ∨ apart s.spec r.spec = true := by decide +kernel
theorem dieRegs_apart : ∀ r ∈ dieRegs, ∀ s ∈ dieRegs, s = r ∨ apart s.spec r.spec = true := by decide +kernel
theorem tileRegs_apart : ∀ r ∈ tileRegs, ∀ s ∈ tileRegs, s = r ∨ apart s.spec r.spec = true := by decide +kernel
theorem pkgRegs_extent : ∀ r ∈ pkgRegs, r.spec.block = .pkg ∧ r.spec.base + dimExtent r.spec.dims < 0x800000 := by decide +kernel
theorem dieRegs_extent : ∀ r ∈ dieRegs, r.spec.block = .die ∧ (r.spec.base + dimExtent r.spec.dims < 0x100000 ∨
    0x500000 ≤ r.spec.base ∧ r.spec.base + dimExtent r.spec.dims < 0x800000) := by decide +kernel
theorem tileRegs_extent : ∀ r ∈ tileRegs, r.spec.block = .tile ∧ r.spec.base + dimExtent r.spec.dims < 0x80000 := by decide +kernel

/-- A register of the package block that the package holds is found at its offset. -/
theorem locate_pkg (n : Nat) (r : RegId) (i : Nat) (h : r ∈ pkgRegs) (hi : i < dimCount r.spec.dims) (hp : r.present n i = true) :
    locate n (Loc.offset ⟨r, 0, i⟩) = some ⟨r, 0, i⟩ := by
  obtain ⟨hb, he⟩ := pkgRegs_extent r h
  have ho := dimOffset_le _ (pkgRegs_nested r h) i
  simp only [Loc.offset, hb, Nat.zero_add, locate]
  rw [if_pos (by omega), findReg_offset pkgRegs r i h hi pkgRegs_nested (pkgRegs_apart r h)]
  simp [hp]

/-- A register of a die block that the die holds is found at its offset. -/
theorem locate_die (n : Nat) (r : RegId) (u i : Nat) (h : r ∈ dieRegs) (hu : u < n) (hi : i < dimCount r.spec.dims)
    (hp : r.present n i = true) :
    locate n (Loc.offset ⟨r, u, i⟩) = some ⟨r, u, i⟩ := by
  obtain ⟨hb, he⟩ := dieRegs_extent r h
  have ho := dimOffset_le _ (dieRegs_nested r h) i
  simp only [Loc.offset, hb, dieBase, locate]
  have e1 : (0x800000 * (u + 1) + r.spec.base + dimOffset r.spec.dims i) / 0x800000 = u + 1 := by omega
  have e2 : (0x800000 * (u + 1) + r.spec.base + dimOffset r.spec.dims i) % 0x800000 = r.spec.base + dimOffset r.spec.dims i := by omega
  rw [if_neg (by omega), e1, e2, Nat.add_sub_cancel, if_pos hu, if_neg (by omega),
    findReg_offset dieRegs r i h hi dieRegs_nested (dieRegs_apart r h)]
  simp [hp]

/-- A register of a tile block is found at its offset. -/
theorem locate_tile (n : Nat) (r : RegId) (u i : Nat) (h : r ∈ tileRegs) (hu : u < 8 * n) (hi : i < dimCount r.spec.dims)
    (hp : r.present n i = true) :
    locate n (Loc.offset ⟨r, u, i⟩) = some ⟨r, u, i⟩ := by
  obtain ⟨hb, he⟩ := tileRegs_extent r h
  have ho := dimOffset_le _ (tileRegs_nested r h) i
  simp only [Loc.offset, hb, tileBase, dieBase, locate]
  have e1 : (0x800000 * (u / 8 + 1) + 0x100000 + u % 8 * 0x80000 + r.spec.base + dimOffset r.spec.dims i) / 0x800000 = u / 8 + 1 := by omega
  have e2 : (0x800000 * (u / 8 + 1) + 0x100000 + u % 8 * 0x80000 + r.spec.base + dimOffset r.spec.dims i) % 0x800000 =
      0x100000 + u % 8 * 0x80000 + (r.spec.base + dimOffset r.spec.dims i) := by omega
  have e3 : (0x100000 + u % 8 * 0x80000 + (r.spec.base + dimOffset r.spec.dims i) - 0x100000) % 0x80000 =
      r.spec.base + dimOffset r.spec.dims i := by omega
  have e4 : (0x100000 + u % 8 * 0x80000 + (r.spec.base + dimOffset r.spec.dims i) - 0x100000) / 0x80000 = u % 8 := by omega
  rw [if_neg (by omega), e1, e2, Nat.add_sub_cancel, if_pos (by omega), if_pos (by omega), e3, e4,
    findReg_offset tileRegs r i h hi tileRegs_nested (tileRegs_apart r h)]
  have e5 : 8 * (u / 8) + u % 8 = u := by omega
  simp [e5, hp]

/-! One law for every register -/

/-- Every register of the map stands in the list of its block, at whole words. -/
def RegId.listed (r : RegId) : Bool :=
  (match r.spec.block with
    | .pkg => pkgRegs.contains r
    | .die => dieRegs.contains r
    | .tile => tileRegs.contains r) && r.spec.base % 4 == 0 && r.spec.dims.all fun p => p.2 % 4 == 0

theorem pkgRegs_listed : ∀ r ∈ pkgRegs, r.listed = true := by decide +kernel
theorem dieRegs_listed : ∀ r ∈ dieRegs, r.listed = true := by decide +kernel
theorem tileRegs_listed : ∀ r ∈ tileRegs, r.listed = true := by decide +kernel

theorem listed_all (r : RegId) : r.listed = true := by
  have h : r ∈ pkgRegs ++ dieRegs ++ tileRegs := by cases r <;> decide +kernel
  rcases List.mem_append.mp h with h | h
  · rcases List.mem_append.mp h with h | h
    · exact pkgRegs_listed r h
    · exact dieRegs_listed r h
  · exact tileRegs_listed r h

theorem dimOffset_word (l : List (Nat × Nat)) (h : (l.all fun p => p.2 % 4 == 0) = true) (i : Nat) : dimOffset l i % 4 = 0 := by
  induction l generalizing i with
  | nil => rfl
  | cons p r ih =>
    obtain ⟨n, st⟩ := p
    simp only [List.all_cons, Bool.and_eq_true, beq_iff_eq] at h
    simp [dimOffset_cons, Nat.add_mod, ih h.2, Nat.mul_mod, h.1]

/-- Every register stands at a whole word. -/
theorem offset_word (l : Loc) : l.offset % 4 = 0 := by
  have h := listed_all l.reg
  simp only [RegId.listed, Bool.and_eq_true, beq_iff_eq] at h
  have ho := dimOffset_word l.reg.spec.dims h.2 l.i
  have hb := h.1.2
  simp only [Loc.offset]
  split
  · omega
  · simp only [dieBase]; omega
  · simp only [dieBase, tileBase]; omega

/-- Every register that the package holds is found at its offset. -/
theorem locate_offset {n : Nat} {l : Loc} (h : l.fits n = true) : locate n l.offset = some l := by
  obtain ⟨r, u, i⟩ := l
  have hl := listed_all r
  simp only [Loc.fits, Bool.and_eq_true, decide_eq_true_eq] at h
  simp only [RegId.listed, Bool.and_eq_true] at hl
  obtain ⟨⟨hi, hp⟩, hu⟩ := h
  have hm := hl.1.1
  split at hu <;> rename_i hb <;> simp only [hb, List.contains_iff_mem] at hm
  · rw [beq_iff_eq] at hu; subst hu; exact locate_pkg n r i hm hi hp
  · exact locate_die n r u i hm (by simpa using hu) hi hp
  · exact locate_tile n r u i hm (by simpa using hu) hi hp

end Sys2Proof.Machine
end

