-- ==== Sys2Proof/Laws/State.lean ====
section
/-!
SUPPORT. What each update of the device leaves alone: one lemma per field and update, true by unfolding, so that no later proof unfolds
a record update.
-/

namespace Sys2Proof.Machine

/-! Dev.put -/

@[simp] theorem Dev.put_variant (d : Dev) (l : Loc) (w : Word) : (d.put l w).variant = d.variant := rfl
@[simp] theorem Dev.put_active (d : Dev) (l : Loc) (w : Word) : (d.put l w).active = d.active := rfl
@[simp] theorem Dev.put_leadCopy (d : Dev) (l : Loc) (w : Word) : (d.put l w).leadCopy = d.leadCopy := rfl
@[simp] theorem Dev.put_cfgLog (d : Dev) (l : Loc) (w : Word) : (d.put l w).cfgLog = d.cfgLog := rfl
@[simp] theorem Dev.put_applied (d : Dev) (l : Loc) (w : Word) : (d.put l w).applied = d.applied := rfl
@[simp] theorem Dev.put_heldCfg (d : Dev) (l : Loc) (w : Word) : (d.put l w).heldCfg = d.heldCfg := rfl
@[simp] theorem Dev.put_lead (d : Dev) (l : Loc) (w : Word) : (d.put l w).lead = d.lead := rfl
@[simp] theorem Dev.put_homes (d : Dev) (l : Loc) (w : Word) : (d.put l w).homes = d.homes := rfl
@[simp] theorem Dev.put_mirrors (d : Dev) (l : Loc) (w : Word) : (d.put l w).mirrors = d.mirrors := rfl
@[simp] theorem Dev.put_heldReads (d : Dev) (l : Loc) (w : Word) : (d.put l w).heldReads = d.heldReads := rfl
@[simp] theorem Dev.put_activeUpsets (d : Dev) (l : Loc) (w : Word) : (d.put l w).activeUpsets = d.activeUpsets := rfl
@[simp] theorem Dev.put_sealStop (d : Dev) (l : Loc) (w : Word) : (d.put l w).sealStop = d.sealStop := rfl
@[simp] theorem Dev.put_margins (d : Dev) (l : Loc) (w : Word) : (d.put l w).margins = d.margins := rfl
@[simp] theorem Dev.put_awaiting (d : Dev) (l : Loc) (w : Word) : (d.put l w).awaiting = d.awaiting := rfl
@[simp] theorem Dev.put_stranded (d : Dev) (l : Loc) (w : Word) : (d.put l w).stranded = d.stranded := rfl
@[simp] theorem Dev.put_modPend (d : Dev) (l : Loc) (w : Word) : (d.put l w).modPend = d.modPend := rfl
@[simp] theorem Dev.put_ran (d : Dev) (l : Loc) (w : Word) : (d.put l w).ran = d.ran := rfl
@[simp] theorem Dev.put_monHits (d : Dev) (l : Loc) (w : Word) : (d.put l w).monHits = d.monHits := rfl
@[simp] theorem Dev.put_lost (d : Dev) (l : Loc) (w : Word) : (d.put l w).lost = d.lost := rfl
@[simp] theorem Dev.put_shadows (d : Dev) (l : Loc) (w : Word) : (d.put l w).shadows = d.shadows := rfl
@[simp] theorem Dev.put_lastPath (d : Dev) (l : Loc) (w : Word) : (d.put l w).lastPath = d.lastPath := rfl
@[simp] theorem Dev.put_usCount (d : Dev) (l : Loc) (w : Word) : (d.put l w).usCount = d.usCount := rfl
@[simp] theorem Dev.put_pcie (d : Dev) (l : Loc) (w : Word) : (d.put l w).pcie = d.pcie := rfl
@[simp] theorem Dev.put_cfgSpace (d : Dev) (l : Loc) (w : Word) : (d.put l w).cfgSpace = d.cfgSpace := rfl
@[simp] theorem Dev.put_ports (d : Dev) (l : Loc) (w : Word) : (d.put l w).ports = d.ports := rfl
@[simp] theorem Dev.put_sems (d : Dev) (l : Loc) (w : Word) : (d.put l w).sems = d.sems := rfl
@[simp] theorem Dev.put_tcache (d : Dev) (l : Loc) (w : Word) : (d.put l w).tcache = d.tcache := rfl
@[simp] theorem Dev.put_queues (d : Dev) (l : Loc) (w : Word) : (d.put l w).queues = d.queues := rfl
@[simp] theorem Dev.put_evq (d : Dev) (l : Loc) (w : Word) : (d.put l w).evq = d.evq := rfl
@[simp] theorem Dev.put_evqSeq (d : Dev) (l : Loc) (w : Word) : (d.put l w).evqSeq = d.evqSeq := rfl
@[simp] theorem Dev.put_evqIssued (d : Dev) (l : Loc) (w : Word) : (d.put l w).evqIssued = d.evqIssued := rfl
@[simp] theorem Dev.put_irqPend (d : Dev) (l : Loc) (w : Word) : (d.put l w).irqPend = d.irqPend := rfl
@[simp] theorem Dev.put_modGap (d : Dev) (l : Loc) (w : Word) : (d.put l w).modGap = d.modGap := rfl
@[simp] theorem Dev.put_pools (d : Dev) (l : Loc) (w : Word) : (d.put l w).pools = d.pools := rfl
@[simp] theorem Dev.put_mails (d : Dev) (l : Loc) (w : Word) : (d.put l w).mails = d.mails := rfl
@[simp] theorem Dev.put_taps (d : Dev) (l : Loc) (w : Word) : (d.put l w).taps = d.taps := rfl
@[simp] theorem Dev.put_rings (d : Dev) (l : Loc) (w : Word) : (d.put l w).rings = d.rings := rfl
@[simp] theorem Dev.put_movers (d : Dev) (l : Loc) (w : Word) : (d.put l w).movers = d.movers := rfl
@[simp] theorem Dev.put_clocks (d : Dev) (l : Loc) (w : Word) : (d.put l w).clocks = d.clocks := rfl
@[simp] theorem Dev.put_magPorts (d : Dev) (l : Loc) (w : Word) : (d.put l w).magPorts = d.magPorts := rfl
@[simp] theorem Dev.put_mortars (d : Dev) (l : Loc) (w : Word) : (d.put l w).mortars = d.mortars := rfl
@[simp] theorem Dev.put_fen (d : Dev) (l : Loc) (w : Word) : (d.put l w).fen = d.fen := rfl
@[simp] theorem Dev.put_hist (d : Dev) (l : Loc) (w : Word) : (d.put l w).hist = d.hist := rfl
@[simp] theorem Dev.put_heldRecs (d : Dev) (l : Loc) (w : Word) : (d.put l w).heldRecs = d.heldRecs := rfl
@[simp] theorem Dev.put_failedStarts (d : Dev) (l : Loc) (w : Word) : (d.put l w).failedStarts = d.failedStarts := rfl
@[simp] theorem Dev.put_flash (d : Dev) (l : Loc) (w : Word) : (d.put l w).flash = d.flash := rfl
@[simp] theorem Dev.put_flashRun (d : Dev) (l : Loc) (w : Word) : (d.put l w).flashRun = d.flashRun := rfl
@[simp] theorem Dev.put_eq (d : Dev) (l : Loc) (w : Word) : (d.put l w).eq = d.eq := rfl
@[simp] theorem Dev.put_banks (d : Dev) (l : Loc) (w : Word) : (d.put l w).banks = d.banks := rfl
@[simp] theorem Dev.put_away (d : Dev) (l : Loc) (w : Word) : (d.put l w).away = d.away := rfl
@[simp] theorem Dev.put_mcLoad (d : Dev) (l : Loc) (w : Word) : (d.put l w).mcLoad = d.mcLoad := rfl
@[simp] theorem Dev.put_asleep (d : Dev) (l : Loc) (w : Word) : (d.put l w).asleep = d.asleep := rfl
@[simp] theorem Dev.put_scanIr (d : Dev) (l : Loc) (w : Word) : (d.put l w).scanIr = d.scanIr := rfl
@[simp] theorem Dev.put_monFrom (d : Dev) (l : Loc) (w : Word) : (d.put l w).monFrom = d.monFrom := rfl
@[simp] theorem Dev.put_reloaded (d : Dev) (l : Loc) (w : Word) : (d.put l w).reloaded = d.reloaded := rfl
@[simp] theorem Dev.put_nextId (d : Dev) (l : Loc) (w : Word) : (d.put l w).nextId = d.nextId := rfl
@[simp] theorem Dev.put_free (d : Dev) (l : Loc) (w : Word) : (d.put l w).free = d.free := rfl
@[simp] theorem Dev.put_out (d : Dev) (l : Loc) (w : Word) : (d.put l w).out = d.out := rfl
@[simp] theorem Dev.put_notes (d : Dev) (l : Loc) (w : Word) : (d.put l w).notes = d.notes := rfl

/-! Dev.setReg -/

@[simp] theorem Dev.setReg_variant (d : Dev) (r : RegId) (u i : Nat) (w : Word) : (d.setReg r u i w).variant = d.variant := rfl
@[simp] theorem Dev.setReg_active (d : Dev) (r : RegId) (u i : Nat) (w : Word) : (d.setReg r u i w).active = d.active := rfl
@[simp] theorem Dev.setReg_leadCopy (d : Dev) (r : RegId) (u i : Nat) (w : Word) : (d.setReg r u i w).leadCopy = d.leadCopy := rfl
@[simp] theorem Dev.setReg_cfgLog (d : Dev) (r : RegId) (u i : Nat) (w : Word) : (d.setReg r u i w).cfgLog = d.cfgLog := rfl
@[simp] theorem Dev.setReg_applied (d : Dev) (r : RegId) (u i : Nat) (w : Word) : (d.setReg r u i w).applied = d.applied := rfl
@[simp] theorem Dev.setReg_heldCfg (d : Dev) (r : RegId) (u i : Nat) (w : Word) : (d.setReg r u i w).heldCfg = d.heldCfg := rfl
@[simp] theorem Dev.setReg_lead (d : Dev) (r : RegId) (u i : Nat) (w : Word) : (d.setReg r u i w).lead = d.lead := rfl
@[simp] theorem Dev.setReg_homes (d : Dev) (r : RegId) (u i : Nat) (w : Word) : (d.setReg r u i w).homes = d.homes := rfl
@[simp] theorem Dev.setReg_mirrors (d : Dev) (r : RegId) (u i : Nat) (w : Word) : (d.setReg r u i w).mirrors = d.mirrors := rfl
@[simp] theorem Dev.setReg_heldReads (d : Dev) (r : RegId) (u i : Nat) (w : Word) : (d.setReg r u i w).heldReads = d.heldReads := rfl
@[simp] theorem Dev.setReg_activeUpsets (d : Dev) (r : RegId) (u i : Nat) (w : Word) : (d.setReg r u i w).activeUpsets = d.activeUpsets := rfl
@[simp] theorem Dev.setReg_sealStop (d : Dev) (r : RegId) (u i : Nat) (w : Word) : (d.setReg r u i w).sealStop = d.sealStop := rfl
@[simp] theorem Dev.setReg_margins (d : Dev) (r : RegId) (u i : Nat) (w : Word) : (d.setReg r u i w).margins = d.margins := rfl
@[simp] theorem Dev.setReg_awaiting (d : Dev) (r : RegId) (u i : Nat) (w : Word) : (d.setReg r u i w).awaiting = d.awaiting := rfl
@[simp] theorem Dev.setReg_stranded (d : Dev) (r : RegId) (u i : Nat) (w : Word) : (d.setReg r u i w).stranded = d.stranded := rfl
@[simp] theorem Dev.setReg_modPend (d : Dev) (r : RegId) (u i : Nat) (w : Word) : (d.setReg r u i w).modPend = d.modPend := rfl
@[simp] theorem Dev.setReg_ran (d : Dev) (r : RegId) (u i : Nat) (w : Word) : (d.setReg r u i w).ran = d.ran := rfl
@[simp] theorem Dev.setReg_monHits (d : Dev) (r : RegId) (u i : Nat) (w : Word) : (d.setReg r u i w).monHits = d.monHits := rfl
@[simp] theorem Dev.setReg_lost (d : Dev) (r : RegId) (u i : Nat) (w : Word) : (d.setReg r u i w).lost = d.lost := rfl
@[simp] theorem Dev.setReg_shadows (d : Dev) (r : RegId) (u i : Nat) (w : Word) : (d.setReg r u i w).shadows = d.shadows := rfl
@[simp] theorem Dev.setReg_lastPath (d : Dev) (r : RegId) (u i : Nat) (w : Word) : (d.setReg r u i w).lastPath = d.lastPath := rfl
@[simp] theorem Dev.setReg_usCount (d : Dev) (r : RegId) (u i : Nat) (w : Word) : (d.setReg r u i w).usCount = d.usCount := rfl
@[simp] theorem Dev.setReg_pcie (d : Dev) (r : RegId) (u i : Nat) (w : Word) : (d.setReg r u i w).pcie = d.pcie := rfl
@[simp] theorem Dev.setReg_cfgSpace (d : Dev) (r : RegId) (u i : Nat) (w : Word) : (d.setReg r u i w).cfgSpace = d.cfgSpace := rfl
@[simp] theorem Dev.setReg_ports (d : Dev) (r : RegId) (u i : Nat) (w : Word) : (d.setReg r u i w).ports = d.ports := rfl
@[simp] theorem Dev.setReg_sems (d : Dev) (r : RegId) (u i : Nat) (w : Word) : (d.setReg r u i w).sems = d.sems := rfl
@[simp] theorem Dev.setReg_tcache (d : Dev) (r : RegId) (u i : Nat) (w : Word) : (d.setReg r u i w).tcache = d.tcache := rfl
@[simp] theorem Dev.setReg_queues (d : Dev) (r : RegId) (u i : Nat) (w : Word) : (d.setReg r u i w).queues = d.queues := rfl
@[simp] theorem Dev.setReg_evq (d : Dev) (r : RegId) (u i : Nat) (w : Word) : (d.setReg r u i w).evq = d.evq := rfl
@[simp] theorem Dev.setReg_evqSeq (d : Dev) (r : RegId) (u i : Nat) (w : Word) : (d.setReg r u i w).evqSeq = d.evqSeq := rfl
@[simp] theorem Dev.setReg_evqIssued (d : Dev) (r : RegId) (u i : Nat) (w : Word) : (d.setReg r u i w).evqIssued = d.evqIssued := rfl
@[simp] theorem Dev.setReg_irqPend (d : Dev) (r : RegId) (u i : Nat) (w : Word) : (d.setReg r u i w).irqPend = d.irqPend := rfl
@[simp] theorem Dev.setReg_modGap (d : Dev) (r : RegId) (u i : Nat) (w : Word) : (d.setReg r u i w).modGap = d.modGap := rfl
@[simp] theorem Dev.setReg_pools (d : Dev) (r : RegId) (u i : Nat) (w : Word) : (d.setReg r u i w).pools = d.pools := rfl
@[simp] theorem Dev.setReg_mails (d : Dev) (r : RegId) (u i : Nat) (w : Word) : (d.setReg r u i w).mails = d.mails := rfl
@[simp] theorem Dev.setReg_taps (d : Dev) (r : RegId) (u i : Nat) (w : Word) : (d.setReg r u i w).taps = d.taps := rfl
@[simp] theorem Dev.setReg_rings (d : Dev) (r : RegId) (u i : Nat) (w : Word) : (d.setReg r u i w).rings = d.rings := rfl
@[simp] theorem Dev.setReg_movers (d : Dev) (r : RegId) (u i : Nat) (w : Word) : (d.setReg r u i w).movers = d.movers := rfl
@[simp] theorem Dev.setReg_clocks (d : Dev) (r : RegId) (u i : Nat) (w : Word) : (d.setReg r u i w).clocks = d.clocks := rfl
@[simp] theorem Dev.setReg_magPorts (d : Dev) (r : RegId) (u i : Nat) (w : Word) : (d.setReg r u i w).magPorts = d.magPorts := rfl
@[simp] theorem Dev.setReg_mortars (d : Dev) (r : RegId) (u i : Nat) (w : Word) : (d.setReg r u i w).mortars = d.mortars := rfl
@[simp] theorem Dev.setReg_fen (d : Dev) (r : RegId) (u i : Nat) (w : Word) : (d.setReg r u i w).fen = d.fen := rfl
@[simp] theorem Dev.setReg_hist (d : Dev) (r : RegId) (u i : Nat) (w : Word) : (d.setReg r u i w).hist = d.hist := rfl
@[simp] theorem Dev.setReg_heldRecs (d : Dev) (r : RegId) (u i : Nat) (w : Word) : (d.setReg r u i w).heldRecs = d.heldRecs := rfl
@[simp] theorem Dev.setReg_failedStarts (d : Dev) (r : RegId) (u i : Nat) (w : Word) : (d.setReg r u i w).failedStarts = d.failedStarts := rfl
@[simp] theorem Dev.setReg_flash (d : Dev) (r : RegId) (u i : Nat) (w : Word) : (d.setReg r u i w).flash = d.flash := rfl
@[simp] theorem Dev.setReg_flashRun (d : Dev) (r : RegId) (u i : Nat) (w : Word) : (d.setReg r u i w).flashRun = d.flashRun := rfl
@[simp] theorem Dev.setReg_eq (d : Dev) (r : RegId) (u i : Nat) (w : Word) : (d.setReg r u i w).eq = d.eq := rfl
@[simp] theorem Dev.setReg_banks (d : Dev) (r : RegId) (u i : Nat) (w : Word) : (d.setReg r u i w).banks = d.banks := rfl
@[simp] theorem Dev.setReg_away (d : Dev) (r : RegId) (u i : Nat) (w : Word) : (d.setReg r u i w).away = d.away := rfl
@[simp] theorem Dev.setReg_mcLoad (d : Dev) (r : RegId) (u i : Nat) (w : Word) : (d.setReg r u i w).mcLoad = d.mcLoad := rfl
@[simp] theorem Dev.setReg_asleep (d : Dev) (r : RegId) (u i : Nat) (w : Word) : (d.setReg r u i w).asleep = d.asleep := rfl
@[simp] theorem Dev.setReg_scanIr (d : Dev) (r : RegId) (u i : Nat) (w : Word) : (d.setReg r u i w).scanIr = d.scanIr := rfl
@[simp] theorem Dev.setReg_monFrom (d : Dev) (r : RegId) (u i : Nat) (w : Word) : (d.setReg r u i w).monFrom = d.monFrom := rfl
@[simp] theorem Dev.setReg_reloaded (d : Dev) (r : RegId) (u i : Nat) (w : Word) : (d.setReg r u i w).reloaded = d.reloaded := rfl
@[simp] theorem Dev.setReg_nextId (d : Dev) (r : RegId) (u i : Nat) (w : Word) : (d.setReg r u i w).nextId = d.nextId := rfl
@[simp] theorem Dev.setReg_free (d : Dev) (r : RegId) (u i : Nat) (w : Word) : (d.setReg r u i w).free = d.free := rfl
@[simp] theorem Dev.setReg_out (d : Dev) (r : RegId) (u i : Nat) (w : Word) : (d.setReg r u i w).out = d.out := rfl
@[simp] theorem Dev.setReg_notes (d : Dev) (r : RegId) (u i : Nat) (w : Word) : (d.setReg r u i w).notes = d.notes := rfl

/-! Dev.setFld -/

@[simp] theorem Dev.setFld_variant (d : Dev) (f : Fld) (u i v : Nat) : (d.setFld f u i v).variant = d.variant := rfl
@[simp] theorem Dev.setFld_active (d : Dev) (f : Fld) (u i v : Nat) : (d.setFld f u i v).active = d.active := rfl
@[simp] theorem Dev.setFld_leadCopy (d : Dev) (f : Fld) (u i v : Nat) : (d.setFld f u i v).leadCopy = d.leadCopy := rfl
@[simp] theorem Dev.setFld_cfgLog (d : Dev) (f : Fld) (u i v : Nat) : (d.setFld f u i v).cfgLog = d.cfgLog := rfl
@[simp] theorem Dev.setFld_applied (d : Dev) (f : Fld) (u i v : Nat) : (d.setFld f u i v).applied = d.applied := rfl
@[simp] theorem Dev.setFld_heldCfg (d : Dev) (f : Fld) (u i v : Nat) : (d.setFld f u i v).heldCfg = d.heldCfg := rfl
@[simp] theorem Dev.setFld_lead (d : Dev) (f : Fld) (u i v : Nat) : (d.setFld f u i v).lead = d.lead := rfl
@[simp] theorem Dev.setFld_homes (d : Dev) (f : Fld) (u i v : Nat) : (d.setFld f u i v).homes = d.homes := rfl
@[simp] theorem Dev.setFld_mirrors (d : Dev) (f : Fld) (u i v : Nat) : (d.setFld f u i v).mirrors = d.mirrors := rfl
@[simp] theorem Dev.setFld_heldReads (d : Dev) (f : Fld) (u i v : Nat) : (d.setFld f u i v).heldReads = d.heldReads := rfl
@[simp] theorem Dev.setFld_activeUpsets (d : Dev) (f : Fld) (u i v : Nat) : (d.setFld f u i v).activeUpsets = d.activeUpsets := rfl
@[simp] theorem Dev.setFld_sealStop (d : Dev) (f : Fld) (u i v : Nat) : (d.setFld f u i v).sealStop = d.sealStop := rfl
@[simp] theorem Dev.setFld_margins (d : Dev) (f : Fld) (u i v : Nat) : (d.setFld f u i v).margins = d.margins := rfl
@[simp] theorem Dev.setFld_awaiting (d : Dev) (f : Fld) (u i v : Nat) : (d.setFld f u i v).awaiting = d.awaiting := rfl
@[simp] theorem Dev.setFld_stranded (d : Dev) (f : Fld) (u i v : Nat) : (d.setFld f u i v).stranded = d.stranded := rfl
@[simp] theorem Dev.setFld_modPend (d : Dev) (f : Fld) (u i v : Nat) : (d.setFld f u i v).modPend = d.modPend := rfl
@[simp] theorem Dev.setFld_ran (d : Dev) (f : Fld) (u i v : Nat) : (d.setFld f u i v).ran = d.ran := rfl
@[simp] theorem Dev.setFld_monHits (d : Dev) (f : Fld) (u i v : Nat) : (d.setFld f u i v).monHits = d.monHits := rfl
@[simp] theorem Dev.setFld_lost (d : Dev) (f : Fld) (u i v : Nat) : (d.setFld f u i v).lost = d.lost := rfl
@[simp] theorem Dev.setFld_shadows (d : Dev) (f : Fld) (u i v : Nat) : (d.setFld f u i v).shadows = d.shadows := rfl
@[simp] theorem Dev.setFld_lastPath (d : Dev) (f : Fld) (u i v : Nat) : (d.setFld f u i v).lastPath = d.lastPath := rfl
@[simp] theorem Dev.setFld_usCount (d : Dev) (f : Fld) (u i v : Nat) : (d.setFld f u i v).usCount = d.usCount := rfl
@[simp] theorem Dev.setFld_pcie (d : Dev) (f : Fld) (u i v : Nat) : (d.setFld f u i v).pcie = d.pcie := rfl
@[simp] theorem Dev.setFld_cfgSpace (d : Dev) (f : Fld) (u i v : Nat) : (d.setFld f u i v).cfgSpace = d.cfgSpace := rfl
@[simp] theorem Dev.setFld_ports (d : Dev) (f : Fld) (u i v : Nat) : (d.setFld f u i v).ports = d.ports := rfl
@[simp] theorem Dev.setFld_sems (d : Dev) (f : Fld) (u i v : Nat) : (d.setFld f u i v).sems = d.sems := rfl
@[simp] theorem Dev.setFld_tcache (d : Dev) (f : Fld) (u i v : Nat) : (d.setFld f u i v).tcache = d.tcache := rfl
@[simp] theorem Dev.setFld_queues (d : Dev) (f : Fld) (u i v : Nat) : (d.setFld f u i v).queues = d.queues := rfl
@[simp] theorem Dev.setFld_evq (d : Dev) (f : Fld) (u i v : Nat) : (d.setFld f u i v).evq = d.evq := rfl
@[simp] theorem Dev.setFld_evqSeq (d : Dev) (f : Fld) (u i v : Nat) : (d.setFld f u i v).evqSeq = d.evqSeq := rfl
@[simp] theorem Dev.setFld_evqIssued (d : Dev) (f : Fld) (u i v : Nat) : (d.setFld f u i v).evqIssued = d.evqIssued := rfl
@[simp] theorem Dev.setFld_irqPend (d : Dev) (f : Fld) (u i v : Nat) : (d.setFld f u i v).irqPend = d.irqPend := rfl
@[simp] theorem Dev.setFld_modGap (d : Dev) (f : Fld) (u i v : Nat) : (d.setFld f u i v).modGap = d.modGap := rfl
@[simp] theorem Dev.setFld_pools (d : Dev) (f : Fld) (u i v : Nat) : (d.setFld f u i v).pools = d.pools := rfl
@[simp] theorem Dev.setFld_mails (d : Dev) (f : Fld) (u i v : Nat) : (d.setFld f u i v).mails = d.mails := rfl
@[simp] theorem Dev.setFld_taps (d : Dev) (f : Fld) (u i v : Nat) : (d.setFld f u i v).taps = d.taps := rfl
@[simp] theorem Dev.setFld_rings (d : Dev) (f : Fld) (u i v : Nat) : (d.setFld f u i v).rings = d.rings := rfl
@[simp] theorem Dev.setFld_movers (d : Dev) (f : Fld) (u i v : Nat) : (d.setFld f u i v).movers = d.movers := rfl
@[simp] theorem Dev.setFld_clocks (d : Dev) (f : Fld) (u i v : Nat) : (d.setFld f u i v).clocks = d.clocks := rfl
@[simp] theorem Dev.setFld_magPorts (d : Dev) (f : Fld) (u i v : Nat) : (d.setFld f u i v).magPorts = d.magPorts := rfl
@[simp] theorem Dev.setFld_mortars (d : Dev) (f : Fld) (u i v : Nat) : (d.setFld f u i v).mortars = d.mortars := rfl
@[simp] theorem Dev.setFld_fen (d : Dev) (f : Fld) (u i v : Nat) : (d.setFld f u i v).fen = d.fen := rfl
@[simp] theorem Dev.setFld_hist (d : Dev) (f : Fld) (u i v : Nat) : (d.setFld f u i v).hist = d.hist := rfl
@[simp] theorem Dev.setFld_heldRecs (d : Dev) (f : Fld) (u i v : Nat) : (d.setFld f u i v).heldRecs = d.heldRecs := rfl
@[simp] theorem Dev.setFld_failedStarts (d : Dev) (f : Fld) (u i v : Nat) : (d.setFld f u i v).failedStarts = d.failedStarts := rfl
@[simp] theorem Dev.setFld_flash (d : Dev) (f : Fld) (u i v : Nat) : (d.setFld f u i v).flash = d.flash := rfl
@[simp] theorem Dev.setFld_flashRun (d : Dev) (f : Fld) (u i v : Nat) : (d.setFld f u i v).flashRun = d.flashRun := rfl
@[simp] theorem Dev.setFld_eq (d : Dev) (f : Fld) (u i v : Nat) : (d.setFld f u i v).eq = d.eq := rfl
@[simp] theorem Dev.setFld_banks (d : Dev) (f : Fld) (u i v : Nat) : (d.setFld f u i v).banks = d.banks := rfl
@[simp] theorem Dev.setFld_away (d : Dev) (f : Fld) (u i v : Nat) : (d.setFld f u i v).away = d.away := rfl
@[simp] theorem Dev.setFld_mcLoad (d : Dev) (f : Fld) (u i v : Nat) : (d.setFld f u i v).mcLoad = d.mcLoad := rfl
@[simp] theorem Dev.setFld_asleep (d : Dev) (f : Fld) (u i v : Nat) : (d.setFld f u i v).asleep = d.asleep := rfl
@[simp] theorem Dev.setFld_scanIr (d : Dev) (f : Fld) (u i v : Nat) : (d.setFld f u i v).scanIr = d.scanIr := rfl
@[simp] theorem Dev.setFld_monFrom (d : Dev) (f : Fld) (u i v : Nat) : (d.setFld f u i v).monFrom = d.monFrom := rfl
@[simp] theorem Dev.setFld_reloaded (d : Dev) (f : Fld) (u i v : Nat) : (d.setFld f u i v).reloaded = d.reloaded := rfl
@[simp] theorem Dev.setFld_nextId (d : Dev) (f : Fld) (u i v : Nat) : (d.setFld f u i v).nextId = d.nextId := rfl
@[simp] theorem Dev.setFld_free (d : Dev) (f : Fld) (u i v : Nat) : (d.setFld f u i v).free = d.free := rfl
@[simp] theorem Dev.setFld_out (d : Dev) (f : Fld) (u i v : Nat) : (d.setFld f u i v).out = d.out := rfl
@[simp] theorem Dev.setFld_notes (d : Dev) (f : Fld) (u i v : Nat) : (d.setFld f u i v).notes = d.notes := rfl

/-! Dev.bump -/

@[simp] theorem Dev.bump_variant (d : Dev) (f : Fld) (u i : Nat) : (d.bump f u i).variant = d.variant := rfl
@[simp] theorem Dev.bump_active (d : Dev) (f : Fld) (u i : Nat) : (d.bump f u i).active = d.active := rfl
@[simp] theorem Dev.bump_leadCopy (d : Dev) (f : Fld) (u i : Nat) : (d.bump f u i).leadCopy = d.leadCopy := rfl
@[simp] theorem Dev.bump_cfgLog (d : Dev) (f : Fld) (u i : Nat) : (d.bump f u i).cfgLog = d.cfgLog := rfl
@[simp] theorem Dev.bump_applied (d : Dev) (f : Fld) (u i : Nat) : (d.bump f u i).applied = d.applied := rfl
@[simp] theorem Dev.bump_heldCfg (d : Dev) (f : Fld) (u i : Nat) : (d.bump f u i).heldCfg = d.heldCfg := rfl
@[simp] theorem Dev.bump_lead (d : Dev) (f : Fld) (u i : Nat) : (d.bump f u i).lead = d.lead := rfl
@[simp] theorem Dev.bump_homes (d : Dev) (f : Fld) (u i : Nat) : (d.bump f u i).homes = d.homes := rfl
@[simp] theorem Dev.bump_mirrors (d : Dev) (f : Fld) (u i : Nat) : (d.bump f u i).mirrors = d.mirrors := rfl
@[simp] theorem Dev.bump_heldReads (d : Dev) (f : Fld) (u i : Nat) : (d.bump f u i).heldReads = d.heldReads := rfl
@[simp] theorem Dev.bump_activeUpsets (d : Dev) (f : Fld) (u i : Nat) : (d.bump f u i).activeUpsets = d.activeUpsets := rfl
@[simp] theorem Dev.bump_sealStop (d : Dev) (f : Fld) (u i : Nat) : (d.bump f u i).sealStop = d.sealStop := rfl
@[simp] theorem Dev.bump_margins (d : Dev) (f : Fld) (u i : Nat) : (d.bump f u i).margins = d.margins := rfl
@[simp] theorem Dev.bump_awaiting (d : Dev) (f : Fld) (u i : Nat) : (d.bump f u i).awaiting = d.awaiting := rfl
@[simp] theorem Dev.bump_stranded (d : Dev) (f : Fld) (u i : Nat) : (d.bump f u i).stranded = d.stranded := rfl
@[simp] theorem Dev.bump_modPend (d : Dev) (f : Fld) (u i : Nat) : (d.bump f u i).modPend = d.modPend := rfl
@[simp] theorem Dev.bump_ran (d : Dev) (f : Fld) (u i : Nat) : (d.bump f u i).ran = d.ran := rfl
@[simp] theorem Dev.bump_monHits (d : Dev) (f : Fld) (u i : Nat) : (d.bump f u i).monHits = d.monHits := rfl
@[simp] theorem Dev.bump_lost (d : Dev) (f : Fld) (u i : Nat) : (d.bump f u i).lost = d.lost := rfl
@[simp] theorem Dev.bump_shadows (d : Dev) (f : Fld) (u i : Nat) : (d.bump f u i).shadows = d.shadows := rfl
@[simp] theorem Dev.bump_lastPath (d : Dev) (f : Fld) (u i : Nat) : (d.bump f u i).lastPath = d.lastPath := rfl
@[simp] theorem Dev.bump_usCount (d : Dev) (f : Fld) (u i : Nat) : (d.bump f u i).usCount = d.usCount := rfl
@[simp] theorem Dev.bump_pcie (d : Dev) (f : Fld) (u i : Nat) : (d.bump f u i).pcie = d.pcie := rfl
@[simp] theorem Dev.bump_cfgSpace (d : Dev) (f : Fld) (u i : Nat) : (d.bump f u i).cfgSpace = d.cfgSpace := rfl
@[simp] theorem Dev.bump_ports (d : Dev) (f : Fld) (u i : Nat) : (d.bump f u i).ports = d.ports := rfl
@[simp] theorem Dev.bump_sems (d : Dev) (f : Fld) (u i : Nat) : (d.bump f u i).sems = d.sems := rfl
@[simp] theorem Dev.bump_tcache (d : Dev) (f : Fld) (u i : Nat) : (d.bump f u i).tcache = d.tcache := rfl
@[simp] theorem Dev.bump_queues (d : Dev) (f : Fld) (u i : Nat) : (d.bump f u i).queues = d.queues := rfl
@[simp] theorem Dev.bump_evq (d : Dev) (f : Fld) (u i : Nat) : (d.bump f u i).evq = d.evq := rfl
@[simp] theorem Dev.bump_evqSeq (d : Dev) (f : Fld) (u i : Nat) : (d.bump f u i).evqSeq = d.evqSeq := rfl
@[simp] theorem Dev.bump_evqIssued (d : Dev) (f : Fld) (u i : Nat) : (d.bump f u i).evqIssued = d.evqIssued := rfl
@[simp] theorem Dev.bump_irqPend (d : Dev) (f : Fld) (u i : Nat) : (d.bump f u i).irqPend = d.irqPend := rfl
@[simp] theorem Dev.bump_modGap (d : Dev) (f : Fld) (u i : Nat) : (d.bump f u i).modGap = d.modGap := rfl
@[simp] theorem Dev.bump_pools (d : Dev) (f : Fld) (u i : Nat) : (d.bump f u i).pools = d.pools := rfl
@[simp] theorem Dev.bump_mails (d : Dev) (f : Fld) (u i : Nat) : (d.bump f u i).mails = d.mails := rfl
@[simp] theorem Dev.bump_taps (d : Dev) (f : Fld) (u i : Nat) : (d.bump f u i).taps = d.taps := rfl
@[simp] theorem Dev.bump_rings (d : Dev) (f : Fld) (u i : Nat) : (d.bump f u i).rings = d.rings := rfl
@[simp] theorem Dev.bump_movers (d : Dev) (f : Fld) (u i : Nat) : (d.bump f u i).movers = d.movers := rfl
@[simp] theorem Dev.bump_clocks (d : Dev) (f : Fld) (u i : Nat) : (d.bump f u i).clocks = d.clocks := rfl
@[simp] theorem Dev.bump_magPorts (d : Dev) (f : Fld) (u i : Nat) : (d.bump f u i).magPorts = d.magPorts := rfl
@[simp] theorem Dev.bump_mortars (d : Dev) (f : Fld) (u i : Nat) : (d.bump f u i).mortars = d.mortars := rfl
@[simp] theorem Dev.bump_fen (d : Dev) (f : Fld) (u i : Nat) : (d.bump f u i).fen = d.fen := rfl
@[simp] theorem Dev.bump_hist (d : Dev) (f : Fld) (u i : Nat) : (d.bump f u i).hist = d.hist := rfl
@[simp] theorem Dev.bump_heldRecs (d : Dev) (f : Fld) (u i : Nat) : (d.bump f u i).heldRecs = d.heldRecs := rfl
@[simp] theorem Dev.bump_failedStarts (d : Dev) (f : Fld) (u i : Nat) : (d.bump f u i).failedStarts = d.failedStarts := rfl
@[simp] theorem Dev.bump_flash (d : Dev) (f : Fld) (u i : Nat) : (d.bump f u i).flash = d.flash := rfl
@[simp] theorem Dev.bump_flashRun (d : Dev) (f : Fld) (u i : Nat) : (d.bump f u i).flashRun = d.flashRun := rfl
@[simp] theorem Dev.bump_eq (d : Dev) (f : Fld) (u i : Nat) : (d.bump f u i).eq = d.eq := rfl
@[simp] theorem Dev.bump_banks (d : Dev) (f : Fld) (u i : Nat) : (d.bump f u i).banks = d.banks := rfl
@[simp] theorem Dev.bump_away (d : Dev) (f : Fld) (u i : Nat) : (d.bump f u i).away = d.away := rfl
@[simp] theorem Dev.bump_mcLoad (d : Dev) (f : Fld) (u i : Nat) : (d.bump f u i).mcLoad = d.mcLoad := rfl
@[simp] theorem Dev.bump_asleep (d : Dev) (f : Fld) (u i : Nat) : (d.bump f u i).asleep = d.asleep := rfl
@[simp] theorem Dev.bump_scanIr (d : Dev) (f : Fld) (u i : Nat) : (d.bump f u i).scanIr = d.scanIr := rfl
@[simp] theorem Dev.bump_monFrom (d : Dev) (f : Fld) (u i : Nat) : (d.bump f u i).monFrom = d.monFrom := rfl
@[simp] theorem Dev.bump_reloaded (d : Dev) (f : Fld) (u i : Nat) : (d.bump f u i).reloaded = d.reloaded := rfl
@[simp] theorem Dev.bump_nextId (d : Dev) (f : Fld) (u i : Nat) : (d.bump f u i).nextId = d.nextId := rfl
@[simp] theorem Dev.bump_free (d : Dev) (f : Fld) (u i : Nat) : (d.bump f u i).free = d.free := rfl
@[simp] theorem Dev.bump_out (d : Dev) (f : Fld) (u i : Nat) : (d.bump f u i).out = d.out := rfl
@[simp] theorem Dev.bump_notes (d : Dev) (f : Fld) (u i : Nat) : (d.bump f u i).notes = d.notes := rfl

/-! Dev.setPair -/

@[simp] theorem Dev.setPair_variant (d : Dev) (lo hi : RegId) (u i v : Nat) : (d.setPair lo hi u i v).variant = d.variant := rfl
@[simp] theorem Dev.setPair_active (d : Dev) (lo hi : RegId) (u i v : Nat) : (d.setPair lo hi u i v).active = d.active := rfl
@[simp] theorem Dev.setPair_leadCopy (d : Dev) (lo hi : RegId) (u i v : Nat) : (d.setPair lo hi u i v).leadCopy = d.leadCopy := rfl
@[simp] theorem Dev.setPair_cfgLog (d : Dev) (lo hi : RegId) (u i v : Nat) : (d.setPair lo hi u i v).cfgLog = d.cfgLog := rfl
@[simp] theorem Dev.setPair_applied (d : Dev) (lo hi : RegId) (u i v : Nat) : (d.setPair lo hi u i v).applied = d.applied := rfl
@[simp] theorem Dev.setPair_heldCfg (d : Dev) (lo hi : RegId) (u i v : Nat) : (d.setPair lo hi u i v).heldCfg = d.heldCfg := rfl
@[simp] theorem Dev.setPair_lead (d : Dev) (lo hi : RegId) (u i v : Nat) : (d.setPair lo hi u i v).lead = d.lead := rfl
@[simp] theorem Dev.setPair_homes (d : Dev) (lo hi : RegId) (u i v : Nat) : (d.setPair lo hi u i v).homes = d.homes := rfl
@[simp] theorem Dev.setPair_mirrors (d : Dev) (lo hi : RegId) (u i v : Nat) : (d.setPair lo hi u i v).mirrors = d.mirrors := rfl
@[simp] theorem Dev.setPair_heldReads (d : Dev) (lo hi : RegId) (u i v : Nat) : (d.setPair lo hi u i v).heldReads = d.heldReads := rfl
@[simp] theorem Dev.setPair_activeUpsets (d : Dev) (lo hi : RegId) (u i v : Nat) : (d.setPair lo hi u i v).activeUpsets = d.activeUpsets := rfl
@[simp] theorem Dev.setPair_sealStop (d : Dev) (lo hi : RegId) (u i v : Nat) : (d.setPair lo hi u i v).sealStop = d.sealStop := rfl
@[simp] theorem Dev.setPair_margins (d : Dev) (lo hi : RegId) (u i v : Nat) : (d.setPair lo hi u i v).margins = d.margins := rfl
@[simp] theorem Dev.setPair_awaiting (d : Dev) (lo hi : RegId) (u i v : Nat) : (d.setPair lo hi u i v).awaiting = d.awaiting := rfl
@[simp] theorem Dev.setPair_stranded (d : Dev) (lo hi : RegId) (u i v : Nat) : (d.setPair lo hi u i v).stranded = d.stranded := rfl
@[simp] theorem Dev.setPair_modPend (d : Dev) (lo hi : RegId) (u i v : Nat) : (d.setPair lo hi u i v).modPend = d.modPend := rfl
@[simp] theorem Dev.setPair_ran (d : Dev) (lo hi : RegId) (u i v : Nat) : (d.setPair lo hi u i v).ran = d.ran := rfl
@[simp] theorem Dev.setPair_monHits (d : Dev) (lo hi : RegId) (u i v : Nat) : (d.setPair lo hi u i v).monHits = d.monHits := rfl
@[simp] theorem Dev.setPair_lost (d : Dev) (lo hi : RegId) (u i v : Nat) : (d.setPair lo hi u i v).lost = d.lost := rfl
@[simp] theorem Dev.setPair_shadows (d : Dev) (lo hi : RegId) (u i v : Nat) : (d.setPair lo hi u i v).shadows = d.shadows := rfl
@[simp] theorem Dev.setPair_lastPath (d : Dev) (lo hi : RegId) (u i v : Nat) : (d.setPair lo hi u i v).lastPath = d.lastPath := rfl
@[simp] theorem Dev.setPair_usCount (d : Dev) (lo hi : RegId) (u i v : Nat) : (d.setPair lo hi u i v).usCount = d.usCount := rfl
@[simp] theorem Dev.setPair_pcie (d : Dev) (lo hi : RegId) (u i v : Nat) : (d.setPair lo hi u i v).pcie = d.pcie := rfl
@[simp] theorem Dev.setPair_cfgSpace (d : Dev) (lo hi : RegId) (u i v : Nat) : (d.setPair lo hi u i v).cfgSpace = d.cfgSpace := rfl
@[simp] theorem Dev.setPair_ports (d : Dev) (lo hi : RegId) (u i v : Nat) : (d.setPair lo hi u i v).ports = d.ports := rfl
@[simp] theorem Dev.setPair_sems (d : Dev) (lo hi : RegId) (u i v : Nat) : (d.setPair lo hi u i v).sems = d.sems := rfl
@[simp] theorem Dev.setPair_tcache (d : Dev) (lo hi : RegId) (u i v : Nat) : (d.setPair lo hi u i v).tcache = d.tcache := rfl
@[simp] theorem Dev.setPair_queues (d : Dev) (lo hi : RegId) (u i v : Nat) : (d.setPair lo hi u i v).queues = d.queues := rfl
@[simp] theorem Dev.setPair_evq (d : Dev) (lo hi : RegId) (u i v : Nat) : (d.setPair lo hi u i v).evq = d.evq := rfl
@[simp] theorem Dev.setPair_evqSeq (d : Dev) (lo hi : RegId) (u i v : Nat) : (d.setPair lo hi u i v).evqSeq = d.evqSeq := rfl
@[simp] theorem Dev.setPair_evqIssued (d : Dev) (lo hi : RegId) (u i v : Nat) : (d.setPair lo hi u i v).evqIssued = d.evqIssued := rfl
@[simp] theorem Dev.setPair_irqPend (d : Dev) (lo hi : RegId) (u i v : Nat) : (d.setPair lo hi u i v).irqPend = d.irqPend := rfl
@[simp] theorem Dev.setPair_modGap (d : Dev) (lo hi : RegId) (u i v : Nat) : (d.setPair lo hi u i v).modGap = d.modGap := rfl
@[simp] theorem Dev.setPair_pools (d : Dev) (lo hi : RegId) (u i v : Nat) : (d.setPair lo hi u i v).pools = d.pools := rfl
@[simp] theorem Dev.setPair_mails (d : Dev) (lo hi : RegId) (u i v : Nat) : (d.setPair lo hi u i v).mails = d.mails := rfl
@[simp] theorem Dev.setPair_taps (d : Dev) (lo hi : RegId) (u i v : Nat) : (d.setPair lo hi u i v).taps = d.taps := rfl
@[simp] theorem Dev.setPair_rings (d : Dev) (lo hi : RegId) (u i v : Nat) : (d.setPair lo hi u i v).rings = d.rings := rfl
@[simp] theorem Dev.setPair_movers (d : Dev) (lo hi : RegId) (u i v : Nat) : (d.setPair lo hi u i v).movers = d.movers := rfl
@[simp] theorem Dev.setPair_clocks (d : Dev) (lo hi : RegId) (u i v : Nat) : (d.setPair lo hi u i v).clocks = d.clocks := rfl
@[simp] theorem Dev.setPair_magPorts (d : Dev) (lo hi : RegId) (u i v : Nat) : (d.setPair lo hi u i v).magPorts = d.magPorts := rfl
@[simp] theorem Dev.setPair_mortars (d : Dev) (lo hi : RegId) (u i v : Nat) : (d.setPair lo hi u i v).mortars = d.mortars := rfl
@[simp] theorem Dev.setPair_fen (d : Dev) (lo hi : RegId) (u i v : Nat) : (d.setPair lo hi u i v).fen = d.fen := rfl
@[simp] theorem Dev.setPair_hist (d : Dev) (lo hi : RegId) (u i v : Nat) : (d.setPair lo hi u i v).hist = d.hist := rfl
@[simp] theorem Dev.setPair_heldRecs (d : Dev) (lo hi : RegId) (u i v : Nat) : (d.setPair lo hi u i v).heldRecs = d.heldRecs := rfl
@[simp] theorem Dev.setPair_failedStarts (d : Dev) (lo hi : RegId) (u i v : Nat) : (d.setPair lo hi u i v).failedStarts = d.failedStarts := rfl
@[simp] theorem Dev.setPair_flash (d : Dev) (lo hi : RegId) (u i v : Nat) : (d.setPair lo hi u i v).flash = d.flash := rfl
@[simp] theorem Dev.setPair_flashRun (d : Dev) (lo hi : RegId) (u i v : Nat) : (d.setPair lo hi u i v).flashRun = d.flashRun := rfl
@[simp] theorem Dev.setPair_eq (d : Dev) (lo hi : RegId) (u i v : Nat) : (d.setPair lo hi u i v).eq = d.eq := rfl
@[simp] theorem Dev.setPair_banks (d : Dev) (lo hi : RegId) (u i v : Nat) : (d.setPair lo hi u i v).banks = d.banks := rfl
@[simp] theorem Dev.setPair_away (d : Dev) (lo hi : RegId) (u i v : Nat) : (d.setPair lo hi u i v).away = d.away := rfl
@[simp] theorem Dev.setPair_mcLoad (d : Dev) (lo hi : RegId) (u i v : Nat) : (d.setPair lo hi u i v).mcLoad = d.mcLoad := rfl
@[simp] theorem Dev.setPair_asleep (d : Dev) (lo hi : RegId) (u i v : Nat) : (d.setPair lo hi u i v).asleep = d.asleep := rfl
@[simp] theorem Dev.setPair_scanIr (d : Dev) (lo hi : RegId) (u i v : Nat) : (d.setPair lo hi u i v).scanIr = d.scanIr := rfl
@[simp] theorem Dev.setPair_monFrom (d : Dev) (lo hi : RegId) (u i v : Nat) : (d.setPair lo hi u i v).monFrom = d.monFrom := rfl
@[simp] theorem Dev.setPair_reloaded (d : Dev) (lo hi : RegId) (u i v : Nat) : (d.setPair lo hi u i v).reloaded = d.reloaded := rfl
@[simp] theorem Dev.setPair_nextId (d : Dev) (lo hi : RegId) (u i v : Nat) : (d.setPair lo hi u i v).nextId = d.nextId := rfl
@[simp] theorem Dev.setPair_free (d : Dev) (lo hi : RegId) (u i v : Nat) : (d.setPair lo hi u i v).free = d.free := rfl
@[simp] theorem Dev.setPair_out (d : Dev) (lo hi : RegId) (u i v : Nat) : (d.setPair lo hi u i v).out = d.out := rfl
@[simp] theorem Dev.setPair_notes (d : Dev) (lo hi : RegId) (u i v : Nat) : (d.setPair lo hi u i v).notes = d.notes := rfl

/-! Dev.emit -/

@[simp] theorem Dev.emit_variant (d : Dev) (o : Out) : (d.emit o).variant = d.variant := rfl
@[simp] theorem Dev.emit_regs (d : Dev) (o : Out) : (d.emit o).regs = d.regs := rfl
@[simp] theorem Dev.emit_active (d : Dev) (o : Out) : (d.emit o).active = d.active := rfl
@[simp] theorem Dev.emit_upsets (d : Dev) (o : Out) : (d.emit o).upsets = d.upsets := rfl
@[simp] theorem Dev.emit_leadCopy (d : Dev) (o : Out) : (d.emit o).leadCopy = d.leadCopy := rfl
@[simp] theorem Dev.emit_cfgLog (d : Dev) (o : Out) : (d.emit o).cfgLog = d.cfgLog := rfl
@[simp] theorem Dev.emit_applied (d : Dev) (o : Out) : (d.emit o).applied = d.applied := rfl
@[simp] theorem Dev.emit_heldCfg (d : Dev) (o : Out) : (d.emit o).heldCfg = d.heldCfg := rfl
@[simp] theorem Dev.emit_lead (d : Dev) (o : Out) : (d.emit o).lead = d.lead := rfl
@[simp] theorem Dev.emit_homes (d : Dev) (o : Out) : (d.emit o).homes = d.homes := rfl
@[simp] theorem Dev.emit_mirrors (d : Dev) (o : Out) : (d.emit o).mirrors = d.mirrors := rfl
@[simp] theorem Dev.emit_heldReads (d : Dev) (o : Out) : (d.emit o).heldReads = d.heldReads := rfl
@[simp] theorem Dev.emit_activeUpsets (d : Dev) (o : Out) : (d.emit o).activeUpsets = d.activeUpsets := rfl
@[simp] theorem Dev.emit_sealStop (d : Dev) (o : Out) : (d.emit o).sealStop = d.sealStop := rfl
@[simp] theorem Dev.emit_margins (d : Dev) (o : Out) : (d.emit o).margins = d.margins := rfl
@[simp] theorem Dev.emit_awaiting (d : Dev) (o : Out) : (d.emit o).awaiting = d.awaiting := rfl
@[simp] theorem Dev.emit_stranded (d : Dev) (o : Out) : (d.emit o).stranded = d.stranded := rfl
@[simp] theorem Dev.emit_modPend (d : Dev) (o : Out) : (d.emit o).modPend = d.modPend := rfl
@[simp] theorem Dev.emit_ran (d : Dev) (o : Out) : (d.emit o).ran = d.ran := rfl
@[simp] theorem Dev.emit_monHits (d : Dev) (o : Out) : (d.emit o).monHits = d.monHits := rfl
@[simp] theorem Dev.emit_lost (d : Dev) (o : Out) : (d.emit o).lost = d.lost := rfl
@[simp] theorem Dev.emit_shadows (d : Dev) (o : Out) : (d.emit o).shadows = d.shadows := rfl
@[simp] theorem Dev.emit_lastPath (d : Dev) (o : Out) : (d.emit o).lastPath = d.lastPath := rfl
@[simp] theorem Dev.emit_usCount (d : Dev) (o : Out) : (d.emit o).usCount = d.usCount := rfl
@[simp] theorem Dev.emit_pcie (d : Dev) (o : Out) : (d.emit o).pcie = d.pcie := rfl
@[simp] theorem Dev.emit_cfgSpace (d : Dev) (o : Out) : (d.emit o).cfgSpace = d.cfgSpace := rfl
@[simp] theorem Dev.emit_ports (d : Dev) (o : Out) : (d.emit o).ports = d.ports := rfl
@[simp] theorem Dev.emit_sems (d : Dev) (o : Out) : (d.emit o).sems = d.sems := rfl
@[simp] theorem Dev.emit_tcache (d : Dev) (o : Out) : (d.emit o).tcache = d.tcache := rfl
@[simp] theorem Dev.emit_queues (d : Dev) (o : Out) : (d.emit o).queues = d.queues := rfl
@[simp] theorem Dev.emit_evq (d : Dev) (o : Out) : (d.emit o).evq = d.evq := rfl
@[simp] theorem Dev.emit_evqSeq (d : Dev) (o : Out) : (d.emit o).evqSeq = d.evqSeq := rfl
@[simp] theorem Dev.emit_evqIssued (d : Dev) (o : Out) : (d.emit o).evqIssued = d.evqIssued := rfl
@[simp] theorem Dev.emit_irqPend (d : Dev) (o : Out) : (d.emit o).irqPend = d.irqPend := rfl
@[simp] theorem Dev.emit_modGap (d : Dev) (o : Out) : (d.emit o).modGap = d.modGap := rfl
@[simp] theorem Dev.emit_pools (d : Dev) (o : Out) : (d.emit o).pools = d.pools := rfl
@[simp] theorem Dev.emit_mails (d : Dev) (o : Out) : (d.emit o).mails = d.mails := rfl
@[simp] theorem Dev.emit_taps (d : Dev) (o : Out) : (d.emit o).taps = d.taps := rfl
@[simp] theorem Dev.emit_rings (d : Dev) (o : Out) : (d.emit o).rings = d.rings := rfl
@[simp] theorem Dev.emit_movers (d : Dev) (o : Out) : (d.emit o).movers = d.movers := rfl
@[simp] theorem Dev.emit_clocks (d : Dev) (o : Out) : (d.emit o).clocks = d.clocks := rfl
@[simp] theorem Dev.emit_magPorts (d : Dev) (o : Out) : (d.emit o).magPorts = d.magPorts := rfl
@[simp] theorem Dev.emit_mortars (d : Dev) (o : Out) : (d.emit o).mortars = d.mortars := rfl
@[simp] theorem Dev.emit_fen (d : Dev) (o : Out) : (d.emit o).fen = d.fen := rfl
@[simp] theorem Dev.emit_hist (d : Dev) (o : Out) : (d.emit o).hist = d.hist := rfl
@[simp] theorem Dev.emit_heldRecs (d : Dev) (o : Out) : (d.emit o).heldRecs = d.heldRecs := rfl
@[simp] theorem Dev.emit_failedStarts (d : Dev) (o : Out) : (d.emit o).failedStarts = d.failedStarts := rfl
@[simp] theorem Dev.emit_flash (d : Dev) (o : Out) : (d.emit o).flash = d.flash := rfl
@[simp] theorem Dev.emit_flashRun (d : Dev) (o : Out) : (d.emit o).flashRun = d.flashRun := rfl
@[simp] theorem Dev.emit_eq (d : Dev) (o : Out) : (d.emit o).eq = d.eq := rfl
@[simp] theorem Dev.emit_banks (d : Dev) (o : Out) : (d.emit o).banks = d.banks := rfl
@[simp] theorem Dev.emit_away (d : Dev) (o : Out) : (d.emit o).away = d.away := rfl
@[simp] theorem Dev.emit_mcLoad (d : Dev) (o : Out) : (d.emit o).mcLoad = d.mcLoad := rfl
@[simp] theorem Dev.emit_asleep (d : Dev) (o : Out) : (d.emit o).asleep = d.asleep := rfl
@[simp] theorem Dev.emit_scanIr (d : Dev) (o : Out) : (d.emit o).scanIr = d.scanIr := rfl
@[simp] theorem Dev.emit_monFrom (d : Dev) (o : Out) : (d.emit o).monFrom = d.monFrom := rfl
@[simp] theorem Dev.emit_reloaded (d : Dev) (o : Out) : (d.emit o).reloaded = d.reloaded := rfl
@[simp] theorem Dev.emit_nextId (d : Dev) (o : Out) : (d.emit o).nextId = d.nextId := rfl
@[simp] theorem Dev.emit_free (d : Dev) (o : Out) : (d.emit o).free = d.free := rfl
@[simp] theorem Dev.emit_notes (d : Dev) (o : Out) : (d.emit o).notes = d.notes := rfl

/-! Dev.note -/

@[simp] theorem Dev.note_variant (d : Dev) (n : Note) : (d.note n).variant = d.variant := rfl
@[simp] theorem Dev.note_regs (d : Dev) (n : Note) : (d.note n).regs = d.regs := rfl
@[simp] theorem Dev.note_active (d : Dev) (n : Note) : (d.note n).active = d.active := rfl
@[simp] theorem Dev.note_upsets (d : Dev) (n : Note) : (d.note n).upsets = d.upsets := rfl
@[simp] theorem Dev.note_leadCopy (d : Dev) (n : Note) : (d.note n).leadCopy = d.leadCopy := rfl
@[simp] theorem Dev.note_cfgLog (d : Dev) (n : Note) : (d.note n).cfgLog = d.cfgLog := rfl
@[simp] theorem Dev.note_applied (d : Dev) (n : Note) : (d.note n).applied = d.applied := rfl
@[simp] theorem Dev.note_heldCfg (d : Dev) (n : Note) : (d.note n).heldCfg = d.heldCfg := rfl
@[simp] theorem Dev.note_lead (d : Dev) (n : Note) : (d.note n).lead = d.lead := rfl
@[simp] theorem Dev.note_homes (d : Dev) (n : Note) : (d.note n).homes = d.homes := rfl
@[simp] theorem Dev.note_mirrors (d : Dev) (n : Note) : (d.note n).mirrors = d.mirrors := rfl
@[simp] theorem Dev.note_heldReads (d : Dev) (n : Note) : (d.note n).heldReads = d.heldReads := rfl
@[simp] theorem Dev.note_activeUpsets (d : Dev) (n : Note) : (d.note n).activeUpsets = d.activeUpsets := rfl
@[simp] theorem Dev.note_sealStop (d : Dev) (n : Note) : (d.note n).sealStop = d.sealStop := rfl
@[simp] theorem Dev.note_margins (d : Dev) (n : Note) : (d.note n).margins = d.margins := rfl
@[simp] theorem Dev.note_awaiting (d : Dev) (n : Note) : (d.note n).awaiting = d.awaiting := rfl
@[simp] theorem Dev.note_stranded (d : Dev) (n : Note) : (d.note n).stranded = d.stranded := rfl
@[simp] theorem Dev.note_modPend (d : Dev) (n : Note) : (d.note n).modPend = d.modPend := rfl
@[simp] theorem Dev.note_ran (d : Dev) (n : Note) : (d.note n).ran = d.ran := rfl
@[simp] theorem Dev.note_monHits (d : Dev) (n : Note) : (d.note n).monHits = d.monHits := rfl
@[simp] theorem Dev.note_lost (d : Dev) (n : Note) : (d.note n).lost = d.lost := rfl
@[simp] theorem Dev.note_shadows (d : Dev) (n : Note) : (d.note n).shadows = d.shadows := rfl
@[simp] theorem Dev.note_lastPath (d : Dev) (n : Note) : (d.note n).lastPath = d.lastPath := rfl
@[simp] theorem Dev.note_usCount (d : Dev) (n : Note) : (d.note n).usCount = d.usCount := rfl
@[simp] theorem Dev.note_pcie (d : Dev) (n : Note) : (d.note n).pcie = d.pcie := rfl
@[simp] theorem Dev.note_cfgSpace (d : Dev) (n : Note) : (d.note n).cfgSpace = d.cfgSpace := rfl
@[simp] theorem Dev.note_ports (d : Dev) (n : Note) : (d.note n).ports = d.ports := rfl
@[simp] theorem Dev.note_sems (d : Dev) (n : Note) : (d.note n).sems = d.sems := rfl
@[simp] theorem Dev.note_tcache (d : Dev) (n : Note) : (d.note n).tcache = d.tcache := rfl
@[simp] theorem Dev.note_queues (d : Dev) (n : Note) : (d.note n).queues = d.queues := rfl
@[simp] theorem Dev.note_evq (d : Dev) (n : Note) : (d.note n).evq = d.evq := rfl
@[simp] theorem Dev.note_evqSeq (d : Dev) (n : Note) : (d.note n).evqSeq = d.evqSeq := rfl
@[simp] theorem Dev.note_evqIssued (d : Dev) (n : Note) : (d.note n).evqIssued = d.evqIssued := rfl
@[simp] theorem Dev.note_irqPend (d : Dev) (n : Note) : (d.note n).irqPend = d.irqPend := rfl
@[simp] theorem Dev.note_modGap (d : Dev) (n : Note) : (d.note n).modGap = d.modGap := rfl
@[simp] theorem Dev.note_pools (d : Dev) (n : Note) : (d.note n).pools = d.pools := rfl
@[simp] theorem Dev.note_mails (d : Dev) (n : Note) : (d.note n).mails = d.mails := rfl
@[simp] theorem Dev.note_taps (d : Dev) (n : Note) : (d.note n).taps = d.taps := rfl
@[simp] theorem Dev.note_rings (d : Dev) (n : Note) : (d.note n).rings = d.rings := rfl
@[simp] theorem Dev.note_movers (d : Dev) (n : Note) : (d.note n).movers = d.movers := rfl
@[simp] theorem Dev.note_clocks (d : Dev) (n : Note) : (d.note n).clocks = d.clocks := rfl
@[simp] theorem Dev.note_magPorts (d : Dev) (n : Note) : (d.note n).magPorts = d.magPorts := rfl
@[simp] theorem Dev.note_mortars (d : Dev) (n : Note) : (d.note n).mortars = d.mortars := rfl
@[simp] theorem Dev.note_fen (d : Dev) (n : Note) : (d.note n).fen = d.fen := rfl
@[simp] theorem Dev.note_hist (d : Dev) (n : Note) : (d.note n).hist = d.hist := rfl
@[simp] theorem Dev.note_heldRecs (d : Dev) (n : Note) : (d.note n).heldRecs = d.heldRecs := rfl
@[simp] theorem Dev.note_failedStarts (d : Dev) (n : Note) : (d.note n).failedStarts = d.failedStarts := rfl
@[simp] theorem Dev.note_flash (d : Dev) (n : Note) : (d.note n).flash = d.flash := rfl
@[simp] theorem Dev.note_flashRun (d : Dev) (n : Note) : (d.note n).flashRun = d.flashRun := rfl
@[simp] theorem Dev.note_eq (d : Dev) (n : Note) : (d.note n).eq = d.eq := rfl
@[simp] theorem Dev.note_banks (d : Dev) (n : Note) : (d.note n).banks = d.banks := rfl
@[simp] theorem Dev.note_away (d : Dev) (n : Note) : (d.note n).away = d.away := rfl
@[simp] theorem Dev.note_mcLoad (d : Dev) (n : Note) : (d.note n).mcLoad = d.mcLoad := rfl
@[simp] theorem Dev.note_asleep (d : Dev) (n : Note) : (d.note n).asleep = d.asleep := rfl
@[simp] theorem Dev.note_scanIr (d : Dev) (n : Note) : (d.note n).scanIr = d.scanIr := rfl
@[simp] theorem Dev.note_monFrom (d : Dev) (n : Note) : (d.note n).monFrom = d.monFrom := rfl
@[simp] theorem Dev.note_reloaded (d : Dev) (n : Note) : (d.note n).reloaded = d.reloaded := rfl
@[simp] theorem Dev.note_nextId (d : Dev) (n : Note) : (d.note n).nextId = d.nextId := rfl
@[simp] theorem Dev.note_free (d : Dev) (n : Note) : (d.note n).free = d.free := rfl
@[simp] theorem Dev.note_out (d : Dev) (n : Note) : (d.note n).out = d.out := rfl

/-! Dev.modQueue -/

@[simp] theorem Dev.modQueue_variant (d : Dev) (x q : Nat) (f : QState → QState) : (d.modQueue x q f).variant = d.variant := rfl
@[simp] theorem Dev.modQueue_regs (d : Dev) (x q : Nat) (f : QState → QState) : (d.modQueue x q f).regs = d.regs := rfl
@[simp] theorem Dev.modQueue_active (d : Dev) (x q : Nat) (f : QState → QState) : (d.modQueue x q f).active = d.active := rfl
@[simp] theorem Dev.modQueue_upsets (d : Dev) (x q : Nat) (f : QState → QState) : (d.modQueue x q f).upsets = d.upsets := rfl
@[simp] theorem Dev.modQueue_leadCopy (d : Dev) (x q : Nat) (f : QState → QState) : (d.modQueue x q f).leadCopy = d.leadCopy := rfl
@[simp] theorem Dev.modQueue_cfgLog (d : Dev) (x q : Nat) (f : QState → QState) : (d.modQueue x q f).cfgLog = d.cfgLog := rfl
@[simp] theorem Dev.modQueue_applied (d : Dev) (x q : Nat) (f : QState → QState) : (d.modQueue x q f).applied = d.applied := rfl
@[simp] theorem Dev.modQueue_heldCfg (d : Dev) (x q : Nat) (f : QState → QState) : (d.modQueue x q f).heldCfg = d.heldCfg := rfl
@[simp] theorem Dev.modQueue_lead (d : Dev) (x q : Nat) (f : QState → QState) : (d.modQueue x q f).lead = d.lead := rfl
@[simp] theorem Dev.modQueue_homes (d : Dev) (x q : Nat) (f : QState → QState) : (d.modQueue x q f).homes = d.homes := rfl
@[simp] theorem Dev.modQueue_mirrors (d : Dev) (x q : Nat) (f : QState → QState) : (d.modQueue x q f).mirrors = d.mirrors := rfl
@[simp] theorem Dev.modQueue_heldReads (d : Dev) (x q : Nat) (f : QState → QState) : (d.modQueue x q f).heldReads = d.heldReads := rfl
@[simp] theorem Dev.modQueue_activeUpsets (d : Dev) (x q : Nat) (f : QState → QState) : (d.modQueue x q f).activeUpsets = d.activeUpsets := rfl
@[simp] theorem Dev.modQueue_sealStop (d : Dev) (x q : Nat) (f : QState → QState) : (d.modQueue x q f).sealStop = d.sealStop := rfl
@[simp] theorem Dev.modQueue_margins (d : Dev) (x q : Nat) (f : QState → QState) : (d.modQueue x q f).margins = d.margins := rfl
@[simp] theorem Dev.modQueue_awaiting (d : Dev) (x q : Nat) (f : QState → QState) : (d.modQueue x q f).awaiting = d.awaiting := rfl
@[simp] theorem Dev.modQueue_stranded (d : Dev) (x q : Nat) (f : QState → QState) : (d.modQueue x q f).stranded = d.stranded := rfl
@[simp] theorem Dev.modQueue_modPend (d : Dev) (x q : Nat) (f : QState → QState) : (d.modQueue x q f).modPend = d.modPend := rfl
@[simp] theorem Dev.modQueue_ran (d : Dev) (x q : Nat) (f : QState → QState) : (d.modQueue x q f).ran = d.ran := rfl
@[simp] theorem Dev.modQueue_monHits (d : Dev) (x q : Nat) (f : QState → QState) : (d.modQueue x q f).monHits = d.monHits := rfl
@[simp] theorem Dev.modQueue_lost (d : Dev) (x q : Nat) (f : QState → QState) : (d.modQueue x q f).lost = d.lost := rfl
@[simp] theorem Dev.modQueue_shadows (d : Dev) (x q : Nat) (f : QState → QState) : (d.modQueue x q f).shadows = d.shadows := rfl
@[simp] theorem Dev.modQueue_lastPath (d : Dev) (x q : Nat) (f : QState → QState) : (d.modQueue x q f).lastPath = d.lastPath := rfl
@[simp] theorem Dev.modQueue_usCount (d : Dev) (x q : Nat) (f : QState → QState) : (d.modQueue x q f).usCount = d.usCount := rfl
@[simp] theorem Dev.modQueue_pcie (d : Dev) (x q : Nat) (f : QState → QState) : (d.modQueue x q f).pcie = d.pcie := rfl
@[simp] theorem Dev.modQueue_cfgSpace (d : Dev) (x q : Nat) (f : QState → QState) : (d.modQueue x q f).cfgSpace = d.cfgSpace := rfl
@[simp] theorem Dev.modQueue_ports (d : Dev) (x q : Nat) (f : QState → QState) : (d.modQueue x q f).ports = d.ports := rfl
@[simp] theorem Dev.modQueue_sems (d : Dev) (x q : Nat) (f : QState → QState) : (d.modQueue x q f).sems = d.sems := rfl
@[simp] theorem Dev.modQueue_tcache (d : Dev) (x q : Nat) (f : QState → QState) : (d.modQueue x q f).tcache = d.tcache := rfl
@[simp] theorem Dev.modQueue_evq (d : Dev) (x q : Nat) (f : QState → QState) : (d.modQueue x q f).evq = d.evq := rfl
@[simp] theorem Dev.modQueue_evqSeq (d : Dev) (x q : Nat) (f : QState → QState) : (d.modQueue x q f).evqSeq = d.evqSeq := rfl
@[simp] theorem Dev.modQueue_evqIssued (d : Dev) (x q : Nat) (f : QState → QState) : (d.modQueue x q f).evqIssued = d.evqIssued := rfl
@[simp] theorem Dev.modQueue_irqPend (d : Dev) (x q : Nat) (f : QState → QState) : (d.modQueue x q f).irqPend = d.irqPend := rfl
@[simp] theorem Dev.modQueue_modGap (d : Dev) (x q : Nat) (f : QState → QState) : (d.modQueue x q f).modGap = d.modGap := rfl
@[simp] theorem Dev.modQueue_pools (d : Dev) (x q : Nat) (f : QState → QState) : (d.modQueue x q f).pools = d.pools := rfl
@[simp] theorem Dev.modQueue_mails (d : Dev) (x q : Nat) (f : QState → QState) : (d.modQueue x q f).mails = d.mails := rfl
@[simp] theorem Dev.modQueue_taps (d : Dev) (x q : Nat) (f : QState → QState) : (d.modQueue x q f).taps = d.taps := rfl
@[simp] theorem Dev.modQueue_rings (d : Dev) (x q : Nat) (f : QState → QState) : (d.modQueue x q f).rings = d.rings := rfl
@[simp] theorem Dev.modQueue_movers (d : Dev) (x q : Nat) (f : QState → QState) : (d.modQueue x q f).movers = d.movers := rfl
@[simp] theorem Dev.modQueue_clocks (d : Dev) (x q : Nat) (f : QState → QState) : (d.modQueue x q f).clocks = d.clocks := rfl
@[simp] theorem Dev.modQueue_magPorts (d : Dev) (x q : Nat) (f : QState → QState) : (d.modQueue x q f).magPorts = d.magPorts := rfl
@[simp] theorem Dev.modQueue_mortars (d : Dev) (x q : Nat) (f : QState → QState) : (d.modQueue x q f).mortars = d.mortars := rfl
@[simp] theorem Dev.modQueue_fen (d : Dev) (x q : Nat) (f : QState → QState) : (d.modQueue x q f).fen = d.fen := rfl
@[simp] theorem Dev.modQueue_hist (d : Dev) (x q : Nat) (f : QState → QState) : (d.modQueue x q f).hist = d.hist := rfl
@[simp] theorem Dev.modQueue_heldRecs (d : Dev) (x q : Nat) (f : QState → QState) : (d.modQueue x q f).heldRecs = d.heldRecs := rfl
@[simp] theorem Dev.modQueue_failedStarts (d : Dev) (x q : Nat) (f : QState → QState) : (d.modQueue x q f).failedStarts = d.failedStarts := rfl
@[simp] theorem Dev.modQueue_flash (d : Dev) (x q : Nat) (f : QState → QState) : (d.modQueue x q f).flash = d.flash := rfl
@[simp] theorem Dev.modQueue_flashRun (d : Dev) (x q : Nat) (f : QState → QState) : (d.modQueue x q f).flashRun = d.flashRun := rfl
@[simp] theorem Dev.modQueue_eq (d : Dev) (x q : Nat) (f : QState → QState) : (d.modQueue x q f).eq = d.eq := rfl
@[simp] theorem Dev.modQueue_banks (d : Dev) (x q : Nat) (f : QState → QState) : (d.modQueue x q f).banks = d.banks := rfl
@[simp] theorem Dev.modQueue_away (d : Dev) (x q : Nat) (f : QState → QState) : (d.modQueue x q f).away = d.away := rfl
@[simp] theorem Dev.modQueue_mcLoad (d : Dev) (x q : Nat) (f : QState → QState) : (d.modQueue x q f).mcLoad = d.mcLoad := rfl
@[simp] theorem Dev.modQueue_asleep (d : Dev) (x q : Nat) (f : QState → QState) : (d.modQueue x q f).asleep = d.asleep := rfl
@[simp] theorem Dev.modQueue_scanIr (d : Dev) (x q : Nat) (f : QState → QState) : (d.modQueue x q f).scanIr = d.scanIr := rfl
@[simp] theorem Dev.modQueue_monFrom (d : Dev) (x q : Nat) (f : QState → QState) : (d.modQueue x q f).monFrom = d.monFrom := rfl
@[simp] theorem Dev.modQueue_reloaded (d : Dev) (x q : Nat) (f : QState → QState) : (d.modQueue x q f).reloaded = d.reloaded := rfl
@[simp] theorem Dev.modQueue_nextId (d : Dev) (x q : Nat) (f : QState → QState) : (d.modQueue x q f).nextId = d.nextId := rfl
@[simp] theorem Dev.modQueue_free (d : Dev) (x q : Nat) (f : QState → QState) : (d.modQueue x q f).free = d.free := rfl
@[simp] theorem Dev.modQueue_out (d : Dev) (x q : Nat) (f : QState → QState) : (d.modQueue x q f).out = d.out := rfl
@[simp] theorem Dev.modQueue_notes (d : Dev) (x q : Nat) (f : QState → QState) : (d.modQueue x q f).notes = d.notes := rfl

/-! Dev.raise -/

@[simp] theorem Dev.raise_variant (d : Dev) (x cls : Nat) (l : Loc) (bit source : Nat) : (d.raise x cls l bit source).variant = d.variant := rfl
@[simp] theorem Dev.raise_regs (d : Dev) (x cls : Nat) (l : Loc) (bit source : Nat) : (d.raise x cls l bit source).regs = d.regs := rfl
@[simp] theorem Dev.raise_active (d : Dev) (x cls : Nat) (l : Loc) (bit source : Nat) : (d.raise x cls l bit source).active = d.active := rfl
@[simp] theorem Dev.raise_upsets (d : Dev) (x cls : Nat) (l : Loc) (bit source : Nat) : (d.raise x cls l bit source).upsets = d.upsets := rfl
@[simp] theorem Dev.raise_leadCopy (d : Dev) (x cls : Nat) (l : Loc) (bit source : Nat) : (d.raise x cls l bit source).leadCopy = d.leadCopy := rfl
@[simp] theorem Dev.raise_cfgLog (d : Dev) (x cls : Nat) (l : Loc) (bit source : Nat) : (d.raise x cls l bit source).cfgLog = d.cfgLog := rfl
@[simp] theorem Dev.raise_applied (d : Dev) (x cls : Nat) (l : Loc) (bit source : Nat) : (d.raise x cls l bit source).applied = d.applied := rfl
@[simp] theorem Dev.raise_heldCfg (d : Dev) (x cls : Nat) (l : Loc) (bit source : Nat) : (d.raise x cls l bit source).heldCfg = d.heldCfg := rfl
@[simp] theorem Dev.raise_lead (d : Dev) (x cls : Nat) (l : Loc) (bit source : Nat) : (d.raise x cls l bit source).lead = d.lead := rfl
@[simp] theorem Dev.raise_homes (d : Dev) (x cls : Nat) (l : Loc) (bit source : Nat) : (d.raise x cls l bit source).homes = d.homes := rfl
@[simp] theorem Dev.raise_mirrors (d : Dev) (x cls : Nat) (l : Loc) (bit source : Nat) : (d.raise x cls l bit source).mirrors = d.mirrors := rfl
@[simp] theorem Dev.raise_heldReads (d : Dev) (x cls : Nat) (l : Loc) (bit source : Nat) : (d.raise x cls l bit source).heldReads = d.heldReads := rfl
@[simp] theorem Dev.raise_activeUpsets (d : Dev) (x cls : Nat) (l : Loc) (bit source : Nat) : (d.raise x cls l bit source).activeUpsets = d.activeUpsets := rfl
@[simp] theorem Dev.raise_sealStop (d : Dev) (x cls : Nat) (l : Loc) (bit source : Nat) : (d.raise x cls l bit source).sealStop = d.sealStop := rfl
@[simp] theorem Dev.raise_margins (d : Dev) (x cls : Nat) (l : Loc) (bit source : Nat) : (d.raise x cls l bit source).margins = d.margins := rfl
@[simp] theorem Dev.raise_awaiting (d : Dev) (x cls : Nat) (l : Loc) (bit source : Nat) : (d.raise x cls l bit source).awaiting = d.awaiting := rfl
@[simp] theorem Dev.raise_stranded (d : Dev) (x cls : Nat) (l : Loc) (bit source : Nat) : (d.raise x cls l bit source).stranded = d.stranded := rfl
@[simp] theorem Dev.raise_modPend (d : Dev) (x cls : Nat) (l : Loc) (bit source : Nat) : (d.raise x cls l bit source).modPend = d.modPend := rfl
@[simp] theorem Dev.raise_ran (d : Dev) (x cls : Nat) (l : Loc) (bit source : Nat) : (d.raise x cls l bit source).ran = d.ran := rfl
@[simp] theorem Dev.raise_monHits (d : Dev) (x cls : Nat) (l : Loc) (bit source : Nat) : (d.raise x cls l bit source).monHits = d.monHits := rfl
@[simp] theorem Dev.raise_lost (d : Dev) (x cls : Nat) (l : Loc) (bit source : Nat) : (d.raise x cls l bit source).lost = d.lost := rfl
@[simp] theorem Dev.raise_shadows (d : Dev) (x cls : Nat) (l : Loc) (bit source : Nat) : (d.raise x cls l bit source).shadows = d.shadows := rfl
@[simp] theorem Dev.raise_lastPath (d : Dev) (x cls : Nat) (l : Loc) (bit source : Nat) : (d.raise x cls l bit source).lastPath = d.lastPath := rfl
@[simp] theorem Dev.raise_usCount (d : Dev) (x cls : Nat) (l : Loc) (bit source : Nat) : (d.raise x cls l bit source).usCount = d.usCount := rfl
@[simp] theorem Dev.raise_pcie (d : Dev) (x cls : Nat) (l : Loc) (bit source : Nat) : (d.raise x cls l bit source).pcie = d.pcie := rfl
@[simp] theorem Dev.raise_cfgSpace (d : Dev) (x cls : Nat) (l : Loc) (bit source : Nat) : (d.raise x cls l bit source).cfgSpace = d.cfgSpace := rfl
@[simp] theorem Dev.raise_ports (d : Dev) (x cls : Nat) (l : Loc) (bit source : Nat) : (d.raise x cls l bit source).ports = d.ports := rfl
@[simp] theorem Dev.raise_sems (d : Dev) (x cls : Nat) (l : Loc) (bit source : Nat) : (d.raise x cls l bit source).sems = d.sems := rfl
@[simp] theorem Dev.raise_tcache (d : Dev) (x cls : Nat) (l : Loc) (bit source : Nat) : (d.raise x cls l bit source).tcache = d.tcache := rfl
@[simp] theorem Dev.raise_evq (d : Dev) (x cls : Nat) (l : Loc) (bit source : Nat) : (d.raise x cls l bit source).evq = d.evq := rfl
@[simp] theorem Dev.raise_evqSeq (d : Dev) (x cls : Nat) (l : Loc) (bit source : Nat) : (d.raise x cls l bit source).evqSeq = d.evqSeq := rfl
@[simp] theorem Dev.raise_evqIssued (d : Dev) (x cls : Nat) (l : Loc) (bit source : Nat) : (d.raise x cls l bit source).evqIssued = d.evqIssued := rfl
@[simp] theorem Dev.raise_irqPend (d : Dev) (x cls : Nat) (l : Loc) (bit source : Nat) : (d.raise x cls l bit source).irqPend = d.irqPend := rfl
@[simp] theorem Dev.raise_modGap (d : Dev) (x cls : Nat) (l : Loc) (bit source : Nat) : (d.raise x cls l bit source).modGap = d.modGap := rfl
@[simp] theorem Dev.raise_pools (d : Dev) (x cls : Nat) (l : Loc) (bit source : Nat) : (d.raise x cls l bit source).pools = d.pools := rfl
@[simp] theorem Dev.raise_mails (d : Dev) (x cls : Nat) (l : Loc) (bit source : Nat) : (d.raise x cls l bit source).mails = d.mails := rfl
@[simp] theorem Dev.raise_taps (d : Dev) (x cls : Nat) (l : Loc) (bit source : Nat) : (d.raise x cls l bit source).taps = d.taps := rfl
@[simp] theorem Dev.raise_rings (d : Dev) (x cls : Nat) (l : Loc) (bit source : Nat) : (d.raise x cls l bit source).rings = d.rings := rfl
@[simp] theorem Dev.raise_movers (d : Dev) (x cls : Nat) (l : Loc) (bit source : Nat) : (d.raise x cls l bit source).movers = d.movers := rfl
@[simp] theorem Dev.raise_clocks (d : Dev) (x cls : Nat) (l : Loc) (bit source : Nat) : (d.raise x cls l bit source).clocks = d.clocks := rfl
@[simp] theorem Dev.raise_magPorts (d : Dev) (x cls : Nat) (l : Loc) (bit source : Nat) : (d.raise x cls l bit source).magPorts = d.magPorts := rfl
@[simp] theorem Dev.raise_mortars (d : Dev) (x cls : Nat) (l : Loc) (bit source : Nat) : (d.raise x cls l bit source).mortars = d.mortars := rfl
@[simp] theorem Dev.raise_fen (d : Dev) (x cls : Nat) (l : Loc) (bit source : Nat) : (d.raise x cls l bit source).fen = d.fen := rfl
@[simp] theorem Dev.raise_hist (d : Dev) (x cls : Nat) (l : Loc) (bit source : Nat) : (d.raise x cls l bit source).hist = d.hist := rfl
@[simp] theorem Dev.raise_heldRecs (d : Dev) (x cls : Nat) (l : Loc) (bit source : Nat) : (d.raise x cls l bit source).heldRecs = d.heldRecs := rfl
@[simp] theorem Dev.raise_failedStarts (d : Dev) (x cls : Nat) (l : Loc) (bit source : Nat) : (d.raise x cls l bit source).failedStarts = d.failedStarts := rfl
@[simp] theorem Dev.raise_flash (d : Dev) (x cls : Nat) (l : Loc) (bit source : Nat) : (d.raise x cls l bit source).flash = d.flash := rfl
@[simp] theorem Dev.raise_flashRun (d : Dev) (x cls : Nat) (l : Loc) (bit source : Nat) : (d.raise x cls l bit source).flashRun = d.flashRun := rfl
@[simp] theorem Dev.raise_eq (d : Dev) (x cls : Nat) (l : Loc) (bit source : Nat) : (d.raise x cls l bit source).eq = d.eq := rfl
@[simp] theorem Dev.raise_banks (d : Dev) (x cls : Nat) (l : Loc) (bit source : Nat) : (d.raise x cls l bit source).banks = d.banks := rfl
@[simp] theorem Dev.raise_away (d : Dev) (x cls : Nat) (l : Loc) (bit source : Nat) : (d.raise x cls l bit source).away = d.away := rfl
@[simp] theorem Dev.raise_mcLoad (d : Dev) (x cls : Nat) (l : Loc) (bit source : Nat) : (d.raise x cls l bit source).mcLoad = d.mcLoad := rfl
@[simp] theorem Dev.raise_asleep (d : Dev) (x cls : Nat) (l : Loc) (bit source : Nat) : (d.raise x cls l bit source).asleep = d.asleep := rfl
@[simp] theorem Dev.raise_scanIr (d : Dev) (x cls : Nat) (l : Loc) (bit source : Nat) : (d.raise x cls l bit source).scanIr = d.scanIr := rfl
@[simp] theorem Dev.raise_monFrom (d : Dev) (x cls : Nat) (l : Loc) (bit source : Nat) : (d.raise x cls l bit source).monFrom = d.monFrom := rfl
@[simp] theorem Dev.raise_reloaded (d : Dev) (x cls : Nat) (l : Loc) (bit source : Nat) : (d.raise x cls l bit source).reloaded = d.reloaded := rfl
@[simp] theorem Dev.raise_nextId (d : Dev) (x cls : Nat) (l : Loc) (bit source : Nat) : (d.raise x cls l bit source).nextId = d.nextId := rfl
@[simp] theorem Dev.raise_free (d : Dev) (x cls : Nat) (l : Loc) (bit source : Nat) : (d.raise x cls l bit source).free = d.free := rfl
@[simp] theorem Dev.raise_out (d : Dev) (x cls : Nat) (l : Loc) (bit source : Nat) : (d.raise x cls l bit source).out = d.out := rfl
@[simp] theorem Dev.raise_notes (d : Dev) (x cls : Nat) (l : Loc) (bit source : Nat) : (d.raise x cls l bit source).notes = d.notes := rfl

/-! Dev.modPort -/

@[simp] theorem Dev.modPort_variant (d : Dev) (p : Nat) (f : Port → Port) : (d.modPort p f).variant = d.variant := rfl
@[simp] theorem Dev.modPort_regs (d : Dev) (p : Nat) (f : Port → Port) : (d.modPort p f).regs = d.regs := rfl
@[simp] theorem Dev.modPort_active (d : Dev) (p : Nat) (f : Port → Port) : (d.modPort p f).active = d.active := rfl
@[simp] theorem Dev.modPort_upsets (d : Dev) (p : Nat) (f : Port → Port) : (d.modPort p f).upsets = d.upsets := rfl
@[simp] theorem Dev.modPort_leadCopy (d : Dev) (p : Nat) (f : Port → Port) : (d.modPort p f).leadCopy = d.leadCopy := rfl
@[simp] theorem Dev.modPort_cfgLog (d : Dev) (p : Nat) (f : Port → Port) : (d.modPort p f).cfgLog = d.cfgLog := rfl
@[simp] theorem Dev.modPort_applied (d : Dev) (p : Nat) (f : Port → Port) : (d.modPort p f).applied = d.applied := rfl
@[simp] theorem Dev.modPort_heldCfg (d : Dev) (p : Nat) (f : Port → Port) : (d.modPort p f).heldCfg = d.heldCfg := rfl
@[simp] theorem Dev.modPort_lead (d : Dev) (p : Nat) (f : Port → Port) : (d.modPort p f).lead = d.lead := rfl
@[simp] theorem Dev.modPort_homes (d : Dev) (p : Nat) (f : Port → Port) : (d.modPort p f).homes = d.homes := rfl
@[simp] theorem Dev.modPort_mirrors (d : Dev) (p : Nat) (f : Port → Port) : (d.modPort p f).mirrors = d.mirrors := rfl
@[simp] theorem Dev.modPort_heldReads (d : Dev) (p : Nat) (f : Port → Port) : (d.modPort p f).heldReads = d.heldReads := rfl
@[simp] theorem Dev.modPort_activeUpsets (d : Dev) (p : Nat) (f : Port → Port) : (d.modPort p f).activeUpsets = d.activeUpsets := rfl
@[simp] theorem Dev.modPort_sealStop (d : Dev) (p : Nat) (f : Port → Port) : (d.modPort p f).sealStop = d.sealStop := rfl
@[simp] theorem Dev.modPort_margins (d : Dev) (p : Nat) (f : Port → Port) : (d.modPort p f).margins = d.margins := rfl
@[simp] theorem Dev.modPort_awaiting (d : Dev) (p : Nat) (f : Port → Port) : (d.modPort p f).awaiting = d.awaiting := rfl
@[simp] theorem Dev.modPort_stranded (d : Dev) (p : Nat) (f : Port → Port) : (d.modPort p f).stranded = d.stranded := rfl
@[simp] theorem Dev.modPort_modPend (d : Dev) (p : Nat) (f : Port → Port) : (d.modPort p f).modPend = d.modPend := rfl
@[simp] theorem Dev.modPort_ran (d : Dev) (p : Nat) (f : Port → Port) : (d.modPort p f).ran = d.ran := rfl
@[simp] theorem Dev.modPort_monHits (d : Dev) (p : Nat) (f : Port → Port) : (d.modPort p f).monHits = d.monHits := rfl
@[simp] theorem Dev.modPort_lost (d : Dev) (p : Nat) (f : Port → Port) : (d.modPort p f).lost = d.lost := rfl
@[simp] theorem Dev.modPort_shadows (d : Dev) (p : Nat) (f : Port → Port) : (d.modPort p f).shadows = d.shadows := rfl
@[simp] theorem Dev.modPort_lastPath (d : Dev) (p : Nat) (f : Port → Port) : (d.modPort p f).lastPath = d.lastPath := rfl
@[simp] theorem Dev.modPort_usCount (d : Dev) (p : Nat) (f : Port → Port) : (d.modPort p f).usCount = d.usCount := rfl
@[simp] theorem Dev.modPort_pcie (d : Dev) (p : Nat) (f : Port → Port) : (d.modPort p f).pcie = d.pcie := rfl
@[simp] theorem Dev.modPort_cfgSpace (d : Dev) (p : Nat) (f : Port → Port) : (d.modPort p f).cfgSpace = d.cfgSpace := rfl
@[simp] theorem Dev.modPort_sems (d : Dev) (p : Nat) (f : Port → Port) : (d.modPort p f).sems = d.sems := rfl
@[simp] theorem Dev.modPort_tcache (d : Dev) (p : Nat) (f : Port → Port) : (d.modPort p f).tcache = d.tcache := rfl
@[simp] theorem Dev.modPort_queues (d : Dev) (p : Nat) (f : Port → Port) : (d.modPort p f).queues = d.queues := rfl
@[simp] theorem Dev.modPort_evq (d : Dev) (p : Nat) (f : Port → Port) : (d.modPort p f).evq = d.evq := rfl
@[simp] theorem Dev.modPort_evqSeq (d : Dev) (p : Nat) (f : Port → Port) : (d.modPort p f).evqSeq = d.evqSeq := rfl
@[simp] theorem Dev.modPort_evqIssued (d : Dev) (p : Nat) (f : Port → Port) : (d.modPort p f).evqIssued = d.evqIssued := rfl
@[simp] theorem Dev.modPort_irqPend (d : Dev) (p : Nat) (f : Port → Port) : (d.modPort p f).irqPend = d.irqPend := rfl
@[simp] theorem Dev.modPort_modGap (d : Dev) (p : Nat) (f : Port → Port) : (d.modPort p f).modGap = d.modGap := rfl
@[simp] theorem Dev.modPort_pools (d : Dev) (p : Nat) (f : Port → Port) : (d.modPort p f).pools = d.pools := rfl
@[simp] theorem Dev.modPort_mails (d : Dev) (p : Nat) (f : Port → Port) : (d.modPort p f).mails = d.mails := rfl
@[simp] theorem Dev.modPort_taps (d : Dev) (p : Nat) (f : Port → Port) : (d.modPort p f).taps = d.taps := rfl
@[simp] theorem Dev.modPort_rings (d : Dev) (p : Nat) (f : Port → Port) : (d.modPort p f).rings = d.rings := rfl
@[simp] theorem Dev.modPort_movers (d : Dev) (p : Nat) (f : Port → Port) : (d.modPort p f).movers = d.movers := rfl
@[simp] theorem Dev.modPort_clocks (d : Dev) (p : Nat) (f : Port → Port) : (d.modPort p f).clocks = d.clocks := rfl
@[simp] theorem Dev.modPort_magPorts (d : Dev) (p : Nat) (f : Port → Port) : (d.modPort p f).magPorts = d.magPorts := rfl
@[simp] theorem Dev.modPort_mortars (d : Dev) (p : Nat) (f : Port → Port) : (d.modPort p f).mortars = d.mortars := rfl
@[simp] theorem Dev.modPort_fen (d : Dev) (p : Nat) (f : Port → Port) : (d.modPort p f).fen = d.fen := rfl
@[simp] theorem Dev.modPort_hist (d : Dev) (p : Nat) (f : Port → Port) : (d.modPort p f).hist = d.hist := rfl
@[simp] theorem Dev.modPort_heldRecs (d : Dev) (p : Nat) (f : Port → Port) : (d.modPort p f).heldRecs = d.heldRecs := rfl
@[simp] theorem Dev.modPort_failedStarts (d : Dev) (p : Nat) (f : Port → Port) : (d.modPort p f).failedStarts = d.failedStarts := rfl
@[simp] theorem Dev.modPort_flash (d : Dev) (p : Nat) (f : Port → Port) : (d.modPort p f).flash = d.flash := rfl
@[simp] theorem Dev.modPort_flashRun (d : Dev) (p : Nat) (f : Port → Port) : (d.modPort p f).flashRun = d.flashRun := rfl
@[simp] theorem Dev.modPort_eq (d : Dev) (p : Nat) (f : Port → Port) : (d.modPort p f).eq = d.eq := rfl
@[simp] theorem Dev.modPort_banks (d : Dev) (p : Nat) (f : Port → Port) : (d.modPort p f).banks = d.banks := rfl
@[simp] theorem Dev.modPort_away (d : Dev) (p : Nat) (f : Port → Port) : (d.modPort p f).away = d.away := rfl
@[simp] theorem Dev.modPort_mcLoad (d : Dev) (p : Nat) (f : Port → Port) : (d.modPort p f).mcLoad = d.mcLoad := rfl
@[simp] theorem Dev.modPort_asleep (d : Dev) (p : Nat) (f : Port → Port) : (d.modPort p f).asleep = d.asleep := rfl
@[simp] theorem Dev.modPort_scanIr (d : Dev) (p : Nat) (f : Port → Port) : (d.modPort p f).scanIr = d.scanIr := rfl
@[simp] theorem Dev.modPort_monFrom (d : Dev) (p : Nat) (f : Port → Port) : (d.modPort p f).monFrom = d.monFrom := rfl
@[simp] theorem Dev.modPort_reloaded (d : Dev) (p : Nat) (f : Port → Port) : (d.modPort p f).reloaded = d.reloaded := rfl
@[simp] theorem Dev.modPort_nextId (d : Dev) (p : Nat) (f : Port → Port) : (d.modPort p f).nextId = d.nextId := rfl
@[simp] theorem Dev.modPort_free (d : Dev) (p : Nat) (f : Port → Port) : (d.modPort p f).free = d.free := rfl
@[simp] theorem Dev.modPort_out (d : Dev) (p : Nat) (f : Port → Port) : (d.modPort p f).out = d.out := rfl
@[simp] theorem Dev.modPort_notes (d : Dev) (p : Nat) (f : Port → Port) : (d.modPort p f).notes = d.notes := rfl

/-! Dev.modLink -/

@[simp] theorem Dev.modLink_variant (d : Dev) (p : Nat) (f : Link → Link) : (d.modLink p f).variant = d.variant := rfl
@[simp] theorem Dev.modLink_regs (d : Dev) (p : Nat) (f : Link → Link) : (d.modLink p f).regs = d.regs := rfl
@[simp] theorem Dev.modLink_active (d : Dev) (p : Nat) (f : Link → Link) : (d.modLink p f).active = d.active := rfl
@[simp] theorem Dev.modLink_upsets (d : Dev) (p : Nat) (f : Link → Link) : (d.modLink p f).upsets = d.upsets := rfl
@[simp] theorem Dev.modLink_leadCopy (d : Dev) (p : Nat) (f : Link → Link) : (d.modLink p f).leadCopy = d.leadCopy := rfl
@[simp] theorem Dev.modLink_cfgLog (d : Dev) (p : Nat) (f : Link → Link) : (d.modLink p f).cfgLog = d.cfgLog := rfl
@[simp] theorem Dev.modLink_applied (d : Dev) (p : Nat) (f : Link → Link) : (d.modLink p f).applied = d.applied := rfl
@[simp] theorem Dev.modLink_heldCfg (d : Dev) (p : Nat) (f : Link → Link) : (d.modLink p f).heldCfg = d.heldCfg := rfl
@[simp] theorem Dev.modLink_lead (d : Dev) (p : Nat) (f : Link → Link) : (d.modLink p f).lead = d.lead := rfl
@[simp] theorem Dev.modLink_homes (d : Dev) (p : Nat) (f : Link → Link) : (d.modLink p f).homes = d.homes := rfl
@[simp] theorem Dev.modLink_mirrors (d : Dev) (p : Nat) (f : Link → Link) : (d.modLink p f).mirrors = d.mirrors := rfl
@[simp] theorem Dev.modLink_heldReads (d : Dev) (p : Nat) (f : Link → Link) : (d.modLink p f).heldReads = d.heldReads := rfl
@[simp] theorem Dev.modLink_activeUpsets (d : Dev) (p : Nat) (f : Link → Link) : (d.modLink p f).activeUpsets = d.activeUpsets := rfl
@[simp] theorem Dev.modLink_sealStop (d : Dev) (p : Nat) (f : Link → Link) : (d.modLink p f).sealStop = d.sealStop := rfl
@[simp] theorem Dev.modLink_margins (d : Dev) (p : Nat) (f : Link → Link) : (d.modLink p f).margins = d.margins := rfl
@[simp] theorem Dev.modLink_awaiting (d : Dev) (p : Nat) (f : Link → Link) : (d.modLink p f).awaiting = d.awaiting := rfl
@[simp] theorem Dev.modLink_stranded (d : Dev) (p : Nat) (f : Link → Link) : (d.modLink p f).stranded = d.stranded := rfl
@[simp] theorem Dev.modLink_modPend (d : Dev) (p : Nat) (f : Link → Link) : (d.modLink p f).modPend = d.modPend := rfl
@[simp] theorem Dev.modLink_ran (d : Dev) (p : Nat) (f : Link → Link) : (d.modLink p f).ran = d.ran := rfl
@[simp] theorem Dev.modLink_monHits (d : Dev) (p : Nat) (f : Link → Link) : (d.modLink p f).monHits = d.monHits := rfl
@[simp] theorem Dev.modLink_lost (d : Dev) (p : Nat) (f : Link → Link) : (d.modLink p f).lost = d.lost := rfl
@[simp] theorem Dev.modLink_shadows (d : Dev) (p : Nat) (f : Link → Link) : (d.modLink p f).shadows = d.shadows := rfl
@[simp] theorem Dev.modLink_lastPath (d : Dev) (p : Nat) (f : Link → Link) : (d.modLink p f).lastPath = d.lastPath := rfl
@[simp] theorem Dev.modLink_usCount (d : Dev) (p : Nat) (f : Link → Link) : (d.modLink p f).usCount = d.usCount := rfl
@[simp] theorem Dev.modLink_pcie (d : Dev) (p : Nat) (f : Link → Link) : (d.modLink p f).pcie = d.pcie := rfl
@[simp] theorem Dev.modLink_cfgSpace (d : Dev) (p : Nat) (f : Link → Link) : (d.modLink p f).cfgSpace = d.cfgSpace := rfl
@[simp] theorem Dev.modLink_sems (d : Dev) (p : Nat) (f : Link → Link) : (d.modLink p f).sems = d.sems := rfl
@[simp] theorem Dev.modLink_tcache (d : Dev) (p : Nat) (f : Link → Link) : (d.modLink p f).tcache = d.tcache := rfl
@[simp] theorem Dev.modLink_queues (d : Dev) (p : Nat) (f : Link → Link) : (d.modLink p f).queues = d.queues := rfl
@[simp] theorem Dev.modLink_evq (d : Dev) (p : Nat) (f : Link → Link) : (d.modLink p f).evq = d.evq := rfl
@[simp] theorem Dev.modLink_evqSeq (d : Dev) (p : Nat) (f : Link → Link) : (d.modLink p f).evqSeq = d.evqSeq := rfl
@[simp] theorem Dev.modLink_evqIssued (d : Dev) (p : Nat) (f : Link → Link) : (d.modLink p f).evqIssued = d.evqIssued := rfl
@[simp] theorem Dev.modLink_irqPend (d : Dev) (p : Nat) (f : Link → Link) : (d.modLink p f).irqPend = d.irqPend := rfl
@[simp] theorem Dev.modLink_modGap (d : Dev) (p : Nat) (f : Link → Link) : (d.modLink p f).modGap = d.modGap := rfl
@[simp] theorem Dev.modLink_pools (d : Dev) (p : Nat) (f : Link → Link) : (d.modLink p f).pools = d.pools := rfl
@[simp] theorem Dev.modLink_mails (d : Dev) (p : Nat) (f : Link → Link) : (d.modLink p f).mails = d.mails := rfl
@[simp] theorem Dev.modLink_taps (d : Dev) (p : Nat) (f : Link → Link) : (d.modLink p f).taps = d.taps := rfl
@[simp] theorem Dev.modLink_rings (d : Dev) (p : Nat) (f : Link → Link) : (d.modLink p f).rings = d.rings := rfl
@[simp] theorem Dev.modLink_movers (d : Dev) (p : Nat) (f : Link → Link) : (d.modLink p f).movers = d.movers := rfl
@[simp] theorem Dev.modLink_clocks (d : Dev) (p : Nat) (f : Link → Link) : (d.modLink p f).clocks = d.clocks := rfl
@[simp] theorem Dev.modLink_magPorts (d : Dev) (p : Nat) (f : Link → Link) : (d.modLink p f).magPorts = d.magPorts := rfl
@[simp] theorem Dev.modLink_mortars (d : Dev) (p : Nat) (f : Link → Link) : (d.modLink p f).mortars = d.mortars := rfl
@[simp] theorem Dev.modLink_fen (d : Dev) (p : Nat) (f : Link → Link) : (d.modLink p f).fen = d.fen := rfl
@[simp] theorem Dev.modLink_hist (d : Dev) (p : Nat) (f : Link → Link) : (d.modLink p f).hist = d.hist := rfl
@[simp] theorem Dev.modLink_heldRecs (d : Dev) (p : Nat) (f : Link → Link) : (d.modLink p f).heldRecs = d.heldRecs := rfl
@[simp] theorem Dev.modLink_failedStarts (d : Dev) (p : Nat) (f : Link → Link) : (d.modLink p f).failedStarts = d.failedStarts := rfl
@[simp] theorem Dev.modLink_flash (d : Dev) (p : Nat) (f : Link → Link) : (d.modLink p f).flash = d.flash := rfl
@[simp] theorem Dev.modLink_flashRun (d : Dev) (p : Nat) (f : Link → Link) : (d.modLink p f).flashRun = d.flashRun := rfl
@[simp] theorem Dev.modLink_eq (d : Dev) (p : Nat) (f : Link → Link) : (d.modLink p f).eq = d.eq := rfl
@[simp] theorem Dev.modLink_banks (d : Dev) (p : Nat) (f : Link → Link) : (d.modLink p f).banks = d.banks := rfl
@[simp] theorem Dev.modLink_away (d : Dev) (p : Nat) (f : Link → Link) : (d.modLink p f).away = d.away := rfl
@[simp] theorem Dev.modLink_mcLoad (d : Dev) (p : Nat) (f : Link → Link) : (d.modLink p f).mcLoad = d.mcLoad := rfl
@[simp] theorem Dev.modLink_asleep (d : Dev) (p : Nat) (f : Link → Link) : (d.modLink p f).asleep = d.asleep := rfl
@[simp] theorem Dev.modLink_scanIr (d : Dev) (p : Nat) (f : Link → Link) : (d.modLink p f).scanIr = d.scanIr := rfl
@[simp] theorem Dev.modLink_monFrom (d : Dev) (p : Nat) (f : Link → Link) : (d.modLink p f).monFrom = d.monFrom := rfl
@[simp] theorem Dev.modLink_reloaded (d : Dev) (p : Nat) (f : Link → Link) : (d.modLink p f).reloaded = d.reloaded := rfl
@[simp] theorem Dev.modLink_nextId (d : Dev) (p : Nat) (f : Link → Link) : (d.modLink p f).nextId = d.nextId := rfl
@[simp] theorem Dev.modLink_free (d : Dev) (p : Nat) (f : Link → Link) : (d.modLink p f).free = d.free := rfl
@[simp] theorem Dev.modLink_out (d : Dev) (p : Nat) (f : Link → Link) : (d.modLink p f).out = d.out := rfl
@[simp] theorem Dev.modLink_notes (d : Dev) (p : Nat) (f : Link → Link) : (d.modLink p f).notes = d.notes := rfl

/-! Dev.modPx -/

@[simp] theorem Dev.modPx_variant (d : Dev) (x : Nat) (f : Pcie → Pcie) : (d.modPx x f).variant = d.variant := rfl
@[simp] theorem Dev.modPx_regs (d : Dev) (x : Nat) (f : Pcie → Pcie) : (d.modPx x f).regs = d.regs := rfl
@[simp] theorem Dev.modPx_active (d : Dev) (x : Nat) (f : Pcie → Pcie) : (d.modPx x f).active = d.active := rfl
@[simp] theorem Dev.modPx_upsets (d : Dev) (x : Nat) (f : Pcie → Pcie) : (d.modPx x f).upsets = d.upsets := rfl
@[simp] theorem Dev.modPx_leadCopy (d : Dev) (x : Nat) (f : Pcie → Pcie) : (d.modPx x f).leadCopy = d.leadCopy := rfl
@[simp] theorem Dev.modPx_cfgLog (d : Dev) (x : Nat) (f : Pcie → Pcie) : (d.modPx x f).cfgLog = d.cfgLog := rfl
@[simp] theorem Dev.modPx_applied (d : Dev) (x : Nat) (f : Pcie → Pcie) : (d.modPx x f).applied = d.applied := rfl
@[simp] theorem Dev.modPx_heldCfg (d : Dev) (x : Nat) (f : Pcie → Pcie) : (d.modPx x f).heldCfg = d.heldCfg := rfl
@[simp] theorem Dev.modPx_lead (d : Dev) (x : Nat) (f : Pcie → Pcie) : (d.modPx x f).lead = d.lead := rfl
@[simp] theorem Dev.modPx_homes (d : Dev) (x : Nat) (f : Pcie → Pcie) : (d.modPx x f).homes = d.homes := rfl
@[simp] theorem Dev.modPx_mirrors (d : Dev) (x : Nat) (f : Pcie → Pcie) : (d.modPx x f).mirrors = d.mirrors := rfl
@[simp] theorem Dev.modPx_heldReads (d : Dev) (x : Nat) (f : Pcie → Pcie) : (d.modPx x f).heldReads = d.heldReads := rfl
@[simp] theorem Dev.modPx_activeUpsets (d : Dev) (x : Nat) (f : Pcie → Pcie) : (d.modPx x f).activeUpsets = d.activeUpsets := rfl
@[simp] theorem Dev.modPx_sealStop (d : Dev) (x : Nat) (f : Pcie → Pcie) : (d.modPx x f).sealStop = d.sealStop := rfl
@[simp] theorem Dev.modPx_margins (d : Dev) (x : Nat) (f : Pcie → Pcie) : (d.modPx x f).margins = d.margins := rfl
@[simp] theorem Dev.modPx_awaiting (d : Dev) (x : Nat) (f : Pcie → Pcie) : (d.modPx x f).awaiting = d.awaiting := rfl
@[simp] theorem Dev.modPx_stranded (d : Dev) (x : Nat) (f : Pcie → Pcie) : (d.modPx x f).stranded = d.stranded := rfl
@[simp] theorem Dev.modPx_modPend (d : Dev) (x : Nat) (f : Pcie → Pcie) : (d.modPx x f).modPend = d.modPend := rfl
@[simp] theorem Dev.modPx_ran (d : Dev) (x : Nat) (f : Pcie → Pcie) : (d.modPx x f).ran = d.ran := rfl
@[simp] theorem Dev.modPx_monHits (d : Dev) (x : Nat) (f : Pcie → Pcie) : (d.modPx x f).monHits = d.monHits := rfl
@[simp] theorem Dev.modPx_lost (d : Dev) (x : Nat) (f : Pcie → Pcie) : (d.modPx x f).lost = d.lost := rfl
@[simp] theorem Dev.modPx_shadows (d : Dev) (x : Nat) (f : Pcie → Pcie) : (d.modPx x f).shadows = d.shadows := rfl
@[simp] theorem Dev.modPx_lastPath (d : Dev) (x : Nat) (f : Pcie → Pcie) : (d.modPx x f).lastPath = d.lastPath := rfl
@[simp] theorem Dev.modPx_usCount (d : Dev) (x : Nat) (f : Pcie → Pcie) : (d.modPx x f).usCount = d.usCount := rfl
@[simp] theorem Dev.modPx_cfgSpace (d : Dev) (x : Nat) (f : Pcie → Pcie) : (d.modPx x f).cfgSpace = d.cfgSpace := rfl
@[simp] theorem Dev.modPx_ports (d : Dev) (x : Nat) (f : Pcie → Pcie) : (d.modPx x f).ports = d.ports := rfl
@[simp] theorem Dev.modPx_sems (d : Dev) (x : Nat) (f : Pcie → Pcie) : (d.modPx x f).sems = d.sems := rfl
@[simp] theorem Dev.modPx_tcache (d : Dev) (x : Nat) (f : Pcie → Pcie) : (d.modPx x f).tcache = d.tcache := rfl
@[simp] theorem Dev.modPx_queues (d : Dev) (x : Nat) (f : Pcie → Pcie) : (d.modPx x f).queues = d.queues := rfl
@[simp] theorem Dev.modPx_evq (d : Dev) (x : Nat) (f : Pcie → Pcie) : (d.modPx x f).evq = d.evq := rfl
@[simp] theorem Dev.modPx_evqSeq (d : Dev) (x : Nat) (f : Pcie → Pcie) : (d.modPx x f).evqSeq = d.evqSeq := rfl
@[simp] theorem Dev.modPx_evqIssued (d : Dev) (x : Nat) (f : Pcie → Pcie) : (d.modPx x f).evqIssued = d.evqIssued := rfl
@[simp] theorem Dev.modPx_irqPend (d : Dev) (x : Nat) (f : Pcie → Pcie) : (d.modPx x f).irqPend = d.irqPend := rfl
@[simp] theorem Dev.modPx_modGap (d : Dev) (x : Nat) (f : Pcie → Pcie) : (d.modPx x f).modGap = d.modGap := rfl
@[simp] theorem Dev.modPx_pools (d : Dev) (x : Nat) (f : Pcie → Pcie) : (d.modPx x f).pools = d.pools := rfl
@[simp] theorem Dev.modPx_mails (d : Dev) (x : Nat) (f : Pcie → Pcie) : (d.modPx x f).mails = d.mails := rfl
@[simp] theorem Dev.modPx_taps (d : Dev) (x : Nat) (f : Pcie → Pcie) : (d.modPx x f).taps = d.taps := rfl
@[simp] theorem Dev.modPx_rings (d : Dev) (x : Nat) (f : Pcie → Pcie) : (d.modPx x f).rings = d.rings := rfl
@[simp] theorem Dev.modPx_movers (d : Dev) (x : Nat) (f : Pcie → Pcie) : (d.modPx x f).movers = d.movers := rfl
@[simp] theorem Dev.modPx_clocks (d : Dev) (x : Nat) (f : Pcie → Pcie) : (d.modPx x f).clocks = d.clocks := rfl
@[simp] theorem Dev.modPx_magPorts (d : Dev) (x : Nat) (f : Pcie → Pcie) : (d.modPx x f).magPorts = d.magPorts := rfl
@[simp] theorem Dev.modPx_mortars (d : Dev) (x : Nat) (f : Pcie → Pcie) : (d.modPx x f).mortars = d.mortars := rfl
@[simp] theorem Dev.modPx_fen (d : Dev) (x : Nat) (f : Pcie → Pcie) : (d.modPx x f).fen = d.fen := rfl
@[simp] theorem Dev.modPx_hist (d : Dev) (x : Nat) (f : Pcie → Pcie) : (d.modPx x f).hist = d.hist := rfl
@[simp] theorem Dev.modPx_heldRecs (d : Dev) (x : Nat) (f : Pcie → Pcie) : (d.modPx x f).heldRecs = d.heldRecs := rfl
@[simp] theorem Dev.modPx_failedStarts (d : Dev) (x : Nat) (f : Pcie → Pcie) : (d.modPx x f).failedStarts = d.failedStarts := rfl
@[simp] theorem Dev.modPx_flash (d : Dev) (x : Nat) (f : Pcie → Pcie) : (d.modPx x f).flash = d.flash := rfl
@[simp] theorem Dev.modPx_flashRun (d : Dev) (x : Nat) (f : Pcie → Pcie) : (d.modPx x f).flashRun = d.flashRun := rfl
@[simp] theorem Dev.modPx_eq (d : Dev) (x : Nat) (f : Pcie → Pcie) : (d.modPx x f).eq = d.eq := rfl
@[simp] theorem Dev.modPx_banks (d : Dev) (x : Nat) (f : Pcie → Pcie) : (d.modPx x f).banks = d.banks := rfl
@[simp] theorem Dev.modPx_away (d : Dev) (x : Nat) (f : Pcie → Pcie) : (d.modPx x f).away = d.away := rfl
@[simp] theorem Dev.modPx_mcLoad (d : Dev) (x : Nat) (f : Pcie → Pcie) : (d.modPx x f).mcLoad = d.mcLoad := rfl
@[simp] theorem Dev.modPx_asleep (d : Dev) (x : Nat) (f : Pcie → Pcie) : (d.modPx x f).asleep = d.asleep := rfl
@[simp] theorem Dev.modPx_scanIr (d : Dev) (x : Nat) (f : Pcie → Pcie) : (d.modPx x f).scanIr = d.scanIr := rfl
@[simp] theorem Dev.modPx_monFrom (d : Dev) (x : Nat) (f : Pcie → Pcie) : (d.modPx x f).monFrom = d.monFrom := rfl
@[simp] theorem Dev.modPx_reloaded (d : Dev) (x : Nat) (f : Pcie → Pcie) : (d.modPx x f).reloaded = d.reloaded := rfl
@[simp] theorem Dev.modPx_nextId (d : Dev) (x : Nat) (f : Pcie → Pcie) : (d.modPx x f).nextId = d.nextId := rfl
@[simp] theorem Dev.modPx_free (d : Dev) (x : Nat) (f : Pcie → Pcie) : (d.modPx x f).free = d.free := rfl
@[simp] theorem Dev.modPx_out (d : Dev) (x : Nat) (f : Pcie → Pcie) : (d.modPx x f).out = d.out := rfl
@[simp] theorem Dev.modPx_notes (d : Dev) (x : Nat) (f : Pcie → Pcie) : (d.modPx x f).notes = d.notes := rfl

/-! Dev.modSem -/

@[simp] theorem Dev.modSem_variant (d : Dev) (n : Nat) (f : Sem → Sem) : (d.modSem n f).variant = d.variant := rfl
@[simp] theorem Dev.modSem_regs (d : Dev) (n : Nat) (f : Sem → Sem) : (d.modSem n f).regs = d.regs := rfl
@[simp] theorem Dev.modSem_active (d : Dev) (n : Nat) (f : Sem → Sem) : (d.modSem n f).active = d.active := rfl
@[simp] theorem Dev.modSem_upsets (d : Dev) (n : Nat) (f : Sem → Sem) : (d.modSem n f).upsets = d.upsets := rfl
@[simp] theorem Dev.modSem_leadCopy (d : Dev) (n : Nat) (f : Sem → Sem) : (d.modSem n f).leadCopy = d.leadCopy := rfl
@[simp] theorem Dev.modSem_cfgLog (d : Dev) (n : Nat) (f : Sem → Sem) : (d.modSem n f).cfgLog = d.cfgLog := rfl
@[simp] theorem Dev.modSem_applied (d : Dev) (n : Nat) (f : Sem → Sem) : (d.modSem n f).applied = d.applied := rfl
@[simp] theorem Dev.modSem_heldCfg (d : Dev) (n : Nat) (f : Sem → Sem) : (d.modSem n f).heldCfg = d.heldCfg := rfl
@[simp] theorem Dev.modSem_lead (d : Dev) (n : Nat) (f : Sem → Sem) : (d.modSem n f).lead = d.lead := rfl
@[simp] theorem Dev.modSem_homes (d : Dev) (n : Nat) (f : Sem → Sem) : (d.modSem n f).homes = d.homes := rfl
@[simp] theorem Dev.modSem_mirrors (d : Dev) (n : Nat) (f : Sem → Sem) : (d.modSem n f).mirrors = d.mirrors := rfl
@[simp] theorem Dev.modSem_heldReads (d : Dev) (n : Nat) (f : Sem → Sem) : (d.modSem n f).heldReads = d.heldReads := rfl
@[simp] theorem Dev.modSem_activeUpsets (d : Dev) (n : Nat) (f : Sem → Sem) : (d.modSem n f).activeUpsets = d.activeUpsets := rfl
@[simp] theorem Dev.modSem_sealStop (d : Dev) (n : Nat) (f : Sem → Sem) : (d.modSem n f).sealStop = d.sealStop := rfl
@[simp] theorem Dev.modSem_margins (d : Dev) (n : Nat) (f : Sem → Sem) : (d.modSem n f).margins = d.margins := rfl
@[simp] theorem Dev.modSem_awaiting (d : Dev) (n : Nat) (f : Sem → Sem) : (d.modSem n f).awaiting = d.awaiting := rfl
@[simp] theorem Dev.modSem_stranded (d : Dev) (n : Nat) (f : Sem → Sem) : (d.modSem n f).stranded = d.stranded := rfl
@[simp] theorem Dev.modSem_modPend (d : Dev) (n : Nat) (f : Sem → Sem) : (d.modSem n f).modPend = d.modPend := rfl
@[simp] theorem Dev.modSem_ran (d : Dev) (n : Nat) (f : Sem → Sem) : (d.modSem n f).ran = d.ran := rfl
@[simp] theorem Dev.modSem_monHits (d : Dev) (n : Nat) (f : Sem → Sem) : (d.modSem n f).monHits = d.monHits := rfl
@[simp] theorem Dev.modSem_lost (d : Dev) (n : Nat) (f : Sem → Sem) : (d.modSem n f).lost = d.lost := rfl
@[simp] theorem Dev.modSem_shadows (d : Dev) (n : Nat) (f : Sem → Sem) : (d.modSem n f).shadows = d.shadows := rfl
@[simp] theorem Dev.modSem_lastPath (d : Dev) (n : Nat) (f : Sem → Sem) : (d.modSem n f).lastPath = d.lastPath := rfl
@[simp] theorem Dev.modSem_usCount (d : Dev) (n : Nat) (f : Sem → Sem) : (d.modSem n f).usCount = d.usCount := rfl
@[simp] theorem Dev.modSem_pcie (d : Dev) (n : Nat) (f : Sem → Sem) : (d.modSem n f).pcie = d.pcie := rfl
@[simp] theorem Dev.modSem_cfgSpace (d : Dev) (n : Nat) (f : Sem → Sem) : (d.modSem n f).cfgSpace = d.cfgSpace := rfl
@[simp] theorem Dev.modSem_ports (d : Dev) (n : Nat) (f : Sem → Sem) : (d.modSem n f).ports = d.ports := rfl
@[simp] theorem Dev.modSem_tcache (d : Dev) (n : Nat) (f : Sem → Sem) : (d.modSem n f).tcache = d.tcache := rfl
@[simp] theorem Dev.modSem_queues (d : Dev) (n : Nat) (f : Sem → Sem) : (d.modSem n f).queues = d.queues := rfl
@[simp] theorem Dev.modSem_evq (d : Dev) (n : Nat) (f : Sem → Sem) : (d.modSem n f).evq = d.evq := rfl
@[simp] theorem Dev.modSem_evqSeq (d : Dev) (n : Nat) (f : Sem → Sem) : (d.modSem n f).evqSeq = d.evqSeq := rfl
@[simp] theorem Dev.modSem_evqIssued (d : Dev) (n : Nat) (f : Sem → Sem) : (d.modSem n f).evqIssued = d.evqIssued := rfl
@[simp] theorem Dev.modSem_irqPend (d : Dev) (n : Nat) (f : Sem → Sem) : (d.modSem n f).irqPend = d.irqPend := rfl
@[simp] theorem Dev.modSem_modGap (d : Dev) (n : Nat) (f : Sem → Sem) : (d.modSem n f).modGap = d.modGap := rfl
@[simp] theorem Dev.modSem_pools (d : Dev) (n : Nat) (f : Sem → Sem) : (d.modSem n f).pools = d.pools := rfl
@[simp] theorem Dev.modSem_mails (d : Dev) (n : Nat) (f : Sem → Sem) : (d.modSem n f).mails = d.mails := rfl
@[simp] theorem Dev.modSem_taps (d : Dev) (n : Nat) (f : Sem → Sem) : (d.modSem n f).taps = d.taps := rfl
@[simp] theorem Dev.modSem_rings (d : Dev) (n : Nat) (f : Sem → Sem) : (d.modSem n f).rings = d.rings := rfl
@[simp] theorem Dev.modSem_movers (d : Dev) (n : Nat) (f : Sem → Sem) : (d.modSem n f).movers = d.movers := rfl
@[simp] theorem Dev.modSem_clocks (d : Dev) (n : Nat) (f : Sem → Sem) : (d.modSem n f).clocks = d.clocks := rfl
@[simp] theorem Dev.modSem_magPorts (d : Dev) (n : Nat) (f : Sem → Sem) : (d.modSem n f).magPorts = d.magPorts := rfl
@[simp] theorem Dev.modSem_mortars (d : Dev) (n : Nat) (f : Sem → Sem) : (d.modSem n f).mortars = d.mortars := rfl
@[simp] theorem Dev.modSem_fen (d : Dev) (n : Nat) (f : Sem → Sem) : (d.modSem n f).fen = d.fen := rfl
@[simp] theorem Dev.modSem_hist (d : Dev) (n : Nat) (f : Sem → Sem) : (d.modSem n f).hist = d.hist := rfl
@[simp] theorem Dev.modSem_heldRecs (d : Dev) (n : Nat) (f : Sem → Sem) : (d.modSem n f).heldRecs = d.heldRecs := rfl
@[simp] theorem Dev.modSem_failedStarts (d : Dev) (n : Nat) (f : Sem → Sem) : (d.modSem n f).failedStarts = d.failedStarts := rfl
@[simp] theorem Dev.modSem_flash (d : Dev) (n : Nat) (f : Sem → Sem) : (d.modSem n f).flash = d.flash := rfl
@[simp] theorem Dev.modSem_flashRun (d : Dev) (n : Nat) (f : Sem → Sem) : (d.modSem n f).flashRun = d.flashRun := rfl
@[simp] theorem Dev.modSem_eq (d : Dev) (n : Nat) (f : Sem → Sem) : (d.modSem n f).eq = d.eq := rfl
@[simp] theorem Dev.modSem_banks (d : Dev) (n : Nat) (f : Sem → Sem) : (d.modSem n f).banks = d.banks := rfl
@[simp] theorem Dev.modSem_away (d : Dev) (n : Nat) (f : Sem → Sem) : (d.modSem n f).away = d.away := rfl
@[simp] theorem Dev.modSem_mcLoad (d : Dev) (n : Nat) (f : Sem → Sem) : (d.modSem n f).mcLoad = d.mcLoad := rfl
@[simp] theorem Dev.modSem_asleep (d : Dev) (n : Nat) (f : Sem → Sem) : (d.modSem n f).asleep = d.asleep := rfl
@[simp] theorem Dev.modSem_scanIr (d : Dev) (n : Nat) (f : Sem → Sem) : (d.modSem n f).scanIr = d.scanIr := rfl
@[simp] theorem Dev.modSem_monFrom (d : Dev) (n : Nat) (f : Sem → Sem) : (d.modSem n f).monFrom = d.monFrom := rfl
@[simp] theorem Dev.modSem_reloaded (d : Dev) (n : Nat) (f : Sem → Sem) : (d.modSem n f).reloaded = d.reloaded := rfl
@[simp] theorem Dev.modSem_nextId (d : Dev) (n : Nat) (f : Sem → Sem) : (d.modSem n f).nextId = d.nextId := rfl
@[simp] theorem Dev.modSem_free (d : Dev) (n : Nat) (f : Sem → Sem) : (d.modSem n f).free = d.free := rfl
@[simp] theorem Dev.modSem_out (d : Dev) (n : Nat) (f : Sem → Sem) : (d.modSem n f).out = d.out := rfl
@[simp] theorem Dev.modSem_notes (d : Dev) (n : Nat) (f : Sem → Sem) : (d.modSem n f).notes = d.notes := rfl

/-! An event status bit -/

@[simp] theorem Dev.status_variant (d : Dev) (g : Fld) (u i cls x source : Nat) : (d.status g u i cls x source).variant = d.variant := by
  unfold Dev.status; split <;> rfl
@[simp] theorem Dev.status_active (d : Dev) (g : Fld) (u i cls x source : Nat) : (d.status g u i cls x source).active = d.active := by
  unfold Dev.status; split <;> rfl
@[simp] theorem Dev.status_leadCopy (d : Dev) (g : Fld) (u i cls x source : Nat) : (d.status g u i cls x source).leadCopy = d.leadCopy := by
  unfold Dev.status; split <;> rfl
@[simp] theorem Dev.status_cfgLog (d : Dev) (g : Fld) (u i cls x source : Nat) : (d.status g u i cls x source).cfgLog = d.cfgLog := by
  unfold Dev.status; split <;> rfl
@[simp] theorem Dev.status_applied (d : Dev) (g : Fld) (u i cls x source : Nat) : (d.status g u i cls x source).applied = d.applied := by
  unfold Dev.status; split <;> rfl
@[simp] theorem Dev.status_heldCfg (d : Dev) (g : Fld) (u i cls x source : Nat) : (d.status g u i cls x source).heldCfg = d.heldCfg := by
  unfold Dev.status; split <;> rfl
@[simp] theorem Dev.status_lead (d : Dev) (g : Fld) (u i cls x source : Nat) : (d.status g u i cls x source).lead = d.lead := by
  unfold Dev.status; split <;> rfl
@[simp] theorem Dev.status_homes (d : Dev) (g : Fld) (u i cls x source : Nat) : (d.status g u i cls x source).homes = d.homes := by
  unfold Dev.status; split <;> rfl
@[simp] theorem Dev.status_mirrors (d : Dev) (g : Fld) (u i cls x source : Nat) : (d.status g u i cls x source).mirrors = d.mirrors := by
  unfold Dev.status; split <;> rfl
@[simp] theorem Dev.status_heldReads (d : Dev) (g : Fld) (u i cls x source : Nat) : (d.status g u i cls x source).heldReads = d.heldReads := by
  unfold Dev.status; split <;> rfl
@[simp] theorem Dev.status_activeUpsets (d : Dev) (g : Fld) (u i cls x source : Nat) : (d.status g u i cls x source).activeUpsets = d.activeUpsets := by
  unfold Dev.status; split <;> rfl
@[simp] theorem Dev.status_sealStop (d : Dev) (g : Fld) (u i cls x source : Nat) : (d.status g u i cls x source).sealStop = d.sealStop := by
  unfold Dev.status; split <;> rfl
@[simp] theorem Dev.status_margins (d : Dev) (g : Fld) (u i cls x source : Nat) : (d.status g u i cls x source).margins = d.margins := by
  unfold Dev.status; split <;> rfl
@[simp] theorem Dev.status_awaiting (d : Dev) (g : Fld) (u i cls x source : Nat) : (d.status g u i cls x source).awaiting = d.awaiting := by
  unfold Dev.status; split <;> rfl
@[simp] theorem Dev.status_stranded (d : Dev) (g : Fld) (u i cls x source : Nat) : (d.status g u i cls x source).stranded = d.stranded := by
  unfold Dev.status; split <;> rfl
@[simp] theorem Dev.status_modPend (d : Dev) (g : Fld) (u i cls x source : Nat) : (d.status g u i cls x source).modPend = d.modPend := by
  unfold Dev.status; split <;> rfl
@[simp] theorem Dev.status_ran (d : Dev) (g : Fld) (u i cls x source : Nat) : (d.status g u i cls x source).ran = d.ran := by
  unfold Dev.status; split <;> rfl
@[simp] theorem Dev.status_monHits (d : Dev) (g : Fld) (u i cls x source : Nat) : (d.status g u i cls x source).monHits = d.monHits := by
  unfold Dev.status; split <;> rfl
@[simp] theorem Dev.status_lost (d : Dev) (g : Fld) (u i cls x source : Nat) : (d.status g u i cls x source).lost = d.lost := by
  unfold Dev.status; split <;> rfl
@[simp] theorem Dev.status_shadows (d : Dev) (g : Fld) (u i cls x source : Nat) : (d.status g u i cls x source).shadows = d.shadows := by
  unfold Dev.status; split <;> rfl
@[simp] theorem Dev.status_lastPath (d : Dev) (g : Fld) (u i cls x source : Nat) : (d.status g u i cls x source).lastPath = d.lastPath := by
  unfold Dev.status; split <;> rfl
@[simp] theorem Dev.status_usCount (d : Dev) (g : Fld) (u i cls x source : Nat) : (d.status g u i cls x source).usCount = d.usCount := by
  unfold Dev.status; split <;> rfl
@[simp] theorem Dev.status_pcie (d : Dev) (g : Fld) (u i cls x source : Nat) : (d.status g u i cls x source).pcie = d.pcie := by
  unfold Dev.status; split <;> rfl
@[simp] theorem Dev.status_cfgSpace (d : Dev) (g : Fld) (u i cls x source : Nat) : (d.status g u i cls x source).cfgSpace = d.cfgSpace := by
  unfold Dev.status; split <;> rfl
@[simp] theorem Dev.status_ports (d : Dev) (g : Fld) (u i cls x source : Nat) : (d.status g u i cls x source).ports = d.ports := by
  unfold Dev.status; split <;> rfl
@[simp] theorem Dev.status_sems (d : Dev) (g : Fld) (u i cls x source : Nat) : (d.status g u i cls x source).sems = d.sems := by
  unfold Dev.status; split <;> rfl
@[simp] theorem Dev.status_tcache (d : Dev) (g : Fld) (u i cls x source : Nat) : (d.status g u i cls x source).tcache = d.tcache := by
  unfold Dev.status; split <;> rfl
@[simp] theorem Dev.status_evq (d : Dev) (g : Fld) (u i cls x source : Nat) : (d.status g u i cls x source).evq = d.evq := by
  unfold Dev.status; split <;> rfl
@[simp] theorem Dev.status_evqSeq (d : Dev) (g : Fld) (u i cls x source : Nat) : (d.status g u i cls x source).evqSeq = d.evqSeq := by
  unfold Dev.status; split <;> rfl
@[simp] theorem Dev.status_evqIssued (d : Dev) (g : Fld) (u i cls x source : Nat) : (d.status g u i cls x source).evqIssued = d.evqIssued := by
  unfold Dev.status; split <;> rfl
@[simp] theorem Dev.status_irqPend (d : Dev) (g : Fld) (u i cls x source : Nat) : (d.status g u i cls x source).irqPend = d.irqPend := by
  unfold Dev.status; split <;> rfl
@[simp] theorem Dev.status_modGap (d : Dev) (g : Fld) (u i cls x source : Nat) : (d.status g u i cls x source).modGap = d.modGap := by
  unfold Dev.status; split <;> rfl
@[simp] theorem Dev.status_pools (d : Dev) (g : Fld) (u i cls x source : Nat) : (d.status g u i cls x source).pools = d.pools := by
  unfold Dev.status; split <;> rfl
@[simp] theorem Dev.status_mails (d : Dev) (g : Fld) (u i cls x source : Nat) : (d.status g u i cls x source).mails = d.mails := by
  unfold Dev.status; split <;> rfl
@[simp] theorem Dev.status_taps (d : Dev) (g : Fld) (u i cls x source : Nat) : (d.status g u i cls x source).taps = d.taps := by
  unfold Dev.status; split <;> rfl
@[simp] theorem Dev.status_rings (d : Dev) (g : Fld) (u i cls x source : Nat) : (d.status g u i cls x source).rings = d.rings := by
  unfold Dev.status; split <;> rfl
@[simp] theorem Dev.status_movers (d : Dev) (g : Fld) (u i cls x source : Nat) : (d.status g u i cls x source).movers = d.movers := by
  unfold Dev.status; split <;> rfl
@[simp] theorem Dev.status_clocks (d : Dev) (g : Fld) (u i cls x source : Nat) : (d.status g u i cls x source).clocks = d.clocks := by
  unfold Dev.status; split <;> rfl
@[simp] theorem Dev.status_magPorts (d : Dev) (g : Fld) (u i cls x source : Nat) : (d.status g u i cls x source).magPorts = d.magPorts := by
  unfold Dev.status; split <;> rfl
@[simp] theorem Dev.status_mortars (d : Dev) (g : Fld) (u i cls x source : Nat) : (d.status g u i cls x source).mortars = d.mortars := by
  unfold Dev.status; split <;> rfl
@[simp] theorem Dev.status_fen (d : Dev) (g : Fld) (u i cls x source : Nat) : (d.status g u i cls x source).fen = d.fen := by
  unfold Dev.status; split <;> rfl
@[simp] theorem Dev.status_hist (d : Dev) (g : Fld) (u i cls x source : Nat) : (d.status g u i cls x source).hist = d.hist := by
  unfold Dev.status; split <;> rfl
@[simp] theorem Dev.status_heldRecs (d : Dev) (g : Fld) (u i cls x source : Nat) : (d.status g u i cls x source).heldRecs = d.heldRecs := by
  unfold Dev.status; split <;> rfl
@[simp] theorem Dev.status_failedStarts (d : Dev) (g : Fld) (u i cls x source : Nat) : (d.status g u i cls x source).failedStarts = d.failedStarts := by
  unfold Dev.status; split <;> rfl
@[simp] theorem Dev.status_flash (d : Dev) (g : Fld) (u i cls x source : Nat) : (d.status g u i cls x source).flash = d.flash := by
  unfold Dev.status; split <;> rfl
@[simp] theorem Dev.status_flashRun (d : Dev) (g : Fld) (u i cls x source : Nat) : (d.status g u i cls x source).flashRun = d.flashRun := by
  unfold Dev.status; split <;> rfl
@[simp] theorem Dev.status_eq (d : Dev) (g : Fld) (u i cls x source : Nat) : (d.status g u i cls x source).eq = d.eq := by
  unfold Dev.status; split <;> rfl
@[simp] theorem Dev.status_banks (d : Dev) (g : Fld) (u i cls x source : Nat) : (d.status g u i cls x source).banks = d.banks := by
  unfold Dev.status; split <;> rfl
@[simp] theorem Dev.status_away (d : Dev) (g : Fld) (u i cls x source : Nat) : (d.status g u i cls x source).away = d.away := by
  unfold Dev.status; split <;> rfl
@[simp] theorem Dev.status_mcLoad (d : Dev) (g : Fld) (u i cls x source : Nat) : (d.status g u i cls x source).mcLoad = d.mcLoad := by
  unfold Dev.status; split <;> rfl
@[simp] theorem Dev.status_asleep (d : Dev) (g : Fld) (u i cls x source : Nat) : (d.status g u i cls x source).asleep = d.asleep := by
  unfold Dev.status; split <;> rfl
@[simp] theorem Dev.status_scanIr (d : Dev) (g : Fld) (u i cls x source : Nat) : (d.status g u i cls x source).scanIr = d.scanIr := by
  unfold Dev.status; split <;> rfl
@[simp] theorem Dev.status_monFrom (d : Dev) (g : Fld) (u i cls x source : Nat) : (d.status g u i cls x source).monFrom = d.monFrom := by
  unfold Dev.status; split <;> rfl
@[simp] theorem Dev.status_reloaded (d : Dev) (g : Fld) (u i cls x source : Nat) : (d.status g u i cls x source).reloaded = d.reloaded := by
  unfold Dev.status; split <;> rfl
@[simp] theorem Dev.status_nextId (d : Dev) (g : Fld) (u i cls x source : Nat) : (d.status g u i cls x source).nextId = d.nextId := by
  unfold Dev.status; split <;> rfl
@[simp] theorem Dev.status_free (d : Dev) (g : Fld) (u i cls x source : Nat) : (d.status g u i cls x source).free = d.free := by
  unfold Dev.status; split <;> rfl
@[simp] theorem Dev.status_out (d : Dev) (g : Fld) (u i cls x source : Nat) : (d.status g u i cls x source).out = d.out := by
  unfold Dev.status; split <;> rfl
@[simp] theorem Dev.status_notes (d : Dev) (g : Fld) (u i cls x source : Nat) : (d.status g u i cls x source).notes = d.notes := by
  unfold Dev.status; split <;> rfl

/-! What an update sets -/

@[simp] theorem Dev.emit_out (d : Dev) (o : Out) : (d.emit o).out = d.out ++ [o] := rfl
@[simp] theorem Dev.note_notes (d : Dev) (n : Note) : (d.note n).notes = d.notes ++ [n] := rfl
theorem Dev.setReg_eq_put (d : Dev) (r : RegId) (u i : Nat) (w : Word) : d.setReg r u i w = d.put ⟨r, u, i⟩ w := rfl

/-! The state after a command -/

@[simp] theorem State.close_pending (s : State) (d : Dev) : (s.close d).pending = s.pending := rfl
@[simp] theorem State.close_variant (s : State) (d : Dev) : (s.close d).dev.variant = s.dev.variant := rfl

end Sys2Proof.Machine
end

