-- ==== Sys2Proof/Laws/Store.lean ====
section
/-!
SUPPORT. Keyed stores: read after write, other keys untouched, and the canonical form kept by every operation.
-/

namespace Sys2Proof.Machine

/-! The order of keys -/

theorem Key.lt_iff (x y : Key) : x.lt y = true ↔ x.a < y.a ∨ x.a = y.a ∧ (x.b < y.b ∨ x.b = y.b ∧ x.c < y.c) := by
  simp [Key.lt]

theorem Key.lt_trans {x y z : Key} (h : x.lt y = true) (k : y.lt z = true) : x.lt z = true := by
  rw [Key.lt_iff] at *
  omega

theorem Key.lt_irrefl (x : Key) : x.lt x = false := by simp [Key.lt]

theorem Key.lt_or_lt {x y : Key} (h : x ≠ y) : x.lt y = true ∨ y.lt x = true := by
  rw [Key.lt_iff, Key.lt_iff]
  rcases x with ⟨a, b, c⟩
  rcases y with ⟨a', b', c'⟩
  have : ¬ (a = a' ∧ b = b' ∧ c = c') := fun e => h (by simp [e.1, e.2.1, e.2.2])
  simp only
  omega

/-! Read after write -/

section
variable {V : Type}

theorem Store.get_erase_same (d : V) (k : Key) (m : Store V) : Store.get d k (m.erase k) = d := by
  induction m with
  | nil => rfl
  | cons e r ih =>
    obtain ⟨k', v⟩ := e
    by_cases h : k' = k
    · simpa [Store.erase, h] using ih
    · simpa [Store.erase, h, Store.get] using ih

theorem Store.get_erase_ne (d : V) {k k' : Key} (h : k' ≠ k) (m : Store V) : Store.get d k' (m.erase k) = Store.get d k' m := by
  induction m with
  | nil => rfl
  | cons e r ih =>
    obtain ⟨x, v⟩ := e
    by_cases hx : x = k
    · subst hx
      simpa [Store.erase, Store.get, Ne.symm h] using ih
    · by_cases hy : x = k'
      · simp [Store.erase, Store.get, hy, h]
      · simpa [Store.erase, hx, Store.get, hy] using ih

theorem Store.get_insert_same (d : V) (k : Key) (v : V) (m : Store V) (h : ∀ e ∈ m, e.1 ≠ k) : Store.get d k (m.insert k v) = v := by
  induction m with
  | nil => simp [Store.insert, Store.get]
  | cons e r ih =>
    obtain ⟨x, w⟩ := e
    have hx : x ≠ k := h (x, w) (by simp)
    by_cases hl : k.lt x = true
    · simp [Store.insert, hl, Store.get]
    · simp only [Store.insert, hl, Store.get, hx, if_false, Bool.false_eq_true]
      exact ih fun e he => h e (by simp [he])

theorem Store.get_insert_ne (d : V) {k k' : Key} (h : k' ≠ k) (v : V) (m : Store V) :
    Store.get d k' (m.insert k v) = Store.get d k' m := by
  induction m with
  | nil => simp [Store.insert, Store.get, Ne.symm h]
  | cons e r ih =>
    obtain ⟨x, w⟩ := e
    by_cases hl : k.lt x = true
    · simp [Store.insert, hl, Store.get, Ne.symm h]
    · by_cases hx : x = k'
      · subst hx
        simp [Store.insert, hl, Store.get]
      · simpa [Store.insert, hl, Store.get, hx] using ih

theorem Store.erase_ne (k : Key) (m : Store V) : ∀ e ∈ m.erase k, e.1 ≠ k := by
  intro e he
  simpa [Store.erase] using (List.mem_filter.mp he).2

/-! The canonical form -/

/-- The keys of a store rise strictly: the form as a relation between any two places. -/
theorem Store.rising_iff (m : Store V) : m.rising = true ↔ m.Pairwise fun a b => a.1.lt b.1 = true := by
  induction m with
  | nil => simp [Store.rising]
  | cons e r ih =>
    cases r with
    | nil => simp [Store.rising]
    | cons e' r' =>
      obtain ⟨k, v⟩ := e
      obtain ⟨k', v'⟩ := e'
      rw [Store.rising, Bool.and_eq_true, ih, List.pairwise_cons (l := (k', v') :: r')]
      constructor
      · rintro ⟨h, p⟩
        refine ⟨fun x hx => ?_, p⟩
        rcases List.mem_cons.mp hx with rfl | hx
        · exact h
        · exact Key.lt_trans h ((List.pairwise_cons.mp p).1 x hx)
      · rintro ⟨h, p⟩
        exact ⟨h (k', v') (by simp), p⟩

theorem Store.mem_insert {k : Key} {v : V} {m : Store V} {e : Key × V} (h : e ∈ m.insert k v) : e = (k, v) ∨ e ∈ m := by
  induction m with
  | nil => simpa [Store.insert] using h
  | cons x r ih =>
    obtain ⟨k', v'⟩ := x
    by_cases hl : k.lt k' = true
    · simpa [Store.insert, hl] using h
    · simp only [Store.insert, hl, Bool.false_eq_true, if_false, List.mem_cons] at h
      rcases h with rfl | h
      · simp
      · rcases ih h with h | h
        · exact Or.inl h
        · simp [h]

theorem Store.rising_insert {k : Key} {v : V} {m : Store V} (hm : m.Pairwise fun a b => a.1.lt b.1 = true) (hk : ∀ e ∈ m, e.1 ≠ k) :
    (m.insert k v).Pairwise fun a b => a.1.lt b.1 = true := by
  induction m with
  | nil => simp [Store.insert]
  | cons x r ih =>
    obtain ⟨k', v'⟩ := x
    have hp := List.pairwise_cons.mp hm
    by_cases hl : k.lt k' = true
    · simp only [Store.insert, hl, if_true]
      refine List.pairwise_cons.mpr ⟨fun e he => ?_, hm⟩
      rcases List.mem_cons.mp he with rfl | he
      · exact hl
      · exact Key.lt_trans hl (hp.1 e he)
    · have hlt : k'.lt k = true := by
        rcases Key.lt_or_lt (hk (k', v') (by simp)) with h | h
        · exact h
        · exact absurd h hl
      simp only [Store.insert, hl, Bool.false_eq_true, if_false]
      refine List.pairwise_cons.mpr ⟨fun e he => ?_, ih hp.2 fun e he => hk e (by simp [he])⟩
      rcases Store.mem_insert he with rfl | he
      · exact hlt
      · exact hp.1 e he

variable [DecidableEq V]

/-- A value put at a key reads back. -/
@[simp] theorem Store.get_set_same (d : V) (k : Key) (v : V) (m : Store V) : Store.get d k (Store.set d k v m) = v := by
  unfold Store.set
  split
  · rename_i h
    rw [h, Store.get_erase_same]
  · exact Store.get_insert_same d k v _ (Store.erase_ne k m)

/-- A value put at a key leaves every other key as it read, whatever its default. -/
theorem Store.get_set_ne (d d' : V) {k k' : Key} (h : k' ≠ k) (v : V) (m : Store V) :
    Store.get d' k' (Store.set d k v m) = Store.get d' k' m := by
  unfold Store.set
  split
  · exact Store.get_erase_ne d' h m
  · rw [Store.get_insert_ne d' h, Store.get_erase_ne d' h]

/-- A write keeps the canonical form. -/
theorem Store.wf_set {dflt : Key → V} {m : Store V} (h : m.wf dflt = true) (k : Key) (v : V) :
    (Store.set (dflt k) k v m).wf dflt = true := by
  simp only [Store.wf, Bool.and_eq_true, List.all_eq_true, decide_eq_true_eq] at h ⊢
  have hr := (Store.rising_iff m).mp h.1
  have her : (m.erase k).Pairwise fun a b => a.1.lt b.1 = true := List.Pairwise.filter _ hr
  have hev : ∀ e ∈ m.erase k, e.2 ≠ dflt e.1 := fun e he => h.2 e (List.mem_filter.mp he).1
  unfold Store.set
  split
  · exact ⟨(Store.rising_iff _).mpr her, hev⟩
  · rename_i hv
    refine ⟨(Store.rising_iff _).mpr (Store.rising_insert her (Store.erase_ne k m)), fun e he => ?_⟩
    rcases Store.mem_insert he with rfl | he
    · exact hv
    · exact hev e he

/-- Entries left out keep the canonical form. -/
theorem Store.wf_filter {dflt : Key → V} {m : Store V} (h : m.wf dflt = true) (p : Key × V → Bool) :
    Store.wf dflt (m.filter p) = true := by
  simp only [Store.wf, Bool.and_eq_true, List.all_eq_true, decide_eq_true_eq] at h ⊢
  exact ⟨(Store.rising_iff _).mpr (List.Pairwise.filter _ ((Store.rising_iff m).mp h.1)), fun e he => h.2 e (List.mem_filter.mp he).1⟩

end

theorem Store.erase_erase (k : Key) (m : Store V) : Store.erase k (m.erase k) = m.erase k := by
  simp [Store.erase]

theorem Store.erase_insert (k : Key) (v : V) (m : Store V) (h : ∀ e ∈ m, e.1 ≠ k) : (m.insert k v).erase k = m := by
  induction m with
  | nil => simp [Store.insert, Store.erase]
  | cons e m ih =>
    have he : e.1 ≠ k := h e (by simp)
    have hm : ∀ x ∈ m, x.1 ≠ k := fun x hx => h x (by simp [hx])
    have hf : m.filter (fun e => decide (e.1 ≠ k)) = m := List.filter_eq_self.mpr fun x hx => by simp [hm x hx]
    simp only [Store.insert]
    split
    · simp only [Store.erase, List.filter_cons, ne_eq, not_true_eq_false, decide_false, Bool.false_eq_true, if_false, he, not_false_eq_true,
        decide_true, if_true]
      rw [hf]
    · simp only [Store.erase, List.filter_cons, he, ne_eq, not_false_eq_true, decide_true, if_true]
      rw [show (Store.insert k v m).filter (fun e => decide (e.1 ≠ k)) = Store.erase k (Store.insert k v m) from rfl, ih hm]

/-- The latest value put at a key is the one that stays. -/
@[simp] theorem Store.set_set [DecidableEq V] (d : V) (k : Key) (v w : V) (m : Store V) : Store.set d k v (Store.set d k w m) = Store.set d k v m := by
  have h : (Store.set d k w m).erase k = m.erase k := by
    unfold Store.set
    split
    · exact Store.erase_erase k m
    · exact Store.erase_insert k w _ (Store.erase_ne k m)
  show (if v = d then (Store.set d k w m).erase k else ((Store.set d k w m).erase k).insert k v) = _
  rw [h]
  rfl

end Sys2Proof.Machine
end

