-- ==== Sys2Proof/Laws/Reg.lean ====
section
/-!
SUPPORT. Registers: bit fields read after they are set, a register read after a write, other registers untouched.
-/

namespace Sys2Proof.Machine

/-! Bit fields -/

theorem bitsOf_testBit (w : Word) (hi lo k : Nat) : (bitsOf w hi lo).testBit k = (decide (k < hi + 1 - lo) && w.getLsbD (lo + k)) := by
  rw [bitsOf, Nat.testBit_mod_two_pow, Nat.testBit_div_two_pow, BitVec.testBit_toNat, Nat.add_comm k lo]

theorem maskOf_getLsbD (hi lo k : Nat) : (maskOf hi lo).getLsbD k = (decide (k < 32) && decide (lo ≤ k) && decide (k < hi + 1 - lo + lo)) := by
  rw [maskOf, BitVec.getLsbD_ofNat, Nat.testBit_mul_two_pow, Nat.testBit_two_pow_sub_one]
  by_cases h : lo ≤ k
  · have e : (k - lo < hi + 1 - lo) = (k < hi + 1 - lo + lo) := propext ⟨fun _ => by omega, fun _ => by omega⟩
    simp [h, e]
  · simp [h]

theorem putBits_getLsbD (w : Word) (hi lo v k : Nat) :
    (putBits w hi lo v).getLsbD k =
      if lo ≤ k ∧ k < hi + 1 - lo + lo ∧ k < 32 then v.testBit (k - lo) else w.getLsbD k := by
  rw [putBits, BitVec.getLsbD_or, BitVec.getLsbD_and, BitVec.getLsbD_and, BitVec.getLsbD_not, maskOf_getLsbD, BitVec.getLsbD_ofNat,
    Nat.testBit_mul_two_pow]
  by_cases h1 : lo ≤ k <;> by_cases h2 : k < hi + 1 - lo + lo <;> by_cases h3 : k < 32 <;> simp [h1, h2, h3] <;>
    exact BitVec.getLsbD_of_ge w k (by omega)

/-- A field that has been set reads as the value, cut to the field. -/
theorem bitsOf_putBits_same (w : Word) {hi lo : Nat} (v : Nat) (h : lo ≤ hi) (hh : hi < 32) :
    bitsOf (putBits w hi lo v) hi lo = v % 2 ^ (hi + 1 - lo) := by
  apply Nat.eq_of_testBit_eq
  intro k
  rw [bitsOf_testBit, putBits_getLsbD, Nat.testBit_mod_two_pow]
  by_cases hk : k < hi + 1 - lo
  · have : lo ≤ lo + k ∧ lo + k < hi + 1 - lo + lo ∧ lo + k < 32 := by omega
    simp [hk, this]
  · simp [hk]

/-- A field set leaves the fields beside it as they were. -/
theorem bitsOf_putBits_ne (w : Word) {hi lo hi' lo' : Nat} (v : Nat) (hl : lo ≤ hi) (h : hi < lo' ∨ hi' < lo) :
    bitsOf (putBits w hi lo v) hi' lo' = bitsOf w hi' lo' := by
  apply Nat.eq_of_testBit_eq
  intro k
  rw [bitsOf_testBit, bitsOf_testBit, putBits_getLsbD]
  by_cases hk : k < hi' + 1 - lo'
  · have : ¬ (lo ≤ lo' + k ∧ lo' + k < hi + 1 - lo + lo ∧ lo' + k < 32) := by omega
    simp [this]
  · simp [hk]

/-! Keys -/

theorem RegId.ctorIdx_inj {r r' : RegId} (h : r.ctorIdx = r'.ctorIdx) : r = r' := by
  rw [← RegId.ofNat_ctorIdx r, ← RegId.ofNat_ctorIdx r', h]

/-- Registers at different places have different keys. -/
theorem Loc.key_inj {l l' : Loc} (h : l.key = l'.key) : l = l' := by
  obtain ⟨r, u, i⟩ := l
  obtain ⟨r', u', i'⟩ := l'
  simp only [Loc.key, Key.mk.injEq] at h
  rw [RegId.ctorIdx_inj h.1, h.2.1, h.2.2]

/-! A register read after a write -/

theorem Dev.raw_put_same (d : Dev) (l : Loc) (w : Word) : (d.put l w).raw l = w := by
  simp [Dev.raw, Dev.put]

theorem Dev.raw_put_ne (d : Dev) {l l' : Loc} (h : l' ≠ l) (w : Word) : (d.put l w).raw l' = d.raw l' := by
  simp only [Dev.raw, Dev.put]
  exact Store.get_set_ne _ _ (fun e => h (Loc.key_inj e)) _ _

/-- A register that has been written reads as the word: all three copies hold it (R73). -/
@[simp] theorem Dev.at_put_same (d : Dev) (l : Loc) (w : Word) : (d.put l w).at l = w := by
  simp only [Dev.at, Dev.raw_put_same]
  simp [Dev.put]

/-- A write leaves every other register as it read. -/
theorem Dev.at_put_ne (d : Dev) {l l' : Loc} (h : l' ≠ l) (w : Word) : (d.put l w).at l' = d.at l' := by
  simp only [Dev.at, Dev.raw_put_ne d h]
  have : Store.get none l'.key (d.put l w).upsets = Store.get none l'.key d.upsets := by
    simp only [Dev.put]
    exact Store.get_set_ne _ _ (fun e => h (Loc.key_inj e)) _ _
  rw [this]

/-- What a register reads depends on the registers and their copies only. -/
theorem Dev.at_congr {d e : Dev} (h : e.regs = d.regs) (k : e.upsets = d.upsets) (l : Loc) : e.at l = d.at l := by
  simp [Dev.at, Dev.raw, h, k]

theorem Dev.fld_congr {d e : Dev} (h : e.regs = d.regs) (k : e.upsets = d.upsets) (f : Fld) (u i : Nat) : e.fld f u i = d.fld f u i := by
  simp [Dev.fld, Dev.reg, Dev.at_congr h k]

/-- A field that has been set reads as the value, cut to the field. -/
theorem Dev.fld_setFld_same (d : Dev) (f : Fld) (u i v : Nat) (h : f.lo ≤ f.hi) (hh : f.hi < 32) :
    (d.setFld f u i v).fld f u i = v % 2 ^ (f.hi + 1 - f.lo) := by
  simp only [Dev.setFld, Dev.setReg, Dev.fld, Dev.reg, Dev.at_put_same]
  exact bitsOf_putBits_same _ _ h hh

/-- A field set leaves the fields of other registers as they read. -/
theorem Dev.fld_setFld_ne (d : Dev) (f g : Fld) (u i u' i' v : Nat) (h : (⟨g.reg, u', i'⟩ : Loc) ≠ ⟨f.reg, u, i⟩) :
    (d.setFld f u i v).fld g u' i' = d.fld g u' i' := by
  simp only [Dev.setFld, Dev.setReg, Dev.fld, Dev.reg]
  rw [Dev.at_put_ne d h]

/-- A field set leaves the fields beside it in its register as they read. -/
theorem Dev.fld_setFld_beside (d : Dev) (f g : Fld) (u i v : Nat) (hr : g.reg = f.reg) (hl : f.lo ≤ f.hi) (h : f.hi < g.lo ∨ g.hi < f.lo) :
    (d.setFld f u i v).fld g u i = d.fld g u i := by
  simp only [Dev.setFld, Dev.setReg, Dev.fld, Dev.reg, hr, Dev.at_put_same]
  exact bitsOf_putBits_ne _ _ hl h

/-- A field set leaves every other register as it reads. -/
theorem Dev.at_setFld_ne (d : Dev) (f : Fld) (u i v : Nat) {l : Loc} (h : l ≠ ⟨f.reg, u, i⟩) : (d.setFld f u i v).at l = d.at l :=
  Dev.at_put_ne d h _

/-- An event status bit that hardware sets reads 1. -/
theorem Dev.flag_status (d : Dev) (f : Fld) (u i cls x source : Nat) (h : f.lo = f.hi) (hh : f.hi < 32) :
    (d.status f u i cls x source).flag f u i = true := by
  unfold Dev.status
  split
  · assumption
  · have e : ((d.setFld f u i 1).raise x cls ⟨f.reg, u, i⟩ f.lo source).fld f u i = (d.setFld f u i 1).fld f u i :=
      Dev.fld_congr rfl rfl f u i
    rw [Dev.flag, e, Dev.fld_setFld_same d f u i 1 (Nat.le_of_eq h) hh, h]
    simp

/-- An event status bit that hardware sets leaves every other register as it reads. -/
theorem Dev.at_status_ne (d : Dev) (f : Fld) (u i cls x source : Nat) {l : Loc} (h : l ≠ ⟨f.reg, u, i⟩) :
    (d.status f u i cls x source).at l = d.at l := by
  unfold Dev.status
  split
  · rfl
  · rw [Dev.at_congr (e := (d.setFld f u i 1).raise x cls ⟨f.reg, u, i⟩ f.lo source) (d := d.setFld f u i 1) rfl rfl]
    exact Dev.at_setFld_ne d f u i 1 h

end Sys2Proof.Machine
end

