-- ==== Sys2Proof/Laws/Run.lean ====
section
/-!
SUPPORT. What the shared operations of Run.lean, Settle.lean and RegAccess.lean can do, said once each.
-/

namespace Sys2Proof.Machine

theorem guarded_next {i : Instr} {s : State} (h : s.dev.takes i = true) (t : State) : guarded i s t = .next t := by
  simp only [Dev.takes, Bool.and_eq_true] at h
  simp [guarded, h.1, h.2]

theorem perform_next {i : Instr} {s : State} (h : s.dev.takes i = true) (f : Locks → Dev → Dev) :
    perform i s f = .next (s.after (f s.locks s.dev)) := guarded_next h _

theorem performAlone_next {i : Instr} {s : State} (h : s.dev.takes i = true) (f : Dev → Dev) :
    performAlone i s f = .next (s.withDev (f s.dev)) := guarded_next h _

theorem performReset_next {i : Instr} {s : State} (h : s.dev.takes i = true) (f : Locks → Dev → Dev) :
    performReset i s f = .next (({ s with locks := Locks.clear } : State).after (f Locks.clear s.dev)) :=
  guarded_next (s := { s with locks := Locks.clear }) h _

/-- A guarded command answers a next state exactly where it can reach the block. -/
theorem guarded_cases (i : Instr) (s t : State) :
    (s.dev.takes i = true ∧ guarded i s t = .next t) ∨ (i.wf = false ∧ guarded i s t = .fault .illFormed) ∨
      (i.wf = true ∧ i.present s.dev.n = false ∧ guarded i s t = .fault .absentUnit) := by
  cases hw : i.wf <;> cases hp : i.present s.dev.n <;> simp [guarded, Dev.takes, hw, hp]

/-- A device at rest stays as it is. -/
theorem settle_rests {d : Dev} {L : Locks} (h : d.Rests L) : d.settle L = d := by
  have h1 : d.settleN L settleFuel = d := by
    unfold settleFuel
    rw [show (2 : Nat) ^ 32 = (2 ^ 32 - 1) + 1 from rfl, Dev.settleN]
    simp [h.1, h.2.1]
  rw [Dev.settle, h1, h.2.2]

/-! Software writes -/

/-- A check that denies nothing leaves the device as it is, and allows the whole access. -/
theorem protCheck_allowed {d : Dev} {q : ProtReq} (h : (d.protCheck q).1.denied = false) :
    (d.protCheck q).1.whole = false ∧ (d.protCheck q).2 = d := by
  unfold Dev.protCheck at h ⊢
  simp only at h ⊢
  split
  · simp
  · rename_i hb
    simp [hb] at h

theorem wordsAt_word {off : Nat} (h : off % 4 = 0) : wordsAt off 4 = [off] := by
  have : (off % 4 + 4 + 3) / 4 = 1 := by omega
  simp [wordsAt, this]
  omega

theorem writeReason_word {off : Nat} (h : off % 4 = 0) : writeReason off 4 15 = none := by
  have h8 : ¬ 8 < off % 8 + 4 := by omega
  simp [writeReason, h8, h]

/-- A write of one whole word that is let through and reaches a register outside package configuration. -/
theorem busWrite_word {d : Dev} {L : Locks} {src : Src} {off v at_ : Nat} {l : Loc} (hg : d.grants src off 4 1 = true) (h4 : off % 4 = 0)
    (hl : locate d.n off = some l) (hc : l.isCfg = false) :
    d.busWrite L src off 4 15 v at_ =
      (match (d.served src off).writeCourse L src off (BitVec.ofNat 32 v) at_ with
        | (some k, e) => e.accErr src true k off 4
        | (none, e) => e).answered src := by
  simp only [Dev.grants, Dev.unbarred, beq_self_eq_true, Bool.and_eq_true, Bool.or_eq_true, decide_eq_true_eq, Bool.not_eq_true',
    Nat.reduceBEq, Bool.false_eq_true, false_or] at hg
  obtain ⟨⟨⟨⟨hu, hr⟩, ho⟩, ht⟩, hp⟩ := hg
  have hb : (decide (src.path < 8) && d.waitsCredit src.path true) = false := by
    rcases hu with h | h
    · simp; omega
    · simp [h]
  have hw : d.regWrite L src off 4 15 v at_ = (.ok, match (d.served src off).writeCourse L src off (BitVec.ofNat 32 v) at_ with
        | (some k, e) => e.accErr src true k off 4
        | (none, e) => e) := by
    have hi : indexed [off] = [(0, off)] := rfl
    simp only [Dev.regWrite, writeReason_word h4, wordsAt_word h4, List.any_cons, List.any_nil, hl, Option.any_some, hc, hi,
      List.foldl_cons, List.foldl_nil, Bool.or_false, Bool.and_false, Bool.false_eq_true, if_false, Nat.mul_zero, Nat.pow_zero, Nat.div_one]
    rcases (d.served src off).writeCourse L src off (BitVec.ofNat 32 v) at_ with ⟨_ | k, e⟩ <;> rfl
  simp only [Dev.busWrite, hb, hr, ho, Dev.busWriteNow, ht, Bool.not_true, Bool.false_eq_true, if_false, hw]
  by_cases h16 : src.path < 16
  · have hd : (d.protCheck (d.srcReq src .ctrl off 4 1)).1.denied = false := by
      rcases hp with h | h
      · omega
      · exact h
    obtain ⟨hv, he⟩ := protCheck_allowed hd
    simp only [if_pos h16, hv, he, hw, Bool.false_eq_true, if_false, Dev.answered, hd]
    by_cases h8 : src.path < 8
    · simp [h8]
    · simp [h8]
      rfl
  · have h8 : ¬ src.path < 8 := by omega
    simp [h16, h8, Dev.answered]
    rfl

/-- Registers whose write concerns neither a pair of registers nor a mailbox. -/
def RegId.plain (r : RegId) : Bool := r.pairHi.isNone && r.pairLo.isNone && !r.isMail && !r.isFlash && !r.isPort

@[simp] theorem served_leadCopy (d : Dev) (s : Src) (off : Nat) : (d.served s off).leadCopy = d.leadCopy := rfl
@[simp] theorem served_regs (d : Dev) (s : Src) (off : Nat) : (d.served s off).regs = d.regs := rfl
@[simp] theorem served_upsets (d : Dev) (s : Src) (off : Nat) : (d.served s off).upsets = d.upsets := rfl
@[simp] theorem served_n (d : Dev) (s : Src) (off : Nat) : (d.served s off).n = d.n := rfl
@[simp] theorem served_lockHit (d : Dev) (s : Src) (off : Nat) (L : Locks) (l : Loc) (v : Word) :
    (d.served s off).lockHit L l v = d.lockHit L l v := rfl
@[simp] theorem served_at (d : Dev) (s : Src) (off : Nat) (l : Loc) : (d.served s off).at l = d.at l := rfl

@[simp] theorem openSeal_leadCopy (d : Dev) (x : Nat) : (d.openSeal x).leadCopy = d.leadCopy := by
  unfold Dev.openSeal; split <;> rfl

/-- What a write of a word to a plain register outside package configuration does. -/
theorem writeCourse_plain {d : Dev} {L : Locks} {src : Src} {l : Loc} {v : Word} {at_ : Nat} (hl : locate d.n l.offset = some l)
    (hc : l.isCfg = false) (hp : l.reg.plain = true) :
    d.writeCourse L src l.offset v at_ =
      let r := (d.stored l (d.setMask src l (lockOf L l)) v).writeHook L src l (lockOf L l) (d.at l) v
      (bif r.1 then some 10 else bif d.lockHit L l v then some 5 else none, r.2) := by
  simp only [RegId.plain, Bool.and_eq_true, Bool.not_eq_true', Option.isNone_iff_eq_none] at hp
  obtain ⟨⟨⟨⟨hhi, hlo⟩, hm⟩, hf⟩, hq⟩ := hp
  have hs : l.seenBy src = l := by simp [Loc.seenBy, hm, hc]
  simp only [Dev.writeCourse, hl, hs, hhi, hlo, hc, Option.isSome_none, Bool.false_eq_true, if_false, Option.map_none, Dev.stored]

/-- The command that writes a field of a plain register outside package configuration. -/
theorem swCmd_plain {d : Dev} {L : Locks} {src : Src} {l : Loc} {f : Word → Word} {at_ : Nat} (hg : d.lets src l = true)
    (h4 : l.offset % 4 = 0) (hl : locate d.n l.offset = some l) (hc : l.isCfg = false) (hp : l.reg.plain = true) :
    d.swCmd L src l f at_ =
      let v := f (d.at l &&& l.reg.maskWhere fun f => f.ty == .rw || f.ty == .lk)
      let e := d.written src l
      let r := (e.stored l (e.setMask src l (lockOf L l)) v).writeHook L src l (lockOf L l) (d.at l) v
      (match (bif r.1 then some 10 else bif d.lockHit L l v then some 5 else none) with
        | some k => r.2.accErr src true k l.offset 4
        | none => r.2).answered src := by
  have hs : l.seenBy src = l := by
    simp only [RegId.plain, Bool.and_eq_true, Bool.not_eq_true'] at hp
    simp [Loc.seenBy, hp.1.1.2, hc]
  have hl' : locate (d.served src l.offset).n l.offset = some l := hl
  simp only [Dev.swCmd, busWrite_word hg h4 hl hc, writeCourse_plain hl' hc hp, BitVec.ofNat_toNat, BitVec.setWidth_eq, hs, served_at, served_lockHit,
    Dev.written]
  congr 1
  generalize Dev.writeHook _ _ _ _ _ _ _ = r
  generalize Dev.lockHit _ _ _ _ = b
  obtain ⟨_ | _, e⟩ := r <;> cases b <;> rfl

/-- Registers that no location makes package configuration. -/
def RegId.outside (r : RegId) : Bool := !(Loc.isCfg ⟨r, 0, 0⟩) && r != .DIE_Q_CFG

theorem isCfg_outside {l : Loc} (h : l.reg.outside = true) : l.isCfg = false := by
  obtain ⟨r, u, i⟩ := l
  simp only [RegId.outside, Bool.and_eq_true, Bool.not_eq_true', bne_iff_ne] at h
  unfold Loc.isCfg at h ⊢
  split at h <;> simp_all

/-- A register outside package configuration whose fields are all triggers: a write leaves nothing in it. -/
def RegId.trigger (r : RegId) : Bool :=
  r.plain && !r.isLk && r.outside && (r.writable true == 0) && (r.writable false == 0) &&
    (r.maskWhere fun f => f.ty == .rw || f.ty == .lk) == 0

/-- The command that writes a trigger. -/
theorem swCmd_trigger {d : Dev} {L : Locks} {src : Src} {l : Loc} {f : Word → Word} {at_ : Nat} (hf : l.fits d.n = true)
    (ht : l.reg.trigger = true) (hg : d.lets src l = true) :
    d.swCmd L src l f at_ =
      let r := (d.written src l).writeHook L src l (lockOf L l) (d.at l) (f 0)
      (if r.1 then r.2.accErr src true 10 l.offset 4 else r.2).answered src := by
  simp only [RegId.trigger, Bool.and_eq_true, Bool.not_eq_true', beq_iff_eq] at ht
  obtain ⟨⟨⟨⟨⟨hp, hk⟩, ho⟩, hw1⟩, hw2⟩, hm⟩ := ht
  have hc : l.isCfg = false := isCfg_outside ho
  have hw : ∀ b, l.reg.writable b = 0 := by intro b; cases b <;> assumption
  have hs : ∀ e : Dev, e.setMask src l (lockOf L l) = 0 := by
    intro e
    unfold Dev.setMask
    repeat' split
    all_goals simp [hw]
  rw [swCmd_plain hg (offset_word l) (locate_offset hf) hc hp]
  simp only [hm, hs, Dev.stored, if_true, Dev.lockHit, hk, Bool.false_and]
  have : d.at l &&& (0 : Word) = 0 := by simp
  simp only [this]
  split <;> split <;> simp_all

end Sys2Proof.Machine
end

