-- ==== Sys2Proof/Laws/Pcie.lean ====
section
/-!
SUPPORT. What the operations of a PCI Express port leave: the port's running state, the reset of a port.
-/

namespace Sys2Proof.Machine

@[simp] theorem px_modPx_same (d : Dev) (x : Nat) (f : Pcie → Pcie) : (d.modPx x f).px x = f (d.px x) := by simp [Dev.modPx, Dev.px]

theorem px_modPx_ne (d : Dev) {x y : Nat} (h : y ≠ x) (f : Pcie → Pcie) : (d.modPx x f).px y = d.px y := by
  simp only [Dev.modPx, Dev.px]
  exact Store.get_set_ne _ _ (by simp [h]) _ _

/-- The Command and Status register reads as it is stored. -/
theorem cfgRead_command (d : Dev) (x : Nat) : d.cfgRead x 4 = d.cfgStored x 4 := rfl

theorem cfgStored_cfgPut_ne (d : Dev) (x y : Nat) {o p : Nat} (h : p ≠ o) (w : Word) : (d.cfgPut x o w).cfgStored y p = d.cfgStored y p := by
  simp only [Dev.cfgPut, Dev.cfgStored]
  rw [Store.get_set_ne _ _ (by simp [h])]

theorem cfgStored_cfgSet_ne (d : Dev) (x y : Nat) {o p : Nat} (h : p ≠ o) (bits : List Nat) :
    (d.cfgSet x o bits).cfgStored y p = d.cfgStored y p := cfgStored_cfgPut_ne d x y h _

/-- A store without the entries that a test picks reads as empty at a key the test always picks. -/
theorem get_filter_gone {V : Type} (k : Key) (p : Key × Option V → Bool) (m : Store (Option V)) (h : ∀ v, p (k, v) = false) :
    Store.get none k (m.filter p) = none := by
  induction m with
  | nil => rfl
  | cons e m ih =>
    obtain ⟨k', v⟩ := e
    by_cases hk : k' = k
    · subst hk; simp [h, ih]
    · by_cases hp : p (k', v) = true
      · simp [hp, Store.get, hk, ih]
      · simp [hp, ih]

/-- Updates of ports in a row touch the ports only. -/
theorem modPorts_ports (F : Nat → Port → Port) (l : List Nat) (d : Dev) :
    ∃ ps, l.foldl (fun e p => e.modPort p (F p)) d = { d with ports := ps } := by
  induction l generalizing d with
  | nil => exact ⟨d.ports, rfl⟩
  | cons p l ih =>
    obtain ⟨ps, h⟩ := ih (d.modPort p (F p))
    exact ⟨ps, h.trans rfl⟩

/-- Ending AtomicOps touches only the work at the ports. -/
theorem failAtomics_ports (d : Dev) (f : Acc → Bool) : ∃ ps, d.failAtomics f = { d with ports := ps } :=
  modPorts_ports _ _ _

/-- A port with another first error pointer and header log. -/
def logAt (f g : Option Nat) (p : Pcie) : Pcie := { p with aerFirst := f, aerLog := g }

/-- A logged header touches the port's first error pointer and log, and the counter of free values. -/
theorem aerHeader_cases (d : Dev) (x : Nat) (k : AerErr) :
    d.aerHeader x k = d ∨ ∃ f g n, d.aerHeader x k = { d.modPx x (logAt f g) with free := n } := by
  unfold Dev.aerHeader
  split
  · exact .inl rfl
  · refine .inr ⟨some k.bit, if k.hasTlp then some d.free else (d.px x).aerLog, if k.hasTlp then d.free + 8 else d.free, ?_⟩
    cases k.hasTlp <;> rfl

theorem aerHeader_effect (d : Dev) (x : Nat) (k : AerErr) :
    (∃ f g, (d.aerHeader x k).px x = logAt f g (d.px x)) ∧ (∀ y, y ≠ x → (d.aerHeader x k).px y = d.px y) ∧
      (∀ l, (d.aerHeader x k).at l = d.at l) ∧ ∀ y o, (d.aerHeader x k).cfgStored y o = d.cfgStored y o := by
  obtain h | ⟨f, g, n, h⟩ := aerHeader_cases d x k <;> rw [h]
  · exact ⟨⟨(d.px x).aerFirst, (d.px x).aerLog, rfl⟩, fun _ _ => rfl, fun _ => rfl, fun _ _ => rfl⟩
  · exact ⟨⟨f, g, px_modPx_same d x (logAt f g)⟩, fun y hy => px_modPx_ne d hy (logAt f g), fun _ => rfl, fun _ _ => rfl⟩

/-- A completion timeout logged under AER: status bits, the header log, with system errors off at most one message. -/
theorem aer_timeout_cases (d : Dev) (x : Nat) (hs : (d.cfgStored x 4).getLsbD 8 = false) :
    ∃ bits, let m := ((d.cfgSet x 0x78 bits).cfgSet x 0x104 [AerErr.completionTimeout.bit]).aerHeader x .completionTimeout
      d.aer x .completionTimeout = m ∨ d.aer x .completionTimeout = m.emit (.aer x .completionTimeout) := by
  refine ⟨(if (d.cfgStored x 0x10C).getLsbD AerErr.completionTimeout.bit then 18 else 17) :: [], ?_⟩
  have hu : (AerErr.completionTimeout == AerErr.unsupported) = false := rfl
  simp only [Dev.aer, hs, hu, reduceCtorEq, if_false, Bool.false_and, Bool.false_eq_true]
  cases (d.cfgStored x 0x10C).getLsbD AerErr.completionTimeout.bit <;> simp only [Bool.false_eq_true, if_false, if_true] <;> split <;> simp

/-- What a completion timeout logged under AER leaves. -/
theorem aer_timeout_effect (d : Dev) (x : Nat) (hs : (d.cfgStored x 4).getLsbD 8 = false) :
    (∃ f g, (d.aer x .completionTimeout).px x = logAt f g (d.px x)) ∧
      (∀ y, y ≠ x → (d.aer x .completionTimeout).px y = d.px y) ∧ (∀ l, (d.aer x .completionTimeout).at l = d.at l) ∧
      (d.aer x .completionTimeout).cfgStored x 4 = d.cfgStored x 4 := by
  obtain ⟨bits, h⟩ := aer_timeout_cases d x hs
  obtain ⟨h1, h2, h3, h4⟩ := aerHeader_effect ((d.cfgSet x 0x78 bits).cfgSet x 0x104 [AerErr.completionTimeout.bit]) x .completionTimeout
  have hc := h4 x 4
  rw [cfgStored_cfgSet_ne _ _ _ (by decide), cfgStored_cfgSet_ne _ _ _ (by decide)] at hc
  obtain h | h := h <;> rw [h] <;> exact ⟨h1, h2, h3, hc⟩

/-- Issued requests that end as completion timeouts leave the registers, the port but for its error log, and the Command register. -/
theorem issued_end (x : Nat) (iss : List Issued) (d : Dev) (hs : (d.cfgStored x 4).getLsbD 8 = false) :
    let e := iss.foldl (fun d i => (d.aer x .completionTimeout).note (.hostEnd i.req i.tag false false false true [])) d
    (∃ f g, e.px x = logAt f g (d.px x)) ∧ (∀ y, y ≠ x → e.px y = d.px y) ∧ (∀ l, e.at l = d.at l) ∧
      e.cfgStored x 4 = d.cfgStored x 4 := by
  induction iss generalizing d with
  | nil => exact ⟨⟨(d.px x).aerFirst, (d.px x).aerLog, rfl⟩, fun _ _ => rfl, fun _ => rfl, rfl⟩
  | cons i iss ih =>
    simp only [List.foldl_cons]
    obtain ⟨⟨f, g, h1⟩, h2, h3, h4⟩ := aer_timeout_effect d x hs
    obtain ⟨⟨f', g', a⟩, b, c, e⟩ := ih ((d.aer x .completionTimeout).note (.hostEnd i.req i.tag false false false true []))
      (by show ((d.aer x .completionTimeout).cfgStored x 4).getLsbD 8 = false; rw [h4]; exact hs)
    refine ⟨⟨f', g', a.trans ?_⟩, fun y hy => (b y hy).trans (h2 y hy), fun l => (c l).trans (h3 l), e.trans h4⟩
    show logAt f' g' ((d.aer x .completionTimeout).px x) = _
    rw [h1]
    rfl

/-- The reset of a port's function (R105). -/
theorem pxReset_effect (d : Dev) (x : Nat) :
    (∃ f g, (d.pxReset x).px x =
        logAt f g { d.px x with owed := [], issued := [], waitTag := [], heldReq := (d.px x).waitTag ++ (d.px x).heldReq }) ∧
      (∀ y, y ≠ x → (d.pxReset x).px y = d.px y) ∧ (∀ l, (d.pxReset x).at l = d.at l) ∧ (d.pxReset x).cfgRead x 4 = 0x00100000#32 := by
  obtain ⟨ps, h⟩ := failAtomics_ports d fun a => a.die == x
  simp only [Dev.pxReset, h]
  generalize (Dev.px _ x).issued = iss
  generalize hd : Dev.modPx _ x _ = m
  have hm : m.px x = { d.px x with owed := [], issued := [], waitTag := [], heldReq := (d.px x).waitTag ++ (d.px x).heldReq } := by
    rw [← hd, px_modPx_same]; rfl
  have hq : ∀ y, y ≠ x → m.px y = d.px y := by intro y hy; rw [← hd, px_modPx_ne _ hy]; rfl
  have hr : ∀ l, m.at l = d.at l := by intro l; rw [← hd]; rfl
  have hc : (m.cfgClear x).cfgStored x 4 = 0x00100000#32 := by
    show ((Store.get none _ (List.filter _ _)).getD _) = _
    rw [get_filter_gone]
    · rfl
    · intro v; simp [cfgSticky]
  obtain ⟨⟨f, g, a⟩, b, c, e⟩ := issued_end x iss (m.cfgClear x) (by rw [hc]; decide)
  refine ⟨⟨f, g, a.trans ?_⟩, fun y hy => (b y hy).trans (hq y hy), fun l => (c l).trans (hr l), ?_⟩
  · show logAt f g (m.px x) = _
    rw [hm]
  · rw [cfgRead_command, e, hc]

end Sys2Proof.Machine
end

