-- ==== Sys2Proof/Laws/View.lean ====
section
/-!
SUPPORT. What each view of the device (a register, a field, a port, a ring, a queue) reads after each primitive update that does not
concern it, and after the one that does.
-/

namespace Sys2Proof.Machine

/-! Dev.emit -/

@[simp] theorem at_emit (d : Dev) (o : Out) (l : Loc) : (d.emit o).at l = d.at l := rfl
@[simp] theorem fld_emit (d : Dev) (o : Out) (f : Fld) (u i : Nat) : (d.emit o).fld f u i = d.fld f u i := rfl
@[simp] theorem flag_emit (d : Dev) (o : Out) (f : Fld) (u i : Nat) : (d.emit o).flag f u i = d.flag f u i := rfl
@[simp] theorem reg_emit (d : Dev) (o : Out) (r : RegId) (u i : Nat) : (d.emit o).reg r u i = d.reg r u i := rfl
@[simp] theorem port_emit (d : Dev) (o : Out) (q : Nat) : (d.emit o).port q = d.port q := rfl
@[simp] theorem px_emit (d : Dev) (o : Out) (y : Nat) : (d.emit o).px y = d.px y := rfl
@[simp] theorem sem_emit (d : Dev) (o : Out) (m : Nat) : (d.emit o).sem m = d.sem m := rfl
@[simp] theorem ring_emit (d : Dev) (o : Out) (g : Nat) : (d.emit o).ring g = d.ring g := rfl
@[simp] theorem clk_emit (d : Dev) (o : Out) (y : Nat) : (d.emit o).clk y = d.clk y := rfl
@[simp] theorem queue_emit (d : Dev) (o : Out) (y k3 : Nat) : (d.emit o).queue y k3 = d.queue y k3 := rfl
@[simp] theorem pool_emit (d : Dev) (o : Out) (k1 : Nat) : (d.emit o).pool k1 = d.pool k1 := rfl
@[simp] theorem mail_emit (d : Dev) (o : Out) (k1 : Nat) : (d.emit o).mail k1 = d.mail k1 := rfl
@[simp] theorem tap_emit (d : Dev) (o : Out) (k1 : Nat) : (d.emit o).tap k1 = d.tap k1 := rfl
@[simp] theorem mover_emit (d : Dev) (o : Out) (k1 k2 : Nat) : (d.emit o).mover k1 k2 = d.mover k1 k2 := rfl
@[simp] theorem livePorts_emit (d : Dev) (o : Out)  : (d.emit o).livePorts = d.livePorts := rfl
@[simp] theorem n_emit (d : Dev) (o : Out)  : (d.emit o).n = d.n := rfl

/-! Dev.note -/

@[simp] theorem at_note (d : Dev) (k : Note) (l : Loc) : (d.note k).at l = d.at l := rfl
@[simp] theorem fld_note (d : Dev) (k : Note) (f : Fld) (u i : Nat) : (d.note k).fld f u i = d.fld f u i := rfl
@[simp] theorem flag_note (d : Dev) (k : Note) (f : Fld) (u i : Nat) : (d.note k).flag f u i = d.flag f u i := rfl
@[simp] theorem reg_note (d : Dev) (k : Note) (r : RegId) (u i : Nat) : (d.note k).reg r u i = d.reg r u i := rfl
@[simp] theorem port_note (d : Dev) (k : Note) (q : Nat) : (d.note k).port q = d.port q := rfl
@[simp] theorem px_note (d : Dev) (k : Note) (y : Nat) : (d.note k).px y = d.px y := rfl
@[simp] theorem sem_note (d : Dev) (k : Note) (m : Nat) : (d.note k).sem m = d.sem m := rfl
@[simp] theorem ring_note (d : Dev) (k : Note) (g : Nat) : (d.note k).ring g = d.ring g := rfl
@[simp] theorem clk_note (d : Dev) (k : Note) (y : Nat) : (d.note k).clk y = d.clk y := rfl
@[simp] theorem queue_note (d : Dev) (k : Note) (y k3 : Nat) : (d.note k).queue y k3 = d.queue y k3 := rfl
@[simp] theorem pool_note (d : Dev) (k : Note) (k1 : Nat) : (d.note k).pool k1 = d.pool k1 := rfl
@[simp] theorem mail_note (d : Dev) (k : Note) (k1 : Nat) : (d.note k).mail k1 = d.mail k1 := rfl
@[simp] theorem tap_note (d : Dev) (k : Note) (k1 : Nat) : (d.note k).tap k1 = d.tap k1 := rfl
@[simp] theorem mover_note (d : Dev) (k : Note) (k1 k2 : Nat) : (d.note k).mover k1 k2 = d.mover k1 k2 := rfl
@[simp] theorem livePorts_note (d : Dev) (k : Note)  : (d.note k).livePorts = d.livePorts := rfl
@[simp] theorem n_note (d : Dev) (k : Note)  : (d.note k).n = d.n := rfl

/-! Dev.raise -/

@[simp] theorem at_raise (d : Dev) (x cls : Nat) (k : Loc) (b s : Nat) (l : Loc) : (d.raise x cls k b s).at l = d.at l := rfl
@[simp] theorem fld_raise (d : Dev) (x cls : Nat) (k : Loc) (b s : Nat) (f : Fld) (u i : Nat) : (d.raise x cls k b s).fld f u i = d.fld f u i := rfl
@[simp] theorem flag_raise (d : Dev) (x cls : Nat) (k : Loc) (b s : Nat) (f : Fld) (u i : Nat) : (d.raise x cls k b s).flag f u i = d.flag f u i := rfl
@[simp] theorem reg_raise (d : Dev) (x cls : Nat) (k : Loc) (b s : Nat) (r : RegId) (u i : Nat) : (d.raise x cls k b s).reg r u i = d.reg r u i := rfl
@[simp] theorem port_raise (d : Dev) (x cls : Nat) (k : Loc) (b s : Nat) (q : Nat) : (d.raise x cls k b s).port q = d.port q := rfl
@[simp] theorem px_raise (d : Dev) (x cls : Nat) (k : Loc) (b s : Nat) (y : Nat) : (d.raise x cls k b s).px y = d.px y := rfl
@[simp] theorem sem_raise (d : Dev) (x cls : Nat) (k : Loc) (b s : Nat) (m : Nat) : (d.raise x cls k b s).sem m = d.sem m := rfl
@[simp] theorem ring_raise (d : Dev) (x cls : Nat) (k : Loc) (b s : Nat) (g : Nat) : (d.raise x cls k b s).ring g = d.ring g := rfl
@[simp] theorem clk_raise (d : Dev) (x cls : Nat) (k : Loc) (b s : Nat) (y : Nat) : (d.raise x cls k b s).clk y = d.clk y := rfl
@[simp] theorem pool_raise (d : Dev) (x cls : Nat) (k : Loc) (b s : Nat) (k1 : Nat) : (d.raise x cls k b s).pool k1 = d.pool k1 := rfl
@[simp] theorem mail_raise (d : Dev) (x cls : Nat) (k : Loc) (b s : Nat) (k1 : Nat) : (d.raise x cls k b s).mail k1 = d.mail k1 := rfl
@[simp] theorem tap_raise (d : Dev) (x cls : Nat) (k : Loc) (b s : Nat) (k1 : Nat) : (d.raise x cls k b s).tap k1 = d.tap k1 := rfl
@[simp] theorem mover_raise (d : Dev) (x cls : Nat) (k : Loc) (b s : Nat) (k1 k2 : Nat) : (d.raise x cls k b s).mover k1 k2 = d.mover k1 k2 := rfl
@[simp] theorem livePorts_raise (d : Dev) (x cls : Nat) (k : Loc) (b s : Nat)  : (d.raise x cls k b s).livePorts = d.livePorts := rfl
@[simp] theorem n_raise (d : Dev) (x cls : Nat) (k : Loc) (b s : Nat)  : (d.raise x cls k b s).n = d.n := rfl

/-! Dev.modQueue -/

@[simp] theorem at_modQueue (d : Dev) (x k0 : Nat) (h : QState → QState) (l : Loc) : (d.modQueue x k0 h).at l = d.at l := rfl
@[simp] theorem fld_modQueue (d : Dev) (x k0 : Nat) (h : QState → QState) (f : Fld) (u i : Nat) : (d.modQueue x k0 h).fld f u i = d.fld f u i := rfl
@[simp] theorem flag_modQueue (d : Dev) (x k0 : Nat) (h : QState → QState) (f : Fld) (u i : Nat) : (d.modQueue x k0 h).flag f u i = d.flag f u i := rfl
@[simp] theorem reg_modQueue (d : Dev) (x k0 : Nat) (h : QState → QState) (r : RegId) (u i : Nat) : (d.modQueue x k0 h).reg r u i = d.reg r u i := rfl
@[simp] theorem port_modQueue (d : Dev) (x k0 : Nat) (h : QState → QState) (q : Nat) : (d.modQueue x k0 h).port q = d.port q := rfl
@[simp] theorem px_modQueue (d : Dev) (x k0 : Nat) (h : QState → QState) (y : Nat) : (d.modQueue x k0 h).px y = d.px y := rfl
@[simp] theorem sem_modQueue (d : Dev) (x k0 : Nat) (h : QState → QState) (m : Nat) : (d.modQueue x k0 h).sem m = d.sem m := rfl
@[simp] theorem ring_modQueue (d : Dev) (x k0 : Nat) (h : QState → QState) (g : Nat) : (d.modQueue x k0 h).ring g = d.ring g := rfl
@[simp] theorem clk_modQueue (d : Dev) (x k0 : Nat) (h : QState → QState) (y : Nat) : (d.modQueue x k0 h).clk y = d.clk y := rfl
@[simp] theorem pool_modQueue (d : Dev) (x k0 : Nat) (h : QState → QState) (k1 : Nat) : (d.modQueue x k0 h).pool k1 = d.pool k1 := rfl
@[simp] theorem mail_modQueue (d : Dev) (x k0 : Nat) (h : QState → QState) (k1 : Nat) : (d.modQueue x k0 h).mail k1 = d.mail k1 := rfl
@[simp] theorem tap_modQueue (d : Dev) (x k0 : Nat) (h : QState → QState) (k1 : Nat) : (d.modQueue x k0 h).tap k1 = d.tap k1 := rfl
@[simp] theorem mover_modQueue (d : Dev) (x k0 : Nat) (h : QState → QState) (k1 k2 : Nat) : (d.modQueue x k0 h).mover k1 k2 = d.mover k1 k2 := rfl
@[simp] theorem livePorts_modQueue (d : Dev) (x k0 : Nat) (h : QState → QState)  : (d.modQueue x k0 h).livePorts = d.livePorts := rfl
@[simp] theorem n_modQueue (d : Dev) (x k0 : Nat) (h : QState → QState)  : (d.modQueue x k0 h).n = d.n := rfl

/-! Dev.modPort -/

@[simp] theorem at_modPort (d : Dev) (p : Nat) (h : Port → Port) (l : Loc) : (d.modPort p h).at l = d.at l := rfl
@[simp] theorem fld_modPort (d : Dev) (p : Nat) (h : Port → Port) (f : Fld) (u i : Nat) : (d.modPort p h).fld f u i = d.fld f u i := rfl
@[simp] theorem flag_modPort (d : Dev) (p : Nat) (h : Port → Port) (f : Fld) (u i : Nat) : (d.modPort p h).flag f u i = d.flag f u i := rfl
@[simp] theorem reg_modPort (d : Dev) (p : Nat) (h : Port → Port) (r : RegId) (u i : Nat) : (d.modPort p h).reg r u i = d.reg r u i := rfl
@[simp] theorem px_modPort (d : Dev) (p : Nat) (h : Port → Port) (y : Nat) : (d.modPort p h).px y = d.px y := rfl
@[simp] theorem sem_modPort (d : Dev) (p : Nat) (h : Port → Port) (m : Nat) : (d.modPort p h).sem m = d.sem m := rfl
@[simp] theorem ring_modPort (d : Dev) (p : Nat) (h : Port → Port) (g : Nat) : (d.modPort p h).ring g = d.ring g := rfl
@[simp] theorem clk_modPort (d : Dev) (p : Nat) (h : Port → Port) (y : Nat) : (d.modPort p h).clk y = d.clk y := rfl
@[simp] theorem queue_modPort (d : Dev) (p : Nat) (h : Port → Port) (y k3 : Nat) : (d.modPort p h).queue y k3 = d.queue y k3 := rfl
@[simp] theorem pool_modPort (d : Dev) (p : Nat) (h : Port → Port) (k1 : Nat) : (d.modPort p h).pool k1 = d.pool k1 := rfl
@[simp] theorem mail_modPort (d : Dev) (p : Nat) (h : Port → Port) (k1 : Nat) : (d.modPort p h).mail k1 = d.mail k1 := rfl
@[simp] theorem tap_modPort (d : Dev) (p : Nat) (h : Port → Port) (k1 : Nat) : (d.modPort p h).tap k1 = d.tap k1 := rfl
@[simp] theorem mover_modPort (d : Dev) (p : Nat) (h : Port → Port) (k1 k2 : Nat) : (d.modPort p h).mover k1 k2 = d.mover k1 k2 := rfl
@[simp] theorem n_modPort (d : Dev) (p : Nat) (h : Port → Port)  : (d.modPort p h).n = d.n := rfl

/-! Dev.modLink -/

@[simp] theorem at_modLink (d : Dev) (p : Nat) (h : Link → Link) (l : Loc) : (d.modLink p h).at l = d.at l := rfl
@[simp] theorem fld_modLink (d : Dev) (p : Nat) (h : Link → Link) (f : Fld) (u i : Nat) : (d.modLink p h).fld f u i = d.fld f u i := rfl
@[simp] theorem flag_modLink (d : Dev) (p : Nat) (h : Link → Link) (f : Fld) (u i : Nat) : (d.modLink p h).flag f u i = d.flag f u i := rfl
@[simp] theorem reg_modLink (d : Dev) (p : Nat) (h : Link → Link) (r : RegId) (u i : Nat) : (d.modLink p h).reg r u i = d.reg r u i := rfl
@[simp] theorem px_modLink (d : Dev) (p : Nat) (h : Link → Link) (y : Nat) : (d.modLink p h).px y = d.px y := rfl
@[simp] theorem sem_modLink (d : Dev) (p : Nat) (h : Link → Link) (m : Nat) : (d.modLink p h).sem m = d.sem m := rfl
@[simp] theorem ring_modLink (d : Dev) (p : Nat) (h : Link → Link) (g : Nat) : (d.modLink p h).ring g = d.ring g := rfl
@[simp] theorem clk_modLink (d : Dev) (p : Nat) (h : Link → Link) (y : Nat) : (d.modLink p h).clk y = d.clk y := rfl
@[simp] theorem queue_modLink (d : Dev) (p : Nat) (h : Link → Link) (y k3 : Nat) : (d.modLink p h).queue y k3 = d.queue y k3 := rfl
@[simp] theorem pool_modLink (d : Dev) (p : Nat) (h : Link → Link) (k1 : Nat) : (d.modLink p h).pool k1 = d.pool k1 := rfl
@[simp] theorem mail_modLink (d : Dev) (p : Nat) (h : Link → Link) (k1 : Nat) : (d.modLink p h).mail k1 = d.mail k1 := rfl
@[simp] theorem tap_modLink (d : Dev) (p : Nat) (h : Link → Link) (k1 : Nat) : (d.modLink p h).tap k1 = d.tap k1 := rfl
@[simp] theorem mover_modLink (d : Dev) (p : Nat) (h : Link → Link) (k1 k2 : Nat) : (d.modLink p h).mover k1 k2 = d.mover k1 k2 := rfl
@[simp] theorem n_modLink (d : Dev) (p : Nat) (h : Link → Link)  : (d.modLink p h).n = d.n := rfl

/-! Dev.modPx -/

@[simp] theorem at_modPx (d : Dev) (x : Nat) (h : Pcie → Pcie) (l : Loc) : (d.modPx x h).at l = d.at l := rfl
@[simp] theorem fld_modPx (d : Dev) (x : Nat) (h : Pcie → Pcie) (f : Fld) (u i : Nat) : (d.modPx x h).fld f u i = d.fld f u i := rfl
@[simp] theorem flag_modPx (d : Dev) (x : Nat) (h : Pcie → Pcie) (f : Fld) (u i : Nat) : (d.modPx x h).flag f u i = d.flag f u i := rfl
@[simp] theorem reg_modPx (d : Dev) (x : Nat) (h : Pcie → Pcie) (r : RegId) (u i : Nat) : (d.modPx x h).reg r u i = d.reg r u i := rfl
@[simp] theorem port_modPx (d : Dev) (x : Nat) (h : Pcie → Pcie) (q : Nat) : (d.modPx x h).port q = d.port q := rfl
@[simp] theorem sem_modPx (d : Dev) (x : Nat) (h : Pcie → Pcie) (m : Nat) : (d.modPx x h).sem m = d.sem m := rfl
@[simp] theorem ring_modPx (d : Dev) (x : Nat) (h : Pcie → Pcie) (g : Nat) : (d.modPx x h).ring g = d.ring g := rfl
@[simp] theorem clk_modPx (d : Dev) (x : Nat) (h : Pcie → Pcie) (y : Nat) : (d.modPx x h).clk y = d.clk y := rfl
@[simp] theorem queue_modPx (d : Dev) (x : Nat) (h : Pcie → Pcie) (y k3 : Nat) : (d.modPx x h).queue y k3 = d.queue y k3 := rfl
@[simp] theorem pool_modPx (d : Dev) (x : Nat) (h : Pcie → Pcie) (k1 : Nat) : (d.modPx x h).pool k1 = d.pool k1 := rfl
@[simp] theorem mail_modPx (d : Dev) (x : Nat) (h : Pcie → Pcie) (k1 : Nat) : (d.modPx x h).mail k1 = d.mail k1 := rfl
@[simp] theorem tap_modPx (d : Dev) (x : Nat) (h : Pcie → Pcie) (k1 : Nat) : (d.modPx x h).tap k1 = d.tap k1 := rfl
@[simp] theorem mover_modPx (d : Dev) (x : Nat) (h : Pcie → Pcie) (k1 k2 : Nat) : (d.modPx x h).mover k1 k2 = d.mover k1 k2 := rfl
@[simp] theorem livePorts_modPx (d : Dev) (x : Nat) (h : Pcie → Pcie)  : (d.modPx x h).livePorts = d.livePorts := rfl
@[simp] theorem n_modPx (d : Dev) (x : Nat) (h : Pcie → Pcie)  : (d.modPx x h).n = d.n := rfl

/-! Dev.modSem -/

@[simp] theorem at_modSem (d : Dev) (s : Nat) (h : Sem → Sem) (l : Loc) : (d.modSem s h).at l = d.at l := rfl
@[simp] theorem fld_modSem (d : Dev) (s : Nat) (h : Sem → Sem) (f : Fld) (u i : Nat) : (d.modSem s h).fld f u i = d.fld f u i := rfl
@[simp] theorem flag_modSem (d : Dev) (s : Nat) (h : Sem → Sem) (f : Fld) (u i : Nat) : (d.modSem s h).flag f u i = d.flag f u i := rfl
@[simp] theorem reg_modSem (d : Dev) (s : Nat) (h : Sem → Sem) (r : RegId) (u i : Nat) : (d.modSem s h).reg r u i = d.reg r u i := rfl
@[simp] theorem port_modSem (d : Dev) (s : Nat) (h : Sem → Sem) (q : Nat) : (d.modSem s h).port q = d.port q := rfl
@[simp] theorem px_modSem (d : Dev) (s : Nat) (h : Sem → Sem) (y : Nat) : (d.modSem s h).px y = d.px y := rfl
@[simp] theorem ring_modSem (d : Dev) (s : Nat) (h : Sem → Sem) (g : Nat) : (d.modSem s h).ring g = d.ring g := rfl
@[simp] theorem clk_modSem (d : Dev) (s : Nat) (h : Sem → Sem) (y : Nat) : (d.modSem s h).clk y = d.clk y := rfl
@[simp] theorem queue_modSem (d : Dev) (s : Nat) (h : Sem → Sem) (y k3 : Nat) : (d.modSem s h).queue y k3 = d.queue y k3 := rfl
@[simp] theorem pool_modSem (d : Dev) (s : Nat) (h : Sem → Sem) (k1 : Nat) : (d.modSem s h).pool k1 = d.pool k1 := rfl
@[simp] theorem mail_modSem (d : Dev) (s : Nat) (h : Sem → Sem) (k1 : Nat) : (d.modSem s h).mail k1 = d.mail k1 := rfl
@[simp] theorem tap_modSem (d : Dev) (s : Nat) (h : Sem → Sem) (k1 : Nat) : (d.modSem s h).tap k1 = d.tap k1 := rfl
@[simp] theorem mover_modSem (d : Dev) (s : Nat) (h : Sem → Sem) (k1 k2 : Nat) : (d.modSem s h).mover k1 k2 = d.mover k1 k2 := rfl
@[simp] theorem livePorts_modSem (d : Dev) (s : Nat) (h : Sem → Sem)  : (d.modSem s h).livePorts = d.livePorts := rfl
@[simp] theorem n_modSem (d : Dev) (s : Nat) (h : Sem → Sem)  : (d.modSem s h).n = d.n := rfl

/-! Dev.modRing -/

@[simp] theorem at_modRing (d : Dev) (p : Nat) (h : Ring → Ring) (l : Loc) : (d.modRing p h).at l = d.at l := rfl
@[simp] theorem fld_modRing (d : Dev) (p : Nat) (h : Ring → Ring) (f : Fld) (u i : Nat) : (d.modRing p h).fld f u i = d.fld f u i := rfl
@[simp] theorem flag_modRing (d : Dev) (p : Nat) (h : Ring → Ring) (f : Fld) (u i : Nat) : (d.modRing p h).flag f u i = d.flag f u i := rfl
@[simp] theorem reg_modRing (d : Dev) (p : Nat) (h : Ring → Ring) (r : RegId) (u i : Nat) : (d.modRing p h).reg r u i = d.reg r u i := rfl
@[simp] theorem port_modRing (d : Dev) (p : Nat) (h : Ring → Ring) (q : Nat) : (d.modRing p h).port q = d.port q := rfl
@[simp] theorem px_modRing (d : Dev) (p : Nat) (h : Ring → Ring) (y : Nat) : (d.modRing p h).px y = d.px y := rfl
@[simp] theorem sem_modRing (d : Dev) (p : Nat) (h : Ring → Ring) (m : Nat) : (d.modRing p h).sem m = d.sem m := rfl
@[simp] theorem clk_modRing (d : Dev) (p : Nat) (h : Ring → Ring) (y : Nat) : (d.modRing p h).clk y = d.clk y := rfl
@[simp] theorem queue_modRing (d : Dev) (p : Nat) (h : Ring → Ring) (y k3 : Nat) : (d.modRing p h).queue y k3 = d.queue y k3 := rfl
@[simp] theorem pool_modRing (d : Dev) (p : Nat) (h : Ring → Ring) (k1 : Nat) : (d.modRing p h).pool k1 = d.pool k1 := rfl
@[simp] theorem mail_modRing (d : Dev) (p : Nat) (h : Ring → Ring) (k1 : Nat) : (d.modRing p h).mail k1 = d.mail k1 := rfl
@[simp] theorem tap_modRing (d : Dev) (p : Nat) (h : Ring → Ring) (k1 : Nat) : (d.modRing p h).tap k1 = d.tap k1 := rfl
@[simp] theorem mover_modRing (d : Dev) (p : Nat) (h : Ring → Ring) (k1 k2 : Nat) : (d.modRing p h).mover k1 k2 = d.mover k1 k2 := rfl
@[simp] theorem livePorts_modRing (d : Dev) (p : Nat) (h : Ring → Ring)  : (d.modRing p h).livePorts = d.livePorts := rfl
@[simp] theorem n_modRing (d : Dev) (p : Nat) (h : Ring → Ring)  : (d.modRing p h).n = d.n := rfl

/-! Dev.modPool -/

@[simp] theorem at_modPool (d : Dev) (p : Nat) (h : Pool → Pool) (l : Loc) : (d.modPool p h).at l = d.at l := rfl
@[simp] theorem fld_modPool (d : Dev) (p : Nat) (h : Pool → Pool) (f : Fld) (u i : Nat) : (d.modPool p h).fld f u i = d.fld f u i := rfl
@[simp] theorem flag_modPool (d : Dev) (p : Nat) (h : Pool → Pool) (f : Fld) (u i : Nat) : (d.modPool p h).flag f u i = d.flag f u i := rfl
@[simp] theorem reg_modPool (d : Dev) (p : Nat) (h : Pool → Pool) (r : RegId) (u i : Nat) : (d.modPool p h).reg r u i = d.reg r u i := rfl
@[simp] theorem port_modPool (d : Dev) (p : Nat) (h : Pool → Pool) (q : Nat) : (d.modPool p h).port q = d.port q := rfl
@[simp] theorem px_modPool (d : Dev) (p : Nat) (h : Pool → Pool) (y : Nat) : (d.modPool p h).px y = d.px y := rfl
@[simp] theorem sem_modPool (d : Dev) (p : Nat) (h : Pool → Pool) (m : Nat) : (d.modPool p h).sem m = d.sem m := rfl
@[simp] theorem ring_modPool (d : Dev) (p : Nat) (h : Pool → Pool) (g : Nat) : (d.modPool p h).ring g = d.ring g := rfl
@[simp] theorem clk_modPool (d : Dev) (p : Nat) (h : Pool → Pool) (y : Nat) : (d.modPool p h).clk y = d.clk y := rfl
@[simp] theorem queue_modPool (d : Dev) (p : Nat) (h : Pool → Pool) (y k3 : Nat) : (d.modPool p h).queue y k3 = d.queue y k3 := rfl
@[simp] theorem mail_modPool (d : Dev) (p : Nat) (h : Pool → Pool) (k1 : Nat) : (d.modPool p h).mail k1 = d.mail k1 := rfl
@[simp] theorem tap_modPool (d : Dev) (p : Nat) (h : Pool → Pool) (k1 : Nat) : (d.modPool p h).tap k1 = d.tap k1 := rfl
@[simp] theorem mover_modPool (d : Dev) (p : Nat) (h : Pool → Pool) (k1 k2 : Nat) : (d.modPool p h).mover k1 k2 = d.mover k1 k2 := rfl
@[simp] theorem livePorts_modPool (d : Dev) (p : Nat) (h : Pool → Pool)  : (d.modPool p h).livePorts = d.livePorts := rfl
@[simp] theorem n_modPool (d : Dev) (p : Nat) (h : Pool → Pool)  : (d.modPool p h).n = d.n := rfl

/-! Dev.modClk -/

@[simp] theorem at_modClk (d : Dev) (p : Nat) (h : Clock → Clock) (l : Loc) : (d.modClk p h).at l = d.at l := rfl
@[simp] theorem fld_modClk (d : Dev) (p : Nat) (h : Clock → Clock) (f : Fld) (u i : Nat) : (d.modClk p h).fld f u i = d.fld f u i := rfl
@[simp] theorem flag_modClk (d : Dev) (p : Nat) (h : Clock → Clock) (f : Fld) (u i : Nat) : (d.modClk p h).flag f u i = d.flag f u i := rfl
@[simp] theorem reg_modClk (d : Dev) (p : Nat) (h : Clock → Clock) (r : RegId) (u i : Nat) : (d.modClk p h).reg r u i = d.reg r u i := rfl
@[simp] theorem port_modClk (d : Dev) (p : Nat) (h : Clock → Clock) (q : Nat) : (d.modClk p h).port q = d.port q := rfl
@[simp] theorem px_modClk (d : Dev) (p : Nat) (h : Clock → Clock) (y : Nat) : (d.modClk p h).px y = d.px y := rfl
@[simp] theorem sem_modClk (d : Dev) (p : Nat) (h : Clock → Clock) (m : Nat) : (d.modClk p h).sem m = d.sem m := rfl
@[simp] theorem ring_modClk (d : Dev) (p : Nat) (h : Clock → Clock) (g : Nat) : (d.modClk p h).ring g = d.ring g := rfl
@[simp] theorem queue_modClk (d : Dev) (p : Nat) (h : Clock → Clock) (y k3 : Nat) : (d.modClk p h).queue y k3 = d.queue y k3 := rfl
@[simp] theorem pool_modClk (d : Dev) (p : Nat) (h : Clock → Clock) (k1 : Nat) : (d.modClk p h).pool k1 = d.pool k1 := rfl
@[simp] theorem mail_modClk (d : Dev) (p : Nat) (h : Clock → Clock) (k1 : Nat) : (d.modClk p h).mail k1 = d.mail k1 := rfl
@[simp] theorem tap_modClk (d : Dev) (p : Nat) (h : Clock → Clock) (k1 : Nat) : (d.modClk p h).tap k1 = d.tap k1 := rfl
@[simp] theorem mover_modClk (d : Dev) (p : Nat) (h : Clock → Clock) (k1 k2 : Nat) : (d.modClk p h).mover k1 k2 = d.mover k1 k2 := rfl
@[simp] theorem livePorts_modClk (d : Dev) (p : Nat) (h : Clock → Clock)  : (d.modClk p h).livePorts = d.livePorts := rfl
@[simp] theorem n_modClk (d : Dev) (p : Nat) (h : Clock → Clock)  : (d.modClk p h).n = d.n := rfl

/-! Dev.setMail -/

@[simp] theorem at_setMail (d : Dev) (p : Nat) (h : Mail) (l : Loc) : (d.setMail p h).at l = d.at l := rfl
@[simp] theorem fld_setMail (d : Dev) (p : Nat) (h : Mail) (f : Fld) (u i : Nat) : (d.setMail p h).fld f u i = d.fld f u i := rfl
@[simp] theorem flag_setMail (d : Dev) (p : Nat) (h : Mail) (f : Fld) (u i : Nat) : (d.setMail p h).flag f u i = d.flag f u i := rfl
@[simp] theorem reg_setMail (d : Dev) (p : Nat) (h : Mail) (r : RegId) (u i : Nat) : (d.setMail p h).reg r u i = d.reg r u i := rfl
@[simp] theorem port_setMail (d : Dev) (p : Nat) (h : Mail) (q : Nat) : (d.setMail p h).port q = d.port q := rfl
@[simp] theorem px_setMail (d : Dev) (p : Nat) (h : Mail) (y : Nat) : (d.setMail p h).px y = d.px y := rfl
@[simp] theorem sem_setMail (d : Dev) (p : Nat) (h : Mail) (m : Nat) : (d.setMail p h).sem m = d.sem m := rfl
@[simp] theorem ring_setMail (d : Dev) (p : Nat) (h : Mail) (g : Nat) : (d.setMail p h).ring g = d.ring g := rfl
@[simp] theorem clk_setMail (d : Dev) (p : Nat) (h : Mail) (y : Nat) : (d.setMail p h).clk y = d.clk y := rfl
@[simp] theorem queue_setMail (d : Dev) (p : Nat) (h : Mail) (y k3 : Nat) : (d.setMail p h).queue y k3 = d.queue y k3 := rfl
@[simp] theorem pool_setMail (d : Dev) (p : Nat) (h : Mail) (k1 : Nat) : (d.setMail p h).pool k1 = d.pool k1 := rfl
@[simp] theorem tap_setMail (d : Dev) (p : Nat) (h : Mail) (k1 : Nat) : (d.setMail p h).tap k1 = d.tap k1 := rfl
@[simp] theorem mover_setMail (d : Dev) (p : Nat) (h : Mail) (k1 k2 : Nat) : (d.setMail p h).mover k1 k2 = d.mover k1 k2 := rfl
@[simp] theorem livePorts_setMail (d : Dev) (p : Nat) (h : Mail)  : (d.setMail p h).livePorts = d.livePorts := rfl
@[simp] theorem n_setMail (d : Dev) (p : Nat) (h : Mail)  : (d.setMail p h).n = d.n := rfl

/-! Dev.setFld -/

@[simp] theorem port_setFld (d : Dev) (g0 : Fld) (u0 i0 v : Nat) (q : Nat) : (d.setFld g0 u0 i0 v).port q = d.port q := rfl
@[simp] theorem px_setFld (d : Dev) (g0 : Fld) (u0 i0 v : Nat) (y : Nat) : (d.setFld g0 u0 i0 v).px y = d.px y := rfl
@[simp] theorem sem_setFld (d : Dev) (g0 : Fld) (u0 i0 v : Nat) (m : Nat) : (d.setFld g0 u0 i0 v).sem m = d.sem m := rfl
@[simp] theorem ring_setFld (d : Dev) (g0 : Fld) (u0 i0 v : Nat) (g : Nat) : (d.setFld g0 u0 i0 v).ring g = d.ring g := rfl
@[simp] theorem clk_setFld (d : Dev) (g0 : Fld) (u0 i0 v : Nat) (y : Nat) : (d.setFld g0 u0 i0 v).clk y = d.clk y := rfl
@[simp] theorem queue_setFld (d : Dev) (g0 : Fld) (u0 i0 v : Nat) (y k3 : Nat) : (d.setFld g0 u0 i0 v).queue y k3 = d.queue y k3 := rfl
@[simp] theorem pool_setFld (d : Dev) (g0 : Fld) (u0 i0 v : Nat) (k1 : Nat) : (d.setFld g0 u0 i0 v).pool k1 = d.pool k1 := rfl
@[simp] theorem mail_setFld (d : Dev) (g0 : Fld) (u0 i0 v : Nat) (k1 : Nat) : (d.setFld g0 u0 i0 v).mail k1 = d.mail k1 := rfl
@[simp] theorem tap_setFld (d : Dev) (g0 : Fld) (u0 i0 v : Nat) (k1 : Nat) : (d.setFld g0 u0 i0 v).tap k1 = d.tap k1 := rfl
@[simp] theorem mover_setFld (d : Dev) (g0 : Fld) (u0 i0 v : Nat) (k1 k2 : Nat) : (d.setFld g0 u0 i0 v).mover k1 k2 = d.mover k1 k2 := rfl
@[simp] theorem livePorts_setFld (d : Dev) (g0 : Fld) (u0 i0 v : Nat)  : (d.setFld g0 u0 i0 v).livePorts = d.livePorts := rfl
@[simp] theorem n_setFld (d : Dev) (g0 : Fld) (u0 i0 v : Nat)  : (d.setFld g0 u0 i0 v).n = d.n := rfl

/-! Dev.bump -/

@[simp] theorem port_bump (d : Dev) (g0 : Fld) (u0 i0 : Nat) (q : Nat) : (d.bump g0 u0 i0).port q = d.port q := rfl
@[simp] theorem px_bump (d : Dev) (g0 : Fld) (u0 i0 : Nat) (y : Nat) : (d.bump g0 u0 i0).px y = d.px y := rfl
@[simp] theorem sem_bump (d : Dev) (g0 : Fld) (u0 i0 : Nat) (m : Nat) : (d.bump g0 u0 i0).sem m = d.sem m := rfl
@[simp] theorem ring_bump (d : Dev) (g0 : Fld) (u0 i0 : Nat) (g : Nat) : (d.bump g0 u0 i0).ring g = d.ring g := rfl
@[simp] theorem clk_bump (d : Dev) (g0 : Fld) (u0 i0 : Nat) (y : Nat) : (d.bump g0 u0 i0).clk y = d.clk y := rfl
@[simp] theorem queue_bump (d : Dev) (g0 : Fld) (u0 i0 : Nat) (y k3 : Nat) : (d.bump g0 u0 i0).queue y k3 = d.queue y k3 := rfl
@[simp] theorem pool_bump (d : Dev) (g0 : Fld) (u0 i0 : Nat) (k1 : Nat) : (d.bump g0 u0 i0).pool k1 = d.pool k1 := rfl
@[simp] theorem mail_bump (d : Dev) (g0 : Fld) (u0 i0 : Nat) (k1 : Nat) : (d.bump g0 u0 i0).mail k1 = d.mail k1 := rfl
@[simp] theorem tap_bump (d : Dev) (g0 : Fld) (u0 i0 : Nat) (k1 : Nat) : (d.bump g0 u0 i0).tap k1 = d.tap k1 := rfl
@[simp] theorem mover_bump (d : Dev) (g0 : Fld) (u0 i0 : Nat) (k1 k2 : Nat) : (d.bump g0 u0 i0).mover k1 k2 = d.mover k1 k2 := rfl
@[simp] theorem livePorts_bump (d : Dev) (g0 : Fld) (u0 i0 : Nat)  : (d.bump g0 u0 i0).livePorts = d.livePorts := rfl
@[simp] theorem n_bump (d : Dev) (g0 : Fld) (u0 i0 : Nat)  : (d.bump g0 u0 i0).n = d.n := rfl

/-! Dev.setReg -/

@[simp] theorem port_setReg (d : Dev) (r0 : RegId) (u0 i0 : Nat) (w : Word) (q : Nat) : (d.setReg r0 u0 i0 w).port q = d.port q := rfl
@[simp] theorem px_setReg (d : Dev) (r0 : RegId) (u0 i0 : Nat) (w : Word) (y : Nat) : (d.setReg r0 u0 i0 w).px y = d.px y := rfl
@[simp] theorem sem_setReg (d : Dev) (r0 : RegId) (u0 i0 : Nat) (w : Word) (m : Nat) : (d.setReg r0 u0 i0 w).sem m = d.sem m := rfl
@[simp] theorem ring_setReg (d : Dev) (r0 : RegId) (u0 i0 : Nat) (w : Word) (g : Nat) : (d.setReg r0 u0 i0 w).ring g = d.ring g := rfl
@[simp] theorem clk_setReg (d : Dev) (r0 : RegId) (u0 i0 : Nat) (w : Word) (y : Nat) : (d.setReg r0 u0 i0 w).clk y = d.clk y := rfl
@[simp] theorem queue_setReg (d : Dev) (r0 : RegId) (u0 i0 : Nat) (w : Word) (y k3 : Nat) : (d.setReg r0 u0 i0 w).queue y k3 = d.queue y k3 := rfl
@[simp] theorem pool_setReg (d : Dev) (r0 : RegId) (u0 i0 : Nat) (w : Word) (k1 : Nat) : (d.setReg r0 u0 i0 w).pool k1 = d.pool k1 := rfl
@[simp] theorem mail_setReg (d : Dev) (r0 : RegId) (u0 i0 : Nat) (w : Word) (k1 : Nat) : (d.setReg r0 u0 i0 w).mail k1 = d.mail k1 := rfl
@[simp] theorem tap_setReg (d : Dev) (r0 : RegId) (u0 i0 : Nat) (w : Word) (k1 : Nat) : (d.setReg r0 u0 i0 w).tap k1 = d.tap k1 := rfl
@[simp] theorem mover_setReg (d : Dev) (r0 : RegId) (u0 i0 : Nat) (w : Word) (k1 k2 : Nat) : (d.setReg r0 u0 i0 w).mover k1 k2 = d.mover k1 k2 := rfl
@[simp] theorem livePorts_setReg (d : Dev) (r0 : RegId) (u0 i0 : Nat) (w : Word)  : (d.setReg r0 u0 i0 w).livePorts = d.livePorts := rfl
@[simp] theorem n_setReg (d : Dev) (r0 : RegId) (u0 i0 : Nat) (w : Word)  : (d.setReg r0 u0 i0 w).n = d.n := rfl

/-! Dev.put -/

@[simp] theorem port_put (d : Dev) (l0 : Loc) (w : Word) (q : Nat) : (d.put l0 w).port q = d.port q := rfl
@[simp] theorem px_put (d : Dev) (l0 : Loc) (w : Word) (y : Nat) : (d.put l0 w).px y = d.px y := rfl
@[simp] theorem sem_put (d : Dev) (l0 : Loc) (w : Word) (m : Nat) : (d.put l0 w).sem m = d.sem m := rfl
@[simp] theorem ring_put (d : Dev) (l0 : Loc) (w : Word) (g : Nat) : (d.put l0 w).ring g = d.ring g := rfl
@[simp] theorem clk_put (d : Dev) (l0 : Loc) (w : Word) (y : Nat) : (d.put l0 w).clk y = d.clk y := rfl
@[simp] theorem queue_put (d : Dev) (l0 : Loc) (w : Word) (y k3 : Nat) : (d.put l0 w).queue y k3 = d.queue y k3 := rfl
@[simp] theorem pool_put (d : Dev) (l0 : Loc) (w : Word) (k1 : Nat) : (d.put l0 w).pool k1 = d.pool k1 := rfl
@[simp] theorem mail_put (d : Dev) (l0 : Loc) (w : Word) (k1 : Nat) : (d.put l0 w).mail k1 = d.mail k1 := rfl
@[simp] theorem tap_put (d : Dev) (l0 : Loc) (w : Word) (k1 : Nat) : (d.put l0 w).tap k1 = d.tap k1 := rfl
@[simp] theorem mover_put (d : Dev) (l0 : Loc) (w : Word) (k1 k2 : Nat) : (d.put l0 w).mover k1 k2 = d.mover k1 k2 := rfl
@[simp] theorem livePorts_put (d : Dev) (l0 : Loc) (w : Word)  : (d.put l0 w).livePorts = d.livePorts := rfl
@[simp] theorem n_put (d : Dev) (l0 : Loc) (w : Word)  : (d.put l0 w).n = d.n := rfl

/-! Dev.setPair -/

@[simp] theorem port_setPair (d : Dev) (r0 r1 : RegId) (u0 i0 v : Nat) (q : Nat) : (d.setPair r0 r1 u0 i0 v).port q = d.port q := rfl
@[simp] theorem px_setPair (d : Dev) (r0 r1 : RegId) (u0 i0 v : Nat) (y : Nat) : (d.setPair r0 r1 u0 i0 v).px y = d.px y := rfl
@[simp] theorem sem_setPair (d : Dev) (r0 r1 : RegId) (u0 i0 v : Nat) (m : Nat) : (d.setPair r0 r1 u0 i0 v).sem m = d.sem m := rfl
@[simp] theorem ring_setPair (d : Dev) (r0 r1 : RegId) (u0 i0 v : Nat) (g : Nat) : (d.setPair r0 r1 u0 i0 v).ring g = d.ring g := rfl
@[simp] theorem clk_setPair (d : Dev) (r0 r1 : RegId) (u0 i0 v : Nat) (y : Nat) : (d.setPair r0 r1 u0 i0 v).clk y = d.clk y := rfl
@[simp] theorem queue_setPair (d : Dev) (r0 r1 : RegId) (u0 i0 v : Nat) (y k3 : Nat) : (d.setPair r0 r1 u0 i0 v).queue y k3 = d.queue y k3 := rfl
@[simp] theorem pool_setPair (d : Dev) (r0 r1 : RegId) (u0 i0 v : Nat) (k1 : Nat) : (d.setPair r0 r1 u0 i0 v).pool k1 = d.pool k1 := rfl
@[simp] theorem mail_setPair (d : Dev) (r0 r1 : RegId) (u0 i0 v : Nat) (k1 : Nat) : (d.setPair r0 r1 u0 i0 v).mail k1 = d.mail k1 := rfl
@[simp] theorem tap_setPair (d : Dev) (r0 r1 : RegId) (u0 i0 v : Nat) (k1 : Nat) : (d.setPair r0 r1 u0 i0 v).tap k1 = d.tap k1 := rfl
@[simp] theorem mover_setPair (d : Dev) (r0 r1 : RegId) (u0 i0 v : Nat) (k1 k2 : Nat) : (d.setPair r0 r1 u0 i0 v).mover k1 k2 = d.mover k1 k2 := rfl
@[simp] theorem livePorts_setPair (d : Dev) (r0 r1 : RegId) (u0 i0 v : Nat)  : (d.setPair r0 r1 u0 i0 v).livePorts = d.livePorts := rfl
@[simp] theorem n_setPair (d : Dev) (r0 r1 : RegId) (u0 i0 v : Nat)  : (d.setPair r0 r1 u0 i0 v).n = d.n := rfl

/-! Dev.status: it sets a bit and raises an event -/

@[simp] theorem port_status (d : Dev) (g0 : Fld) (u0 i0 cls x src : Nat) (q : Nat) : (d.status g0 u0 i0 cls x src).port q = d.port q := by
  unfold Dev.status; split <;> rfl
@[simp] theorem px_status (d : Dev) (g0 : Fld) (u0 i0 cls x src : Nat) (y : Nat) : (d.status g0 u0 i0 cls x src).px y = d.px y := by
  unfold Dev.status; split <;> rfl
@[simp] theorem sem_status (d : Dev) (g0 : Fld) (u0 i0 cls x src : Nat) (m : Nat) : (d.status g0 u0 i0 cls x src).sem m = d.sem m := by
  unfold Dev.status; split <;> rfl
@[simp] theorem ring_status (d : Dev) (g0 : Fld) (u0 i0 cls x src : Nat) (g : Nat) : (d.status g0 u0 i0 cls x src).ring g = d.ring g := by
  unfold Dev.status; split <;> rfl
@[simp] theorem clk_status (d : Dev) (g0 : Fld) (u0 i0 cls x src : Nat) (y : Nat) : (d.status g0 u0 i0 cls x src).clk y = d.clk y := by
  unfold Dev.status; split <;> rfl
@[simp] theorem pool_status (d : Dev) (g0 : Fld) (u0 i0 cls x src : Nat) (k1 : Nat) : (d.status g0 u0 i0 cls x src).pool k1 = d.pool k1 := by
  unfold Dev.status; split <;> rfl
@[simp] theorem mail_status (d : Dev) (g0 : Fld) (u0 i0 cls x src : Nat) (k1 : Nat) : (d.status g0 u0 i0 cls x src).mail k1 = d.mail k1 := by
  unfold Dev.status; split <;> rfl
@[simp] theorem tap_status (d : Dev) (g0 : Fld) (u0 i0 cls x src : Nat) (k1 : Nat) : (d.status g0 u0 i0 cls x src).tap k1 = d.tap k1 := by
  unfold Dev.status; split <;> rfl
@[simp] theorem mover_status (d : Dev) (g0 : Fld) (u0 i0 cls x src : Nat) (k1 k2 : Nat) : (d.status g0 u0 i0 cls x src).mover k1 k2 = d.mover k1 k2 := by
  unfold Dev.status; split <;> rfl
@[simp] theorem livePorts_status (d : Dev) (g0 : Fld) (u0 i0 cls x src : Nat)  : (d.status g0 u0 i0 cls x src).livePorts = d.livePorts := by
  unfold Dev.status; split <;> rfl
@[simp] theorem n_status (d : Dev) (g0 : Fld) (u0 i0 cls x src : Nat)  : (d.status g0 u0 i0 cls x src).n = d.n := by
  unfold Dev.status; split <;> rfl

/-! The view that an update concerns -/

@[simp] theorem port_modPort_same (d : Dev) (p : Nat) (f : Port → Port) : (d.modPort p f).port p = f (d.port p) := by
  simp [Dev.modPort, Dev.setPort, Dev.port]

theorem modPort_modPort (d : Dev) (p : Nat) (f g : Port → Port) : (d.modPort p f).modPort p g = d.modPort p fun x => g (f x) := by
  simp [Dev.modPort, Dev.setPort, Dev.port]

theorem modLink_modLink (d : Dev) (p : Nat) (f g : Link → Link) : (d.modLink p f).modLink p g = d.modLink p fun x => g (f x) :=
  modPort_modPort _ _ _ _

theorem port_modPort_ne (d : Dev) {p q : Nat} (h : q ≠ p) (f : Port → Port) : (d.modPort p f).port q = d.port q := by
  simp only [Dev.modPort, Dev.setPort, Dev.port]
  exact Store.get_set_ne _ _ (by simp [h]) _ _

@[simp] theorem port_modLink_same (d : Dev) (p : Nat) (f : Link → Link) :
    (d.modLink p f).port p = { d.port p with link := f (d.port p).link } := port_modPort_same _ _ _

theorem port_modLink_ne (d : Dev) {p q : Nat} (h : q ≠ p) (f : Link → Link) : (d.modLink p f).port q = d.port q := port_modPort_ne d h _

@[simp] theorem sem_modSem_same (d : Dev) (s : Nat) (f : Sem → Sem) : (d.modSem s f).sem s = f (d.sem s) := by simp [Dev.modSem, Dev.sem]

theorem sem_modSem_ne (d : Dev) {s t : Nat} (h : t ≠ s) (f : Sem → Sem) : (d.modSem s f).sem t = d.sem t := by
  simp only [Dev.modSem, Dev.sem]
  exact Store.get_set_ne _ _ (by simp [h]) _ _

@[simp] theorem ring_modRing_same (d : Dev) (r : Nat) (f : Ring → Ring) : (d.modRing r f).ring r = f (d.ring r) := by simp [Dev.modRing, Dev.ring]

theorem ring_modRing_ne (d : Dev) {r t : Nat} (h : t ≠ r) (f : Ring → Ring) : (d.modRing r f).ring t = d.ring t := by
  simp only [Dev.modRing, Dev.ring]
  exact Store.get_set_ne _ _ (by simp [h]) _ _

@[simp] theorem pool_modPool_same (d : Dev) (p : Nat) (f : Pool → Pool) : (d.modPool p f).pool p = f (d.pool p) := by simp [Dev.modPool, Dev.pool]

@[simp] theorem clk_modClk_same (d : Dev) (x : Nat) (f : Clock → Clock) : (d.modClk x f).clk x = f (d.clk x) := by simp [Dev.modClk, Dev.clk]

@[simp] theorem queue_modQueue_same (d : Dev) (x q : Nat) (f : QState → QState) : (d.modQueue x q f).queue x q = f (d.queue x q) := by
  simp [Dev.modQueue, Dev.queue]

theorem fld_status_ne (d : Dev) (f g : Fld) (u i u' i' cls x src : Nat) (h : (⟨g.reg, u', i'⟩ : Loc) ≠ ⟨f.reg, u, i⟩) :
    (d.status f u i cls x src).fld g u' i' = d.fld g u' i' := by
  unfold Dev.fld Dev.reg
  rw [Dev.at_status_ne _ _ _ _ _ _ _ h]

theorem fld_bump_same (d : Dev) (f : Fld) (u i : Nat) (h : f.lo ≤ f.hi) (hh : f.hi < 32) :
    (d.bump f u i).fld f u i = satInc (d.fld f u i) (2 ^ (f.hi + 1 - f.lo) - 1) % 2 ^ (f.hi + 1 - f.lo) := Dev.fld_setFld_same _ _ _ _ _ h hh

theorem fld_bump_ne (d : Dev) (f g : Fld) (u i u' i' : Nat) (h : (⟨g.reg, u', i'⟩ : Loc) ≠ ⟨f.reg, u, i⟩) :
    (d.bump f u i).fld g u' i' = d.fld g u' i' := Dev.fld_setFld_ne _ _ _ _ _ _ _ _ h

theorem at_bump_ne (d : Dev) (f : Fld) (u i : Nat) {l : Loc} (h : l ≠ ⟨f.reg, u, i⟩) : (d.bump f u i).at l = d.at l := Dev.at_setFld_ne _ _ _ _ _ h

end Sys2Proof.Machine
end

