-- ==== Sys2Proof/Laws/Link.lean ====
section
/-!
SUPPORT. What the operations of a link leave: SYN sent on the lanes, the state of the port, a retrain.
-/

namespace Sys2Proof.Machine

/-- Outputs in a row change nothing but the outputs. -/
theorem emits_keep {A : Type} (f : Dev → A → Out) (l : List A) (d : Dev) :
    ∃ o, l.foldl (fun (d : Dev) k => d.emit (f d k)) d = { d with out := o } := by
  induction l generalizing d with
  | nil => exact ⟨d.out, rfl⟩
  | cons k l ih =>
    obtain ⟨o, h⟩ := ih (d.emit (f d k))
    exact ⟨o, h.trans rfl⟩

/-- SYN sent shows on the pins and is noted at the port; nothing else changes (R119). -/
theorem sendSyns_keep (d : Dev) (p st : Nat) :
    ∃ o, d.sendSyns p st = ({ d with out := o } : Dev).modLink p fun l => { l with synSent := some (d.synOf p st 0) } := by
  obtain ⟨o, h⟩ := emits_keep (fun d k => .syn p k (d.synOf p st k)) (List.range 8) d
  exact ⟨o, by rw [Dev.sendSyns, h]⟩

@[simp] theorem at_sendSyns (d : Dev) (p0 st : Nat) (l : Loc) : (d.sendSyns p0 st).at l = d.at l := by
  obtain ⟨o, h⟩ := sendSyns_keep d p0 st; rw [h]; rfl
@[simp] theorem fld_sendSyns (d : Dev) (p0 st : Nat) (f : Fld) (u i : Nat) : (d.sendSyns p0 st).fld f u i = d.fld f u i := by
  obtain ⟨o, h⟩ := sendSyns_keep d p0 st; rw [h]; rfl
@[simp] theorem flag_sendSyns (d : Dev) (p0 st : Nat) (f : Fld) (u i : Nat) : (d.sendSyns p0 st).flag f u i = d.flag f u i := by
  obtain ⟨o, h⟩ := sendSyns_keep d p0 st; rw [h]; rfl
@[simp] theorem reg_sendSyns (d : Dev) (p0 st : Nat) (r : RegId) (u i : Nat) : (d.sendSyns p0 st).reg r u i = d.reg r u i := by
  obtain ⟨o, h⟩ := sendSyns_keep d p0 st; rw [h]; rfl
@[simp] theorem px_sendSyns (d : Dev) (p0 st : Nat) (y : Nat) : (d.sendSyns p0 st).px y = d.px y := by
  obtain ⟨o, h⟩ := sendSyns_keep d p0 st; rw [h]; rfl
@[simp] theorem sem_sendSyns (d : Dev) (p0 st : Nat) (m : Nat) : (d.sendSyns p0 st).sem m = d.sem m := by
  obtain ⟨o, h⟩ := sendSyns_keep d p0 st; rw [h]; rfl
@[simp] theorem ring_sendSyns (d : Dev) (p0 st : Nat) (g : Nat) : (d.sendSyns p0 st).ring g = d.ring g := by
  obtain ⟨o, h⟩ := sendSyns_keep d p0 st; rw [h]; rfl
@[simp] theorem clk_sendSyns (d : Dev) (p0 st : Nat) (y : Nat) : (d.sendSyns p0 st).clk y = d.clk y := by
  obtain ⟨o, h⟩ := sendSyns_keep d p0 st; rw [h]; rfl
@[simp] theorem queue_sendSyns (d : Dev) (p0 st : Nat) (y k3 : Nat) : (d.sendSyns p0 st).queue y k3 = d.queue y k3 := by
  obtain ⟨o, h⟩ := sendSyns_keep d p0 st; rw [h]; rfl
@[simp] theorem pool_sendSyns (d : Dev) (p0 st : Nat) (k1 : Nat) : (d.sendSyns p0 st).pool k1 = d.pool k1 := by
  obtain ⟨o, h⟩ := sendSyns_keep d p0 st; rw [h]; rfl
@[simp] theorem mail_sendSyns (d : Dev) (p0 st : Nat) (k1 : Nat) : (d.sendSyns p0 st).mail k1 = d.mail k1 := by
  obtain ⟨o, h⟩ := sendSyns_keep d p0 st; rw [h]; rfl
@[simp] theorem tap_sendSyns (d : Dev) (p0 st : Nat) (k1 : Nat) : (d.sendSyns p0 st).tap k1 = d.tap k1 := by
  obtain ⟨o, h⟩ := sendSyns_keep d p0 st; rw [h]; rfl
@[simp] theorem mover_sendSyns (d : Dev) (p0 st : Nat) (k1 k2 : Nat) : (d.sendSyns p0 st).mover k1 k2 = d.mover k1 k2 := by
  obtain ⟨o, h⟩ := sendSyns_keep d p0 st; rw [h]; rfl
@[simp] theorem n_sendSyns (d : Dev) (p0 st : Nat) : (d.sendSyns p0 st).n = d.n := by
  obtain ⟨o, h⟩ := sendSyns_keep d p0 st; rw [h]; rfl
@[simp] theorem port_sendSyns_same (d : Dev) (p st : Nat) :
    (d.sendSyns p st).port p = { d.port p with link := { (d.port p).link with synSent := some (d.synOf p st 0) } } := by
  obtain ⟨o, h⟩ := sendSyns_keep d p st; rw [h, port_modLink_same]; rfl
theorem port_sendSyns_ne (d : Dev) (p st : Nat) {q : Nat} (hq : q ≠ p) : (d.sendSyns p st).port q = d.port q := by
  obtain ⟨o, h⟩ := sendSyns_keep d p st; rw [h, port_modLink_ne _ hq]; rfl

theorem flag_setFld_ne (d : Dev) (f g : Fld) (u i u' i' v : Nat) (h : (⟨g.reg, u', i'⟩ : Loc) ≠ ⟨f.reg, u, i⟩) :
    (d.setFld f u i v).flag g u' i' = d.flag g u' i' := by
  unfold Dev.flag; rw [Dev.fld_setFld_ne _ _ _ _ _ _ _ _ h]

theorem flag_status_ne (d : Dev) (f g : Fld) (u i u' i' cls x src : Nat) (h : (⟨g.reg, u', i'⟩ : Loc) ≠ ⟨f.reg, u, i⟩) :
    (d.status f u i cls x src).flag g u' i' = d.flag g u' i' := by
  unfold Dev.flag; rw [fld_status_ne _ _ _ _ _ _ _ _ _ _ h]

/-- A packet handed to an ACTIVE port with room in its replay store and nothing waiting leaves at once (R115). -/
theorem send_now {d : Dev} {p : Nat} (ha : d.fld BB_LINK_STAT.STATE p = 3) (hw : (d.port p).link.waiting = [])
    (hr : (d.port p).link.replay.length < 64) (x : Pkt) :
    d.send p x = (d.modLink p fun l =>
      { l with waiting := [], replay := l.replay ++ [(l.txSeq, x)], txSeq := (l.txSeq + 1) % 128, lastDat := x.datRole.getD l.lastDat,
               idlSent := none }).emit
        (.pkt p (d.port p).link.txSeq x) := by
  have hn : ∀ k, nextTx k [x] = some (0, x) := by
    intro k; cases x <;> simp [nextTx, indexed, Pkt.rank, Pkt.datRole]
  have ha' : ∀ f : Link → Link, (d.modLink p f).active? p = true := by
    intro f
    show ((d.modLink p f).fld BB_LINK_STAT.STATE p == lsActive) = true
    rw [fld_modLink, ha]; rfl
  simp only [Dev.send, hw, List.nil_append, port_modLink_same, List.length_singleton, Dev.flushTx, hn, ha', hr, Bool.true_and, decide_true,
    if_true, modLink_modLink]
  simp only [Dev.modLink, Dev.modPort, hw, List.nil_append, List.eraseIdx]

/-- A fall-back from loop timing changes LOOP, FALLBACK and the port's event, and no port (R129). -/
theorem fallBack_keep (d : Dev) (p : Nat) :
    (∀ f : Fld, f.reg ≠ .BB_LINK_STAT → f.reg ≠ .BB_LINK_EVENT → ∀ u i, (d.fallBack p).fld f u i = d.fld f u i) ∧
      (d.fallBack p).fld BB_LINK_STAT.STATE p = d.fld BB_LINK_STAT.STATE p ∧ (d.fallBack p).fld BB_LINK_STAT.UP p = d.fld BB_LINK_STAT.UP p ∧
      (d.fallBack p).fld BB_LINK_STAT.WIDTH p = d.fld BB_LINK_STAT.WIDTH p ∧
      (d.flag BB_LINK_EVENT.RETRAINED p = true → (d.fallBack p).flag BB_LINK_EVENT.RETRAINED p = true) ∧
      ∀ q : Nat, (d.fallBack p).port q = d.port q := by
  unfold Dev.fallBack
  split
  · refine ⟨fun f h1 h2 u i => ?_, ?_, ?_, ?_, fun h => ?_, fun q => ?_⟩
    · rw [fld_emit, Dev.linkEvent, fld_status_ne _ _ _ _ _ _ _ _ _ _ (by intro e; exact h2 (congrArg Loc.reg e)),
        Dev.fld_setFld_ne _ _ _ _ _ _ _ _ (by intro e; exact h1 (congrArg Loc.reg e)),
        Dev.fld_setFld_ne _ _ _ _ _ _ _ _ (by intro e; exact h1 (congrArg Loc.reg e))]
    · simp (disch := first | decide | simp) [Dev.linkEvent, Dev.fld_setFld_beside, fld_status_ne]
    · simp (disch := first | decide | simp) [Dev.linkEvent, Dev.fld_setFld_beside, fld_status_ne]
    · simp (disch := first | decide | simp) [Dev.linkEvent, Dev.fld_setFld_beside, fld_status_ne]
    · rw [flag_emit]
      unfold Dev.linkEvent Dev.status
      split <;> simp (disch := first | decide | simp) [Dev.flag, Dev.fld_setFld_ne, Dev.fld_setFld_beside] at h ⊢ <;> exact h
    · simp [Dev.linkEvent]
  · exact ⟨fun _ _ _ _ _ => rfl, rfl, rfl, rfl, id, fun _ => rfl⟩

/-- The end of loop timing at step 2 of a retrain changes no more than a fall-back does (R129). -/
theorem lane0Leaves_keep (d : Dev) (p : Nat) :
    (∀ f : Fld, f.reg ≠ .BB_LINK_STAT → f.reg ≠ .BB_LINK_EVENT → ∀ u i, (d.lane0Leaves p).fld f u i = d.fld f u i) ∧
      (d.lane0Leaves p).fld BB_LINK_STAT.STATE p = d.fld BB_LINK_STAT.STATE p ∧
      (d.lane0Leaves p).fld BB_LINK_STAT.UP p = d.fld BB_LINK_STAT.UP p ∧
      (d.lane0Leaves p).fld BB_LINK_STAT.WIDTH p = d.fld BB_LINK_STAT.WIDTH p ∧
      (d.flag BB_LINK_EVENT.RETRAINED p = true → (d.lane0Leaves p).flag BB_LINK_EVENT.RETRAINED p = true) ∧
      ∀ q : Nat, (d.lane0Leaves p).port q = d.port q := by
  unfold Dev.lane0Leaves
  split
  · exact ⟨fun _ _ _ _ _ => rfl, rfl, rfl, rfl, id, fun _ => rfl⟩
  · exact ⟨fun _ _ _ _ _ => rfl, rfl, rfl, rfl, id, fun _ => rfl⟩
  · exact fallBack_keep d p

/-- A retrain entered from ACTIVE (R126): the state, the count, the event; packets held and the port's work stay. -/
theorem retrainEnter_effect (d : Dev) (p cap : Nat) (h : d.fld BB_LINK_STAT.STATE p = 3) :
    let e := d.retrainEnter p cap false;
    e.fld BB_LINK_STAT.STATE p = 4 ∧ e.fld BB_LINK_STAT.UP p = 0 ∧ e.fld BB_LINK_STAT.WIDTH p = 0 ∧ e.fld BB_LANE_STAT.ACTIVE p = 0 ∧
      e.fld BB_LINK_ERR.RETRAINS p = satInc (d.fld BB_LINK_ERR.RETRAINS p) 255 ∧ e.flag BB_LINK_EVENT.RETRAINED p = true ∧
      (e.port p).link.replay = (d.port p).link.replay ∧ (e.port p).link.step = .retrain ∧ (e.port p).works = (d.port p).works ∧
      ∀ q : Nat, q ≠ p → e.port q = d.port q := by
  have hs : d.lstate p = lsActive := h
  have hne : ¬ lsRetrain = lsActive := by decide
  have hc : satInc (d.fld BB_LINK_ERR.RETRAINS p) 255 % 256 = satInc (d.fld BB_LINK_ERR.RETRAINS p) 255 := by
    apply Nat.mod_eq_of_lt
    unfold satInc
    split
    · omega
    · omega
  simp only [Dev.retrainEnter, hs, if_true, Bool.false_eq_true, if_false, Dev.setLstate, hne, Dev.linkEvent]
  simp only [decide_true, Bool.true_or, if_true]
  simp only [fld_sendSyns, flag_sendSyns, port_sendSyns_same, (lane0Leaves_keep _ p).2.1, (lane0Leaves_keep _ p).2.2.1,
    (lane0Leaves_keep _ p).2.2.2.1, (lane0Leaves_keep _ p).2.2.2.2.2,
    (lane0Leaves_keep _ p).1 BB_LANE_STAT.ACTIVE (by decide) (by decide),
    (lane0Leaves_keep _ p).1 BB_LINK_ERR.RETRAINS (by decide) (by decide)]
  refine ⟨?_, ?_, ?_, ?_, ?_, ?_, ?_, ?_, ?_, ?_⟩
  · simp (disch := first | decide | simp) [Dev.fld_setFld_same, Dev.fld_setFld_ne, Dev.fld_setFld_beside]; decide
  · simp (disch := first | decide | simp) [Dev.fld_setFld_same, Dev.fld_setFld_ne, Dev.fld_setFld_beside]
  · simp (disch := first | decide | simp) [Dev.fld_setFld_same, Dev.fld_setFld_ne]
  · simp (disch := first | decide | simp) [Dev.fld_setFld_same]
  · simp (disch := first | decide | simp) [Dev.fld_setFld_ne, fld_status_ne, fld_bump_same, hc]
  · apply (lane0Leaves_keep _ p).2.2.2.2.1
    simp (disch := first | decide | simp) [flag_setFld_ne, Dev.flag_status]
  · simp
  · simp
  · simp
  · intro q hq
    rw [port_sendSyns_ne _ _ _ hq, (lane0Leaves_keep _ p).2.2.2.2.2]
    simp [port_modLink_ne _ hq]

end Sys2Proof.Machine
end

