-- ==== Sys2Proof/Tests/Slice0.lean ====
section
/-!
SUPPORT. Tests. For every statement with hypotheses, concrete states, operands and commands that meet the hypotheses of each of its
clauses, the command able to reach the block; the checks of form pass and refuse terms for every command; results of single commands.
-/

namespace Sys2Proof.Tests

open Sys2Proof.Machine

set_option Elab.async false

/-! States and operands of the witnesses -/

def base : Dev :=
  (({ Dev.initial .ez2 with fen := { asserted := false } } : Dev).setReg .MOR_LINK_STAT 0 0 0xA0000000#32).setReg .MOR_LINK_STAT 1 0 0xA0000000#32
def st (f : Dev → Dev) : State := ⟨[], Locks.clear, f base⟩
def mc : Src := { path := 8 }
def px : Src := { path := 0, rid := 256, tag := 7 }
def up (p : Nat) (d : Dev) : Dev := d.setFld BB_LINK_STAT.STATE p 0 3
def booted (x : Nat) (d : Dev) : Dev := d.setFld MC_BOOT_STAT.DONE x 0 1
def syn0 : Syn := { step := 0, lane := 0, maxRate := 3, maxWidth := 8, rxGood := 0, ltReq := true, ltCap := true }
def wr0 (x : Nat) : HostReq := { id := 1, die := x, kind := .read, addr := 4096, len := 64 }
def iss : Issued := { tag := 3, req := wr0 0 }
def owed1 : Owed := { id := 5, rid := 256, tag := 9, win := 2, port := 3, near := 64, far := 128, len := 4 }
def cfgR (wr : Bool) (off v : Nat) : CfgReq := { type0 := true, write := wr, off := off, en := 15, value := v, rid := 256, tag := 7 }
def adr0 : AdrBody := { tag := 1, write := false, size := 2, am := 0x60, addr := 64, block := false, locked := false }
def pkt0 : Pkt := .ack 3
def linkUp (p : Nat) (f : Link → Link) (d : Dev) : Dev := (up p d).modLink p f
def crs (w : Bool) : Course := ⟨.single, w, 64, 4, if w then [1, 2, 3, 4] else []⟩
def crsBlk : Course := ⟨.block, false, 64, 64, []⟩
def wk (c : Course) : Work := { id := 5, job := .mover 1 2 3, cls := .mover, port := 0, am := 0x60, courses := [c], begun := true }
def txn (c : Course) : OutTxn := { work := 5, tag := 1, course := c }
def initr (c : Course) (d : Dev) : Dev := (up 0 d).modPort 0 fun o => { o with outOpen := some (txn c), works := [wk c] }
def adrOf (am size addr : Nat) (write block : Bool) : AdrBody :=
  { tag := 1, write := write, block := block, locked := false, size := size, am := am, addr := addr }
def target (d : Dev) : Dev := up 0 (booted 0 d)
def winIn (w : Nat) (d : Dev) : Dev := ((((d.setReg .WIN_I_CTL 0 w 0x88111000#32).setReg .WIN_I_LIMIT_LO 0 w 0x00100000#32).setReg .WIN_I_PORTS_LO
  0 w 1).setReg .WIN_I_BASE_LO 0 w 0)
def inTx (a : AdrBody) (t : InTarget) : InTxn := { id := 1, adr := a, shape := if a.block then .block else .single, target := t }
def mapped (x : Nat) (d : Dev) : Dev := ((((booted x d).cfgPut x 4 2).cfgPut x 0x14 1).cfgPut x 0x1C 1).cfgPut x 0x24 1
def noCredit (posted : Bool) (d : Dev) : Dev := d.modPx 0 fun q => if posted then { q with inP := [.odd px true none] } else
  { q with inNp := [.odd px false none] }

/-- Can the command reach the block, and do state and device meet a condition? -/
def meets (s : State) (i : Instr) (h : State → Dev → Bool) : Bool := s.dev.takes i && h s s.dev

theorem witness_SemTakeGrants :
    ((meets (st id) (.semTake mc 3) fun s _ =>
      decide (s.dev.lets mc ⟨.SEM_SW, 0, 3⟩ = true ∧ mc.path < 16 ∧ s.dev.sem 3 = {} ∧ s.dev.swHolds mc.path = false))) = true := by
  decide +kernel

theorem witness_SemReleases :
    ((meets (st fun d => d.modSem 3 fun _ => { holder := some (.software 8) }) (.semGive mc 3) fun _ d =>
      decide ((∀ p ∈ d.livePorts, ∀ w ∈ (d.port p).works, w.lock ≠ some 3) ∧ d.sem 3 = { holder := some (.software 8) } ∧ d.lets mc ⟨.SEM_SW, 0, 3⟩
        = true)) &&
    (meets (st fun d => d.modSem 3 fun _ => { holder := some (.software 9) }) (.semGive mc 3) fun _ d =>
      decide ((∀ p ∈ d.livePorts, ∀ w ∈ (d.port p).works, w.lock ≠ some 3) ∧ d.sem 3 = { holder := some (.software 9) } ∧ d.lets mc ⟨.SEM_SW, 0, 3⟩
        = true)) &&
    (meets (st fun d => d.modSem 3 fun _ => { holder := some (.software 9) }) (.lockTimeout 3) fun _ d =>
      decide ((∀ p ∈ d.livePorts, ∀ w ∈ (d.port p).works, w.lock ≠ some 3) ∧ d.sem 3 = { holder := some (.software 9) } ∧ d.Runs (d.homeOf 3))) &&
    (meets (st fun d => d.modSem 3 fun _ => { holder := some (.software 9) }) (.semForce mc 3) fun _ d =>
      decide ((∀ p ∈ d.livePorts, ∀ w ∈ (d.port p).works, w.lock ≠ some 3) ∧ d.sem 3 = { holder := some (.software 9) } ∧
    d.lets mc ⟨.SEM_CTL, 0, 3⟩ = true ∧ d.leadBusy = false ∧ d.cfgLog = [] ∧ d.applied = [] ∧ d.homeOf 3 ∈ d.replicas)) &&
    (meets (st fun d => d.modSem 3 fun _ => { resv := some 5 }) (.reservationExpiry 3) fun _ d =>
      decide ((∀ p ∈ d.livePorts, ∀ w ∈ (d.port p).works, w.lock ≠ some 3) ∧ d.sem 3 = { resv := some 5 } ∧ d.Runs (d.homeOf 3)))) = true := by
  decide +kernel

theorem witness_PcieConfigRequests :
    ((meets (st (booted 0)) (.pcieConfigRequest 0 (cfgR false 0 0)) fun _ d =>
      decide (d.waitsCredit 0 false = false ∧ (cfgR false 0 0).type0 = true ∧ d.flag MC_BOOT_STAT.DONE 0 = true ∧ (d.px 0).flr = false ∧ (cfgR
        false 0 0).write = false ∧ marginLane 0 = none)) &&
    (meets (st (booted 0)) (.pcieConfigRequest 0 (cfgR true 4 6)) fun _ d =>
      decide (d.waitsCredit 0 false = false ∧ (cfgR true 4 6).type0 = true ∧ d.flag MC_BOOT_STAT.DONE 0 = true ∧ (d.px 0).flr = false ∧ (cfgR true
        4 6).write = true)) &&
    (meets (st (booted 0)) (.pcieConfigRequest 0 (cfgR true 0x18 0xFFFFFFFF)) fun _ d =>
      decide (d.waitsCredit 0 false = false ∧ (cfgR true 0x18 0xFFFFFFFF).type0 = true ∧ d.flag MC_BOOT_STAT.DONE 0 = true ∧ (d.px 0).flr = false ∧
        (cfgR true 0x18 0xFFFFFFFF).write = true)) &&
    (meets (st fun d => (booted 0 d).cfgPut 0 4 0x38100006) (.pcieConfigRequest 0 (cfgR true 4 0xFFFF0006)) fun _ d =>
      decide (d.waitsCredit 0 false = false ∧ (cfgR true 4 0xFFFF0006).type0 = true ∧ d.flag MC_BOOT_STAT.DONE 0 = true ∧ (d.px 0).flr = false)) &&
    (meets (st fun d => (booted 0 d).modPx 0 fun p => { p with flr := true }) (.pcieConfigRequest 0 (cfgR true 4 6)) fun _ d =>
      decide (d.waitsCredit 0 false = false ∧ (cfgR true 4 6).type0 = true ∧ (d.px 0).flr = true)) &&
    (meets (st id) (.pcieConfigRequest 0 { cfgR false 0 0 with type0 := false }) fun _ d =>
      decide (d.waitsCredit 0 false = false ∧ ({ cfgR false 0 0 with type0 := false } : CfgReq).type0 = false)) &&
    (meets (st (noCredit false)) (.pcieConfigRequest 0 (cfgR false 0 0)) fun _ d =>
      decide (d.waitsCredit 0 false = true))) = true := by
  decide +kernel

theorem witness_PcieResets :
    ((meets (st fun d => d.modPx 0 fun p => { p with owed := [owed1], issued := [iss], waitTag := [wr0 0] }) (.functionLevelReset 0) fun _ _ =>
      decide (True)) &&
    (meets (st fun d => d.modPx 0 fun p => { p with owed := [owed1] }) (.functionLevelReset 0) fun _ d =>
      decide ((d.px 0).issued = [])) &&
    (meets (st fun d => d.modPx 0 fun p => { p with flr := true }) (.flrReady 0) fun _ d =>
      decide ((d.px 0).flr = true)) &&
    (meets (st id) (.flrReady 0) fun _ d =>
      decide ((d.px 0).flr = false)) &&
    (meets (st fun d => (d.modPx 0 fun p => { p with perst := false, owed := [owed1], issued := [iss] }).setReg .PX_LINK_STAT 0 0 0xD0006880#32)
      (.pciePerst 0) fun _ _ =>
      decide (True)) &&
    (meets (st fun d => (d.modPx 0 fun p => { p with perst := false, owed := [owed1], issued := [iss], heldReq := [wr0 0] }).setReg .PX_LINK_STAT 0
      0 0xD0006880#32) (.pcieHotReset 0) fun _ _ =>
      decide (True)) &&
    (meets (st fun d => (d.modPx 0 fun p => { p with perst := false, owed := [owed1], issued := [iss] }).setReg .PX_LINK_STAT 0 0 0xD0006880#32)
      (.pcieLinkDown 0) fun _ _ =>
      decide (True))) = true := by
  decide +kernel

theorem witness_PcieLinkStates :
    ((meets (st fun d => (booted 0 d).modPx 0 fun p => { p with perst := false }) (.pcieLinkUp 0 6 8 true) fun _ d =>
      decide (d.flag MC_BOOT_STAT.DONE 0 = true ∧ (d.px 0).perst = false)) &&
    (meets (st fun d => (booted 0 d).modPx 0 fun p => { p with perst := false }) (.pcieLinkUp 0 6 8 false) fun _ d =>
      decide (d.flag MC_BOOT_STAT.DONE 0 = true ∧ (d.px 0).perst = false)) &&
    (meets (st fun d => (booted 0 d).modPx 0 fun p => { p with perst := false }) (.pcieLinkUp 0 3 4 false) fun _ d =>
      decide (d.flag MC_BOOT_STAT.DONE 0 = true ∧ (d.px 0).perst = false ∧ 3 < 6)) &&
    (meets (st fun d => d.setReg .PX_LINK_STAT 0 0 0xD0006880#32) (.pcieLinkRetrain 0 6 8) fun _ d =>
      decide (d.flag PX_LINK_STAT.UP 0 = true ∧ d.flag PX_LINK_STAT.FLIT 0 = true)) &&
    (meets (st fun d => d.setReg .PX_LINK_STAT 0 0 0xD0006880#32) (.pcieL1Entry 0 1) fun _ d =>
      decide (d.flag PX_LINK_STAT.UP 0 = true)) &&
    (meets (st fun d => (d.setReg .PX_LINK_STAT 0 0 0xD0007880#32).modPx 0 fun p => { p with inL1 := true }) (.pcieL1Exit 0) fun _ d =>
      decide ((d.px 0).inL1 = true)) &&
    (meets (st id) (.perstRelease 0) fun _ _ =>
      decide (True)) &&
    (meets (st fun d => (((d.setReg .PX_LINK_STAT 0 0 0xD0006880#32).cfgPut 0 0x288 8).setFld PX_CTRL.L0P_AUTO 0 0 1)) (.l0pNarrow 0) fun s _ =>
      decide ((s.dev.cfgRead 0 0x288).getLsbD 3 = true ∧ s.dev.fld PX_LINK_STAT.STATE 0 = 2 ∧ s.dev.flag PX_CTRL.L0P_AUTO 0 = true ∧ s.dev.fld
        PX_L0P.LOW_PCT 0 < s.dev.fld PX_L0P.HIGH_PCT 0 ∧
    1 < s.dev.fld PX_LINK_STAT.ACTIVE_WIDTH 0)) &&
    (meets (st fun d => (((d.setReg .PX_LINK_STAT 0 0 0xD0006840#32).cfgPut 0 0x288 8).setFld PX_CTRL.L0P_AUTO 0 0 1)) (.l0pWiden 0) fun s _ =>
      decide ((s.dev.cfgRead 0 0x288).getLsbD 3 = true ∧ s.dev.fld PX_LINK_STAT.STATE 0 = 2 ∧ s.dev.flag PX_CTRL.L0P_AUTO 0 = true ∧ s.dev.fld
        PX_LINK_STAT.ACTIVE_WIDTH 0 ≠ s.dev.fld PX_LINK_STAT.WIDTH 0)) &&
    (meets (st fun d => (((d.setReg .PX_LINK_STAT 0 0 0xD0006880#32).cfgPut 0 0x288 8))) (.l0pPartnerRequest 0 2) fun s _ =>
      decide ((s.dev.cfgRead 0 0x288).getLsbD 3 = true ∧ s.dev.fld PX_LINK_STAT.STATE 0 = 2 ∧ 2 ≤ s.dev.fld PX_LINK_STAT.WIDTH 0)) &&
    (meets (st fun d => ((d.setReg .PX_LINK_STAT 0 0 0xD0006880#32).cfgPut 0 0x98 0x400).modPx 0 fun p => { p with ltrIdle := false })
      (.ltrIdleTimeout 0) fun s _ =>
      decide (s.dev.Runs 0 ∧ (s.dev.px 0).ltrIdle = false ∧ (s.dev.px 0).issued = [] ∧ (s.dev.px 0).waitTag = [] ∧ (s.dev.px 0).heldReq = [] ∧
    (s.dev.cfgRead 0 0x98).getLsbD 10 = true ∧ s.dev.flag PX_LINK_STAT.UP 0 = true)) &&
    (meets (st fun d => d.modPx 0 fun p => { p with issued := [iss] }) (.ltrIdleTimeout 0) fun s _ =>
      decide ((s.dev.px 0).issued ≠ [])) &&
    (meets (st id) (.pcieL1Entry 0 1) fun s _ =>
      decide (s.dev.flag PX_LINK_STAT.UP 0 = false)) &&
    (meets (st id) (.pcieLinkRetrain 0 6 8) fun s _ =>
      decide (s.dev.flag PX_LINK_STAT.UP 0 = false)) &&
    (meets (st id) (.pcieL1Exit 0) fun s _ =>
      decide ((s.dev.px 0).inL1 = false)) &&
    (meets (st (booted 0)) (.pcieLinkUp 0 6 8 true) fun s _ =>
      decide ((s.dev.px 0).perst = true)) &&
    (meets (st id) (.l0pWiden 0) fun s _ =>
      decide (s.dev.fld PX_LINK_STAT.STATE 0 ≠ 2))) = true := by
  decide +kernel

theorem witness_PcieMessagesAndUnsupported :
    ((meets (st id) (.pcieMessage 0 .pmTurnOff) fun _ _ =>
      decide (True)) &&
    (meets (st id) (.pcieMessage 0 .pmActiveStateNak) fun _ _ =>
      decide (True)) &&
    (meets (st id) (.pcieMessage 0 (.setSlotPowerLimit 25 1)) fun _ _ =>
      decide (True)) &&
    (meets (st id) (.pcieVendorMessage 0 true) fun _ _ =>
      decide (True)) &&
    (meets (st id) (.pcieVendorMessage 0 false) fun _ _ =>
      decide (True)) &&
    (meets (st id) (.pcieUnsupportedRequest px true none) fun _ d =>
      decide (srcDie px = 0 ∧ d.waitsCredit 0 true = false)) &&
    (meets (st id) (.pcieUnsupportedRequest px false none) fun _ d =>
      decide (srcDie px = 0 ∧ d.waitsCredit 0 false = false)) &&
    (meets (st fun d => (mapped 0 d).putActv ⟨.PROT_DEFAULT, 0, 0⟩ 0) (.pcieUnsupportedRequest px true (some ⟨.bar0, 0, 16, 1⟩)) fun _ d =>
      decide (srcDie px = 0 ∧ d.takesBar 0 0 = true ∧ (oddKind .bar0).2 = 0 ∧ (d.protCheck (d.srcReq px (oddKind .bar0).1 0 16 1)).1.denied = true
        ∧ d.waitsCredit 0 true = false)) &&
    (meets (st fun d => (mapped 0 d).putActv ⟨.PROT_DEFAULT, 0, 0⟩ 0) (.pcieUnsupportedRequest px false (some ⟨.bar2, 0, 8, 3⟩)) fun _ d =>
      decide (srcDie px = 0 ∧ d.takesBar 0 (oddKind .bar2).2 = true ∧ (d.protCheck (d.srcReq px (oddKind .bar2).1 0 8 3)).1.denied = true ∧
        d.waitsCredit 0 false = false)) &&
    (meets (st (noCredit true)) (.pcieUnsupportedRequest px true none) fun _ d =>
      decide (srcDie px = 0 ∧ d.waitsCredit 0 true = true))) = true := by
  decide +kernel

theorem witness_PcieCompletions :
    ((meets (st fun d => d.modPx 0 fun p => { p with issued := [iss] }) (.pcieCompletionReceived 0 4 .success false true [0]) fun s _ =>
      decide (∀ i ∈ (s.dev.px 0).issued, i.tag ≠ 4)) &&
    (meets (st id) (.pcieCompletionTimeout 0 4) fun s _ =>
      decide (∀ i ∈ (s.dev.px 0).issued, i.tag ≠ 4)) &&
    (meets (st fun d => d.modPx 0 fun p => { p with issued := [iss] }) (.pcieCompletionReceived 0 3 .success false true [1, 2]) fun s _ =>
      decide ((s.dev.px 0).issued = [iss] ∧ iss.tag = 3 ∧ (s.dev.px 0).waitTag = [])) &&
    (meets (st fun d => d.modPx 0 fun p => { p with issued := [iss] }) (.pcieCompletionReceived 0 3 .success true true [1, 2]) fun s _ =>
      decide ((s.dev.px 0).issued = [iss] ∧ iss.tag = 3 ∧ (s.dev.px 0).waitTag = [])) &&
    (meets (st fun d => d.modPx 0 fun p => { p with issued := [iss] }) (.pcieCompletionReceived 0 3 .unsupported false true []) fun s _ =>
      decide ((s.dev.px 0).issued = [iss] ∧ iss.tag = 3 ∧ (s.dev.px 0).waitTag = [])) &&
    (meets (st fun d => d.modPx 0 fun p => { p with issued := [iss] }) (.pcieCompletionReceived 0 3 .abort false true []) fun s _ =>
      decide ((s.dev.px 0).issued = [iss] ∧ iss.tag = 3 ∧ (s.dev.px 0).waitTag = [])) &&
    (meets (st fun d => d.modPx 0 fun p => { p with issued := [iss] }) (.pcieCompletionTimeout 0 3) fun s _ =>
      decide ((s.dev.px 0).issued = [iss] ∧ iss.tag = 3 ∧ (s.dev.px 0).waitTag = []))) = true := by
  decide +kernel

theorem witness_PcieLimits :
    ((meets (st fun d => d.modPx 0 fun p => { p with owed := [owed1] }) (.npLimitExpiry 0 5) fun s _ =>
      decide (s.dev.Runs 0 ∧ s.dev.owedAt 0 5 = some owed1 ∧ owed1.mon = none ∧ s.dev.ports = [])) &&
    (meets (st fun d => d.modPx 0 fun p => { p with heldReq := [wr0 0] }) (.holdExpiry 0 1) fun s _ =>
      decide (s.dev.Runs 0 ∧ ((s.dev.px 0).heldReq ++ (if s.dev.canIssue 0 then [] else (s.dev.px 0).waitTag)).find? (fun r => r.id == 1 &&
        !r.book) = some (wr0 0))) &&
    (meets (st fun d => ((initr (crs true) d)).modPx 0 fun p => { p with owed := [owed1] }) (.npLimitExpiry 0 5) fun s _ =>
      decide (s.dev.Runs 0 ∧ s.dev.owedAt 0 5 = some owed1)) &&
    (meets (st id) (.npLimitExpiry 0 5) fun s _ =>
      decide (s.dev.owedAt 0 5 = none)) &&
    (meets (st fun d => d.modPx 0 fun p => { p with waitTag := [wr0 0] }) (.holdExpiry 0 1) fun s _ =>
      decide (s.dev.Runs 0 ∧ ((s.dev.px 0).heldReq ++ (if s.dev.canIssue 0 then [] else (s.dev.px 0).waitTag)).find? (fun r => r.id == 1 &&
        !r.book) = some (wr0 0))) &&
    (meets (st id) (.holdExpiry 0 1) fun s _ =>
      decide (∀ r ∈ (s.dev.px 0).heldReq ++ (s.dev.px 0).waitTag, r.id ≠ 1 ∨ r.book = true))) = true := by
  decide +kernel

theorem witness_LinkFrames :
    ((meets (st (up 0)) (.bbFrameBad 0 .badLseq) fun s _ =>
      decide (s.dev.fld BB_LINK_STAT.STATE 0 = 3 ∧ (s.dev.port 0).link.repeatRun = false)) &&
    (meets (st (up 0)) (.bbFrameBad 0 .ebp) fun s _ =>
      decide (s.dev.fld BB_LINK_STAT.STATE 0 = 3 ∧ (s.dev.port 0).link.repeatRun = false)) &&
    (meets (st (up 0)) (.bbFrameBad 0 (.crc false)) fun s _ =>
      decide (s.dev.fld BB_LINK_STAT.STATE 0 = 3 ∧ (s.dev.port 0).link.repeatRun = false)) &&
    (meets (st (up 0)) (.bbFrameBad 0 (.crc true)) fun s _ =>
      decide (s.dev.fld BB_LINK_STAT.STATE 0 = 3 ∧ (s.dev.port 0).link.repeatRun = false)) &&
    (meets (st fun d => up 0 (d.setFld BB_LANE_STAT.ACTIVE 0 0 255)) (.bbFrameBad 0 (.codeViolation 2 true)) fun s _ =>
      decide (s.dev.fld BB_LINK_STAT.STATE 0 = 3 ∧ (s.dev.port 0).link.repeatRun = false ∧ (s.dev.fld BB_LANE_STAT.ACTIVE 0).testBit 2 = true)) &&
    (meets (st (linkUp 0 fun l => { l with repeatRun := true, repeats := 1 })) (.repeatRequestTimer 0) fun s _ =>
      decide ((s.dev.port 0).link.repeatRun = true ∧ (s.dev.port 0).link.repeats < s.dev.fld BB_LINK_THRESH.REPEAT_MAX 0)) &&
    (meets (st (up 0)) (.repeatRequestTimer 0) fun s _ =>
      decide ((s.dev.port 0).link.repeatRun = false)) &&
    (meets (st (linkUp 0 fun l => { l with ackDue := true })) (.ackIdlInterval 0) fun s _ =>
      decide (s.dev.fld BB_LINK_STAT.STATE 0 = 3 ∧ (s.dev.port 0).link.ackDue = true)) &&
    (meets (st (up 0)) (.ackIdlInterval 0) fun s _ =>
      decide ((s.dev.port 0).link.ackDue = false)) &&
    (meets (st (up 0)) (.skpInterval 0) fun s _ =>
      decide (s.dev.fld BB_LINK_STAT.STATE 0 = 3)) &&
    (meets (st (fun d => d.setFld BB_LINK_STAT.STATE 0 0 5)) (.skpInterval 0) fun s _ =>
      decide (s.dev.fld BB_LINK_STAT.STATE 0 = 0 ∨ 5 ≤ s.dev.fld BB_LINK_STAT.STATE 0))) = true := by
  decide +kernel

theorem witness_LinkAcknowledge :
    ((meets (st (linkUp 0 fun l => { l with txSeq := 3, replay := [(0, pkt0), (1, pkt0), (2, pkt0)] })) (.idlReceived 0 false 1) fun s _ =>
      decide (s.dev.fld BB_LINK_STAT.STATE 0 = 3 ∧ (s.dev.port 0).link.waitIdl = false ∧ (s.dev.port 0).link.waiting = [])) &&
    (meets (st (linkUp 0 fun l => { l with txSeq := 3, replay := [(0, pkt0), (1, pkt0), (2, pkt0)] })) (.idlReceived 0 true 1) fun s _ =>
      decide (s.dev.fld BB_LINK_STAT.STATE 0 = 3 ∧ (s.dev.port 0).link.waitIdl = false ∧ (s.dev.port 0).link.waiting = []))) = true := by
  decide +kernel

theorem witness_LinkRetrains :
    ((meets (st (linkUp 0 fun l => { l with txSeq := 64, replay := List.replicate 64 (0, pkt0) })) (.replayStallTimeout 0) fun s _ =>
      decide (s.dev.fld BB_LINK_STAT.STATE 0 = 3 ∧ (s.dev.port 0).link.recal = .none ∧ (s.dev.port 0).link.replay.length = 64)) &&
    (meets (st (linkUp 0 fun l => { l with repeatRun := true, repeats := 255 })) (.repeatRequestTimer 0) fun s _ =>
      decide (s.dev.fld BB_LINK_STAT.STATE 0 = 3 ∧ (s.dev.port 0).link.recal = .none ∧ (s.dev.port 0).link.repeatRun = true ∧ s.dev.fld
        BB_LINK_THRESH.REPEAT_MAX 0 ≤ (s.dev.port 0).link.repeats)) &&
    (meets (st (fun d => (up 0 d).setFld BB_LANE_STAT.ACTIVE 0 0 255)) (.synReceived 0 0 syn0) fun s _ =>
      decide (s.dev.fld BB_LINK_STAT.STATE 0 = 3 ∧ (s.dev.port 0).link.recal = .none ∧ syn0.crcOk = true ∧ syn0.lane = 0 ∧ syn0.rxGood = 0 ∧
        (s.dev.fld BB_LANE_STAT.ACTIVE 0).testBit 0 = true)) &&
    (meets (st (fun d => ((up 0 d).setFld BB_LANE_STAT.ACTIVE 0 0 255).setFld BB_LANE_STAT.LOCK 0 0 255)) (.laneLockLoss 0 1) fun s _ =>
      decide (s.dev.fld BB_LINK_STAT.STATE 0 = 3 ∧ (s.dev.port 0).link.recal = .none ∧ (s.dev.fld BB_LANE_STAT.LOCK 0).testBit 1 = true ∧
        (s.dev.fld BB_LANE_STAT.ACTIVE 0).testBit 1 = true)) &&
    (meets (st (linkUp 0 fun l => { l with crcWin := 70000 })) (.healthWindowEnd 0) fun s _ =>
      decide (s.dev.fld BB_LINK_STAT.STATE 0 = 3 ∧ (s.dev.port 0).link.recal = .none ∧ (s.dev.port 0).link.cvWin = [0, 0, 0, 0, 0, 0, 0, 0] ∧
        (s.dev.port 0).link.struck = none ∧ s.dev.fld BB_LINK_THRESH.CRC_MAX 0 < (s.dev.port 0).link.crcWin)) &&
    (meets (st (fun d => (up 0 d).setFld BB_LINK_CTRL.EN 0 0 1)) (.retrain mc 0) fun s _ =>
      decide (s.dev.fld BB_LINK_STAT.STATE 0 = 3 ∧ (s.dev.port 0).link.recal = .none ∧ s.dev.lets mc ⟨.BB_LINK_CTRL, 0, 0⟩ = true ∧ lockOf s.locks
        ⟨.BB_LINK_CTRL, 0, 0⟩ = false ∧ s.dev.flag BB_LINK_CTRL.EN 0 = true)) &&
    (meets (st (fun d => (up 0 d).setFld BB_LINK_CTRL.EN 0 0 1)) (.widen mc 0) fun s _ =>
      decide (s.dev.fld BB_LINK_STAT.STATE 0 = 3 ∧ (s.dev.port 0).link.recal = .none ∧ s.dev.lets mc ⟨.BB_LINK_CTRL, 0, 0⟩ = true ∧ lockOf s.locks
        ⟨.BB_LINK_CTRL, 0, 0⟩ = false ∧ s.dev.flag BB_LINK_CTRL.EN 0 = true)) &&
    (meets (st (fun d => (d.setFld BB_LINK_STAT.STATE 0 0 1).setReg .BB_LANE_STAT 0 0 0xFFFFFFFF#32)) (.detectRetry 0) fun s _ =>
      decide (s.dev.fld BB_LINK_STAT.STATE 0 = 1)) &&
    (meets (st (fun d => (d.setFld BB_LINK_STAT.STATE 0 0 5).setReg .BB_LANE_STAT 0 0 0xFFFFFFFF#32)) (.failedRetry 0) fun s _ =>
      decide (s.dev.fld BB_LINK_STAT.STATE 0 = 5))) = true := by
  decide +kernel

theorem witness_LinkStartsAndEnds :
    ((meets (st (fun d => d.setReg .BB_LANE_STAT 0 0 0xFFFFFFFF#32)) (.bbLinkEnable mc 0) fun s _ =>
      decide (s.dev.lets mc ⟨.BB_LINK_CTRL, 0, 0⟩ = true ∧ lockOf s.locks ⟨.BB_LINK_CTRL, 0, 0⟩ = false ∧ s.dev.fld BB_LINK_STAT.STATE 0 = 0 ∧
        s.dev.flag BB_LINK_CTRL.EN 0 = false)) &&
    (meets (st (linkUp 0 fun l => { l with txSeq := 1, replay := [(0, pkt0)] })) (.bbLinkDisable mc 0) fun s _ =>
      decide (s.dev.lets mc ⟨.BB_LINK_CTRL, 0, 0⟩ = true ∧ lockOf s.locks ⟨.BB_LINK_CTRL, 0, 0⟩ = false ∧ s.dev.fld BB_LINK_STAT.STATE 0 = 3)) &&
    (meets (st (fun d => (d.setFld BB_LINK_STAT.STATE 0 0 4).modLink 0 fun l => { l with step := .retrain, txSeq := 1, replay := [(0, pkt0)] }))
      (.retrainPartnerTimeout 0) fun s _ =>
      decide (s.dev.fld BB_LINK_STAT.STATE 0 = 4 ∧ (s.dev.port 0).link.seen = false)) &&
    (meets (st fun d => (d.setFld BB_LINK_STAT.STATE 0 0 1).setFld BB_LANE_STAT.LOCK 0 0 3) (.bbLaneLock 0 7) fun s _ =>
      decide (s.dev.fld BB_LINK_STAT.STATE 0 ≠ 0 ∧ s.dev.fld BB_LINK_STAT.STATE 0 ≠ 5)) &&
    (meets (st id) (.bbLaneLock 0 7) fun s _ =>
      decide (s.dev.fld BB_LINK_STAT.STATE 0 = 0 ∨ s.dev.fld BB_LINK_STAT.STATE 0 = 5))) = true := by
  decide +kernel

theorem witness_LinkTrainingSteps :
    ((meets (st fun d => (d.setFld BB_LINK_STAT.STATE 0 0 2).modLink 0 fun l => { l with step := .rateIdle }) (.rateChangeIdleEnd 0) fun s _ =>
      decide ((s.dev.port 0).link.step = .rateIdle)) &&
    (meets (st (up 0)) (.rateChangeIdleEnd 0) fun s _ =>
      decide ((s.dev.port 0).link.step ≠ .rateIdle)) &&
    (meets (st fun d => (d.setFld BB_LINK_STAT.STATE 0 0 2).modLink 0 fun l =>
      { l with step := .eq, seen := true, goodRx := 255, partnerGood := 255, partner := some { syn0 with step := 1 } }) (.eqAdaptDone 0) fun s _ =>
      decide (((s.dev.port 0).link.step = .eq ∨ (s.dev.port 0).link.step = .retrain) ∧ (s.dev.port 0).link.seen = true)) &&
    (meets (st (up 0)) (.eqAdaptDone 0) fun s _ =>
      decide ((s.dev.port 0).link.step ≠ .eq ∧ (s.dev.port 0).link.step ≠ .retrain ∨ (s.dev.port 0).link.seen = false)) &&
    (meets (st fun d => ((d.setFld BB_LINK_STAT.STATE 0 0 1).setFld BB_LANE_STAT.LOCK 0 0 255).modLink 0 fun l => { l with step := .cap })
      (.synReceived 0 0 syn0) fun s _ =>
      decide (s.dev.fld BB_LINK_STAT.STATE 0 = 1 ∧ syn0.crcOk = true ∧ syn0.lane = 0 ∧
    (s.dev.port 0).link.step = .cap ∧ (s.dev.fld BB_LANE_STAT.LOCK 0).testBit 0 = true ∧
    syn0.step = 0 ∧ s.dev.fld BB_LANE_STAT.LOCK 0 &&& (255 - s.dev.fld BB_LANE_STAT.BAD 0) &&& (255 - ((s.dev.port 0).link.goodRx ||| 2 ^ 0) % 256)
      ≠ 0)) &&
    (meets (st fun d => (d.setFld BB_LINK_STAT.STATE 0 0 2).modLink 0 fun l =>
      { l with step := .eq, seen := true, goodRx := 255, partnerGood := 255, partner := some { syn0 with step := 1 } }) (.eqAdaptDone 0) fun s _ =>
      decide (s.dev.fld BB_LINK_STAT.STATE 0 = 2 ∧ (s.dev.port 0).link.step = .eq ∧ (s.dev.port 0).link.seen = true ∧
    (s.dev.port 0).link.goodRx = 255 ∧ (s.dev.port 0).link.partnerGood = 255 ∧ (s.dev.port 0).link.capWidth = 8 ∧
    (s.dev.port 0).link.partner = some { syn0 with step := 1 } ∧ s.dev.fld BB_LINK_CTRL.MAX_WIDTH 0 = 8)) &&
    (meets (st fun d => (((d.setFld BB_LINK_STAT.STATE 0 0 2).setFld CLK_STAT.BBPLL_STATE 0 0 2).setFld BB_LINK_CTRL.LOOP_MODE 0 0 1).modLink 0 fun
      l => { l with waitIdl := true, chosen := some (4, 4), rate := 2 }) (.idlReceived 0 false 0) fun s _ =>
      decide (s.dev.fld BB_LINK_STAT.STATE 0 = 2 ∧ (s.dev.port 0).link.waitIdl = true ∧
    (s.dev.port 0).link.chosen = some (4, 4) ∧ (s.dev.port 0).link.rate < 4 ∧ (s.dev.port 0).link.replay = [] ∧
    (s.dev.port 0).link.waiting = [] ∧ (s.dev.port 0).link.partner = none ∧ s.dev.fld BB_LINK_CTRL.LOOP_MODE 0 = 1 ∧
    s.dev.fld CLK_STAT.BBPLL_STATE (dieOf 0) = 2 ∧ s.dev.flag BB_LINK_STAT.LOOP 0 = false))) = true := by
  decide +kernel

theorem witness_BusPacketsOutOfOrder :
    ((meets (st id) (.ackReceived 0 3 ⟨1, 1⟩) fun s _ =>
      decide (s.dev.fld BB_LINK_STAT.STATE 0 ≠ 3)) &&
    (meets (st (linkUp 0 fun l => { l with rxNext := 5 })) (.adrReceived 0 4 (adrOf 0x60 2 64 false false)) fun s _ =>
      decide (4 % 128 ≠ (s.dev.port 0).link.rxNext ∧ ((s.dev.port 0).link.rxNext + 128 - 4 % 128) % 128 ≤ 64)) &&
    (meets (st (linkUp 0 fun l => { l with rxNext := 5, repeatRun := true })) (.datReceived 0 7 ⟨1, 1, true, false, 0, [1]⟩) fun s _ =>
      decide (7 % 128 ≠ (s.dev.port 0).link.rxNext ∧ (s.dev.port 0).link.repeatRun = true)) &&
    (meets (st (linkUp 0 fun l => { l with rxNext := 5 })) (.adrReceived 0 7 (adrOf 0x60 2 64 false false)) fun s _ =>
      decide (s.dev.fld BB_LINK_STAT.STATE 0 = 3 ∧ 7 % 128 ≠ (s.dev.port 0).link.rxNext ∧ (s.dev.port 0).link.repeatRun = false ∧ 64 < ((s.dev.port
        0).link.rxNext + 128 - 7 % 128) % 128)) &&
    (meets (st (linkUp 0 fun l => { l with rxNext := 5 })) (.datReceived 0 7 ⟨1, 1, true, false, 0, [1]⟩) fun s _ =>
      decide (s.dev.fld BB_LINK_STAT.STATE 0 = 3 ∧ 7 % 128 ≠ (s.dev.port 0).link.rxNext ∧ (s.dev.port 0).link.repeatRun = false ∧ 64 < ((s.dev.port
        0).link.rxNext + 128 - 7 % 128) % 128)) &&
    (meets (st (linkUp 0 fun l => { l with rxNext := 5 })) (.lckReceived 0 7 (adrOf 0x60 2 64 false false)) fun s _ =>
      decide (s.dev.fld BB_LINK_STAT.STATE 0 = 3 ∧ 7 % 128 ≠ (s.dev.port 0).link.rxNext ∧ (s.dev.port 0).link.repeatRun = false ∧ 64 < ((s.dev.port
        0).link.rxNext + 128 - 7 % 128) % 128)) &&
    (meets (st (linkUp 0 fun l => { l with rxNext := 5 })) (.ulkReceived 0 7 ⟨0, 1⟩) fun s _ =>
      decide (s.dev.fld BB_LINK_STAT.STATE 0 = 3 ∧ 7 % 128 ≠ (s.dev.port 0).link.rxNext ∧ (s.dev.port 0).link.repeatRun = false ∧ 64 < ((s.dev.port
        0).link.rxNext + 128 - 7 % 128) % 128)) &&
    (meets (st (linkUp 0 fun l => { l with rxNext := 5 })) (.ackReceived 0 7 ⟨1, 1⟩) fun s _ =>
      decide (s.dev.fld BB_LINK_STAT.STATE 0 = 3 ∧ 7 % 128 ≠ (s.dev.port 0).link.rxNext ∧ (s.dev.port 0).link.repeatRun = false ∧ 64 < ((s.dev.port
        0).link.rxNext + 128 - 7 % 128) % 128)) &&
    (meets (st (linkUp 0 fun l => { l with rxNext := 5 })) (.berrReceived 0 7 ⟨1, 1⟩ 2) fun s _ =>
      decide (s.dev.fld BB_LINK_STAT.STATE 0 = 3 ∧ 7 % 128 ≠ (s.dev.port 0).link.rxNext ∧ (s.dev.port 0).link.repeatRun = false ∧ 64 < ((s.dev.port
        0).link.rxNext + 128 - 7 % 128) % 128)) &&
    (meets (st (linkUp 0 fun l => { l with rxNext := 5 })) (.rtyReceived 0 7 ⟨1, 1⟩ 0 0) fun s _ =>
      decide (s.dev.fld BB_LINK_STAT.STATE 0 = 3 ∧ 7 % 128 ≠ (s.dev.port 0).link.rxNext ∧ (s.dev.port 0).link.repeatRun = false ∧ 64 < ((s.dev.port
        0).link.rxNext + 128 - 7 % 128) % 128)) &&
    (meets (st (linkUp 0 fun l => { l with rxNext := 5 })) (.unknownTypeDiscard 0 ⟨7, 0x40⟩) fun s _ =>
      decide (s.dev.fld BB_LINK_STAT.STATE 0 = 3 ∧ 7 % 128 ≠ (s.dev.port 0).link.rxNext ∧ (s.dev.port 0).link.repeatRun = false ∧ 64 < ((s.dev.port
        0).link.rxNext + 128 - 7 % 128) % 128)) &&
    (meets (st (linkUp 0 fun l => { l with rxNext := 5 })) (.irqReceived 0 7 true false 3 9) fun s _ =>
      decide (s.dev.fld BB_LINK_STAT.STATE 0 = 3 ∧ 7 % 128 ≠ (s.dev.port 0).link.rxNext ∧ (s.dev.port 0).link.repeatRun = false ∧ 64 < ((s.dev.port
        0).link.rxNext + 128 - 7 % 128) % 128)) &&
    (meets (st (linkUp 0 fun l => { l with rxNext := 5 })) (.iakReceived 0 7 3 9) fun s _ =>
      decide (s.dev.fld BB_LINK_STAT.STATE 0 = 3 ∧ 7 % 128 ≠ (s.dev.port 0).link.rxNext ∧ (s.dev.port 0).link.repeatRun = false ∧ 64 < ((s.dev.port
        0).link.rxNext + 128 - 7 % 128) % 128))) = true := by
  decide +kernel

theorem witness_BusInitiator :
    ((meets (st (initr (crs true))) (.ackReceived 0 0 ⟨1, 1⟩) fun s _ =>
      decide (s.dev.listOf 0 = 0 ∧ (s.dev.port 0).works = [wk (crs true)] ∧ (wk (crs true)).id = (txn (crs true)).work ∧ (wk (crs true)).rtys = 0 ∧
        (wk (crs true)).lock = none ∧ (s.dev.port 0).outOpen = some (txn (crs true)) ∧ (s.dev.port 0).early = none ∧ (txn (crs true)).drain = false ∧
        s.dev.Runs 0 ∧ s.dev.fld BB_LINK_STAT.STATE 0 = 3 ∧ (s.dev.fld BB_LINK_STAT.STATE 0 = 3 ∧ (s.dev.port 0).link.rxNext = 0) ∧ (txn (crs
        true)).course.write = true ∧ (wk (crs true)).courses = [(txn (crs true)).course] ∧ (txn (crs true)).poison = false)) &&
    (meets (st (initr (crs true))) (.berrReceived 0 0 ⟨1, 1⟩ 3) fun s _ =>
      decide (s.dev.listOf 0 = 0 ∧ (s.dev.port 0).works = [wk (crs true)] ∧ (wk (crs true)).id = (txn (crs true)).work ∧ (wk (crs true)).rtys = 0 ∧
        (wk (crs true)).lock = none ∧ (s.dev.port 0).outOpen = some (txn (crs true)) ∧ (s.dev.port 0).early = none ∧ (txn (crs true)).drain = false ∧
        s.dev.Runs 0 ∧ s.dev.fld BB_LINK_STAT.STATE 0 = 3 ∧ (s.dev.fld BB_LINK_STAT.STATE 0 = 3 ∧ (s.dev.port 0).link.rxNext = 0))) &&
    (meets (st (initr (crs true))) (.rtyReceived 0 0 ⟨1, 1⟩ 1 7) fun s _ =>
      decide (s.dev.listOf 0 = 0 ∧ (s.dev.port 0).works = [wk (crs true)] ∧ (wk (crs true)).id = (txn (crs true)).work ∧ (wk (crs true)).rtys = 0 ∧
        (wk (crs true)).lock = none ∧ (s.dev.port 0).outOpen = some (txn (crs true)) ∧ (s.dev.port 0).early = none ∧ (txn (crs true)).drain = false ∧
        s.dev.Runs 0 ∧ s.dev.fld BB_LINK_STAT.STATE 0 = 3 ∧ (s.dev.fld BB_LINK_STAT.STATE 0 = 3 ∧ (s.dev.port 0).link.rxNext = 0) ∧ (wk (crs
        true)).retries < s.dev.fld BB_RETRY_CTL.MAX 0)) &&
    (meets (st (initr crsBlk)) (.datReceived 0 0 ⟨1, 1, false, false, 0, List.replicate 16 7⟩) fun s _ =>
      decide (s.dev.listOf 0 = 0 ∧ (s.dev.port 0).works = [wk crsBlk] ∧ (wk crsBlk).id = (txn crsBlk).work ∧ (wk crsBlk).rtys = 0 ∧ (wk
        crsBlk).lock = none ∧ (s.dev.port 0).outOpen = some (txn crsBlk) ∧ (s.dev.port 0).early = none ∧ (txn crsBlk).drain = false ∧ s.dev.Runs 0 ∧
        s.dev.fld BB_LINK_STAT.STATE 0 = 3 ∧ (s.dev.fld BB_LINK_STAT.STATE 0 = 3 ∧ (s.dev.port 0).link.rxNext = 0))) &&
    (meets (st (initr (crs true))) (.unknownTypeDiscard 0 ⟨0, 0x40⟩) fun s _ =>
      decide ((s.dev.fld BB_LINK_STAT.STATE 0 = 3 ∧ (s.dev.port 0).link.rxNext = 0))) &&
    (meets (st (initr (crs true))) (.busTimerExpiry 0 true) fun s _ =>
      decide (s.dev.listOf 0 = 0 ∧ (s.dev.port 0).works = [wk (crs true)] ∧ (wk (crs true)).id = (txn (crs true)).work ∧ (wk (crs true)).rtys = 0 ∧
        (wk (crs true)).lock = none ∧ (s.dev.port 0).outOpen = some (txn (crs true)) ∧ (s.dev.port 0).early = none ∧ (txn (crs true)).drain = false ∧
        s.dev.Runs 0 ∧ s.dev.fld BB_LINK_STAT.STATE 0 = 3)) &&
    (meets (st fun d => (initr (crs true) d).modPort 0 fun o => { o with quiet := some 4 }) (.quietPeriodEnd 0) fun s _ =>
      decide (s.dev.Runs (dieOf 0))) &&
    (meets (st fun d => (initr (crs true) d).modPort 0 fun o => { o with works := [{ wk (crs true) with waits := true }] }) (.retryWaitEnd 0) fun s
      _ =>
      decide (s.dev.listOf 0 = 0 ∧ (s.dev.port 0).works = [{ wk (crs true) with waits := true }] ∧ (wk (crs true)).id = (txn (crs true)).work ∧ (wk
        (crs true)).rtys = 0 ∧ (wk (crs true)).lock = none ∧ (s.dev.port 0).outOpen = some (txn (crs true)) ∧ (s.dev.port 0).early = none ∧ (txn (crs
        true)).drain = false ∧ s.dev.Runs 0 ∧ s.dev.fld BB_LINK_STAT.STATE 0 = 3)) &&
    (meets (st fun d => initr (crs true) (d.setFld BB_RETRY_CTL.START 0 0 3)) (.retryStartDecay 0) fun s _ =>
      decide (s.dev.Runs (dieOf 0))) &&
    (meets (st (up 0)) (.ackReceived 0 0 ⟨1, 1⟩) fun s _ =>
      decide ((s.dev.fld BB_LINK_STAT.STATE 0 = 3 ∧ (s.dev.port 0).link.rxNext = 0))) &&
    (meets (st (up 0)) (.berrReceived 0 0 ⟨1, 1⟩ 2) fun s _ =>
      decide ((s.dev.fld BB_LINK_STAT.STATE 0 = 3 ∧ (s.dev.port 0).link.rxNext = 0))) &&
    (meets (st (initr (crs false))) (.rtyReceived 0 0 ⟨1, 1⟩ 3 0) fun s _ =>
      decide ((s.dev.fld BB_LINK_STAT.STATE 0 = 3 ∧ (s.dev.port 0).link.rxNext = 0))) &&
    (meets (st (initr (crs true))) (.ackReceived 0 0 ⟨0, 1⟩) fun s _ =>
      decide ((s.dev.fld BB_LINK_STAT.STATE 0 = 3 ∧ (s.dev.port 0).link.rxNext = 0))) &&
    (meets (st (up 0)) (.busTimerExpiry 0 true) fun s _ =>
      decide (s.dev.Runs (dieOf 0) ∧ s.dev.fld BB_LINK_STAT.STATE 0 = 3)) &&
    (meets (st fun d => (initr (crs true) d).setFld BB_LINK_STAT.STATE 0 0 4) (.busTimerExpiry 0 true) fun s _ =>
      decide (s.dev.Runs (dieOf 0) ∧ s.dev.fld BB_LINK_STAT.STATE 0 ≠ 3)) &&
    (meets (st (up 0)) (.retryWaitEnd 0) fun s _ =>
      decide (s.dev.Runs (dieOf 0)))) = true := by
  decide +kernel

theorem witness_BusTarget :
    ((meets (st target) (.adrReceived 0 0 (adrOf 0xE0 2 4 false false)) fun s _ =>
      decide ((s.dev.port 0).inEarly = none ∧ s.dev.fld BB_LINK_STAT.STATE 0 = 3 ∧ (s.dev.port 0).link.rxNext = 0 ∧ (s.dev.port 0).link.waiting =
        [] ∧ (s.dev.port 0).link.replay.length < 63 ∧ (s.dev.port 0).inOpen = none ∧ ([0, 1, 2, 4].all fun k => !(s.dev.protCheck
        { u := 1, kind := .bb, addr := (adrOf 0xE0 2 4 false false).addr, len := adrLen (adrOf 0xE0 2 4 false false), space := amSpace (adrOf 0xE0 2 4 false false).am, port := 0, sup := amSup (adrOf 0xE0 2 4 false false).am, access := k }).1.denied)
        = true ∧ s.dev.portServed 0 = true ∧ amSpace (adrOf 0xE0 2 4 false false).am = 3)) &&
    (meets (st target) (.adrReceived 0 0 (adrOf 0x60 2 64 false false)) fun s _ =>
      decide ((s.dev.port 0).inEarly = none ∧ s.dev.fld BB_LINK_STAT.STATE 0 = 3 ∧ (s.dev.port 0).link.rxNext = 0 ∧ (s.dev.port 0).link.waiting =
        [] ∧ (s.dev.port 0).link.replay.length < 63 ∧ (s.dev.port 0).inOpen = none ∧ ([0, 1, 2, 4].all fun k => !(s.dev.protCheck
        { u := 1, kind := .bb, addr := (adrOf 0x60 2 64 false false).addr, len := adrLen (adrOf 0x60 2 64 false false), space := amSpace (adrOf 0x60 2 64 false false).am, port := 0, sup := amSup (adrOf 0x60 2 64 false false).am, access := k }).1.denied)
        = true ∧ s.dev.portServed 0 = true ∧ amSpace (adrOf 0x60 2 64 false false).am = 1 ∧ s.dev.matchIn 0 1 64 4 = none)) &&
    (meets (st fun d => (winIn 3 (target d)).setFld BB_TXN_CTRL.LOCK_EN 0 0 1) (.lckReceived 0 0 (adrOf 0x60 2 64 false false)) fun s _ =>
      decide ((s.dev.port 0).inEarly = none ∧ s.dev.fld BB_LINK_STAT.STATE 0 = 3 ∧ (s.dev.port 0).link.rxNext = 0 ∧ (s.dev.port 0).link.waiting =
        [] ∧ (s.dev.port 0).link.replay.length < 63 ∧ (s.dev.port 0).inOpen = none ∧ ([0, 1, 2, 4].all fun k => !(s.dev.protCheck
        { u := 1, kind := .bb, addr := (adrOf 0x60 2 64 false false).addr, len := adrLen (adrOf 0x60 2 64 false false), space := amSpace (adrOf 0x60 2 64 false false).am, port := 0, sup := amSup (adrOf 0x60 2 64 false false).am, access := k }).1.denied)
        = true ∧ s.dev.portServed 0 = true ∧ s.dev.flag BB_TXN_CTRL.LOCK_EN 0 = true ∧ s.dev.matchIn 0 1 64 4 = some (s.dev.window 0 true 3) ∧
        (s.dev.window 0 true 3).lock = some 4 ∧ s.dev.mired true 3 = false ∧ s.dev.sem 4 = {} ∧ (s.dev.port 0).inLock = none)) &&
    (meets (st fun d => ((target d).modPort 0 fun o => { o with inLock := some 4 }).modSem 4 fun m => { m with holder := some (.master 0) })
      (.ulkReceived 0 0 ⟨0, 1⟩) fun s _ =>
      decide ((s.dev.port 0).inEarly = none ∧ s.dev.fld BB_LINK_STAT.STATE 0 = 3 ∧ (s.dev.port 0).link.rxNext = 0 ∧ (s.dev.port 0).link.waiting =
        [] ∧ (s.dev.port 0).link.replay.length < 63 ∧ (s.dev.port 0).inOpen = none ∧ (s.dev.port 0).inLock = some 4 ∧ s.dev.sem 4 =
        { holder := some (.master 0) } ∧ (s.dev.livePorts.all fun q => (s.dev.port q).works.isEmpty) = true)) &&
    (meets (st fun d => (target d).modPort 0 fun o => { o with inOpen := some (inTx (adrOf 0x60 3 64 true true) .cfg) }) (.datReceived 0 0 ⟨0, 1,
      false, false, 0, List.replicate 8 7⟩) fun s _ =>
      decide ((s.dev.port 0).inEarly = none ∧ (s.dev.port 0).inOpen = some (inTx (adrOf 0x60 3 64 true true) .cfg) ∧ s.dev.fld BB_LINK_STAT.STATE 0
        = 3 ∧ (s.dev.port 0).link.rxNext = 0 ∧ 8 ≤ adrLen (adrOf 0x60 3 64 true true))) &&
    (meets (st fun d => (target d).modPort 0 fun o => { o with inOpen := some (inTx (adrOf 0x60 3 64 false false) .cfg) }) (.tgtLimitExpiry 0) fun
      s _ =>
      decide ((s.dev.port 0).inEarly = none ∧ (s.dev.port 0).inOpen = some (inTx (adrOf 0x60 3 64 false false) .cfg) ∧ s.dev.Runs 0 ∧ s.dev.fld
        BB_LINK_STAT.STATE 0 = 3 ∧ (s.dev.port 0).link.waiting = [] ∧ (s.dev.port 0).link.replay.length < 63)) &&
    (meets (st fun d => (target d).modPort 0 fun o => { o with inOpen := some (inTx (adrOf 0x60 3 64 false false) .cfg) }) (.busTimerExpiry 0
      false) fun s _ =>
      decide ((s.dev.port 0).inEarly = none ∧ (s.dev.port 0).inOpen = some (inTx (adrOf 0x60 3 64 false false) .cfg) ∧ s.dev.Runs 0 ∧ s.dev.fld
        BB_LINK_STAT.STATE 0 = 3 ∧ (s.dev.port 0).link.waiting = [] ∧ (s.dev.port 0).link.replay.length < 63)) &&
    (meets (st target) (.adrReceived 0 0 { adrOf 0x60 2 64 true false with beatsM1 := 3 }) fun s _ =>
      decide ((s.dev.fld BB_LINK_STAT.STATE 0 = 3 ∧ (s.dev.port 0).link.rxNext = 0))) &&
    (meets (st target) (.lckReceived 0 0 (adrOf 0x60 2 64 false false)) fun s _ =>
      decide ((s.dev.fld BB_LINK_STAT.STATE 0 = 3 ∧ (s.dev.port 0).link.rxNext = 0))) &&
    (meets (st target) (.ulkReceived 0 0 ⟨0, 1⟩) fun s _ =>
      decide ((s.dev.fld BB_LINK_STAT.STATE 0 = 3 ∧ (s.dev.port 0).link.rxNext = 0))) &&
    (meets (st target) (.ulkReceived 0 0 ⟨1, 1⟩) fun s _ =>
      decide ((s.dev.fld BB_LINK_STAT.STATE 0 = 3 ∧ (s.dev.port 0).link.rxNext = 0))) &&
    (meets (st target) (.adrReceived 0 0 { adrOf 0x60 2 64 false false with role := 1 }) fun s _ =>
      decide ((s.dev.fld BB_LINK_STAT.STATE 0 = 3 ∧ (s.dev.port 0).link.rxNext = 0) ∧ ({ adrOf 0x60 2 64 false false with role := 1 } :
        AdrBody).role = 1)) &&
    (meets (st target) (.datReceived 0 0 ⟨0, 1, true, false, 0, [1]⟩) fun s _ =>
      decide ((s.dev.fld BB_LINK_STAT.STATE 0 = 3 ∧ (s.dev.port 0).link.rxNext = 0))) &&
    (meets (st target) (.busTimerExpiry 0 false) fun s _ =>
      decide (s.dev.Runs 0 ∧ s.dev.fld BB_LINK_STAT.STATE 0 = 3)) &&
    (meets (st fun d => d.setFld BB_LINK_STAT.STATE 0 0 4) (.busTimerExpiry 0 false) fun s _ =>
      decide (s.dev.Runs 0 ∧ s.dev.fld BB_LINK_STAT.STATE 0 ≠ 3)) &&
    (meets (st target) (.tgtLimitExpiry 0) fun s _ =>
      decide (s.dev.Runs 0 ∧ (s.dev.port 0).inOpen = none))) = true := by
  decide +kernel

theorem witness_BusInterrupts :
    ((meets (st (up 0)) (.irqReceived 0 0 true true 3 9) fun s _ =>
      decide (s.dev.fld BB_LINK_STAT.STATE 0 = 3 ∧ (s.dev.port 0).link.rxNext = 0 ∧ (s.dev.reg .BB_IRQ_RX 0).getLsbD 3 = false ∧ (s.dev.reg
        .IRQ_BBIN_CTL (dieOf 0) (0 * 8 + 3)).getLsbD 31 = false)) &&
    (meets (st fun d => ((up 0 d).setReg .BB_IRQ_RX 0 0 0x408#32)) (.irqReceived 0 0 false true 3 9) fun s _ =>
      decide (s.dev.fld BB_LINK_STAT.STATE 0 = 3 ∧ (s.dev.port 0).link.rxNext = 0 ∧ (s.dev.reg .BB_IRQ_RX 0).getLsbD 3 = true)) &&
    (meets (st (up 0)) (.iakReceived 0 0 3 9) fun s _ =>
      decide (s.dev.fld BB_LINK_STAT.STATE 0 = 3 ∧ (s.dev.port 0).link.rxNext = 0 ∧ (s.dev.port 0).asserted = [])) &&
    (meets (st fun d => ((up 0 d).setFld BB_IRQ_TX.ASSERTED 0 0 8).modPort 0 fun o => { o with asserted := [(3, 9, 2, true)] }) (.iakReceived 0 0 3
      9) fun s _ =>
      decide (s.dev.fld BB_LINK_STAT.STATE 0 = 3 ∧ (s.dev.port 0).link.rxNext = 0 ∧ (s.dev.port 0).asserted = [(3, 9, 2, true)] ∧ s.dev.irqPend =
        [])) &&
    (meets (st (up 0)) (.irqReceived 0 0 true false 3 9) fun s _ =>
      decide (s.dev.fld BB_LINK_STAT.STATE 0 = 3 ∧ (s.dev.port 0).link.rxNext = 0)) &&
    (meets (st (up 0)) (.iakReceived 0 0 3 9) fun s _ =>
      decide (s.dev.fld BB_LINK_STAT.STATE 0 = 3 ∧ (s.dev.port 0).link.rxNext = 0)) &&
    (meets (st fun d => (up 0 d).setReg .BB_IRQ_RX 0 0 8#32) (.iakSend mc 0 3) fun s _ =>
      decide (s.dev.fld BB_LINK_STAT.STATE 0 = 3 ∧ (s.dev.port 0).link.rxNext = 0 ∧ (s.dev.port 0).link.waiting = [] ∧ s.dev.lets mc ⟨.BB_IRQ_IAK,
        0, 0⟩ = true ∧ (s.dev.reg .BB_IRQ_RX 0).getLsbD 3 = true ∧ (s.dev.reg .BB_IRQ_RX 0).getLsbD (7 + 3) = false ∧ (s.dev.port 0).iakSent.testBit 3
        = false))) = true := by
  decide +kernel

theorem witness_RegisterWriteStores :
    ((meets (st id) (.registerWrite mc (⟨.MON_SAMPLE, 0, 3⟩ : Loc).offset 4 15 0xA5A5A5A5 0) fun s _ =>
      decide ((⟨.MON_SAMPLE, 0, 3⟩ : Loc).fits s.dev.n = true ∧ s.dev.lets mc (⟨.MON_SAMPLE, 0, 3⟩ : Loc) = true ∧ lockOf s.locks (⟨.MON_SAMPLE, 0,
        3⟩ : Loc) = false ∧ (⟨.MON_SAMPLE, 0, 3⟩ : Loc).reg ∈ storing)) &&
    (meets (st id) (.registerWrite mc (⟨.MON_THRESH, 0, 5⟩ : Loc).offset 4 15 0xA5A5A5A5 0) fun s _ =>
      decide ((⟨.MON_THRESH, 0, 5⟩ : Loc).fits s.dev.n = true ∧ s.dev.lets mc (⟨.MON_THRESH, 0, 5⟩ : Loc) = true ∧ lockOf s.locks (⟨.MON_THRESH, 0,
        5⟩ : Loc) = false ∧ (⟨.MON_THRESH, 0, 5⟩ : Loc).reg ∈ storing)) &&
    (meets (st id) (.registerWrite mc (⟨.CLK_CTL, 1, 0⟩ : Loc).offset 4 15 0xA5A5A5A5 0) fun s _ =>
      decide ((⟨.CLK_CTL, 1, 0⟩ : Loc).fits s.dev.n = true ∧ s.dev.lets mc (⟨.CLK_CTL, 1, 0⟩ : Loc) = true ∧ lockOf s.locks (⟨.CLK_CTL, 1, 0⟩ :
        Loc) = false ∧ (⟨.CLK_CTL, 1, 0⟩ : Loc).reg ∈ storing)) &&
    (meets (st id) (.registerWrite mc (⟨.CLK_WAKE, 1, 0⟩ : Loc).offset 4 15 0xA5A5A5A5 0) fun s _ =>
      decide ((⟨.CLK_WAKE, 1, 0⟩ : Loc).fits s.dev.n = true ∧ s.dev.lets mc (⟨.CLK_WAKE, 1, 0⟩ : Loc) = true ∧ lockOf s.locks (⟨.CLK_WAKE, 1, 0⟩ :
        Loc) = false ∧ (⟨.CLK_WAKE, 1, 0⟩ : Loc).reg ∈ storing)) &&
    (meets (st id) (.registerWrite mc (⟨.PWR_TEMP, 1, 0⟩ : Loc).offset 4 15 0xA5A5A5A5 0) fun s _ =>
      decide ((⟨.PWR_TEMP, 1, 0⟩ : Loc).fits s.dev.n = true ∧ s.dev.lets mc (⟨.PWR_TEMP, 1, 0⟩ : Loc) = true ∧ lockOf s.locks (⟨.PWR_TEMP, 1, 0⟩ :
        Loc) = false ∧ (⟨.PWR_TEMP, 1, 0⟩ : Loc).reg ∈ storing)) &&
    (meets (st id) (.registerWrite mc (⟨.PX_CTRL, 1, 0⟩ : Loc).offset 4 15 0xA5A5A5A5 0) fun s _ =>
      decide ((⟨.PX_CTRL, 1, 0⟩ : Loc).fits s.dev.n = true ∧ s.dev.lets mc (⟨.PX_CTRL, 1, 0⟩ : Loc) = true ∧ lockOf s.locks (⟨.PX_CTRL, 1, 0⟩ :
        Loc) = false ∧ (⟨.PX_CTRL, 1, 0⟩ : Loc).reg ∈ storing)) &&
    (meets (st id) (.registerWrite mc (⟨.PX_L0P, 1, 0⟩ : Loc).offset 4 15 0xA5A5A5A5 0) fun s _ =>
      decide ((⟨.PX_L0P, 1, 0⟩ : Loc).fits s.dev.n = true ∧ s.dev.lets mc (⟨.PX_L0P, 1, 0⟩ : Loc) = true ∧ lockOf s.locks (⟨.PX_L0P, 1, 0⟩ : Loc) =
        false ∧ (⟨.PX_L0P, 1, 0⟩ : Loc).reg ∈ storing)) &&
    (meets (st id) (.registerWrite mc (⟨.TIL_ARB, 3, 0⟩ : Loc).offset 4 15 0xA5A5A5A5 0) fun s _ =>
      decide ((⟨.TIL_ARB, 3, 0⟩ : Loc).fits s.dev.n = true ∧ s.dev.lets mc (⟨.TIL_ARB, 3, 0⟩ : Loc) = true ∧ lockOf s.locks (⟨.TIL_ARB, 3, 0⟩ :
        Loc) = false ∧ (⟨.TIL_ARB, 3, 0⟩ : Loc).reg ∈ storing)) &&
    (meets (st id) (.registerWrite mc (⟨.BB_LINK_THRESH, 3, 0⟩ : Loc).offset 4 15 0xA5A5A5A5 0) fun s _ =>
      decide ((⟨.BB_LINK_THRESH, 3, 0⟩ : Loc).fits s.dev.n = true ∧ s.dev.lets mc (⟨.BB_LINK_THRESH, 3, 0⟩ : Loc) = true ∧ lockOf s.locks
        (⟨.BB_LINK_THRESH, 3, 0⟩ : Loc) = false ∧ (⟨.BB_LINK_THRESH, 3, 0⟩ : Loc).reg ∈ storing)) &&
    (meets (st id) (.registerWrite mc (⟨.BB_TXN_CTRL, 3, 0⟩ : Loc).offset 4 15 0xA5A5A5A5 0) fun s _ =>
      decide ((⟨.BB_TXN_CTRL, 3, 0⟩ : Loc).fits s.dev.n = true ∧ s.dev.lets mc (⟨.BB_TXN_CTRL, 3, 0⟩ : Loc) = true ∧ lockOf s.locks (⟨.BB_TXN_CTRL,
        3, 0⟩ : Loc) = false ∧ (⟨.BB_TXN_CTRL, 3, 0⟩ : Loc).reg ∈ storing)) &&
    (meets (st id) (.registerWrite mc (⟨.BB_IRQ_TX, 3, 0⟩ : Loc).offset 4 15 0xA5A5A5A5 0) fun s _ =>
      decide ((⟨.BB_IRQ_TX, 3, 0⟩ : Loc).fits s.dev.n = true ∧ s.dev.lets mc (⟨.BB_IRQ_TX, 3, 0⟩ : Loc) = true ∧ lockOf s.locks (⟨.BB_IRQ_TX, 3, 0⟩
        : Loc) = false ∧ (⟨.BB_IRQ_TX, 3, 0⟩ : Loc).reg ∈ storing)) &&
    (meets (st id) (.registerWrite mc (⟨.BB_RETRY_CTL, 3, 0⟩ : Loc).offset 4 15 0xA5A5A5A5 0) fun s _ =>
      decide ((⟨.BB_RETRY_CTL, 3, 0⟩ : Loc).fits s.dev.n = true ∧ s.dev.lets mc (⟨.BB_RETRY_CTL, 3, 0⟩ : Loc) = true ∧ lockOf s.locks
        (⟨.BB_RETRY_CTL, 3, 0⟩ : Loc) = false ∧ (⟨.BB_RETRY_CTL, 3, 0⟩ : Loc).reg ∈ storing)) &&
    (meets (st (mapped 0)) (.registerWrite px (⟨.BB_TXN_CTRL, 3, 0⟩ : Loc).offset 4 15 0xA5A5A5A5 0) fun s _ =>
      decide ((⟨.BB_TXN_CTRL, 3, 0⟩ : Loc).fits s.dev.n = true ∧ s.dev.lets px (⟨.BB_TXN_CTRL, 3, 0⟩ : Loc) = true ∧ lockOf s.locks (⟨.BB_TXN_CTRL,
        3, 0⟩ : Loc) = false ∧ (⟨.BB_TXN_CTRL, 3, 0⟩ : Loc).reg ∈ storing))) = true := by
  decide +kernel

theorem witness_RegisterWriteRefused :
    ((meets ⟨[], ⟨#v[false,false,false,false,false,false,false,false],#v[true,false,false,false,false,false,false,false],Locks.clear.tile⟩, base⟩
      (.registerWrite mc (⟨.CLK_CTL, 0, 0⟩ : Loc).offset 4 15 0xA5A5A5A5 0) fun s _ =>
      decide ((⟨.CLK_CTL, 0, 0⟩ : Loc).fits s.dev.n = true ∧ s.dev.lets mc (⟨.CLK_CTL, 0, 0⟩ : Loc) = true ∧ lockOf s.locks (⟨.CLK_CTL, 0, 0⟩ :
        Loc) = true ∧ s.dev.flag DIE_ACC_ERR_INFO.VALID (srcDie mc) = false)) &&
    (meets ⟨[], ⟨#v[true,true,true,true,true,true,true,true],#v[true,true,false,false,false,false,false,false],Locks.clear.tile.set 0 true⟩, base⟩
      (.registerWrite mc (⟨.BB_TXN_CTRL, 0, 0⟩ : Loc).offset 4 15 0xA5A5A5A5 0) fun s _ =>
      decide ((⟨.BB_TXN_CTRL, 0, 0⟩ : Loc).fits s.dev.n = true ∧ s.dev.lets mc (⟨.BB_TXN_CTRL, 0, 0⟩ : Loc) = true ∧ lockOf s.locks (⟨.BB_TXN_CTRL,
        0, 0⟩ : Loc) = true ∧ s.dev.flag DIE_ACC_ERR_INFO.VALID (srcDie mc) = false)) &&
    (meets (st id) (.registerWrite mc (⟨.CLK_CTL, 0, 0⟩ : Loc).offset 12 15 5 0) fun s _ =>
      decide ((⟨.CLK_CTL, 0, 0⟩ : Loc).fits s.dev.n = true ∧ s.dev.grants mc (⟨.CLK_CTL, 0, 0⟩ : Loc).offset 12 1 = true ∧ s.dev.flag
        DIE_ACC_ERR_INFO.VALID (srcDie mc) = false)) &&
    (meets (st id) (.registerWrite mc (⟨.DIE_ACC_ERR_ADDR_HI, 0, 0⟩ : Loc).offset 8 255 5 0) fun s _ =>
      decide ((⟨.DIE_ACC_ERR_ADDR_HI, 0, 0⟩ : Loc).fits s.dev.n = true ∧ s.dev.grants mc (⟨.DIE_ACC_ERR_ADDR_HI, 0, 0⟩ : Loc).offset 8 1 = true ∧
        s.dev.flag DIE_ACC_ERR_INFO.VALID (srcDie mc) = false ∧ (⟨.DIE_ACC_ERR_ADDR_HI, 0, 0⟩ : Loc).offset % 8 = 4)) &&
    (meets (st id) (.registerWrite mc (⟨.CLK_CTL, 0, 0⟩ : Loc).offset 2 3 5 0) fun s _ =>
      decide ((⟨.CLK_CTL, 0, 0⟩ : Loc).fits s.dev.n = true ∧ s.dev.grants mc (⟨.CLK_CTL, 0, 0⟩ : Loc).offset 2 1 = true ∧ s.dev.flag
        DIE_ACC_ERR_INFO.VALID (srcDie mc) = false)) &&
    (meets (st id) (.registerWrite mc (⟨.CLK_CTL, 0, 0⟩ : Loc).offset 4 7 5 0) fun s _ =>
      decide ((⟨.CLK_CTL, 0, 0⟩ : Loc).fits s.dev.n = true ∧ s.dev.grants mc (⟨.CLK_CTL, 0, 0⟩ : Loc).offset 4 1 = true ∧ s.dev.flag
        DIE_ACC_ERR_INFO.VALID (srcDie mc) = false))) = true := by
  decide +kernel

theorem witness_LocksSet :
    ((meets (st id) (.pkgLockSet mc) fun s _ =>
      decide (s.dev.lets mc ⟨.PKG_LOCK, 0, 0⟩ = true ∧ lockOf s.locks ⟨.PKG_LOCK, 0, 0⟩ = false ∧ s.dev.notes = [] ∧ ((((s.dev.written mc
        ⟨.PKG_LOCK, 0, 0⟩).stored ⟨.PKG_LOCK, 0, 0⟩ 1 1).note (.lock (2 ^ s.dev.n - 1) none none)).answered mc).nextNote = none ∧ ((((s.dev.written mc
        ⟨.PKG_LOCK, 0, 0⟩).stored ⟨.PKG_LOCK, 0, 0⟩ 1 1).note (.lock (2 ^ s.dev.n - 1) none none)).answered mc).pump (s.locks.after [.lock (2 ^
        s.dev.n - 1) none none]) = ((((s.dev.written mc ⟨.PKG_LOCK, 0, 0⟩).stored ⟨.PKG_LOCK, 0, 0⟩ 1 1).note (.lock (2 ^ s.dev.n - 1) none
        none)).answered mc) ∧ ((((s.dev.written mc ⟨.PKG_LOCK, 0, 0⟩).stored ⟨.PKG_LOCK, 0, 0⟩ 1 1).note (.lock (2 ^ s.dev.n - 1) none none)).answered
        mc).syncQueues = ((((s.dev.written mc ⟨.PKG_LOCK, 0, 0⟩).stored ⟨.PKG_LOCK, 0, 0⟩ 1 1).note (.lock (2 ^ s.dev.n - 1) none none)).answered
        mc))) &&
    (meets (st id) (.dieLockSet mc 1) fun s _ =>
      decide (s.dev.lets mc ⟨.DIE_LOCK, 1, 0⟩ = true ∧ lockOf s.locks ⟨.DIE_LOCK, 1, 0⟩ = false ∧ s.dev.notes = [] ∧ ((((s.dev.written mc
        ⟨.DIE_LOCK, 1, 0⟩).stored ⟨.DIE_LOCK, 1, 0⟩ 1 1).note (.lock 0 (some 1) none)).answered mc).nextNote = none ∧ ((((s.dev.written mc ⟨.DIE_LOCK,
        1, 0⟩).stored ⟨.DIE_LOCK, 1, 0⟩ 1 1).note (.lock 0 (some 1) none)).answered mc).pump (s.locks.after [.lock 0 (some 1) none]) =
        ((((s.dev.written mc ⟨.DIE_LOCK, 1, 0⟩).stored ⟨.DIE_LOCK, 1, 0⟩ 1 1).note (.lock 0 (some 1) none)).answered mc) ∧ ((((s.dev.written mc
        ⟨.DIE_LOCK, 1, 0⟩).stored ⟨.DIE_LOCK, 1, 0⟩ 1 1).note (.lock 0 (some 1) none)).answered mc).syncQueues = ((((s.dev.written mc ⟨.DIE_LOCK, 1,
        0⟩).stored ⟨.DIE_LOCK, 1, 0⟩ 1 1).note (.lock 0 (some 1) none)).answered mc))) &&
    (meets (st id) (.tilLockSet mc 9) fun s _ =>
      decide (s.dev.lets mc ⟨.TIL_LOCK, 9, 0⟩ = true ∧ lockOf s.locks ⟨.TIL_LOCK, 9, 0⟩ = false ∧ s.dev.notes = [] ∧ ((((s.dev.written mc
        ⟨.TIL_LOCK, 9, 0⟩).stored ⟨.TIL_LOCK, 9, 0⟩ 1 1).note (.lock 0 none (some 9))).answered mc).nextNote = none ∧ ((((s.dev.written mc ⟨.TIL_LOCK,
        9, 0⟩).stored ⟨.TIL_LOCK, 9, 0⟩ 1 1).note (.lock 0 none (some 9))).answered mc).pump (s.locks.after [.lock 0 none (some 9)]) =
        ((((s.dev.written mc ⟨.TIL_LOCK, 9, 0⟩).stored ⟨.TIL_LOCK, 9, 0⟩ 1 1).note (.lock 0 none (some 9))).answered mc) ∧ ((((s.dev.written mc
        ⟨.TIL_LOCK, 9, 0⟩).stored ⟨.TIL_LOCK, 9, 0⟩ 1 1).note (.lock 0 none (some 9))).answered mc).syncQueues = ((((s.dev.written mc ⟨.TIL_LOCK, 9,
        0⟩).stored ⟨.TIL_LOCK, 9, 0⟩ 1 1).note (.lock 0 none (some 9))).answered mc)))) = true := by
  decide +kernel

theorem witness_RegisterReads :
    ((meets (st id) (.registerReadReject mc (⟨.BB_TXN_CTRL, 3, 0⟩ : Loc).offset 4) fun s _ =>
      decide (s.dev.cfgLog = [] ∧ s.dev.heldCfg = [] ∧ (s.dev.mail mc.path).busy = false ∧ (⟨.BB_TXN_CTRL, 3, 0⟩ : Loc).fits s.dev.n = true ∧
        (⟨.BB_TXN_CTRL, 3, 0⟩ : Loc).reg ∈ storing ∧ s.dev.grants mc (⟨.BB_TXN_CTRL, 3, 0⟩ : Loc).offset 4 0 = true)) &&
    (meets (st (mapped 0)) (.registerReadReject px (⟨.BB_TXN_CTRL, 3, 0⟩ : Loc).offset 4) fun s _ =>
      decide (s.dev.cfgLog = [] ∧ s.dev.heldCfg = [] ∧ (s.dev.mail px.path).busy = false ∧ (⟨.BB_TXN_CTRL, 3, 0⟩ : Loc).fits s.dev.n = true ∧
        (⟨.BB_TXN_CTRL, 3, 0⟩ : Loc).reg ∈ storing ∧ s.dev.grants px (⟨.BB_TXN_CTRL, 3, 0⟩ : Loc).offset 4 0 = true)) &&
    (meets (st (mapped 0)) (.registerReadReject px (2 ^ 27 + 4096) 16) fun s _ =>
      decide (px.path < 8 ∧ s.dev.waitsCredit px.path false = false ∧ s.dev.takesBar px.path 1 = true ∧ (s.dev.protCheck (s.dev.srcReq px .doorbell
        4096 16 0)).1.denied = false)) &&
    (meets (st id) (.registerReadReject mc 0x7FFFFFC 4) fun s _ =>
      decide (s.dev.cfgLog = [] ∧ s.dev.heldCfg = [] ∧ (s.dev.mail mc.path).busy = false ∧ locate s.dev.n 0x7FFFFFC = none ∧ s.dev.grants mc
        0x7FFFFFC 4 0 = true)) &&
    (meets (st id) (.registerReadReject mc 6 4) fun s _ =>
      decide (s.dev.cfgLog = [] ∧ s.dev.heldCfg = [] ∧ (s.dev.mail mc.path).busy = false ∧ s.dev.flag DIE_ACC_ERR_INFO.VALID 0 = false ∧
        s.dev.grants mc 6 4 0 = true)) &&
    (meets (st fun d => d.setReg .PX_EVENT 0 0 0xFFFFFFFF#32) (.rcFieldRead mc (⟨.PX_EVENT, 0, 0⟩ : Loc).offset 4) fun s _ =>
      decide (s.dev.cfgLog = [] ∧ s.dev.heldCfg = [] ∧ (s.dev.mail mc.path).busy = false ∧ (⟨.PX_EVENT, 0, 0⟩ : Loc).fits s.dev.n = true ∧
        s.dev.grants mc (⟨.PX_EVENT, 0, 0⟩ : Loc).offset 4 0 = true)) &&
    (meets (st fun d => d.setReg .BB_LINK_EVENT 3 0 0xFFFFFFFF#32) (.rcFieldRead mc (⟨.BB_LINK_EVENT, 3, 0⟩ : Loc).offset 4) fun s _ =>
      decide (s.dev.cfgLog = [] ∧ s.dev.heldCfg = [] ∧ (s.dev.mail mc.path).busy = false ∧ (⟨.BB_LINK_EVENT, 3, 0⟩ : Loc).fits s.dev.n = true ∧
        s.dev.grants mc (⟨.BB_LINK_EVENT, 3, 0⟩ : Loc).offset 4 0 = true)) &&
    (meets (st fun d => d.setReg .BB_TXN_EVENT 3 0 0xFFFFFFFF#32) (.rcFieldRead mc (⟨.BB_TXN_EVENT, 3, 0⟩ : Loc).offset 4) fun s _ =>
      decide (s.dev.cfgLog = [] ∧ s.dev.heldCfg = [] ∧ (s.dev.mail mc.path).busy = false ∧ (⟨.BB_TXN_EVENT, 3, 0⟩ : Loc).fits s.dev.n = true ∧
        s.dev.grants mc (⟨.BB_TXN_EVENT, 3, 0⟩ : Loc).offset 4 0 = true)) &&
    (meets (st fun d => d.setReg .CLK_EVENT 1 0 0xFFFFFFFF#32) (.rcFieldRead mc (⟨.CLK_EVENT, 1, 0⟩ : Loc).offset 4) fun s _ =>
      decide (s.dev.cfgLog = [] ∧ s.dev.heldCfg = [] ∧ (s.dev.mail mc.path).busy = false ∧ (⟨.CLK_EVENT, 1, 0⟩ : Loc).fits s.dev.n = true ∧
        s.dev.grants mc (⟨.CLK_EVENT, 1, 0⟩ : Loc).offset 4 0 = true)) &&
    (meets (st fun d => d.setReg .DIE_ACC_ERR_INFO 1 0 0xFFFFFFFF#32) (.accErrInfoRead mc 1 3 1) fun s _ =>
      decide (s.dev.cfgLog = [] ∧ s.dev.heldCfg = [] ∧ (s.dev.mail mc.path).busy = false ∧ s.dev.grants mc ((⟨.DIE_ACC_ERR_INFO, 1, 0⟩ :
        Loc).offset + 3) 1 0 = true)) &&
    (meets (st id) (.pairLoRead mc (⟨.BB_RETRY_TAB_LO, 3, 0⟩ : Loc).offset 4) fun s _ =>
      decide (s.dev.cfgLog = [] ∧ s.dev.heldCfg = [] ∧ (s.dev.mail mc.path).busy = false ∧ (⟨.BB_RETRY_TAB_LO, 3, 0⟩ : Loc).fits s.dev.n = true ∧
        s.dev.grants mc (⟨.BB_RETRY_TAB_LO, 3, 0⟩ : Loc).offset 4 0 = true)) &&
    (meets (st fun d => (d.setShadow (shadowKey 8 (⟨.BB_RETRY_TAB_LO, 3, 0⟩ : Loc) true) (some 1)).setShadow (shadowKey 8 (⟨.BB_RETRY_TAB_LO, 3, 0⟩
      : Loc) false) (some 0x1234#32)) (.registerReadReject mc (⟨.BB_RETRY_TAB_HI, 3, 0⟩ : Loc).offset 4) fun s _ =>
      decide (s.dev.cfgLog = [] ∧ s.dev.heldCfg = [] ∧ (s.dev.mail mc.path).busy = false ∧ (⟨.BB_RETRY_TAB_HI, 3, 0⟩ : Loc).fits s.dev.n = true ∧
        s.dev.grants mc (⟨.BB_RETRY_TAB_HI, 3, 0⟩ : Loc).offset 4 0 = true ∧ s.dev.shadows.get none (shadowKey mc.path ⟨.BB_RETRY_TAB_LO, 3, 0⟩ true)
        = some 1 ∧ s.dev.shadows.get none (shadowKey mc.path ⟨.BB_RETRY_TAB_LO, 3, 0⟩ false) = some 0x1234#32)) &&
    (meets (st fun d => d.modQueue 1 60 fun q => { q with items := [[1, 2, 3, 4, 5, 6, 7, 8]], pushed := 1 }) (.errRead mc 1) fun s _ =>
      decide (s.dev.cfgLog = [] ∧ (s.dev.queue 1 60).items = [[1, 2, 3, 4, 5, 6, 7, 8]] ∧ (s.dev.queue 1 60).cursor = 0 ∧ s.dev.grants mc
        (Loc.offset ⟨.ERR_READ, 0, 1⟩) 4 0 = true)) &&
    (meets (st fun d => d.modQueue 1 61 fun q => { q with items := [[1, 2, 3, 4, 5, 6, 7, 8]], pushed := 1, cursor := 7 }) (.tcPfdRead mc 1) fun s
      _ =>
      decide (s.dev.cfgLog = [] ∧ (s.dev.queue 1 61).items = [[1, 2, 3, 4, 5, 6, 7, 8]] ∧ (s.dev.queue 1 61).cursor = 7 ∧ s.dev.grants mc
        (Loc.offset ⟨.TC_PFD_READ, 1, 0⟩) 4 0 = true)) &&
    (meets (st id) (.evqRead mc) fun s _ =>
      decide (s.dev.cfgLog = [] ∧ s.dev.flag EVQ_CTL.HOST s.dev.evqHome = false ∧ s.dev.evq.items = [] ∧ s.dev.grants mc (Loc.offset ⟨.EVQ_READ, 0,
        0⟩) 4 0 = true)) &&
    (meets (st fun d => { d with evq := { d.evq with items := [[9, 2, 3, 4]] } }) (.evqRead mc) fun s _ =>
      decide (s.dev.cfgLog = [] ∧ s.dev.flag EVQ_CTL.HOST s.dev.evqHome = false ∧ s.dev.evq.items = [[9, 2, 3, 4]] ∧ s.dev.evq.cursor = 0 ∧
        s.dev.grants mc (Loc.offset ⟨.EVQ_READ, 0, 0⟩) 4 0 = true)) &&
    (meets (st fun d => (d.setFld BB_IRQ_TX.ASSERTED 2 0 8).modPort 2 fun o => { o with asserted := [(3, 9, 4, false)] }) (.irqBboutPendRead mc 2 3
      0 4) fun s _ =>
      decide (s.dev.cfgLog = [] ∧ (s.dev.port 2).asserted = [(3, 9, 4, false)] ∧ s.dev.irqPend = [] ∧ s.dev.fld BB_LINK_STAT.STATE 2 ≠ 3 ∧
        s.dev.grants mc (Loc.offset ⟨.IRQ_BBOUT_PEND, 0, 8 * 2 + 3⟩) 4 0 = true)) &&
    (meets (st fun d => ((d.setFld IRQ_NMI_CAUSE.PEND 0 0 5).setFld BB_IRQ_TX.ASSERTED 2 0 128).modPort 2 fun o =>
      { o with asserted := [(7, 9, 0, false)] }) (.nmiCauseRead mc 0 4) fun s _ =>
      decide (s.dev.cfgLog = [] ∧ s.dev.livePorts = [2] ∧ (s.dev.port 2).asserted = [(7, 9, 0, false)] ∧ s.dev.irqPend = [] ∧ s.dev.fld
        BB_LINK_STAT.STATE 2 ≠ 3 ∧ s.dev.grants mc (Loc.offset ⟨.IRQ_NMI_CAUSE, 0, 0⟩) 4 0 = true))) = true := by
  decide +kernel

theorem witness_ConfigurationOrdered :
    ((meets (st id) (.registerWrite mc (Loc.offset ⟨.PLAY_CONCEAL_LO, 0, 1⟩) 4 15 7 0) fun s _ =>
      decide (s.dev.leadBusy = false ∧ s.dev.cfgLog = [] ∧ s.dev.applied = [] ∧ s.dev.replicas ≠ [] ∧ (⟨.PLAY_CONCEAL_LO, 0, 1⟩ : Loc).fits s.dev.n
        = true ∧ (⟨.PLAY_CONCEAL_LO, 0, 1⟩ : Loc).isCfg = true ∧ (⟨.PLAY_CONCEAL_LO, 0, 1⟩ : Loc).reg ≠ .MOV_CTL ∧ lockOf s.locks (⟨.PLAY_CONCEAL_LO,
        0, 1⟩ : Loc) = false ∧ s.dev.lets mc (⟨.PLAY_CONCEAL_LO, 0, 1⟩ : Loc) = true)) &&
    (meets (st id) (.windowWrite mc true 3 2 4096 0) fun s _ =>
      decide (s.dev.leadBusy = false ∧ s.dev.cfgLog = [] ∧ s.dev.applied = [] ∧ s.dev.replicas ≠ [] ∧ (⟨.WIN_I_BASE_LO, 0, 3⟩ : Loc).fits s.dev.n =
        true ∧ (⟨.WIN_I_BASE_LO, 0, 3⟩ : Loc).isCfg = true ∧ (⟨.WIN_I_BASE_LO, 0, 3⟩ : Loc).reg ≠ .MOV_CTL ∧ lockOf s.locks (⟨.WIN_I_BASE_LO, 0, 3⟩ :
        Loc) = false ∧ s.dev.lets mc (⟨.WIN_I_BASE_LO, 0, 3⟩ : Loc) = true ∧ (⟨.WIN_I_BASE_LO, 0, 3⟩ : Loc).offset = (winLoc true 3).offset + 4 * 2))
        &&
    (meets (st id) (.windowDisable mc false 3 0) fun s _ =>
      decide (s.dev.leadBusy = false ∧ s.dev.cfgLog = [] ∧ s.dev.applied = [] ∧ s.dev.replicas ≠ [] ∧ (winLoc false 3 : Loc).fits s.dev.n = true ∧
        (winLoc false 3 : Loc).isCfg = true ∧ (winLoc false 3 : Loc).reg ≠ .MOV_CTL ∧ lockOf s.locks (winLoc false 3 : Loc) = false ∧ s.dev.lets mc
        (winLoc false 3 : Loc) = true)) &&
    (meets (st id) (.tcInvalWindow mc true true 9 0) fun s _ =>
      decide (s.dev.leadBusy = false ∧ s.dev.cfgLog = [] ∧ s.dev.applied = [] ∧ s.dev.replicas ≠ [] ∧ (⟨.TC_INVAL, 0, 0⟩ : Loc).fits s.dev.n = true
        ∧ (⟨.TC_INVAL, 0, 0⟩ : Loc).isCfg = true ∧ (⟨.TC_INVAL, 0, 0⟩ : Loc).reg ≠ .MOV_CTL ∧ lockOf s.locks (⟨.TC_INVAL, 0, 0⟩ : Loc) = false ∧
        s.dev.lets mc (⟨.TC_INVAL, 0, 0⟩ : Loc) = true)) &&
    (meets (st id) (.tcInvalAll mc 0) fun s _ =>
      decide (s.dev.leadBusy = false ∧ s.dev.cfgLog = [] ∧ s.dev.applied = [] ∧ s.dev.replicas ≠ [] ∧ (⟨.TC_INVAL, 0, 0⟩ : Loc).fits s.dev.n = true
        ∧ (⟨.TC_INVAL, 0, 0⟩ : Loc).isCfg = true ∧ (⟨.TC_INVAL, 0, 0⟩ : Loc).reg ≠ .MOV_CTL ∧ lockOf s.locks (⟨.TC_INVAL, 0, 0⟩ : Loc) = false ∧
        s.dev.lets mc (⟨.TC_INVAL, 0, 0⟩ : Loc) = true)) &&
    (meets (st id) (.tcInvalPageOnly mc true true 9 0) fun s _ =>
      decide (s.dev.leadBusy = false ∧ s.dev.cfgLog = [] ∧ s.dev.applied = [] ∧ s.dev.replicas ≠ [] ∧ (⟨.TC_INVAL, 0, 0⟩ : Loc).fits s.dev.n = true
        ∧ (⟨.TC_INVAL, 0, 0⟩ : Loc).isCfg = true ∧ (⟨.TC_INVAL, 0, 0⟩ : Loc).reg ≠ .MOV_CTL ∧ lockOf s.locks (⟨.TC_INVAL, 0, 0⟩ : Loc) = false ∧
        s.dev.lets mc (⟨.TC_INVAL, 0, 0⟩ : Loc) = true)) &&
    (meets (st id) (.tcSwitch mc 5 0) fun s _ =>
      decide (s.dev.leadBusy = false ∧ s.dev.cfgLog = [] ∧ s.dev.applied = [] ∧ s.dev.replicas ≠ [] ∧ (⟨.TC_SWITCH, 0, 0⟩ : Loc).fits s.dev.n =
        true ∧ (⟨.TC_SWITCH, 0, 0⟩ : Loc).isCfg = true ∧ (⟨.TC_SWITCH, 0, 0⟩ : Loc).reg ≠ .MOV_CTL ∧ lockOf s.locks (⟨.TC_SWITCH, 0, 0⟩ : Loc) = false
        ∧ s.dev.lets mc (⟨.TC_SWITCH, 0, 0⟩ : Loc) = true)) &&
    (meets (st id) (.sealCommit mc 0) fun s _ =>
      decide (s.dev.leadBusy = false ∧ s.dev.cfgLog = [] ∧ s.dev.applied = [] ∧ s.dev.replicas ≠ [] ∧ (⟨.PKG_SEAL_CTRL, 0, 0⟩ : Loc).fits s.dev.n =
        true ∧ (⟨.PKG_SEAL_CTRL, 0, 0⟩ : Loc).isCfg = true ∧ (⟨.PKG_SEAL_CTRL, 0, 0⟩ : Loc).reg ≠ .MOV_CTL ∧ lockOf s.locks (⟨.PKG_SEAL_CTRL, 0, 0⟩ :
        Loc) = false ∧ s.dev.lets mc (⟨.PKG_SEAL_CTRL, 0, 0⟩ : Loc) = true)) &&
    (meets (st id) (.irqEntryWrite mc (Loc.offset ⟨.IRQ_BBIN_CTL, 0, 3⟩) 7 0) fun s _ =>
      decide (s.dev.leadBusy = false ∧ s.dev.cfgLog = [] ∧ s.dev.applied = [] ∧ s.dev.replicas ≠ [] ∧ (⟨.IRQ_BBIN_CTL, 0, 3⟩ : Loc).fits s.dev.n =
        true ∧ (⟨.IRQ_BBIN_CTL, 0, 3⟩ : Loc).isCfg = true ∧ (⟨.IRQ_BBIN_CTL, 0, 3⟩ : Loc).reg ≠ .MOV_CTL ∧ lockOf s.locks (⟨.IRQ_BBIN_CTL, 0, 3⟩ :
        Loc) = false ∧ s.dev.lets mc (⟨.IRQ_BBIN_CTL, 0, 3⟩ : Loc) = true)) &&
    (meets (st id) (.protPendingWrite mc (Loc.offset ⟨.PROT_DEFAULT, 0, 0⟩) 7 0) fun s _ =>
      decide (s.dev.leadBusy = false ∧ s.dev.cfgLog = [] ∧ s.dev.applied = [] ∧ s.dev.replicas ≠ [] ∧ (⟨.PROT_DEFAULT, 0, 0⟩ : Loc).fits s.dev.n =
        true ∧ (⟨.PROT_DEFAULT, 0, 3⟩ : Loc).isCfg = true ∧ (⟨.PROT_DEFAULT, 0, 3⟩ : Loc).reg ≠ .MOV_CTL ∧ lockOf s.locks (⟨.PROT_DEFAULT, 0, 3⟩ :
        Loc) = false ∧ s.dev.lets mc (⟨.PROT_DEFAULT, 0, 3⟩ : Loc) = true)) &&
    (meets (st id) (.protCommit mc 0) fun s _ =>
      decide (s.dev.leadBusy = false ∧ s.dev.cfgLog = [] ∧ s.dev.applied = [] ∧ s.dev.replicas ≠ [] ∧ (⟨.PROT_CTL, 0, 0⟩ : Loc).fits s.dev.n = true
        ∧ (⟨.PROT_CTL, 0, 0⟩ : Loc).isCfg = true ∧ (⟨.PROT_CTL, 0, 0⟩ : Loc).reg ≠ .MOV_CTL ∧ lockOf s.locks (⟨.PROT_CTL, 0, 0⟩ : Loc) = false ∧
        s.dev.lets mc (⟨.PROT_CTL, 0, 0⟩ : Loc) = true)) &&
    (meets (st id) (.protDiscard mc 0) fun s _ =>
      decide (s.dev.leadBusy = false ∧ s.dev.cfgLog = [] ∧ s.dev.applied = [] ∧ s.dev.replicas ≠ [] ∧ (⟨.PROT_CTL, 0, 0⟩ : Loc).fits s.dev.n = true
        ∧ (⟨.PROT_CTL, 0, 0⟩ : Loc).isCfg = true ∧ (⟨.PROT_CTL, 0, 0⟩ : Loc).reg ≠ .MOV_CTL ∧ lockOf s.locks (⟨.PROT_CTL, 0, 0⟩ : Loc) = false ∧
        s.dev.lets mc (⟨.PROT_CTL, 0, 0⟩ : Loc) = true)) &&
    (meets (st id) (.poolConfigWrite mc 3 0 7 0) fun s _ =>
      decide (s.dev.leadBusy = false ∧ s.dev.cfgLog = [] ∧ s.dev.applied = [] ∧ s.dev.replicas ≠ [] ∧ (⟨.POOL_CTL, 0, 3⟩ : Loc).fits s.dev.n = true
        ∧ (⟨.POOL_CTL, 0, 3⟩ : Loc).isCfg = true ∧ (⟨.POOL_CTL, 0, 3⟩ : Loc).reg ≠ .MOV_CTL ∧ lockOf s.locks (⟨.POOL_CTL, 0, 3⟩ : Loc) = false ∧
        s.dev.lets mc (⟨.POOL_CTL, 0, 3⟩ : Loc) = true)) &&
    (meets (st id) (.poolEnable mc 3 0) fun s _ =>
      decide (s.dev.leadBusy = false ∧ s.dev.cfgLog = [] ∧ s.dev.applied = [] ∧ s.dev.replicas ≠ [] ∧ (⟨.POOL_CTL, 0, 3⟩ : Loc).fits s.dev.n = true
        ∧ (⟨.POOL_CTL, 0, 3⟩ : Loc).isCfg = true ∧ (⟨.POOL_CTL, 0, 3⟩ : Loc).reg ≠ .MOV_CTL ∧ lockOf s.locks (⟨.POOL_CTL, 0, 3⟩ : Loc) = false ∧
        s.dev.lets mc (⟨.POOL_CTL, 0, 3⟩ : Loc) = true)) &&
    (meets (st id) (.poolDisable mc 3 0) fun s _ =>
      decide (s.dev.leadBusy = false ∧ s.dev.cfgLog = [] ∧ s.dev.applied = [] ∧ s.dev.replicas ≠ [] ∧ (⟨.POOL_CTL, 0, 3⟩ : Loc).fits s.dev.n = true
        ∧ (⟨.POOL_CTL, 0, 3⟩ : Loc).isCfg = true ∧ (⟨.POOL_CTL, 0, 3⟩ : Loc).reg ≠ .MOV_CTL ∧ lockOf s.locks (⟨.POOL_CTL, 0, 3⟩ : Loc) = false ∧
        s.dev.lets mc (⟨.POOL_CTL, 0, 3⟩ : Loc) = true)) &&
    (meets (st id) (.ringConfigWrite mc 3 0 7 0) fun s _ =>
      decide (s.dev.leadBusy = false ∧ s.dev.cfgLog = [] ∧ s.dev.applied = [] ∧ s.dev.replicas ≠ [] ∧ (⟨.RING_CTL, 0, 3⟩ : Loc).fits s.dev.n = true
        ∧ (⟨.RING_CTL, 0, 3⟩ : Loc).isCfg = true ∧ (⟨.RING_CTL, 0, 3⟩ : Loc).reg ≠ .MOV_CTL ∧ lockOf s.locks (⟨.RING_CTL, 0, 3⟩ : Loc) = false ∧
        s.dev.lets mc (⟨.RING_CTL, 0, 3⟩ : Loc) = true)) &&
    (meets (st id) (.ringEnable mc 3 0) fun s _ =>
      decide (s.dev.leadBusy = false ∧ s.dev.cfgLog = [] ∧ s.dev.applied = [] ∧ s.dev.replicas ≠ [] ∧ (⟨.RING_CTL, 0, 3⟩ : Loc).fits s.dev.n = true
        ∧ (⟨.RING_CTL, 0, 3⟩ : Loc).isCfg = true ∧ (⟨.RING_CTL, 0, 3⟩ : Loc).reg ≠ .MOV_CTL ∧ lockOf s.locks (⟨.RING_CTL, 0, 3⟩ : Loc) = false ∧
        s.dev.lets mc (⟨.RING_CTL, 0, 3⟩ : Loc) = true)) &&
    (meets (st id) (.ringDisable mc 3 0) fun s _ =>
      decide (s.dev.leadBusy = false ∧ s.dev.cfgLog = [] ∧ s.dev.applied = [] ∧ s.dev.replicas ≠ [] ∧ (⟨.RING_CTL, 0, 3⟩ : Loc).fits s.dev.n = true
        ∧ (⟨.RING_CTL, 0, 3⟩ : Loc).isCfg = true ∧ (⟨.RING_CTL, 0, 3⟩ : Loc).reg ≠ .MOV_CTL ∧ lockOf s.locks (⟨.RING_CTL, 0, 3⟩ : Loc) = false ∧
        s.dev.lets mc (⟨.RING_CTL, 0, 3⟩ : Loc) = true)) &&
    (meets (st id) (.stripeConfigWrite mc 3 0 7 0) fun s _ =>
      decide (s.dev.leadBusy = false ∧ s.dev.cfgLog = [] ∧ s.dev.applied = [] ∧ s.dev.replicas ≠ [] ∧ (⟨.STRIPE_CTL, 0, 3⟩ : Loc).fits s.dev.n =
        true ∧ (⟨.STRIPE_CTL, 0, 3⟩ : Loc).isCfg = true ∧ (⟨.STRIPE_CTL, 0, 3⟩ : Loc).reg ≠ .MOV_CTL ∧ lockOf s.locks (⟨.STRIPE_CTL, 0, 3⟩ : Loc) =
        false ∧ s.dev.lets mc (⟨.STRIPE_CTL, 0, 3⟩ : Loc) = true)) &&
    (meets (st id) (.tapConfigWrite mc 3 0 7 0) fun s _ =>
      decide (s.dev.leadBusy = false ∧ s.dev.cfgLog = [] ∧ s.dev.applied = [] ∧ s.dev.replicas ≠ [] ∧ (⟨.TAP_CTL, 0, 3⟩ : Loc).fits s.dev.n = true
        ∧ (⟨.TAP_CTL, 0, 3⟩ : Loc).isCfg = true ∧ (⟨.TAP_CTL, 0, 3⟩ : Loc).reg ≠ .MOV_CTL ∧ lockOf s.locks (⟨.TAP_CTL, 0, 3⟩ : Loc) = false ∧
        s.dev.lets mc (⟨.TAP_CTL, 0, 3⟩ : Loc) = true)) &&
    (meets (st id) (.registerWrite mc (Loc.offset ⟨.PLAY_CONCEAL_LO, 0, 1⟩) 4 15 0xFFFFFFFF 255) fun s _ =>
      decide (s.dev.leadBusy = false ∧ s.dev.cfgLog = [] ∧ s.dev.applied = [] ∧ s.dev.replicas ≠ [] ∧ (⟨.PLAY_CONCEAL_LO, 0, 1⟩ : Loc).fits s.dev.n
        = true ∧ (⟨.PLAY_CONCEAL_LO, 0, 1⟩ : Loc).isCfg = true ∧ (⟨.PLAY_CONCEAL_LO, 0, 1⟩ : Loc).reg ≠ .MOV_CTL ∧ lockOf s.locks (⟨.PLAY_CONCEAL_LO,
        0, 1⟩ : Loc) = false ∧ s.dev.lets mc (⟨.PLAY_CONCEAL_LO, 0, 1⟩ : Loc) = true)) &&
    (meets (st id) (.registerWrite mc (Loc.offset ⟨.PLAY_CONCEAL_LO, 0, 1⟩) 4 15 0xFFFFFFFF 2) fun s _ =>
      decide (s.dev.leadBusy = false ∧ s.dev.cfgLog = [] ∧ s.dev.applied = [] ∧ s.dev.replicas ≠ [] ∧ (⟨.PLAY_CONCEAL_LO, 0, 1⟩ : Loc).fits s.dev.n
        = true ∧ (⟨.PLAY_CONCEAL_LO, 0, 1⟩ : Loc).isCfg = true ∧ (⟨.PLAY_CONCEAL_LO, 0, 1⟩ : Loc).reg ≠ .MOV_CTL ∧ lockOf s.locks (⟨.PLAY_CONCEAL_LO,
        0, 1⟩ : Loc) = false ∧ s.dev.lets mc (⟨.PLAY_CONCEAL_LO, 0, 1⟩ : Loc) = true)) &&
    (meets (st id) (.registerWrite mc (Loc.offset ⟨.DIE_Q_CFG, 1, 63⟩) 4 15 0x12345678 255) fun s _ =>
      decide (s.dev.leadBusy = false ∧ s.dev.cfgLog = [] ∧ s.dev.applied = [] ∧ s.dev.replicas ≠ [] ∧ (⟨.DIE_Q_CFG, 1, 63⟩ : Loc).fits s.dev.n =
        true ∧ (⟨.DIE_Q_CFG, 1, 63⟩ : Loc).isCfg = true ∧ (⟨.DIE_Q_CFG, 1, 63⟩ : Loc).reg ≠ .MOV_CTL ∧ lockOf s.locks (⟨.DIE_Q_CFG, 1, 63⟩ : Loc) =
        false ∧ s.dev.lets mc (⟨.DIE_Q_CFG, 1, 63⟩ : Loc) = true)) &&
    (meets (st id) (.windowWrite mc true 3 2 0x12345678 255) fun s _ =>
      decide (s.dev.leadBusy = false ∧ s.dev.cfgLog = [] ∧ s.dev.applied = [] ∧ s.dev.replicas ≠ [] ∧ (⟨.WIN_I_BASE_LO, 0, 3⟩ : Loc).fits s.dev.n =
        true ∧ (⟨.WIN_I_BASE_LO, 0, 3⟩ : Loc).isCfg = true ∧ (⟨.WIN_I_BASE_LO, 0, 3⟩ : Loc).reg ≠ .MOV_CTL ∧ lockOf s.locks (⟨.WIN_I_BASE_LO, 0, 3⟩ :
        Loc) = false ∧ s.dev.lets mc (⟨.WIN_I_BASE_LO, 0, 3⟩ : Loc) = true)) &&
    (meets (st id) (.windowWrite mc true 3 2 0x12345678 2) fun s _ =>
      decide (s.dev.leadBusy = false ∧ s.dev.cfgLog = [] ∧ s.dev.applied = [] ∧ s.dev.replicas ≠ [] ∧ (⟨.WIN_I_BASE_LO, 0, 3⟩ : Loc).fits s.dev.n =
        true ∧ (⟨.WIN_I_BASE_LO, 0, 3⟩ : Loc).isCfg = true ∧ (⟨.WIN_I_BASE_LO, 0, 3⟩ : Loc).reg ≠ .MOV_CTL ∧ lockOf s.locks (⟨.WIN_I_BASE_LO, 0, 3⟩ :
        Loc) = false ∧ s.dev.lets mc (⟨.WIN_I_BASE_LO, 0, 3⟩ : Loc) = true)) &&
    (meets (st (winIn 3)) (.windowWrite mc true 3 0 0x88111000 255) fun s _ =>
      decide (s.dev.leadBusy = false ∧ s.dev.cfgLog = [] ∧ s.dev.applied = [] ∧ s.dev.replicas ≠ [] ∧ (⟨.WIN_I_CTL, 0, 3⟩ : Loc).fits s.dev.n =
        true ∧ (⟨.WIN_I_CTL, 0, 3⟩ : Loc).isCfg = true ∧ (⟨.WIN_I_CTL, 0, 3⟩ : Loc).reg ≠ .MOV_CTL ∧ lockOf s.locks (⟨.WIN_I_CTL, 0, 3⟩ : Loc) = false
        ∧ s.dev.lets mc (⟨.WIN_I_CTL, 0, 3⟩ : Loc) = true)) &&
    (meets (st (winIn 3)) (.windowWrite mc true 3 0 0x88111000 2) fun s _ =>
      decide (s.dev.leadBusy = false ∧ s.dev.cfgLog = [] ∧ s.dev.applied = [] ∧ s.dev.replicas ≠ [] ∧ (⟨.WIN_I_CTL, 0, 3⟩ : Loc).fits s.dev.n =
        true ∧ (⟨.WIN_I_CTL, 0, 3⟩ : Loc).isCfg = true ∧ (⟨.WIN_I_CTL, 0, 3⟩ : Loc).reg ≠ .MOV_CTL ∧ lockOf s.locks (⟨.WIN_I_CTL, 0, 3⟩ : Loc) = false
        ∧ s.dev.lets mc (⟨.WIN_I_CTL, 0, 3⟩ : Loc) = true)) &&
    (meets (st fun d => (winIn 3 d).setReg .WIN_I_PORTS_LO 0 3 0) (.windowWrite mc true 3 0 0x88911000 255) fun s _ =>
      decide (s.dev.leadBusy = false ∧ s.dev.cfgLog = [] ∧ s.dev.applied = [] ∧ s.dev.replicas ≠ [] ∧ (⟨.WIN_I_CTL, 0, 3⟩ : Loc).fits s.dev.n =
        true ∧ (⟨.WIN_I_CTL, 0, 3⟩ : Loc).isCfg = true ∧ (⟨.WIN_I_CTL, 0, 3⟩ : Loc).reg ≠ .MOV_CTL ∧ lockOf s.locks (⟨.WIN_I_CTL, 0, 3⟩ : Loc) = false
        ∧ s.dev.lets mc (⟨.WIN_I_CTL, 0, 3⟩ : Loc) = true)) &&
    (meets (st (winIn 3)) (.windowDisable mc true 3 255) fun s _ =>
      decide (s.dev.leadBusy = false ∧ s.dev.cfgLog = [] ∧ s.dev.applied = [] ∧ s.dev.replicas ≠ [] ∧ ((winLoc true 3) : Loc).fits s.dev.n = true ∧
        ((winLoc true 3) : Loc).isCfg = true ∧ ((winLoc true 3) : Loc).reg ≠ .MOV_CTL ∧ lockOf s.locks ((winLoc true 3) : Loc) = false ∧ s.dev.lets mc
        ((winLoc true 3) : Loc) = true)) &&
    (meets (st fun d => [0, 1].foldl (fun (d : Dev) x => (d.modTc x fun t =>
      { t with lines := [{ inb := true, win := 9, tableB := true, line := 0, entries := [] }, { inb := true, win := 9, tableB := true, line := 1, entries := [] }, { inb := true, win := 9, tableB := false, line := 1, entries := [] }, { inb := false, win := 9, tableB := true, line := 1, entries := [] }] }).setReg
      .TC_INVAL_PAGE x 0 10) (((winIn 9 d).setReg .WIN_I_LIMIT_LO 0 9 0x0FFFFFFF).setReg .WIN_I_LIMIT_LO 1 9 0x0FFFFFFF)) (.tcInvalWindow mc true true
      9 255) fun s _ =>
      decide (s.dev.leadBusy = false ∧ s.dev.cfgLog = [] ∧ s.dev.applied = [] ∧ s.dev.replicas ≠ [] ∧ (⟨.TC_INVAL, 0, 0⟩ : Loc).fits s.dev.n = true
        ∧ (⟨.TC_INVAL, 0, 0⟩ : Loc).isCfg = true ∧ (⟨.TC_INVAL, 0, 0⟩ : Loc).reg ≠ .MOV_CTL ∧ lockOf s.locks (⟨.TC_INVAL, 0, 0⟩ : Loc) = false ∧
        s.dev.lets mc (⟨.TC_INVAL, 0, 0⟩ : Loc) = true)) &&
    (meets (st fun d => [0, 1].foldl (fun (d : Dev) x => (d.modTc x fun t =>
      { t with lines := [{ inb := true, win := 9, tableB := true, line := 0, entries := [] }, { inb := true, win := 9, tableB := true, line := 1, entries := [] }, { inb := true, win := 9, tableB := false, line := 1, entries := [] }, { inb := false, win := 9, tableB := true, line := 1, entries := [] }] }).setReg
      .TC_INVAL_PAGE x 0 10) (((winIn 9 d).setReg .WIN_I_LIMIT_LO 0 9 0x0FFFFFFF).setReg .WIN_I_LIMIT_LO 1 9 0x0FFFFFFF)) (.tcInvalWindow mc true true
      9 2) fun s _ =>
      decide (s.dev.leadBusy = false ∧ s.dev.cfgLog = [] ∧ s.dev.applied = [] ∧ s.dev.replicas ≠ [] ∧ (⟨.TC_INVAL, 0, 0⟩ : Loc).fits s.dev.n = true
        ∧ (⟨.TC_INVAL, 0, 0⟩ : Loc).isCfg = true ∧ (⟨.TC_INVAL, 0, 0⟩ : Loc).reg ≠ .MOV_CTL ∧ lockOf s.locks (⟨.TC_INVAL, 0, 0⟩ : Loc) = false ∧
        s.dev.lets mc (⟨.TC_INVAL, 0, 0⟩ : Loc) = true)) &&
    (meets (st fun d => [0, 1].foldl (fun (d : Dev) x => (d.modTc x fun t =>
      { t with lines := [{ inb := true, win := 9, tableB := true, line := 0, entries := [] }, { inb := true, win := 9, tableB := true, line := 1, entries := [] }, { inb := true, win := 9, tableB := false, line := 1, entries := [] }, { inb := false, win := 9, tableB := true, line := 1, entries := [] }] }).setReg
      .TC_INVAL_PAGE x 0 10) (((winIn 9 d).setReg .WIN_I_LIMIT_LO 0 9 0x0FFFFFFF).setReg .WIN_I_LIMIT_LO 1 9 0x0FFFFFFF)) (.tcInvalAll mc 255) fun s _
      =>
      decide (s.dev.leadBusy = false ∧ s.dev.cfgLog = [] ∧ s.dev.applied = [] ∧ s.dev.replicas ≠ [] ∧ (⟨.TC_INVAL, 0, 0⟩ : Loc).fits s.dev.n = true
        ∧ (⟨.TC_INVAL, 0, 0⟩ : Loc).isCfg = true ∧ (⟨.TC_INVAL, 0, 0⟩ : Loc).reg ≠ .MOV_CTL ∧ lockOf s.locks (⟨.TC_INVAL, 0, 0⟩ : Loc) = false ∧
        s.dev.lets mc (⟨.TC_INVAL, 0, 0⟩ : Loc) = true)) &&
    (meets (st fun d => [0, 1].foldl (fun (d : Dev) x => (d.modTc x fun t =>
      { t with lines := [{ inb := true, win := 9, tableB := true, line := 0, entries := [] }, { inb := true, win := 9, tableB := true, line := 1, entries := [] }, { inb := true, win := 9, tableB := false, line := 1, entries := [] }, { inb := false, win := 9, tableB := true, line := 1, entries := [] }] }).setReg
      .TC_INVAL_PAGE x 0 10) (((winIn 9 d).setReg .WIN_I_LIMIT_LO 0 9 0x0FFFFFFF).setReg .WIN_I_LIMIT_LO 1 9 0x0FFFFFFF)) (.tcInvalAll mc 2) fun s _
      =>
      decide (s.dev.leadBusy = false ∧ s.dev.cfgLog = [] ∧ s.dev.applied = [] ∧ s.dev.replicas ≠ [] ∧ (⟨.TC_INVAL, 0, 0⟩ : Loc).fits s.dev.n = true
        ∧ (⟨.TC_INVAL, 0, 0⟩ : Loc).isCfg = true ∧ (⟨.TC_INVAL, 0, 0⟩ : Loc).reg ≠ .MOV_CTL ∧ lockOf s.locks (⟨.TC_INVAL, 0, 0⟩ : Loc) = false ∧
        s.dev.lets mc (⟨.TC_INVAL, 0, 0⟩ : Loc) = true)) &&
    (meets (st fun d => [0, 1].foldl (fun (d : Dev) x => (d.modTc x fun t =>
      { t with lines := [{ inb := true, win := 9, tableB := true, line := 0, entries := [] }, { inb := true, win := 9, tableB := true, line := 1, entries := [] }, { inb := true, win := 9, tableB := false, line := 1, entries := [] }, { inb := false, win := 9, tableB := true, line := 1, entries := [] }] }).setReg
      .TC_INVAL_PAGE x 0 10) (((winIn 9 d).setReg .WIN_I_LIMIT_LO 0 9 0x0FFFFFFF).setReg .WIN_I_LIMIT_LO 1 9 0x0FFFFFFF)) (.tcInvalPageOnly mc true
      true 9 255) fun s _ =>
      decide (s.dev.leadBusy = false ∧ s.dev.cfgLog = [] ∧ s.dev.applied = [] ∧ s.dev.replicas ≠ [] ∧ (⟨.TC_INVAL, 0, 0⟩ : Loc).fits s.dev.n = true
        ∧ (⟨.TC_INVAL, 0, 0⟩ : Loc).isCfg = true ∧ (⟨.TC_INVAL, 0, 0⟩ : Loc).reg ≠ .MOV_CTL ∧ lockOf s.locks (⟨.TC_INVAL, 0, 0⟩ : Loc) = false ∧
        s.dev.lets mc (⟨.TC_INVAL, 0, 0⟩ : Loc) = true)) &&
    (meets (st fun d => [0, 1].foldl (fun (d : Dev) x => (d.modTc x fun t =>
      { t with lines := [{ inb := true, win := 9, tableB := true, line := 0, entries := [] }, { inb := true, win := 9, tableB := true, line := 1, entries := [] }, { inb := true, win := 9, tableB := false, line := 1, entries := [] }, { inb := false, win := 9, tableB := true, line := 1, entries := [] }] }).setReg
      .TC_INVAL_PAGE x 0 10) (((winIn 9 d).setReg .WIN_I_LIMIT_LO 0 9 0x0FFFFFFF).setReg .WIN_I_LIMIT_LO 1 9 0x0FFFFFFF)) (.tcInvalPageOnly mc true
      true 9 2) fun s _ =>
      decide (s.dev.leadBusy = false ∧ s.dev.cfgLog = [] ∧ s.dev.applied = [] ∧ s.dev.replicas ≠ [] ∧ (⟨.TC_INVAL, 0, 0⟩ : Loc).fits s.dev.n = true
        ∧ (⟨.TC_INVAL, 0, 0⟩ : Loc).isCfg = true ∧ (⟨.TC_INVAL, 0, 0⟩ : Loc).reg ≠ .MOV_CTL ∧ lockOf s.locks (⟨.TC_INVAL, 0, 0⟩ : Loc) = false ∧
        s.dev.lets mc (⟨.TC_INVAL, 0, 0⟩ : Loc) = true)) &&
    (meets (st id) (.tcSwitch mc 5 255) fun s _ =>
      decide (s.dev.leadBusy = false ∧ s.dev.cfgLog = [] ∧ s.dev.applied = [] ∧ s.dev.replicas ≠ [] ∧ (⟨.TC_SWITCH, 0, 0⟩ : Loc).fits s.dev.n =
        true ∧ (⟨.TC_SWITCH, 0, 0⟩ : Loc).isCfg = true ∧ (⟨.TC_SWITCH, 0, 0⟩ : Loc).reg ≠ .MOV_CTL ∧ lockOf s.locks (⟨.TC_SWITCH, 0, 0⟩ : Loc) = false
        ∧ s.dev.lets mc (⟨.TC_SWITCH, 0, 0⟩ : Loc) = true)) &&
    (meets (st id) (.tcSwitch mc 5 2) fun s _ =>
      decide (s.dev.leadBusy = false ∧ s.dev.cfgLog = [] ∧ s.dev.applied = [] ∧ s.dev.replicas ≠ [] ∧ (⟨.TC_SWITCH, 0, 0⟩ : Loc).fits s.dev.n =
        true ∧ (⟨.TC_SWITCH, 0, 0⟩ : Loc).isCfg = true ∧ (⟨.TC_SWITCH, 0, 0⟩ : Loc).reg ≠ .MOV_CTL ∧ lockOf s.locks (⟨.TC_SWITCH, 0, 0⟩ : Loc) = false
        ∧ s.dev.lets mc (⟨.TC_SWITCH, 0, 0⟩ : Loc) = true)) &&
    (meets ⟨[], Locks.clear, ({ Dev.initial .ez8 with fen := { asserted := false } } : Dev)⟩ (.sealCommit mc 2) fun s _ =>
      decide (s.dev.leadBusy = false ∧ s.dev.cfgLog = [] ∧ s.dev.applied = [] ∧ s.dev.replicas ≠ [] ∧ (⟨.PKG_SEAL_CTRL, 0, 0⟩ : Loc).fits s.dev.n =
        true ∧ (⟨.PKG_SEAL_CTRL, 0, 0⟩ : Loc).isCfg = true ∧ (⟨.PKG_SEAL_CTRL, 0, 0⟩ : Loc).reg ≠ .MOV_CTL ∧ lockOf s.locks (⟨.PKG_SEAL_CTRL, 0, 0⟩ :
        Loc) = false ∧ s.dev.lets mc (⟨.PKG_SEAL_CTRL, 0, 0⟩ : Loc) = true)) &&
    (meets (st id) (.sealCommit mc 255) fun s _ =>
      decide (s.dev.leadBusy = false ∧ s.dev.cfgLog = [] ∧ s.dev.applied = [] ∧ s.dev.replicas ≠ [] ∧ (⟨.PKG_SEAL_CTRL, 0, 0⟩ : Loc).fits s.dev.n =
        true ∧ (⟨.PKG_SEAL_CTRL, 0, 0⟩ : Loc).isCfg = true ∧ (⟨.PKG_SEAL_CTRL, 0, 0⟩ : Loc).reg ≠ .MOV_CTL ∧ lockOf s.locks (⟨.PKG_SEAL_CTRL, 0, 0⟩ :
        Loc) = false ∧ s.dev.lets mc (⟨.PKG_SEAL_CTRL, 0, 0⟩ : Loc) = true)) &&
    (meets (st fun d => (d.setReg .IRQ_BBIN_TGT 0 3 5).setReg .IRQ_BBIN_TGT 1 3 5) (.irqEntryWrite mc (Loc.offset ⟨.IRQ_BBIN_CTL, 0, 3⟩) 0x80000000
      255) fun s _ =>
      decide (s.dev.leadBusy = false ∧ s.dev.cfgLog = [] ∧ s.dev.applied = [] ∧ s.dev.replicas ≠ [] ∧ (⟨.IRQ_BBIN_CTL, 0, 3⟩ : Loc).fits s.dev.n =
        true ∧ (⟨.IRQ_BBIN_CTL, 0, 3⟩ : Loc).isCfg = true ∧ (⟨.IRQ_BBIN_CTL, 0, 3⟩ : Loc).reg ≠ .MOV_CTL ∧ lockOf s.locks (⟨.IRQ_BBIN_CTL, 0, 3⟩ :
        Loc) = false ∧ s.dev.lets mc (⟨.IRQ_BBIN_CTL, 0, 3⟩ : Loc) = true)) &&
    (meets (st fun d => (d.setReg .IRQ_BBIN_TGT 0 3 5).setReg .IRQ_BBIN_TGT 1 3 5) (.irqEntryWrite mc (Loc.offset ⟨.IRQ_BBIN_CTL, 0, 3⟩) 0x80000000
      2) fun s _ =>
      decide (s.dev.leadBusy = false ∧ s.dev.cfgLog = [] ∧ s.dev.applied = [] ∧ s.dev.replicas ≠ [] ∧ (⟨.IRQ_BBIN_CTL, 0, 3⟩ : Loc).fits s.dev.n =
        true ∧ (⟨.IRQ_BBIN_CTL, 0, 3⟩ : Loc).isCfg = true ∧ (⟨.IRQ_BBIN_CTL, 0, 3⟩ : Loc).reg ≠ .MOV_CTL ∧ lockOf s.locks (⟨.IRQ_BBIN_CTL, 0, 3⟩ :
        Loc) = false ∧ s.dev.lets mc (⟨.IRQ_BBIN_CTL, 0, 3⟩ : Loc) = true)) &&
    (meets (st id) (.irqEntryWrite mc (Loc.offset ⟨.IRQ_CLASS_CTL, 0, 3⟩) 0x80000000 255) fun s _ =>
      decide (s.dev.leadBusy = false ∧ s.dev.cfgLog = [] ∧ s.dev.applied = [] ∧ s.dev.replicas ≠ [] ∧ (⟨.IRQ_CLASS_CTL, 0, 3⟩ : Loc).fits s.dev.n =
        true ∧ (⟨.IRQ_CLASS_CTL, 0, 3⟩ : Loc).isCfg = true ∧ (⟨.IRQ_CLASS_CTL, 0, 3⟩ : Loc).reg ≠ .MOV_CTL ∧ lockOf s.locks (⟨.IRQ_CLASS_CTL, 0, 3⟩ :
        Loc) = false ∧ s.dev.lets mc (⟨.IRQ_CLASS_CTL, 0, 3⟩ : Loc) = true)) &&
    (meets (st id) (.protPendingWrite mc (Loc.offset ⟨.PROT_DEFAULT, 0, 0⟩) 0xFFFFFFFF 255) fun s _ =>
      decide (s.dev.leadBusy = false ∧ s.dev.cfgLog = [] ∧ s.dev.applied = [] ∧ s.dev.replicas ≠ [] ∧ (⟨.PROT_DEFAULT, 0, 0⟩ : Loc).fits s.dev.n =
        true ∧ (⟨.PROT_DEFAULT, 0, 0⟩ : Loc).isCfg = true ∧ (⟨.PROT_DEFAULT, 0, 0⟩ : Loc).reg ≠ .MOV_CTL ∧ lockOf s.locks (⟨.PROT_DEFAULT, 0, 0⟩ :
        Loc) = false ∧ s.dev.lets mc (⟨.PROT_DEFAULT, 0, 0⟩ : Loc) = true)) &&
    (meets (st id) (.protPendingWrite mc (Loc.offset ⟨.PROT_DEFAULT, 0, 0⟩) 0xFFFFFFFF 2) fun s _ =>
      decide (s.dev.leadBusy = false ∧ s.dev.cfgLog = [] ∧ s.dev.applied = [] ∧ s.dev.replicas ≠ [] ∧ (⟨.PROT_DEFAULT, 0, 0⟩ : Loc).fits s.dev.n =
        true ∧ (⟨.PROT_DEFAULT, 0, 0⟩ : Loc).isCfg = true ∧ (⟨.PROT_DEFAULT, 0, 0⟩ : Loc).reg ≠ .MOV_CTL ∧ lockOf s.locks (⟨.PROT_DEFAULT, 0, 0⟩ :
        Loc) = false ∧ s.dev.lets mc (⟨.PROT_DEFAULT, 0, 0⟩ : Loc) = true)) &&
    (meets (st fun d => (((d.setFld PROT_CTL.DIRTY 0 0 1).setFld PROT_CTL.DIRTY 1 0 1).setFld PROT_EPOCH.EPOCH 0 0 65535).setReg .PROT_DEFAULT 1 0
      7) (.protCommit mc 255) fun s _ =>
      decide (s.dev.leadBusy = false ∧ s.dev.cfgLog = [] ∧ s.dev.applied = [] ∧ s.dev.replicas ≠ [] ∧ (⟨.PROT_CTL, 0, 0⟩ : Loc).fits s.dev.n = true
        ∧ (⟨.PROT_CTL, 0, 0⟩ : Loc).isCfg = true ∧ (⟨.PROT_CTL, 0, 0⟩ : Loc).reg ≠ .MOV_CTL ∧ lockOf s.locks (⟨.PROT_CTL, 0, 0⟩ : Loc) = false ∧
        s.dev.lets mc (⟨.PROT_CTL, 0, 0⟩ : Loc) = true)) &&
    (meets (st fun d => (((d.setFld PROT_CTL.DIRTY 0 0 1).setFld PROT_CTL.DIRTY 1 0 1).setFld PROT_EPOCH.EPOCH 0 0 65535).setReg .PROT_DEFAULT 1 0
      7) (.protCommit mc 2) fun s _ =>
      decide (s.dev.leadBusy = false ∧ s.dev.cfgLog = [] ∧ s.dev.applied = [] ∧ s.dev.replicas ≠ [] ∧ (⟨.PROT_CTL, 0, 0⟩ : Loc).fits s.dev.n = true
        ∧ (⟨.PROT_CTL, 0, 0⟩ : Loc).isCfg = true ∧ (⟨.PROT_CTL, 0, 0⟩ : Loc).reg ≠ .MOV_CTL ∧ lockOf s.locks (⟨.PROT_CTL, 0, 0⟩ : Loc) = false ∧
        s.dev.lets mc (⟨.PROT_CTL, 0, 0⟩ : Loc) = true)) &&
    (meets (st fun d => (((d.setFld PROT_CTL.DIRTY 0 0 1).setFld PROT_CTL.DIRTY 1 0 1).setFld PROT_EPOCH.EPOCH 0 0 65535).setReg .PROT_DEFAULT 1 0
      7) (.protDiscard mc 255) fun s _ =>
      decide (s.dev.leadBusy = false ∧ s.dev.cfgLog = [] ∧ s.dev.applied = [] ∧ s.dev.replicas ≠ [] ∧ (⟨.PROT_CTL, 0, 0⟩ : Loc).fits s.dev.n = true
        ∧ (⟨.PROT_CTL, 0, 0⟩ : Loc).isCfg = true ∧ (⟨.PROT_CTL, 0, 0⟩ : Loc).reg ≠ .MOV_CTL ∧ lockOf s.locks (⟨.PROT_CTL, 0, 0⟩ : Loc) = false ∧
        s.dev.lets mc (⟨.PROT_CTL, 0, 0⟩ : Loc) = true)) &&
    (meets (st fun d => (((d.setFld PROT_CTL.DIRTY 0 0 1).setFld PROT_CTL.DIRTY 1 0 1).setFld PROT_EPOCH.EPOCH 0 0 65535).setReg .PROT_DEFAULT 1 0
      7) (.protDiscard mc 2) fun s _ =>
      decide (s.dev.leadBusy = false ∧ s.dev.cfgLog = [] ∧ s.dev.applied = [] ∧ s.dev.replicas ≠ [] ∧ (⟨.PROT_CTL, 0, 0⟩ : Loc).fits s.dev.n = true
        ∧ (⟨.PROT_CTL, 0, 0⟩ : Loc).isCfg = true ∧ (⟨.PROT_CTL, 0, 0⟩ : Loc).reg ≠ .MOV_CTL ∧ lockOf s.locks (⟨.PROT_CTL, 0, 0⟩ : Loc) = false ∧
        s.dev.lets mc (⟨.PROT_CTL, 0, 0⟩ : Loc) = true)) &&
    (meets (st fun d => [0, 1].foldl (fun (d : Dev) x => ((d.setReg .POOL_CTL x 3 0).setReg .POOL_SIZE x 3 16).setReg .POOL_COUNT x 3 16) d)
      (.poolConfigWrite mc 3 2 0x1234 255) fun s _ =>
      decide (s.dev.leadBusy = false ∧ s.dev.cfgLog = [] ∧ s.dev.applied = [] ∧ s.dev.replicas ≠ [] ∧ (⟨.POOL_COUNT, 0, 3⟩ : Loc).fits s.dev.n =
        true ∧ (⟨.POOL_COUNT, 0, 3⟩ : Loc).isCfg = true ∧ (⟨.POOL_COUNT, 0, 3⟩ : Loc).reg ≠ .MOV_CTL ∧ lockOf s.locks (⟨.POOL_COUNT, 0, 3⟩ : Loc) =
        false ∧ s.dev.lets mc (⟨.POOL_COUNT, 0, 3⟩ : Loc) = true)) &&
    (meets (st fun d => [0, 1].foldl (fun (d : Dev) x => ((d.setReg .POOL_CTL x 3 0).setReg .POOL_SIZE x 3 16).setReg .POOL_COUNT x 3 16) d)
      (.poolConfigWrite mc 3 2 0x1234 2) fun s _ =>
      decide (s.dev.leadBusy = false ∧ s.dev.cfgLog = [] ∧ s.dev.applied = [] ∧ s.dev.replicas ≠ [] ∧ (⟨.POOL_COUNT, 0, 3⟩ : Loc).fits s.dev.n =
        true ∧ (⟨.POOL_COUNT, 0, 3⟩ : Loc).isCfg = true ∧ (⟨.POOL_COUNT, 0, 3⟩ : Loc).reg ≠ .MOV_CTL ∧ lockOf s.locks (⟨.POOL_COUNT, 0, 3⟩ : Loc) =
        false ∧ s.dev.lets mc (⟨.POOL_COUNT, 0, 3⟩ : Loc) = true)) &&
    (meets (st fun d => [0, 1].foldl (fun (d : Dev) x => ((d.setReg .POOL_CTL x 3 (BitVec.ofNat 32 (8 * 2 ^ POOL_CTL.RING_ORDER.lo + 2 ^
      POOL_CTL.OWNERS.lo))).setReg .POOL_SIZE x 3 16).setReg .POOL_COUNT x 3 16) d) (.poolEnable mc 3 255) fun s _ =>
      decide (s.dev.leadBusy = false ∧ s.dev.cfgLog = [] ∧ s.dev.applied = [] ∧ s.dev.replicas ≠ [] ∧ (⟨.POOL_CTL, 0, 3⟩ : Loc).fits s.dev.n = true
        ∧ (⟨.POOL_CTL, 0, 3⟩ : Loc).isCfg = true ∧ (⟨.POOL_CTL, 0, 3⟩ : Loc).reg ≠ .MOV_CTL ∧ lockOf s.locks (⟨.POOL_CTL, 0, 3⟩ : Loc) = false ∧
        s.dev.lets mc (⟨.POOL_CTL, 0, 3⟩ : Loc) = true)) &&
    (meets (st fun d => [0, 1].foldl (fun (d : Dev) x => ((d.setReg .POOL_CTL x 3 (BitVec.ofNat 32 (8 * 2 ^ POOL_CTL.RING_ORDER.lo + 2 ^
      POOL_CTL.OWNERS.lo))).setReg .POOL_SIZE x 3 16).setReg .POOL_COUNT x 3 16) d) (.poolEnable mc 3 2) fun s _ =>
      decide (s.dev.leadBusy = false ∧ s.dev.cfgLog = [] ∧ s.dev.applied = [] ∧ s.dev.replicas ≠ [] ∧ (⟨.POOL_CTL, 0, 3⟩ : Loc).fits s.dev.n = true
        ∧ (⟨.POOL_CTL, 0, 3⟩ : Loc).isCfg = true ∧ (⟨.POOL_CTL, 0, 3⟩ : Loc).reg ≠ .MOV_CTL ∧ lockOf s.locks (⟨.POOL_CTL, 0, 3⟩ : Loc) = false ∧
        s.dev.lets mc (⟨.POOL_CTL, 0, 3⟩ : Loc) = true)) &&
    (meets (st fun d => [0, 1].foldl (fun (d : Dev) x => ((d.setReg .POOL_CTL x 3 0).setReg .POOL_SIZE x 3 16).setReg .POOL_COUNT x 3 16) d)
      (.poolEnable mc 3 255) fun s _ =>
      decide (s.dev.leadBusy = false ∧ s.dev.cfgLog = [] ∧ s.dev.applied = [] ∧ s.dev.replicas ≠ [] ∧ (⟨.POOL_CTL, 0, 3⟩ : Loc).fits s.dev.n = true
        ∧ (⟨.POOL_CTL, 0, 3⟩ : Loc).isCfg = true ∧ (⟨.POOL_CTL, 0, 3⟩ : Loc).reg ≠ .MOV_CTL ∧ lockOf s.locks (⟨.POOL_CTL, 0, 3⟩ : Loc) = false ∧
        s.dev.lets mc (⟨.POOL_CTL, 0, 3⟩ : Loc) = true)) &&
    (meets (st fun d => [0, 1].foldl (fun (d : Dev) x => ((d.setReg .POOL_CTL x 3 (BitVec.ofNat 32 (2 ^ 31 + 8 * 2 ^ POOL_CTL.RING_ORDER.lo + 2 ^
      POOL_CTL.OWNERS.lo))).setReg .POOL_SIZE x 3 16).setReg .POOL_COUNT x 3 16) d) (.poolDisable mc 3 255) fun s _ =>
      decide (s.dev.leadBusy = false ∧ s.dev.cfgLog = [] ∧ s.dev.applied = [] ∧ s.dev.replicas ≠ [] ∧ (⟨.POOL_CTL, 0, 3⟩ : Loc).fits s.dev.n = true
        ∧ (⟨.POOL_CTL, 0, 3⟩ : Loc).isCfg = true ∧ (⟨.POOL_CTL, 0, 3⟩ : Loc).reg ≠ .MOV_CTL ∧ lockOf s.locks (⟨.POOL_CTL, 0, 3⟩ : Loc) = false ∧
        s.dev.lets mc (⟨.POOL_CTL, 0, 3⟩ : Loc) = true)) &&
    (meets (st fun d => [0, 1].foldl (fun (d : Dev) x => ((d.setReg .POOL_CTL x 3 (BitVec.ofNat 32 (2 ^ 31 + 8 * 2 ^ POOL_CTL.RING_ORDER.lo + 2 ^
      POOL_CTL.OWNERS.lo))).setReg .POOL_SIZE x 3 16).setReg .POOL_COUNT x 3 16) d) (.poolDisable mc 3 2) fun s _ =>
      decide (s.dev.leadBusy = false ∧ s.dev.cfgLog = [] ∧ s.dev.applied = [] ∧ s.dev.replicas ≠ [] ∧ (⟨.POOL_CTL, 0, 3⟩ : Loc).fits s.dev.n = true
        ∧ (⟨.POOL_CTL, 0, 3⟩ : Loc).isCfg = true ∧ (⟨.POOL_CTL, 0, 3⟩ : Loc).reg ≠ .MOV_CTL ∧ lockOf s.locks (⟨.POOL_CTL, 0, 3⟩ : Loc) = false ∧
        s.dev.lets mc (⟨.POOL_CTL, 0, 3⟩ : Loc) = true)) &&
    (meets (st fun d => [0, 1].foldl (fun (d : Dev) x => ((d.setReg .RING_CTL x 3 0).setReg .RING_DESC_LO x 3 4096).setReg .RING_CPL_LO x 3 4096)
      d) (.ringConfigWrite mc 3 2 0x12345000 255) fun s _ =>
      decide (s.dev.leadBusy = false ∧ s.dev.cfgLog = [] ∧ s.dev.applied = [] ∧ s.dev.replicas ≠ [] ∧ (⟨.RING_DESC_LO, 0, 3⟩ : Loc).fits s.dev.n =
        true ∧ (⟨.RING_DESC_LO, 0, 3⟩ : Loc).isCfg = true ∧ (⟨.RING_DESC_LO, 0, 3⟩ : Loc).reg ≠ .MOV_CTL ∧ lockOf s.locks (⟨.RING_DESC_LO, 0, 3⟩ :
        Loc) = false ∧ s.dev.lets mc (⟨.RING_DESC_LO, 0, 3⟩ : Loc) = true)) &&
    (meets (st fun d => [0, 1].foldl (fun (d : Dev) x => ((d.setReg .RING_CTL x 3 0).setReg .RING_DESC_LO x 3 4096).setReg .RING_CPL_LO x 3 4096)
      d) (.ringConfigWrite mc 3 2 0x12345000 2) fun s _ =>
      decide (s.dev.leadBusy = false ∧ s.dev.cfgLog = [] ∧ s.dev.applied = [] ∧ s.dev.replicas ≠ [] ∧ (⟨.RING_DESC_LO, 0, 3⟩ : Loc).fits s.dev.n =
        true ∧ (⟨.RING_DESC_LO, 0, 3⟩ : Loc).isCfg = true ∧ (⟨.RING_DESC_LO, 0, 3⟩ : Loc).reg ≠ .MOV_CTL ∧ lockOf s.locks (⟨.RING_DESC_LO, 0, 3⟩ :
        Loc) = false ∧ s.dev.lets mc (⟨.RING_DESC_LO, 0, 3⟩ : Loc) = true)) &&
    (meets (st fun d => [0, 1].foldl (fun (d : Dev) x => ((d.setReg .RING_CTL x 3 (BitVec.ofNat 32 (2 ^ RING_CTL.HOME_DIE.lo + 8 * 2 ^
      RING_CTL.ORDER.lo))).setReg .RING_DESC_LO x 3 4096).setReg .RING_CPL_LO x 3 4096) d) (.ringEnable mc 3 255) fun s _ =>
      decide (s.dev.leadBusy = false ∧ s.dev.cfgLog = [] ∧ s.dev.applied = [] ∧ s.dev.replicas ≠ [] ∧ (⟨.RING_CTL, 0, 3⟩ : Loc).fits s.dev.n = true
        ∧ (⟨.RING_CTL, 0, 3⟩ : Loc).isCfg = true ∧ (⟨.RING_CTL, 0, 3⟩ : Loc).reg ≠ .MOV_CTL ∧ lockOf s.locks (⟨.RING_CTL, 0, 3⟩ : Loc) = false ∧
        s.dev.lets mc (⟨.RING_CTL, 0, 3⟩ : Loc) = true)) &&
    (meets (st fun d => [0, 1].foldl (fun (d : Dev) x => ((d.setReg .RING_CTL x 3 (BitVec.ofNat 32 (2 ^ RING_CTL.HOME_DIE.lo + 8 * 2 ^
      RING_CTL.ORDER.lo))).setReg .RING_DESC_LO x 3 4096).setReg .RING_CPL_LO x 3 4096) d) (.ringEnable mc 3 2) fun s _ =>
      decide (s.dev.leadBusy = false ∧ s.dev.cfgLog = [] ∧ s.dev.applied = [] ∧ s.dev.replicas ≠ [] ∧ (⟨.RING_CTL, 0, 3⟩ : Loc).fits s.dev.n = true
        ∧ (⟨.RING_CTL, 0, 3⟩ : Loc).isCfg = true ∧ (⟨.RING_CTL, 0, 3⟩ : Loc).reg ≠ .MOV_CTL ∧ lockOf s.locks (⟨.RING_CTL, 0, 3⟩ : Loc) = false ∧
        s.dev.lets mc (⟨.RING_CTL, 0, 3⟩ : Loc) = true)) &&
    (meets (st fun d => [0, 1].foldl (fun (d : Dev) x => ((d.setReg .RING_CTL x 3 0).setReg .RING_DESC_LO x 3 4096).setReg .RING_CPL_LO x 3 4096)
      d) (.ringEnable mc 3 255) fun s _ =>
      decide (s.dev.leadBusy = false ∧ s.dev.cfgLog = [] ∧ s.dev.applied = [] ∧ s.dev.replicas ≠ [] ∧ (⟨.RING_CTL, 0, 3⟩ : Loc).fits s.dev.n = true
        ∧ (⟨.RING_CTL, 0, 3⟩ : Loc).isCfg = true ∧ (⟨.RING_CTL, 0, 3⟩ : Loc).reg ≠ .MOV_CTL ∧ lockOf s.locks (⟨.RING_CTL, 0, 3⟩ : Loc) = false ∧
        s.dev.lets mc (⟨.RING_CTL, 0, 3⟩ : Loc) = true)) &&
    (meets (st fun d => [0, 1].foldl (fun (d : Dev) x => ((d.setReg .RING_CTL x 3 (BitVec.ofNat 32 (2 ^ 31 + (2 ^ RING_CTL.HOME_DIE.lo + 8 * 2 ^
      RING_CTL.ORDER.lo)))).setReg .RING_DESC_LO x 3 4096).setReg .RING_CPL_LO x 3 4096) d) (.ringDisable mc 3 255) fun s _ =>
      decide (s.dev.leadBusy = false ∧ s.dev.cfgLog = [] ∧ s.dev.applied = [] ∧ s.dev.replicas ≠ [] ∧ (⟨.RING_CTL, 0, 3⟩ : Loc).fits s.dev.n = true
        ∧ (⟨.RING_CTL, 0, 3⟩ : Loc).isCfg = true ∧ (⟨.RING_CTL, 0, 3⟩ : Loc).reg ≠ .MOV_CTL ∧ lockOf s.locks (⟨.RING_CTL, 0, 3⟩ : Loc) = false ∧
        s.dev.lets mc (⟨.RING_CTL, 0, 3⟩ : Loc) = true)) &&
    (meets (st fun d => [0, 1].foldl (fun (d : Dev) x => ((d.setReg .RING_CTL x 3 (BitVec.ofNat 32 (2 ^ 31 + (2 ^ RING_CTL.HOME_DIE.lo + 8 * 2 ^
      RING_CTL.ORDER.lo)))).setReg .RING_DESC_LO x 3 4096).setReg .RING_CPL_LO x 3 4096) d) (.ringDisable mc 3 2) fun s _ =>
      decide (s.dev.leadBusy = false ∧ s.dev.cfgLog = [] ∧ s.dev.applied = [] ∧ s.dev.replicas ≠ [] ∧ (⟨.RING_CTL, 0, 3⟩ : Loc).fits s.dev.n = true
        ∧ (⟨.RING_CTL, 0, 3⟩ : Loc).isCfg = true ∧ (⟨.RING_CTL, 0, 3⟩ : Loc).reg ≠ .MOV_CTL ∧ lockOf s.locks (⟨.RING_CTL, 0, 3⟩ : Loc) = false ∧
        s.dev.lets mc (⟨.RING_CTL, 0, 3⟩ : Loc) = true)) &&
    (meets (st id) (.stripeConfigWrite mc 3 0 0x80000001 255) fun s _ =>
      decide (s.dev.leadBusy = false ∧ s.dev.cfgLog = [] ∧ s.dev.applied = [] ∧ s.dev.replicas ≠ [] ∧ (⟨.STRIPE_CTL, 0, 3⟩ : Loc).fits s.dev.n =
        true ∧ (⟨.STRIPE_CTL, 0, 3⟩ : Loc).isCfg = true ∧ (⟨.STRIPE_CTL, 0, 3⟩ : Loc).reg ≠ .MOV_CTL ∧ lockOf s.locks (⟨.STRIPE_CTL, 0, 3⟩ : Loc) =
        false ∧ s.dev.lets mc (⟨.STRIPE_CTL, 0, 3⟩ : Loc) = true)) &&
    (meets (st id) (.stripeConfigWrite mc 3 0 0x80000001 2) fun s _ =>
      decide (s.dev.leadBusy = false ∧ s.dev.cfgLog = [] ∧ s.dev.applied = [] ∧ s.dev.replicas ≠ [] ∧ (⟨.STRIPE_CTL, 0, 3⟩ : Loc).fits s.dev.n =
        true ∧ (⟨.STRIPE_CTL, 0, 3⟩ : Loc).isCfg = true ∧ (⟨.STRIPE_CTL, 0, 3⟩ : Loc).reg ≠ .MOV_CTL ∧ lockOf s.locks (⟨.STRIPE_CTL, 0, 3⟩ : Loc) =
        false ∧ s.dev.lets mc (⟨.STRIPE_CTL, 0, 3⟩ : Loc) = true)) &&
    (meets (st id) (.tapConfigWrite mc 3 0 0x80000001 255) fun s _ =>
      decide (s.dev.leadBusy = false ∧ s.dev.cfgLog = [] ∧ s.dev.applied = [] ∧ s.dev.replicas ≠ [] ∧ (⟨.TAP_CTL, 0, 3⟩ : Loc).fits s.dev.n = true
        ∧ (⟨.TAP_CTL, 0, 3⟩ : Loc).isCfg = true ∧ (⟨.TAP_CTL, 0, 3⟩ : Loc).reg ≠ .MOV_CTL ∧ lockOf s.locks (⟨.TAP_CTL, 0, 3⟩ : Loc) = false ∧
        s.dev.lets mc (⟨.TAP_CTL, 0, 3⟩ : Loc) = true)) &&
    (meets (st id) (.tapConfigWrite mc 3 0 0x80000001 2) fun s _ =>
      decide (s.dev.leadBusy = false ∧ s.dev.cfgLog = [] ∧ s.dev.applied = [] ∧ s.dev.replicas ≠ [] ∧ (⟨.TAP_CTL, 0, 3⟩ : Loc).fits s.dev.n = true
        ∧ (⟨.TAP_CTL, 0, 3⟩ : Loc).isCfg = true ∧ (⟨.TAP_CTL, 0, 3⟩ : Loc).reg ≠ .MOV_CTL ∧ lockOf s.locks (⟨.TAP_CTL, 0, 3⟩ : Loc) = false ∧
        s.dev.lets mc (⟨.TAP_CTL, 0, 3⟩ : Loc) = true))) = true := by
  decide +kernel

theorem witness_ConfigurationApplied :
    ((meets (st fun d => { ((id) d : Dev) with cfgLog := [⟨(⟨.PKG_BB_CTRL_BASE_LO, 0, 0⟩ : Loc).offset, 0x5A5A5A5A#32, 0xFFFF0000#32, 8⟩] })
      (.pkgConfigApply 1) fun s _ =>
      decide ((⟨.PKG_BB_CTRL_BASE_LO, 0, 0⟩ : Loc).fits s.dev.n = true ∧ (⟨(⟨.PKG_BB_CTRL_BASE_LO, 0, 0⟩ : Loc).offset, 0x5A5A5A5A#32,
        0xFFFF0000#32, 8⟩ : CfgWrite).off = (⟨.PKG_BB_CTRL_BASE_LO, 0, 0⟩ : Loc).offset ∧ s.dev.cfgLog = [⟨(⟨.PKG_BB_CTRL_BASE_LO, 0, 0⟩ :
        Loc).offset, 0x5A5A5A5A#32, 0xFFFF0000#32, 8⟩] ∧ s.dev.appliedAt 1 = 0)) &&
    (meets (st fun d => { ((id) d : Dev) with cfgLog := [⟨(⟨.PKG_BB_CTRL_BASE_HI, 0, 0⟩ : Loc).offset, 0x5A5A5A5A#32, 0xFFFF0000#32, 8⟩] })
      (.pkgConfigApply 1) fun s _ =>
      decide ((⟨.PKG_BB_CTRL_BASE_HI, 0, 0⟩ : Loc).fits s.dev.n = true ∧ (⟨(⟨.PKG_BB_CTRL_BASE_HI, 0, 0⟩ : Loc).offset, 0x5A5A5A5A#32,
        0xFFFF0000#32, 8⟩ : CfgWrite).off = (⟨.PKG_BB_CTRL_BASE_HI, 0, 0⟩ : Loc).offset ∧ s.dev.cfgLog = [⟨(⟨.PKG_BB_CTRL_BASE_HI, 0, 0⟩ :
        Loc).offset, 0x5A5A5A5A#32, 0xFFFF0000#32, 8⟩] ∧ s.dev.appliedAt 1 = 0)) &&
    (meets (st fun d => { ((id) d : Dev) with cfgLog := [⟨(⟨.PKG_BB_CTRL_PORTS_LO, 0, 0⟩ : Loc).offset, 0x5A5A5A5A#32, 0xFFFF0000#32, 8⟩] })
      (.pkgConfigApply 1) fun s _ =>
      decide ((⟨.PKG_BB_CTRL_PORTS_LO, 0, 0⟩ : Loc).fits s.dev.n = true ∧ (⟨(⟨.PKG_BB_CTRL_PORTS_LO, 0, 0⟩ : Loc).offset, 0x5A5A5A5A#32,
        0xFFFF0000#32, 8⟩ : CfgWrite).off = (⟨.PKG_BB_CTRL_PORTS_LO, 0, 0⟩ : Loc).offset ∧ s.dev.cfgLog = [⟨(⟨.PKG_BB_CTRL_PORTS_LO, 0, 0⟩ :
        Loc).offset, 0x5A5A5A5A#32, 0xFFFF0000#32, 8⟩] ∧ s.dev.appliedAt 1 = 0)) &&
    (meets (st fun d => { ((id) d : Dev) with cfgLog := [⟨(⟨.PKG_BB_CTRL_PORTS_HI, 0, 0⟩ : Loc).offset, 0x5A5A5A5A#32, 0xFFFF0000#32, 8⟩] })
      (.pkgConfigApply 1) fun s _ =>
      decide ((⟨.PKG_BB_CTRL_PORTS_HI, 0, 0⟩ : Loc).fits s.dev.n = true ∧ (⟨(⟨.PKG_BB_CTRL_PORTS_HI, 0, 0⟩ : Loc).offset, 0x5A5A5A5A#32,
        0xFFFF0000#32, 8⟩ : CfgWrite).off = (⟨.PKG_BB_CTRL_PORTS_HI, 0, 0⟩ : Loc).offset ∧ s.dev.cfgLog = [⟨(⟨.PKG_BB_CTRL_PORTS_HI, 0, 0⟩ :
        Loc).offset, 0x5A5A5A5A#32, 0xFFFF0000#32, 8⟩] ∧ s.dev.appliedAt 1 = 0)) &&
    (meets (st fun d => { ((id) d : Dev) with cfgLog := [⟨(⟨.IRQ_NMI_CTL, 0, 0⟩ : Loc).offset, 0x5A5A5A5A#32, 0xFFFF0000#32, 8⟩] })
      (.pkgConfigApply 1) fun s _ =>
      decide ((⟨.IRQ_NMI_CTL, 0, 0⟩ : Loc).fits s.dev.n = true ∧ (⟨(⟨.IRQ_NMI_CTL, 0, 0⟩ : Loc).offset, 0x5A5A5A5A#32, 0xFFFF0000#32, 8⟩ :
        CfgWrite).off = (⟨.IRQ_NMI_CTL, 0, 0⟩ : Loc).offset ∧ s.dev.cfgLog = [⟨(⟨.IRQ_NMI_CTL, 0, 0⟩ : Loc).offset, 0x5A5A5A5A#32, 0xFFFF0000#32, 8⟩]
        ∧ s.dev.appliedAt 1 = 0)) &&
    (meets (st fun d => { ((id) d : Dev) with cfgLog := [⟨(⟨.PLAY_CONCEAL_LO, 0, 0⟩ : Loc).offset, 0x5A5A5A5A#32, 0xFFFF0000#32, 8⟩] })
      (.pkgConfigApply 1) fun s _ =>
      decide ((⟨.PLAY_CONCEAL_LO, 0, 0⟩ : Loc).fits s.dev.n = true ∧ (⟨(⟨.PLAY_CONCEAL_LO, 0, 0⟩ : Loc).offset, 0x5A5A5A5A#32, 0xFFFF0000#32, 8⟩ :
        CfgWrite).off = (⟨.PLAY_CONCEAL_LO, 0, 0⟩ : Loc).offset ∧ s.dev.cfgLog = [⟨(⟨.PLAY_CONCEAL_LO, 0, 0⟩ : Loc).offset, 0x5A5A5A5A#32,
        0xFFFF0000#32, 8⟩] ∧ s.dev.appliedAt 1 = 0)) &&
    (meets (st fun d => { ((id) d : Dev) with cfgLog := [⟨(⟨.PLAY_CONCEAL_HI, 0, 0⟩ : Loc).offset, 0x5A5A5A5A#32, 0xFFFF0000#32, 8⟩] })
      (.pkgConfigApply 1) fun s _ =>
      decide ((⟨.PLAY_CONCEAL_HI, 0, 0⟩ : Loc).fits s.dev.n = true ∧ (⟨(⟨.PLAY_CONCEAL_HI, 0, 0⟩ : Loc).offset, 0x5A5A5A5A#32, 0xFFFF0000#32, 8⟩ :
        CfgWrite).off = (⟨.PLAY_CONCEAL_HI, 0, 0⟩ : Loc).offset ∧ s.dev.cfgLog = [⟨(⟨.PLAY_CONCEAL_HI, 0, 0⟩ : Loc).offset, 0x5A5A5A5A#32,
        0xFFFF0000#32, 8⟩] ∧ s.dev.appliedAt 1 = 0)) &&
    (meets (st fun d => { ((id) d : Dev) with cfgLog := [⟨(⟨.TC_INVAL_PAGE, 0, 0⟩ : Loc).offset, 0x5A5A5A5A#32, 0xFFFF0000#32, 8⟩] })
      (.pkgConfigApply 1) fun s _ =>
      decide ((⟨.TC_INVAL_PAGE, 0, 0⟩ : Loc).fits s.dev.n = true ∧ (⟨(⟨.TC_INVAL_PAGE, 0, 0⟩ : Loc).offset, 0x5A5A5A5A#32, 0xFFFF0000#32, 8⟩ :
        CfgWrite).off = (⟨.TC_INVAL_PAGE, 0, 0⟩ : Loc).offset ∧ s.dev.cfgLog = [⟨(⟨.TC_INVAL_PAGE, 0, 0⟩ : Loc).offset, 0x5A5A5A5A#32, 0xFFFF0000#32,
        8⟩] ∧ s.dev.appliedAt 1 = 0)) &&
    (meets (st fun d =>
      { ((fun d => (d.setReg .PROT_DEFAULT 1 0 5).setFld PROT_CTL.DIRTY 1 0 1) d : Dev) with cfgLog := [⟨(⟨.PROT_CTL, 0, 0⟩ : Loc).offset, 1#32, 0#32, 8⟩] })
      (.pkgConfigApply 1) fun s _ =>
      decide ((⟨.PROT_CTL, 0, 0⟩ : Loc).fits s.dev.n = true ∧ (⟨(⟨.PROT_CTL, 0, 0⟩ : Loc).offset, 1#32, 0#32, 8⟩ : CfgWrite).off = (⟨.PROT_CTL, 0,
        0⟩ : Loc).offset ∧ s.dev.cfgLog = [⟨(⟨.PROT_CTL, 0, 0⟩ : Loc).offset, 1#32, 0#32, 8⟩] ∧ s.dev.appliedAt 1 = 0)) &&
    (meets (st fun d =>
      { ((fun d => (d.setReg .PROT_DEFAULT 1 0 5).setFld PROT_CTL.DIRTY 1 0 1) d : Dev) with cfgLog := [⟨(⟨.PROT_CTL, 0, 0⟩ : Loc).offset, 2#32, 0#32, 8⟩] })
      (.pkgConfigApply 1) fun s _ =>
      decide ((⟨.PROT_CTL, 0, 0⟩ : Loc).fits s.dev.n = true ∧ (⟨(⟨.PROT_CTL, 0, 0⟩ : Loc).offset, 2#32, 0#32, 8⟩ : CfgWrite).off = (⟨.PROT_CTL, 0,
        0⟩ : Loc).offset ∧ s.dev.cfgLog = [⟨(⟨.PROT_CTL, 0, 0⟩ : Loc).offset, 2#32, 0#32, 8⟩] ∧ s.dev.appliedAt 1 = 0)) &&
    (meets (st fun d =>
      { ((fun d => d.modTc 1 fun t => { t with lines := [⟨false, 3, false, 0, [1]⟩] }) d : Dev) with cfgLog := [⟨(⟨.TC_INVAL, 0, 0⟩ : Loc).offset, 0x80000000#32, 0#32, 8⟩] })
      (.pkgConfigApply 1) fun s _ =>
      decide ((⟨.TC_INVAL, 0, 0⟩ : Loc).fits s.dev.n = true ∧ (⟨(⟨.TC_INVAL, 0, 0⟩ : Loc).offset, 0x80000000#32, 0#32, 8⟩ : CfgWrite).off =
        (⟨.TC_INVAL, 0, 0⟩ : Loc).offset ∧ s.dev.cfgLog = [⟨(⟨.TC_INVAL, 0, 0⟩ : Loc).offset, 0x80000000#32, 0#32, 8⟩] ∧ s.dev.appliedAt 1 = 0)) &&
    (meets (st fun d => { ((id) d : Dev) with cfgLog := [⟨(⟨.TC_SWITCH, 0, 0⟩ : Loc).offset, 9#32, 0#32, 8⟩] }) (.pkgConfigApply 1) fun s _ =>
      decide ((⟨.TC_SWITCH, 0, 0⟩ : Loc).fits s.dev.n = true ∧ (⟨(⟨.TC_SWITCH, 0, 0⟩ : Loc).offset, 9#32, 0#32, 8⟩ : CfgWrite).off = (⟨.TC_SWITCH,
        0, 0⟩ : Loc).offset ∧ s.dev.cfgLog = [⟨(⟨.TC_SWITCH, 0, 0⟩ : Loc).offset, 9#32, 0#32, 8⟩] ∧ s.dev.appliedAt 1 = 0)) &&
    (meets (st fun d =>
      { ((fun d => d.setReg .WIN_O_CTL 1 3 0x80000000#32) d : Dev) with cfgLog := [⟨(⟨.WIN_O_CTL, 0, 3⟩ : Loc).offset, 0#32, 0x80000000#32, 8⟩] })
      (.pkgConfigApply 1) fun s _ =>
      decide ((⟨.WIN_O_CTL, 0, 3⟩ : Loc).fits s.dev.n = true ∧ (⟨(⟨.WIN_O_CTL, 0, 3⟩ : Loc).offset, 0#32, 0x80000000#32, 8⟩ : CfgWrite).off =
        (⟨.WIN_O_CTL, 0, 3⟩ : Loc).offset ∧ s.dev.cfgLog = [⟨(⟨.WIN_O_CTL, 0, 3⟩ : Loc).offset, 0#32, 0x80000000#32, 8⟩] ∧ s.dev.appliedAt 1 = 0)) &&
    (meets (st fun d =>
      { ((fun d => d.setReg .WIN_I_CTL 1 3 0x80000000#32) d : Dev) with cfgLog := [⟨(⟨.WIN_I_CTL, 0, 3⟩ : Loc).offset, 0#32, 0x80000000#32, 8⟩] })
      (.pkgConfigApply 1) fun s _ =>
      decide ((⟨.WIN_I_CTL, 0, 3⟩ : Loc).fits s.dev.n = true ∧ (⟨(⟨.WIN_I_CTL, 0, 3⟩ : Loc).offset, 0#32, 0x80000000#32, 8⟩ : CfgWrite).off =
        (⟨.WIN_I_CTL, 0, 3⟩ : Loc).offset ∧ s.dev.cfgLog = [⟨(⟨.WIN_I_CTL, 0, 3⟩ : Loc).offset, 0#32, 0x80000000#32, 8⟩] ∧ s.dev.appliedAt 1 = 0))) =
        true := by
  decide +kernel

theorem witness_ProtectedWords :
    ((meets (st fun d => let l : Loc := ⟨.DIE_Q_CFG, 1, 3⟩; { d with upsets := d.upsets.set none l.key (some (d.raw l, d.raw l + 0x20000#32)) })
      (.scrubVisit 1 (⟨.DIE_Q_CFG, 1, 3⟩ : Loc).offset) fun s _ =>
      decide (let l : Loc := ⟨.DIE_Q_CFG, 1, 3⟩; s.dev.variant ≠ .ez8 ∧ l.reg.isP = true ∧ l.fits s.dev.n = true ∧ l.reg.spec.block ≠ .pkg ∧
        l.isCfg = false ∧ l.keeper = 1 ∧ s.dev.upsets.get none l.key = some (s.dev.raw l, s.dev.raw l + 0x20000#32) ∧ s.dev.raw l &&& l.reg.pMask ≠
        (s.dev.raw l + 0x20000#32) &&& l.reg.pMask)) &&
    (meets (st fun d => let l : Loc := ⟨.TIL_BOND, 9, 0⟩;
      { d with upsets := d.upsets.set none l.key (some (d.raw l ^^^ 1#32, d.raw l ^^^ 2#32)), leadCopy := d.leadCopy.set none l.key (some (BitVec.ofNat 32 (9 ^^^ 1))) })
      (.scrubVisit 1 (⟨.TIL_BOND, 9, 0⟩ : Loc).offset) fun s _ =>
      decide (let l : Loc := ⟨.TIL_BOND, 9, 0⟩; let b := s.dev.raw l ^^^ 1#32; let c := s.dev.raw l ^^^ 2#32; s.dev.variant ≠ .ez8 ∧ l.reg.isP =
        true ∧ l.fits s.dev.n = true ∧ l.reg.spec.block ≠ .pkg ∧ l.isCfg = false ∧ l.keeper = 1 ∧ s.dev.upsets.get none l.key = some (b, c) ∧
        s.dev.raw l &&& l.reg.pMask ≠ b &&& l.reg.pMask ∧ s.dev.raw l &&& l.reg.pMask ≠ c &&& l.reg.pMask ∧ b &&& l.reg.pMask ≠ c &&& l.reg.pMask ∧
        s.dev.leadCopy.get none l.key = some (BitVec.ofNat 32 (9 ^^^ 1)))) &&
    (meets ⟨[], Locks.clear, (({ Dev.initial .ez8 with fen := { asserted := false } } : Dev).setFld PKG_SEAL_STAT.SEALED 0 0 2)⟩
      (.sealPassEnd 1) fun s _ => decide (s.dev.variant = .ez8 ∧ (s.dev.fld PKG_SEAL_STAT.SEALED).testBit 1 = true ∧
        (s.dev.fld PKG_SEAL_STAT.OPEN).testBit 1 = false ∧ s.dev.sealStop.contains 1 = false ∧ s.dev.upsets = [])) &&
    (meets (st id) (.scrubVisit 1 (Loc.offset ⟨.CLK_CTL, 1, 0⟩)) fun _ _ =>
      decide (True)) &&
    (meets (st id) (.sealPassEnd 1) fun _ _ =>
      decide (True))) = true := by
  decide +kernel

theorem witness_QueuesLoseItems :
    ((meets (st fun d => d.modQueue 1 60 fun q => { q with items := [[1, 2], [3]], pushed := 9, popped := 4, cursor := 1 }) (.queueFlush mc 1 60)
      fun s _ =>
      decide ((s.dev.queue 1 60).held = [] ∧ s.dev.lets mc ⟨.DIE_Q_CTL, 1, 60⟩ = true)) &&
    (meets (st fun d => d.modQueue 1 61 fun q => { q with items := [[1, 2], [3]], pushed := 9, popped := 4 }) (.queueFlush mc 1 61) fun s _ =>
      decide ((s.dev.queue 1 61).held = [] ∧ s.dev.lets mc ⟨.DIE_Q_CTL, 1, 61⟩ = true)) &&
    (meets (st fun d => d.modQueue 1 62 fun q => { q with items := [[1]] }) (.queueFlush mc 1 62) fun s _ =>
      decide (s.dev.lets mc ⟨.DIE_Q_CTL, 1, 62⟩ = true)) &&
    (meets (st id) (.queueFlush mc 1 7) fun s _ =>
      decide (s.dev.lets mc ⟨.DIE_Q_CTL, 1, 7⟩ = true)) &&
    (meets (st fun d => (d.modQueue 1 60 fun q => { q with items := [[1]] }).setFld DIE_Q_CFG.TAIL 1 60 5) (.queueTailTimeout 1 60) fun s _ =>
      decide ((s.dev.queue 1 60).items ≠ [] ∧ s.dev.fld DIE_Q_CFG.TAIL 1 60 ≠ 0 ∧ (s.dev.queue 1 60).noticed = false)) &&
    (meets (st fun d => (d.modQueue 1 60 fun q => { q with items := [[1]], noticed := true }).setFld DIE_Q_CFG.TAIL 1 60 5) (.queueTailTimeout 1
      60) fun s _ =>
      decide ((s.dev.queue 1 60).items ≠ [] ∧ s.dev.fld DIE_Q_CFG.TAIL 1 60 ≠ 0 ∧ (s.dev.queue 1 60).noticed = true)) &&
    (meets (st fun d => d.modQueue 1 60 fun q => { q with items := [[1]], pushed := 9, popped := 8 }) (.queuePointerMismatch 1 60) fun s _ =>
      decide ((s.dev.queue 1 60).held = [])) &&
    (meets (st fun d => d.modQueue 1 20 fun q => { q with items := [[1, 2]] }) (.queuePointerMismatch 1 20) fun _ _ =>
      decide (True)) &&
    (meets (st fun d => (d.setFld DIE_Q_CFG.TAIL 1 16 4).modQueue 1 16 fun q => { q with items := [[1, 2]] }) (.queueTailTimeout 1 16) fun s _ =>
      decide (s.dev.Runs 1))) = true := by
  decide +kernel

theorem witness_Bonds :
    ((meets (st (up 1 ∘ up 0)) (.tilBondWrite mc 0 (2 ^ 31 + 0)) fun s _ =>
      decide (0 < 8 * s.dev.n ∧ s.dev.lets mc ⟨.TIL_BOND, 0, 0⟩ = true ∧ s.dev.upsets = [] ∧ (∀ q ∈ ([0, 1] : List Nat), s.dev.tileServing q = true
        ∧ s.dev.fld BB_LINK_STAT.STATE q = 3) ∧ partnerTile 0 = 1 ∧ s.dev.reg .TIL_BOND 0 = BitVec.ofNat 32 (0 ^^^ 1))) &&
    (meets (st (up 1 ∘ up 0)) (.tilBondWrite mc 0 (2 ^ 31 + 5)) fun s _ =>
      decide (0 < 8 * s.dev.n ∧ s.dev.lets mc ⟨.TIL_BOND, 0, 0⟩ = true ∧ s.dev.upsets = [] ∧ (∀ q ∈ ([0, 1] : List Nat), s.dev.tileServing q = true
        ∧ s.dev.fld BB_LINK_STAT.STATE q = 3) ∧ partnerTile 0 = 1 ∧ s.dev.reg .TIL_BOND 0 = BitVec.ofNat 32 (0 ^^^ 1) ∧ dieOf 5 = dieOf 0)) &&
    (meets (st fun d => (up 1 (up 0 d)).setReg .TIL_BOND 1 0 0#32) (.tilBondWrite mc 0 (2 ^ 31 + 1)) fun s _ =>
      decide (s.dev.lets mc ⟨.TIL_BOND, 0, 0⟩ = true ∧ s.dev.upsets = [] ∧ (∀ q ∈ ([0, 1] : List Nat), s.dev.tileServing q = true ∧ s.dev.fld
        BB_LINK_STAT.STATE q = 3) ∧ partnerTile 0 = 1 ∧ s.dev.reg .TIL_BOND 0 = BitVec.ofNat 32 (0 ^^^ 1) ∧ s.dev.reg .TIL_BOND 1 = BitVec.ofNat 32
        0)) &&
    (meets (st fun d => (up 1 (up 0 d)).setReg .TIL_BOND 1 0 (BitVec.ofNat 32 (2 ^ 31 + 2 ^ 28 + 0))) (.tilBondWrite mc 0 (2 ^ 31 + 1)) fun s _ =>
      decide (s.dev.lets mc ⟨.TIL_BOND, 0, 0⟩ = true ∧ s.dev.upsets = [] ∧ (∀ q ∈ ([0, 1] : List Nat), s.dev.tileServing q = true ∧ s.dev.fld
        BB_LINK_STAT.STATE q = 3) ∧ partnerTile 0 = 1 ∧ s.dev.reg .TIL_BOND 0 = BitVec.ofNat 32 (0 ^^^ 1) ∧ s.dev.reg .TIL_BOND 1 = BitVec.ofNat 32 (2
        ^ 31 + 2 ^ 28 + 0))) &&
    (meets (st fun d => (up 1 (up 0 d)).setReg .TIL_BOND 0 0 (BitVec.ofNat 32 (2 ^ 31 + 2 * 2 ^ 28 + 1))) (.bondBreak mc 0) fun s _ =>
      decide (s.dev.lets mc ⟨.TIL_BOND, 0, 0⟩ = true ∧ s.dev.upsets = [] ∧ (∀ q ∈ ([0, 1] : List Nat), s.dev.tileServing q = true ∧ (s.dev.port
        q).works = [] ∧ (s.dev.port q).outOpen = none) ∧ partnerTile 0 = 1 ∧ s.dev.reg .TIL_BOND 0 = BitVec.ofNat 32 (2 ^ 31 + 2 * 2 ^ 28 + 1))) &&
    (meets (st fun d => (up 1 (up 0 d)).setReg .TIL_BOND 0 0 (BitVec.ofNat 32 (2 ^ 31 + 1 * 2 ^ 28 + 1))) (.bondBreak mc 0) fun s _ =>
      decide (s.dev.lets mc ⟨.TIL_BOND, 0, 0⟩ = true ∧ s.dev.upsets = [] ∧ (∀ q ∈ ([0, 1] : List Nat), s.dev.tileServing q = true ∧ (s.dev.port
        q).works = [] ∧ (s.dev.port q).outOpen = none) ∧ partnerTile 0 = 1 ∧ s.dev.reg .TIL_BOND 0 = BitVec.ofNat 32 (2 ^ 31 + 1 * 2 ^ 28 + 1))) &&
    (meets (st fun d => (up 1 (up 0 d)).setReg .TIL_BOND 0 0 (BitVec.ofNat 32 (2 ^ 31 + 3 * 2 ^ 28 + 1))) (.bondBreak mc 0) fun s _ =>
      decide (s.dev.lets mc ⟨.TIL_BOND, 0, 0⟩ = true ∧ s.dev.upsets = [] ∧ (∀ q ∈ ([0, 1] : List Nat), s.dev.tileServing q = true ∧ (s.dev.port
        q).works = [] ∧ (s.dev.port q).outOpen = none) ∧ partnerTile 0 = 1 ∧ s.dev.reg .TIL_BOND 0 = BitVec.ofNat 32 (2 ^ 31 + 3 * 2 ^ 28 + 1)))) =
        true := by
  decide +kernel

theorem witness_Evacuation :
    ((meets (st id) (.evacuate mc 0) fun s _ =>
      decide (s.dev.reg .TIL_BOND 0 = BitVec.ofNat 32 (0 ^^^ 1) ∧ s.dev.lets mc ⟨.TIL_SVC, 0, 0⟩ = true ∧ s.dev.fld TIL_SVC_STAT.STATE 0 = 0 ∧
        s.dev.fld TIL_SVC_STAT.STATE (partnerTile 0) = 0 ∧ s.dev.flag TIL_SVC_STAT.CARRYING (partnerTile 0) = false)) &&
    (meets (st fun d => d.setFld TIL_SVC_STAT.STATE 0 0 1) (.evacuate mc 0) fun s _ =>
      decide (s.dev.reg .TIL_BOND 0 = BitVec.ofNat 32 (0 ^^^ 1) ∧ s.dev.lets mc ⟨.TIL_SVC, 0, 0⟩ = true ∧ s.dev.fld TIL_SVC_STAT.STATE 0 ≠ 0)) &&
    (meets (st fun d => d.setFld TIL_SVC_STAT.STATE (partnerTile 0) 0 2) (.evacuate mc 0) fun s _ =>
      decide (s.dev.reg .TIL_BOND 0 = BitVec.ofNat 32 (0 ^^^ 1) ∧ s.dev.lets mc ⟨.TIL_SVC, 0, 0⟩ = true ∧ s.dev.fld TIL_SVC_STAT.STATE 0 = 0 ∧
        s.dev.fld TIL_SVC_STAT.STATE (partnerTile 0) ≠ 0)) &&
    (meets (st fun d => d.setFld TIL_SVC_STAT.CARRYING (partnerTile 0) 0 1) (.evacuate mc 0) fun s _ =>
      decide (s.dev.reg .TIL_BOND 0 = BitVec.ofNat 32 (0 ^^^ 1) ∧ s.dev.lets mc ⟨.TIL_SVC, 0, 0⟩ = true ∧ s.dev.fld TIL_SVC_STAT.STATE 0 = 0 ∧
        s.dev.fld TIL_SVC_STAT.STATE (partnerTile 0) = 0 ∧ s.dev.flag TIL_SVC_STAT.CARRYING (partnerTile 0) = true)) &&
    (meets (st fun d => ((d.setFld TIL_SVC_STAT.STATE 0 0 2).setFld TIL_SVC_STAT.CARRIER 0 0 (partnerTile 0)).setFld TIL_SVC_STAT.CARRYING
      (partnerTile 0) 0 1) (.tileReturn mc 0) fun s _ =>
      decide (s.dev.reg .TIL_BOND 0 = BitVec.ofNat 32 (0 ^^^ 1) ∧ s.dev.lets mc ⟨.TIL_SVC, 0, 0⟩ = true ∧ s.dev.fld TIL_SVC_STAT.STATE 0 = 2 ∧
        s.dev.portQuiet 0 = true ∧ s.dev.fld TIL_SVC_STAT.CARRIER 0 = partnerTile 0)) &&
    (meets (st fun d => d.setFld TIL_SVC_STAT.STATE 0 0 5) (.tileReturn mc 0) fun s _ =>
      decide (s.dev.reg .TIL_BOND 0 = BitVec.ofNat 32 (0 ^^^ 1) ∧ s.dev.lets mc ⟨.TIL_SVC, 0, 0⟩ = true ∧ s.dev.fld TIL_SVC_STAT.STATE 0 = 5)) &&
    (meets (st fun d => d.setFld TIL_SVC_STAT.STATE 0 0 1) (.evacuationDrained 0) fun s _ =>
      decide (s.dev.reg .TIL_BOND 0 = BitVec.ofNat 32 (0 ^^^ 1) ∧ s.dev.fld TIL_SVC_STAT.STATE 0 = 1 ∧ s.dev.portQuiet 0 = true ∧ (s.dev.port 0).pf
        = [])) &&
    (meets (st fun d => initr (crs true) (d.setFld TIL_SVC_STAT.STATE 0 0 1)) (.evacuationDrained 0) fun s _ =>
      decide (s.dev.reg .TIL_BOND 0 = BitVec.ofNat 32 (0 ^^^ 1) ∧ s.dev.portQuiet 0 = false))) = true := by
  decide +kernel

theorem witness_TileResets :
    ((meets (st fun d => (d.setFld TIL_SVC_STAT.STATE 0 0 2).setFld TIL_SVC_STAT.FAULTS 0 0 9) (.tileReset mc 0) fun s _ =>
      decide (s.dev.lets mc ⟨.TIL_SVC, 0, 0⟩ = true ∧ s.dev.fld TIL_SVC_STAT.STATE 0 = 2)) &&
    (meets (st id) (.tileReset mc 0) fun s _ =>
      decide (s.dev.lets mc ⟨.TIL_SVC, 0, 0⟩ = true ∧ s.dev.fld TIL_SVC_STAT.STATE 0 ≠ 2 ∧ s.dev.fld TIL_SVC_STAT.STATE 0 ≠ 5)) &&
    (meets (st fun d => d.setFld TIL_SVC_STAT.STATE 0 0 3) (.tileResetDone 0 true) fun s _ =>
      decide (s.dev.fld TIL_SVC_STAT.STATE 0 = 3)) &&
    (meets (st fun d => d.setFld TIL_SVC_STAT.STATE 0 0 3) (.tileResetDone 0 false) fun s _ =>
      decide (s.dev.fld TIL_SVC_STAT.STATE 0 = 3)) &&
    (meets (st id) (.tileResetDone 0 false) fun s _ =>
      decide (s.dev.fld TIL_SVC_STAT.STATE 0 ≠ 3))) = true := by
  decide +kernel

theorem witness_TileFaultsAndRecal :
    ((meets (st id) (.tileFault 0) fun s _ =>
      decide (s.dev.reg .TIL_BOND 0 = BitVec.ofNat 32 (0 ^^^ 1) ∧ s.dev.fld TIL_SVC_STAT.STATE 0 = 0 ∧ s.dev.flag TIL_SVC_STAT.CARRYING 0 = false ∧
        s.dev.fld TIL_SVC_STAT.STATE (partnerTile 0) = 0 ∧ s.dev.flag TIL_SVC_STAT.CARRYING (partnerTile 0) = false ∧ s.dev.portQuiet 0 = true ∧ (∀ w
        ∈ (s.dev.port 0).works, w.came = true → w.begun = true))) &&
    (meets (st fun d => d.setFld TIL_SVC_STAT.STATE 0 0 2) (.tileFault 0) fun s _ =>
      decide (s.dev.fld TIL_SVC_STAT.STATE 0 = 2)) &&
    (meets (st id) (.recal mc 0) fun s _ =>
      decide (s.dev.lets mc ⟨.TIL_SVC, 0, 0⟩ = true ∧ s.dev.fld BB_LINK_STAT.STATE 0 ≠ 3)) &&
    (meets (st fun d => (up 0 d).setFld BB_LINK_STAT.WIDTH 0 0 8) (.recal mc 0) fun s _ =>
      decide (s.dev.lets mc ⟨.TIL_SVC, 0, 0⟩ = true ∧ s.dev.fld BB_LINK_STAT.STATE 0 = 3 ∧ s.dev.flag TIL_SVC_STAT.RECAL_BUSY 0 = false ∧ s.dev.fld
        BB_LINK_STAT.WIDTH 0 = 8)) &&
    (meets (st fun d => (up 0 d).setFld BB_LINK_STAT.WIDTH 0 0 4) (.recal mc 0) fun s _ =>
      decide (s.dev.lets mc ⟨.TIL_SVC, 0, 0⟩ = true ∧ s.dev.fld BB_LINK_STAT.STATE 0 = 3 ∧ s.dev.flag TIL_SVC_STAT.RECAL_BUSY 0 = false ∧ s.dev.fld
        BB_LINK_STAT.WIDTH 0 ≠ 8)) &&
    (meets (st fun d => (linkUp 0 (fun l => { l with recal := .outside }) d).setFld BB_LANE_STAT.ACTIVE 0 0 15) (.laneRecalibrationDone 0 0x5A) fun
      s _ =>
      decide (s.dev.fld BB_LINK_STAT.STATE 0 = 3 ∧ (s.dev.port 0).link.recal = .outside)) &&
    (meets (st id) (.tileFault 3) fun _ _ =>
      decide (True)) &&
    (meets (st (up 0)) (.laneRecalibrationDone 0 3) fun _ _ =>
      decide (True))) = true := by
  decide +kernel

theorem witness_DieResets :
    ((meets (st id) (.dieReset mc 1) fun s _ =>
      decide (s.dev.lets mc ⟨.DIE_SVC, 1, 0⟩ = true ∧ (∀ p ∈ tilesOf 1, s.dev.bonded p = false) ∧ 1 ≠ s.dev.lead.lead ∧ (∀ y, y < s.dev.n →
        s.dev.fld DIE_SVC_STAT.STATE y = 0) ∧ (∀ p ∈ tilesOf 1, s.dev.fld TIL_SVC_STAT.STATE p ≠ 2 ∧ s.dev.fld TIL_SVC_STAT.STATE p ≠ 5))) &&
    (meets (st id) (.dieReset mc 0) fun s _ =>
      decide (s.dev.lets mc ⟨.DIE_SVC, 0, 0⟩ = true ∧ (∀ p ∈ tilesOf 0, s.dev.bonded p = false) ∧ 0 = s.dev.lead.lead)) &&
    (meets (st fun d => d.setFld DIE_SVC_STAT.STATE 0 0 1) (.dieReset mc 1) fun s _ =>
      decide (s.dev.lets mc ⟨.DIE_SVC, 1, 0⟩ = true ∧ (∀ p ∈ tilesOf 1, s.dev.bonded p = false) ∧ 1 ≠ s.dev.lead.lead ∧ 0 < s.dev.n ∧ s.dev.fld
        DIE_SVC_STAT.STATE 0 ≠ 0)) &&
    (meets (st fun d => d.setFld TIL_SVC_STAT.STATE 9 0 5) (.dieReset mc 1) fun s _ =>
      decide (s.dev.lets mc ⟨.DIE_SVC, 1, 0⟩ = true ∧ (∀ p ∈ tilesOf 1, s.dev.bonded p = false) ∧ 1 ≠ s.dev.lead.lead ∧ (∀ y, y < s.dev.n →
        s.dev.fld DIE_SVC_STAT.STATE y = 0) ∧ 9 ∈ tilesOf 1 ∧ s.dev.fld TIL_SVC_STAT.STATE 9 = 5)) &&
    (meets (st fun d => ({ d.setFld DIE_SVC_STAT.STATE 1 0 1 with away := [1] } : Dev).modQueue 1 5 fun q => { q with items := [[1]] })
      (.dieResetDrained 1 6) fun s _ =>
      decide (6 < 2 ^ 96 ∧ s.dev.dieMayReset 1 = true ∧ s.dev.cfgLog = [])) &&
    (meets (st id) (.dieResetDrained 1 6) fun s _ =>
      decide (s.dev.dieMayReset 1 = false))) = true := by
  decide +kernel

theorem witness_SramErrors :
    ((meets (st id) (.sramUncorrectable 1 50) fun s _ =>
      decide ((s.dev.bankMask 1).testBit 50 = false)) &&
    (meets (st fun d => { d with banks := d.banks.set 0 ⟨1, 0, 0⟩ (2 ^ 50) }) (.sramUncorrectable 1 50) fun s _ =>
      decide ((s.dev.bankMask 1).testBit 50 = true)) &&
    (meets (st id) (.sramUncorrectable 1 60) fun _ _ =>
      decide (True)) &&
    (meets (st id) (.sramCorrected 1) fun _ _ =>
      decide (True))) = true := by
  decide +kernel

theorem witness_PowerAndTemperature :
    ((meets (st fun d => (d.modMp 10 fun m => { m with present := true })) (.mpEnWrite mc 10 true) fun s _ =>
      decide (s.dev.lets mc ⟨.PWR_MP_CTL, 1, 2⟩ = true ∧ lockOf s.locks ⟨.PWR_MP_CTL, 1, 2⟩ = false ∧ s.dev.flag PWR_MP_CTL.AUTO 1 2 = false ∧
        s.dev.fld PWR_MP_STAT.STATE 1 2 = 0 ∧ (s.dev.mp 10).present = true ∧ (s.dev.mp 10).low = true)) &&
    (meets (st fun d => d) (.mpEnWrite mc 10 true) fun s _ =>
      decide (s.dev.lets mc ⟨.PWR_MP_CTL, 1, 2⟩ = true ∧ lockOf s.locks ⟨.PWR_MP_CTL, 1, 2⟩ = false ∧ s.dev.flag PWR_MP_CTL.AUTO 1 2 = false ∧
        s.dev.fld PWR_MP_STAT.STATE 1 2 = 0 ∧ (s.dev.mp 10).present = false)) &&
    (meets (st fun d => ((d.modMp 10 fun m => { m with present := true })).setFld PWR_MP_STAT.STATE 1 2 4) (.mpEnWrite mc 10 true) fun s _ =>
      decide (s.dev.lets mc ⟨.PWR_MP_CTL, 1, 2⟩ = true ∧ lockOf s.locks ⟨.PWR_MP_CTL, 1, 2⟩ = false ∧ s.dev.flag PWR_MP_CTL.AUTO 1 2 = false ∧
        s.dev.fld PWR_MP_STAT.STATE 1 2 = 4)) &&
    (meets (st fun d => ((d.modMp 10 fun m => { m with present := true, low := false })).setFld PWR_MP_STAT.STATE 1 2 3) (.mpEnWrite mc 10 false)
      fun s _ =>
      decide (s.dev.lets mc ⟨.PWR_MP_CTL, 1, 2⟩ = true ∧ lockOf s.locks ⟨.PWR_MP_CTL, 1, 2⟩ = false ∧ s.dev.flag PWR_MP_CTL.AUTO 1 2 = false ∧
        s.dev.fld PWR_MP_STAT.STATE 1 2 = 3)) &&
    (meets (st fun d => d.setFld PWR_MP_CTL.EN 1 2 1) (.presenceInsert 10) fun s _ =>
      decide (s.dev.flag PWR_MP_CTL.AUTO 1 2 = false ∧ s.dev.fld PWR_MP_STAT.STATE 1 2 = 0 ∧ (s.dev.mp 10).low = true ∧ s.dev.flag PWR_MP_CTL.EN 1
        2 = true)) &&
    (meets (st fun d => d) (.presenceInsert 10) fun s _ =>
      decide (s.dev.flag PWR_MP_CTL.AUTO 1 2 = false ∧ s.dev.fld PWR_MP_STAT.STATE 1 2 = 0 ∧ (s.dev.mp 10).low = true ∧ s.dev.flag PWR_MP_CTL.EN 1
        2 = false)) &&
    (meets (st fun d => (d.modMp 10 fun m => { m with present := true }).setFld PWR_MP_CTL.AUTO 1 2 1) (.presenceDebounce 10) fun s _ =>
      decide (s.dev.flag PWR_MP_CTL.AUTO 1 2 = true ∧ s.dev.fld PWR_MP_STAT.STATE 1 2 = 0 ∧ (s.dev.mp 10).low = true ∧ (s.dev.mp 10).present =
        true)) &&
    (meets (st fun d => ((d.modMp 10 fun m => { m with present := true, low := false }).setFld PWR_MP_CTL.AUTO 1 2 1).setFld PWR_MP_STAT.STATE 1 2
      3) (.presenceRemove 10) fun s _ =>
      decide (s.dev.fld PWR_MP_STAT.STATE 1 2 = 3)) &&
    (meets (st fun d => (d).setFld PWR_MP_STAT.STATE 1 2 2) (.mpPowerGood 10) fun s _ =>
      decide (s.dev.fld PWR_MP_STAT.STATE 1 2 = 2)) &&
    (meets (st fun d => d) (.mpPowerGood 10) fun s _ =>
      decide (s.dev.fld PWR_MP_STAT.STATE 1 2 ≠ 2)) &&
    (meets (st fun d => ((d.modMp 10 fun m => { m with present := true, low := false }).setFld PWR_MP_CTL.EN 1 2 1).setFld PWR_MP_STAT.STATE 1 2 1)
      (.mpDischarged 10) fun s _ =>
      decide (s.dev.fld PWR_MP_STAT.STATE 1 2 = 1 ∧ s.dev.flag PWR_MP_CTL.AUTO 1 2 = false ∧ s.dev.flag PWR_MP_CTL.EN 1 2 = true ∧ (s.dev.mp
        10).present = true)) &&
    (meets (st fun d => (d).setFld PWR_MP_STAT.STATE 1 2 1) (.mpDischarged 10) fun s _ =>
      decide (s.dev.fld PWR_MP_STAT.STATE 1 2 = 1 ∧ s.dev.flag PWR_MP_CTL.AUTO 1 2 = false ∧ s.dev.flag PWR_MP_CTL.EN 1 2 = false)) &&
    (meets (st fun d => (d).setFld PWR_MP_STAT.STATE 1 2 3) (.short 10) fun s _ =>
      decide (s.dev.fld PWR_MP_STAT.STATE 1 2 = 3 ∧ s.dev.rootHeld 1 = false)) &&
    (meets (st fun d => (d).setFld PWR_MP_STAT.STATE 1 2 2) (.overcurrent 10) fun s _ =>
      decide (s.dev.fld PWR_MP_STAT.STATE 1 2 = 2 ∧ s.dev.rootHeld 1 = false)) &&
    (meets (st fun d => (d).setFld PWR_MP_STAT.STATE 1 2 2) (.pgTimeout 10) fun s _ =>
      decide (s.dev.fld PWR_MP_STAT.STATE 1 2 = 2 ∧ s.dev.rootHeld 1 = false)) &&
    (meets (st fun d => (d).setFld PWR_MP_STAT.STATE 1 2 3) (.undervoltage 10) fun s _ =>
      decide (s.dev.fld PWR_MP_STAT.STATE 1 2 = 3 ∧ s.dev.rootHeld 1 = false)) &&
    (meets (st fun d => (d).setFld PWR_MP_STAT.STATE 1 2 1) (.dischargeTimeout 10) fun s _ =>
      decide (s.dev.fld PWR_MP_STAT.STATE 1 2 = 1 ∧ s.dev.rootHeld 1 = false)) &&
    (meets (st fun d => ((d.setFld CLK_STAT.HELD 1 0 1)).setFld PWR_MP_STAT.STATE 1 2 3) (.overcurrent 10) fun s _ =>
      decide (s.dev.fld PWR_MP_STAT.STATE 1 2 = 3 ∧ s.dev.rootHeld 1 = true)) &&
    (meets (st fun d => d) (.short 10) fun s _ =>
      decide (s.dev.fld PWR_MP_STAT.STATE 1 2 = 0)) &&
    (meets (st fun d => ((d.modMp 10 fun m => { m with present := true }).setFld PWR_MP_CTL.EN 1 2 1).setFld PWR_MP_STAT.STATE 1 2 4) (.mpClear mc
      10) fun s _ =>
      decide (s.dev.lets mc ⟨.PWR_MP_CTL, 1, 2⟩ = true ∧ lockOf s.locks ⟨.PWR_MP_CTL, 1, 2⟩ = false ∧ s.dev.fld PWR_MP_STAT.STATE 1 2 = 4 ∧
        (s.dev.mp 10).low = true ∧ s.dev.flag PWR_MP_CTL.AUTO 1 2 = false ∧ s.dev.flag PWR_MP_CTL.EN 1 2 = true ∧ (s.dev.mp 10).present = true)) &&
    (meets (st fun d => ((d.modMp 10 fun m => { m with present := true, low := false })).setFld PWR_MP_STAT.STATE 1 2 4) (.mpClear mc 10) fun s _ =>
      decide (s.dev.lets mc ⟨.PWR_MP_CTL, 1, 2⟩ = true ∧ lockOf s.locks ⟨.PWR_MP_CTL, 1, 2⟩ = false ∧ s.dev.fld PWR_MP_STAT.STATE 1 2 = 4 ∧
        (s.dev.mp 10).low = false)) &&
    (meets (st fun d => d) (.tempSample 1 127) fun s _ =>
      decide ((BitVec.ofNat 8 (s.dev.fld PWR_TEMP.ALERT_C 1)).toInt ≤ 127 ∧ s.dev.flag PWR_TEMP.ALERT 1 = false)) &&
    (meets (st fun d => d.setFld PWR_TEMP.ALERT 1 0 1) (.tempSample 1 (-128)) fun s _ =>
      decide (¬ (BitVec.ofNat 8 (s.dev.fld PWR_TEMP.ALERT_C 1)).toInt ≤ -128 ∧ s.dev.flag PWR_TEMP.ALERT 1 = true ∧ s.dev.flag PWR_TEMP.ALERT 0 =
        false))) = true := by
  decide +kernel

theorem witness_PllSwaps :
    ((meets (st fun d => d) (.pllSwap mc 1) fun s _ =>
      decide (s.dev.lets mc ⟨.DIE_SVC, 1, 0⟩ = true ∧ (s.dev.clk 1).swap = none ∧ s.dev.srcFailed 1 (s.dev.spare 1) = false)) &&
    (meets (st fun d => d.modClk 1 fun c => { c with failed := 8 }) (.pllSwap mc 1) fun s _ =>
      decide (s.dev.lets mc ⟨.DIE_SVC, 1, 0⟩ = true ∧ (s.dev.clk 1).swap = none ∧ s.dev.srcFailed 1 (s.dev.spare 1) = true)) &&
    (meets (st fun d => d.modClk 1 fun c => { c with swap := some true }) (.pllSwap mc 1) fun s _ =>
      decide (s.dev.lets mc ⟨.DIE_SVC, 1, 0⟩ = true ∧ (s.dev.clk 1).swap = some true)) &&
    (meets (st fun d => d.setPll 1 3 1) (.pllLock 1 .b) fun s _ =>
      decide (s.dev.rootHeld 1 = false ∧ s.dev.pll 1 (pllMon .b) = 1)) &&
    (meets (st fun d => d.setPll 1 3 2) (.pllLock 1 .b) fun s _ =>
      decide (s.dev.rootHeld 1 = false ∧ s.dev.pll 1 (pllMon .b) = 2)) &&
    (meets (st fun d => (((d.setPll 1 2 2).setPll 1 3 2).setFld CLK_STAT.ROOT 1 0 0).modClk 1 fun c =>
      { c with armed := true, swap := some false }) (.clockMonitorResult 1 (.mon 3) 2500) fun s _ =>
      decide (let k := s.dev.spare 1; (s.dev.clk 1).armed = true ∧ (s.dev.clk 1).swap = some false ∧ s.dev.srcFailed 1 k = false ∧ s.dev.pll 1 k =
        2 ∧ s.dev.pll 1 (5 - k) = 2 ∧ s.dev.fld CLK_STAT.ROOT 1 = (if s.dev.flag DIE_SVC_STAT.PLL_ROOT 1 then 1 else 0) ∧ k = 3 ∧ s.dev.passes 1 (.mon
        k) 2500 = true))) = true := by
  decide +kernel

theorem witness_ClockFailures :
    ((meets (st fun d => d.setFld CLK_CTL.AUTO_RESTORE 1 0 0) (.clockMonitorResult 1 (.mon 2) 5) fun s _ =>
      decide (s.dev.flag CLK_CTL.AUTO_RESTORE 1 = false ∧ (s.dev.clk 1).armed = false)) &&
    (meets (st fun d => ((((d.setPll 1 2 2).setPll 1 3 2).setFld CLK_STAT.ROOT 1 0 0).setFld CLK_CTL.AUTO_RESTORE 1 0 0).modClk 1 fun c =>
      { c with armed := true }) (.clockMonitorResult 1 (.mon 2) 5) fun s _ =>
      decide (s.dev.flag CLK_CTL.AUTO_RESTORE 1 = false ∧ (s.dev.clk 1).armed = true ∧ (s.dev.clk 1).arb = none ∧ (s.dev.clk 1).swap = none ∧
        s.dev.srcFailed 1 6 = false ∧ s.dev.pll 1 2 = 2 ∧ s.dev.srcFailed 1 2 = false ∧ s.dev.fld CLK_STAT.ROOT 1 = 0 ∧ s.dev.passes 1 (.mon 2) 5 =
        false)) &&
    (meets (st fun d => ((((d.setPll 1 2 2).setPll 1 3 2).setFld CLK_STAT.ROOT 1 0 0).setFld CLK_CTL.AUTO_RESTORE 1 0 0).modClk 1 fun c =>
      { c with armed := true }) (.clockMonitorResult 1 (.mon 0) 5) fun s _ =>
      decide (s.dev.flag CLK_CTL.AUTO_RESTORE 1 = false ∧ (s.dev.clk 1).armed = true ∧ (s.dev.clk 1).arb = none ∧ (s.dev.clk 1).swap = none ∧
        s.dev.srcFailed 1 6 = false ∧ s.dev.pll 1 2 = 2 ∧ s.dev.refOf 1 2 = 0 ∧ s.dev.fld CLK_STAT.ROOT 1 = 0 ∧ s.dev.srcFailed 1 0 = false ∧
        s.dev.passes 1 (.mon 0) 5 = false)) &&
    (meets (st fun d => (((((d.setPll 1 2 2).setPll 1 3 2).setFld CLK_STAT.ROOT 1 0 0).setFld CLK_CTL.AUTO_RESTORE 1 0 0).setFld CLK_STAT.HELD 1 0
      1).modClk 1 fun c => { c with armed := true, arb := some 0 }) (.arbitrationResult 1 97656) fun s _ =>
      decide (s.dev.flag CLK_CTL.AUTO_RESTORE 1 = false ∧ (s.dev.clk 1).arb = some 0 ∧ s.dev.fld CLK_STAT.ROOT 1 = 0 ∧ s.dev.pll 1 2 = 2 ∧
        s.dev.refOf 1 2 = 0 ∧ (s.dev.clk 1).swap = none ∧ s.dev.passes 1 (.mon 6) 97656 = true)) &&
    (meets (st fun d => (((((d.setPll 1 2 2).setPll 1 3 2).setFld CLK_STAT.ROOT 1 0 0).setFld CLK_CTL.AUTO_RESTORE 1 0 0).setFld CLK_STAT.HELD 1 0
      1).modClk 1 fun c => { c with armed := true, arb := some 0 }) (.arbitrationResult 1 7) fun s _ =>
      decide (s.dev.flag CLK_CTL.AUTO_RESTORE 1 = false ∧ (s.dev.clk 1).arb = some 0 ∧ s.dev.fld CLK_STAT.ROOT 1 = 0 ∧ s.dev.pll 1 2 = 2 ∧
        s.dev.refOf 1 2 = 0 ∧ (s.dev.clk 1).swap = none ∧ s.dev.passes 1 (.mon 6) 7 = false)) &&
    (meets (st fun d => (((d.setPll 1 2 2).setPll 1 3 2).setFld CLK_STAT.ROOT 1 0 0).setFld CLK_CTL.AUTO_RESTORE 1 0 0) (.pllReferenceLoss 1 .a)
      fun s _ =>
      decide (s.dev.flag CLK_CTL.AUTO_RESTORE 1 = false ∧ s.dev.pll 1 2 = 2 ∧ s.dev.fld CLK_STAT.ROOT 1 = 0 ∧ s.dev.srcFailed 1 6 = false)) &&
    (meets (st fun d => (((up 9 d).setFld BB_LANE_STAT.ACTIVE 9 0 255).setFld CLK_CTL.AUTO_RESTORE 1 0 0).setPll 1 4 2) (.pllReferenceLoss 1 .bb)
      fun s _ =>
      decide (s.dev.flag CLK_CTL.AUTO_RESTORE 1 = false ∧ s.dev.pll 1 4 = 2 ∧ s.dev.loopable 1 = [9])) &&
    (meets (st fun d => d.setFld CLK_CTL.AUTO_RESTORE 1 0 0) (.pllReferenceLoss 1 .b) fun s _ =>
      decide (s.dev.flag CLK_CTL.AUTO_RESTORE 1 = false ∧ s.dev.pll 1 (pllMon .b) = 0)) &&
    (meets (st fun d => (d.setFld CLK_CTL.AUTO_RESTORE 1 0 0).modClk 1 fun c => { c with calRun := true }) (.fioCalDone 1 401000) fun s _ =>
      decide (s.dev.flag CLK_CTL.AUTO_RESTORE 1 = false ∧ (s.dev.clk 1).calRun = true)) &&
    (meets (st id) (.fioCalDone 1 401000) fun s _ =>
      decide ((s.dev.clk 1).calRun = false)) &&
    (meets (st fun d => d.modClk 1 fun c => { c with swRoot := true }) (.muxHang 1 .root false) fun _ _ =>
      decide (True)) &&
    (meets (st fun d => d) (.muxHang 1 .root true) fun _ _ =>
      decide (True)) &&
    (meets (st fun d => d.modClk 1 fun c => { c with swRoot := true }) (.muxHang 1 .root false) fun s _ =>
      decide ((s.dev.clk 1).swRoot = true)) &&
    (meets (st fun d => (up 10 d).setFld BB_LINK_STAT.LOOP 10 0 1) (.muxHang 1 (.portTx 2) false) fun s _ =>
      decide (s.dev.flag BB_LINK_STAT.LOOP (8 * 1 + 2) = true))) = true := by
  decide +kernel

theorem witness_SleepAndWake :
    ((meets (st fun d => d) (.sleepEnter mc 1) fun s _ =>
      decide (s.dev.lets mc ⟨.CLK_SLEEP, 1, 0⟩ = true ∧ s.dev.maySleep = true)) &&
    (meets (st fun d => up 3 d) (.sleepEnter mc 1) fun s _ =>
      decide (s.dev.lets mc ⟨.CLK_SLEEP, 1, 0⟩ = true ∧ s.dev.maySleep = false)) &&
    (meets (st fun d => { d with asleep := true }) (.wakeEvent 1 .perst) fun s _ =>
      decide (s.dev.asleep = true ∧ True)) &&
    (meets (st fun d => { d with asleep := true }) (.wakeEvent 1 .clkreq) fun s _ =>
      decide (s.dev.asleep = true ∧ True)) &&
    (meets (st fun d => { d.setFld BB_LINK_STAT.STATE 9 0 1 with asleep := true }) (.wakeEvent 1 .bodyBus) fun s _ =>
      decide (s.dev.asleep = true ∧ dieOf 9 = 1 ∧ s.dev.fld BB_LINK_STAT.STATE 9 = 1)) &&
    (meets (st fun d => { d.setFld CLK_WAKE.PERIOD 1 0 5 with asleep := true }) (.wakeTimerExpiry 1) fun s _ =>
      decide (s.dev.asleep = true ∧ s.dev.fld CLK_WAKE.PERIOD 1 ≠ 0)) &&
    (meets (st fun d => { d with asleep := true }) (.wakeTimerExpiry 1) fun s _ =>
      decide (s.dev.asleep = true ∧ s.dev.fld CLK_WAKE.PERIOD 1 = 0)) &&
    (meets (st fun d => d) (.wakeEvent 1 .bodyBus) fun s _ =>
      decide (s.dev.asleep = false)) &&
    (meets (st fun d => d) (.wakeTimerExpiry 1) fun s _ =>
      decide (s.dev.asleep = false)) &&
    (meets (st fun d => ({ (d.modPx 0 fun p => { p with heldReq := [wr0 0] }) with asleep := true } : Dev)) (.holdExpiry 0 1) fun s _ =>
      decide (s.dev.rootHeld 0 = true ∨ s.dev.asleep = true)) &&
    (meets (st fun d => ({ d with asleep := true } : Dev)) (.queueTailTimeout 0 60) fun s _ =>
      decide (s.dev.rootHeld 0 = true ∨ s.dev.asleep = true)) &&
    (meets (st fun d => d.setFld CLK_STAT.HELD 1 0 1) (.monitorLevelSample 1 3) fun s _ =>
      decide (s.dev.rootHeld 1 = true ∨ s.dev.asleep = true)) &&
    (meets (st fun d => (initr (crs true) d).setFld CLK_STAT.HELD 0 0 1) (.busTimerExpiry 0 true) fun s _ =>
      decide ((s.dev.rootHeld 0 = true ∨ s.dev.asleep = true) ∧ dieOf 0 = 0)) &&
    (meets (st fun d => (d.setFld CLK_STAT.HELD 0 0 1).setFld BB_RETRY_CTL.START 0 0 3) (.retryStartDecay 0) fun s _ =>
      decide ((s.dev.rootHeld 0 = true ∨ s.dev.asleep = true) ∧ dieOf 0 = 0))) = true := by
  decide +kernel

theorem witness_FlashAndLedger :
    ((meets (st fun d => (d.setFld MC_FLASH_STAT.PRESENT 0 0 1).setFld MC_FLASH_ADDR.SECTOR 0 0 50) (.flashRead mc 0) fun s _ =>
      decide (s.dev.lets mc ⟨.MC_FLASH_CMD, 0, 0⟩ = true ∧ mc.path < 16 ∧ s.dev.hasFlash 0 = true ∧ s.dev.flashWindow 0 = none ∧ (s.dev.fld
        MC_FLASH_ADDR.SECTOR 0 < 16 ∨ 1 = 1))) &&
    (meets (st fun d => (d.setFld MC_FLASH_STAT.PRESENT 0 0 1).setFld MC_FLASH_ADDR.SECTOR 0 0 5) (.flashErase mc 0) fun s _ =>
      decide (s.dev.lets mc ⟨.MC_FLASH_CMD, 0, 0⟩ = true ∧ mc.path < 16 ∧ s.dev.hasFlash 0 = true ∧ s.dev.flashWindow 0 = none ∧ (s.dev.fld
        MC_FLASH_ADDR.SECTOR 0 < 16 ∨ 2 = 1))) &&
    (meets (st fun d => (d.setFld MC_FLASH_STAT.PRESENT 0 0 1).setFld MC_FLASH_ADDR.SECTOR 0 0 5) (.flashProgram mc 0) fun s _ =>
      decide (s.dev.lets mc ⟨.MC_FLASH_CMD, 0, 0⟩ = true ∧ mc.path < 16 ∧ s.dev.hasFlash 0 = true ∧ s.dev.flashWindow 0 = none ∧ (s.dev.fld
        MC_FLASH_ADDR.SECTOR 0 < 16 ∨ 3 = 1))) &&
    (meets (st fun d => d) (.flashRead mc 1) fun s _ =>
      decide (s.dev.lets mc ⟨.MC_FLASH_CMD, 1, 0⟩ = true ∧ mc.path < 16 ∧ s.dev.hasFlash 1 = false)) &&
    (meets (st fun d => ({ d.setFld MC_FLASH_STAT.PRESENT 0 0 1 with flashRun := d.flashRun.set none ⟨0, 0, 0⟩ (some (1, 5)) } : Dev)) (.flashErase
      mc 0) fun s _ =>
      decide (s.dev.lets mc ⟨.MC_FLASH_CMD, 0, 0⟩ = true ∧ mc.path < 16 ∧ s.dev.hasFlash 0 = true ∧ s.dev.flashWindow 0 ≠ none)) &&
    (meets (st fun d => (d.setFld MC_FLASH_STAT.PRESENT 0 0 1).setFld MC_FLASH_ADDR.SECTOR 0 0 16) (.flashProgram mc 0) fun s _ =>
      decide (s.dev.lets mc ⟨.MC_FLASH_CMD, 0, 0⟩ = true ∧ mc.path < 16 ∧ s.dev.hasFlash 0 = true ∧ s.dev.flashWindow 0 = none ∧ 16 ≤ s.dev.fld
        MC_FLASH_ADDR.SECTOR 0 ∧ s.dev.fld MC_FLASH_ADDR.SECTOR 0 < 144)) &&
    (meets (st fun d => (d.setFld MC_FLASH_STAT.PRESENT 0 0 1).setFld MC_FLASH_ADDR.SECTOR 0 0 143) (.flashProgram mc 0) fun s _ =>
      decide (s.dev.lets mc ⟨.MC_FLASH_CMD, 0, 0⟩ = true ∧ mc.path < 16 ∧ s.dev.hasFlash 0 = true ∧ s.dev.flashWindow 0 = none ∧ 16 ≤ s.dev.fld
        MC_FLASH_ADDR.SECTOR 0 ∧ s.dev.fld MC_FLASH_ADDR.SECTOR 0 < 144)) &&
    (meets (st fun d => ({ d.setFld MC_FLASH_STAT.PRESENT 0 0 1 with flashRun := d.flashRun.set none ⟨0, 0, 0⟩ (some (1, 5)) } : Dev).flashPut 0
      (4096 * 5 + 7) [1, 2, 255, 4]) (.flashCommandComplete 0 true) fun s _ =>
      decide (s.dev.flashWindow 0 = some (1, 5))) &&
    (meets (st fun d => ({ d.setFld MC_FLASH_STAT.PRESENT 0 0 1 with flashRun := d.flashRun.set none ⟨0, 0, 0⟩ (some (2, 5)) } : Dev).flashPut 0
      (4096 * 5 + 7) [1, 2, 255, 4]) (.flashCommandComplete 0 false) fun s _ =>
      decide (s.dev.flashWindow 0 = some (2, 5))) &&
    (meets (st fun d => (({ d.setFld MC_FLASH_STAT.PRESENT 0 0 1 with flashRun := d.flashRun.set none ⟨0, 0, 0⟩ (some (3, 5)) } : Dev).flashPut 0
      (4096 * 5 + 7) [1, 2, 255, 4]).setFlashBuf 0 [9, 9, 9, 9, 7, 7, 7, 255]) (.flashCommandComplete 0 true) fun s _ =>
      decide (s.dev.flashWindow 0 = some (3, 5))) &&
    (meets (st fun d => ({ d.setFld MC_FLASH_STAT.PRESENT 0 0 1 with flashRun := d.flashRun.set none ⟨0, 0, 0⟩ (some (3, 5)) } : Dev))
      (.flashCommandComplete 0 false) fun s _ =>
      decide (s.dev.flashWindow 0 = some (3, 5))) &&
    (meets (st fun d => ({ d.setFld MC_FLASH_STAT.PRESENT 0 0 1 with flashRun := d.flashRun.set none ⟨0, 0, 0⟩ (some (1, 5)) } : Dev))
      (.flashCommandTimeout 0) fun s _ =>
      decide (s.dev.flashWindow 0 = some (1, 5))) &&
    (meets (st fun d => d) (.flashCommandTimeout 0) fun s _ =>
      decide (s.dev.flashWindow 0 = none)) &&
    (meets (st fun d => d.setFld MC_FLASH_STAT.PRESENT 0 0 1) (.markA mc 1) fun s _ =>
      decide (s.dev.lets mc ⟨.MC_LEDGER_CTL, 1, 0⟩ = true ∧ s.dev.hasFlash 0 = true ∧ s.dev.inService 0 = true ∧ s.dev.refuses 0 = false)) &&
    (meets (st fun d => d.setFld MC_FLASH_STAT.PRESENT 0 0 1) (.markB mc 1) fun s _ =>
      decide (s.dev.lets mc ⟨.MC_LEDGER_CTL, 1, 0⟩ = true ∧ s.dev.hasFlash 0 = true ∧ s.dev.inService 0 = true ∧ s.dev.refuses 0 = false)) &&
    (meets (st fun d => { d with fen := { d.fen with leftOut := [3, 5] } }) (.readmit mc 1 32) fun s _ =>
      decide (s.dev.lets mc ⟨.MC_LEDGER_CTL, 1, 0⟩ = true ∧ s.dev.fen.leftOut = [3, 5]))) = true := by
  decide +kernel

theorem witness_InterruptsAndEvents :
    ((meets (st fun d => d) (.msixModExpiry (.cls 5)) fun s _ =>
      decide (s.dev.modGap = [] ∧ s.dev.Runs s.dev.evqHome)) &&
    (meets (st fun d => { d with modGap := [(.cls 5, false)] }) (.msixModExpiry (.cls 5)) fun s _ =>
      decide (s.dev.modGap = [(.cls 5, false)] ∧ s.dev.Runs s.dev.evqHome)) &&
    (meets (st fun d => { (d.setReg .IRQ_CLASS_CTL 0 5 0x80000007#32).setReg .IRQ_CLASS_TGT 0 5 3#32 with modGap := [(.cls 5, true)] })
      (.msixModExpiry (.cls 5)) fun s _ =>
      decide (s.dev.Runs s.dev.evqHome ∧ s.dev.modGap = [(.cls 5, true)] ∧ (s.dev.reg .IRQ_CLASS_CTL s.dev.evqHome 5).getLsbD 31 = true ∧
        (s.dev.reg .IRQ_CLASS_CTL s.dev.evqHome 5).getLsbD 30 = false ∧ bitsOf (s.dev.reg .IRQ_CLASS_CTL s.dev.evqHome 5) 15 0 ≠ 0 ∧ s.dev.msixOpen 0
        3 = false)) &&
    (meets (st fun d =>
      { ((((((mapped 0 d).cfgPut 0 0x50 0x80000000).cfgPut 0 4 6).setReg .PX_LINK_STAT 0 0 0xD0006880#32).setReg .IRQ_CLASS_CTL 0 5 0x80000007#32).setReg .IRQ_CLASS_TGT 0 5 3#32).setReg .MSIX_VCTL 0 3 0 with modGap := [(.cls 5, true)] })
      (.msixModExpiry (.cls 5)) fun s _ =>
      decide (s.dev.Runs s.dev.evqHome ∧ s.dev.modGap = [(.cls 5, true)] ∧ (s.dev.reg .IRQ_CLASS_CTL s.dev.evqHome 5).getLsbD 31 = true ∧
        (s.dev.reg .IRQ_CLASS_CTL s.dev.evqHome 5).getLsbD 30 = false ∧ bitsOf (s.dev.reg .IRQ_CLASS_CTL s.dev.evqHome 5) 15 0 ≠ 0 ∧ s.dev.msixOpen 0
        3 = true)) &&
    (meets (st fun d => { d with modGap := [(.bbin 9 3, true)] }) (.msixModExpiry (.bbin 9 3)) fun s _ =>
      decide (s.dev.Runs (s.dev.entryDie (.bbin 9 3)))) &&
    (meets (st fun d => { d with modGap := [(.cls 5, true)], asleep := true }) (.msixModExpiry (.cls 5)) fun s _ =>
      decide (¬ s.dev.Runs (s.dev.entryDie (.cls 5)))) &&
    (meets (st fun d => up 9 d) (.nmiReceived 1) fun s _ =>
      decide (dieOf 9 = 1 ∧ s.dev.fld BB_LINK_STAT.STATE 9 = 3 ∧ ∀ a ∈ (s.dev.port 9).asserted, a.1 ≠ 7)) &&
    (meets (st (up 9)) (.nmiReceived 1) fun _ _ =>
      decide (True)) &&
    (meets (st fun d => d.modQueue 1 62 fun q => { q with items := [[0x03000000#32, 1, 2, 3]] }) (.eventArrive ⟨1, 4, none⟩) fun s _ =>
      decide ((s.dev.queue 1 62).items = [[0x03000000#32, 1, 2, 3]] ∧ (s.dev.queue 1 62).held = [] ∧ ([1, 2, 3] : List Word).length < 4 ∧
        s.dev.evq.todo = [] ∧ s.dev.evq.extra = 0 ∧ s.dev.evq.used + 3 < 4096)) &&
    (meets (st fun d =>
      { (d.modQueue 1 62 fun q => { q with items := [[0x03000000#32, 1, 2, 3]] }) with evq := { items := List.replicate 1024 [1, 2, 3, 4] }, evqSeq := 65535 })
      (.eventArrive ⟨1, 4, none⟩) fun s _ =>
      decide ((s.dev.queue 1 62).items = [[0x03000000#32, 1, 2, 3]] ∧ (s.dev.queue 1 62).held = [] ∧ ([1, 2, 3] : List Word).length < 4 ∧
        s.dev.evq.todo = [] ∧ s.dev.evq.credits 4096 ≤ 3)) &&
    (meets (st fun d => d) (.eventArrive ⟨1, 4, none⟩) fun s _ =>
      decide ((s.dev.queue 1 62).items = [] ∧ s.dev.evq.todo = [])) &&
    (meets (st fun d => (d.modQueue 1 62 fun q => { q with items := [[0x03000000#32, 1, 2, 3]] })) (.eventArrive ⟨1, 2, (some (1, 63, 5))⟩) fun _ _ =>
      decide (True)) &&
    (meets (st fun d => d.setFld EVQ_HOST_WR.WR 0 0 10) (.evqHostRdWrite mc 7) fun s _ =>
      decide (s.dev.lets mc ⟨.EVQ_HOST_RD, 0, 0⟩ = true)) &&
    (meets (st fun d => d.setFld EVQ_HOST_WR.WR 0 0 10) (.evqHostRdWrite mc 11) fun s _ =>
      decide (s.dev.lets mc ⟨.EVQ_HOST_RD, 0, 0⟩ = true)) &&
    (meets (st fun d => (d.setFld PROT_VIO_INFO.VALID 0 3 1).setFld PROT_VIO_INFO.MORE 0 3 1) (.protVioClear mc 3) fun s _ =>
      decide (s.dev.lets mc ⟨.PROT_VIO_CLR, 0, 3⟩ = true))) = true := by
  decide +kernel

theorem witness_PoolCommands :
    ((meets (st fun d => ((((d.setFld POOL_STAT.ACTIVE 0 3 1).setFld POOL_CTL.OWNERS (d.homeOf 3) 3 4).setReg .POOL_COUNT (d.homeOf 3) 3
      9#32).setPoolFree 3 6).modPool 3 fun q => { q with cache := [handleOf 3 5 2, handleOf 3 1 4] }) (.poolGet mc 3 1) fun s _ =>
      decide (s.dev.lets mc ⟨.POOL_CMD, 0, 0⟩ = true ∧ mc.path < 16 ∧ s.dev.mail 8 = {} ∧ s.dev.poolOn 3 = true ∧ 1 < s.dev.poolOwners 3 ∧
        (s.dev.pool 3).cache = [handleOf 3 5 2, handleOf 3 1 4] ∧ 0 < s.dev.avail 3 1 ∧ s.dev.poolClear 3 (handleIndex (handleOf 3 5 2)) = true)) &&
    (meets (st fun d => ((((d.setFld POOL_STAT.ACTIVE 0 3 1).setFld POOL_CTL.OWNERS (d.homeOf 3) 3 4).setReg .POOL_COUNT (d.homeOf 3) 3
      9#32).setPoolFree 3 6).setPoolFree 3 0) (.poolGet mc 3 1) fun s _ =>
      decide (s.dev.lets mc ⟨.POOL_CMD, 0, 0⟩ = true ∧ mc.path < 16 ∧ s.dev.mail 8 = {} ∧ s.dev.poolOn 3 = true ∧ 1 < s.dev.poolOwners 3 ∧
        s.dev.avail 3 1 = 0)) &&
    (meets (st fun d => (((d.setFld POOL_STAT.ACTIVE 0 3 1).setFld POOL_CTL.OWNERS (d.homeOf 3) 3 4).setReg .POOL_COUNT (d.homeOf 3) 3
      9#32).setPoolFree 3 6) (.poolGet mc 3 4) fun s _ =>
      decide (s.dev.lets mc ⟨.POOL_CMD, 0, 0⟩ = true ∧ mc.path < 16 ∧ s.dev.mail 8 = {} ∧ s.dev.poolOn 3 = true ∧ s.dev.poolOwners 3 ≤ 4)) &&
    (meets (st fun d => d) (.poolGet mc 3 4) fun s _ =>
      decide (s.dev.lets mc ⟨.POOL_CMD, 0, 0⟩ = true ∧ mc.path < 16 ∧ s.dev.mail 8 = {} ∧ s.dev.poolOn 3 = false)) &&
    (meets (st fun d => d) (.poolCmdBadOp mc 0 3) fun s _ =>
      decide (s.dev.lets mc ⟨.POOL_CMD, 0, 0⟩ = true ∧ mc.path < 16 ∧ s.dev.mail 8 = {})) &&
    (meets (st fun d => d) (.poolCmdBadOp mc 5 3) fun s _ =>
      decide (s.dev.lets mc ⟨.POOL_CMD, 0, 0⟩ = true ∧ mc.path < 16 ∧ s.dev.mail 8 = {})) &&
    (meets (st fun d => d) (.poolCmdBadOp mc 15 3) fun s _ =>
      decide (s.dev.lets mc ⟨.POOL_CMD, 0, 0⟩ = true ∧ mc.path < 16 ∧ s.dev.mail 8 = {})) &&
    (meets (st fun d => (((((d.setFld POOL_STAT.ACTIVE 0 3 1).setFld POOL_CTL.OWNERS (d.homeOf 3) 3 4).setReg .POOL_COUNT (d.homeOf 3) 3
      9#32).setPoolFree 3 6).setPair .POOL_ARG_LO .POOL_ARG_HI 8 0 (handleOf 3 5 2))) (.poolShare mc 0 1 2) fun s _ =>
      decide (s.dev.lets mc ⟨.POOL_CMD, 0, 0⟩ = true ∧ mc.path < 16 ∧ s.dev.mail 8 = {} ∧ let h := s.dev.pair .POOL_ARG_LO .POOL_ARG_HI 8 0; h < 2
        ^ 48 ∧ s.dev.poolOn (handlePool h) = true ∧ handleGen h ≠ 0 ∧ handleIndex h < s.dev.poolCount (handlePool h) ∧ 1 < s.dev.poolOwners
        (handlePool h) ∧ 2 < s.dev.poolOwners (handlePool h) ∧ (s.dev.pool (handlePool h)).jobs = [])) &&
    (meets (st fun d => (((((d.setFld POOL_STAT.ACTIVE 0 3 1).setFld POOL_CTL.OWNERS (d.homeOf 3) 3 4).setReg .POOL_COUNT (d.homeOf 3) 3
      9#32).setPoolFree 3 6).setPair .POOL_ARG_LO .POOL_ARG_HI 8 0 (handleOf 3 5 2))) (.poolRelease mc 0 1) fun s _ =>
      decide (s.dev.lets mc ⟨.POOL_CMD, 0, 0⟩ = true ∧ mc.path < 16 ∧ s.dev.mail 8 = {} ∧ let h := s.dev.pair .POOL_ARG_LO .POOL_ARG_HI 8 0; h < 2
        ^ 48 ∧ s.dev.poolOn (handlePool h) = true ∧ handleGen h ≠ 0 ∧ handleIndex h < s.dev.poolCount (handlePool h) ∧ 1 < s.dev.poolOwners
        (handlePool h) ∧ 2 < s.dev.poolOwners (handlePool h) ∧ (s.dev.pool (handlePool h)).jobs = [])) &&
    (meets (st fun d => (((((d.setFld POOL_STAT.ACTIVE 0 3 1).setFld POOL_CTL.OWNERS (d.homeOf 3) 3 4).setReg .POOL_COUNT (d.homeOf 3) 3
      9#32).setPoolFree 3 6).setPair .POOL_ARG_LO .POOL_ARG_HI 8 0 (handleOf 3 5 2))) (.poolFree mc 0 1) fun s _ =>
      decide (s.dev.lets mc ⟨.POOL_CMD, 0, 0⟩ = true ∧ mc.path < 16 ∧ s.dev.mail 8 = {} ∧ let h := s.dev.pair .POOL_ARG_LO .POOL_ARG_HI 8 0; h < 2
        ^ 48 ∧ s.dev.poolOn (handlePool h) = true ∧ handleGen h ≠ 0 ∧ handleIndex h < s.dev.poolCount (handlePool h) ∧ 1 < s.dev.poolOwners
        (handlePool h) ∧ 2 < s.dev.poolOwners (handlePool h) ∧ (s.dev.pool (handlePool h)).jobs = [])) &&
    (meets (st fun d => (((((d.setFld POOL_STAT.ACTIVE 0 3 1).setFld POOL_CTL.OWNERS (d.homeOf 3) 3 4).setReg .POOL_COUNT (d.homeOf 3) 3
      9#32).setPoolFree 3 6).setPair .POOL_ARG_LO .POOL_ARG_HI 8 0 (handleOf 3 5 2)).setMail 8 { busy := true }) (.poolGet mc 3 1) fun s _ =>
      decide (s.dev.lets mc ⟨.POOL_CMD, 0, 0⟩ = true ∧ mc.path < 16 ∧ (s.dev.mail 8).busy = true ∧ (s.dev.mail 8).held = none))) = true := by
  decide +kernel

theorem witness_PoolReads :
    ((meets (st fun d => (((((d.setFld POOL_STAT.ACTIVE 0 3 1).setFld POOL_CTL.OWNERS (d.homeOf 3) 3 4).setReg .POOL_COUNT (d.homeOf 3) 3
      9#32).setPoolFree 3 6).setPoolChg 3 1 2).modPool 3 fun q =>
      { q with jobs := [({ id := 7, cmd := { by_ := .mailbox 8, op := 4, pool := 3, handle := handleOf 3 5 2, owner := 1, newOwner := 2 }, index := 2, result := handleOf 3 5 2 } : PoolJob)] })
      (.poolStateReadDone 3 7 (some (PoolEntry.toNat ⟨5, true, false, [1]⟩))) fun s _ =>
      decide ((s.dev.pool 3).jobs =
        [({ id := 7, cmd := { by_ := .mailbox 8, op := 4, pool := 3, handle := handleOf 3 5 2, owner := 1, newOwner := 2 }, index := 2, result := handleOf 3 5 2 }
        : PoolJob)] ∧ (s.dev.pool 3).queue = [] ∧ PoolEntry.ofNat (PoolEntry.toNat ⟨5, true, false, [1]⟩) = ⟨handleGen (handleOf 3 5 2), true, false,
        [1]⟩ ∧ handleGen (handleOf 3 5 2) < 255 ∧ (s.dev.pool 3).cache.length < 64 ∧ s.dev.poolFree 3 < 2 ^ 32 - 1 ∧ 0 < s.dev.poolChg 3 1)) &&
    (meets (st fun d => (((((d.setFld POOL_STAT.ACTIVE 0 3 1).setFld POOL_CTL.OWNERS (d.homeOf 3) 3 4).setReg .POOL_COUNT (d.homeOf 3) 3
      9#32).setPoolFree 3 6).setPoolChg 3 1 2).modPool 3 fun q =>
      { q with jobs := [({ id := 7, cmd := { by_ := .mailbox 8, op := 2, pool := 3, handle := handleOf 3 5 2, owner := 1, newOwner := 2 }, index := 2, result := handleOf 3 5 2 } : PoolJob)] })
      (.poolStateReadDone 3 7 (some (PoolEntry.toNat ⟨5, true, false, [1]⟩))) fun s _ =>
      decide ((s.dev.pool 3).jobs =
        [({ id := 7, cmd := { by_ := .mailbox 8, op := 2, pool := 3, handle := handleOf 3 5 2, owner := 1, newOwner := 2 }, index := 2, result := handleOf 3 5 2 }
        : PoolJob)] ∧ (s.dev.pool 3).queue = [] ∧ PoolEntry.ofNat (PoolEntry.toNat ⟨5, true, false, [1]⟩) = ⟨handleGen (handleOf 3 5 2), true, false,
        [1]⟩)) &&
    (meets (st fun d => (((((d.setFld POOL_STAT.ACTIVE 0 3 1).setFld POOL_CTL.OWNERS (d.homeOf 3) 3 4).setReg .POOL_COUNT (d.homeOf 3) 3
      9#32).setPoolFree 3 6).setPoolChg 3 1 2).modPool 3 fun q =>
      { q with jobs := [({ id := 7, cmd := { by_ := .mailbox 8, op := 3, pool := 3, handle := handleOf 3 5 2, owner := 1, newOwner := 2 }, index := 2, result := handleOf 3 5 2 } : PoolJob)] })
      (.poolStateReadDone 3 7 (some (PoolEntry.toNat ⟨6, true, false, [1, 2]⟩))) fun s _ =>
      decide ((s.dev.pool 3).jobs =
        [({ id := 7, cmd := { by_ := .mailbox 8, op := 3, pool := 3, handle := handleOf 3 5 2, owner := 1, newOwner := 2 }, index := 2, result := handleOf 3 5 2 }
        : PoolJob)] ∧ (s.dev.pool 3).queue = [] ∧ (match entryAfter
        ({ by_ := .mailbox 8, op := 3, pool := 3, handle := handleOf 3 5 2, owner := 1, newOwner := 2 } : PoolCmd) (PoolEntry.ofNat (PoolEntry.toNat
        ⟨6, true, false, [1, 2]⟩)) with | .error st => st == 2 | .ok _ => false) = true)) &&
    (meets (st fun d => (((((d.setFld POOL_STAT.ACTIVE 0 3 1).setFld POOL_CTL.OWNERS (d.homeOf 3) 3 4).setReg .POOL_COUNT (d.homeOf 3) 3
      9#32).setPoolFree 3 6).setPoolChg 3 1 2).modPool 3 fun q =>
      { q with jobs := [({ id := 7, cmd := { by_ := .mailbox 8, op := 3, pool := 3, handle := handleOf 3 5 2, owner := 1, newOwner := 2 }, index := 2, result := handleOf 3 5 2 } : PoolJob)] })
      (.poolStateReadDone 3 7 none) fun s _ =>
      decide ((s.dev.pool 3).jobs =
        [({ id := 7, cmd := { by_ := .mailbox 8, op := 3, pool := 3, handle := handleOf 3 5 2, owner := 1, newOwner := 2 }, index := 2, result := handleOf 3 5 2 }
        : PoolJob)] ∧ (s.dev.pool 3).queue = [])) &&
    (meets (st fun d => (((((d.setFld POOL_STAT.ACTIVE 0 3 1).setFld POOL_CTL.OWNERS (d.homeOf 3) 3 4).setReg .POOL_COUNT (d.homeOf 3) 3
      9#32).setPoolFree 3 6).setPoolChg 3 1 2).modPool 3 fun q =>
      { q with jobs := [({ id := 7, cmd := { by_ := .mailbox 8, op := 3, pool := 3, handle := handleOf 3 5 2, owner := 1, newOwner := 2 }, index := 2, result := handleOf 3 5 2 } : PoolJob)] })
      (.poolStateReadDone 3 8 (some (PoolEntry.toNat ⟨5, true, false, [1]⟩))) fun s _ =>
      decide (∀ j ∈ (s.dev.pool 3).jobs, j.id ≠ 8)) &&
    (meets (st fun d => (((((d.setFld POOL_STAT.ACTIVE 0 3 1).setFld POOL_CTL.OWNERS (d.homeOf 3) 3 4).setReg .POOL_COUNT (d.homeOf 3) 3
      9#32).setPoolFree 3 6).setPoolChg 3 1 2).modPool 3 fun q =>
      { q with jobs := [({ id := 7, cmd := { by_ := .mailbox 8, op := 3, pool := 3, handle := handleOf 3 5 2, owner := 1, newOwner := 2 }, index := 2, result := handleOf 3 5 2 } : PoolJob)] })
      (.poolStateReadDone 3 7 none) fun s _ =>
      decide ((s.dev.pool 3).jobs ≠ [])) &&
    (meets (st fun d => ((((d.setFld POOL_STAT.ACTIVE 0 3 1).setFld POOL_CTL.OWNERS (d.homeOf 3) 3 4).setReg .POOL_COUNT (d.homeOf 3) 3
      9#32).setPoolFree 3 6).modPool 3 fun q =>
      { q with refill := some ({ start := 0, count := 2, out := [0] } : Refill), cache := [handleOf 3 5 2] }) (.poolRefillDone 3 (some [handleOf 3 1
      0, handleOf 3 2 8])) fun s _ =>
      decide ((s.dev.pool 3).refill = some ({ start := 0, count := 2, out := [0] } : Refill) ∧ (s.dev.pool 3).gets = [] ∧ s.dev.poolOn 3 = true ∧
        ([handleOf 3 1 0, handleOf 3 2 8] : List Nat).length = 2 ∧ ∀ h ∈ ([handleOf 3 1 0, handleOf 3 2 8] : List Nat), handlePool h = 3 ∧ handleIndex
        h < s.dev.poolCount 3 ∧ handleGen h ≠ 0 ∧ h < 2 ^ 48 ∧ (s.dev.pool 3).cache.length + 2 ≤ 64)) &&
    (meets (st fun d => ((((d.setFld POOL_STAT.ACTIVE 0 3 1).setFld POOL_CTL.OWNERS (d.homeOf 3) 3 4).setReg .POOL_COUNT (d.homeOf 3) 3
      9#32).setPoolFree 3 6).modPool 3 fun q =>
      { q with refill := some ({ start := 0, count := 2, out := [0] } : Refill), cache := [handleOf 3 5 2] }) (.poolRefillDone 3 none) fun s _ =>
      decide ((s.dev.pool 3).refill = some ({ start := 0, count := 2, out := [0] } : Refill) ∧ (s.dev.pool 3).gets = [])) &&
    (meets (st fun d => ((((d.setFld POOL_STAT.ACTIVE 0 3 1).setFld POOL_CTL.OWNERS (d.homeOf 3) 3 4).setReg .POOL_COUNT (d.homeOf 3) 3
      9#32).setPoolFree 3 6).modPool 3 fun q =>
      { q with refill := some ({ start := 0, count := 2, out := [0] } : Refill), cache := [handleOf 3 5 2] }) (.poolRefillDone 3 (some [handleOf 3 1
      0, handleOf 3 2 8])) fun s _ =>
      decide ((s.dev.pool 3).refill ≠ none))) = true := by
  decide +kernel

theorem witness_RingPointers :
    ((meets (st fun d => mapped 0 (((((d.setRingState 9 1).modRing 9 fun g =>
      { g with ctl := (0x40220006#32), desc := 0x10000, cpl := 0x20000  })).setFld RING_PTR.POSTED 0 9 65530).setFld RING_CPL_PTR.CPL_WR 0 9 65520))
      (.doorbell px 9 true 0 4 15 48) fun s _ =>
      decide ((s.dev.protCheck (s.dev.srcReq px .doorbell (4096 * 9) 4 1)).1.denied = false ∧ (s.dev.ringState 9 = 1 ∨ s.dev.ringState 9 = 2) ∧
        (s.dev.posted 9 + 65536 - s.dev.cplWr 9) % 65536 + (48 + 65536 - s.dev.posted 9) % 65536 ≤ min (s.dev.ring 9).size 65535 ∧ s.dev.waitsCredit
        (srcDie px) true = false ∧ px.poison = false ∧ s.dev.takesMem px 1 = true ∧ s.dev.flag MC_BOOT_STAT.DONE (s.dev.ringDie 9) = true)) &&
    (meets (st fun d => mapped 0 (((((d.setRingState 9 1).modRing 9 fun g =>
      { g with ctl := (0x40220006#32), desc := 0x10000, cpl := 0x20000  })).setFld RING_PTR.POSTED 0 9 65530).setFld RING_CPL_PTR.CPL_WR 0 9 65520))
      (.doorbell px 9 true 0 4 15 49) fun s _ =>
      decide ((s.dev.protCheck (s.dev.srcReq px .doorbell (4096 * 9) 4 1)).1.denied = false ∧ ¬ ((s.dev.ringState 9 = 1 ∨ s.dev.ringState 9 = 2) ∧
        (s.dev.posted 9 + 65536 - s.dev.cplWr 9) % 65536 + (49 + 65536 - s.dev.posted 9) % 65536 ≤ min (s.dev.ring 9).size 65535) ∧ s.dev.waitsCredit
        (srcDie px) true = false ∧ px.poison = false ∧ s.dev.takesMem px 1 = true ∧ s.dev.flag MC_BOOT_STAT.DONE (s.dev.ringDie 9) = true)) &&
    (meets (st fun d => booted 0 (((((d.setRingState 9 1).modRing 9 fun g =>
      { g with ctl := (0x40220006#32), desc := 0x10000, cpl := 0x20000  })).setFld RING_PTR.POSTED 0 9 65530).setFld RING_CPL_PTR.CPL_WR 0 9 65520))
      (.doorbell mc 9 false 0 4 15 48) fun s _ =>
      decide (s.dev.lets mc ⟨.RING_DB, 0, 9⟩ = true ∧ (s.dev.ringState 9 = 1 ∨ s.dev.ringState 9 = 2) ∧ (s.dev.posted 9 + 65536 - s.dev.cplWr 9) %
        65536 + (48 + 65536 - s.dev.posted 9) % 65536 ≤ min (s.dev.ring 9).size 65535 ∧ s.dev.flag MC_BOOT_STAT.DONE (s.dev.ringDie 9) = true)) &&
    (meets (st fun d => booted 0 (((((d.setRingState 9 1).modRing 9 fun g =>
      { g with ctl := (0x40220006#32), desc := 0x10000, cpl := 0x20000  })).setFld RING_PTR.POSTED 0 9 65530).setFld RING_CPL_PTR.CPL_WR 0 9 65520))
      (.doorbell mc 9 false 0 4 15 49) fun s _ =>
      decide (s.dev.lets mc ⟨.RING_DB, 0, 9⟩ = true ∧ ¬ ((s.dev.ringState 9 = 1 ∨ s.dev.ringState 9 = 2) ∧ (s.dev.posted 9 + 65536 - s.dev.cplWr 9)
        % 65536 + (49 + 65536 - s.dev.posted 9) % 65536 ≤ min (s.dev.ring 9).size 65535) ∧ s.dev.flag MC_BOOT_STAT.DONE (s.dev.ringDie 9) = true)) &&
    (meets (st fun d => ((((d.setRingState 9 1).modRing 9 fun g => { g with ctl := (0x40220006#32), desc := 0x10000, cpl := 0x20000  })).setFld
      RING_PTR.POSTED 0 9 65530).setFld RING_CPL_PTR.CPL_WR 0 9 65520) (.doorbell mc 9 false 0 4 15 48) fun s _ =>
      decide (s.dev.lets mc ⟨.RING_DB, 0, 9⟩ = true ∧ s.dev.flag MC_BOOT_STAT.DONE (s.dev.ringDie 9) = false)) &&
    (meets (st fun d => mapped 0 (((((d.setRingState 9 1).modRing 9 fun g =>
      { g with ctl := (0x40220006#32), desc := 0x10000, cpl := 0x20000  })).setFld RING_PTR.POSTED 0 9 65530).setFld RING_CPL_PTR.CPL_WR 0 9 65520))
      (.doorbell px 9 true 4 4 15 48) fun s _ =>
      decide (s.dev.waitsCredit (srcDie px) true = false ∧ (4 ≠ 0 ∨ 4 ≠ 4 ∨ 15 % 16 ≠ 15))) &&
    (meets (st fun d => mapped 0 (((((d.setRingState 9 1).modRing 9 fun g =>
      { g with ctl := (0x40220006#32), desc := 0x10000, cpl := 0x20000  })).setFld RING_PTR.POSTED 0 9 65530).setFld RING_CPL_PTR.CPL_WR 0 9 65520))
      (.doorbell px 9 true 0 8 15 48) fun s _ =>
      decide (s.dev.waitsCredit (srcDie px) true = false ∧ (0 ≠ 0 ∨ 8 ≠ 4 ∨ 15 % 16 ≠ 15))) &&
    (meets (st fun d => mapped 0 (((((d.setRingState 9 1).modRing 9 fun g =>
      { g with ctl := (0x40220006#32), desc := 0x10000, cpl := 0x20000  })).setFld RING_PTR.POSTED 0 9 65530).setFld RING_CPL_PTR.CPL_WR 0 9 65520))
      (.doorbell px 9 true 0 4 7 48) fun s _ =>
      decide (s.dev.waitsCredit (srcDie px) true = false ∧ (0 ≠ 0 ∨ 4 ≠ 4 ∨ 7 % 16 ≠ 15))) &&
    (meets (st fun d => ((d.setRingState 9 1).modRing 9 fun g =>
      { g with ctl := (0x40220006#32), desc := 0x10000, cpl := 0x20000 , fetchOut := some 2 }).setFld RING_PTR.FETCHED 0 9 65535)
      (.descriptorFetchDone 9 0 (List.replicate 128 3)) fun s _ =>
      decide ((s.dev.ring 9).fetchOut = some 2 ∧ s.dev.stagedOf (s.dev.ringDie 9) (s.dev.ring 9).mover + 2 ≤ 64)) &&
    (meets (st fun d => ((d.setRingState 9 1).modRing 9 fun g =>
      { g with ctl := (0x40220006#32), desc := 0x10000, cpl := 0x20000 , fetchOut := some 2 }).setFld RING_PTR.FETCHED 0 9 65535)
      (.descriptorFetchDone 9 8 []) fun s _ =>
      decide ((s.dev.ring 9).fetchOut = some 2 ∧ (s.dev.ring 9).staged = [] ∧ (s.dev.ring 9).runs = [] ∧ (s.dev.ring 9).cplq = [] ∧ s.dev.ringState
        9 = 1 ∧ s.dev.cplStaged (s.dev.ringDie 9) (s.dev.ring 9).mover < 64)) &&
    (meets (st fun d => ((d.setRingState 9 1).modRing 9 fun g =>
      { g with ctl := (0x40220006#32), desc := 0x10000, cpl := 0x20000 , fetchOut := some 2 }).setFld RING_PTR.FETCHED 0 9 65535)
      (.descriptorFetchDone 9 8 []) fun s _ =>
      decide ((s.dev.ring 9).fetchOut = some 2)) &&
    (meets (st fun d => (((((d.setRingState 9 1).modRing 9 fun g => { g with ctl := (0x40220006#32), desc := 0x10000, cpl := 0x20000  })).setFld
      RING_PTR.POSTED 0 9 65530).setFld RING_CPL_PTR.CPL_WR 0 9 65520)) (.ringCplRdWrite mc 9 77) fun s _ =>
      decide (s.dev.lets mc ⟨.RING_CPL_PTR, 0, 9⟩ = true)) &&
    (meets (st fun d => ((d.setRingState 9 1).modRing 9 fun g =>
      { g with ctl := (0x40220006#32), desc := 0x10000, cpl := 0x20000 , unnoticed := 3 })) (.ringNoteTailExpiry 9) fun s _ =>
      decide ((s.dev.ring 9).tail ≠ 0 ∧ (s.dev.ring 9).unnoticed ≠ 0 ∧ s.dev.rootHeld (s.dev.ringDie 9) = false ∧ s.dev.asleep = false)) &&
    (meets (st fun d => ((d.setRingState 9 1).modRing 9 fun g => { g with ctl := (0x40220006#32), desc := 0x10000, cpl := 0x20000 , tail := 0 }))
      (.ringNoteTailExpiry 9) fun s _ =>
      decide ((s.dev.ring 9).tail = 0))) = true := by
  decide +kernel

theorem witness_DescriptorsWithoutData :
    ((meets (st fun d => ((d.setRingState 9 1).modRing 9 fun g =>
      { g with ctl := (0x40220006#32), desc := 0x10000, cpl := 0x20000 , staged := (5, [0x40050000, 0, 0, 0, 0, 0, 0, 0, 0, 0, 0, 0, 0, 0, 0, 0]) :: [(6, [])] }))
      (.nop 9) fun s _ =>
      decide ((s.dev.ring 9).staged = (5, [0x40050000, 0, 0, 0, 0, 0, 0, 0, 0, 0, 0, 0, 0, 0, 0, 0]) :: [(6, [])] ∧ descOp [0x40050000, 0, 0, 0, 0,
        0, 0, 0, 0, 0, 0, 0, 0, 0, 0, 0] = 0 ∧ descVerdict 5 [0x40050000, 0, 0, 0, 0, 0, 0, 0, 0, 0, 0, 0, 0, 0, 0, 0] = none ∧ s.dev.turn 9 = true ∧
        (s.dev.ring 9).runs = [] ∧ (s.dev.ring 9).cplq = [])) &&
    (meets (st fun d => ((d.setRingState 9 1).modRing 9 fun g => { g with ctl := (0x40220006#32), desc := 0x10000, cpl := 0x20000  })) (.nop 9) fun
      s _ =>
      decide ((s.dev.ring 9).staged = [])) &&
    (meets (st fun d => ((d.setRingState 9 1).modRing 9 fun g => { g with ctl := (0x40220006#32), desc := 0x10000, cpl := 0x20000  })) (.copy 9)
      fun s _ =>
      decide ((s.dev.ring 9).staged = [])) &&
    (meets (st fun d => ((d.setRingState 9 1).modRing 9 fun g => { g with ctl := (0x40220006#32), desc := 0x10000, cpl := 0x20000  })) (.fill 9)
      fun s _ =>
      decide ((s.dev.ring 9).staged = [])) &&
    (meets (st fun d => ((d.setRingState 9 1).modRing 9 fun g => { g with ctl := (0x40220006#32), desc := 0x10000, cpl := 0x20000  })) (.record 9)
      fun s _ =>
      decide ((s.dev.ring 9).staged = [])) &&
    (meets (st fun d => ((d.setRingState 9 1).modRing 9 fun g => { g with ctl := (0x40220006#32), desc := 0x10000, cpl := 0x20000  })) (.playback
      9) fun s _ =>
      decide ((s.dev.ring 9).staged = [])) &&
    (meets (st fun d => ((d.setRingState 9 1).modRing 9 fun g => { g with ctl := (0x40220006#32), desc := 0x10000, cpl := 0x20000  }))
      (.tableSwitch 9) fun s _ =>
      decide ((s.dev.ring 9).staged = [])) &&
    (meets (st fun d => ((d.setRingState 9 1).modRing 9 fun g => { g with ctl := (0x40220006#32), desc := 0x10000, cpl := 0x20000  })) (.fence 9)
      fun s _ =>
      decide ((s.dev.ring 9).staged = [])) &&
    (meets (st fun d => ((d.setRingState 9 1).modRing 9 fun g =>
      { g with ctl := (0x40220006#32), desc := 0x10000, cpl := 0x20000 , staged := (5, [0x46050000, 0, 0x0, 0, 0, 0, 0, 0, 0, 0, 0, 0, 0, 0, 0, 0]) :: [(6, [])] }))
      (.fence 9) fun s _ =>
      decide ((s.dev.ring 9).staged = (5, [0x46050000, 0, 0x0, 0, 0, 0, 0, 0, 0, 0, 0, 0, 0, 0, 0, 0]) :: [(6, [])] ∧ descOp [0x46050000, 0, 0x0,
        0, 0, 0, 0, 0, 0, 0, 0, 0, 0, 0, 0, 0] = 6 ∧ descVerdict 5 [0x46050000, 0, 0x0, 0, 0, 0, 0, 0, 0, 0, 0, 0, 0, 0, 0, 0] = none ∧ s.dev.turn 9 =
        true ∧ (s.dev.ring 9).runs = [] ∧ (s.dev.ring 9).cplq = [])) &&
    (meets (st fun d => (((((d.setRingState 9 1).modRing 9 fun g =>
      { g with ctl := (0x40220006#32), desc := 0x10000, cpl := 0x20000 , staged := (5, [0x46050000, 0, 0x80030000, 0xa, 0, 0, 0, 0, 0, 0, 0, 0, 0, 0, 0, 0]) :: [(6, [])] })).setRingState
      3 1).setFld RING_CPL_PTR.CPL_WR 0 3 10).setFld RING_CTL.EN 0 3 1) (.fence 9) fun s _ =>
      decide ((s.dev.ring 9).staged = (5, [0x46050000, 0, 0x80030000, 0xa, 0, 0, 0, 0, 0, 0, 0, 0, 0, 0, 0, 0]) :: [(6, [])] ∧ descOp [0x46050000,
        0, 0x80030000, 0xa, 0, 0, 0, 0, 0, 0, 0, 0, 0, 0, 0, 0] = 6 ∧ descVerdict 5 [0x46050000, 0, 0x80030000, 0xa, 0, 0, 0, 0, 0, 0, 0, 0, 0, 0, 0,
        0] = none ∧ s.dev.turn 9 = true ∧ (s.dev.ring 9).runs = [] ∧ (s.dev.ring 9).cplq = [] ∧ s.dev.ringState 3 ≠ 0 ∧ s.dev.flag RING_CTL.EN
        (s.dev.ringDie 3) 3 = true)) &&
    (meets (st fun d => ((d.setRingState 9 1).modRing 9 fun g =>
      { g with ctl := (0x40220006#32), desc := 0x10000, cpl := 0x20000 , staged := (5, [0x46050000, 0, 0x80030000, 0xa, 0, 0, 0, 0, 0, 0, 0, 0, 0, 0, 0, 0]) :: [(6, [])] }))
      (.fence 9) fun s _ =>
      decide ((s.dev.ring 9).staged = (5, [0x46050000, 0, 0x80030000, 0xa, 0, 0, 0, 0, 0, 0, 0, 0, 0, 0, 0, 0]) :: [(6, [])] ∧ descOp [0x46050000,
        0, 0x80030000, 0xa, 0, 0, 0, 0, 0, 0, 0, 0, 0, 0, 0, 0] = 6 ∧ descVerdict 5 [0x46050000, 0, 0x80030000, 0xa, 0, 0, 0, 0, 0, 0, 0, 0, 0, 0, 0,
        0] = none ∧ s.dev.turn 9 = true ∧ (s.dev.ring 9).runs = [] ∧ (s.dev.ring 9).cplq = [] ∧ s.dev.ringState 3 = 0)) &&
    (meets (st fun d => (((((d.setRingState 9 1).modRing 9 fun g =>
      { g with ctl := (0x40220006#32), desc := 0x10000, cpl := 0x20000 , staged := (5, [0x46050000, 0, 0x80030000, 0xa, 0, 0, 0, 0, 0, 0, 0, 0, 0, 0, 0, 0]) :: [(6, [])] })).setRingState
      3 1).setFld RING_CPL_PTR.CPL_WR 0 3 10)) (.fence 9) fun s _ =>
      decide ((s.dev.ring 9).staged = (5, [0x46050000, 0, 0x80030000, 0xa, 0, 0, 0, 0, 0, 0, 0, 0, 0, 0, 0, 0]) :: [(6, [])] ∧ descOp [0x46050000,
        0, 0x80030000, 0xa, 0, 0, 0, 0, 0, 0, 0, 0, 0, 0, 0, 0] = 6 ∧ descVerdict 5 [0x46050000, 0, 0x80030000, 0xa, 0, 0, 0, 0, 0, 0, 0, 0, 0, 0, 0,
        0] = none ∧ s.dev.turn 9 = true ∧ (s.dev.ring 9).runs = [] ∧ (s.dev.ring 9).cplq = [] ∧ s.dev.flag RING_CTL.EN (s.dev.ringDie 3) 3 = false))
        &&
    (meets (st fun d => (((((d.setRingState 9 1).modRing 9 fun g =>
      { g with ctl := (0x40220006#32), desc := 0x10000, cpl := 0x20000 , staged := (5, [0x46050000, 0, 0x80030000, 0xa, 0, 0, 0, 0, 0, 0, 0, 0, 0, 0, 0, 0]) :: [(6, [])] })).setRingState
      3 1).setFld RING_CPL_PTR.CPL_WR 0 3 9).setFld RING_CTL.EN 0 3 1) (.fence 9) fun s _ =>
      decide ((s.dev.ring 9).staged = (5, [0x46050000, 0, 0x80030000, 0xa, 0, 0, 0, 0, 0, 0, 0, 0, 0, 0, 0, 0]) :: [(6, [])] ∧ descOp [0x46050000,
        0, 0x80030000, 0xa, 0, 0, 0, 0, 0, 0, 0, 0, 0, 0, 0, 0] = 6 ∧ descVerdict 5 [0x46050000, 0, 0x80030000, 0xa, 0, 0, 0, 0, 0, 0, 0, 0, 0, 0, 0,
        0] = none ∧ s.dev.turn 9 = true ∧ (s.dev.ring 9).runs = [] ∧ (s.dev.ring 9).cplq = [] ∧ s.dev.ringState 3 ≠ 0 ∧ 32768 ≤ (s.dev.cplWr 3 + 65536
        - 10) % 65536 ∧ s.dev.flag RING_CTL.EN (s.dev.ringDie 3) 3 = true)) &&
    (meets (st fun d => (((((d.setRingState 9 1).modRing 9 fun g =>
      { g with ctl := (0x40220006#32), desc := 0x10000, cpl := 0x20000 , runs := [({ count := 5, words := [0x46050000, 0, 0x80030000, 0xa, 0x64, 0, 0, 0, 0, 0, 0, 0, 0, 0, 0, 0], phase := .fenceWait } : DescRun)] })).setRingState
      3 1).setFld RING_CPL_PTR.CPL_WR 0 3 11).setFld RING_CTL.EN 0 3 1) (.fenceSatisfied 9) fun s _ =>
      decide ((s.dev.ring 9).runs =
        [({ count := 5, words := [0x46050000, 0, 0x80030000, 0xa, 0x64, 0, 0, 0, 0, 0, 0, 0, 0, 0, 0, 0], phase := .fenceWait } : DescRun)] ∧
        (s.dev.ring 9).cplq = [] ∧ s.dev.fenceMet
        ({ count := 5, words := [0x46050000, 0, 0x80030000, 0xa, 0x64, 0, 0, 0, 0, 0, 0, 0, 0, 0, 0, 0], phase := .fenceWait } : DescRun) = true ∧
        s.dev.cplStaged (s.dev.ringDie 9) (s.dev.ring 9).mover < 64)) &&
    (meets (st fun d => (((((d.setRingState 9 1).modRing 9 fun g =>
      { g with ctl := (0x40220006#32), desc := 0x10000, cpl := 0x20000 , runs := [({ count := 5, words := [0x46050000, 0, 0x80030000, 0xa, 0x64, 0, 0, 0, 0, 0, 0, 0, 0, 0, 0, 0], phase := .fenceWait } : DescRun)] })).setRingState
      3 1).setFld RING_CPL_PTR.CPL_WR 0 3 11).setFld RING_CTL.EN 0 3 1) (.fenceTimeout 9) fun s _ =>
      decide ((s.dev.ring 9).runs =
        [({ count := 5, words := [0x46050000, 0, 0x80030000, 0xa, 0x64, 0, 0, 0, 0, 0, 0, 0, 0, 0, 0, 0], phase := .fenceWait } : DescRun)] ∧
        (s.dev.ring 9).cplq = [] ∧ s.dev.fenceMet
        ({ count := 5, words := [0x46050000, 0, 0x80030000, 0xa, 0x64, 0, 0, 0, 0, 0, 0, 0, 0, 0, 0, 0], phase := .fenceWait } : DescRun) = true ∧
        s.dev.cplStaged (s.dev.ringDie 9) (s.dev.ring 9).mover < 64 ∧ s.dev.rootHeld (s.dev.ringDie 9) = false ∧ s.dev.asleep = false)) &&
    (meets (st fun d => (((((d.setRingState 9 1).modRing 9 fun g =>
      { g with ctl := (0x40220006#32), desc := 0x10000, cpl := 0x20000 , runs := [({ count := 5, words := [0x46050000, 0, 0x80030000, 0xa, 0x64, 0, 0, 0, 0, 0, 0, 0, 0, 0, 0, 0], phase := .fenceWait } : DescRun)] })).setRingState
      3 1).setFld RING_CPL_PTR.CPL_WR 0 3 9).setFld RING_CTL.EN 0 3 1) (.fenceTimeout 9) fun s _ =>
      decide ((s.dev.ring 9).runs =
        [({ count := 5, words := [0x46050000, 0, 0x80030000, 0xa, 0x64, 0, 0, 0, 0, 0, 0, 0, 0, 0, 0, 0], phase := .fenceWait } : DescRun)] ∧
        (s.dev.ring 9).cplq = [] ∧ s.dev.fenceMet
        ({ count := 5, words := [0x46050000, 0, 0x80030000, 0xa, 0x64, 0, 0, 0, 0, 0, 0, 0, 0, 0, 0, 0], phase := .fenceWait } : DescRun) = false ∧
        word [0x46050000, 0, 0x80030000, 0xa, 0x64, 0, 0, 0, 0, 0, 0, 0, 0, 0, 0, 0] 4 ≠ 0 ∧ s.dev.cplStaged (s.dev.ringDie 9) (s.dev.ring 9).mover <
        64 ∧ s.dev.rootHeld (s.dev.ringDie 9) = false ∧ s.dev.asleep = false)) &&
    (meets (st fun d => (((((d.setRingState 9 1).modRing 9 fun g =>
      { g with ctl := (0x40220006#32), desc := 0x10000, cpl := 0x20000 , runs := [({ count := 5, words := [0x46050000, 0, 0x80030000, 0xa, 0x64, 0, 0, 0, 0, 0, 0, 0, 0, 0, 0, 0], phase := .fenceWait } : DescRun)] })).setRingState
      3 1).setFld RING_CPL_PTR.CPL_WR 0 3 9).setFld RING_CTL.EN 0 3 1) (.fenceSatisfied 9) fun s _ =>
      decide ((s.dev.ring 9).runs =
        [({ count := 5, words := [0x46050000, 0, 0x80030000, 0xa, 0x64, 0, 0, 0, 0, 0, 0, 0, 0, 0, 0, 0], phase := .fenceWait } : DescRun)] ∧
        (s.dev.ring 9).cplq = [] ∧ s.dev.fenceMet
        ({ count := 5, words := [0x46050000, 0, 0x80030000, 0xa, 0x64, 0, 0, 0, 0, 0, 0, 0, 0, 0, 0, 0], phase := .fenceWait } : DescRun) = false ∧
        s.dev.cplStaged (s.dev.ringDie 9) (s.dev.ring 9).mover < 64)) &&
    (meets (st fun d => ((d.setRingState 9 1).modRing 9 fun g =>
      { g with ctl := (0x40220006#32), desc := 0x10000, cpl := 0x20000 , staged := (5, [0x45050000, 0, 0x3, 0, 0, 0, 0, 0, 0, 0, 0, 0, 0, 0, 0, 0]) :: [(6, [])] }))
      (.tableSwitch 9) fun s _ =>
      decide ((s.dev.ring 9).staged = (5, [0x45050000, 0, 0x3, 0, 0, 0, 0, 0, 0, 0, 0, 0, 0, 0, 0, 0]) :: [(6, [])] ∧ descOp [0x45050000, 0, 0x3,
        0, 0, 0, 0, 0, 0, 0, 0, 0, 0, 0, 0, 0] = 5 ∧ descVerdict 5 [0x45050000, 0, 0x3, 0, 0, 0, 0, 0, 0, 0, 0, 0, 0, 0, 0, 0] = none ∧ s.dev.turn 9 =
        true ∧ (s.dev.ring 9).runs = [] ∧ (s.dev.ring 9).cplq = [])) &&
    (meets (st fun d => ((d.setRingState 9 1).modRing 9 fun g =>
      { g with ctl := (0x40220006#32), desc := 0x10000, cpl := 0x20000 , runs := [({ count := 5, words := [0x45050000, 0, 0x3, 0, 0, 0, 0, 0, 0, 0, 0, 0, 0, 0, 0, 0], phase := .switchWait } : DescRun)] }))
      (.tableSwitchDrained 9) fun s _ =>
      decide ((s.dev.ring 9).runs = [({ count := 5, words := [0x45050000, 0, 0x3, 0, 0, 0, 0, 0, 0, 0, 0, 0, 0, 0, 0, 0], phase := .switchWait } :
        DescRun)] ∧ (s.dev.ring 9).cplq = [] ∧ s.dev.notes = [] ∧ s.dev.drained = true ∧ s.dev.cplStaged (s.dev.ringDie 9) (s.dev.ring 9).mover < 64))
        &&
    (meets (st fun d =>
      { ((d.setRingState 9 1).modRing 9 fun g => { g with ctl := (0x40220006#32), desc := 0x10000, cpl := 0x20000 , runs := [({ count := 5, words := [0x45050000, 0, 0x3, 0, 0, 0, 0, 0, 0, 0, 0, 0, 0, 0, 0, 0], phase := .switchWait } : DescRun)] }) with cfgLog := [{ off := 0, v := 0, path := 0 }] })
      (.tableSwitchDrained 9) fun s _ =>
      decide ((s.dev.ring 9).runs = [({ count := 5, words := [0x45050000, 0, 0x3, 0, 0, 0, 0, 0, 0, 0, 0, 0, 0, 0, 0, 0], phase := .switchWait } :
        DescRun)] ∧ (s.dev.ring 9).cplq = [] ∧ s.dev.notes = [] ∧ s.dev.drained = false)) &&
    (meets (st fun d => ((((d.setRingState 9 1).modRing 9 fun g =>
      { g with ctl := (0x40220006#32), desc := 0x10000, cpl := 0x20000 , runs := [({ count := 5, words := [0x46050000, 0, 0x80030000, 0xa, 0x64, 0, 0, 0, 0, 0, 0, 0, 0, 0, 0, 0], phase := .fenceWait } : DescRun)] })).setRingState
      3 1).setFld RING_CPL_PTR.CPL_WR 0 3 11) (.fenceSatisfied 9) fun s _ =>
      decide ((s.dev.ring 9).runs ≠ [])) &&
    (meets (st fun d => ((d.setRingState 9 1).modRing 9 fun g =>
      { g with ctl := (0x40220006#32), desc := 0x10000, cpl := 0x20000 , runs := [({ count := 5, words := [0x45050000, 0, 0x3, 0, 0, 0, 0, 0, 0, 0, 0, 0, 0, 0, 0, 0], phase := .switchWait } : DescRun)] }))
      (.tableSwitchDrained 9) fun s _ =>
      decide ((s.dev.ring 9).runs ≠ [])) &&
    (meets (st fun d => ((((d.setRingState 9 1).modRing 9 fun g =>
      { g with ctl := (0x40220006#32), desc := 0x10000, cpl := 0x20000 , runs := [({ count := 5, words := [0x46050000, 0, 0x80030000, 0xa, 0x64, 0, 0, 0, 0, 0, 0, 0, 0, 0, 0, 0], phase := .fenceWait } : DescRun)] })).setRingState
      3 1).setFld RING_CPL_PTR.CPL_WR 0 3 9) (.fenceTimeout 9) fun s _ =>
      decide ((s.dev.ring 9).runs ≠ [] ∧ s.dev.rootHeld (s.dev.ringDie 9) = false ∧ s.dev.asleep = false))) = true := by
  decide +kernel

theorem witness_DescriptorsOfData :
    ((meets (st fun d => ((d.setRingState 9 1).modRing 9 fun g =>
      { g with ctl := (0x40220006#32), desc := 0x10000, cpl := 0x20000 , staged := (5, [0x41050000, 0, 0x5, 0x10000, 0x30000, 0, 0x40000, 0, 0, 0, 0, 0, 0, 0, 0, 0]) :: [(6, [])] }))
      (.copy 9) fun s _ =>
      decide ((s.dev.ring 9).staged = (5, [0x41050000, 0, 0x5, 0x10000, 0x30000, 0, 0x40000, 0, 0, 0, 0, 0, 0, 0, 0, 0]) :: [(6, [])] ∧ descOp
        [0x41050000, 0, 0x5, 0x10000, 0x30000, 0, 0x40000, 0, 0, 0, 0, 0, 0, 0, 0, 0] = 1 ∧ descVerdict 5 [0x41050000, 0, 0x5, 0x10000, 0x30000, 0,
        0x40000, 0, 0, 0, 0, 0, 0, 0, 0, 0] = none ∧ s.dev.turn 9 = true ∧ (s.dev.ring 9).runs = [] ∧ (s.dev.ring 9).cplq = [] ∧ (∀ q ∈ s.dev.rings,
        q.2.runs = []) ∧ (s.dev.moverProt (s.dev.ringDie 9) (s.dev.ring 9).mover (s.dev.ring 9).priv 0x30000 65536 0).1 = ⟨[(0, 65536)], false, false⟩
        ∧ (s.dev.moverBbProt (s.dev.ringDie 9) (s.dev.ring 9).mover (s.dev.ring 9).priv 0x40000 65536 0 5 1).1 = ⟨[(0, 65536)], false, false⟩ ∧ 65536
        ≤ s.dev.sharedRoom (s.dev.listOf 5) (s.dev.port (s.dev.listOf 5)).staged.2 ∧ s.dev.reach (s.dev.ringDie 9) (dieOf (s.dev.listOf 5)) = true))
        &&
    (meets (st fun d => ((d.setRingState 9 1).modRing 9 fun g =>
      { g with ctl := (0x40220006#32), desc := 0x10000, cpl := 0x20000 , staged := (5, [0x41050000, 0, 0x5, 0x1, 0x30000, 0, 0x40000, 0, 0, 0, 0, 0, 0, 0, 0, 0]) :: [(6, [])] }))
      (.copy 9) fun s _ =>
      decide ((s.dev.ring 9).staged = (5, [0x41050000, 0, 0x5, 0x1, 0x30000, 0, 0x40000, 0, 0, 0, 0, 0, 0, 0, 0, 0]) :: [(6, [])] ∧ descOp
        [0x41050000, 0, 0x5, 0x1, 0x30000, 0, 0x40000, 0, 0, 0, 0, 0, 0, 0, 0, 0] = 1 ∧ descVerdict 5 [0x41050000, 0, 0x5, 0x1, 0x30000, 0, 0x40000,
        0, 0, 0, 0, 0, 0, 0, 0, 0] = none ∧ s.dev.turn 9 = true ∧ (s.dev.ring 9).runs = [] ∧ (s.dev.ring 9).cplq = [] ∧ (∀ q ∈ s.dev.rings, q.2.runs =
        []) ∧ (s.dev.moverProt (s.dev.ringDie 9) (s.dev.ring 9).mover (s.dev.ring 9).priv 0x30000 1 0).1 = ⟨[(0, 1)], false, false⟩ ∧
        (s.dev.moverBbProt (s.dev.ringDie 9) (s.dev.ring 9).mover (s.dev.ring 9).priv 0x40000 1 0 5 1).1 = ⟨[(0, 1)], false, false⟩ ∧ 1 ≤
        s.dev.sharedRoom (s.dev.listOf 5) (s.dev.port (s.dev.listOf 5)).staged.2 ∧ s.dev.reach (s.dev.ringDie 9) (dieOf (s.dev.listOf 5)) = true)) &&
    (meets (st fun d => up 5 (((d.setRingState 9 1).modRing 9 fun g =>
      { g with ctl := (0x40220006#32), desc := 0x10000, cpl := 0x20000 , staged := (5, [0x41050000, 0, 0x90000005, 0x200, 0x30000, 0, 0x40000, 0, 0, 0, 0, 0, 0, 0, 0, 0]) :: [(6, [])] })))
      (.copy 9) fun s _ =>
      decide ((s.dev.ring 9).staged = (5, [0x41050000, 0, 0x90000005, 0x200, 0x30000, 0, 0x40000, 0, 0, 0, 0, 0, 0, 0, 0, 0]) :: [(6, [])] ∧ descOp
        [0x41050000, 0, 0x90000005, 0x200, 0x30000, 0, 0x40000, 0, 0, 0, 0, 0, 0, 0, 0, 0] = 1 ∧ descVerdict 5 [0x41050000, 0, 0x90000005, 0x200,
        0x30000, 0, 0x40000, 0, 0, 0, 0, 0, 0, 0, 0, 0] = none ∧ s.dev.turn 9 = true ∧ (s.dev.ring 9).runs = [] ∧ (s.dev.ring 9).cplq = [] ∧ (∀ q ∈
        s.dev.rings, q.2.runs = []) ∧ (s.dev.moverProt (s.dev.ringDie 9) (s.dev.ring 9).mover (s.dev.ring 9).priv 0x30000 512 1).1 = ⟨[(0, 512)],
        false, false⟩ ∧ (s.dev.moverBbProt (s.dev.ringDie 9) (s.dev.ring 9).mover (s.dev.ring 9).priv 0x40000 512 1 5 0).1 = ⟨[(0, 512)], false,
        false⟩ ∧ s.dev.listGone 5 = false ∧ 512 ≤ s.dev.sharedRoom (s.dev.listOf 5) (s.dev.port (s.dev.listOf 5)).staged.2 ∧ s.dev.reach
        (s.dev.ringDie 9) (dieOf (s.dev.listOf 5)) = true)) &&
    (meets (st fun d => ((d.setRingState 9 1).modRing 9 fun g =>
      { g with ctl := (0x40220006#32), desc := 0x10000, cpl := 0x20000 , staged := (5, [0x41050000, 0, 0x5, 0x0, 0x30000, 0, 0x40000, 0, 0, 0, 0, 0, 0, 0, 0, 0]) :: [(6, [])] }))
      (.copy 9) fun s _ =>
      decide ((s.dev.ring 9).staged = (5, [0x41050000, 0, 0x5, 0x0, 0x30000, 0, 0x40000, 0, 0, 0, 0, 0, 0, 0, 0, 0]) :: [(6, [])] ∧ descOp
        [0x41050000, 0, 0x5, 0x0, 0x30000, 0, 0x40000, 0, 0, 0, 0, 0, 0, 0, 0, 0] = 1 ∧ descVerdict 5 [0x41050000, 0, 0x5, 0x0, 0x30000, 0, 0x40000,
        0, 0, 0, 0, 0, 0, 0, 0, 0] = none ∧ s.dev.turn 9 = true ∧ (s.dev.ring 9).runs = [] ∧ (s.dev.ring 9).cplq = [] ∧ (∀ q ∈ s.dev.rings, q.2.runs =
        []))) &&
    (meets (st fun d => ((d.setRingState 9 1).modRing 9 fun g =>
      { g with ctl := (0x40220006#32), desc := 0x10000, cpl := 0x20000 , staged := (5, [0x41050000, 0, 0x10, 0x8, 0x30000, 0, 0x40000, 0, 0, 0, 0, 0, 0, 0, 0, 0]) :: [(6, [])] }))
      (.copy 9) fun s _ =>
      decide ((s.dev.ring 9).staged = (5, [0x41050000, 0, 0x10, 0x8, 0x30000, 0, 0x40000, 0, 0, 0, 0, 0, 0, 0, 0, 0]) :: [(6, [])] ∧ descOp
        [0x41050000, 0, 0x10, 0x8, 0x30000, 0, 0x40000, 0, 0, 0, 0, 0, 0, 0, 0, 0] = 1 ∧ descVerdict 5 [0x41050000, 0, 0x10, 0x8, 0x30000, 0, 0x40000,
        0, 0, 0, 0, 0, 0, 0, 0, 0] = none ∧ s.dev.turn 9 = true ∧ (s.dev.ring 9).runs = [] ∧ (s.dev.ring 9).cplq = [] ∧ (∀ q ∈ s.dev.rings, q.2.runs =
        []) ∧ 8 * s.dev.n ≤ 16)) &&
    (meets (st fun d => up 5 (((d.setRingState 9 1).modRing 9 fun g =>
      { g with ctl := (0x40220006#32), desc := 0x10000, cpl := 0x20000 , staged := (5, [0x44050000, 0, 0x90000005, 0x200, 0x40000, 0, 0x7, 0, 0, 0, 0, 0, 0, 0, 0, 0]) :: [(6, [])] })))
      (.fill 9) fun s _ =>
      decide ((s.dev.ring 9).staged = (5, [0x44050000, 0, 0x90000005, 0x200, 0x40000, 0, 0x7, 0, 0, 0, 0, 0, 0, 0, 0, 0]) :: [(6, [])] ∧ descOp
        [0x44050000, 0, 0x90000005, 0x200, 0x40000, 0, 0x7, 0, 0, 0, 0, 0, 0, 0, 0, 0] = 4 ∧ descVerdict 5 [0x44050000, 0, 0x90000005, 0x200, 0x40000,
        0, 0x7, 0, 0, 0, 0, 0, 0, 0, 0, 0] = none ∧ s.dev.turn 9 = true ∧ (s.dev.ring 9).runs = [] ∧ (s.dev.ring 9).cplq = [] ∧ (∀ q ∈ s.dev.rings,
        q.2.runs = []) ∧ (s.dev.moverBbProt (s.dev.ringDie 9) (s.dev.ring 9).mover (s.dev.ring 9).priv 0x40000 512 1 5 1).1 = ⟨[(0, 512)], false,
        false⟩ ∧ s.dev.listGone 5 = false ∧ 512 ≤ s.dev.sharedRoom (s.dev.listOf 5) (s.dev.port (s.dev.listOf 5)).staged.2 ∧ s.dev.reach
        (s.dev.ringDie 9) (dieOf (s.dev.listOf 5)) = true)) &&
    (meets (st fun d => ((d.setRingState 9 1).modRing 9 fun g =>
      { g with ctl := (0x40220006#32), desc := 0x10000, cpl := 0x20000 , staged := (5, [0x44050000, 0, 0x0, 0x200, 0x40000, 0, 0x7, 0, 0, 0, 0, 0, 0, 0, 0, 0]) :: [(6, [])] }))
      (.fill 9) fun s _ =>
      decide ((s.dev.ring 9).staged = (5, [0x44050000, 0, 0x0, 0x200, 0x40000, 0, 0x7, 0, 0, 0, 0, 0, 0, 0, 0, 0]) :: [(6, [])] ∧ descOp
        [0x44050000, 0, 0x0, 0x200, 0x40000, 0, 0x7, 0, 0, 0, 0, 0, 0, 0, 0, 0] = 4 ∧ descVerdict 5 [0x44050000, 0, 0x0, 0x200, 0x40000, 0, 0x7, 0, 0,
        0, 0, 0, 0, 0, 0, 0] = none ∧ s.dev.turn 9 = true ∧ (s.dev.ring 9).runs = [] ∧ (s.dev.ring 9).cplq = [] ∧ (∀ q ∈ s.dev.rings, q.2.runs = []) ∧
        (s.dev.moverProt (s.dev.ringDie 9) (s.dev.ring 9).mover (s.dev.ring 9).priv 0x40000 512 1).1 = ⟨[(0, 512)], false, false⟩)) &&
    (meets (st fun d => ((d.setRingState 9 1).modRing 9 fun g =>
      { g with ctl := (0x40220006#32), desc := 0x10000, cpl := 0x20000 , staged := (5, [0x44050000, 0, 0x0, 0x0, 0x40000, 0, 0x7, 0, 0, 0, 0, 0, 0, 0, 0, 0]) :: [(6, [])] }))
      (.fill 9) fun s _ =>
      decide ((s.dev.ring 9).staged = (5, [0x44050000, 0, 0x0, 0x0, 0x40000, 0, 0x7, 0, 0, 0, 0, 0, 0, 0, 0, 0]) :: [(6, [])] ∧ descOp [0x44050000,
        0, 0x0, 0x0, 0x40000, 0, 0x7, 0, 0, 0, 0, 0, 0, 0, 0, 0] = 4 ∧ descVerdict 5 [0x44050000, 0, 0x0, 0x0, 0x40000, 0, 0x7, 0, 0, 0, 0, 0, 0, 0,
        0, 0] = none ∧ s.dev.turn 9 = true ∧ (s.dev.ring 9).runs = [] ∧ (s.dev.ring 9).cplq = [] ∧ (∀ q ∈ s.dev.rings, q.2.runs = []))) &&
    (meets (st fun d => ((d.setRingState 9 1).modRing 9 fun g =>
      { g with ctl := (0x40220006#32), desc := 0x10000, cpl := 0x20000 , staged := (5, [0x44050000, 0, 0x80000010, 0x4, 0x40000, 0, 0x7, 0, 0, 0, 0, 0, 0, 0, 0, 0]) :: [(6, [])] }))
      (.fill 9) fun s _ =>
      decide ((s.dev.ring 9).staged = (5, [0x44050000, 0, 0x80000010, 0x4, 0x40000, 0, 0x7, 0, 0, 0, 0, 0, 0, 0, 0, 0]) :: [(6, [])] ∧ descOp
        [0x44050000, 0, 0x80000010, 0x4, 0x40000, 0, 0x7, 0, 0, 0, 0, 0, 0, 0, 0, 0] = 4 ∧ descVerdict 5 [0x44050000, 0, 0x80000010, 0x4, 0x40000, 0,
        0x7, 0, 0, 0, 0, 0, 0, 0, 0, 0] = none ∧ s.dev.turn 9 = true ∧ (s.dev.ring 9).runs = [] ∧ (s.dev.ring 9).cplq = [] ∧ (∀ q ∈ s.dev.rings,
        q.2.runs = []))) &&
    (meets (st fun d => ((d.setRingState 9 1).modRing 9 fun g =>
      { g with ctl := (0x40220006#32), desc := 0x10000, cpl := 0x20000 , staged := (5, [0x43050000, 0, 0, 0x64, 0, 0, 0, 0, 0, 0, 0x4, 0x8000, 0, 0, 0, 0]) :: [(6, [])] }))
      (.playback 9) fun s _ =>
      decide ((s.dev.ring 9).staged = (5, [0x43050000, 0, 0, 0x64, 0, 0, 0, 0, 0, 0, 0x4, 0x8000, 0, 0, 0, 0]) :: [(6, [])] ∧ descOp [0x43050000,
        0, 0, 0x64, 0, 0, 0, 0, 0, 0, 0x4, 0x8000, 0, 0, 0, 0] = 3 ∧ descVerdict 5 [0x43050000, 0, 0, 0x64, 0, 0, 0, 0, 0, 0, 0x4, 0x8000, 0, 0, 0, 0]
        = none ∧ s.dev.turn 9 = true ∧ (s.dev.ring 9).runs = [] ∧ (s.dev.ring 9).cplq = [] ∧ (∀ q ∈ s.dev.rings, q.2.runs = []) ∧ (s.dev.moverProt
        (s.dev.ringDie 9) (s.dev.ring 9).mover (s.dev.ring 9).priv (0x8000 + 32 * 4) 32 0).1 = ⟨[(0, 32)], false, false⟩)) &&
    (meets (st fun d => let d := ((d.setRingState 9 1).modRing 9 fun g =>
      { g with ctl := (0x40220006#32), desc := 0x10000, cpl := 0x20000 , staged := (5, [0x42050000, 0, 0x80030000, 0x40, 0x30000, 0, 0x40, 0x2, 0, 0, 0, 0, 0, 0, 0, 0]) :: [(6, [])] });
      let h := d.homeOf 3; ((((((d.setFld POOL_STAT.ACTIVE 0 3 1).setFld POOL_CTL.OWNERS h 3 4).setFld POOL_CTL.KIND h 3 1).setFld POOL_SIZE.SIZE h 3
      1).setReg .POOL_COUNT h 3 9#32).setPoolFree 3 6).modPool 3 fun q => { q with cache := [handleOf 3 5 2, 5] }) (.record 9) fun s _ =>
      decide ((s.dev.ring 9).staged = (5, [0x42050000, 0, 0x80030000, 0x40, 0x30000, 0, 0x40, 0x2, 0, 0, 0, 0, 0, 0, 0, 0]) :: [(6, [])] ∧ descOp
        [0x42050000, 0, 0x80030000, 0x40, 0x30000, 0, 0x40, 0x2, 0, 0, 0, 0, 0, 0, 0, 0] = 2 ∧ descVerdict 5 [0x42050000, 0, 0x80030000, 0x40,
        0x30000, 0, 0x40, 0x2, 0, 0, 0, 0, 0, 0, 0, 0] = none ∧ s.dev.turn 9 = true ∧ (s.dev.ring 9).runs = [] ∧ (s.dev.ring 9).cplq = [] ∧ (∀ q ∈
        s.dev.rings, q.2.runs = []) ∧ s.dev.poolOn 3 = true ∧ s.dev.flag POOL_CTL.KIND (s.dev.homeOf 3) 3 = true ∧ 64 * 2 ≤ s.dev.poolSize 3 ∧
        s.dev.slotTarget 3 = true ∧ (s.dev.ring 9).owner < s.dev.poolOwners 3 ∧ (s.dev.pool 3).cache = [handleOf 3 5 2, 5] ∧ 0 < s.dev.avail 3
        (s.dev.ring 9).owner ∧ s.dev.poolClear 3 (handleIndex (handleOf 3 5 2)) = true)) &&
    (meets (st fun d => ((d.setRingState 9 1).modRing 9 fun g =>
      { g with ctl := (0x40220006#32), desc := 0x10000, cpl := 0x20000 , staged := (5, [0x42050000, 0, 0, 0x40, 0x30000, 0, 0x40, 0x2, 0x5, 0, 0, 0, 0, 0, 0, 0]) :: [(6, [])] }))
      (.record 9) fun s _ =>
      decide ((s.dev.ring 9).staged = (5, [0x42050000, 0, 0, 0x40, 0x30000, 0, 0x40, 0x2, 0x5, 0, 0, 0, 0, 0, 0, 0]) :: [(6, [])] ∧ descOp
        [0x42050000, 0, 0, 0x40, 0x30000, 0, 0x40, 0x2, 0x5, 0, 0, 0, 0, 0, 0, 0] = 2 ∧ descVerdict 5 [0x42050000, 0, 0, 0x40, 0x30000, 0, 0x40, 0x2,
        0x5, 0, 0, 0, 0, 0, 0, 0] = none ∧ s.dev.turn 9 = true ∧ (s.dev.ring 9).runs = [] ∧ (s.dev.ring 9).cplq = [] ∧ (∀ q ∈ s.dev.rings, q.2.runs =
        []) ∧ s.dev.poolOn (handlePool (quad [0x42050000, 0, 0, 0x40, 0x30000, 0, 0x40, 0x2, 0x5, 0, 0, 0, 0, 0, 0, 0] 8)) = false))) = true := by
  decide +kernel

theorem witness_RingControl :
    ((meets (st fun d => ((d.setRingState 9 1).modRing 9 fun g =>
      { g with ctl := (0x40220006#32), desc := 0x10000, cpl := 0x20000 , unnoticed := 2 })) (.ringStop mc 9) fun s _ =>
      decide (s.dev.lets mc ⟨.RING_CMD, 0, 9⟩ = true ∧ mc.path < 16 ∧ s.dev.ringState 9 = 1)) &&
    (meets (st fun d => ((d.setRingState 9 2).modRing 9 fun g => { g with ctl := (0x40220006#32), desc := 0x10000, cpl := 0x20000  })) (.ringStop
      mc 9) fun s _ =>
      decide (s.dev.lets mc ⟨.RING_CMD, 0, 9⟩ = true ∧ mc.path < 16 ∧ s.dev.ringState 9 ≠ 1 ∧ s.dev.ringState 9 ≠ 3)) &&
    (meets (st fun d => ((d.setRingState 9 2).modRing 9 fun g => { g with ctl := (0x40220006#32), desc := 0x10000, cpl := 0x20000  })) (.ringResume
      mc 9) fun s _ =>
      decide (s.dev.lets mc ⟨.RING_CMD, 0, 9⟩ = true ∧ mc.path < 16 ∧ s.dev.ringState 9 = 2)) &&
    (meets (st fun d => ((d.setRingState 9 0).modRing 9 fun g => { g with ctl := (0x40220006#32), desc := 0x10000, cpl := 0x20000  })) (.ringResume
      mc 9) fun s _ =>
      decide (s.dev.lets mc ⟨.RING_CMD, 0, 9⟩ = true ∧ mc.path < 16 ∧ s.dev.ringState 9 = 0)) &&
    (meets (st fun d => ((d.setRingState 9 1).modRing 9 fun g => { g with ctl := (0x40220006#32), desc := 0x10000, cpl := 0x20000  })) (.ringResume
      mc 9) fun s _ =>
      decide (s.dev.lets mc ⟨.RING_CMD, 0, 9⟩ = true ∧ mc.path < 16 ∧ s.dev.ringState 9 = 1)) &&
    (meets (st fun d => ((d.setRingState 9 1).modRing 9 fun g =>
      { g with ctl := (0x40220006#32), desc := 0x10000, cpl := 0x20000 , fetchOut := some 4, staged := [(1, [])] })) (.ringReset mc 9) fun s _ =>
      decide (s.dev.lets mc ⟨.RING_CMD, 0, 9⟩ = true ∧ mc.path < 16 ∧ s.dev.ringState 9 = 1 ∧ (∀ q ∈ s.dev.rings, q.2.runs = []))) &&
    (meets (st fun d => ((d.setRingState 9 3).modRing 9 fun g => { g with ctl := (0x40220006#32), desc := 0x10000, cpl := 0x20000  })) (.ringStop
      mc 9) fun s _ =>
      decide (s.dev.lets mc ⟨.RING_CMD, 0, 9⟩ = true ∧ mc.path < 16 ∧ s.dev.ringState 9 = 3 ∧ (s.dev.ring 9).heldCmd = none)) &&
    (meets (st fun d => ((d.setRingState 9 3).modRing 9 fun g => { g with ctl := (0x40220006#32), desc := 0x10000, cpl := 0x20000  })) (.ringResume
      mc 9) fun s _ =>
      decide (s.dev.lets mc ⟨.RING_CMD, 0, 9⟩ = true ∧ mc.path < 16 ∧ s.dev.ringState 9 = 3 ∧ (s.dev.ring 9).heldCmd = none)) &&
    (meets (st fun d => ((d.setRingState 9 3).modRing 9 fun g => { g with ctl := (0x40220006#32), desc := 0x10000, cpl := 0x20000  })) (.ringReset
      mc 9) fun s _ =>
      decide (s.dev.lets mc ⟨.RING_CMD, 0, 9⟩ = true ∧ mc.path < 16 ∧ s.dev.ringState 9 = 3 ∧ (s.dev.ring 9).heldCmd = none)) &&
    (meets (st fun d => ((d.setRingState 9 3).modRing 9 fun g => { g with ctl := (0x40220006#32), desc := 0x10000, cpl := 0x20000  }).setFld
      RING_PTR.POSTED 0 9 5) (.ringResetDone 9) fun s _ =>
      decide (s.dev.ringState 9 = 3 ∧ (s.dev.ring 9).runs = [] ∧ (s.dev.ring 9).cplq = [] ∧ (s.dev.ring 9).cplOut = false ∧ (s.dev.ring 9).heldCmd
        = none ∧ (s.dev.ring 9).offSeen = false ∧ s.dev.flag RING_CTL.EN (s.dev.home (s.dev.fld RING_CTL.HOME_DIE (s.dev.ringDie 9) 9)) 9 = false)) &&
    (meets (st fun d => ((d.setRingState 9 3).modRing 9 fun g => { g with ctl := (0x40220006#32), desc := 0x10000, cpl := 0x20000  }).setFld
      RING_CTL.EN 0 9 1) (.ringResetDone 9) fun s _ =>
      decide (s.dev.ringState 9 = 3 ∧ (s.dev.ring 9).runs = [] ∧ (s.dev.ring 9).cplq = [] ∧ (s.dev.ring 9).cplOut = false ∧ (s.dev.ring 9).heldCmd
        = none ∧ (s.dev.ring 9).offSeen = false ∧ s.dev.flag RING_CTL.EN (s.dev.home (s.dev.fld RING_CTL.HOME_DIE (s.dev.ringDie 9) 9)) 9 = true)) &&
    (meets (st fun d => ((d.setRingState 9 1).modRing 9 fun g => { g with ctl := (0x40220006#32), desc := 0x10000, cpl := 0x20000  }))
      (.ringResetDone 9) fun s _ =>
      decide (s.dev.ringState 9 ≠ 3)) &&
    (meets (st fun d => (((d.setRingState 9 1).modRing 9 fun g =>
      { g with ctl := (0x40220006#32), desc := 0x10000, cpl := 0x20000 , staged := [(1, []), (2, [])], fetchOut := some 3 })).setFld RING_PTR.FETCHED
      0 9 1) (.moverReset mc 0 2) fun s _ =>
      decide (s.dev.lets mc ⟨.MOV_CTL, 0, movIdx 0 2⟩ = true ∧ s.dev.leadBusy = false ∧ s.dev.cfgLog = [] ∧ s.dev.applied = [] ∧ 0 ∈ s.dev.replicas
        ∧ (s.dev.mover 0 2).resetting = false ∧ 9 ∈ s.dev.moverRings 0 2)) &&
    (meets (st fun d => (((d.setRingState 9 1).modRing 9 fun g =>
      { g with ctl := (0x40220006#32), desc := 0x10000, cpl := 0x20000 , staged := [(1, []), (2, [])], fetchOut := some 3 })).modRing 9 fun g =>
      { g with ctl := g.ctl ||| 0x08000000#32 }) (.moverReset mc 1 2) fun s _ =>
      decide (s.dev.lets mc ⟨.MOV_CTL, 0, movIdx 1 2⟩ = true ∧ s.dev.leadBusy = false ∧ s.dev.cfgLog = [] ∧ s.dev.applied = [] ∧ 1 ∈ s.dev.replicas
        ∧ (s.dev.mover 1 2).resetting = false ∧ 9 ∈ s.dev.moverRings 1 2))) = true := by
  decide +kernel

theorem witness_Taps :
    ((meets (st fun d => let d :=
      { d with taps := d.taps.set {} ⟨4, 0, 0⟩ { run := some ({ ring := 9, desc := 5, die := 0, m := 2, sup := false, ctl := (0x2800D000#32), geom := 0x01000020#32, rowBytes := 640, picture := 3, logBase := 0x9000, logCtl := 4#32, phase := .run, handle := handleOf 3 5 2 , row := 2 } : TapRun) } };
      let h := d.homeOf 3; (((d.setFld POOL_STAT.ACTIVE 0 3 1).setFld POOL_CTL.OWNERS h 3 4).setReg .POOL_COUNT h 3 9#32)) (.tapFinish 4) fun s _ =>
      decide ((s.dev.tap 4).run = some
        ({ ring := 9, desc := 5, die := 0, m := 2, sup := false, ctl := (0x2800D000#32), geom := 0x01000020#32, rowBytes := 640, picture := 3, logBase := 0x9000, logCtl := 4#32, phase := .run, handle := handleOf 3 5 2 , row := 2 }
        : TapRun) ∧ (tapForm (0x2800D000#32) 0x01000020#32).nbr ≤ 2 ∧ s.dev.poolOn (handlePool (handleOf 3 5 2)) = true ∧ handleOf 3 5 2 < 2 ^ 48 ∧
        handleGen (handleOf 3 5 2) ≠ 0 ∧ handleIndex (handleOf 3 5 2) < s.dev.poolCount (handlePool (handleOf 3 5 2)) ∧ tapOwner
        ({ ring := 9, desc := 5, die := 0, m := 2, sup := false, ctl := (0x2800D000#32), geom := 0x01000020#32, rowBytes := 640, picture := 3, logBase := 0x9000, logCtl := 4#32, phase := .run, handle := handleOf 3 5 2 , row := 2 }
        : TapRun) < s.dev.poolOwners (handlePool (handleOf 3 5 2)) ∧ (s.dev.pool (handlePool (handleOf 3 5 2))).jobs = [] ∧ bitsOf (0x2800D000#32) 13
        11 < s.dev.poolOwners 3)) &&
    (meets (st fun d => let d :=
      { d with taps := d.taps.set {} ⟨4, 0, 0⟩ { run := some ({ ring := 9, desc := 5, die := 0, m := 2, sup := false, ctl := (0x2800D000#32), geom := 0x01000020#32, rowBytes := 640, picture := 3, logBase := 0x9000, logCtl := 4#32, phase := .run, handle := handleOf 3 5 2 , row := 1 } : TapRun) } };
      let h := d.homeOf 3; (((d.setFld POOL_STAT.ACTIVE 0 3 1).setFld POOL_CTL.OWNERS h 3 4).setReg .POOL_COUNT h 3 9#32)) (.tapFinish 4) fun s _ =>
      decide ((s.dev.tap 4).run = some
        ({ ring := 9, desc := 5, die := 0, m := 2, sup := false, ctl := (0x2800D000#32), geom := 0x01000020#32, rowBytes := 640, picture := 3, logBase := 0x9000, logCtl := 4#32, phase := .run, handle := handleOf 3 5 2 , row := 1 }
        : TapRun) ∧ 1 < (tapForm (0x2800D000#32) 0x01000020#32).nbr)) &&
    (meets (st fun d => d) (.tapFinish 4) fun s _ =>
      decide ((s.dev.tap 4).run = none)) &&
    (meets (st fun d => let d :=
      { d with taps := d.taps.set {} ⟨4, 0, 0⟩ { run := some ({ ring := 9, desc := 5, die := 0, m := 2, sup := false, ctl := (0x2800D000#32), geom := 0x01000020#32, rowBytes := 640, picture := 3, logBase := 0x9000, logCtl := 4#32, phase := .run, handle := handleOf 3 5 2 , row := 1 } : TapRun) } };
      let h := d.homeOf 3; (((d.setFld POOL_STAT.ACTIVE 0 3 1).setFld POOL_CTL.OWNERS h 3 4).setReg .POOL_COUNT h 3 9#32)) (.tapFinish 4) fun s _ =>
      decide ((s.dev.tap 4).run ≠ none)) &&
    (meets (st fun d => d) (.tapShed 4) fun s _ =>
      decide ((s.dev.tap 4).run = none)) &&
    (meets (st fun d => let d :=
      { d with taps := d.taps.set {} ⟨4, 0, 0⟩ { run := some ({ ring := 9, desc := 5, die := 0, m := 2, sup := false, ctl := (0x2800D000#32), geom := 0x01000020#32, rowBytes := 640, picture := 3, logBase := 0x9000, logCtl := 4#32, phase := .run, handle := handleOf 3 5 2 , row := 1 } : TapRun) } };
      let h := d.homeOf 3; (((d.setFld POOL_STAT.ACTIVE 0 3 1).setFld POOL_CTL.OWNERS h 3 4).setReg .POOL_COUNT h 3 9#32)) (.tapShed 4) fun s _ =>
      decide ((s.dev.tap 4).run ≠ none)) &&
    (meets (st fun d => let d :=
      { d with taps := d.taps.set {} ⟨4, 0, 0⟩ { run := some ({ ring := 9, desc := 5, die := 0, m := 2, sup := false, ctl := (0x2800D000#32), geom := 0x01000020#32, rowBytes := 640, picture := 3, logBase := 0x9000, logCtl := 4#32, phase := .run, handle := handleOf 3 5 2 , row := 1 } : TapRun) } };
      let h := d.homeOf 3; (((d.setFld POOL_STAT.ACTIVE 0 3 1).setFld POOL_CTL.OWNERS h 3 4).setReg .POOL_COUNT h 3 9#32)) (.tapShed 4) fun s _ =>
      decide ((s.dev.tap 4).run = some
        ({ ring := 9, desc := 5, die := 0, m := 2, sup := false, ctl := (0x2800D000#32), geom := 0x01000020#32, rowBytes := 640, picture := 3, logBase := 0x9000, logCtl := 4#32, phase := .run, handle := handleOf 3 5 2 , row := 1 }
        : TapRun) ∧ (0x2800D000#32).getLsbD 29 = true ∧ handleOf 3 5 2 ≠ 0 ∧ s.dev.poolOn (handlePool (handleOf 3 5 2)) = true ∧ handleOf 3 5 2 < 2 ^
        48 ∧ handleGen (handleOf 3 5 2) ≠ 0 ∧ handleIndex (handleOf 3 5 2) < s.dev.poolCount (handlePool (handleOf 3 5 2)) ∧ tapOwner
        ({ ring := 9, desc := 5, die := 0, m := 2, sup := false, ctl := (0x2800D000#32), geom := 0x01000020#32, rowBytes := 640, picture := 3, logBase := 0x9000, logCtl := 4#32, phase := .run, handle := handleOf 3 5 2 , row := 1 }
        : TapRun) < s.dev.poolOwners (handlePool (handleOf 3 5 2)) ∧ (s.dev.pool (handlePool (handleOf 3 5 2))).jobs = [])) &&
    (meets (st fun d => let d :=
      { d with taps := d.taps.set {} ⟨4, 0, 0⟩ { run := some ({ ring := 9, desc := 5, die := 0, m := 2, sup := false, ctl := (0x0800D000#32), geom := 0x01000020#32, rowBytes := 640, picture := 3, logBase := 0x9000, logCtl := 4#32, phase := .run, handle := handleOf 3 5 2 , row := 1 } : TapRun) } };
      let h := d.homeOf 3; (((d.setFld POOL_STAT.ACTIVE 0 3 1).setFld POOL_CTL.OWNERS h 3 4).setReg .POOL_COUNT h 3 9#32)) (.tapShed 4) fun s _ =>
      decide ((s.dev.tap 4).run = some
        ({ ring := 9, desc := 5, die := 0, m := 2, sup := false, ctl := (0x0800D000#32), geom := 0x01000020#32, rowBytes := 640, picture := 3, logBase := 0x9000, logCtl := 4#32, phase := .run, handle := handleOf 3 5 2 , row := 1 }
        : TapRun) ∧ (0x0800D000#32).getLsbD 29 = false)) &&
    (meets (st fun d => ((let d :=
      { d with taps := d.taps.set {} ⟨4, 0, 0⟩ { run := some ({ ring := 9, desc := 5, die := 0, m := 2, sup := false, ctl := (0x0800D000#32), geom := 0x01000020#32, rowBytes := 640, picture := 3, logBase := 0x9000, logCtl := 4#32, phase := .run, handle := handleOf 3 5 2 , row := 1 } : TapRun) } };
      let h := d.homeOf 3; (((d.setFld POOL_STAT.ACTIVE 0 3 1).setFld POOL_CTL.OWNERS h 3 4).setReg .POOL_COUNT h 3 9#32)).setFld TAP_STAT.HAS_PREV 0
      4 1)) (.tapRestart mc 4) fun s _ =>
      decide (s.dev.lets mc ⟨.TAP_CMD, 0, 4⟩ = true ∧ (s.dev.tap 4).run = some
        ({ ring := 9, desc := 5, die := 0, m := 2, sup := false, ctl := (0x0800D000#32), geom := 0x01000020#32, rowBytes := 640, picture := 3, logBase := 0x9000, logCtl := 4#32, phase := .run, handle := handleOf 3 5 2 , row := 1 }
        : TapRun))) &&
    (meets (st fun d => ((let d := { d with taps := d.taps.set {} ⟨4, 0, 0⟩ { owner := 2 } }; let h := d.homeOf 3; (((d.setFld POOL_STAT.ACTIVE 0 3
      1).setFld POOL_CTL.OWNERS h 3 4).setReg .POOL_COUNT h 3 9#32)).setFld TAP_STAT.HAS_PREV 0 4 1).setPair .TAP_PREV_LO .TAP_PREV_HI 0 4 (handleOf 3
      5 2)) (.tapRestart mc 4) fun s _ =>
      decide (s.dev.lets mc ⟨.TAP_CMD, 0, 4⟩ = true ∧ (s.dev.tap 4).run = none ∧ s.dev.fld TAP_STAT.HAS_PREV 0 4 = 1 ∧ s.dev.pair .TAP_PREV_LO
        .TAP_PREV_HI 0 4 = handleOf 3 5 2 ∧ s.dev.poolOn (handlePool (handleOf 3 5 2)) = true ∧ handleOf 3 5 2 < 2 ^ 48 ∧ handleGen (handleOf 3 5 2) ≠
        0 ∧ handleIndex (handleOf 3 5 2) < s.dev.poolCount (handlePool (handleOf 3 5 2)) ∧ (s.dev.tap 4).owner < s.dev.poolOwners (handlePool
        (handleOf 3 5 2)) ∧ (s.dev.pool (handlePool (handleOf 3 5 2))).jobs = [])) &&
    (meets (st fun d => d) (.tapRestart mc 4) fun s _ =>
      decide (s.dev.lets mc ⟨.TAP_CMD, 0, 4⟩ = true ∧ (s.dev.tap 4).run = none ∧ s.dev.fld TAP_STAT.HAS_PREV 0 4 = 0)) &&
    (meets (st fun d =>
      ({ d with taps := d.taps.set {} ⟨4, 0, 0⟩ { run := some ({ ring := 9, desc := 5, die := 0, m := 2, sup := false, ctl := (0x2800D000#32), geom := 0x01000020#32, rowBytes := 640, picture := 3, logBase := 0x9000, logCtl := 4#32, phase := .log, handle := handleOf 3 5 2  } : TapRun) } }
      : Dev).setFld TAP_LOG_PTR.WR 0 4 16) (.tapLogRdWrite mc 4 1) fun s _ =>
      decide (s.dev.lets mc ⟨.TAP_LOG_PTR, 0, 4⟩ = true ∧ (s.dev.tap 4).run = some
        ({ ring := 9, desc := 5, die := 0, m := 2, sup := false, ctl := (0x2800D000#32), geom := 0x01000020#32, rowBytes := 640, picture := 3, logBase := 0x9000, logCtl := 4#32, phase := .log, handle := handleOf 3 5 2  }
        : TapRun) ∧ (s.dev.fld TAP_LOG_PTR.WR 0 4 + 65536 - 1) % 65536 ≠ min (2 ^ bitsOf 4#32 4 0) 65535)) &&
    (meets (st fun d => d.setFld TAP_LOG_PTR.WR 0 4 16) (.tapLogRdWrite mc 4 9) fun s _ =>
      decide (s.dev.lets mc ⟨.TAP_LOG_PTR, 0, 4⟩ = true ∧ (s.dev.tap 4).run = none))) = true := by
  decide +kernel

theorem witness_WindowTimers :
    ((meets (st fun d => up 0 (d.modPort 0 fun o =>
      { o with runs := [({ path := 0, win := (base.window 0 false 7), far := 64, bytes := [some 1, some 2], accs := [({ id := 1, die := 0, rid := 256, tag := 7, ro := false, ido := false, op := .write [some 1, some 2], off := 1048640, win := (base.window 0 false 7), far := 64, epoch := 0, sw := 0 } : Acc)] } : Run)] }))
      (.wcHoldExpiry 0 0) fun s _ =>
      decide ((s.dev.port 0).runs[0]? = some
        ({ path := 0, win := (base.window 0 false 7), far := 64, bytes := [some 1, some 2], accs := [({ id := 1, die := 0, rid := 256, tag := 7, ro := false, ido := false, op := .write [some 1, some 2], off := 1048640, win := (base.window 0 false 7), far := 64, epoch := 0, sw := 0 } : Acc)] }
        : Run) ∧ (s.dev.port 0).runs.filter (· ==
        ({ path := 0, win := (base.window 0 false 7), far := 64, bytes := [some 1, some 2], accs := [({ id := 1, die := 0, rid := 256, tag := 7, ro := false, ido := false, op := .write [some 1, some 2], off := 1048640, win := (base.window 0 false 7), far := 64, epoch := 0, sw := 0 } : Acc)] }
        : Run)) =
        [({ path := 0, win := (base.window 0 false 7), far := 64, bytes := [some 1, some 2], accs := [({ id := 1, die := 0, rid := 256, tag := 7, ro := false, ido := false, op := .write [some 1, some 2], off := 1048640, win := (base.window 0 false 7), far := 64, epoch := 0, sw := 0 } : Acc)] }
        : Run)] ∧ s.dev.rootHeld (dieOf 0) = false ∧ s.dev.asleep = false ∧ (s.dev.port 0).works = [])) &&
    (meets (st fun d => d) (.wcHoldExpiry 0 0) fun s _ =>
      decide ((s.dev.port 0).runs[0]? = none)) &&
    (meets (st fun d => up 0 (d.modPort 0 fun o =>
      { o with runs := [({ path := 0, win := (base.window 0 false 7), far := 64, bytes := [some 1, some 2], accs := [({ id := 1, die := 0, rid := 256, tag := 7, ro := false, ido := false, op := .write [some 1, some 2], off := 1048640, win := (base.window 0 false 7), far := 64, epoch := 0, sw := 0 } : Acc)] } : Run)] }))
      (.wcHoldExpiry 0 0) fun s _ =>
      decide ((s.dev.port 0).runs ≠ [] ∧ s.dev.rootHeld (dieOf 0) = false ∧ s.dev.asleep = false)) &&
    (meets (st fun d => d.modPort 0 fun o =>
      { o with pf := [({ win := (base.window 0 false 7), far := 4096, data := [1, 2, 3, 4], used := [(4096, 2)] } : PfBlock)] }) (.prefetchAgeExpiry 0
      0) fun s _ =>
      decide ((s.dev.port 0).pf[0]? = some ({ win := (base.window 0 false 7), far := 4096, data := [1, 2, 3, 4], used := [(4096, 2)] } : PfBlock) ∧
        (s.dev.port 0).pf.filter (· == ({ win := (base.window 0 false 7), far := 4096, data := [1, 2, 3, 4], used := [(4096, 2)] } : PfBlock)) =
        [({ win := (base.window 0 false 7), far := 4096, data := [1, 2, 3, 4], used := [(4096, 2)] } : PfBlock)] ∧ coveredBy
        (({ win := (base.window 0 false 7), far := 4096, data := [1, 2, 3, 4], used := [(4096, 2)] } : PfBlock)).used 4096 4 = false ∧ s.dev.rootHeld
        (dieOf 0) = false ∧ s.dev.asleep = false ∧ (s.dev.queue 0 61).extra = 0 ∧ (s.dev.queue 0 61).used + 8 ≤ 8192)) &&
    (meets (st fun d => d.modPort 0 fun o =>
      { o with pf := [({ win := (base.window 0 false 7), far := 4096, data := [1, 2, 3, 4], used := [(4096, 4)] } : PfBlock)] }) (.prefetchAgeExpiry 0
      0) fun s _ =>
      decide ((s.dev.port 0).pf[0]? = some ({ win := (base.window 0 false 7), far := 4096, data := [1, 2, 3, 4], used := [(4096, 4)] } : PfBlock) ∧
        (s.dev.port 0).pf.filter (· == ({ win := (base.window 0 false 7), far := 4096, data := [1, 2, 3, 4], used := [(4096, 4)] } : PfBlock)) =
        [({ win := (base.window 0 false 7), far := 4096, data := [1, 2, 3, 4], used := [(4096, 4)] } : PfBlock)] ∧ coveredBy
        (({ win := (base.window 0 false 7), far := 4096, data := [1, 2, 3, 4], used := [(4096, 4)] } : PfBlock)).used 4096 4 = true ∧ s.dev.rootHeld
        (dieOf 0) = false ∧ s.dev.asleep = false ∧ (s.dev.queue 0 61).extra = 0 ∧ (s.dev.queue 0 61).used + 8 ≤ 8192)) &&
    (meets (st fun d => d.modPort 0 fun o =>
      { o with pf := [({ win := (base.window 0 false 7), far := 4096, data := [1, 2, 3, 4], used := [], want := 2 } : PfBlock)] }) (.prefetchAgeExpiry
      0 0) fun s _ =>
      decide ((s.dev.port 0).pf[0]? = some ({ win := (base.window 0 false 7), far := 4096, data := [1, 2, 3, 4], used := [], want := 2 } :
        PfBlock))) &&
    (meets (st fun d => d) (.prefetchAgeExpiry 0 0) fun s _ =>
      decide ((s.dev.port 0).pf[0]? = none)) &&
    (meets (st fun d => d.modPort 0 fun o =>
      { o with pf := [({ win := (base.window 0 false 7), far := 4096, data := [1, 2, 3, 4], used := [(4096, 2)] } : PfBlock)] }) (.prefetchAgeExpiry 0
      0) fun s _ =>
      decide ((s.dev.port 0).pf ≠ [] ∧ s.dev.rootHeld (dieOf 0) = false ∧ s.dev.asleep = false)) &&
    (meets (st fun d => d.modTc 0 fun t =>
      { t with reads := [({ id := 4, inb := false, win := 7, tableB := false, line := 0, keep := true, accs := [] } : PageRead)] }) (.pageLineReadDone
      0 4 (some [1, 2, 3])) fun s _ =>
      decide ((s.dev.tc 0).reads.find? (fun q => q.id == 4) = some
        ({ id := 4, inb := false, win := 7, tableB := false, line := 0, keep := true, accs := [] } : PageRead))) &&
    (meets (st fun d => d.modTc 0 fun t =>
      { t with reads := [({ id := 4, inb := false, win := 7, tableB := false, line := 0, keep := false, accs := [] } : PageRead)] })
      (.pageLineReadDone 0 4 (some [1, 2, 3])) fun s _ =>
      decide ((s.dev.tc 0).reads.find? (fun q => q.id == 4) = some
        ({ id := 4, inb := false, win := 7, tableB := false, line := 0, keep := false, accs := [] } : PageRead))) &&
    (meets (st fun d => d.modTc 0 fun t =>
      { t with reads := [({ id := 4, inb := false, win := 7, tableB := false, line := 0, keep := true, accs := [] } : PageRead)] }) (.pageLineReadDone
      0 4 none) fun s _ =>
      decide ((s.dev.tc 0).reads.find? (fun q => q.id == 4) = some
        ({ id := 4, inb := false, win := 7, tableB := false, line := 0, keep := true, accs := [] } : PageRead))) &&
    (meets (st fun d => ((up 5 d).modTc 0 fun t =>
      { t with reads := [({ id := 4, inb := false, win := 7, tableB := false, line := 0, keep := true, accs := [({ id := 1, die := 0, rid := 256, tag := 7, ro := false, ido := false, op := .read [true, true, true, true], off := 0x100040, win := ({ num := 7, ctl := 0x80201000#32, base := 0x100000, limit := 0xffffff, route := 0x05000000#32 } : Win), far := 0, epoch := 0, sw := 0 } : Acc)] } : PageRead)] }).modPort
      5 fun o =>
      { o with works := [(accWork ({ id := 1, die := 0, rid := 256, tag := 7, ro := false, ido := false, op := .read [true, true, true, true], off := 0x100040, win := ({ num := 7, ctl := 0x80201000#32, base := 0x100000, limit := 0xffffff, route := 0x05000000#32 } : Win), far := 0, epoch := 0, sw := 0 } : Acc) 1 false)] })
      (.pageLineReadDone 0 4 (some [0x600001])) fun s _ =>
      decide ((s.dev.tc 0).reads.find? (fun q => q.id == 4) = some
        ({ id := 4, inb := false, win := 7, tableB := false, line := 0, keep := true, accs := [({ id := 1, die := 0, rid := 256, tag := 7, ro := false, ido := false, op := .read [true, true, true, true], off := 0x100040, win := ({ num := 7, ctl := 0x80201000#32, base := 0x100000, limit := 0xffffff, route := 0x05000000#32 } : Win), far := 0, epoch := 0, sw := 0 } : Acc)] }
        : PageRead) ∧ 5 ∈ s.dev.livePorts ∧ (s.dev.port 5).works = [(accWork
        ({ id := 1, die := 0, rid := 256, tag := 7, ro := false, ido := false, op := .read [true, true, true, true], off := 0x100040, win := ({ num := 7, ctl := 0x80201000#32, base := 0x100000, limit := 0xffffff, route := 0x05000000#32 } : Win), far := 0, epoch := 0, sw := 0 }
        : Acc) 1 false)] ∧ ((accWork
        ({ id := 1, die := 0, rid := 256, tag := 7, ro := false, ido := false, op := .read [true, true, true, true], off := 0x100040, win := ({ num := 7, ctl := 0x80201000#32, base := 0x100000, limit := 0xffffff, route := 0x05000000#32 } : Win), far := 0, epoch := 0, sw := 0 }
        : Acc) 1 false)).ready = false ∧ ((accWork
        ({ id := 1, die := 0, rid := 256, tag := 7, ro := false, ido := false, op := .read [true, true, true, true], off := 0x100040, win := ({ num := 7, ctl := 0x80201000#32, base := 0x100000, limit := 0xffffff, route := 0x05000000#32 } : Win), far := 0, epoch := 0, sw := 0 }
        : Acc) 1 false)).job.accs =
        [({ id := 1, die := 0, rid := 256, tag := 7, ro := false, ido := false, op := .read [true, true, true, true], off := 0x100040, win := ({ num := 7, ctl := 0x80201000#32, base := 0x100000, limit := 0xffffff, route := 0x05000000#32 } : Win), far := 0, epoch := 0, sw := 0 }
        : Acc)] ∧ (∀ q ∈ s.dev.livePorts, q ≠ 5 → (s.dev.port q).works = []) ∧ s.dev.listGone (s.dev.listAt
        ({ num := 7, ctl := 0x80201000#32, base := 0x100000, limit := 0xffffff, route := 0x05000000#32 } : Win)) = false ∧ useEntry
        ({ num := 7, ctl := 0x80201000#32, base := 0x100000, limit := 0xffffff, route := 0x05000000#32 } : Win) 0x40 0x600001 false = .far 0x600040))
        &&
    (meets (st fun d => ((up 5 d).modTc 0 fun t =>
      { t with reads := [({ id := 4, inb := false, win := 7, tableB := false, line := 0, keep := true, accs := [({ id := 1, die := 0, rid := 256, tag := 7, ro := false, ido := false, op := .read [true, true, true, true], off := 0x100040, win := ({ num := 7, ctl := 0x80201000#32, base := 0x100000, limit := 0xffffff, route := 0x05000000#32 } : Win), far := 0, epoch := 0, sw := 0 } : Acc)] } : PageRead)] }).modPort
      5 fun o =>
      { o with works := [(accWork ({ id := 1, die := 0, rid := 256, tag := 7, ro := false, ido := false, op := .read [true, true, true, true], off := 0x100040, win := ({ num := 7, ctl := 0x80201000#32, base := 0x100000, limit := 0xffffff, route := 0x05000000#32 } : Win), far := 0, epoch := 0, sw := 0 } : Acc) 1 false)] })
      (.pageLineReadDone 0 4 (some [0x600001])) fun s _ =>
      decide ((s.dev.tc 0).reads ≠ [])) &&
    (meets (st fun d => (d.setReg (winReg true .WIN_O_STAT) 0 7 0x80000000#32).setFld ERR_DEF_INFO.VALID 0 (4096 + 7) 1) (.mireClear mc true 7) fun
      s _ =>
      decide (s.dev.lets mc ⟨.ERR_MIRE_CLR, 0, 0⟩ = true ∧ s.dev.mired true 7 = true)) &&
    (meets (st fun d => (d.setReg (winReg false .WIN_O_STAT) 0 7 0x80000000#32).setFld ERR_DEF_INFO.VALID 0 (0 + 7) 1) (.mireClear mc false 7) fun
      s _ =>
      decide (s.dev.lets mc ⟨.ERR_MIRE_CLR, 0, 0⟩ = true ∧ s.dev.mired false 7 = true)) &&
    (meets (st fun d => d) (.mireClear mc false 7) fun s _ =>
      decide (s.dev.lets mc ⟨.ERR_MIRE_CLR, 0, 0⟩ = true ∧ s.dev.mired false 7 = false))) = true := by
  decide +kernel

theorem witness_DirectAccesses :
    ((meets (st fun d => (((((d.setReg .WIN_O_CTL 0 7 0x80001000#32).setReg .WIN_O_LIMIT_LO 0 7 0x00fff000#32).setReg .WIN_O_BASE_LO 0 7
      0x00100000#32).setReg .WIN_O_ROUTE 0 7 0x05000000#32)).cfgPut 0 4 2) (.atomicOp px 0x100042 .swap 4 1 2) fun s _ =>
      decide (AccOp.malformed 0x100042 (.atomic .swap 4 1 2) = true ∧ s.dev.waitsCredit 0 false = false)) &&
    (meets (st fun d => d) (.outboundRead px 0x100040 [true, true, true, true]) fun s _ =>
      decide ((∀ o ∈ (s.dev.px 0).owed, o.id < s.dev.nextId) ∧ s.dev.memEnable 0 = false ∧ s.dev.waitsCredit 0 false = false)) &&
    (meets (st fun d => let d := mapped 0 d; (((((d.setReg .WIN_O_CTL 0 7 0x80001000#32).setReg .WIN_O_LIMIT_LO 0 7 0x00fff000#32).setReg
      .WIN_O_BASE_LO 0 7 0x00100000#32).setReg .WIN_O_ROUTE 0 7 0x05000000#32))) (.outboundRead px 0x40 [true, true, true, true]) fun s _ =>
      decide ((∀ o ∈ (s.dev.px 0).owed, o.id < s.dev.nextId) ∧ s.dev.memEnable 0 = true ∧ s.dev.matchOut 0 0x40 4 = none ∧ (s.dev.protCheck
        (s.dev.srcReq px .aperture 0x40 4 0)).1.denied = false ∧ s.dev.flag MC_BOOT_STAT.DONE 0 = true ∧ s.dev.barSet 0 2 = true ∧ s.dev.waitsCredit 0
        false = false)) &&
    (meets (st fun d => let d := mapped 0 d; (((((d.setReg .WIN_O_CTL 0 7 0x80001000#32).setReg .WIN_O_LIMIT_LO 0 7 0x00fff000#32).setReg
      .WIN_O_BASE_LO 0 7 0x00100000#32).setReg .WIN_O_ROUTE 0 7 0x05000000#32))) (.outboundWrite px 0x40 [some 1, some 2, none, some 4]) fun s _ =>
      decide ((∀ o ∈ (s.dev.px 0).owed, o.id < s.dev.nextId) ∧ s.dev.memEnable 0 = true ∧ s.dev.matchOut 0 0x40 4 = none ∧ (s.dev.protCheck
        (s.dev.srcReq px .aperture 0x40 4 1)).1.denied = false ∧ s.dev.flag MC_BOOT_STAT.DONE 0 = true ∧ s.dev.barSet 0 2 = true ∧ s.dev.waitsCredit 0
        true = false ∧ px.poison = false)) &&
    (meets (st fun d => let d := mapped 0 d; ((((((((d.setReg .WIN_O_CTL 0 7 0x80001000#32).setReg .WIN_O_LIMIT_LO 0 7 0x00fff000#32).setReg
      .WIN_O_BASE_LO 0 7 0x00100000#32).setReg .WIN_O_ROUTE 0 7 0x05000000#32))).putActv ⟨.PROT_DEFAULT, 0, 0⟩ 0#32))) (.outboundRead px 0x100040
      [true, true, true, true]) fun s _ =>
      decide ((∀ o ∈ (s.dev.px 0).owed, o.id < s.dev.nextId) ∧ s.dev.memEnable 0 = true ∧ s.dev.d3hot 0 = false ∧ s.dev.matchOut 0 0x100040 4 =
        some (s.dev.window 0 false 7) ∧ ¬ (s.dev.protCheck (s.dev.srcReq px .aperture 0x100040 4 0)).1.denied = false ∧ s.dev.flag MC_BOOT_STAT.DONE 0
        = true ∧ s.dev.barSet 0 2 = true ∧ s.dev.waitsCredit 0 false = false)) &&
    (meets (st fun d => let d := mapped 0 d; (((((d.setReg .WIN_O_CTL 0 7 0x80001000#32).setReg .WIN_O_LIMIT_LO 0 7 0x00fff000#32).setReg
      .WIN_O_BASE_LO 0 7 0x00100000#32).setReg .WIN_O_ROUTE 0 7 0x05000000#32).setReg (winReg false .WIN_O_STAT) 0 7 0x80000000#32)) (.outboundRead px
      0x100040 [true, true, true, true]) fun s _ =>
      decide ((∀ o ∈ (s.dev.px 0).owed, o.id < s.dev.nextId) ∧ s.dev.memEnable 0 = true ∧ s.dev.d3hot 0 = false ∧ s.dev.matchOut 0 0x100040 4 =
        some (s.dev.window 0 false 7) ∧ (s.dev.protCheck (s.dev.srcReq px .aperture 0x100040 4 0)).1.denied = false ∧ s.dev.mired false 7 = true ∧
        s.dev.flag MC_BOOT_STAT.DONE 0 = true ∧ s.dev.barSet 0 2 = true ∧ s.dev.waitsCredit 0 false = false)) &&
    (meets (st fun d => let d := mapped 0 d; (((((d.setReg .WIN_O_CTL 0 7 0x80001000#32).setReg .WIN_O_LIMIT_LO 0 7 0x00fff000#32).setReg
      .WIN_O_BASE_LO 0 7 0x00100000#32).setReg .WIN_O_ROUTE 0 7 0x05000000#32).setReg (winReg false .WIN_O_STAT) 0 7 0x80000000#32)) (.outboundRead px
      0x100040 [false, false, false, false]) fun s _ =>
      decide ((∀ o ∈ (s.dev.px 0).owed, o.id < s.dev.nextId) ∧ s.dev.memEnable 0 = true ∧ s.dev.d3hot 0 = false ∧ s.dev.matchOut 0 0x100040 4 =
        some (s.dev.window 0 false 7) ∧ s.dev.mired false 7 = true ∧ s.dev.flag MC_BOOT_STAT.DONE 0 = true ∧ s.dev.barSet 0 2 = true ∧
        s.dev.waitsCredit 0 false = false)) &&
    (meets (st fun d => let d := mapped 0 d; (((((d.setReg .WIN_O_CTL 0 7 0x80001000#32).setReg .WIN_O_LIMIT_LO 0 7 0x00fff000#32).setReg
      .WIN_O_BASE_LO 0 7 0x00100000#32).setReg .WIN_O_ROUTE 0 7 0x05000000#32).setReg (winReg false .WIN_O_STAT) 0 7 0x80000000#32)) (.outboundWrite
      px 0x100040 [some 1, some 2, none, some 4]) fun s _ =>
      decide ((∀ o ∈ (s.dev.px 0).owed, o.id < s.dev.nextId) ∧ s.dev.memEnable 0 = true ∧ s.dev.d3hot 0 = false ∧ s.dev.matchOut 0 0x100040 4 =
        some (s.dev.window 0 false 7) ∧ (s.dev.protCheck (s.dev.srcReq px .aperture 0x100040 4 1)).1.denied = false ∧ s.dev.mired false 7 = true ∧
        s.dev.flag MC_BOOT_STAT.DONE 0 = true ∧ s.dev.barSet 0 2 = true ∧ s.dev.waitsCredit 0 true = false ∧ px.poison = false)) &&
    (meets (st fun d => let d := mapped 0 d; up 5 ((((((d.setReg .WIN_O_CTL 0 7 0x80001000#32).setReg .WIN_O_LIMIT_LO 0 7 0x00fff000#32).setReg
      .WIN_O_BASE_LO 0 7 0x00100000#32).setReg .WIN_O_ROUTE 0 7 0x05000000#32)))) (.outboundRead px 0x100040 [true, true, true, true]) fun s _ =>
      decide ((∀ o ∈ (s.dev.px 0).owed, o.id < s.dev.nextId) ∧ s.dev.memEnable 0 = true ∧ s.dev.d3hot 0 = false ∧ s.dev.matchOut 0 0x100040 4 =
        some (s.dev.window 0 false 7) ∧ (s.dev.protCheck (s.dev.srcReq px .aperture 0x100040 4 0)).1.denied = false ∧ s.dev.mired false 7 = false ∧
        (s.dev.px 0).failNext = [] ∧ s.dev.translate 0 (s.dev.window 0 false 7) 0x100040 false = .far 0x40 ∧ s.dev.listAt (s.dev.window 0 false 7) = 5
        ∧ (s.dev.port 5).runs = [] ∧ s.dev.listGone (s.dev.window 0 false 7).routePort = false ∧ (s.dev.window 0 false 7).combines = false ∧
        s.dev.flag MC_BOOT_STAT.DONE 0 = true ∧ s.dev.barSet 0 2 = true ∧ s.dev.waitsCredit 0 false = false)) &&
    (meets (st fun d => let d := mapped 0 d; up 5 ((((((d.setReg .WIN_O_CTL 0 7 0x80001000#32).setReg .WIN_O_LIMIT_LO 0 7 0x00fff000#32).setReg
      .WIN_O_BASE_LO 0 7 0x00100000#32).setReg .WIN_O_ROUTE 0 7 0x05000000#32)))) (.outboundWrite px 0x100040 [some 1, some 2, none, some 4]) fun s _
      =>
      decide ((∀ o ∈ (s.dev.px 0).owed, o.id < s.dev.nextId) ∧ s.dev.memEnable 0 = true ∧ s.dev.d3hot 0 = false ∧ s.dev.matchOut 0 0x100040 4 =
        some (s.dev.window 0 false 7) ∧ (s.dev.protCheck (s.dev.srcReq px .aperture 0x100040 4 1)).1.denied = false ∧ s.dev.mired false 7 = false ∧
        (s.dev.px 0).failNext = [] ∧ s.dev.translate 0 (s.dev.window 0 false 7) 0x100040 true = .far 0x40 ∧ s.dev.listAt (s.dev.window 0 false 7) = 5
        ∧ (s.dev.port 5).runs = [] ∧ s.dev.listGone (s.dev.window 0 false 7).routePort = false ∧ (s.dev.window 0 false 7).combines = false ∧
        s.dev.flag MC_BOOT_STAT.DONE 0 = true ∧ s.dev.barSet 0 2 = true ∧ s.dev.waitsCredit 0 true = false ∧ px.poison = false)) &&
    (meets (st fun d => let d := mapped 0 d; up 5 ((((((d.setReg .WIN_O_CTL 0 7 0x8411D000#32).setReg .WIN_O_LIMIT_LO 0 7 0x00fff000#32).setReg
      .WIN_O_BASE_LO 0 7 0x00100000#32).setReg .WIN_O_ROUTE 0 7 0x05000000#32)))) (.atomicOp px 0x100040 .swap 4 1 2) fun s _ =>
      decide ((∀ o ∈ (s.dev.px 0).owed, o.id < s.dev.nextId) ∧ s.dev.memEnable 0 = true ∧ s.dev.d3hot 0 = false ∧ s.dev.matchOut 0 0x100040 4 =
        some (s.dev.window 0 false 7) ∧ (s.dev.protCheck (s.dev.srcReq px .aperture 0x100040 4 3)).1.denied = false ∧ s.dev.mired false 7 = false ∧
        (s.dev.px 0).failNext = [] ∧ s.dev.translate 0 (s.dev.window 0 false 7) 0x100040 true = .far 0x40 ∧ s.dev.listAt (s.dev.window 0 false 7) = 5
        ∧ (s.dev.port 5).runs = [] ∧ s.dev.listGone (s.dev.window 0 false 7).routePort = false ∧ (s.dev.window 0 false 7).combines = false ∧
        (s.dev.window 0 false 7).lock ≠ none ∧ 4 ≤ (s.dev.window 0 false 7).course ∧ s.dev.flag MC_BOOT_STAT.DONE 0 = true ∧ s.dev.barSet 0 2 = true ∧
        s.dev.waitsCredit 0 false = false ∧ px.poison = false)) &&
    (meets (st fun d => let d := mapped 0 d; (((((d.setReg .WIN_O_CTL 0 7 0x80001000#32).setReg .WIN_O_LIMIT_LO 0 7 0x00fff000#32).setReg
      .WIN_O_BASE_LO 0 7 0x00100000#32).setReg .WIN_O_ROUTE 0 7 0x05000000#32))) (.atomicOp px 0x100040 .swap 4 1 2) fun s _ =>
      decide ((∀ o ∈ (s.dev.px 0).owed, o.id < s.dev.nextId) ∧ s.dev.memEnable 0 = true ∧ s.dev.d3hot 0 = false ∧ s.dev.matchOut 0 0x100040 4 =
        some (s.dev.window 0 false 7) ∧ (s.dev.protCheck (s.dev.srcReq px .aperture 0x100040 4 3)).1.denied = false ∧ (s.dev.window 0 false 7).lock =
        none ∧ s.dev.flag MC_BOOT_STAT.DONE 0 = true ∧ s.dev.barSet 0 2 = true ∧ s.dev.waitsCredit 0 false = false ∧ px.poison = false)) &&
    (meets (st fun d => let d := mapped 0 d; (((((d.setReg .WIN_O_CTL 0 7 0x80001000#32).setReg .WIN_O_LIMIT_LO 0 7 0x00fff000#32).setReg
      .WIN_O_BASE_LO 0 7 0x00100000#32).setReg .WIN_O_ROUTE 0 7 0x05000000#32))) (.outboundWrite px 0x100040 [none, none, none, none]) fun s _ =>
      decide ((∀ o ∈ (s.dev.px 0).owed, o.id < s.dev.nextId) ∧ s.dev.memEnable 0 = true ∧ s.dev.d3hot 0 = false ∧ s.dev.matchOut 0 0x100040 4 =
        some (s.dev.window 0 false 7) ∧ s.dev.flag MC_BOOT_STAT.DONE 0 = true ∧ s.dev.barSet 0 2 = true ∧ s.dev.waitsCredit 0 true = false ∧ px.poison
        = false)) &&
    (meets (st fun d => noCredit false (mapped 0 d)) (.outboundRead px 0x100040 [true, true, true, true]) fun s _ =>
      decide (s.dev.waitsCredit 0 false = true)) &&
    (meets (st fun d => noCredit true (mapped 0 d)) (.outboundWrite px 0x100040 [some 1, some 2, none, some 4]) fun s _ =>
      decide (s.dev.waitsCredit 0 true = true)) &&
    (meets (st fun d => noCredit false (mapped 0 d)) (.atomicOp px 0x100040 .swap 4 1 2) fun s _ =>
      decide (s.dev.waitsCredit 0 false = true)) &&
    (meets (st fun d => mapped 0 d) (.outboundRead px 0x100040 [true, true, true, true]) fun _ _ =>
      decide (px.path < 8)) &&
    (meets (st fun d => mapped 0 d) (.outboundWrite px 0x100040 [some 1, some 2, none, some 4]) fun _ _ =>
      decide (px.path < 8)) &&
    (meets (st fun d => mapped 0 d) (.atomicOp px 0x100040 .swap 4 1 2) fun _ _ =>
      decide (px.path < 8))) = true := by
  decide +kernel

theorem witness_MonitorsAndScan :
    ((meets (st fun d => ((((d.setFld MON_CTL.EN 0 (slotIx 1 5) 1).setFld MON_SRC.KIND 0 (slotIx 1 5) 6).setFld MON_SRC.NUM 0 (slotIx 1 5)
      20).setFld MON_THRESH.THRESH 0 (slotIx 1 5) 2).modQueue 1 20 fun q => { q with items := [[1], [2], [3]] }) (.monitorLevelSample 1 5) fun s _ =>
      decide (s.dev.fld MON_SRC.KIND 0 (slotIx 1 5) = 6 ∧ s.dev.fld MON_SRC.NUM 0 (slotIx 1 5) = 20 ∧ (s.dev.queue 1 20).items.length = 3 ∧
        s.dev.flag MON_CTL.EN 0 (slotIx 1 5) = true ∧ s.dev.flag MON_CTL.FREEZE 0 (slotIx 1 5) = false ∧ s.dev.fld MON_THRESH.THRESH 0 (slotIx 1 5) =
        2 ∧ s.dev.rootHeld (1) = false ∧ s.dev.asleep = false)) &&
    (meets (st fun d => ((((d.setFld MON_CTL.EN 0 (slotIx 1 5) 1).setFld MON_SRC.KIND 0 (slotIx 1 5) 7).setFld MON_SRC.NUM 0 (slotIx 1 5)
      9)).setFld RING_CTL.HOME_DIE 1 9 1) (.monitorLevelSample 1 5) fun s _ =>
      decide (s.dev.fld MON_SRC.KIND 0 (slotIx 1 5) = 7 ∧ s.dev.fld MON_SRC.NUM 0 (slotIx 1 5) = 9 ∧ s.dev.fld RING_CTL.HOME_DIE 1 9 = 1 ∧
        s.dev.flag MON_CTL.EN 0 (slotIx 1 5) = true ∧ s.dev.flag MON_CTL.FREEZE 0 (slotIx 1 5) = false ∧ s.dev.rootHeld (1) = false ∧ s.dev.asleep =
        false)) &&
    (meets (st fun d => (((d.setFld MON_CTL.EN 0 (slotIx 1 5) 1).setFld MON_SRC.KIND 0 (slotIx 1 5) 6).setFld MON_SRC.NUM 0 (slotIx 1 5) 20).setFld
      MON_CTL.FREEZE 0 (slotIx 1 5) 1) (.monitorLevelSample 1 5) fun s _ =>
      decide (s.dev.fld MON_SRC.KIND 0 (slotIx 1 5) = 6 ∧ s.dev.fld MON_SRC.NUM 0 (slotIx 1 5) < 63 ∧ s.dev.flag MON_CTL.EN 0 (slotIx 1 5) = true ∧
        s.dev.flag MON_CTL.FREEZE 0 (slotIx 1 5) = true ∧ s.dev.rootHeld (1) = false ∧ s.dev.asleep = false)) &&
    (meets (st fun d => (((d.setFld MON_CTL.EN 0 (slotIx 1 5) 0).setFld MON_SRC.KIND 0 (slotIx 1 5) 6).setFld MON_SRC.NUM 0 (slotIx 1 5) 20))
      (.monitorLevelSample 1 5) fun s _ =>
      decide (s.dev.flag MON_CTL.EN 0 (slotIx 1 5) = false)) &&
    (meets (st fun d => (((d.setFld MON_CTL.EN 0 (slotIx 1 5) 1).setFld MON_SRC.KIND 0 (slotIx 1 5) 5).setFld MON_SRC.NUM 0 (slotIx 1 5) 20))
      (.monitorLevelSample 1 5) fun s _ =>
      decide (s.dev.fld MON_SRC.KIND 0 (slotIx 1 5) = 5)) &&
    (meets (st fun d => ((((d.setFld MON_CTL.EN 0 (slotIx 1 5) 1).setFld MON_SRC.KIND 0 (slotIx 1 5) 6).setFld MON_SRC.NUM 0 (slotIx 1 5)
      20).setFld MON_THRESH.THRESH 0 (slotIx 1 5) 2).modQueue 1 20 fun q => { q with items := [[1], [2], [3]] }) (.monitorLevelSample 1 5) fun s _ =>
      decide (s.dev.rootHeld 1 = false ∧ s.dev.asleep = false)) &&
    (meets (st fun d => (((d.setFld MON_CTL.EN 0 (slotIx 1 5) 1).setFld MON_SRC.KIND 0 (slotIx 1 5) 6).setFld MON_SRC.NUM 0 (slotIx 1 5) 20).setFld
      MON_COUNT.COUNT 0 (slotIx 1 5) 9 |>.setFld MON_BIN.HITS 0 (16 * (slotIx 1 5) + 15) 4 |>.setFld MON_STAT.OVER 0 (slotIx 1 5) 1) (.monitorClear mc
      1 5) fun s _ =>
      decide (s.dev.lets mc ⟨.MON_CTL, 0, (slotIx 1 5)⟩ = true)) &&
    (meets (st fun d => (((d.setFld MON_CTL.EN 0 (slotIx 1 5) 1).setFld MON_SRC.KIND 0 (slotIx 1 5) 6).setFld MON_SRC.NUM 0 (slotIx 1 5) 20).setFld
      MON_COUNT.COUNT 0 (slotIx 1 5) 9 |>.setFld MON_BIN.HITS 0 (16 * (slotIx 1 5) + 15) 4 |>.setFld MON_STAT.OVER 0 (slotIx 1 5) 1)
      (.monitorSourceWrite mc 1 5 0x70000FFF) fun s _ =>
      decide (s.dev.lets mc ⟨.MON_SRC, 0, (slotIx 1 5)⟩ = true)) &&
    (meets (st fun d => { d with fen := { asserted := true } }) (.extest 1) fun s _ =>
      decide (s.dev.fen.asserted = true)) &&
    (meets (st fun d => { d with fen := { asserted := true } }) (.samplePreload 1) fun s _ =>
      decide (s.dev.fen.asserted = true)) &&
    (meets (st fun d => { d with fen := { asserted := true } }) (.idcode 1) fun s _ =>
      decide (s.dev.fen.asserted = true)) &&
    (meets (st fun d => { d with fen := { asserted := true } }) (.clamp 1) fun s _ =>
      decide (s.dev.fen.asserted = true)) &&
    (meets (st fun d => { d with fen := { asserted := true } }) (.highz 1) fun s _ =>
      decide (s.dev.fen.asserted = true)) &&
    (meets (st fun d => { d with fen := { asserted := true } }) (.bypass 1) fun s _ =>
      decide (s.dev.fen.asserted = true)) &&
    (meets (st fun d => { d with fen := { asserted := false } }) (.extest 1) fun s _ =>
      decide (s.dev.fen.asserted = false)) &&
    (meets (st fun d => { d with fen := { asserted := false } }) (.samplePreload 1) fun s _ =>
      decide (s.dev.fen.asserted = false)) &&
    (meets (st fun d => { d with fen := { asserted := false } }) (.idcode 1) fun s _ =>
      decide (s.dev.fen.asserted = false)) &&
    (meets (st fun d => { d with fen := { asserted := false } }) (.clamp 1) fun s _ =>
      decide (s.dev.fen.asserted = false)) &&
    (meets (st fun d => { d with fen := { asserted := false } }) (.highz 1) fun s _ =>
      decide (s.dev.fen.asserted = false)) &&
    (meets (st fun d => { d with fen := { asserted := false } }) (.bypass 1) fun s _ =>
      decide (s.dev.fen.asserted = false))) = true := by
  decide +kernel

theorem witness_LeadHandoff :
    ((meets (st fun d => ((d.setFld MC_ROLE.ROLE 0 0 3).setFld MC_ROLE.ROLE 1 0 1).setFld MC_ROLE.HEALTHY 0 0 2) (.leadHandoff mc 1) fun s _ =>
      decide (1 ≠ s.dev.lead.lead ∧ s.dev.cfgLog = [] ∧ s.dev.heldCfg = [] ∧ s.dev.lets mc ⟨.DIE_SVC, 1, 0⟩ = true ∧ s.dev.leadBusy = false ∧
        (s.dev.fld MC_ROLE.HEALTHY s.dev.lead.lead).testBit 1 = true ∧ s.dev.fld MC_ROLE.ROLE s.dev.lead.lead = 3 ∧ s.dev.fld MC_ROLE.ROLE 1 = 1)) &&
    (meets (st fun d => (((d.setFld MC_ROLE.ROLE 0 0 3).setFld MC_ROLE.ROLE 1 0 2).setFld MC_ROLE.HEALTHY 0 0 2).setFld MC_ROLE.SYNC_LEVEL 1 0 5)
      (.leadHandoff mc 1) fun s _ =>
      decide (1 ≠ s.dev.lead.lead ∧ s.dev.cfgLog = [] ∧ s.dev.heldCfg = [] ∧ s.dev.lets mc ⟨.DIE_SVC, 1, 0⟩ = true ∧ s.dev.leadBusy = false ∧
        (s.dev.fld MC_ROLE.HEALTHY s.dev.lead.lead).testBit 1 = true ∧ s.dev.fld MC_ROLE.ROLE s.dev.lead.lead = 3 ∧ s.dev.fld MC_ROLE.ROLE 1 = 2 ∧
        s.dev.lead.lead < s.dev.n)) &&
    (meets (st fun d => (((d.setFld MC_ROLE.ROLE 0 0 3).setFld MC_ROLE.ROLE 1 0 2).setFld MC_ROLE.HEALTHY 0 0 2)) (.leadHandoff mc 1) fun s _ =>
      decide (1 ≠ s.dev.lead.lead ∧ s.dev.cfgLog = [] ∧ s.dev.heldCfg = [] ∧ s.dev.lets mc ⟨.DIE_SVC, 1, 0⟩ = true ∧ s.dev.leadBusy = false ∧
        (s.dev.fld MC_ROLE.HEALTHY s.dev.lead.lead).testBit 1 = true ∧ s.dev.fld MC_ROLE.ROLE s.dev.lead.lead = 3 ∧ s.dev.fld MC_ROLE.ROLE 1 = 2 ∧
        s.dev.lead.lead < s.dev.n ∧ s.dev.fld MC_ROLE.SYNC_LEVEL 0 = s.dev.fld MC_ROLE.SYNC_LEVEL 1)) &&
    (meets (st fun d => ((d.setFld MC_ROLE.ROLE 0 0 3).setFld MC_ROLE.ROLE 1 0 0).setFld MC_ROLE.HEALTHY 0 0 2) (.leadHandoff mc 1) fun s _ =>
      decide (1 ≠ s.dev.lead.lead ∧ s.dev.cfgLog = [] ∧ s.dev.heldCfg = [] ∧ s.dev.lets mc ⟨.DIE_SVC, 1, 0⟩ = true ∧ s.dev.leadBusy = false ∧
        (s.dev.fld MC_ROLE.ROLE 1 = 0 ∨ s.dev.fld MC_ROLE.ROLE 1 = 3 ∨ (s.dev.fld MC_ROLE.HEALTHY s.dev.lead.lead).testBit 1 = false))) &&
    (meets (st fun d => ((d.setFld MC_ROLE.ROLE 0 0 3).setFld MC_ROLE.ROLE 1 0 3).setFld MC_ROLE.HEALTHY 0 0 2) (.leadHandoff mc 1) fun s _ =>
      decide (1 ≠ s.dev.lead.lead ∧ s.dev.cfgLog = [] ∧ s.dev.heldCfg = [] ∧ s.dev.lets mc ⟨.DIE_SVC, 1, 0⟩ = true ∧ s.dev.leadBusy = false ∧
        (s.dev.fld MC_ROLE.ROLE 1 = 0 ∨ s.dev.fld MC_ROLE.ROLE 1 = 3 ∨ (s.dev.fld MC_ROLE.HEALTHY s.dev.lead.lead).testBit 1 = false))) &&
    (meets (st fun d => ((d.setFld MC_ROLE.ROLE 0 0 3).setFld MC_ROLE.ROLE 1 0 1).setFld MC_ROLE.HEALTHY 0 0 0) (.leadHandoff mc 1) fun s _ =>
      decide (1 ≠ s.dev.lead.lead ∧ s.dev.cfgLog = [] ∧ s.dev.heldCfg = [] ∧ s.dev.lets mc ⟨.DIE_SVC, 1, 0⟩ = true ∧ s.dev.leadBusy = false ∧
        (s.dev.fld MC_ROLE.ROLE 1 = 0 ∨ s.dev.fld MC_ROLE.ROLE 1 = 3 ∨ (s.dev.fld MC_ROLE.HEALTHY s.dev.lead.lead).testBit 1 = false))) &&
    (meets (st fun d => { d with lead := { lead := 0, handoff := some 1 } }) (.handoffTimeout) fun s _ =>
      decide (1 ≠ s.dev.lead.lead ∧ s.dev.cfgLog = [] ∧ s.dev.heldCfg = [] ∧ s.dev.lead.handoff = some 1)) &&
    (meets (st fun d => d) (.handoffTimeout) fun s _ =>
      decide (s.dev.cfgLog = [] ∧ s.dev.heldCfg = [] ∧ s.dev.lead.handoff = none)) &&
    (meets (st fun d => { d with lead := { lead := 0, handoff := some 1 } }) (.handoffTimeout) fun _ _ =>
      decide (True))) = true := by
  decide +kernel

theorem witness_Controllers :
    ((meets (st fun d => d) (.heartbeatSend 0) fun s _ =>
      decide (s.dev.cfgLog = [] ∧ s.dev.heldCfg = [] ∧ s.dev.inService 1 = true)) &&
    (meets (st fun d => d) (.heartbeatReceived 1 0) fun s _ =>
      decide (s.dev.cfgLog = [] ∧ s.dev.heldCfg = [] ∧ s.dev.lead.claim = none ∧ s.dev.lead.failed = false)) &&
    (meets (st fun d => { d.setFld MC_ROLE.ROLE 0 0 3 with lead := { lead := 0, claim := some (1, [1]) } }) (.heartbeatReceived 1 0) fun s _ =>
      decide (s.dev.cfgLog = [] ∧ s.dev.heldCfg = [] ∧ s.dev.lead.claim ≠ none ∧ 0 = s.dev.lead.lead ∧ s.dev.fld MC_ROLE.ROLE 0 = 3)) &&
    (meets (st fun d => ((d.setFld MOR_LINK_STAT.STATE 0 0 2).setFld MOR_LINK_STAT.STATE 1 0 2).setFld MC_ROLE.HEALTHY 0 0 3) (.heartbeatMiss 0 1)
      fun s _ =>
      decide (s.dev.asleep = false ∧ s.dev.cfgLog = [] ∧ s.dev.heldCfg = [] ∧ 1 ≠ s.dev.lead.lead ∧ s.dev.cutOff 1 = false ∧ (s.dev.fld
        MC_ROLE.HEALTHY 0).testBit 1 = true)) &&
    (meets (st fun d => ((((d.setFld MOR_LINK_STAT.STATE 0 0 2).setFld MOR_LINK_STAT.STATE 1 0 2).setFld MC_ROLE.HEALTHY 1 0 3).setFld MC_ROLE.ROLE
      0 0 3).setFld MC_ROLE.DEPUTY 1 0 1) (.heartbeatMiss 1 0) fun s _ =>
      decide (s.dev.asleep = false ∧ s.dev.cfgLog = [] ∧ s.dev.heldCfg = [] ∧ 0 = s.dev.lead.lead ∧ s.dev.cutOff 0 = false ∧ s.dev.lead.claim =
        none ∧ s.dev.deputy = some 1 ∧ ∀ z, z < s.dev.n → z ≠ 1 → z ≠ 0 → s.dev.inService z = false ∨ (s.dev.fld MC_ROLE.HEALTHY 1).testBit z =
        false)) &&
    (meets ⟨[], Locks.clear, let d := { Dev.initial .ez4 with fen := { asserted := false } }; (((((d.setFld MOR_LINK_STAT.STATE 0 0 2).setFld
      MOR_LINK_STAT.STATE 1 0 2).setFld MC_ROLE.HEALTHY 1 0 7).setFld MC_ROLE.ROLE 0 0 3).setFld MC_ROLE.DEPUTY 1 0 1)⟩ (.heartbeatMiss 1 0) fun s _
      =>
      decide (s.dev.asleep = false ∧ s.dev.cfgLog = [] ∧ s.dev.heldCfg = [] ∧ 0 = s.dev.lead.lead ∧ s.dev.cutOff 0 = false ∧ s.dev.lead.claim =
        none ∧ s.dev.deputy = some 1 ∧ 2 < s.dev.n ∧ s.dev.inService 2 = true ∧ (s.dev.fld MC_ROLE.HEALTHY 1).testBit 2 = true)) &&
    (meets (st fun d => d) (.leadClaimReceived 1 0) fun s _ =>
      decide (s.dev.cfgLog = [] ∧ s.dev.heldCfg = [] ∧ s.dev.lead.claim = none)) &&
    (meets ⟨[], Locks.clear, let d := { Dev.initial .ez4 with fen := { asserted := false } };
      { d with lead := { lead := 0, failed := true, claim := some (1, [1]) } }⟩ (.leadClaimReceived 2 3) fun s _ =>
      decide (s.dev.cfgLog = [] ∧ s.dev.heldCfg = [] ∧ s.dev.lead.claim = some (1, [1]))) &&
    (meets ⟨[], Locks.clear, let d := { Dev.initial .ez4 with fen := { asserted := false } };
      { (d.setFld MC_ROLE.HEALTHY 1 0 14) with lead := { lead := 0, failed := true, claim := some (1, [1]) } }⟩ (.leadClaimReceived 2 1) fun s _ =>
      decide (s.dev.cfgLog = [] ∧ s.dev.heldCfg = [] ∧ s.dev.lead.claim = some (1, [1]) ∧ 3 < s.dev.n ∧ 3 ∉ [1] ∧ s.dev.inService 3 = true ∧
        (s.dev.fld MC_ROLE.HEALTHY 1).testBit 3 = true)) &&
    (meets ⟨[], Locks.clear, let d := { Dev.initial .ez4 with fen := { asserted := false } };
      { (d.setFld MC_ROLE.HEALTHY 1 0 6) with lead := { lead := 0, failed := true, claim := some (1, [1]) } }⟩ (.leadClaimReceived 2 1) fun s _ =>
      decide (s.dev.cfgLog = [] ∧ s.dev.heldCfg = [] ∧ s.dev.lead.claim = some (1, [1]) ∧ 1 ≠ s.dev.lead.lead ∧ ∀ z, z < s.dev.n → z ≠ 2 → z ∉ [1]
        → s.dev.inService z = false ∨ (s.dev.fld MC_ROLE.HEALTHY 1).testBit z = false)) &&
    (meets (st fun d => d) (.mcRestart mc 0 1) fun s _ =>
      decide (s.dev.lets mc ⟨.DIE_SVC, 0, 0⟩ = true ∧ 0 = s.dev.lead.lead)) &&
    (meets (st fun d => d.setFld MC_ROLE.ROLE 1 0 1) (.mcRestart mc 1 1) fun s _ =>
      decide (s.dev.lets mc ⟨.DIE_SVC, 1, 0⟩ = true ∧ 1 ≠ s.dev.lead.lead)) &&
    (meets (st fun d => { d with mcLoad := d.mcLoad.set none ⟨1, 0, 0⟩ (some (1, false)) }) (.mcRejoin 1 none) fun s _ =>
      decide (s.dev.mcLoad.get none ⟨1, 0, 0⟩ = some (1, false))) &&
    (meets (st fun d => { d with mcLoad := d.mcLoad.set none ⟨1, 0, 0⟩ (some (1, true)) }) (.mcRejoin 1 none) fun s _ =>
      decide (s.dev.mcLoad.get none ⟨1, 0, 0⟩ = some (1, true))) &&
    (meets (st fun d =>
      { (d.setFld MC_FLASH_STAT.PRESENT 0 0 1).setFld MC_ROLE.SYNC_LEVEL 0 0 65535 with mcLoad := d.mcLoad.set none ⟨1, 0, 0⟩ (some (1, false)) })
      (.mcRejoin 1 (some 0)) fun s _ =>
      decide (s.dev.mcLoad.get none ⟨1, 0, 0⟩ = some (1, false) ∧ s.dev.hasFlash 0 = true ∧ 1 ≠ s.dev.lead.lead)) &&
    (meets (st fun d => d) (.mcRejoin 1 (some 0)) fun s _ =>
      decide (s.dev.mcLoad.get none ⟨1, 0, 0⟩ = none)) &&
    (meets (st id) (.heartbeatSend 0) fun _ _ =>
      decide (True)) &&
    (meets (st fun d => { d.setFld MC_ROLE.ROLE 0 0 3 with lead := { lead := 0, claim := some (1, [1]) } }) (.heartbeatReceived 1 0) fun _ _ =>
      decide (True)) &&
    (meets (st id) (.leadClaimReceived 1 0) fun _ _ =>
      decide (True)) &&
    (meets (st fun d => { d with mcLoad := d.mcLoad.set none ⟨1, 0, 0⟩ (some (1, false)) }) (.mcRejoin 1 none) fun _ _ =>
      decide (True)) &&
    (meets (st id) (.heartbeatMiss 1 0) fun s _ =>
      decide (s.dev.asleep = false)) &&
    (meets (st fun d => ({ d with asleep := true } : Dev)) (.heartbeatMiss 1 0) fun s _ =>
      decide (s.dev.asleep = true))) = true := by
  decide +kernel

theorem witness_MortarLinks :
    ((meets (st fun d => ((d.setFld MOR_LINK_STAT.STATE 0 0 2).setFld MOR_LINK_STAT.STATE 1 0 2)) (.mortarPacketReceived 0 0 ⟨0, 1, 3, 0, 0,
      [0x10000005#32]⟩) fun s _ =>
      decide (s.dev.morUp 0 0 = true ∧ 1 ≠ 0 ∧ s.dev.route 0 1 = some [0])) &&
    (meets (st fun d => ((d.setFld MOR_LINK_STAT.STATE 0 0 2).setFld MOR_LINK_STAT.STATE 1 0 2)) (.mortarPacketReceived 0 0 ⟨1, 0, 3, 0, 0,
      [0x10000005#32]⟩) fun s _ =>
      decide (s.dev.morUp 0 0 = true ∧ s.dev.mor 0 = {} ∧ s.dev.rootHeld 0 = false ∧ s.dev.mor 1 = {} ∧ s.dev.queue 0 (morQueue 0 0) = {})) &&
    (meets (st fun d => ((d.setFld MOR_LINK_STAT.STATE 0 0 2).setFld MOR_LINK_STAT.STATE 1 0 2).modMor 0 fun m =>
      { m with expected := [((1, 3), 4)] }) (.mortarPacketReceived 0 0 ⟨1, 0, 3, 0, 3, [0x10000005#32]⟩) fun s _ =>
      decide (s.dev.morUp 0 0 = true ∧ (s.dev.mor 0).expected = [((1, 3), 4)])) &&
    (meets (st fun d => ((d.setFld MOR_LINK_STAT.STATE 0 0 2).setFld MOR_LINK_STAT.STATE 1 0 2)) (.mortarLinkFail 0 0) fun s _ =>
      decide (linkPeer s.dev.variant 0 0 = some 1 ∧ s.dev.morUp 0 0 = true)) &&
    (meets (st fun d => ((d.setFld MOR_LINK_STAT.STATE 0 0 2).setFld MOR_LINK_STAT.STATE 1 0 2)) (.mortarDegrade 0 0) fun s _ =>
      decide (linkPeer s.dev.variant 0 0 = some 1 ∧ s.dev.morUp 0 0 = true ∧ s.dev.flag MOR_LINK_STAT.DEGRADED 0 0 = false)) &&
    (meets (st fun d => ((d.setFld MOR_LINK_STAT.STATE 0 0 2).setFld MOR_LINK_STAT.STATE 1 0 2).setFld MOR_LINK_STAT.DEGRADED 0 0 1)
      (.mortarDegrade 0 0) fun s _ =>
      decide (linkPeer s.dev.variant 0 0 = some 1 ∧ s.dev.morUp 0 0 = true ∧ s.dev.flag MOR_LINK_STAT.DEGRADED 0 0 = true)) &&
    (meets (st fun d => d.setFld MOR_LINK_STAT.STATE 0 0 3) (.mortarLinkFail 0 0) fun s _ =>
      decide (s.dev.morUp 0 0 = false)) &&
    (meets (st fun d => d.setFld MOR_LINK_STAT.STATE 0 0 3) (.mortarDegrade 0 0) fun s _ =>
      decide (s.dev.morUp 0 0 = false)) &&
    (meets (st id) (.mortarPacketReceived 0 0 ⟨1, 0, 3, 0, 2, [0x10000005#32]⟩) fun _ _ =>
      decide (True)) &&
    (meets (st id) (.mortarLinkFail 0 1) fun _ _ =>
      decide (True)) &&
    (meets (st id) (.mortarDegrade 0 1) fun _ _ =>
      decide (True))) = true := by
  decide +kernel

theorem witness_PackageResets :
    ((meets (st fun d => ((initr (crs true) (booted 1 d)).setRingState 9 1)) (.railUndervoltage 1 2) fun s _ =>
      decide (s.dev.flashWindow 0 = none ∧ s.dev.flashWindow 1 = none ∧ s.dev.fen.hung = none)) &&
    (meets (st fun d => ((initr (crs true) (booted 1 d)).setRingState 9 1)) (.pkgReset true) fun s _ =>
      decide (s.dev.flashWindow 0 = none ∧ s.dev.flashWindow 1 = none ∧ s.dev.fen.hung = none)) &&
    (meets (st fun d => ((initr (crs true) (booted 1 d)).setRingState 9 1)) (.pkgReset false) fun s _ =>
      decide (s.dev.flashWindow 0 = none ∧ s.dev.flashWindow 1 = none ∧ s.dev.fen.hung = none)) &&
    (meets (st fun d => { d with fen := { asserted := true } }) (.pkgResetRelease [] []) fun s _ =>
      decide (s.dev.flashWindow 0 = none ∧ s.dev.flashWindow 1 = none ∧ s.dev.fen.hung = none ∧ s.dev.fen.asserted = true ∧ s.dev.fen.low = [] ∧
        s.dev.fen.failed = none)) &&
    (meets (st fun d => { d with fen := { asserted := true } }) (.pkgResetRelease [] [{ step := 5, die := 1, fails := true }]) fun s _ =>
      decide (s.dev.flashWindow 0 = none ∧ s.dev.flashWindow 1 = none ∧ s.dev.fen.hung = none ∧ s.dev.fen.asserted = true ∧ s.dev.fen.low = [] ∧
        s.dev.fen.failed = none)) &&
    (meets (st fun d => { d with fen := { asserted := true } }) (.pkgResetRelease [] [{ step := 5, die := 1, fails := true, altFails := true }])
      fun s _ =>
      decide (s.dev.flashWindow 0 = none ∧ s.dev.flashWindow 1 = none ∧ s.dev.fen.hung = none ∧ s.dev.fen.asserted = true ∧ s.dev.fen.low = [] ∧
        s.dev.fen.failed = none)) &&
    (meets (st fun d => { d with fen := { asserted := true } }) (.pkgResetRelease [] [{ step := 2, die := 0, detail := 1 },
      { step := 6, die := 0, fails := true }]) fun s _ =>
      decide (s.dev.flashWindow 0 = none ∧ s.dev.flashWindow 1 = none ∧ s.dev.fen.hung = none ∧ s.dev.fen.asserted = true ∧ s.dev.fen.low = [] ∧
        s.dev.fen.failed = none)) &&
    (meets (st fun d => { d with fen := { asserted := true } }) (.pkgResetRelease [] [{ step := 12, die := 0, hangs := true }]) fun s _ =>
      decide (s.dev.flashWindow 0 = none ∧ s.dev.flashWindow 1 = none ∧ s.dev.fen.hung = none ∧ s.dev.fen.asserted = true ∧ s.dev.fen.low = [] ∧
        s.dev.fen.failed = none)) &&
    (meets (st fun d => { d with fen := { asserted := true, low := [(1, 2)] } }) (.pkgResetRelease [] []) fun s _ =>
      decide (s.dev.flashWindow 0 = none ∧ s.dev.flashWindow 1 = none ∧ s.dev.fen.hung = none ∧ s.dev.fen.asserted = true ∧ s.dev.fen.low ≠ [])) &&
    (meets (st fun d => d) (.pkgResetRelease [] []) fun s _ =>
      decide (s.dev.flashWindow 0 = none ∧ s.dev.flashWindow 1 = none ∧ s.dev.fen.hung = none ∧ s.dev.fen.asserted = false)) &&
    (meets (st fun d => { d with fen := { asserted := false, low := [(1, 2)] } }) (.railRestored [] []) fun s _ =>
      decide (s.dev.flashWindow 0 = none ∧ s.dev.flashWindow 1 = none ∧ s.dev.fen.hung = none ∧ s.dev.fen.low ≠ [] ∧ s.dev.fen.asserted = false ∧
        s.dev.fen.failed = none)) &&
    (meets (st fun d => { d with fen := { asserted := true, low := [(1, 2)] } }) (.railRestored [] []) fun s _ =>
      decide (s.dev.flashWindow 0 = none ∧ s.dev.flashWindow 1 = none ∧ s.dev.fen.hung = none ∧ s.dev.fen.low ≠ [] ∧ s.dev.fen.asserted = true)) &&
    (meets (st fun d => d) (.railRestored [] []) fun s _ =>
      decide (s.dev.flashWindow 0 = none ∧ s.dev.flashWindow 1 = none ∧ s.dev.fen.hung = none ∧ s.dev.fen.low = []))) = true := by
  decide +kernel

theorem witness_FailedStarts :
    ((meets (st fun d => { d with fen := { asserted := false, hung := some (1, 2, 1)  } }) (.bootStepTimeout 1) fun s _ =>
      decide (s.dev.fen.hung = some (1, 2, 1) ∧ bootOptional 2 = true)) &&
    (meets (st fun d => { d with fen := { asserted := false, hung := some (1, 7, 1)  }, failedStarts := d.failedStarts.set 0 ⟨1, 0, 0⟩ 2 })
      (.bootStepTimeout 1) fun s _ =>
      decide (s.dev.fen.hung = some (1, 7, 1) ∧ bootOptional 7 = false)) &&
    (meets (st fun d => { d with fen := { asserted := false, hung := some (1, 7, 1)  }, failedStarts := d.failedStarts.set 0 ⟨1, 0, 0⟩ 3 })
      (.bootStepTimeout 1) fun s _ =>
      decide (s.dev.fen.hung = some (1, 7, 1) ∧ bootOptional 7 = false ∧ 0 ∈ s.dev.dies ∧ 0 ≠ 1 ∧ 0 ∉ s.dev.fen.leftOut)) &&
    (meets (st fun d =>
      { d with fen := { asserted := false, hung := some (1, 7, 1) , leftOut := [0] }, failedStarts := d.failedStarts.set 0 ⟨1, 0, 0⟩ 3 })
      (.bootStepTimeout 1) fun s _ =>
      decide (s.dev.fen.hung = some (1, 7, 1) ∧ bootOptional 7 = false ∧ ∀ y ∈ s.dev.dies, y = 1 ∨ y ∈ s.dev.fen.leftOut)) &&
    (meets (st fun d => d) (.bootStepTimeout 1) fun s _ =>
      decide (s.dev.fen.hung = none)) &&
    (meets (st fun d => { d with fen := { asserted := false, failed := some (some 1) } }) (.failedStartReset []) fun s _ =>
      decide (s.dev.fen.failed ≠ none ∧ s.dev.inReset = false)) &&
    (meets (st fun d => { d with fen := { asserted := false, failed := some (some 1) } }) (.failedStartReset
      [{ step := 5, die := 1, fails := true }]) fun s _ =>
      decide (s.dev.fen.failed ≠ none ∧ s.dev.inReset = false)) &&
    (meets (st fun d => { d with fen := { asserted := false, failed := some (some 1) } }) (.failedStartReset
      [{ step := 5, die := 1, fails := true, altFails := true }]) fun s _ =>
      decide (s.dev.fen.failed ≠ none ∧ s.dev.inReset = false)) &&
    (meets (st fun d => { d with fen := { asserted := false, failed := some (some 1) } }) (.failedStartReset [{ step := 2, die := 0, detail := 1 },
      { step := 6, die := 0, fails := true }]) fun s _ =>
      decide (s.dev.fen.failed ≠ none ∧ s.dev.inReset = false)) &&
    (meets (st fun d => { d with fen := { asserted := false, failed := some (some 1) } }) (.failedStartReset
      [{ step := 12, die := 0, hangs := true }]) fun s _ =>
      decide (s.dev.fen.failed ≠ none ∧ s.dev.inReset = false)) &&
    (meets (st fun d => d) (.failedStartReset []) fun s _ =>
      decide (s.dev.fen.failed = none))) = true := by
  decide +kernel

theorem witness_WindowsMatch :
    ((meets (st fun d => (((((d.setReg .WIN_O_CTL 0 7 0x80001000#32).setReg .WIN_O_LIMIT_LO 0 7 0x00fff000#32).setReg .WIN_O_BASE_LO 0 7
      0x00100000#32).setReg .WIN_O_ROUTE 0 7 0x05000000#32)).setReg .WIN_O_CTL 0 9 0x80001000#32) (.outboundRead px 0x100040 [true, true, true, true])
      fun _ d =>
      decide (((d.window 0 false 7).en = true ∧ (d.window 0 false 7).base ≤ 0x100040 ∧ 0x100040 + 4 - 1 ≤ (d.window 0 false 7).limit) ∧ ∀ v ∈
        List.range 7, ¬ ((d.window 0 false v).en = true ∧ (d.window 0 false v).base ≤ 0x100040 ∧ 0x100040 + 4 - 1 ≤ (d.window 0 false v).limit))) &&
    (meets (st fun d => winIn 3 d) (.adrReceived 0 0 (adrOf 0x60 2 64 false false)) fun _ d =>
      decide (((d.window 0 true 3).en = true ∧ (d.window 0 true 3).space = 1 ∧ (d.pair .WIN_I_PORTS_LO .WIN_I_PORTS_HI 0 3).testBit 0 = true ∧
        (d.window 0 true 3).base ≤ 64 ∧ 64 + 4 - 1 ≤ (d.window 0 true 3).limit) ∧ ∀ v ∈ List.range 3, (d.window 0 true v).en = false))) = true := by
  decide +kernel

def dat0 : DatBody := ⟨0, 1, true, false, 0, []⟩
def mor0 : MortarPkt := ⟨0, 0, 0, 0, 0, [0x10000000#32]⟩
def odd0 : OddTarget := ⟨.bar2, 0, 8, 3⟩

/-- One command of every constructor with operands in their fields. -/
def wellFormed0 : List Instr :=
  [.registerWrite mc 0 1 0 0 0, .pkgConfigApply 0, .registerReadReject px 0 1, .rcFieldRead mc 0 1, .pairLoRead mc 0 1, .pkgLockSet mc,
   .dieLockSet mc 0, .tilLockSet mc 0, .scrubVisit 0 0, .sealPassEnd 0, .sealCommit mc 0, .accErrInfoRead mc 0 0 1,
   .pcieConfigRequest 0 (cfgR false 0 0), .functionLevelReset 0, .flrReady 0, .outboundRead px 0 [true], .outboundWrite px 0 [some 0],
   .atomicOp px 0 .swap 4 0 0, .pcieUnsupportedRequest px false (some odd0), .pcieMessage 0 .pmTurnOff, .pcieVendorMessage 0 false,
   .pcieCompletionReceived 0 0 .success false false [], .pcieCompletionTimeout 0 0, .npLimitExpiry 0 0, .holdExpiry 0 0, .pcieLinkUp 0 1 1 false,
   .pciePerst 0, .pcieHotReset 0, .pcieLinkDown 0, .pcieLinkRetrain 0 1 1, .l0pNarrow 0, .l0pWiden 0, .l0pPartnerRequest 0 1, .ltrIdleTimeout 0,
   .bbFrameBad 0 .badLseq, .repeatRequestTimer 0, .idlReceived 0 false 0, .ackIdlInterval 0, .skpInterval 0, .replayStallTimeout 0]

def wellFormed1 : List Instr :=
  [.synReceived 0 0 syn0, .bbLaneLock 0 0, .rateChangeIdleEnd 0, .eqAdaptDone 0, .detectRetry 0, .failedRetry 0, .retrainPartnerTimeout 0,
   .laneLockLoss 0 0, .healthWindowEnd 0, .bbLinkEnable mc 0, .bbLinkDisable mc 0, .widen mc 0, .retrain mc 0, .adrReceived 0 0 adr0,
   .datReceived 0 0 dat0, .lckReceived 0 0 adr0, .ulkReceived 0 0 ⟨1, 0⟩, .ackReceived 0 0 ⟨1, 0⟩, .berrReceived 0 0 ⟨1, 0⟩ 0, .rtyReceived 0 0 ⟨1, 0⟩ 0 0,
   .retryWaitEnd 0, .retryStartDecay 0, .unknownTypeDiscard 0 ⟨0, 0x3F⟩, .irqReceived 0 0 false false 0 0, .iakReceived 0 0 0 0, .iakSend mc 0 0,
   .busTimerExpiry 0 false, .quietPeriodEnd 0, .tgtLimitExpiry 0, .windowWrite mc false 0 0 0 0, .windowDisable mc false 0 0,
   .pageLineReadDone 0 0 none, .tcInvalWindow mc false false 0 0, .tcInvalAll mc 0, .tcInvalPageOnly mc false false 0 0, .tcSwitch mc 0 0,
   .wcHoldExpiry 0 0, .prefetchAgeExpiry 0 0, .tcPfdRead mc 0, .mireClear mc false 0]

def wellFormed2 : List Instr :=
  [.semTake mc 0, .semGive mc 0, .semForce mc 0, .lockTimeout 0, .reservationExpiry 0, .irqEntryWrite mc 0x30000 0 0, .irqBboutPendRead mc 0 0 0 1,
   .msixModExpiry (.cls 0), .nmiReceived 0, .nmiCauseRead mc 0 1, .errRead mc 0, .eventArrive ⟨0, 1, (some (0, 0, 0))⟩, .evqRead mc, .evqHostRdWrite mc 0,
   .protPendingWrite mc 0x1000C 0 0, .protCommit mc 0, .protDiscard mc 0, .protVioClear mc 0, .queueFlush mc 0 0, .queueTailTimeout 0 0,
   .queuePointerMismatch 0 0, .poolConfigWrite mc 0 0 0 0, .poolEnable mc 0 0, .poolDisable mc 0 0, .poolGet mc 0 0, .poolShare mc 0 0 0,
   .poolRelease mc 0 0, .poolFree mc 0 0, .poolCmdBadOp mc 0 0, .poolRefillDone 0 none, .poolStateReadDone 0 0 none, .ringConfigWrite mc 0 0 0 0,
   .ringEnable mc 0 0, .ringDisable mc 0 0, .doorbell px 0 false 0 1 0 0, .descriptorFetchDone 0 0 [], .nop 0, .copy 0, .fill 0, .record 0]

def wellFormed3 : List Instr :=
  [.playback 0, .tableSwitch 0, .tableSwitchDrained 0, .fence 0, .fenceSatisfied 0, .fenceTimeout 0, .ringNoteTailExpiry 0, .ringCplRdWrite mc 0 0,
   .ringStop mc 0, .ringResume mc 0, .ringReset mc 0, .ringResetDone 0, .moverReset mc 0 0, .stripeConfigWrite mc 0 0 0 0,
   .tapConfigWrite mc 0 0 0 0, .tapRestart mc 0, .tapFinish 0, .tapShed 0, .tapLogRdWrite mc 0 0, .tilBondWrite mc 0 0, .bondBreak mc 0,
   .evacuate mc 0, .evacuationDrained 0, .tileReturn mc 0, .tileReset mc 0, .tileResetDone 0 false, .recal mc 0, .tileFault 0, .dieReset mc 0,
   .dieResetDrained 0 0, .leadHandoff mc 0, .handoffTimeout, .mcRestart mc 0 0, .mcRejoin 0 none, .pllSwap mc 0, .pllLock 0 .a, .heartbeatSend 0,
   .heartbeatReceived 0 0, .heartbeatMiss 0 0, .leadClaimReceived 0 0]

def wellFormed4 : List Instr :=
  [.sramUncorrectable 0 0, .sramCorrected 0, .mortarPacketReceived 0 0 mor0, .mortarLinkFail 0 0, .mortarDegrade 0 0,
   .clockMonitorResult 0 (.mon 0) 0, .arbitrationResult 0 0, .pllReferenceLoss 0 .a, .muxHang 0 .root false, .fioCalDone 0 0, .sleepEnter mc 0,
   .wakeEvent 0 .perst, .wakeTimerExpiry 0, .tempSample 0 0, .railUndervoltage 0 0, .pkgReset false, .pkgResetRelease [] [], .bootStepTimeout 0,
   .failedStartReset [], .flashRead mc 0, .flashErase mc 0, .flashProgram mc 0, .flashCommandComplete 0 false, .flashCommandTimeout 0, .markA mc 0,
   .markB mc 0, .readmit mc 0 0, .presenceRemove 0, .presenceDebounce 0, .mpEnWrite mc 0 false, .mpClear mc 0, .mpPowerGood 0, .mpDischarged 0,
   .short 0, .overcurrent 0, .pgTimeout 0, .undervoltage 0, .dischargeTimeout 0, .extest 0, .samplePreload 0]

def wellFormed5 : List Instr :=
  [.idcode 0, .clamp 0, .highz 0, .bypass 0, .monitorLevelSample 0 0, .monitorClear mc 0 0, .monitorSourceWrite mc 0 0 0, .presenceInsert 0,
   .perstRelease 0, .railRestored [] [], .laneRecalibrationDone 0 0, .pcieL1Entry 0 0, .pcieL1Exit 0]

/-- For every check of `Instr.wf` a command that breaks this check alone. -/
def illFormed0 : List Instr :=
  [.registerWrite { path := 17 } 0 1 0 0 0, .registerWrite { path := 16, port := 64 } 0 1 0 0 0,
   .registerWrite { path := 0, rid := 65536 } 0 1 0 0 0, .registerWrite { path := 0, tag := 16384 } 0 1 0 0 0,
   .registerWrite { path := 0, pasid := some (2 ^ 20) } 0 1 0 0 0, .registerWrite { mc with poison := true } 0 1 0 0 0, .registerWrite mc (2 ^ 27)
     1 0 0 0, .registerWrite mc 0 4097 0 0 0,
   .registerWrite mc 0 1 256 0 0, .registerWrite mc 0 1 0 (2 ^ 64) 0, .registerWrite mc 0 1 0 0 256, .pkgConfigApply 8,
   .registerReadReject { px with rid := 65536 } 0 1, .registerReadReject px 0 4097, .registerReadReject px (2 ^ 27 + 2 ^ 22) 1,
   .rcFieldRead { path := 17 } 0 1, .rcFieldRead mc (2 ^ 27) 1, .rcFieldRead mc 0 4097, .pairLoRead { path := 17 } 0 1, .pairLoRead mc (2 ^ 27) 1,
   .pairLoRead mc 0 4097, .pkgLockSet { path := 17 }, .dieLockSet { path := 17 } 0, .dieLockSet mc 8, .tilLockSet { path := 17 } 0,
   .tilLockSet mc 64, .scrubVisit 8 0, .scrubVisit 0 (2 ^ 27), .sealPassEnd 8, .sealCommit { path := 17 } 0, .sealCommit mc 256,
   .accErrInfoRead { path := 17 } 0 0 1, .accErrInfoRead mc 8 0 1, .accErrInfoRead mc 0 0 0, .accErrInfoRead mc 0 4 1,
   .pcieConfigRequest 8 (cfgR false 0 0), .pcieConfigRequest 0 { cfgR false 0 0 with off := 4096 }, .pcieConfigRequest 0 (cfgR false 2 0),
   .pcieConfigRequest 0 { cfgR false 0 0 with en := 16 }, .pcieConfigRequest 0 (cfgR false 0 (2 ^ 32)),
   .pcieConfigRequest 0 { cfgR false 0 0 with rid := 65536 }]

def illFormed1 : List Instr :=
  [.pcieConfigRequest 0 { cfgR false 0 0 with tag := 16384 }, .functionLevelReset 8, .flrReady 8, .outboundRead { px with rid := 65536 } 0 [true],
   .outboundRead mc 0 [true], .outboundRead px (2 ^ 40) [true], .outboundRead px 0 [], .outboundRead px (2 ^ 40 - 1) [true, true],
   .outboundRead px 0 (List.replicate 4097 true), .outboundWrite { px with rid := 65536 } 0 [some 0], .outboundWrite mc 0 [some 0],
   .outboundWrite px (2 ^ 40) [some 0], .outboundWrite px 0 [], .outboundWrite px (2 ^ 40 - 1) [none, none],
   .outboundWrite px 0 (List.replicate 4097 none), .atomicOp { px with rid := 65536 } 0 .swap 4 0 0, .atomicOp mc 0 .swap 4 0 0,
   .atomicOp px (2 ^ 40) .swap 4 0 0, .atomicOp px 0 .swap 2 0 0, .atomicOp px 0 .swap 4 (2 ^ 32) 0, .atomicOp px 0 .swap 4 0 (2 ^ 32),
   .pcieUnsupportedRequest { px with rid := 65536 } false none, .pcieUnsupportedRequest mc false none, .pcieUnsupportedRequest px false (some
     { odd0 with len := 0 }),
   .pcieUnsupportedRequest px false (some { odd0 with len := 4097 }), .pcieUnsupportedRequest px false (some { odd0 with access := 2 }),
   .pcieUnsupportedRequest px false (some { odd0 with off := 2 ^ 22 - 7 }), .pcieUnsupportedRequest px false (some ⟨.bar0, 2 ^ 27 - 7, 8, 3⟩),
   .pcieUnsupportedRequest px false (some ⟨.bar4, 2 ^ 40 - 7, 8, 3⟩), .pcieMessage 8 .pmTurnOff,
   .pcieMessage 0 (.setSlotPowerLimit 256 0), .pcieMessage 0 (.setSlotPowerLimit 0 4), .pcieVendorMessage 8 false,
   .pcieCompletionReceived 8 0 .success false false [], .pcieCompletionReceived 0 16384 .success false false [],
   .pcieCompletionReceived 0 0 .success false false (List.replicate 4097 0), .pcieCompletionTimeout 8 0, .pcieCompletionTimeout 0 16384,
   .npLimitExpiry 8 0, .holdExpiry 8 0, .pcieLinkUp 8 1 1 false, .pcieLinkUp 0 0 1 false, .pcieLinkUp 0 7 1 false, .pcieLinkUp 0 1 3 false,
   .pciePerst 8, .pcieHotReset 8]

def illFormed2 : List Instr :=
  [.pcieLinkDown 8, .pcieLinkRetrain 8 1 1, .pcieLinkRetrain 0 0 1, .pcieLinkRetrain 0 7 1, .pcieLinkRetrain 0 1 3, .l0pNarrow 8, .l0pWiden 8,
   .l0pPartnerRequest 8 1, .l0pPartnerRequest 0 3, .ltrIdleTimeout 8, .bbFrameBad 64 .badLseq, .bbFrameBad 0 (.codeViolation 8 false),
   .repeatRequestTimer 64, .idlReceived 64 false 0, .idlReceived 0 false 128, .ackIdlInterval 64, .skpInterval 64, .replayStallTimeout 64,
   .synReceived 64 0 syn0, .synReceived 0 8 syn0, .synReceived 0 0 { syn0 with lane := 8 }, .synReceived 0 0 { syn0 with rxNext := 128 },
   .bbLaneLock 64 0, .bbLaneLock 0 8, .rateChangeIdleEnd 64, .eqAdaptDone 64, .detectRetry 64, .failedRetry 64, .retrainPartnerTimeout 64,
   .laneLockLoss 64 0, .laneLockLoss 0 8, .healthWindowEnd 64, .bbLinkEnable { path := 17 } 0, .bbLinkEnable mc 64,
   .bbLinkDisable { path := 17 } 0, .bbLinkDisable mc 64, .widen { path := 17 } 0, .widen mc 64, .retrain { path := 17 } 0, .retrain mc 64]

def illFormed3 : List Instr :=
  [.adrReceived 64 0 adr0, .adrReceived 0 128 adr0, .adrReceived 0 0 { adr0 with role := 2 }, .adrReceived 0 0 { adr0 with tag := 2 },
   .adrReceived 0 0 { adr0 with size := 8 }, .adrReceived 0 0 { adr0 with am := 256 }, .adrReceived 0 0 { adr0 with addr := 2 ^ 48 },
   .adrReceived 0 0 { adr0 with beatsM1 := 8192 }, .datReceived 64 0 dat0, .datReceived 0 128 dat0, .datReceived 0 0 { dat0 with role := 2 },
   .datReceived 0 0 { dat0 with tag := 2 }, .datReceived 0 0 { dat0 with offset := 8192 },
   .datReceived 0 0 { dat0 with data := List.replicate 257 0 }, .lckReceived 64 0 adr0, .lckReceived 0 128 adr0,
   .lckReceived 0 0 { adr0 with role := 2 }, .lckReceived 0 0 { adr0 with tag := 2 }, .lckReceived 0 0 { adr0 with size := 8 },
   .lckReceived 0 0 { adr0 with am := 256 }, .lckReceived 0 0 { adr0 with addr := 2 ^ 48 }, .lckReceived 0 0 { adr0 with beatsM1 := 8192 },
   .ulkReceived 64 0 ⟨1, 0⟩, .ulkReceived 0 128 ⟨1, 0⟩, .ulkReceived 0 0 ⟨2, 0⟩, .ulkReceived 0 0 ⟨1, 2⟩, .ackReceived 64 0 ⟨1, 0⟩, .ackReceived 0 128 ⟨1, 0⟩,
   .ackReceived 0 0 ⟨2, 0⟩, .ackReceived 0 0 ⟨1, 2⟩, .berrReceived 64 0 ⟨1, 0⟩ 0, .berrReceived 0 128 ⟨1, 0⟩ 0, .berrReceived 0 0 ⟨2, 0⟩ 0,
   .berrReceived 0 0 ⟨1, 2⟩ 0, .berrReceived 0 0 ⟨1, 0⟩ 256, .rtyReceived 64 0 ⟨1, 0⟩ 0 0, .rtyReceived 0 128 ⟨1, 0⟩ 0 0, .rtyReceived 0 0 ⟨2, 0⟩ 0 0,
   .rtyReceived 0 0 ⟨1, 2⟩ 0 0, .rtyReceived 0 0 ⟨1, 0⟩ 256 0, .rtyReceived 0 0 ⟨1, 0⟩ 0 256, .retryWaitEnd 64, .retryStartDecay 64,
   .unknownTypeDiscard 64 ⟨0, 0x3F⟩]

def illFormed4 : List Instr :=
  [.unknownTypeDiscard 0 ⟨128, 0x3F⟩, .unknownTypeDiscard 0 ⟨0, 256⟩, .unknownTypeDiscard 0 ⟨0, 0x10⟩, .irqReceived 64 0 false false 0 0, .irqReceived 0 128
    false false 0 0, .irqReceived 0 0 false false 8 0,
   .irqReceived 0 0 false false 0 256, .iakReceived 64 0 0 0, .iakReceived 0 128 0 0, .iakReceived 0 0 8 0, .iakReceived 0 0 0 256,
   .iakSend { path := 17 } 0 0, .iakSend mc 64 0, .iakSend mc 0 8, .busTimerExpiry 64 false, .quietPeriodEnd 64, .tgtLimitExpiry 64,
   .windowWrite { path := 17 } false 0 0 0 0, .windowWrite mc false 4096 0 0 0, .windowWrite mc false 0 0 (2 ^ 32) 0,
   .windowWrite mc false 0 0 0 256, .windowWrite mc false 0 16 0 0, .windowDisable { path := 17 } false 0 0, .windowDisable mc false 4096 0,
   .windowDisable mc false 0 256, .pageLineReadDone 8 0 none, .pageLineReadDone 0 0 (some (List.replicate 9 0)),
   .pageLineReadDone 0 0 (some [2 ^ 64]), .tcInvalWindow { path := 17 } false false 0 0, .tcInvalWindow mc false false 4096 0,
   .tcInvalWindow mc false false 0 256, .tcInvalAll { path := 17 } 0, .tcInvalAll mc 256, .tcInvalPageOnly { path := 17 } false false 0 0,
   .tcInvalPageOnly mc false false 4096 0, .tcInvalPageOnly mc false false 0 256, .tcSwitch { path := 17 } 0 0, .tcSwitch mc 256 0,
   .tcSwitch mc 0 256, .wcHoldExpiry 64 0, .prefetchAgeExpiry 64 0, .tcPfdRead { path := 17 } 0]

def illFormed5 : List Instr :=
  [.tcPfdRead mc 8, .mireClear { path := 17 } false 0, .mireClear mc false 4096, .semTake { path := 17 } 0, .semTake mc 64,
   .semGive { path := 17 } 0, .semGive mc 64, .semForce { path := 17 } 0, .semForce mc 64, .lockTimeout 64, .reservationExpiry 64,
   .irqEntryWrite { path := 17 } 0x30000 0 0, .irqEntryWrite mc (2 ^ 27) 0 0, .irqEntryWrite mc 0x30000 (2 ^ 32) 0,
   .irqEntryWrite mc 0x30000 0 256, .irqEntryWrite mc 0x2FFFC 0 0, .irqEntryWrite mc 0x34000 0 0, .irqEntryWrite mc 0x30002 0 0,
   .irqBboutPendRead { path := 17 } 0 0 0 1, .irqBboutPendRead mc 64 0 0 1, .irqBboutPendRead mc 0 8 0 1, .irqBboutPendRead mc 0 0 0 0,
   .irqBboutPendRead mc 0 0 4 1, .msixModExpiry (.bbin 64 0), .msixModExpiry (.bbin 0 8), .msixModExpiry (.cls 64), .msixModExpiry (.ring 1024),
   .nmiReceived 8, .nmiCauseRead { path := 17 } 0 1, .nmiCauseRead mc 0 0, .nmiCauseRead mc 4 1, .errRead { path := 17 } 0, .errRead mc 8,
   .eventArrive ⟨8, 1, none⟩, .eventArrive ⟨0, 0, none⟩, .eventArrive ⟨0, 5, none⟩, .eventArrive ⟨0, 1, (some (8, 0, 0))⟩,
   .eventArrive ⟨0, 1, (some (0, 64, 0))⟩, .eventArrive ⟨0, 1, (some (0, 0, 8193))⟩, .evqRead { path := 17 }, .evqHostRdWrite { path := 17 } 0,
     .evqHostRdWrite mc 65536,
   .protPendingWrite { path := 17 } 0x1000C 0 0, .protPendingWrite mc (2 ^ 27) 0 0, .protPendingWrite mc 0x1000C (2 ^ 32) 0]

def illFormed6 : List Instr :=
  [.protPendingWrite mc 0x1000C 0 256, .protPendingWrite mc 0x10000 0 0, .protPendingWrite mc 0x1000E 0 0, .protCommit { path := 17 } 0,
   .protCommit mc 256, .protDiscard { path := 17 } 0, .protDiscard mc 256, .protVioClear { path := 17 } 0, .protVioClear mc 256,
   .queueFlush { path := 17 } 0 0, .queueFlush mc 8 0, .queueFlush mc 0 64, .queueTailTimeout 8 0, .queueTailTimeout 0 64,
   .queuePointerMismatch 8 0, .queuePointerMismatch 0 64, .poolConfigWrite { path := 17 } 0 0 0 0, .poolConfigWrite mc 256 0 0 0,
   .poolConfigWrite mc 0 0 (2 ^ 32) 0, .poolConfigWrite mc 0 0 0 256, .poolConfigWrite mc 0 24 0 0, .poolEnable { path := 17 } 0 0,
   .poolEnable mc 256 0, .poolEnable mc 0 256, .poolDisable { path := 17 } 0 0, .poolDisable mc 256 0, .poolDisable mc 0 256,
   .poolGet { path := 17 } 0 0, .poolGet mc 256 0, .poolGet mc 0 8, .poolShare { path := 17 } 0 0 0, .poolShare mc 256 0 0, .poolShare mc 0 8 0,
   .poolShare mc 0 0 8, .poolRelease { path := 17 } 0 0, .poolRelease mc 256 0, .poolRelease mc 0 8, .poolFree { path := 17 } 0 0,
   .poolFree mc 256 0, .poolFree mc 0 8]

def illFormed7 : List Instr :=
  [.poolCmdBadOp { path := 17 } 0 0, .poolCmdBadOp mc 16 0, .poolCmdBadOp mc 0 256, .poolCmdBadOp mc 4 0, .poolRefillDone 256 none,
   .poolRefillDone 0 (some (List.replicate 65 0)), .poolRefillDone 0 (some [2 ^ 64]), .poolStateReadDone 256 0 none,
   .poolStateReadDone 0 0 (some (2 ^ 64)), .ringConfigWrite { path := 17 } 0 0 0 0, .ringConfigWrite mc 1024 0 0 0,
   .ringConfigWrite mc 0 0 (2 ^ 32) 0, .ringConfigWrite mc 0 0 0 256, .ringConfigWrite mc 0 6 0 0, .ringEnable { path := 17 } 0 0,
   .ringEnable mc 1024 0, .ringEnable mc 0 256, .ringDisable { path := 17 } 0 0, .ringDisable mc 1024 0, .ringDisable mc 0 256,
   .doorbell { px with rid := 65536 } 0 false 0 1 0 0, .doorbell px 1024 false 0 1 0 0, .doorbell px 0 false 4096 1 0 0,
   .doorbell px 0 false 0 1 256 0, .doorbell px 0 false 0 1 0 (2 ^ 64), .doorbell px 0 false 0 4097 0 0, .doorbell mc 0 true 0 1 0 0,
   .descriptorFetchDone 1024 0 [], .descriptorFetchDone 0 32 [], .descriptorFetchDone 0 0 (List.replicate 513 0), .nop 1024, .copy 1024,
   .fill 1024, .record 1024, .playback 1024, .tableSwitch 1024, .tableSwitchDrained 1024, .fence 1024, .fenceSatisfied 1024, .fenceTimeout 1024]

def illFormed8 : List Instr :=
  [.ringNoteTailExpiry 1024, .ringCplRdWrite { path := 17 } 0 0, .ringCplRdWrite mc 1024 0, .ringCplRdWrite mc 0 65536, .ringStop { path := 17 } 0,
   .ringStop mc 1024, .ringResume { path := 17 } 0, .ringResume mc 1024, .ringReset { path := 17 } 0, .ringReset mc 1024, .ringResetDone 1024,
   .moverReset { path := 17 } 0 0, .moverReset mc 8 0, .moverReset mc 0 16, .stripeConfigWrite { path := 17 } 0 0 0 0,
   .stripeConfigWrite mc 256 0 0 0, .stripeConfigWrite mc 0 0 (2 ^ 32) 0, .stripeConfigWrite mc 0 0 0 256, .stripeConfigWrite mc 0 7 0 0,
   .tapConfigWrite { path := 17 } 0 0 0 0, .tapConfigWrite mc 256 0 0 0, .tapConfigWrite mc 0 0 (2 ^ 32) 0, .tapConfigWrite mc 0 0 0 256,
   .tapConfigWrite mc 0 5 0 0, .tapRestart { path := 17 } 0, .tapRestart mc 256, .tapFinish 256, .tapShed 256, .tapLogRdWrite { path := 17 } 0 0,
   .tapLogRdWrite mc 256 0, .tapLogRdWrite mc 0 65536, .tilBondWrite { path := 17 } 0 0, .tilBondWrite mc 64 0, .tilBondWrite mc 0 (2 ^ 32),
   .bondBreak { path := 17 } 0, .bondBreak mc 64, .evacuate { path := 17 } 0, .evacuate mc 64, .evacuationDrained 64, .tileReturn { path := 17 } 0]

def illFormed9 : List Instr :=
  [.tileReturn mc 64, .tileReset { path := 17 } 0, .tileReset mc 64, .tileResetDone 64 false, .recal { path := 17 } 0, .recal mc 64, .tileFault 64,
   .dieReset { path := 17 } 0, .dieReset mc 8, .dieResetDrained 8 0, .dieResetDrained 0 (2 ^ 96), .leadHandoff { path := 17 } 0, .leadHandoff mc 8,
   .mcRestart { path := 17 } 0 0, .mcRestart mc 8 0, .mcRestart mc 0 2, .mcRejoin 8 none, .mcRejoin 0 (some 2), .pllSwap { path := 17 } 0,
   .pllSwap mc 8, .pllLock 8 .a, .heartbeatSend 8, .heartbeatReceived 8 0, .heartbeatReceived 0 8, .heartbeatMiss 8 0, .heartbeatMiss 0 8,
   .leadClaimReceived 8 0, .leadClaimReceived 0 8, .sramUncorrectable 8 0, .sramUncorrectable 0 96, .sramCorrected 8,
   .mortarPacketReceived 8 0 mor0, .mortarPacketReceived 0 4 mor0, .mortarPacketReceived 0 0 { mor0 with src := 8 },
   .mortarPacketReceived 0 0 { mor0 with dst := 8 }, .mortarPacketReceived 0 0 { mor0 with cls := 3 },
   .mortarPacketReceived 0 0 { mor0 with words := List.replicate 81 0x10000000 },
   .mortarPacketReceived 0 0 { mor0 with words := [] }, .mortarPacketReceived 0 0 { mor0 with words := [0x0FFFFFFF] }, .mortarLinkFail 8 0,
     .mortarLinkFail 0 4, .mortarDegrade 8 0]

def illFormed10 : List Instr :=
  [.mortarDegrade 0 4, .clockMonitorResult 8 (.mon 0) 0, .clockMonitorResult 0 (.mon 8) 0, .clockMonitorResult 0 (.loop 8) 0,
   .clockMonitorResult 0 (.mon 0) (2 ^ 32), .arbitrationResult 8 0, .arbitrationResult 0 (2 ^ 32), .pllReferenceLoss 8 .a, .muxHang 8 .root false,
   .muxHang 0 (.portTx 8) false, .fioCalDone 8 0, .fioCalDone 0 (2 ^ 32), .sleepEnter { path := 17 } 0, .sleepEnter mc 8, .wakeEvent 8 .perst,
   .wakeTimerExpiry 8, .tempSample 8 0, .tempSample 0 (-129), .tempSample 0 128, .railUndervoltage 8 0, .railUndervoltage 0 3,
   .pkgResetRelease [(2, 0, 0)] [], .pkgResetRelease [(0, 2 ^ 24, 0)] [], .pkgResetRelease [] [{ die := 8, step := 0 }],
   .pkgResetRelease [] [{ die := 0, step := 20 }], .bootStepTimeout 8, .failedStartReset [{ die := 8, step := 0 }],
   .failedStartReset [{ die := 0, step := 20 }], .flashRead { path := 17 } 0, .flashRead mc 8, .flashErase { path := 17 } 0, .flashErase mc 8,
   .flashProgram { path := 17 } 0, .flashProgram mc 8, .flashCommandComplete 8 false, .flashCommandTimeout 8, .markA { path := 17 } 0, .markA mc 8,
   .markB { path := 17 } 0, .markB mc 8]

def illFormed11 : List Instr :=
  [.readmit { path := 17 } 0 0, .readmit mc 8 0, .readmit mc 0 256, .presenceRemove 64, .presenceDebounce 64, .mpEnWrite { path := 17 } 0 false,
   .mpEnWrite mc 64 false, .mpClear { path := 17 } 0, .mpClear mc 64, .mpPowerGood 64, .mpDischarged 64, .short 64, .overcurrent 64, .pgTimeout 64,
   .undervoltage 64, .dischargeTimeout 64, .extest 8, .samplePreload 8, .idcode 8, .clamp 8, .highz 8, .bypass 8, .monitorLevelSample 8 0,
   .monitorLevelSample 0 64, .monitorClear { path := 17 } 0 0, .monitorClear mc 8 0, .monitorClear mc 0 64,
   .monitorSourceWrite { path := 17 } 0 0 0, .monitorSourceWrite mc 8 0 0, .monitorSourceWrite mc 0 64 0, .monitorSourceWrite mc 0 0 (2 ^ 32),
   .presenceInsert 64, .perstRelease 8, .railRestored [(2, 0, 0)] [], .railRestored [(0, 2 ^ 24, 0)] [],
   .railRestored [] [{ die := 8, step := 0 }], .railRestored [] [{ die := 0, step := 20 }], .laneRecalibrationDone 64 0,
   .laneRecalibrationDone 0 256, .pcieL1Entry 8 0]

def illFormed12 : List Instr :=
  [.pcieL1Entry 0 3, .pcieL1Exit 8]

/-- Operands in their fields are let through. -/
theorem test_well_formed : (wellFormed0 ++ wellFormed1 ++ wellFormed2 ++ wellFormed3 ++ wellFormed4 ++ wellFormed5).all Instr.wf = true := by
  decide +kernel

/-- Every check of form refuses what breaks it. -/
theorem test_ill_formed_refused : (illFormed0 ++ illFormed1 ++ illFormed2 ++ illFormed3 ++ illFormed4 ++ illFormed5 ++ illFormed6 ++ illFormed7 ++
  illFormed8 ++ illFormed9 ++ illFormed10 ++ illFormed11 ++ illFormed12).all (fun i => !i.wf) = true := by
  decide +kernel

/-- Nothing matches where no window is enabled: the other clauses of WindowsMatch. -/
theorem witness_NoWindow (inb : Bool) (w : Nat) : (base.window 0 inb w).en = false := by
  have same : ∀ b : Bool, (base.window 0 b w).ctl = (base.window 0 b 0).ctl := by intro b; cases b <;> rfl
  have off : ∀ b : Bool, (base.window 0 b 0).en = false := by decide +kernel
  exact (congrArg (fun c : Word => c.getLsbD 31) (same inb)).trans (off inb)

/-- The device of the witnesses is at rest. -/
theorem witness_RestKeepsEffect : base.nextNote = none ∧ base.pump (Locks.clear.after base.notes) = base ∧ base.syncQueues = base := by
  decide +kernel

/-- A command of each kind of CommandsComplete. -/
theorem witness_CommandsComplete : (Instr.semTake mc 4096).wf = false ∧ (Instr.pciePerst 2).wf = true ∧
    (Instr.pciePerst 2).present base.n = false ∧ base.takes (.pciePerst 1) = true := by
  decide +kernel

/-- A queue of commands that can reach the block (ReadyKept, QueueRunsOut). -/
theorem witness_ReadyKept : ∀ i ∈ [Instr.pciePerst 1, .semTake mc 3], base.takes i = true := by
  decide +kernel

/-- A step over a command that is no reset, with a lock of each kind set before and after. -/
theorem witness_LocksStay : (match step ⟨[.semTake mc 3], ⟨Vector.replicate 8 true, Vector.replicate 8 true, Vector.replicate 64 true⟩, base⟩ with
    | .next t => t.locks.pkg[0] && t.locks.die[1] && t.locks.tile[9] | _ => false) = true := by
  decide +kernel

/-- The deputy clause of Controllers: die 0 leads and takes its standby, die 1, as healthy. -/
theorem witness_Deputy : (fun d : Dev => decide (0 < d.n ∧ 1 < d.n ∧ d.lead.lead = 0 ∧ d.lead.failed = false ∧ d.cfgLog = [] ∧ d.heldCfg = [] ∧
    d.inService 1 = true ∧ d.fld MC_ROLE.ROLE 1 = 1 ∧ (2 : Nat).testBit 1 = true ∧ (d.setHealth 0 2).deputy = some 1))
    ((base.setFld MC_ROLE.ROLE 0 0 3).setFld MC_ROLE.ROLE 1 0 1) = true := by
  decide +kernel

/-! Results of single commands, by hand from the spec's rules; the commands run through `exec`, the settling of the step with them -/

/-- The state after a command that completes; the state as it was otherwise. -/
def ran (s : State) (i : Instr) : State := match exec i s with | .next t => t | _ => s

/-- What a completed command sends. -/
def sent (s : State) (i : Instr) : List Out := match exec i s with | .next t => t.dev.out | _ => []

/-- Is an outcome a fault of a given name? -/
def stopsWith (f : Fault) : Host.Outcome State Fault Refusal → Bool
  | .fault g => g == f
  | _ => false

/-- R15: the nine ASCII bytes "123456789" give 0xCBF4_3926. -/
theorem test_crc32 : crc32 [0x31, 0x32, 0x33, 0x34, 0x35, 0x36, 0x37, 0x38, 0x39] = 0xCBF43926#32 := by
  decide +kernel

/-- The table gives no row bits: no word spells a command. -/
theorem test_no_word : decodeTableWord 32 0 = none ∧ (State.reset.withFetchWord 32 7) = State.reset := by
  decide +kernel

/-- Operands outside their fields spell no event of the block. -/
theorem test_ill_formed : stopsWith .illFormed (exec (.semTake mc 4096) (st id)) = true := by
  decide +kernel

/-- R6: an EZ2 has two dies. -/
theorem test_absent_die : stopsWith .absentUnit (exec (.pciePerst 2) (st id)) = true := by
  decide +kernel

/-- R68, R71: PKG_LOCK is set and nothing but a reset clears it. -/
theorem test_pkg_lock : (ran (st id) (.pkgLockSet mc)).locks.pkg[0] = true := by
  decide +kernel

theorem test_die_lock : ((ran (st id) (.dieLockSet mc 1)).locks.die[1], (ran (st id) (.dieLockSet mc 1)).locks.die[0]) = (true, false) := by
  decide +kernel

theorem test_til_lock : ((ran (st id) (.tilLockSet mc 9)).locks.tile[9], (ran (st id) (.tilLockSet mc 9)).locks.tile[1]) = (true, false) := by
  decide +kernel

/-- R56: only the RW bits of a register take a written value. -/
theorem test_write_threshold : (ran (st id) (.registerWrite mc (Loc.offset ⟨.MON_THRESH, 0, 5⟩) 4 15 0xA5A5A5A5 0)).dev.reg .MON_THRESH 0 5 =
    0xA5A5A5A5#32 := by
  decide +kernel

/-- R56: a write whose byte enables are not all set is refused. -/
theorem test_write_enables : (ran (st id) (.registerWrite mc (Loc.offset ⟨.CLK_CTL, 0, 0⟩) 4 7 5 0)).dev.reg .CLK_CTL 0 = base.reg .CLK_CTL 0 := by
  decide +kernel

/-- A PCI Express read of PX_EVENT clears its RC bits. -/
theorem test_read_clears : (ran (st fun d => d.setReg .PX_EVENT 0 0 0xFFFFFFFF#32) (.rcFieldRead mc (Loc.offset ⟨.PX_EVENT, 0, 0⟩) 4)).dev.reg
  .PX_EVENT 0
    &&& 1#32 = 0#32 := by
  decide +kernel

/-- R8, R32: a write of a configuration register waits for its application step on each die. -/
theorem test_config_waits : (ran (st id) (.windowWrite mc true 3 2 4096 0)).dev.reg .WIN_I_BASE_LO 0 3 = base.reg .WIN_I_BASE_LO 0 3 := by
  decide +kernel

theorem test_config_applies : (ran (ran (st id) (.windowWrite mc true 3 2 0x40000000 0)) (.pkgConfigApply 1)).dev.reg .WIN_I_BASE_LO 1 3 =
  0x40000000#32 := by
  decide +kernel

/-- R82: the vendor is 0x1F8C, the device of an EZ2 0x0E02. -/
theorem test_config_id : sent (st (booted 0)) (.pcieConfigRequest 0 (cfgR false 0 0)) = [.cpl 0 256 7 .success false [0x8C, 0x1F, 0x02, 0x0E]] := by
  decide +kernel

/-- R82: the class code is 0x068000. -/
theorem test_config_class : ((ran (st (booted 0)) (.pcieConfigRequest 0 (cfgR false 0 0))).dev.cfgRead 0 8) >>> 8 = 0x068000#32 := by
  decide +kernel

/-- R90: a configuration request of type 1 is an Unsupported Request. -/
theorem test_config_type1 : (sent (st id) (.pcieConfigRequest 0 { cfgR false 0 0 with type0 := false })).contains (.cpl 0 256 7 .unsupported false
  []) =
    true := by
  decide +kernel

/-- R90: a read of BAR2 returns zero with Successful Completion. -/
theorem test_bar2_read : sent (st (mapped 0)) (.registerReadReject px (2 ^ 27) 4) = [.cpl 0 256 7 .success false [0, 0, 0, 0]] := by
  decide +kernel

/-- R116: a packet with a CRC mismatch counts, and opens a repeat run. -/
theorem test_frame_crc : (fun d : Dev => (d.fld BB_LINK_ERR.CRC_ERR 0, (d.port 0).link.repeatRun)) (ran (st (up 0)) (.bbFrameBad 0 (.crc
  false))).dev = (1, true) := by
  decide +kernel

/-- R116: a packet that ends in EBP opens a repeat run and counts nothing. -/
theorem test_frame_ebp : (fun d : Dev => (d.fld BB_LINK_ERR.CRC_ERR 0, (d.port 0).link.repeatRun)) (ran (st (up 0)) (.bbFrameBad 0 .ebp)).dev = (0,
  true) := by
  decide +kernel

/-- R116: an IDL with a CRC mismatch opens no repeat run. -/
theorem test_frame_link : (fun d : Dev => (d.fld BB_LINK_ERR.CRC_ERR 0, (d.port 0).link.repeatRun)) (ran (st (up 0)) (.bbFrameBad 0 (.crc
  true))).dev =
    (1, false) := by
  decide +kernel

/-- An IDL that names the next packet expected frees the packets before it. -/
theorem test_idl_frees : ((ran (st (linkUp 0 fun l => { l with txSeq := 3, replay := [(0, pkt0), (1, pkt0), (2, pkt0)] })) (.idlReceived 0 false
  1)).dev.port
    0).link.replay = [(1, pkt0), (2, pkt0)] := by
  decide +kernel

/-- R155: a timeout as initiator ends the transaction and starts the quiet period. -/
theorem test_bus_timeout : (fun d : Dev => (d.flag BB_TXN_EVENT.TIMEOUT_OUT 0, (d.port 0).outOpen.isNone, (d.port 0).quiet.isSome))
    (ran (st (initr (crs true))) (.busTimerExpiry 0 true)).dev = (true, true, true) := by
  decide +kernel

/-- R141, R163: a misaligned single read is answered BERR, code ALIGN. -/
theorem test_bus_align : ((((target ∘ winIn 3) base).onPacket 0 0 fun d => d.rxAdr Locks.clear 0 (adrOf 0x60 2 66 false false)).out).any
    (fun | .pkt 0 _ (.berr 1 _) => true | _ => false) = true := by
  decide +kernel

/-- A take of a free semaphore makes the path its holder. -/
theorem test_sem_take : ((ran (st id) (.semTake mc 3)).dev.sem 3).holder = some (.software 8) := by
  decide +kernel

/-- A give by another than the holder changes nothing. -/
theorem test_sem_give_other : ((ran (st fun d => d.modSem 3 fun _ => { holder := some (.software 9) }) (.semGive mc 3)).dev.sem 3).holder =
    some (.software 9) := by
  decide +kernel

/-- A forced release counts. -/
theorem test_sem_timeout : (fun d : Dev => (d.sem 3, d.fld SEM_CNT.FORCED 0 3)) (ran (st fun d => d.modSem 3 fun _ =>
  { holder := some (.software 9) })
    (.lockTimeout 3)).dev = ({}, 1) := by
  decide +kernel

/-- R234: the host moves its read index up to WR. -/
theorem test_evq_read : (ran (st fun d => d.setFld EVQ_HOST_WR.WR 0 0 10) (.evqHostRdWrite mc 7)).dev.fld EVQ_HOST_RD.RD = 7 := by
  decide +kernel

/-- R266: a flushed queue is empty. -/
theorem test_queue_flush : ((ran (st fun d => d.modQueue 1 60 fun q => { q with items := [[1, 2], [3]], pushed := 9, popped := 4, cursor := 1 })
    (.queueFlush mc 1 60)).dev.queue 1 60).items = [] := by
  decide +kernel

/-- R283: GET takes the oldest cached handle and one off FREE. -/
theorem test_pool_get : (fun d : Dev => ((d.pool 3).cache, d.poolFree 3)) (ran (st fun d => ((((d.setFld POOL_STAT.ACTIVE 0 3 1).setFld
  POOL_CTL.OWNERS
    (d.homeOf 3) 3 4).setReg .POOL_COUNT (d.homeOf 3) 3 9#32).setPoolFree 3 6).modPool 3 fun q =>
      { q with cache := [handleOf 3 5 2, handleOf 3 1 4] })
    (.poolGet mc 3 1)).dev = ([handleOf 3 1 4], 5) := by
  decide +kernel

/-- R294: a doorbell on BAR2 page n moves POSTED of ring n, modulo 65536. -/
theorem test_doorbell : (ran (st fun d => ((((mapped 0 d).setRingState 9 1).modRing 9 fun g => { g with ctl := 0x40220006#32 }).setFld
  RING_PTR.POSTED 0 9 65530).setFld
    RING_CPL_PTR.CPL_WR 0 9 65520) (.doorbell px 9 true 0 4 15 48)).dev.posted 9 = 48 := by
  decide +kernel

/-- STOP of a running ring stops it. -/
theorem test_ring_stop : (ran (st fun d => (d.setRingState 9 1).modRing 9 fun g => { g with ctl := 0x40220006#32 }) (.ringStop mc 9)).dev.ringState
  9 = 2 := by
  decide +kernel

/-- R352, R353: a tile that serves takes EVACUATE; once it is drained its partner carries it. -/
theorem test_evacuate : (fun d : Dev => (d.fld TIL_SVC_STAT.STATE 0, d.fld TIL_SVC_STAT.CARRYING (partnerTile 0)))
    (ran (ran (st id) (.evacuate mc 0)) (.evacuationDrained 0)).dev = (2, 1) := by
  decide +kernel

/-- EVACUATE beside an evacuated partner is refused. -/
theorem test_evacuate_refused : (ran (st fun d => d.setFld TIL_SVC_STAT.STATE (partnerTile 0) 0 2) (.evacuate mc 0)).dev.fld TIL_SVC_STAT.STATE 0 =
  0 := by
  decide +kernel

/-- A tile reset that fails leaves the tile failed (5). -/
theorem test_tile_reset : (ran (st fun d => d.setFld TIL_SVC_STAT.STATE 0 0 3) (.tileResetDone 0 false)).dev.fld TIL_SVC_STAT.STATE 0 = 5 := by
  decide +kernel

/-- A magazine port that is enabled with a magazine present ramps (2). -/
theorem test_mp_on : (ran (st fun d => d.modMp 10 fun m => { m with present := true }) (.mpEnWrite mc 10 true)).dev.fld PWR_MP_STAT.STATE 1 2 = 2
  := by
  decide +kernel

/-- A short of a port that is on turns it to FAULT (4). -/
theorem test_mp_short : (ran (st fun d => d.setFld PWR_MP_STAT.STATE 1 2 3) (.short 10)).dev.fld PWR_MP_STAT.STATE 1 2 = 4 := by
  decide +kernel

/-- R396: a die with no link up sleeps. -/
theorem test_sleep : ((ran (st id) (.sleepEnter mc 1)).dev.asleep, (ran (st (up 3)) (.sleepEnter mc 1)).dev.asleep) = (true, false) := by
  decide +kernel

/-- A handed-off lead is the standby that was named. -/
theorem test_handoff : (ran (st fun d => ((d.setFld MC_ROLE.ROLE 0 0 3).setFld MC_ROLE.ROLE 1 0 1).setFld MC_ROLE.HEALTHY 0 0 2)
    (.leadHandoff mc 1)).dev.fld MC_ROLE.ROLE 1 = 3 := by
  decide +kernel

/-- A temperature far below the limit ends the alert. -/
theorem test_temperature : (ran (st id) (.tempSample 1 (-128))).dev.flag PWR_TEMP.ALERT 1 = false := by
  decide +kernel

/-- IDCODE answers the package's code through the scan port while the package is in service. -/
theorem test_scan : (sent (st id) (.idcode 1)).any (fun | .scan 1 .idcode _ => true | _ => false) = true := by
  decide +kernel

/-- R418: while PKG_RESET_N is asserted the package stays in reset. -/
theorem test_pkg_reset : (fun d : Dev => (d.fen.asserted, d.inReset)) (ran (st (booted 1)) (.pkgReset true)).dev = (true, true) := by
  decide +kernel

/-- The step takes the front of the queue and leaves the rest. -/
theorem test_step_front : (match step { State.reset with pending := [.pkgReset true, .handoffTimeout] } with | .next t => t.pending | _ => []) =
    [.handoffTimeout] := by
  decide +kernel

/-- An empty queue idles. -/
theorem test_step_idle : (match step State.reset with | .next t => t == State.reset | _ => false) = true := by
  decide +kernel

end Sys2Proof.Tests
end

/-! ## The three lock commands (R68, R72) -/

namespace Sys2Proof.Machine

/-! The lock that guards a register -/

/-- The package lock guards a register of the package block where any copy is set (R72). -/
theorem lockOf_pkg {l : Loc} (h : l.reg.spec.block = .pkg) (L : Locks) : lockOf L l = true ↔ ∃ x : Fin 8, L.pkg[x] = true := by
  simp only [lockOf, h, List.any_eq_true, List.mem_range]
  constructor
  · rintro ⟨x, hx, hs⟩
    exact ⟨⟨x, hx⟩, by simpa [List.getD_eq_getElem, hx] using hs⟩
  · rintro ⟨x, hs⟩
    exact ⟨x, x.isLt, by simpa [List.getD_eq_getElem] using hs⟩

theorem lockOf_die {l : Loc} (h : l.reg.spec.block = .die) (L : Locks) {x : Fin 8} (hu : l.u = x.val) : lockOf L l = L.die[x] := by
  simp [lockOf, h, hu]

theorem lockOf_tile {l : Loc} (h : l.reg.spec.block = .tile) (L : Locks) {p : Fin 64} (hu : l.u = p.val) : lockOf L l = L.tile[p] := by
  simp [lockOf, h, hu]

/-! What a notice of a lock sets -/

/-- The copies of the package lock that a mask of dies names, set. -/
def Locks.setCopies (L : Locks) (copies : Nat) (l : List Nat) : Locks :=
  l.foldl (fun L x => if copies.testBit x then { L with pkg := L.pkg.setIfInBounds x true } else L) L

theorem setCopies_pkg (copies : Nat) (l : List Nat) (L : Locks) (y : Fin 8) :
    (L.setCopies copies l).pkg[y] = (L.pkg[y] || decide (y.val ∈ l) && copies.testBit y) := by
  induction l generalizing L with
  | nil => simp [Locks.setCopies]
  | cons x l ih =>
    rw [Locks.setCopies, List.foldl_cons, ← Locks.setCopies, ih]
    by_cases hb : copies.testBit x = true <;> by_cases hy : y.val = x
    · subst hy; simp [hb]
    · simp [hb, hy, Ne.symm hy]
    · subst hy; simp [hb]
    · simp [hb, hy]

theorem setCopies_keep (copies : Nat) (l : List Nat) (L : Locks) :
    (L.setCopies copies l).die = L.die ∧ (L.setCopies copies l).tile = L.tile := by
  induction l generalizing L with
  | nil => exact ⟨rfl, rfl⟩
  | cons x l ih =>
    rw [Locks.setCopies, List.foldl_cons, ← Locks.setCopies, (ih _).1, (ih _).2]
    split <;> exact ⟨rfl, rfl⟩

theorem after_lock_pkg (L : Locks) (copies : Nat) (die tile : Option Nat) (y : Fin 8) :
    (L.after [.lock copies die tile]).pkg[y] = (L.pkg[y] || copies.testBit y) := by
  have h := setCopies_pkg copies (List.range 8) L y
  simp only [List.mem_range, y.isLt, decide_true, Bool.true_and] at h
  rw [← h]
  cases die <;> cases tile <;> rfl

theorem after_lock_die (L : Locks) (copies : Nat) (die tile : Option Nat) (y : Fin 8) :
    (L.after [.lock copies die tile]).die[y] = (L.die[y] || die == some y.val) := by
  have h := (setCopies_keep copies (List.range 8) L).1
  have hd : (L.after [.lock copies die tile]).die = match die with | some x => L.die.setIfInBounds x true | none => L.die := by
    rw [← h]
    cases die <;> cases tile <;> rfl
  rw [hd]
  cases die with
  | none => simp
  | some x => by_cases hy : x = y.val <;> simp [hy]

theorem after_lock_tile (L : Locks) (copies : Nat) (die tile : Option Nat) (y : Fin 64) :
    (L.after [.lock copies die tile]).tile[y] = (L.tile[y] || tile == some y.val) := by
  have h := (setCopies_keep copies (List.range 8) L).2
  have hd : (L.after [.lock copies die tile]).tile = match tile with | some x => L.tile.setIfInBounds x true | none => L.tile := by
    rw [← h]
    cases die <;> cases tile <;> rfl
  rw [hd]
  cases tile with
  | none => simp
  | some x => by_cases hy : x = y.val <;> simp [hy]

/-! The command that sets a lock -/

/-- The lock registers: the package's, a die's, a tile's (R68). -/
def lockRegs : List RegId := [.PKG_LOCK, .DIE_LOCK, .TIL_LOCK]

/-- The notice of the lock that a lock register sets. -/
def lockNote (n : Nat) (l : Loc) : Note :=
  .lock (if l.reg = .PKG_LOCK then 2 ^ n - 1 else 0) (if l.reg = .DIE_LOCK then some l.u else none)
    (if l.reg = .TIL_LOCK then some l.u else none)

/-- The notice of PKG_LOCK sets the package lock in the copy of every die (R72). -/
theorem after_lockNote_pkg (L : Locks) (n : Nat) (l : Loc) (y : Fin 8) :
    (L.after [lockNote n l]).pkg[y] = (L.pkg[y] || l.reg == .PKG_LOCK && decide (y.val < n)) := by
  rw [lockNote, after_lock_pkg]
  by_cases h : l.reg = .PKG_LOCK
  · simp [h, Nat.testBit_two_pow_sub_one]
  · simp [h]

theorem after_lockNote_die (L : Locks) (n : Nat) {l : Loc} (hi : l.i = 0) (y : Fin 8) :
    (L.after [lockNote n l]).die[y] = (L.die[y] || l == ⟨.DIE_LOCK, y.val, 0⟩) := by
  obtain ⟨r, u, i⟩ := l
  subst hi
  rw [lockNote, after_lock_die]
  by_cases h : r = .DIE_LOCK
  · simp [h, Bool.beq_eq_decide_eq]
  · simp [h, Bool.beq_eq_decide_eq]

theorem after_lockNote_tile (L : Locks) (n : Nat) {l : Loc} (hi : l.i = 0) (y : Fin 64) :
    (L.after [lockNote n l]).tile[y] = (L.tile[y] || l == ⟨.TIL_LOCK, y.val, 0⟩) := by
  obtain ⟨r, u, i⟩ := l
  subst hi
  rw [lockNote, after_lock_tile]
  by_cases h : r = .TIL_LOCK
  · simp [h, Bool.beq_eq_decide_eq]
  · simp [h, Bool.beq_eq_decide_eq]

/-- A lock register is one LK bit, outside package configuration, pairs, mailboxes and flash windows. -/
theorem lockRegs_form : ∀ r ∈ lockRegs, r.plain = true ∧ r.outside = true ∧ r.writable false = 1#32 ∧ r.pMask = 0#32 ∧
    r.isMail = false ∧ r.isFlash = false ∧ (r.maskWhere fun f => f.ty == .rw || f.ty == .lk) = 1#32 := by
  decide +kernel

/-- The word of a trigger in bit 0 over a register of one bit. -/
theorem putBits_lock (w : Word) : putBits (w &&& 1#32) 0 0 1 = 1#32 := by
  apply BitVec.eq_of_getLsbD_eq
  intro i hi
  rw [putBits_getLsbD]
  by_cases h0 : i = 0
  · simp [h0]
  · have : ¬ i < 0 + 1 - 0 + 0 := by omega
    simp [this, h0]

theorem setMask_lock (d : Dev) (src : Src) {l : Loc} (hr : l.reg ∈ lockRegs) : d.setMask src l false = 1#32 := by
  obtain ⟨-, -, hw, -, hm, hf, -⟩ := lockRegs_form l.reg hr
  have hp : d.presentMask l.reg = 0xFFFFFFFF#32 := by
    simp only [lockRegs, List.mem_cons, List.not_mem_nil, or_false] at hr
    rcases hr with h | h | h <;> rw [h] <;> rfl
  have hq : l.reg ≠ .DIE_Q_CFG ∧ l.reg ≠ .EVQ_HOST_RD := by
    constructor <;> rintro h <;> rw [h] at hr <;> exact absurd hr (by decide)
  simp [Dev.setMask, hm, hf, hw, hp, hq.1, hq.2]

theorem writeHook_lock (d : Dev) (L : Locks) (src : Src) {l : Loc} (hr : l.reg ∈ lockRegs) (old : Word) :
    d.writeHook L src l false old 1#32 = (false, d.note (lockNote d.n l)) := by
  obtain ⟨r, u, i⟩ := l
  simp only [lockRegs, List.mem_cons, List.not_mem_nil, or_false] at hr
  rcases hr with rfl | rfl | rfl <;> rfl

theorem stored_lock (d : Dev) {l : Loc} (hr : l.reg ∈ lockRegs) : d.stored l 1#32 1#32 = d.put l (merged (d.at l) 1#32 1#32) := by
  obtain ⟨-, -, -, hm, -⟩ := lockRegs_form l.reg hr
  simp [Dev.stored, hm]

/-- Where its lock is clear, the command that writes 1 to a lock register stores the bit and notes the lock. -/
theorem swCmd_lock {d : Dev} {L : Locks} {src : Src} {l : Loc} (hr : l.reg ∈ lockRegs) (hf : l.fits d.n = true) (hg : d.lets src l = true)
    (hc : lockOf L l = false) :
    d.swCmd L src l (fun w => putBits w 0 0 1) = (((d.written src l).stored l 1#32 1#32).note (lockNote d.n l)).answered src := by
  obtain ⟨hp, ho, -, -, -, -, hk⟩ := lockRegs_form l.reg hr
  rw [swCmd_plain hg (offset_word l) (locate_offset hf) (isCfg_outside ho) hp]
  simp only [hk, putBits_lock, hc, setMask_lock _ _ hr, writeHook_lock _ _ _ hr, Dev.lockHit, Bool.and_false, Bool.false_and, cond_false]
  have hn : ((d.written src l).stored l 1#32 1#32).n = d.n := by rw [stored_lock _ hr]; rfl
  rw [hn]

/-! The end of the command -/

@[simp] theorem answered_notes (d : Dev) (src : Src) : (d.answered src).notes = d.notes := by
  unfold Dev.answered
  split
  · rfl
  · split <;> rfl

/-- A command that leaves one notice of a lock ends with that lock set and the notice gone. -/
theorem close_lock {s : State} {e : Dev} {copies : Nat} {die tile : Option Nat} (h : e.notes = [.lock copies die tile]) :
    (s.close e).locks = s.locks.after [.lock copies die tile] ∧ (s.close e).dev.notes = [] := by
  constructor
  · simp [State.close, Locks.close, h]
  · simp [State.close, h, Note.isLock]

/-- The command of a lock register whose lock is clear: its notice's locks are set, and nothing is left to do. -/
theorem lockCommand_next {s : State} {src : Src} {i : Instr} {l : Loc}
    (hi : exec i s = perform i s fun L d => d.swCmd L src l fun w => putBits w 0 0 1) (hr : l.reg ∈ lockRegs) (hf : l.fits s.dev.n = true)
    (hg : s.dev.lets src l = true) (hc : lockOf s.locks l = false) (hn : s.dev.notes = [])
    (hrest : ((((s.dev.written src l).stored l 1 1).note (lockNote s.dev.n l)).answered src).Rests s.locks) (ht : s.dev.takes i = true) :
    ∃ t : State, exec i s = .next t ∧ t.dev.notes = [] ∧ t.locks = s.locks.after [lockNote s.dev.n l] := by
  have hnotes : ((((s.dev.written src l).stored l 1 1).note (lockNote s.dev.n l)).answered src).notes = [lockNote s.dev.n l] := by
    rw [answered_notes]
    show ((s.dev.written src l).stored l 1#32 1#32).notes ++ [lockNote s.dev.n l] = _
    rw [stored_lock _ hr]
    show s.dev.notes ++ [lockNote s.dev.n l] = _
    rw [hn]; rfl
  obtain ⟨hlocks, hgone⟩ := close_lock (s := s) hnotes
  refine ⟨s.close _, ?_, hgone, hlocks⟩
  rw [hi, perform_next ht, swCmd_lock hr hf hg hc, State.after]
  exact congrArg (fun e => Host.Outcome.next (s.close e)) (settle_rests hrest)

/-- Settles O20. Each lock command is the write of a lock register that notes one lock, and at rest nothing else is noted. -/
theorem locksSet : Obligations.LocksSet := by
  unfold Obligations.LocksSet
  refine ⟨fun L l => ⟨fun h => lockOf_pkg h L, fun x h hu => lockOf_die h L hu, fun p h hu => lockOf_tile h L hu⟩, ?_⟩
  intro s src i l k hg hc hn hcmd hrest ht
  have hform : (exec i s = perform i s fun L d => d.swCmd L src l fun w => putBits w 0 0 1) ∧ l.reg ∈ lockRegs ∧ l.fits s.dev.n = true ∧
      l.i = 0 ∧ k = lockNote s.dev.n l := by
    rcases hcmd with ⟨rfl, rfl, rfl⟩ | ⟨x, rfl, rfl, rfl⟩ | ⟨p, rfl, rfl, rfl⟩
    · exact ⟨rfl, by simp [lockRegs], rfl, rfl, rfl⟩
    · simp only [Dev.takes, Instr.present, Bool.and_eq_true, decide_eq_true_eq] at ht
      obtain ⟨-, -, hx⟩ := ht
      exact ⟨rfl, by simp [lockRegs], decide_eq_true hx, rfl, rfl⟩
    · simp only [Dev.takes, Instr.present, Bool.and_eq_true, decide_eq_true_eq] at ht
      obtain ⟨-, -, hp⟩ := ht
      exact ⟨rfl, by simp [lockRegs], decide_eq_true hp, rfl, rfl⟩
  obtain ⟨hi, hr, hf, h0, rfl⟩ := hform
  obtain ⟨t, he, hgone, hL⟩ := lockCommand_next hi hr hf hg hc hn hrest ht
  exact ⟨t, he, hgone, fun x => hL ▸ after_lockNote_pkg s.locks _ l x, fun x => hL ▸ after_lockNote_die s.locks _ h0 x,
    fun p => hL ▸ after_lockNote_tile s.locks _ h0 p⟩

end Sys2Proof.Machine

/-! ## Protected words: votes, scrubber, seal (R73, R74, R75, R78) -/

namespace Sys2Proof.Machine

/-! Words under a mask -/

/-- Under its mask a merged word is the new value. -/
theorem merged_and_mask (old v m : Word) : merged old v m &&& m = v &&& m := by
  apply BitVec.eq_of_getLsbD_eq
  intro i hi
  simp only [merged, BitVec.getLsbD_and, BitVec.getLsbD_or, BitVec.getLsbD_not]
  cases m.getLsbD i <;> simp [hi]

/-- A word merged with one that agrees with it under the mask stays. -/
theorem merged_agree {a v m : Word} (h : v &&& m = a &&& m) : merged a v m = a := by
  rw [merged, h]
  apply BitVec.eq_of_getLsbD_eq
  intro i hi
  simp only [BitVec.getLsbD_and, BitVec.getLsbD_or, BitVec.getLsbD_not]
  cases m.getLsbD i <;> simp [hi]

/-- The majority of three words of which two agree under a mask is their word there. -/
theorem majority_agree {a b m : Word} (h : a &&& m = b &&& m) (c : Word) : majority a b c &&& m = a &&& m := by
  apply BitVec.eq_of_getLsbD_eq
  intro i hi
  have hb := congrArg (fun w => w.getLsbD i) h
  simp only [BitVec.getLsbD_and] at hb
  cases hm : m.getLsbD i <;> cases ha : a.getLsbD i <;> simp_all [majority]

/-- A bit of a mask gathered from fields is that of a field, or of the mask before. -/
theorem getLsbD_maskFold (fs : List FieldSpec) (m : Word) (i : Nat) :
    (fs.foldl (fun m f => m ||| maskOf f.hi f.lo) m).getLsbD i = (m.getLsbD i || fs.any fun f => (maskOf f.hi f.lo).getLsbD i) := by
  induction fs generalizing m with
  | nil => simp
  | cons f fs ih => simp [ih, Bool.or_assoc]

/-- Words that agree in the protected bits of a register agree in each of its protected fields. -/
theorem agree_field {r : RegId} {a b : Word} (h : a &&& r.pMask = b &&& r.pMask) {f : FieldSpec}
    (hf : f ∈ r.spec.fields.filter (·.prot)) : a &&& maskOf f.hi f.lo = b &&& maskOf f.hi f.lo := by
  apply BitVec.eq_of_getLsbD_eq
  intro i hi
  have hb := congrArg (fun w => w.getLsbD i) h
  simp only [BitVec.getLsbD_and, RegId.pMask, RegId.maskWhere, getLsbD_maskFold] at hb ⊢
  cases hm : (maskOf f.hi f.lo).getLsbD i
  · simp
  · have : ((r.spec.fields.filter (·.prot)).any fun f => (maskOf f.hi f.lo).getLsbD i) = true := List.any_eq_true.mpr ⟨f, hf, hm⟩
    simpa [this] using hb

/-! Copies read and written (R73) -/

/-- A word in three copies reads as their majority in its protected bits, and as the first in the rest. -/
theorem at_upset {d : Dev} {l : Loc} {b c : Word} (h : d.upsets.get none l.key = some (b, c)) :
    d.at l = merged (d.raw l) (majority (d.raw l) b c) l.reg.pMask := by
  simp only [Dev.at, h, merged]

theorem at_sound {d : Dev} {l : Loc} (h : d.upsets.get none l.key = none) : d.at l = d.raw l := by
  simp only [Dev.at, h]

/-- A write leaves three equal copies. -/
@[simp] theorem upsets_put_same (d : Dev) (l : Loc) (w : Word) : (d.put l w).upsets.get none l.key = none := by
  simp [Dev.put]

theorem upsets_put_ne (d : Dev) {l l' : Loc} (h : l' ≠ l) (w : Word) :
    (d.put l w).upsets.get none l'.key = d.upsets.get none l'.key := by
  simp only [Dev.put]
  exact Store.get_set_ne _ _ (fun e => h (Loc.key_inj e)) _ _

theorem upsets_setFld_ne (d : Dev) (f : Fld) (u i v : Nat) {l : Loc} (h : l ≠ ⟨f.reg, u, i⟩) :
    (d.setFld f u i v).upsets.get none l.key = d.upsets.get none l.key := upsets_put_ne d h _

theorem upsets_bump_ne (d : Dev) (f : Fld) (u i : Nat) {l : Loc} (h : l ≠ ⟨f.reg, u, i⟩) :
    (d.bump f u i).upsets.get none l.key = d.upsets.get none l.key := by
  rw [Dev.bump, upsets_setFld_ne d f u i _ h]

/-! The vote on one register (R74) -/

/-- The vote on one field: the word so far, the fields fixed, the fields reloaded. -/
def voteField (a b c lead : Word) (s : Word × Nat × Nat) (f : FieldSpec) : Word × Nat × Nat :=
  let m := maskOf f.hi f.lo
  let x := a &&& m
  let y := b &&& m
  let z := c &&& m
  if x = y && y = z then s
  else if x = y || x = z || y = z then (merged s.1 (if x = y || x = z then x else y) m, s.2.1 + 1, s.2.2)
  else (merged s.1 lead m, s.2.1, s.2.2 + 1)

theorem voteFields_eq_foldl (a b c lead : Word) (fs : List FieldSpec) : voteFields a b c lead fs = fs.foldl (voteField a b c lead) (a, 0, 0) := rfl

/-- Where the first two copies agree in a field, the word stays, and the field counts where the third differs. -/
theorem voteField_agree {a b : Word} (c lead : Word) (k : Nat) {f : FieldSpec} (h : a &&& maskOf f.hi f.lo = b &&& maskOf f.hi f.lo) :
    voteField a b c lead (a, k, 0) f = (a, if a &&& maskOf f.hi f.lo != c &&& maskOf f.hi f.lo then k + 1 else k, 0) := by
  by_cases hc : a &&& maskOf f.hi f.lo = c &&& maskOf f.hi f.lo
  · simp [voteField, ← h, ← hc]
  · simp [voteField, ← h, hc, merged_agree, BitVec.and_assoc]

theorem voteFields_agree {a b : Word} (c lead : Word) {fs : List FieldSpec}
    (h : ∀ f ∈ fs, a &&& maskOf f.hi f.lo = b &&& maskOf f.hi f.lo) :
    voteFields a b c lead fs = (a, (fs.filter fun f => a &&& maskOf f.hi f.lo != c &&& maskOf f.hi f.lo).length, 0) := by
  suffices ∀ k, fs.foldl (voteField a b c lead) (a, k, 0) =
      (a, k + (fs.filter fun f => a &&& maskOf f.hi f.lo != c &&& maskOf f.hi f.lo).length, 0) by
    rw [voteFields_eq_foldl, this, Nat.zero_add]
  induction fs with
  | nil => simp
  | cons f fs ih =>
    intro k
    rw [List.foldl_cons, voteField_agree c lead k (h f (by simp)), ih fun g hg => h g (by simp [hg]), List.filter_cons]
    split <;> simp only [List.length_cons, Nat.add_assoc, Nat.add_comm 1]

/-- A single field whose three copies all differ takes the lead's value. -/
theorem voteFields_differ {a b c : Word} (lead : Word) {f : FieldSpec} (hab : a &&& maskOf f.hi f.lo ≠ b &&& maskOf f.hi f.lo)
    (hac : a &&& maskOf f.hi f.lo ≠ c &&& maskOf f.hi f.lo) (hbc : b &&& maskOf f.hi f.lo ≠ c &&& maskOf f.hi f.lo) :
    voteFields a b c lead [f] = (merged a lead (maskOf f.hi f.lo), 0, 1) := by
  simp [voteFields, hab, hac, hbc]

/-! What a scrub counts -/

theorem scrubbed_zero (d : Dev) (x fixed : Nat) : d.scrubbed x fixed 0 = d.bumpBy DIE_PROT_STAT.FIXED x 0 fixed := rfl

theorem scrubbed_succ (d : Dev) (x fixed k : Nat) :
    d.scrubbed x fixed (k + 1) = ((d.scrubbed x fixed k).bump DIE_PROT_STAT.FAILED x).raise x evVote ⟨.DIE_PROT_STAT, x, 0⟩ 0 x := by
  simp [Dev.scrubbed, List.range_succ]

/-- The counts of a scrub change DIE_PROT_STAT of their die alone, and no copies of protection rules. -/
theorem scrubbed_keep (d : Dev) (x fixed failed : Nat) :
    (d.scrubbed x fixed failed).activeUpsets = d.activeUpsets ∧
      ∀ k : Loc, k ≠ ⟨.DIE_PROT_STAT, x, 0⟩ → (d.scrubbed x fixed failed).at k = d.at k ∧
        (d.scrubbed x fixed failed).upsets.get none k.key = d.upsets.get none k.key := by
  induction failed with
  | zero => exact ⟨rfl, fun k hk => ⟨Dev.at_setFld_ne _ _ _ _ _ hk, upsets_setFld_ne _ DIE_PROT_STAT.FIXED _ _ _ hk⟩⟩
  | succ m ih =>
    obtain ⟨ha, hk⟩ := ih
    rw [scrubbed_succ]
    refine ⟨ha, fun k hne => ?_⟩
    obtain ⟨h1, h2⟩ := hk k hne
    exact ⟨(at_bump_ne _ _ _ _ hne).trans h1, (upsets_bump_ne _ DIE_PROT_STAT.FAILED x 0 hne).trans h2⟩

/-- A counter raised by `k` reads the sum, held at the field's end. -/
theorem fld_bumpBy_same (d : Dev) (f : Fld) (u i k : Nat) (h : f.lo ≤ f.hi) (hh : f.hi < 32) :
    (d.bumpBy f u i k).fld f u i = min (d.fld f u i + k) (2 ^ (f.hi + 1 - f.lo) - 1) := by
  rw [Dev.bumpBy, Dev.fld_setFld_same _ _ _ _ _ h hh]
  apply Nat.mod_eq_of_lt
  have : 0 < 2 ^ (f.hi + 1 - f.lo) := Nat.two_pow_pos _
  omega

theorem scrubbed_fixed (d : Dev) (x fixed : Nat) :
    (d.scrubbed x fixed 0).fld DIE_PROT_STAT.FIXED x = min (d.fld DIE_PROT_STAT.FIXED x + fixed) 65535 :=
  fld_bumpBy_same d DIE_PROT_STAT.FIXED x 0 fixed (by decide) (by decide)

theorem scrubbed_failed (d : Dev) (x : Nat) :
    (d.scrubbed x 0 1).fld DIE_PROT_STAT.FAILED x = min (d.fld DIE_PROT_STAT.FAILED x + 1) 65535 := by
  rw [scrubbed_succ, fld_raise, fld_bump_same _ _ _ _ (by decide) (by decide), scrubbed_zero, Dev.bumpBy,
    Dev.fld_setFld_beside _ DIE_PROT_STAT.FIXED DIE_PROT_STAT.FAILED _ _ _ rfl (by decide) (by decide)]
  have : d.fld DIE_PROT_STAT.FAILED x < 65536 := Nat.mod_lt _ (Nat.two_pow_pos _)
  simp only [satInc]
  split <;> omega

/-! A visit of the scrubber -/

theorem ne_protStat {l : Loc} (h : l.reg.isP = true) (x : Nat) : l ≠ ⟨.DIE_PROT_STAT, x, 0⟩ := by
  intro e
  have hr : l.reg = .DIE_PROT_STAT := congrArg Loc.reg e
  rw [hr] at h
  exact absurd h (by decide)

/-- A visit of a protected register of a die or tile, whose copies alone are upset, is the vote of its copies. -/
theorem scrubAt_upset {d : Dev} {x : Nat} {l : Loc} {b c : Word} (hv : d.variant ≠ .ez8) (hp : l.reg.isP = true) (hf : l.fits d.n = true)
    (hb : l.reg.spec.block ≠ .pkg) (hc : l.isCfg = false) (hx : l.keeper = x) (hu : d.upsets.get none l.key = some (b, c))
    (ha : d.activeUpsets.get none l.key = none) :
    d.scrubAt x l.offset =
      let v := voteFields (d.raw l) b c ((d.leadCopy.get none l.key).getD (majority (d.raw l) b c)) (l.reg.spec.fields.filter (·.prot))
      (d.put l v.1).scrubbed x v.2.1 v.2.2 := by
  have hs : ∀ (w : Word) (m k : Nat), ((d.put l w).scrubbed x m k).activeUpsets.get none l.key = none := by
    intro w m k
    rw [(scrubbed_keep _ x m k).1]
    exact ha
  simp only [Dev.scrubAt, locate_offset hf, hc, hb, hx, Dev.scrub, hv, hp, hu, hs, ne_eq, not_false_eq_true, and_self, if_true, if_false,
    decide_false, Bool.not_true, Bool.or_self, Bool.false_eq_true]

/-- What a visit leaves of the register it votes, and of the others. -/
theorem voted_keep (d : Dev) {l : Loc} (hp : l.reg.isP = true) (x : Nat) (w : Word) (fixed failed : Nat) :
    ((d.put l w).scrubbed x fixed failed).upsets.get none l.key = none ∧ ((d.put l w).scrubbed x fixed failed).at l = w ∧
      ∀ k : Loc, k ≠ l → k ≠ ⟨.DIE_PROT_STAT, x, 0⟩ → ((d.put l w).scrubbed x fixed failed).at k = d.at k := by
  obtain ⟨-, hk⟩ := scrubbed_keep (d.put l w) x fixed failed
  obtain ⟨h1, h2⟩ := hk l (ne_protStat hp x)
  exact ⟨h2.trans (upsets_put_same d l w), h1.trans (Dev.at_put_same d l w), fun k hl hne => (hk k hne).1.trans (Dev.at_put_ne d hl w)⟩

/-- The counts of DIE_PROT_STAT before a visit stay while the voted word is put in place. -/
theorem protStat_put (d : Dev) {l : Loc} (hp : l.reg.isP = true) (w : Word) (f : Fld) (hf : f.reg = .DIE_PROT_STAT) (x : Nat) :
    (d.put l w).fld f x = d.fld f x := by
  simp only [Dev.fld, Dev.reg, hf]
  rw [Dev.at_put_ne d (ne_protStat hp x).symm]

/-- SCRUB_VISIT answers the state after the scrubber's visit, and lets nothing go on. -/
theorem exec_scrubVisit {s : State} {x off : Nat} (h : s.dev.takes (.scrubVisit x off) = true) :
    exec (.scrubVisit x off) s = .next (s.withDev (s.dev.scrubAt x off)) := performAlone_next h fun d => d.scrubAt x off

/-- SEAL_PASS_END answers the state after the end of the walker's pass. -/
theorem exec_sealPassEnd {s : State} {x : Nat} (h : s.dev.takes (.sealPassEnd x) = true) :
    exec (.sealPassEnd x) s = .next (s.after (s.dev.sealPass x)) := perform_next h fun _ d => d.sealPass x

/-! The reload of a die's protected words (R78) -/

/-- One register of package configuration taken from another die's replica. -/
def Dev.reloadReg (x y : Nat) (d : Dev) (k : Nat × Nat) : Dev :=
  match cfgOfKey k.1 with
  | some r => d.putP ⟨r, x, k.2⟩ (d.reg r y k.2)
  | none => d

/-- Does a die keep a protected register of the die or tile `u`? -/
def RegId.keptBy (r : RegId) (x u : Nat) : Bool := r.isP && (if r.spec.block = .tile then u / 8 == x else u == x)

/-- One register of a die or its tiles taken from the lead's copy. -/
def Dev.reloadCopy (x : Nat) (d : Dev) (e : Key × Option Word) : Dev :=
  match e.2 with
  | none => d
  | some w =>
    match (dieRegs ++ tileRegs).find? fun r => r.ctorIdx == e.1.a with
    | some r =>
      if r.keptBy x e.1.b then
        { (d.putP ⟨r, e.1.b, e.1.c⟩ w) with leadCopy := d.leadCopy.set none e.1 none }
      else d
    | none => d

/-- The places of the registers that the replica of either of two dies lists. -/
def Dev.listedKeys (d : Dev) (x y : Nat) : List (Nat × Nat) :=
  (d.regs.filter fun e => e.1.b == x || e.1.b == y).map fun e => (e.1.a, e.1.c)

/-- A reload takes the replica's registers, the active protection rules, then the registers of the die and its tiles. -/
theorem reloadP_eq (d : Dev) (x : Nat) :
    ∃ (act : Store Word) (copies : Store (Option Word)), d.reloadP x =
      copies.foldl (Dev.reloadCopy x)
        { (d.listedKeys x (d.copyOf x)).foldl (Dev.reloadReg x (d.copyOf x)) d with active := act } := ⟨_, _, rfl⟩

/-- A configuration register that is protected is the one its key names. -/
theorem cfgOfKey_ctorIdx {r : RegId} (hm : r ∈ pkgRegs) (hp : r.isP = true) (ho : r.spec.owner = .cfg) : cfgOfKey r.ctorIdx = some r := by
  unfold cfgOfKey
  cases h : pkgRegs.find? fun q => q.ctorIdx == r.ctorIdx && q.isP && q.spec.owner == .cfg with
  | none => exact absurd (List.find?_eq_none.mp h r hm) (by simp [hp, ho])
  | some q =>
    have hq := List.find?_some h
    simp only [Bool.and_eq_true, beq_iff_eq] at hq
    obtain ⟨⟨hidx, -⟩, -⟩ := hq
    rw [RegId.ctorIdx_inj hidx]

/-- The protected bits of a register read as they did in another device, at another die's replica. -/
def Dev.TookFrom (d d₀ : Dev) (x y : Nat) (r : RegId) (k : Nat) : Prop := d.reg r x k &&& r.pMask = d₀.reg r y k &&& r.pMask

theorem reg_putP_same (d : Dev) (r : RegId) (x k : Nat) (w : Word) : (d.putP ⟨r, x, k⟩ w).reg r x k &&& r.pMask = w &&& r.pMask := by
  rw [Dev.reg, Dev.putP, Dev.at_put_same, merged_and_mask]

/-- What has been taken from a replica that reads as before stays taken when another register is. -/
theorem reloadReg_took {d d₀ : Dev} {x y : Nat} (hy : ∀ r k, d.TookFrom d₀ y y r k) (key : Nat × Nat) {u : Nat} {r : RegId} {k : Nat}
    (h : d.TookFrom d₀ u y r k) : (d.reloadReg x y key).TookFrom d₀ u y r k := by
  unfold Dev.reloadReg
  split
  · rename_i q _
    by_cases he : (⟨r, u, k⟩ : Loc) = ⟨q, x, key.2⟩
    · obtain ⟨rfl, rfl, rfl⟩ := Loc.mk.inj he
      exact (reg_putP_same d r u key.2 _).trans (hy r key.2)
    · rw [Dev.TookFrom, Dev.reg, Dev.putP, Dev.at_put_ne d he]
      exact h
  · exact h

/-- After the reload every register that was listed, or had been taken, has the protected bits of the copied replica. -/
theorem reloadRegs_took {d₀ : Dev} {x y : Nat} {r : RegId} {k : Nat} (hr : cfgOfKey r.ctorIdx = some r) (keys : List (Nat × Nat)) (d : Dev)
    (hy : ∀ r k, d.TookFrom d₀ y y r k) (h : d.TookFrom d₀ x y r k ∨ (r.ctorIdx, k) ∈ keys) :
    (keys.foldl (Dev.reloadReg x y) d).TookFrom d₀ x y r k := by
  induction keys generalizing d with
  | nil => simpa using h
  | cons key keys ih =>
    refine ih _ (fun q j => reloadReg_took hy key (hy q j)) ?_
    rcases h with h | h
    · exact .inl (reloadReg_took hy key h)
    · rcases List.mem_cons.mp h with rfl | h
      · left
        have hs : d.reloadReg x y (r.ctorIdx, k) = d.putP ⟨r, x, k⟩ (d.reg r y k) := by simp only [Dev.reloadReg, hr]
        rw [hs]
        exact (reg_putP_same d r x k _).trans (hy r k)
      · exact .inr h

/-- A place that a store does not list reads its default. -/
theorem Store.get_unlisted {V : Type} (dflt : V) {k : Key} {m : Store V} (h : ∀ e ∈ m, e.1 ≠ k) : Store.get dflt k m = dflt := by
  induction m with
  | nil => rfl
  | cons e m ih =>
    obtain ⟨k', v⟩ := e
    have hk : k' ≠ k := h (k', v) (by simp)
    simp only [Store.get, hk, if_false]
    exact ih fun e he => h e (by simp [he])

/-- A register of package configuration resets to the same word in every replica. -/
theorem resetWord_replica {r : RegId} (hm : r ∈ pkgRegs) (x y k : Nat) : (⟨r, x, k⟩ : Loc).resetWord = (⟨r, y, k⟩ : Loc).resetWord := by
  have hb : r ≠ .TIL_BOND := by
    rintro rfl
    exact absurd (pkgRegs_extent _ hm).1 (by decide)
  simp [Loc.resetWord, hb]

/-- A register that neither replica lists reads the same in both. -/
theorem took_unlisted {d : Dev} {x y : Nat} {r : RegId} {k : Nat} (hu : d.upsets = []) (hm : r ∈ pkgRegs)
    (h : (r.ctorIdx, k) ∉ d.listedKeys x y) : d.TookFrom d x y r k := by
  have hraw : ∀ z, z = x ∨ z = y → d.reg r z k = (⟨r, z, k⟩ : Loc).resetWord := by
    intro z hz
    rw [Dev.reg, at_sound (by rw [hu]; rfl), Dev.raw]
    refine Store.get_unlisted _ fun e he hk => h ?_
    refine List.mem_map.mpr ⟨e, List.mem_filter.mpr ⟨he, ?_⟩, ?_⟩
    · simpa [hk, Loc.key] using hz
    · simp [hk, Loc.key]
  rw [Dev.TookFrom, hraw x (.inl rfl), hraw y (.inr rfl), resetWord_replica hm x y]

/-- The registers of a die and its tiles, reloaded, leave those of the package as they read. -/
theorem at_reloadCopies (x : Nat) (copies : Store (Option Word)) (d : Dev) {l : Loc} (hm : l.reg ∈ pkgRegs) :
    (copies.foldl (Dev.reloadCopy x) d).at l = d.at l := by
  induction copies generalizing d with
  | nil => rfl
  | cons e copies ih =>
    rw [List.foldl_cons, ih]
    unfold Dev.reloadCopy
    split
    · rfl
    · split
      · rename_i r hr
        split
        · have hne : l ≠ ⟨r, e.1.b, e.1.c⟩ := by
            rintro rfl
            have hpkg := (pkgRegs_extent r hm).1
            rcases List.mem_append.mp (List.mem_of_find?_eq_some hr) with h | h
            · rw [(dieRegs_extent r h).1] at hpkg; cases hpkg
            · rw [(tileRegs_extent r h).1] at hpkg; cases hpkg
          exact Dev.at_put_ne d hne _
        · rfl
      · rfl

/-- A reload of a die without upset copies takes the protected words of package configuration from the copy the rules name. -/
theorem reloadP_took {d : Dev} {x : Nat} {r : RegId} (k : Nat) (hu : d.upsets = []) (hm : r ∈ pkgRegs) (hp : r.isP = true)
    (ho : r.spec.owner = .cfg) : (d.reloadP x).TookFrom d x (d.copyOf x) r k := by
  obtain ⟨act, copies, he⟩ := reloadP_eq d x
  have hregs : ((d.listedKeys x (d.copyOf x)).foldl (Dev.reloadReg x (d.copyOf x)) d).TookFrom d x (d.copyOf x) r k := by
    refine reloadRegs_took (cfgOfKey_ctorIdx hm hp ho) _ d (fun _ _ => rfl) ?_
    by_cases h : (r.ctorIdx, k) ∈ d.listedKeys x (d.copyOf x)
    · exact .inr h
    · exact .inl (took_unlisted hu hm h)
  rw [Dev.TookFrom, he, Dev.reg, at_reloadCopies x copies _ hm]
  exact hregs

/-! The end of a pass of the walker (R75, R78) -/

/-- A bit of a field of dies that is set reads 1. -/
theorem testBit_setFld_or (d : Dev) (f : Fld) (u i v x : Nat) (h : f.lo ≤ f.hi) (hh : f.hi < 32) (hx : x < f.hi + 1 - f.lo) :
    ((d.setFld f u i (v ||| 2 ^ x)).fld f u i).testBit x = true := by
  rw [Dev.fld_setFld_same _ _ _ _ _ h hh, Nat.testBit_mod_two_pow]
  simp [hx]

section
variable {d : Dev} {x : Nat} (hv : d.variant = .ez8) (hsealed : (d.fld PKG_SEAL_STAT.SEALED).testBit x = true)
  (hopen : (d.fld PKG_SEAL_STAT.OPEN).testBit x = false) (hstop : d.sealStop.contains x = false)
include hv hsealed hopen hstop

/-- A sealed die that is not open is compared, unless a FAULT has ended its comparisons. -/
theorem sealPass_compared :
    d.sealPass x =
      if d.sealOf x = d.reg .PKG_SEAL_VALUE 0 x then { d with reloaded := d.reloaded.filter fun y => y != x }
      else if d.reloaded.contains x then
        { d.setFld PKG_SEAL_STAT.FAULT 0 0 (d.fld PKG_SEAL_STAT.FAULT ||| 2 ^ x) with
          reloaded := d.reloaded.filter fun y => y != x, sealStop := d.sealStop ++ [x] }
      else
        ({ (d.reloadP x).setFld PKG_SEAL_STAT.MISMATCH 0 0 (d.fld PKG_SEAL_STAT.MISMATCH ||| 2 ^ x) with
           reloaded := (d.reloadP x).reloaded ++ [x] } : Dev).raise x evVote ⟨.PKG_SEAL_STAT, 0, 0⟩ x x := by
  have h : (decide (d.variant ≠ .ez8) || !(d.fld PKG_SEAL_STAT.SEALED).testBit x || (d.fld PKG_SEAL_STAT.OPEN).testBit x ||
      d.sealStop.contains x) = false := by
    rw [hv, hsealed, hopen, hstop]; rfl
  unfold Dev.sealPass
  simp only [h, Bool.false_eq_true, if_false]
  rfl

theorem sealPass_match (hm : d.sealOf x = d.reg .PKG_SEAL_VALUE 0 x) :
    (∀ k : Loc, (d.sealPass x).at k = d.at k) ∧ x ∉ (d.sealPass x).reloaded := by
  rw [sealPass_compared hv hsealed hopen hstop, if_pos hm]
  exact ⟨fun _ => rfl, by simp⟩

theorem sealPass_fault (hx : x < 8) (hm : d.sealOf x ≠ d.reg .PKG_SEAL_VALUE 0 x) (hr : d.reloaded.contains x = true) :
    ((d.sealPass x).fld PKG_SEAL_STAT.FAULT).testBit x = true ∧ x ∈ (d.sealPass x).sealStop ∧
      ∀ k : Loc, k ≠ ⟨.PKG_SEAL_STAT, 0, 0⟩ → (d.sealPass x).at k = d.at k := by
  rw [sealPass_compared hv hsealed hopen hstop, if_neg hm, if_pos hr]
  exact ⟨testBit_setFld_or d PKG_SEAL_STAT.FAULT 0 0 _ x (by decide) (by decide) hx, by simp,
    fun k hk => Dev.at_setFld_ne d PKG_SEAL_STAT.FAULT 0 0 _ hk⟩

theorem sealPass_reload (hx : x < 8) (hu : d.upsets = []) (hm : d.sealOf x ≠ d.reg .PKG_SEAL_VALUE 0 x)
    (hr : ¬ d.reloaded.contains x = true) :
    ((d.sealPass x).fld PKG_SEAL_STAT.MISMATCH).testBit x = true ∧ x ∈ (d.sealPass x).reloaded ∧
      ∀ (r : RegId) (k : Nat), r ∈ pkgRegs → r.isP = true → r.spec.owner = .cfg → (d.sealPass x).TookFrom d x (d.copyOf x) r k := by
  rw [sealPass_compared hv hsealed hopen hstop, if_neg hm, if_neg hr]
  refine ⟨testBit_setFld_or (d.reloadP x) PKG_SEAL_STAT.MISMATCH 0 0 _ x (by decide) (by decide) hx, ?_, fun r k hmem hp ho => ?_⟩
  · exact List.mem_append_right _ (List.mem_singleton.mpr rfl)
  · have hne : (⟨r, x, k⟩ : Loc) ≠ ⟨.PKG_SEAL_STAT, 0, 0⟩ := by
      intro h
      rw [(Loc.mk.inj h).1] at hp
      exact absurd hp (by decide)
    have hat := Dev.at_setFld_ne (d.reloadP x) PKG_SEAL_STAT.MISMATCH 0 0 (d.fld PKG_SEAL_STAT.MISMATCH ||| 2 ^ x) hne
    exact (congrArg (· &&& r.pMask) hat).trans (reloadP_took k hu hmem hp ho)

end

theorem sealPassEnd_die_lt {d : Dev} {x : Nat} (h : d.takes (.sealPassEnd x) = true) : x < 8 := by
  obtain ⟨hw, -⟩ := Bool.and_eq_true_iff.mp h
  exact of_decide_eq_true hw

/-- Settles O24, by the scrubber's vote as a fold over the protected fields and the walker's reload as a fold over the listed registers. -/
theorem protectedWords : Obligations.ProtectedWords := by
  unfold Obligations.ProtectedWords
  intro s x l _
  refine ⟨fun b c h => ?vote, fun w => ⟨Dev.at_put_same _ _ _, upsets_put_same _ _ _⟩,
    fun b c hv hp hf hb hc hx hu ha => ⟨fun hab ht => ?agree, fun w f hfs hab hac hbc hw ht => ?differ⟩,
    fun off => exec_scrubVisit, exec_sealPassEnd, fun hv hsealed hopen hstop hu ht => ⟨_, exec_sealPassEnd ht, ?pass⟩⟩
  case vote => rw [at_upset h, merged_and_mask, majority]
  case agree =>
    have hscrub := scrubAt_upset hv hp hf hb hc hx hu ha
    rw [voteFields_agree c _ fun f hmem => agree_field hab hmem, List.filter_filter] at hscrub
    refine ⟨_, exec_scrubVisit ht, ?_⟩
    rw [hscrub]
    obtain ⟨hup, hat, hrest⟩ := voted_keep s.dev hp x (s.dev.raw l) _ 0
    refine ⟨hup, ?_, ?_, hrest⟩
    · rw [hat, at_upset hu, merged_agree (majority_agree hab c)]
    · rw [scrubbed_fixed, protStat_put _ hp _ _ rfl]
      simp only [Bool.and_comm]
  case differ =>
    have hscrub := scrubAt_upset hv hp hf hb hc hx hu ha
    rw [hfs, hw, Option.getD_some, voteFields_differ w hab hac hbc] at hscrub
    refine ⟨_, exec_scrubVisit ht, ?_⟩
    rw [hscrub]
    obtain ⟨hup, hat, -⟩ := voted_keep s.dev hp x (merged (s.dev.raw l) w (maskOf f.hi f.lo)) 0 1
    exact ⟨hup, hat, by rw [scrubbed_failed, protStat_put _ hp _ _ rfl]⟩
  case pass =>
    have hx := sealPassEnd_die_lt ht
    split_ifs with hm hr
    · exact sealPass_match hv hsealed hopen hstop hm
    · exact sealPass_fault hv hsealed hopen hstop hx hm hr
    · exact sealPass_reload hv hsealed hopen hstop hx hu hm hr

end Sys2Proof.Machine

/-! ## The window of an access (R163, R164) -/

namespace Sys2Proof.Machine

/-! The lowest number of a list that satisfies a predicate -/

/-- The lowest number met so far, after one more number of the list. -/
def lowerOf (f : Nat → Bool) (b : Option Nat) (w : Nat) : Option Nat := if f w then some (b.elim w (min · w)) else b

theorem lowest_eq_foldl (f : Nat → Bool) (l : List Nat) : lowest f l = l.foldl (lowerOf f) none := by
  refine List.foldl_ext _ _ _ fun b w _ => ?_
  cases b <;> rfl

/-- The numbers that satisfy `f` are met in turn, beside the lowest met before. -/
theorem foldl_lowerOf (f : Nat → Bool) (l : List Nat) (b : Option Nat) : l.foldl (lowerOf f) b = (b.toList ++ l.filter f).min? := by
  induction l generalizing b with
  | nil => cases b <;> rfl
  | cons w l ih =>
    rw [List.foldl_cons, ih, lowerOf]
    by_cases hw : f w = true
    · rw [if_pos hw, List.filter_cons_of_pos hw]
      cases b <;> rfl
    · rw [if_neg hw, List.filter_cons_of_neg hw]

theorem lowest_eq_min? (f : Nat → Bool) (l : List Nat) : lowest f l = (l.filter f).min? := by
  rw [lowest_eq_foldl, foldl_lowerOf, Option.toList_none, List.nil_append]

/-- A listed number that satisfies `f`, with none below it that does, is the lowest. -/
theorem lowest_eq_some {f : Nat → Bool} {l : List Nat} {w : Nat} (hl : w ∈ l) (hw : f w = true) (hv : ∀ v < w, ¬ f v = true) :
    lowest f l = some w := by
  rw [lowest_eq_min?, List.min?_eq_some_iff]
  refine ⟨List.mem_filter.mpr ⟨hl, hw⟩, fun v hmem => ?_⟩
  exact Nat.le_of_not_lt fun hlt => hv v hlt (List.mem_filter.mp hmem).2

theorem lowest_eq_none {f : Nat → Bool} {l : List Nat} (h : ∀ w, ¬ f w = true) : lowest f l = none := by
  rw [lowest_eq_min?, List.min?_eq_none_iff, List.filter_eq_nil_iff]
  exact fun w _ => h w

/-! Every enabled window is a candidate -/

/-- A register that neither the store nor the upset copies list reads as after reset. -/
theorem at_unlisted {d : Dev} {l : Loc} (hr : ∀ e ∈ d.regs, e.1 ≠ l.key) (hu : ∀ e ∈ d.upsets, e.1 ≠ l.key) : d.at l = l.resetWord := by
  rw [at_sound (Store.get_unlisted none hu), Dev.raw, Store.get_unlisted _ hr]

/-- The place of a window's CTL in a die's replica. -/
def winCtlLoc (x : Nat) (inb : Bool) (w : Nat) : Loc := ⟨winReg inb .WIN_O_CTL, x, w⟩

theorem window_en (d : Dev) (x : Nat) (inb : Bool) (w : Nat) : (d.window x inb w).en = (d.at (winCtlLoc x inb w)).getLsbD 31 := rfl

/-- The reset value of EN is 0, in both directions (R167). -/
theorem resetWord_winCtl (x : Nat) (inb : Bool) (w : Nat) : (winCtlLoc x inb w).resetWord.getLsbD 31 = false := by
  have hrow : ∀ b, (winReg b .WIN_O_CTL).resetWord.getLsbD 31 = false := by decide
  have hplain : ∀ b, winReg b .WIN_O_CTL ≠ .TIL_BOND ∧ winReg b .WIN_O_CTL ≠ .DIE_Q_CFG := by decide
  simpa [Loc.resetWord, winCtlLoc, hplain inb] using hrow inb

/-- A window whose CTL is listed, or has an upset copy, is a candidate. -/
theorem mem_winCands {d : Dev} {x : Nat} {inb : Bool} {w : Nat}
    (h : (∃ e ∈ d.regs, e.1 = (winCtlLoc x inb w).key) ∨ ∃ e ∈ d.upsets, e.1 = (winCtlLoc x inb w).key) : w ∈ d.winCands x inb := by
  rcases h with ⟨e, he, hk⟩ | ⟨e, he, hk⟩
  · refine List.mem_append_left _ (List.mem_filterMap.mpr ⟨e, he, ?_⟩)
    simp [hk, Loc.key, winCtlLoc]
  · refine List.mem_append_right _ (List.mem_filterMap.mpr ⟨e, he, ?_⟩)
    simp [hk, Loc.key, winCtlLoc]

theorem mem_winCands_of_en {d : Dev} {x : Nat} {inb : Bool} {w : Nat} (h : (d.window x inb w).en = true) : w ∈ d.winCands x inb := by
  by_contra hc
  have hreset : d.at (winCtlLoc x inb w) = (winCtlLoc x inb w).resetWord :=
    at_unlisted (fun e he hk => hc (mem_winCands (.inl ⟨e, he, hk⟩))) fun e he hk => hc (mem_winCands (.inr ⟨e, he, hk⟩))
  rw [window_en, hreset, resetWord_winCtl] at h
  exact Bool.false_ne_true h

/-! The window found among the candidates -/

/-- A search of the candidates for windows of which `P` holds, all of them enabled, finds the lowest-numbered one of the die; where `P` holds
of no window, it finds none. -/
theorem search_winCands {d : Dev} {x : Nat} {inb : Bool} {f : Nat → Bool} {P : Nat → Prop} {m : Option Win}
    (hm : m = (lowest f (d.winCands x inb)).map (d.window x inb)) (hf : ∀ w, f w = true ↔ P w)
    (hen : ∀ w, P w → (d.window x inb w).en = true) :
    (∀ w, P w → (∀ v < w, ¬ P v) → m = some (d.window x inb w)) ∧ ((∀ w, ¬ P w) → m = none) := by
  subst hm
  constructor
  · intro w hw hv
    rw [lowest_eq_some (mem_winCands_of_en (hen w hw)) ((hf w).mpr hw) fun v hlt h => hv v hlt ((hf v).mp h), Option.map_some]
  · intro h
    rw [lowest_eq_none fun w hw => h w ((hf w).mp hw), Option.map_none]

/-- Settles O45: every enabled window is among the candidates, and the search finds the lowest of them that holds the access. -/
theorem windowsMatch : Obligations.WindowsMatch := by
  unfold Obligations.WindowsMatch
  intro d x p off len space out inb
  obtain ⟨outFound, outNone⟩ : _ ∧ ((∀ w, ¬ out w) → d.matchOut x off len = none) :=
    search_winCands rfl (fun w => by simp [out, and_assoc]) fun w h => h.1
  obtain ⟨inFound, inNone⟩ : _ ∧ ((∀ w, ¬ inb w) → d.matchIn p space off len = none) :=
    search_winCands rfl (fun w => by simp [inb, and_assoc]) fun w h => h.1
  exact ⟨outFound, outNone, inFound, inNone⟩

end Sys2Proof.Machine

/-! ## Every command as one run (R6, R71; log entry 1) -/

namespace Sys2Proof.Machine

/-! The end of a command -/

/-- The locks with which a command begins: a package reset starts from none, the reset of a die without those of the die (R71). -/
def Instr.startLocks (i : Instr) (s : State) : Locks :=
  match i with
  | .railUndervoltage .. | .pkgReset _ => Locks.clear
  | .failedStartReset _ => if s.dev.mayRestart then Locks.clear else s.locks
  | .dieResetDrained x _ => if s.dev.dieMayReset x then s.locks.clearDie x else s.locks
  | _ => s.locks

/-- How the state of a command ends that starts from the locks `L`: what its effect lets go on is done, or the effect stands alone. -/
inductive Ends (s : State) (L : Locks) : State → Prop
  | after (e : Dev) : Ends s L (State.after { s with locks := L } e)
  | alone (e : Dev) (h : L = s.locks) : Ends s L (s.withDev e)

/-- A command that reaches the block ends from the locks `L`; any other stops. -/
def RunsFrom (i : Instr) (s : State) (L : Locks) (o : Host.Outcome State Fault Refusal) : Prop := ∃ t, o = guarded i s t ∧ Ends s L t

theorem perform_runsFrom (i : Instr) (s : State) (f : Locks → Dev → Dev) : RunsFrom i s s.locks (perform i s f) := ⟨_, rfl, .after _⟩

theorem performAlone_runsFrom (i : Instr) (s : State) (f : Dev → Dev) : RunsFrom i s s.locks (performAlone i s f) := ⟨_, rfl, .alone _ rfl⟩

theorem performReset_runsFrom (i : Instr) (s : State) (f : Locks → Dev → Dev) : RunsFrom i s Locks.clear (performReset i s f) :=
  ⟨_, rfl, .after _⟩

/-- A command that clears locks where a reset takes place. -/
theorem perform_ite_runsFrom (i : Instr) (s : State) (b : Bool) (L : Locks) (f : Locks → Dev → Dev) :
    RunsFrom i s (if b then L else s.locks) (perform i (if b then { s with locks := L } else s) f) := by
  cases b
  · exact perform_runsFrom i s f
  · exact ⟨_, rfl, .after _⟩

theorem performDieReset_runsFrom (i : Instr) (x : Nat) (s : State) (f : Locks → Dev → Dev) :
    RunsFrom i s (if s.dev.dieMayReset x then s.locks.clearDie x else s.locks) (performDieReset i x s f) :=
  perform_ite_runsFrom _ _ _ _ _

/-- Every command is one run of its meaning from the locks with which it begins. -/
theorem exec_runsFrom (i : Instr) (s : State) : RunsFrom i s (Instr.startLocks i s) (exec i s) := by
  unfold exec Instr.startLocks
  cases i
  case railUndervoltage | pkgReset => exact performReset_runsFrom _ _ _
  case failedStartReset hw => exact perform_ite_runsFrom (.failedStartReset hw) s s.dev.mayRestart Locks.clear _
  case dieResetDrained x bad => exact performDieReset_runsFrom (.dieResetDrained x bad) x s _
  case flashCommandComplete | flashCommandTimeout | retryStartDecay | fioCalDone | skpInterval | bbLaneLock | monitorLevelSample | flrReady |
      pcieMessage | pcieVendorMessage | l0pNarrow | l0pWiden | l0pPartnerRequest | ltrIdleTimeout | perstRelease | pcieL1Entry | pcieL1Exit |
      tempSample | presenceInsert | presenceDebounce | mpPowerGood | mpDischarged | pgTimeout | dischargeTimeout | scrubVisit | extest |
      samplePreload | idcode | clamp | highz | bypass | sramCorrected => exact performAlone_runsFrom _ _ _
  all_goals exact perform_runsFrom _ _ _

theorem Ends.pending {s t : State} {L : Locks} (h : Ends s L t) : t.pending = s.pending := by cases h <;> rfl

theorem Ends.variant {s t : State} {L : Locks} (h : Ends s L t) : t.dev.variant = s.dev.variant := by cases h <;> rfl

/-- A command that answers a next state reached the block and ended there. -/
theorem ends_of_exec {i : Instr} {s t : State} (h : exec i s = .next t) : Ends s (Instr.startLocks i s) t := by
  obtain ⟨u, he, hu⟩ := exec_runsFrom i s
  rw [h] at he
  obtain ⟨-, hg⟩ | ⟨-, hg⟩ | ⟨-, -, hg⟩ := guarded_cases i s u <;> rw [hg] at he <;> cases he
  exact hu

theorem exec_takes {i : Instr} {s : State} (h : s.dev.takes i = true) : ∃ t, exec i s = .next t ∧ Ends s (Instr.startLocks i s) t := by
  obtain ⟨t, he, ht⟩ := exec_runsFrom i s
  exact ⟨t, he.trans (guarded_next h t), ht⟩

/-- Settles O56: every command is one guarded run, and no run touches the queue or the variant. -/
theorem commandsComplete : Obligations.CommandsComplete := by
  unfold Obligations.CommandsComplete
  intro i s
  obtain ⟨u, he, -⟩ := exec_runsFrom i s
  refine ⟨fun hw => ?_, fun hw hp => ?_, fun ht => ?_⟩
  · rw [he, guarded, hw]; rfl
  · rw [he, guarded, hw, hp]; rfl
  · obtain ⟨t, hn, hend⟩ := exec_takes ht
    exact ⟨t, hn, hend.pending, hend.variant⟩

/-! Steps -/

theorem tickAll_variant (d : Dev) : d.tickAll.variant = d.variant := by
  have count : ∀ (l : List Nat) (e : Dev),
      (l.foldl (fun d x => if d.rootHeld x then d else { d with usCount := d.usCount.set 0 ⟨x, 0, 0⟩ (d.us x + 1) }) e).variant = e.variant := by
    intro l
    induction l with
    | nil => exact fun _ => rfl
    | cons x l ih => intro e; rw [List.foldl_cons, ih]; split <;> rfl
  simp only [Dev.tickAll]
  split
  · rfl
  · exact count _ _

theorem takes_of_variant {d e : Dev} (h : e.variant = d.variant) (i : Instr) : e.takes i = d.takes i := by simp only [Dev.takes, Dev.n, h]

/-- Settles O58: a step keeps the variant, on which alone it depends what the waiting commands can reach. -/
theorem readyKept : Obligations.ReadyKept := by
  unfold Obligations.ReadyKept
  intro s hr
  have ready : ∀ t : State, t.pending = s.pending.tail → t.dev.variant = s.dev.variant → t.Ready := fun t hp hv i hi => by
    rw [takes_of_variant hv]
    exact hr i (List.mem_of_mem_tail (hp ▸ hi))
  cases hq : s.pending with
  | nil =>
    refine ⟨s.tick, by rw [step, hq], ready _ ?_ (tickAll_variant _), ?_, tickAll_variant _⟩ <;> simp [State.tick, hq]
  | cons i rest =>
    obtain ⟨t, he, hend⟩ := exec_takes (s := { s with pending := rest }) (hr i (by simp [hq]))
    have hp : t.pending = s.pending.tail := by rw [hend.pending, hq]; rfl
    exact ⟨t, by rw [step, hq]; exact he, ready t hp hend.variant, hq ▸ hp, hend.variant⟩

/-- Settles O59, by induction on the number of waiting commands. -/
theorem queueRunsOut : Obligations.QueueRunsOut := by
  unfold Obligations.QueueRunsOut
  have run : ∀ (k : Nat) (s : State), s.Ready → s.pending.length = k → ∃ t : State, Sys2Proof.core.run k s = .next t ∧ t.pending = [] := by
    intro k
    induction k with
    | zero => exact fun s _ hk => ⟨s, rfl, List.length_eq_zero_iff.mp hk⟩
    | succ k ih =>
      intro s hr hk
      obtain ⟨u, hs, hu, hp, -⟩ := readyKept s hr
      obtain ⟨t, ht, he⟩ := ih u hu (by rw [hp, List.length_tail, hk]; rfl)
      refine ⟨t, ?_, he⟩
      have hs' : Sys2Proof.core.step s = .next u := hs
      simpa only [Host.Core.run, hs'] using ht
  exact fun s hr => run _ s hr rfl

/-! Locks over a step (R71) -/

theorem Locks.Within.refl (L : Locks) : L.Within L := ⟨fun _ h => h, fun _ h => h, fun _ h => h⟩

theorem Locks.Within.trans {L M N : Locks} (h : L.Within M) (k : M.Within N) : L.Within N :=
  ⟨fun x a => k.1 x (h.1 x a), fun x a => k.2.1 x (h.2.1 x a), fun x a => k.2.2 x (h.2.2 x a)⟩

theorem after_cons (L : Locks) (n : Note) (ns : List Note) : L.after (n :: ns) = (L.after [n]).after ns := rfl

/-- Notices only set locks. -/
theorem within_after (ns : List Note) (L : Locks) : L.Within (L.after ns) := by
  induction ns generalizing L with
  | nil => exact .refl L
  | cons n ns ih =>
    rw [after_cons]
    refine .trans ?_ (ih _)
    cases n
    case lock copies die tile =>
      refine ⟨fun x h => ?_, fun x h => ?_, fun x h => ?_⟩
      · rw [after_lock_pkg, h, Bool.true_or]
      · rw [after_lock_die, h, Bool.true_or]
      · rw [after_lock_tile, h, Bool.true_or]
    all_goals exact .refl L

/-- The locks of tiles that are let go at the end of a command. -/
def Locks.unlocked (d : Dev) (ns : List Note) (L : Locks) : Locks :=
  ns.foldl (fun L n => match n with
    | .unlock t => if d.fld TIL_SVC_STAT.STATE t = 3 then { L with tile := L.tile.setIfInBounds t false } else L
    | _ => L) L

theorem Locks.close_eq (L : Locks) (d : Dev) : L.close d = Locks.unlocked d d.notes (L.after d.notes) := rfl

/-- The end of a command lets go of the lock of a tile in its reset, and of no other. -/
theorem unlocked_keeps (d : Dev) (ns : List Note) (L : Locks) :
    (Locks.unlocked d ns L).pkg = L.pkg ∧ (Locks.unlocked d ns L).die = L.die ∧
      ∀ p : Fin 64, L.tile[p] = true → (Locks.unlocked d ns L).tile[p] = true ∨ d.fld TIL_SVC_STAT.STATE p.val = 3 := by
  induction ns generalizing L with
  | nil => exact ⟨rfl, rfl, fun _ h => .inl h⟩
  | cons n ns ih =>
    cases n
    case unlock t =>
      rw [Locks.unlocked, List.foldl_cons, ← Locks.unlocked]
      by_cases ht : d.fld TIL_SVC_STAT.STATE t = 3
      · simp only [if_pos ht]
        obtain ⟨hp, hd, htile⟩ := ih { L with tile := L.tile.setIfInBounds t false }
        refine ⟨hp, hd, fun p h => ?_⟩
        by_cases hpt : t = p.val
        · exact .inr (hpt ▸ ht)
        · exact htile p (by simpa [hpt] using h)
      · simp only [if_neg ht]
        exact ih L
    all_goals exact ih L

/-- What a command that starts from the locks `L` keeps of them. -/
theorem Ends.locks {s t : State} {L : Locks} (h : Ends s L t) :
    (∀ x : Fin 8, L.pkg[x] = true → t.locks.pkg[x] = true) ∧ (∀ x : Fin 8, L.die[x] = true → t.locks.die[x] = true) ∧
      ∀ p : Fin 64, L.tile[p] = true → t.locks.tile[p] = true ∨ t.dev.fld TIL_SVC_STAT.STATE p.val = 3 := by
  cases h with
  | alone e h => subst h; exact ⟨fun _ h => h, fun _ h => h, fun _ h => .inl h⟩
  | after e =>
    obtain ⟨wp, wd, wt⟩ := within_after (e.settle L).notes L
    obtain ⟨up, ud, ut⟩ := unlocked_keeps (e.settle L) (e.settle L).notes (L.after (e.settle L).notes)
    have hl : (State.after { s with locks := L } e).locks = Locks.unlocked (e.settle L) (e.settle L).notes (L.after (e.settle L).notes) := rfl
    rw [hl]
    exact ⟨fun x h => by rw [up]; exact wp x h, fun x h => by rw [ud]; exact wd x h, fun p h => ut p (wt p h)⟩

theorem mem_tilesOf {x p : Nat} : p ∈ tilesOf x ↔ p / 8 = x := by
  rw [tilesOf, List.mem_range'_1]
  omega

/-- Clearing the locks of some tiles leaves the others. -/
theorem getElem_clearTiles (l : List Nat) (v : Vector Bool 64) {p : Fin 64} (h : p.val ∉ l) :
    (l.foldl (fun (v : Vector Bool 64) t => v.setIfInBounds t false) v)[p] = v[p] := by
  induction l generalizing v with
  | nil => rfl
  | cons t l ih =>
    obtain ⟨ht, hl⟩ := not_or.mp (List.mem_cons.not.mp h)
    rw [List.foldl_cons, ih _ hl]
    simp [Ne.symm ht]

/-- The reset of a die clears the locks of that die alone. -/
theorem clearDie_others (L : Locks) (x : Nat) :
    (∀ y : Fin 8, y.val ≠ x → (L.clearDie x).pkg[y] = L.pkg[y] ∧ (L.clearDie x).die[y] = L.die[y]) ∧
      ∀ p : Fin 64, p.val / 8 ≠ x → (L.clearDie x).tile[p] = L.tile[p] :=
  ⟨fun y h => ⟨by simp [Locks.clearDie, Ne.symm h], by simp [Locks.clearDie, Ne.symm h]⟩,
    fun p h => getElem_clearTiles _ _ fun hm => h (mem_tilesOf.mp hm)⟩

/-- The locks with which a command begins that is no package reset: those before it, or those without the die that it resets. -/
theorem startLocks_cases {c : Instr} (s : State)
    (h : (∀ die rail, c ≠ .railUndervoltage die rail) ∧ (∀ b, c ≠ .pkgReset b) ∧ ∀ hw, c ≠ .failedStartReset hw) :
    Instr.startLocks c s = s.locks ∨ ∃ x bad, c = .dieResetDrained x bad ∧ Instr.startLocks c s = s.locks.clearDie x := by
  obtain ⟨hrail, hpkg, hfail⟩ := h
  cases c
  case railUndervoltage die rail => exact absurd rfl (hrail die rail)
  case pkgReset b => exact absurd rfl (hpkg b)
  case failedStartReset hw => exact absurd rfl (hfail hw)
  case dieResetDrained x bad =>
    simp only [Instr.startLocks]
    split
    · exact .inr ⟨x, bad, rfl, rfl⟩
    · exact .inl rfl
  all_goals exact .inl rfl

/-- Settles O60: a command begins with the locks before it, but for those of the die that it resets, and ends with those it began with, but
for the lock of a tile in its reset. -/
theorem locksStay : Obligations.LocksStay := by
  unfold Obligations.LocksStay
  intro s t hs hc
  cases hq : s.pending with
  | nil =>
    rw [step, hq] at hs
    cases hs
    exact ⟨fun x _ => ⟨id, id⟩, fun p _ h => .inl h⟩
  | cons c rest =>
    rw [step, hq] at hs
    obtain ⟨kp, kd, kt⟩ := (ends_of_exec hs).locks
    rcases startLocks_cases { s with pending := rest } (hc c rest hq) with hL | ⟨y, bad, rfl, hL⟩ <;> rw [hL] at kp kd kt
    · exact ⟨fun x _ => ⟨kp x, kd x⟩, fun p _ => kt p⟩
    · obtain ⟨hdie, htile⟩ := clearDie_others s.locks y
      refine ⟨fun x hx => ?_, fun p hp => ?_⟩
      · have hne : x.val ≠ y := fun h => hx bad rest (by rw [h])
        exact ⟨fun h => kp x ((hdie x hne).1.trans h), fun h => kd x ((hdie x hne).2.trans h)⟩
      · have hne : p.val / 8 ≠ y := fun h => hp bad rest (by rw [h])
        exact fun h => kt p ((htile p hne).trans h)

end Sys2Proof.Machine

/-! ## What a command does, from its meaning -/

namespace Sys2Proof.Machine

theorem State.does_perform {s : State} {i : Instr} {f : Locks → Dev → Dev} {e : Dev} (hx : exec i s = perform i s f)
    (he : f s.locks s.dev = e) : s.Does i e := fun ht => by rw [hx, perform_next ht, he]

theorem State.doesSome_perform {s : State} {i : Instr} {f : Locks → Dev → Dev} {P : Dev → Prop} (hx : exec i s = perform i s f)
    (he : P (f s.locks s.dev)) : s.DoesSome i P := fun ht => ⟨_, by rw [hx, perform_next ht], he⟩

theorem State.doesOnly_performAlone {s : State} {i : Instr} {f : Dev → Dev} {e : Dev} (hx : exec i s = performAlone i s f)
    (he : f s.dev = e) : s.DoesOnly i e := fun ht => by rw [hx, performAlone_next ht, he]

theorem State.doesJust_performAlone {s : State} {i : Instr} {f : Dev → Dev} {P : Dev → Prop} (hx : exec i s = performAlone i s f)
    (he : P (f s.dev)) : s.DoesJust i P := fun ht => ⟨_, by rw [hx, performAlone_next ht], he⟩

end Sys2Proof.Machine

/-! ## Packets and acknowledgements of a link (R114 to R118) -/

namespace Sys2Proof.Machine

theorem active?_iff (d : Dev) (p : Nat) : d.active? p = true ↔ d.fld BB_LINK_STAT.STATE p = 3 := by simp [Dev.active?, Dev.lstate, lsActive]

theorem active?_of {d : Dev} {p : Nat} (h : d.fld BB_LINK_STAT.STATE p = 3) : d.active? p = true := (active?_iff d p).mpr h

theorem not_active?_of {d : Dev} {p : Nat} (h : d.fld BB_LINK_STAT.STATE p ≠ 3) : d.active? p = false := by
  rw [← Bool.not_eq_true, active?_iff]; exact h

/-- The packets that an IDL leaves in the replay store. -/
def heldFrom (rx : Nat) (l : List (Nat × Pkt)) : List (Nat × Pkt) :=
  l.filter fun e => !decide (1 ≤ (rx + 128 - e.1) % 128 ∧ (rx + 128 - e.1) % 128 ≤ 64)

theorem heldFrom_eq (rx : Nat) (l : List (Nat × Pkt)) :
    (l.filter fun e => !decide ((rx + 128 - e.1) % 128 ∈ List.range' 1 64)) = heldFrom rx l := by
  refine List.filter_congr fun e _ => congrArg (! ·) (decide_eq_decide.mpr ?_)
  rw [List.mem_range'_1]
  omega

/-- Packets sent again leave the ports as they are. -/
@[simp] theorem port_resend (l : List (Nat × Pkt)) (d : Dev) (p q : Nat) :
    (l.foldl (fun d e => (d.bump BB_LINK_ERR.REPLAYS p).emit (.pkt p e.1 e.2)) d).port q = d.port q := by
  induction l generalizing d with
  | nil => rfl
  | cons e l ih => rw [List.foldl_cons, ih, port_emit, port_bump]

/-- An IDL on an ACTIVE port on which no packet waits to be sent. -/
theorem rxIdl_active {d : Dev} {p rx : Nat} {rep : Bool} (ha : d.fld BB_LINK_STAT.STATE p = 3) (hi : (d.port p).link.waitIdl = false)
    (hw : (d.port p).link.waiting = []) (hr : rep = true → ∃ e ∈ (d.port p).link.replay, e.1 = rx) :
    d.rxIdl p rep rx =
      let e := d.modLink p fun l => { l with replay := heldFrom rx (d.port p).link.replay }
      if rep then (heldFrom rx (d.port p).link.replay).foldl (fun d e => (d.bump BB_LINK_ERR.REPLAYS p).emit (.pkt p e.1 e.2)) (e.emit (.ebp p))
      else e := by
  have hheld : (rep && !((d.port p).link.replay.any fun e => e.1 == rx)) = false := by
    cases rep
    · rfl
    · simpa using hr rfl
  simp only [Dev.rxIdl, hi, active?_of ha, hheld, Bool.not_true, Bool.false_eq_true, if_false, heldFrom_eq]
  cases rep <;> simp [hw, Dev.flushTx]

/-- Settles O10. -/
theorem linkAcknowledge : Obligations.LinkAcknowledge := by
  unfold Obligations.LinkAcknowledge
  intro s p rx seqs ha hi hw hs
  refine ⟨State.does_perform (by dsimp only [exec]; rfl) ?_, fun e he hrx => State.does_perform (by dsimp only [exec]; rfl) ?_⟩
  · rw [rxIdl_active ha hi hw (by simp), hs]
    rfl
  · have hm : e ∈ (s.dev.port p).link.replay := List.mem_of_mem_filter (hs ▸ List.mem_of_mem_head? he)
    rw [rxIdl_active ha hi hw fun _ => ⟨e, hm, hrx⟩, hs]
    rfl

/-- The fate of a packet that the port does not expect (R116, R117). -/
theorem linkAccept_discard {d : Dev} {p lseq : Nat} (h : d.fld BB_LINK_STAT.STATE p ≠ 3 ∨ (lseq % 128 ≠ (d.port p).link.rxNext ∧
    ((d.port p).link.repeatRun = true ∨ ((d.port p).link.rxNext + 128 - lseq % 128) % 128 ≤ 64))) : d.linkAccept p lseq = (false, d) := by
  simp only [Dev.linkAccept]
  by_cases ha : d.fld BB_LINK_STAT.STATE p = 3
  · obtain ⟨hne, hr⟩ := h.resolve_left (not_not_intro ha)
    rw [active?_of ha, if_neg (by decide), if_neg hne]
    by_cases hrun : (d.port p).link.repeatRun = true
    · rw [if_pos hrun]
    · rw [if_neg hrun, if_pos (hr.resolve_left hrun)]
  · rw [not_active?_of ha]
    rfl

theorem linkAccept_ahead {d : Dev} {p lseq : Nat} (ha : d.fld BB_LINK_STAT.STATE p = 3) (hne : lseq % 128 ≠ (d.port p).link.rxNext)
    (hrun : (d.port p).link.repeatRun = false) (hahead : 64 < ((d.port p).link.rxNext + 128 - lseq % 128) % 128) :
    d.linkAccept p lseq = (false, (d.modLink p fun l => { l with repeatRun := true, repeats := 1 }).sendIdl p true) := by
  simp only [Dev.linkAccept, Dev.openRepeat, active?_of ha, hne, hrun, Nat.not_le.mpr hahead, Bool.not_true, Bool.false_eq_true, if_false]

/-- A packet that is not delivered leaves what the link makes of it. -/
theorem onPacket_discard {d e : Dev} {p lseq : Nat} (h : d.linkAccept p lseq = (false, e)) (f : Dev → Dev) : d.onPacket p lseq f = e := by
  simp only [Dev.onPacket, h, Bool.false_eq_true, if_false]

/-- The commands that hand a transaction packet with a given LSEQ to a port. -/
inductive IsPacket (s : State) (p lseq : Nat) (i : Instr) : Prop
  | of (f : Locks → Dev → Dev) (h : exec i s = perform i s fun L d => d.onPacket p lseq (f L))

/-- A packet that the port does not expect is not acted on. -/
theorem IsPacket.does_discard {s : State} {p lseq : Nat} {i : Instr} {e : Dev} (hi : IsPacket s p lseq i)
    (h : s.dev.linkAccept p lseq = (false, e)) : s.Does i e := by
  obtain ⟨f, hx⟩ := hi
  exact State.does_perform hx (onPacket_discard h _)

/-- Settles O14: the link hands on no packet that it does not expect, whatever its type. -/
theorem busPacketsOutOfOrder : Obligations.BusPacketsOutOfOrder := by
  unfold Obligations.BusPacketsOutOfOrder
  intro s p lseq i hi
  have hp : IsPacket s p lseq i := by
    rcases hi with ⟨b, rfl⟩ | ⟨b, rfl⟩ | ⟨b, rfl⟩ | ⟨h, rfl⟩ | ⟨h, rfl⟩ | ⟨h, c, rfl⟩ | ⟨h, r, k, rfl⟩ | ⟨y, rfl⟩ | ⟨a, r, l, v, rfl⟩ |
      ⟨l, v, rfl⟩
    all_goals exact ⟨_, by dsimp only [exec]; rfl⟩
  exact ⟨fun h => hp.does_discard (linkAccept_discard h), fun ha hne hrun hahead => hp.does_discard (linkAccept_ahead ha hne hrun hahead)⟩

end Sys2Proof.Machine

/-! ## Counterexamples: what they are read from -/

namespace Sys2Proof.Machine

/-- A view of the device of the next state that a command answers. -/
def viewNext {A : Type} (f : Dev → A) : Host.Outcome State Fault Refusal → Option A
  | .next t => some (f t.dev)
  | _ => none

/-- A command that does `e` shows in the next state what settles from `e`. -/
theorem viewNext_of_does {A : Type} {s : State} {i : Instr} {e : Dev} (h : s.Does i e) (ht : s.dev.takes i = true) (f : Dev → A) :
    viewNext f (exec i s) = some (f (s.after e).dev) := by rw [h ht]; rfl

/-- The state that holds a device, with nothing locked and no command waiting. -/
def atDev (d : Dev) : State := ⟨[], Locks.clear, d⟩

/-- The management controller of die 0. -/
def controller0 : Src := { path := 8 }

end Sys2Proof.Machine

/-! ## A write that sets more in motion (R16, R390) -/

namespace Sys2Proof.Machine

/-- A die in its start, its root on FIO, neither crystal failed: AUTO_RESTORE would begin a restoration. -/
def restorable : Dev := (Dev.initial .ez2).setFld MC_BOOT_STAT.STEP 0 0 19

def clkCtl0 : Loc := ⟨.CLK_CTL, 0, 0⟩

/-- Refutes O18: CLK_CTL is listed among the registers whose write stores its bits and does nothing else, but a write of AUTO_RESTORE to a die
whose root is on FIO also starts the restoration of the spare PLL. -/
theorem not_registerWriteStores : ¬ Obligations.RegisterWriteStores := by
  unfold Obligations.RegisterWriteStores
  intro h
  have hdoes := h (atDev restorable) controller0 clkCtl0 0x80001000 0 (by decide +kernel) (by decide +kernel) (by decide +kernel)
    (by decide +kernel) (by decide)
  have hswap := viewNext_of_does hdoes (by decide +kernel) fun d => (d.clk 0).swap
  exact absurd hswap (by decide +kernel)

end Sys2Proof.Machine

/-! ## Register writes that are refused (R56, R69, R79) -/

namespace Sys2Proof.Machine

/-! What leaves the registers alone -/

theorem fld_of_at {d e : Dev} {f : Fld} {u i : Nat} (h : e.at ⟨f.reg, u, i⟩ = d.at ⟨f.reg, u, i⟩) : e.fld f u i = d.fld f u i :=
  congrArg (bitsOf · f.hi f.lo) h

theorem flag_of_at {d e : Dev} {f : Fld} {u i : Nat} (h : e.at ⟨f.reg, u, i⟩ = d.at ⟨f.reg, u, i⟩) : e.flag f u i = d.flag f u i :=
  congrArg (· != 0) (fld_of_at h)

@[simp] theorem at_cfgSet (d : Dev) (x o : Nat) (bits : List Nat) (l : Loc) : (d.cfgSet x o bits).at l = d.at l := rfl

@[simp] theorem at_aerHeader (d : Dev) (x : Nat) (k : AerErr) (l : Loc) : (d.aerHeader x k).at l = d.at l := (aerHeader_effect d x k).2.2.1 l

/-- AER is logged in configuration space: no register of the map changes (R230). -/
@[simp] theorem at_aer (d : Dev) (x : Nat) (k : AerErr) (adv : Bool) (l : Loc) : (d.aer x k adv).at l = d.at l := by
  unfold Dev.aer
  simp only
  repeat' split
  all_goals simp

theorem at_logPosted (d : Dev) (x : Nat) (abort : Bool) {l : Loc} (h : l.reg ≠ .PX_ERR_COUNT) : (d.logPosted x abort).at l = d.at l := by
  unfold Dev.logPosted
  split <;> rw [at_aer, at_bump_ne] <;> rintro rfl <;> exact h rfl

@[simp] theorem at_answered (d : Dev) (src : Src) (l : Loc) : (d.answered src).at l = d.at l := by
  unfold Dev.answered
  repeat' split
  all_goals rfl

/-! The record of a rejected access (R79, R80) -/

/-- The registers of the record of rejected accesses. -/
def accErrRegs : List RegId := [.DIE_ACC_ERR_INFO, .DIE_ACC_ERR_ADDR_LO, .DIE_ACC_ERR_ADDR_HI]

theorem at_setReg_ne (d : Dev) (r : RegId) (u i : Nat) (w : Word) {l : Loc} (h : l ≠ ⟨r, u, i⟩) : (d.setReg r u i w).at l = d.at l :=
  Dev.at_put_ne d h w

/-- A rejected access is recorded in its own registers alone. -/
theorem at_accErr (d : Dev) (s : Src) (write : Bool) (reason off len : Nat) {l : Loc} (h : l.reg ∉ accErrRegs) :
    (d.accErr s write reason off len).at l = d.at l := by
  simp only [accErrRegs, List.mem_cons, List.not_mem_nil, or_false, not_or] at h
  obtain ⟨hinfo, hlo, hhi⟩ := h
  have ne : ∀ {r u i}, l.reg ≠ r → l ≠ ⟨r, u, i⟩ := fun hr he => hr (congrArg Loc.reg he)
  unfold Dev.accErr
  simp only
  split
  · exact at_bump_ne d _ _ _ (ne hinfo)
  · rw [Dev.at_status_ne _ _ _ _ _ _ _ (ne hinfo)]
    repeat rw [Dev.at_setFld_ne _ _ _ _ _ (ne hinfo)]
    rw [at_setReg_ne _ _ _ _ _ (ne hhi), at_setReg_ne _ _ _ _ _ (ne hlo)]

/-- The record of an access that is rejected while no record is held. -/
theorem accErr_record {d : Dev} {s : Src} (hv : d.flag DIE_ACC_ERR_INFO.VALID (srcDie s) = false) (write : Bool) (reason off len : Nat) :
    let e := d.accErr s write reason off len
    e.flag DIE_ACC_ERR_INFO.VALID (srcDie s) = true ∧ e.fld DIE_ACC_ERR_INFO.REASON (srcDie s) = reason % 16 ∧
      e.flag DIE_ACC_ERR_INFO.WRITE (srcDie s) = write ∧ e.fld DIE_ACC_ERR_INFO.LENGTH (srcDie s) = min len 15 ∧
      e.reg .DIE_ACC_ERR_ADDR_LO (srcDie s) = BitVec.ofNat 32 off := by
  have hstatus : ∀ (e : Dev) (g : Fld) (cls x k : Nat), g.reg = .DIE_ACC_ERR_INFO → g.hi < 31 →
      (e.status DIE_ACC_ERR_INFO.VALID (srcDie s) 0 cls x k).fld g (srcDie s) = e.fld g (srcDie s) := by
    intro e g cls x k hr hg
    unfold Dev.status
    split
    · rfl
    · exact Dev.fld_setFld_beside e DIE_ACC_ERR_INFO.VALID g _ _ 1 hr (by decide) (.inr hg)
  simp only [Dev.accErr, hv, Bool.false_eq_true, if_false]
  refine ⟨Dev.flag_status _ _ _ _ _ _ _ rfl (by decide), ?reason, ?write, ?length, ?lo⟩
  case reason =>
    rw [hstatus _ _ _ _ _ rfl (by decide)]
    simp [Dev.fld_setFld_beside, Dev.fld_setFld_same]
  case write =>
    unfold Dev.flag
    rw [hstatus _ _ _ _ _ rfl (by decide)]
    cases write <;> simp [Dev.fld_setFld_beside, Dev.fld_setFld_same]
  case length =>
    rw [hstatus _ _ _ _ _ rfl (by decide), Dev.fld_setFld_same _ _ _ _ _ (by decide) (by decide)]
    exact Nat.mod_eq_of_lt (Nat.lt_succ_of_le (min_le_right len 15))
  case lo =>
    show Dev.at _ _ = _
    rw [Dev.at_status_ne _ _ _ _ _ _ _ (by simp)]
    repeat rw [Dev.at_setFld_ne _ _ _ _ _ (by simp)]
    rw [at_setReg_ne _ _ _ _ _ (by simp)]
    exact Dev.at_put_same _ _ _

/-! The answer of a write -/

/-- How a write of the answer `a` is answered by its path: a rejected one is logged on a PCI Express port. -/
def Dev.writeAnswered (d : Dev) (src : Src) (a : WAns) : Dev :=
  if src.path < 8 then (if a = .rejected then d.logPosted (srcDie src) true else d)
  else if src.path < 16 then d.emit (.mcDone (srcDie src) (a != .rejected) false [])
  else d.emit (.viewDone src.port (a == .ok) (a == .held) [])

theorem at_writeAnswered (d : Dev) (src : Src) (a : WAns) {l : Loc} (h : l.reg ≠ .PX_ERR_COUNT) : (d.writeAnswered src a).at l = d.at l := by
  unfold Dev.writeAnswered
  repeat' split
  · exact at_logPosted d _ _ h
  all_goals rfl

/-- A write that is let through is performed and answered. -/
theorem busWrite_granted {d : Dev} {L : Locks} {src : Src} {off len en v at_ : Nat} (hg : d.grants src off len 1 = true) :
    d.busWrite L src off len en v at_ =
      (d.regWrite L src off len en v at_).2.writeAnswered src (d.regWrite L src off len en v at_).1 := by
  simp only [Dev.grants, Dev.unbarred, beq_self_eq_true, Bool.and_eq_true, Bool.or_eq_true, decide_eq_true_eq, Bool.not_eq_true',
    Nat.reduceBEq, Bool.false_eq_true, false_or] at hg
  obtain ⟨⟨⟨⟨hu, hr⟩, ho⟩, ht⟩, hp⟩ := hg
  have hb : (decide (src.path < 8) && d.waitsCredit src.path true) = false := by
    rcases hu with h | h
    · simp; omega
    · simp [h]
  simp only [Dev.busWrite, hb, hr, ho, Dev.busWriteNow, ht, Bool.not_true, Bool.false_eq_true, if_false, Dev.writeAnswered]
  by_cases h16 : src.path < 16
  · have hd : (d.protCheck (d.srcReq src .ctrl off len 1)).1.denied = false := hp.resolve_left (by omega)
    obtain ⟨hv, he⟩ := protCheck_allowed hd
    simp [if_pos h16, hv, he, hd]
  · have h8 : ¬ src.path < 8 := by omega
    simp [h16, h8]

/-- A write of a form that no register takes is recorded and rejected as a whole. -/
theorem busWrite_rejected {d : Dev} {L : Locks} {src : Src} {off len en v at_ reason : Nat} (hg : d.grants src off len 1 = true)
    (hr : writeReason off len en = some reason) :
    d.busWrite L src off len en v at_ = (d.accErr src true reason off len).writeAnswered src .rejected := by
  rw [busWrite_granted hg]
  simp only [Dev.regWrite, hr]

/-! A write under a set lock (R69) -/

theorem pllField_reg (k : Nat) : (pllField k).reg = .CLK_STAT := by
  unfold pllField
  split
  · rfl
  · split <;> rfl

/-- The registers that the restoration of a PLL touches are others. -/
theorem at_restore (d : Dev) (x : Nat) {l : Loc} (h : l.reg ∉ [.DIE_SVC_STAT, .CLK_STAT]) : (d.restore x).at l = d.at l := by
  simp only [List.mem_cons, List.not_mem_nil, or_false, not_or] at h
  obtain ⟨hsvc, hstat⟩ := h
  have hpll : ∀ (e : Dev) (k : Nat), (e.startPll x k).at l = e.at l := by
    intro e k
    exact Dev.at_setFld_ne _ _ _ _ _ fun he => hstat (by rw [he, pllField_reg])
  have hbusy : ∀ (e : Dev), (e.setFld DIE_SVC_STAT.PLL_BUSY x 0 1).at l = e.at l :=
    fun e => Dev.at_setFld_ne _ _ _ _ _ fun he => hsvc (by rw [he])
  unfold Dev.restore
  simp only
  split
  · split
    · exact hbusy _
    · exact (hpll _ _).trans (hbusy _)
  · rfl

theorem at_openSeal (d : Dev) (x : Nat) {l : Loc} (h : l.reg ≠ .PKG_SEAL_STAT) : (d.openSeal x).at l = d.at l := by
  unfold Dev.openSeal
  split
  · exact Dev.at_setFld_ne _ _ _ _ _ fun he => h (by rw [he])
  · rfl

theorem at_stored_ne (d : Dev) {k l : Loc} (m v : Word) (h : l ≠ k) (hs : l.reg ≠ .PKG_SEAL_STAT) : (d.stored k m v).at l = d.at l := by
  unfold Dev.stored
  split
  · rfl
  · split
    · exact (Dev.at_put_ne _ h _).trans (at_openSeal d _ hs)
    · exact Dev.at_put_ne _ h _

theorem merged_zero (old v : Word) : merged old v 0 = old := by
  apply BitVec.eq_of_getLsbD_eq
  intro i hi
  simp only [merged, BitVec.getLsbD_and, BitVec.getLsbD_or, BitVec.getLsbD_not]
  simp [hi]

theorem at_stored_same (d : Dev) (l : Loc) (m v : Word) : (d.stored l m v).at l = merged (d.at l) v m := by
  unfold Dev.stored
  split
  · rename_i h
    rw [h, merged_zero]
  · split
    · exact Dev.at_put_same _ _ _
    · exact Dev.at_put_same _ _ _

/-- The bits outside its mask stay in a merged word. -/
theorem merged_and_outside {old v m k : Word} (h : m &&& k = 0#32) : merged old v m &&& k = old &&& k := by
  apply BitVec.eq_of_getLsbD_eq
  intro i hi
  have hb := congrArg (·.getLsbD i) h
  simp only [merged, BitVec.getLsbD_and, BitVec.getLsbD_or, BitVec.getLsbD_not, BitVec.getLsbD_zero, hi, decide_true, Bool.true_and] at hb ⊢
  cases hm : m.getLsbD i <;> cases hk : k.getLsbD i <;> simp_all

/-- Registers of plain fields whose LK bits a set lock holds, and whose write starts at most the restoration of a PLL. -/
def lockHeld : List RegId := [.CLK_CTL, .BB_TXN_CTRL]

theorem lockHeld_form : ∀ r ∈ lockHeld, r.plain = true ∧ r.outside = true ∧ r.isLk = true ∧ r.writable true &&& r.maskWhere (·.ty == .lk) = 0#32 ∧
    r ≠ .PKG_SEAL_STAT ∧ r ∉ [.DIE_SVC_STAT, .CLK_STAT] ∧ r ∉ accErrRegs := by
  decide +kernel

theorem and_ones (w : Word) : w &&& 4294967295#32 = w := BitVec.and_allOnes

theorem setMask_lockHeld (d : Dev) (src : Src) {l : Loc} (h : l.reg ∈ lockHeld) (b : Bool) : d.setMask src l b = l.reg.writable b := by
  obtain ⟨r, u, i⟩ := l
  simp only [lockHeld, List.mem_cons, List.not_mem_nil, or_false] at h
  rcases h with rfl | rfl <;> simp [Dev.setMask, Dev.presentMask, RegId.isMail, RegId.isFlash, and_ones]

theorem at_writeHook_lockHeld (d : Dev) (L : Locks) (src : Src) {l k : Loc} (h : l.reg ∈ lockHeld) (b : Bool) (old v : Word)
    (hk : k.reg ∉ [.DIE_SVC_STAT, .CLK_STAT]) :
    (d.writeHook L src l b old v).1 = false ∧ (d.writeHook L src l b old v).2.at k = d.at k := by
  obtain ⟨r, u, i⟩ := l
  simp only [lockHeld, List.mem_cons, List.not_mem_nil, or_false] at h
  rcases h with rfl | rfl
  · exact ⟨rfl, at_restore d u hk⟩
  · exact ⟨rfl, rfl⟩

/-- What a write under a set lock leaves: the LK bits as they were, and the record of the access (R69). -/
theorem busWrite_locked {d : Dev} {L : Locks} {src : Src} {l : Loc} (v at_ : Nat) (hf : l.fits d.n = true) (hr : l.reg ∈ lockHeld)
    (hg : d.lets src l = true) (hl : lockOf L l = true) :
    ∃ e : Dev, d.busWrite L src l.offset 4 15 v at_ = (e.accErr src true 5 l.offset 4).answered src ∧
      e.at l = merged (d.at l) (BitVec.ofNat 32 v) (l.reg.writable true) ∧
      ∀ k : Loc, k ≠ l → k.reg ∉ [.DIE_SVC_STAT, .CLK_STAT, .PKG_SEAL_STAT] → e.at k = d.at k := by
  obtain ⟨hp, ho, hlk, -, hseal, hpll, -⟩ := lockHeld_form l.reg hr
  have hhook := fun k hk => at_writeHook_lockHeld ((d.served src l.offset).stored l (l.reg.writable true) (BitVec.ofNat 32 v)) L src (k := k) hr true
    (d.at l) (BitVec.ofNat 32 v) hk
  have hne : l.reg ≠ .PKG_LOCK := by rintro h; rw [h] at hr; exact absurd hr (by decide)
  have hhit : d.lockHit L l (BitVec.ofNat 32 v) = true := by simp [Dev.lockHit, hlk, hl, hne]
  refine ⟨(((d.served src l.offset).stored l (l.reg.writable true) (BitVec.ofNat 32 v)).writeHook L src l true (d.at l) (BitVec.ofNat 32 v)).2,
    ?_, ?_, fun k hk hks => ?_⟩
  · rw [busWrite_word hg (offset_word l) (locate_offset hf) (isCfg_outside ho),
      writeCourse_plain (d := d.served src l.offset) (locate_offset hf) (isCfg_outside ho) hp]
    simp only [served_lockHit, hhit, hl, setMask_lockHeld _ _ hr, served_at, (hhook l hpll).1, cond_true, cond_false]
  · rw [(hhook l hpll).2, at_stored_same, served_at]
  · simp only [List.mem_cons, List.not_mem_nil, or_false, not_or] at hks
    obtain ⟨hsvc, hstat, hs⟩ := hks
    rw [(hhook k (by simp [hsvc, hstat])).2, at_stored_ne _ _ _ hk hs, served_at]

/-- Settles O19. -/
theorem registerWriteRefused : Obligations.RegisterWriteRefused := by
  unfold Obligations.RegisterWriteRefused
  intro s src l hf hv
  refine ⟨fun v at_ hr hg hl => State.doesSome_perform (by dsimp only [exec]; rfl) ?locked,
    fun len en v at_ reason hg hform => State.doesSome_perform (by dsimp only [exec]; rfl) ?malformed⟩
  case locked =>
    obtain ⟨-, -, -, hmask, -, -, hacc⟩ := lockHeld_form l.reg hr
    obtain ⟨e, he, hat, hother⟩ := busWrite_locked v at_ hf hr hg hl
    rw [he]
    have hinfo : e.flag DIE_ACC_ERR_INFO.VALID (srcDie src) = false :=
      (flag_of_at (hother _ (fun h => hacc (by rw [← h]; simp [accErrRegs])) (by simp))).trans hv
    obtain ⟨hvalid, hreason, -, -, haddr⟩ := accErr_record hinfo true 5 l.offset 4
    refine ⟨?_, (flag_of_at (at_answered _ _ _)).trans hvalid, (fld_of_at (at_answered _ _ _)).trans hreason, (at_answered _ _ _).trans haddr⟩
    rw [at_answered, at_accErr _ _ _ _ _ _ hacc, hat, merged_and_outside hmask]
  case malformed =>
    have h4 := offset_word l
    have hreason : writeReason l.offset len en = some reason ∧ reason < 16 ∧ len ≤ 15 := by
      rcases hform with ⟨rfl, rfl⟩ | ⟨rfl, h8, rfl⟩ | ⟨rfl, rfl⟩ | ⟨rfl, rfl, rfl⟩
      · simp [writeReason]
      · simp [writeReason, h8]
      · have h8 : ¬ 8 < l.offset % 8 + 2 := by omega
        simp [writeReason, h8]
      · have h8 : ¬ 8 < l.offset % 8 + 4 := by omega
        simp [writeReason, h8, h4]
    obtain ⟨hr, h16, h15⟩ := hreason
    rw [busWrite_rejected hg hr]
    obtain ⟨-, hres, hwr, hlen, -⟩ := accErr_record hv true reason l.offset len
    have hat : ∀ k : Loc, k.reg ≠ .PX_ERR_COUNT → _ := fun k hk => at_writeAnswered (s.dev.accErr src true reason l.offset len) src .rejected hk
    refine ⟨?_, (flag_of_at (hat _ (by simp))).trans hwr, ?_, fun k hk => ?_⟩
    · rw [fld_of_at (hat _ (by simp)), hres, Nat.mod_eq_of_lt h16]
    · rw [fld_of_at (hat _ (by simp)), hlen, Nat.min_eq_left h15]
    · simp only [List.mem_cons, List.not_mem_nil, or_false, not_or] at hk
      obtain ⟨hi, hlo, hhi, hpx⟩ := hk
      rw [hat k hpx, at_accErr _ _ _ _ _ _ (by simp [accErrRegs, hi, hlo, hhi])]

end Sys2Proof.Machine

/-! ## Steps, the reset state, devices at rest (log entries 1, 2, 3, 7) -/

namespace Sys2Proof.Machine

/-- A microsecond on an idle device changes the counts of microseconds and the branches that have run, nothing else (log entry 2). -/
theorem tickAll_keep (d : Dev) : ∃ us r, d.tickAll = { d with usCount := us, ran := r } := by
  have count : ∀ (l : List Nat) (e : Dev), ∃ us,
      l.foldl (fun d x => if d.rootHeld x then d else { d with usCount := d.usCount.set 0 ⟨x, 0, 0⟩ (d.us x + 1) }) e =
        { e with usCount := us } := by
    intro l
    induction l with
    | nil => exact fun e => ⟨e.usCount, rfl⟩
    | cons x l ih =>
      intro e
      rw [List.foldl_cons]
      split
      · exact ih e
      · obtain ⟨us, h⟩ := ih { e with usCount := e.usCount.set 0 ⟨x, 0, 0⟩ (e.us x + 1) }
        exact ⟨us, h⟩
  simp only [Dev.tickAll]
  split
  · exact ⟨d.usCount, _, rfl⟩
  · obtain ⟨us, h⟩ := count _ _
    exact ⟨us, _, h⟩

/-- Settles O54. -/
theorem stepRunsFront : Obligations.StepRunsFront := by
  unfold Obligations.StepRunsFront
  refine ⟨fun c s => rfl, fun s hq => ?_, fun nbits w s => ⟨rfl, rfl⟩⟩
  obtain ⟨us, r, h⟩ := tickAll_keep s.dev
  refine ⟨s.tick, by rw [step, hq], hq, rfl, ?_, fun l => ?_⟩
  · show s.dev.tickAll.out = _
    rw [h]
  · show s.dev.tickAll.at l = _
    rw [h]
    rfl

/-- A register of a device that has just been reset reads its reset value. -/
theorem at_initial (v : Variant) (l : Loc) : (Dev.initial v).at l = l.resetWord := rfl

/-- Settles O55. -/
theorem resetState : Obligations.ResetState := by
  unfold Obligations.ResetState
  have hfld : ∀ (f : Fld) (u : Nat), f.reg ≠ .TIL_BOND → f.reg ≠ .DIE_Q_CFG →
      State.reset.dev.fld f u = bitsOf f.reg.resetWord f.hi f.lo := by
    intro f u hb hq
    show bitsOf (Loc.resetWord ⟨f.reg, u, 0⟩) f.hi f.lo = _
    simp [Loc.resetWord, hb, hq]
  refine ⟨rfl, rfl, by decide +kernel, fun i hi => absurd hi List.not_mem_nil, fun p => ⟨?_, rfl⟩, fun n => ⟨rfl, rfl, rfl⟩, fun x => ⟨?_, ?_⟩, rfl⟩
  · rw [hfld _ _ (by decide) (by decide)]; decide
  · rw [hfld _ _ (by decide) (by decide)]; decide
  · rw [hfld _ _ (by decide) (by decide)]; decide

/-- Settles O57. -/
theorem restKeepsEffect : Obligations.RestKeepsEffect := by
  unfold Obligations.RestKeepsEffect
  intro s e hrest
  rw [State.after, settle_rests hrest]

end Sys2Proof.Machine

/-! ## Resets of a PCI Express port (R105, R450) -/

namespace Sys2Proof.Machine

@[simp] theorem px_pxEvent (d : Dev) (f : Fld) (x y : Nat) : (d.pxEvent f x).px y = d.px y := px_status ..

theorem at_pxEvent_ne (d : Dev) (f : Fld) (x : Nat) {l : Loc} (h : l ≠ ⟨f.reg, x, 0⟩) : (d.pxEvent f x).at l = d.at l :=
  Dev.at_status_ne _ _ _ _ _ _ _ h

theorem cfgStored_congr {d e : Dev} (hc : e.cfgSpace = d.cfgSpace) (hv : e.variant = d.variant) (x o : Nat) : e.cfgStored x o = d.cfgStored x o := by
  simp only [Dev.cfgStored, hc, hv]

@[simp] theorem cfgStored_pxEvent (d : Dev) (f : Fld) (x y o : Nat) : (d.pxEvent f x).cfgStored y o = d.cfgStored y o :=
  cfgStored_congr (Dev.status_cfgSpace ..) (Dev.status_variant ..) y o

@[simp] theorem px_cfgClear (d : Dev) (x y : Nat) : (d.cfgClear x).px y = d.px y := rfl

/-- The reset of a function that has issued no request logs no error. -/
theorem pxReset_quiet {d : Dev} {x : Nat} (h : (d.px x).issued = []) :
    ((d.pxReset x).px x).aerFirst = (d.px x).aerFirst ∧ ((d.pxReset x).px x).aerLog = (d.px x).aerLog := by
  obtain ⟨ps, hp⟩ := failAtomics_ports d fun a => a.die == x
  have hi : (({ d with ports := ps } : Dev).px x).issued = [] := h
  have hpx : (d.pxReset x).px x = { d.px x with owed := [], issued := [], waitTag := [], heldReq := (d.px x).waitTag ++ (d.px x).heldReq } := by
    simp only [Dev.pxReset, hp, hi, List.foldl_nil, px_cfgClear, px_modPx_same]
    rfl
  rw [hpx]
  exact ⟨rfl, rfl⟩

/-- The link of a port that goes down (R450). -/
theorem pxDown_effect (d : Dev) (x : Nat) :
    ((d.pxDown x).px x = { d.px x with inL1 := false, inP := [], inNp := [] }) ∧ (∀ y, y ≠ x → (d.pxDown x).px y = d.px y) ∧
      (d.pxDown x).cfgStored x 4 = d.cfgStored x 4 ∧ (d.pxDown x).reg .PX_LINK_STAT x = 0 ∧
      (d.flag PX_LINK_STAT.UP x = true → (d.pxDown x).flag PX_EVENT.LINK_DOWN x = true) ∧
      ∀ l : Loc, l ≠ ⟨.PX_EVENT, x, 0⟩ → l ≠ ⟨.PX_LINK_STAT, x, 0⟩ → (d.pxDown x).at l = d.at l := by
  unfold Dev.pxDown
  simp only
  split
  · refine ⟨by simp, fun y hy => by simp [px_modPx_ne _ hy], by rw [cfgStored_pxEvent]; rfl, ?_, fun _ => ?_, fun l he hl => ?_⟩
    · exact (at_pxEvent_ne _ _ _ (by simp)).trans ((at_modPx ..).trans (Dev.at_put_same d _ 0))
    · exact Dev.flag_status _ _ _ _ _ _ _ rfl (by decide)
    · exact (at_pxEvent_ne _ _ _ he).trans ((at_modPx ..).trans (at_setReg_ne d _ _ _ 0 hl))
  · rename_i hup
    exact ⟨by simp, fun y hy => by simp [px_modPx_ne _ hy], rfl, (at_modPx ..).trans (Dev.at_put_same d _ 0), fun h => absurd h hup,
      fun l _ hl => (at_modPx ..).trans (at_setReg_ne d _ _ _ 0 hl)⟩

/-- A reset that takes the link with it (R105, R450). -/
theorem portReset_effect (d : Dev) (x : Nat) :
    ∃ f g, (d.portReset x).px x = logAt f g { d.px x with owed := [], issued := [], waitTag := [], heldReq := (d.px x).waitTag ++ (d.px x).heldReq,
                                                            inL1 := false, inP := [], inNp := [] } ∧
      (∀ y, y ≠ x → (d.portReset x).px y = d.px y) ∧ (d.portReset x).cfgRead x 4 = 0x00100000#32 ∧ (d.portReset x).reg .PX_LINK_STAT x = 0 ∧
      (d.flag PX_LINK_STAT.UP x = true → (d.portReset x).flag PX_EVENT.LINK_DOWN x = true) ∧
      ∀ l : Loc, l ≠ ⟨.PX_EVENT, x, 0⟩ → l ≠ ⟨.PX_LINK_STAT, x, 0⟩ → (d.portReset x).at l = d.at l := by
  obtain ⟨⟨f, g, hx⟩, hy, hat, hcfg⟩ := pxReset_effect d x
  obtain ⟨dx, dy, dcfg, dstat, dup, dat⟩ := pxDown_effect (d.pxReset x) x
  refine ⟨f, g, ?_, fun y h => (dy y h).trans (hy y h), ?_, dstat, fun h => dup ((flag_of_at (hat _)).trans h),
    fun l he hl => (dat l he hl).trans (hat l)⟩
  · rw [Dev.portReset, dx, hx]
    rfl
  · rw [Dev.portReset, cfgRead_command, dcfg, ← cfgRead_command, hcfg]

/-- Settles O4. -/
theorem pcieResets : Obligations.PcieResets := by
  unfold Obligations.PcieResets
  refine ⟨fun s x => ⟨State.doesSome_perform (by dsimp only [exec]; rfl) ?flr, fun h => State.doesOnly_performAlone (by dsimp only [exec]; rfl) ?on,
    fun h => State.doesOnly_performAlone (by dsimp only [exec]; rfl) ?off⟩, fun s x i hi => ?resets⟩
  case flr =>
    obtain ⟨⟨f, g, hx⟩, hy, hat, hcfg⟩ := pxReset_effect s.dev x
    rw [cfgRead_command] at hcfg
    refine ⟨?_, fun h => ?_, (cfgRead_command _ _).trans hcfg, hat, fun y h => (px_modPx_ne _ h _).trans (hy y h)⟩
    · simp [Dev.flr, hx, logAt]
    · simpa [Dev.flr] using pxReset_quiet h
  case on => simp [Dev.flrEnd, h]
  case off => simp [Dev.flrEnd, h]
  case resets =>
    simp only [List.mem_cons, List.not_mem_nil, or_false] at hi
    rcases hi with rfl | rfl | rfl
    · refine State.doesSome_perform (by dsimp only [exec]; rfl) ?_
      obtain ⟨f, g, hx, hy, hcfg, hstat, hup, hat⟩ := portReset_effect (s.dev.modPx x fun p => { p with perst := true }) x
      refine ⟨?_, ?_, ?_, ?_, ?_, ?_, ?_, hcfg, hstat, hup, hat, fun y h => (hy y h).trans (px_modPx_ne _ h _)⟩ <;> simp [hx, logAt]
    all_goals
      refine State.doesSome_perform (by dsimp only [exec]; rfl) ?_
      obtain ⟨f, g, hx, hy, hcfg, hstat, hup, hat⟩ := portReset_effect s.dev x
      refine ⟨?_, ?_, ?_, ?_, ?_, ?_, ?_, hcfg, hstat, hup, hat, hy⟩ <;> simp [hx, logAt]

end Sys2Proof.Machine

/-! ## Link states of a PCI Express port (R81, R103, R105, R450) -/

namespace Sys2Proof.Machine

theorem timed_runs {d : Dev} {x : Nat} (h : d.Runs x) (f : Dev → Dev) : d.timed x f = f d := by
  obtain ⟨hroot, hsleep⟩ := h
  simp [Dev.timed, hroot, hsleep]

/-- A timer whose event does nothing does nothing while its die's count stands either. -/
theorem timed_id {d : Dev} {f : Dev → Dev} (x : Nat) (h : f d = d) : d.timed x f = d := by
  simp only [Dev.timed, h, ite_self]

theorem phyReady_of {d : Dev} {x : Nat} (hdone : d.flag MC_BOOT_STAT.DONE x = true) (hp : (d.px x).perst = false) : d.phyReady x = true := by
  simp [Dev.phyReady, hdone, hp]

/-- The link of a started port comes up at full rate and width. -/
theorem pxUp_full (d : Dev) (x : Nat) (flit : Bool) :
    d.pxUp x 6 8 flit = (d.setReg .PX_LINK_STAT x 0 (if flit then 0xD0006880#32 else 0x90006880#32)).releaseHeld x := by
  cases flit <;> rfl

theorem pxUp_slow (d : Dev) (x width : Nat) {rate : Nat} (flit : Bool) (h : rate < 6) :
    d.pxUp x rate width flit =
      ((d.setReg .PX_LINK_STAT x 0 (linkStatWord flit rate width)).pxEvent PX_EVENT.SPEED_DROP x).releaseHeld x := by
  simp [Dev.pxUp, h]

theorem linkUp_ready {d : Dev} {x : Nat} (h : d.phyReady x = true) (rate width : Nat) (flit : Bool) :
    d.linkUp x rate width flit = ((d.modPx x fun p => { p with inL1 := false }).pxUp x rate width flit).portResume x := by
  rw [Dev.linkUp, if_pos h]

theorem l0pOn_off {d : Dev} {x : Nat} (h : d.fld PX_LINK_STAT.STATE x ≠ 2) : d.l0pOn x = false := by simp [Dev.l0pOn, h]

theorem l0pOn_on {d : Dev} {x : Nat} (hc : (d.cfgRead x 0x288).getLsbD 3 = true) (h : d.fld PX_LINK_STAT.STATE x = 2) : d.l0pOn x = true := by
  simp [Dev.l0pOn, hc, h]

/-- The DWORD that holds LTR Mechanism Enable reads as it is stored. -/
theorem cfgRead_ltr (d : Dev) (x : Nat) : d.cfgRead x 0x98 = d.cfgStored x 0x98 := rfl

/-- A port that is not idle does not report No Requirement again. -/
theorem ltrQuiet_busy {d : Dev} {x : Nat}
    (h : (d.px x).ltrIdle = true ∨ (d.px x).issued ≠ [] ∨ (d.px x).waitTag ≠ [] ∨ (d.px x).heldReq ≠ []) : d.ltrQuiet x = d := by
  have hb : ((d.px x).ltrIdle || !(d.px x).issued.isEmpty || !(d.px x).waitTag.isEmpty || !(d.px x).heldReq.isEmpty) = true := by
    simpa [or_assoc] using h
  simp only [Dev.ltrQuiet, hb, if_true]

theorem ltrQuiet_idle {d : Dev} {x : Nat} (hl : (d.px x).ltrIdle = false) (hi : (d.px x).issued = []) (hw : (d.px x).waitTag = [])
    (hh : (d.px x).heldReq = []) (hc : (d.cfgRead x 0x98).getLsbD 10 = true) (hu : d.flag PX_LINK_STAT.UP x = true) :
    d.ltrQuiet x = (d.modPx x fun p => { p with ltrIdle := true }).emit (.ltr x none) := by
  have hen : (d.modPx x fun p => { p with ltrIdle := true }).ltrEnable x = true := by
    rw [cfgRead_ltr] at hc
    rw [Dev.ltrEnable, cfgRead_ltr]
    exact hc
  simp [Dev.ltrQuiet, hl, hi, hw, hh, hen, hu]

/-- Settles O5. -/
theorem pcieLinkStates : Obligations.PcieLinkStates := by
  unfold Obligations.PcieLinkStates
  refine ⟨fun s x rate width => ⟨fun flit hdone hp hr hw => State.does_perform (by dsimp only [exec]; rfl) ?full,
      fun flit hdone hp hr => State.does_perform (by dsimp only [exec]; rfl) ?slow,
      fun hup hr hw hflit => State.does_perform (by dsimp only [exec]; rfl) ?retrain,
      fun st hup => State.doesOnly_performAlone (by dsimp only [exec]; rfl) (if_pos hup),
      fun hl => State.doesOnly_performAlone (by dsimp only [exec]; rfl) (if_pos hl),
      State.doesOnly_performAlone (by dsimp only [exec]; rfl) rfl⟩,
    fun s x => ⟨fun hc hst => ?l0p,
      fun hrun hl hi hw hh hc hu => State.doesOnly_performAlone (by dsimp only [exec]; rfl) ?quiet,
      fun h => State.doesOnly_performAlone (by dsimp only [exec]; rfl) (timed_id x (ltrQuiet_busy h)),
      fun hup st rate width => ⟨State.doesOnly_performAlone (by dsimp only [exec]; rfl) (if_neg (Bool.eq_false_iff.mp hup)),
        State.does_perform (by dsimp only [exec]; rfl) (if_neg (Bool.eq_false_iff.mp hup))⟩,
      fun hl => State.doesOnly_performAlone (by dsimp only [exec]; rfl) (if_neg (Bool.eq_false_iff.mp hl)),
      fun hp rate width flit => State.does_perform (by dsimp only [exec]; rfl) ?perst, fun hst w => ?off⟩⟩
  case full =>
    subst hr hw
    beta_reduce
    rw [linkUp_ready (phyReady_of hdone hp), pxUp_full]
  case slow =>
    rw [linkUp_ready (phyReady_of hdone hp), pxUp_slow _ _ _ _ hr]
  case retrain =>
    subst hr hw
    beta_reduce
    rw [Dev.linkRetrain, if_pos hup, hflit, pxUp_full]
    rfl
  case l0p =>
    have hon := l0pOn_on hc hst
    refine ⟨fun ha hpct hw => State.doesOnly_performAlone (by dsimp only [exec]; rfl) ?_,
      fun ha hw => State.doesOnly_performAlone (by dsimp only [exec]; rfl) ?_,
      fun w hw => State.doesOnly_performAlone (by dsimp only [exec]; rfl) ?_⟩
    · simp [Dev.l0pLess, hon, ha, hpct, hw, Dev.setActive]
    · simp [Dev.l0pMore, hon, ha, hw, Dev.setActive]
    · simp [Dev.l0pAsked, hon, hw, Dev.setActive]
  case quiet =>
    rw [timed_runs hrun, ltrQuiet_idle hl hi hw hh hc hu]
  case perst =>
    have hn : s.dev.phyReady x = false := by simp [Dev.phyReady, hp]
    exact if_neg (Bool.eq_false_iff.mp hn)
  case off =>
    have hoff := l0pOn_off hst
    refine ⟨State.doesOnly_performAlone (by dsimp only [exec]; rfl) ?_, State.doesOnly_performAlone (by dsimp only [exec]; rfl) ?_,
      State.doesOnly_performAlone (by dsimp only [exec]; rfl) ?_⟩
    · simp [Dev.l0pLess, hoff]
    · simp [Dev.l0pMore, hoff]
    · simp [Dev.l0pAsked, hoff]

end Sys2Proof.Machine

/-! ## Configuration commands that a lead takes (R32) -/

namespace Sys2Proof.Machine

theorem sem_limit {s : State} {src : Src} {n : Nat} {c : Instr} (hc : c = .semTake src n ∨ c = .semGive src n ∨ c = .semForce src n)
    (ht : s.dev.takes c = true) : n < 64 := by
  rcases hc with rfl | rfl | rfl <;> simp_all [Dev.takes, Instr.wf]

/-- A command written to the first word of a semaphore's software interface is acted on and answered. -/
theorem swCmd_semSw {d : Dev} {L : Locks} {src : Src} {n : Nat} {f : Word → Word} (hn : n < 64) (hg : d.lets src ⟨.SEM_SW, 0, n⟩ = true) :
    d.swCmd L src ⟨.SEM_SW, 0, n⟩ f =
      ((d.written src ⟨.SEM_SW, 0, n⟩).semSw n src.path ((f 0).getLsbD 0) ((f 0).getLsbD 1)).answered src := by
  have hf : Loc.fits ⟨.SEM_SW, 0, n⟩ d.n = true := by
    simp only [Loc.fits, Bool.and_eq_true, decide_eq_true_eq]
    exact ⟨⟨hn, rfl⟩, rfl⟩
  rw [swCmd_trigger hf (show RegId.SEM_SW.trigger = true by decide) hg]
  rfl

theorem writeAnswered_ok (d : Dev) (src : Src) : d.writeAnswered src .ok = d.answered src := rfl

/-- The lead takes the course of a write of package configuration; what a path has kept of a pair of registers may end (R57). -/
theorem writeCourse_cfg {d : Dev} {L : Locks} {src : Src} {off : Nat} {l : Loc} (v : Word) (at_ : Nat) (hl : locate d.n off = some l)
    (hc : l.isCfg = true) (hm : l.reg ≠ .MOV_CTL) (hb : d.leadBusy = false) (hk : l.reg.isLk = false ∨ lockOf L l = false) :
    ∃ sh, d.writeCourse L src off v at_ = (none, ({ d with shadows := sh } : Dev).leadTakes (d.cfgWord L off v src.path) at_) := by
  have hc' : (l.seenBy src).isCfg = true := by
    unfold Loc.seenBy
    split
    · exact hc
    · split <;> exact hc
  have hm' : ((l.seenBy src).reg == .MOV_CTL) = false := by
    unfold Loc.seenBy
    split
    · simpa using hm
    · split <;> simpa using hm
  have hh : d.lockHit L l v = false := by rcases hk with hk | hk <;> simp [Dev.lockHit, hk]
  have hcw : ∀ sh, ({ d with shadows := sh } : Dev).cfgWrite L off v src.path at_ =
      ({ d with shadows := sh } : Dev).leadTakes (d.cfgWord L off v src.path) at_ := fun sh => if_neg (Bool.eq_false_iff.mp hb)
  simp only [Dev.writeCourse, hl, hc', hm', hh, if_true, Bool.false_and, Bool.false_eq_true, if_false, cond_false]
  split
  · exact ⟨_, Prod.ext (ite_self none) (hcw _)⟩
  · exact ⟨d.shadows, Prod.ext (ite_self none) (hcw _)⟩

/-- A write of one word of package configuration that is let through goes to the lead, and is answered. -/
theorem busWrite_cfg {d : Dev} {L : Locks} {src : Src} {off v at_ : Nat} {l : Loc} (hg : d.grants src off 4 1 = true) (h4 : off % 4 = 0)
    (hl : locate d.n off = some l) (hc : l.isCfg = true) (hm : l.reg ≠ .MOV_CTL) (hb : d.leadBusy = false) (hk : l.reg.isLk = false ∨ lockOf L l = false)
    (hp : src.path < 16) :
    ∃ sh held, d.busWrite L src off 4 15 v at_ = ({ ({ d.served src off with shadows := sh } : Dev).leadTakes
      (d.cfgWord L off (BitVec.ofNat 32 v) src.path) at_ with heldCfg := held } : Dev).answered src := by
  have hl' : locate (d.served src off).n off = some l := hl
  obtain ⟨sh, hw⟩ := writeCourse_cfg (src := src) (BitVec.ofNat 32 v) at_ hl' hc hm hb hk
  have h16 : decide (16 ≤ src.path) = false := by simpa using hp
  have hi : indexed [off] = [(0, off)] := rfl
  have hnote : ∀ (e : Dev) (k : Nat), ∃ held, e.noteHeld k 4 false = { e with heldCfg := held } := fun e k => by
    unfold Dev.noteHeld
    split
    · exact ⟨e.heldCfg, rfl⟩
    · exact ⟨_, rfl⟩
  obtain ⟨held, hn⟩ := hnote (({ d.served src off with shadows := sh } : Dev).leadTakes
    (d.cfgWord L off (BitVec.ofNat 32 v) src.path) at_) d.heldCfg.length
  refine ⟨sh, held, ?_⟩
  rw [busWrite_granted hg]
  simp only [Dev.regWrite, writeReason_word h4, wordsAt_word h4, List.any_cons, List.any_nil, hl, Option.any_some, hc, hi, h16, Bool.false_and,
    List.foldl_cons, List.foldl_nil, Bool.or_false, Bool.false_eq_true, if_false, if_true, Nat.mul_zero, Nat.pow_zero, Nat.div_one, hw,
    Option.isSome_none]
  rw [writeAnswered_ok]
  exact congrArg (Dev.answered · src) hn

/-- A command given in package configuration is taken by the lead. -/
theorem swCmd_cfg {d : Dev} {L : Locks} {src : Src} {l : Loc} {f : Word → Word} {at_ : Nat} (hf : l.fits d.n = true)
    (hg : d.lets src l = true) (hc : l.isCfg = true) (hm : l.reg ≠ .MOV_CTL) (hb : d.leadBusy = false) (hk : l.reg.isLk = false ∨ lockOf L l = false)
    (hp : src.path < 16) :
    ∃ sh held, d.swCmd L src l f at_ = ({ ({ d.written src l with shadows := sh } : Dev).leadTakes (d.cfgWord L l.offset
      (f (d.at (l.seenBy src) &&& l.reg.maskWhere fun f => f.ty == .rw || f.ty == .lk)) src.path) at_ with heldCfg := held } : Dev).answered
      src := by
  have h := busWrite_cfg (v := (f (d.at (l.seenBy src) &&& l.reg.maskWhere fun f => f.ty == .rw || f.ty == .lk)).toNat) (at_ := at_)
    hg (offset_word l) (locate_offset hf) hc hm hb hk hp
  rwa [BitVec.ofNat_toNat, BitVec.setWidth_eq] at h

/-- The write as the lead takes it, but for queue 63. -/
theorem cfgWord_of {d : Dev} {off : Nat} {l : Loc} (L : Locks) (v : Word) (path : Nat) (hl : locate d.n off = some l) (hq : l.reg ≠ .DIE_Q_CFG) :
    (d.cfgWord L off v path).off = off ∧ (d.cfgWord L off v path).v = v ∧ (d.cfgWord L off v path).path = path := by
  simp [Dev.cfgWord, hl, hq]

/-- The only write of the lead's order, applied on a die that has applied none. -/
theorem applyTo_only {d : Dev} {w : CfgWrite} {x : Nat} (hl : d.cfgLog = [w]) (hx : d.appliedAt x = 0) :
    d.applyTo x 1 = ({ d with applied := d.applied.set 0 ⟨x, 0, 0⟩ 1 } : Dev).cfgPlace x w := by
  simp [Dev.applyTo, Dev.applyNext, hl, hx]

end Sys2Proof.Machine

/-! ## Semaphores (R210, R214, R215) -/

namespace Sys2Proof.Machine

theorem modSem_congr {d : Dev} {n : Nat} {f g : Sem → Sem} (h : f (d.sem n) = g (d.sem n)) : d.modSem n f = d.modSem n g := by
  rw [Dev.modSem, Dev.modSem, h]

theorem semNext_idle {d : Dev} {n : Nat} (h : (d.sem n).waiting = []) : d.semNext n = d := by
  simp [Dev.semNext, h]

/-- A free semaphore that no port has reserved is granted to software. -/
theorem semSw_take {d : Dev} {n path : Nat} (hp : path < 16) (h : d.sem n = {}) (hs : d.swHolds path = false) :
    d.semSw n path true false = (d.modSem n fun m => { m with holder := some (.software path) }).bump SEM_CNT.GRANTS 0 n := by
  have : ¬ 16 ≤ path := by omega
  simp only [Dev.semSw, this, Dev.semFree, h, hs, Dev.semGrant]
  exact congrArg (Dev.bump · SEM_CNT.GRANTS 0 n) (modSem_congr (by simp [h]))

theorem semSw_give {d : Dev} {n path : Nat} (hp : path < 16) (h : (d.sem n).holder = some (.software path)) (take : Bool) :
    d.semSw n path take true = d.semRelease n := by
  have : ¬ 16 ≤ path := by omega
  simp [Dev.semSw, this, h]

theorem semSw_give_other {d : Dev} {n path : Nat} (h : (d.sem n).holder ≠ some (.software path)) (take : Bool) :
    d.semSw n path take true = d := by
  simp [Dev.semSw, h]

/-- A semaphore on which nothing waits is free once it is released. -/
theorem semRelease_free {d : Dev} {n : Nat} {h : Option Holder} (hs : d.sem n = { holder := h })
    (hw : ∀ p ∈ d.livePorts, ∀ w ∈ (d.port p).works, w.lock ≠ some n) : d.semRelease n = d.modSem n fun _ => {} := by
  have hheld : (d.livePorts.flatMap fun p => (d.port p).works.filter fun w =>
      w.lock == some n && w.came && w.ready && !d.semLets w && !behindAtomic w (d.port p).works) = [] := by
    rw [List.flatMap_eq_nil_iff]
    intro p hp
    rw [List.filter_eq_nil_iff]
    intro w hmem
    simp [hw p hp w hmem]
  simp only [Dev.semRelease, hheld, List.map_nil]
  rw [semNext_idle (by simp [hs])]
  exact modSem_congr (by simp [hs])

/-- A semaphore that software holds is freed by force: counted, with an event at its home. -/
theorem semForce_software {d : Dev} {n path : Nat} (hs : d.sem n = { holder := some (.software path) })
    (hw : ∀ p ∈ d.livePorts, ∀ w ∈ (d.port p).works, w.lock ≠ some n) :
    d.semForce n = ((d.bump SEM_CNT.FORCED 0 n).raise (d.homeOf n) evSem ⟨.SEM_CNT, 0, n⟩ 0 n).modSem n fun _ => {} := by
  simp only [Dev.semForce, hs]
  exact semRelease_free hs hw

theorem semResvEnd_free {d : Dev} {n : Nat} {q : Option Nat} (hs : d.sem n = { resv := q }) :
    d.semResvEnd n = d.modSem n fun _ => {} := by
  rw [Dev.semResvEnd, if_pos (by simp [hs]), semNext_idle (by simp [hs])]
  exact modSem_congr (by simp [hs])

/-- Settles O1. -/
theorem semTakeGrants : Obligations.SemTakeGrants := by
  unfold Obligations.SemTakeGrants
  intro s src n hg hp hs hh ht
  refine State.does_perform (by dsimp only [exec]; rfl) ?_ ht
  rw [swCmd_semSw (sem_limit (.inl rfl) ht) hg]
  exact congrArg (Dev.answered · src) (semSw_take (d := s.dev.written src ⟨.SEM_SW, 0, n⟩) hp hs hh)

end Sys2Proof.Machine

/-! ## A semaphore command in the lead's order (R210, R215) -/

namespace Sys2Proof.Machine

/-- The parts of a device that decide where its homes are, which works it holds and which configuration writes it has to apply. -/
def Dev.frame (d : Dev) : Variant × List Nat × Store Nat × Store (Option Nat) × List Nat × Store Port × List CfgWrite :=
  (d.variant, d.lost, d.homes, d.mirrors, d.away, d.ports, d.cfgLog)

theorem homeOf_frame {d e : Dev} (h : e.frame = d.frame) (n : Nat) : e.homeOf n = d.homeOf n := by
  simp only [Dev.frame, Prod.mk.injEq] at h
  obtain ⟨hv, hlost, hh, hm, ha, -, -⟩ := h
  have hhold : e.holder = d.holder := funext fun k => by rw [Dev.holder, Dev.holder, hh]
  have hmir : e.mirror = d.mirror := funext fun k => by rw [Dev.mirror, Dev.mirror, hm]
  have hserv : e.inService = d.inService := funext fun k => by simp only [Dev.inService, Dev.n, hv, hlost]; rfl
  simp only [Dev.homeOf, Dev.home, Dev.n, hv, hhold, hmir, hserv, ha]
  rfl

theorem openSeal_keeps (d : Dev) (x : Nat) : (d.openSeal x).frame = d.frame ∧ (d.openSeal x).applied = d.applied ∧ (d.openSeal x).sems = d.sems := by
  unfold Dev.openSeal
  split <;> exact ⟨rfl, rfl, rfl⟩

/-- The seal of a die opens where a write has a protected bit (R76). -/
def Dev.cfgOpened (d : Dev) (x : Nat) (l : Loc) (w : CfgWrite) : Dev := if w.mask &&& l.reg.pMask != 0#32 then d.openSeal x else d

/-- A word of package configuration stored on a die. -/
def Dev.cfgKept (d : Dev) (x : Nat) (l : Loc) (w : CfgWrite) : Dev :=
  if w.mask = 0 then d.cfgOpened x l w
  else (d.cfgOpened x l w).setReg l.reg x l.i (merged ((d.cfgOpened x l w).reg l.reg x l.i) w.v w.mask)

/-- A write to most registers of package configuration stores its word and sets the rest in motion. -/
theorem cfgPlace_plain {d : Dev} {x : Nat} {w : CfgWrite} {l : Loc} (hl : locate d.n w.off = some l)
    (hr : l.reg ≠ .POOL_BASE_HI ∧ l.reg ≠ .TAP_CTL ∧ l.reg ≠ .RING_CTL) :
    d.cfgPlace x w = (d.cfgKept x l w).cfgHook x l.reg l.i w.v := by
  obtain ⟨hp, ht, hc⟩ := hr
  simp only [Dev.cfgPlace, hl, hp, decide_false, Bool.false_and, Bool.false_eq_true, if_false]
  generalize hm : w.mask = m
  by_cases h0 : m = 0 <;> by_cases hs : (m &&& l.reg.pMask != 0#32) = true <;>
    simp only [h0, hs, Dev.cfgKept, Dev.cfgOpened, hm, if_true, if_false, Bool.false_eq_true]

theorem cfgOpened_keeps (d : Dev) (x : Nat) (l : Loc) (w : CfgWrite) :
    (d.cfgOpened x l w).frame = d.frame ∧ (d.cfgOpened x l w).applied = d.applied ∧ (d.cfgOpened x l w).sems = d.sems := by
  unfold Dev.cfgOpened
  split
  · exact openSeal_keeps d x
  · exact ⟨rfl, rfl, rfl⟩

theorem cfgKept_keeps (d : Dev) (x : Nat) (l : Loc) (w : CfgWrite) :
    (d.cfgKept x l w).frame = d.frame ∧ (d.cfgKept x l w).applied = d.applied ∧ (d.cfgKept x l w).sems = d.sems := by
  unfold Dev.cfgKept
  split <;> exact cfgOpened_keeps d x l w

theorem at_cfgOpened (d : Dev) (x : Nat) (l : Loc) (w : CfgWrite) {k : Loc} (hs : k.reg ≠ .PKG_SEAL_STAT) : (d.cfgOpened x l w).at k = d.at k := by
  unfold Dev.cfgOpened
  split
  · exact at_openSeal d x hs
  · rfl

theorem at_cfgKept_ne (d : Dev) (x : Nat) {l k : Loc} (w : CfgWrite) (hk : k ≠ ⟨l.reg, x, l.i⟩) (hs : k.reg ≠ .PKG_SEAL_STAT) :
    (d.cfgKept x l w).at k = d.at k := by
  unfold Dev.cfgKept
  split
  · exact at_cfgOpened d x l w hs
  · exact (at_setReg_ne _ _ _ _ _ hk).trans (at_cfgOpened d x l w hs)

/-- What is true before the first and carried over the application on each die holds after the last. -/
theorem foldl_applies {P : List Nat → Dev → Prop} {f : Dev → Nat → Dev} (hf : ∀ x xs d, P (x :: xs) d → P xs (f d x)) :
    ∀ (xs : List Nat) (d : Dev), P xs d → P [] (xs.foldl f d)
  | [], _, h => h
  | x :: xs, d, h => foldl_applies hf xs (f d x) (hf x xs d h)

/-- Where a semaphore stands while its FORCE is applied on one die after another: held until its home has applied it. -/
structure ForceCourse (d : Dev) (w : CfgWrite) (n path : Nat) (xs : List Nat) (e : Dev) : Prop where
  frame : e.frame = ({ d with cfgLog := [w] } : Dev).frame
  todo : ∀ x ∈ xs, e.appliedAt x = 0
  once : xs.Nodup
  others : ∀ k : Nat, k ≠ n → e.sem k = d.sem k
  held : d.homeOf n ∈ xs → e.sem n = { holder := some (.software path) } ∧ e.at ⟨.SEM_CNT, 0, n⟩ = d.at ⟨.SEM_CNT, 0, n⟩
  freed : d.homeOf n ∉ xs → e.sem n = {} ∧ e.fld SEM_CNT.FORCED 0 n = min (d.fld SEM_CNT.FORCED 0 n + 1) 255

theorem fits_pkg {r : RegId} {i n : Nat} (hb : r.spec.block = .pkg) (hi : i < dimCount r.spec.dims) (hp : r.present n i = true) :
    Loc.fits ⟨r, 0, i⟩ n = true := by
  simp only [Loc.fits, Bool.and_eq_true, decide_eq_true_eq, hb]
  exact ⟨⟨hi, hp⟩, rfl⟩

theorem fits_semCtl {n m : Nat} (hn : n < 64) : Loc.fits ⟨.SEM_CTL, 0, n⟩ m = true := fits_pkg rfl hn rfl

/-- FORCE applied on one die acts where that die is the semaphore's home. -/
theorem forceCourse_step {d e : Dev} {w : CfgWrite} {n path x : Nat} {xs : List Nat} (hn : n < 64) (ho : w.off = Loc.offset ⟨.SEM_CTL, 0, n⟩)
    (hv : w.v.getLsbD 0 = true) (hw : ∀ p ∈ d.livePorts, ∀ k ∈ (d.port p).works, k.lock ≠ some n)
    (h : ForceCourse d w n path (x :: xs) e) : ForceCourse d w n path xs (e.applyTo x 1) := by
  obtain ⟨hframe, htodo, honce, hothers, hheld, hfreed⟩ := h
  obtain ⟨hx, honce⟩ := List.nodup_cons.mp honce
  have hfr := hframe
  simp only [Dev.frame, Prod.mk.injEq] at hfr
  obtain ⟨hvar, -, -, -, -, hports, hlog⟩ := hfr
  rw [applyTo_only hlog (htodo x List.mem_cons_self),
    cfgPlace_plain (l := ⟨.SEM_CTL, 0, n⟩) (ho ▸ locate_offset (fits_semCtl hn)) ⟨nofun, nofun, nofun⟩]
  generalize hc : ({ e with applied := e.applied.set 0 ⟨x, 0, 0⟩ 1 } : Dev) = c
  obtain ⟨kframe, kapp, ksems⟩ := cfgKept_keeps c x ⟨.SEM_CTL, 0, n⟩ w
  have kat : (c.cfgKept x ⟨.SEM_CTL, 0, n⟩ w).at ⟨.SEM_CNT, 0, n⟩ = e.at ⟨.SEM_CNT, 0, n⟩ := by
    rw [at_cfgKept_ne c x w (by simp) (by simp), ← hc]; rfl
  generalize c.cfgKept x ⟨.SEM_CTL, 0, n⟩ w = k at *
  have kframe' : k.frame = ({ d with cfgLog := [w] } : Dev).frame := by rw [kframe, ← hc]; exact hframe
  have khome : k.homeOf n = d.homeOf n := homeOf_frame (d := { d with cfgLog := [w] }) kframe' n
  have ktodo : ∀ y ∈ xs, k.appliedAt y = 0 := fun y hy => by
    rw [Dev.appliedAt, kapp, ← hc]
    exact (Store.get_set_ne 0 0 (by rintro ⟨⟩; exact hx hy) 1 e.applied).trans (htodo y (List.mem_cons_of_mem x hy))
  have ksem : ∀ m, k.sem m = e.sem m := fun m => by rw [Dev.sem, ksems, ← hc]; rfl
  have kports : k.ports = d.ports := by
    simp only [Dev.frame, Prod.mk.injEq] at kframe'
    exact kframe'.2.2.2.2.2.1
  simp only [Dev.cfgHook, hv, khome, Bool.true_and, beq_iff_eq]
  split
  case isTrue hhome =>
    obtain ⟨esem, ecnt⟩ := hheld (hhome ▸ List.mem_cons_self)
    rw [semForce_software (path := path) ((ksem n).trans esem) (by simpa only [Dev.livePorts, Dev.port, kports] using hw)]
    refine ⟨kframe', ktodo, honce, fun m hm => ?_, fun hin => absurd (hhome ▸ hin) hx, fun _ => ⟨sem_modSem_same _ _ _, ?_⟩⟩
    · rw [sem_modSem_ne _ hm, sem_raise, sem_bump, ksem, hothers m hm]
    · have hfld : k.fld SEM_CNT.FORCED 0 n = d.fld SEM_CNT.FORCED 0 n := fld_of_at (f := SEM_CNT.FORCED) (kat.trans ecnt)
      rw [fld_modSem, fld_raise, fld_bump_same _ _ _ _ (by decide) (by decide), hfld, satInc]
      exact Nat.mod_eq_of_lt (Nat.lt_succ_of_le (min_le_right _ _))
  case isFalse hhome =>
    refine ⟨kframe', ktodo, honce, fun m hm => (ksem m).trans (hothers m hm), fun hin => ?_, fun hin => ?_⟩
    · obtain ⟨esem, ecnt⟩ := hheld (List.mem_cons_of_mem x hin)
      exact ⟨(ksem n).trans esem, kat.trans ecnt⟩
    · obtain ⟨esem, ecnt⟩ := hfreed (by simp [hin, Ne.symm hhome])
      exact ⟨(ksem n).trans esem, (fld_of_at (f := SEM_CNT.FORCED) kat).trans ecnt⟩

theorem leadTakes_first {d : Dev} {w : CfgWrite} {at_ : Nat} (h : d.cfgLog = []) :
    d.leadTakes w at_ = ((d.replicas.filter fun x => at_.testBit x).foldl (fun (e : Dev) x => e.applyTo x 1) { d with cfgLog := [w] }).pruneCfg := by
  simp only [Dev.leadTakes, h, List.nil_append, List.length_singleton]
  rfl

theorem testBit_all {d : Dev} {x : Nat} (h : x ∈ d.replicas) : (255 : Nat).testBit x = true := by
  have hx : x < d.n := List.mem_range.mp (List.mem_filter.mp h).1
  have hn : d.n ≤ 8 := by
    unfold Dev.n
    cases d.variant <;> decide
  have h8 : x < 8 := by omega
  interval_cases x <;> rfl

theorem pruneCfg_view (d : Dev) : ∃ log app, d.pruneCfg = { d with cfgLog := log, applied := app } := by
  unfold Dev.pruneCfg
  dsimp only
  split
  · exact ⟨d.cfgLog, d.applied, rfl⟩
  · exact ⟨_, _, rfl⟩

/-- FORCE, taken by the lead and applied by all dies, frees a semaphore that software holds. -/
theorem leadTakes_force {d : Dev} {w : CfgWrite} {n path : Nat} (hn : n < 64) (ho : w.off = Loc.offset ⟨.SEM_CTL, 0, n⟩)
    (hv : w.v.getLsbD 0 = true) (hl : d.cfgLog = []) (ha : d.applied = []) (hhome : d.homeOf n ∈ d.replicas)
    (hs : d.sem n = { holder := some (.software path) }) (hw : ∀ p ∈ d.livePorts, ∀ k ∈ (d.port p).works, k.lock ≠ some n) :
    (d.leadTakes w 255).sem n = {} ∧ (d.leadTakes w 255).fld SEM_CNT.FORCED 0 n = min (d.fld SEM_CNT.FORCED 0 n + 1) 255 ∧
      ∀ k : Nat, k ≠ n → (d.leadTakes w 255).sem k = d.sem k := by
  have hnodup : d.replicas.Nodup := List.Nodup.filter _ List.nodup_range
  have hstart : ForceCourse d w n path d.replicas { d with cfgLog := [w] } :=
    ⟨rfl, fun x _ => by simp [Dev.appliedAt, ha, Store.get], hnodup, fun _ _ => rfl, fun _ => ⟨hs, rfl⟩, fun h => absurd hhome h⟩
  obtain ⟨-, -, -, hothers, -, hfreed⟩ := foldl_applies (P := ForceCourse d w n path) (f := fun (e : Dev) x => e.applyTo x 1)
    (fun _ _ _ h => forceCourse_step hn ho hv hw h) d.replicas _ hstart
  obtain ⟨hfree, hcount⟩ := hfreed List.not_mem_nil
  rw [leadTakes_first hl, List.filter_eq_self.mpr fun x hx => testBit_all hx]
  obtain ⟨log, app, hp⟩ := pruneCfg_view (d.replicas.foldl (fun (e : Dev) x => e.applyTo x 1) { d with cfgLog := [w] })
  rw [hp]
  exact ⟨hfree, hcount, hothers⟩

theorem getLsbD_putBits_zero (c : Word) : (putBits c 0 0 1).getLsbD 0 = true := by
  have hm : (maskOf 0 0).getLsbD 0 = true := by decide
  simp only [putBits, BitVec.getLsbD_or, BitVec.getLsbD_and, hm]
  simp

theorem sem_answered (d : Dev) (src : Src) (n : Nat) : (d.answered src).sem n = d.sem n := by
  unfold Dev.answered
  repeat' split
  all_goals rfl

/-- Settles O2. -/
theorem semReleases : Obligations.SemReleases := by
  unfold Obligations.SemReleases
  refine fun s src n h hw => ⟨fun hs hp h16 hg ht => State.does_perform (by dsimp only [exec]; rfl) ?give ht,
    fun hs hp hg ht => State.does_perform (by dsimp only [exec]; rfl) ?other ht,
    fun hs hr => State.does_perform (by dsimp only [exec]; rfl) ((timed_runs hr _).trans (semForce_software hs hw)),
    fun hs h16 hg hb hl ha hhome ht => State.doesSome_perform (by dsimp only [exec]; rfl) ?force ht,
    fun q hs hr => State.does_perform (by dsimp only [exec]; rfl) ((timed_runs hr _).trans (semResvEnd_free hs))⟩
  case give =>
    rw [swCmd_semSw (sem_limit (.inr (.inl rfl)) ht) hg]
    refine congrArg (Dev.answered · src) ?_
    refine (semSw_give (d := s.dev.written src ⟨.SEM_SW, 0, n⟩) (hp ▸ h16) ?_ _).trans (semRelease_free (d := s.dev.written src ⟨.SEM_SW, 0, n⟩) hs hw)
    rw [hp]
    exact congrArg Sem.holder hs
  case other =>
    rw [swCmd_semSw (sem_limit (.inr (.inl rfl)) ht) hg]
    refine congrArg (Dev.answered · src) (semSw_give_other (d := s.dev.written src ⟨.SEM_SW, 0, n⟩) (fun hh => hp ?_) _)
    have := (congrArg Sem.holder hs).symm.trans hh
    simp_all
  case force =>
    have hf := fits_semCtl (m := s.dev.n) (sem_limit (.inr (.inr rfl)) ht)
    obtain ⟨sh, held, he⟩ := swCmd_cfg (L := s.locks) (f := fun c => putBits c 0 0 1) (at_ := 255) hf hg rfl nofun hb (.inl rfl) h16
    obtain ⟨hoff, hv, -⟩ := cfgWord_of s.locks (putBits (s.dev.at (Loc.seenBy ⟨.SEM_CTL, 0, n⟩ src) &&&
      RegId.SEM_CTL.maskWhere fun f => f.ty == .rw || f.ty == .lk) 0 0 1) src.path (locate_offset hf) nofun
    obtain ⟨hfree, hcount, hothers⟩ := leadTakes_force (d := { s.dev.written src ⟨.SEM_CTL, 0, n⟩ with shadows := sh })
      (sem_limit (.inr (.inr rfl)) ht) hoff (by rw [hv]; exact getLsbD_putBits_zero _) hl ha hhome hs hw
    rw [he]
    refine ⟨(sem_answered _ src n).trans hfree, ?_, fun k hk => (sem_answered _ src k).trans (hothers k hk)⟩
    exact (fld_of_at (at_answered _ src _)).trans hcount

end Sys2Proof.Machine

/-! ## Configuration requests (R90, R92, R96) -/

namespace Sys2Proof.Machine

theorem mps_large (d : Dev) (x : Nat) : 128 ≤ d.mps x := by
  rw [Dev.mps]
  exact Nat.le_mul_of_pos_right 128 (Nat.two_pow_pos _)

/-- A completion of few bytes goes out in one piece. -/
theorem sendCpl_success_short {d : Dev} {data : List Byte} (x rid tag : Nat) (poison : Bool) (h : data.length ≤ 4) :
    d.sendCpl x rid tag 0 .success poison data = d.emit (.cpl x rid tag .success poison data) := by
  have hm := mps_large d x
  have hl : data.length ≤ (0 + d.mps x) / 128 * 128 - 0 := by omega
  simp only [Dev.sendCpl, splitCpl, hl, if_true, List.foldl_cons, List.foldl_nil]

theorem length_bytesLE (v n : Nat) : (bytesLE v n).length = n := by
  induction n generalizing v with
  | zero => rfl
  | succ n ih => rw [bytesLE, List.length_cons, ih]

/-- The DWORDs of a function that a configuration write may change without a further effect, their writable bits and those that a 1 clears. -/
abbrev plainDwords : List (Nat × Word × Word) :=
  [(0x04, 0x0546#32, 0xF9000000#32), (0x10, 0xF8000000#32, 0), (0x14, 0xFFFFFFFF#32, 0), (0x18, 0xFFC00000#32, 0),
    (0x1C, 0xFFFFFFFF#32, 0), (0x24, 0xFFFFFF00#32, 0), (0x3C, 0xFF#32, 0)]

theorem cfgStore_plain {d : Dev} {x off : Nat} {w c : Word} (h : (off, w, c) ∈ plainDwords) (en : Nat) (v : Word) :
    d.cfgStore x off en v =
      (d.cfgPut x off (merged (d.cfgRead x off) v (w &&& byteBits en) &&& ~~~(v &&& byteBits en &&& c))).portResume x := by
  simp only [plainDwords, List.mem_cons, Prod.mk.injEq, List.not_mem_nil, or_false] at h
  rcases h with ⟨rfl, rfl, rfl⟩ | ⟨rfl, rfl, rfl⟩ | ⟨rfl, rfl, rfl⟩ | ⟨rfl, rfl, rfl⟩ | ⟨rfl, rfl, rfl⟩ | ⟨rfl, rfl, rfl⟩ | ⟨rfl, rfl, rfl⟩ <;> rfl

/-- Settles O3. -/
theorem pcieConfigRequests : Obligations.PcieConfigRequests := by
  unfold Obligations.PcieConfigRequests
  refine fun s x r => ⟨fun hw => State.does_perform (by dsimp only [exec]; rfl) (if_pos hw), fun hw => ?_⟩
  have hnow : ∀ e, s.dev.cfgRequestNow x r = e → s.Does (.pcieConfigRequest x r) e := fun e he =>
    State.does_perform (f := fun _ d => d.cfgRequest x r) (by dsimp only [exec]; rfl) (by rw [Dev.cfgRequest, if_neg (by simp [hw]), he])
  refine ⟨fun ht hd hf hr hm => hnow _ ?read, fun w c ht hd hf hr hmem => hnow _ ?write, fun ht hf => hnow _ ?retry, fun ht => hnow _ ?type1⟩
  case read =>
    have hready : s.dev.cfgReady x = true := by simp [Dev.cfgReady, hd, hf]
    simp only [Dev.cfgRequestNow, ht, hready, hr, hm, Option.elim_none, Bool.not_true, Bool.false_eq_true, if_false]
    exact sendCpl_success_short x _ _ _ (length_bytesLE _ _).le
  case write =>
    have hready : s.dev.cfgReady x = true := by simp [Dev.cfgReady, hd, hf]
    simp only [Dev.cfgRequestNow, ht, hready, hr, Bool.not_true, Bool.false_eq_true, if_false, if_true]
    rw [sendCpl_success_short x _ _ _ (data := []) (Nat.zero_le 4)]
    exact cfgStore_plain (d := s.dev.emit (.cpl x r.rid r.tag .success false [])) hmem r.en (BitVec.ofNat 32 r.value)
  case retry =>
    have hready : s.dev.cfgReady x = false := by simp [Dev.cfgReady, hf]
    simp [Dev.cfgRequestNow, ht, hready, Dev.sendCpl]
  case type1 => simp [Dev.cfgRequestNow, ht, Dev.sendCpl]

end Sys2Proof.Machine

/-! ## Messages and unsupported requests (R90, R92) -/

namespace Sys2Proof.Machine

/-- Settles O6. -/
theorem pcieMessagesAndUnsupported : Obligations.PcieMessagesAndUnsupported := by
  unfold Obligations.PcieMessagesAndUnsupported
  refine fun s x => ⟨State.doesOnly_performAlone (by dsimp only [exec]; rfl) rfl, State.doesOnly_performAlone (by dsimp only [exec]; rfl) rfl,
    fun v k => State.doesOnly_performAlone (by dsimp only [exec]; rfl) (by simp only [Dev.message]), State.doesOnly_performAlone (by dsimp only [exec]; rfl) rfl,
    State.doesOnly_performAlone (by dsimp only [exec]; rfl) rfl, ?_⟩
  rintro src rfl
  have hnow : ∀ (posted : Bool) (t : Option OddTarget) (e : Dev), s.dev.waitsCredit (srcDie src) posted = false →
      s.dev.unsupportedNow src posted t = e → s.Does (.pcieUnsupportedRequest src posted t) e := fun posted t e hw he =>
    State.does_perform (f := fun _ d => d.unsupported src posted t) (by dsimp only [exec]; rfl)
      (by rw [Dev.unsupported, if_neg (by simp [hw]), he])
  refine ⟨fun hw => hnow _ _ _ hw (by simp only [Dev.unsupportedNow, Dev.logPosted, if_true, Bool.false_eq_true, if_false]),
    fun hw => hnow _ _ _ hw (by simp only [Dev.unsupportedNow, Dev.sendCpl, Bool.false_eq_true, if_false]), fun t c hbar hc hden => ⟨fun hw => hnow _ _ _ hw ?_, fun hw => hnow _ _ _ hw ?_⟩,
    fun posted t hw => State.does_perform (by dsimp only [exec]; rfl) (if_pos hw)⟩
  all_goals
    subst hc
    simp only [Dev.unsupportedNow, hbar, hden, Dev.logPosted, Dev.sendCpl, if_true, if_false, Bool.false_eq_true]

end Sys2Proof.Machine

/-! ## Completions received (R90, R93) -/

namespace Sys2Proof.Machine

theorem modPx_congr {d : Dev} {x : Nat} {f g : Pcie → Pcie} (h : f (d.px x) = g (d.px x)) : d.modPx x f = d.modPx x g := by
  rw [Dev.modPx, Dev.modPx, h]

/-- A port without its log of errors. -/
def Pcie.unlogged (p : Pcie) : Pcie := { p with aerFirst := none, aerLog := none }

theorem unlogged_aerHeader (d : Dev) (x y : Nat) (k : AerErr) : ((d.aerHeader x k).px y).unlogged = (d.px y).unlogged := by
  obtain ⟨⟨f, g, hx⟩, hy, -⟩ := aerHeader_effect d x k
  by_cases h : y = x
  · rw [h, hx]; rfl
  · rw [hy y h]

theorem px_cfgSet (d : Dev) (x o : Nat) (bits : List Nat) (y : Nat) : (d.cfgSet x o bits).px y = d.px y := rfl

/-- The log aside, AER leaves a port as it is. -/
theorem unlogged_aer (d : Dev) (x : Nat) (k : AerErr) (adv : Bool) (y : Nat) : ((d.aer x k adv).px y).unlogged = (d.px y).unlogged := by
  unfold Dev.aer
  simp only
  repeat' split
  all_goals simp only [px_cfgSet, px_emit, unlogged_aerHeader]

theorem issued_aer (d : Dev) (x : Nat) (k : AerErr) (adv : Bool) (y : Nat) : ((d.aer x k adv).px y).issued = (d.px y).issued :=
  have h := congrArg Pcie.issued (unlogged_aer d x k adv y)
  h

theorem waitTag_aer (d : Dev) (x : Nat) (k : AerErr) (adv : Bool) (y : Nat) : ((d.aer x k adv).px y).waitTag = (d.px y).waitTag :=
  have h := congrArg Pcie.waitTag (unlogged_aer d x k adv y)
  h

theorem owed_aer (d : Dev) (x : Nat) (k : AerErr) (adv : Bool) (y : Nat) : ((d.aer x k adv).px y).owed = (d.px y).owed :=
  have h := congrArg Pcie.owed (unlogged_aer d x k adv y)
  h

/-- The only request issued ends; none waits for its tag. -/
theorem endIssued_only {d : Dev} {x : Nat} {i : Issued} (j : Issued) (hi : (d.px x).issued = [i]) (hj : j.tag = i.tag)
    (hw : (d.px x).waitTag = []) (ok abort poison timeout : Bool) :
    d.endIssued x j ok abort poison timeout =
      (d.modPx x fun p => { p with issued := [] }).note (.hostEnd j.req j.tag ok abort poison timeout j.got) := by
  have hmod : (d.modPx x fun p => { p with issued := p.issued.filter fun k => k.tag != j.tag }) = d.modPx x fun p => { p with issued := [] } :=
    modPx_congr (by simp [hi, hj])
  have hwait : (((d.modPx x fun p => { p with issued := [] }).note (.hostEnd j.req j.tag ok abort poison timeout j.got)).px x).waitTag = [] := by
    rw [px_note, px_modPx_same]
    exact hw
  rw [Dev.endIssued]
  simp only [hmod, hwait, List.length_nil, Dev.retag]

/-- Settles O7. -/
theorem pcieCompletions : Obligations.PcieCompletions := by
  unfold Obligations.PcieCompletions
  intro s x tag
  have hnone : (∀ i ∈ (s.dev.px x).issued, i.tag ≠ tag) → ((s.dev.px x).issued.find? fun i => i.tag == tag) = none := fun h =>
    List.find?_eq_none.mpr fun i hi => by simpa using h i hi
  refine ⟨fun st poison last data h => State.does_perform (by dsimp only [exec]; rfl) (by simp only [Dev.rxCompletion, hnone h]),
    fun h => State.does_perform (by dsimp only [exec]; rfl) (by simp only [Dev.rxTimeout, hnone h]), ?_⟩
  rintro i hi rfl hw
  have hfind : ((s.dev.px x).issued.find? fun j => j.tag == i.tag) = some i := by simp [hi]
  refine ⟨fun data => State.does_perform (by dsimp only [exec]; rfl) ?ok, fun data => State.does_perform (by dsimp only [exec]; rfl) ?poisoned,
    fun poison last data => State.does_perform (by dsimp only [exec]; rfl) ?unsupported,
    fun poison last data => State.does_perform (by dsimp only [exec]; rfl) ?abort, State.does_perform (by dsimp only [exec]; rfl) ?timeout⟩
  all_goals simp only [Dev.rxCompletion, Dev.rxTimeout, hfind, Bool.false_eq_true, if_false, Bool.true_or, if_true]
  case ok => exact endIssued_only { i with got := i.got ++ data } hi rfl hw true false false false
  case poisoned =>
    exact endIssued_only (d := (s.dev.aer x .poisoned).cfgSet x 0x04 _) { i with got := i.got ++ data } ((issued_aer s.dev x _ _ x).trans hi) rfl
      ((waitTag_aer s.dev x _ _ x).trans hw) false false true false
  case unsupported => exact endIssued_only (d := s.dev.cfgSet x 0x04 [29]) i hi rfl hw false false false false
  case abort => exact endIssued_only (d := s.dev.cfgSet x 0x04 [28]) i hi rfl hw false true false false
  case timeout =>
    exact endIssued_only i ((issued_aer s.dev x _ _ x).trans hi) rfl ((waitTag_aer s.dev x _ _ x).trans hw) false false false true

end Sys2Proof.Machine

/-! ## Limits of requests received and held (R94, R99) -/

namespace Sys2Proof.Machine

theorem completeHere_abort {d : Dev} {x id : Nat} {o : Owed} (h : d.owedAt x id = some o) (hm : o.mon = none) (data : List Byte) :
    d.completeHere x id .abort false data = ((((d.modPx x fun p => { p with owed := p.owed.filter fun q => q.id != id }).bump
      PX_ERR_COUNT.CA_SENT x).aer x .completerAbort true).cfgSet x 0x04 [27]).emit (.cpl x o.rid o.tag .abort false []) := by
  simp only [Dev.completeHere, h, hm, Dev.sendCpl]

/-- A request that is owed no more is answered Completer Abort. -/
theorem completeHere_owed {d : Dev} {x id : Nat} {o : Owed} (h : d.owedAt x id = some o) (data : List Byte) :
    ((d.completeHere x id .abort false data).px x).owed = (d.px x).owed.filter (fun q => q.id != id) ∧
      .cpl x o.rid o.tag .abort false [] ∈ (d.completeHere x id .abort false data).out := by
  simp only [Dev.completeHere, h, Dev.sendCpl]
  refine ⟨?_, by simp [Dev.emit]⟩
  rw [px_emit, px_cfgSet, owed_aer, px_bump]
  cases o.mon <;> simp

/-- Two states that differ at most in the port works, the semaphores and their counts, and the queue of errors and its count. -/
structure PortsAlike (d e : Dev) : Prop where
  pcie : e.pcie = d.pcie
  out : e.out = d.out
  at_ : ∀ l : Loc, l.reg ∉ [.SEM_CNT, .ERR_STAT] → e.at l = d.at l

theorem PortsAlike.trans {d e f : Dev} (h : PortsAlike d e) (h' : PortsAlike e f) : PortsAlike d f :=
  ⟨h'.pcie.trans h.pcie, h'.out.trans h.out, fun l hl => (h'.at_ l hl).trans (h.at_ l hl)⟩

theorem PortsAlike.foldl {α : Type} {f : Dev → α → Dev} (hf : ∀ d a, PortsAlike d (f d a)) : ∀ (xs : List α) (d : Dev), PortsAlike d (xs.foldl f d)
  | [], _ => ⟨rfl, rfl, fun _ _ => rfl⟩
  | x :: xs, d => (hf d x).trans (PortsAlike.foldl hf xs (f d x))

theorem portsAlike_modPort (d : Dev) (p : Nat) (f : Port → Port) : PortsAlike d (d.modPort p f) := ⟨rfl, rfl, fun _ _ => rfl⟩

theorem portsAlike_modSem (d : Dev) (n : Nat) (f : Sem → Sem) : PortsAlike d (d.modSem n f) := ⟨rfl, rfl, fun _ _ => rfl⟩

theorem portsAlike_semNext (d : Dev) (n : Nat) : PortsAlike d (d.semNext n) := by
  have hgrant : ∀ h, PortsAlike d (d.semGrant n h) := fun h => ⟨rfl, rfl, fun l hl => by
    rw [Dev.semGrant, at_bump_ne, at_modSem]
    rintro rfl
    exact hl (by simp)⟩
  unfold Dev.semNext
  simp only
  split
  · split
    · exact ⟨rfl, rfl, fun _ _ => rfl⟩
    · exact (hgrant _).trans (PortsAlike.foldl (fun e p => portsAlike_modPort e p _) _ _)
  · exact ⟨rfl, rfl, fun _ _ => rfl⟩

theorem portsAlike_semPassed (d : Dev) (id : Nat) (lock : Option Nat) : PortsAlike d (d.semPassed id lock) := by
  unfold Dev.semPassed
  split
  · exact ⟨rfl, rfl, fun _ _ => rfl⟩
  · split
    · exact (portsAlike_modSem _ _ _).trans (portsAlike_semNext _ _)
    · exact ⟨rfl, rfl, fun _ _ => rfl⟩

theorem portsAlike_errRec (d : Dev) (x : Nat) (k : ErrRec) : PortsAlike d (d.errRec x k) := by
  have hpush : PortsAlike d (d.pushDrop x 60 ERR_STAT.LOST 0 x (k.words x (d.us x))).2 := by
    unfold Dev.pushDrop
    dsimp only
    split
    · exact ⟨rfl, rfl, fun _ _ => rfl⟩
    · refine ⟨rfl, rfl, fun l hl => at_bump_ne _ _ _ _ ?_⟩
      rintro rfl
      exact hl (by simp)
  unfold Dev.errRec
  simp only
  split
  · exact hpush.trans ⟨rfl, rfl, fun _ _ => rfl⟩
  · exact hpush

/-- What a request at NP_LIMIT ends beside itself: the work and the atomics that it began. -/
theorem npLimit_alike {d : Dev} {x id : Nat} {o : Owed} (h : d.owedAt x id = some o) :
    PortsAlike ((d.completeHere x id .abort false []).pxEvent PX_EVENT.NP_LIMIT_HIT x) (d.npLimit x id) := by
  simp only [Dev.npLimit, h]
  refine ((portsAlike_errRec _ x _).trans (PortsAlike.foldl (fun e p => portsAlike_modPort e p _) _ _)).trans
    (PortsAlike.foldl (fun e p => (portsAlike_modPort e p _).trans (PortsAlike.foldl (fun e w => ?_) _ _)) _ _)
  cases w.lock
  · exact portsAlike_semPassed e _ _
  · exact (portsAlike_modSem e _ _).trans (portsAlike_semPassed _ _ _)

/-- The record of a request that ended at NP_LIMIT (R94). -/
def Owed.limitRec (o : Owed) : ErrRec :=
  { kind := 8, inb := false, port := o.port, win := o.win, near := o.near, far := o.far, cpl := 4, len := o.len, rid := o.rid, tag := o.tag }

theorem ports_aer (d : Dev) (x : Nat) (k : AerErr) (adv : Bool) : (d.aer x k adv).ports = d.ports := by
  have hhead : ∀ e : Dev, (e.aerHeader x k).ports = e.ports := fun e => by
    rcases aerHeader_cases e x k with h | ⟨f, g, n, h⟩ <;> rw [h]
    rfl
  have hset : ∀ (e : Dev) (o : Nat) (bits : List Nat), (e.cfgSet x o bits).ports = e.ports := fun _ _ _ => rfl
  unfold Dev.aer
  simp only
  repeat' split
  all_goals simp only [hset, hhead, Dev.emit_ports]

theorem ports_completeHere (d : Dev) (x id : Nat) (data : List Byte) : (d.completeHere x id .abort false data).ports = d.ports := by
  unfold Dev.completeHere
  split
  · rfl
  · have hsend : ∀ (e : Dev) (rid tag : Nat), (e.sendCpl x rid tag 0 .abort false data).ports = e.ports := fun e rid tag =>
      ports_aer (e.bump _ _) _ _ _
    dsimp only
    split <;> exact hsend _ _ _

theorem ports_errRec (d : Dev) (x : Nat) (k : ErrRec) : (d.errRec x k).ports = d.ports := by
  unfold Dev.errRec Dev.pushDrop
  dsimp only
  split <;> split <;> rfl

/-- With no port in use nothing else waits for the request. -/
theorem npLimit_alone {d : Dev} {x id : Nat} {o : Owed} (h : d.owedAt x id = some o) (hp : d.ports = []) :
    d.npLimit x id = ((d.completeHere x id .abort false []).pxEvent PX_EVENT.NP_LIMIT_HIT x).errRec x o.limitRec := by
  have hlive : (((d.completeHere x id .abort false []).pxEvent PX_EVENT.NP_LIMIT_HIT x).errRec x o.limitRec).livePorts = [] := by
    rw [Dev.livePorts, ports_errRec, Dev.pxEvent, Dev.status_ports, ports_completeHere, hp]
    rfl
  have hfail : ∀ (e : Dev) (sel : Acc → Bool), e.livePorts = [] → e.failAtomics sel = e := fun e sel he => by rw [Dev.failAtomics, he]; rfl
  have hrec : ∀ e : Dev, e.errRec x { kind := 8, inb := false, port := o.port, win := o.win,
                                         near := o.near, far := o.far, cpl := cplAbort, len := o.len, rid := o.rid,
                                         tag := o.tag } = e.errRec x o.limitRec := fun e => rfl
  simp only [Dev.npLimit, h, hrec, hfail _ _ hlive, hlive, List.foldl_nil]

/-- Settles O8. -/
theorem pcieLimits : Obligations.PcieLimits := by
  unfold Obligations.PcieLimits
  refine fun s x id => ⟨fun o hr ho => State.doesSome_perform (by dsimp only [exec]; rfl) ?limit,
    fun o hr ho hm hp => State.does_perform (by dsimp only [exec]; rfl) ?alone,
    fun h => State.does_perform (by dsimp only [exec]; rfl) (timed_id x ?absent),
    fun r hr hfind => State.does_perform (by dsimp only [exec]; rfl) ((timed_runs hr _).trans ?held),
    fun h => State.does_perform (by dsimp only [exec]; rfl) (timed_id x ?none)⟩
  case absent => simp only [Dev.npLimit, h]
  case held => simp only [Dev.holdOver, hfind]
  case limit =>
    rw [timed_runs hr]
    obtain ⟨howed, hout⟩ := completeHere_owed ho []
    obtain ⟨hpcie, heo, hat⟩ := npLimit_alike ho
    have hpx : ∀ e : Dev, e.pcie = ((s.dev.completeHere x id .abort false []).pxEvent PX_EVENT.NP_LIMIT_HIT x).pcie →
        e.px x = (s.dev.completeHere x id .abort false []).px x := fun e he => by
      rw [← px_pxEvent (s.dev.completeHere x id .abort false []) PX_EVENT.NP_LIMIT_HIT x x, Dev.px, he]; rfl
    refine ⟨(congrArg Pcie.owed (hpx _ hpcie)).trans howed, ?_, ?_⟩
    · rw [heo]
      exact (Dev.status_out ..).symm ▸ hout
    · rw [flag_of_at (f := PX_EVENT.NP_LIMIT_HIT) (hat _ (by simp))]
      exact Dev.flag_status _ _ _ _ _ _ _ rfl (by decide)
  case alone =>
    rw [timed_runs hr, npLimit_alone ho hp, completeHere_abort ho hm]
    rfl
  case none =>
    have hfind : ((s.dev.px x).heldReq ++ if s.dev.canIssue x then [] else (s.dev.px x).waitTag).find? (fun r => r.id == id && !r.book) = none := by
      rw [List.find?_eq_none]
      intro r hmem
      have : r ∈ (s.dev.px x).heldReq ++ (s.dev.px x).waitTag := by
        rcases List.mem_append.mp hmem with hm | hm
        · exact List.mem_append_left _ hm
        · refine List.mem_append_right _ ?_
          split at hm
          · exact absurd hm List.not_mem_nil
          · exact hm
      rcases h r this with hr | hr <;> simp [hr]
    simp only [Dev.holdOver, hfind]

end Sys2Proof.Machine

/-! ## Damaged frames, the repeat timer and the intervals of a link (R113, R115 to R117) -/

namespace Sys2Proof.Machine

theorem crcError_active {d : Dev} {p : Nat} (h : d.active? p = true) :
    d.crcError p = (d.modLink p fun l => { l with crcWin := l.crcWin + 1 }).bump BB_LINK_ERR.CRC_ERR p := by
  rw [Dev.crcError, if_pos h]

theorem openRepeat_fresh {d : Dev} {p : Nat} (h : (d.port p).link.repeatRun = false) :
    d.openRepeat p = (d.modLink p fun l => { l with repeatRun := true, repeats := 1 }).sendIdl p true := by
  rw [Dev.openRepeat, if_neg (by simp [h])]

theorem violation_active {d : Dev} {p : Nat} (lane : Nat) (h : d.active? p = true) : (d.violation p lane).active? p = true := by
  have hl : (⟨BB_LINK_STAT.STATE.reg, p, 0⟩ : Loc) ≠ ⟨(cvField lane).reg, p, 0⟩ := by
    unfold cvField
    split <;> simp
  rw [active?_iff] at h ⊢
  rw [← h, Dev.violation, fld_bump_ne _ _ _ _ _ _ _ hl, fld_modLink]

/-- Settles O9. -/
theorem linkFrames : Obligations.LinkFrames := by
  unfold Obligations.LinkFrames
  refine fun s p => ⟨fun hst hrun => ⟨fun k hk => State.does_perform (by dsimp only [exec]; rfl) ?_, State.does_perform (by dsimp only [exec]; rfl) ?crc,
      State.does_perform (by dsimp only [exec]; rfl) ?crcLink, fun hlane => State.does_perform (by dsimp only [exec]; rfl) ?code⟩,
    fun hrun hmax => State.does_perform (by dsimp only [exec]; rfl) ?again, fun hrun => State.does_perform (by dsimp only [exec]; rfl) ?still,
    fun hst hack => State.does_perform (by dsimp only [exec]; rfl) ?ack, fun hack => State.does_perform (by dsimp only [exec]; rfl) ?noAck,
    fun rep => ⟨rfl, ?due, fun _ => rfl⟩, fun hst => State.doesOnly_performAlone (by dsimp only [exec]; rfl) ?skp,
    fun hst => State.doesOnly_performAlone (by dsimp only [exec]; rfl) ?noSkp⟩
  · have ha := active?_of hst
    rcases hk with rfl | rfl <;> simp only [Dev.frameBad, ha, Bool.not_true, Bool.false_eq_true, if_false] <;> exact openRepeat_fresh hrun
  case crc =>
    have ha := active?_of hst
    simp only [Dev.frameBad, ha, Bool.not_true, Bool.false_eq_true, if_false, crcError_active ha]
    exact openRepeat_fresh (by simpa using hrun)
  case crcLink =>
    have ha := active?_of hst
    simp only [Dev.frameBad, ha, Bool.not_true, Bool.false_eq_true, if_false, if_true, crcError_active ha]
  case code =>
    have ha := active?_of hst
    simp only [Dev.frameBad, ha, hlane, Bool.not_true, Bool.false_eq_true, if_false, if_true, crcError_active (violation_active 2 ha)]
    rfl
  case again => simp only [Dev.repeatTimer, hrun, Nat.not_le.mpr hmax, Bool.not_true, Bool.false_eq_true, if_false]
  case still => simp [Dev.repeatTimer, hrun]
  case ack => simp [Dev.ackIdle, hack, active?_of hst]
  case noAck => simp [Dev.ackIdle, hack]
  case due => simp [Dev.sendIdl]
  case skp => simp [Dev.skp, Dev.lstate, lsDetect, lsRetrain, hst]
  case noSkp =>
    refine if_neg fun h => ?_
    rw [Bool.and_eq_true, decide_eq_true_eq, decide_eq_true_eq] at h
    simp only [Dev.lstate, lsDetect, lsRetrain] at h
    omega

end Sys2Proof.Machine

/-! ## Training starts and ends of a link (R122, R123, R127, R160) -/

namespace Sys2Proof.Machine

/-- What the start of training leaves: a port that judges every lane anew, at the lowest rate, with SYN of STEP CAP on all lanes. -/
structure TrainsFrom (d : Dev) (p st : Nat) (e : Dev) : Prop where
  state : e.fld BB_LINK_STAT.STATE p = st
  up : e.fld BB_LINK_STAT.UP p = 0
  width : e.fld BB_LINK_STAT.WIDTH p = 0
  bad : e.fld BB_LANE_STAT.BAD p = 0
  lock : e.fld BB_LANE_STAT.LOCK p = 0
  step : (e.port p).link.step = .cap
  rate : (e.port p).link.rate = 0
  goodRx : (e.port p).link.goodRx = 0
  replay : (e.port p).link.replay = []
  syns : ∀ k : Nat, k < 8 → ∃ y : Syn, y.step = 0 ∧ y.lane = k ∧ .syn p k y ∈ e.out
  others : ∀ q : Nat, q ≠ p → e.port q = d.port q

theorem fld_setFld_zero (d : Dev) (f : Fld) (u i : Nat) (h : f.lo ≤ f.hi) (hh : f.hi < 32) : (d.setFld f u i 0).fld f u i = 0 := by
  rw [Dev.fld_setFld_same _ _ _ _ _ h hh, Nat.zero_mod]

theorem setLstate_down (d : Dev) (p : Nat) {st : Nat} (h : st < 3) :
    (d.setLstate p st).fld BB_LINK_STAT.STATE p = st ∧ (d.setLstate p st).fld BB_LINK_STAT.UP p = 0 ∧
      (d.setLstate p st).fld BB_LINK_STAT.WIDTH p = 0 := by
  have hst : st ≠ lsActive := by simp only [lsActive]; omega
  simp only [Dev.setLstate, if_neg hst]
  refine ⟨?_, ?_, fld_setFld_zero _ _ _ _ (by decide) (by decide)⟩
  · rw [Dev.fld_setFld_beside _ _ _ _ _ _ (by rfl) (by decide) (by decide), Dev.fld_setFld_beside _ _ _ _ _ _ (by rfl) (by decide) (by decide),
      Dev.fld_setFld_same _ _ _ _ _ (by decide) (by decide)]
    exact Nat.mod_eq_of_lt (by show st < 8; omega)
  · rw [Dev.fld_setFld_beside _ _ _ _ _ _ (by rfl) (by decide) (by decide), fld_setFld_zero _ _ _ _ (by decide) (by decide)]

theorem port_setLstate (d : Dev) (p st q : Nat) : (d.setLstate p st).port q = d.port q := by
  unfold Dev.setLstate
  dsimp only
  split <;> rfl

/-- SYN goes out on all eight lanes (R119). -/
theorem syn_mem_sendSyns (d : Dev) (p st : Nat) {k : Nat} (h : k < 8) : ∃ y : Syn, y.step = st ∧ y.lane = k ∧ .syn p k y ∈ (d.sendSyns p st).out := by
  have hlist : ∀ (ks : List Nat) (e : Dev), (∀ o ∈ e.out, o ∈ (ks.foldl (fun d k => d.emit (.syn p k (d.synOf p st k))) e).out) ∧
      ∀ k ∈ ks, ∃ y : Syn, y.step = st ∧ y.lane = k ∧ .syn p k y ∈ (ks.foldl (fun d k => d.emit (.syn p k (d.synOf p st k))) e).out := by
    intro ks
    induction ks with
    | nil => exact fun e => ⟨fun o ho => ho, fun k hk => absurd hk List.not_mem_nil⟩
    | cons a ks ih =>
      intro e
      obtain ⟨hold, hnew⟩ := ih (e.emit (.syn p a (e.synOf p st a)))
      refine ⟨fun o ho => hold o (List.mem_append_left _ ho), fun k hk => ?_⟩
      rcases List.mem_cons.mp hk with rfl | hk
      · exact ⟨e.synOf p st k, rfl, rfl, hold _ (List.mem_append_right _ (List.mem_singleton.mpr rfl))⟩
      · exact hnew k hk
  exact (hlist (List.range 8) d).2 k (List.mem_range.mpr h)

theorem trainStart_trains (d : Dev) (p : Nat) {st : Nat} (h : st < 3) : TrainsFrom d p st (d.trainStart p st) := by
  obtain ⟨hstate, hup, hwidth⟩ := setLstate_down d p h
  unfold Dev.trainStart
  dsimp only
  generalize hc : d.setLstate p st = c at hstate hup hwidth
  have hport : ∀ q, c.port q = d.port q := fun q => hc ▸ port_setLstate d p st q
  have hbeside : ∀ (f : Fld) (e : Dev), f ∈ [BB_LINK_STAT.STATE, BB_LINK_STAT.UP, BB_LINK_STAT.WIDTH] →
      (((e.setFld BB_LANE_STAT.BAD p 0 0).setFld BB_LANE_STAT.LOCK p 0 0).setFld BB_LINK_STAT.FALLBACK p 0 0).fld f p = e.fld f p := by
    intro f e hf
    simp only [List.mem_cons, List.not_mem_nil, or_false] at hf
    rcases hf with rfl | rfl | rfl <;>
      rw [Dev.fld_setFld_beside _ _ _ _ _ _ (by rfl) (by decide) (by decide), Dev.fld_setFld_ne _ _ _ _ _ _ _ _ (by simp),
        Dev.fld_setFld_ne _ _ _ _ _ _ _ _ (by simp)]
  constructor
  case state => rw [fld_sendSyns, fld_modLink, hbeside _ _ (by simp), hstate]
  case up => rw [fld_sendSyns, fld_modLink, hbeside _ _ (by simp), hup]
  case width => rw [fld_sendSyns, fld_modLink, hbeside _ _ (by simp), hwidth]
  case bad =>
    rw [fld_sendSyns, fld_modLink, Dev.fld_setFld_ne _ _ _ _ _ _ _ _ (by simp), Dev.fld_setFld_beside _ _ _ _ _ _ (by rfl) (by decide) (by decide),
      fld_setFld_zero _ _ _ _ (by decide) (by decide)]
  case lock =>
    rw [fld_sendSyns, fld_modLink, Dev.fld_setFld_ne _ _ _ _ _ _ _ _ (by simp), fld_setFld_zero _ _ _ _ (by decide) (by decide)]
  case syns => exact fun k hk => syn_mem_sendSyns _ p 0 hk
  case others =>
    intro q hq
    rw [port_sendSyns_ne _ _ _ hq, port_modLink_ne _ hq]
    exact hport q
  all_goals rw [port_sendSyns_same, port_modLink_same]

/-- What the end of a link leaves: the port down, its packets discarded, LINK_DOWN set. -/
structure GoesDown (d : Dev) (p st : Nat) (e : Dev) : Prop where
  state : e.fld BB_LINK_STAT.STATE p = st
  up : e.fld BB_LINK_STAT.UP p = 0
  width : e.fld BB_LINK_STAT.WIDTH p = 0
  replay : (e.port p).link.replay = []
  waiting : (e.port p).link.waiting = []
  event : e.flag BB_LINK_EVENT.LINK_DOWN p = true
  others : ∀ q : Nat, q ≠ p → e.port q = d.port q

theorem port_recalStop (d : Dev) (p : Nat) {q : Nat} (h : q ≠ p) : (d.recalStop p).port q = d.port q := by
  unfold Dev.recalStop
  split
  · rfl
  · rw [port_setFld, port_modLink_ne _ h]

theorem linkDown_goesDown (d : Dev) (p : Nat) {st : Nat} (h : st < 3) (hwas : d.lstate p = 3 ∨ d.lstate p = 4) :
    GoesDown d p st (d.linkDown p st) := by
  have hw : (decide (d.lstate p = lsActive) || decide (d.lstate p = lsRetrain)) = true := by
    rcases hwas with h | h <;> rw [h] <;> rfl
  obtain ⟨hstate, hup, hwidth⟩ := setLstate_down (d.recalStop p) p h
  simp only [Dev.linkDown, hw, if_true]
  generalize hc : (d.recalStop p).setLstate p st = c at hstate hup hwidth
  have hport : ∀ q, q ≠ p → c.port q = d.port q := fun q hq => by rw [← hc, port_setLstate, port_recalStop d p hq]
  have hbeside : ∀ f : Fld, f ∈ [BB_LINK_STAT.STATE, BB_LINK_STAT.UP, BB_LINK_STAT.WIDTH] →
      ((c.setFld BB_LINK_STAT.LOOP p 0 0).setFld BB_LANE_STAT.ACTIVE p 0 0).fld f p = c.fld f p := by
    intro f hf
    simp only [List.mem_cons, List.not_mem_nil, or_false] at hf
    rcases hf with rfl | rfl | rfl <;>
      rw [Dev.fld_setFld_ne _ _ _ _ _ _ _ _ (by simp), Dev.fld_setFld_beside _ _ _ _ _ _ (by rfl) (by decide) (by decide)]
  have hevent : ∀ (f : Fld) (e : Dev), f.reg = .BB_LINK_STAT → (e.linkEvent BB_LINK_EVENT.LINK_DOWN p).fld f p = e.fld f p := fun f e hf =>
    fld_of_at (Dev.at_status_ne _ _ _ _ _ _ _ (by rw [hf]; simp))
  constructor
  case state => rw [fld_note, hevent _ _ rfl, fld_modLink, hbeside _ (by simp), hstate]
  case up => rw [fld_note, hevent _ _ rfl, fld_modLink, hbeside _ (by simp), hup]
  case width => rw [fld_note, hevent _ _ rfl, fld_modLink, hbeside _ (by simp), hwidth]
  case event => exact Dev.flag_status _ _ _ _ _ _ _ rfl (by decide)
  case others =>
    intro q hq
    rw [port_note, Dev.linkEvent, port_status, port_modLink_ne _ hq]
    exact hport q hq
  all_goals rw [port_note, Dev.linkEvent, port_status, port_modLink_same]

theorem fits_tile {r : RegId} {u n : Nat} (hb : r.spec.block = .tile) (hi : 0 < dimCount r.spec.dims) (hp : r.present n 0 = true) (hu : u < 8 * n) :
    Loc.fits ⟨r, u, 0⟩ n = true := by
  simp only [Loc.fits, Bool.and_eq_true, decide_eq_true_eq, hb]
  exact ⟨⟨hi, hp⟩, hu⟩

theorem getLsbD_putBits_bit (c : Word) {v : Nat} (h : v < 2) : (putBits c 0 0 v).getLsbD 0 = decide (v = 1) := by
  have hm : maskOf 0 0 = 1#32 := by decide
  rw [putBits, hm]
  interval_cases v <;> simp

theorem getLsbD_putBits_other (c : Word) (v : Nat) {k : Nat} (h : k ≠ 0) : (putBits c 0 0 v).getLsbD k = c.getLsbD k := by
  have hm : maskOf 0 0 = 1#32 := by decide
  have h1 : (1#32).getLsbD k = false := by simp [h]
  rw [putBits, hm, BitVec.getLsbD_or, BitVec.getLsbD_and, BitVec.getLsbD_and, h1, BitVec.getLsbD_not, h1]
  by_cases hk : k < 32
  · simp [hk]
  · simp [BitVec.getLsbD_of_ge c k (by omega)]

theorem getLsbD_eq_bit (c : Word) (k : Nat) : c.getLsbD k = (bitsOf c k k != 0) := by
  have h : (bitsOf c k k).testBit 0 = c.getLsbD k := by rw [bitsOf_testBit]; simp
  have hlt : bitsOf c k k < 2 := by
    have := Nat.mod_lt (c.toNat / 2 ^ k) (show 0 < 2 ^ (k + 1 - k) by positivity)
    simpa [bitsOf] using this
  rw [← h]
  interval_cases bitsOf c k k <;> rfl

/-- Software writes EN of a port, nothing else of BB_LINK_CTRL. -/
theorem swCmd_linkEn {d : Dev} {L : Locks} {src : Src} {p : Nat} (v : Nat) (hp : p < 8 * d.n) (hv : v < 2) (hg : d.lets src ⟨.BB_LINK_CTRL, p, 0⟩ = true)
    (hk : lockOf L ⟨.BB_LINK_CTRL, p, 0⟩ = false) :
    ∃ w m, d.swCmd L src ⟨.BB_LINK_CTRL, p, 0⟩ (fun c => putBits c 0 0 v) =
      (let e := (d.written src ⟨.BB_LINK_CTRL, p, 0⟩).stored ⟨.BB_LINK_CTRL, p, 0⟩ m w
       if v = 1 then (if d.flag BB_LINK_CTRL.EN p then e else e.linkEnable p) else e.linkDisable p).answered src := by
  refine ⟨putBits (d.at ⟨.BB_LINK_CTRL, p, 0⟩ &&& RegId.BB_LINK_CTRL.maskWhere fun f => f.ty == .rw || f.ty == .lk) 0 0 v,
    (d.written src ⟨.BB_LINK_CTRL, p, 0⟩).setMask src ⟨.BB_LINK_CTRL, p, 0⟩ false, ?_⟩
  rw [swCmd_plain hg (offset_word _) (locate_offset (fits_tile rfl (by decide) rfl hp)) rfl (by rfl)]
  simp only [hk, Dev.lockHit, Bool.and_false, Bool.false_and, cond_false]
  generalize hw : putBits (d.at ⟨.BB_LINK_CTRL, p, 0⟩ &&& RegId.BB_LINK_CTRL.maskWhere fun f => f.ty == .rw || f.ty == .lk) 0 0 v = w
  have hm : (RegId.BB_LINK_CTRL.maskWhere fun f => f.ty == .rw || f.ty == .lk) = 0xFFC001#32 := by decide
  have h0 : w.getLsbD 0 = decide (v = 1) := by
    rw [← hw, getLsbD_putBits_bit _ hv]
  have h2 : w.getLsbD 2 = false := by
    rw [← hw, hm, getLsbD_putBits_other _ _ (by decide), BitVec.getLsbD_and]
    simp
  have h3 : w.getLsbD 3 = false := by
    rw [← hw, hm, getLsbD_putBits_other _ _ (by decide), BitVec.getLsbD_and]
    simp
  have hen : (d.at ⟨.BB_LINK_CTRL, p, 0⟩).getLsbD 0 = d.flag BB_LINK_CTRL.EN p := getLsbD_eq_bit _ 0
  simp only [Dev.writeHook, h0, h2, h3, hen, Bool.false_eq_true, if_false, decide_eq_true_eq]
  rfl

theorem port_stored (d : Dev) (l : Loc) (m v : Word) (q : Nat) : (d.stored l m v).port q = d.port q := by
  unfold Dev.stored Dev.openSeal
  repeat' split
  all_goals rfl

theorem port_answered (d : Dev) (src : Src) (q : Nat) : (d.answered src).port q = d.port q := by
  unfold Dev.answered
  repeat' split
  all_goals rfl

theorem TrainsFrom.answered {d e : Dev} {p st : Nat} (h : TrainsFrom d p st e) (src : Src) : TrainsFrom d p st (e.answered src) := by
  have hat : ∀ l, (e.answered src).at l = e.at l := at_answered e src
  have hport : ∀ q, (e.answered src).port q = e.port q := port_answered e src
  have hout : ∀ o ∈ e.out, o ∈ (e.answered src).out := fun o ho => by
    unfold Dev.answered
    repeat' split
    · exact ho
    · exact List.mem_append_left _ ho
    · exact List.mem_append_left _ ho
  obtain ⟨h1, h2, h3, h4, h5, h6, h7, h8, h9, h10, h11⟩ := h
  refine ⟨(fld_of_at (hat _)).trans h1, (fld_of_at (hat _)).trans h2, (fld_of_at (hat _)).trans h3, (fld_of_at (hat _)).trans h4,
    (fld_of_at (hat _)).trans h5, ?_, ?_, ?_, ?_, fun k hk => ?_, fun q hq => (hport q).trans (h11 q hq)⟩
  · rw [hport]; exact h6
  · rw [hport]; exact h7
  · rw [hport]; exact h8
  · rw [hport]; exact h9
  · obtain ⟨y, hs, hl, hm⟩ := h10 k hk
    exact ⟨y, hs, hl, hout _ hm⟩

theorem GoesDown.answered {d e : Dev} {p st : Nat} (h : GoesDown d p st e) (src : Src) : GoesDown d p st (e.answered src) := by
  have hat : ∀ l, (e.answered src).at l = e.at l := at_answered e src
  have hport : ∀ q, (e.answered src).port q = e.port q := port_answered e src
  obtain ⟨h1, h2, h3, h4, h5, h6, h7⟩ := h
  refine ⟨(fld_of_at (hat _)).trans h1, (fld_of_at (hat _)).trans h2, (fld_of_at (hat _)).trans h3, ?_, ?_, (flag_of_at (hat _)).trans h6,
    fun q hq => (hport q).trans (h7 q hq)⟩
  · rw [hport]; exact h4
  · rw [hport]; exact h5

/-- Training counts from a state with the same ports. -/
theorem TrainsFrom.of_ports {c d e : Dev} {p st : Nat} (h : TrainsFrom c p st e) (hp : ∀ q, c.port q = d.port q) : TrainsFrom d p st e :=
  { h with others := fun q hq => (h.others q hq).trans (hp q) }

theorem linkEnable_disabled {d : Dev} {p : Nat} (h : d.lstate p = 0) : TrainsFrom d p 2 (d.linkEnable p) := by
  have hs : (d.setFld BB_LINK_CTRL.EN p 0 1).lstate p = lsDisabled :=
    (Dev.fld_setFld_ne _ _ _ _ _ _ _ _ (by simp)).trans h
  simp only [Dev.linkEnable, hs, if_true]
  exact (trainStart_trains _ p (show lsTrain < 3 by decide)).of_ports fun _ => rfl

theorem linkDisable_active {d : Dev} {p : Nat} (h : d.lstate p = 3) : GoesDown d p 0 (d.linkDisable p) := by
  have hs : (d.setFld BB_LINK_CTRL.EN p 0 0).lstate p = 3 := (Dev.fld_setFld_ne _ _ _ _ _ _ _ _ (by simp)).trans h
  have hne : ¬ (d.setFld BB_LINK_CTRL.EN p 0 0).lstate p = lsDisabled := by rw [hs]; decide
  have hdown : ∀ e : Dev, e.lstate p = 3 → (∀ q, e.port q = d.port q) → GoesDown d p 0 ((e.linkDown p lsDisabled).emit (.laneIdle p)) :=
    fun e he hq => by
      obtain ⟨h1, h2, h3, h4, h5, h6, h7⟩ := linkDown_goesDown e p (show lsDisabled < 3 by decide) (.inl he)
      exact ⟨h1, h2, h3, h4, h5, h6, fun q hne => (h7 q hne).trans (hq q)⟩
  simp only [Dev.linkDisable, if_neg hne]
  split
  · exact hdown _ hs fun _ => rfl
  · exact hdown _ hs fun _ => rfl

theorem port_limit {s : State} {src : Src} {p : Nat} {i : Instr} (hi : i = .bbLinkEnable src p ∨ i = .bbLinkDisable src p)
    (ht : s.dev.takes i = true) : p < 8 * s.dev.n := by
  rcases hi with rfl | rfl <;> simp_all [Dev.takes, Instr.present]

/-- Settles O12. -/
theorem linkStartsAndEnds : Obligations.LinkStartsAndEnds := by
  unfold Obligations.LinkStartsAndEnds
  refine ⟨?_, ?_⟩
  · intro s p i st hi ht
    suffices ∃ e, exec i s = .next (s.after e) ∧ TrainsFrom s.dev p st e by
      obtain ⟨e, hx, h⟩ := this
      exact ⟨e, hx, h.state, h.up, h.width, h.bad, h.lock, h.step, h.rate, h.goodRx, h.replay, h.syns, h.others⟩
    rcases hi with ⟨rfl, hst, rfl⟩ | ⟨rfl, hst, rfl⟩ | ⟨src, rfl, hg, hk, hst, hen, rfl⟩
    · refine State.doesSome_perform (P := TrainsFrom s.dev p 1) (by dsimp only [exec]; rfl) ?_ ht
      have hs : s.dev.lstate p = lsDetect := hst
      simp only [Dev.tryAgain, hs, decide_true, Bool.true_or, if_true]
      exact trainStart_trains s.dev p (by decide)
    · refine State.doesSome_perform (P := TrainsFrom s.dev p 1) (by dsimp only [exec]; rfl) ?_ ht
      have hs : s.dev.lstate p = lsFailed := hst
      simp only [Dev.tryAgain, hs, decide_true, Bool.true_or, if_true]
      exact trainStart_trains s.dev p (by decide)
    · refine State.doesSome_perform (P := TrainsFrom s.dev p 2) (by dsimp only [exec]; rfl) ?_ ht
      obtain ⟨w, m, he⟩ := swCmd_linkEn 1 (port_limit (.inl rfl) ht) (by decide) hg hk
      rw [he, hen]
      refine TrainsFrom.answered ?_ src
      refine (linkEnable_disabled ?_).of_ports (port_stored _ _ m w)
      exact (fld_of_at (at_stored_ne _ m w (by simp) (by simp))).trans hst
  · intro s p i st hi ht
    suffices ∃ e, exec i s = .next (s.after e) ∧ GoesDown s.dev p st e by
      obtain ⟨e, hx, h⟩ := this
      exact ⟨e, hx, h.state, h.up, h.width, h.replay, h.waiting, h.event, h.others⟩
    rcases hi with ⟨src, rfl, hg, hk, hst, rfl⟩ | ⟨rfl, hst, hseen, rfl⟩
    · refine State.doesSome_perform (P := GoesDown s.dev p 0) (by dsimp only [exec]; rfl) ?_ ht
      obtain ⟨w, m, he⟩ := swCmd_linkEn 0 (port_limit (.inr rfl) ht) (by decide) hg hk
      rw [he]
      refine GoesDown.answered ?_ src
      have h := linkDisable_active (d := (s.dev.written src ⟨.BB_LINK_CTRL, p, 0⟩).stored ⟨.BB_LINK_CTRL, p, 0⟩ m w)
        ((fld_of_at (at_stored_ne _ m w (by simp) (by simp))).trans hst)
      exact { h with others := fun q hq => (h.others q hq).trans (port_stored _ _ m w q) }
    · refine State.doesSome_perform (P := GoesDown s.dev p 1) (by dsimp only [exec]; rfl) ?_ ht
      have hs : s.dev.lstate p = lsRetrain := hst
      simp only [Dev.partnerGone, hs, hseen, decide_true, Bool.not_false, Bool.and_true, if_true]
      exact linkDown_goesDown s.dev p (by decide) (.inr hst)

end Sys2Proof.Machine

/-! ## Levels of the Body Bus (R152, R153, R219, R220, R222) -/

namespace Sys2Proof.Machine

theorem testBit_setBit {m k j : Nat} (b : Bool) (hk : k < 32) (hj : j < 32) : (setBit m k b).testBit j = if j = k then b else m.testBit j := by
  have hsub : (2 ^ 32 - 1 - 2 ^ k).testBit j = decide (j ≠ k) := by
    interval_cases k <;> interval_cases j <;> rfl
  cases b <;> simp only [setBit, Bool.false_eq_true, if_false, if_true]
  · rw [Nat.testBit_and, hsub]
    by_cases h : j = k <;> simp [h]
  · rw [Nat.testBit_or, Nat.testBit_two_pow]
    by_cases h : j = k
    · simp [h]
    · simp [h, Ne.symm h]

theorem getLsbD_ofNat_word (m : Nat) {j : Nat} (hj : j < 32) : (BitVec.ofNat 32 m : Word).getLsbD j = m.testBit j := by
  rw [BitVec.getLsbD_ofNat]
  simp [hj]

theorem onPacket_expected {d : Dev} {p lseq : Nat} (h : d.Expects p lseq) (f : Dev → Dev) : d.onPacket p lseq f = f (d.accepted p) := by
  obtain ⟨ha, hl⟩ := h
  simp only [Dev.onPacket, Dev.linkAccept, active?_of ha, hl, Bool.not_true, Bool.false_eq_true, if_false, if_true]
  rfl

theorem send_clear {d : Dev} {p : Nat} {x : Pkt} (h : d.Clear p) : d.send p x = d.sent p x := by
  obtain ⟨ha, hw, hr⟩ := h
  exact send_now ha hw (by omega) x

theorem fits_vec {l : Nat} (hl : l ≤ 7) : (vecField l).lo ≤ (vecField l).hi ∧ (vecField l).hi < 32 ∧ (vecField l).hi + 1 - (vecField l).lo = 8 ∧
    (vecField l).reg ≠ .BB_IRQ_RX := by
  interval_cases l <;> decide

theorem irqRaise_off {d : Dev} {u : Nat} {k : IrqEntry} (h : (d.reg (irqLoc k).1 u (irqLoc k).2.2).getLsbD 31 = false) (vec : Nat) :
    d.irqRaise u k vec = d := by
  simp only [Dev.irqRaise, Dev.irqWords, h, Bool.not_false, if_true]

/-- A level raised while its entry of the map is off is held, with its vector and its method, and no more. -/
theorem rxIrq_held {d : Dev} {p l v : Nat} {roak : Bool} (h1 : 1 ≤ l) (h7 : l ≤ 7) (hv : v < 256) (hheld : (d.reg .BB_IRQ_RX p).getLsbD l = false)
    (hen : (d.reg .IRQ_BBIN_CTL (dieOf p) (p * 8 + l)).getLsbD 31 = false) :
    ((d.rxIrq p true roak l v).reg .BB_IRQ_RX p).getLsbD l = true ∧ ((d.rxIrq p true roak l v).reg .BB_IRQ_RX p).getLsbD (7 + l) = roak ∧
      (d.rxIrq p true roak l v).fld (vecField l) p = v ∧ ((d.rxIrq p true roak l v).port p).iakSent.testBit l = false := by
  have h0 : l ≠ 0 := by omega
  obtain ⟨hlo, hhi, hwidth, hreg⟩ := fits_vec h7
  have hctl : (vecField l).reg ≠ .IRQ_BBIN_CTL := by interval_cases l <;> decide
  have hoff : ∀ e : Dev, e.at ⟨.IRQ_BBIN_CTL, dieOf p, p * 8 + l⟩ = d.at ⟨.IRQ_BBIN_CTL, dieOf p, p * 8 + l⟩ →
      e.irqRaise (dieOf p) (.bbin p l) v = e := fun e he => irqRaise_off (by
    show (e.at _).getLsbD 31 = false
    rw [show irqLoc (.bbin p l) = (.IRQ_BBIN_CTL, .IRQ_BBIN_TGT, p * 8 + l) from rfl, he]
    exact hen) v
  simp only [Dev.rxIrq, h0, hheld, if_true, if_false, Bool.false_eq_true]
  rw [hoff _ ?ctl]
  case ctl =>
    rw [at_modPort, Dev.at_setFld_ne _ _ _ _ _ (by simpa using fun h => absurd h.symm hctl), at_setReg_ne _ _ _ _ _ (by simp)]
  have hrx : ∀ (c : Dev) (w : Word), (((c.setReg .BB_IRQ_RX p 0 w).setFld (vecField l) p 0 v).modPort p fun o =>
      { o with iakSent := setBit o.iakSent l false }).reg .BB_IRQ_RX p = w := fun c w => by
    rw [reg_modPort]
    exact (Dev.at_setFld_ne _ _ _ _ _ (by simpa using Ne.symm hreg)).trans (Dev.at_put_same _ _ _)
  refine ⟨?_, ?_, ?_, ?_⟩
  · rw [hrx, getLsbD_ofNat_word _ (by omega), testBit_setBit _ (by omega) (by omega), if_neg (by omega), testBit_setBit _ (by omega) (by omega),
      if_pos rfl]
  · rw [hrx, getLsbD_ofNat_word _ (by omega), testBit_setBit _ (by omega) (by omega), if_pos rfl]
  · rw [fld_modPort, Dev.fld_setFld_same _ _ _ _ _ hlo hhi, hwidth]
    exact Nat.mod_eq_of_lt hv
  · rw [port_modPort_same, testBit_setBit _ (by omega) (by omega), if_pos rfl]

/-- A level released clears it and its method. -/
theorem rxIrq_released {d : Dev} {p l v : Nat} {roak : Bool} (h1 : 1 ≤ l) (h7 : l ≤ 7) (hheld : (d.reg .BB_IRQ_RX p).getLsbD l = true) :
    ((d.rxIrq p false roak l v).reg .BB_IRQ_RX p).getLsbD l = false ∧ ((d.rxIrq p false roak l v).reg .BB_IRQ_RX p).getLsbD (7 + l) = false := by
  have h0 : l ≠ 0 := by omega
  have hrx : ∀ w, (d.setReg .BB_IRQ_RX p 0 w).reg .BB_IRQ_RX p = w := fun w => Dev.at_put_same _ _ _
  simp only [Dev.rxIrq, h0, hheld, if_true, if_false, Bool.false_eq_true, Dev.setRxLevel, hrx]
  constructor
  · rw [getLsbD_ofNat_word _ (by omega), testBit_setBit _ (by omega) (by omega), if_neg (by omega), testBit_setBit _ (by omega) (by omega),
      if_pos rfl]
  · rw [getLsbD_ofNat_word _ (by omega), testBit_setBit _ (by omega) (by omega), if_pos rfl]

theorem syncLevel_idle {d : Dev} (p l : Nat) (h : d.irqPend = []) : d.syncLevel p l = d := by
  simp [Dev.syncLevel, Dev.firstPend, h]

/-- The only level asserted is delivered; nothing waits for it. -/
theorem deliver_only {d : Dev} {p l v n : Nat} {roak : Bool} (h : (d.port p).asserted = [(l, v, n, roak)]) (hp : d.irqPend = []) :
    ((d.deliver p l false).port p).asserted = [] ∧ (d.deliver p l false).fld BB_IRQ_TX.ASSERTED p = 0 ∧ (d.deliver p l false).out = d.out := by
  have hsame : ({ d with irqPend := [] } : Dev) = d := by rw [← hp]
  have hdel : d.deliver p l false = ((d.modPort p fun o => { o with asserted := o.asserted.filter fun e => e.1 != l }).syncTx p).syncLevel p l := by
    simp only [Dev.deliver, h, hp, List.find?_cons, beq_self_eq_true, Bool.false_and, Bool.false_eq_true, if_false, List.filter_nil, hsame]
  have hgone : ((d.modPort p fun o => { o with asserted := o.asserted.filter fun e => e.1 != l }).port p).asserted = [] := by
    rw [port_modPort_same]
    simp [h]
  rw [hdel, syncLevel_idle p l (by exact hp), Dev.syncTx, hgone]
  exact ⟨hgone, fld_setFld_zero _ _ _ _ (by decide) (by decide), rfl⟩

theorem port_bound {s : State} {p : Nat} {src : Src} {l : Nat} (h : s.dev.takes (.iakSend src p l) = true) : p < 8 * s.dev.n := by
  simp_all [Dev.takes, Instr.present]

/-- An acknowledge written for a level held under the register method is sent once. -/
theorem sendIak_held {d : Dev} {p l : Nat} (hc : d.Clear p) (h1 : 1 ≤ l) (h7 : l ≤ 7) (hheld : (d.reg .BB_IRQ_RX p).getLsbD l = true)
    (hm : (d.reg .BB_IRQ_RX p).getLsbD (7 + l) = false) (hs : (d.port p).iakSent.testBit l = false) :
    d.sendIak p l = (d.sent p (.iak l (d.fld (vecField l) p))).modPort p fun o => { o with iakSent := setBit o.iakSent l true } := by
  have hbit : (d.reg .BB_IRQ_RX p).toNat.testBit l = true := hheld
  have hmeth : (d.reg .BB_IRQ_RX p).toNat.testBit (7 + l) = false := hm
  simp only [Dev.sendIak, hbit, hmeth, hs, send_clear hc, h1, h7, decide_true, Bool.and_self, Bool.not_false, Bool.false_eq_true, if_true, if_false]

/-- Settles O17. -/
theorem busInterrupts : Obligations.BusInterrupts := by
  unfold Obligations.BusInterrupts
  refine fun s p lseq l v h1 h7 => ⟨fun hexp => ⟨fun asserts roak => State.does_perform (by dsimp only [exec]; rfl) (onPacket_expected hexp _),
    State.does_perform (by dsimp only [exec]; rfl) (onPacket_expected hexp _),
    fun roak hheld hen ht => State.doesSome_perform (by dsimp only [exec]; rfl) ?held ht,
    fun roak hheld => State.doesSome_perform (by dsimp only [exec]; rfl) ?released,
    fun hnone => State.does_perform (by dsimp only [exec]; rfl) ?stale,
    fun n hone hpend => State.doesSome_perform (by dsimp only [exec]; rfl) ?delivered⟩,
    fun src hc hg hheld hm hs ht => State.does_perform (by dsimp only [exec]; rfl) ?send ht⟩
  case held =>
    have hv : v < 256 := by simp_all [Dev.takes, Instr.wf]
    rw [onPacket_expected hexp]
    exact rxIrq_held (d := s.dev.accepted p) h1 h7 hv hheld hen
  case released =>
    rw [onPacket_expected hexp]
    exact rxIrq_released (d := s.dev.accepted p) h1 h7 hheld
  case stale =>
    have h0 : l ≠ 0 := by omega
    have ha : ((s.dev.accepted p).port p).asserted = [] := by rw [Dev.accepted, Dev.modLink, port_modPort_same]; exact hnone
    rw [onPacket_expected hexp]
    simp only [Dev.rxIak, h0, ha, List.find?_nil, if_false]
  case delivered =>
    have h0 : l ≠ 0 := by omega
    have ha : ((s.dev.accepted p).port p).asserted = [(l, v, n, true)] := by rw [Dev.accepted, Dev.modLink, port_modPort_same]; exact hone
    rw [onPacket_expected hexp]
    have hiak : (s.dev.accepted p).rxIak p l v = (s.dev.accepted p).deliver p l false := by
      simp [Dev.rxIak, h0, ha]
    rw [hiak]
    exact deliver_only ha hpend
  case send =>
    rw [swCmd_trigger (fits_tile rfl (by decide) rfl (port_bound ht)) (show RegId.BB_IRQ_IAK.trigger = true by decide) hg]
    have hl : bitsOf (putBits (0 : Word) 2 0 l) 2 0 = l := by
      rw [bitsOf_putBits_same _ _ (by decide) (by decide)]
      exact Nat.mod_eq_of_lt (by omega)
    have hw : (s.dev.written src ⟨.BB_IRQ_IAK, p, 0⟩).writeHook s.locks src ⟨.BB_IRQ_IAK, p, 0⟩ (lockOf s.locks ⟨.BB_IRQ_IAK, p, 0⟩)
        (s.dev.at ⟨.BB_IRQ_IAK, p, 0⟩) (putBits 0 2 0 l) = (false, (s.dev.written src ⟨.BB_IRQ_IAK, p, 0⟩).sendIak p l) := by
      simp only [Dev.writeHook, hl]
    rw [hw, sendIak_held (d := s.dev.written src ⟨.BB_IRQ_IAK, p, 0⟩) hc h1 h7 hheld hm hs]
    rfl

end Sys2Proof.Machine

/-! ## Queues that lose their items (R265, R266, R268) -/

namespace Sys2Proof.Machine

theorem fits_die {r : RegId} {u i n : Nat} (hb : r.spec.block = .die) (hi : i < dimCount r.spec.dims) (hp : r.present n i = true) (hu : u < n) :
    Loc.fits ⟨r, u, i⟩ n = true := by
  simp only [Loc.fits, Bool.and_eq_true, decide_eq_true_eq, hb]
  exact ⟨⟨hi, hp⟩, hu⟩

theorem queue_limit {s : State} {src : Src} {x q : Nat} (ht : s.dev.takes (.queueFlush src x q) = true) : x < s.dev.n ∧ q < 64 := by
  simp_all [Dev.takes, Instr.wf, Instr.present]

theorem swCmd_queueCtl {d : Dev} {L : Locks} {src : Src} {x q : Nat} (hx : x < d.n) (hq : q < 64) (hg : d.lets src ⟨.DIE_Q_CTL, x, q⟩ = true) :
    d.swCmd L src ⟨.DIE_Q_CTL, x, q⟩ (fun c => putBits c 0 0 1) = ((d.written src ⟨.DIE_Q_CTL, x, q⟩).queueFlush x q).answered src := by
  rw [swCmd_trigger (fits_die rfl hq rfl hx) (show RegId.DIE_Q_CTL.trigger = true by decide) hg]
  rfl

/-- A queue of records is emptied by a flush, what it held counted as lost. -/
theorem queueFlush_records {d : Dev} {x q : Nat} (hq : q = 60 ∨ q = 61) :
    d.queueFlush x q = (d.countLost x q (d.queue x q).count).modQueue x q fun s => s.flush (queueCap q) := by
  rcases hq with rfl | rfl <;> rfl

/-- Flushes reach the queues of records alone. -/
theorem queueFlush_other (d : Dev) (x : Nat) {q : Nat} (hq : q < 60 ∨ q = 62) : d.queueFlush x q = d := by
  have hrow : (queueRow q).flushable = false := by
    rcases hq with h | rfl
    · unfold queueRow
      repeat' split
      all_goals rfl
    · rfl
  simp only [Dev.queueFlush, hrow, Bool.not_false, if_true]

theorem letIn_idle (cap k : Nat) {s : QState} (h : s.held = []) : QState.letIn cap k s = s := by
  cases k with
  | zero => rfl
  | succ k => simp only [QState.letIn, h]

theorem flush_idle {s : QState} (cap : Nat) (h : s.held = []) : s.flush cap = { s.emptied with popped := s.pushed, rd := s.wr } :=
  letIn_idle cap _ h

theorem mismatch_idle {s : QState} (cap : Nat) (h : s.held = []) :
    s.mismatch cap = { s.emptied with pushed := 0, popped := 0, wr := (0, 0), rd := (0, 0), extra := 0 } :=
  letIn_idle cap _ h

theorem queue_countLost (d : Dev) (x q k y r : Nat) : (d.countLost x q k).queue y r = d.queue y r := by
  unfold Dev.countLost
  repeat' split
  all_goals rfl

/-- What a queue of records loses is counted in its own field (R266). -/
theorem fld_countLost (d : Dev) (x k : Nat) {q : Nat} (hq : q = 60 ∨ q = 61) :
    (d.countLost x q k).fld ERR_STAT.LOST 0 x = (if q = 60 then min (d.fld ERR_STAT.LOST 0 x + k) 65535 else d.fld ERR_STAT.LOST 0 x) ∧
      (d.countLost x q k).fld TC_PFD_STAT.LOST x = (if q = 61 then min (d.fld TC_PFD_STAT.LOST x + k) 65535 else d.fld TC_PFD_STAT.LOST x) := by
  rcases hq with rfl | rfl
  · exact ⟨fld_bumpBy_same d ERR_STAT.LOST 0 x k (by decide) (by decide), Dev.fld_setFld_ne _ _ _ _ _ _ _ _ (by simp)⟩
  · exact ⟨Dev.fld_setFld_ne _ _ _ _ _ _ _ _ (by simp), fld_bumpBy_same d TC_PFD_STAT.LOST x 0 k (by decide) (by decide)⟩

theorem fld_countLost_ne (d : Dev) (x q k : Nat) {f : Fld} {u i : Nat} (h : f.reg ∉ [.ERR_STAT, .TC_PFD_STAT, .EVQ_STAT]) :
    (d.countLost x q k).fld f u i = d.fld f u i := by
  have hne : ∀ (g : Fld) (v w : Nat), g.reg ∈ [RegId.ERR_STAT, .TC_PFD_STAT, .EVQ_STAT] → (d.bumpBy g v w k).fld f u i = d.fld f u i := fun g v w hg =>
    Dev.fld_setFld_ne _ _ _ _ _ _ _ _ fun he => h (by rw [show f.reg = g.reg from congrArg Loc.reg he]; exact hg)
  unfold Dev.countLost
  repeat' split
  · exact hne _ _ _ (by simp)
  · exact hne _ _ _ (by simp)
  · exact hne _ _ _ (by simp)
  · rfl

/-- A queue of records reset after a mismatch of its pointers: counted, with an event, what it held lost. -/
theorem queueMismatch_records (d : Dev) (x : Nat) {q : Nat} (hq : q = 60 ∨ q = 61) :
    d.queueMismatch x q = (((d.bump DIE_Q_STAT.MISMATCH x q).raise x evQueue ⟨.DIE_Q_STAT, x, q⟩ DIE_Q_STAT.MISMATCH.lo q).countLost x q
      (((d.bump DIE_Q_STAT.MISMATCH x q).raise x evQueue ⟨.DIE_Q_STAT, x, q⟩ DIE_Q_STAT.MISMATCH.lo q).queue x q).count).modQueue x q fun s =>
        s.mismatch (queueCap q) := by
  unfold Dev.queueMismatch
  rcases hq with rfl | rfl
  · generalize (d.bump DIE_Q_STAT.MISMATCH x 60).raise x evQueue ⟨.DIE_Q_STAT, x, 60⟩ DIE_Q_STAT.MISMATCH.lo 60 = c
    simp
  · generalize (d.bump DIE_Q_STAT.MISMATCH x 61).raise x evQueue ⟨.DIE_Q_STAT, x, 61⟩ DIE_Q_STAT.MISMATCH.lo 61 = c
    simp

theorem queue_raise_ne (d : Dev) (x cls : Nat) (l : Loc) (bit source : Nat) {y q : Nat} (h : q ≠ 62) :
    (d.raise x cls l bit source).queue y q = d.queue y q :=
  Store.get_set_ne _ _ (by simp [h]) _ _

/-- A queue of records that holds items and has a tail gives its notice once. -/
theorem tailNotice_records {d : Dev} {x q : Nat} (hq : q = 60 ∨ q = 61) (hi : (d.queue x q).items ≠ []) (ht : d.fld DIE_Q_CFG.TAIL x q ≠ 0) :
    d.tailNotice x q = if (d.queue x q).noticed then d else
      ((d.setFld DIE_Q_STAT.TAIL x q 1).modQueue x q fun k => { k with noticed := true }).raise x evQueue ⟨.DIE_Q_STAT, x, q⟩ 3 q := by
  have hseen : d.queueSeen x q = d.queue x q := by rcases hq with rfl | rfl <;> rfl
  have htail : d.queueTail x q = d.fld DIE_Q_CFG.TAIL x q := by rcases hq with rfl | rfl <;> rfl
  have he : (d.queue x q).items.isEmpty = false := by simpa using hi
  have hz : (d.fld DIE_Q_CFG.TAIL x q == 0) = false := by simpa using ht
  have hring : (decide (32 ≤ q) && decide (q < 48)) = false := by rcases hq with rfl | rfl <;> rfl
  have h63 : q ≠ 63 := by rcases hq with rfl | rfl <;> decide
  simp only [Dev.tailNotice, hseen, htail, he, hz, hring, h63, Bool.false_or, Bool.or_false, Bool.false_eq_true, if_false]

theorem queue_answered (d : Dev) (src : Src) (x q : Nat) : (d.answered src).queue x q = d.queue x q := by
  unfold Dev.answered
  repeat' split
  all_goals rfl

/-- Settles O25. -/
theorem queuesLoseItems : Obligations.QueuesLoseItems := by
  unfold Obligations.QueuesLoseItems
  refine fun s src x => ⟨fun q hq hh hg ht => State.doesSome_perform (by dsimp only [exec]; rfl) ?flush ht,
    fun q hq hg ht => State.does_perform (by dsimp only [exec]; rfl) ?other ht,
    fun q => ⟨fun hr => State.does_perform (by dsimp only [exec]; rfl) (timed_runs hr _), State.does_perform (by dsimp only [exec]; rfl) rfl⟩,
    fun q hq hr hi ht => ⟨fun hn => State.does_perform (by dsimp only [exec]; rfl) ?notice, fun hn => State.does_perform (by dsimp only [exec]; rfl) ?again⟩,
    fun q hq hh => State.doesSome_perform (by dsimp only [exec]; rfl) ?mismatch⟩
  case flush =>
    obtain ⟨hx, hlim⟩ := queue_limit ht
    rw [swCmd_queueCtl hx hlim hg, queueFlush_records hq]
    obtain ⟨herr, hpfd⟩ := fld_countLost (s.dev.written src ⟨.DIE_Q_CTL, x, q⟩) x ((s.dev.written src ⟨.DIE_Q_CTL, x, q⟩).queue x q).count hq
    have hqs : (((((s.dev.written src ⟨.DIE_Q_CTL, x, q⟩).countLost x q ((s.dev.written src ⟨.DIE_Q_CTL, x, q⟩).queue x q).count).modQueue x q
        fun s => s.flush (queueCap q)).answered src).queue x q) =
          { (s.dev.queue x q).emptied with popped := (s.dev.queue x q).pushed, rd := (s.dev.queue x q).wr } := by
      rw [queue_answered, queue_modQueue_same, queue_countLost]
      exact flush_idle _ hh
    rw [hqs]
    refine ⟨rfl, rfl, rfl, rfl, (fld_of_at (at_answered _ src _)).trans herr, (fld_of_at (at_answered _ src _)).trans hpfd⟩
  case other =>
    obtain ⟨hx, hlim⟩ := queue_limit ht
    rw [swCmd_queueCtl hx hlim hg, queueFlush_other _ x hq]
  case notice =>
    rw [timed_runs hr, tailNotice_records hq hi ht, hn]
    rfl
  case again =>
    rw [timed_runs hr, tailNotice_records hq hi ht, hn]
    rfl
  case mismatch =>
    have h62 : q ≠ 62 := by rcases hq with rfl | rfl <;> decide
    rw [queueMismatch_records _ x hq]
    have hqs : ∀ c : Dev, c.queue x q = s.dev.queue x q → ((c.countLost x q (c.queue x q).count).modQueue x q fun s => s.mismatch (queueCap q)).queue x q =
        { (s.dev.queue x q).emptied with pushed := 0, popped := 0, wr := (0, 0), rd := (0, 0), extra := 0 } := fun c hc => by
      rw [queue_modQueue_same, queue_countLost, hc]
      exact mismatch_idle _ hh
    rw [hqs ((s.dev.bump DIE_Q_STAT.MISMATCH x q).raise x evQueue ⟨.DIE_Q_STAT, x, q⟩ DIE_Q_STAT.MISMATCH.lo q) (queue_raise_ne _ _ _ _ _ _ h62)]
    refine ⟨rfl, rfl, rfl, ?_⟩
    rw [fld_modQueue, fld_countLost_ne _ _ _ _ (by simp), fld_raise, fld_bump_same _ _ _ _ (by decide) (by decide), satInc]
    exact Nat.mod_eq_of_lt (Nat.lt_succ_of_le (min_le_right _ _))

end Sys2Proof.Machine

/-! ## Bonds (R344, R345, R350, R351) -/

namespace Sys2Proof.Machine

theorem getLsbD_merged (old v m : Word) (k : Nat) : (merged old v m).getLsbD k = if m.getLsbD k then v.getLsbD k else old.getLsbD k := by
  by_cases hk : k < 32
  · rw [merged, BitVec.getLsbD_or, BitVec.getLsbD_and, BitVec.getLsbD_and, BitVec.getLsbD_not]
    cases m.getLsbD k <;> simp [hk]
  · simp [BitVec.getLsbD_of_ge _ k (Nat.not_lt.mp hk)]

/-- A field whose bits a write may set takes those of the value written. -/
theorem bitsOf_merged_in (old v : Word) {m : Word} {hi lo : Nat} (h : ∀ k < hi + 1 - lo, m.getLsbD (lo + k) = true) :
    bitsOf (merged old v m) hi lo = bitsOf v hi lo := by
  apply Nat.eq_of_testBit_eq
  intro k
  rw [bitsOf_testBit, bitsOf_testBit]
  by_cases hk : k < hi + 1 - lo
  · rw [getLsbD_merged, h k hk, if_pos rfl]
  · simp [hk]

/-- A field none of whose bits a write may set stays. -/
theorem bitsOf_merged_out (old v : Word) {m : Word} {hi lo : Nat} (h : ∀ k < hi + 1 - lo, m.getLsbD (lo + k) = false) :
    bitsOf (merged old v m) hi lo = bitsOf old hi lo := by
  apply Nat.eq_of_testBit_eq
  intro k
  rw [bitsOf_testBit, bitsOf_testBit]
  by_cases hk : k < hi + 1 - lo
  · rw [getLsbD_merged, h k hk, if_neg Bool.false_ne_true]
  · simp [hk]

/-- The bits of TIL_BOND that a write may set: EN and MATE. -/
def bondMask : Word := 0x8000003F#32

theorem setMask_bond (d : Dev) (src : Src) (p : Nat) (locked : Bool) : d.setMask src ⟨.TIL_BOND, p, 0⟩ locked = bondMask := by
  have hw : RegId.TIL_BOND.writable locked = bondMask := by cases locked <;> decide
  have hm : RegId.TIL_BOND.isMail = false := by decide
  have hf : RegId.TIL_BOND.isFlash = false := by decide
  simp only [Dev.setMask, hw, hm, hf, Dev.presentMask]
  simp
  decide

/-- A write of TIL_BOND that is let through stores EN and MATE and has the bond follow. -/
theorem busWrite_bond {d : Dev} {L : Locks} {src : Src} {p v : Nat} (hp : p < 8 * d.n) (hg : d.lets src ⟨.TIL_BOND, p, 0⟩ = true) (at_ : Nat) :
    d.busWrite L src (Loc.offset ⟨.TIL_BOND, p, 0⟩) 4 15 v at_ =
      (((d.written src ⟨.TIL_BOND, p, 0⟩).stored ⟨.TIL_BOND, p, 0⟩ bondMask (BitVec.ofNat 32 v)).bondWritten p (d.mate p)).answered src := by
  have hl : locate d.n (Loc.offset ⟨.TIL_BOND, p, 0⟩) = some ⟨.TIL_BOND, p, 0⟩ := locate_offset (fits_tile rfl (by decide) rfl hp)
  rw [busWrite_word hg (offset_word _) hl rfl, writeCourse_plain (d := d.served src _) hl rfl (by rfl)]
  have hk : RegId.TIL_BOND.isLk = false := by decide
  have hw : ∀ (e : Dev) (old w : Word), e.writeHook L src ⟨.TIL_BOND, p, 0⟩ (lockOf L ⟨.TIL_BOND, p, 0⟩) old w = (false, e.bondWritten p (bitsOf old 5 0)) :=
    fun e old w => by simp only [Dev.writeHook]
  simp only [setMask_bond, hw, Dev.lockHit, hk, Bool.false_and, cond_false]
  rfl

/-! What follows a bond -/

theorem at_setBond_ne (d : Dev) (q st : Nat) (a : Bool) {l : Loc} (h : l ≠ ⟨.TIL_BOND, q, 0⟩) : (d.setBond q st a).at l = d.at l := by
  have : ∀ v w, ((d.setFld TIL_BOND.STATE q 0 v).setFld TIL_BOND.ANCHOR q 0 w).at l = d.at l := fun v w =>
    (Dev.at_setFld_ne _ _ _ _ _ h).trans (Dev.at_setFld_ne _ _ _ _ _ h)
  unfold Dev.setBond
  dsimp only
  split
  · exact this _ _
  · rw [at_raise]
    exact this _ _

theorem port_setBond (d : Dev) (q st : Nat) (a : Bool) (p : Nat) : (d.setBond q st a).port p = d.port p := by
  unfold Dev.setBond
  dsimp only
  split
  · rw [port_setFld, port_setFld]
  · rw [port_raise, port_setFld, port_setFld]

theorem fld_setBond_same (d : Dev) (q st : Nat) (a : Bool) (f : Fld) :
    (d.setBond q st a).fld f q = ((d.setFld TIL_BOND.STATE q 0 st).setFld TIL_BOND.ANCHOR q 0 (if a then 1 else 0)).fld f q := by
  unfold Dev.setBond
  dsimp only
  split
  · rfl
  · rw [fld_raise]

/-- EN, MATE and CFG_REFUSED are software's. -/
theorem fld_setBond_kept (d : Dev) (q st : Nat) (a : Bool) {f : Fld} (h : f ∈ [TIL_BOND.EN, TIL_BOND.MATE, TIL_BOND.CFG_REFUSED]) (p : Nat) :
    (d.setBond q st a).fld f p = d.fld f p := by
  simp only [List.mem_cons, List.not_mem_nil, or_false] at h
  by_cases hp : p = q
  · subst hp
    rcases h with rfl | rfl | rfl <;>
      rw [fld_setBond_same, Dev.fld_setFld_beside _ _ _ _ _ _ (by rfl) (by decide) (by decide),
        Dev.fld_setFld_beside _ _ _ _ _ _ (by rfl) (by decide) (by decide)]
  · have hreg : f.reg = .TIL_BOND := by rcases h with rfl | rfl | rfl <;> rfl
    exact fld_of_at (at_setBond_ne d q st a (by simp [hp]))

theorem fld_setBond_state (d : Dev) (q : Nat) {st : Nat} (h : st < 4) (a : Bool) : (d.setBond q st a).fld TIL_BOND.STATE q = st := by
  rw [fld_setBond_same, Dev.fld_setFld_beside _ _ _ _ _ _ (by rfl) (by decide) (by decide),
    Dev.fld_setFld_same _ _ _ _ _ (by decide) (by decide)]
  exact Nat.mod_eq_of_lt h

theorem fld_setBond_anchor (d : Dev) (q st : Nat) (a : Bool) : (d.setBond q st a).fld TIL_BOND.ANCHOR q = if a then 1 else 0 := by
  rw [fld_setBond_same, Dev.fld_setFld_same _ _ _ _ _ (by decide) (by decide)]
  cases a <;> rfl

theorem not_moving {d : Dev} {p : Nat} (h : d.tileServing p = true) : d.moving p = false := by
  have h0 : d.fld TIL_SVC_STAT.STATE p = 0 := by simpa [Dev.tileServing] using h
  simp [Dev.moving, h0]

theorem not_mutual_off {d : Dev} {p : Nat} (h : d.flag TIL_BOND.EN p = false) : d.mutual p = false := by simp [Dev.mutual, h]

theorem not_mutual_mate {d : Dev} {p : Nat} (h : d.flag TIL_BOND.EN (d.mate p) = false) : d.mutual p = false := by simp [Dev.mutual, h]

/-- A tile whose bond is off and NONE stays so while the bonds of other tiles, or its own, follow their conditions. -/
theorem bondSync_off {d : Dev} {p : Nat} (h : d.flag TIL_BOND.EN p = false) (hs : d.fld TIL_BOND.STATE p = 0) (q : Nat) :
    (d.bondSync q).at ⟨.TIL_BOND, p, 0⟩ = d.at ⟨.TIL_BOND, p, 0⟩ := by
  unfold Dev.bondSync
  dsimp only
  split
  · rfl
  · split
    next hm =>
      simp only [Dev.mutual, Bool.and_eq_true] at hm
      obtain ⟨⟨⟨hq, hmq⟩, -⟩, -⟩ := hm
      have h1 : p ≠ q := fun he => by rw [← he, h] at hq; exact absurd hq Bool.false_ne_true
      have h2 : p ≠ d.mate q := fun he => by rw [← he, h] at hmq; exact absurd hmq Bool.false_ne_true
      rw [at_setBond_ne _ _ _ _ (by simp [h2]), at_setBond_ne _ _ _ _ (by simp [h1])]
    · split
      next h2 =>
        have hne : p ≠ q := fun he => by rw [← he, hs] at h2; omega
        split
        · exact at_setBond_ne _ _ _ _ (by simp [hne])
        · rfl
      · rfl

/-- A bond that is off and NONE is left by all that follows a write. -/
theorem bondSyncs_off {d : Dev} {p : Nat} (h : d.flag TIL_BOND.EN p = false) (hs : d.fld TIL_BOND.STATE p = 0) (q r t : Nat) :
    (((d.bondSync q).bondSync r).bondSync t).at ⟨.TIL_BOND, p, 0⟩ = d.at ⟨.TIL_BOND, p, 0⟩ := by
  have h1 := bondSync_off h hs q
  have h2 := bondSync_off ((flag_of_at (f := TIL_BOND.EN) h1).trans h) ((fld_of_at (f := TIL_BOND.STATE) h1).trans hs) r
  have h12 := h2.trans h1
  exact (bondSync_off ((flag_of_at (f := TIL_BOND.EN) h12).trans h) ((fld_of_at (f := TIL_BOND.STATE) h12).trans hs) _).trans h12

/-- A write of EN that names the tile itself or a tile of its die that is not its partner is refused. -/
theorem bondWritten_refused {d : Dev} {p m : Nat} (o : Nat) (hen : d.flag TIL_BOND.EN p = true) (hm : d.mate p = m)
    (hbad : m = p ∨ dieOf m = dieOf p ∧ m ≠ partnerTile p) (hs : d.fld TIL_BOND.STATE p = 0) :
    (d.bondWritten p o).fld TIL_BOND.EN p = 0 ∧ (d.bondWritten p o).fld TIL_BOND.CFG_REFUSED p = 1 ∧ (d.bondWritten p o).fld TIL_BOND.STATE p = 0 := by
  have hb : (d.flag TIL_BOND.EN p && (m == p || decide (8 * d.n ≤ m) || (dieOf m == dieOf p && m != partnerTile p))) = true := by
    rcases hbad with h | ⟨h, hne⟩ <;> simp [hen, h]
    simp [hne]
  have hen' : ((d.setFld TIL_BOND.EN p 0 0).setFld TIL_BOND.CFG_REFUSED p 0 1).fld TIL_BOND.EN p = 0 := by
    rw [Dev.fld_setFld_beside _ _ _ _ _ _ (by rfl) (by decide) (by decide), fld_setFld_zero _ _ _ _ (by decide) (by decide)]
  have hst' : ((d.setFld TIL_BOND.EN p 0 0).setFld TIL_BOND.CFG_REFUSED p 0 1).fld TIL_BOND.STATE p = 0 := by
    rw [Dev.fld_setFld_beside _ _ _ _ _ _ (by rfl) (by decide) (by decide), Dev.fld_setFld_beside _ _ _ _ _ _ (by rfl) (by decide) (by decide), hs]
  have hcfg' : ((d.setFld TIL_BOND.EN p 0 0).setFld TIL_BOND.CFG_REFUSED p 0 1).fld TIL_BOND.CFG_REFUSED p = 1 :=
    Dev.fld_setFld_same _ _ _ _ _ (by decide) (by decide)
  simp only [Dev.bondWritten, hm, hb, if_true]
  generalize (d.setFld TIL_BOND.EN p 0 0).setFld TIL_BOND.CFG_REFUSED p 0 1 = c at *
  have hoff : c.flag TIL_BOND.EN p = false := by simp [Dev.flag, hen']
  simp only [hoff, hst', Bool.false_and, Bool.not_false, Bool.true_and, Nat.reduceBEq, Bool.false_eq_true, if_false]
  have hat := bondSyncs_off hoff hst' p o (c.mate p)
  exact ⟨(fld_of_at hat).trans hen', (fld_of_at hat).trans hcfg', (fld_of_at hat).trans hst'⟩

/-- A bond that is off does not last: without work at either tile it is NONE. -/
theorem bondWritten_broken {d : Dev} {p m : Nat} (o : Nat) (hen : d.flag TIL_BOND.EN p = false) (hm : d.mate p = m)
    (hq : ∀ q : Nat, q = p ∨ q = m → d.tileServing q = true ∧ (d.port q).works = [] ∧ (d.port q).outOpen = none)
    (hs : 1 ≤ d.fld TIL_BOND.STATE p) :
    (d.bondWritten p o).fld TIL_BOND.EN p = 0 ∧ (d.bondWritten p o).fld TIL_BOND.STATE p = 0 ∧ (d.bondWritten p o).fld TIL_BOND.MATE p = m := by
  simp only [Dev.bondWritten, hen, Bool.false_and, Bool.false_eq_true, if_false, Bool.not_false, Bool.true_and]
  have hbond : ∀ t : Nat, (d.setBond p 0 false).fld TIL_BOND.EN t = d.fld TIL_BOND.EN t ∧ (d.setBond p 0 false).fld TIL_BOND.MATE t = d.fld TIL_BOND.MATE t :=
    fun t => ⟨fld_setBond_kept _ _ _ _ (by simp) t, fld_setBond_kept _ _ _ _ (by simp) t⟩
  have hen0 : d.fld TIL_BOND.EN p = 0 := by simpa [Dev.flag] using hen
  have hfin : ∀ c : Dev, c.fld TIL_BOND.EN p = 0 → c.fld TIL_BOND.STATE p = 0 → c.fld TIL_BOND.MATE p = m → ∀ r t : Nat,
      ((c.bondSync r).bondSync t).fld TIL_BOND.EN p = 0 ∧ ((c.bondSync r).bondSync t).fld TIL_BOND.STATE p = 0 ∧
        ((c.bondSync r).bondSync t).fld TIL_BOND.MATE p = m := fun c he hst hmate r t => by
    have h1 := bondSync_off (p := p) (by simp [Dev.flag, he]) hst r
    have h2 := (bondSync_off (p := p) (by simp [Dev.flag, fld_of_at (f := TIL_BOND.EN) h1, he]) ((fld_of_at (f := TIL_BOND.STATE) h1).trans hst) t).trans h1
    exact ⟨(fld_of_at h2).trans he, (fld_of_at h2).trans hst, (fld_of_at h2).trans hmate⟩
  split
  next h1 =>
    have hst0 := fld_setBond_state d p (st := 0) (by decide) false
    have h0 := bondSync_off (d := d.setBond p 0 false) (p := p) (by simp [Dev.flag, (hbond p).1, hen0]) hst0 p
    exact hfin _ ((fld_of_at h0).trans ((hbond p).1.trans hen0)) ((fld_of_at h0).trans hst0) ((fld_of_at h0).trans ((hbond p).2.trans hm)) _ _
  next h1 =>
    have hsync : d.bondSync p = d.setBond p 0 false := by
      have h2 : 2 ≤ d.fld TIL_BOND.STATE p := by
        have : d.fld TIL_BOND.STATE p ≠ 1 := by simpa using h1
        omega
      obtain ⟨hserve, hworks, hopen⟩ := hq p (.inl rfl)
      obtain ⟨-, hworks', -⟩ := hq m (.inr rfl)
      simp only [Dev.bondSync, hm, not_moving hserve, hen, not_mutual_off hen, h2, hworks, hworks', hopen, Bool.false_and, Bool.or_false,
        Bool.false_eq_true, if_false, if_true, List.isEmpty_nil, Option.isNone_none, Bool.and_self]
    rw [hsync]
    exact hfin _ ((hbond p).1.trans hen0) (fld_setBond_state d p (by decide) false) ((hbond p).2.trans hm) _ _

theorem partnerTile_facts (p : Nat) : partnerTile p ≠ p ∧ dieOf (partnerTile p) = dieOf p ∧ p ^^^ 1 = partnerTile p := by
  have hx : p ^^^ 1 = partnerTile p := by
    unfold partnerTile
    split
    next h => rw [Nat.xor_one_of_even (Nat.even_iff.mpr h)]
    next h => rw [Nat.xor_one_of_odd (Nat.odd_iff.mpr (by omega))]
  refine ⟨?_, ?_, hx⟩ <;> simp only [partnerTile, dieOf] <;> split <;> omega

/-- The mate of a tile that is its partner is good. -/
theorem mate_partner_good {d : Dev} {p : Nat} (hp : p < 8 * d.n) :
    (partnerTile p == p || decide (8 * d.n ≤ partnerTile p) || (dieOf (partnerTile p) == dieOf p && partnerTile p != partnerTile p)) = false := by
  obtain ⟨hne, hdie, -⟩ := partnerTile_facts p
  have hlt : ¬ 8 * d.n ≤ partnerTile p := by
    simp only [dieOf] at hdie
    omega
  simp [hne, hlt]

/-- A bond whose other tile is off waits. -/
theorem bondSync_waits {d : Dev} {q : Nat} (hm : d.flag TIL_BOND.EN q = false ∨ d.flag TIL_BOND.EN (d.mate q) = false)
    (hs : d.fld TIL_BOND.STATE q < 2) : d.bondSync q = d := by
  have hmut : d.mutual q = false := hm.elim not_mutual_off not_mutual_mate
  have h2 : ¬ 2 ≤ d.fld TIL_BOND.STATE q := by omega
  simp only [Dev.bondSync, hmut, h2, Bool.false_eq_true, if_false, ite_self]

/-- EN written for a pair whose other tile is off leaves the bond FORMING. -/
theorem bondWritten_forming {d : Dev} {p m : Nat} (hp : p < 8 * d.n) (hpm : m = partnerTile p) (hen : d.flag TIL_BOND.EN p = true) (hm : d.mate p = m)
    (hs : d.fld TIL_BOND.STATE p = 0) (hoff : d.flag TIL_BOND.EN m = false) (hms : d.fld TIL_BOND.STATE m = 0) :
    d.bondWritten p m = d.setBond p 1 false := by
  have hne : m ≠ p := hpm ▸ (partnerTile_facts p).1
  have hmate : (d.setBond p 1 false).mate p = m := (fld_setBond_kept d p 1 false (by simp) p).trans hm
  have hoff' : (d.setBond p 1 false).flag TIL_BOND.EN m = false := by
    rw [Dev.flag, fld_setBond_kept d p 1 false (by simp) m]; exact hoff
  have hst : (d.setBond p 1 false).fld TIL_BOND.STATE m = 0 := (fld_of_at (at_setBond_ne d p 1 false (by simp [hne]))).trans hms
  have hp1 : (d.setBond p 1 false).bondSync p = d.setBond p 1 false :=
    bondSync_waits (.inr (by rw [hmate]; exact hoff')) (by rw [fld_setBond_state d p (by decide)]; decide)
  have hm1 : (d.setBond p 1 false).bondSync m = d.setBond p 1 false := bondSync_waits (.inl hoff') (by rw [hst]; decide)
  have hbad := mate_partner_good hp
  rw [← hpm] at hbad
  simp only [Dev.bondWritten, hm, hen, hs, hbad, ← hpm, beq_self_eq_true, Bool.and_false, Bool.and_self, Bool.false_eq_true, if_false, if_true, hp1, hm1,
    hmate]

/-- Two tiles whose bond is whole: each names the other, both serve, both ports are ACTIVE. -/
structure Paired (d : Dev) (p m : Nat) : Prop where
  ne : p ≠ m
  en : d.flag TIL_BOND.EN p = true
  enMate : d.flag TIL_BOND.EN m = true
  mate : d.mate p = m
  back : d.mate m = p
  serves : ∀ q : Nat, q = p ∨ q = m → d.tileServing q = true ∧ d.active? q = true

theorem Paired.symm {d : Dev} {p m : Nat} (h : Paired d p m) : Paired d m p :=
  ⟨h.ne.symm, h.enMate, h.en, h.back, h.mate, fun q hq => h.serves q hq.symm⟩

theorem Paired.setBond {d : Dev} {p m : Nat} (h : Paired d p m) (q st : Nat) (a : Bool) : Paired (d.setBond q st a) p m := by
  have hat : ∀ (l : Loc), l.reg ≠ .TIL_BOND → (d.setBond q st a).at l = d.at l := fun l hl => at_setBond_ne _ _ _ _ (by rintro rfl; exact hl rfl)
  have hen : ∀ t, (d.setBond q st a).flag TIL_BOND.EN t = d.flag TIL_BOND.EN t := fun t => by rw [Dev.flag, fld_setBond_kept _ _ _ _ (by simp)]; rfl
  have hmate : ∀ t, (d.setBond q st a).mate t = d.mate t := fun t => fld_setBond_kept _ _ _ _ (by simp) t
  refine ⟨h.ne, (hen p).trans h.en, (hen m).trans h.enMate, (hmate p).trans h.mate, (hmate m).trans h.back, fun t ht => ?_⟩
  obtain ⟨h1, h2⟩ := h.serves t ht
  rw [Dev.tileServing, fld_of_at (f := TIL_SVC_STAT.STATE) (hat _ (by simp)), Dev.active?, Dev.lstate,
    fld_of_at (f := BB_LINK_STAT.STATE) (hat _ (by simp))]
  exact ⟨h1, h2⟩

theorem Paired.bondState {d : Dev} {p m : Nat} (h : Paired d p m) : d.bondState p = 2 := by
  obtain ⟨h1, h2⟩ := h.serves p (.inl rfl)
  obtain ⟨h3, h4⟩ := h.serves m (.inr rfl)
  simp [Dev.bondState, h.mate, h1, h2, h3, h4]

theorem Paired.bondAnchor {d : Dev} {p m : Nat} (h : Paired d p m) : d.bondAnchor p = decide (p < m) := by
  simp [Dev.bondAnchor, h.bondState, h.mate]

/-- A whole bond reads BONDED at both tiles, the lower one the anchor. -/
theorem Paired.bondSync {d : Dev} {p m : Nat} (h : Paired d p m) :
    d.bondSync p = (d.setBond p 2 (decide (p < m))).setBond m 2 (decide (m < p)) := by
  obtain ⟨h1, -⟩ := h.serves p (.inl rfl)
  obtain ⟨h3, -⟩ := h.serves m (.inr rfl)
  have hmut : d.mutual p = true := by simp [Dev.mutual, h.en, h.mate, h.enMate, h.back, h.ne.symm]
  simp only [Dev.bondSync, h.mate, not_moving h1, not_moving h3, hmut, h.bondState, h.bondAnchor, (h.setBond p 2 _).symm.bondAnchor, Bool.and_false,
    Bool.or_self, Bool.false_eq_true, if_false, if_true]

theorem fld_of_flag {d : Dev} {f : Fld} {u i : Nat} (hf : f.hi = f.lo) (h : d.flag f u i = true) : d.fld f u i = 1 := by
  have hlt : d.fld f u i < 2 := by
    have := Nat.mod_lt ((d.reg f.reg u i).toNat / 2 ^ f.lo) (show 0 < 2 ^ (f.lo + 1 - f.lo) by positivity)
    rw [Dev.fld, bitsOf, hf]
    simpa using this
  have hne : d.fld f u i ≠ 0 := by simpa [Dev.flag] using h
  omega

/-- A whole bond after it has followed its conditions. -/
theorem Paired.synced {d : Dev} {p m : Nat} (h : Paired d p m) : Paired (d.bondSync p) p m ∧ (d.bondSync p).fld TIL_BOND.STATE p = 2 ∧
    (d.bondSync p).fld TIL_BOND.STATE m = 2 ∧ (d.bondSync p).fld TIL_BOND.ANCHOR p = (if p < m then 1 else 0) ∧
      (d.bondSync p).fld TIL_BOND.ANCHOR m = if m < p then 1 else 0 := by
  have hp : ∀ (c : Dev) (f : Fld) (a : Bool), f.reg = .TIL_BOND → (c.setBond m 2 a).fld f p = c.fld f p := fun c f a hf =>
    fld_of_at (at_setBond_ne c m 2 a (by rw [hf]; simp [h.ne]))
  rw [h.bondSync]
  refine ⟨(h.setBond _ _ _).setBond _ _ _, ?_, fld_setBond_state _ _ (by decide) _, ?_, ?_⟩
  · rw [hp _ _ _ rfl, fld_setBond_state _ _ (by decide)]
  · rw [hp _ _ _ rfl, fld_setBond_anchor]
    simp
  · rw [fld_setBond_anchor]
    simp

/-- EN written for a pair whose other tile names it back makes the bond whole. -/
theorem bondWritten_bonded {d : Dev} {p m : Nat} (hp : p < 8 * d.n) (hpm : m = partnerTile p) (h : Paired d p m) (hs : d.fld TIL_BOND.STATE p = 0) :
    (d.bondWritten p m).fld TIL_BOND.EN p = 1 ∧ (d.bondWritten p m).fld TIL_BOND.STATE p = 2 ∧ (d.bondWritten p m).fld TIL_BOND.STATE m = 2 ∧
      (d.bondWritten p m).fld TIL_BOND.ANCHOR (min p m) = 1 ∧ (d.bondWritten p m).fld TIL_BOND.ANCHOR (max p m) = 0 := by
  have hbad := mate_partner_good hp
  rw [← hpm] at hbad
  have hc := h.setBond p 1 false
  have hw : d.bondWritten p m = (((d.setBond p 1 false).bondSync p).bondSync m).bondSync m := by
    simp only [Dev.bondWritten, h.mate, h.en, hs, hbad, ← hpm, beq_self_eq_true, Bool.and_false, Bool.and_self, Bool.false_eq_true, if_false, if_true,
      hc.mate]
  obtain ⟨hlast, hsm, hsp, ham, hap⟩ := hc.synced.1.symm.synced.1.synced
  rw [hw]
  refine ⟨fld_of_flag rfl hlast.enMate, hsp, hsm, ?_, ?_⟩
  · rcases Nat.lt_or_gt_of_ne h.ne with hlt | hlt
    · rw [min_eq_left hlt.le, hap, if_pos hlt]
    · rw [min_eq_right hlt.le, ham, if_pos hlt]
  · rcases Nat.lt_or_gt_of_ne h.ne with hlt | hlt
    · rw [max_eq_right hlt.le, ham, if_neg (by omega)]
    · rw [max_eq_left hlt.le, hap, if_neg (by omega)]

/-! The words that software writes -/

theorem bitsOf_ofNat {v : Nat} (hv : v < 2 ^ 32) (hi lo : Nat) : bitsOf (BitVec.ofNat 32 v) hi lo = v / 2 ^ lo % 2 ^ (hi + 1 - lo) := by
  rw [bitsOf, BitVec.toNat_ofNat, Nat.mod_eq_of_lt hv]

/-- TIL_BOND after a write: EN and MATE from the value, the rest as it was. -/
theorem fld_bondStored (d : Dev) (p : Nat) (v : Word) :
    let e := d.stored ⟨.TIL_BOND, p, 0⟩ bondMask v
    e.fld TIL_BOND.EN p = bitsOf v 31 31 ∧ e.fld TIL_BOND.MATE p = bitsOf v 5 0 ∧ e.fld TIL_BOND.STATE p = d.fld TIL_BOND.STATE p := by
  have hat := at_stored_same d ⟨.TIL_BOND, p, 0⟩ bondMask v
  have hfld : ∀ f : Fld, f.reg = .TIL_BOND → (d.stored ⟨.TIL_BOND, p, 0⟩ bondMask v).fld f p = bitsOf (merged (d.at ⟨.TIL_BOND, p, 0⟩) v bondMask) f.hi f.lo :=
    fun f hf => by rw [← hat, Dev.fld, Dev.reg, hf]
  exact ⟨(hfld TIL_BOND.EN rfl).trans (bitsOf_merged_in _ _ (by decide)), (hfld TIL_BOND.MATE rfl).trans (bitsOf_merged_in _ _ (by decide)),
    (hfld TIL_BOND.STATE rfl).trans (bitsOf_merged_out _ _ (by decide))⟩

theorem at_bondStored_ne (d : Dev) (p : Nat) (v : Word) {l : Loc} (h : l ≠ ⟨.TIL_BOND, p, 0⟩) (hs : l.reg ≠ .PKG_SEAL_STAT) :
    (d.stored ⟨.TIL_BOND, p, 0⟩ bondMask v).at l = d.at l := at_stored_ne d bondMask v h hs

theorem n_le_eight (d : Dev) : d.n ≤ 8 := by
  unfold Dev.n
  cases d.variant <;> decide

theorem n_stored (d : Dev) (l : Loc) (m v : Word) : (d.stored l m v).n = d.n := by
  unfold Dev.stored Dev.openSeal
  repeat' split
  all_goals rfl

/-- What is true of TIL_BOND of a tile right after a write that gives it EN and a mate. -/
theorem bondStored_on (d : Dev) (p : Nat) {m : Nat} (hm : m < 64) (hs : d.fld TIL_BOND.STATE p = 0) :
    let e := d.stored ⟨.TIL_BOND, p, 0⟩ bondMask (BitVec.ofNat 32 (2 ^ 31 + m))
    e.flag TIL_BOND.EN p = true ∧ e.mate p = m ∧ e.fld TIL_BOND.STATE p = 0 := by
  obtain ⟨hen, hmate, hst⟩ := fld_bondStored d p (BitVec.ofNat 32 (2 ^ 31 + m))
  rw [bitsOf_ofNat (by omega)] at hen hmate
  refine ⟨?_, hmate.trans ?_, hst.trans hs⟩
  · rw [Dev.flag, hen]
    have : (2 ^ 31 + m) / 2 ^ 31 % 2 ^ (31 + 1 - 31) = 1 := by omega
    rw [this]; rfl
  · omega

/-- Settles O26. -/
theorem bonds : Obligations.Bonds := by
  unfold Obligations.Bonds
  refine ⟨?_, ?_⟩
  · intro s src p hp hg _ hq hreg
    obtain ⟨hne, hdie, hxor⟩ := partnerTile_facts p
    have hp64 : p < 64 := by have := n_le_eight s.dev; omega
    have hm64 : partnerTile p < 64 := by simp only [dieOf] at hdie; omega
    have hfld : ∀ (q v : Nat) (f : Fld), f.reg = .TIL_BOND → s.dev.reg .TIL_BOND q = BitVec.ofNat 32 v → v < 2 ^ 32 →
        s.dev.fld f q = v / 2 ^ f.lo % 2 ^ (f.hi + 1 - f.lo) := fun q v f hf hr hv => by
      rw [Dev.fld, hf, hr, bitsOf_ofNat hv]
    have hst : s.dev.fld TIL_BOND.STATE p = 0 := by
      rw [hfld p _ TIL_BOND.STATE rfl hreg (by omega), hxor]
      show partnerTile p / 2 ^ 28 % 4 = 0
      omega
    have hold : s.dev.mate p = partnerTile p := by
      rw [Dev.mate, hfld p _ TIL_BOND.MATE rfl hreg (by omega), hxor]
      show partnerTile p / 2 ^ 0 % 64 = _
      omega
    have hother : ∀ (v : Word) (q : Nat), q ≠ p → ∀ f : Fld, f.reg = .TIL_BOND →
        ((s.dev.written src ⟨.TIL_BOND, p, 0⟩).stored ⟨.TIL_BOND, p, 0⟩ bondMask v).fld f q = s.dev.fld f q := fun v q hqp f hf =>
      fld_of_at (at_bondStored_ne _ _ _ (by rw [hf]; simp [hqp]) (by rw [hf]; simp))
    refine ⟨fun m hm => State.doesSome_perform (by dsimp only [exec]; rfl) ?refused, fun hmate => State.doesSome_perform (by dsimp only [exec]; rfl) ?forming,
      fun hmate => State.doesSome_perform (by dsimp only [exec]; rfl) ?bonded⟩
    case refused =>
      have hm : m < 64 ∧ (m = p ∨ dieOf m = dieOf p ∧ m ≠ partnerTile p) := ⟨by rcases hm with rfl | ⟨h, -⟩ <;> simp only [dieOf] at * <;> omega, hm⟩
      obtain ⟨hlim, hbad⟩ := hm
      rw [busWrite_bond hp hg, hold]
      obtain ⟨hen, hmate, hst'⟩ := bondStored_on (s.dev.written src ⟨.TIL_BOND, p, 0⟩) p hlim hst
      obtain ⟨h1, h2, h3⟩ := bondWritten_refused (partnerTile p) hen hmate hbad hst'
      exact ⟨(fld_of_at (at_answered _ src _)).trans h1, (fld_of_at (at_answered _ src _)).trans h2, (fld_of_at (at_answered _ src _)).trans h3⟩
    case forming =>
      rw [busWrite_bond hp hg, hold]
      obtain ⟨hen, hm, hst'⟩ := bondStored_on (s.dev.written src ⟨.TIL_BOND, p, 0⟩) p hm64 hst
      have hoff : ((s.dev.written src ⟨.TIL_BOND, p, 0⟩).stored ⟨.TIL_BOND, p, 0⟩ bondMask (BitVec.ofNat 32 (2 ^ 31 + partnerTile p))).flag
          TIL_BOND.EN (partnerTile p) = false := by
        rw [Dev.flag, hother _ _ hne _ rfl, hfld _ _ TIL_BOND.EN rfl hmate (by omega)]
        have : p / 2 ^ 31 % 2 ^ (31 + 1 - 31) = 0 := by omega
        rw [this]; rfl
      have hms : ((s.dev.written src ⟨.TIL_BOND, p, 0⟩).stored ⟨.TIL_BOND, p, 0⟩ bondMask (BitVec.ofNat 32 (2 ^ 31 + partnerTile p))).fld
          TIL_BOND.STATE (partnerTile p) = 0 := by
        rw [hother _ _ hne _ rfl, hfld _ _ TIL_BOND.STATE rfl hmate (by omega)]
        show p / 2 ^ 28 % 4 = 0
        omega
      rw [bondWritten_forming (by rwa [n_stored]) rfl hen hm hst' hoff hms]
      refine ⟨?_, ?_, ?_⟩
      · rw [fld_of_at (at_answered _ src _), fld_setBond_kept _ _ _ _ (by simp)]
        exact fld_of_flag rfl hen
      · rw [fld_of_at (at_answered _ src _), fld_setBond_state _ _ (by decide)]
      · exact (at_answered _ src _).trans ((at_setBond_ne _ _ _ _ (by simp [hne])).trans ((at_bondStored_ne _ _ _ (by simp [hne]) (by simp)).trans hmate))
    case bonded =>
      rw [busWrite_bond hp hg, hold]
      obtain ⟨hen, hm, hst'⟩ := bondStored_on (s.dev.written src ⟨.TIL_BOND, p, 0⟩) p hm64 hst
      have hpair : Paired ((s.dev.written src ⟨.TIL_BOND, p, 0⟩).stored ⟨.TIL_BOND, p, 0⟩ bondMask (BitVec.ofNat 32 (2 ^ 31 + partnerTile p)))
          p (partnerTile p) := by
        refine ⟨hne.symm, hen, ?_, hm, ?_, fun q hq' => ?_⟩
        · rw [Dev.flag, hother _ _ hne _ rfl, hfld _ _ TIL_BOND.EN rfl hmate (by omega)]
          have : (2 ^ 31 + 2 ^ 28 + p) / 2 ^ 31 % 2 ^ (31 + 1 - 31) = 1 := by omega
          rw [this]; rfl
        · rw [Dev.mate, hother _ _ hne _ rfl, hfld _ _ TIL_BOND.MATE rfl hmate (by omega)]
          show (2 ^ 31 + 2 ^ 28 + p) / 2 ^ 0 % 64 = p
          omega
        · obtain ⟨hserve, hact⟩ := hq q hq'
          rw [Dev.tileServing, fld_of_at (f := TIL_SVC_STAT.STATE) (at_bondStored_ne _ _ _ (by simp) (by simp)), active?_iff,
            fld_of_at (f := BB_LINK_STAT.STATE) (at_bondStored_ne _ _ _ (by simp) (by simp))]
          exact ⟨hserve, hact⟩
      obtain ⟨h1, h2, h3, h4, h5⟩ := bondWritten_bonded (by rwa [n_stored]) rfl hpair hst'
      exact ⟨(fld_of_at (at_answered _ src _)).trans h1, (fld_of_at (at_answered _ src _)).trans h2, (fld_of_at (at_answered _ src _)).trans h3,
        (fld_of_at (at_answered _ src _)).trans h4, (fld_of_at (at_answered _ src _)).trans h5⟩
  · intro s src p st hp hg _ hq h1 h3 hreg
    obtain ⟨hne, hdie, hxor⟩ := partnerTile_facts p
    have hp64 : p < 64 := by have := n_le_eight s.dev; omega
    have hm64 : partnerTile p < 64 := by simp only [dieOf] at hdie; omega
    refine State.doesSome_perform (by dsimp only [exec]; rfl) ?_
    have hfld : ∀ f : Fld, f.reg = .TIL_BOND → s.dev.fld f p = (2 ^ 31 + st * 2 ^ 28 + partnerTile p) / 2 ^ f.lo % 2 ^ (f.hi + 1 - f.lo) := fun f hf => by
      rw [Dev.fld, hf, hreg, bitsOf_ofNat (by omega)]
    have hst : s.dev.fld TIL_BOND.STATE p = st := by
      rw [hfld TIL_BOND.STATE rfl]
      show (2 ^ 31 + st * 2 ^ 28 + partnerTile p) / 2 ^ 28 % 4 = st
      omega
    have hmate : s.dev.mate p = partnerTile p := by
      rw [Dev.mate, hfld TIL_BOND.MATE rfl]
      show (2 ^ 31 + st * 2 ^ 28 + partnerTile p) / 2 ^ 0 % 64 = _
      omega
    have hkeep : (RegId.TIL_BOND.maskWhere fun f => f.ty == .rw || f.ty == .lk) = bondMask := by decide
    rw [Dev.swCmd]
    simp only [show Loc.seenBy ⟨.TIL_BOND, p, 0⟩ src = ⟨.TIL_BOND, p, 0⟩ from rfl, hkeep]
    rw [busWrite_bond hp hg, hmate, BitVec.ofNat_toNat, BitVec.setWidth_eq]
    generalize hw : putBits (s.dev.at ⟨.TIL_BOND, p, 0⟩ &&& bondMask) TIL_BOND.EN.hi TIL_BOND.EN.lo 0 = w
    have hwen : bitsOf w 31 31 = 0 := by rw [← hw, bitsOf_putBits_same _ _ (by decide) (by decide)]; rfl
    have hwmate : bitsOf w 5 0 = partnerTile p := by
      rw [← hw, bitsOf_putBits_ne _ _ (by decide) (by decide), show s.dev.at ⟨.TIL_BOND, p, 0⟩ &&& bondMask = merged 0 (s.dev.at ⟨.TIL_BOND, p, 0⟩) bondMask by
        simp [merged], bitsOf_merged_in _ _ (by decide)]
      exact hmate
    obtain ⟨hen, hm, hst'⟩ := fld_bondStored (s.dev.written src ⟨.TIL_BOND, p, 0⟩) p w
    obtain ⟨h4, h5, h6⟩ := bondWritten_broken (p := p) (m := partnerTile p) (partnerTile p) (by rw [Dev.flag, hen, hwen]; rfl) (hm.trans hwmate)
      (fun q hq' => by
        obtain ⟨hserve, hworks, hopen⟩ := hq q hq'
        rw [Dev.tileServing, fld_of_at (f := TIL_SVC_STAT.STATE) (at_bondStored_ne _ _ _ (by simp) (by simp)), port_stored]
        exact ⟨hserve, hworks, hopen⟩) (by rw [hst']; exact hst.symm ▸ h1)
    exact ⟨(fld_of_at (at_answered _ src _)).trans h4, (fld_of_at (at_answered _ src _)).trans h5, (fld_of_at (at_answered _ src _)).trans h6⟩

end Sys2Proof.Machine

/-! ## Service commands of a tile (R354, R355, R357) -/

namespace Sys2Proof.Machine

/-- A service command of a tile, written to the bit `k` of TIL_SVC, is acted on and answered. -/
theorem swCmd_tilSvc {d : Dev} {L : Locks} {src : Src} {p k : Nat} (hp : p < 8 * d.n) (hg : d.lets src ⟨.TIL_SVC, p, 0⟩ = true) :
    d.swCmd L src ⟨.TIL_SVC, p, 0⟩ (fun c => putBits c k k 1) =
      ((d.written src ⟨.TIL_SVC, p, 0⟩).tilSvc p (putBits 0 k k 1)).answered src := by
  rw [swCmd_trigger (fits_tile rfl (by decide) rfl hp) (show RegId.TIL_SVC.trigger = true by decide) hg]
  rfl

theorem tilSvc_evacuate (d : Dev) (p : Nat) : d.tilSvc p (putBits 0 0 0 1) = d.evacuate p := rfl
theorem tilSvc_reset (d : Dev) (p : Nat) : d.tilSvc p (putBits 0 1 1 1) = d.tileReset p := rfl
theorem tilSvc_return (d : Dev) (p : Nat) : d.tilSvc p (putBits 0 2 2 1) = d.tileBack p := rfl
theorem tilSvc_recal (d : Dev) (p : Nat) : d.tilSvc p (putBits 0 3 3 1) = d.recal p := rfl

/-! What a bond leaves as it is -/

theorem at_bondSync (d : Dev) (p : Nat) {l : Loc} (h : l.reg ≠ .TIL_BOND) : (d.bondSync p).at l = d.at l := by
  have hset : ∀ (e : Dev) (q st : Nat) (a : Bool), (e.setBond q st a).at l = e.at l := fun e q st a =>
    at_setBond_ne e q st a (by rintro rfl; exact h rfl)
  unfold Dev.bondSync
  dsimp only
  repeat' split
  all_goals simp only [hset]

theorem port_bondSync (d : Dev) (p q : Nat) : (d.bondSync p).port q = d.port q := by
  unfold Dev.bondSync
  dsimp only
  repeat' split
  all_goals simp only [port_setBond]

/-- A tile whose bond is off passes its port to its partner. -/
theorem receiver_unbonded {d : Dev} {p : Nat} (h : d.flag TIL_BOND.EN p = false) : d.receiver p = partnerTile p := by
  simp [Dev.receiver, Dev.bonded, not_mutual_off h]

theorem tile_lt_64 {d : Dev} {p : Nat} (hp : p < 8 * d.n) : p < 64 := by
  have := n_le_eight d
  omega

/-- The word of TIL_BOND that names the partner leaves the bond off. -/
theorem bond_off {d : Dev} {p : Nat} (hp : p < 8 * d.n) (h : d.reg .TIL_BOND p = BitVec.ofNat 32 (p ^^^ 1)) : d.flag TIL_BOND.EN p = false := by
  obtain ⟨-, hdie, hxor⟩ := partnerTile_facts p
  have hlt : partnerTile p < 64 := by
    have := tile_lt_64 hp
    simp only [dieOf] at hdie
    omega
  rw [Dev.flag, Dev.fld, show d.reg TIL_BOND.EN.reg p = _ from h, hxor, bitsOf_ofNat (by omega)]
  have : partnerTile p / 2 ^ 31 % 2 ^ (31 + 1 - 31) = 0 := by omega
  rw [this]; rfl

theorem cannotReceive_busy {d : Dev} {q : Nat} (h : d.fld TIL_SVC_STAT.STATE q ≠ 0) : d.cannotReceive q = some 2 := by
  simp [Dev.cannotReceive, Dev.tileServing, h]

theorem cannotReceive_carrying {d : Dev} {q : Nat} (h : d.fld TIL_SVC_STAT.STATE q = 0) (hc : d.flag TIL_SVC_STAT.CARRYING q = true) :
    d.cannotReceive q = some 3 := by
  simp [Dev.cannotReceive, Dev.tileServing, h, hc]

theorem cannotReceive_free {d : Dev} {q : Nat} (h : d.fld TIL_SVC_STAT.STATE q = 0) (hc : d.flag TIL_SVC_STAT.CARRYING q = false) :
    d.cannotReceive q = none := by
  simp [Dev.cannotReceive, Dev.tileServing, h, hc]

/-! Where a tile's work goes -/

/-- The fields of TIL_SVC_STAT of a tile whose port has passed to its receiver. -/
theorem moveTo_effect {d : Dev} {p st : Nat} (hst : st < 8) (hp : p < 64) (hr : d.receiver p = partnerTile p) :
    (d.moveTo p st).fld TIL_SVC_STAT.STATE p = st ∧ (d.moveTo p st).fld TIL_SVC_STAT.CARRIER p = partnerTile p ∧
      (d.moveTo p st).flag TIL_SVC_STAT.CARRYING (partnerTile p) = true ∧ (d.moveTo p st).fld TIL_SVC_STAT.FAULTS p = d.fld TIL_SVC_STAT.FAULTS p ∧
      (d.moveTo p st).fld TIL_SVC_STAT.EVACS p = d.fld TIL_SVC_STAT.EVACS p ∧ ∀ q, (d.moveTo p st).port q = d.port q := by
  obtain ⟨hne, hdie, -⟩ := partnerTile_facts p
  have hlt : partnerTile p < 64 := by
    simp only [dieOf] at hdie
    omega
  have hfld : ∀ (c : Dev) (f : Fld), f.reg = .TIL_SVC_STAT → ((c.setFld TIL_SVC_STAT.CARRYING (partnerTile p) 0 1).bondSync p).fld f p = c.fld f p :=
    fun c f hf => (fld_of_at (at_bondSync _ _ (by rw [hf]; simp))).trans (Dev.fld_setFld_ne _ _ _ _ _ _ _ _ (by rw [hf]; simp [hne.symm]))
  simp only [Dev.moveTo, hr, if_true]
  generalize hc : d.moveChains p (partnerTile p) = c
  have hat : ∀ l, c.at l = d.at l := fun l => by rw [← hc, Dev.moveChains]; simp only [at_note, at_modQueue]
  refine ⟨?_, ?_, ?_, ?_, ?_, fun q => ?_⟩
  · rw [hfld _ _ rfl, Dev.fld_setFld_beside _ _ _ _ _ _ (by rfl) (by decide) (by decide), Dev.fld_setFld_same _ _ _ _ _ (by decide) (by decide)]
    exact Nat.mod_eq_of_lt hst
  · rw [hfld _ _ rfl, Dev.fld_setFld_same _ _ _ _ _ (by decide) (by decide)]
    exact Nat.mod_eq_of_lt hlt
  · rw [flag_of_at (f := TIL_SVC_STAT.CARRYING) (at_bondSync _ _ (by simp)), Dev.flag, Dev.fld_setFld_same _ _ _ _ _ (by decide) (by decide)]
    rfl
  · rw [hfld _ _ rfl, Dev.fld_setFld_beside _ _ _ _ _ _ (by rfl) (by decide) (by decide),
      Dev.fld_setFld_beside _ _ _ _ _ _ (by rfl) (by decide) (by decide), fld_of_at (hat _)]
  · rw [hfld _ _ rfl, Dev.fld_setFld_beside _ _ _ _ _ _ (by rfl) (by decide) (by decide),
      Dev.fld_setFld_beside _ _ _ _ _ _ (by rfl) (by decide) (by decide), fld_of_at (hat _)]
  · rw [port_bondSync, port_setFld, port_setFld, port_setFld, ← hc, Dev.moveChains]
    simp only [port_note, port_modQueue]

/-- A quiet port comes back from the partner that carries it. -/
theorem tileBack_quiet {d : Dev} {p : Nat} (hs : d.fld TIL_SVC_STAT.STATE p = 2) (hq : d.portQuiet p = true)
    (hc : d.fld TIL_SVC_STAT.CARRIER p = partnerTile p) :
    (d.tileBack p).fld TIL_SVC_STAT.STATE p = 0 ∧ (d.tileBack p).fld TIL_SVC_STAT.CARRIER p = 0 ∧
      (d.tileBack p).flag TIL_SVC_STAT.CARRYING (partnerTile p) = false := by
  obtain ⟨hne, -, -⟩ := partnerTile_facts p
  have hq' : (d.setFld TIL_SVC_STAT.STATE p 0 4).portQuiet p = true := hq
  have hc' : (d.setFld TIL_SVC_STAT.STATE p 0 4).fld TIL_SVC_STAT.CARRIER p = partnerTile p := by
    rw [Dev.fld_setFld_beside _ _ _ _ _ _ (by rfl) (by decide) (by decide), hc]
  simp only [Dev.tileBack, hs, hq', Dev.moveBack, hc', OfNat.ofNat_ne_zero, if_true, if_false]
  refine ⟨?_, ?_, ?_⟩
  · rw [fld_of_at (f := TIL_SVC_STAT.STATE) (at_bondSync _ _ (by simp)), Dev.fld_setFld_beside _ _ _ _ _ _ (by rfl) (by decide) (by decide),
      fld_setFld_zero _ _ _ _ (by decide) (by decide)]
  · rw [fld_of_at (f := TIL_SVC_STAT.CARRIER) (at_bondSync _ _ (by simp)), fld_setFld_zero _ _ _ _ (by decide) (by decide)]
  · rw [flag_of_at (f := TIL_SVC_STAT.CARRYING) (at_bondSync _ _ (by simp)), flag_setFld_ne _ _ _ _ _ _ _ _ (by simp [hne]),
      flag_setFld_ne _ _ _ _ _ _ _ _ (by simp [hne]), Dev.flag, fld_setFld_zero _ _ _ _ (by decide) (by decide)]
    rfl

theorem modPort_congr {d : Dev} {p : Nat} {f g : Port → Port} (h : f (d.port p) = g (d.port p)) : d.modPort p f = d.modPort p g := by
  rw [Dev.modPort, Dev.modPort, h]

/-- Settles O27. -/
theorem evacuation : Obligations.Evacuation := by
  unfold Obligations.Evacuation
  intro s src p hp hreg
  have hoff := bond_off hp hreg
  have hrec := receiver_unbonded hoff
  have hrec' : (s.dev.written src ⟨.TIL_SVC, p, 0⟩).receiver p = partnerTile p := receiver_unbonded (d := s.dev.written src ⟨.TIL_SVC, p, 0⟩) hoff
  refine ⟨fun hg => ⟨fun hs hps hpc => State.does_perform (by dsimp only [exec]; rfl) ?starts, fun c hc => State.does_perform (by dsimp only [exec]; rfl) ?refused,
    fun hs hq hc => State.doesSome_perform (by dsimp only [exec]; rfl) ?returns, fun hs => State.doesSome_perform (by dsimp only [exec]; rfl) ?failed⟩,
    fun hs hq hpf => State.doesSome_perform (by dsimp only [exec]; rfl) ?drained, fun h => State.does_perform (by dsimp only [exec]; rfl) ?still⟩
  case starts =>
    rw [swCmd_tilSvc hp hg, tilSvc_evacuate]
    have hserve : (s.dev.written src ⟨.TIL_SVC, p, 0⟩).tileServing p = true := by
      rw [Dev.tileServing, beq_iff_eq]; exact hs
    simp only [Dev.evacuate, hserve, hrec', Bool.not_true, Bool.false_eq_true, if_false,
      cannotReceive_free (d := s.dev.written src ⟨.TIL_SVC, p, 0⟩) hps hpc]
  case refused =>
    rw [swCmd_tilSvc hp hg, tilSvc_evacuate]
    refine congrArg (Dev.answered · src) ?_
    have hev : (s.dev.written src ⟨.TIL_SVC, p, 0⟩).evacuate p = (s.dev.written src ⟨.TIL_SVC, p, 0⟩).tilRefuse p c := by
      rcases hc with ⟨hs, rfl⟩ | ⟨hs, hps, rfl⟩ | ⟨hs, hps, hcar, rfl⟩
      · have hserve : (s.dev.written src ⟨.TIL_SVC, p, 0⟩).tileServing p = false := by
          rw [Dev.tileServing, beq_eq_false_iff_ne]; exact hs
        simp only [Dev.evacuate, hserve, Bool.not_false, if_true]
      all_goals
        have hserve : (s.dev.written src ⟨.TIL_SVC, p, 0⟩).tileServing p = true := by rw [Dev.tileServing, beq_iff_eq]; exact hs
      · simp only [Dev.evacuate, hserve, hrec', Bool.not_true, Bool.false_eq_true, if_false,
          cannotReceive_busy (d := s.dev.written src ⟨.TIL_SVC, p, 0⟩) hps]
      · simp only [Dev.evacuate, hserve, hrec', Bool.not_true, Bool.false_eq_true, if_false,
          cannotReceive_carrying (d := s.dev.written src ⟨.TIL_SVC, p, 0⟩) hps hcar]
    exact hev
  case returns =>
    rw [swCmd_tilSvc hp hg, tilSvc_return]
    obtain ⟨h1, h2, h3⟩ := tileBack_quiet (d := s.dev.written src ⟨.TIL_SVC, p, 0⟩) hs hq hc
    exact ⟨(fld_of_at (at_answered _ src _)).trans h1, (fld_of_at (at_answered _ src _)).trans h2, (flag_of_at (at_answered _ src _)).trans h3⟩
  case failed =>
    rw [swCmd_tilSvc hp hg, tilSvc_return]
    have hs' : (s.dev.written src ⟨.TIL_SVC, p, 0⟩).fld TIL_SVC_STAT.STATE p = 5 := hs
    simp only [Dev.tileBack, hs', Nat.reduceEqDiff, if_false, OfNat.ofNat_ne_zero, Dev.tilRefuse]
    constructor
    · rw [fld_of_at (f := TIL_SVC_STAT.STATE) (at_answered _ src _), fld_raise, Dev.fld_setFld_beside _ _ _ _ _ _ (by rfl) (by decide) (by decide), hs']
    · rw [fld_of_at (f := TIL_SVC_STAT.LAST_REFUSAL) (at_answered _ src _), fld_raise, Dev.fld_setFld_same _ _ _ _ _ (by decide) (by decide)]
      rfl
  case drained =>
    have hpfd : s.dev.pfDrop p (fun _ => true) 5 = s.dev.modPort p fun o => { o with pf := [] } := by
      simp only [Dev.pfDrop, hpf, List.filter_nil, List.foldl_nil]
      exact modPort_congr (by simp [hpf])
    obtain ⟨h1, h2, h3, -, h5, h6⟩ := moveTo_effect (d := s.dev.modPort p fun o => { o with pf := [] }) (st := 2) (by decide) (tile_lt_64 hp)
      (receiver_unbonded (d := s.dev.modPort p fun o => { o with pf := [] }) hoff)
    have hbump : ∀ c : Dev, (c.bump TIL_SVC_STAT.EVACS p).fld TIL_SVC_STAT.EVACS p = min (c.fld TIL_SVC_STAT.EVACS p + 1) 255 := fun c => by
      rw [fld_bump_same _ _ _ _ (by decide) (by decide), satInc]
      exact Nat.mod_eq_of_lt (Nat.lt_succ_of_le (min_le_right _ _))
    have hbeside : ∀ (c : Dev) (f : Fld), f.reg = .TIL_SVC_STAT → 7 < f.lo → (c.bump TIL_SVC_STAT.EVACS p).fld f p = c.fld f p := fun c f hr hlo =>
      Dev.fld_setFld_beside _ _ _ _ _ _ hr (by decide) (.inl hlo)
    simp only [Dev.evacDrained, hs, hq, hpfd, Bool.not_true, Bool.false_eq_true, if_false, if_true]
    refine ⟨(hbeside _ _ rfl (by decide)).trans h1, (hbeside _ _ rfl (by decide)).trans h2, ?_, ?_, ?_⟩
    · rw [Dev.flag, Dev.bump, Dev.fld_setFld_ne _ _ _ _ _ _ _ _ (by simp [(partnerTile_facts p).1])]
      exact h3
    · rw [hbump, h5]
      rfl
    · rw [port_bump, h6, port_modPort_same]
  case still =>
    rcases h with h | ⟨h1, h4⟩
    · simp only [Dev.evacDrained, h, Bool.not_false, if_true]
    · simp only [Dev.evacDrained, h1, h4, if_false, ite_self]

end Sys2Proof.Machine

/-! ## Tile faults and lane recalibration (R355, R367) -/

namespace Sys2Proof.Machine

theorem faultReads_keeps (d : Dev) (p : Nat) : (∀ l : Loc, l.reg ≠ .BB_TXN_ERR → (d.faultReads p).at l = d.at l) ∧
    ((d.faultReads p).port p).works = (d.port p).works := by
  unfold Dev.faultReads
  dsimp only
  split
  · exact ⟨fun _ _ => rfl, rfl⟩
  · refine ⟨fun l hl => ?_, ?_⟩
    · rw [at_modLink]
      split <;> exact at_bump_ne _ _ _ _ (by rintro rfl; exact hl rfl)
    · rw [Dev.modLink, port_modPort_same]
      split <;> rfl

/-- A quiet port's link keeps its work in a fault of the tile. -/
theorem faultLink_quiet {d : Dev} {p : Nat} (hq : d.portQuiet p = true) :
    (∀ l : Loc, l.reg ≠ .BB_TXN_ERR → (d.faultLink p).at l = d.at l) ∧ ((d.faultLink p).port p).works = (d.port p).works := by
  simp only [Dev.portQuiet, Bool.and_eq_true, Option.isNone_iff_eq_none] at hq
  obtain ⟨⟨⟨ho, he⟩, hi⟩, -⟩ := hq
  have hlink : ((d.modLink p fun l => { l with waiting := poisonWaiting l.waiting }).port p).inOpen = none := by
    rw [Dev.modLink, port_modPort_same]
    exact hi
  simp only [Dev.faultLink, ho, he, Option.toList_none, List.append_nil, List.map_nil, List.foldl_nil, hi]
  obtain ⟨hat, hworks⟩ := faultReads_keeps ((d.modLink p fun l => { l with waiting := poisonWaiting l.waiting }).modPort p fun o =>
    { o with outOpen := o.outOpen.map fun t => { t with drain := true }, early := o.early.map fun t => { t with drain := true } }) p
  refine ⟨fun l hl => (hat l hl).trans rfl, hworks.trans ?_⟩
  rw [port_modPort_same, Dev.modLink, port_modPort_same]

theorem itemsChecked_begun {d : Dev} {p : Nat} (hb : d.bonded p = false) (h : ∀ w ∈ (d.port p).works, w.came = true → w.begun = true) :
    d.itemsChecked p = d := by
  have hnil : ((d.port p).works.filter fun w => w.came && !w.begun) = [] := by
    rw [List.filter_eq_nil_iff]
    intro w hw
    cases hc : w.came
    · simp
    · simp [h w hw hc]
  simp only [Dev.itemsChecked, hb, hnil, List.foldl_nil, Bool.false_eq_true, if_false]

/-- What a retrain entered from ACTIVE with a bound on its width leaves beside its state. -/
theorem retrainEnter_keeps {d : Dev} {p cap : Nat} (h : d.fld BB_LINK_STAT.STATE p = 3) (hc : cap ≠ 0) :
    ((d.retrainEnter p cap false).port p).link.capWidth = cap ∧ ((d.retrainEnter p cap false).port p).link.recal = (d.port p).link.recal ∧
      (∀ f : Fld, f.reg = .TIL_SVC_STAT → (d.retrainEnter p cap false).fld f p = d.fld f p) ∧
      (d.retrainEnter p cap false).fld BB_LANE_STAT.BAD p = d.fld BB_LANE_STAT.BAD p := by
  have hs : d.lstate p = lsActive := h
  have hne : ¬ lsRetrain = lsActive := by decide
  simp only [Dev.retrainEnter, hs, if_true, hc, Bool.false_eq_true, if_false, Dev.setLstate, hne, Dev.linkEvent, decide_true, Bool.true_or]
  refine ⟨?_, ?_, fun f hf => ?_, ?_⟩
  · rw [port_sendSyns_same, (lane0Leaves_keep _ p).2.2.2.2.2]
    simp
  · rw [port_sendSyns_same, (lane0Leaves_keep _ p).2.2.2.2.2]
    simp
  · rw [fld_sendSyns, (lane0Leaves_keep _ p).1 f (by rw [hf]; decide) (by rw [hf]; decide)]
    simp [Dev.fld_setFld_ne, fld_status_ne, fld_bump_ne, hf]
  · rw [fld_sendSyns, (lane0Leaves_keep _ p).1 BB_LANE_STAT.BAD (by decide) (by decide)]
    simp (disch := first | decide | simp) [Dev.fld_setFld_ne, Dev.fld_setFld_beside, fld_status_ne, fld_bump_ne]

/-- One lane recalibrated: marked where it fails, given new values where it passes. -/
def Dev.recalLane (mask bad p : Nat) (d : Dev) (k : Nat) : Dev :=
  if mask.testBit k then
    if bad.testBit k then d.setFld BB_LANE_STAT.BAD p 0 (d.fld BB_LANE_STAT.BAD p ||| 2 ^ k) else d.eqAdapt p (d.port p).link.rate k
  else d

theorem recalLane_keeps (mask bad p : Nat) (d : Dev) {k : Nat} (hk : k < 8) :
    (∀ l : Loc, l.reg ≠ .BB_LANE_STAT → (d.recalLane mask bad p k).at l = d.at l) ∧ (∀ q, (d.recalLane mask bad p k).port q = d.port q) ∧
      ∀ j, ((d.recalLane mask bad p k).fld BB_LANE_STAT.BAD p).testBit j =
        ((d.fld BB_LANE_STAT.BAD p).testBit j || (j == k && mask.testBit k && bad.testBit k)) := by
  unfold Dev.recalLane
  split
  next hm =>
    split
    next hb =>
      refine ⟨fun l hl => Dev.at_setFld_ne _ _ _ _ _ (by rintro rfl; exact hl rfl), fun q => rfl, fun j => ?_⟩
      have hlt : d.fld BB_LANE_STAT.BAD p ||| 2 ^ k < 2 ^ 8 :=
        Nat.or_lt_two_pow (Nat.mod_lt _ (by decide)) (Nat.pow_lt_pow_right (by decide) hk)
      rw [Dev.fld_setFld_same _ _ _ _ _ (by decide) (by decide), show BB_LANE_STAT.BAD.hi + 1 - BB_LANE_STAT.BAD.lo = 8 from rfl,
        Nat.mod_eq_of_lt hlt, Nat.testBit_or, Nat.testBit_two_pow, hm, hb]
      by_cases h : k = j
      · simp [h]
      · simp [h, Ne.symm h]
    next hb => exact ⟨fun _ _ => rfl, fun _ => rfl, fun j => by simp [hb]; rfl⟩
  next hm => exact ⟨fun _ _ => rfl, fun _ => rfl, fun j => by simp [hm]⟩

/-- Lanes recalibrated: those of the mask that fail are marked; no other register and no port changes. -/
theorem recalLanes_effect (d : Dev) (p mask bad : Nat) :
    (∀ l : Loc, l.reg ≠ .BB_LANE_STAT → (d.recalLanes p mask bad).at l = d.at l) ∧ (∀ q, (d.recalLanes p mask bad).port q = d.port q) ∧
      ∀ j, ((d.recalLanes p mask bad).fld BB_LANE_STAT.BAD p).testBit j =
        ((d.fld BB_LANE_STAT.BAD p).testBit j || (decide (j < 8) && mask.testBit j && bad.testBit j)) := by
  have hlist : ∀ (ks : List Nat) (e : Dev), (∀ k ∈ ks, k < 8) →
      (∀ l : Loc, l.reg ≠ .BB_LANE_STAT → (ks.foldl (Dev.recalLane mask bad p) e).at l = e.at l) ∧
        (∀ q, (ks.foldl (Dev.recalLane mask bad p) e).port q = e.port q) ∧
        ∀ j, ((ks.foldl (Dev.recalLane mask bad p) e).fld BB_LANE_STAT.BAD p).testBit j =
          ((e.fld BB_LANE_STAT.BAD p).testBit j || (ks.contains j && mask.testBit j && bad.testBit j)) := by
    intro ks
    induction ks with
    | nil => exact fun e _ => ⟨fun _ _ => rfl, fun _ => rfl, fun j => by simp⟩
    | cons k ks ih =>
      intro e hk
      obtain ⟨h1, h2, h3⟩ := recalLane_keeps mask bad p e (hk k List.mem_cons_self)
      obtain ⟨i1, i2, i3⟩ := ih (e.recalLane mask bad p k) fun j hj => hk j (List.mem_cons_of_mem k hj)
      refine ⟨fun l hl => (i1 l hl).trans (h1 l hl), fun q => (i2 q).trans (h2 q), fun j => ?_⟩
      rw [List.foldl_cons, i3, h3, List.contains_cons]
      by_cases hj : j = k
      · subst hj
        cases (e.fld BB_LANE_STAT.BAD p).testBit j <;> cases mask.testBit j <;> cases bad.testBit j <;> simp
      · rw [beq_eq_false_iff_ne.mpr hj, Bool.false_and, Bool.false_and, Bool.or_false, Bool.false_or]
  obtain ⟨h1, h2, h3⟩ := hlist (List.range 8) d fun k hk => List.mem_range.mp hk
  refine ⟨h1, h2, fun j => (h3 j).trans ?_⟩
  rw [List.contains_eq_mem, decide_eq_decide.mpr List.mem_range]

/-- The lanes outside a group are its complement. -/
theorem testBit_outside {a : Nat} (h : a < 256) (j : Nat) : (255 - a).testBit j = (decide (j < 8) && !a.testBit j) := by
  have := Nat.testBit_two_pow_sub_succ (show a < 2 ^ 8 from h) j
  rwa [show 2 ^ 8 - (a + 1) = 255 - a by omega] at this

/-- A fault of a tile is counted beside the state that it leaves the tile in. -/
theorem faultCount (d : Dev) (p st : Nat) (h : st < 8) :
    (((d.bump TIL_SVC_STAT.FAULTS p).setFld TIL_SVC_STAT.STATE p 0 st).raise (dieOf p) evBond ⟨.TIL_SVC_STAT, p, 0⟩ 8 p).fld TIL_SVC_STAT.STATE p = st ∧
      (((d.bump TIL_SVC_STAT.FAULTS p).setFld TIL_SVC_STAT.STATE p 0 st).raise (dieOf p) evBond ⟨.TIL_SVC_STAT, p, 0⟩ 8 p).fld
        TIL_SVC_STAT.FAULTS p = min (d.fld TIL_SVC_STAT.FAULTS p + 1) 255 := by
  constructor
  · rw [fld_raise, Dev.fld_setFld_same _ _ _ _ _ (by decide) (by decide)]
    exact Nat.mod_eq_of_lt h
  · rw [fld_raise, Dev.fld_setFld_beside _ _ _ _ _ _ (by rfl) (by decide) (by decide), fld_bump_same _ _ _ _ (by decide) (by decide), satInc]
    exact Nat.mod_eq_of_lt (Nat.lt_succ_of_le (min_le_right _ _))

/-- A recalibration that begins retrains a port at full width to four lanes, and waits for the lanes outside the group of a narrower one. -/
theorem recal_begins {d : Dev} {p : Nat} (hst : d.fld BB_LINK_STAT.STATE p = 3) (hb : d.flag TIL_SVC_STAT.RECAL_BUSY p = false) :
    (d.recal p).fld TIL_SVC_STAT.RECAL_BUSY p = 1 ∧
      if d.fld BB_LINK_STAT.WIDTH p = 8 then
        (d.recal p).fld BB_LINK_STAT.STATE p = 4 ∧ ((d.recal p).port p).link.capWidth = 4 ∧ ((d.recal p).port p).link.recal = .narrowHigh
      else (d.recal p).fld BB_LINK_STAT.STATE p = 3 ∧ ((d.recal p).port p).link.recal = .outside := by
  simp only [Dev.recal, active?_of hst, hb, Bool.not_true, Bool.or_self, Bool.false_eq_true, if_false]
  generalize hc : d.setFld TIL_SVC_STAT.RECAL_BUSY p 0 1 = c
  have hset : c.fld TIL_SVC_STAT.RECAL_BUSY p = 1 := by
    rw [← hc, Dev.fld_setFld_same _ _ _ _ _ (by decide) (by decide)]
    rfl
  have hlink : ∀ f : Fld, f.reg = .BB_LINK_STAT → c.fld f p = d.fld f p := fun f hf => by
    rw [← hc, Dev.fld_setFld_ne _ _ _ _ _ _ _ _ (by rw [hf]; simp)]
  rw [hlink BB_LINK_STAT.WIDTH rfl]
  split
  · have hst' : (c.modLink p fun l => { l with recal := .narrowHigh }).fld BB_LINK_STAT.STATE p = 3 := by rw [fld_modLink, hlink _ rfl, hst]
    obtain ⟨hcap, hrec, hsvc, -⟩ := retrainEnter_keeps hst' (cap := 4) (by decide)
    exact ⟨by rw [hsvc _ rfl, fld_modLink, hset], (retrainEnter_effect _ p 4 hst').1, hcap, by rw [hrec, port_modLink_same]⟩
  · exact ⟨by rw [fld_modLink, hset], by rw [fld_modLink, hlink _ rfl, hst], by rw [port_modLink_same]⟩

/-- Settles O29. -/
theorem tileFaultsAndRecal : Obligations.TileFaultsAndRecal := by
  unfold Obligations.TileFaultsAndRecal
  refine ⟨fun s p bad => ⟨State.does_perform (by dsimp only [exec]; rfl) rfl, State.does_perform (by dsimp only [exec]; rfl) rfl⟩,
    fun s src p hp hreg => ⟨fun hs hcar hps hpcar hq hw => State.doesSome_perform (by dsimp only [exec]; rfl) ?fault,
      fun hs => State.doesSome_perform (by dsimp only [exec]; rfl) ?again,
      fun hg => ⟨fun hst => State.doesSome_perform (by dsimp only [exec]; rfl) ?refused, fun hst hb => State.doesSome_perform (by dsimp only [exec]; rfl) ?recal⟩,
      fun bad hbad hst hrec => State.doesSome_perform (by dsimp only [exec]; rfl) ?done⟩⟩
  case fault =>
    obtain ⟨hne, -, -⟩ := partnerTile_facts p
    have hoff := bond_off hp hreg
    have hcan : s.dev.cannotReceive (partnerTile p) = none := cannotReceive_free hps hpcar
    simp only [Dev.tileFault, receiver_unbonded hoff, hcan, hs, hcar, Option.isNone_none, if_true, Bool.false_eq_true, if_false,
      OfNat.zero_ne_ofNat, decide_false, Bool.or_self]
    have hcount := faultCount s.dev p 5 (by decide)
    generalize hc : ((s.dev.bump TIL_SVC_STAT.FAULTS p).setFld TIL_SVC_STAT.STATE p 0 5).raise (dieOf p) evBond ⟨.TIL_SVC_STAT, p, 0⟩ 8 p = c at hcount
    have hport : ∀ q, c.port q = s.dev.port q := fun q => by rw [← hc, port_raise, port_setFld, port_bump]
    have hbond : c.flag TIL_BOND.EN p = false := by
      rw [← hc, flag_raise, flag_setFld_ne _ _ _ _ _ _ _ _ (by simp), Dev.bump, flag_setFld_ne _ _ _ _ _ _ _ _ (by simp), hoff]
    obtain ⟨hat, hworks⟩ := faultLink_quiet (d := c) (p := p) (by rw [Dev.portQuiet, hport]; exact hq)
    have hoff' : (c.faultLink p).flag TIL_BOND.EN p = false := (flag_of_at (hat _ (by simp))).trans hbond
    have hchk : (c.faultLink p).itemsChecked p = c.faultLink p :=
      itemsChecked_begun (by simp [Dev.bonded, not_mutual_off hoff']) (by rw [hworks, hport]; exact hw)
    have hn : (c.faultLink p).receiver p = partnerTile p := receiver_unbonded hoff'
    simp only [hchk]
    obtain ⟨h1, h2, h3, h4, -, h6⟩ := moveTo_effect (d := c.faultLink p) (p := p) (st := 5) (by decide) (tile_lt_64 hp) hn
    refine ⟨h1, h2, h3, h4.trans ((fld_of_at (hat _ (by simp))).trans hcount.2), ?_⟩
    rw [h6, hworks, hport]
  case again =>
    simp only [Dev.tileFault, hs, decide_true, Bool.true_or, if_true]
    obtain ⟨h1, h2⟩ := faultCount s.dev p 5 (by decide)
    refine ⟨h1, h2, fun k hk => ?_⟩
    rw [at_raise, Dev.at_setFld_ne _ _ _ _ _ hk, at_bump_ne _ _ _ _ hk]
  case refused =>
    rw [swCmd_tilSvc hp hg, tilSvc_recal]
    have hact : (s.dev.written src ⟨.TIL_SVC, p, 0⟩).active? p = false := not_active?_of (d := s.dev.written src ⟨.TIL_SVC, p, 0⟩) hst
    simp only [Dev.recal, hact, Bool.not_false, Bool.true_or, if_true, Dev.tilRefuse]
    constructor
    · rw [fld_of_at (f := TIL_SVC_STAT.LAST_REFUSAL) (at_answered _ src _), fld_raise, Dev.fld_setFld_same _ _ _ _ _ (by decide) (by decide)]
      rfl
    · rw [fld_of_at (f := TIL_SVC_STAT.RECAL_BUSY) (at_answered _ src _), fld_raise, Dev.fld_setFld_beside _ _ _ _ _ _ (by rfl) (by decide) (by decide)]
      rfl
  case recal =>
    rw [swCmd_tilSvc hp hg, tilSvc_recal]
    obtain ⟨hbusy, hport⟩ := recal_begins (d := s.dev.written src ⟨.TIL_SVC, p, 0⟩) hst hb
    refine ⟨(fld_of_at (f := TIL_SVC_STAT.RECAL_BUSY) (at_answered _ src _)).trans hbusy, ?_⟩
    rwa [fld_of_at (f := BB_LINK_STAT.STATE) (at_answered _ src _), port_answered]
  case done =>
    have hact : s.dev.active? p = true := active?_of hst
    simp only [Dev.recalDone, hact, hrec, Bool.not_true, Bool.false_and, Bool.false_eq_true, if_false, if_true]
    obtain ⟨hat, hport, hbits⟩ := recalLanes_effect (s.dev.setFld BB_LANE_STAT.BAD p 0 0) p (255 - s.dev.fld BB_LANE_STAT.ACTIVE p) bad
    generalize (s.dev.setFld BB_LANE_STAT.BAD p 0 0).recalLanes p (255 - s.dev.fld BB_LANE_STAT.ACTIVE p) bad = c at hat hport hbits
    have hst' : (c.modLink p fun l => { l with recal := .widen }).fld BB_LINK_STAT.STATE p = 3 := by
      rw [fld_modLink, fld_of_at (f := BB_LINK_STAT.STATE) (hat _ (by simp)), Dev.fld_setFld_ne _ _ _ _ _ _ _ _ (by simp), hst]
    obtain ⟨-, hrec', -, hbad'⟩ := retrainEnter_keeps hst' (cap := 8) (by decide)
    refine ⟨?_, (retrainEnter_effect _ p 8 hst').1, ?_⟩
    · rw [hbad', fld_modLink]
      refine Nat.eq_of_testBit_eq fun j => ?_
      rw [hbits, fld_setFld_zero _ _ _ _ (by decide) (by decide), Nat.zero_testBit, Bool.false_or, Nat.testBit_and,
        testBit_outside (show s.dev.fld BB_LANE_STAT.ACTIVE p < 256 from Nat.mod_lt _ (by decide))]
      cases bad.testBit j <;> cases decide (j < 8) <;> simp
    · rw [hrec', port_modLink_same]

end Sys2Proof.Machine

/-! ## Fields that a write of another field leaves -/

namespace Sys2Proof.Machine

/-- Two fields that share no bit of a register. -/
def Fld.apart (f g : Fld) : Bool := g.reg != f.reg || decide (f.hi < g.lo) || decide (g.hi < f.lo)

/-- A field whose bits lie in its register. -/
def Fld.wide (f : Fld) : Bool := decide (f.lo ≤ f.hi) && decide (f.hi < 32)

theorem Fld.wide_bounds {f : Fld} (h : f.wide = true) : f.lo ≤ f.hi ∧ f.hi < 32 := by
  simpa [Fld.wide] using h

theorem apart_of_reg {f g : Fld} (h : g.reg ≠ f.reg) : f.apart g = true := by simp [Fld.apart, h]

theorem fld_setFld (d : Dev) {f : Fld} (u i v : Nat) (h : f.wide = true) : (d.setFld f u i v).fld f u i = v % 2 ^ (f.hi + 1 - f.lo) :=
  Dev.fld_setFld_same _ _ _ _ _ (Fld.wide_bounds h).1 (Fld.wide_bounds h).2

theorem fld_setFld_apart (d : Dev) {f g : Fld} (u i v u' i' : Nat) (h : f.apart g = true) (hf : f.wide = true) :
    (d.setFld f u i v).fld g u' i' = d.fld g u' i' := by
  by_cases hl : (⟨g.reg, u', i'⟩ : Loc) = ⟨f.reg, u, i⟩
  · obtain ⟨hr, rfl, rfl⟩ := Loc.mk.injEq .. ▸ hl
    rw [Fld.apart, hr, bne_self_eq_false, Bool.false_or, Bool.or_eq_true, decide_eq_true_eq, decide_eq_true_eq] at h
    exact Dev.fld_setFld_beside _ _ _ _ _ _ hr (Fld.wide_bounds hf).1 h
  · exact Dev.fld_setFld_ne _ _ _ _ _ _ _ _ hl

theorem fld_bump_apart (d : Dev) {f g : Fld} (u i u' i' : Nat) (h : f.apart g = true) (hf : f.wide = true) :
    (d.bump f u i).fld g u' i' = d.fld g u' i' := fld_setFld_apart _ _ _ _ _ _ h hf

/-- A counter raised stops at its greatest value. -/
theorem fld_bump (d : Dev) {f : Fld} (u i : Nat) (hf : f.wide = true) :
    (d.bump f u i).fld f u i = min (d.fld f u i + 1) (2 ^ (f.hi + 1 - f.lo) - 1) := by
  rw [fld_bump_same _ _ _ _ (Fld.wide_bounds hf).1 (Fld.wide_bounds hf).2, satInc]
  exact Nat.mod_eq_of_lt (Nat.lt_of_le_of_lt (min_le_right _ _) (Nat.sub_one_lt (Nat.two_pow_pos _).ne'))

theorem fld_status_apart (d : Dev) {f g : Fld} (u i cls x src u' i' : Nat) (h : f.apart g = true) (hf : f.wide = true) :
    (d.status f u i cls x src).fld g u' i' = d.fld g u' i' := by
  unfold Dev.status
  split
  · rfl
  · rw [fld_raise, fld_setFld_apart _ _ _ _ _ _ h hf]

/-- A field of one bit. -/
def Fld.bit (f : Fld) : Bool := f.wide && decide (f.hi = f.lo)

theorem fld_lt (d : Dev) {f : Fld} (u i : Nat) (hf : f.bit = true) : d.fld f u i < 2 := by
  have h : f.hi = f.lo := by simp only [Fld.bit, Bool.and_eq_true, decide_eq_true_eq] at hf; exact hf.2
  have := Nat.mod_lt ((d.reg f.reg u i).toNat / 2 ^ f.lo) (Nat.two_pow_pos (f.hi + 1 - f.lo))
  rw [show f.hi + 1 - f.lo = 1 by omega] at this
  rw [Dev.fld, bitsOf, show f.hi + 1 - f.lo = 1 by omega]
  exact this

/-- A flag that is 1 reads so as a field. -/
theorem fld_of_bit {d : Dev} {f : Fld} {u i : Nat} (hf : f.bit = true) (h : d.flag f u i = true) : d.fld f u i = 1 := by
  have := fld_lt d u i hf
  have hne : d.fld f u i ≠ 0 := by simpa [Dev.flag] using h
  omega

theorem fld_status (d : Dev) {f : Fld} (u i cls x src : Nat) (hf : f.bit = true) : (d.status f u i cls x src).fld f u i = 1 := by
  have h := hf
  simp only [Fld.bit, Bool.and_eq_true, decide_eq_true_eq] at h
  exact fld_of_bit hf (Dev.flag_status _ _ _ _ _ _ _ h.2.symm (Fld.wide_bounds h.1).2)

/-! What two states of the bridge have in common -/

/-- Only the registers named differ, and clocks and units are as before. -/
structure Apart (rs : List RegId) (d e : Dev) : Prop where
  regs : ∀ l : Loc, l.reg ∉ rs → e.at l = d.at l
  clk : ∀ y, e.clk y = d.clk y
  n : e.n = d.n

theorem Apart.refl (rs : List RegId) (d : Dev) : Apart rs d d := ⟨fun _ _ => rfl, fun _ => rfl, rfl⟩

theorem Apart.trans {rs : List RegId} {d e c : Dev} (h : Apart rs d e) (h' : Apart rs e c) : Apart rs d c :=
  ⟨fun l hl => (h'.regs l hl).trans (h.regs l hl), fun y => (h'.clk y).trans (h.clk y), h'.n.trans h.n⟩

theorem Apart.foldl {rs : List RegId} {α : Type} {f : Dev → α → Dev} (hf : ∀ d a, Apart rs d (f d a)) :
    ∀ (xs : List α) (d : Dev), Apart rs d (xs.foldl f d)
  | [], d => Apart.refl rs d
  | x :: xs, d => (hf d x).trans (Apart.foldl hf xs (f d x))

theorem Apart.fld {rs : List RegId} {d e : Dev} (h : Apart rs d e) {f : Fld} (hf : f.reg ∉ rs) (u i : Nat) : e.fld f u i = d.fld f u i :=
  fld_of_at (h.regs _ hf)

theorem Apart.flag {rs : List RegId} {d e : Dev} (h : Apart rs d e) {f : Fld} (hf : f.reg ∉ rs) (u i : Nat) : e.flag f u i = d.flag f u i :=
  flag_of_at (h.regs _ hf)

theorem apart_setFld {rs : List RegId} (d : Dev) {f : Fld} (u i v : Nat) (hf : f.reg ∈ rs) : Apart rs d (d.setFld f u i v) :=
  ⟨fun l hl => Dev.at_setFld_ne _ _ _ _ _ (by rintro rfl; exact hl hf), fun _ => rfl, rfl⟩

theorem apart_raise {rs : List RegId} (d : Dev) (x cls : Nat) (k : Loc) (b src : Nat) : Apart rs d (d.raise x cls k b src) :=
  ⟨fun _ _ => at_raise .., fun _ => clk_raise .., n_raise ..⟩

theorem apart_flushTx (rs : List RegId) : ∀ (k : Nat) (d : Dev) (p : Nat), Apart rs d (Dev.flushTx k d p)
  | 0, d, _ => Apart.refl rs d
  | k + 1, d, p => by
    unfold Dev.flushTx
    dsimp only
    split
    · exact Apart.refl rs d
    · split
      · refine Apart.trans ?_ (apart_flushTx rs k _ p)
        exact ⟨fun _ _ => rfl, fun _ => rfl, rfl⟩
      · exact Apart.refl rs d

theorem apart_send (rs : List RegId) (d : Dev) (p : Nat) (x : Pkt) : Apart rs d (d.send p x) := by
  have h : Apart rs d (d.modLink p fun l => { l with waiting := l.waiting ++ [x] }) := ⟨fun _ _ => rfl, fun _ => rfl, rfl⟩
  exact h.trans (apart_flushTx rs _ _ p)

end Sys2Proof.Machine

/-! ## Commands that software writes to registers outside package configuration (R16, R56) -/

namespace Sys2Proof.Machine

theorem getLsbD_putBits_set (c : Word) {k j : Nat} (hk : k < 32) (hj : j < 32) : (putBits c k k 1).getLsbD j = (decide (j = k) || c.getLsbD j) := by
  have hm : (maskOf k k).getLsbD j = decide (j = k) := by
    rw [maskOf_getLsbD]
    simp only [hj, decide_true, Bool.true_and, ← Bool.decide_and, decide_eq_decide]
    omega
  have hv : (BitVec.ofNat 32 (1 * 2 ^ k)).getLsbD j = decide (j = k) := by
    rw [Nat.one_mul, BitVec.getLsbD_ofNat, Nat.testBit_two_pow]
    simp [hj, eq_comm]
  rw [putBits, BitVec.getLsbD_or, BitVec.getLsbD_and, BitVec.getLsbD_and, BitVec.getLsbD_not, hm, hv]
  by_cases h : j = k <;> simp [h, hj, hk]

/-- A register whose write reaches its hook: no pair, no mailbox, no lock bits, not package configuration. -/
def RegId.open (r : RegId) : Bool := r.plain && !r.isLk && r.outside

/-- The state after a write of `v` to a register has been stored, before what it sets in motion. -/
def Dev.commanded (d : Dev) (src : Src) (l : Loc) (locked : Bool) (v : Word) : Dev :=
  (d.written src l).stored l ((d.written src l).setMask src l locked) v

/-- A write that its register refuses leaves the error record, any other one what it set in motion. -/
theorem refused_or_done (r : Bool × Dev) (src : Src) (l : Loc) :
    (match (bif r.1 then some 10 else bif false then some 5 else none) with
      | some k => r.2.accErr src true k l.offset 4
      | none => r.2) = if r.1 then r.2.accErr src true 10 l.offset 4 else r.2 := by
  obtain ⟨_ | _, e⟩ := r <;> rfl

theorem swCmd_open {d : Dev} {L : Locks} {src : Src} {l : Loc} {f : Word → Word} {at_ : Nat} (hf : l.fits d.n = true) (ho : l.reg.open = true)
    (hg : d.lets src l = true) :
    d.swCmd L src l f at_ =
      let v := f (d.at l &&& l.reg.maskWhere fun f => f.ty == .rw || f.ty == .lk)
      let r := (d.commanded src l (lockOf L l) v).writeHook L src l (lockOf L l) (d.at l) v
      (if r.1 then r.2.accErr src true 10 l.offset 4 else r.2).answered src := by
  simp only [RegId.open, Bool.and_eq_true, Bool.not_eq_true'] at ho
  obtain ⟨⟨hp, hk⟩, ho⟩ := ho
  rw [swCmd_plain hg (offset_word l) (locate_offset hf) (isCfg_outside ho) hp]
  simp only [Dev.lockHit, hk, Bool.false_and, Dev.commanded]
  exact congrArg (Dev.answered · src) (refused_or_done _ src l)

/-- What is no register is as it was before a write is stored. -/
theorem stored_of_regs {α : Type} (P : Dev → α) (h : ∀ (d : Dev) r u c, P { d with regs := r, upsets := u, leadCopy := c } = P d)
    (d : Dev) (l : Loc) (m v : Word) : P (d.stored l m v) = P d := by
  unfold Dev.stored Dev.openSeal
  repeat' split
  · rfl
  · exact h d _ _ _
  · exact h d _ _ _
  · exact h d _ _ d.leadCopy

theorem commanded_of_regs {α : Type} (P : Dev → α) (h : ∀ (d : Dev) r u c, P { d with regs := r, upsets := u, leadCopy := c } = P d)
    (d : Dev) (src : Src) (l : Loc) (k : Bool) (v : Word) : P (d.commanded src l k v) = P (d.written src l) :=
  stored_of_regs P h _ _ _ _

theorem at_commanded_ne (d : Dev) (src : Src) {k l : Loc} (b : Bool) (v : Word) (h : l ≠ k) (hs : l.reg ≠ .PKG_SEAL_STAT) :
    (d.commanded src k b v).at l = d.at l := (at_stored_ne (d.written src k) _ _ h hs).trans rfl

theorem n_commanded (d : Dev) (src : Src) (l : Loc) (b : Bool) (v : Word) : (d.commanded src l b v).n = d.n :=
  (commanded_of_regs Dev.n (fun _ _ _ _ => rfl) d src l b v).trans rfl

theorem clk_commanded (d : Dev) (src : Src) (l : Loc) (b : Bool) (v : Word) (y : Nat) : (d.commanded src l b v).clk y = d.clk y :=
  (commanded_of_regs (Dev.clk · y) (fun _ _ _ _ => rfl) d src l b v).trans rfl

/-- What is no output is as it was before the answer. -/
theorem answered_of_out {α : Type} (P : Dev → α) (h : ∀ (d : Dev) o, P { d with out := o } = P d) (d : Dev) (src : Src) : P (d.answered src) = P d := by
  unfold Dev.answered
  repeat' split
  · rfl
  · exact h d _
  · exact h d _

theorem clk_answered (d : Dev) (src : Src) (y : Nat) : (d.answered src).clk y = d.clk y := answered_of_out (Dev.clk · y) (fun _ _ => rfl) d src

theorem fld_answered (d : Dev) (src : Src) (f : Fld) (u i : Nat) : (d.answered src).fld f u i = d.fld f u i := fld_of_at (at_answered _ src _)

theorem fld_commanded (d : Dev) (src : Src) {r : RegId} {f : Fld} (u' i' : Nat) (b : Bool) (v : Word) (u i : Nat) (h : f.reg ≠ r)
    (hs : f.reg ≠ .PKG_SEAL_STAT) : (d.commanded src ⟨r, u', i'⟩ b v).fld f u i = d.fld f u i :=
  fld_of_at (at_commanded_ne _ _ _ _ (fun e => h (congrArg Loc.reg e)) hs)

end Sys2Proof.Machine

/-! ## Clocks (spec/15, R366) -/

namespace Sys2Proof.Machine

/-! Non-maskable events -/

/-- The registers that a non-maskable event may change. -/
def nmiRegs : List RegId := [.IRQ_NMI_CAUSE, .MSIX_PBA, .BB_IRQ_TX]

section
variable {rs : List RegId} (hm : RegId.MSIX_PBA ∈ rs) (hb : RegId.BB_IRQ_TX ∈ rs)
include hm in
theorem apart_msix (d : Dev) (x v : Nat) : Apart rs d (d.msix x v).2 := by
  unfold Dev.msix
  split
  · exact ⟨fun _ _ => rfl, fun _ => rfl, rfl⟩
  · exact ⟨fun l hl => Dev.at_put_ne d (by rintro rfl; exact hl hm) _, fun _ => rfl, rfl⟩

include hb in
theorem apart_assertIrq (d : Dev) (p l vec src : Nat) : Apart rs d (d.assertIrq p l vec src) := by
  have h : ∀ f, Apart rs d (d.modPort p f) := fun f => ⟨fun _ _ => rfl, fun _ => rfl, rfl⟩
  exact ((h _).trans (apart_send _ _ _ _)).trans (apart_setFld _ _ _ _ hb)

include hm hb in
theorem apart_nmiLocal (d : Dev) (x : Nat) : Apart rs d (d.nmiLocal x) := by
  refine (apart_msix hm d x 0).trans (Apart.foldl (fun e p => ?_) _ _)
  split
  · exact apart_assertIrq hb ..
  · exact Apart.refl _ _
end

theorem apart_nmi (d : Dev) (x : Nat) {c : Fld} (hc : c.reg = .IRQ_NMI_CAUSE) : Apart nmiRegs d (d.nmi x c) := by
  have hset : ∀ (e : Dev) (f : Fld) (v : Nat), f.reg = .IRQ_NMI_CAUSE → Apart nmiRegs e (e.setFld f 0 0 v) := fun e f v hf =>
    apart_setFld _ _ _ _ (by rw [hf]; decide)
  have hemit : ∀ (e : Dev) (o : Out), Apart nmiRegs e (e.emit o) := fun e o => ⟨fun _ _ => rfl, fun _ => rfl, rfl⟩
  exact (((((hset _ _ _ rfl).trans (hset _ _ _ hc)).trans (hset _ _ _ rfl)).trans (apart_raise ..)).trans (apart_nmiLocal (by decide) (by decide) ..)).trans (hemit ..)

@[simp] theorem clk_nmi (d : Dev) (x : Nat) (c : Fld) (y : Nat) : (d.nmi x c).clk y = d.clk y :=
  ((apart_nmiLocal (rs := nmiRegs) (by decide) (by decide) _ x).clk y).trans rfl

/-- A field outside the cause of the event, the pending array and the levels asserted stays. -/
theorem fld_nmi_ne (d : Dev) (x : Nat) {c f : Fld} (u i : Nat) (hc : c.reg = .IRQ_NMI_CAUSE) (hf : f.reg ∉ nmiRegs) :
    (d.nmi x c).fld f u i = d.fld f u i := (apart_nmi d x hc).fld hf u i

/-- The cause of a non-maskable event reads 1. -/
theorem fld_nmi (d : Dev) (x : Nat) {c : Fld} (hc : c.reg = .IRQ_NMI_CAUSE) (hb : c.bit = true) (ha : IRQ_NMI_CAUSE.DIE.apart c = true) :
    (d.nmi x c).fld c = 1 := by
  have hw : c.wide = true := (Bool.and_eq_true _ _ ▸ hb).1
  have h1 : c.hi = c.lo := of_decide_eq_true (Bool.and_eq_true _ _ ▸ hb).2
  simp only [Dev.nmi, fld_emit]
  rw [(apart_nmiLocal (rs := [.MSIX_PBA, .BB_IRQ_TX]) (by decide) (by decide) _ x).fld (by rw [hc]; decide), fld_raise, fld_setFld_apart _ _ _ _ _ _ ha (by decide),
    fld_setFld _ _ _ _ hw, h1, show c.lo + 1 - c.lo = 1 by omega]
  rfl

/-! What the operations of a clock leave -/

theorem restore_off {d : Dev} {x : Nat} (h : d.fld CLK_CTL.AUTO_RESTORE x = 0) : d.restore x = d := by
  simp [Dev.restore, Dev.flag, h]

/-- A hold of the root sets HELD, once the measurements of the ports have changed. -/
theorem hold_measured (d : Dev) (x : Nat) : ∃ e, Apart [.PWR_MP_MEAS] d e ∧ d.hold x = e.setFld CLK_STAT.HELD x 0 1 := by
  refine ⟨_, Apart.foldl (rs := [.PWR_MP_MEAS]) (fun e t => ?_) (List.range 8) d, rfl⟩
  exact ⟨fun l hl => Dev.at_put_ne _ (by rintro rfl; exact hl List.mem_cons_self) _, fun _ => rfl, rfl⟩

theorem fld_hold (d : Dev) (x : Nat) : (d.hold x).fld CLK_STAT.HELD x = 1 := by
  obtain ⟨e, -, he⟩ := hold_measured d x
  rw [he, fld_setFld _ _ _ _ (by decide)]
  rfl

theorem fld_hold_apart (d : Dev) (x : Nat) {f : Fld} (u i : Nat) (hf : f.reg ∉ [RegId.PWR_MP_MEAS]) (ha : CLK_STAT.HELD.apart f = true) :
    (d.hold x).fld f u i = d.fld f u i := by
  obtain ⟨e, h, he⟩ := hold_measured d x
  rw [he, fld_setFld_apart _ _ _ _ _ _ ha (by decide), h.fld hf]

@[simp] theorem clk_hold (d : Dev) (x y : Nat) : (d.hold x).clk y = d.clk y := by
  obtain ⟨e, h, he⟩ := hold_measured d x
  rw [he, clk_setFld, h.clk]

end Sys2Proof.Machine

/-! ## Swaps of the core PLLs (R366, R376, R392) -/

namespace Sys2Proof.Machine

/-- A service command of a die, written to the bit `k` of DIE_SVC, is acted on and answered. -/
theorem swCmd_dieSvc {d : Dev} {L : Locks} {src : Src} {x k : Nat} (hx : x < d.n) (hg : d.lets src ⟨.DIE_SVC, x, 0⟩ = true) :
    ∃ b v, (k < 4 → bitsSet v [0, 1, 2, 3] = [k]) ∧ d.swCmd L src ⟨.DIE_SVC, x, 0⟩ (fun c => putBits c k k 1) =
      ((d.commanded src ⟨.DIE_SVC, x, 0⟩ b v).dieSvc L x v).answered src := by
  refine ⟨_, _, fun hk => ?_, swCmd_open (fits_die rfl (by decide) rfl hx) (show RegId.DIE_SVC.open = true by decide) hg⟩
  have hm : (RegId.DIE_SVC.maskWhere fun f => f.ty == .rw || f.ty == .lk) = 0x300#32 := by decide
  have h : ∀ j < 4, (putBits (d.at ⟨.DIE_SVC, x, 0⟩ &&& RegId.DIE_SVC.maskWhere fun f => f.ty == .rw || f.ty == .lk) k k 1).getLsbD j = decide (j = k) := by
    intro j hj
    rw [getLsbD_putBits_set _ (by omega) (by omega), hm, BitVec.getLsbD_and]
    interval_cases j <;> simp
  simp only [bitsSet, List.filter_cons, List.filter_nil, h 0 (by decide), h 1 (by decide), h 2 (by decide), h 3 (by decide)]
  interval_cases k <;> rfl

theorem swCmd_pllSwap {d : Dev} {L : Locks} {src : Src} {x : Nat} (hx : x < d.n) (hg : d.lets src ⟨.DIE_SVC, x, 0⟩ = true) :
    ∃ b v, d.swCmd L src ⟨.DIE_SVC, x, 0⟩ (fun c => putBits c 1 1 1) = ((d.commanded src ⟨.DIE_SVC, x, 0⟩ b v).swapCmd x).answered src := by
  obtain ⟨b, v, hv, he⟩ := swCmd_dieSvc (L := L) (k := 1) hx hg
  exact ⟨b, v, he.trans (by rw [Dev.dieSvc, hv (by decide)]; rfl)⟩

theorem spare_cases (d : Dev) (x : Nat) :
    d.spare x = 2 ∧ d.flag DIE_SVC_STAT.PLL_ROOT x = true ∨ d.spare x = 3 ∧ d.flag DIE_SVC_STAT.PLL_ROOT x = false := by
  unfold Dev.spare
  cases d.flag DIE_SVC_STAT.PLL_ROOT x <;> simp

theorem spare_congr {d e : Dev} {x : Nat} (h : e.fld DIE_SVC_STAT.PLL_ROOT x = d.fld DIE_SVC_STAT.PLL_ROOT x) : e.spare x = d.spare x := by
  unfold Dev.spare Dev.flag
  rw [h]

theorem wide_pllField (k : Nat) : (pllField k).wide = true := by
  unfold pllField
  split
  · decide
  · split <;> decide

/-- A core PLL that starts reads LOCKING. -/
theorem fld_startPll (d : Dev) (x k : Nat) : (d.startPll x k).pll x k = 1 := by
  have h : ∀ e : Dev, (e.setPll x k psLocking).fld (pllField k) x = 1 % 2 ^ ((pllField k).hi + 1 - (pllField k).lo) := fun e =>
    fld_setFld _ _ _ _ (wide_pllField k)
  refine (h _).trans ?_
  unfold pllField
  split
  · rfl
  · split <;> rfl

theorem fld_startPll_apart (d : Dev) (x k : Nat) {f : Fld} (u i : Nat) (h : (pllField k).apart f = true) : (d.startPll x k).fld f u i = d.fld f u i := by
  rw [Dev.startPll, fld_modClk, Dev.setPll, fld_setFld_apart _ _ _ _ _ _ h (wide_pllField k), Dev.setRef, fld_modClk]

@[simp] theorem swap_startPll (d : Dev) (x k : Nat) : ((d.startPll x k).clk x).swap = (d.clk x).swap := by
  simp [Dev.startPll, Dev.setRef, Dev.setPll]

/-- The spare PLL starts: the swap runs, the root stays. -/
theorem swapCmd_starts {d : Dev} {x : Nat} (hs : (d.clk x).swap = none) (hf : d.srcFailed x (d.spare x) = false) :
    ((d.swapCmd x).clk x).swap = some false ∧ (d.swapCmd x).fld DIE_SVC_STAT.PLL_BUSY x = 1 ∧ (d.swapCmd x).pll x (d.spare x) = 1 ∧
      (d.swapCmd x).fld CLK_STAT.ROOT x = d.fld CLK_STAT.ROOT x := by
  have he : d.swapCmd x = ((d.modClk x fun c => { c with swap := some false }).setFld DIE_SVC_STAT.PLL_BUSY x 0 1).startPll x (d.spare x) := by
    simp [Dev.swapCmd, Dev.pllSwap, hs, hf]
  have ha : ∀ f : Fld, f = DIE_SVC_STAT.PLL_BUSY ∨ f = CLK_STAT.ROOT → (pllField (d.spare x)).apart f = true := by
    rcases spare_cases d x with ⟨h, -⟩ | ⟨h, -⟩ <;> rw [h] <;> rintro f (rfl | rfl) <;> decide
  rw [he]
  refine ⟨by simp, ?_, fld_startPll .., ?_⟩
  · rw [fld_startPll_apart _ _ _ _ _ (ha _ (.inl rfl)), fld_setFld _ _ _ _ (by decide)]
    rfl
  · rw [fld_startPll_apart _ _ _ _ _ (ha _ (.inr rfl)), fld_setFld_apart _ _ _ _ _ _ (by decide) (by decide), fld_modClk]

/-- A refusal of a service command of a die shows its code. -/
theorem fld_dieRefuse (d : Dev) (x c : Nat) : (d.dieRefuse x c).fld DIE_SVC_STAT.LAST_REFUSAL x = c % 256 := by
  rw [Dev.dieRefuse, fld_raise, fld_setFld _ _ _ _ (by decide)]
  rfl

@[simp] theorem clk_dieRefuse (d : Dev) (x c y : Nat) : (d.dieRefuse x c).clk y = d.clk y := by
  rw [Dev.dieRefuse, clk_raise, clk_setFld]

/-- A PLL that locks while the root runs reads LOCKED; the root stays. -/
theorem pllLocks_running {d : Dev} {x : Nat} {q : Pll} (hh : d.rootHeld x = false) (hl : d.pll x (pllMon q) = 1 ∨ d.pll x (pllMon q) = 3) :
    (d.pllLocks x q).pll x (pllMon q) = 2 ∧ (d.pllLocks x q).fld CLK_STAT.ROOT x = d.fld CLK_STAT.ROOT x := by
  have ha : (pllField (pllMon q)).apart CLK_STAT.HELD = true ∧ (pllField (pllMon q)).apart CLK_STAT.ROOT = true := by cases q <;> decide
  have hhold : ∀ (e : Dev) (f : Clock → Clock), ((e.setPll x (pllMon q) psLocked).modClk x f).rootHeld x = e.rootHeld x := fun e f => by
    rw [Dev.rootHeld, flag_modClk, Dev.flag, Dev.setPll, fld_setFld_apart _ _ _ _ _ _ ha.1 (wide_pllField _)]
    rfl
  simp only [Dev.pllLocks, show d.pll x (pllMon q) = psLocking ∨ d.pll x (pllMon q) = psCoast from hl, if_true, hhold, hh, Bool.false_and, Bool.false_eq_true,
    if_false]
  constructor
  · rw [Dev.pll, fld_modClk, Dev.setPll, fld_setFld _ _ _ _ (wide_pllField _)]
    cases q <;> rfl
  · rw [fld_modClk, Dev.setPll, fld_setFld_apart _ _ _ _ _ _ ha.2 (wide_pllField _)]

/-- The root on the PLL `k`, with the other one stopped and the swap counted (R366). -/
def Dev.swapped (d : Dev) (x k : Nat) : Dev :=
  ((((((d.setRoot x (k - 2)).unhold x).modClk x fun c => { c with swap := none, swRoot := false }).setPll x (5 - k) psOff).setFld
    DIE_SVC_STAT.PLL_ROOT x 0 (k - 2)).setFld DIE_SVC_STAT.PLL_BUSY x 0 0).bump DIE_SVC_STAT.SWAPS x

theorem pll_release (d : Dev) (x k v : Nat) (f : Clock → Clock) : (((d.setRoot x v).unhold x).modClk x f).pll x k = d.pll x k := by
  have ha : CLK_STAT.HELD.apart (pllField k) = true ∧ CLK_STAT.ROOT.apart (pllField k) = true := by
    unfold pllField
    split
    · decide
    · split <;> decide
  rw [Dev.pll, fld_modClk, Dev.unhold, fld_setFld_apart _ _ _ _ _ _ ha.1 (by decide), Dev.setRoot, fld_setFld_apart _ _ _ _ _ _ ha.2 (by decide), Dev.pll]

theorem swapDone_swapped {d : Dev} {x : Nat} (hs : (d.clk x).swap = some false) (ho : d.pll x (5 - d.spare x) = 2) (hr : d.fld CLK_STAT.ROOT x ≠ 2) :
    d.swapDone x = d.swapped x (d.spare x) := by
  have hr' : (d.fld CLK_STAT.ROOT x == rootFio) = false := beq_eq_false_iff_ne.mpr hr
  have hf : (2 == psFailed || 2 == psCoast) = false := rfl
  have h2 : ¬ (2 = psFailed) := by decide
  simp only [Dev.swapDone, hs, hr', hf, Bool.and_false, Bool.false_eq_true, if_false, pll_release, ho, h2, Dev.swapped]

/-- The root has moved to the spare and the former carrier is off (R366). -/
theorem swapped_effect {d : Dev} {x k : Nat} (hk : k = 2 ∨ k = 3) (hl : d.pll x k = 2) :
    let e := d.swapped x k
    e.fld CLK_STAT.ROOT x = k - 2 ∧ e.fld DIE_SVC_STAT.PLL_ROOT x = k - 2 ∧ e.fld DIE_SVC_STAT.PLL_BUSY x = 0 ∧
      (e.clk x).swap = none ∧ e.pll x (5 - k) = 0 ∧ e.pll x k = 2 ∧ e.fld DIE_SVC_STAT.SWAPS x = min (d.fld DIE_SVC_STAT.SWAPS x + 1) 255 := by
  have hset : ∀ (e : Dev) (f : Fld) (v : Nat), f.wide = true → v < 2 ^ (f.hi + 1 - f.lo) → (e.setFld f x 0 v).fld f x = v := fun e f v hf hv =>
    (fld_setFld _ _ _ _ hf).trans (Nat.mod_eq_of_lt hv)
  have hclk : ((d.swapped x k).clk x).swap = none := by
    rw [Dev.swapped, clk_bump, clk_setFld, clk_setFld, Dev.setPll, clk_setFld, clk_modClk_same]
  rcases hk with rfl | rfl <;> dsimp only <;> refine ⟨?_, ?_, ?_, hclk, ?_, ?_, ?_⟩
  all_goals
    simp (disch := decide) only [Dev.swapped, Dev.pll, pllField, Dev.setPll, Dev.setRoot, Dev.unhold, Nat.reduceSub, Nat.reduceEqDiff, if_true, if_false,
      fld_bump, fld_bump_apart, fld_setFld_apart, hset, fld_modClk] at hl ⊢
  · rfl
  · exact hl
  · rfl
  · rfl
  · exact hl
  · rfl

/-- The count of a monitor and its judgement, as CLK_MON_CNT shows them. -/
def Dev.monStored (d : Dev) (x k count bad : Nat) : Dev := (d.setFld CLK_MON_CNT.COUNT x k count).setFld CLK_MON_CNT.FAIL x k bad

theorem fld_monStored_ne (d : Dev) (x k count bad : Nat) {f : Fld} (u i : Nat) (h : f.reg ≠ .CLK_MON_CNT) :
    (d.monStored x k count bad).fld f u i = d.fld f u i := by
  rw [Dev.monStored, fld_setFld_apart _ _ _ _ _ _ (apart_of_reg h) (by decide), fld_setFld_apart _ _ _ _ _ _ (apart_of_reg h) (by decide)]

theorem pll_monStored (d : Dev) (x k count bad j : Nat) : (d.monStored x k count bad).pll x j = d.pll x j :=
  fld_monStored_ne _ _ _ _ _ _ _ (by rw [pllField_reg]; decide)

theorem clk_monStored (d : Dev) (x k count bad y : Nat) : (d.monStored x k count bad).clk y = d.clk y := by
  rw [Dev.monStored, clk_setFld, clk_setFld]

theorem monResult_pass {d : Dev} {x k count : Nat} (ha : (d.clk x).armed = true) (hn : (d.nominal x (.mon k)).isSome = true)
    (hp : d.passes x (.mon k) count = true) : d.monResult x (.mon k) count = (d.monStored x k count 0).resultPass x k := by
  simp only [Dev.monResult, ha, Option.isNone_eq_false_iff.mpr hn, hp, Bool.not_true, Bool.or_self, Bool.false_eq_true, if_false, if_true, Dev.monStored]

theorem monResult_fail {d : Dev} {x k count : Nat} (ha : (d.clk x).armed = true) (hp : d.passes x (.mon k) count = false) :
    d.monResult x (.mon k) count = (d.monStored x k count 1).resultFail x k := by
  have hn : (d.nominal x (.mon k)).isSome = true := by
    unfold Dev.passes at hp
    split at hp
    · cases hp
    · simp_all
  simp only [Dev.monResult, ha, Option.isNone_eq_false_iff.mpr hn, hp, Bool.not_true, Bool.or_self, Bool.false_eq_true, if_false, Dev.monStored]

theorem resultPass_confirms {d : Dev} {x k : Nat} (hk : (decide (k = 2) || decide (k = 3)) = true) (hf : d.srcFailed x k = false) (hl : d.pll x k = 2)
    (hs : (d.clk x).swap.isSome = true) (hsp : d.spare x = k) :
    d.resultPass x k = (d.modClk x fun q => { q with fresh := setBit q.fresh k true }).swapDone x := by
  have hcond : ((decide (k = 2) || decide (k = 3)) && d.pll x k == psLocked) = true := by rw [hk, hl]; rfl
  have hsp' : (d.modClk x fun q => { q with fresh := setBit q.fresh k true }).spare x = k := (spare_congr (fld_modClk ..)).trans hsp
  rw [Dev.resultPass, if_neg (by rw [hf]; decide), if_pos hcond]
  dsimp only
  rw [if_pos (by rw [clk_modClk_same, hs, hsp', beq_self_eq_true]; rfl)]

/-- The result that confirms the spare ends the swap (R366). -/
theorem monResult_confirms {d : Dev} {x count : Nat} (ha : (d.clk x).armed = true) (hs : (d.clk x).swap = some false)
    (hf : d.srcFailed x (d.spare x) = false) (hl : d.pll x (d.spare x) = 2) (ho : d.pll x (5 - d.spare x) = 2) (hr : d.fld CLK_STAT.ROOT x ≠ 2)
    (hp : d.passes x (.mon (d.spare x)) count = true) :
    ∃ c : Dev, (∀ f : Fld, f.reg ≠ .CLK_MON_CNT → c.fld f x = d.fld f x) ∧ d.monResult x (.mon (d.spare x)) count = c.swapped x (d.spare x) := by
  have hk : (decide (d.spare x = 2) || decide (d.spare x = 3)) = true := by rcases spare_cases d x with ⟨h, -⟩ | ⟨h, -⟩ <;> rw [h] <;> rfl
  have hn : (d.nominal x (.mon (d.spare x))).isSome = true := by
    rcases spare_cases d x with ⟨h, -⟩ | ⟨h, -⟩ <;> rw [h] at hl ⊢ <;> simp [Dev.nominal, hl, psLocked]
  have hfld := fun (f : Fld) (h : f.reg ≠ .CLK_MON_CNT) => fld_monStored_ne d x (d.spare x) count 0 x 0 h
  rw [monResult_pass ha hn hp]
  have hc := clk_monStored d x (d.spare x) count 0 x
  have hpll := pll_monStored d x (d.spare x) count 0
  generalize d.monStored x (d.spare x) count 0 = c at *
  have hsp : c.spare x = d.spare x := spare_congr (hfld _ (by decide))
  have hres := resultPass_confirms (d := c) hk (by rw [Dev.srcFailed, hc]; exact hf) ((hpll _).trans hl) (by rw [hc, hs]; rfl) hsp
  have hm := fun (f : Fld) => fld_modClk c x (fun q => { q with fresh := setBit q.fresh (d.spare x) true }) f x 0
  have hclk := clk_modClk_same c x (fun q => { q with fresh := setBit q.fresh (d.spare x) true })
  generalize (c.modClk x fun q => { q with fresh := setBit q.fresh (d.spare x) true }) = e at *
  have hsp' : e.spare x = d.spare x := (spare_congr (hm _)).trans hsp
  refine ⟨e, fun f h => (hm f).trans (hfld f h), hres.trans ?_⟩
  rw [swapDone_swapped (by rw [hclk]; simp only [hc, hs]) (by rw [hsp']; exact (hm _).trans ((hpll _).trans ho))
    (((hm _).trans (hfld _ (by decide))).trans_ne hr), hsp']

/-- Settles O33. -/
theorem pllSwaps : Obligations.PllSwaps := by
  unfold Obligations.PllSwaps
  intro s src x hx
  refine ⟨fun hg => ⟨fun hs hf => State.doesSome_perform (by dsimp only [exec]; rfl) ?starts,
    fun hs hf => State.doesSome_perform (by dsimp only [exec]; rfl) ?failed,
    fun b hs => State.doesSome_perform (by dsimp only [exec]; rfl) ?busy⟩,
    fun q hh => ⟨fun hl => State.doesSome_perform (by dsimp only [exec]; rfl) ?locks, fun hl => State.does_perform (by dsimp only [exec]; rfl) ?locked⟩,
    fun count ha hs hf hl ho hr hp => State.doesSome_perform (by dsimp only [exec]; rfl) ?confirmed⟩
  case starts =>
    obtain ⟨b, v, he⟩ := swCmd_pllSwap (L := s.locks) hx hg
    have hc := clk_commanded s.dev src ⟨.DIE_SVC, x, 0⟩ b v x
    have hsp : (s.dev.commanded src ⟨.DIE_SVC, x, 0⟩ b v).spare x = s.dev.spare x := spare_congr (fld_commanded _ _ _ _ _ _ _ _ (by decide) (by decide))
    rw [he]
    simp only [clk_answered, Dev.pll, fld_answered]
    rw [← hsp]
    obtain ⟨h1, h2, h3, h4⟩ := swapCmd_starts (hc ▸ hs) (by rw [Dev.srcFailed, hc, hsp]; exact hf)
    exact ⟨h1, h2, h3, h4.trans (fld_commanded _ _ _ _ _ _ _ _ (by decide) (by decide))⟩
  case failed =>
    obtain ⟨b, v, he⟩ := swCmd_pllSwap (L := s.locks) hx hg
    have hc := clk_commanded s.dev src ⟨.DIE_SVC, x, 0⟩ b v x
    have hsp : (s.dev.commanded src ⟨.DIE_SVC, x, 0⟩ b v).spare x = s.dev.spare x := spare_congr (fld_commanded _ _ _ _ _ _ _ _ (by decide) (by decide))
    have hr : (s.dev.commanded src ⟨.DIE_SVC, x, 0⟩ b v).swapCmd x = (s.dev.commanded src ⟨.DIE_SVC, x, 0⟩ b v).dieRefuse x 4 := by
      simp [Dev.swapCmd, Dev.pllSwap, Dev.srcFailed, hc, hs, hsp, show ((s.dev.clk x).failed.testBit (s.dev.spare x)) = true from hf]
    rw [he, hr]
    exact ⟨(fld_answered ..).trans (fld_dieRefuse ..), by rw [clk_answered, clk_dieRefuse, hc]⟩
  case busy =>
    obtain ⟨b', v, he⟩ := swCmd_pllSwap (L := s.locks) hx hg
    have hc := clk_commanded s.dev src ⟨.DIE_SVC, x, 0⟩ b' v x
    have hfree : (s.dev.commanded src ⟨.DIE_SVC, x, 0⟩ b' v).free = s.dev.free := (commanded_of_regs Dev.free (fun _ _ _ _ => rfl) ..).trans rfl
    have hr : (s.dev.commanded src ⟨.DIE_SVC, x, 0⟩ b' v).swapCmd x = ((s.dev.commanded src ⟨.DIE_SVC, x, 0⟩ b' v).draw.2).dieRefuse x
        ((Config.freeValue s.dev.free).toNat % 256) := by
      simp only [Dev.swapCmd, Dev.pllSwap, hc, hs, Option.isSome_some, Bool.true_or, if_true, Dev.draw, hfree]
    rw [he, hr]
    refine ⟨(fld_answered ..).trans ((fld_dieRefuse ..).trans (Nat.mod_mod _ _)), ?_⟩
    rw [clk_answered, clk_dieRefuse]
    exact hc
  case locks => exact pllLocks_running hh hl
  case locked =>
    simp only [Dev.pllLocks, hl, psLocking, psCoast, Nat.reduceEqDiff, or_self, if_false, OfNat.ofNat_ne_one]
  case confirmed =>
    have hroot : s.dev.fld CLK_STAT.ROOT x ≠ 2 := by rw [hr]; split <;> decide
    obtain ⟨c, hc, he⟩ := monResult_confirms ha hs hf hl ho hroot hp
    rw [he, ← hc DIE_SVC_STAT.SWAPS (by decide)]
    exact swapped_effect ((spare_cases s.dev x).imp And.left And.left) ((hc _ (by rw [pllField_reg]; decide)).trans hl)

end Sys2Proof.Machine

/-! ## Failures of clock sources (R377, R378, R386 to R391) -/

namespace Sys2Proof.Machine

/-- The bits of CLK_STAT that follow the failed sources. -/
def okFields : List Fld := [CLK_STAT.XA_OK, CLK_STAT.XB_OK, CLK_STAT.FIO_OK, CLK_STAT.SIO_OK]

theorem fld_syncOk_apart (d : Dev) (x : Nat) {f : Fld} (u i : Nat) (h : (okFields.all fun g => g.apart f) = true) : (d.syncOk x).fld f u i = d.fld f u i := by
  simp only [okFields, List.all_cons, List.all_nil, Bool.and_eq_true, Bool.and_true] at h
  obtain ⟨h1, h2, h3, h4⟩ := h
  rw [Dev.syncOk, fld_setFld_apart _ _ _ _ _ _ h4 (by decide), fld_setFld_apart _ _ _ _ _ _ h3 (by decide), fld_setFld_apart _ _ _ _ _ _ h2 (by decide),
    fld_setFld_apart _ _ _ _ _ _ h1 (by decide)]

theorem clk_syncOk (d : Dev) (x y : Nat) : (d.syncOk x).clk y = d.clk y := by
  rw [Dev.syncOk, clk_setFld, clk_setFld, clk_setFld, clk_setFld]

theorem clk_clkEvent (d : Dev) (f : Fld) (x y : Nat) : (d.clkEvent f x).clk y = d.clk y := clk_status ..

theorem fld_clkEvent_ne (d : Dev) {f g : Fld} (x u i : Nat) (h : f.apart g = true) (hw : f.wide = true) : (d.clkEvent f x).fld g u i = d.fld g u i :=
  fld_status_apart _ _ _ _ _ _ _ _ h hw

theorem fld_clkEvent (d : Dev) {f : Fld} (x : Nat) (h : f.bit = true) : (d.clkEvent f x).fld f x = 1 := fld_status _ _ _ _ _ _ h

theorem failBit_facts (k : Nat) : (failBit k).bit = true ∧ (failBit k).wide = true ∧ (failBit k).reg = .CLK_EVENT := by
  unfold failBit
  split <;> exact ⟨by decide, by decide, rfl⟩

theorem nmiBit_facts (k : Nat) : (nmiBit k).bit = true ∧ IRQ_NMI_CAUSE.DIE.apart (nmiBit k) = true ∧ (nmiBit k).reg = .IRQ_NMI_CAUSE := by
  unfold nmiBit
  split <;> exact ⟨by decide, by decide, rfl⟩

/-- What a source marked failed leaves: its bit, its event, and every field outside both. -/
theorem markFailed_effect (d : Dev) (x k : Nat) :
    ((d.markFailed x k).clk x).failed = (d.clk x).failed ||| 2 ^ k ∧ (d.markFailed x k).fld (failBit k) x = 1 ∧
      ∀ f : Fld, f.reg ≠ .CLK_EVENT → (okFields.all fun g => g.apart f) = true → ∀ u i, (d.markFailed x k).fld f u i = d.fld f u i := by
  obtain ⟨hbit, hw, hr⟩ := failBit_facts k
  refine ⟨?_, fld_clkEvent _ _ hbit, fun f hf ho u i => ?_⟩
  · rw [Dev.markFailed, clk_clkEvent, clk_syncOk, clk_modClk_same]
  · rw [Dev.markFailed, fld_clkEvent_ne _ _ _ _ (apart_of_reg (by rw [hr]; exact hf)) hw, fld_syncOk_apart _ _ _ _ ho, fld_modClk]

/-- The other parts of a clock that a source marked failed leaves. -/
theorem clk_markFailed (d : Dev) (x k : Nat) :
    (d.markFailed x k).clk x = { d.clk x with failed := (d.clk x).failed ||| 2 ^ k, good := (d.clk x).good.filter fun e => e.1 != k } := by
  rw [Dev.markFailed, clk_clkEvent, clk_syncOk, clk_modClk_same]

theorem srcFailed_mark (n : Nat) (k j : Nat) : (n ||| 2 ^ k).testBit j = (n.testBit j || decide (k = j)) := by
  rw [Nat.testBit_or, Nat.testBit_two_pow]

/-- The root on FIO with its non-maskable event: what it reads, and what stays (R377, R390). -/
theorem rootToFio_nmi {d : Dev} {x k : Nat} (h6 : d.srcFailed x 6 = false) :
    let e := (d.rootToFio x).nmi x (nmiBit k)
    e.fld CLK_STAT.ROOT x = 2 ∧ e.fld (nmiBit k) = 1 ∧ (e.clk x).failed = (d.clk x).failed ∧
      ∀ f : Fld, f.reg ∉ nmiRegs → CLK_STAT.ROOT.apart f = true → CLK_STAT.HELD.apart f = true → ∀ u i, e.fld f u i = d.fld f u i := by
  obtain ⟨hbit, hap, hr⟩ := nmiBit_facts k
  have he : d.rootToFio x = ((d.setRoot x rootFio).unhold x).modClk x fun c => { c with swRoot := true } := by
    rw [Dev.rootToFio, if_neg (by rw [h6]; decide)]
  have hf : ∀ f : Fld, CLK_STAT.HELD.apart f = true → ∀ u i, (d.rootToFio x).fld f u i = (d.setRoot x rootFio).fld f u i := fun f hh u i => by
    rw [he, fld_modClk, Dev.unhold, fld_setFld_apart _ _ _ _ _ _ hh (by decide)]
  refine ⟨?_, fld_nmi _ _ hr hbit hap, ?_, fun f hn hroot hheld u i => ?_⟩
  · rw [fld_nmi_ne _ _ _ _ hr (by decide), hf _ (by decide), Dev.setRoot, fld_setFld _ _ _ _ (by decide)]
    rfl
  · rw [clk_nmi, he, clk_modClk_same, Dev.unhold, clk_setFld, Dev.setRoot, clk_setFld]
  · rw [fld_nmi_ne _ _ _ _ hr hn, hf _ hheld, Dev.setRoot, fld_setFld_apart _ _ _ _ _ _ hroot (by decide)]

/-- PLL A, which carries the root, goes down: the root moves to FIO (R377, R390). -/
theorem carrierDown {d b : Dev} {x st : Nat} (hst : st < 8) (hb : b = if st = psFailed then d.markFailed x 2 else d.clkEvent (failBit 2) x)
    (hr : d.fld CLK_STAT.ROOT x = 0) (h6 : d.srcFailed x 6 = false) (ha : d.fld CLK_CTL.AUTO_RESTORE x = 0) :
    let e := d.corePllDown x 2 st
    e.pll x 2 = st ∧ e.fld CLK_STAT.ROOT x = 2 ∧ e.fld IRQ_NMI_CAUSE.PLLA = 1 ∧ e.fld CLK_EVENT.PLLA_FAIL x = 1 ∧ (e.clk x).failed = (b.clk x).failed ∧
      ∀ (f : Fld) (i : Nat), f.reg = .CLK_MON_CNT → e.fld f x i = d.fld f x i := by
  have hbf : b.fld CLK_EVENT.PLLA_FAIL x = 1 ∧ b.srcFailed x 6 = false ∧
      ∀ f : Fld, f.reg ≠ .CLK_EVENT → (okFields.all fun g => g.apart f) = true → ∀ i, b.fld f x i = d.fld f x i := by
    rw [hb]
    split
    · obtain ⟨h1, h2, h3⟩ := markFailed_effect d x 2
      exact ⟨h2, by rw [Dev.srcFailed, h1, srcFailed_mark]; simpa [Dev.srcFailed] using h6, fun f hf ho i => h3 f hf ho x i⟩
    · exact ⟨fld_clkEvent _ _ (failBit_facts 2).1, by rw [Dev.srcFailed, clk_clkEvent]; exact h6,
        fun f hf _ i => fld_clkEvent_ne _ _ _ _ (apart_of_reg (by rw [(failBit_facts 2).2.2]; exact hf)) (failBit_facts 2).2.1⟩
  obtain ⟨hev, hb6, hbs⟩ := hbf
  have hpf : ∀ f : Fld, (pllField 2).apart f = true → ∀ i, ((b.setPll x 2 st).modClk x fun c => { c with fresh := setBit c.fresh 2 false }).fld f x i = b.fld f x i :=
    fun f h i => by rw [fld_modClk, Dev.setPll, fld_setFld_apart _ _ _ _ _ _ h (wide_pllField _)]
  have hp2 : ((b.setPll x 2 st).modClk x fun c => { c with fresh := setBit c.fresh 2 false }).pll x 2 = st := by
    rw [Dev.pll, fld_modClk, Dev.setPll, fld_setFld _ _ _ _ (wide_pllField _)]
    exact Nat.mod_eq_of_lt hst
  have hpc : (((b.setPll x 2 st).modClk x fun c => { c with fresh := setBit c.fresh 2 false }).clk x).failed = (b.clk x).failed := by
    rw [clk_modClk_same, Dev.setPll, clk_setFld]
  have hdef : d.corePllDown x 2 st = (let e := (b.setPll x 2 st).modClk x fun c => { c with fresh := setBit c.fresh 2 false }
      if e.carrier x = some 2 then (if e.srcFailed x 6 then e.rootToFio x else (e.rootToFio x).nmi x (nmiBit 2)).restore x
      else if (e.clk x).swap.isSome && e.spare x == 2 then e.swapFail x else e) := by
    rw [Dev.corePllDown, hb]
  rw [hdef]
  generalize ((b.setPll x 2 st).modClk x fun c => { c with fresh := setBit c.fresh 2 false }) = e at *
  have hcar : e.carrier x = some 2 := by
    rw [Dev.carrier, hpf _ (by decide), hbs _ (by decide) (by decide), hr]
    rfl
  have he6 : e.srcFailed x 6 = false := by rw [Dev.srcFailed, hpc]; exact hb6
  obtain ⟨h1, h2, h3, h4⟩ := rootToFio_nmi (k := 2) he6
  have hauto : ((e.rootToFio x).nmi x (nmiBit 2)).fld CLK_CTL.AUTO_RESTORE x = 0 := by
    rw [h4 _ (by decide) (by decide) (by decide), hpf _ (by decide), hbs _ (by decide) (by decide), ha]
  simp only [hcar, if_true, he6, Bool.false_eq_true, if_false, restore_off hauto]
  refine ⟨(h4 _ (by decide) (by decide) (by decide) ..).trans hp2, h1, h2, ?_, h3.trans hpc, fun f i hf => ?_⟩
  · rw [h4 _ (by decide) (by decide) (by decide), hpf _ (by decide), hev]
  · rw [h4 _ (by rw [hf]; decide) (apart_of_reg (by rw [hf]; decide)) (apart_of_reg (by rw [hf]; decide)), hpf _ (apart_of_reg (by rw [hf]; decide)),
      hbs _ (by rw [hf]; decide) (by simp [okFields, Fld.apart, hf])]

/-! Ports moved to their loop clock -/

theorem foldl_toLoop (ps : List Nat) (d : Dev) :
    (∀ f : Fld, f ≠ BB_LINK_STAT.LOOP → BB_LINK_STAT.LOOP.apart f = true → ∀ u i,
        (ps.foldl (fun d p => (d.setFld BB_LINK_STAT.LOOP p 0 1).emit (.skp p 16)) d).fld f u i = d.fld f u i) ∧
      (∀ y, (ps.foldl (fun d p => (d.setFld BB_LINK_STAT.LOOP p 0 1).emit (.skp p 16)) d).clk y = d.clk y) ∧
      ∀ p, p ∈ ps ∨ d.fld BB_LINK_STAT.LOOP p = 1 → (ps.foldl (fun d p => (d.setFld BB_LINK_STAT.LOOP p 0 1).emit (.skp p 16)) d).fld BB_LINK_STAT.LOOP p = 1 := by
  induction ps generalizing d with
  | nil => exact ⟨fun _ _ _ _ _ => rfl, fun _ => rfl, fun p h => h.resolve_left (by simp)⟩
  | cons q ps ih =>
    obtain ⟨h1, h2, h3⟩ := ih ((d.setFld BB_LINK_STAT.LOOP q 0 1).emit (.skp q 16))
    have hq : ((d.setFld BB_LINK_STAT.LOOP q 0 1).emit (.skp q 16)).fld BB_LINK_STAT.LOOP q = 1 := by
      rw [fld_emit, fld_setFld _ _ _ _ (by decide)]
      rfl
    refine ⟨fun f hf ha u i => (h1 f hf ha u i).trans ?_, fun y => (h2 y).trans ?_, fun p h => h3 p ?_⟩
    · rw [fld_emit, fld_setFld_apart _ _ _ _ _ _ ha (by decide)]
    · rw [clk_emit, clk_setFld]
    · by_cases hpq : p = q
      · exact .inr (hpq ▸ hq)
      · refine h.imp (fun hm => (List.mem_cons.mp hm).resolve_left hpq) fun hl => ?_
        rw [fld_emit, Dev.fld_setFld_ne _ _ _ _ _ _ _ _ (by simp [hpq]), hl]

/-- Ports that move to their loop clock: LOOP reads 1, the other fields stay (R378). -/
theorem portsToLoop_effect (d : Dev) (x : Nat) :
    (∀ f : Fld, BB_LINK_STAT.LOOP.apart f = true → ∀ u i, (d.portsToLoop x).fld f u i = d.fld f u i) ∧
      ((d.portsToLoop x).clk x).failed = (d.clk x).failed ∧ ∀ p ∈ d.loopable x, (d.portsToLoop x).fld BB_LINK_STAT.LOOP p = 1 := by
  unfold Dev.portsToLoop
  dsimp only
  split
  all_goals
    obtain ⟨h1, h2, h3⟩ := foldl_toLoop (d.loopable x) _
    refine ⟨fun f ha u i => (h1 f (by rintro rfl; exact absurd ha (by decide)) ha u i).trans ?_, (congrArg Clock.failed (h2 x)).trans ?_, fun p hp => h3 p (.inl hp)⟩
  · rfl
  · rfl
  · exact fld_modClk ..
  · rw [clk_modClk_same]

/-- The Body Bus PLL coasts: its ports move to their loop clocks (R378). -/
theorem bbPllDown_coasts (d : Dev) (x : Nat) :
    (d.bbPllDown x psCoast).pll x 4 = 3 ∧ ∀ p ∈ d.loopable x, (d.bbPllDown x psCoast).fld BB_LINK_STAT.LOOP p = 1 := by
  have h3 : ¬ psCoast = psFailed := by decide
  generalize hc : (d.clkEvent (failBit 4) x).setPll x 4 psCoast = c
  have hstat : ∀ f : Fld, f.reg ≠ .CLK_EVENT → f.reg ≠ .CLK_STAT → ∀ u i, c.fld f u i = d.fld f u i := fun f he hs u i => by
    rw [← hc, Dev.setPll, fld_setFld_apart _ _ _ _ _ _ (apart_of_reg (by rw [pllField_reg]; exact hs)) (wide_pllField _),
      fld_clkEvent_ne _ _ _ _ (apart_of_reg (by rw [(failBit_facts 4).2.2]; exact he)) (failBit_facts 4).2.1]
  have hpll : c.pll x 4 = 3 := by
    rw [← hc, Dev.pll, Dev.setPll, fld_setFld _ _ _ _ (wide_pllField _)]
    rfl
  have hloop : c.loopable x = d.loopable x := by
    simp only [Dev.loopable, Dev.active?, Dev.lstate, Dev.flag, hstat BB_LINK_STAT.STATE (by decide) (by decide),
      hstat BB_LINK_STAT.LOOP (by decide) (by decide), hstat BB_LANE_STAT.ACTIVE (by decide) (by decide)]
  obtain ⟨h1, -, h2⟩ := portsToLoop_effect c x
  have hdef : d.bbPllDown x psCoast = if !(c.loopable x).isEmpty then (c.portsToLoop x).nmi x IRQ_NMI_CAUSE.BBPLL else c.portsToLoop x := by
    rw [Dev.bbPllDown, if_neg h3, hc]
  rw [hdef]
  split
  · refine ⟨?_, fun p hp => ?_⟩
    · rw [Dev.pll, fld_nmi_ne _ _ _ _ rfl (by decide), h1 _ (by decide)]
      exact hpll
    · rw [fld_nmi_ne _ _ _ _ rfl (by decide)]
      exact h2 p (hloop ▸ hp)
  · exact ⟨(h1 _ (by decide) ..).trans hpll, fun p hp => h2 p (hloop ▸ hp)⟩

/-- A crystal result that fails under a locked carrier holds the root for the arbitration (R391). -/
theorem crystalResultFail_holds {d : Dev} {x c : Nat} (ha : (d.clk x).arb = none) (hc : d.carrier x = some 2) (hl : d.lockedOn x 2 c = true)
    (h6 : d.srcFailed x 6 = false) :
    let e := d.crystalResultFail x c
    e.fld CLK_STAT.HELD x = 1 ∧ e.fld CLK_STAT.ARBITRATING x = 1 ∧ (e.clk x).arb = some c ∧ (e.clk x).failed = (d.clk x).failed := by
  have hend : ∀ (e : Dev) (m : Bool), e.fld CLK_STAT.HELD x = 1 → (e.clk x).failed = (d.clk x).failed →
      let b := (e.modClk x fun q => { q with arb := some c, arbMoved := m }).setFld CLK_STAT.ARBITRATING x 0 1
      b.fld CLK_STAT.HELD x = 1 ∧ b.fld CLK_STAT.ARBITRATING x = 1 ∧ (b.clk x).arb = some c ∧ (b.clk x).failed = (d.clk x).failed := by
    intro e m hh hf
    refine ⟨?_, ?_, ?_, ?_⟩
    · rw [fld_setFld_apart _ _ _ _ _ _ (by decide) (by decide), fld_modClk, hh]
    · rw [fld_setFld _ _ _ _ (by decide)]
      rfl
    · rw [clk_setFld, clk_modClk_same]
    · rw [clk_setFld, clk_modClk_same, hf]
  have hnone : (d.clk x).arb.isSome = false := by rw [ha]; rfl
  simp only [Dev.crystalResultFail, hnone, Bool.false_eq_true, if_false, hc, hl, h6, Bool.true_or, Bool.not_false, Bool.and_self, if_true]
  refine hend _ _ ?_ ?_
  all_goals split
  · rw [(portsToLoop_effect _ x).1 _ (by decide), fld_hold]
  · exact fld_hold ..
  · rw [(portsToLoop_effect _ x).2.1, clk_hold]
  · rw [clk_hold]

/-- Another reference for the PLLs of a failed crystal changes no register and marks no source. -/
theorem moveRefs_keeps (d : Dev) (x c : Nat) :
    (∀ (f : Fld) (u i : Nat), (d.moveRefs x c).fld f u i = d.fld f u i) ∧ ((d.moveRefs x c).clk x).failed = (d.clk x).failed := by
  have hlist : ∀ (ks : List Nat) (e : Dev),
      (∀ (f : Fld) (u i : Nat), (ks.foldl (fun d k => if d.refOf x k = c then d.setRef x k (1 - c) else d) e).fld f u i = e.fld f u i) ∧
        ((ks.foldl (fun d k => if d.refOf x k = c then d.setRef x k (1 - c) else d) e).clk x).failed = (e.clk x).failed := by
    intro ks
    induction ks with
    | nil => exact fun e => ⟨fun _ _ _ => rfl, rfl⟩
    | cons k ks ih =>
      intro e
      obtain ⟨h1, h2⟩ := ih (if e.refOf x k = c then e.setRef x k (1 - c) else e)
      refine ⟨fun f u i => (h1 f u i).trans ?_, h2.trans ?_⟩
      · split
        · rw [Dev.setRef, fld_modClk]
        · rfl
      · split
        · rw [Dev.setRef, clk_modClk_same]
        · rfl
  unfold Dev.moveRefs
  split
  · exact hlist _ _
  · exact ⟨fun _ _ _ => rfl, rfl⟩

/-- The arbitration is over and the root released. -/
theorem arbEnd_effect (d : Dev) (x : Nat) :
    (d.arbEnd x).fld CLK_STAT.HELD x = 0 ∧ (d.arbEnd x).fld CLK_STAT.ARBITRATING x = 0 ∧ ((d.arbEnd x).clk x).arb = none ∧
      ((d.arbEnd x).clk x).failed = (d.clk x).failed ∧
      ∀ f : Fld, CLK_STAT.HELD.apart f = true → CLK_STAT.ARBITRATING.apart f = true → ∀ u i, (d.arbEnd x).fld f u i = d.fld f u i := by
  refine ⟨?_, ?_, ?_, ?_, fun f hh ha u i => ?_⟩
  · rw [Dev.arbEnd, Dev.unhold, fld_setFld _ _ _ _ (by decide)]
    rfl
  · rw [Dev.arbEnd, Dev.unhold, fld_setFld_apart _ _ _ _ _ _ (by decide) (by decide), fld_setFld _ _ _ _ (by decide)]
    rfl
  · rw [Dev.arbEnd, Dev.unhold, clk_setFld, clk_setFld, clk_modClk_same]
  · rw [Dev.arbEnd, Dev.unhold, clk_setFld, clk_setFld, clk_modClk_same]
  · rw [Dev.arbEnd, Dev.unhold, fld_setFld_apart _ _ _ _ _ _ hh (by decide), fld_setFld_apart _ _ _ _ _ _ ha (by decide), fld_modClk]

/-- A crystal that fails while no swap runs is marked failed. -/
theorem crystalFail_effect {d : Dev} {x c : Nat} (hs : (d.clk x).swap = none) (ha : d.fld CLK_CTL.AUTO_RESTORE x = 0) :
    ((d.crystalFail x c).clk x).failed = (d.clk x).failed ||| 2 ^ c ∧
      ∀ f : Fld, f.reg ≠ .CLK_EVENT → (okFields.all fun g => g.apart f) = true → ∀ u i, (d.crystalFail x c).fld f u i = d.fld f u i := by
  obtain ⟨h1, -, h3⟩ := markFailed_effect d x c
  have hswap : ((d.markFailed x c).clk x).swap = none := by rw [clk_markFailed]; exact hs
  obtain ⟨hf, hc⟩ := moveRefs_keeps (d.markFailed x c) x c
  have he : d.crystalFail x c = (d.markFailed x c).moveRefs x c := by
    have : ((d.markFailed x c).clk x).swap.isSome = false := by rw [hswap]; rfl
    simp only [Dev.crystalFail, this, Bool.false_and, Bool.false_eq_true, if_false]
    exact restore_off ((hf ..).trans ((h3 _ (by decide) (by decide) ..).trans ha))
  rw [he]
  exact ⟨hc.trans h1, fun f he ho u i => (hf f u i).trans (h3 f he ho u i)⟩

/-- The crystal under arbitration is blamed: the root it carried runs on FIO (R391). -/
theorem arbCrystal_effect {d : Dev} {x c : Nat} (hc : d.carrier x = some 2) (hl : d.lockedOn x 2 c = true) (hs : (d.clk x).swap = none)
    (ha : d.fld CLK_CTL.AUTO_RESTORE x = 0) :
    let e := d.arbCrystal x c
    e.fld CLK_STAT.ROOT x = 2 ∧ e.fld CLK_STAT.HELD x = 0 ∧ e.fld CLK_STAT.ARBITRATING x = 0 ∧ (e.clk x).arb = none ∧
      e.srcFailed x c = true ∧ e.fld (nmiBit c) = 1 := by
  obtain ⟨h1, h2⟩ := crystalFail_effect (c := c) hs ha
  obtain ⟨hbit, hap, hr⟩ := nmiBit_facts c
  obtain ⟨e1, e2, e3, e4, e5⟩ := arbEnd_effect ((d.crystalFail x c).setRoot x rootFio) x
  have hauto : ((((d.crystalFail x c).setRoot x rootFio).arbEnd x).nmi x (nmiBit c)).fld CLK_CTL.AUTO_RESTORE x = 0 := by
    rw [fld_nmi_ne _ _ _ _ hr (by decide), e5 _ (by decide) (by decide), Dev.setRoot, fld_setFld_apart _ _ _ _ _ _ (by decide) (by decide),
      h2 _ (by decide) (by decide), ha]
  have hdef : d.arbCrystal x c = (((d.crystalFail x c).setRoot x rootFio).arbEnd x).nmi x (nmiBit c) := by
    simp only [Dev.arbCrystal, hc, hl, if_true, Bool.true_or]
    exact restore_off hauto
  rw [hdef]
  refine ⟨?_, ?_, ?_, ?_, ?_, fld_nmi _ _ hr hbit hap⟩
  · rw [fld_nmi_ne _ _ _ _ hr (by decide), e5 _ (by decide) (by decide), Dev.setRoot, fld_setFld _ _ _ _ (by decide)]
    rfl
  · rw [fld_nmi_ne _ _ _ _ hr (by decide), e1]
  · rw [fld_nmi_ne _ _ _ _ hr (by decide), e2]
  · rw [clk_nmi, e3]
  · rw [Dev.srcFailed, clk_nmi, e4, Dev.setRoot, clk_setFld, h1, srcFailed_mark]
    simp

/-- FIO is blamed: the root is released on its carrier (R391). -/
theorem fioFail_effect {d : Dev} {x : Nat} (ha : (d.clk x).arb.isSome = true) :
    let e := d.fioFail x
    e.fld CLK_STAT.ROOT x = d.fld CLK_STAT.ROOT x ∧ e.fld CLK_STAT.HELD x = 0 ∧ e.fld CLK_STAT.ARBITRATING x = 0 ∧ (e.clk x).arb = none ∧
      e.srcFailed x 6 = true ∧ e.fld IRQ_NMI_CAUSE.FIO = 1 := by
  obtain ⟨h1, -, h2⟩ := markFailed_effect d x 6
  obtain ⟨e1, e2, e3, e4, e5⟩ := arbEnd_effect (d.markFailed x 6) x
  have hdef : d.fioFail x = ((d.markFailed x 6).arbEnd x).nmi x IRQ_NMI_CAUSE.FIO := by
    have : ((d.markFailed x 6).clk x).arb.isSome = true := by rw [clk_markFailed]; exact ha
    simp only [Dev.fioFail, this, if_true]
  rw [hdef]
  refine ⟨?_, ?_, ?_, ?_, ?_, fld_nmi _ _ rfl (by decide) (by decide)⟩
  · rw [fld_nmi_ne _ _ _ _ rfl (by decide), e5 _ (by decide) (by decide), h2 _ (by decide) (by decide)]
  · rw [fld_nmi_ne _ _ _ _ rfl (by decide), e1]
  · rw [fld_nmi_ne _ _ _ _ rfl (by decide), e2]
  · rw [clk_nmi, e3]
  · rw [Dev.srcFailed, clk_nmi, e4, h1, srcFailed_mark]
    simp

/-- Judgement of FIO does not depend on the counts. -/
theorem passes_congr {d e : Dev} {x count : Nat} (h : ∀ f : Fld, f.reg ≠ .CLK_MON_CNT → e.fld f x = d.fld f x) :
    e.passes x (.mon 6) count = d.passes x (.mon 6) count := by
  simp only [Dev.passes, Dev.nominal, h CLK_CTL.BAND (by decide), h CLK_FIO_CAL.KHZ (by decide), Bool.not_true, Bool.and_false, Bool.false_eq_true, if_false,
    if_true]

theorem carrier_of_root {d : Dev} {x : Nat} (h : d.fld CLK_STAT.ROOT x = 0) : d.carrier x = some 2 := by
  rw [Dev.carrier, h]
  rfl

/-- A port that falls back changes its own state and event registers. -/
theorem at_fallBack (d : Dev) (p : Nat) {l : Loc} (hs : l.reg ≠ .BB_LINK_STAT) (he : l.reg ≠ .BB_LINK_EVENT) : (d.fallBack p).at l = d.at l := by
  unfold Dev.fallBack
  split
  · rw [at_emit, Dev.linkEvent, Dev.at_status_ne _ _ _ _ _ _ _ (by rintro rfl; exact he rfl), Dev.at_setFld_ne _ _ _ _ _ (by rintro rfl; exact hs rfl),
      Dev.at_setFld_ne _ _ _ _ _ (by rintro rfl; exact hs rfl)]
  · rfl

theorem lockedOn_of {d : Dev} {x k c : Nat} (hp : d.pll x k = 2) (hr : d.refOf x k = c) : d.lockedOn x k c = true := by
  rw [Dev.lockedOn, hp, hr, beq_self_eq_true]
  rfl

/-- PLL A, which carries the root, fails its result (R390). -/
theorem monResult_carrierFails {d : Dev} {x count : Nat} (ha : (d.clk x).armed = true) (h6 : d.srcFailed x 6 = false) (hc : count < 2 ^ 20)
    (hf : d.srcFailed x 2 = false) (hr : d.fld CLK_STAT.ROOT x = 0) (hauto : d.fld CLK_CTL.AUTO_RESTORE x = 0) (hp : d.passes x (.mon 2) count = false) :
    let e := d.monResult x (.mon 2) count
    e.fld CLK_MON_CNT.COUNT x 2 = count ∧ e.fld CLK_MON_CNT.FAIL x 2 = 1 ∧ e.fld CLK_STAT.ROOT x = 2 ∧ e.pll x 2 = 4 ∧
      e.fld CLK_EVENT.PLLA_FAIL x = 1 ∧ e.fld IRQ_NMI_CAUSE.PLLA = 1 ∧ e.srcFailed x 2 = true := by
  have hcnt : (d.monStored x 2 count 1).fld CLK_MON_CNT.COUNT x 2 = count := by
    rw [Dev.monStored, fld_setFld_apart _ _ _ _ _ _ (by decide) (by decide), fld_setFld _ _ _ _ (by decide)]
    exact Nat.mod_eq_of_lt (hc.trans (by decide))
  have hfail : (d.monStored x 2 count 1).fld CLK_MON_CNT.FAIL x 2 = 1 := by
    rw [Dev.monStored, fld_setFld _ _ _ _ (by decide)]
    rfl
  have hclk := clk_monStored d x 2 count 1 x
  have hfld := fun (f : Fld) (h : f.reg ≠ .CLK_MON_CNT) => fld_monStored_ne d x 2 count 1 x 0 h
  rw [monResult_fail ha hp]
  generalize d.monStored x 2 count 1 = c at *
  have hres : c.resultFail x 2 = c.corePllDown x 2 psFailed := by
    have : c.srcFailed x 2 = false := by rw [Dev.srcFailed, hclk]; exact hf
    simp only [Dev.resultFail, this, Bool.false_eq_true, if_false]
  obtain ⟨h1, h2, h3, h4, h5, h7⟩ := carrierDown (d := c) (st := psFailed) (x := x) (by decide) rfl ((hfld _ (by decide)).trans hr)
    (by rw [Dev.srcFailed, hclk]; exact h6) ((hfld _ (by decide)).trans hauto)
  rw [hres]
  refine ⟨(h7 _ _ rfl).trans hcnt, (h7 _ _ rfl).trans hfail, h2, h1, h4, h3, ?_⟩
  rw [Dev.srcFailed, h5, if_pos rfl, (markFailed_effect c x 2).1, srcFailed_mark]
  simp

/-- Crystal A fails its result under the PLL that carries the root (R391). -/
theorem monResult_crystalHeld {d : Dev} {x count : Nat} (ha : (d.clk x).armed = true) (harb : (d.clk x).arb = none) (h6 : d.srcFailed x 6 = false)
    (hp : d.pll x 2 = 2) (href : d.refOf x 2 = 0) (hr : d.fld CLK_STAT.ROOT x = 0) (h0 : d.srcFailed x 0 = false)
    (hf : d.passes x (.mon 0) count = false) :
    let e := d.monResult x (.mon 0) count
    e.fld CLK_STAT.HELD x = 1 ∧ e.fld CLK_STAT.ARBITRATING x = 1 ∧ (e.clk x).arb = some 0 ∧ e.srcFailed x 0 = false := by
  have hclk := clk_monStored d x 0 count 1 x
  have hfld := fun (f : Fld) (h : f.reg ≠ .CLK_MON_CNT) => fld_monStored_ne d x 0 count 1 x 0 h
  have hpll := pll_monStored d x 0 count 1 2
  rw [monResult_fail ha hf]
  generalize d.monStored x 0 count 1 = c at *
  have hc0 : c.srcFailed x 0 = false := by rw [Dev.srcFailed, hclk]; exact h0
  have hres : c.resultFail x 0 = c.crystalResultFail x 0 := by
    simp only [Dev.resultFail, hc0, Bool.false_eq_true, if_false]
  rw [hres]
  obtain ⟨h1, h2, h3, h4⟩ := crystalResultFail_holds (d := c) (x := x) (c := 0) (by rw [hclk, harb]) (carrier_of_root ((hfld _ (by decide)).trans hr))
    (lockedOn_of (hpll.trans hp) (by rw [Dev.refOf, hclk]; exact href)) (by rw [Dev.srcFailed, hclk]; exact h6)
  exact ⟨h1, h2, h3, by rw [Dev.srcFailed, h4]; exact hc0⟩

/-- The count that ends the arbitration window, with its judgement (R391). -/
theorem arbResult_blames {d : Dev} {x count c : Nat} (ha : (d.clk x).arb = some c) :
    ∃ e : Dev, (∀ f : Fld, f.reg ≠ .CLK_MON_CNT → e.fld f x = d.fld f x) ∧ e.clk x = d.clk x ∧
      d.arbResult x count = if d.passes x (.mon 6) count then e.arbCrystal x c else e.fioFail x := by
  have hcount : ∀ f : Fld, f.reg ≠ .CLK_MON_CNT → (d.setFld CLK_MON_CNT.COUNT x 6 count).fld f x = d.fld f x := fun f hf =>
    fld_setFld_apart _ _ _ _ _ _ (apart_of_reg hf) (by decide)
  have hpass : (d.setFld CLK_MON_CNT.COUNT x 6 count).passes x (.mon 6) count = d.passes x (.mon 6) count := passes_congr hcount
  refine ⟨(d.setFld CLK_MON_CNT.COUNT x 6 count).setFld CLK_MON_CNT.FAIL x 6 (if d.passes x (.mon 6) count then 0 else 1), fun f hf => ?_, ?_, ?_⟩
  · rw [fld_setFld_apart _ _ _ _ _ _ (apart_of_reg hf) (by decide), hcount f hf]
  · rw [clk_setFld, clk_setFld]
  · simp only [Dev.arbResult, ha, hpass]
    split <;> rfl

/-- Settles O34. -/
theorem clockFailures : Obligations.ClockFailures := by
  unfold Obligations.ClockFailures
  refine ⟨fun s x count m q mx edges => ⟨State.does_perform (by dsimp only [exec]; rfl) rfl, State.does_perform (by dsimp only [exec]; rfl) rfl,
      State.does_perform (by dsimp only [exec]; rfl) rfl, State.does_perform (by dsimp only [exec]; rfl) rfl,
      State.does_perform (by dsimp only [exec]; rfl) rfl, fun hc => State.doesOnly_performAlone (by dsimp only [exec]; rfl) ?calOff⟩,
    fun s x count hx hauto => ⟨fun ha m => State.does_perform (by dsimp only [exec]; rfl) ?unarmed, fun ha harb hs h6 hc => ⟨fun hp hf hr hno =>
      State.doesSome_perform (by dsimp only [exec]; rfl) ?pllFails, fun hp href hr h0 hno => State.doesSome_perform (by dsimp only [exec]; rfl) ?held⟩,
      fun c harb hc hr hp href hs => ⟨fun hpass => State.doesSome_perform (by dsimp only [exec]; rfl) ?crystal,
        fun hno => State.doesSome_perform (by dsimp only [exec]; rfl) ?fio⟩,
      fun hp hr h6 => State.doesSome_perform (by dsimp only [exec]; rfl) ?lossA, fun hp => State.doesSome_perform (by dsimp only [exec]; rfl) ?lossBB,
      fun q hp => State.does_perform (by dsimp only [exec]; rfl) ?lossOff, fun khz hc => State.doesOnly_performAlone (by dsimp only [exec]; rfl) ?cal⟩,
    fun s x hx => ⟨fun m => State.does_perform (by dsimp only [exec]; rfl) rfl, fun hs => State.doesSome_perform (by dsimp only [exec]; rfl) ?root,
      fun t ht hl => State.doesSome_perform (by dsimp only [exec]; rfl) ?loop⟩⟩
  case calOff => rw [Dev.fioCalDone, if_neg (by rw [hc]; decide)]
  case unarmed => rw [Dev.monResult, if_pos (by rw [ha]; rfl)]
  case pllFails => exact monResult_carrierFails ha h6 hc hf hr (by simpa [Dev.flag] using hauto) hno
  case held => exact monResult_crystalHeld ha harb h6 hp href hr h0 hno
  case crystal =>
    obtain ⟨e, hfld, hclk, he⟩ := arbResult_blames (count := count) harb
    rw [he, if_pos hpass]
    have hpll : e.pll x 2 = s.dev.pll x 2 := hfld _ (by decide)
    exact arbCrystal_effect (carrier_of_root ((hfld _ (by decide)).trans hr)) (lockedOn_of (hpll.trans hp) (by rw [Dev.refOf, hclk]; exact href))
      (by rw [hclk, hs]) ((hfld _ (by decide)).trans (by simpa [Dev.flag] using hauto))
  case fio =>
    obtain ⟨e, hfld, hclk, he⟩ := arbResult_blames (count := count) harb
    rw [he, if_neg (by rw [hno]; decide)]
    obtain ⟨h1, h2⟩ := fioFail_effect (d := e) (x := x) (by rw [hclk, harb]; rfl)
    exact ⟨h1.trans ((hfld _ (by decide)).trans hr), h2⟩
  case lossA =>
    have hdef : s.dev.refLoss x .a = s.dev.corePllDown x 2 psCoast := by
      simp only [Dev.refLoss, pllMon, hp, show (2 = psLocked ∨ 2 = psLocking) = True from eq_true (.inl rfl), if_true, Nat.reduceEqDiff, if_false]
    obtain ⟨h1, h2, h3, -⟩ := carrierDown (d := s.dev) (st := psCoast) (x := x) (by decide) rfl hr h6 (by simpa [Dev.flag] using hauto)
    rw [hdef]
    exact ⟨h1, h2, h3⟩
  case lossBB =>
    have hdef : s.dev.refLoss x .bb = s.dev.bbPllDown x psCoast := by
      simp only [Dev.refLoss, pllMon, hp, show (2 = psLocked ∨ 2 = psLocking) = True from eq_true (.inl rfl), if_true]
    rw [hdef]
    exact bbPllDown_coasts _ _
  case lossOff =>
    rw [Dev.refLoss, if_neg]
    rw [hp]
    decide
  case cal =>
    rw [Dev.fioCalDone, if_pos hc, Dev.fioCal, if_pos hc]
  case root =>
    have hdef : s.dev.muxHangs x .root false =
        ((s.dev.modClk x fun c => { c with swRoot := false }).clkEvent CLK_EVENT.FORCED x).nmi x IRQ_NMI_CAUSE.FORCED := by
      simp only [Dev.muxHangs, Bool.false_eq_true, if_false, hs, if_true]
    rw [hdef]
    refine ⟨?_, fld_nmi _ _ rfl (by decide) (by decide), ?_, List.mem_append_right _ List.mem_cons_self⟩
    · rw [fld_nmi_ne _ _ _ _ rfl (by decide), fld_clkEvent _ _ (by decide)]
    · rw [clk_nmi, clk_clkEvent, clk_modClk_same]
  case loop =>
    have hdef : s.dev.muxHangs x (.portTx t) false = (s.dev.fallBack (8 * x + t)).clkEvent CLK_EVENT.LOOP_FORCED x := by
      simp only [Dev.muxHangs, Bool.false_eq_true, if_false, hl, if_true]
    rw [hdef]
    refine ⟨fld_clkEvent _ _ (by decide), ?_⟩
    exact (Dev.at_status_ne _ _ _ _ _ _ _ (by simp)).trans (at_fallBack _ _ (by decide) (by decide))

end Sys2Proof.Machine

/-! ## Sleep and wake (R396, R397) -/

namespace Sys2Proof.Machine

theorem d3hot_stored (d : Dev) (x : Nat) : d.d3hot x = (bitsOf (d.cfgStored x 0x44) 1 0 == 3) := rfl

/-- The conditions of sleep name neither CLK_SLEEP nor the seal. -/
theorem maySleep_commanded (d : Dev) (src : Src) (x : Nat) (b : Bool) (v : Word) : (d.commanded src ⟨.CLK_SLEEP, x, 0⟩ b v).maySleep = d.maySleep := by
  have hfld := fun (f : Fld) (u i : Nat) (h : f.reg ≠ .CLK_SLEEP) (hs : f.reg ≠ .PKG_SEAL_STAT) => fld_commanded d src x 0 b v u i h hs
  have hn := n_commanded d src ⟨.CLK_SLEEP, x, 0⟩ b v
  have hclk := clk_commanded d src ⟨.CLK_SLEEP, x, 0⟩ b v
  have hrest : (d.commanded src ⟨.CLK_SLEEP, x, 0⟩ b v).rings = d.rings ∧ (d.commanded src ⟨.CLK_SLEEP, x, 0⟩ b v).sems = d.sems ∧
      ∀ y o, (d.commanded src ⟨.CLK_SLEEP, x, 0⟩ b v).cfgStored y o = d.cfgStored y o :=
    ⟨(commanded_of_regs Dev.rings (fun _ _ _ _ => rfl) ..).trans rfl, (commanded_of_regs Dev.sems (fun _ _ _ _ => rfl) ..).trans rfl,
      fun y o => (commanded_of_regs (Dev.cfgStored · y o) (fun _ _ _ _ => rfl) ..).trans rfl⟩
  obtain ⟨hrings, hsems, hcfg⟩ := hrest
  generalize d.commanded src ⟨.CLK_SLEEP, x, 0⟩ b v = e at *
  have hsem : ∀ k, e.sem k = d.sem k := fun k => by rw [Dev.sem, Dev.sem, hsems]
  simp only [Dev.maySleep, Dev.dies, hn, hclk, hrings, hsem, Dev.lstate, d3hot_stored, hcfg, hfld PX_LINK_STAT.STATE _ _ (by decide) (by decide),
    hfld DIE_SVC_STAT.STATE _ _ (by decide) (by decide), hfld BB_LINK_STAT.STATE _ _ (by decide) (by decide), hfld TIL_SVC_STAT.STATE _ _ (by decide) (by decide),
    hfld RING_PTR.FETCHED _ _ (by decide) (by decide), hfld RING_PTR.POSTED _ _ (by decide) (by decide)]

theorem swCmd_sleep {d : Dev} {L : Locks} {src : Src} {x : Nat} (hx : x < d.n) (hg : d.lets src ⟨.CLK_SLEEP, x, 0⟩ = true) :
    ∃ b v, d.swCmd L src ⟨.CLK_SLEEP, x, 0⟩ (fun c => putBits c 0 0 1) = ((d.commanded src ⟨.CLK_SLEEP, x, 0⟩ b v).sleep x).answered src := by
  have h := swCmd_open (L := L) (f := fun c => putBits c 0 0 1) (at_ := 255) (fits_die rfl (by decide) rfl hx) (show RegId.CLK_SLEEP.open = true by decide) hg
  simp only [Dev.writeHook, getLsbD_putBits_set _ (show 0 < 32 by decide) (show 0 < 32 by decide), decide_true, Bool.true_or, if_true, Bool.false_eq_true,
    if_false] at h
  exact ⟨_, _, h⟩

/-! The root after a wake -/

/-- A restoration that begins starts the spare: the root and CLK_WAKE stay. -/
theorem fld_restore (d : Dev) {x : Nat} {f : Fld} (u i : Nat) (hf : f.reg ≠ .DIE_SVC_STAT) (hp : ∀ k, (pllField k).apart f = true) :
    (d.restore x).fld f u i = d.fld f u i := by
  unfold Dev.restore
  dsimp only
  split
  · split
    · rw [fld_setFld_apart _ _ _ _ _ _ (apart_of_reg hf) (by decide), fld_modClk]
    · rw [fld_startPll_apart _ _ _ _ _ (hp _), fld_setFld_apart _ _ _ _ _ _ (apart_of_reg hf) (by decide), fld_modClk]
  · rfl

theorem pllField_root (k : Nat) : (pllField k).apart CLK_STAT.ROOT = true := by
  unfold pllField
  split
  · decide
  · split <;> decide

theorem pllField_ne (k : Nat) {f : Fld} (h : f.reg ≠ .CLK_STAT) : (pllField k).apart f = true := apart_of_reg (by rw [pllField_reg]; exact h)

/-- What a wake does on one die. -/
def Dev.wakeDie (cause : Fld) (d : Dev) (x : Nat) : Dev :=
  let d := [CLK_WAKE.PERST, CLK_WAKE.CLKREQ, CLK_WAKE.BODY_BUS, CLK_WAKE.TIMER].foldl (fun d f => d.setFld f x 0 0) d
  let d := (d.setFld cause x 0 1).setRoot x rootFio
  let d := (d.setPll x 2 psOff).setPll x 3 psOff
  d.restore x

theorem asleep_restore (d : Dev) (x : Nat) : (d.restore x).asleep = d.asleep := by
  unfold Dev.restore
  dsimp only
  split
  · split <;> rfl
  · rfl

/-- The registers of the other dies stay. -/
theorem at_restore_ne (d : Dev) {x : Nat} {l : Loc} (h : l.u ≠ x) : (d.restore x).at l = d.at l := by
  have hset : ∀ (e : Dev) (f : Fld) (v : Nat), (e.setFld f x 0 v).at l = e.at l := fun e f v => Dev.at_setFld_ne _ _ _ _ _ (by rintro rfl; exact h rfl)
  unfold Dev.restore
  dsimp only
  split
  · split
    · rw [hset, at_modClk]
    · rw [Dev.startPll, at_modClk, Dev.setPll, hset, Dev.setRef, at_modClk, hset, at_modClk]
  · rfl

theorem wakeDie_same (d : Dev) (x : Nat) {c : Fld} (hr : c.reg = .CLK_WAKE) (hb : c.bit = true) :
    (d.wakeDie c x).fld CLK_STAT.ROOT x = 2 ∧ (d.wakeDie c x).fld c x = 1 ∧ (d.wakeDie c x).asleep = d.asleep := by
  have hw : c.wide = true := (Bool.and_eq_true _ _ ▸ hb).1
  have h1 : c.hi = c.lo := of_decide_eq_true (Bool.and_eq_true _ _ ▸ hb).2
  have hc : ∀ k, (pllField k).apart c = true := fun k => pllField_ne k (by rw [hr]; decide)
  have hp : ∀ (e : Dev) (f : Fld), (∀ k, (pllField k).apart f = true) → ((e.setPll x 2 psOff).setPll x 3 psOff).fld f x = e.fld f x := fun e f hf => by
    rw [Dev.setPll, fld_setFld_apart _ _ _ _ _ _ (hf _) (wide_pllField _), Dev.setPll, fld_setFld_apart _ _ _ _ _ _ (hf _) (wide_pllField _)]
  refine ⟨?_, ?_, (asleep_restore _ _).trans rfl⟩
  · rw [Dev.wakeDie, fld_restore _ _ _ (by decide) pllField_root, hp _ _ pllField_root, Dev.setRoot, fld_setFld _ _ _ _ (by decide)]
    rfl
  · rw [Dev.wakeDie, fld_restore _ _ _ (by rw [hr]; decide) hc, hp _ _ hc, Dev.setRoot,
      fld_setFld_apart _ _ _ _ _ _ (apart_of_reg (by rw [hr]; decide)) (by decide), fld_setFld _ _ _ _ hw, h1, show c.lo + 1 - c.lo = 1 by omega]
    rfl

theorem at_wakeDie_ne (d : Dev) {x : Nat} (c : Fld) {l : Loc} (h : l.u ≠ x) : (d.wakeDie c x).at l = d.at l := by
  have hset : ∀ (e : Dev) (f : Fld) (v : Nat), (e.setFld f x 0 v).at l = e.at l := fun e f v => Dev.at_setFld_ne _ _ _ _ _ (by rintro rfl; exact h rfl)
  rw [Dev.wakeDie, at_restore_ne _ h, Dev.setPll, hset, Dev.setPll, hset, Dev.setRoot, hset, hset]
  simp only [List.foldl_cons, List.foldl_nil, hset]

/-- The dies wake one after the other; each keeps what its own wake left. -/
theorem foldl_wakeDie {c : Fld} (hr : c.reg = .CLK_WAKE) (hb : c.bit = true) {y : Nat} (xs : List Nat) (d : Dev)
    (h : y ∈ xs ∨ d.fld CLK_STAT.ROOT y = 2 ∧ d.fld c y = 1) :
    (xs.foldl (Dev.wakeDie c) d).fld CLK_STAT.ROOT y = 2 ∧ (xs.foldl (Dev.wakeDie c) d).fld c y = 1 ∧ (xs.foldl (Dev.wakeDie c) d).asleep = d.asleep := by
  induction xs generalizing d with
  | nil =>
    obtain ⟨h1, h2⟩ := h.resolve_left (by simp)
    exact ⟨h1, h2, rfl⟩
  | cons x xs ih =>
    obtain ⟨e1, e2, e3⟩ := wakeDie_same d x hr hb
    obtain ⟨i1, i2, i3⟩ := ih (d.wakeDie c x) (by
      by_cases hyx : y = x
      · subst hyx
        exact .inr ⟨e1, e2⟩
      · refine h.imp (fun hm => (List.mem_cons.mp hm).resolve_left hyx) fun ⟨h1, h2⟩ => ?_
        exact ⟨(fld_of_at (at_wakeDie_ne _ _ hyx)).trans h1, (fld_of_at (at_wakeDie_ne _ _ hyx)).trans h2⟩)
    exact ⟨i1, i2, i3.trans e3⟩

/-- Ports in DETECT that send SYN again change no register. -/
theorem foldl_detect (ps : List Nat) (d : Dev) :
    (∀ l, (ps.foldl (fun d p => if d.lstate p = lsDetect then d.sendSyns p 0 else d) d).at l = d.at l) ∧
      (ps.foldl (fun d p => if d.lstate p = lsDetect then d.sendSyns p 0 else d) d).asleep = d.asleep := by
  have hsyn : ∀ (ks : List Nat) (e : Dev) (p : Nat), (ks.foldl (fun d k => d.emit (.syn p k (d.synOf p 0 k))) e).asleep = e.asleep := by
    intro ks
    induction ks with
    | nil => exact fun _ _ => rfl
    | cons k ks ih => exact fun e p => (ih _ _).trans rfl
  induction ps generalizing d with
  | nil => exact ⟨fun _ => rfl, rfl⟩
  | cons p ps ih =>
    obtain ⟨h1, h2⟩ := ih (if d.lstate p = lsDetect then d.sendSyns p 0 else d)
    refine ⟨fun l => (h1 l).trans ?_, h2.trans ?_⟩
    · split
      · exact at_sendSyns ..
      · rfl
    · split
      · exact (hsyn _ _ _ : _)
      · rfl

/-- A wake puts every die's root on FIO and names its cause (R397). -/
theorem wake_effect (d : Dev) {c : Fld} (hr : c.reg = .CLK_WAKE) (hb : c.bit = true) {y : Nat} (hy : y < d.n) :
    (d.wake c).asleep = false ∧ (d.wake c).fld CLK_STAT.ROOT y = 2 ∧ (d.wake c).fld c y = 1 := by
  obtain ⟨h1, h2, h3⟩ := foldl_wakeDie hr hb (y := y) (List.range d.n) { d with asleep := false } (.inl (List.mem_range.mpr hy))
  have hdef : d.wake c = (List.range (8 * ((List.range d.n).foldl (Dev.wakeDie c) { d with asleep := false }).n)).foldl
      (fun d p => if d.lstate p = lsDetect then d.sendSyns p 0 else d) ((List.range d.n).foldl (Dev.wakeDie c) { d with asleep := false }) := rfl
  rw [hdef]
  obtain ⟨k1, k2⟩ := foldl_detect (List.range (8 * ((List.range d.n).foldl (Dev.wakeDie c) { d with asleep := false }).n))
    ((List.range d.n).foldl (Dev.wakeDie c) { d with asleep := false })
  exact ⟨k2.trans h3, (fld_of_at (k1 _)).trans h1, (fld_of_at (k1 _)).trans h2⟩

/-- While the count of its die stands no timer of it expires. -/
theorem timed_stands {d : Dev} {x : Nat} (h : d.rootHeld x = true ∨ d.asleep = true) (f : Dev → Dev) : d.timed x f = d := by
  rw [Dev.timed, if_pos (by simpa using h)]

theorem does_stands {s : State} {i : Instr} {x : Nat} {f : Dev → Dev} (hx : s.dev.rootHeld x = true ∨ s.dev.asleep = true)
    (he : exec i s = perform i s fun _ d => d.timed x f) : s.Does i s.dev := State.does_perform he (timed_stands hx f)

theorem doesOnly_stands {s : State} {i : Instr} {x : Nat} {f : Dev → Dev} (hx : s.dev.rootHeld x = true ∨ s.dev.asleep = true)
    (he : exec i s = performAlone i s fun d => d.timed x f) : s.DoesOnly i s.dev := State.doesOnly_performAlone he (timed_stands hx f)

/-- Settles O35. -/
theorem sleepAndWake : Obligations.SleepAndWake := by
  unfold Obligations.SleepAndWake
  refine ⟨fun s x k hx => ⟨?timers, ?alone, fun p hp => ⟨?ports, doesOnly_stands (hp ▸ hx) (by dsimp only [exec]; rfl)⟩⟩,
    fun s src x hx => ⟨fun hg => ⟨fun hm => State.doesSome_perform (by dsimp only [exec]; rfl) ?enters, fun hm => State.doesSome_perform (by dsimp only [exec]; rfl) ?refused⟩,
    fun ha y hy => ⟨State.doesSome_perform (by dsimp only [exec]; rfl) ?perst, State.doesSome_perform (by dsimp only [exec]; rfl) ?clkreq,
      fun p hp hs => State.doesSome_perform (by dsimp only [exec]; rfl) ?bodyBus, fun ht => State.doesSome_perform (by dsimp only [exec]; rfl) ?timer,
      fun ht => State.does_perform (by dsimp only [exec]; rfl) ?noTimer⟩,
    fun ha c => ⟨State.does_perform (by dsimp only [exec]; rfl) ?awake, State.does_perform (by dsimp only [exec]; rfl) ?awakeTimer⟩⟩⟩
  case timers =>
    simp only [List.forall_mem_cons]
    exact ⟨does_stands hx (by dsimp only [exec]; rfl), does_stands hx (by dsimp only [exec]; rfl),
      does_stands hx (by dsimp only [exec]; rfl), List.forall_mem_nil _⟩
  case alone =>
    simp only [List.forall_mem_cons]
    exact ⟨doesOnly_stands hx (by dsimp only [exec]; rfl),
      doesOnly_stands hx (by dsimp only [exec]; rfl), List.forall_mem_nil _⟩
  case ports =>
    subst hp
    simp only [List.forall_mem_cons]
    exact ⟨does_stands hx (by dsimp only [exec]; rfl), does_stands hx (by dsimp only [exec]; rfl),
      does_stands hx (by dsimp only [exec]; rfl), does_stands hx (by dsimp only [exec]; rfl),
      does_stands hx (by dsimp only [exec]; rfl), does_stands hx (by dsimp only [exec]; rfl),
      does_stands hx (by dsimp only [exec]; rfl), List.forall_mem_nil _⟩
  case enters =>
    obtain ⟨b, v, he⟩ := swCmd_sleep (L := s.locks) hx hg
    rw [he, Dev.sleep, if_pos ((maySleep_commanded ..).trans hm)]
    refine ⟨answered_of_out Dev.asleep (fun _ _ => rfl) _ src, fun k hk hs => ?_⟩
    rw [at_answered]
    exact at_commanded_ne s.dev src (k := ⟨.CLK_SLEEP, x, 0⟩) b v (by rintro rfl; exact hk rfl) hs
  case refused =>
    obtain ⟨b, v, he⟩ := swCmd_sleep (L := s.locks) hx hg
    rw [he, Dev.sleep, if_neg (by rw [maySleep_commanded, hm]; decide)]
    refine ⟨?_, ?_⟩
    · rw [answered_of_out Dev.asleep (fun _ _ => rfl) _ src]
      exact (commanded_of_regs Dev.asleep (fun _ _ _ _ => rfl) s.dev src ⟨.CLK_SLEEP, x, 0⟩ b v).trans rfl
    · rw [fld_answered, fld_setFld _ _ _ _ (by decide)]
      rfl
  case perst =>
    simp only [Dev.wakeInput, ha, Bool.not_true, Bool.false_eq_true, if_false]
    exact wake_effect _ rfl (by decide) hy
  case clkreq =>
    simp only [Dev.wakeInput, ha, Bool.not_true, Bool.false_eq_true, if_false]
    exact wake_effect _ rfl (by decide) hy
  case bodyBus =>
    have hany : ((List.range' (8 * x) 8).any fun p => s.dev.lstate p == lsDetect) = true := by
      refine List.any_eq_true.mpr ⟨p, List.mem_range'_1.mpr ?_, beq_iff_eq.mpr hs⟩
      simp only [dieOf] at hp
      omega
    simp only [Dev.wakeInput, ha, hany, Bool.not_true, Bool.false_eq_true, if_false, if_true]
    exact wake_effect _ rfl (by decide) hy
  case timer =>
    simp only [Dev.wakeTimer, ha, bne_iff_ne.mpr ht, Bool.and_self, if_true]
    exact wake_effect _ rfl (by decide) hy
  case noTimer =>
    simp only [Dev.wakeTimer, ht, bne_self_eq_false, Bool.and_false, Bool.false_eq_true, if_false]
  case awake =>
    simp only [Dev.wakeInput, ha, Bool.not_false, if_true]
  case awakeTimer =>
    simp only [Dev.wakeTimer, ha, Bool.false_and, Bool.false_eq_true, if_false]

end Sys2Proof.Machine

/-! ## What requests of the package toward a host change (R95 to R99, R30) -/

namespace Sys2Proof.Machine

/-- Only the ports' requests, the mortar packets, outputs, notes and the count of requests differ. -/
def Sends (d e : Dev) : Prop := ∃ px mo out notes id, e = { d with pcie := px, mortars := mo, out := out, notes := notes, nextId := id }

theorem Sends.refl (d : Dev) : Sends d d := ⟨_, _, _, _, _, rfl⟩

theorem Sends.trans {d e c : Dev} (h : Sends d e) (h' : Sends e c) : Sends d c := by
  obtain ⟨_, _, _, _, _, rfl⟩ := h
  obtain ⟨_, _, _, _, _, rfl⟩ := h'
  exact ⟨_, _, _, _, _, rfl⟩

theorem Sends.eq {d e : Dev} (h : Sends d e) {α : Type} (P : Dev → α)
    (hP : ∀ (d : Dev) px mo out notes id, P { d with pcie := px, mortars := mo, out := out, notes := notes, nextId := id } = P d) : P e = P d := by
  obtain ⟨px, mo, out, notes, id, rfl⟩ := h
  exact hP d px mo out notes id

theorem Sends.at {d e : Dev} (h : Sends d e) (l : Loc) : e.at l = d.at l := h.eq (Dev.at · l) fun _ _ _ _ _ _ => rfl

theorem Sends.fld {d e : Dev} (h : Sends d e) (f : Fld) (u i : Nat) : e.fld f u i = d.fld f u i := fld_of_at (h.at _)

theorem sends_emit (d : Dev) (o : Out) : Sends d (d.emit o) := ⟨_, _, _, _, _, rfl⟩
theorem sends_note (d : Dev) (k : Note) : Sends d (d.note k) := ⟨_, _, _, _, _, rfl⟩
theorem sends_modPx (d : Dev) (x : Nat) (f : Pcie → Pcie) : Sends d (d.modPx x f) := ⟨_, _, _, _, _, rfl⟩
theorem sends_fresh (d : Dev) : Sends d d.fresh.2 := ⟨_, _, _, _, _, rfl⟩

theorem sends_cross (d : Dev) (a b k : Nat) : Sends d (d.cross a b k) := by
  unfold Dev.cross
  split
  · exact Sends.refl d
  · exact ⟨_, _, _, _, _, rfl⟩

theorem sends_sendReq (d : Dev) (r : HostReq) : Sends d (d.sendReq r) := by
  unfold Dev.sendReq
  split
  · exact (sends_emit _ _).trans (sends_note _ _)
  · split
    · exact (sends_modPx _ _ _).trans (sends_emit _ _)
    · exact sends_modPx _ _ _

theorem sends_ltrBusy (d : Dev) (x : Nat) : Sends d (d.ltrBusy x) := by
  unfold Dev.ltrBusy
  dsimp only
  split
  · split
    · exact (sends_modPx _ _ _).trans (sends_emit _ _)
    · exact sends_modPx _ _ _
  · exact Sends.refl d

theorem sends_hostReq (d : Dev) (r : HostReq) : Sends d (d.hostReq r) := by
  unfold Dev.hostReq
  dsimp only
  split
  · exact (sends_ltrBusy _ _).trans (sends_sendReq _ _)
  · exact (sends_ltrBusy _ _).trans (sends_modPx _ _ _)

/-- A request of a unit to a host changes no register. -/
theorem sends_hostFrom (d : Dev) (a : Nat) (r : HostReq) : Sends d (d.hostFrom a r) := by
  unfold Dev.hostFrom
  dsimp only
  split
  · exact (sends_cross _ _ _ _).trans (sends_hostReq _ _)
  · exact sends_modPx _ _ _

/-! The event queue's writes to the host (R234) -/

/-- An entry on its way to the host changes no register. -/
theorem evqPump_sends (d : Dev) : Sends d d.evqPump ∨ Sends { d with evqIssued := true } d.evqPump := by
  unfold Dev.evqPump
  dsimp only
  split
  · split
    · exact .inl (Sends.refl d)
    · refine .inr (Sends.trans ?_ (sends_hostFrom _ _ _))
      refine Sends.trans ?_ (sends_hostFrom _ _ _)
      exact ⟨_, _, _, _, _, rfl⟩
  · exact .inl (Sends.refl d)

theorem evqPump_eq (d : Dev) {α : Type} (P : Dev → α) (hi : ∀ (d : Dev) b, P { d with evqIssued := b } = P d)
    (hP : ∀ (d : Dev) px mo out notes id, P { d with pcie := px, mortars := mo, out := out, notes := notes, nextId := id } = P d) :
    P d.evqPump = P d := by
  rcases evqPump_sends d with h | h
  · exact h.eq P hP
  · exact (h.eq P hP).trans (hi d true)

theorem at_evqPump (d : Dev) (l : Loc) : d.evqPump.at l = d.at l := evqPump_eq d (Dev.at · l) (fun _ _ => rfl) fun _ _ _ _ _ _ => rfl

/-! Steps taken for one unit after the other -/

/-- Steps that each change the registers of their own unit only: what they leave in a unit is what its own step leaves. -/
theorem foldl_own {α : Type} (P : Dev → α) {step : Dev → Nat → Dev} (hat : ∀ d x (l : Loc), l.u ≠ x → (step d x).at l = d.at l)
    (hP : ∀ d x, P (step d x) = P d) {y : Nat} : ∀ (xs : List Nat) (d : Dev), xs.Nodup → y ∈ xs →
      ∃ e : Dev, P e = P d ∧ (∀ l : Loc, l.u = y → e.at l = d.at l) ∧ ∀ l : Loc, l.u = y → (xs.foldl step d).at l = (step e y).at l := by
  have hout : ∀ (xs : List Nat) (d : Dev) (l : Loc), l.u ∉ xs → (xs.foldl step d).at l = d.at l := by
    intro xs
    induction xs with
    | nil => exact fun _ _ _ => rfl
    | cons x xs ih => exact fun d l hl => (ih _ l fun h => hl (List.mem_cons_of_mem _ h)).trans (hat d x l fun h => hl (h ▸ List.mem_cons_self))
  intro xs
  induction xs with
  | nil => exact fun _ _ h => absurd h (by simp)
  | cons x xs ih =>
    intro d hn hy
    obtain ⟨hx, hn⟩ := List.nodup_cons.mp hn
    by_cases hxy : y = x
    · subst hxy
      exact ⟨d, rfl, fun _ _ => rfl, fun l hl => hout xs _ l (hl ▸ hx)⟩
    · obtain ⟨e, h1, h2, h3⟩ := ih (step d x) hn ((List.mem_cons.mp hy).resolve_left hxy)
      exact ⟨e, h1.trans (hP d x), fun l hl => (h2 l hl).trans (hat d x l fun h => hxy (hl ▸ h)), h3⟩

theorem foldl_kept {α : Type} (P : Dev → α) {β : Type} {step : Dev → β → Dev} (hP : ∀ d x, P (step d x) = P d) :
    ∀ (xs : List β) (d : Dev), P (xs.foldl step d) = P d
  | [], _ => rfl
  | x :: xs, d => (foldl_kept P hP xs (step d x)).trans (hP d x)

end Sys2Proof.Machine

/-! ## The lead and its handoff (R361 to R364) -/

namespace Sys2Proof.Machine

theorem dies_nodup (d : Dev) : d.dies.Nodup := List.nodup_range

theorem mem_dies {d : Dev} {y : Nat} : y ∈ d.dies ↔ y < d.n := List.mem_range

/-- What the roles say of the lead and its deputy, written to every die. -/
def Dev.roleNamed (d : Dev) (dep : Option Nat) (x : Nat) : Dev :=
  (d.setFld MC_ROLE.DEPUTY x 0 (if dep = some x then 1 else 0)).setFld MC_ROLE.LEAD x 0 d.lead.lead

theorem at_roleNamed_ne (d : Dev) (dep : Option Nat) {x : Nat} {l : Loc} (h : l ≠ ⟨.MC_ROLE, x, 0⟩) : (d.roleNamed dep x).at l = d.at l := by
  rw [Dev.roleNamed, Dev.at_setFld_ne _ _ _ _ _ h, Dev.at_setFld_ne _ _ _ _ _ h]

theorem roleSync_def (d : Dev) : ∃ dep, d.roleSync = d.dies.foldl (fun e x => e.roleNamed dep x) d ∧
    dep = d.dies.find? fun x => x != d.lead.lead && d.inService x && d.fld MC_ROLE.ROLE x == 1 &&
      (d.lead.failed || (d.fld MC_ROLE.HEALTHY d.lead.lead).testBit x) := ⟨_, rfl, rfl⟩

/-- What is no register is as before. -/
theorem roleSync_eq (d : Dev) {α : Type} (P : Dev → α) (hP : ∀ (d : Dev) r u, P { d with regs := r, upsets := u } = P d) : P d.roleSync = P d := by
  obtain ⟨dep, h, -⟩ := roleSync_def d
  rw [h]
  exact foldl_kept P (fun e x => (hP (e.setFld MC_ROLE.DEPUTY x 0 (if dep = some x then 1 else 0)) _ _).trans (hP e _ _)) _ _

theorem at_roleSync_ne (d : Dev) {l : Loc} (h : l.reg ≠ .MC_ROLE) : d.roleSync.at l = d.at l := by
  obtain ⟨dep, hd, -⟩ := roleSync_def d
  rw [hd]
  exact foldl_kept (Dev.at · l) (fun e x => at_roleNamed_ne e dep (by rintro rfl; exact h rfl)) _ _

/-- The fields of MC_ROLE beside LEAD and DEPUTY stay. -/
theorem fld_roleSync (d : Dev) {f : Fld} (u i : Nat) (hl : MC_ROLE.LEAD.apart f = true) (hd : MC_ROLE.DEPUTY.apart f = true) :
    d.roleSync.fld f u i = d.fld f u i := by
  obtain ⟨dep, h, -⟩ := roleSync_def d
  rw [h]
  exact foldl_kept (fun e => e.fld f u i) (fun e x => by
    rw [Dev.roleNamed, fld_setFld_apart _ _ _ _ _ _ hl (by decide), fld_setFld_apart _ _ _ _ _ _ hd (by decide)]) _ _

/-- Every die shows the lead. -/
theorem lead_roleSync (d : Dev) (hx : d.lead.lead < d.n) {y : Nat} (hy : y < d.n) : d.roleSync.fld MC_ROLE.LEAD y = d.lead.lead := by
  obtain ⟨dep, h, -⟩ := roleSync_def d
  obtain ⟨e, h1, -, h3⟩ := foldl_own (step := fun e x => e.roleNamed dep x) Dev.lead (y := y)
    (fun e x l hl => at_roleNamed_ne e dep (by rintro rfl; exact hl rfl)) (fun _ _ => rfl) d.dies d (dies_nodup d) (mem_dies.mpr hy)
  rw [h, fld_of_at (h3 _ rfl), Dev.roleNamed, fld_setFld _ _ _ _ (by decide)]
  have hl : e.lead.lead = d.lead.lead := congrArg LeadState.lead h1
  have := n_le_eight d
  refine (Nat.mod_eq_of_lt ?_).trans hl
  change e.lead.lead < 8
  omega

@[simp] theorem n_roleSync (d : Dev) : d.roleSync.n = d.n := roleSync_eq d Dev.n fun _ _ _ => rfl

/-- With no write held nothing is released. -/
theorem releaseCfg_none {d : Dev} (L : Locks) (h : d.heldCfg = []) : d.releaseCfg L = d := by
  have : ({ d with heldCfg := [] } : Dev) = d := by rw [← h]
  simp only [Dev.releaseCfg, h, List.foldl_nil, this]

theorem nameMirrors_eq (d : Dev) {α : Type} (P : Dev → α) (hP : ∀ (d : Dev) m, P { d with mirrors := m } = P d) : P d.nameMirrors = P d :=
  foldl_kept P (fun e _ => hP e _) _ _

/-- A die that becomes lead (R363, R364). -/
theorem newLead_effect {d : Dev} {L : Locks} {x : Nat} (hc : d.heldCfg = []) (hx : x < d.n) :
    let e := d.newLead L x; let old := d.lead.lead
    e.lead = { lead := x } ∧ e.n = d.n ∧ (∀ y, y < d.n → e.fld MC_ROLE.LEAD y = x) ∧
      (∀ y, e.fld MC_ROLE.ROLE y = if y = x then 3 else if y = old ∧ d.fld MC_ROLE.ROLE old = 3 then 1 else d.fld MC_ROLE.ROLE y) ∧
      ∀ (f : Fld) (u i : Nat), MC_ROLE.ROLE.apart f = true → MC_ROLE.LEAD.apart f = true → MC_ROLE.DEPUTY.apart f = true → e.fld f u i = d.fld f u i := by
  intro e old
  obtain ⟨m, hm⟩ : ∃ m, m = ({ d with lead := { lead := x } } : Dev).nameMirrors := ⟨_, rfl⟩
  have hmat : ∀ l, m.at l = d.at l := fun l => by rw [hm]; exact nameMirrors_eq _ (Dev.at · l) fun _ _ => rfl
  have hmlead : m.lead = { lead := x } := by rw [hm]; exact nameMirrors_eq _ Dev.lead fun _ _ => rfl
  have hmn : m.n = d.n := by rw [hm]; exact nameMirrors_eq _ Dev.n fun _ _ => rfl
  have hmcfg : m.heldCfg = [] := by rw [hm]; exact (nameMirrors_eq _ Dev.heldCfg fun _ _ => rfl).trans hc
  obtain ⟨b, hb⟩ : ∃ b, b = (m.setFld MC_ROLE.ROLE x 0 3).raise x evLead ⟨.MC_ROLE, x, 0⟩ 30 x := ⟨_, rfl⟩
  have hbfld : ∀ (f : Fld) (u i : Nat), MC_ROLE.ROLE.apart f = true → b.fld f u i = d.fld f u i := fun f u i h => by
    rw [hb, fld_raise, fld_setFld_apart _ _ _ _ _ _ h (by decide), fld_of_at (hmat _)]
  have hbrole : ∀ y, b.fld MC_ROLE.ROLE y = if y = x then 3 else d.fld MC_ROLE.ROLE y := fun y => by
    rw [hb, fld_raise]
    split
    next h => rw [h, fld_setFld _ _ _ _ (by decide)]; rfl
    next h => rw [Dev.fld_setFld_ne _ _ _ _ _ _ _ _ (by simp [h]), fld_of_at (hmat _)]
  obtain ⟨c, hcd⟩ : ∃ c, c = if old != x && b.fld MC_ROLE.ROLE old == 3 then b.setFld MC_ROLE.ROLE old 0 1 else b := ⟨_, rfl⟩
  have hcfld : ∀ (f : Fld) (u i : Nat), MC_ROLE.ROLE.apart f = true → c.fld f u i = d.fld f u i := fun f u i h => by
    rw [hcd]
    split
    · rw [fld_setFld_apart _ _ _ _ _ _ h (by decide), hbfld f u i h]
    · exact hbfld f u i h
  have hcrole : ∀ y, c.fld MC_ROLE.ROLE y = if y = x then 3 else if y = old ∧ d.fld MC_ROLE.ROLE old = 3 then 1 else d.fld MC_ROLE.ROLE y := fun y => by
    have hne : ∀ v, v ≠ x → b.fld MC_ROLE.ROLE v = d.fld MC_ROLE.ROLE v := fun v hv => by rw [hbrole, if_neg hv]
    rw [hcd]
    split
    next h =>
      simp only [Bool.and_eq_true, bne_iff_ne, beq_iff_eq] at h
      obtain ⟨hox, h3⟩ := h
      rw [hne old hox] at h3
      by_cases hy : y = old
      · subst hy
        rw [fld_setFld _ _ _ _ (by decide), if_neg hox, if_pos ⟨rfl, h3⟩]
        rfl
      · rw [Dev.fld_setFld_ne _ _ _ _ _ _ _ _ (by simp [hy]), hbrole]
        simp only [hy, false_and, if_false]
    next h =>
      rw [hbrole]
      split
      next => rfl
      next hyx =>
        rw [if_neg]
        rintro ⟨rfl, h3⟩
        exact h (by simp [hyx, hne old hyx, h3])
  have hcrest : c.lead = { lead := x } ∧ c.n = d.n ∧ c.heldCfg = [] := by
    rw [hcd, hb]
    split <;> exact ⟨hmlead, hmn, hmcfg⟩
  obtain ⟨hclead, hcn, hccfg⟩ := hcrest
  have he : e = c.roleSync.evqPump := by
    have hdef : e = (c.roleSync.releaseCfg L).evqPump := by rw [hcd, hb, hm]; rfl
    rw [hdef, releaseCfg_none L ((roleSync_eq c Dev.heldCfg fun _ _ _ => rfl).trans hccfg)]
  have hlead : c.lead.lead = x := by rw [hclead]
  rw [he]
  refine ⟨?_, ?_, fun y hy => ?_, fun y => ?_, fun f u i h1 h2 h3 => ?_⟩
  · exact (evqPump_eq _ Dev.lead (fun _ _ => rfl) fun _ _ _ _ _ _ => rfl).trans ((roleSync_eq c Dev.lead fun _ _ _ => rfl).trans hclead)
  · exact (evqPump_eq _ Dev.n (fun _ _ => rfl) fun _ _ _ _ _ _ => rfl).trans ((n_roleSync c).trans hcn)
  · rw [fld_of_at (at_evqPump _ _), lead_roleSync c (by rw [hlead, hcn]; exact hx) (hcn ▸ hy), hlead]
  · rw [fld_of_at (at_evqPump _ _), fld_roleSync c _ _ (by decide) (by decide), hcrole]
  · rw [fld_of_at (at_evqPump _ _), fld_roleSync c _ _ h2 h3, hcfld f u i h1]

/-- The state while a handoff to a die is under way. -/
def Dev.handing (d : Dev) (x : Nat) : Dev := { d with lead := { d.lead with handoff := some x } }

theorem fld_handing (d : Dev) (x : Nat) (f : Fld) (u i : Nat) : (d.handing x).fld f u i = d.fld f u i := rfl

theorem handoffTry_done {d : Dev} {L : Locks} {x : Nat} (h : d.lead.handoff = some x) (hl : d.cfgLog = [])
    (hh : (d.fld MC_ROLE.HEALTHY d.lead.lead).testBit x = true) : d.handoffTry L = d.handoffDone L x := by
  simp only [Dev.handoffTry, h, hl, hh, List.isEmpty_nil, Bool.and_self, if_true]

/-- A handoff while no write is in hand or held ends at once: the target is the lead (R364). -/
theorem handoff_done {d : Dev} {L : Locks} {x : Nat} (hr : d.fld MC_ROLE.ROLE x = 1 ∨ d.fld MC_ROLE.ROLE x = 2)
    (hh : (d.fld MC_ROLE.HEALTHY d.lead.lead).testBit x = true) (hb : d.leadBusy = false) (hl : d.cfgLog = []) :
    d.handoff L x = (d.handing x).handoffDone L x := by
  rw [Dev.handoff]
  dsimp only
  rw [if_pos (by simp [hr, hh, hb])]
  exact handoffTry_done rfl hl hh

/-- The roles after the handoff to an OBSERVER: those of its level stand by. -/
def Dev.levelled (lvl t : Nat) (d : Dev) (y : Nat) : Dev :=
  if y = t || d.fld MC_ROLE.ROLE y = 0 then d else d.setFld MC_ROLE.ROLE y 0 (if d.fld MC_ROLE.SYNC_LEVEL y = lvl then 1 else 2)

theorem at_levelled_ne (d : Dev) (lvl t : Nat) {y : Nat} {l : Loc} (h : l.u ≠ y) : (d.levelled lvl t y).at l = d.at l := by
  unfold Dev.levelled
  split
  · rfl
  · exact Dev.at_setFld_ne _ _ _ _ _ (by rintro rfl; exact h rfl)

theorem foldl_levelled {d : Dev} (lvl t : Nat) {y : Nat} (hy : y < d.n) :
    (d.dies.foldl (Dev.levelled lvl t) d).fld MC_ROLE.ROLE y = if y = t ∨ d.fld MC_ROLE.ROLE y = 0 then d.fld MC_ROLE.ROLE y
      else if d.fld MC_ROLE.SYNC_LEVEL y = lvl then 1 else 2 := by
  obtain ⟨e, -, h2, h3⟩ := foldl_own (step := Dev.levelled lvl t) (fun _ => ()) (y := y) (fun e x l hl => at_levelled_ne e lvl t hl) (fun _ _ => rfl)
    d.dies d (dies_nodup d) (mem_dies.mpr hy)
  have hr : e.fld MC_ROLE.ROLE y = d.fld MC_ROLE.ROLE y := fld_of_at (h2 _ rfl)
  have hs : e.fld MC_ROLE.SYNC_LEVEL y = d.fld MC_ROLE.SYNC_LEVEL y := fld_of_at (h2 _ rfl)
  rw [fld_of_at (h3 _ rfl), Dev.levelled, hr, hs]
  simp only [Bool.or_eq_true, decide_eq_true_eq]
  split
  · exact hr
  · rw [fld_setFld _ _ _ _ (by decide)]
    split <;> rfl

theorem swCmd_handoff {d : Dev} {L : Locks} {src : Src} {x : Nat} (hx : x < d.n) (hg : d.lets src ⟨.DIE_SVC, x, 0⟩ = true) :
    ∃ b v, d.swCmd L src ⟨.DIE_SVC, x, 0⟩ (fun c => putBits c 2 2 1) = ((d.commanded src ⟨.DIE_SVC, x, 0⟩ b v).handoff L x).answered src := by
  obtain ⟨b, v, hv, he⟩ := swCmd_dieSvc (L := L) (k := 2) hx hg
  exact ⟨b, v, he.trans (by rw [Dev.dieSvc, hv (by decide)]; rfl)⟩

/-- A handoff to a STANDBY (R364). -/
theorem handoffDone_standby {d : Dev} {L : Locks} {x : Nat} (hc : d.heldCfg = []) (hx : x < d.n) (hne : x ≠ d.lead.lead) (hr : d.fld MC_ROLE.ROLE x = 1)
    (ho : d.fld MC_ROLE.ROLE d.lead.lead = 3) :
    let e := d.handoffDone L x
    e.lead = { lead := x } ∧ e.fld MC_ROLE.ROLE x = 3 ∧ e.fld MC_ROLE.ROLE d.lead.lead = 1 ∧
      e.fld MC_HB.HANDOFFS x = min (d.fld MC_HB.HANDOFFS x + 1) 255 ∧ ∀ y : Nat, y < d.n → e.fld MC_ROLE.LEAD y = x := by
  obtain ⟨h1, h2, h3, h4, h5⟩ := newLead_effect (L := L) hc hx
  have hdef : d.handoffDone L x = ((d.newLead L x).bump MC_HB.HANDOFFS x).roleSync := by
    have h31 : (d.newLead L x).fld MC_ROLE.ROLE d.lead.lead = 1 := by rw [h4, if_neg hne.symm, if_pos ⟨rfl, ho⟩]
    simp only [Dev.handoffDone, hr, Nat.reduceBEq, Bool.false_eq_true, if_false]
    rw [fld_bump_apart _ _ _ _ _ (by decide) (by decide), h31]
    simp
  have hlead : ((d.newLead L x).bump MC_HB.HANDOFFS x).lead = { lead := x } := h1
  have hrole : ∀ y, ((d.newLead L x).bump MC_HB.HANDOFFS x).fld MC_ROLE.ROLE y = (d.newLead L x).fld MC_ROLE.ROLE y := fun y =>
    fld_bump_apart _ _ _ _ _ (by decide) (by decide)
  rw [hdef]
  refine ⟨?_, ?_, ?_, ?_, fun y hy => ?_⟩
  · exact (roleSync_eq _ Dev.lead fun _ _ _ => rfl).trans hlead
  · rw [fld_roleSync _ _ _ (by decide) (by decide), hrole, h4, if_pos rfl]
  · rw [fld_roleSync _ _ _ (by decide) (by decide), hrole, h4, if_neg hne.symm, if_pos ⟨rfl, ho⟩]
  · rw [fld_roleSync _ _ _ (by decide) (by decide), fld_bump _ _ _ (by decide), h5 _ _ _ (by decide) (by decide) (by decide)]
    rfl
  · have hl : ((d.newLead L x).bump MC_HB.HANDOFFS x).lead.lead = x := by rw [hlead]
    have hn : ((d.newLead L x).bump MC_HB.HANDOFFS x).n = d.n := h2
    rw [lead_roleSync _ (by rw [hl, hn]; exact hx) (hn ▸ hy), hl]

/-- A handoff to an OBSERVER: its level becomes that of the controllers that stand by (R364). -/
theorem handoffDone_observer {d : Dev} {L : Locks} {x : Nat} (hc : d.heldCfg = []) (hx : x < d.n) (hne : x ≠ d.lead.lead) (hr : d.fld MC_ROLE.ROLE x = 2)
    (hn : d.lead.lead < d.n) :
    let e := d.handoffDone L x
    e.lead = { lead := x } ∧ e.fld MC_ROLE.ROLE x = 3 ∧ ∀ y : Nat, y < d.n → y ≠ x → d.fld MC_ROLE.ROLE y ≠ 0 →
      e.fld MC_ROLE.ROLE y = if d.fld MC_ROLE.SYNC_LEVEL y = d.fld MC_ROLE.SYNC_LEVEL x then 1 else 2 := by
  obtain ⟨h1, h2, -, h4, h5⟩ := newLead_effect (L := L) hc hx
  obtain ⟨b, hb⟩ : ∃ b, b = (d.newLead L x).bump MC_HB.HANDOFFS x := ⟨_, rfl⟩
  have hbn : b.n = d.n := by rw [hb]; exact h2
  have hblead : b.lead = { lead := x } := by rw [hb]; exact h1
  have hbrole : ∀ y, b.fld MC_ROLE.ROLE y = (d.newLead L x).fld MC_ROLE.ROLE y := fun y => by
    rw [hb, fld_bump_apart _ _ _ _ _ (by decide) (by decide)]
  have hblvl : ∀ y, b.fld MC_ROLE.SYNC_LEVEL y = d.fld MC_ROLE.SYNC_LEVEL y := fun y => by
    rw [hb, fld_bump_apart _ _ _ _ _ (by decide) (by decide), h5 _ _ _ (by decide) (by decide) (by decide)]
  obtain ⟨c, hcd⟩ : ∃ c, c = b.dies.foldl (Dev.levelled (d.fld MC_ROLE.SYNC_LEVEL x) x) b := ⟨_, rfl⟩
  have hclead : c.lead = { lead := x } := by
    rw [hcd]
    exact (foldl_kept Dev.lead (fun e y => by unfold Dev.levelled; split <;> rfl) _ _).trans hblead
  have hcx : c.fld MC_ROLE.ROLE x = 3 := by
    rw [hcd, foldl_levelled _ _ (hbn ▸ hx), if_pos (.inl rfl), hbrole, h4, if_pos rfl]
  have hcy : ∀ y : Nat, y < d.n → y ≠ x → d.fld MC_ROLE.ROLE y ≠ 0 →
      c.fld MC_ROLE.ROLE y = if d.fld MC_ROLE.SYNC_LEVEL y = d.fld MC_ROLE.SYNC_LEVEL x then 1 else 2 := fun y hy hyx h0 => by
    have hb0 : b.fld MC_ROLE.ROLE y ≠ 0 := by
      rw [hbrole, h4, if_neg hyx]
      split
      · decide
      · exact h0
    rw [hcd, foldl_levelled _ _ (hbn ▸ hy), if_neg (not_or.mpr ⟨hyx, hb0⟩), hblvl]
  have hold : c.fld MC_ROLE.ROLE d.lead.lead ≠ 3 := by
    rw [hcd, foldl_levelled _ _ (hbn ▸ hn)]
    split
    next h =>
      rw [h.resolve_left hne.symm]
      decide
    next h => split <;> decide
  have hdef : d.handoffDone L x = c.roleSync := by
    have h : d.handoffDone L x = (if d.lead.lead != x && c.fld MC_ROLE.ROLE d.lead.lead == 3 then c.setFld MC_ROLE.ROLE d.lead.lead 0 1 else c).roleSync := by
      rw [hcd, hb, Dev.handoffDone, if_pos (show (d.fld MC_ROLE.ROLE x == 2) = true by rw [hr]; rfl)]
      rfl
    rw [h, if_neg (by rw [beq_eq_false_iff_ne.mpr hold, Bool.and_false]; decide)]
  rw [hdef]
  refine ⟨?_, ?_, fun y hy hyx h0 => ?_⟩
  · exact (roleSync_eq _ Dev.lead fun _ _ _ => rfl).trans hclead
  · rw [fld_roleSync _ _ _ (by decide) (by decide), hcx]
  · rw [fld_roleSync _ _ _ (by decide) (by decide), hcy y hy hyx h0]

theorem handoff_standby {d : Dev} {L : Locks} {x : Nat} (hc : d.heldCfg = []) (hl : d.cfgLog = []) (hx : x < d.n) (hne : x ≠ d.lead.lead)
    (hb : d.leadBusy = false) (hr : d.fld MC_ROLE.ROLE x = 1) (ho : d.fld MC_ROLE.ROLE d.lead.lead = 3)
    (hh : (d.fld MC_ROLE.HEALTHY d.lead.lead).testBit x = true) :
    let e := d.handoff L x
    e.lead = { lead := x } ∧ e.fld MC_ROLE.ROLE x = 3 ∧ e.fld MC_ROLE.ROLE d.lead.lead = 1 ∧
      e.fld MC_HB.HANDOFFS x = min (d.fld MC_HB.HANDOFFS x + 1) 255 ∧ ∀ y : Nat, y < d.n → e.fld MC_ROLE.LEAD y = x := by
  rw [handoff_done (.inl hr) hh hb hl]
  exact handoffDone_standby (d := d.handing x) hc hx hne hr ho

theorem handoff_observer {d : Dev} {L : Locks} {x : Nat} (hc : d.heldCfg = []) (hl : d.cfgLog = []) (hx : x < d.n) (hne : x ≠ d.lead.lead)
    (hb : d.leadBusy = false) (hr : d.fld MC_ROLE.ROLE x = 2) (hn : d.lead.lead < d.n) (hh : (d.fld MC_ROLE.HEALTHY d.lead.lead).testBit x = true) :
    let e := d.handoff L x
    e.lead = { lead := x } ∧ e.fld MC_ROLE.ROLE x = 3 ∧ ∀ y : Nat, y < d.n → y ≠ x → d.fld MC_ROLE.ROLE y ≠ 0 →
      e.fld MC_ROLE.ROLE y = if d.fld MC_ROLE.SYNC_LEVEL y = d.fld MC_ROLE.SYNC_LEVEL x then 1 else 2 := by
  rw [handoff_done (.inr hr) hh hb hl]
  exact handoffDone_observer (d := d.handing x) hc hx hne hr hn

theorem at_dieRefuse_ne (d : Dev) (x c : Nat) {l : Loc} (h : l.reg ≠ .DIE_SVC_STAT) : (d.dieRefuse x c).at l = d.at l := by
  rw [Dev.dieRefuse, at_raise, Dev.at_setFld_ne _ _ _ _ _ (by rintro rfl; exact h rfl)]

theorem commanded_lead (d : Dev) (src : Src) (l : Loc) (b : Bool) (v : Word) :
    (d.commanded src l b v).lead = d.lead ∧ (d.commanded src l b v).heldCfg = d.heldCfg ∧ (d.commanded src l b v).cfgLog = d.cfgLog ∧
      (d.commanded src l b v).n = d.n :=
  ⟨(commanded_of_regs Dev.lead (fun _ _ _ _ => rfl) d src l b v).trans rfl, (commanded_of_regs Dev.heldCfg (fun _ _ _ _ => rfl) d src l b v).trans rfl,
    (commanded_of_regs Dev.cfgLog (fun _ _ _ _ => rfl) d src l b v).trans rfl, n_commanded d src l b v⟩

/-- Settles O49. -/
theorem leadHandoff : Obligations.LeadHandoff := by
  unfold Obligations.LeadHandoff
  refine ⟨fun s => State.does_perform (by dsimp only [exec]; rfl) rfl, fun s src x hx hne hlog hheld => ⟨fun hg hb => ⟨fun hh hold =>
    ⟨fun hr => State.doesSome_perform (by dsimp only [exec]; rfl) ?standby, fun hr hln => State.doesSome_perform (by dsimp only [exec]; rfl) ?observer⟩,
    fun hno => State.doesSome_perform (by dsimp only [exec]; rfl) ?refused⟩, fun ho => State.doesSome_perform (by dsimp only [exec]; rfl) ?late,
    fun ho => State.does_perform (by dsimp only [exec]; rfl) ?none⟩⟩
  case standby =>
    obtain ⟨b, v, he⟩ := swCmd_handoff (L := s.locks) hx hg
    have hfld := fun (f : Fld) (y : Nat) (h : f.reg ≠ .DIE_SVC) (hs : f.reg ≠ .PKG_SEAL_STAT) => fld_commanded s.dev src x 0 b v y 0 h hs
    obtain ⟨hlead, hcfg, hlg, hn⟩ := commanded_lead s.dev src ⟨.DIE_SVC, x, 0⟩ b v
    generalize s.dev.commanded src ⟨.DIE_SVC, x, 0⟩ b v = c at *
    rw [he, ← hfld MC_HB.HANDOFFS x (by decide) (by decide), ← hn, ← hlead]
    rw [← hlead] at hne hh hold
    obtain ⟨h1, h2, h3, h4, h5⟩ := handoff_standby (L := s.locks) (hcfg.trans hheld) (hlg.trans hlog) (hn.symm ▸ hx) hne (by rw [Dev.leadBusy, hlead]; exact hb)
      ((hfld _ _ (by decide) (by decide)).trans hr) ((hfld _ _ (by decide) (by decide)).trans hold)
      (by rw [hfld _ _ (by decide) (by decide)]; exact hh)
    exact ⟨(answered_of_out Dev.lead (fun _ _ => rfl) _ _).trans h1, (fld_answered ..).trans h2, (fld_answered ..).trans h3, (fld_answered ..).trans h4,
      fun y hy => (fld_answered ..).trans (h5 y hy)⟩
  case observer =>
    obtain ⟨b, v, he⟩ := swCmd_handoff (L := s.locks) hx hg
    have hfld := fun (f : Fld) (y : Nat) (h : f.reg ≠ .DIE_SVC) (hs : f.reg ≠ .PKG_SEAL_STAT) => fld_commanded s.dev src x 0 b v y 0 h hs
    obtain ⟨hlead, hcfg, hlg, hn⟩ := commanded_lead s.dev src ⟨.DIE_SVC, x, 0⟩ b v
    generalize s.dev.commanded src ⟨.DIE_SVC, x, 0⟩ b v = c at *
    rw [he, ← hn]
    rw [← hlead] at hne hh hold hln
    obtain ⟨h1, h2, h3⟩ := handoff_observer (L := s.locks) (hcfg.trans hheld) (hlg.trans hlog) (hn.symm ▸ hx) hne (by rw [Dev.leadBusy, hlead]; exact hb)
      ((hfld _ _ (by decide) (by decide)).trans hr) (hn.symm ▸ hln) (by rw [hfld _ _ (by decide) (by decide)]; exact hh)
    refine ⟨(answered_of_out Dev.lead (fun _ _ => rfl) _ _).trans h1, (fld_answered ..).trans h2, fun y hy hyx h0 => ?_⟩
    rw [fld_answered, h3 y hy hyx (by rw [hfld _ _ (by decide) (by decide)]; exact h0), hfld _ _ (by decide) (by decide), hfld _ _ (by decide) (by decide)]
  case refused =>
    obtain ⟨b, v, he⟩ := swCmd_handoff (L := s.locks) hx hg
    have hat := at_commanded_ne s.dev src (k := ⟨.DIE_SVC, x, 0⟩) (l := ⟨.MC_ROLE, x, 0⟩) b v (by simp) (show RegId.MC_ROLE ≠ .PKG_SEAL_STAT by decide)
    have hheal := fld_commanded s.dev src (r := .DIE_SVC) (f := MC_ROLE.HEALTHY) x 0 b v s.dev.lead.lead 0 (by decide) (by decide)
    obtain ⟨hlead, -, -, -⟩ := commanded_lead s.dev src ⟨.DIE_SVC, x, 0⟩ b v
    generalize s.dev.commanded src ⟨.DIE_SVC, x, 0⟩ b v = c at *
    have hrole : c.fld MC_ROLE.ROLE x = s.dev.fld MC_ROLE.ROLE x := fld_of_at hat
    have hdef : c.handoff s.locks x = c.dieRefuse x 5 := by
      rw [Dev.handoff]
      dsimp only
      rw [if_neg]
      rw [hlead, hheal, hrole]
      rcases hno with h | h | h <;> simp [h]
    rw [he, hdef]
    refine ⟨(answered_of_out Dev.lead (fun _ _ => rfl) _ _).trans hlead, (fld_answered ..).trans (fld_dieRefuse ..), (at_answered _ src _).trans ?_⟩
    exact (at_dieRefuse_ne _ _ _ (show RegId.MC_ROLE ≠ .DIE_SVC_STAT by decide)).trans hat
  case late =>
    have hdef : s.dev.handoffLate s.locks = ({ s.dev with lead := { s.dev.lead with handoff := none } } : Dev).dieRefuse x 5 := by
      rw [Dev.handoffLate, ho]
      exact releaseCfg_none _ hheld
    rw [hdef]
    exact ⟨rfl, fld_dieRefuse .., at_dieRefuse_ne _ _ _ (show RegId.MC_ROLE ≠ .DIE_SVC_STAT by decide)⟩
  case none => rw [Dev.handoffLate, ho]

end Sys2Proof.Machine

/-! ## The controllers (R361 to R363, R365) -/

namespace Sys2Proof.Machine

/-! Mortar packets of the controllers -/

/-- Only the mortar ends and the outputs differ. -/
theorem sends_mortarSend (d : Dev) (a b k c : Nat) (ws : List Word) : Sends d (d.mortarSend a b k c ws) := by
  unfold Dev.mortarSend Dev.mortarHop
  dsimp only
  split <;> exact ⟨_, _, _, _, _, rfl⟩

theorem mor_mortarHop (d : Dev) (x : Nat) (p : MortarPkt) (y : Nat) : (d.mortarHop x p).mor y = d.mor y := by
  unfold Dev.mortarHop
  split <;> rfl

/-- A packet sent waits for its acknowledge behind those that wait. -/
theorem unacked_mortarSend (d : Dev) (a b k c : Nat) (ws : List Word) :
    ∃ seq, ((d.mortarSend a b k c ws).mor a).unacked = (d.mor a).unacked ++ [⟨a, b, k, c, seq, ws⟩] := by
  refine ⟨((d.mor a).sent.find? fun e => e.1 == (b, k)).elim 0 (·.2), ?_⟩
  simp only [Dev.mortarSend, mor_mortarHop]
  simp [Dev.modMor, Dev.mor]

theorem foldl_sends {α : Type} {f : Dev → α → Dev} (hf : ∀ d a, Sends d (f d a)) : ∀ (xs : List α) (d : Dev), Sends d (xs.foldl f d)
  | [], d => Sends.refl d
  | x :: xs, d => (hf d x).trans (foldl_sends hf xs (f d x))

/-- A heartbeat to every die named waits for its acknowledge. -/
theorem heartbeat_unacked {x y : Nat} (ys : List Nat) (d : Dev)
    (h : y ∈ ys ∨ ∃ p ∈ (d.mor x).unacked, p.src = x ∧ p.dst = y ∧ p.stream = hbStream) :
    ∃ p ∈ ((ys.foldl (fun d y => d.mortarSend x y hbStream 0 [0x10000000#32]) d).mor x).unacked, p.src = x ∧ p.dst = y ∧ p.stream = hbStream := by
  induction ys generalizing d with
  | nil => exact h.resolve_left (by simp)
  | cons z ys ih =>
    obtain ⟨seq, hs⟩ := unacked_mortarSend d x z hbStream 0 [0x10000000#32]
    refine ih _ ?_
    rw [hs]
    by_cases hz : y = z
    · exact .inr ⟨_, List.mem_append_right _ List.mem_cons_self, rfl, hz.symm, rfl⟩
    · refine h.imp (fun hm => (List.mem_cons.mp hm).resolve_left hz) fun ⟨p, hp, hrest⟩ => ⟨p, List.mem_append_left _ hp, hrest⟩

/-! Health -/

theorem setHealth_eq (d : Dev) (x m : Nat) {α : Type} (P : Dev → α) (hP : ∀ (d : Dev) r u, P { d with regs := r, upsets := u } = P d) :
    P (d.setHealth x m) = P d := by
  unfold Dev.setHealth
  dsimp only
  split
  · exact (roleSync_eq _ P hP).trans (hP d _ _)
  · exact hP d _ _

theorem at_setHealth_ne (d : Dev) (x m : Nat) {l : Loc} (h : l.reg ≠ .MC_ROLE) : (d.setHealth x m).at l = d.at l := by
  unfold Dev.setHealth
  dsimp only
  split
  · rw [at_roleSync_ne _ h, Dev.at_setFld_ne _ _ _ _ _ (by rintro rfl; exact h rfl)]
  · rw [Dev.at_setFld_ne _ _ _ _ _ (by rintro rfl; exact h rfl)]

/-- The fields of MC_ROLE beside HEALTHY, LEAD and DEPUTY stay. -/
theorem fld_setHealth (d : Dev) (x m : Nat) {f : Fld} (u i : Nat) (hh : MC_ROLE.HEALTHY.apart f = true) (hl : MC_ROLE.LEAD.apart f = true)
    (hd : MC_ROLE.DEPUTY.apart f = true) : (d.setHealth x m).fld f u i = d.fld f u i := by
  unfold Dev.setHealth
  dsimp only
  split
  · rw [fld_roleSync _ _ _ hl hd, fld_setFld_apart _ _ _ _ _ _ hh (by decide)]
  · rw [fld_setFld_apart _ _ _ _ _ _ hh (by decide)]

theorem healthy_setHealth (d : Dev) (x : Nat) {m : Nat} (h : m < 256) : (d.setHealth x m).fld MC_ROLE.HEALTHY x = m := by
  have hs : (d.setFld MC_ROLE.HEALTHY x 0 m).fld MC_ROLE.HEALTHY x = m := (fld_setFld _ _ _ _ (by decide)).trans (Nat.mod_eq_of_lt h)
  unfold Dev.setHealth
  dsimp only
  split
  · rw [fld_roleSync _ _ _ (by decide) (by decide), hs]
  · exact hs

/-- The health that the others show stays. -/
theorem healthy_setHealth_ne (d : Dev) {x y : Nat} (m : Nat) (h : y ≠ x) : (d.setHealth x m).fld MC_ROLE.HEALTHY y = d.fld MC_ROLE.HEALTHY y := by
  have hs : (d.setFld MC_ROLE.HEALTHY x 0 m).fld MC_ROLE.HEALTHY y = d.fld MC_ROLE.HEALTHY y := Dev.fld_setFld_ne _ _ _ _ _ _ _ _ (by simp [h])
  unfold Dev.setHealth
  dsimp only
  split
  · rw [fld_roleSync _ _ _ (by decide) (by decide), hs]
  · exact hs

theorem healthy_lt (d : Dev) (x : Nat) : d.fld MC_ROLE.HEALTHY x < 256 := Nat.mod_lt _ (by decide)

/-- A bit taken off a number leaves its other bits. -/
theorem testBit_sub_two_pow {h y : Nat} (hb : h.testBit y = true) (z : Nat) : (h - 2 ^ y).testBit z = (h.testBit z && decide (z ≠ y)) := by
  have hr : h % 2 ^ y < 2 ^ y := Nat.mod_lt _ (Nat.two_pow_pos y)
  have h1 : h / 2 ^ y % 2 = 1 := by simpa [Nat.testBit_eq_decide_div_mod_eq] using hb
  have hsplit : h = 2 ^ (y + 1) * (h / 2 ^ (y + 1)) + (2 ^ y * 1 + h % 2 ^ y) := by
    have := Nat.div_add_mod h (2 ^ (y + 1))
    rw [Nat.mod_pow_succ, h1] at this
    omega
  have hlt : 2 ^ y * 1 + h % 2 ^ y < 2 ^ (y + 1) := by rw [Nat.pow_succ]; omega
  have hsub : h - 2 ^ y = 2 ^ (y + 1) * (h / 2 ^ (y + 1)) + h % 2 ^ y := by omega
  have hlow : ∀ k, (2 ^ (y + 1) * (h / 2 ^ (y + 1))).testBit k = (decide (y + 1 ≤ k) && h.testBit k) := fun k => by
    rw [Nat.testBit_two_pow_mul, Nat.testBit_div_two_pow]
    by_cases hk : y + 1 ≤ k
    · rw [Nat.sub_add_cancel hk]
    · simp [hk]
  rw [hsub, Nat.two_pow_add_eq_or_of_lt (Nat.lt_of_lt_of_le hr (Nat.pow_le_pow_right (by decide) (Nat.le_succ y))), Nat.testBit_or, hlow,
    Nat.testBit_mod_two_pow]
  rcases Nat.lt_trichotomy z y with hz | rfl | hz
  · simp [hz, Nat.ne_of_lt hz, show ¬ y + 1 ≤ z by omega]
  · simp
  · simp [Nat.ne_of_gt hz, show y + 1 ≤ z by omega, Nat.lt_asymm hz]

/-- The mask of a die's health with one die taken off. -/
def without (h y : Nat) : Nat := h - if h.testBit y then 2 ^ y else 0

theorem testBit_without (h y z : Nat) : (without h y).testBit z = (h.testBit z && decide (z ≠ y)) := by
  unfold without
  split
  next hb => exact testBit_sub_two_pow hb z
  next hb =>
    by_cases hz : z = y
    · simp [hz, hb]
    · simp [hz]

/-! The deputy -/

theorem flag_deputy (d : Dev) {y : Nat} (hy : y < d.n) :
    d.roleSync.flag MC_ROLE.DEPUTY y = decide ((d.dies.find? fun x => x != d.lead.lead && d.inService x && d.fld MC_ROLE.ROLE x == 1 &&
      (d.lead.failed || (d.fld MC_ROLE.HEALTHY d.lead.lead).testBit x)) = some y) := by
  obtain ⟨dep, h, hdep⟩ := roleSync_def d
  obtain ⟨e, -, -, h3⟩ := foldl_own (step := fun e x => e.roleNamed dep x) (fun _ => ()) (y := y)
    (fun e x l hl => at_roleNamed_ne e dep (by rintro rfl; exact hl rfl)) (fun _ _ => rfl) d.dies d (dies_nodup d) (mem_dies.mpr hy)
  rw [h, Dev.flag, fld_of_at (h3 _ rfl), Dev.roleNamed, fld_setFld_apart _ _ _ _ _ _ (by decide) (by decide), fld_setFld _ _ _ _ (by decide), ← hdep]
  by_cases hd : dep = some y <;> simp [hd]

/-- The first die that fits is found. -/
theorem find_first {n z : Nat} {p : Nat → Bool} (hz : z < n) (hp : p z = true) (hv : ∀ v < z, p v = false) : (List.range n).find? p = some z := by
  rw [List.find?_range_eq_some]
  exact ⟨hp, List.mem_range.mpr hz, fun v hvz => by simp [hv v hvz]⟩

/-! A controller that loads its image -/

/-- A restarting controller: its role, and nothing beside the roles named and its image (R365). -/
theorem mcLoading_effect (d : Dev) (x image : Nat) :
    (d.mcLoading x image).fld MC_ROLE.ROLE x = 0 ∧ (∀ y, y ≠ x → (d.mcLoading x image).fld MC_ROLE.ROLE y = d.fld MC_ROLE.ROLE y) ∧
      (∀ y, (d.mcLoading x image).fld MC_ROLE.HEALTHY y = d.fld MC_ROLE.HEALTHY y) ∧ (∀ l : Loc, l.reg ≠ .MC_ROLE → (d.mcLoading x image).at l = d.at l) ∧
      (d.mcLoading x image).lead = d.lead ∧ (d.mcLoading x image).heldCfg = d.heldCfg ∧ (d.mcLoading x image).n = d.n ∧
      (d.mcLoading x image).mcLoad.get none ⟨x, 0, 0⟩ = some (image, false) := by
  obtain ⟨c, hc⟩ : ∃ c, c = ({ (d.setFld MC_ROLE.ROLE x 0 0) with mcLoad := d.mcLoad.set none ⟨x, 0, 0⟩ (some (image, false)) } : Dev) := ⟨_, rfl⟩
  have hdef : d.mcLoading x image = c.roleSync := by rw [hc]; rfl
  have hfld : ∀ (f : Fld) (u : Nat), c.fld f u = (d.setFld MC_ROLE.ROLE x 0 0).fld f u := fun f u => by rw [hc]; rfl
  rw [hdef]
  refine ⟨?_, fun y hy => ?_, fun y => ?_, fun l hl => ?_, ?_, ?_, ?_, ?_⟩
  · rw [fld_roleSync _ _ _ (by decide) (by decide), hfld, fld_setFld _ _ _ _ (by decide)]
    rfl
  · rw [fld_roleSync _ _ _ (by decide) (by decide), hfld, Dev.fld_setFld_ne _ _ _ _ _ _ _ _ (by simp [hy])]
  · rw [fld_roleSync _ _ _ (by decide) (by decide), hfld, fld_setFld_apart _ _ _ _ _ _ (by decide) (by decide)]
  · rw [at_roleSync_ne _ hl, hc]
    exact Dev.at_setFld_ne _ _ _ _ _ (by rintro rfl; exact hl rfl)
  · exact (roleSync_eq c Dev.lead fun _ _ _ => rfl).trans (by rw [hc]; rfl)
  · exact (roleSync_eq c Dev.heldCfg fun _ _ _ => rfl).trans (by rw [hc]; rfl)
  · exact (n_roleSync c).trans (by rw [hc]; rfl)
  · rw [roleSync_eq c Dev.mcLoad fun _ _ _ => rfl, hc]
    exact Store.get_set_same none ⟨x, 0, 0⟩ (some (image, false)) d.mcLoad

/-! A takeover while no write is in hand or held (R363) -/

theorem applyTo_none {d : Dev} (h : d.cfgLog = []) (x n : Nat) : d.applyTo x n = d := by
  have : d.applyNext x = d := by simp only [Dev.applyNext, h, List.getElem?_nil]
  unfold Dev.applyTo
  generalize List.range (n - d.appliedAt x) = ks
  induction ks with
  | nil => rfl
  | cons k ks ih => rw [List.foldl_cons, this, ih]

theorem pruneCfg_none {d : Dev} (h : d.cfgLog = []) : d.pruneCfg = d := by
  have h0 : ∀ xs : List Nat, xs.foldl (fun m x => min m (d.appliedAt x)) 0 = 0 := by
    intro xs
    induction xs with
    | nil => rfl
    | cons x xs ih => rw [List.foldl_cons, Nat.zero_min, ih]
  simp only [Dev.pruneCfg, h, List.length_nil, h0, if_true]

theorem takeover_quiet {d : Dev} {L : Locks} {x : Nat} (hl : d.cfgLog = []) (hh : d.heldCfg = []) :
    d.takeover L x = ((d.mcLoading d.lead.lead (d.fld MC_ROLE.IMAGE d.lead.lead)).newLead L x).bump MC_HB.TAKEOVERS x := by
  have happ : ∀ (xs : List Nat) (n : Nat), xs.foldl (fun e y => e.applyTo y n) d = d := by
    intro xs n
    induction xs with
    | nil => rfl
    | cons y xs ih => rw [List.foldl_cons, applyTo_none hl, ih]
  have hsame : ({ d with cfgLog := [], heldCfg := [] } : Dev) = d := by
    rw [← hl, ← hh]
  simp only [Dev.takeover, happ, hl, hh, List.drop_nil, List.take_nil, List.map_nil, List.append_nil, hsame, pruneCfg_none hl]

/-- The deputy has the place of the old lead, whose controller restarts (R363). -/
theorem takeover_effect {d : Dev} {L : Locks} {x : Nat} (hl : d.cfgLog = []) (hh : d.heldCfg = []) (hx : x < d.n) (hne : x ≠ d.lead.lead) :
    let e := d.takeover L x
    e.lead = { lead := x } ∧ e.fld MC_ROLE.ROLE x = 3 ∧ e.fld MC_ROLE.ROLE d.lead.lead = 0 ∧
      e.fld MC_HB.TAKEOVERS x = min (d.fld MC_HB.TAKEOVERS x + 1) 255 := by
  obtain ⟨h1, -, -, h4, h5, h6, h7, -⟩ := mcLoading_effect d d.lead.lead (d.fld MC_ROLE.IMAGE d.lead.lead)
  rw [takeover_quiet hl hh]
  obtain ⟨m, hm⟩ : ∃ m, m = d.mcLoading d.lead.lead (d.fld MC_ROLE.IMAGE d.lead.lead) := ⟨_, rfl⟩
  rw [← hm] at h1 h4 h5 h6 h7 ⊢
  obtain ⟨e1, -, -, e4, e5⟩ := newLead_effect (d := m) (L := L) (h6.trans hh) (h7.symm ▸ hx)
  refine ⟨e1, ?_, ?_, ?_⟩
  · rw [fld_bump_apart _ _ _ _ _ (by decide) (by decide), e4, if_pos rfl]
  · rw [fld_bump_apart _ _ _ _ _ (by decide) (by decide), e4, if_neg hne.symm, h5, h1, if_neg (by simp)]
  · rw [fld_bump _ _ _ (by decide), e5 _ _ _ (by decide) (by decide) (by decide), fld_of_at (h4 _ (show RegId.MC_HB ≠ .MC_ROLE by decide))]
    rfl

/-! The deputy claims the lead of a die taken as failed -/

theorem deputy_congr {d e : Dev} (hn : e.n = d.n) (h : ∀ x, e.fld MC_ROLE.DEPUTY x = d.fld MC_ROLE.DEPUTY x) : e.deputy = d.deputy := by
  have hf : ∀ x, e.flag MC_ROLE.DEPUTY x = d.flag MC_ROLE.DEPUTY x := fun x => congrArg (· != 0) (h x)
  simp only [Dev.deputy, Dev.dies, hn, hf]

theorem claimDone_congr {d e : Dev} (h : Sends d e) (x : Nat) (acks : List Nat) : e.claimDone x acks = d.claimDone x acks :=
  h.eq (Dev.claimDone · x acks) fun _ _ _ _ _ _ => rfl

/-- The state of a claim. -/
def Dev.claimed (d : Dev) (c : Nat) (acks : List Nat) : Dev := { d with lead := { d.lead with claim := some (c, acks) } }

/-- A claim goes out; with every healthy die's acknowledge the place is taken at once (R363). -/
theorem claimLead_sends (d : Dev) (L : Locks) (x : Nat) :
    ∃ e, Sends (d.claimed x [x]) e ∧ d.claimLead L x = if (d.claimed x [x]).claimDone x [x] then e.takeover L x else e := by
  obtain ⟨e, he⟩ : ∃ e, e = ((d.claimed x [x]).dies.filter fun y => y != x && (d.claimed x [x]).inService y).foldl
      (fun d y => d.mortarSend x y claimStream 1 [0x10000000#32]) (d.claimed x [x]) := ⟨_, rfl⟩
  have hs : Sends (d.claimed x [x]) e := he ▸ foldl_sends (fun d y => sends_mortarSend d x y claimStream 1 _) _ _
  refine ⟨e, hs, ?_⟩
  rw [← claimDone_congr hs, he]
  rfl

/-- The lead's die is taken as failed. -/
def Dev.leadFailed (d : Dev) : Dev := { d with lead := { d.lead with failed := true } }

/-- The lead is taken as failed by the deputy. -/
theorem heartbeatMiss_lead {d : Dev} {L : Locks} {x y : Nat} (hxy : x ≠ y) (hy : y = d.lead.lead) (hc : d.cutOff y = false) (hn : d.lead.claim = none)
    (hd : d.deputy = some x) (ha : d.asleep = false) :
    d.heartbeatMiss L x y = (d.setFld MC_ROLE.HEALTHY x 0 (without (d.fld MC_ROLE.HEALTHY x) y)).leadFailed.claimLead L x := by
  have hset : d.setHealth x (without (d.fld MC_ROLE.HEALTHY x) y) = d.setFld MC_ROLE.HEALTHY x 0 (without (d.fld MC_ROLE.HEALTHY x) y) := by
    unfold Dev.setHealth
    dsimp only
    rw [if_neg]
    exact fun h => hxy (h.trans hy.symm)
  have hlead : (d.setFld MC_ROLE.HEALTHY x 0 (without (d.fld MC_ROLE.HEALTHY x) y)).lead = d.lead := rfl
  have hdep : (d.setFld MC_ROLE.HEALTHY x 0 (without (d.fld MC_ROLE.HEALTHY x) y)).leadFailed.deputy = some x := by
    refine (deputy_congr (d := d) (e := (d.setFld MC_ROLE.HEALTHY x 0 (without (d.fld MC_ROLE.HEALTHY x) y)).leadFailed) rfl fun z => ?_).trans hd
    exact fld_setFld_apart d (f := MC_ROLE.HEALTHY) (g := MC_ROLE.DEPUTY) _ _ _ _ _ (by decide) (by decide)
  have hdef : d.heartbeatMiss L x y = (let e := d.setHealth x (without (d.fld MC_ROLE.HEALTHY x) y)
      if y = e.lead.lead && e.lead.claim.isNone then
        if e.leadFailed.deputy = some x then e.leadFailed.claimLead L x else e.leadFailed
      else e) := by
    rw [Dev.heartbeatMiss, if_neg (by rw [ha]; decide)]
    dsimp only
    rw [hc]
    rfl
  rw [hdef, hset]
  dsimp only
  rw [if_pos (by rw [hlead, ← hy, hn]; simp), if_pos hdep]

/-- What a claim, or the takeover it leads to, leaves (R363). -/
theorem heartbeatMiss_claims {d : Dev} {L : Locks} {x y : Nat} (hx : x < d.n) (hxy : x ≠ y) (hy : y = d.lead.lead) (hc : d.cutOff y = false)
    (hn : d.lead.claim = none) (hd : d.deputy = some x) (ha : d.asleep = false) (hlog : d.cfgLog = []) (hheld : d.heldCfg = []) :
    ((∃ z, z < d.n ∧ z ≠ x ∧ z ≠ y ∧ d.inService z = true ∧ (d.fld MC_ROLE.HEALTHY x).testBit z = true) →
        (d.heartbeatMiss L x y).lead = { d.lead with failed := true, claim := some (x, [x]) } ∧
          ((d.heartbeatMiss L x y).fld MC_ROLE.HEALTHY x).testBit y = false) ∧
      ((∀ z : Nat, z < d.n → z ≠ x → z ≠ y → d.inService z = false ∨ (d.fld MC_ROLE.HEALTHY x).testBit z = false) →
        (d.heartbeatMiss L x y).lead = { lead := x } ∧ (d.heartbeatMiss L x y).fld MC_ROLE.ROLE x = 3 ∧
          (d.heartbeatMiss L x y).fld MC_ROLE.ROLE y = 0 ∧
          (d.heartbeatMiss L x y).fld MC_HB.TAKEOVERS x = min (d.fld MC_HB.TAKEOVERS x + 1) 255) := by
  rw [heartbeatMiss_lead hxy hy hc hn hd ha]
  obtain ⟨c, hcd⟩ : ∃ c, c = (d.setFld MC_ROLE.HEALTHY x 0 (without (d.fld MC_ROLE.HEALTHY x) y)).leadFailed.claimed
    x [x] := ⟨_, rfl⟩
  have hheal : c.fld MC_ROLE.HEALTHY x = without (d.fld MC_ROLE.HEALTHY x) y := by
    rw [hcd]
    exact (fld_setFld d _ _ _ (by decide)).trans (Nat.mod_eq_of_lt (Nat.lt_of_le_of_lt (Nat.sub_le _ _) (healthy_lt d x)))
  have hcf : ∀ (f : Fld) (u : Nat), MC_ROLE.HEALTHY.apart f = true → c.fld f u = d.fld f u := fun f u h => by
    rw [hcd]
    exact fld_setFld_apart d _ _ _ _ _ h (by decide)
  have hrest : c.n = d.n ∧ c.lead = { d.lead with failed := true, claim := some (x, [x]) } ∧ c.cfgLog = [] ∧ c.heldCfg = [] ∧ ∀ z, c.inService z = d.inService z := by
    rw [hcd]
    exact ⟨rfl, rfl, hlog, hheld, fun _ => rfl⟩
  obtain ⟨hcn, hclead, hclog, hcheld, hserv⟩ := hrest
  have hdone : c.claimDone x [x] = true ↔ ∀ z : Nat, z < d.n → z ≠ x → z ≠ y → d.inService z = false ∨ (d.fld MC_ROLE.HEALTHY x).testBit z = false := by
    simp only [Dev.claimDone, List.all_eq_true, mem_dies, hcn, hserv, hheal, testBit_without, List.contains_cons, List.contains_nil, Bool.or_false,
      Bool.or_eq_true, Bool.not_eq_true', beq_iff_eq, Bool.and_eq_false_iff, decide_eq_false_iff_not, not_not]
    refine forall_congr' fun z => imp_congr_right fun _ => ?_
    tauto
  obtain ⟨e, hs, he⟩ := claimLead_sends (d.setFld MC_ROLE.HEALTHY x 0 (without (d.fld MC_ROLE.HEALTHY x) y)).leadFailed
    L x
  rw [he]
  rw [← hcd] at hs ⊢
  have hel : e.lead = c.lead := hs.eq Dev.lead fun _ _ _ _ _ _ => rfl
  constructor
  · rintro ⟨z, hz, hzx, hzy, hzs, hzh⟩
    rw [if_neg fun h => by simpa [hzs, hzh] using hdone.mp h z hz hzx hzy]
    refine ⟨hel.trans hclead, ?_⟩
    rw [hs.fld, hheal, testBit_without]
    simp
  · intro h
    rw [if_pos (hdone.mpr h)]
    have hey : e.lead.lead = y := by rw [hel, hclead, hy]
    obtain ⟨h1, h2, h3, h4⟩ := takeover_effect (d := e) (L := L) (x := x) ((hs.eq Dev.cfgLog fun _ _ _ _ _ _ => rfl).trans hclog)
      ((hs.eq Dev.heldCfg fun _ _ _ _ _ _ => rfl).trans hcheld) ((hs.eq Dev.n fun _ _ _ _ _ _ => rfl).trans hcn ▸ hx) (by rw [hey]; exact hxy)
    rw [hey] at h3
    rw [hs.fld, hcf _ _ (by decide)] at h4
    exact ⟨h1, h2, h3, h4⟩

/-- The deputy that the lead names (R365). -/
theorem deputy_setHealth {d : Dev} {x m z : Nat} (hl : x = d.lead.lead) (hf : d.lead.failed = false) (hm : m < 256) (hz : z < d.n) (hzx : z ≠ x)
    (hs : d.inService z = true) (hr : d.fld MC_ROLE.ROLE z = 1) (hb : m.testBit z = true)
    (hv : ∀ v : Nat, v < z → v ≠ x → d.inService v = false ∨ d.fld MC_ROLE.ROLE v ≠ 1 ∨ m.testBit v = false) : (d.setHealth x m).deputy = some z := by
  obtain ⟨c, hc⟩ : ∃ c, c = d.setFld MC_ROLE.HEALTHY x 0 m := ⟨_, rfl⟩
  have hdef : d.setHealth x m = c.roleSync := by
    rw [hc, Dev.setHealth, if_pos]
    exact hl
  have hrole : ∀ v, c.fld MC_ROLE.ROLE v = d.fld MC_ROLE.ROLE v := fun v => by rw [hc, fld_setFld_apart _ _ _ _ _ _ (by decide) (by decide)]
  have hheal : c.fld MC_ROLE.HEALTHY x = m := by
    rw [hc]
    exact (fld_setFld _ _ _ _ (by decide)).trans (Nat.mod_eq_of_lt hm)
  have hrest : c.lead = d.lead ∧ c.n = d.n ∧ ∀ v, c.inService v = d.inService v := by
    rw [hc]
    exact ⟨rfl, rfl, fun _ => rfl⟩
  obtain ⟨hlead, hn, hserv⟩ := hrest
  have hfind : (c.dies.find? fun v => v != c.lead.lead && c.inService v && c.fld MC_ROLE.ROLE v == 1 &&
      (c.lead.failed || (c.fld MC_ROLE.HEALTHY c.lead.lead).testBit v)) = some z := by
    rw [hlead, ← hl, hf, hheal]
    refine find_first (hn.symm ▸ hz) ?_ fun v hvz => ?_
    · simp [hzx, hserv, hs, hrole, hr, hb]
    · by_cases hvx : v = x
      · simp [hvx]
      · rw [hserv, hrole]
        rcases hv v hvz hvx with h | h | h <;> simp [h]
  rw [hdef, Dev.deputy, Dev.dies, n_roleSync]
  refine find_first (hn.symm ▸ hz) ?_ fun v hvz => ?_
  · rw [flag_deputy c (hn.symm ▸ hz), hfind]
    simp
  · rw [flag_deputy c (hn.symm ▸ hvz.trans hz), hfind]
    simp [Nat.ne_of_gt hvz]

/-- A claim received, acknowledged and not yet complete, or complete (R363). -/
theorem claimReceived_counts {d : Dev} {L : Locks} {x y : Nat} {acks : List Nat} (hc : d.lead.claim = some (y, acks)) :
    ∃ e, Sends (d.claimed y (acks.filter (fun z => z != x) ++ [x])) e ∧ d.claimReceived L x y =
      if (d.claimed y (acks.filter (fun z => z != x) ++ [x])).claimDone y (acks.filter (fun z => z != x) ++ [x]) then e.takeover L y else e := by
  refine ⟨_, sends_mortarSend (d.claimed y (acks.filter (fun z => z != x) ++ [x])) x y claimStream 2 [0x10000000#32], ?_⟩
  rw [← claimDone_congr (sends_mortarSend (d.claimed y (acks.filter (fun z => z != x) ++ [x])) x y claimStream 2 [0x10000000#32])]
  simp only [Dev.claimReceived, hc, Nat.lt_irrefl, decide_false, bne_self_eq_false, Bool.false_and, Bool.or_self, Bool.false_eq_true, if_false, if_true]
  rfl

theorem claimDone_claimed (d : Dev) (c x y : Nat) (acks : List Nat) :
    (d.claimed c (acks.filter (fun z => z != x) ++ [x])).claimDone y (acks.filter (fun z => z != x) ++ [x]) = true ↔
      ∀ z : Nat, z < d.n → z ≠ x → z ∉ acks → d.inService z = false ∨ (d.fld MC_ROLE.HEALTHY y).testBit z = false := by
  have hdef : (d.claimed c (acks.filter (fun z => z != x) ++ [x])).claimDone y (acks.filter (fun z => z != x) ++ [x]) =
      d.claimDone y (acks.filter (fun z => z != x) ++ [x]) := rfl
  rw [hdef]
  simp only [Dev.claimDone, List.all_eq_true, mem_dies, Bool.or_eq_true, Bool.not_eq_true', List.contains_eq_mem, decide_eq_true_eq, List.mem_append,
    List.mem_filter, bne_iff_ne, List.mem_singleton]
  refine forall_congr' fun z => imp_congr_right fun _ => ?_
  tauto

/-! Restarts and rejoining -/

theorem swCmd_mcRestart {d : Dev} {L : Locks} {src : Src} {x image : Nat} (hx : x < d.n) (hi : image < 2) (hg : d.lets src ⟨.DIE_SVC, x, 0⟩ = true) :
    ∃ b v, (d.commanded src ⟨.DIE_SVC, x, 0⟩ b v).fld DIE_SVC.IMAGE x = image ∧
      d.swCmd L src ⟨.DIE_SVC, x, 0⟩ (fun c => putBits (putBits c 3 3 1) 9 8 image) = ((d.commanded src ⟨.DIE_SVC, x, 0⟩ b v).mcRestart x image).answered src := by
  have hm : (RegId.DIE_SVC.maskWhere fun f => f.ty == .rw || f.ty == .lk) = 0x300#32 := by decide
  obtain ⟨v, hv⟩ : ∃ v, v = putBits (putBits (d.at ⟨.DIE_SVC, x, 0⟩ &&& RegId.DIE_SVC.maskWhere fun f => f.ty == .rw || f.ty == .lk) 3 3 1) 9 8 image :=
    ⟨_, rfl⟩
  have hlow : ∀ j < 4, v.getLsbD j = decide (j = 3) := by
    intro j hj
    have hout : (maskOf 9 8).getLsbD j = false := by
      rw [maskOf_getLsbD]
      simp only [show ¬ 8 ≤ j by omega, decide_false, Bool.and_false, Bool.false_and]
    rw [hv, putBits, BitVec.getLsbD_or, BitVec.getLsbD_and, BitVec.getLsbD_and, BitVec.getLsbD_not, hout, getLsbD_putBits_set _ (by decide) (by omega), hm,
      BitVec.getLsbD_and]
    interval_cases j <;> simp
  have hbits : bitsSet v [0, 1, 2, 3] = [3] := by
    simp only [bitsSet, List.filter_cons, List.filter_nil, hlow 0 (by decide), hlow 1 (by decide), hlow 2 (by decide), hlow 3 (by decide)]
    rfl
  have himg : bitsOf v 9 8 = image := by
    rw [hv, bitsOf_putBits_same _ _ (by decide) (by decide)]
    exact Nat.mod_eq_of_lt (by omega)
  refine ⟨lockOf L ⟨.DIE_SVC, x, 0⟩, v, ?_, ?_⟩
  · have hmask : (d.written src ⟨.DIE_SVC, x, 0⟩).setMask src ⟨.DIE_SVC, x, 0⟩ (lockOf L ⟨.DIE_SVC, x, 0⟩) = 0x300#32 := by
      have hw : ∀ b, RegId.DIE_SVC.writable b = 0x300#32 := by decide
      have hp : (d.written src ⟨.DIE_SVC, x, 0⟩).presentMask .DIE_SVC = 0xFFFFFFFF#32 := rfl
      rw [Dev.setMask, if_neg (by simp), if_neg (by simp [RegId.isMail, RegId.isFlash]), if_neg (by simp [RegId.isMail]), if_neg (by simp [RegId.isFlash]), hw, hp]
      rfl
    have hst : (d.commanded src ⟨.DIE_SVC, x, 0⟩ (lockOf L ⟨.DIE_SVC, x, 0⟩) v).at ⟨.DIE_SVC, x, 0⟩ = merged (d.at ⟨.DIE_SVC, x, 0⟩) v 0x300#32 := by
      rw [Dev.commanded, at_stored_same, hmask]
      rfl
    rw [Dev.fld, Dev.reg, hst, bitsOf_merged_in _ _ (by decide), himg]
  · rw [swCmd_open (fits_die rfl (by decide) rfl hx) (show RegId.DIE_SVC.open = true by decide) hg]
    dsimp only
    rw [← hv]
    simp only [Dev.writeHook, Dev.dieSvc, hbits, himg, Bool.false_eq_true, if_false]

/-- A controller that has its image rejoins (R365). -/
theorem mcRejoin_effect {d : Dev} {x image im : Nat} {second : Bool} (hi : im < 2) (hm : d.mcLoad.get none ⟨x, 0, 0⟩ = some (image, second))
    (hf : d.hasFlash 0 = true) (hl : x ≠ d.lead.lead) :
    let e := d.mcRejoin x (some im)
    e.mcLoad.get none ⟨x, 0, 0⟩ = none ∧ e.fld MC_ROLE.IMAGE x = im ∧ e.fld MC_ROLE.SYNC_LEVEL x = d.flashWord 0 (imageBase im + 4) % 65536 ∧
      e.fld MC_ROLE.ROLE x = if e.fld MC_ROLE.SYNC_LEVEL x = d.fld MC_ROLE.SYNC_LEVEL d.lead.lead then 1 else 2 := by
  obtain ⟨sync, hsync⟩ : ∃ n, n = d.flashWord 0 (imageBase im + 4) % 65536 := ⟨_, rfl⟩
  have hlt : sync < 65536 := hsync ▸ Nat.mod_lt _ (by decide)
  obtain ⟨a, ha⟩ : ∃ a, a = ({ d with mcLoad := d.mcLoad.set none ⟨x, 0, 0⟩ none } : Dev) := ⟨_, rfl⟩
  obtain ⟨b, hb⟩ : ∃ b, b = (a.setFld MC_ROLE.IMAGE x 0 (im % 2)).setFld MC_ROLE.SYNC_LEVEL x 0 sync := ⟨_, rfl⟩
  have hsl : b.fld MC_ROLE.SYNC_LEVEL d.lead.lead = d.fld MC_ROLE.SYNC_LEVEL d.lead.lead := by
    rw [hb, Dev.fld_setFld_ne _ _ _ _ _ _ _ _ (by simp [hl.symm]), fld_setFld_apart _ _ _ _ _ _ (by decide) (by decide), ha]
    rfl
  have hdef : d.mcRejoin x (some im) = (b.setFld MC_ROLE.ROLE x 0 (if sync = d.fld MC_ROLE.SYNC_LEVEL d.lead.lead then 1 else 2)).roleSync := by
    have h : d.mcRejoin x (some im) = (b.setFld MC_ROLE.ROLE x 0 (if sync = b.fld MC_ROLE.SYNC_LEVEL d.lead.lead then 1 else 2)).roleSync := by
      rw [Dev.mcRejoin, hm]
      dsimp only
      rw [if_pos hf, ← hsync, hb, ha]
      rfl
    rw [h, hsl]
  have hlvl : (b.setFld MC_ROLE.ROLE x 0 (if sync = d.fld MC_ROLE.SYNC_LEVEL d.lead.lead then 1 else 2)).roleSync.fld MC_ROLE.SYNC_LEVEL x = sync := by
    rw [fld_roleSync _ _ _ (by decide) (by decide), fld_setFld_apart _ _ _ _ _ _ (by decide) (by decide), hb, fld_setFld _ _ _ _ (by decide)]
    exact Nat.mod_eq_of_lt hlt
  rw [hdef]
  dsimp only
  rw [hlvl]
  refine ⟨?_, ?_, hsync, ?_⟩
  · rw [roleSync_eq _ Dev.mcLoad fun _ _ _ => rfl, show (b.setFld MC_ROLE.ROLE x 0 _).mcLoad = b.mcLoad from rfl, hb,
      show ((a.setFld MC_ROLE.IMAGE x 0 (im % 2)).setFld MC_ROLE.SYNC_LEVEL x 0 sync).mcLoad = a.mcLoad from rfl, ha]
    exact Store.get_set_same none ⟨x, 0, 0⟩ none d.mcLoad
  · rw [fld_roleSync _ _ _ (by decide) (by decide), fld_setFld_apart _ _ _ _ _ _ (by decide) (by decide), hb,
      fld_setFld_apart _ _ _ _ _ _ (by decide) (by decide), fld_setFld _ _ _ _ (by decide)]
    change im % 2 % 2 = im
    omega
  · rw [fld_roleSync _ _ _ (by decide) (by decide), fld_setFld _ _ _ _ (by decide)]
    split <;> rfl

/-- Settles O50. -/
theorem controllers : Obligations.Controllers := by
  unfold Obligations.Controllers
  refine ⟨fun s x y => ⟨State.does_perform (by dsimp only [exec]; rfl) rfl, State.does_perform (by dsimp only [exec]; rfl) rfl,
      State.does_perform (by dsimp only [exec]; rfl) rfl, fun l => State.does_perform (by dsimp only [exec]; rfl) rfl,
      fun _ => State.does_perform (by dsimp only [exec]; rfl) rfl, fun ha => State.does_perform (by dsimp only [exec]; rfl) ?asleep⟩,
    fun s x y hx hy hxy hlog hheld => ⟨fun hs => State.doesSome_perform (by dsimp only [exec]; rfl) ?sends,
      fun hc hf => State.does_perform (by dsimp only [exec]; rfl) ?healthy,
      fun hc hl hr => State.doesSome_perform (by dsimp only [exec]; rfl) ?oldLead, fun hl hc hh ha => State.does_perform (by dsimp only [exec]; rfl) ?missed,
      fun m hm => ⟨healthy_setHealth _ _ hm, fun l hl => at_setHealth_ne _ _ _ hl⟩,
      fun m z hl hf hm hz hzx hs hr hb hv => deputy_setHealth hl hf hm hz hzx hs hr hb hv,
      fun hl hc hn hd ha => ⟨fun hz => State.doesSome_perform (by dsimp only [exec]; rfl) ((heartbeatMiss_claims hx hxy hl hc hn hd ha hlog hheld).1 hz),
        fun hz => State.doesSome_perform (by dsimp only [exec]; rfl) ((heartbeatMiss_claims hx hxy hl hc hn hd ha hlog hheld).2 hz)⟩,
      fun hc => State.does_perform (by dsimp only [exec]; rfl) (by rw [Dev.claimReceived, hc]),
      fun c acks hc => ⟨fun hlt => State.does_perform (by dsimp only [exec]; rfl) ?lower, fun hcy hz => State.doesSome_perform (by dsimp only [exec]; rfl) ?waits,
        fun hcy hyl hz => State.doesSome_perform (by dsimp only [exec]; rfl) ?done⟩⟩,
    fun s src x hx => ⟨fun image hi hg => ⟨fun hl => State.doesSome_perform (by dsimp only [exec]; rfl) ?leads,
        fun hl => State.doesSome_perform (by dsimp only [exec]; rfl) ?restarts⟩,
      fun image second hi hm => State.doesSome_perform (by dsimp only [exec]; rfl) ?fails,
      fun image im second hi hm hf hl => State.doesSome_perform (by dsimp only [exec]; rfl) ?loaded,
      fun l hm => State.does_perform (by dsimp only [exec]; rfl) (by rw [Dev.mcRejoin, hm])⟩⟩
  case asleep => rw [Dev.heartbeatMiss, if_pos ha]
  case sends =>
    have hm : y ∈ s.dev.dies.filter fun y => y != x && s.dev.inService y :=
      List.mem_filter.mpr ⟨mem_dies.mpr hy, by simp [hxy.symm, hs]⟩
    exact ⟨heartbeat_unacked _ _ (.inl hm), fun k => (foldl_sends (fun d z => sends_mortarSend d x z hbStream 0 _) _ _).at k⟩
  case healthy =>
    have hlead := setHealth_eq s.dev x (s.dev.fld MC_ROLE.HEALTHY x ||| 2 ^ y) Dev.lead fun _ _ _ => rfl
    rw [Dev.heartbeatIn]
    dsimp only
    rw [hlead, hc]
    split
    next => rfl
    next h => rw [if_neg (by decide), if_neg (by rw [hf (by simpa using h)]; decide)]
  case oldLead =>
    have hlead := setHealth_eq s.dev x (s.dev.fld MC_ROLE.HEALTHY x ||| 2 ^ y) Dev.lead fun _ _ _ => rfl
    have hrole := fld_setHealth s.dev x (s.dev.fld MC_ROLE.HEALTHY x ||| 2 ^ y) (f := MC_ROLE.ROLE) y 0 (by decide) (by decide) (by decide)
    have hheal := healthy_setHealth s.dev x (Nat.or_lt_two_pow (n := 8) (healthy_lt s.dev x) (Nat.pow_lt_pow_right (by decide) (hy.trans_le (n_le_eight s.dev))))
    rw [Dev.heartbeatIn]
    dsimp only
    rw [hlead, if_neg (by simp [hl]), if_pos (Option.isSome_iff_ne_none.mpr hc), hrole, hr, if_pos (beq_self_eq_true 3)]
    obtain ⟨h1, -, h3, -, h5, -⟩ := mcLoading_effect (s.dev.setHealth x (s.dev.fld MC_ROLE.HEALTHY x ||| 2 ^ y)) y
      ((s.dev.setHealth x (s.dev.fld MC_ROLE.HEALTHY x ||| 2 ^ y)).fld MC_ROLE.IMAGE y)
    refine ⟨?_, h1, h5.trans hlead⟩
    rw [h3, hheal, Nat.testBit_or, Nat.testBit_two_pow_self, Bool.or_true]
  case missed =>
    rw [Dev.heartbeatMiss, if_neg (by rw [ha]; decide)]
    dsimp only
    simp only [hc, hh, Bool.false_eq_true, if_false, if_true]
    rw [setHealth_eq _ _ _ Dev.lead (fun _ _ _ => rfl), if_neg (by simp [hl])]
  case lower =>
    rw [Dev.claimReceived, hc]
    dsimp only
    rw [if_pos (by simp [hlt])]
  case waits =>
    subst hcy
    obtain ⟨e, hs, he⟩ := claimReceived_counts (L := s.locks) (x := x) hc
    obtain ⟨z, hzn, hzx, hza, hzs, hzh⟩ := hz
    dsimp only
    rw [he, if_neg fun h => by simpa [hzs, hzh] using (claimDone_claimed ..).mp h z hzn hzx hza]
    exact hs.eq Dev.lead fun _ _ _ _ _ _ => rfl
  case done =>
    subst hcy
    obtain ⟨e, hs, he⟩ := claimReceived_counts (L := s.locks) (x := x) hc
    dsimp only
    rw [he, if_pos ((claimDone_claimed ..).mpr hz)]
    have hel : e.lead.lead = s.dev.lead.lead := hs.eq (fun d => d.lead.lead) fun _ _ _ _ _ _ => rfl
    obtain ⟨h1, h2, -, -⟩ := takeover_effect (d := e) (L := s.locks) (x := c) ((hs.eq Dev.cfgLog fun _ _ _ _ _ _ => rfl).trans hlog)
      ((hs.eq Dev.heldCfg fun _ _ _ _ _ _ => rfl).trans hheld) ((hs.eq Dev.n fun _ _ _ _ _ _ => rfl) ▸ hy) (by rw [hel]; exact hyl)
    exact ⟨h1, h2⟩
  case leads =>
    obtain ⟨b, v, -, he⟩ := swCmd_mcRestart (L := s.locks) hx hi hg
    have hlead := (commanded_lead s.dev src ⟨.DIE_SVC, x, 0⟩ b v).1
    rw [he, Dev.mcRestart, if_pos (by rw [hlead]; exact hl)]
    refine ⟨(fld_answered ..).trans (fld_dieRefuse ..), ?_⟩
    rw [fld_answered, fld_of_at (at_dieRefuse_ne _ _ _ (show RegId.MC_ROLE ≠ .DIE_SVC_STAT by decide)), fld_commanded _ _ _ _ _ _ _ _ (by decide) (by decide)]
  case restarts =>
    obtain ⟨b, v, hv, he⟩ := swCmd_mcRestart (L := s.locks) hx hi hg
    have hlead := (commanded_lead s.dev src ⟨.DIE_SVC, x, 0⟩ b v).1
    have himg : (if image = 1 then 1 else 0) = image := by split <;> omega
    rw [he, Dev.mcRestart, if_neg (by rw [hlead]; exact hl), himg]
    obtain ⟨h1, -, -, h4, -, -, -, h8⟩ := mcLoading_effect (s.dev.commanded src ⟨.DIE_SVC, x, 0⟩ b v) x image
    refine ⟨(fld_answered ..).trans h1, ?_, ?_⟩
    · rw [answered_of_out Dev.mcLoad (fun _ _ => rfl), h8]
    · rw [fld_answered, fld_of_at (h4 _ (show RegId.DIE_SVC ≠ .MC_ROLE by decide)), hv]
  case fails =>
    rw [Dev.mcRejoin, hm]
    dsimp only
    cases second
    · exact ⟨Store.get_set_same none ⟨x, 0, 0⟩ (some (1 - image, true)) s.dev.mcLoad, at_raise ..⟩
    · exact ⟨Store.get_set_same none ⟨x, 0, 0⟩ none s.dev.mcLoad, rfl⟩
  case loaded =>
    exact mcRejoin_effect hi hm hf hl

end Sys2Proof.Machine

/-! ## The flash window (R430) -/

namespace Sys2Proof.Machine

/-- A register outside package configuration, with no pair and no mailbox, that a write leaves as it is. -/
def RegId.pulse (r : RegId) : Bool :=
  r.pairHi.isNone && r.pairLo.isNone && !r.isMail && !r.isLk && r.outside && (r.writable true == 0) && (r.writable false == 0) &&
    (r.maskWhere fun f => f.ty == .rw || f.ty == .lk) == 0

/-- The command that writes such a register. -/
theorem swCmd_pulse {d : Dev} {L : Locks} {src : Src} {l : Loc} {f : Word → Word} {at_ : Nat} (hf : l.fits d.n = true) (hr : l.reg.pulse = true)
    (hg : d.lets src l = true) :
    d.swCmd L src l f at_ =
      let r := (d.written src l).writeHook L src l (lockOf L l) (d.at l) (f 0)
      (if r.1 then r.2.accErr src true 10 l.offset 4 else r.2).answered src := by
  simp only [RegId.pulse, Bool.and_eq_true, Bool.not_eq_true', beq_iff_eq, Option.isNone_iff_eq_none] at hr
  obtain ⟨⟨⟨⟨⟨⟨⟨hhi, hlo⟩, hm⟩, hk⟩, ho⟩, hw1⟩, hw2⟩, hmask⟩ := hr
  have hc : l.isCfg = false := isCfg_outside ho
  have hs : l.seenBy src = l := by simp [Loc.seenBy, hm, hc]
  have hset : ∀ e : Dev, e.setMask src l (lockOf L l) = 0 := by
    intro e
    have hw : ∀ b, l.reg.writable b = 0 := by intro b; cases b <;> assumption
    unfold Dev.setMask
    repeat' split
    all_goals simp [hw]
  have hv : d.at l &&& (0 : Word) = 0 := by simp
  have hl : locate (d.served src l.offset).n l.offset = some l := locate_offset hf
  have hcourse : (d.served src l.offset).writeCourse L src l.offset (f 0) at_ =
      (let r := (d.written src l).writeHook L src l (lockOf L l) (d.at l) (f 0)
       (bif r.1 then some 10 else none, r.2)) := by
    simp only [Dev.writeCourse, hl, hs, hhi, hlo, hc, Option.isSome_none, Bool.false_eq_true, if_false, Option.map_none, hset, if_true, Dev.lockHit, hk,
      Bool.false_and, cond_false, Dev.written, served_at]
  simp only [Dev.swCmd, hs, hmask, hv, busWrite_word hg (offset_word l) (locate_offset hf) hc, BitVec.ofNat_toNat, BitVec.setWidth_eq, hcourse]
  refine congrArg (Dev.answered · src) ?_
  rcases (d.written src l).writeHook L src l (lockOf L l) (d.at l) (f 0) with ⟨_ | _, e⟩ <;> rfl

/-- A command of the flash window, written to MC_FLASH_CMD.OP by a path of the package's own, is acted on and answered. -/
theorem swCmd_flashCmd {d : Dev} {L : Locks} {src : Src} {x op : Nat} (hx : x < d.n) (hop : 0 < op) (hop4 : op < 4) (hp : src.path < 16)
    (hg : d.lets src ⟨.MC_FLASH_CMD, x, 0⟩ = true) :
    d.swCmd L src ⟨.MC_FLASH_CMD, x, 0⟩ (fun c => putBits c 1 0 op) = ((d.written src ⟨.MC_FLASH_CMD, x, 0⟩).flashCmd x op).answered src := by
  have hbits : bitsOf (putBits (0 : Word) 1 0 op) 1 0 = op := by
    rw [bitsOf_putBits_same _ _ (by decide) (by decide)]
    exact Nat.mod_eq_of_lt hop4
  rw [swCmd_pulse (fits_die rfl (by decide) rfl hx) (show RegId.MC_FLASH_CMD.pulse = true by decide) hg]
  simp only [Dev.writeHook, hbits, show ¬ 16 ≤ src.path by omega, show ¬ op = 0 by omega, decide_false, Bool.or_self, Bool.false_eq_true, if_false]

/-! Bytes and words -/

theorem natLE_lt (bs : List Byte) : natLE bs < 256 ^ bs.length := by
  induction bs with
  | nil => exact Nat.one_pos
  | cons b bs ih =>
    have := b.isLt
    rw [natLE, List.length_cons, Nat.pow_succ]
    omega

theorem bytesLE_natLE (bs : List Byte) : bytesLE (natLE bs) bs.length = bs := by
  induction bs with
  | nil => rfl
  | cons b bs ih =>
    have hb := b.isLt
    rw [natLE, List.length_cons, bytesLE, show (b.toNat + 256 * natLE bs) / 256 = natLE bs by omega, ih]
    congr 1
    apply BitVec.eq_of_toNat_eq
    rw [BitVec.toNat_ofNat]
    omega

/-- The words of a list of whole words, byte by byte. -/
theorem bytesOfWords_wordsLE : ∀ (n : Nat) (bs : List Byte), bs.length = 4 * n → bytesOfWords (wordsLE bs) = bs ∧ (wordsLE bs).length = n
  | 0, bs, h => by
    rw [List.length_eq_zero_iff.mp (by omega : bs.length = 0)]
    exact ⟨rfl, rfl⟩
  | n + 1, a :: b :: c :: e :: r, h => by
    obtain ⟨h1, h2⟩ := bytesOfWords_wordsLE n r (by simp only [List.length_cons] at h; omega)
    have hw : bytesLE (BitVec.ofNat 32 (natLE [a, b, c, e])).toNat 4 = [a, b, c, e] := by
      rw [BitVec.toNat_ofNat, Nat.mod_eq_of_lt (Nat.lt_of_lt_of_eq (natLE_lt [a, b, c, e]) (by simp only [List.length_cons, List.length_nil]; norm_num))]
      exact bytesLE_natLE [a, b, c, e]
    refine ⟨?_, congrArg (· + 1) h2⟩
    rw [wordsLE, bytesOfWords, List.flatMap_cons, hw]
    exact congrArg ([a, b, c, e] ++ ·) h1
  | n + 1, [], h => absurd h (by simp only [List.length_nil]; omega)
  | n + 1, [_], h => absurd h (by simp only [List.length_cons, List.length_nil]; omega)
  | n + 1, [_, _], h => absurd h (by simp only [List.length_cons, List.length_nil]; omega)
  | n + 1, [_, _, _], h => absurd h (by simp only [List.length_cons, List.length_nil]; omega)

/-! What lies in a flash -/

theorem fillBytes_skip {n a : Nat} {S : Store Byte} (h : ∀ e ∈ S, e.1.b ≠ a) : fillBytes (n + 1) a S = 0xFF#8 :: fillBytes n (a + 1) S := by
  cases S with
  | nil => rfl
  | cons e S => rw [fillBytes, if_neg (h e List.mem_cons_self)]

theorem fillBytes_nil (n a : Nat) : fillBytes n a [] = List.replicate n 0xFF#8 := by
  induction n generalizing a with
  | zero => rfl
  | succ n ih => rw [fillBytes, ih, List.replicate_succ]

/-- The listed bytes of a range. -/
def listed (x a : Nat) (bs : List Byte) (k : Nat) : Store Byte :=
  (((bs.zipIdx k).map fun p => (p.2, p.1)).filter fun e => e.2 != 0xFF#8).map fun e => (⟨x, a + e.1, 0⟩, e.2)

theorem mem_listed {x a : Nat} {bs : List Byte} {k : Nat} {e : Key × Byte} (h : e ∈ listed x a bs k) : e.1.a = x ∧ a + k ≤ e.1.b ∧ e.1.b < a + k + bs.length := by
  simp only [listed, List.mem_map, List.mem_filter] at h
  obtain ⟨p, ⟨⟨q, hq, rfl⟩, -⟩, rfl⟩ := h
  have := List.mem_zipIdx hq
  refine ⟨rfl, ?_, ?_⟩
  · dsimp only; omega
  · dsimp only; omega

/-- The listed bytes read back, erased ones between them. -/
theorem fillBytes_listed (x a : Nat) (bs : List Byte) (k : Nat) : fillBytes bs.length (a + k) (listed x a bs k) = bs := by
  induction bs generalizing k with
  | nil => rfl
  | cons b bs ih =>
    have hcons : listed x a (b :: bs) k = if b != 0xFF#8 then (⟨x, a + k, 0⟩, b) :: listed x a bs (k + 1) else listed x a bs (k + 1) := by
      simp only [listed, List.zipIdx_cons, List.map_cons, List.filter_cons]
      split <;> rfl
    rw [hcons, List.length_cons]
    split
    next h =>
      rw [fillBytes, if_pos rfl]
      exact congrArg (b :: ·) (ih (k + 1))
    next h =>
      have hb : b = 0xFF#8 := by simpa using h
      rw [fillBytes_skip fun e he => by have := (mem_listed he).2.1; omega, hb]
      exact congrArg (_ :: ·) (ih (k + 1))

/-- Bytes put into a flash read back. -/
theorem flashBytes_put (d : Dev) (x a : Nat) (bs : List Byte) : (d.flashPut x a bs).flashBytes x a bs.length = bs := by
  have hkeep : ∀ q : Key → Bool, ((d.flash.filter fun e => !inFlash x a bs.length e.1).filter fun e => q e.1).filter (fun e => inFlash x a bs.length e.1) = [] := by
    intro q
    rw [List.filter_eq_nil_iff]
    intro e he
    simp only [List.mem_filter, Bool.not_eq_true'] at he
    rw [he.1.2]
    decide
  have hnew : (listed x a bs 0).filter (fun e => inFlash x a bs.length e.1) = listed x a bs 0 := by
    rw [List.filter_eq_self]
    intro e he
    obtain ⟨h1, h2, h3⟩ := mem_listed he
    simp only [inFlash, Bool.and_eq_true, beq_iff_eq, decide_eq_true_eq]
    omega
  have hflash : (d.flashPut x a bs).flash = ((d.flash.filter fun e => !inFlash x a bs.length e.1).filter fun e => e.1.lt ⟨x, a, 0⟩) ++ listed x a bs 0 ++
      (d.flash.filter fun e => !inFlash x a bs.length e.1).filter fun e => !e.1.lt ⟨x, a, 0⟩ := rfl
  rw [Dev.flashBytes, hflash, List.filter_append, List.filter_append, hkeep fun k => k.lt ⟨x, a, 0⟩, hkeep fun k => !k.lt ⟨x, a, 0⟩, hnew, List.nil_append,
    List.append_nil]
  exact fillBytes_listed x a bs 0

/-- An erased range reads all ones. -/
theorem flashBytes_erase (d : Dev) (x a n : Nat) : (d.flashErase x a n).flashBytes x a n = List.replicate n 0xFF#8 := by
  have h : (d.flashErase x a n).flash.filter (fun e => inFlash x a n e.1) = [] := by
    rw [List.filter_eq_nil_iff]
    intro e he
    simp only [Dev.flashErase, List.mem_filter, Bool.not_eq_true'] at he
    rw [he.2]
    decide
  rw [Dev.flashBytes, h, fillBytes_nil]

/-! The buffer -/

/-- Words written to the places of a register read back. -/
theorem foldl_setReg (r : RegId) (x : Nat) (ws : List Word) (d : Dev) (n : Nat) :
    (∀ k, k < n → (((ws.zipIdx n).map fun p => (p.2, p.1)).foldl (fun d e => d.setReg r x e.1 e.2) d).reg r x k = d.reg r x k) ∧
      ∀ k (h : k < ws.length), (((ws.zipIdx n).map fun p => (p.2, p.1)).foldl (fun d e => d.setReg r x e.1 e.2) d).reg r x (n + k) = ws[k] := by
  induction ws generalizing d n with
  | nil => exact ⟨fun _ _ => rfl, fun k h => absurd h (Nat.not_lt_zero k)⟩
  | cons w ws ih =>
    obtain ⟨h1, h2⟩ := ih (d.setReg r x n w) (n + 1)
    simp only [List.zipIdx_cons, List.map_cons, List.foldl_cons]
    refine ⟨fun k hk => (h1 k (by omega)).trans ?_, fun k hk => ?_⟩
    · exact Dev.at_put_ne d (by simp; omega) w
    · cases k with
      | zero => exact (h1 n (Nat.lt_succ_self n)).trans (Dev.at_put_same _ _ _)
      | succ k =>
        have := h2 k (by simpa using hk)
        rwa [show n + 1 + k = n + (k + 1) by omega] at this

theorem flashBuf_set (d : Dev) (x : Nat) {bs : List Byte} (h : bs.length = 4096) : (d.setFlashBuf x bs).flashBuf x = bs := by
  obtain ⟨h1, h2⟩ := bytesOfWords_wordsLE 1024 bs h
  have hw : ∀ k (hk : k < (wordsLE bs).length), (d.setFlashBuf x bs).reg .MC_FLASH_BUF x k = (wordsLE bs)[k] := fun k hk => by
    have := (foldl_setReg .MC_FLASH_BUF x (wordsLE bs) d 0).2 k hk
    rwa [Nat.zero_add] at this
  have hmap : (List.range 1024).map (fun k => (d.setFlashBuf x bs).reg .MC_FLASH_BUF x k) = wordsLE bs := by
    refine List.ext_getElem (by simp [h2]) fun k _ hk => ?_
    rw [List.getElem_map, List.getElem_range, hw k hk]
  calc (d.setFlashBuf x bs).flashBuf x
      = bytesOfWords ((List.range 1024).map fun k => (d.setFlashBuf x bs).reg .MC_FLASH_BUF x k) := by
        rw [Dev.flashBuf, bytesOfWords, List.flatMap_map]
    _ = bs := by rw [hmap, h1]

theorem length_flashBytes (d : Dev) (x a n : Nat) : (d.flashBytes x a n).length = n := by
  have h : ∀ (n a : Nat) (S : Store Byte), (fillBytes n a S).length = n := by
    intro n
    induction n with
    | zero => exact fun _ _ => rfl
    | succ n ih =>
      intro a S
      cases S with
      | nil => rw [fillBytes, List.length_cons, ih]
      | cons e S =>
        rw [fillBytes]
        split <;> rw [List.length_cons, ih]
  exact h n a _

theorem length_flashBuf (d : Dev) (x : Nat) : (d.flashBuf x).length = 4096 := by
  simp only [Dev.flashBuf, List.length_flatMap, length_bytesLE, List.map_const', List.sum_replicate, List.length_range]
  rfl

/-! Commands and their ends -/

/-- A command that has ended shows its result and one more command done. -/
theorem flashEnd_effect (d : Dev) (x : Nat) {r : Nat} (hr : r < 8) :
    (d.flashEnd x r).fld MC_FLASH_RES.RESULT x = r ∧ (d.flashEnd x r).fld MC_FLASH_RES.DONE x = (d.fld MC_FLASH_RES.DONE x + 1) % 65536 ∧
      (d.flashEnd x r).fld MC_FLASH_RES.BUSY x = d.fld MC_FLASH_RES.BUSY x ∧ (d.flashEnd x r).flash = d.flash ∧ (d.flashEnd x r).flashRun = d.flashRun ∧
      ∀ l : Loc, l.reg ≠ .MC_FLASH_RES → (d.flashEnd x r).at l = d.at l := by
  obtain ⟨c, hc⟩ : ∃ c, c = (d.setFld MC_FLASH_RES.RESULT x 0 r).setFld MC_FLASH_RES.DONE x 0
      ((d.fld MC_FLASH_RES.DONE x + 1) % 65536) := ⟨_, rfl⟩
  have hres : (c.fld MC_FLASH_RES.RESULT x = r ∧ c.fld MC_FLASH_RES.DONE x = (d.fld MC_FLASH_RES.DONE x + 1) % 65536 ∧
      c.fld MC_FLASH_RES.BUSY x = d.fld MC_FLASH_RES.BUSY x ∧ c.flash = d.flash ∧ c.flashRun = d.flashRun ∧
      ∀ l : Loc, l.reg ≠ .MC_FLASH_RES → c.at l = d.at l) := by
    rw [hc]
    refine ⟨?_, ?_, ?_, rfl, rfl, fun l hl => ?_⟩
    · rw [fld_setFld_apart _ _ _ _ _ _ (by decide) (by decide), fld_setFld _ _ _ _ (by decide)]
      exact Nat.mod_eq_of_lt hr
    · rw [fld_setFld _ _ _ _ (by decide)]
      exact Nat.mod_mod _ _
    · rw [fld_setFld_apart _ _ _ _ _ _ (by decide) (by decide), fld_setFld_apart _ _ _ _ _ _ (by decide) (by decide)]
    · rw [Dev.at_setFld_ne _ _ _ _ _ (by rintro rfl; exact hl rfl), Dev.at_setFld_ne _ _ _ _ _ (by rintro rfl; exact hl rfl)]
  have hdef : d.flashEnd x r = if r = 0 then c else c.bootEvent x MC_FLASH_RES.RESULT := by rw [hc]; rfl
  rw [hdef]
  split
  · exact hres
  · obtain ⟨h1, h2, h3, h4, h5, h6⟩ := hres
    exact ⟨h1, h2, h3, h4, h5, h6⟩

theorem flashWindow_setFlashRun (d : Dev) (x : Nat) (v : Option (Nat × Nat)) : (d.setFlashRun x v).flashWindow x = v :=
  Store.get_set_same none ⟨x, 0, 0⟩ v d.flashRun

theorem busy_setFlashRun (d : Dev) (x : Nat) (v : Option (Nat × Nat)) : (d.setFlashRun x v).fld MC_FLASH_RES.BUSY x = if v.isSome then 1 else 0 := by
  rw [Dev.setFlashRun, fld_setFld _ _ _ _ (by decide)]
  split <;> rfl

/-- A command taken by the window. -/
theorem flashCmd_taken {d : Dev} {x op : Nat} (h0 : op ≠ 0) (hf : d.hasFlash x = true) (hw : d.flashWindow x = none)
    (hs : d.fld MC_FLASH_ADDR.SECTOR x < 16 ∨ op = 1) : d.flashCmd x op = d.setFlashRun x (some (op, d.fld MC_FLASH_ADDR.SECTOR x)) := by
  have h1 : (d.flashWindow x).isSome = false := by rw [hw]; rfl
  have hslot : ∀ i : Nat, 16 ≤ imageBase i / 4096 := fun i => by unfold imageBase; split <;> decide
  have h2 : (decide (op ≠ 1) && decide (0x10 ≤ d.fld MC_FLASH_ADDR.SECTOR x) && decide (d.fld MC_FLASH_ADDR.SECTOR x < 0x90)) = false := by
    rcases hs with h | h
    · simp [show ¬ 16 ≤ d.fld MC_FLASH_ADDR.SECTOR x by omega]
    · simp [h]
  have h3 : ∀ i, (decide (op ≠ 1) && (d.latest 6).isSome && decide (imageBase i / 4096 ≤ d.fld MC_FLASH_ADDR.SECTOR x) &&
      decide (d.fld MC_FLASH_ADDR.SECTOR x < imageBase i / 4096 + 0x700)) = false := fun i => by
    rcases hs with h | h
    · have := hslot i
      simp [show ¬ imageBase i / 4096 ≤ d.fld MC_FLASH_ADDR.SECTOR x by omega]
    · simp [h]
  simp only [Dev.flashCmd, h0, hf, h1, h2, h3, if_false, Bool.not_true, Bool.false_eq_true]

theorem drawBytes_eq {α : Type} (P : Dev → α) (hP : ∀ (d : Dev) n, P { d with free := n } = P d) : ∀ (k : Nat) (d : Dev), P (Dev.drawBytes k d).2 = P d
  | 0, _ => rfl
  | k + 1, d => (drawBytes_eq P hP k d.draw.2).trans (hP d _)

theorem setFlashBuf_eq (d : Dev) (x : Nat) (bs : List Byte) {α : Type} (P : Dev → α) (hP : ∀ (d : Dev) r u, P { d with regs := r, upsets := u } = P d) :
    P (d.setFlashBuf x bs) = P d := foldl_kept P (fun e _ => hP e _ _) _ _

theorem at_setFlashBuf_ne (d : Dev) (x : Nat) (bs : List Byte) {l : Loc} (h : l.reg ≠ .MC_FLASH_BUF) : (d.setFlashBuf x bs).at l = d.at l :=
  foldl_kept (Dev.at · l) (fun e _ => Dev.at_put_ne e (by rintro rfl; exact h rfl) _) _ _

/-- The state of a window that no command runs in. -/
theorem setFlashRun_none (d : Dev) (x : Nat) :
    (d.setFlashRun x none).flashWindow x = none ∧ (d.setFlashRun x none).fld MC_FLASH_RES.BUSY x = 0 ∧
      (d.setFlashRun x none).fld MC_FLASH_RES.DONE x = d.fld MC_FLASH_RES.DONE x ∧ (d.setFlashRun x none).flash = d.flash ∧
      (d.setFlashRun x none).flashBuf x = d.flashBuf x := by
  refine ⟨flashWindow_setFlashRun .., busy_setFlashRun .., ?_, rfl, ?_⟩
  · rw [Dev.setFlashRun, fld_setFld_apart _ _ _ _ _ _ (by decide) (by decide)]
    rfl
  · have hreg : ∀ k, (d.setFlashRun x none).reg .MC_FLASH_BUF x k = d.reg .MC_FLASH_BUF x k := fun k =>
      (Dev.at_setFld_ne ({ d with flashRun := d.flashRun.set none ⟨x, 0, 0⟩ none } : Dev) MC_FLASH_RES.BUSY x 0 _ (by simp)).trans rfl
    simp only [Dev.flashBuf, hreg]

/-- A command ends with its result, whatever it did to the flash or the buffer before. -/
theorem flashEnd_after {d e : Dev} {x r : Nat} (hr : r < 8) (hf : ∀ f : Fld, f.reg = .MC_FLASH_RES → e.fld f x = d.fld f x) (hrun : e.flashRun = d.flashRun) :
    ((e.flashEnd x r).fld MC_FLASH_RES.RESULT x = r ∧ (e.flashEnd x r).fld MC_FLASH_RES.DONE x = (d.fld MC_FLASH_RES.DONE x + 1) % 65536) ∧
      (e.flashEnd x r).fld MC_FLASH_RES.BUSY x = d.fld MC_FLASH_RES.BUSY x ∧ (e.flashEnd x r).flashWindow x = d.flashWindow x ∧
      (e.flashEnd x r).flash = e.flash ∧ (e.flashEnd x r).flashBuf x = e.flashBuf x := by
  obtain ⟨h1, h2, h3, h4, h5, h6⟩ := flashEnd_effect e x hr
  have hreg : ∀ k, (e.flashEnd x r).reg .MC_FLASH_BUF x k = e.reg .MC_FLASH_BUF x k := fun k => h6 _ (show RegId.MC_FLASH_BUF ≠ .MC_FLASH_RES by decide)
  refine ⟨⟨h1, h2.trans (by rw [hf _ rfl])⟩, h3.trans (hf _ rfl), ?_, h4, ?_⟩
  · rw [Dev.flashWindow, Dev.flashWindow, h5, hrun]
  · simp only [Dev.flashBuf, hreg]

theorem flashDone_def {d : Dev} {x op t : Nat} {ok : Bool} (hw : d.flashWindow x = some (op, t)) :
    d.flashDone x ok = (
      if op = 1 then ((d.setFlashRun x none).setFlashBuf x ((d.setFlashRun x none).flashBytes x (4096 * t) 4096)).flashEnd x 0
      else if op = 2 then ((d.setFlashRun x none).flashErase x (4096 * t) 4096).flashEnd x 0
      else if ok then ((d.setFlashRun x none).flashPut x (4096 * t) ((d.setFlashRun x none).flashBuf x)).flashEnd x 0
      else ((Dev.drawBytes 1024 (d.setFlashRun x none)).2.flashPut x (4096 * t) (Dev.drawBytes 1024 (d.setFlashRun x none)).1).flashEnd x 5) := by
  rw [Dev.flashDone, hw]

theorem flashTimeout_def {d : Dev} {x op t : Nat} (hw : d.flashWindow x = some (op, t)) :
    d.flashTimeout x = (if op = 1 then (Dev.drawBytes 1024 (d.setFlashRun x none)).2.setFlashBuf x (Dev.drawBytes 1024 (d.setFlashRun x none)).1
      else (Dev.drawBytes 1024 (d.setFlashRun x none)).2.flashPut x (4096 * t) (Dev.drawBytes 1024 (d.setFlashRun x none)).1).flashEnd x 6 := by
  rw [Dev.flashTimeout, hw]

/-- A command done leaves the buffer, or the sector, as the rules give it (R430). -/
theorem flashDone_effect {d : Dev} {x op t : Nat} {ok : Bool} (hop : op = 1 ∨ op = 2 ∨ op = 3) (hw : d.flashWindow x = some (op, t)) (h : op ≠ 3 ∨ ok = true) :
    let e := d.flashDone x ok
    (e.fld MC_FLASH_RES.RESULT x = 0 ∧ e.fld MC_FLASH_RES.DONE x = (d.fld MC_FLASH_RES.DONE x + 1) % 65536) ∧ e.fld MC_FLASH_RES.BUSY x = 0 ∧
      e.flashWindow x = none ∧ (op = 1 → e.flashBuf x = d.flashBytes x (4096 * t) 4096 ∧ e.flash = d.flash) ∧
      (op = 2 → e.flashBytes x (4096 * t) 4096 = List.replicate 4096 0xFF#8) ∧ (op = 3 → e.flashBytes x (4096 * t) 4096 = d.flashBuf x) := by
  obtain ⟨h1, h2, h3, h4, h5⟩ := setFlashRun_none d x
  rw [flashDone_def hw]
  generalize d.setFlashRun x none = c at *
  have hread : c.flashBytes x (4096 * t) 4096 = d.flashBytes x (4096 * t) 4096 := by rw [Dev.flashBytes, Dev.flashBytes, h4]
  rcases hop with rfl | rfl | rfl
  · obtain ⟨⟨e1, e2⟩, e3, e4, e5, e6⟩ := flashEnd_after (d := c) (e := c.setFlashBuf x (c.flashBytes x (4096 * t) 4096)) (r := 0) (by decide)
      (fun f hf => fld_of_at (at_setFlashBuf_ne _ _ _ (show f.reg ≠ .MC_FLASH_BUF by rw [hf]; decide))) (setFlashBuf_eq _ _ _ Dev.flashRun fun _ _ _ => rfl)
    rw [if_pos rfl]
    refine ⟨⟨e1, e2.trans (by rw [h3])⟩, e3.trans h2, e4.trans h1, fun _ => ⟨?_, ?_⟩, fun h => absurd h (by decide), fun h => absurd h (by decide)⟩
    · rw [e6, flashBuf_set _ _ (length_flashBytes ..), hread]
    · rw [e5, setFlashBuf_eq _ _ _ Dev.flash fun _ _ _ => rfl, h4]
  · obtain ⟨⟨e1, e2⟩, e3, e4, e5, e6⟩ := flashEnd_after (d := c) (e := c.flashErase x (4096 * t) 4096) (x := x) (r := 0) (by decide) (fun f _ => rfl) rfl
    rw [if_neg (by decide), if_pos rfl]
    refine ⟨⟨e1, e2.trans (by rw [h3])⟩, e3.trans h2, e4.trans h1, fun h => absurd h (by decide), fun _ => ?_, fun h => absurd h (by decide)⟩
    rw [Dev.flashBytes, e5]
    exact flashBytes_erase c x (4096 * t) 4096
  · obtain ⟨⟨e1, e2⟩, e3, e4, e5, e6⟩ := flashEnd_after (d := c) (e := c.flashPut x (4096 * t) (c.flashBuf x)) (x := x) (r := 0) (by decide) (fun f _ => rfl) rfl
    rw [if_neg (by decide), if_neg (by decide), if_pos (h.resolve_left (by simp))]
    refine ⟨⟨e1, e2.trans (by rw [h3])⟩, e3.trans h2, e4.trans h1, fun h => absurd h (by decide), fun h => absurd h (by decide), fun _ => ?_⟩
    have hput := flashBytes_put c x (4096 * t) (c.flashBuf x)
    rw [length_flashBuf] at hput
    rw [Dev.flashBytes, e5]
    exact hput.trans h5

theorem fld_flashPut (d : Dev) (x a : Nat) (bs : List Byte) (f : Fld) (u i : Nat) : (d.flashPut x a bs).fld f u i = d.fld f u i := rfl

theorem flashRun_flashPut (d : Dev) (x a : Nat) (bs : List Byte) : (d.flashPut x a bs).flashRun = d.flashRun := rfl

/-- A command that ends with another result leaves the window free. -/
theorem flashEnds_free {d e : Dev} {x r : Nat} (hr : r < 8) (hf : ∀ f : Fld, f.reg = .MC_FLASH_RES → e.fld f x = (d.setFlashRun x none).fld f x)
    (hn : e.flashRun = (d.setFlashRun x none).flashRun) : ((e.flashEnd x r).fld MC_FLASH_RES.RESULT x = r ∧
      (e.flashEnd x r).fld MC_FLASH_RES.DONE x = (d.fld MC_FLASH_RES.DONE x + 1) % 65536) ∧ (e.flashEnd x r).flashWindow x = none := by
  obtain ⟨h1, -, h3, -, -⟩ := setFlashRun_none d x
  obtain ⟨⟨e1, e2⟩, -, e4, -, -⟩ := flashEnd_after hr hf hn
  exact ⟨⟨e1, e2.trans (by rw [h3])⟩, e4.trans h1⟩

/-- Free bytes drawn leave the window as it was. -/
theorem drawBytes_window (k : Nat) (d : Dev) (x : Nat) :
    (∀ f : Fld, (Dev.drawBytes k d).2.fld f x = d.fld f x) ∧ (Dev.drawBytes k d).2.flashRun = d.flashRun :=
  ⟨fun f => drawBytes_eq (Dev.fld · f x) (fun _ _ => rfl) _ _, drawBytes_eq Dev.flashRun (fun _ _ => rfl) _ _⟩

/-- A PROGRAM whose read-back differs ends with RESULT 5 (R430). -/
theorem flashDone_differs {d : Dev} {x t : Nat} (hw : d.flashWindow x = some (3, t)) :
    ((d.flashDone x false).fld MC_FLASH_RES.RESULT x = 5 ∧ (d.flashDone x false).fld MC_FLASH_RES.DONE x = (d.fld MC_FLASH_RES.DONE x + 1) % 65536) ∧
      (d.flashDone x false).flashWindow x = none := by
  obtain ⟨hfld, hrun⟩ := drawBytes_window 1024 (d.setFlashRun x none) x
  rw [flashDone_def hw]
  generalize Dev.drawBytes 1024 (d.setFlashRun x none) = p at *
  rw [if_neg (by decide), if_neg (by decide), if_neg (by decide)]
  exact flashEnds_free (by decide) (fun f _ => (fld_flashPut ..).trans (hfld f)) ((flashRun_flashPut ..).trans hrun)

/-- A command that takes too long ends with RESULT 6 (R430). -/
theorem flashTimeout_ends {d : Dev} {x op t : Nat} (hw : d.flashWindow x = some (op, t)) :
    ((d.flashTimeout x).fld MC_FLASH_RES.RESULT x = 6 ∧ (d.flashTimeout x).fld MC_FLASH_RES.DONE x = (d.fld MC_FLASH_RES.DONE x + 1) % 65536) ∧
      (d.flashTimeout x).flashWindow x = none := by
  obtain ⟨hfld, hrun⟩ := drawBytes_window 1024 (d.setFlashRun x none) x
  rw [flashTimeout_def hw]
  generalize Dev.drawBytes 1024 (d.setFlashRun x none) = p at *
  refine flashEnds_free (by decide) (fun f hf => ?_) ?_
  · split
    · exact (fld_of_at (at_setFlashBuf_ne _ _ _ (show f.reg ≠ .MC_FLASH_BUF by rw [hf]; decide))).trans (hfld f)
    · exact (fld_flashPut ..).trans (hfld f)
  · split
    · exact (setFlashBuf_eq _ _ _ Dev.flashRun fun _ _ _ => rfl).trans hrun
    · exact (flashRun_flashPut ..).trans hrun

end Sys2Proof.Machine

/-! ## The ledger (R428, R436, R438) -/

namespace Sys2Proof.Machine

/-- A write of MC_LEDGER_CTL acts on the bits it carries. -/
theorem swCmd_ledgerCtl {d : Dev} {L : Locks} {src : Src} {x : Nat} {f : Word → Word} {at_ : Nat} (hx : x < d.n)
    (hg : d.lets src ⟨.MC_LEDGER_CTL, x, 0⟩ = true) :
    d.swCmd L src ⟨.MC_LEDGER_CTL, x, 0⟩ f at_ = ((d.written src ⟨.MC_LEDGER_CTL, x, 0⟩).ledgerCtl x (f 0)).answered src := by
  rw [swCmd_pulse (fits_die rfl (by decide) rfl hx) (show RegId.MC_LEDGER_CTL.pulse = true by decide) hg]
  rfl

/-- A write about to be done leaves the registers and the flash as they are. -/
theorem written_flash (d : Dev) (src : Src) (l : Loc) : (∀ f u i, (d.written src l).fld f u i = d.fld f u i) ∧ (d.written src l).flashRun = d.flashRun ∧
    (d.written src l).flash = d.flash ∧ (d.written src l).fen = d.fen ∧ (d.written src l).n = d.n ∧ (d.written src l).lost = d.lost :=
  ⟨fun _ _ _ => fld_of_at rfl, rfl, rfl, rfl, rfl, rfl⟩

/-- A refusal by the window: the result, and nothing else of the window changed. -/
theorem flashRefused {d c e : Dev} {src : Src} {x r : Nat} (hr : r < 8) (hf : ∀ f u i, c.fld f u i = d.fld f u i) (hrun : c.flashRun = d.flashRun)
    (hflash : c.flash = d.flash) (he : e = (c.flashEnd x r).answered src) :
    (e.fld MC_FLASH_RES.RESULT x = r ∧ e.fld MC_FLASH_RES.DONE x = (d.fld MC_FLASH_RES.DONE x + 1) % 65536) ∧ e.flashWindow x = d.flashWindow x ∧
      e.flash = d.flash := by
  obtain ⟨h1, h2, -, h4, h5, -⟩ := flashEnd_effect c x hr
  subst he
  refine ⟨⟨(fld_answered ..).trans h1, (fld_answered ..).trans (h2.trans (by rw [hf]))⟩, ?_, ?_⟩
  · rw [Dev.flashWindow, answered_of_out Dev.flashRun fun _ _ => rfl, h5, hrun, Dev.flashWindow]
  · rw [answered_of_out Dev.flash fun _ _ => rfl, h4, hflash]

/-- The commands of the window. -/
theorem flash_instr {s : State} {src : Src} {x : Nat} {i : Instr} {op : Nat}
    (hi : i = .flashRead src x ∧ op = 1 ∨ i = .flashErase src x ∧ op = 2 ∨ i = .flashProgram src x ∧ op = 3) :
    (0 < op ∧ op < 4) ∧ (s.dev.takes i = true → x < s.dev.n) ∧
      exec i s = perform i s fun L d => d.swCmd L src ⟨.MC_FLASH_CMD, x, 0⟩ fun c => putBits c 1 0 op := by
  have hx : ∀ j, j = .flashRead src x ∨ j = .flashErase src x ∨ j = .flashProgram src x → s.dev.takes j = true → x < s.dev.n := by
    rintro j (rfl | rfl | rfl) ht <;> simp only [Dev.takes, Instr.present, Bool.and_eq_true, decide_eq_true_eq] at ht <;> exact ht.2.2
  rcases hi with ⟨rfl, rfl⟩ | ⟨rfl, rfl⟩ | ⟨rfl, rfl⟩
  · exact ⟨by decide, hx _ (.inl rfl), rfl⟩
  · exact ⟨by decide, hx _ (.inr (.inl rfl)), rfl⟩
  · exact ⟨by decide, hx _ (.inr (.inr rfl)), rfl⟩

/-! The ledger's records -/

theorem length_ledgerRec (r : LedgerRec) : r.bytes.length = 32 := by
  simp [LedgerRec.bytes, LedgerRec.words, bytesOfWords, length_bytesLE]

theorem flashBytes_put_other (d : Dev) {x y : Nat} (h : x < y) (a b n : Nat) (bs : List Byte) : (d.flashPut y b bs).flashBytes x a n = d.flashBytes x a n := by
  have hnew : (listed y b bs 0).filter (fun e => inFlash x a n e.1) = [] := by
    rw [List.filter_eq_nil_iff]
    intro e he
    simp [inFlash, (mem_listed he).1, show y ≠ x by omega]
  have hlow : (((d.flash.filter fun e => !inFlash y b bs.length e.1).filter fun e => e.1.lt ⟨y, b, 0⟩).filter fun e => inFlash x a n e.1) =
      d.flash.filter fun e => inFlash x a n e.1 := by
    rw [List.filter_filter, List.filter_filter]
    refine List.filter_congr fun e _ => ?_
    by_cases he : e.1.a = x
    · simp [inFlash, Key.lt, he, h, show x ≠ y by omega]
    · simp only [inFlash, beq_eq_false_iff_ne.mpr he, Bool.false_and]
  have hhigh : (((d.flash.filter fun e => !inFlash y b bs.length e.1).filter fun e => !e.1.lt ⟨y, b, 0⟩).filter fun e => inFlash x a n e.1) = [] := by
    rw [List.filter_eq_nil_iff]
    intro e he
    have := (List.mem_filter.mp he).2
    by_cases hx : e.1.a = x
    · simp [Key.lt, hx, h] at this
    · simp [inFlash, hx]
  have hflash : (d.flashPut y b bs).flash = ((d.flash.filter fun e => !inFlash y b bs.length e.1).filter fun e => e.1.lt ⟨y, b, 0⟩) ++ listed y b bs 0 ++
      (d.flash.filter fun e => !inFlash y b bs.length e.1).filter fun e => !e.1.lt ⟨y, b, 0⟩ := rfl
  rw [Dev.flashBytes, hflash, List.filter_append, List.filter_append, hlow, hnew, hhigh, List.append_nil, List.append_nil, Dev.flashBytes]

theorem flashBytes_erase_other (d : Dev) {x y : Nat} (h : x ≠ y) (a b n m : Nat) : (d.flashErase y b m).flashBytes x a n = d.flashBytes x a n := by
  have hflash : (d.flashErase y b m).flash = d.flash.filter fun e => !inFlash y b m e.1 := rfl
  rw [Dev.flashBytes, hflash, List.filter_filter, Dev.flashBytes]
  congr 1
  refine List.filter_congr fun e _ => ?_
  by_cases he : e.1.a = x
  · simp [inFlash, he, h]
  · simp [inFlash, he]

/-- What lies in the flash of a die, and how far its ledger is filled. -/
def Dev.ledgerAt (d : Dev) (x a : Nat) : Nat × List Byte := (d.fld MC_FLASH_STAT.FILL x, d.flashBytes x a 32)

theorem ledgerAt_setFld (d : Dev) {f : Fld} {x u a v : Nat} (h : x ≠ u ∨ f.apart MC_FLASH_STAT.FILL = true) (hw : f.wide = true) :
    (d.setFld f u 0 v).ledgerAt x a = d.ledgerAt x a := by
  have hfld : (d.setFld f u 0 v).fld MC_FLASH_STAT.FILL x = d.fld MC_FLASH_STAT.FILL x := by
    rcases h with h | h
    · exact fld_of_at (Dev.at_setFld_ne _ _ _ _ _ (by simp [h]))
    · exact fld_setFld_apart _ _ _ _ _ _ h hw
  exact Prod.ext hfld rfl

/-- A record goes to the place that FILL names (R436). -/
theorem ledgerAppend_own {d : Dev} {x : Nat} (r : LedgerRec) (hf : d.hasFlash x = true) (hr : d.refuses x = false) :
    (d.ledgerAppend x r).ledgerAt x (ledgerBase + 32 * d.fld MC_FLASH_STAT.FILL x) = ((d.fld MC_FLASH_STAT.FILL x + 1) % 16384, r.bytes) := by
  have hput : ∀ c : Dev, ((c.flashPut x (ledgerBase + 32 * d.fld MC_FLASH_STAT.FILL x) r.bytes).setFld MC_FLASH_STAT.FILL x 0
      ((d.fld MC_FLASH_STAT.FILL x + 1) % 16384)).ledgerAt x (ledgerBase + 32 * d.fld MC_FLASH_STAT.FILL x) =
        ((d.fld MC_FLASH_STAT.FILL x + 1) % 16384, r.bytes) := fun c => by
    have hbytes := flashBytes_put c x (ledgerBase + 32 * d.fld MC_FLASH_STAT.FILL x) r.bytes
    rw [length_ledgerRec] at hbytes
    refine Prod.ext ?_ hbytes
    exact (fld_setFld _ _ _ _ (by decide)).trans (Nat.mod_eq_of_lt (by simp; omega))
  rw [Dev.ledgerAppend, if_pos hf, hr, if_neg (by decide)]
  exact hput _

/-- A record of another die leaves the ledger of the first one alone. -/
theorem ledgerAppend_other (d : Dev) {x y : Nat} (h : x < y) (r : LedgerRec) (a : Nat) : (d.ledgerAppend y r).ledgerAt x a = d.ledgerAt x a := by
  have hput : ∀ c : Dev, c.ledgerAt x a = d.ledgerAt x a → ∀ b v, ((c.flashPut y b r.bytes).setFld MC_FLASH_STAT.FILL y 0 v).ledgerAt x a = d.ledgerAt x a :=
    fun c hc b v => by
      rw [ledgerAt_setFld _ (.inl (by omega)) (by decide), ← hc]
      exact Prod.ext rfl (flashBytes_put_other c h a b 32 r.bytes)
  unfold Dev.ledgerAppend
  split
  · split
    · exact ledgerAt_setFld d (.inl (by omega)) (by decide)
    · refine hput _ ?_ _ _
      split
      · exact Prod.ext rfl (flashBytes_erase_other d (by omega) a _ 32 _)
      · rfl
  · rfl

theorem foldl_kept_on {α β : Type} (P : Dev → α) {step : Dev → β → Dev} (xs : List β) (h : ∀ x ∈ xs, ∀ d, P (step d x) = P d) (d : Dev) :
    P (xs.foldl step d) = P d := by
  induction xs generalizing d with
  | nil => rfl
  | cons x xs ih => exact (ih (fun y hy => h y (List.mem_cons_of_mem x hy)) _).trans (h x List.mem_cons_self d)

/-- A record that the ledgers of the dies take. -/
theorem ledgerWrite_effect {d : Dev} (r : LedgerRec) (hf : d.hasFlash 0 = true) (hs : d.inService 0 = true) (hr : d.refuses 0 = false) :
    ∃ t, (d.ledgerWrite r).ledgerAt 0 (ledgerBase + 32 * d.fld MC_FLASH_STAT.FILL 0) =
      ((d.fld MC_FLASH_STAT.FILL 0 + 1) % 16384, { r with boot := d.fen.boot, time := t }.bytes) := by
  refine ⟨d.draw.1, ?_⟩
  have hdies : d.draw.2.ledgerDies = 0 :: [1].filter fun x => d.hasFlash x && d.inService x := by
    have : d.draw.2.ledgerDies = [0, 1].filter fun x => d.hasFlash x && d.inService x := rfl
    rw [this, List.filter_cons, hf, hs]
    rfl
  have hdef : d.ledgerWrite r = (fun c => if !d.draw.2.ledgerDies.isEmpty && d.draw.2.ledgerDies.all d.refuses then
      Dev.keepRec c (d.draw.2.ledgerDies.headD 0) { r with boot := c.fen.ahead, time := d.draw.1 } else c)
        (d.draw.2.ledgerDies.foldl (fun d' x => d'.ledgerAppend x { r with boot := d'.fen.boot, time := d.draw.1 }) d.draw.2) := rfl
  have hfirst := ledgerAppend_own (d := d.draw.2) { r with boot := d.fen.boot, time := d.draw.1 } hf hr
  rw [hdef, hdies, List.all_cons, hr, Bool.false_and, Bool.and_false, List.foldl_cons]
  dsimp only
  rw [if_neg (by decide), foldl_kept_on (Dev.ledgerAt · 0 _) _ fun y hy c => ledgerAppend_other c (by simp at hy; omega) _ _]
  exact hfirst

/-- An image marked: its record lies at the place that FILL named. -/
theorem markImage_effect {d : Dev} (x image : Nat) (hf : d.hasFlash 0 = true) (hs : d.inService 0 = true) (hr : d.refuses 0 = false) :
    ∃ t, (d.markImage x image).ledgerAt 0 (ledgerBase + 32 * d.fld MC_FLASH_STAT.FILL 0) = ((d.fld MC_FLASH_STAT.FILL 0 + 1) % 16384,
      LedgerRec.bytes { kind := 6, die := x, boot := d.fen.boot, time := t, detail := [image, d.flashWord 0 (imageBase image + 4) % 65536, 0] }) := by
  obtain ⟨t, h⟩ := ledgerWrite_effect { kind := 6, die := x, detail := [image, d.flashWord 0 (imageBase image + 4) % 65536, 0] } hf hs hr
  refine ⟨t, Eq.trans ?_ h⟩
  rw [Dev.markImage, hf, if_pos rfl]
  rfl

/-- Dies put up for the next start: those named, and those put up before (R428). -/
theorem readmitDies_effect (d : Dev) (x mask : Nat) :
    (∀ y ∈ d.fen.leftOut, mask.testBit y = true → y ∈ (d.readmitDies x mask).fen.readmit) ∧ (d.readmitDies x mask).fen.leftOut = d.fen.leftOut ∧
      ∀ y ∈ d.fen.readmit, y ∈ (d.readmitDies x mask).fen.readmit := by
  obtain ⟨step, hdef, hstep⟩ : ∃ step : Dev → Nat → Dev, d.readmitDies x mask = (d.fen.leftOut.filter fun y => mask.testBit y).foldl step d ∧
      ∀ c y, (step c y).fen.leftOut = c.fen.leftOut ∧ (step c y).fen.readmit = (c.fen.readmit.filter fun z => z != y) ++ [y] :=
    ⟨_, rfl, fun _ _ => ⟨rfl, rfl⟩⟩
  have hmem : ∀ c y z, z = y ∨ z ∈ c.fen.readmit → z ∈ (step c y).fen.readmit := fun c y z h => by
    rw [(hstep c y).2, List.mem_append, List.mem_filter, List.mem_singleton, bne_iff_ne]
    tauto
  have hfold : ∀ (ys : List Nat) (c : Dev), (ys.foldl step c).fen.leftOut = c.fen.leftOut ∧
      ∀ z, z ∈ ys ∨ z ∈ c.fen.readmit → z ∈ (ys.foldl step c).fen.readmit := by
    intro ys
    induction ys with
    | nil => exact fun c => ⟨rfl, fun z h => h.resolve_left List.not_mem_nil⟩
    | cons y ys ih =>
      refine fun c => ⟨(ih _).1.trans (hstep c y).1, fun z h => (ih (step c y)).2 z ?_⟩
      rw [List.mem_cons] at h
      rcases h with (h | h) | h
      · exact .inr (hmem c y z (.inl h))
      · exact .inl h
      · exact .inr (hmem c y z (.inr h))
  obtain ⟨h1, h2⟩ := hfold (d.fen.leftOut.filter fun y => mask.testBit y) d
  rw [hdef]
  exact ⟨fun y hy hb => h2 y (.inl (List.mem_filter.mpr ⟨hy, hb⟩)), h1, fun y hy => h2 y (.inr hy)⟩

/-- Settles O36. -/
theorem flashAndLedger : Obligations.FlashAndLedger := by
  unfold Obligations.FlashAndLedger
  refine ⟨fun s src x i op hi => ⟨fun hg hp => ?_, fun t ok hw h => ?_, fun t hw => ?_, fun t hw => ?_, fun hw => ?_⟩,
    fun s src x hg => ⟨fun i image hi hf hs hr => ?_, fun mask hm => ?_⟩⟩
  · obtain ⟨⟨h0, h4⟩, hn, hx⟩ := flash_instr (s := s) hi
    obtain ⟨hfld, hrun, hflash, -, -, -⟩ := written_flash s.dev src ⟨.MC_FLASH_CMD, x, 0⟩
    have hsome : ∀ P : Dev → Prop, P (((s.dev.written src ⟨.MC_FLASH_CMD, x, 0⟩).flashCmd x op).answered src) → s.DoesSome i P := fun P h ht => by
      refine State.doesSome_perform hx ?_ ht
      rwa [swCmd_flashCmd (hn ht) h0 h4 hp hg]
    generalize s.dev.written src ⟨.MC_FLASH_CMD, x, 0⟩ = c at *
    have hhas : c.hasFlash x = s.dev.hasFlash x := by rw [Dev.hasFlash, Dev.hasFlash, Dev.flag, Dev.flag, hfld]
    have hwin : c.flashWindow x = s.dev.flashWindow x := by rw [Dev.flashWindow, Dev.flashWindow, hrun]
    refine ⟨fun hf hw hs => hsome _ ?_, fun hf => hsome _ ?_, fun hf hw => hsome _ ?_, fun hf hw h1 h16 h144 => hsome _ ?_⟩
    · rw [flashCmd_taken (by omega) (hhas.trans hf) (hwin.trans hw) (by rwa [hfld]), hfld]
      refine ⟨?_, ?_, ?_⟩
      · rw [Dev.flashWindow, answered_of_out Dev.flashRun fun _ _ => rfl]
        exact flashWindow_setFlashRun ..
      · exact (fld_answered ..).trans (busy_setFlashRun ..)
      · rw [answered_of_out Dev.flash fun _ _ => rfl]
        exact hflash
    · obtain ⟨h1, h2, -⟩ := flashRefused (src := src) (e := (c.flashCmd x op).answered src) (r := 1) (by decide) hfld hrun hflash
        (by rw [Dev.flashCmd, if_neg (by omega), hhas, hf]; rfl)
      exact ⟨h1, h2⟩
    · obtain ⟨h1, h2, -⟩ := flashRefused (src := src) (e := (c.flashCmd x op).answered src) (r := 4) (by decide) hfld hrun hflash
        (by rw [Dev.flashCmd, if_neg (by omega), hhas, hf, if_neg (by decide), hwin, if_pos (Option.isSome_iff_ne_none.mpr hw)])
      exact ⟨h1, h2⟩
    · obtain ⟨h2, h3, h4⟩ := flashRefused (src := src) (e := (c.flashCmd x op).answered src) (r := 2) (by decide) hfld hrun hflash
        (by rw [Dev.flashCmd, if_neg (by omega), hhas, hf, if_neg (by decide), hwin, hw, if_neg (by decide), hfld, if_pos (by simp [h1, h16, h144])])
      exact ⟨h2, h3.trans hw, h4⟩
  · exact State.doesJust_performAlone (by dsimp only [exec]; rfl) (flashDone_effect (by omega) hw h)
  · exact State.doesJust_performAlone (by dsimp only [exec]; rfl) (flashDone_differs hw)
  · exact State.doesJust_performAlone (by dsimp only [exec]; rfl) (flashTimeout_ends hw)
  · exact State.doesOnly_performAlone (by dsimp only [exec]; rfl) (by rw [Dev.flashTimeout, hw])
  · have hmark : (s.dev.takes i = true → x < s.dev.n) ∧ ∃ f, exec i s = perform i s (fun L d => d.swCmd L src ⟨.MC_LEDGER_CTL, x, 0⟩ f) ∧
        ∀ c : Dev, c.ledgerCtl x (f 0) = c.markImage x image := by
      rcases hi with ⟨rfl, rfl⟩ | ⟨rfl, rfl⟩
      · refine ⟨fun ht => ?_, _, rfl, fun c => rfl⟩
        simp only [Dev.takes, Instr.present, Bool.and_eq_true, decide_eq_true_eq] at ht
        exact ht.2.2
      · refine ⟨fun ht => ?_, _, rfl, fun c => rfl⟩
        simp only [Dev.takes, Instr.present, Bool.and_eq_true, decide_eq_true_eq] at ht
        exact ht.2.2
    obtain ⟨hn, f, hx, hctl⟩ := hmark
    obtain ⟨hfld, -, hflash, hfen, hnn, hlost⟩ := written_flash s.dev src ⟨.MC_LEDGER_CTL, x, 0⟩
    refine fun ht => State.doesSome_perform hx ?_ ht
    rw [swCmd_ledgerCtl (hn ht) hg, hctl]
    generalize s.dev.written src ⟨.MC_LEDGER_CTL, x, 0⟩ = c at *
    obtain ⟨t, h⟩ := markImage_effect (d := c) x image (by rw [Dev.hasFlash, Dev.flag, hfld]; exact hf) (by rw [Dev.inService, hnn, hlost]; exact hs)
      (by rw [Dev.refuses, hfen]; exact hr)
    have hword : c.flashWord 0 (imageBase image + 4) = s.dev.flashWord 0 (imageBase image + 4) := by
      rw [Dev.flashWord, Dev.flashWord, Dev.flashBytes, Dev.flashBytes, hflash]
    rw [hfld, hfen, hword, Dev.ledgerAt, Prod.ext_iff] at h
    refine ⟨(fld_answered ..).trans h.1, t, ?_⟩
    rw [Dev.flashBytes, answered_of_out Dev.flash fun _ _ => rfl]
    exact h.2
  · intro ht
    have hn : x < s.dev.n := by
      simp only [Dev.takes, Instr.present, Bool.and_eq_true, decide_eq_true_eq] at ht
      exact ht.2.2
    obtain ⟨-, -, -, hfen, -, -⟩ := written_flash s.dev src ⟨.MC_LEDGER_CTL, x, 0⟩
    refine State.doesSome_perform (by dsimp only [exec]; rfl) ?_ ht
    rw [swCmd_ledgerCtl hn hg]
    generalize s.dev.written src ⟨.MC_LEDGER_CTL, x, 0⟩ = c at *
    have hb : ∀ j, j < 8 → (putBits (0 : Word) 15 8 mask).getLsbD j = false := fun j hj => by
      rw [putBits_getLsbD]
      simp [show ¬ 8 ≤ j by omega]
    have hm' : bitsOf (putBits (0 : Word) 15 8 mask) 15 8 = mask := by
      rw [bitsOf_putBits_same _ _ (by decide) (by decide)]
      exact Nat.mod_eq_of_lt hm
    have hdef : c.ledgerCtl x (putBits 0 15 8 mask) = if mask = 0 then c else c.readmitDies x mask := by
      simp only [Dev.ledgerCtl, hb 0 (by decide), hb 1 (by decide), hm', Bool.false_and, Bool.false_eq_true, if_false]
    rw [hdef, ← hfen]
    generalize hc : (if mask = 0 then c else c.readmitDies x mask) = e
    have hout : (e.answered src).fen = e.fen := answered_of_out Dev.fen (fun _ _ => rfl) e src
    rw [hout, ← hc]
    split
    next h0 => exact ⟨fun y _ hy => absurd hy (by simp [h0]), rfl, fun y hy => hy⟩
    next => exact readmitDies_effect c x mask

end Sys2Proof.Machine

/-! ## Monitors (R441 to R447) and the boundary scan (R413, R414) -/

namespace Sys2Proof.Machine

theorem reg_setReg_same (d : Dev) (r : RegId) (u i : Nat) (w : Word) : (d.setReg r u i w).reg r u i = w := Dev.at_put_same _ _ _

theorem reg_setReg_ne (d : Dev) {r q : RegId} (u i : Nat) (w : Word) (u' i' : Nat) (h : q ≠ r) : (d.setReg r u i w).reg q u' i' = d.reg q u' i' :=
  at_setReg_ne _ _ _ _ _ (by simp [h])

/-- A field that fills its register. -/
theorem fld_whole {d : Dev} {f : Fld} {u i v : Nat} (hf : f.hi = 31 ∧ f.lo = 0) (h : d.reg f.reg u i = BitVec.ofNat 32 v) (hv : v < 2 ^ 32) :
    d.fld f u i = v := by
  rw [Dev.fld, h, bitsOf, hf.1, hf.2]
  simp
  omega

theorem satInc_eq {x top : Nat} (h : x ≤ top) : satInc x top = min (x + 1) top := by
  unfold satInc
  split <;> omega

/-- A register pair that has been written reads back. -/
theorem pair_setPair (d : Dev) {lo hi : RegId} {u i v : Nat} (r : (lo == hi) = false) (hv : v < 2 ^ 64) : (d.setPair lo hi u i v).pair lo hi u i = v := by
  rw [Dev.pair, Dev.setPair, reg_setReg_same, reg_setReg_ne _ _ _ _ _ _ (by simpa using r), reg_setReg_same]
  simp only [BitVec.toNat_ofNat]
  omega

/-! The results of a slot -/

/-- The registers that hold the results of a slot. -/
def monResults : List RegId := [.MON_MIN, .MON_MAX, .MON_COUNT, .MON_SUM_LO, .MON_SUM_HI, .MON_BIN, .MON_STAT]

/-- The bins of a slot set to zero. -/
theorem bins_cleared (d : Dev) (i : Nat) : ∀ n, (∀ l : Loc, l.reg ≠ .MON_BIN → ((List.range n).foldl (fun d k => d.setReg .MON_BIN 0 (16 * i + k) 0) d).at l = d.at l) ∧
    ∀ k < n, ((List.range n).foldl (fun d k => d.setReg .MON_BIN 0 (16 * i + k) 0) d).reg .MON_BIN 0 (16 * i + k) = 0
  | 0 => ⟨fun _ _ => rfl, fun k h => absurd h (Nat.not_lt_zero k)⟩
  | n + 1 => by
    obtain ⟨h1, h2⟩ := bins_cleared d i n
    rw [List.range_succ, List.foldl_append, List.foldl_cons, List.foldl_nil]
    refine ⟨fun l hl => (at_setReg_ne _ _ _ _ _ (by rintro rfl; exact hl rfl)).trans (h1 l hl), fun k hk => ?_⟩
    by_cases hkn : k = n
    · subst hkn
      exact reg_setReg_same ..
    · exact (at_setReg_ne _ _ _ _ _ (by simp [hkn])).trans (h2 k (by omega))

/-- CLEAR empties the results of a slot and leaves every other register (R447). -/
theorem monClear_effect (d : Dev) (x s : Nat) :
    (let i := slotIx x s; let e := d.monClear x s
     e.fld MON_MIN.MIN 0 i = 2 ^ 32 - 1 ∧ e.fld MON_MAX.MAX 0 i = 0 ∧ e.fld MON_COUNT.COUNT 0 i = 0 ∧
      e.pair .MON_SUM_LO .MON_SUM_HI 0 i = 0 ∧ (∀ k : Nat, k < 16 → e.fld MON_BIN.HITS 0 (16 * i + k) = 0) ∧ e.fld MON_STAT.OVER 0 i = 0 ∧
      e.fld MON_STAT.SAT 0 i = 0) ∧ ∀ l : Loc, l.reg ∉ monResults → (d.monClear x s).at l = d.at l := by
  dsimp only
  obtain ⟨a, ha⟩ : ∃ a, a = (((((d.setReg .MON_MIN 0 (slotIx x s) 0xFFFFFFFF).setReg .MON_MAX 0 (slotIx x s) 0).setReg .MON_COUNT 0 (slotIx x s) 0).setReg
      .MON_SUM_LO 0 (slotIx x s) 0).setReg .MON_SUM_HI 0 (slotIx x s) 0) := ⟨_, rfl⟩
  obtain ⟨hbin, hbin0⟩ := bins_cleared a (slotIx x s) 16
  obtain ⟨b, hb⟩ : ∃ b, b = (List.range 16).foldl (fun d k => d.setReg .MON_BIN 0 (16 * slotIx x s + k) 0) a := ⟨_, rfl⟩
  have hdef : d.monClear x s = (b.setFld MON_STAT.OVER 0 (slotIx x s) 0).setFld MON_STAT.SAT 0 (slotIx x s) 0 := by rw [hb, ha]; rfl
  rw [← hb] at hbin hbin0
  have hat : ∀ l : Loc, l.reg ≠ .MON_STAT → (d.monClear x s).at l = b.at l := fun l hl => by
    rw [hdef, Dev.at_setFld_ne _ _ _ _ _ (by rintro rfl; exact hl rfl), Dev.at_setFld_ne _ _ _ _ _ (by rintro rfl; exact hl rfl)]
  have hreg : ∀ r : RegId, r ≠ .MON_STAT → r ≠ .MON_BIN → ∀ i, (d.monClear x s).reg r 0 i = a.reg r 0 i := fun r h1 h2 i => (hat _ h1).trans (hbin _ h2)
  have hmin : a.reg .MON_MIN 0 (slotIx x s) = 0xFFFFFFFF := by
    rw [ha]
    repeat rw [reg_setReg_ne _ _ _ _ _ _ (by decide)]
    exact reg_setReg_same ..
  have hzero : ∀ r, r = .MON_MAX ∨ r = .MON_COUNT ∨ r = .MON_SUM_LO ∨ r = .MON_SUM_HI → a.reg r 0 (slotIx x s) = 0 := by
    rintro r (rfl | rfl | rfl | rfl) <;> rw [ha]
    all_goals
      repeat rw [reg_setReg_ne _ _ _ _ _ _ (by decide)]
      exact reg_setReg_same ..
  have hout : ∀ l : Loc, l.reg ∉ monResults → a.at l = d.at l := fun l hl => by
    simp only [monResults, List.mem_cons, List.not_mem_nil, or_false, not_or] at hl
    obtain ⟨h1, h2, h3, h4, h5, -, -⟩ := hl
    rw [ha, at_setReg_ne _ _ _ _ _ (by rintro rfl; exact h5 rfl), at_setReg_ne _ _ _ _ _ (by rintro rfl; exact h4 rfl),
      at_setReg_ne _ _ _ _ _ (by rintro rfl; exact h3 rfl), at_setReg_ne _ _ _ _ _ (by rintro rfl; exact h2 rfl),
      at_setReg_ne _ _ _ _ _ (by rintro rfl; exact h1 rfl)]
  refine ⟨⟨?_, ?_, ?_, ?_, fun k hk => ?_, ?_, ?_⟩, fun l hl => ?_⟩
  · exact fld_whole ⟨rfl, rfl⟩ ((hreg _ (by decide) (by decide) _).trans hmin) (by decide)
  · exact fld_whole ⟨rfl, rfl⟩ ((hreg _ (by decide) (by decide) _).trans (hzero _ (by simp))) (by decide)
  · exact fld_whole ⟨rfl, rfl⟩ ((hreg _ (by decide) (by decide) _).trans (hzero _ (by simp))) (by decide)
  · rw [Dev.pair, hreg _ (by decide) (by decide), hreg _ (by decide) (by decide), hzero _ (by simp), hzero _ (by simp)]
    rfl
  · exact fld_whole ⟨rfl, rfl⟩ ((hat _ (show RegId.MON_BIN ≠ .MON_STAT by decide)).trans (hbin0 k hk)) (by decide)
  · rw [hdef, fld_setFld_apart _ _ _ _ _ _ (by decide) (by decide), fld_setFld _ _ _ _ (by decide)]
    rfl
  · rw [hdef, fld_setFld _ _ _ _ (by decide)]
    rfl
  · have hl' := hl
    simp only [monResults, List.mem_cons, List.not_mem_nil, or_false, not_or] at hl'
    obtain ⟨-, -, -, -, -, h6, h7⟩ := hl'
    exact (hat l h7).trans ((hbin l h6).trans (hout l hl))

/-- A level sample goes into the results of its slot (R443, R444). -/
theorem monPut_effect (d : Dev) (x s v : Nat) (hkind : isLatency (d.fld MON_SRC.KIND 0 (slotIx x s)) = false) (hv : v < 2 ^ 32) :
    let i := slotIx x s; let e := d.monPut x s v
    e.fld MON_MIN.MIN 0 i = min (d.fld MON_MIN.MIN 0 i) v ∧ e.fld MON_MAX.MAX 0 i = max (d.fld MON_MAX.MAX 0 i) v ∧
      e.fld MON_COUNT.COUNT 0 i = min (d.fld MON_COUNT.COUNT 0 i + 1) (2 ^ 32 - 1) ∧
      e.pair .MON_SUM_LO .MON_SUM_HI 0 i = min (d.pair .MON_SUM_LO .MON_SUM_HI 0 i + v) (2 ^ 64 - 1) ∧
      (∀ k : Nat, k < 16 → e.fld MON_BIN.HITS 0 (16 * i + k) =
        if k = (if v = 0 then 0 else min 15 (Nat.log2 v + 1)) then min (d.fld MON_BIN.HITS 0 (16 * i + k) + 1) (2 ^ 32 - 1)
        else d.fld MON_BIN.HITS 0 (16 * i + k)) ∧
      (d.fld MON_THRESH.THRESH 0 i ≠ 0 → d.fld MON_THRESH.THRESH 0 i < v → e.fld MON_STAT.OVER 0 i = 1) ∧
      (d.fld MON_THRESH.THRESH 0 i = 0 ∨ v ≤ d.fld MON_THRESH.THRESH 0 i → e.fld MON_STAT.OVER 0 i = d.fld MON_STAT.OVER 0 i) := by
  dsimp only
  have hmin : min v (2 ^ 32 - 1) = v := by omega
  have hbin : binOf (d.fld MON_SRC.KIND 0 (slotIx x s)) v = if v = 0 then 0 else min 15 (Nat.log2 v + 1) := by
    rw [binOf, hkind]
    simp
  generalize hi : slotIx x s = i at *
  generalize hb : (if v = 0 then 0 else min 15 (Nat.log2 v + 1)) = b at *
  obtain ⟨c, hc⟩ : ∃ c, c = ((((d.setReg .MON_MIN 0 i (BitVec.ofNat 32 (min (d.fld MON_MIN.MIN 0 i) v))).setReg .MON_MAX 0 i
      (BitVec.ofNat 32 (max (d.fld MON_MAX.MAX 0 i) v))).setReg .MON_COUNT 0 i (BitVec.ofNat 32 (satInc (d.fld MON_COUNT.COUNT 0 i) (2 ^ 32 - 1)))).setReg
      .MON_BIN 0 (16 * i + b) (BitVec.ofNat 32 (satInc (d.fld MON_BIN.HITS 0 (16 * i + b)) (2 ^ 32 - 1)))).setPair .MON_SUM_LO .MON_SUM_HI 0 i
      (min (d.pair .MON_SUM_LO .MON_SUM_HI 0 i + v) (2 ^ 64 - 1)) := ⟨_, rfl⟩
  obtain ⟨Q, hdef⟩ : ∃ (Q : Prop) (_ : Decidable Q), d.monPut x s v = (fun e : Dev => if e.fld MON_THRESH.THRESH 0 i != 0 && decide (e.fld MON_THRESH.THRESH 0 i < v)
      then e.status MON_STAT.OVER 0 i evMon x (64 * x + s) else e) (if Q then c.setFld MON_STAT.SAT 0 i 1 else c) := by
    rw [Dev.monPut, hi, hmin, hbin, hc]
    exact ⟨_, _, rfl⟩
  obtain ⟨hQ, hdef⟩ := hdef
  obtain ⟨g, hg⟩ : ∃ g, g = if Q then c.setFld MON_STAT.SAT 0 i 1 else c := ⟨_, rfl⟩
  rw [← hg] at hdef
  replace hdef : d.monPut x s v = if g.fld MON_THRESH.THRESH 0 i != 0 && decide (g.fld MON_THRESH.THRESH 0 i < v)
      then g.status MON_STAT.OVER 0 i evMon x (64 * x + s) else g := hdef
  have hreg : ∀ r : RegId, r ≠ .MON_STAT → ∀ j, g.reg r 0 j = c.reg r 0 j := fun r hr j => by
    rw [hg]
    split
    · exact Dev.at_setFld_ne _ _ _ _ _ (by simp [hr])
    · rfl
  have hover : g.fld MON_STAT.OVER 0 i = c.fld MON_STAT.OVER 0 i := by
    rw [hg]
    split
    · exact fld_setFld_apart _ _ _ _ _ _ (by decide) (by decide)
    · rfl
  have hat : ∀ r : RegId, r ≠ .MON_STAT → ∀ j, (d.monPut x s v).reg r 0 j = c.reg r 0 j := fun r hr j => by
    rw [hdef]
    split
    · exact (Dev.at_status_ne _ _ _ _ _ _ _ (by simp [hr])).trans (hreg r hr j)
    · exact hreg r hr j
  have hkeep : ∀ r : RegId, r ∉ [RegId.MON_MIN, .MON_MAX, .MON_COUNT, .MON_BIN, .MON_SUM_LO, .MON_SUM_HI] → ∀ j, c.reg r 0 j = d.reg r 0 j := fun r hr j => by
    simp only [List.mem_cons, List.not_mem_nil, or_false, not_or] at hr
    obtain ⟨h1, h2, h3, h4, h5, h6⟩ := hr
    rw [hc, Dev.setPair, reg_setReg_ne _ _ _ _ _ _ h6, reg_setReg_ne _ _ _ _ _ _ h5, reg_setReg_ne _ _ _ _ _ _ h4, reg_setReg_ne _ _ _ _ _ _ h3,
      reg_setReg_ne _ _ _ _ _ _ h2, reg_setReg_ne _ _ _ _ _ _ h1]
  have hthresh : g.fld MON_THRESH.THRESH 0 i = d.fld MON_THRESH.THRESH 0 i :=
    fld_of_at ((hreg _ (by decide) i).trans (hkeep _ (by decide) i))
  rw [hthresh] at hdef
  have hlt : ∀ f : Fld, f.hi = 31 ∧ f.lo = 0 → ∀ j, d.fld f 0 j < 2 ^ 32 := fun f hf j => by
    rw [Dev.fld, bitsOf, hf.1, hf.2]
    exact Nat.mod_lt _ (by decide)
  refine ⟨fld_whole ⟨rfl, rfl⟩ ((hat _ (by decide) i).trans ?_) (by omega), fld_whole ⟨rfl, rfl⟩ ((hat _ (by decide) i).trans ?_) ?_,
    fld_whole ⟨rfl, rfl⟩ ((hat _ (by decide) i).trans ?_) (Nat.lt_of_le_of_lt (Nat.min_le_right _ _) (by decide)), ?_, fun k hk => ?_, fun h0 hl => ?_, fun h => ?_⟩
  · rw [hc, Dev.setPair, reg_setReg_ne _ _ _ _ _ _ (by decide), reg_setReg_ne _ _ _ _ _ _ (by decide), reg_setReg_ne _ _ _ _ _ _ (by decide),
      reg_setReg_ne _ _ _ _ _ _ (by decide), reg_setReg_ne _ _ _ _ _ _ (by decide), reg_setReg_same]
  · rw [hc, Dev.setPair, reg_setReg_ne _ _ _ _ _ _ (by decide), reg_setReg_ne _ _ _ _ _ _ (by decide), reg_setReg_ne _ _ _ _ _ _ (by decide),
      reg_setReg_ne _ _ _ _ _ _ (by decide), reg_setReg_same]
  · exact max_lt (hlt _ ⟨rfl, rfl⟩ _) hv
  · rw [hc, Dev.setPair, reg_setReg_ne _ _ _ _ _ _ (by decide), reg_setReg_ne _ _ _ _ _ _ (by decide), reg_setReg_ne _ _ _ _ _ _ (by decide),
      reg_setReg_same, satInc_eq (Nat.le_sub_one_of_lt (hlt _ ⟨rfl, rfl⟩ _))]
  · rw [Dev.pair, hat _ (by decide), hat _ (by decide), hc]
    exact pair_setPair _ (by decide) (by omega)
  · have hbinreg : ∀ j, c.reg .MON_BIN 0 j = if j = 16 * i + b then BitVec.ofNat 32 (satInc (d.fld MON_BIN.HITS 0 (16 * i + b)) (2 ^ 32 - 1))
        else d.reg .MON_BIN 0 j := fun j => by
      rw [hc, Dev.setPair, reg_setReg_ne _ _ _ _ _ _ (by decide), reg_setReg_ne _ _ _ _ _ _ (by decide)]
      split
      next h => rw [h, reg_setReg_same]
      next h =>
        refine (at_setReg_ne _ _ _ _ _ (by simp [h])).trans ?_
        exact (reg_setReg_ne _ _ _ _ _ _ (by decide)).trans ((reg_setReg_ne _ _ _ _ _ _ (by decide)).trans (reg_setReg_ne _ _ _ _ _ _ (by decide)))
    split
    next h =>
      refine fld_whole ⟨rfl, rfl⟩ ((hat _ (by decide) _).trans ?_) (Nat.lt_of_le_of_lt (Nat.min_le_right _ _) (by decide))
      rw [hbinreg, h, if_pos rfl, satInc_eq (Nat.le_sub_one_of_lt (hlt _ ⟨rfl, rfl⟩ _))]
    next h => exact fld_of_at ((hat _ (by decide) _).trans ((hbinreg _).trans (if_neg (by omega))))
  · rw [hdef, if_pos (by simp [h0, hl]), fld_status _ _ _ _ _ _ (by decide)]
  · rw [hdef, if_neg (by simp only [Bool.and_eq_true, bne_iff_ne, decide_eq_true_eq]; omega), hover]
    exact fld_of_at (hkeep _ (by decide) i)

/-! What software writes -/

theorem slot_lt {x s n : Nat} (hs : s < 64) (hx : x < n) (hn : n ≤ 8) : slotIx x s < 512 ∧ slotIx x s / 64 = x ∧ slotIx x s % 64 = s := by
  rw [slotIx]
  omega

theorem fits_slot {r : RegId} {x s n : Nat} (hb : r.spec.block = .pkg) (hd : dimCount r.spec.dims = 512) (hp : ∀ i, r.present n i = decide (i < 64 * n))
    (hs : s < 64) (hx : x < n) (hn : n ≤ 8) : Loc.fits ⟨r, 0, slotIx x s⟩ n = true :=
  fits_pkg hb (hd ▸ (slot_lt hs hx hn).1) (by rw [hp, slotIx, decide_eq_true_eq]; omega)

/-- What a write of a slot's register sets in motion. -/
theorem writeHook_slot (d : Dev) (L : Locks) (src : Src) {x s : Nat} (b : Bool) (v0 v : Word) (hs : s < 64) :
    d.writeHook L src ⟨.MON_CTL, 0, slotIx x s⟩ b v0 v = (false, if v.getLsbD 29 then d.monClear x s else d) ∧
      d.writeHook L src ⟨.MON_SRC, 0, slotIx x s⟩ b v0 v = (false, d.monSource x s v.toNat) := by
  have hd : slotIx x s / 64 = x := by rw [slotIx]; omega
  have hm : slotIx x s % 64 = s := by rw [slotIx]; omega
  simp only [Dev.writeHook, hd, hm, and_self]

/-- A field whose bits a write repeats keeps its value. -/
theorem fld_commanded_kept {d : Dev} (src : Src) (f : Fld) {u i : Nat} (b : Bool) {v : Word}
    (h : ∀ k, k < f.hi + 1 - f.lo → v.getLsbD (f.lo + k) = (d.at ⟨f.reg, u, i⟩).getLsbD (f.lo + k)) :
    (d.commanded src ⟨f.reg, u, i⟩ b v).fld f u i = d.fld f u i := by
  have hat := at_stored_same (d.written src ⟨f.reg, u, i⟩) ⟨f.reg, u, i⟩ ((d.written src ⟨f.reg, u, i⟩).setMask src ⟨f.reg, u, i⟩ b) v
  rw [Dev.fld, Dev.reg, Dev.commanded, hat, Dev.fld, Dev.reg]
  apply Nat.eq_of_testBit_eq
  intro k
  rw [bitsOf_testBit, bitsOf_testBit]
  by_cases hk : k < f.hi + 1 - f.lo
  · rw [getLsbD_merged, h k hk, Dev.written, served_at, ite_self]
  · simp [hk]

/-- CLEAR, written to the control register of a slot. -/
theorem swCmd_monCtl {d : Dev} {L : Locks} {src : Src} {x s at_ : Nat} (hs : s < 64) (hx : x < d.n) (hg : d.lets src ⟨.MON_CTL, 0, slotIx x s⟩ = true) :
    ∃ c : Dev, d.swCmd L src ⟨.MON_CTL, 0, slotIx x s⟩ (fun c => putBits c 29 29 1) at_ = (c.monClear x s).answered src ∧
      c.fld MON_CTL.EN 0 (slotIx x s) = d.fld MON_CTL.EN 0 (slotIx x s) := by
  refine ⟨d.commanded src ⟨.MON_CTL, 0, slotIx x s⟩ (lockOf L ⟨.MON_CTL, 0, slotIx x s⟩) (putBits (d.at ⟨.MON_CTL, 0, slotIx x s⟩ &&&
        RegId.MON_CTL.maskWhere fun f => f.ty == .rw || f.ty == .lk) 29 29 1),
    (swCmd_open (fits_slot rfl rfl (fun _ => rfl) hs hx (n_le_eight d)) (show RegId.MON_CTL.open = true by decide) hg).trans ?_,
    fld_commanded_kept src MON_CTL.EN _ fun k hk => ?_⟩
  · dsimp only
    rw [(writeHook_slot _ L src _ _ _ hs).1, if_neg Bool.false_ne_true, getLsbD_putBits_set _ (by decide) (by decide)]
    rfl
  · have hk0 : k = 0 := by simp at hk; omega
    rw [hk0, putBits_getLsbD, if_neg (by simp), BitVec.getLsbD_and,
      show (RegId.MON_CTL.maskWhere fun f => f.ty == .rw || f.ty == .lk).getLsbD (MON_CTL.EN.lo + 0) = true by decide, Bool.and_true]

/-- A write of the source of a slot. -/
theorem busWrite_monSrc {d : Dev} {L : Locks} {src : Src} {x s v at_ : Nat} (hs : s < 64) (hx : x < d.n) (hv : v < 2 ^ 32)
    (hg : d.lets src ⟨.MON_SRC, 0, slotIx x s⟩ = true) :
    ∃ b, d.busWrite L src (Loc.offset ⟨.MON_SRC, 0, slotIx x s⟩) 4 15 v at_ =
      ((d.commanded src ⟨.MON_SRC, 0, slotIx x s⟩ b (BitVec.ofNat 32 v)).monSource x s v).answered src := by
  have hto : (BitVec.ofNat 32 v).toNat = v := by rw [BitVec.toNat_ofNat, Nat.mod_eq_of_lt hv]
  have hcmd : d.busWrite L src (Loc.offset ⟨.MON_SRC, 0, slotIx x s⟩) 4 15 v at_ = d.swCmd L src ⟨.MON_SRC, 0, slotIx x s⟩ (fun _ => BitVec.ofNat 32 v) at_ := by
    rw [Dev.swCmd, hto]
  refine ⟨lockOf L ⟨.MON_SRC, 0, slotIx x s⟩,
    hcmd.trans ((swCmd_open (fits_slot rfl rfl (fun _ => rfl) hs hx (n_le_eight d)) (show RegId.MON_SRC.open = true by decide) hg).trans ?_)⟩
  dsimp only
  rw [(writeHook_slot _ L src _ _ _ hs).2, if_neg Bool.false_ne_true, hto]

theorem pair_answered (d : Dev) (src : Src) (lo hi : RegId) (u i : Nat) : (d.answered src).pair lo hi u i = d.pair lo hi u i := by
  simp only [Dev.pair, Dev.reg, at_answered]

/-- The results of a slot are empty. -/
def Dev.SlotCleared (e : Dev) (i : Nat) : Prop :=
  e.fld MON_MIN.MIN 0 i = 2 ^ 32 - 1 ∧ e.fld MON_MAX.MAX 0 i = 0 ∧ e.fld MON_COUNT.COUNT 0 i = 0 ∧ e.pair .MON_SUM_LO .MON_SUM_HI 0 i = 0 ∧
    (∀ k : Nat, k < 16 → e.fld MON_BIN.HITS 0 (16 * i + k) = 0) ∧ e.fld MON_STAT.OVER 0 i = 0 ∧ e.fld MON_STAT.SAT 0 i = 0

theorem slotCleared_answered {e : Dev} {i : Nat} (src : Src) (h : e.SlotCleared i) : (e.answered src).SlotCleared i := by
  obtain ⟨h1, h2, h3, h4, h5, h6, h7⟩ := h
  exact ⟨(fld_answered ..).trans h1, (fld_answered ..).trans h2, (fld_answered ..).trans h3, (pair_answered ..).trans h4,
    fun k hk => (fld_answered ..).trans (h5 k hk), (fld_answered ..).trans h6, (fld_answered ..).trans h7⟩

/-- The source of a slot that has been written (R447). -/
theorem monSource_effect (d : Dev) (x s : Nat) {v : Nat} (hv : v < 2 ^ 32) :
    (d.monSource x s v).SlotCleared (slotIx x s) ∧
      (d.monSource x s v).fld MON_SRC.KIND 0 (slotIx x s) = v / 2 ^ 28 ∧ (d.monSource x s v).fld MON_SRC.NUM 0 (slotIx x s) = v % 4096 := by
  obtain ⟨c, hc⟩ : ∃ c, c = (d.setFld MON_SRC.KIND 0 (slotIx x s) (v / 2 ^ 28)).setFld MON_SRC.NUM 0 (slotIx x s) v := ⟨_, rfl⟩
  obtain ⟨e, he⟩ : ∃ e : Dev, e = { c with monFrom := c.monFrom.set 0 ⟨x, s, 0⟩ c.nextId } := ⟨_, rfl⟩
  have hdef : d.monSource x s v = e.monClear x s := by rw [he, hc]; rfl
  obtain ⟨hclear, hout⟩ := monClear_effect e x s
  have hat : ∀ f : Fld, f.reg = .MON_SRC → (d.monSource x s v).fld f 0 (slotIx x s) = c.fld f 0 (slotIx x s) := fun f hf => by
    rw [hdef]
    refine (fld_of_at (hout _ (show f.reg ∉ monResults by rw [hf]; decide))).trans ?_
    rw [he]
    exact fld_of_at rfl
  rw [hat _ rfl, hat _ rfl, hc, fld_setFld_apart _ _ _ _ _ _ (by decide) (by decide), fld_setFld _ _ _ _ (by decide), fld_setFld _ _ _ _ (by decide)]
  exact ⟨by rw [hdef]; exact hclear, Nat.mod_eq_of_lt (show v / 2 ^ 28 < 2 ^ 4 from Nat.div_lt_of_lt_mul hv), rfl⟩

/-- What a level slot sees (R443). -/
theorem monLevel_value {d : Dev} {x slot v : Nat}
    (h : (if d.fld MON_SRC.KIND 0 (slotIx x slot) = 6 ∧ d.fld MON_SRC.NUM 0 (slotIx x slot) < 63 then
        some (d.queue x (d.fld MON_SRC.NUM 0 (slotIx x slot))).items.length
      else if d.fld MON_SRC.KIND 0 (slotIx x slot) = 7 ∧ d.fld MON_SRC.NUM 0 (slotIx x slot) < 1024 ∧
          d.fld RING_CTL.HOME_DIE x (d.fld MON_SRC.NUM 0 (slotIx x slot)) = x then
        some ((d.posted (d.fld MON_SRC.NUM 0 (slotIx x slot)) + 65536 - d.cplWr (d.fld MON_SRC.NUM 0 (slotIx x slot))) % 65536)
      else none) = some v) :
    d.monLevel x slot = d.monRecord x slot v ∧ isLatency (d.fld MON_SRC.KIND 0 (slotIx x slot)) = false := by
  generalize hnum : d.fld MON_SRC.NUM 0 (slotIx x slot) = num at h
  split at h
  next h6 =>
    obtain ⟨hk, hn⟩ := h6
    cases h
    refine ⟨?_, by rw [hk]; rfl⟩
    simp only [Dev.monLevel, hk, hnum]
    rw [if_pos (by omega), if_neg (by omega)]
  next =>
    split at h
    next h7 =>
      obtain ⟨hk, hn, hh⟩ := h7
      cases h
      refine ⟨?_, by rw [hk]; rfl⟩
      simp only [Dev.monLevel, hk, hnum]
      rw [if_pos (by simp [hn, hh])]
      rfl
    next => exact absurd h (by simp)

theorem monLevel_off {d : Dev} {x slot : Nat} (h : d.flag MON_CTL.EN 0 (slotIx x slot) = false ∨
    d.fld MON_SRC.KIND 0 (slotIx x slot) ≠ 6 ∧ d.fld MON_SRC.KIND 0 (slotIx x slot) ≠ 7) : d.monLevel x slot = d := by
  have hoff : d.flag MON_CTL.EN 0 (slotIx x slot) = false → ∀ v, d.monRecord x slot v = d := fun h v => by
    rw [Dev.monRecord, h]
    rfl
  unfold Dev.monLevel
  dsimp only
  split
  next h6 =>
    split
    · exact hoff (h.resolve_right fun h => h.1 h6) _
    · rfl
  next h7 =>
    split
    · exact hoff (h.resolve_right fun h => h.2 h7) _
    · rfl
  next => rfl

/-- Settles O48. -/
theorem monitorsAndScan : Obligations.MonitorsAndScan := by
  unfold Obligations.MonitorsAndScan
  refine ⟨fun s src x slot hslot hx => ?_, fun s x => ?_⟩
  · dsimp only
    refine ⟨fun hr => ?_, fun v hv hen hlt hr => ?_, fun h => ?_, fun hg => ?_, fun v hv hg => ?_⟩
    · exact State.doesOnly_performAlone (by dsimp only [exec]; rfl) (timed_runs hr _)
    · obtain ⟨hlev, hkind⟩ := monLevel_value hv
      refine ⟨fun hf => State.doesJust_performAlone (by dsimp only [exec]; rfl) ?_, fun hf => State.doesOnly_performAlone (by dsimp only [exec]; rfl) ?_⟩
      · rw [timed_runs hr, hlev, Dev.monRecord, hen, hf]
        exact monPut_effect s.dev x slot v hkind hlt
      · rw [timed_runs hr, hlev, Dev.monRecord, hen, hf]
        rfl
    · exact State.doesOnly_performAlone (by dsimp only [exec]; rfl) (timed_id x (monLevel_off h))
    · refine State.doesSome_perform (by dsimp only [exec]; rfl) ?_
      obtain ⟨c, hc, hen⟩ := swCmd_monCtl (L := s.locks) (at_ := 255) hslot hx hg
      rw [hc]
      obtain ⟨hclear, hout⟩ := monClear_effect c x slot
      have hkeep : ((c.monClear x slot).answered src).fld MON_CTL.EN 0 (slotIx x slot) = s.dev.fld MON_CTL.EN 0 (slotIx x slot) :=
        (fld_answered ..).trans ((fld_of_at (f := MON_CTL.EN) (hout _ (show RegId.MON_CTL ∉ monResults by decide))).trans hen)
      exact ⟨slotCleared_answered src hclear, congrArg (· != 0) hkeep⟩
    · refine State.doesSome_perform (by dsimp only [exec]; rfl) ?_
      obtain ⟨b, hb⟩ := busWrite_monSrc (L := s.locks) (at_ := 255) hslot hx hv hg
      rw [hb]
      obtain ⟨hclear, hk, hn⟩ := monSource_effect (s.dev.commanded src ⟨.MON_SRC, 0, slotIx x slot⟩ b (BitVec.ofNat 32 v)) x slot hv
      exact ⟨slotCleared_answered src hclear, (fld_answered ..).trans hk, (fld_answered ..).trans hn⟩
  · dsimp only
    have hscan : ∀ (i : Instr) (code : Nat) (r : ScanReg) (v : Nat), exec i s = performAlone i s (fun d => d.scan x code) →
        scanReg s.dev.fen.asserted code = r → (if r = .idcode then s.dev.idcodeOf x else 0) = v →
        s.DoesJust i fun e => e.scanIr.get 2 ⟨x, 0, 0⟩ = code ∧ e.out = s.dev.out ++ [.scan x r v] ∧ ∀ l : Loc, e.at l = s.dev.at l :=
      fun i code r v hx hr hv => State.doesJust_performAlone hx
        ⟨Store.get_set_same 2 ⟨x, 0, 0⟩ code s.dev.scanIr, by rw [← hv, ← hr]; rfl, fun _ => rfl⟩
    refine ⟨hscan _ _ _ _ (by dsimp only [exec]; rfl) rfl ?_, hscan _ _ _ _ (by dsimp only [exec]; rfl) rfl rfl,
      hscan _ _ _ _ (by dsimp only [exec]; rfl) rfl rfl, hscan _ _ _ _ (by dsimp only [exec]; rfl) rfl ?_,
      hscan _ _ _ _ (by dsimp only [exec]; rfl) rfl ?_, hscan _ _ _ _ (by dsimp only [exec]; rfl) rfl rfl⟩ <;>
      exact if_neg (by split <;> decide)

end Sys2Proof.Machine

/-! ## The power of the magazine ports (R408 to R412) and temperature (R406) -/

namespace Sys2Proof.Machine

/-! What the loss of a link leaves -/

/-- The registers of a link's state. -/
def linkRegs : List RegId := [.BB_LANE_STAT, .BB_LINK_STAT, .BB_LINK_EVENT, .BB_LINK_ERR]

/-- Nothing of a magazine port changed, and nothing emitted was taken back. -/
structure LinkOnly (d e : Dev) : Prop where
  regs : ∀ l : Loc, l.reg ∉ linkRegs → e.at l = d.at l
  mags : e.magPorts = d.magPorts
  out : ∀ o ∈ d.out, o ∈ e.out

theorem LinkOnly.refl (d : Dev) : LinkOnly d d := ⟨fun _ _ => rfl, rfl, fun _ ho => ho⟩

theorem LinkOnly.trans {d e c : Dev} (h : LinkOnly d e) (h' : LinkOnly e c) : LinkOnly d c :=
  ⟨fun l hl => (h'.regs l hl).trans (h.regs l hl), h'.mags.trans h.mags, fun o ho => h'.out o (h.out o ho)⟩

theorem linkOnly_setFld (d : Dev) {f : Fld} (u i v : Nat) (hf : f.reg ∈ linkRegs) : LinkOnly d (d.setFld f u i v) :=
  ⟨fun _ hl => Dev.at_setFld_ne _ _ _ _ _ (by rintro rfl; exact hl hf), rfl, fun _ ho => ho⟩

theorem linkOnly_raise (d : Dev) (x cls : Nat) (k : Loc) (b src : Nat) : LinkOnly d (d.raise x cls k b src) :=
  ⟨fun _ _ => at_raise .., rfl, fun _ ho => ho⟩

theorem linkOnly_emit (d : Dev) (o : Out) : LinkOnly d (d.emit o) := ⟨fun _ _ => rfl, rfl, fun _ ho => List.mem_append_left _ ho⟩

theorem linkOnly_note (d : Dev) (n : Note) : LinkOnly d (d.note n) := ⟨fun _ _ => rfl, rfl, fun _ ho => ho⟩

theorem linkOnly_modLink (d : Dev) (p : Nat) (f : Link → Link) : LinkOnly d (d.modLink p f) := ⟨fun _ _ => rfl, rfl, fun _ ho => ho⟩

theorem linkOnly_linkEvent (d : Dev) {f : Fld} (p : Nat) (hf : f.reg ∈ linkRegs) : LinkOnly d (d.linkEvent f p) := by
  unfold Dev.linkEvent Dev.status
  split
  · exact LinkOnly.refl d
  · exact (linkOnly_setFld d _ _ _ hf).trans (linkOnly_raise ..)

theorem linkOnly_setLstate (d : Dev) (p st : Nat) : LinkOnly d (d.setLstate p st) := by
  have h : ∀ v, LinkOnly d ((d.setFld BB_LINK_STAT.STATE p 0 st).setFld BB_LINK_STAT.UP p 0 v) := fun v =>
    (linkOnly_setFld d p 0 st (by decide)).trans (linkOnly_setFld _ p 0 v (by decide))
  unfold Dev.setLstate
  dsimp only
  split
  · exact h _
  · exact (h _).trans (linkOnly_setFld _ (f := BB_LINK_STAT.WIDTH) p 0 0 (by decide))

theorem linkOnly_fallBack (d : Dev) (p : Nat) : LinkOnly d (d.fallBack p) := by
  unfold Dev.fallBack
  split
  · exact (((linkOnly_setFld d (f := BB_LINK_STAT.LOOP) p 0 0 (by decide)).trans (linkOnly_setFld _ (f := BB_LINK_STAT.FALLBACK) p 0 1 (by decide))).trans
      (linkOnly_linkEvent _ p (by decide))).trans (linkOnly_emit ..)
  · exact LinkOnly.refl d

theorem linkOnly_lane0Leaves (d : Dev) (p : Nat) : LinkOnly d (d.lane0Leaves p) := by
  unfold Dev.lane0Leaves
  split
  · exact LinkOnly.refl d
  · exact LinkOnly.refl d
  · exact linkOnly_fallBack d p

theorem linkOnly_sendSyns (d : Dev) (p st : Nat) : LinkOnly d (d.sendSyns p st) := by
  have h : ∀ (ks : List Nat) (e : Dev), LinkOnly e (ks.foldl (fun d k => d.emit (.syn p k (d.synOf p st k))) e) := by
    intro ks
    induction ks with
    | nil => exact LinkOnly.refl
    | cons k ks ih => exact fun e => (linkOnly_emit e _).trans (ih _)
  exact (h (List.range 8) d).trans (linkOnly_modLink ..)

theorem linkOnly_retrainEnter (d : Dev) (p cap : Nat) (drop : Bool) : LinkOnly d (d.retrainEnter p cap drop) := by
  unfold Dev.retrainEnter
  dsimp only
  split
  · refine LinkOnly.trans (LinkOnly.trans (LinkOnly.trans (LinkOnly.trans ?_ (linkOnly_setLstate ..))
      (linkOnly_setFld _ (f := BB_LANE_STAT.ACTIVE) p 0 0 (by decide))) (linkOnly_lane0Leaves ..)) (linkOnly_sendSyns ..)
    have hact : ∀ w g, LinkOnly d (if d.lstate p = lsActive then
        (((d.bump BB_LINK_ERR.RETRAINS p).linkEvent BB_LINK_EVENT.RETRAINED p).modLink p fun l => { l with prevWidth := w, prevGroup := g }).note (.portLeft p)
        else d) := fun w g => by
      split
      · exact (((linkOnly_setFld d (f := BB_LINK_ERR.RETRAINS) p 0 _ (by decide)).trans (linkOnly_linkEvent _ p (by decide))).trans
          (linkOnly_modLink ..)).trans (linkOnly_note ..)
      · exact LinkOnly.refl d
    split
    · exact ((hact _ _).trans (linkOnly_modLink ..)).trans (linkOnly_linkEvent _ p (by decide))
    · exact (hact _ _).trans (linkOnly_modLink ..)
  · exact LinkOnly.refl d

/-! The states of a port -/

theorem mp_modMp (d : Dev) (p : Nat) (f : MagPort → MagPort) : (d.modMp p f).mp p = f (d.mp p) := by
  rw [Dev.mp, Dev.modMp, Store.get_set_same]

theorem mp_of_mags {d e : Dev} (h : e.magPorts = d.magPorts) (p : Nat) : e.mp p = d.mp p := by rw [Dev.mp, Dev.mp, h]

/-- The registers that a change of a port's power state leaves. -/
def powerRegs : List RegId := .PWR_MP_STAT :: linkRegs

/-- The gate of a state is driven: in RAMP and ON. -/
def mpGate (st : Nat) : Bool := st == mpRamp || st == mpOn

/-- A port that changes its power state (R408, R409). -/
theorem mpGo_effect (d : Dev) (p : Nat) {st : Nat} (hst : st < 8) :
    let e := d.mpGo p st
    e.mpState p = st ∧ (∀ l : Loc, l.reg ∉ powerRegs → e.at l = d.at l) ∧
      (∀ f : Fld, f.reg = .PWR_MP_STAT → PWR_MP_STAT.STATE.apart f = true → e.fld f (dieOf p) (p % 8) = d.fld f (dieOf p) (p % 8)) ∧
      (e.mp p).present = (d.mp p).present ∧ (e.mp p).clear = (d.mp p).clear ∧ (st ≠ mpRamp → (e.mp p).low = (d.mp p).low) ∧
      (∀ o ∈ d.out, o ∈ e.out) ∧ (mpGate (d.mpState p) ≠ mpGate st → Out.gate p (mpGate st) ∈ e.out) := by
  by_cases hold : d.mpState p = st
  · have hdef : d.mpGo p st = d := if_pos hold
    rw [hdef]
    exact ⟨hold, fun _ _ => rfl, fun _ _ _ => rfl, rfl, rfl, fun _ => rfl, fun _ ho => ho, fun h => absurd (congrArg mpGate hold) h⟩
  obtain ⟨a, ha⟩ : ∃ a, a = if st = mpRamp then d.modMp p fun m => { m with low := false } else d := ⟨_, rfl⟩
  obtain ⟨b, hb⟩ : ∃ b, b = (a.setFld PWR_MP_STAT.STATE (dieOf p) (p % 8) st).raise (dieOf p) evPower ⟨.PWR_MP_STAT, dieOf p, p % 8⟩ 29 p := ⟨_, rfl⟩
  obtain ⟨c, hc⟩ : ∃ c, c = if mpGate (d.mpState p) != mpGate st then b.emit (.gate p (mpGate st)) else b := ⟨_, rfl⟩
  have hlink : LinkOnly c (d.mpGo p st) := by
    have hgo : ∀ g : Dev, LinkOnly g (if (d.mpState p = mpOn && g.active? p) = true then
        (((g.setFld BB_LANE_STAT.LOCK p 0 0).setFld BB_LANE_STAT.BAD p 0 255).fallBack p).retrainEnter p 0 false else g) := fun g => by
      split
      · exact (((linkOnly_setFld g p 0 0 (by decide)).trans (linkOnly_setFld _ p 0 255 (by decide))).trans (linkOnly_fallBack ..)).trans
          (linkOnly_retrainEnter ..)
      · exact LinkOnly.refl g
    have hdsch : ∀ P : Prop, ∀ [Decidable P], ∀ v, LinkOnly c (if P then c.emit (.dsch p v) else c) := fun P _ v => by
      split
      · exact linkOnly_emit ..
      · exact LinkOnly.refl c
    rw [Dev.mpGo, if_neg hold, ha.symm]
    refine LinkOnly.trans ?_ (hgo _)
    rw [hc, hb] at hdsch ⊢
    exact hdsch _ _
  have hmp : (a.mp p).present = (d.mp p).present ∧ (a.mp p).clear = (d.mp p).clear ∧ (st ≠ mpRamp → (a.mp p).low = (d.mp p).low) := by
    rw [ha]
    split
    · rw [mp_modMp]
      exact ⟨rfl, rfl, fun h => absurd ‹_› h⟩
    · exact ⟨rfl, rfl, fun _ => rfl⟩
  have hat : ∀ l, a.at l = d.at l := fun l => by
    rw [ha]
    split <;> rfl
  have hout : a.out = d.out := by
    rw [ha]
    split <;> rfl
  have hbc : (∀ l, c.at l = b.at l) ∧ c.magPorts = b.magPorts ∧ (∀ o ∈ b.out, o ∈ c.out) ∧
      (mpGate (d.mpState p) ≠ mpGate st → Out.gate p (mpGate st) ∈ c.out) := by
    rw [hc]
    split
    next => exact ⟨fun _ => rfl, rfl, fun _ ho => List.mem_append_left _ ho, fun _ => List.mem_append_right _ (List.mem_singleton.mpr rfl)⟩
    next h => exact ⟨fun _ => rfl, rfl, fun _ ho => ho, fun hne => absurd (bne_iff_ne.mpr hne) h⟩
  obtain ⟨hcat, hcmags, hcout, hcgate⟩ := hbc
  have hba : ∀ l : Loc, l.reg ≠ .PWR_MP_STAT → b.at l = a.at l := fun l hl => by
    rw [hb, at_raise, Dev.at_setFld_ne _ _ _ _ _ (by rintro rfl; exact hl rfl)]
  have hmags : (d.mpGo p st).mp p = a.mp p := (mp_of_mags hlink.mags p).trans ((mp_of_mags hcmags p).trans (by rw [hb]; rfl))
  refine ⟨?_, fun l hl => ?_, fun f hf hst => ?_, by rw [hmags, hmp.1], by rw [hmags, hmp.2.1], by rw [hmags]; exact hmp.2.2,
    fun o ho => hlink.out o (hcout o (by rw [hb]; exact hout ▸ ho)), fun h => hlink.out _ (hcgate h)⟩
  · refine (fld_of_at (hlink.regs _ (show RegId.PWR_MP_STAT ∉ linkRegs by decide))).trans ((fld_of_at (hcat _)).trans ?_)
    rw [hb, fld_raise, fld_setFld _ _ _ _ (by decide)]
    exact Nat.mod_eq_of_lt hst
  · rw [powerRegs, List.mem_cons, not_or] at hl
    rw [hlink.regs l hl.2, hcat, hba l hl.1, hat]
  · refine (fld_of_at (hlink.regs _ (show f.reg ∉ linkRegs by rw [hf]; decide))).trans ((fld_of_at (hcat _)).trans ?_)
    rw [hb, fld_raise, fld_setFld_apart _ _ _ _ _ _ hst (by decide)]
    exact fld_of_at (hat _)

/-- The power conditions, where AUTO does not enable the port (R408). -/
theorem mpCheck_plain {d : Dev} {p : Nat} (h : d.flag PWR_MP_CTL.AUTO (dieOf p) (p % 8) = false ∨ d.mpState p ≠ mpOff) :
    d.mpCheck p = if d.mpWanted p then (if d.mpState p = mpOff && (d.mp p).low then d.mpGo p mpRamp else d)
      else if d.mpState p = mpRamp || d.mpState p = mpOn then d.mpGo p mpDischarging else d := by
  have hauto : (d.flag PWR_MP_CTL.AUTO (dieOf p) (p % 8) && d.mpState p == mpOff && (d.mp p).debounced && (d.mp p).present) = false := by
    rcases h with h | h <;> simp [h]
  rw [Dev.mpCheck, hauto]
  rfl

/-! What software writes -/

/-- The command that writes a register whose lock is open. -/
theorem swCmd_unlocked {d : Dev} {L : Locks} {src : Src} {l : Loc} {f : Word → Word} {at_ : Nat} (hf : l.fits d.n = true) (hp : l.reg.plain = true)
    (ho : l.reg.outside = true) (hk : lockOf L l = false) (hg : d.lets src l = true) :
    d.swCmd L src l f at_ =
      let v := f (d.at l &&& l.reg.maskWhere fun f => f.ty == .rw || f.ty == .lk)
      let r := (d.commanded src l false v).writeHook L src l false (d.at l) v
      (if r.1 then r.2.accErr src true 10 l.offset 4 else r.2).answered src := by
  rw [swCmd_plain hg (offset_word l) (locate_offset hf) (isCfg_outside ho) hp]
  simp only [Dev.lockHit, hk, Bool.false_and, Bool.and_false, Dev.commanded]
  exact congrArg (Dev.answered · src) (refused_or_done _ src l)

/-- What a write of a port's power control sets in motion, on a state that differs only by what the write stores. -/
theorem swCmd_mpCtl {d : Dev} {L : Locks} {src : Src} {p at_ : Nat} {f : Word → Word} (hp : p < 8 * d.n)
    (hk : lockOf L ⟨.PWR_MP_CTL, dieOf p, p % 8⟩ = false) (hg : d.lets src ⟨.PWR_MP_CTL, dieOf p, p % 8⟩ = true)
    (hauto : ∀ w, (f (w &&& RegId.PWR_MP_CTL.maskWhere fun f => f.ty == .rw || f.ty == .lk)).getLsbD 30 = w.getLsbD 30) :
    ∃ (c : Dev) (v : Word), v = f (d.at ⟨.PWR_MP_CTL, dieOf p, p % 8⟩ &&& RegId.PWR_MP_CTL.maskWhere fun f => f.ty == .rw || f.ty == .lk) ∧
      d.swCmd L src ⟨.PWR_MP_CTL, dieOf p, p % 8⟩ f at_ =
        (if v.getLsbD 0 then (c.mpEnable p (v.getLsbD 31)).mpClear p else c.mpEnable p (v.getLsbD 31)).answered src ∧
      (∀ f : Fld, f.reg = .PWR_MP_STAT → c.fld f (dieOf p) (p % 8) = d.fld f (dieOf p) (p % 8)) ∧ c.magPorts = d.magPorts ∧
      c.flag PWR_MP_CTL.AUTO (dieOf p) (p % 8) = d.flag PWR_MP_CTL.AUTO (dieOf p) (p % 8) := by
  have hx : dieOf p < d.n := by unfold dieOf; omega
  have ht : p % 8 < 8 := Nat.mod_lt _ (by decide)
  have hpp : 8 * dieOf p + p % 8 = p := by unfold dieOf; omega
  obtain ⟨v, hv⟩ : ∃ v, v = f (d.at ⟨.PWR_MP_CTL, dieOf p, p % 8⟩ &&& RegId.PWR_MP_CTL.maskWhere fun f => f.ty == .rw || f.ty == .lk) := ⟨_, rfl⟩
  refine ⟨d.commanded src ⟨.PWR_MP_CTL, dieOf p, p % 8⟩ false v, v, hv, (swCmd_unlocked (fits_die rfl ht rfl hx)
    (show RegId.PWR_MP_CTL.plain = true by decide) (show RegId.PWR_MP_CTL.outside = true by decide) hk hg).trans ?_, fun g hg => ?_, ?_, ?_⟩
  · rw [← hv]
    simp only [Dev.writeHook, hpp, Bool.false_eq_true, if_false]
  · exact fld_commanded _ _ _ _ _ _ _ _ (by rw [hg]; decide) (by rw [hg]; decide)
  · exact (commanded_of_regs Dev.magPorts (fun _ _ _ _ => rfl) _ _ _ _ _).trans rfl
  · refine congrArg (· != 0) (fld_commanded_kept src PWR_MP_CTL.AUTO false fun k hk => ?_)
    have hk0 : k = 0 := by simp at hk; omega
    rw [hk0, hv]
    exact hauto _

/-- The bits of the power control that a command repeats. -/
theorem mpCtl_repeats (w : Word) : (w &&& RegId.PWR_MP_CTL.maskWhere fun f => f.ty == .rw || f.ty == .lk).getLsbD 0 = false ∧
    (w &&& RegId.PWR_MP_CTL.maskWhere fun f => f.ty == .rw || f.ty == .lk).getLsbD 30 = w.getLsbD 30 ∧
    (w &&& RegId.PWR_MP_CTL.maskWhere fun f => f.ty == .rw || f.ty == .lk).getLsbD 31 = w.getLsbD 31 := by
  have h : (RegId.PWR_MP_CTL.maskWhere fun f => f.ty == .rw || f.ty == .lk).getLsbD 0 = false ∧
      (RegId.PWR_MP_CTL.maskWhere fun f => f.ty == .rw || f.ty == .lk).getLsbD 30 = true ∧
      (RegId.PWR_MP_CTL.maskWhere fun f => f.ty == .rw || f.ty == .lk).getLsbD 31 = true := by decide
  obtain ⟨h0, h30, h31⟩ := h
  simp only [BitVec.getLsbD_and, h0, h30, h31, Bool.and_false, Bool.and_true, and_self]

/-- A state that shows the same power state and conditions of a port. -/
structure SamePower (p : Nat) (d c : Dev) : Prop where
  stat : ∀ f : Fld, f.reg = .PWR_MP_STAT → c.fld f (dieOf p) (p % 8) = d.fld f (dieOf p) (p % 8)
  mags : c.magPorts = d.magPorts
  auto : c.flag PWR_MP_CTL.AUTO (dieOf p) (p % 8) = d.flag PWR_MP_CTL.AUTO (dieOf p) (p % 8)

theorem SamePower.state {p : Nat} {d c : Dev} (h : SamePower p d c) : c.mpState p = d.mpState p := h.stat _ rfl

theorem SamePower.mp {p : Nat} {d c : Dev} (h : SamePower p d c) : c.mp p = d.mp p := mp_of_mags h.mags p

theorem mem_answered_out {d : Dev} (src : Src) {o : Out} (h : o ∈ d.out) : o ∈ (d.answered src).out := by
  unfold Dev.answered
  repeat' split
  · exact h
  · exact List.mem_append_left _ h
  · exact List.mem_append_left _ h

/-- EN written. -/
theorem swCmd_mpEn {d : Dev} {L : Locks} {src : Src} {p : Nat} (en : Bool) (hp : p < 8 * d.n) (hk : lockOf L ⟨.PWR_MP_CTL, dieOf p, p % 8⟩ = false)
    (hg : d.lets src ⟨.PWR_MP_CTL, dieOf p, p % 8⟩ = true) :
    ∃ c : Dev, d.swCmd L src ⟨.PWR_MP_CTL, dieOf p, p % 8⟩ (fun c => putBits c 31 31 (if en then 1 else 0)) = (c.mpEnable p en).answered src ∧
      SamePower p d c := by
  have hbit : ∀ w : Word, (putBits w 31 31 (if en then 1 else 0)).getLsbD 31 = en ∧ ∀ k, k < 31 → (putBits w 31 31 (if en then 1 else 0)).getLsbD k = w.getLsbD k :=
    fun w => by
      refine ⟨?_, fun k hk => ?_⟩
      · rw [putBits_getLsbD]
        cases en <;> rfl
      · rw [putBits_getLsbD, if_neg (by omega)]
  obtain ⟨c, v, hv, h, h1, h2, h3⟩ := swCmd_mpCtl (L := L) (at_ := 255) (f := fun c => putBits c 31 31 (if en then 1 else 0)) hp hk hg fun w => by
    rw [(hbit _).2 30 (by decide), (mpCtl_repeats w).2.1]
  refine ⟨c, h.trans ?_, h1, h2, h3⟩
  rw [hv, (hbit _).1, (hbit _).2 0 (by decide), (mpCtl_repeats _).1]
  rfl

/-- CLEAR written: EN stays. -/
theorem swCmd_mpClear {d : Dev} {L : Locks} {src : Src} {p : Nat} (hp : p < 8 * d.n) (hk : lockOf L ⟨.PWR_MP_CTL, dieOf p, p % 8⟩ = false)
    (hg : d.lets src ⟨.PWR_MP_CTL, dieOf p, p % 8⟩ = true) :
    ∃ c : Dev, d.swCmd L src ⟨.PWR_MP_CTL, dieOf p, p % 8⟩ (fun c => putBits c 0 0 1) =
        ((c.mpEnable p (d.flag PWR_MP_CTL.EN (dieOf p) (p % 8))).mpClear p).answered src ∧ SamePower p d c := by
  obtain ⟨c, v, hv, h, h1, h2, h3⟩ := swCmd_mpCtl (L := L) (at_ := 255) (f := fun c => putBits c 0 0 1) hp hk hg fun w => by
    rw [getLsbD_putBits_other _ _ (by decide), (mpCtl_repeats w).2.1]
  refine ⟨c, h.trans ?_, h1, h2, h3⟩
  rw [hv, getLsbD_putBits_zero, if_pos rfl, getLsbD_putBits_other _ _ (by decide), (mpCtl_repeats _).2.2, getLsbD_eq_bit]
  rfl

/-- The state with EN stored. -/
theorem samePower_setEn (d : Dev) (p v : Nat) : SamePower p d (d.setFld PWR_MP_CTL.EN (dieOf p) (p % 8) v) :=
  ⟨fun f hf => fld_setFld_apart _ _ _ _ _ _ (apart_of_reg (by rw [hf]; decide)) (by decide), rfl,
    congrArg (· != 0) (fld_setFld_apart _ _ _ _ _ _ (by decide) (by decide))⟩

theorem SamePower.trans {p : Nat} {d c e : Dev} (h : SamePower p d c) (h' : SamePower p c e) : SamePower p d e :=
  ⟨fun f hf => (h'.stat f hf).trans (h.stat f hf), h'.mags.trans h.mags, h'.auto.trans h.auto⟩

theorem fld_setEn (d : Dev) (p : Nat) (en : Bool) :
    (d.setFld PWR_MP_CTL.EN (dieOf p) (p % 8) (if en then 1 else 0)).fld PWR_MP_CTL.EN (dieOf p) (p % 8) = if en then 1 else 0 := by
  rw [fld_setFld _ _ _ _ (by decide)]
  cases en <;> rfl

/-- The condition judged once EN is stored. -/
theorem mpEnable_effect {d : Dev} {p : Nat} (en : Bool) (h : d.flag PWR_MP_CTL.AUTO (dieOf p) (p % 8) = false ∨ d.mpState p ≠ mpOff) :
    ∃ g : Dev, d.mpEnable p en = (if en && (d.mp p).present then (if d.mpState p = mpOff && (d.mp p).low then g.mpGo p mpRamp else g)
      else if d.mpState p = mpRamp || d.mpState p = mpOn then g.mpGo p mpDischarging else g) ∧ SamePower p d g ∧
        g.fld PWR_MP_CTL.EN (dieOf p) (p % 8) = if en then 1 else 0 := by
  have hg := samePower_setEn d p (if en then 1 else 0)
  have hen := fld_setEn d p en
  refine ⟨_, ?_, hg, hen⟩
  rw [Dev.mpEnable, mpCheck_plain (hg.auto.symm ▸ hg.state.symm ▸ h), Dev.mpWanted, Dev.flag, hen, hg.state, hg.mp]
  cases en <;> rfl

/-- Ramping up: EN stands, the gate is driven. -/
theorem mpGo_ramp {g : Dev} {p : Nat} (h : g.mpState p = mpOff ∨ g.mpState p = mpFault) :
    (g.mpGo p mpRamp).fld PWR_MP_CTL.EN (dieOf p) (p % 8) = g.fld PWR_MP_CTL.EN (dieOf p) (p % 8) ∧ (g.mpGo p mpRamp).mpState p = 2 ∧
      Out.gate p true ∈ (g.mpGo p mpRamp).out := by
  obtain ⟨e1, e2, -, -, -, -, -, e8⟩ := mpGo_effect g p (st := mpRamp) (by decide)
  exact ⟨fld_of_at (e2 _ (show RegId.PWR_MP_CTL ∉ powerRegs by decide)), e1, e8 (by rcases h with h | h <;> rw [h] <;> decide)⟩

/-- Discharging: EN stands, the gate is released. -/
theorem mpGo_discharge {g : Dev} {p : Nat} (h : g.mpState p = 2 ∨ g.mpState p = 3) :
    (g.mpGo p mpDischarging).fld PWR_MP_CTL.EN (dieOf p) (p % 8) = g.fld PWR_MP_CTL.EN (dieOf p) (p % 8) ∧ (g.mpGo p mpDischarging).mpState p = 1 ∧
      Out.gate p false ∈ (g.mpGo p mpDischarging).out := by
  obtain ⟨e1, e2, -, -, -, -, -, e8⟩ := mpGo_effect g p (st := mpDischarging) (by decide)
  exact ⟨fld_of_at (e2 _ (show RegId.PWR_MP_CTL ∉ powerRegs by decide)), e1, e8 (by rcases h with h | h <;> rw [h] <;> decide)⟩

/-- EN written 1 to an OFF port with a magazine (R408). -/
theorem mpEnable_ramps {d : Dev} {p : Nat} (ha : d.flag PWR_MP_CTL.AUTO (dieOf p) (p % 8) = false) (h0 : d.mpState p = 0) (hpres : (d.mp p).present = true)
    (hlow : (d.mp p).low = true) : (d.mpEnable p true).fld PWR_MP_CTL.EN (dieOf p) (p % 8) = 1 ∧ (d.mpEnable p true).mpState p = 2 ∧
      Out.gate p true ∈ (d.mpEnable p true).out := by
  obtain ⟨g, he, hs, hen⟩ := mpEnable_effect (p := p) true (.inl ha)
  rw [hpres, h0, hlow] at he
  obtain ⟨h1, h2, h3⟩ := mpGo_ramp (g := g) (p := p) (.inl (hs.state.trans h0))
  rw [show d.mpEnable p true = g.mpGo p mpRamp from he]
  exact ⟨h1.trans hen, h2, h3⟩

/-- EN written where it changes no state (R408). -/
theorem mpEnable_waits {d : Dev} {p : Nat} {en : Bool} (ha : d.flag PWR_MP_CTL.AUTO (dieOf p) (p % 8) = false ∨ d.mpState p ≠ mpOff)
    (h : d.mpState p = 0 ∧ (d.mp p).present = false ∨ d.mpState p = 4) :
    SamePower p d (d.mpEnable p en) ∧ (d.mpEnable p en).fld PWR_MP_CTL.EN (dieOf p) (p % 8) = if en then 1 else 0 := by
  obtain ⟨g, he, hs, hen⟩ := mpEnable_effect (p := p) en ha
  have hg : d.mpEnable p en = g := by
    rw [he]
    rcases h with ⟨h0, hp⟩ | h4
    · rw [hp, h0, Bool.and_false]
      rfl
    · rw [h4]
      split <;> rfl
  rw [hg]
  exact ⟨hs, hen⟩

/-- EN written 0 to a port in RAMP or ON (R408). -/
theorem mpEnable_discharges {d : Dev} {p : Nat} (ha : d.flag PWR_MP_CTL.AUTO (dieOf p) (p % 8) = false) (h : d.mpState p = 2 ∨ d.mpState p = 3) :
    (d.mpEnable p false).fld PWR_MP_CTL.EN (dieOf p) (p % 8) = 0 ∧ (d.mpEnable p false).mpState p = 1 ∧ Out.gate p false ∈ (d.mpEnable p false).out := by
  obtain ⟨g, he, hs, hen⟩ := mpEnable_effect (p := p) false (.inl ha)
  have hg : d.mpEnable p false = g.mpGo p mpDischarging := by
    rw [he, Bool.false_and, if_neg Bool.false_ne_true]
    rcases h with h | h <;> rw [h] <;> rfl
  obtain ⟨h1, h2, h3⟩ := mpGo_discharge (g := g) (p := p) (by rwa [hs.state])
  rw [hg]
  exact ⟨h1.trans hen, h2, h3⟩

/-- VSNS at 10.8 V turns RAMP to ON (R408). -/
theorem mpGood_effect {d : Dev} {p : Nat} (h : d.mpState p = 2) : (d.mpGood p).mpState p = 3 := by
  rw [Dev.mpGood, if_pos (show d.mpState p = mpRamp from h)]
  exact (mpGo_effect d p (st := mpOn) (by decide)).1

theorem mpGood_else {d : Dev} {p : Nat} (h : d.mpState p ≠ 2) : d.mpGood p = d := if_neg h

/-- A magazine present: the state with the presence stored. -/
theorem mpInsert_effect {d : Dev} {p : Nat} (ha : d.flag PWR_MP_CTL.AUTO (dieOf p) (p % 8) = false) (h0 : d.mpState p = 0) (hlow : (d.mp p).low = true) :
    (d.mpInsert p).fld PWR_MP_STAT.PRESENT (dieOf p) (p % 8) = 1 ∧ ((d.mpInsert p).mp p).present = true ∧
      (d.mpInsert p).mpState p = if d.flag PWR_MP_CTL.EN (dieOf p) (p % 8) then 2 else 0 := by
  obtain ⟨m, hm⟩ : ∃ m, m = d.modMp p fun m => { m with present := true, debounced := false } := ⟨_, rfl⟩
  obtain ⟨g, hg⟩ : ∃ g, g = m.setFld PWR_MP_STAT.PRESENT (dieOf p) (p % 8) 1 := ⟨_, rfl⟩
  have hdef : d.mpInsert p = g.mpCheck p := by rw [hg, hm]; rfl
  have hmfld : ∀ f, m.fld f (dieOf p) (p % 8) = d.fld f (dieOf p) (p % 8) := fun f => fld_of_at (by rw [hm]; rfl)
  have hgm : g.magPorts = m.magPorts := by rw [hg]; rfl
  have hmp : g.mp p = { d.mp p with present := true, debounced := false } := (mp_of_mags hgm p).trans (by rw [hm, mp_modMp])
  have hst : g.mpState p = 0 := by
    rw [Dev.mpState, hg, fld_setFld_apart _ _ _ _ _ _ (by decide) (by decide), hmfld]
    exact h0
  have hctl : ∀ f : Fld, f.reg = .PWR_MP_CTL → g.flag f (dieOf p) (p % 8) = d.flag f (dieOf p) (p % 8) := fun f hf => by
    rw [Dev.flag, hg, fld_setFld_apart _ _ _ _ _ _ (apart_of_reg (by rw [hf]; decide)) (by decide), hmfld]
    rfl
  have hpres : g.fld PWR_MP_STAT.PRESENT (dieOf p) (p % 8) = 1 := by rw [hg, fld_setFld _ _ _ _ (by decide)]; rfl
  rw [hdef, mpCheck_plain (.inl ((hctl _ rfl).trans ha)), Dev.mpWanted, hctl _ rfl, hmp, hst, Bool.and_true]
  split
  · rw [show (({ d.mp p with present := true, debounced := false } : MagPort)).low = true from hlow, if_pos (by decide)]
    obtain ⟨e1, -, e3, e4, -⟩ := mpGo_effect g p (st := mpRamp) (by decide)
    exact ⟨(e3 _ rfl (by decide)).trans hpres, e4.trans (by rw [hmp]), e1⟩
  · exact ⟨hpres, by rw [if_neg (by decide), hmp], hst⟩

/-- A magazine present for 100 ms enables an OFF port under AUTO (R408). -/
theorem mpDebounce_effect {d : Dev} {p : Nat} (ha : d.flag PWR_MP_CTL.AUTO (dieOf p) (p % 8) = true) (h0 : d.mpState p = 0) (hlow : (d.mp p).low = true)
    (hpres : (d.mp p).present = true) : (d.mpDebounce p).fld PWR_MP_CTL.EN (dieOf p) (p % 8) = 1 ∧ (d.mpDebounce p).mpState p = 2 := by
  obtain ⟨m, hm⟩ : ∃ m, m = d.modMp p fun m => { m with debounced := true } := ⟨_, rfl⟩
  have hmp : m.mp p = { d.mp p with debounced := true } := by rw [hm, mp_modMp]
  have hmfld : ∀ f, m.fld f (dieOf p) (p % 8) = d.fld f (dieOf p) (p % 8) := fun f => fld_of_at (by rw [hm]; rfl)
  have hmst : m.mpState p = 0 := (hmfld _).trans h0
  have hs := samePower_setEn m p 1
  have hen := fld_setEn m p true
  have hdef : d.mpDebounce p = (m.setFld PWR_MP_CTL.EN (dieOf p) (p % 8) 1).mpGo p mpRamp := by
    have hm1 : d.mpDebounce p = m.mpCheck p := by rw [Dev.mpDebounce, hpres, hm]; rfl
    rw [hm1, Dev.mpCheck, Dev.flag, hmfld]
    rw [Dev.flag] at ha
    rw [ha, hmst, hmp, hpres]
    simp only [beq_self_eq_true, mpOff, Bool.and_self, if_true]
    rw [Dev.mpWanted, Dev.flag, show (m.setFld PWR_MP_CTL.EN (dieOf p) (p % 8) 1).fld PWR_MP_CTL.EN (dieOf p) (p % 8) = 1 from hen, hs.mp, hs.state, hmst, hmp]
    simp [hpres, hlow]
  obtain ⟨h1, h2, -⟩ := mpGo_ramp (g := m.setFld PWR_MP_CTL.EN (dieOf p) (p % 8) 1) (p := p) (.inl (hs.state.trans hmst))
  rw [hdef]
  exact ⟨h1.trans hen, h2⟩

/-- A magazine gone from a port in RAMP or ON (R410). -/
theorem mpRemove_effect {d : Dev} {p : Nat} (h : d.mpState p = 2 ∨ d.mpState p = 3) :
    let e := d.mpRemove p
    e.mpState p = 1 ∧ e.fld PWR_MP_STAT.PRESENT (dieOf p) (p % 8) = 0 ∧ (e.mp p).present = false ∧
      e.fld PWR_MP_STAT.UNPLUGS (dieOf p) (p % 8) = min (d.fld PWR_MP_STAT.UNPLUGS (dieOf p) (p % 8) + 1) 255 ∧
      e.fld PWR_MP_CTL.EN (dieOf p) (p % 8) =
        (if d.flag PWR_MP_CTL.AUTO (dieOf p) (p % 8) then 0 else d.fld PWR_MP_CTL.EN (dieOf p) (p % 8)) ∧ Out.gate p false ∈ e.out := by
  dsimp only
  obtain ⟨m, hm⟩ : ∃ m, m = d.modMp p fun m => { m with present := false, debounced := false } := ⟨_, rfl⟩
  obtain ⟨c, hc⟩ : ∃ c, c = (m.setFld PWR_MP_STAT.PRESENT (dieOf p) (p % 8) 0).bump PWR_MP_STAT.UNPLUGS (dieOf p) (p % 8) := ⟨_, rfl⟩
  obtain ⟨g, hg⟩ : ∃ g, g = if c.flag PWR_MP_CTL.AUTO (dieOf p) (p % 8) then c.setFld PWR_MP_CTL.EN (dieOf p) (p % 8) 0 else c := ⟨_, rfl⟩
  have hmfld : ∀ f, m.fld f (dieOf p) (p % 8) = d.fld f (dieOf p) (p % 8) := fun f => fld_of_at (by rw [hm]; rfl)
  have hcctl : ∀ f : Fld, f.reg = .PWR_MP_CTL → c.fld f (dieOf p) (p % 8) = d.fld f (dieOf p) (p % 8) := fun f hf => by
    rw [hc, fld_bump_apart _ _ _ _ _ (apart_of_reg (by rw [hf]; decide)) (by decide), fld_setFld_apart _ _ _ _ _ _ (apart_of_reg (by rw [hf]; decide)) (by decide),
      hmfld]
  have hgs : SamePower p c g := by
    rw [hg]
    split
    · exact samePower_setEn c p 0
    · exact ⟨fun _ _ => rfl, rfl, rfl⟩
  have hcst : c.mpState p = d.mpState p := by
    rw [Dev.mpState, hc, fld_bump_apart _ _ _ _ _ (by decide) (by decide), fld_setFld_apart _ _ _ _ _ _ (by decide) (by decide), hmfld, Dev.mpState]
  have hcm : c.magPorts = m.magPorts := by rw [hc]; rfl
  have hmp : g.mp p = { d.mp p with present := false, debounced := false } := hgs.mp.trans ((mp_of_mags hcm p).trans (by rw [hm, mp_modMp]))
  have hdef : d.mpRemove p = g.mpGo p mpDischarging := by
    have h1 : d.mpRemove p = g.mpCheck p := by
      have hst : (decide (d.mpState p = mpRamp) || decide (d.mpState p = mpOn)) = true := by rcases h with h | h <;> rw [h] <;> rfl
      simp only [Dev.mpRemove, hst, if_true, hg, hc, hm]
    have hne : d.mpState p ≠ mpOff := by rcases h with h | h <;> rw [h] <;> decide
    rw [h1, mpCheck_plain (.inr (by rw [hgs.state, hcst]; exact hne)), Dev.mpWanted, hmp, Bool.and_false, hgs.state, hcst]
    rcases h with h | h <;> rw [h] <;> rfl
  obtain ⟨e1, e2, e3, e4, -, -, -, e8⟩ := mpGo_effect g p (st := mpDischarging) (by decide)
  rw [hdef]
  refine ⟨e1, (e3 _ rfl (by decide)).trans ((hgs.stat _ rfl).trans ?_), e4.trans (by rw [hmp]), (e3 _ rfl (by decide)).trans ((hgs.stat _ rfl).trans ?_),
    (fld_of_at (e2 _ (show RegId.PWR_MP_CTL ∉ powerRegs by decide))).trans ?_, e8 ?_⟩
  · rw [hc, fld_bump_apart _ _ _ _ _ (by decide) (by decide), fld_setFld _ _ _ _ (by decide)]
    rfl
  · rw [hc, fld_bump _ _ _ (by decide), fld_setFld_apart _ _ _ _ _ _ (by decide) (by decide), hmfld]
    rfl
  · rw [hg, Dev.flag, hcctl _ rfl, Dev.flag]
    split
    · rw [fld_setFld _ _ _ _ (by decide)]
      rfl
    · exact hcctl _ rfl
  · rw [hgs.state, hcst]
    rcases h with h | h <;> rw [h] <;> decide

/-- A port that reads OFF follows its power conditions (R408). -/
theorem mpCheck_off {g : Dev} {p : Nat} (ha : g.flag PWR_MP_CTL.AUTO (dieOf p) (p % 8) = false) (h0 : g.mpState p = 0) (hlow : (g.mp p).low = true) :
    (g.mpCheck p).mpState p = if g.flag PWR_MP_CTL.EN (dieOf p) (p % 8) && (g.mp p).present then 2 else 0 := by
  rw [mpCheck_plain (.inl ha), Dev.mpWanted, h0, hlow]
  split
  · exact (mpGo_effect g p (st := mpRamp) (by decide)).1
  · exact h0

/-- A port that goes OFF and is judged anew (R408, R409). -/
theorem mpGo_off {d m : Dev} {p : Nat} (hm : ∀ f : Fld, f.reg = .PWR_MP_CTL → m.flag f (dieOf p) (p % 8) = d.flag f (dieOf p) (p % 8))
    (hp : (m.mp p).present = (d.mp p).present) (hlow : (m.mp p).low = true) (ha : d.flag PWR_MP_CTL.AUTO (dieOf p) (p % 8) = false) :
    ((m.mpGo p mpOff).mpCheck p).mpState p = if d.flag PWR_MP_CTL.EN (dieOf p) (p % 8) && (d.mp p).present then 2 else 0 := by
  obtain ⟨e1, e2, -, e4, -, e6, -, -⟩ := mpGo_effect m p (st := mpOff) (by decide)
  have hctl : ∀ f : Fld, f.reg = .PWR_MP_CTL → (m.mpGo p mpOff).flag f (dieOf p) (p % 8) = d.flag f (dieOf p) (p % 8) := fun f hf =>
    (flag_of_at (e2 _ (show f.reg ∉ powerRegs by rw [hf]; decide))).trans (hm f hf)
  rw [mpCheck_off ((hctl _ rfl).trans ha) e1 ((e6 (by decide)).trans hlow), hctl _ rfl, e4, hp]

/-- A discharged port reads OFF, or ramps up where the conditions hold (R408). -/
theorem mpLow_effect {d : Dev} {p : Nat} (h : d.mpState p = 1) (ha : d.flag PWR_MP_CTL.AUTO (dieOf p) (p % 8) = false) :
    (d.mpLow p).mpState p = if d.flag PWR_MP_CTL.EN (dieOf p) (p % 8) && (d.mp p).present then 2 else 0 := by
  obtain ⟨m, hm⟩ : ∃ m, m = (d.modMp p fun m => { m with low := true }).emit (.dsch p false) := ⟨_, rfl⟩
  have hmp : m.mp p = { d.mp p with low := true } := by
    rw [hm]
    exact (mp_of_mags (d := d.modMp p fun m => { m with low := true }) rfl p).trans (mp_modMp ..)
  have hdef : d.mpLow p = (m.mpGo p mpOff).mpCheck p := by rw [Dev.mpLow, h, hm]; rfl
  rw [hdef]
  exact mpGo_off (fun f _ => flag_of_at (by rw [hm]; rfl)) (by rw [hmp]) (by rw [hmp]) ha

/-- FAULT entered (R409). -/
theorem mpFail_effect (d : Dev) (p : Nat) {c : Nat} (hc : c < 16) :
    (d.mpFail p c).mpState p = 4 ∧ (d.mpFail p c).fld PWR_MP_STAT.CAUSE (dieOf p) (p % 8) = c ∧
      (d.mpFail p c).fld PWR_MP_STAT.FAULTS (dieOf p) (p % 8) = min (d.fld PWR_MP_STAT.FAULTS (dieOf p) (p % 8) + 1) 255 := by
  obtain ⟨g, hg⟩ : ∃ g, g = (d.setFld PWR_MP_STAT.CAUSE (dieOf p) (p % 8) c).bump PWR_MP_STAT.FAULTS (dieOf p) (p % 8) := ⟨_, rfl⟩
  obtain ⟨e1, -, e3, -⟩ := mpGo_effect g p (st := mpFault) (by decide)
  have hdef : d.mpFail p c = g.mpGo p mpFault := by rw [hg]; rfl
  rw [hdef]
  refine ⟨e1, (e3 _ rfl (by decide)).trans ?_, (e3 _ rfl (by decide)).trans ?_⟩
  · rw [hg, fld_bump_apart _ _ _ _ _ (by decide) (by decide), fld_setFld _ _ _ _ (by decide)]
    exact Nat.mod_eq_of_lt hc
  · rw [hg, fld_bump _ _ _ (by decide), fld_setFld_apart _ _ _ _ _ _ (by decide) (by decide)]
    rfl

/-- A condition judged: the port fails (R409, R412). -/
theorem mpCondition_fails {d : Dev} {p c : Nat} (hj : mpJudged c (d.mpState p) = true) (hr : c = 2 ∨ d.rootHeld (dieOf p) = false) :
    d.mpCondition p c = d.mpFail p c := by
  rw [Dev.mpCondition, hj, if_neg (by decide), if_neg]
  rcases hr with rfl | h
  · simp
  · simp [h]

/-- CLEAR of a port in FAULT (R409). -/
theorem mpClear_low {d : Dev} {p : Nat} (h : d.mpState p = 4) (hlow : (d.mp p).low = true) (ha : d.flag PWR_MP_CTL.AUTO (dieOf p) (p % 8) = false) :
    (d.mpClear p).mpState p = if d.flag PWR_MP_CTL.EN (dieOf p) (p % 8) && (d.mp p).present then 2 else 0 := by
  obtain ⟨m, hm⟩ : ∃ m, m = d.modMp p fun m => { m with clear := false } := ⟨_, rfl⟩
  have hmp : m.mp p = { d.mp p with clear := false } := by rw [hm, mp_modMp]
  have hdef : d.mpClear p = (m.mpGo p mpOff).mpCheck p := by rw [Dev.mpClear, if_pos (show d.mpState p = mpFault from h), hlow, if_pos rfl, hm]; rfl
  rw [hdef]
  exact mpGo_off (fun f _ => flag_of_at (by rw [hm]; rfl)) (by rw [hmp]) (by rw [hmp]; exact hlow) ha

theorem mpClear_high {d : Dev} {p : Nat} (h : d.mpState p = 4) (hlow : (d.mp p).low = false) :
    (d.mpClear p).mpState p = 4 ∧ ((d.mpClear p).mp p).clear = true := by
  have hdef : d.mpClear p = d.modMp p fun m => { m with clear := true } := by rw [Dev.mpClear, if_pos (show d.mpState p = mpFault from h), hlow]; rfl
  rw [hdef, mp_modMp]
  exact ⟨(fld_of_at rfl).trans h, rfl⟩

/-! Temperature -/

/-- An event raised is kept or held (R257). -/
theorem offer_length {s : QState} {w : List Word} (cap : Nat) (he : s.extra = 0) (hw : 0 < w.length) :
    s.items.length + s.held.length + 1 = (s.offer cap w).items.length + (s.offer cap w).held.length := by
  unfold QState.offer
  split
  next h =>
    rw [Bool.and_eq_true, decide_eq_true_eq, QState.credits, he] at h
    rw [QState.write, if_pos (by omega)]
    simp only [QState.push, List.length_append, List.length_singleton]
    omega
  next =>
    simp only [List.length_append, List.length_singleton]
    omega

/-- A byte in two's complement. -/
theorem toInt_ofNat_byte {a : Nat} (ha : a < 256) : (BitVec.ofNat 8 a).toInt = if a < 128 then (a : Int) else a - 256 := by
  rw [BitVec.toInt_ofNat']
  simp only [Int.bmod]
  split <;> split <;> omega

/-- The alert of a die once its reading is judged (R406). -/
theorem tempAlert_effect {c : Dev} {x : Nat} (hot : Bool) :
    let e := if hot then c.status PWR_TEMP.ALERT x 0 evPower x x else c.setFld PWR_TEMP.ALERT x 0 0
    e.flag PWR_TEMP.ALERT x = hot ∧ (∀ y, y ≠ x → e.flag PWR_TEMP.ALERT y = c.flag PWR_TEMP.ALERT y) ∧ e.out = c.out ∧ e.n = c.n ∧
      e.fld PWR_TEMP.TEMP_C x = c.fld PWR_TEMP.TEMP_C x ∧ (hot = true → c.flag PWR_TEMP.ALERT x = false → (c.queue x 62).extra = 0 →
        (c.queue x 62).items.length + (c.queue x 62).held.length + 1 = (e.queue x 62).items.length + (e.queue x 62).held.length) := by
  cases hot with
  | false =>
    refine ⟨congrArg (· != 0) (fld_setFld _ _ _ _ (by decide)), fun y hy => flag_of_at (Dev.at_setFld_ne _ _ _ _ _ (by simp [hy])), rfl, rfl,
      fld_setFld_apart _ _ _ _ _ _ (by decide) (by decide), fun h => absurd h (by decide)⟩
  | true =>
    refine ⟨congrArg (· != 0) (fld_status _ _ _ _ _ _ (by decide)), fun y hy => flag_of_at (Dev.at_status_ne _ _ _ _ _ _ _ (by simp [hy])), ?_, ?_,
      fld_status_apart _ _ _ _ _ _ _ _ (by decide) (by decide), fun _ hf he => ?_⟩
    · rw [if_pos rfl, Dev.status]
      split <;> rfl
    · rw [if_pos rfl, Dev.status]
      split <;> rfl
    · have hq : ∀ k b src, ((c.setFld PWR_TEMP.ALERT x 0 1).raise x evPower k b src).queue x 62 =
          (c.queue x 62).offer 1024 (eventWords evPower x b k.offset src ((c.setFld PWR_TEMP.ALERT x 0 1).us x)) := fun k b src =>
        Store.get_set_same _ ⟨x, 62, 0⟩ _ _
      rw [if_pos rfl, Dev.status, hf, if_neg (by decide), hq]
      exact offer_length 1024 he (Nat.succ_pos 3)

theorem temp_effect {d : Dev} {x : Nat} {t : Int} (hx : x < d.n) (hlo : -128 ≤ t) (hhi : t ≤ 127) :
    let hot : Prop := (BitVec.ofNat 8 (d.fld PWR_TEMP.ALERT_C x)).toInt ≤ t; let e := d.temp x t
    (BitVec.ofNat 8 (e.fld PWR_TEMP.TEMP_C x)).toInt = t ∧ (hot ↔ e.fld PWR_TEMP.ALERT x = 1) ∧
      (hot → d.flag PWR_TEMP.ALERT x = false → (d.queue x 62).extra = 0 →
        (d.queue x 62).items.length + (d.queue x 62).held.length + 1 = (e.queue x 62).items.length + (e.queue x 62).held.length) ∧
      (hot → (∀ y : Nat, d.flag PWR_TEMP.ALERT y = false) → e.out = d.out ++ [.alert true]) ∧
      (¬ hot → d.flag PWR_TEMP.ALERT x = true → (∀ y : Nat, y ≠ x → d.flag PWR_TEMP.ALERT y = false) → e.out = d.out ++ [.alert false]) := by
  dsimp only
  obtain ⟨c, hc⟩ : ∃ c, c = d.setFld PWR_TEMP.TEMP_C x 0 ((t % 256).toNat) := ⟨_, rfl⟩
  have hlim : (BitVec.ofNat 8 (d.fld PWR_TEMP.ALERT_C x)).toInt = if c.fld PWR_TEMP.ALERT_C x < 128 then (c.fld PWR_TEMP.ALERT_C x : Int)
      else c.fld PWR_TEMP.ALERT_C x - 256 := by
    have h : c.fld PWR_TEMP.ALERT_C x = d.fld PWR_TEMP.ALERT_C x := by rw [hc, fld_setFld_apart _ _ _ _ _ _ (by decide) (by decide)]
    rw [h]
    exact toInt_ofNat_byte (Nat.mod_lt _ (by decide))
  have hflag : ∀ y, c.flag PWR_TEMP.ALERT y = d.flag PWR_TEMP.ALERT y := fun y =>
    congrArg (· != 0) (by rw [hc, fld_setFld_apart _ _ _ _ _ _ (by decide) (by decide)])
  have htemp : c.fld PWR_TEMP.TEMP_C x = (t % 256).toNat := by
    rw [hc, fld_setFld _ _ _ _ (by decide)]
    exact Nat.mod_eq_of_lt (show (t % 256).toNat < 256 by omega)
  obtain ⟨hot, hhot⟩ : ∃ hot, hot = decide ((BitVec.ofNat 8 (d.fld PWR_TEMP.ALERT_C x)).toInt ≤ t) := ⟨_, rfl⟩
  obtain ⟨a, ha⟩ : ∃ a, a = if hot then c.status PWR_TEMP.ALERT x 0 evPower x x else c.setFld PWR_TEMP.ALERT x 0 0 := ⟨_, rfl⟩
  obtain ⟨h1, h2, h3, h4, h5, h6⟩ := tempAlert_effect (c := c) (x := x) hot
  rw [← ha] at h1 h2 h3 h4 h5 h6
  have hn : c.n = d.n := by rw [hc]; rfl
  have hmem : ∀ e : Dev, e.n = d.n → x ∈ e.dies := fun e he => by rw [mem_dies, he]; exact hx
  have hdef : d.temp x t = if (c.dies.any fun y => c.flag PWR_TEMP.ALERT y) != (a.dies.any fun y => a.flag PWR_TEMP.ALERT y) then
      a.emit (.alert (a.dies.any fun y => a.flag PWR_TEMP.ALERT y)) else a := by
    rw [ha, hhot, hlim, hc]
    rfl
  have hat : ∀ f u, (d.temp x t).fld f u = a.fld f u := fun f u => by
    rw [hdef]
    split <;> rfl
  have hqueue : (d.temp x t).queue x 62 = a.queue x 62 := by
    rw [hdef]
    split <;> rfl
  have hcq : c.queue x 62 = d.queue x 62 := by rw [hc]; rfl
  have hco : c.out = d.out := by rw [hc]; rfl
  have hwas : ∀ e : Dev, (∀ y, y ≠ x → d.flag PWR_TEMP.ALERT y = false) → e.n = d.n → (∀ y, y ≠ x → e.flag PWR_TEMP.ALERT y = d.flag PWR_TEMP.ALERT y) →
      (e.dies.any fun y => e.flag PWR_TEMP.ALERT y) = e.flag PWR_TEMP.ALERT x := fun e h hn he => by
    rw [Bool.eq_iff_iff, List.any_eq_true]
    refine ⟨?_, fun hxe => ⟨x, hmem e hn, hxe⟩⟩
    rintro ⟨y, -, hy⟩
    by_cases hyx : y = x
    · rwa [← hyx]
    · rw [he y hyx, h y hyx] at hy
      exact absurd hy (by decide)
  have hother : ∀ y, y ≠ x → a.flag PWR_TEMP.ALERT y = d.flag PWR_TEMP.ALERT y := fun y hy => (h2 y hy).trans (hflag y)
  have hev : ∀ h : (BitVec.ofNat 8 (d.fld PWR_TEMP.ALERT_C x)).toInt ≤ t, hot = true := fun h => by rw [hhot]; exact decide_eq_true h
  refine ⟨?_, ?_, fun h hf he => ?_, fun h hall => ?_, fun h hf hall => ?_⟩
  · rw [hat, h5, htemp, toInt_ofNat_byte (by omega)]
    split <;> omega
  · rw [hat]
    refine ⟨fun h => fld_of_bit (by decide) (h1.trans (hev h)), fun h => ?_⟩
    have hone : a.flag PWR_TEMP.ALERT x = true := by rw [Dev.flag, h]; rfl
    rw [h1, hhot] at hone
    exact of_decide_eq_true hone
  · rw [hqueue, ← hcq]
    exact h6 (hev h) ((hflag x).trans hf) (by rw [hcq]; exact he)
  · rw [hdef, hwas c (fun y _ => hall y) hn fun y _ => hflag y, hwas a (fun y _ => hall y) (h4.trans hn) hother, hflag, hall, h1, hev h]
    exact congrArg (· ++ _) (h3.trans hco)
  · have hcold : hot = false := by rw [hhot]; exact decide_eq_false h
    rw [hdef, hwas c hall hn fun y _ => hflag y, hwas a hall (h4.trans hn) hother, hflag, hf, h1, hcold]
    exact congrArg (· ++ _) (h3.trans hco)

/-- Settles O32. -/
theorem powerAndTemperature : Obligations.PowerAndTemperature := by
  unfold Obligations.PowerAndTemperature
  refine ⟨fun s src p hp => ?_, fun s src p hp => ?_, fun s x t hx hlo hhi => ?_⟩
  · dsimp only
    refine ⟨fun hg hk ha => ⟨fun h0 hpres hlow => ?_, fun st hst h => ?_, fun h => ?_⟩, fun ha h0 hlow => ?_, fun ha h0 hlow hpres => ?_, fun h => ?_,
      fun h => ?_, fun h => ?_, fun h ha => ?_⟩
    · refine State.doesSome_perform (by dsimp only [exec]; rfl) ?_
      obtain ⟨c, hc, hs⟩ := swCmd_mpEn (L := s.locks) true hp hk hg
      obtain ⟨h1, h2, h3⟩ := mpEnable_ramps (hs.auto.trans ha) (hs.state.trans h0) (by rw [hs.mp]; exact hpres) (by rw [hs.mp]; exact hlow)
      rw [hc]
      exact ⟨(fld_answered ..).trans h1, (fld_answered ..).trans h2, mem_answered_out src h3⟩
    · refine State.doesSome_perform (by dsimp only [exec]; rfl) ?_
      obtain ⟨c, hc, hs⟩ := swCmd_mpEn (L := s.locks) true hp hk hg
      obtain ⟨h1, h2⟩ := mpEnable_waits (d := c) (p := p) (en := true) (.inl (hs.auto.trans ha)) (by
        rw [hs.mp, hs.state]
        rcases hst with ⟨rfl, hpres⟩ | rfl
        · exact .inl ⟨h, hpres⟩
        · exact .inr h)
      rw [hc]
      exact ⟨(fld_answered ..).trans h2, (fld_answered ..).trans (h1.state.trans (hs.state.trans h))⟩
    · refine State.doesSome_perform (by dsimp only [exec]; rfl) ?_
      obtain ⟨c, hc, hs⟩ := swCmd_mpEn (L := s.locks) false hp hk hg
      obtain ⟨h1, h2, h3⟩ := mpEnable_discharges (hs.auto.trans ha) (by rw [hs.state]; exact h)
      rw [hc]
      exact ⟨(fld_answered ..).trans h1, (fld_answered ..).trans h2, mem_answered_out src h3⟩
    · refine State.doesJust_performAlone (by dsimp only [exec]; rfl) ?_
      exact mpInsert_effect ha h0 hlow
    · refine State.doesJust_performAlone (by dsimp only [exec]; rfl) ?_
      exact mpDebounce_effect ha h0 hlow hpres
    · refine State.doesSome_perform (by dsimp only [exec]; rfl) ?_
      exact mpRemove_effect h
    · refine State.doesJust_performAlone (by dsimp only [exec]; rfl) ?_
      exact mpGood_effect h
    · refine State.doesOnly_performAlone (by dsimp only [exec]; rfl) ?_
      exact mpGood_else h
    · refine State.doesJust_performAlone (by dsimp only [exec]; rfl) ?_
      exact mpLow_effect h ha
  · dsimp only
    have hfail : ∀ (c : Nat), c < 16 → mpJudged c (s.dev.mpState p) = true → (c = 2 ∨ s.dev.rootHeld (dieOf p) = false) →
        (s.dev.mpCondition p c).fld PWR_MP_STAT.STATE (dieOf p) (p % 8) = 4 ∧ (s.dev.mpCondition p c).fld PWR_MP_STAT.CAUSE (dieOf p) (p % 8) = c ∧
          (s.dev.mpCondition p c).fld PWR_MP_STAT.FAULTS (dieOf p) (p % 8) = min (s.dev.fld PWR_MP_STAT.FAULTS (dieOf p) (p % 8) + 1) 255 :=
      fun c hc hj hr => by
        rw [mpCondition_fails hj hr]
        exact mpFail_effect s.dev p hc
    have hon : ∀ c, c = 1 ∨ c = 2 → s.dev.mpState p = 2 ∨ s.dev.mpState p = 3 → mpJudged c (s.dev.mpState p) = true := by
      rintro c (rfl | rfl) (h | h) <;> rw [h] <;> rfl
    have hone : ∀ c st, s.dev.mpState p = st → mpJudged c st = true → mpJudged c (s.dev.mpState p) = true := fun c st h hj => by rw [h]; exact hj
    refine ⟨fun h => ?_, fun h hr => ?_, fun h hr => ?_, fun h hr => ?_, fun h hr => ?_, fun h hr => ?_, fun h => ?_, fun hg hk h => ⟨fun hlow ha => ?_, fun hlow => ?_⟩⟩
    · refine State.doesSome_perform (by dsimp only [exec]; rfl) ?_
      exact hfail 2 (by decide) (hon 2 (.inr rfl) h) (.inl rfl)
    · refine State.doesSome_perform (by dsimp only [exec]; rfl) ?_
      exact hfail 1 (by decide) (hon 1 (.inl rfl) h) (.inr hr)
    · refine State.doesJust_performAlone (by dsimp only [exec]; rfl) ?_
      exact hfail 3 (by decide) (hone 3 _ h rfl) (.inr hr)
    · refine State.doesSome_perform (by dsimp only [exec]; rfl) ?_
      exact hfail 4 (by decide) (hone 4 _ h rfl) (.inr hr)
    · refine State.doesJust_performAlone (by dsimp only [exec]; rfl) ?_
      exact hfail 5 (by decide) (hone 5 _ h rfl) (.inr hr)
    · refine State.does_perform (by dsimp only [exec]; rfl) ?_
      rw [Dev.mpCondition, hon 1 (.inl rfl) h, hr]
      rfl
    · refine State.does_perform (by dsimp only [exec]; rfl) ?_
      rw [Dev.mpCondition, show s.dev.mpState p = 0 from h]
      rfl
    · refine State.doesSome_perform (by dsimp only [exec]; rfl) ?_
      obtain ⟨c, hc, hs⟩ := swCmd_mpClear (L := s.locks) hp hk hg
      obtain ⟨h1, h2⟩ := mpEnable_waits (d := c) (p := p) (en := s.dev.flag PWR_MP_CTL.EN (dieOf p) (p % 8)) (.inr (by rw [hs.state, show s.dev.mpState p = 4 from h]; decide))
        (.inr (hs.state.trans h))
      have hs := hs.trans h1
      have hclear := mpClear_low (hs.state.trans h) (by rw [hs.mp]; exact hlow) (hs.auto.trans ha)
      rw [hc]
      generalize s.dev.flag PWR_MP_CTL.EN (dieOf p) (p % 8) = en at *
      have hen : (c.mpEnable p en).flag PWR_MP_CTL.EN (dieOf p) (p % 8) = en := by
        rw [Dev.flag, h2]
        cases en <;> rfl
      rw [hen, hs.mp] at hclear
      exact (fld_answered ..).trans hclear
    · refine State.doesSome_perform (by dsimp only [exec]; rfl) ?_
      obtain ⟨c, hc, hs⟩ := swCmd_mpClear (L := s.locks) hp hk hg
      obtain ⟨h1, -⟩ := mpEnable_waits (d := c) (p := p) (en := s.dev.flag PWR_MP_CTL.EN (dieOf p) (p % 8)) (.inr (by rw [hs.state, show s.dev.mpState p = 4 from h]; decide))
        (.inr (hs.state.trans h))
      have hs := hs.trans h1
      obtain ⟨e1, e2⟩ := mpClear_high (hs.state.trans h) (by rw [hs.mp]; exact hlow)
      rw [hc]
      exact ⟨(fld_answered ..).trans e1, by rw [Dev.mp, answered_of_out Dev.magPorts fun _ _ => rfl]; exact e2⟩
  · refine State.doesJust_performAlone (by dsimp only [exec]; rfl) ?_
    exact temp_effect hx hlo hhi

end Sys2Proof.Machine

/-! ## Mortar links (R38 to R41, R270) -/

namespace Sys2Proof.Machine

/-! A packet received -/

/-- A packet that is only passing goes on along its route (R39). -/
theorem mortarRx_passes {d : Dev} {x k j : Nat} {p : MortarPkt} {r : List Nat} (hup : d.morUp x k = true) (hd : p.dst ≠ x)
    (hr : d.route x p.dst = some (j :: r)) : d.mortarRx x k p = d.emit (.mortar x (d.spread x j p.seq) p) := by
  have hw : d.way x p.dst p.seq = some ((x, d.spread x j p.seq) :: (match linkPeer d.variant x j with | some y => d.hops p.seq y r | none => [])) := by
    rw [Dev.way, hr]
    rfl
  rw [Dev.mortarRx, hup, if_neg (by decide), if_pos hd, Dev.mortarHop, hw]

/-- A duplicate is discarded (R39). -/
theorem mortarRx_duplicate {d : Dev} {x k q : Nat} {p : MortarPkt} (hup : d.morUp x k = true) (hd : p.dst = x)
    (he : (d.mor x).expected = [((p.src, p.stream), q)]) (hq : p.seq < q) : d.mortarRx x k p = d := by
  rw [Dev.mortarRx, hup, if_neg (by decide), if_neg (not_not_intro hd)]
  simp [he, hq]

theorem mor_modMor (d : Dev) (x : Nat) (f : Mortar → Mortar) : (d.modMor x f).mor x = f (d.mor x) := by
  rw [Dev.mor, Dev.modMor, Store.get_set_same]

theorem mor_modMor_ne (d : Dev) {x y : Nat} (h : y ≠ x) (f : Mortar → Mortar) : (d.modMor x f).mor y = d.mor y := by
  rw [Dev.mor, Dev.modMor, Dev.mor]
  exact Store.get_set_ne _ _ (by simp [h]) _ _

theorem mor_modQueue (d : Dev) (x q : Nat) (f : QState → QState) (y : Nat) : (d.modQueue x q f).mor y = d.mor y := rfl

theorem modMor_congr {d : Dev} {x : Nat} {f g : Mortar → Mortar} (h : f (d.mor x) = g (d.mor x)) : d.modMor x f = d.modMor x g := by
  rw [Dev.modMor, h, Dev.modMor]

/-- The first packet of a stream enters its queue (R197). -/
theorem mortarOrder_first {d : Dev} {x k : Nat} {p : MortarPkt} (hm : d.mor x = { ahead := [(k, p)] }) (hs : p.seq = 0)
    (hq : d.queue x (morQueue k p.cls) = {}) (hw : p.words.length ≤ 80) :
    d.mortarOrder 1 x = (d.modMor x fun _ => { queued := [(k, p)], expected := [((p.src, p.stream), 1)] }).modQueue x (morQueue k p.cls) fun s =>
      s.offer 8192 p.words := by
  have hu : ({} : QState).used = 0 := rfl
  have hspilt : ((({} : QState).held.isEmpty && decide (p.words.length ≤ ({} : QState).credits 8192)) && decide (8192 < ({} : QState).used + p.words.length)) = false := by
    rw [hu, decide_eq_false (show ¬ 8192 < 0 + p.words.length by omega), Bool.and_false]
  have htake : takeFirst (fun e : Nat × MortarPkt => e.2.seq == ((d.mor x).expected.find? fun q => q.1 == (e.2.src, e.2.stream)).elim 0 (·.2) ||
      d.mortarAhead x (((d.mor x).expected.find? fun q => q.1 == (e.2.src, e.2.stream)).elim 0 (·.2)) e.2) (d.mor x).ahead = (some (k, p), []) := by
    rw [hm]
    simp [takeFirst, hs]
  rw [Dev.mortarOrder]
  simp only [htake, hq, hspilt, Bool.false_eq_true, if_false]
  rw [Dev.mortarOrder]
  refine congrArg (Dev.modQueue · x _ _) (modMor_congr ?_)
  simp [hm, hs, skipEarly]

/-- The first packet of a stream, queued alone, is taken and acknowledged (R39, R270). -/
theorem mortarTake_first {d : Dev} {x k : Nat} {p : MortarPkt} (hm : d.mor x = { queued := [(k, p)], expected := [((p.src, p.stream), 1)] }) (hs : p.seq = 0)
    (hr : d.rootHeld x = false) : (d.mortarTake x).out = d.out ++ [.mortarAck x k p.src p.stream 0] ∧
      ((d.mortarTake x).mor x).expected = [((p.src, p.stream), 1)] ∧ ((d.mortarTake x).mor x).ahead = [] ∧ ((d.mortarTake x).mor x).queued = [] := by
  obtain ⟨c, hc⟩ : ∃ c, c = (d.modMor x fun m => { m with queued := [] }).modQueue x (morQueue k p.cls) fun s => (s.pop 8192).2 := ⟨_, rfl⟩
  have hcm : c.mor x = { expected := [((p.src, p.stream), 1)] } := by
    rw [hc]
    rw [mor_modQueue, mor_modMor, hm]
  have hdef : d.mortarTake x = (c.mortarAcked p.src x p.stream 0).emit (.mortarAck x k p.src p.stream 0) := by
    have hone : d.mortarTake x = if (((c.mor x).expected.find? fun q => q.1 == (p.src, p.stream)).elim 0 (·.2)) ≤ p.seq then c else
        (c.mortarAcked p.src x p.stream ((((c.mor x).expected.find? fun q => q.1 == (p.src, p.stream)).elim 0 (·.2)) - 1)).emit
          (.mortarAck x k p.src p.stream ((((c.mor x).expected.find? fun q => q.1 == (p.src, p.stream)).elim 0 (·.2)) - 1)) := by
      rw [Dev.mortarTake, hm, hr, hc]
      simp
    rw [hone, hcm]
    simp [hs]
  have hout : c.out = d.out := by rw [hc]; rfl
  have hsame : ((c.mortarAcked p.src x p.stream 0).mor x).expected = (c.mor x).expected ∧ ((c.mortarAcked p.src x p.stream 0).mor x).ahead = (c.mor x).ahead ∧
      ((c.mortarAcked p.src x p.stream 0).mor x).queued = (c.mor x).queued := by
    unfold Dev.mortarAcked
    by_cases h : p.src = x
    · rw [h, mor_modMor]
      exact ⟨rfl, rfl, rfl⟩
    · rw [mor_modMor_ne c (Ne.symm h)]
      exact ⟨rfl, rfl, rfl⟩
  obtain ⟨h1, h2, h3⟩ := hsame
  rw [hdef]
  rw [hcm] at h1 h2 h3
  exact ⟨congrArg (· ++ _) hout, h1, h2, h3⟩

/-- The first packet of a stream received (R39, R270). -/
theorem mortarRx_first {d : Dev} {x k : Nat} {p : MortarPkt} (hup : d.morUp x k = true) (hd : p.dst = x) (hm : d.mor x = {}) (hs : p.seq = 0)
    (hr : d.rootHeld x = false) (hq : d.queue x (morQueue k p.cls) = {}) (hw : p.words.length ≤ 80) :
    (d.mortarRx x k p).out = d.out ++ [.mortarAck x k p.src p.stream 0] ∧ ((d.mortarRx x k p).mor x).expected = [((p.src, p.stream), 1)] ∧
      ((d.mortarRx x k p).mor x).ahead = [] ∧ ((d.mortarRx x k p).mor x).queued = [] := by
  obtain ⟨c, hc⟩ : ∃ c, c = d.modMor x fun m => { m with ahead := m.ahead ++ [(k, p)] } := ⟨_, rfl⟩
  have hcm : c.mor x = { ahead := [(k, p)] } := by rw [hc, mor_modMor, hm]; rfl
  have hdef : d.mortarRx x k p = (c.mortarOrder 1 x).mortarTake x := by
    have h1 : d.mortarRx x k p = (c.mortarOrder (c.mor x).ahead.length x).mortarTake x := by
      rw [Dev.mortarRx, hup, if_neg (by decide), if_neg (not_not_intro hd), hm, hs, hc]
      rfl
    rw [h1, hcm]
    rfl
  obtain ⟨g, hg⟩ : ∃ g, g = c.mortarOrder 1 x := ⟨_, rfl⟩
  have hgdef := hg.trans (mortarOrder_first hcm hs (by rw [hc]; exact hq) hw)
  have hgm : g.mor x = { queued := [(k, p)], expected := [((p.src, p.stream), 1)] } := by
    rw [hgdef, mor_modQueue, mor_modMor]
  have hgo : g.out = d.out := by rw [hgdef, hc]; rfl
  have hgr : g.rootHeld x = false := by rw [hgdef, hc]; exact hr
  rw [hdef, ← hg, ← hgo]
  exact mortarTake_first hgm hs hgr

/-! A link that fails or loses lanes -/

/-- A link reads the same at its ends but for counters of repetitions. -/
structure SameLinks (d e : Dev) : Prop where
  fld : ∀ f : Fld, f.reg = .MOR_LINK_STAT → MOR_LINK_STAT.RETRY_COUNT.apart f = true → ∀ u i, e.fld f u i = d.fld f u i

theorem SameLinks.refl (d : Dev) : SameLinks d d := ⟨fun _ _ _ _ _ => rfl⟩

theorem SameLinks.trans {d e c : Dev} (h : SameLinks d e) (h' : SameLinks e c) : SameLinks d c :=
  ⟨fun f hf ha u i => (h'.fld f hf ha u i).trans (h.fld f hf ha u i)⟩

theorem SameLinks.foldl {α : Type} {step : Dev → α → Dev} (h : ∀ d a, SameLinks d (step d a)) : ∀ (xs : List α) (d : Dev), SameLinks d (xs.foldl step d)
  | [], d => SameLinks.refl d
  | x :: xs, d => (h d x).trans (SameLinks.foldl h xs _)

theorem sameLinks_flush (d : Dev) (y q : Nat) (f : QState → QState) : SameLinks d (d.mortarFlush y q f).2 := by
  refine ⟨fun g _ _ u i => fld_of_at ?_⟩
  unfold Dev.mortarFlush
  dsimp only
  split <;> rfl

theorem sameLinks_resend (b d : Dev) : SameLinks d (Dev.mortarResend b d) := by
  refine SameLinks.foldl (fun d a => SameLinks.foldl (fun d p => ?_) _ d) _ d
  split
  · exact SameLinks.refl d
  · split
    · exact ⟨fun f _ ha u i => (fld_emit ..).trans (fld_bump_apart _ _ _ _ _ ha (by decide))⟩
    · exact SameLinks.refl d

/-- A link that fails is down at both ends (R40). -/
theorem morFail_effect {d : Dev} {x k y : Nat} (hy : linkPeer d.variant x k = some y) (hup : d.morUp x k = true) :
    (d.morFail x k).fld MOR_LINK_STAT.STATE x k = 3 ∧ (d.morFail x k).fld MOR_LINK_STAT.UP x k = 0 ∧
      (d.morFail x k).fld MOR_LINK_STAT.STATE y (peerLink d.variant k) = 3 ∧ (d.morFail x k).fld MOR_LINK_STAT.UP y (peerLink d.variant k) = 0 := by
  have hfirst : ∀ (c : Dev) (u i : Nat), ∃ e : Dev, e = ((c.setFld MOR_LINK_STAT.STATE u i 3).setFld MOR_LINK_STAT.UP u i 0).morEvent u i 31 ∧
      e.variant = c.variant ∧ (e.fld MOR_LINK_STAT.STATE u i = 3 ∧ e.fld MOR_LINK_STAT.UP u i = 0) ∧
      ∀ u' i', c.fld MOR_LINK_STAT.STATE u' i' = 3 ∧ c.fld MOR_LINK_STAT.UP u' i' = 0 → e.fld MOR_LINK_STAT.STATE u' i' = 3 ∧ e.fld MOR_LINK_STAT.UP u' i' = 0 :=
    fun c u i => by
      have hat : ∀ f u' i', (((c.setFld MOR_LINK_STAT.STATE u i 3).setFld MOR_LINK_STAT.UP u i 0).morEvent u i 31).fld f u' i' =
          ((c.setFld MOR_LINK_STAT.STATE u i 3).setFld MOR_LINK_STAT.UP u i 0).fld f u' i' := fun f u' i' => fld_raise ..
      have hown : ∀ e : Dev, e = (c.setFld MOR_LINK_STAT.STATE u i 3).setFld MOR_LINK_STAT.UP u i 0 →
          e.fld MOR_LINK_STAT.STATE u i = 3 ∧ e.fld MOR_LINK_STAT.UP u i = 0 := fun e he => by
        rw [he, fld_setFld_apart _ _ _ _ _ _ (by decide) (by decide), fld_setFld _ _ _ _ (by decide), fld_setFld _ _ _ _ (by decide)]
        exact ⟨rfl, rfl⟩
      refine ⟨_, rfl, rfl, ?_, fun u' i' h => ?_⟩
      · rw [hat, hat]
        exact hown _ rfl
      · rw [hat, hat]
        by_cases hl : (⟨.MOR_LINK_STAT, u', i'⟩ : Loc) = ⟨.MOR_LINK_STAT, u, i⟩
        · obtain ⟨-, rfl, rfl⟩ := Loc.mk.injEq .. ▸ hl
          exact hown _ rfl
        · have hne : ∀ f : Fld, f.reg = .MOR_LINK_STAT → ((c.setFld MOR_LINK_STAT.STATE u i 3).setFld MOR_LINK_STAT.UP u i 0).fld f u' i' = c.fld f u' i' :=
            fun f hf => by rw [Dev.fld_setFld_ne _ _ _ _ _ _ _ _ (by rw [hf]; exact hl), Dev.fld_setFld_ne _ _ _ _ _ _ _ _ (by rw [hf]; exact hl)]
          rw [hne _ rfl, hne _ rfl]
          exact h
  obtain ⟨a, ha, hav, ha1, -⟩ := hfirst d x k
  obtain ⟨b, hb, hbv, hb1, hbk⟩ := hfirst a y (peerLink d.variant k)
  obtain ⟨c, hc⟩ : ∃ c, c = b.morBoth x k fun d y j => [0, 1, 2].foldl (fun d c => (d.mortarFlush y (morQueue j c) fun s => s.flush 8192).2) d := ⟨_, rfl⟩
  have hdef : d.morFail x k = Dev.mortarResend d c := by
    rw [Dev.morFail, if_pos hup, hc, hb, ha, Dev.morBoth, hy]
  have hflush : ∀ (e : Dev) (u j : Nat), SameLinks e ([0, 1, 2].foldl (fun d c => (d.mortarFlush u (morQueue j c) fun s => s.flush 8192).2) e) := fun e u j =>
    SameLinks.foldl (fun e c => sameLinks_flush e u (morQueue j c) _) _ e
  have hsame : SameLinks b (d.morFail x k) := by
    rw [hdef]
    refine SameLinks.trans ?_ (sameLinks_resend d c)
    rw [hc, Dev.morBoth, hbv, hav, hy]
    exact (hflush b x k).trans (hflush _ y _)
  obtain ⟨hx1, hx2⟩ := hbk x k ha1
  refine ⟨(hsame.fld _ rfl (by decide) _ _).trans hx1, (hsame.fld _ rfl (by decide) _ _).trans hx2, (hsame.fld _ rfl (by decide) _ _).trans hb1.1,
    (hsame.fld _ rfl (by decide) _ _).trans hb1.2⟩

/-- A link that loses lanes in one half runs degraded at both ends (R41). -/
theorem morDegrade_effect {d : Dev} {x k y : Nat} (hy : linkPeer d.variant x k = some y) (hup : d.morUp x k = true)
    (hd : d.flag MOR_LINK_STAT.DEGRADED x k = false) :
    (d.morDegrade x k).fld MOR_LINK_STAT.DEGRADED x k = 1 ∧ (d.morDegrade x k).fld MOR_LINK_STAT.DEGRADED y (peerLink d.variant k) = 1 ∧
      (d.morDegrade x k).fld MOR_LINK_STAT.STATE x k = d.fld MOR_LINK_STAT.STATE x k := by
  obtain ⟨a, ha⟩ : ∃ a, a = (d.setFld MOR_LINK_STAT.DEGRADED x k 1).morEvent x k 30 := ⟨_, rfl⟩
  have hdef : d.morDegrade x k = (a.setFld MOR_LINK_STAT.DEGRADED y (peerLink d.variant k) 1).morEvent y (peerLink d.variant k) 30 := by
    rw [Dev.morDegrade, hup, if_neg (by decide), hd, if_neg (by decide), Dev.morBoth, hy, ha]
  have ha1 : a.fld MOR_LINK_STAT.DEGRADED x k = 1 := by rw [ha, Dev.morEvent, fld_raise, fld_setFld _ _ _ _ (by decide)]; rfl
  rw [hdef, Dev.morEvent, fld_raise, fld_raise, fld_raise]
  refine ⟨?_, ?_, ?_⟩
  · by_cases hl : (⟨.MOR_LINK_STAT, x, k⟩ : Loc) = ⟨.MOR_LINK_STAT, y, peerLink d.variant k⟩
    · obtain ⟨-, h1, h2⟩ := Loc.mk.injEq .. ▸ hl
      rw [← h1, ← h2, fld_setFld _ _ _ _ (by decide)]
      rfl
    · rw [Dev.fld_setFld_ne _ _ _ _ _ _ _ _ hl, ha1]
  · rw [fld_setFld _ _ _ _ (by decide)]
    rfl
  · rw [fld_setFld_apart _ _ _ _ _ _ (by decide) (by decide), ha, Dev.morEvent, fld_raise, fld_setFld_apart _ _ _ _ _ _ (by decide) (by decide)]

/-- Settles O51. -/
theorem mortarLinks : Obligations.MortarLinks := by
  unfold Obligations.MortarLinks
  intro s x k hx
  refine ⟨⟨fun p => State.does_perform (by dsimp only [exec]; rfl) rfl, State.does_perform (by dsimp only [exec]; rfl) rfl,
      State.does_perform (by dsimp only [exec]; rfl) rfl⟩, fun p hup => ⟨fun j r hd hr => ?_, fun hd hm hs hroot _ hq => ?_, fun q hd he hq => ?_⟩,
    fun y hy hup => ⟨?_, fun hd => ?_, fun hd => ?_⟩, ?_⟩
  · exact State.does_perform (by dsimp only [exec]; rfl) (mortarRx_passes hup hd hr)
  · intro ht
    have hw : p.words.length ≤ 80 := by
      simp only [Dev.takes, Instr.wf, MortarPkt.wf, Bool.and_eq_true, decide_eq_true_eq] at ht
      exact ht.1.2.1.2
    refine State.doesSome_perform (by dsimp only [exec]; rfl) ?_ ht
    exact mortarRx_first hup hd hm hs hroot hq hw
  · exact State.does_perform (by dsimp only [exec]; rfl) (mortarRx_duplicate hup hd he hq)
  · refine State.doesSome_perform (by dsimp only [exec]; rfl) ?_
    exact morFail_effect hy hup
  · refine State.doesSome_perform (by dsimp only [exec]; rfl) ?_
    exact morDegrade_effect hy hup hd
  · refine State.doesSome_perform (by dsimp only [exec]; rfl) ?_
    rw [Dev.morDegrade, hup, if_neg (by decide), if_pos hd]
    exact (morFail_effect hy hup).1
  · rintro i (rfl | rfl) hup
    · exact State.does_perform (by dsimp only [exec]; rfl) (by rw [Dev.morFail, hup]; rfl)
    · exact State.does_perform (by dsimp only [exec]; rfl) (by rw [Dev.morDegrade, hup]; rfl)

end Sys2Proof.Machine

/-! ## Buffer pools: commands of the mailboxes (R279 to R290) -/

namespace Sys2Proof.Machine

/-! What a command of a pool sends -/

theorem Sends.pool {d e : Dev} (h : Sends d e) (p : Nat) : e.pool p = d.pool p := h.eq (Dev.pool · p) fun _ _ _ _ _ _ => rfl

theorem Sends.mail {d e : Dev} (h : Sends d e) (m : Nat) : e.mail m = d.mail m := h.eq (Dev.mail · m) fun _ _ _ _ _ _ => rfl

theorem sends_poolStore (d : Dev) (p addr : Nat) (bytes : List Byte) (who : Who) : Sends d (d.poolStore p addr bytes who) := by
  unfold Dev.poolStore
  dsimp only
  split
  · exact (sends_fresh d).trans (sends_hostFrom _ _ _)
  · exact (((sends_fresh d).trans (sends_hostFrom _ _ _)).trans (sends_fresh _)).trans (sends_hostFrom _ _ _)

theorem sends_poolWriteEntry (d : Dev) (p : Nat) (j : PoolJob) (e : PoolEntry) :
    Sends (d.modPool p fun q => { q with jobs := (q.jobs.filter fun k => k.id != j.id) ++ [{ j with writing := true, nown := e.list.length }] })
      (d.poolWriteEntry p j e) := sends_poolStore _ _ _ _ _

/-- A refill asks the host for handles: of the pool only its refill differs. -/
theorem refill_sends (d : Dev) (p : Nat) : Sends d (d.refill p) ∨ ∃ v, Sends (d.modPool p fun q => { q with refill := v }) (d.refill p) := by
  unfold Dev.refill
  dsimp only
  split
  · split
    · exact .inr ⟨_, (((sends_fresh _).trans (sends_hostFrom _ _ _)).trans (sends_fresh _)).trans (sends_hostFrom _ _ _)⟩
    · exact .inr ⟨_, (sends_fresh _).trans (sends_hostFrom _ _ _)⟩
  · exact .inl (Sends.refl d)

theorem refill_kept (d : Dev) (p : Nat) :
    ((d.refill p).pool p).cache = (d.pool p).cache ∧ ((d.refill p).pool p).jobs = (d.pool p).jobs ∧ (∀ m, (d.refill p).mail m = d.mail m) ∧
      ∀ l : Loc, (d.refill p).at l = d.at l := by
  rcases refill_sends d p with h | ⟨v, h⟩
  · exact ⟨by rw [h.pool], by rw [h.pool], h.mail, h.at⟩
  · refine ⟨by rw [h.pool, pool_modPool_same], by rw [h.pool, pool_modPool_same], fun m => (h.mail m).trans (mail_modPool ..), fun l => (h.at l).trans rfl⟩

/-! The mailbox -/

/-- A register of the mailboxes, with no pair and outside package configuration, that a write leaves as it is. -/
def RegId.mailPulse (r : RegId) : Bool :=
  r.isMail && r.pairHi.isNone && r.pairLo.isNone && !r.isLk && r.outside && (r.writable true == 0) && (r.writable false == 0)

/-- A write of such a register is the work of the mailbox of the path that writes it. -/
theorem busWrite_mailPulse {d : Dev} {L : Locks} {src : Src} {l : Loc} {v at_ : Nat} (hf : l.fits d.n = true) (hr : l.reg.mailPulse = true)
    (hg : d.lets src l = true) :
    d.busWrite L src l.offset 4 15 v at_ =
      let r := (d.written src l).writeHook L src { l with u := src.path } (lockOf L l) (d.at { l with u := src.path }) (BitVec.ofNat 32 v)
      (if r.1 then r.2.accErr src true 10 l.offset 4 else r.2).answered src := by
  simp only [RegId.mailPulse, Bool.and_eq_true, Bool.not_eq_true', beq_iff_eq, Option.isNone_iff_eq_none] at hr
  obtain ⟨⟨⟨⟨⟨⟨hm, hhi⟩, hlo⟩, hk⟩, ho⟩, hw1⟩, hw2⟩ := hr
  have hc : l.isCfg = false := isCfg_outside ho
  have hc' : ({ l with u := src.path } : Loc).isCfg = false := isCfg_outside ho
  have hs : l.seenBy src = { l with u := src.path } := by simp [Loc.seenBy, hm]
  have hset : ∀ e : Dev, e.setMask src { l with u := src.path } (lockOf L l) = 0 := by
    intro e
    have hw : ∀ b, l.reg.writable b = 0 := by intro b; cases b <;> assumption
    unfold Dev.setMask
    repeat' split
    all_goals simp [hw]
  have hl : locate (d.served src l.offset).n l.offset = some l := locate_offset hf
  have hcourse : (d.served src l.offset).writeCourse L src l.offset (BitVec.ofNat 32 v) at_ =
      (let r := (d.written src l).writeHook L src { l with u := src.path } (lockOf L l) (d.at { l with u := src.path }) (BitVec.ofNat 32 v)
       (bif r.1 then some 10 else none, r.2)) := by
    simp only [Dev.writeCourse, hl, hs, hhi, hlo, hc', Option.isSome_none, Bool.false_eq_true, if_false, Option.map_none, hset, if_true, Dev.lockHit, hk,
      Bool.false_and, cond_false, Dev.written, served_at]
  simp only [busWrite_word hg (offset_word l) (locate_offset hf) hc, hcourse]
  refine congrArg (Dev.answered · src) ?_
  rcases (d.written src l).writeHook L src { l with u := src.path } (lockOf L l) (d.at { l with u := src.path }) (BitVec.ofNat 32 v) with ⟨_ | _, e⟩ <;> rfl

/-- A command given through the mailbox of a path. -/
theorem poolMail_eq {d : Dev} {L : Locks} {src : Src} {w : Word} (hp : src.path < 16) (hg : d.lets src ⟨.POOL_CMD, 0, 0⟩ = true) :
    d.poolMail L src w =
      let r := (d.written src ⟨.POOL_CMD, 0, 0⟩).mailWrite src.path w
      (if r.1 then r.2.accErr src true 10 (Loc.offset ⟨.POOL_CMD, 0, 0⟩) 4 else r.2).answered src := by
  rw [Dev.poolMail, busWrite_mailPulse (fits_pkg rfl (by decide) rfl) (show RegId.POOL_CMD.mailPulse = true by decide) hg]
  simp only [Dev.writeHook, show ¬ 16 ≤ src.path by omega, decide_false, Bool.false_eq_true, if_false, BitVec.ofNat_toNat, BitVec.setWidth_eq]

/-- What the word of a command says. -/
theorem mailCmd_poolWord {op p owner q : Nat} (m h : Nat) (hop : op < 16) (hp : p < 256) (ho : owner < 8) (hq : q < 8) :
    mailCmd m (poolWord op p owner q) h = { by_ := .mailbox m, op := op, pool := p, handle := h, owner := owner, newOwner := q } := by
  have hlt : op * 2 ^ 28 + p * 2 ^ 20 + owner * 256 + q < 2 ^ 32 := by omega
  unfold mailCmd poolWord
  rw [bitsOf_ofNat hlt, bitsOf_ofNat hlt, bitsOf_ofNat hlt, bitsOf_ofNat hlt]
  congr 1 <;> norm_num <;> omega

/-- A command written while the mailbox of its path is free is applied (R288). -/
theorem poolMail_free {d : Dev} {L : Locks} {src : Src} {w : Word} (hp : src.path < 16) (hg : d.lets src ⟨.POOL_CMD, 0, 0⟩ = true)
    (hm : d.mail src.path = {}) :
    d.poolMail L src w = (((d.written src ⟨.POOL_CMD, 0, 0⟩).setMail src.path { busy := true }).poolCmd
      (mailCmd src.path w (d.pair .POOL_ARG_LO .POOL_ARG_HI src.path 0))).answered src := by
  have hm' : (d.written src ⟨.POOL_CMD, 0, 0⟩).mail src.path = {} := hm
  rw [poolMail_eq hp hg]
  simp only [Dev.mailWrite, hm', Bool.not_false, if_true, Bool.false_eq_true, if_false]
  rfl

/-- One written behind a command that runs is held (R67). -/
theorem poolMail_busy {d : Dev} {L : Locks} {src : Src} {w : Word} (hp : src.path < 16) (hg : d.lets src ⟨.POOL_CMD, 0, 0⟩ = true)
    (hb : (d.mail src.path).busy = true) (hh : (d.mail src.path).held = none) :
    d.poolMail L src w = ((d.written src ⟨.POOL_CMD, 0, 0⟩).setMail src.path
      { d.mail src.path with held := some (w, d.pair .POOL_ARG_LO .POOL_ARG_HI src.path 0) }).answered src := by
  have hm' : (d.written src ⟨.POOL_CMD, 0, 0⟩).mail src.path = d.mail src.path := rfl
  rw [poolMail_eq hp hg]
  simp only [Dev.mailWrite, hm', hb, hh, Bool.not_true, Bool.false_eq_true, if_false, Option.isNone_none, if_true]
  rfl

theorem mail_setMail_same (d : Dev) (m : Nat) (v : Mail) : (d.setMail m v).mail m = v := Store.get_set_same _ _ _ _

theorem mail_answered (d : Dev) (src : Src) (m : Nat) : (d.answered src).mail m = d.mail m := answered_of_out (Dev.mail · m) (fun _ _ => rfl) d src

theorem pool_answered (d : Dev) (src : Src) (p : Nat) : (d.answered src).pool p = d.pool p := answered_of_out (Dev.pool · p) (fun _ _ => rfl) d src

/-! What a pool is -/

/-- Two states in which a pool and its set-up are the same, and the registers but POOL_STAT. -/
structure SamePool (p : Nat) (d e : Dev) : Prop where
  home : e.homeOf p = d.homeOf p
  at_ : ∀ l : Loc, l.reg ≠ .POOL_STAT → e.at l = d.at l
  on : e.poolOn p = d.poolOn p
  pool : e.pool p = d.pool p

namespace SamePool
variable {p : Nat} {d e : Dev}

theorem reg (h : SamePool p d e) {r : RegId} (hr : r ≠ .POOL_STAT) (u i : Nat) : e.reg r u i = d.reg r u i := h.at_ _ hr

theorem fld (h : SamePool p d e) {f : Fld} (hf : f.reg ≠ .POOL_STAT) (u i : Nat) : e.fld f u i = d.fld f u i := fld_of_at (h.at_ _ hf)

theorem owners (h : SamePool p d e) : e.poolOwners p = d.poolOwners p := by rw [Dev.poolOwners, h.fld (by decide), h.home]; rfl

theorem count (h : SamePool p d e) : e.poolCount p = d.poolCount p := by rw [Dev.poolCount, h.reg (by decide), h.home]; rfl

theorem free (h : SamePool p d e) : e.poolFree p = d.poolFree p := by rw [Dev.poolFree, h.reg (by decide)]; rfl

theorem chg (h : SamePool p d e) (o : Nat) : e.poolChg p o = d.poolChg p o := by rw [Dev.poolChg, h.reg (by decide)]; rfl

theorem resv (h : SamePool p d e) (o : Nat) : e.poolResv p o = d.poolResv p o := by rw [Dev.poolResv, h.reg (by decide), h.home]; rfl

theorem avail (h : SamePool p d e) (o : Nat) : e.avail p o = d.avail p o := by
  simp only [Dev.avail, h.free, h.owners, h.resv, h.chg]

theorem clear (h : SamePool p d e) (i : Nat) : e.poolClear p i = d.poolClear p i := by rw [Dev.poolClear, Dev.poolClear, h.pool]

end SamePool

theorem samePool_setRr (d : Dev) (p v : Nat) : SamePool p d (d.setFld POOL_STAT.RR 0 p v) where
  home := homeOf_frame (d := d) rfl p
  at_ _ hl := at_setReg_ne _ _ _ _ _ (by rintro rfl; exact hl rfl)
  on := by
    rw [Dev.poolOn, Dev.poolOn, Dev.flag, Dev.flag, fld_setFld_apart d (f := POOL_STAT.RR) (g := POOL_STAT.ACTIVE) _ _ _ _ _ (by decide) (by decide)]
  pool := rfl

/-! How a command is taken (R284, R286) -/

theorem poolCmd_badOp {d : Dev} {c : PoolCmd} (h : c.op = 0 ∨ 4 < c.op) : ∃ v, d.poolCmd c = (d.setFld POOL_STAT.RR 0 c.pool v).poolReject c 13 := by
  unfold Dev.poolCmd
  simp only [show ¬ (c.op = 2 ∨ c.op = 3 ∨ c.op = 4) by omega, if_false, if_pos h]
  exact ⟨_, rfl⟩

theorem poolCmd_get {d : Dev} {c : PoolCmd} (h : c.op = 1) : ∃ v, d.poolCmd c =
    if d.poolOn c.pool = false then (d.setFld POOL_STAT.RR 0 c.pool v).poolReject c 10
    else if d.poolOwners c.pool ≤ c.owner then (d.setFld POOL_STAT.RR 0 c.pool v).poolReject c 9
    else ((d.setFld POOL_STAT.RR 0 c.pool v).poolTake c).refill c.pool := by
  unfold Dev.poolCmd
  have h1 : ¬ (c.op = 2 ∨ c.op = 3 ∨ c.op = 4) := by omega
  have h2 : ¬ (c.op = 0 ∨ 4 < c.op) := by omega
  have h3 : (c.op != 1) = false := by simp [h]
  have h4 : ¬ c.op = 2 := by omega
  simp only [h1, if_false]
  simp only [h2, h3, h4, if_pos h, if_false, false_and, or_false, Bool.false_and, Bool.false_eq_true, (samePool_setRr d c.pool _).on,
    (samePool_setRr d c.pool _).owners, Bool.not_eq_true']
  exact ⟨_, rfl⟩

/-- The pool that a command on a handle is for. -/
def PoolCmd.routed (c : PoolCmd) : PoolCmd := { c with pool := handlePool c.handle }

theorem poolCmd_handle {d : Dev} {c : PoolCmd} (h : c.op = 2 ∨ c.op = 3 ∨ c.op = 4) (hon : d.poolOn (handlePool c.handle) = true) (hlt : c.handle < 2 ^ 48)
    (hgen : handleGen c.handle ≠ 0) (hix : handleIndex c.handle < d.poolCount (handlePool c.handle))
    (how : c.owner < d.poolOwners (handlePool c.handle)) (hnew : c.op = 2 → c.newOwner < d.poolOwners (handlePool c.handle))
    (hclear : d.poolClear (handlePool c.handle) (handleIndex c.handle) = true) :
    ∃ v, d.poolCmd c = (d.setFld POOL_STAT.RR 0 (handlePool c.handle) v).poolStart c.routed := by
  unfold Dev.poolCmd
  have h1 : ¬ (c.op = 0 ∨ 4 < c.op) := by omega
  have h2 : (c.op != 1) = true := by rw [bne_iff_ne]; omega
  have hgen' : (handleGen c.handle == 0) = false := by simpa using hgen
  simp only [if_pos h, h1, if_false, (samePool_setRr d _ _).on, hon, Bool.not_true, Bool.false_eq_true, h2, decide_eq_false (Nat.not_le.mpr hlt), hgen',
    (samePool_setRr d _ _).count, decide_eq_false (Nat.not_le.mpr hix), Bool.or_false, Bool.and_false, (samePool_setRr d _ _).owners,
    show ¬ (d.poolOwners (handlePool c.handle) ≤ c.owner ∨ c.op = 2 ∧ d.poolOwners (handlePool c.handle) ≤ c.newOwner) by omega,
    show ¬ c.op = 1 by omega, (samePool_setRr d _ _).clear, hclear]
  exact ⟨_, rfl⟩

/-! What the steps of a command do -/

/-- The registers in which a result of a command shows. -/
def poolResults : List RegId := [.POOL_REJECT, .POOL_RES_STAT, .POOL_RES_LO, .POOL_RES_HI]

/-- The result of a command given to its mailbox (R288). -/
theorem poolGive_mail {d : Dev} {c : PoolCmd} {m : Nat} (hc : c.by_ = .mailbox m) (status handle nown : Nat) :
    (d.poolGive c status handle nown).mail m = { d.mail m with busy := false } ∧
      (d.poolGive c status handle nown).reg .POOL_RES_STAT m =
        BitVec.ofNat 32 ((d.fld POOL_RES_STAT.SEQ m + 1) % 65536 * 65536 + c.op * 4096 + nown * 256 + status) ∧
      (∀ p, (d.poolGive c status handle nown).pool p = d.pool p) ∧
      (d.poolGive c status handle nown).homeOf = d.homeOf ∧
      ∀ l : Loc, l.reg ∉ poolResults → (d.poolGive c status handle nown).at l = d.at l := by
  simp only [Dev.poolGive, hc]
  refine ⟨mail_setMail_same .., ?_, fun _ => rfl, ?_, fun l hl => ?_⟩
  · exact ((reg_setReg_ne _ _ _ _ _ _ (by decide)).trans (reg_setReg_ne _ _ _ _ _ _ (by decide))).trans (reg_setReg_same ..)
  · exact funext fun n => homeOf_frame (d := d) rfl n
  · simp only [poolResults, List.mem_cons, List.not_mem_nil, or_false, not_or] at hl
    obtain ⟨-, h1, h2, h3⟩ := hl
    exact ((at_setReg_ne _ _ _ _ _ (by rintro rfl; exact h3 rfl)).trans (at_setReg_ne _ _ _ _ _ (by rintro rfl; exact h2 rfl))).trans
      (at_setReg_ne _ _ _ _ _ (by rintro rfl; exact h1 rfl))

/-- The counts of refused commands. -/
theorem poolReject_count (d : Dev) (c : PoolCmd) (status nown : Nat) : ∃ b : Dev,
    d.poolReject c status nown = b.poolGive c status (if c.op = 1 then 0 else c.handle) nown ∧ (∀ m, b.mail m = d.mail m) ∧ (∀ p, b.pool p = d.pool p) ∧
      b.homeOf = d.homeOf ∧ (∀ l : Loc, l.reg ≠ .POOL_REJECT → b.at l = d.at l) ∧ (status = 1 → b = d.bump POOL_REJECT.EMPTY 0 c.pool) := by
  have hcnt : ∀ f : Fld, f.reg = .POOL_REJECT → ∀ x cls (k : Loc) bit s (l : Loc), l.reg ≠ .POOL_REJECT →
      ((d.bump f 0 c.pool).raise x cls k bit s).at l = d.at l := fun f hf _ _ _ _ _ l hl =>
    (at_raise ..).trans (at_setReg_ne _ _ _ _ _ (by rintro rfl; exact hl hf))
  unfold Dev.poolReject
  refine ⟨_, rfl, ?_⟩
  split
  · exact ⟨fun _ => rfl, fun _ => rfl, funext fun n => homeOf_frame (d := d) rfl n,
      fun l hl => at_setReg_ne _ _ _ _ _ (by rintro rfl; exact hl rfl), fun _ => rfl⟩
  next h1 =>
    refine ⟨?_, ?_, ?_, ?_, fun h => absurd h h1⟩
    · intro m; split <;> [rfl; (split <;> rfl)]
    · intro p; split <;> [rfl; (split <;> rfl)]
    · funext n
      refine homeOf_frame ?_ n
      split <;> [rfl; (split <;> rfl)]
    · intro l hl
      split
      · exact hcnt _ rfl _ _ _ _ _ l hl
      · split
        · exact hcnt _ rfl _ _ _ _ _ l hl
        · exact at_raise ..

/-- A command of a mailbox that ends without having been let through. -/
theorem poolReject_mail {d : Dev} {c : PoolCmd} {m : Nat} (hc : c.by_ = .mailbox m) (status nown : Nat) :
    (d.poolReject c status nown).mail m = { d.mail m with busy := false } ∧
      (d.poolReject c status nown).reg .POOL_RES_STAT m =
        BitVec.ofNat 32 ((d.fld POOL_RES_STAT.SEQ m + 1) % 65536 * 65536 + c.op * 4096 + nown * 256 + status) ∧
      (∀ p, (d.poolReject c status nown).pool p = d.pool p) ∧ (d.poolReject c status nown).homeOf = d.homeOf ∧
      (∀ l : Loc, l.reg ∉ poolResults → (d.poolReject c status nown).at l = d.at l) ∧
      (status = 1 → (d.poolReject c status nown).fld POOL_REJECT.EMPTY 0 c.pool = min (d.fld POOL_REJECT.EMPTY 0 c.pool + 1) 65535) := by
  obtain ⟨b, hb, hmail, hpool, hhome, hat, hempty⟩ := poolReject_count d c status nown
  obtain ⟨h1, h2, h3, h4, h5⟩ := poolGive_mail (d := b) hc status (if c.op = 1 then 0 else c.handle) nown
  have hg : ∀ l : Loc, l.reg = .POOL_REJECT → (b.poolGive c status (if c.op = 1 then 0 else c.handle) nown).at l = b.at l := fun l hl => by
    simp only [Dev.poolGive, hc]
    exact ((at_setReg_ne _ _ _ _ _ (by rintro rfl; cases hl)).trans (at_setReg_ne _ _ _ _ _ (by rintro rfl; cases hl))).trans
      (at_setReg_ne _ _ _ _ _ (by rintro rfl; cases hl))
  rw [hb]
  refine ⟨by rw [h1, hmail], ?_, fun p => (h3 p).trans (hpool p), h4.trans hhome, fun l hl => (h5 l hl).trans (hat l ?_), fun hs => ?_⟩
  · rw [h2, fld_of_at (f := POOL_RES_STAT.SEQ) (hat _ (show RegId.POOL_RES_STAT ≠ .POOL_REJECT by decide))]
  · rintro h; exact hl (by rw [h]; decide)
  · rw [fld_of_at (f := POOL_REJECT.EMPTY) (hg _ rfl), hempty hs]
    exact fld_bump d 0 c.pool (f := POOL_REJECT.EMPTY) (by decide)

/-- The entry of a command is being written: of the registers none changes. -/
theorem poolWriteEntry_effect (d : Dev) (p : Nat) (j : PoolJob) (e : PoolEntry) :
    (d.poolWriteEntry p j e).pool p =
        { d.pool p with jobs := ((d.pool p).jobs.filter fun k => k.id != j.id) ++ [{ j with writing := true, nown := e.list.length }] } ∧
      (∀ m, (d.poolWriteEntry p j e).mail m = d.mail m) ∧ ∀ l : Loc, (d.poolWriteEntry p j e).at l = d.at l := by
  have hs := sends_poolWriteEntry d p j e
  refine ⟨(hs.pool p).trans ?_, fun m => (hs.mail m).trans (mail_modPool ..), fun l => (hs.at l).trans rfl⟩
  exact pool_modPool_same d p fun q =>
    { q with jobs := (q.jobs.filter fun k => k.id != j.id) ++ [{ j with writing := true, nown := e.list.length }] }

/-- A command whose state entry is to be read first (R284). -/
theorem poolStart_effect (d : Dev) (c : PoolCmd) :
    (d.poolStart c).pool c.pool = { d.pool c.pool with
        jobs := (d.pool c.pool).jobs ++ [{ id := d.nextId, cmd := c, index := handleIndex c.handle, result := c.handle }] } ∧
      (∀ m, (d.poolStart c).mail m = d.mail m) ∧ ∀ l : Loc, (d.poolStart c).at l = d.at l := by
  have hs : Sends (d.fresh.2.modPool c.pool fun q =>
      { q with jobs := q.jobs ++ [{ id := d.nextId, cmd := c, index := handleIndex c.handle, result := c.handle }] }) (d.poolStart c) :=
    (sends_fresh _).trans (sends_hostFrom _ _ _)
  refine ⟨(hs.pool c.pool).trans ?_, fun m => (hs.mail m).trans rfl, fun l => (hs.at l).trans rfl⟩
  exact pool_modPool_same d.fresh.2 c.pool fun q =>
    { q with jobs := q.jobs ++ [{ id := d.nextId, cmd := c, index := handleIndex c.handle, result := c.handle }] }

/-- A GET that finds a cached handle and a buffer available takes it and writes its state entry (R284). -/
theorem poolTake_takes {d : Dev} {c : PoolCmd} {h : Nat} {r : List Nat} (ha : 0 < d.avail c.pool c.owner) (hcache : (d.pool c.pool).cache = h :: r)
    (hclear : d.poolClear c.pool (handleIndex h) = true) :
    ∃ j : PoolJob, j.index = handleIndex h ∧ j.writing = true ∧ j.result = h ∧ j.cmd = c ∧
      ((d.poolTake c).pool c.pool).cache = r ∧ j ∈ ((d.poolTake c).pool c.pool).jobs ∧ (∀ m, (d.poolTake c).mail m = d.mail m) ∧
      (d.poolTake c).reg .POOL_FREE 0 c.pool = BitVec.ofNat 32 (d.poolFree c.pool - 1) ∧
      (d.poolTake c).reg .POOL_CHG 0 (c.pool * 8 + c.owner) = BitVec.ofNat 32 (d.poolChg c.pool c.owner + 1) := by
  unfold Dev.poolTake
  simp only [if_neg (Nat.ne_of_gt ha), hcache, hclear, Bool.not_true, Bool.false_eq_true, if_false]
  obtain ⟨b, hb⟩ : ∃ b, b = ((d.modPool c.pool fun q => { q with cache := r }).syncCache c.pool) := ⟨_, rfl⟩
  have hfree : b.poolFree c.pool = d.poolFree c.pool := by
    rw [hb, Dev.poolFree, Dev.syncCache]
    exact congrArg BitVec.toNat (at_setReg_ne _ _ _ _ _ (by simp))
  have hchg : b.poolChg c.pool c.owner = d.poolChg c.pool c.owner := by
    rw [hb, Dev.poolChg, Dev.syncCache]
    exact congrArg BitVec.toNat (at_setReg_ne _ _ _ _ _ (by simp))
  have hpool : b.pool c.pool = { d.pool c.pool with cache := r } := by rw [hb]; exact pool_modPool_same d c.pool fun q => { q with cache := r }
  have hmail : ∀ m, b.mail m = d.mail m := fun m => by rw [hb]; rfl
  rw [← hb]
  clear hb
  rw [hfree, hchg]
  obtain ⟨g, hg⟩ : ∃ g, g = (b.setPoolFree c.pool (d.poolFree c.pool - 1)).setPoolChg c.pool c.owner (d.poolChg c.pool c.owner + 1) := ⟨_, rfl⟩
  have hgp : g.pool c.pool = { d.pool c.pool with cache := r } := by rw [hg, ← hpool]; rfl
  have hgm : ∀ m, g.mail m = d.mail m := fun m => by rw [← hmail, hg]; rfl
  have hgf : g.reg .POOL_FREE 0 c.pool = BitVec.ofNat 32 (d.poolFree c.pool - 1) := by
    rw [hg, Dev.setPoolChg, reg_setReg_ne _ _ _ _ _ _ (by decide), Dev.setPoolFree, reg_setReg_same]
  have hgc : g.reg .POOL_CHG 0 (c.pool * 8 + c.owner) = BitVec.ofNat 32 (d.poolChg c.pool c.owner + 1) := by
    rw [hg, Dev.setPoolChg, reg_setReg_same]
  rw [← hg]
  clear hg
  obtain ⟨hp, hm, hat⟩ := poolWriteEntry_effect g.fresh.2 c.pool { id := g.fresh.1, cmd := c, index := handleIndex h, result := h }
    { gen := handleGen h, held := true, freed := false, list := [c.owner] }
  refine ⟨{ id := g.fresh.1, cmd := c, index := handleIndex h, writing := true, result := h, nown := 1 }, rfl, rfl, rfl, rfl,
    (congrArg Pool.cache hp).trans (congrArg Pool.cache hgp), ?_, fun m => (hm m).trans (hgm m), (hat _).trans hgf, (hat _).trans hgc⟩
  rw [hp]
  exact List.mem_append_right _ (List.mem_singleton_self _)

/-! The commands of a mailbox that is free -/

/-- The state in which a command written to a free mailbox starts. -/
def Dev.mailed (d : Dev) (src : Src) : Dev := (d.written src ⟨.POOL_CMD, 0, 0⟩).setMail src.path { busy := true }

theorem samePool_mailed (d : Dev) (src : Src) (p : Nat) : SamePool p d (d.mailed src) where
  home := homeOf_frame (d := d) rfl p
  at_ _ _ := rfl
  on := rfl
  pool := rfl

theorem SamePool.trans {p : Nat} {d e c : Dev} (h : SamePool p d e) (h' : SamePool p e c) : SamePool p d c :=
  ⟨h'.home.trans h.home, fun l hl => (h'.at_ l hl).trans (h.at_ l hl), h'.on.trans h.on, h'.pool.trans h.pool⟩

/-- The result that ends a command at once; what follows it leaves the registers as they are. -/
theorem mailed_rejected (d : Dev) (src : Src) (v q : Nat) {c : PoolCmd} (hc : c.by_ = .mailbox src.path) (status : Nat) {k : Dev}
    (hmail : ∀ m, k.mail m = (((d.mailed src).setFld POOL_STAT.RR 0 q v).poolReject c status).mail m)
    (hat : ∀ l : Loc, k.at l = (((d.mailed src).setFld POOL_STAT.RR 0 q v).poolReject c status).at l) :
    (((k.answered src).mail src.path).busy = false ∧ (k.answered src).reg .POOL_RES_STAT src.path =
      BitVec.ofNat 32 ((d.fld POOL_RES_STAT.SEQ src.path + 1) % 65536 * 65536 + c.op * 4096 + status)) ∧
      (status = 1 → (k.answered src).fld POOL_REJECT.EMPTY 0 c.pool = min (d.fld POOL_REJECT.EMPTY 0 c.pool + 1) 65535) := by
  have hs : SamePool q d ((d.mailed src).setFld POOL_STAT.RR 0 q v) := (samePool_mailed d src q).trans (samePool_setRr ..)
  obtain ⟨h1, h2, -, -, -, h6⟩ := poolReject_mail (d := (d.mailed src).setFld POOL_STAT.RR 0 q v) hc status 0
  refine ⟨⟨by rw [mail_answered, hmail, h1], ?_⟩, fun hst => ?_⟩
  · rw [Dev.reg, at_answered, hat, ← Dev.reg, h2, hs.fld (by decide)]
    simp
  · rw [fld_answered, fld_of_at (f := POOL_REJECT.EMPTY) (hat _), h6 hst, hs.fld (by decide)]

theorem poolTake_empty {d : Dev} {c : PoolCmd} (h : d.avail c.pool c.owner = 0) : d.poolTake c = d.poolReject c 1 := by
  unfold Dev.poolTake
  simp only [h, if_true]

/-- A GET that is let through takes the oldest cached handle (R282, R284). -/
theorem mailed_gets (d : Dev) (src : Src) (v : Nat) {c : PoolCmd} {h : Nat} {r : List Nat} (ha : 0 < d.avail c.pool c.owner)
    (hcache : (d.pool c.pool).cache = h :: r) (hclear : d.poolClear c.pool (handleIndex h) = true) :
    let e := ((((d.mailed src).setFld POOL_STAT.RR 0 c.pool v).poolTake c).refill c.pool).answered src
    (e.pool c.pool).cache = r ∧ e.poolFree c.pool + 1 = d.poolFree c.pool ∧ e.poolChg c.pool c.owner = (d.poolChg c.pool c.owner + 1) % 2 ^ 32 ∧
      (e.mail src.path).busy = true ∧ ∃ j ∈ (e.pool c.pool).jobs, j.index = handleIndex h ∧ j.writing = true ∧ j.result = h := by
  have hs : SamePool c.pool d ((d.mailed src).setFld POOL_STAT.RR 0 c.pool v) := (samePool_mailed d src c.pool).trans (samePool_setRr ..)
  have hm : ((d.mailed src).setFld POOL_STAT.RR 0 c.pool v).mail src.path = { busy := true } := mail_setMail_same _ src.path { busy := true }
  generalize (d.mailed src).setFld POOL_STAT.RR 0 c.pool v = b at hs hm
  obtain ⟨j, hi, hw, hres, -, hr, hj, hmail, hfree, hchg⟩ := poolTake_takes (d := b) (c := c) (hs.avail _ ▸ ha) (hs.pool ▸ hcache) (hs.clear _ ▸ hclear)
  obtain ⟨hc, hjobs, hmails, hat⟩ := refill_kept (b.poolTake c) c.pool
  have hle : 0 < d.poolFree c.pool := Nat.lt_of_lt_of_le ha (Nat.sub_le ..)
  have hlt : d.poolFree c.pool < 2 ^ 32 := BitVec.isLt _
  rw [hs.free] at hfree
  rw [hs.chg] at hchg
  refine ⟨by rw [pool_answered, hc, hr], ?_, ?_, by rw [mail_answered, hmails, hmail, hm], j, by rw [pool_answered, hjobs]; exact hj, hi, hw, hres⟩
  · rw [Dev.poolFree, Dev.reg, at_answered, hat, ← Dev.reg, hfree, BitVec.toNat_ofNat]
    omega
  · rw [Dev.poolChg, Dev.reg, at_answered, hat, ← Dev.reg, hchg, BitVec.toNat_ofNat]

/-- A command on a handle that its pool knows reads the state entry first (R284). -/
theorem mailed_starts (d : Dev) (src : Src) (v : Nat) (c : PoolCmd) (hjobs : (d.pool c.pool).jobs = []) :
    let e := (((d.mailed src).setFld POOL_STAT.RR 0 c.pool v).poolStart c).answered src
    (e.mail src.path).busy = true ∧ ∃ j : PoolJob, (e.pool c.pool).jobs = [j] ∧ j.index = handleIndex c.handle ∧ j.writing = false ∧
      j.cmd = c ∧ j.result = c.handle := by
  have hs : SamePool c.pool d ((d.mailed src).setFld POOL_STAT.RR 0 c.pool v) := (samePool_mailed d src c.pool).trans (samePool_setRr ..)
  have hm : ((d.mailed src).setFld POOL_STAT.RR 0 c.pool v).mail src.path = { busy := true } := mail_setMail_same _ src.path { busy := true }
  generalize (d.mailed src).setFld POOL_STAT.RR 0 c.pool v = b at hs hm
  obtain ⟨hp, hmail, -⟩ := poolStart_effect b c
  refine ⟨by rw [mail_answered, hmail, hm], { id := b.nextId, cmd := c, index := handleIndex c.handle, result := c.handle }, ?_, rfl, rfl, rfl, rfl⟩
  rw [pool_answered, hp, hs.pool, hjobs]
  rfl

/-- Settles O38, one kind of command and of mailbox at a time. -/
theorem poolCommands : Obligations.PoolCommands := by
  unfold Obligations.PoolCommands
  intro s src p owner hg hp hp256 hown
  dsimp only
  have hget := mailCmd_poolWord src.path (s.dev.pair .POOL_ARG_LO .POOL_ARG_HI src.path 0) (op := 1) (q := 0) (by decide) hp256 hown (by decide)
  refine ⟨fun hm => ?_, fun hb hh => ?_⟩
  · have hmail : ∀ w, s.dev.poolMail s.locks src w =
        ((s.dev.mailed src).poolCmd (mailCmd src.path w (s.dev.pair .POOL_ARG_LO .POOL_ARG_HI src.path 0))).answered src :=
      fun w => poolMail_free hp hg hm
    obtain ⟨c, hc⟩ : ∃ c, c = mailCmd src.path (poolWord 1 p owner 0) (s.dev.pair .POOL_ARG_LO .POOL_ARG_HI src.path 0) := ⟨_, rfl⟩
    rw [hget] at hc
    have hsame := samePool_mailed s.dev src c.pool
    obtain ⟨v, hv⟩ := poolCmd_get (d := s.dev.mailed src) (c := c) (by rw [hc])
    rw [hsame.on, hsame.owners] at hv
    have hgot : ∀ P : Dev → Prop, P (((s.dev.mailed src).poolCmd c).answered src) → s.DoesSome (.poolGet src p owner) P := fun P h => by
      refine State.doesSome_perform (by dsimp only [exec]; rfl) ?_
      rw [hmail, hget, ← hc]
      exact h
    have hby : c.by_ = .mailbox src.path := by rw [hc]
    have hpool : c.pool = p := by rw [hc]
    have howner : c.owner = owner := by rw [hc]
    have hop : c.op = 1 := by rw [hc]
    clear hc
    subst hpool howner
    have hended : ∀ {k : Dev} (q v st : Nat), (∀ m, k.mail m = (((s.dev.mailed src).setFld POOL_STAT.RR 0 q v).poolReject c st).mail m) →
        (∀ l : Loc, k.at l = (((s.dev.mailed src).setFld POOL_STAT.RR 0 q v).poolReject c st).at l) →
        ((k.answered src).mail src.path).busy = false ∧ (k.answered src).reg .POOL_RES_STAT src.path =
          BitVec.ofNat 32 ((s.dev.fld POOL_RES_STAT.SEQ src.path + 1) % 65536 * 65536 + 1 * 4096 + st) := fun q v st h1 h2 => by
      have := (mailed_rejected s.dev src v q hby st h1 h2).1
      rwa [hop] at this
    refine ⟨fun hon how => ⟨fun g r hcache ha hclear => hgot _ ?_, fun ha => hgot _ ?_⟩, fun hon how => hgot _ ?_, fun hoff => hgot _ ?_,
      fun op hbad h16 => ?_, fun i op q hi hq hh hon hgen hix ho hn hjobs => ?_⟩
    · rw [hv, if_neg (by simp [hon]), if_neg (by omega)]
      exact mailed_gets s.dev src v ha hcache hclear
    · have hs : SamePool c.pool s.dev ((s.dev.mailed src).setFld POOL_STAT.RR 0 c.pool v) := hsame.trans (samePool_setRr ..)
      rw [hv, if_neg (by simp [hon]), if_neg (by omega), poolTake_empty ((hs.avail _).trans ha)]
      obtain ⟨-, -, hmails, hat⟩ := refill_kept (((s.dev.mailed src).setFld POOL_STAT.RR 0 c.pool v).poolReject c 1) c.pool
      exact ⟨hended _ _ _ hmails hat, (mailed_rejected s.dev src v c.pool hby 1 hmails hat).2 rfl⟩
    · rw [hv, if_neg (by simp [hon]), if_pos how]
      exact hended _ _ _ (fun _ => rfl) fun _ => rfl
    · rw [hv, if_pos hoff]
      exact hended _ _ _ (fun _ => rfl) fun _ => rfl
    · have hbadop := mailCmd_poolWord src.path (s.dev.pair .POOL_ARG_LO .POOL_ARG_HI src.path 0) (owner := 0) (q := 0) h16 hp256 (by decide) (by decide)
      refine State.doesSome_perform (by dsimp only [exec]; rfl) ?_
      rw [hmail, hbadop]
      obtain ⟨v, hv⟩ := poolCmd_badOp (d := s.dev.mailed src) (c :=
        { by_ := .mailbox src.path, op := op, pool := c.pool, handle := s.dev.pair .POOL_ARG_LO .POOL_ARG_HI src.path 0, owner := 0, newOwner := 0 }) hbad
      rw [hv]
      exact (mailed_rejected s.dev src v c.pool rfl 13 (fun _ => rfl) fun _ => rfl).1
    · have hopn : op = 2 ∨ op = 3 ∨ op = 4 := by rcases hi with ⟨-, h⟩ | ⟨-, h⟩ | ⟨-, h⟩ <;> omega
      obtain ⟨q', hq', hqn, hx⟩ : ∃ q', q' < 8 ∧ (op = 2 → q' = q) ∧
          exec i s = perform i s fun L d => d.poolMail L src (poolWord op c.pool c.owner q') := by
        rcases hi with ⟨rfl, rfl⟩ | ⟨rfl, rfl⟩ | ⟨rfl, rfl⟩
        · exact ⟨q, hq, fun _ => rfl, by dsimp only [exec]; rfl⟩
        · exact ⟨0, by decide, fun h => absurd h (by decide), by dsimp only [exec]; rfl⟩
        · exact ⟨0, by decide, fun h => absurd h (by decide), by dsimp only [exec]; rfl⟩
      refine State.doesSome_perform hx ?_
      have hword := mailCmd_poolWord src.path (s.dev.pair .POOL_ARG_LO .POOL_ARG_HI src.path 0) (op := op) (by omega) hp256 hown hq'
      rw [hmail, hword]
      generalize s.dev.pair .POOL_ARG_LO .POOL_ARG_HI src.path 0 = h at *
      have hsh := samePool_mailed s.dev src (handlePool h)
      obtain ⟨v, hv⟩ := poolCmd_handle (d := s.dev.mailed src) (c :=
        { by_ := .mailbox src.path, op := op, pool := c.pool, handle := h, owner := c.owner, newOwner := q' }) hopn (hsh.on.trans hon) hh hgen (hsh.count ▸ hix) (hsh.owners ▸ ho) (fun h2 => by rw [hsh.owners, hqn h2]; exact hn h2)
        ((hsh.clear _).trans (by simp [Dev.poolClear, hjobs]))
      rw [hv]
      obtain ⟨hbusy, j, hj, hji, hjw, hjc, hjr⟩ := mailed_starts s.dev src v (PoolCmd.routed
        { by_ := .mailbox src.path, op := op, pool := c.pool, handle := h, owner := c.owner, newOwner := q' }) hjobs
      exact ⟨hbusy, j, hj, hji, hjw, by rw [hjc]; rfl, by rw [hjc]; rfl, hjr⟩
  · refine State.doesSome_perform (by dsimp only [exec]; rfl) ?_
    rw [poolMail_busy hp hg hb hh]
    exact ⟨(mail_answered ..).trans (mail_setMail_same ..), (pool_answered ..).trans rfl⟩

end Sys2Proof.Machine

/-! ## Buffer pools: the ends of state reads and refills (R276, R278, R281, R284, R287) -/

namespace Sys2Proof.Machine

/-! Reads that are over -/

theorem sends_retag : ∀ (k : Nat) (d : Dev) (x : Nat), Sends d (Dev.retag k d x)
  | 0, d, _ => Sends.refl d
  | k + 1, d, x => by
    unfold Dev.retag
    split
    · exact Sends.refl d
    · split
      · exact (((sends_modPx _ _ _).trans (sends_modPx _ _ _)).trans (sends_emit _ _)).trans (sends_retag k _ x)
      · exact Sends.refl d

theorem sends_dropReq (d : Dev) (x : Nat) (f : Who → Bool) : Sends d (d.dropReq x f) := (sends_modPx d x _).trans (sends_retag _ _ x)

theorem Sends.foldl {α : Type} {f : Dev → α → Dev} (hf : ∀ d a, Sends d (f d a)) : ∀ (xs : List α) (d : Dev), Sends d (xs.foldl f d)
  | [], d => Sends.refl d
  | a :: xs, d => (hf d a).trans (Sends.foldl hf xs _)

theorem sends_dropAll (d : Dev) (f : Who → Bool) : Sends d (d.dies.foldl (fun d x => d.dropReq x f) d) := Sends.foldl (fun d x => sends_dropReq d x f) _ d

theorem Sends.home {d e : Dev} (h : Sends d e) (p : Nat) : e.homeOf p = d.homeOf p := h.eq (Dev.homeOf · p) fun _ _ _ _ _ _ => rfl

theorem Sends.samePool {d e : Dev} (h : Sends d e) (p : Nat) : SamePool p d e :=
  ⟨h.home p, fun l _ => h.at l, congrArg (· != 0) (h.fld POOL_STAT.ACTIVE 0 p), h.pool p⟩

/-! A read of a state entry ends -/

theorem poolNext_idle {d : Dev} {p : Nat} (h : (d.pool p).queue = []) : d.poolNext (d.pool p).queue.length p = d := by
  rw [h]
  rfl

/-- The job of a command is over. -/
def Dev.jobOver (d : Dev) (p id : Nat) : Dev := d.modPool p fun q => { q with jobs := q.jobs.filter fun k => k.id != id }

section
variable {d : Dev} {p id : Nat} {j : PoolJob} (hj : (d.pool p).jobs = [j]) (hq : (d.pool p).queue = []) (hid : j.id = id) (hw : j.writing = false)
include hj hid hw

theorem find_job : ((d.pool p).jobs.find? fun j => j.id == id && !j.writing) = some j := by
  rw [hj, List.find?_cons_of_pos (by simp [hid, hw])]

omit hw in
theorem pool_jobOver : (d.jobOver p id).pool p = { d.pool p with jobs := [] } := by
  refine (pool_modPool_same d p fun q => { q with jobs := q.jobs.filter fun k => k.id != id }).trans ?_
  simp [hj, hid]

omit hw in
include hq in
/-- A command that ends with a status at its mailbox. -/
theorem jobRejected {m : Nat} (hm : j.cmd.by_ = .mailbox m) {b : Dev} (hpool : b.pool p = (d.jobOver p id).pool p)
    (hseq : b.fld POOL_RES_STAT.SEQ m = d.fld POOL_RES_STAT.SEQ m) (st nown : Nat) :
    let e := (b.poolReject j.cmd st nown).poolNext ((b.poolReject j.cmd st nown).pool p).queue.length p
    ((e.mail m).busy = false ∧ (e.pool p).jobs = [] ∧ e.reg .POOL_RES_STAT m =
      BitVec.ofNat 32 ((d.fld POOL_RES_STAT.SEQ m + 1) % 65536 * 65536 + j.cmd.op * 4096 + nown * 256 + st)) ∧
      ∀ l : Loc, l.reg ∉ poolResults → e.at l = b.at l := by
  obtain ⟨h1, h2, h3, -, h5, -⟩ := poolReject_mail (d := b) hm st nown
  have hp : (b.poolReject j.cmd st nown).pool p = { d.pool p with jobs := [] } := by rw [h3, hpool, pool_jobOver hj hid]
  dsimp only
  rw [poolNext_idle (by rw [hp]; exact hq)]
  exact ⟨⟨by rw [h1], by rw [hp], by rw [h2, hseq]⟩, h5⟩

theorem poolStateDone_failed : d.poolStateDone p id none =
    (((d.jobOver p id).poolStatus POOL_STAT.HOST_FAULT p).poolReject j.cmd 11).poolNext
      ((((d.jobOver p id).poolStatus POOL_STAT.HOST_FAULT p).poolReject j.cmd 11).pool p).queue.length p := by
  simp only [Dev.poolStateDone, find_job hj hid hw]
  rfl

theorem poolStateDone_error {v st : Nat} (he : entryAfter j.cmd (PoolEntry.ofNat v) = .error st) : d.poolStateDone p id (some v) =
    ((d.jobOver p id).poolReject j.cmd st (PoolEntry.ofNat v).list.length).poolNext
      (((d.jobOver p id).poolReject j.cmd st (PoolEntry.ofNat v).list.length).pool p).queue.length p := by
  simp only [Dev.poolStateDone, find_job hj hid hw, he]
  rfl

theorem poolStateDone_kept {v : Nat} {e' : PoolEntry} (he : entryAfter j.cmd (PoolEntry.ofNat v) = .ok e') (hh : e'.held = true)
    (hsame : (PoolEntry.ofNat v).list.head? = e'.list.head?) : d.poolStateDone p id (some v) = d.poolWriteEntry p j e' := by
  simp only [Dev.poolStateDone, find_job hj hid hw, he, hh, if_true, Dev.recharge, hsame]

theorem poolStateDone_returned {v o : Nat} {e' : PoolEntry} (he : entryAfter j.cmd (PoolEntry.ofNat v) = .ok e') (hh : e'.held = false)
    (hold : (PoolEntry.ofNat v).list.head? = some o) (hnew : e'.list.head? = none) :
    d.poolStateDone p id (some v) = (((d.setPoolChg p o (d.poolChg p o - 1)).cacheIn p (handleOf p e'.gen j.index)).setPoolFree p
      ((d.setPoolChg p o (d.poolChg p o - 1)).poolFree p + 1)).poolWriteEntry p j e' := by
  simp only [Dev.poolStateDone, find_job hj hid hw, he, hh, Bool.false_eq_true, if_false, Dev.recharge, hold, hnew, reduceCtorEq]

end

/-! A handle enters the cache -/

/-- Two states with the registers but POOL_STAT alike, and one pool as on or off as it was. -/
structure PoolRegs (p : Nat) (d e : Dev) : Prop where
  home : e.homeOf p = d.homeOf p
  at_ : ∀ l : Loc, l.reg ≠ .POOL_STAT → e.at l = d.at l
  on : e.poolOn p = d.poolOn p

theorem PoolRegs.trans {p : Nat} {d e c : Dev} (h : PoolRegs p d e) (h' : PoolRegs p e c) : PoolRegs p d c :=
  ⟨h'.home.trans h.home, fun l hl => (h'.at_ l hl).trans (h.at_ l hl), h'.on.trans h.on⟩

theorem poolRegs_syncCache (d : Dev) (p : Nat) : PoolRegs p d (d.syncCache p) where
  home := homeOf_frame (d := d) rfl p
  at_ _ hl := at_setReg_ne _ _ _ _ _ (by rintro rfl; exact hl rfl)
  on := by
    rw [Dev.poolOn, Dev.poolOn, Dev.flag, Dev.flag, Dev.syncCache,
      fld_setFld_apart d (f := POOL_STAT.CACHE) (g := POOL_STAT.ACTIVE) _ _ _ _ _ (by decide) (by decide)]

theorem cacheIn_effect {d : Dev} {p : Nat} (h : Nat) (hl : (d.pool p).cache.length < 64) :
    (d.cacheIn p h).pool p = { d.pool p with cache := (d.pool p).cache ++ [h] } ∧ PoolRegs p d (d.cacheIn p h) := by
  unfold Dev.cacheIn
  simp only [if_neg (Nat.not_le.mpr hl)]
  have hm : PoolRegs p d (d.modPool p fun q => { q with cache := q.cache ++ [h] }) := ⟨homeOf_frame (d := d) rfl p, fun _ _ => rfl, rfl⟩
  exact ⟨pool_modPool_same d p fun q => { q with cache := q.cache ++ [h] }, hm.trans (poolRegs_syncCache _ p)⟩

/-- Handles that are good enter the cache in order while it has room. -/
theorem foldl_cacheIn {p : Nat} {step : Dev → Nat → Dev} : ∀ (hs : List Nat) (d : Dev), (d.pool p).cache.length + hs.length ≤ 64 →
    (∀ e : Dev, PoolRegs p d e → ∀ h ∈ hs, step e h = e.cacheIn p h) →
    (hs.foldl step d).pool p = { d.pool p with cache := (d.pool p).cache ++ hs } ∧ PoolRegs p d (hs.foldl step d)
  | [], d, _, _ => ⟨by simp, rfl, fun _ _ => rfl, rfl⟩
  | h :: hs, d, hl, hok => by
    rw [List.length_cons] at hl
    obtain ⟨h1, h2⟩ := cacheIn_effect (d := d) (p := p) h (by omega)
    rw [List.foldl_cons, hok d ⟨rfl, fun _ _ => rfl, rfl⟩ h List.mem_cons_self]
    obtain ⟨h3, h4⟩ := foldl_cacheIn (step := step) hs (d.cacheIn p h) (by rw [h1, List.length_append, List.length_singleton]; omega)
      fun e he k hk => hok e (h2.trans he) k (List.mem_cons_of_mem h hk)
    exact ⟨by rw [h3, h1, List.append_assoc, List.singleton_append], h2.trans h4⟩

/-! The commands whose check is passed -/

theorem entryAfter_free {c : PoolCmd} {e : PoolEntry} (hop : c.op = 4) (he : e = ⟨handleGen c.handle, true, false, [c.owner]⟩)
    (hgen : handleGen c.handle < 255) : entryAfter c e = .ok { gen := handleGen c.handle + 1, held := false, freed := false, list := [] } := by
  subst he
  simp [entryAfter, hop, nextGen, show ¬ handleGen c.handle = 255 by omega]

theorem entryAfter_share {c : PoolCmd} {e : PoolEntry} {o : Nat} (hop : c.op = 2) (he : e = ⟨handleGen c.handle, true, false, [o]⟩) (ho : c.owner = o)
    (hnew : c.newOwner ≠ o) : entryAfter c e = .ok { e with list := [o, c.newOwner] } := by
  subst he
  simp [entryAfter, hop, ho, hnew]

/-- A FREE by the only owner of a buffer returns it (R276, R281, R284). -/
theorem freed_effect {d b : Dev} {p id v : Nat} {j : PoolJob} (hs : SamePool p d b) (hj : (d.pool p).jobs = [j]) (hid : j.id = id)
    (hw : j.writing = false) (hop : j.cmd.op = 4) (hv : PoolEntry.ofNat v = ⟨handleGen j.cmd.handle, true, false, [j.cmd.owner]⟩)
    (hgen : handleGen j.cmd.handle < 255) (hc : (d.pool p).cache.length < 64) (hf : d.poolFree p < 2 ^ 32 - 1) (hg : 0 < d.poolChg p j.cmd.owner) :
    let e := b.poolStateDone p id (some v)
    (e.pool p).cache = (d.pool p).cache ++ [handleOf p (handleGen j.cmd.handle + 1) j.index] ∧ e.poolFree p = d.poolFree p + 1 ∧
      e.poolChg p j.cmd.owner + 1 = d.poolChg p j.cmd.owner ∧ ∃ k : PoolJob, (e.pool p).jobs = [k] ∧ k.id = id ∧ k.writing = true := by
  have he := entryAfter_free hop hv hgen
  dsimp only
  rw [poolStateDone_returned (hs.pool ▸ hj) hid hw he rfl (by rw [hv]; rfl) rfl, hs.chg]
  obtain ⟨a, ha⟩ : ∃ a, a = b.setPoolChg p j.cmd.owner (d.poolChg p j.cmd.owner - 1) := ⟨_, rfl⟩
  have hap : a.pool p = d.pool p := by rw [ha]; exact hs.pool
  have haf : a.poolFree p = d.poolFree p := by
    rw [ha, Dev.poolFree, Dev.setPoolChg, reg_setReg_ne _ _ _ _ _ _ (by decide)]
    exact hs.free
  have hac : a.reg .POOL_CHG 0 (p * 8 + j.cmd.owner) = BitVec.ofNat 32 (d.poolChg p j.cmd.owner - 1) := by rw [ha]; exact reg_setReg_same ..
  rw [← ha, haf]
  obtain ⟨hcp, hcr⟩ := cacheIn_effect (d := a) (p := p) (handleOf p (handleGen j.cmd.handle + 1) j.index) (by rw [hap]; exact hc)
  generalize a.cacheIn p (handleOf p (handleGen j.cmd.handle + 1) j.index) = c at hcp hcr
  obtain ⟨hp, -, hat⟩ := poolWriteEntry_effect (c.setPoolFree p (d.poolFree p + 1)) p j
    { gen := handleGen j.cmd.handle + 1, held := false, freed := false, list := [] }
  have hcp' : (c.setPoolFree p (d.poolFree p + 1)).pool p =
      { d.pool p with cache := (d.pool p).cache ++ [handleOf p (handleGen j.cmd.handle + 1) j.index] } := by rw [← hap, ← hcp]; rfl
  rw [hcp'] at hp
  have hlt : d.poolChg p j.cmd.owner < 2 ^ 32 := BitVec.isLt _
  refine ⟨by rw [hp], ?_, ?_, { j with writing := true, nown := 0 }, by rw [hp]; simp [hj], hid, rfl⟩
  · rw [Dev.poolFree, Dev.reg, hat, ← Dev.reg, Dev.setPoolFree, reg_setReg_same, BitVec.toNat_ofNat]
    omega
  · rw [Dev.poolChg, Dev.reg, hat, ← Dev.reg, Dev.setPoolFree, reg_setReg_ne _ _ _ _ _ _ (by decide), Dev.reg, hcr.at_ _ (by simp), ← Dev.reg, hac,
      BitVec.toNat_ofNat]
    omega

/-- A SHARE adds its new owner; the buffer stays charged to the first (R281, R284). -/
theorem shared_effect {d b : Dev} {p id v o : Nat} {j : PoolJob} (hs : SamePool p d b) (hj : (d.pool p).jobs = [j]) (hid : j.id = id)
    (hw : j.writing = false) (hop : j.cmd.op = 2) (hv : PoolEntry.ofNat v = ⟨handleGen j.cmd.handle, true, false, [o]⟩) (ho : j.cmd.owner = o)
    (hnew : j.cmd.newOwner ≠ o) :
    let e := b.poolStateDone p id (some v)
    e.poolFree p = d.poolFree p ∧ e.poolChg p o = d.poolChg p o ∧ ∃ k : PoolJob, (e.pool p).jobs = [k] ∧ k.writing = true ∧ k.nown = 2 := by
  have he := entryAfter_share hop hv ho hnew
  dsimp only
  rw [poolStateDone_kept (hs.pool ▸ hj) hid hw he (by rw [hv]) (by rw [hv]; rfl)]
  obtain ⟨hp, -, hat⟩ := poolWriteEntry_effect b p j { PoolEntry.ofNat v with list := [o, j.cmd.newOwner] }
  refine ⟨?_, ?_, { j with writing := true, nown := 2 }, by rw [hp, hs.pool]; simp [hj], rfl, rfl⟩
  · rw [Dev.poolFree, Dev.reg, hat, ← hs.free]; rfl
  · rw [Dev.poolChg, Dev.reg, hat, ← hs.chg]; rfl

/-! A refill ends -/

/-- The entries that a refill brings enter the cache (R278). -/
theorem refilled_effect {d b : Dev} {p : Nat} {r : Refill} {es : List Nat} (hs : SamePool p d b) (hr : (d.pool p).refill = some r)
    (hg : (d.pool p).gets = []) (hon : d.poolOn p = true) (hlen : es.length = r.count) (hroom : (d.pool p).cache.length + es.length ≤ 64)
    (hok : ∀ h ∈ es, handlePool h = p ∧ handleIndex h < d.poolCount p ∧ handleGen h ≠ 0 ∧ h < 2 ^ 48) :
    let e := b.refillEnd p (some es)
    (e.pool p).cache = (d.pool p).cache ++ es ∧ e.poolRd p = (d.poolRd p + r.count) % 2 ^ 32 ∧ e.poolFree p = d.poolFree p := by
  have hrd : (b.modPool p fun q => { q with refill := none }).poolRd p = d.poolRd p := congrArg BitVec.toNat (hs.reg (r := .POOL_RING_RD) (by decide) 0 p)
  simp only [Dev.refillEnd, hs.pool, hr, hrd]
  rw [← hlen, List.take_length]
  obtain ⟨a, ha⟩ : ∃ a, a = (b.modPool p fun q => { q with refill := none }).setReg .POOL_RING_RD 0 p (BitVec.ofNat 32 (d.poolRd p + es.length)) :=
    ⟨_, rfl⟩
  have hap : a.pool p = { d.pool p with refill := none } := by
    rw [ha, ← hs.pool]
    exact pool_modPool_same b p fun q => { q with refill := none }
  have hah : a.homeOf p = d.homeOf p := by
    rw [ha, ← hs.home]
    exact homeOf_frame (d := b) rfl p
  have hac : a.poolCount p = d.poolCount p := by
    rw [Dev.poolCount, hah, ha, reg_setReg_ne _ _ _ _ _ _ (by decide), ← hs.count, Dev.poolCount, hs.home]
    rfl
  have hao : a.poolOn p = true := by
    rw [← hon, ← hs.on, ha]
    exact congrArg (· != 0) (fld_of_at (f := POOL_STAT.ACTIVE) (at_setReg_ne _ _ _ _ _ (by simp)))
  have haf : a.poolFree p = d.poolFree p := by
    rw [ha, Dev.poolFree, reg_setReg_ne _ _ _ _ _ _ (by decide)]
    exact hs.free
  have har : a.reg .POOL_RING_RD 0 p = BitVec.ofNat 32 (d.poolRd p + es.length) := by rw [ha, reg_setReg_same]
  rw [← ha]
  clear ha
  obtain ⟨step, hstep⟩ : ∃ step : Dev → Nat → Dev, step = fun e h =>
      if (handlePool h == p && decide (handleIndex h < a.poolCount p) && handleGen h != 0 && decide (h < 2 ^ 48)) = true then e.cacheIn p h
      else (e.setPoolFree p (e.poolFree p - 1)).poolStatus POOL_STAT.RING_BAD p := ⟨_, rfl⟩
  rw [← hstep]
  obtain ⟨hcp, hcr⟩ := foldl_cacheIn (p := p) (step := step) es a (by rw [hap]; exact hroom) fun e _ h hh => by
    obtain ⟨h1, h2, h3, h4⟩ := hok h hh
    rw [hstep]
    exact if_pos (by simpa [h1, h2, h3, hac] using h4)
  generalize es.foldl step a = c at hcp hcr
  have hsp := poolRegs_syncCache c p
  have hspool : (c.syncCache p).pool p = c.pool p := rfl
  obtain ⟨g, hgd⟩ : ∃ g, g = (c.syncCache p).poolGets p := ⟨_, rfl⟩
  have hgets : g = (c.syncCache p).modPool p fun q => { q with gets := [] } := by
    rw [hgd, Dev.poolGets, hspool, hcp, hap, hg]
    rfl
  have hgcache : (g.pool p).cache = (d.pool p).cache ++ es := by
    rw [hgets, pool_modPool_same, hspool, hcp, hap]
  have hgr : ∀ l : Loc, l.reg ≠ .POOL_STAT → g.at l = a.at l := fun l hl => by
    rw [hgets]
    exact (hsp.at_ l hl).trans (hcr.at_ l hl)
  have hgon : g.poolOn p = true := by
    rw [hgets]
    exact ((hsp.on).trans hcr.on).trans hao
  rw [← hgd]
  obtain ⟨hk1, -, -, hk4⟩ := refill_kept g p
  simp only [Dev.poolRest, hgon, Bool.true_or, if_true]
  refine ⟨by rw [hk1, hgcache], ?_, ?_⟩
  · rw [Dev.poolRd, Dev.reg, hk4, hgr _ (by simp), ← Dev.reg, har, BitVec.toNat_ofNat]
  · rw [Dev.poolFree, Dev.reg, hk4, hgr _ (by simp), ← haf]
    rfl

/-- A refill that fails shows in HOST_FAULT (R278). -/
theorem refillFailed_effect {d b : Dev} {p : Nat} {r : Refill} (hs : SamePool p d b) (hr : (d.pool p).refill = some r) (hg : (d.pool p).gets = []) :
    let e := b.refillEnd p none
    (e.pool p).refill = none ∧ e.fld POOL_STAT.HOST_FAULT 0 p = 1 ∧ (e.pool p).cache = (d.pool p).cache := by
  obtain ⟨a, ha⟩ : ∃ a, a = b.modPool p fun q => { q with refill := none } := ⟨_, rfl⟩
  have hap : a.pool p = { d.pool p with refill := none } := by
    rw [ha, ← hs.pool]
    exact pool_modPool_same b p fun q => { q with refill := none }
  simp only [Dev.refillEnd, hs.pool, hr]
  rw [← ha, hap, hg, List.foldl_nil]
  have hst : ((a.modPool p fun q => { q with gets := [], stalled := true }).poolStatus POOL_STAT.HOST_FAULT p).pool p =
      (a.modPool p fun q => { q with gets := [], stalled := true }).pool p := pool_status ..
  rw [hst, pool_modPool_same, hap]
  exact ⟨rfl, fld_status _ 0 p _ _ _ (f := POOL_STAT.HOST_FAULT) (by decide), rfl⟩

/-- Settles O39, one end at a time. -/
theorem poolReads : Obligations.PoolReads := by
  unfold Obligations.PoolReads
  refine ⟨fun s p id => ⟨fun v => State.does_perform (by dsimp only [exec]; rfl) rfl, fun es => State.does_perform (by dsimp only [exec]; rfl) rfl⟩,
    fun s p id _ => ?_⟩
  dsimp only
  have hread : ∀ (v : Option Nat) (P : Dev → Prop),
      (∀ b : Dev, (∀ q, SamePool q s.dev b) → (∀ l : Loc, b.at l = s.dev.at l) → P (b.poolStateDone p id v)) →
      s.DoesSome (.poolStateReadDone p id v) P := fun v P h => by
    refine State.doesSome_perform (by dsimp only [exec]; rfl) ?_
    have hs := sends_dropAll s.dev fun w => w == .poolState p id
    exact h _ hs.samePool hs.at
  have hrefill : ∀ (v : Option (List Nat)) (P : Dev → Prop), (∀ b : Dev, SamePool p s.dev b → P (b.refillEnd p v)) →
      s.DoesSome (.poolRefillDone p v) P := fun v P h => by
    refine State.doesSome_perform (by dsimp only [exec]; rfl) ?_
    exact h _ ((sends_dropAll s.dev fun w => w == .poolRefill p 0 || w == .poolRefill p 1).samePool p)
  refine ⟨fun j m hj hq hid hw hm hp _ => ⟨fun v hop hv hgen hc hf hg _ => hread _ _ fun b hs _ => ?_,
      fun v o hop hv ho hnew => hread _ _ fun b hs _ => ?_, fun v st he _ => hread _ _ fun b hs _ => ?_, hread _ _ fun b hs _ => ?_⟩,
    fun hj v => hread _ _ fun b hs hat => ?_, fun r es hr hg hon hlen hroom hok => hrefill _ _ fun b hs => ?_,
    fun r hr hg => hrefill _ _ fun b hs => ?_⟩
  · exact freed_effect (hs p) hj hid hw hop hv hgen hc hf hg
  · exact shared_effect (hs p) hj hid hw hop hv ho hnew
  · have hj' : (b.pool p).jobs = [j] := (hs p).pool ▸ hj
    rw [poolStateDone_error hj' hid hw he, ← (hs p).fld (f := POOL_RES_STAT.SEQ) (by decide)]
    exact (jobRejected hj' ((hs p).pool ▸ hq) hid hm rfl (fld_of_at rfl) st _).1
  · have hj' : (b.pool p).jobs = [j] := (hs p).pool ▸ hj
    rw [poolStateDone_failed hj' hid hw, ← (hs p).fld (f := POOL_RES_STAT.SEQ) (by decide)]
    obtain ⟨h1, h2⟩ := jobRejected (b := (b.jobOver p id).poolStatus POOL_STAT.HOST_FAULT p) hj' ((hs p).pool ▸ hq) hid hm (pool_status ..)
      (fld_status_apart _ (f := POOL_STAT.HOST_FAULT) (g := POOL_RES_STAT.SEQ) _ _ _ _ _ _ _ (by decide) (by decide)) 11 0
    exact ⟨h1, (fld_of_at (f := POOL_STAT.HOST_FAULT) (h2 _ (show RegId.POOL_STAT ∉ poolResults by decide))).trans
      (fld_status _ 0 p _ _ _ (f := POOL_STAT.HOST_FAULT) (by decide))⟩
  · have hnone : ((b.pool p).jobs.find? fun j => j.id == id && !j.writing) = none := by
      rw [(hs p).pool, List.find?_eq_none]
      intro j hjm
      simp [hj j hjm]
    simp only [Dev.poolStateDone, hnone]
    exact ⟨fun k => (hs k).pool, hat⟩
  · exact refilled_effect hs hr hg hon hlen hroom hok
  · exact refillFailed_effect hs hr hg

end Sys2Proof.Machine

/-! ## Picture taps (R328, R335 to R338) -/

namespace Sys2Proof.Machine

theorem tap_setTapRun (d : Dev) (t : Nat) (r : Option TapRun) : (d.setTapRun t r).tap t = { d.tap t with run := r } :=
  Store.get_set_same ({} : Tap) ⟨t, 0, 0⟩ ({ d.tap t with run := r } : Tap) d.taps

/-- The registers in which the course of a picture shows. -/
def tapShown : List RegId := [.TAP_STAT, .TAP_ERR, .TAP_LOG_PTR, .TAP_CMD, .PKG_SEAL_STAT]

/-- Two states with the same pools: the registers in which pictures show are apart. -/
structure PoolsKept (d e : Dev) : Prop where
  home : e.homeOf = d.homeOf
  at_ : ∀ l : Loc, l.reg ∉ tapShown → e.at l = d.at l
  pools : e.pools = d.pools

namespace PoolsKept
variable {d e c : Dev}

theorem refl (d : Dev) : PoolsKept d d := ⟨rfl, fun _ _ => rfl, rfl⟩

theorem trans (h : PoolsKept d e) (h' : PoolsKept e c) : PoolsKept d c :=
  ⟨h'.home.trans h.home, fun l hl => (h'.at_ l hl).trans (h.at_ l hl), h'.pools.trans h.pools⟩

theorem pool (h : PoolsKept d e) (p : Nat) : e.pool p = d.pool p := by rw [Dev.pool, h.pools]; rfl

theorem on (h : PoolsKept d e) (p : Nat) : e.poolOn p = d.poolOn p :=
  congrArg (· != 0) (fld_of_at (f := POOL_STAT.ACTIVE) (h.at_ _ (show RegId.POOL_STAT ∉ tapShown by decide)))

theorem count (h : PoolsKept d e) (p : Nat) : e.poolCount p = d.poolCount p := by
  rw [Dev.poolCount, Dev.reg, h.at_ _ (show RegId.POOL_COUNT ∉ tapShown by decide), h.home]
  rfl

theorem owners (h : PoolsKept d e) (p : Nat) : e.poolOwners p = d.poolOwners p := by
  rw [Dev.poolOwners, fld_of_at (f := POOL_CTL.OWNERS) (h.at_ _ (show RegId.POOL_CTL ∉ tapShown by decide)), h.home]
  rfl

theorem clear (h : PoolsKept d e) (p i : Nat) : e.poolClear p i = d.poolClear p i := by rw [Dev.poolClear, Dev.poolClear, h.pool]

end PoolsKept

/-- A register in which pictures show is written. -/
theorem poolsKept_setReg (d : Dev) {r : RegId} (u i : Nat) (w : Word) (h : r ∈ tapShown) : PoolsKept d (d.setReg r u i w) :=
  ⟨funext fun n => homeOf_frame (d := d) rfl n, fun _ hl => at_setReg_ne _ _ _ _ _ (by rintro rfl; exact hl h), rfl⟩

theorem poolsKept_setTapRun (d : Dev) (t : Nat) (r : Option TapRun) : PoolsKept d (d.setTapRun t r) :=
  (⟨funext fun n => homeOf_frame (d := d) rfl n, fun _ _ => rfl, rfl⟩ : PoolsKept d (d.setTap t { d.tap t with run := r })).trans
    (poolsKept_setReg _ 0 t _ (show RegId.TAP_STAT ∈ tapShown by decide))

/-- A handle that its pool knows, and an owner of the pool; no command runs on the pool. -/
def Dev.knows (d : Dev) (h o : Nat) : Prop :=
  d.poolOn (handlePool h) = true ∧ h < 2 ^ 48 ∧ handleGen h ≠ 0 ∧ handleIndex h < d.poolCount (handlePool h) ∧
    o < d.poolOwners (handlePool h) ∧ (d.pool (handlePool h)).jobs = []

/-- A command is at its pool and reads the state entry of its handle. -/
def Dev.gives (e : Dev) (op h o : Nat) : Prop :=
  ∃ j : PoolJob, (e.pool (handlePool h)).jobs = [j] ∧ j.cmd.op = op ∧ j.cmd.handle = h ∧ j.cmd.owner = o ∧ j.writing = false ∧ j.index = handleIndex h

theorem poolStart_sends (d : Dev) (c : PoolCmd) : Sends (d.fresh.2.modPool c.pool fun q =>
    { q with jobs := q.jobs ++ [{ id := d.nextId, cmd := c, index := handleIndex c.handle, result := c.handle }] }) (d.poolStart c) :=
  (sends_fresh _).trans (sends_hostFrom _ _ _)

/-- A command of a tap on a handle that its pool knows (R328). -/
theorem tapCmd_gives {d b : Dev} (hk : PoolsKept d b) {h o : Nat} (hg : d.knows h o) {t die m op q : Nat} (hop : op = 2 ∨ op = 3 ∨ op = 4)
    (hq : op = 2 → q < d.poolOwners (handlePool h)) :
    (b.poolCmd (tapCmd t die m op 0 h o q)).gives op h o ∧ (∀ k, (b.poolCmd (tapCmd t die m op 0 h o q)).tap k = b.tap k) ∧
      ∀ l : Loc, l.reg ≠ .POOL_STAT → (b.poolCmd (tapCmd t die m op 0 h o q)).at l = b.at l := by
  obtain ⟨hon, hlt, hgen, hix, ho, hjobs⟩ := hg
  obtain ⟨v, hv⟩ := poolCmd_handle (d := b) (c := tapCmd t die m op 0 h o q) hop ((hk.on _).trans hon) hlt hgen ((hk.count _).symm ▸ hix)
    ((hk.owners _).symm ▸ ho) (fun h2 => (hk.owners _).symm ▸ hq h2) ((hk.clear _ _).trans (by simp [Dev.poolClear, tapCmd, hjobs]))
  obtain ⟨hp, -, hat⟩ := poolStart_effect (b.setFld POOL_STAT.RR 0 (handlePool h) v) (tapCmd t die m op 0 h o q).routed
  have hs := poolStart_sends (b.setFld POOL_STAT.RR 0 (handlePool h) v) (tapCmd t die m op 0 h o q).routed
  rw [hv]
  refine ⟨⟨{ id := b.nextId, cmd := (tapCmd t die m op 0 h o q).routed, index := handleIndex h, result := h }, ?_, rfl, rfl, rfl, rfl, rfl⟩,
    fun k => (hs.eq (Dev.tap · k) fun _ _ _ _ _ _ => rfl).trans rfl,
    fun l hl => (hat l).trans (at_setReg_ne _ _ _ _ _ (by rintro rfl; exact hl rfl))⟩
  refine (congrArg Pool.jobs hp).trans ?_
  have : ((b.setFld POOL_STAT.RR 0 (handlePool h) v).pool (handlePool h)).jobs = [] := (congrArg Pool.jobs (hk.pool _)).trans hjobs
  rw [show (tapCmd t die m op 0 h o q).routed.pool = handlePool h from rfl, this]
  rfl

/-! The finish of a picture -/

theorem tapFinish_shares {d : Dev} {t : Nat} {q : TapRun} (hr : (d.tap t).run = some q) (hp : q.phase = .run)
    (hrow : (tapForm q.ctl q.geom).nbr ≤ q.row) (hout : q.out = []) (hk : d.knows q.handle (tapOwner q))
    (hq : bitsOf q.ctl 13 11 < d.poolOwners (handlePool q.handle)) :
    ((d.tapFinish t).tap t).run = some { q with phase := .share } ∧ (d.tapFinish t).gives 2 q.handle (tapOwner q) := by
  simp only [Dev.tapFinish, hr, hp, hrow, hout, List.isEmpty_nil, true_and, if_true]
  obtain ⟨hg, htap, -⟩ := tapCmd_gives (poolsKept_setTapRun d t (some { q with phase := .share, out := [] })) hk (t := t) (die := q.die) (m := q.m)
    (Or.inl rfl) fun _ => hq
  exact ⟨by rw [htap, tap_setTapRun], hg⟩

theorem tapFinish_waits {d : Dev} {t : Nat} {q : TapRun} (hr : (d.tap t).run = some q)
    (h : q.phase ≠ .run ∨ q.row < (tapForm q.ctl q.geom).nbr ∨ q.out ≠ []) : d.tapFinish t = d := by
  simp only [Dev.tapFinish, hr]
  refine if_neg fun ⟨h1, h2, h3⟩ => ?_
  rcases h with h | h | h
  · exact h h1
  · omega
  · exact h (List.isEmpty_iff.mp h3)

/-! A picture that is shed -/

theorem tapLog_waits {d : Dev} {t : Nat} {q : TapRun} (hr : (d.tap t).run = some q) (h : ¬ (q.phase = .log ∨ q.phase = .badLog)) : d.tapLog t = d := by
  simp only [Dev.tapLog, hr]
  exact if_neg fun h' => h h'.1

theorem tapShed_frees {d : Dev} {t : Nat} {q : TapRun} (hr : (d.tap t).run = some q) (hp : q.phase = .run) (hs : q.ctl.getLsbD 29 = true)
    (hh : q.handle ≠ 0) (hk : d.knows q.handle (tapOwner q)) :
    (∃ k : TapRun, ((d.tapShed t).tap t).run = some k ∧ k.status = 5 ∧ k.phase = .freeOwn ∧ k.handle = q.handle) ∧
      (d.tapShed t).gives 4 q.handle (tapOwner q) ∧ (d.tapShed t).fld TAP_ERR.SHED 0 t = min (d.fld TAP_ERR.SHED 0 t + 1) 255 := by
  obtain ⟨b, hb⟩ : ∃ b, b = (d.bump TAP_ERR.SHED 0 t).raise (d.homeOf t) evTap ⟨.TAP_ERR, 0, t⟩ TAP_ERR.SHED.lo t := ⟨_, rfl⟩
  have hbk : PoolsKept d b := by
    have h1 : PoolsKept d (d.bump TAP_ERR.SHED 0 t) := poolsKept_setReg d 0 t _ (show RegId.TAP_ERR ∈ tapShown by decide)
    rw [hb]
    exact h1.trans ⟨funext fun n => homeOf_frame (d := d.bump TAP_ERR.SHED 0 t) rfl n, fun _ _ => rfl, rfl⟩
  have hbf : b.fld TAP_ERR.SHED 0 t = min (d.fld TAP_ERR.SHED 0 t + 1) 255 := by
    rw [hb]
    exact (fld_of_at (at_raise ..)).trans (fld_bump d 0 t (f := TAP_ERR.SHED) (by decide))
  obtain ⟨k, hkd⟩ : ∃ k : TapRun, k = { q with status := 5, poolStatus := 0, phase := .freeOwn, pend := [], buf := [], out := [], parts := [] } :=
    ⟨_, rfl⟩
  obtain ⟨hg, htap, hat⟩ := tapCmd_gives (hbk.trans (poolsKept_setTapRun b t (some k))) hk (t := t) (die := q.die) (m := q.m) (op := 4) (q := 0)
    (by omega) (by omega)
  have hrun : ((((b.setTapRun t (some k)).poolCmd (tapCmd t q.die q.m 4 0 q.handle (tapOwner q) 0)).tap t).run) = some k := by
    rw [htap, tap_setTapRun]
  have he : d.tapShed t = (b.setTapRun t (some k)).poolCmd (tapCmd t q.die q.m 4 0 q.handle (tapOwner q) 0) := by
    simp only [Dev.tapShed, hr, Option.any_some, hs, if_true, Dev.tapAbandon, hp, Dev.tapFail, Dev.tapUnwind]
    rw [if_pos ⟨hh, by simp⟩, ← hb]
    refine (tapLog_waits (q := k) ?_ (by rw [hkd]; simp)).trans ?_
    · rw [← hrun, hkd]
      rfl
    · rw [hkd]
      rfl
  rw [he]
  refine ⟨⟨k, hrun, by rw [hkd], by rw [hkd], by rw [hkd]⟩, hg, ?_⟩
  rw [fld_of_at (f := TAP_ERR.SHED) (hat _ (show RegId.TAP_ERR ≠ .POOL_STAT by decide)), ← hbf]
  exact fld_of_at (f := TAP_ERR.SHED) (at_setReg_ne _ _ _ _ _ (by simp))

/-! What software writes -/

theorem swCmd_tapCmd {d : Dev} {L : Locks} {src : Src} {t : Nat} (ht : t < 256) (hg : d.lets src ⟨.TAP_CMD, 0, t⟩ = true) :
    d.swCmd L src ⟨.TAP_CMD, 0, t⟩ (fun c => putBits c 0 0 1) = ((d.written src ⟨.TAP_CMD, 0, t⟩).tapForget t).answered src := by
  rw [swCmd_pulse (fits_pkg rfl ht rfl) (show RegId.TAP_CMD.pulse = true by decide) hg]
  rfl

/-- A write about to be done leaves the pools and the pictures as they are. -/
theorem poolsKept_written (d : Dev) (src : Src) (l : Loc) : PoolsKept d (d.written src l) :=
  ⟨funext fun n => homeOf_frame (d := d) rfl n, fun _ _ => rfl, rfl⟩

theorem tap_answered (d : Dev) (src : Src) (t : Nat) : (d.answered src).tap t = d.tap t := answered_of_out (Dev.tap · t) (fun _ _ => rfl) d src

theorem tapForget_busy {d : Dev} {t : Nat} {q : TapRun} (hr : (d.tap t).run = some q) :
    d.tapForget t = d.setTapRun t (some { q with changed := true }) := by
  simp only [Dev.tapForget, hr]

theorem tapForget_idle {d : Dev} {t : Nat} (hr : (d.tap t).run = none) (h : d.flag TAP_STAT.HAS_PREV 0 t = false) : d.tapForget t = d := by
  simp only [Dev.tapForget, hr, h, Bool.false_eq_true, if_false]

/-- With a buffer held and no picture in progress the history goes at once, with a RELEASE of the buffer (R338). -/
theorem tapForget_releases {d b : Dev} {t h : Nat} (hb : PoolsKept d b) (hr : (b.tap t).run = none) (hf : b.flag TAP_STAT.HAS_PREV 0 t = true)
    (hh : b.pair .TAP_PREV_LO .TAP_PREV_HI 0 t = h) (hk : d.knows h (b.tap t).owner) :
    (b.tapForget t).fld TAP_STAT.HAS_PREV 0 t = 0 ∧ (b.tapForget t).gives 3 h (b.tap t).owner := by
  simp only [Dev.tapForget, hr, hf, hh, if_true]
  obtain ⟨hg, -, hat⟩ := tapCmd_gives (hb.trans (show PoolsKept b (b.setFld TAP_STAT.HAS_PREV 0 t 0) from
    poolsKept_setReg b 0 t _ (show RegId.TAP_STAT ∈ tapShown by decide))) hk (t := t) (die := (b.tap t).die) (m := (b.tap t).m) (op := 3) (q := 0) (by omega) (by omega)
  refine ⟨(fld_of_at (f := TAP_STAT.HAS_PREV) (hat _ (show RegId.TAP_STAT ≠ .POOL_STAT by decide))).trans ?_, hg⟩
  exact fld_setFld b (f := TAP_STAT.HAS_PREV) 0 t 0 (by decide)

theorem setMask_lowHalf (d : Dev) (src : Src) {r : RegId} (hr : r = .TAP_LOG_PTR ∨ r = .RING_CPL_PTR) (t : Nat) (locked : Bool) :
    d.setMask src ⟨r, 0, t⟩ locked = 0xFFFF#32 := by
  have hw : r.writable locked = 0xFFFF#32 := by rcases hr with rfl | rfl <;> cases locked <;> decide
  have hm : r.isMail = false := by rcases hr with rfl | rfl <;> decide
  have hf : r.isFlash = false := by rcases hr with rfl | rfl <;> decide
  have hp : d.presentMask r = 0xFFFFFFFF#32 := by rcases hr with rfl | rfl <;> rfl
  rcases hr with rfl | rfl <;> simp [Dev.setMask, hw, hm, hf, hp]

/-- A write of the software's half of such a pointer register stores it, beside a half that stays (R316, R337). -/
theorem swCmd_lowHalf {d : Dev} {L : Locks} {src : Src} {r : RegId} (hr : r = .TAP_LOG_PTR ∨ r = .RING_CPL_PTR) {t v at_ : Nat}
    (hf : Loc.fits ⟨r, 0, t⟩ d.n = true) (hv : v < 65536) (hg : d.lets src ⟨r, 0, t⟩ = true) :
    ∃ (k : Bool) (w : Word), (d.swCmd L src ⟨r, 0, t⟩ (fun c => putBits c 15 0 v) at_ =
        let h := (d.commanded src ⟨r, 0, t⟩ k w).writeHook L src ⟨r, 0, t⟩ k (d.at ⟨r, 0, t⟩) w
        (if h.1 then h.2.accErr src true 10 (Loc.offset ⟨r, 0, t⟩) 4 else h.2).answered src) ∧
      (d.commanded src ⟨r, 0, t⟩ k w).fld ⟨r, 15, 0⟩ 0 t = v ∧
      (d.commanded src ⟨r, 0, t⟩ k w).fld ⟨r, 31, 16⟩ 0 t = d.fld ⟨r, 31, 16⟩ 0 t := by
  obtain ⟨w, hw⟩ : ∃ w, w = putBits (d.at ⟨r, 0, t⟩ &&& r.maskWhere fun f => f.ty == .rw || f.ty == .lk) 15 0 v := ⟨_, rfl⟩
  have hat := at_stored_same (d.written src ⟨r, 0, t⟩) ⟨r, 0, t⟩ ((d.written src ⟨r, 0, t⟩).setMask src ⟨r, 0, t⟩ (lockOf L ⟨r, 0, t⟩)) w
  rw [setMask_lowHalf _ _ hr] at hat
  have hopen : r.open = true := by rcases hr with rfl | rfl <;> decide
  have hin : ∀ k < 15 + 1 - 0, (0xFFFF#32).getLsbD (0 + k) = true := by decide
  have hout : ∀ k < 31 + 1 - 16, (0xFFFF#32).getLsbD (16 + k) = false := by decide
  refine ⟨lockOf L ⟨r, 0, t⟩, w, ?_, ?_, ?_⟩
  · rw [swCmd_open hf hopen hg, hw]
  · rw [Dev.fld, Dev.reg, Dev.commanded, setMask_lowHalf _ _ hr, hat, bitsOf_merged_in _ _ hin, hw, bitsOf_putBits_same _ _ (by decide) (by decide)]
    exact Nat.mod_eq_of_lt hv
  · rw [Dev.fld, Dev.reg, Dev.commanded, setMask_lowHalf _ _ hr, hat, bitsOf_merged_out _ _ hout]
    rfl

/-- A write of TAP_LOG_PTR.RD lets a waiting entry out (R337). -/
theorem swCmd_logRd {d : Dev} {L : Locks} {src : Src} {t v at_ : Nat} (ht : t < 256) (hv : v < 65536) (hg : d.lets src ⟨.TAP_LOG_PTR, 0, t⟩ = true) :
    ∃ c : Dev, d.swCmd L src ⟨.TAP_LOG_PTR, 0, t⟩ (fun c => putBits c TAP_LOG_PTR.RD.hi TAP_LOG_PTR.RD.lo v) at_ = (c.tapLog t).answered src ∧
      c.fld TAP_LOG_PTR.RD 0 t = v ∧ c.fld TAP_LOG_PTR.WR 0 t = d.fld TAP_LOG_PTR.WR 0 t ∧ ∀ k, c.tap k = d.tap k := by
  obtain ⟨k, w, h, hlo, hhi⟩ := swCmd_lowHalf (L := L) (at_ := at_) (.inl rfl) (fits_pkg rfl ht rfl) hv hg
  exact ⟨_, h, hlo, hhi, fun k => (commanded_of_regs (Dev.tap · k) (fun _ _ _ _ => rfl) _ _ _ _ _).trans rfl⟩

/-- An entry that waits goes out once the log has room (R337). -/
theorem tapLog_effect (d : Dev) (t : Nat) {q : TapRun} (hr : (d.tap t).run = some q) (hp : q.phase = .log ∨ q.phase = .badLog) (ho : q.logOut = false)
    (hfull : (d.fld TAP_LOG_PTR.WR 0 t + 65536 - d.fld TAP_LOG_PTR.RD 0 t) % 65536 ≠ min (2 ^ bitsOf q.logCtl 4 0) 65535) :
    ((d.tapLog t).tap t).run = some { q with logOut := true } ∧ (d.tapLog t).fld TAP_LOG_PTR.RD 0 t = d.fld TAP_LOG_PTR.RD 0 t := by
  have hroom : d.tapLogFull t q = false := by
    rw [Dev.tapLogFull]
    exact beq_eq_false_iff_ne.mpr hfull
  have hs : Sends (d.setTapRun t (some { q with logOut := true })) (d.tapLog t) := by
    simp only [Dev.tapLog, hr, hp, ho, hroom, Bool.not_false, and_self, if_true]
    exact (((sends_fresh _).trans (sends_fresh _)).trans (sends_hostFrom _ _ _)).trans (sends_hostFrom _ _ _)
  refine ⟨?_, (hs.fld _ _ _).trans (fld_of_at (f := TAP_LOG_PTR.RD) (at_setReg_ne _ _ _ _ _ (by simp)))⟩
  rw [hs.eq (Dev.tap · t) fun _ _ _ _ _ _ => rfl, tap_setTapRun]

theorem tapLog_idle {d : Dev} {t : Nat} (hr : (d.tap t).run = none) : d.tapLog t = d := by
  simp only [Dev.tapLog, hr]

theorem tap_limit {s : State} {src : Src} {t : Nat} {i : Instr} (hi : i = .tapRestart src t ∨ ∃ v, i = .tapLogRdWrite src t v)
    (ht : s.dev.takes i = true) : t < 256 := by
  rcases hi with rfl | ⟨v, rfl⟩
  · simp_all [Dev.takes, Instr.wf]
  · simp_all [Dev.takes, Instr.wf]

theorem flag_of_one {d : Dev} {f : Fld} {u i : Nat} (h : d.fld f u i = 1) : d.flag f u i = true := by rw [Dev.flag, h]; rfl

theorem flag_of_zero {d : Dev} {f : Fld} {u i : Nat} (h : d.fld f u i = 0) : d.flag f u i = false := by rw [Dev.flag, h]; rfl

/-- Settles O44, one command at a time. -/
theorem taps : Obligations.Taps := by
  unfold Obligations.Taps
  refine ⟨fun s t => ⟨State.does_perform (by dsimp only [exec]; rfl) rfl, State.does_perform (by dsimp only [exec]; rfl) rfl⟩, fun s src t => ?_⟩
  dsimp only
  refine ⟨fun q hr hp hrow hout hk hq => ?_, fun hr => ⟨?_, ?_⟩, fun q hr h => ?_, fun q hr hp hs hh hk => ?_, fun q hr hs => ?_,
    fun hg => ⟨fun q hr ht => ?_, fun hr hprev hk ht => ?_, fun hr hprev ht => ?_⟩, fun v hg hv => ⟨fun q hr hp ho hfull ht => ?_, fun hr ht => ?_⟩⟩
  · refine State.doesSome_perform (by dsimp only [exec]; rfl) ?_
    exact tapFinish_shares hr hp hrow hout hk hq
  · exact State.does_perform (by dsimp only [exec]; rfl) (by simp only [Dev.tapFinish, hr])
  · exact State.does_perform (by dsimp only [exec]; rfl) (by simp only [Dev.tapShed, hr, Option.any_none, Bool.false_eq_true, if_false])
  · exact State.does_perform (by dsimp only [exec]; rfl) (tapFinish_waits hr h)
  · refine State.doesSome_perform (by dsimp only [exec]; rfl) ?_
    exact tapShed_frees hr hp hs hh hk
  · exact State.does_perform (by dsimp only [exec]; rfl) (by simp only [Dev.tapShed, hr, Option.any_some, hs, Bool.false_eq_true, if_false])
  · refine State.doesSome_perform (by dsimp only [exec]; rfl) ?_ ht
    rw [swCmd_tapCmd (tap_limit (.inl rfl) ht) hg, tapForget_busy (show ((s.dev.written src ⟨.TAP_CMD, 0, t⟩).tap t).run = some q from hr)]
    refine ⟨by rw [tap_answered, tap_setTapRun], (fld_answered ..).trans ?_⟩
    exact (fld_setFld_apart _ (f := TAP_STAT.BUSY) (g := TAP_STAT.HAS_PREV) _ _ _ _ _ (by decide) (by decide)).trans (fld_of_at rfl)
  · refine State.doesSome_perform (by dsimp only [exec]; rfl) ?_ ht
    obtain ⟨h1, h2⟩ := tapForget_releases (poolsKept_written s.dev src ⟨.TAP_CMD, 0, t⟩) (t := t) hr (flag_of_one (d := s.dev) hprev) rfl hk
    rw [swCmd_tapCmd (tap_limit (.inl rfl) ht) hg]
    obtain ⟨j, hj⟩ := h2
    exact ⟨(fld_answered ..).trans h1, j, by rw [pool_answered]; exact hj⟩
  · refine State.does_perform (by dsimp only [exec]; rfl) ?_ ht
    rw [swCmd_tapCmd (tap_limit (.inl rfl) ht) hg, tapForget_idle (d := s.dev.written src ⟨.TAP_CMD, 0, t⟩) hr (flag_of_zero (d := s.dev) hprev)]
  · refine State.doesSome_perform (by dsimp only [exec]; rfl) ?_ ht
    obtain ⟨c, hc, hrd, hwr, htap⟩ := swCmd_logRd (L := s.locks) (at_ := 255) (tap_limit (.inr ⟨v, rfl⟩) ht) hv hg
    obtain ⟨h1, h2⟩ := tapLog_effect c t ((congrArg Tap.run (htap t)).trans hr) hp ho (by rw [hrd, hwr]; exact hfull)
    rw [hc]
    exact ⟨(fld_answered ..).trans (h2.trans hrd), by rw [tap_answered]; exact h1⟩
  · refine State.doesSome_perform (by dsimp only [exec]; rfl) ?_ ht
    obtain ⟨c, hc, hrd, hwr, htap⟩ := swCmd_logRd (L := s.locks) (at_ := 255) (tap_limit (.inr ⟨v, rfl⟩) ht) hv hg
    rw [hc, tapLog_idle ((congrArg Tap.run (htap t)).trans hr)]
    exact ⟨(fld_answered ..).trans hrd, (fld_answered ..).trans hwr, (tap_answered ..).trans (htap t)⟩

end Sys2Proof.Machine

/-! ## What messages, interrupts and records leave of the rings -/

namespace Sys2Proof.Machine

/-- The registers that interrupts, records and the error reporting of a port change. -/
def outwardRegs : List RegId :=
  [.MSIX_PBA, .BB_IRQ_TX, .BB_IRQ_RX, .PX_ERR_COUNT, .PROT_VIO_INFO, .PROT_VIO_ADDR_LO, .PROT_VIO_ADDR_HI, .PROT_VIO_DETAIL, .PROT_VIO_REQ,
    .PROT_VIO_LEN, .PROT_VIO_DENIED, .DIE_Q_STAT, .DIE_ACC_ERR_INFO, .PKG_SEAL_STAT]

/-- Rings, movers, taps, pools, homes and the lead's order are as they were, and the registers but those named. -/
structure RingsKept (rs : List RegId) (d e : Dev) : Prop where
  regs : ∀ l : Loc, l.reg ∉ rs → e.at l = d.at l
  rings : e.rings = d.rings
  movers : e.movers = d.movers
  taps : e.taps = d.taps
  pools : e.pools = d.pools
  home : e.home = d.home
  order : (e.variant, e.cfgLog, e.applied) = (d.variant, d.cfgLog, d.applied)

namespace RingsKept
variable {rs : List RegId} {d e c : Dev}

theorem refl (rs : List RegId) (d : Dev) : RingsKept rs d d := ⟨fun _ _ => rfl, rfl, rfl, rfl, rfl, rfl, rfl⟩

theorem trans (h : RingsKept rs d e) (h' : RingsKept rs e c) : RingsKept rs d c :=
  ⟨fun l hl => (h'.regs l hl).trans (h.regs l hl), h'.rings.trans h.rings, h'.movers.trans h.movers, h'.taps.trans h.taps, h'.pools.trans h.pools,
    h'.home.trans h.home, h'.order.trans h.order⟩

theorem foldl {α : Type} {f : Dev → α → Dev} (hf : ∀ d a, RingsKept rs d (f d a)) : ∀ (xs : List α) (d : Dev), RingsKept rs d (xs.foldl f d)
  | [], d => refl rs d
  | x :: xs, d => (hf d x).trans (foldl hf xs (f d x))

theorem ring (h : RingsKept rs d e) (r : Nat) : e.ring r = d.ring r := by rw [Dev.ring, h.rings]; rfl

theorem mover (h : RingsKept rs d e) (x m : Nat) : e.mover x m = d.mover x m := by rw [Dev.mover, h.movers]; rfl

theorem fld (h : RingsKept rs d e) {f : Fld} (hf : f.reg ∉ rs) (u i : Nat) : e.fld f u i = d.fld f u i := fld_of_at (h.regs _ hf)

theorem ringDie (h : RingsKept rs d e) (r : Nat) : e.ringDie r = d.ringDie r := by rw [Dev.ringDie, h.ring, h.home]; rfl

theorem state (h : RingsKept rs d e) (hs : .RING_STAT ∉ rs) (r : Nat) : e.ringState r = d.ringState r := h.fld hs 0 r

theorem posted (h : RingsKept rs d e) (hs : .RING_PTR ∉ rs) (r : Nat) : e.posted r = d.posted r := h.fld hs 0 r

theorem fetched (h : RingsKept rs d e) (hs : .RING_PTR ∉ rs) (r : Nat) : e.fetched r = d.fetched r := h.fld hs 0 r

theorem mono {rs' : List RegId} (h : RingsKept rs d e) (hs : ∀ r ∈ rs, r ∈ rs') : RingsKept rs' d e :=
  ⟨fun l hl => h.regs l fun h' => hl (hs _ h'), h.rings, h.movers, h.taps, h.pools, h.home, h.order⟩

end RingsKept

section
variable {rs : List RegId}

theorem ringsKept_setReg (d : Dev) {r : RegId} (u i : Nat) (w : Word) (h : r ∈ rs) : RingsKept rs d (d.setReg r u i w) :=
  ⟨fun _ hl => at_setReg_ne _ _ _ _ _ (by rintro rfl; exact hl h), rfl, rfl, rfl, rfl, rfl, rfl⟩

theorem ringsKept_setFld (d : Dev) {f : Fld} (u i v : Nat) (h : f.reg ∈ rs) : RingsKept rs d (d.setFld f u i v) := ringsKept_setReg d u i _ h

theorem ringsKept_raise (d : Dev) (x cls : Nat) (k : Loc) (b src : Nat) : RingsKept rs d (d.raise x cls k b src) :=
  ⟨fun _ _ => rfl, rfl, rfl, rfl, rfl, rfl, rfl⟩

theorem ringsKept_status (d : Dev) {f : Fld} (u i cls x src : Nat) (h : f.reg ∈ rs) : RingsKept rs d (d.status f u i cls x src) := by
  unfold Dev.status
  split
  · exact RingsKept.refl rs d
  · exact (ringsKept_setFld d u i 1 h).trans (ringsKept_raise ..)

theorem Sends.ringsKept {d e : Dev} (h : Sends d e) : RingsKept rs d e := by
  obtain ⟨px, mo, out, notes, id, rfl⟩ := h
  exact ⟨fun _ _ => rfl, rfl, rfl, rfl, rfl, rfl, rfl⟩

theorem ringsKept_flushTx : ∀ (k : Nat) (d : Dev) (p : Nat), RingsKept rs d (Dev.flushTx k d p)
  | 0, d, _ => RingsKept.refl rs d
  | k + 1, d, p => by
    unfold Dev.flushTx
    dsimp only
    split
    · exact RingsKept.refl rs d
    · split
      · refine RingsKept.trans ?_ (ringsKept_flushTx k _ p)
        exact ⟨fun _ _ => rfl, rfl, rfl, rfl, rfl, rfl, rfl⟩
      · exact RingsKept.refl rs d

theorem ringsKept_modPort (d : Dev) (p : Nat) (f : Port → Port) : RingsKept rs d (d.modPort p f) := ⟨fun _ _ => rfl, rfl, rfl, rfl, rfl, rfl, rfl⟩

theorem ringsKept_send (d : Dev) (p : Nat) (x : Pkt) : RingsKept rs d (d.send p x) := by
  have h : RingsKept rs d (d.modLink p fun l => { l with waiting := l.waiting ++ [x] }) := ⟨fun _ _ => rfl, rfl, rfl, rfl, rfl, rfl, rfl⟩
  exact h.trans (ringsKept_flushTx _ _ p)

/-! Interrupts (R217 to R223) -/

theorem ringsKept_msix (hm : RegId.MSIX_PBA ∈ rs) (d : Dev) (x v : Nat) : RingsKept rs d (d.msix x v).2 := by
  unfold Dev.msix
  split
  · exact ⟨fun _ _ => rfl, rfl, rfl, rfl, rfl, rfl, rfl⟩
  · exact ringsKept_setReg d x _ _ hm

theorem ringsKept_assertIrq (hb : RegId.BB_IRQ_TX ∈ rs) (d : Dev) (p l vec src : Nat) : RingsKept rs d (d.assertIrq p l vec src) :=
  ((ringsKept_modPort _ _ _).trans (ringsKept_send _ _ _)).trans (ringsKept_setFld _ _ _ _ hb)

theorem ringsKept_syncLevel (hb : RegId.BB_IRQ_TX ∈ rs) (d : Dev) (p l : Nat) : RingsKept rs d (d.syncLevel p l) := by
  unfold Dev.syncLevel
  split
  · split
    · exact RingsKept.refl rs d
    · split
      · split
        · exact ringsKept_assertIrq hb ..
        · exact RingsKept.refl rs d
      · exact ringsKept_assertIrq hb ..
  · exact RingsKept.refl rs d

theorem ringsKept_sendIak (hr : RegId.BB_IRQ_RX ∈ rs) (d : Dev) (p l : Nat) : RingsKept rs d (d.sendIak p l) := by
  unfold Dev.sendIak
  dsimp only
  split
  · split
    · exact (ringsKept_send _ _ _).trans (ringsKept_setReg _ _ _ _ hr)
    · exact (ringsKept_send _ _ _).trans (ringsKept_modPort _ _ _)
  · exact RingsKept.refl rs d

theorem ringsKept_irqRaise (hm : RegId.MSIX_PBA ∈ rs) (hb : RegId.BB_IRQ_TX ∈ rs) (hr : RegId.BB_IRQ_RX ∈ rs) (d : Dev) (u : Nat) (k : IrqEntry)
    (vec : Nat) : RingsKept rs d (d.irqRaise u k vec) := by
  have hx := fun x v => ringsKept_msix hm d x v
  have hone : ∀ (a : Bool) {b : Bool × Dev} {f g : Dev → Dev}, RingsKept rs d b.2 → (∀ e, RingsKept rs e (f e)) → (∀ e, RingsKept rs e (g e)) →
      RingsKept rs d (if a = true then b.2 else if b.1 = true then f b.2 else g b.2) := fun a b f g h hf hg => by
    split
    · exact h
    · split
      · exact h.trans (hf _)
      · exact h.trans (hg _)
  unfold Dev.irqRaise
  dsimp only
  split
  · exact RingsKept.refl rs d
  · split
    · refine RingsKept.trans ?_ (ringsKept_syncLevel hb _ _ _)
      split
      · exact RingsKept.refl rs d
      · exact ⟨fun _ _ => rfl, rfl, rfl, rfl, rfl, rfl, rfl⟩
    · split
      next p l _ _ =>
        generalize bitsOf (d.irqWords u (IrqEntry.bbin p l)).2 10 0 + (if bitsOf (d.irqWords u (IrqEntry.bbin p l)).1 29 28 = 1 then vec else 0) = v
        exact hone _ (g := fun e => e.modPx _ fun q => { q with iakWait := q.iakWait ++ [(v, p, l, vec)] }) (hx _ v)
          (fun e => ringsKept_sendIak hr e p l) fun e => (sends_modPx e _ _).ringsKept
      · split
        · exact hx _ _
        · split
          · exact ⟨fun _ _ => rfl, rfl, rfl, rfl, rfl, rfl, rfl⟩
          · split
            · exact (hx _ _).trans ⟨fun _ _ => rfl, rfl, rfl, rfl, rfl, rfl, rfl⟩
            · exact (hx _ _).trans ⟨fun _ _ => rfl, rfl, rfl, rfl, rfl, rfl, rfl⟩

end

/-! Errors at a port -/

theorem ringsKept_cfgSet {rs : List RegId} (d : Dev) (x off : Nat) (bits : List Nat) : RingsKept rs d (d.cfgSet x off bits) :=
  ⟨fun _ _ => rfl, rfl, rfl, rfl, rfl, rfl, rfl⟩

/-- What configuration space, the log and the outputs do not show stays when an error is reported. -/
theorem aer_eq {α : Type} (P : Dev → α) (x : Nat) (k : AerErr) (hset : ∀ e o bits, P (Dev.cfgSet e x o bits) = P e)
    (hhead : ∀ e, P (Dev.aerHeader e x k) = P e) (hem : ∀ e o, P (Dev.emit e o) = P e) (d : Dev) (adv : Bool) : P (d.aer x k adv) = P d := by
  unfold Dev.aer
  simp only
  repeat' split
  all_goals simp only [hset, hhead, hem]

theorem ringsKept_aer {rs : List RegId} (d : Dev) (x : Nat) (k : AerErr) (adv : Bool) : RingsKept rs d (d.aer x k adv) := by
  have hh : ∀ {α : Type} (P : Dev → α), (∀ (e : Dev) px n, P { e with pcie := px, free := n } = P e) → (∀ e o bits, P (Dev.cfgSet e x o bits) = P e) →
      (∀ e o, P (Dev.emit e o) = P e) → P (d.aer x k adv) = P d := fun P hP hset hem => aer_eq P x k hset (fun e => by
    rcases aerHeader_cases e x k with h | ⟨f, g, n, h⟩ <;> rw [h]
    exact hP e _ n) hem d adv
  exact ⟨fun l _ => hh (Dev.at · l) (fun _ _ _ => rfl) (fun _ _ _ => rfl) fun _ _ => rfl,
    hh Dev.rings (fun _ _ _ => rfl) (fun _ _ _ => rfl) fun _ _ => rfl, hh Dev.movers (fun _ _ _ => rfl) (fun _ _ _ => rfl) fun _ _ => rfl,
    hh Dev.taps (fun _ _ _ => rfl) (fun _ _ _ => rfl) fun _ _ => rfl, hh Dev.pools (fun _ _ _ => rfl) (fun _ _ _ => rfl) fun _ _ => rfl,
    hh Dev.home (fun _ _ _ => rfl) (fun _ _ _ => rfl) fun _ _ => rfl,
    hh (fun d => (d.variant, d.cfgLog, d.applied)) (fun _ _ _ => rfl) (fun _ _ _ => rfl) fun _ _ => rfl⟩

theorem ringsKept_logPosted {rs : List RegId} (hc : RegId.PX_ERR_COUNT ∈ rs) (d : Dev) (x : Nat) (abort : Bool) : RingsKept rs d (d.logPosted x abort) := by
  unfold Dev.logPosted
  split <;> exact (ringsKept_setFld d (f := ⟨.PX_ERR_COUNT, _, _⟩) x 0 _ hc).trans (ringsKept_aer ..)

/-- The registers of the violation record of a protection unit. -/
def vioRegs : List RegId :=
  [.PROT_VIO_INFO, .PROT_VIO_ADDR_LO, .PROT_VIO_ADDR_HI, .PROT_VIO_DETAIL, .PROT_VIO_REQ, .PROT_VIO_LEN, .PROT_VIO_DENIED]

theorem ringsKept_protRecord (d : Dev) (q : ProtReq) (a n : Nat) (r : Option Nat) : RingsKept vioRegs d (d.protRecord q a n r) := by
  have hs : ∀ (e : Dev) {r : RegId} (u i : Nat) (w : Word), r ∈ vioRegs → RingsKept vioRegs e (e.setReg r u i w) := fun e _ u i w h =>
    ringsKept_setReg e u i w h
  unfold Dev.protRecord
  dsimp only
  split
  · exact hs _ _ _ _ (by decide)
  · exact (((((((hs _ _ _ _ (by decide)).trans (hs _ _ _ _ (by decide))).trans (hs _ _ _ _ (by decide))).trans (hs _ _ _ _ (by decide))).trans
      (hs _ _ _ _ (by decide))).trans (hs _ _ _ _ (by decide))).trans (hs _ _ _ _ (by decide))).trans (ringsKept_raise ..)

theorem ringsKept_protCheck (d : Dev) (q : ProtReq) : RingsKept vioRegs d (d.protCheck q).2 := by
  unfold Dev.protCheck
  dsimp only
  split
  · exact RingsKept.refl _ d
  · exact ringsKept_protRecord ..

/-- Bookkeeping reads and writes of the package's own. -/
theorem ringsKept_forgetReads {rs : List RegId} (d : Dev) (f : Who → Bool) : RingsKept rs d (d.forgetReads f) :=
  RingsKept.foldl (fun e x => (sends_modPx e x _).ringsKept) _ d

end Sys2Proof.Machine

/-! ## Doorbells, batches and notices of rings (R294 to R296, R315 to R317) -/

namespace Sys2Proof.Machine

/-- A write of a register of this kind is what it sets in motion. -/
theorem busWrite_pulse {d : Dev} {L : Locks} {src : Src} {l : Loc} {v at_ : Nat} (hf : l.fits d.n = true) (hr : l.reg.pulse = true)
    (hg : d.lets src l = true) (hv : v < 2 ^ 32) :
    d.busWrite L src l.offset 4 15 v at_ =
      let r := (d.written src l).writeHook L src l (lockOf L l) (d.at l) (BitVec.ofNat 32 v)
      (if r.1 then r.2.accErr src true 10 l.offset 4 else r.2).answered src := by
  rw [← swCmd_pulse (L := L) (f := fun _ => BitVec.ofNat 32 v) (at_ := at_) hf hr hg, Dev.swCmd, BitVec.toNat_ofNat, Nat.mod_eq_of_lt hv]

/-! Doorbells (R295) -/

theorem ringsKept_answered {rs : List RegId} (d : Dev) (src : Src) : RingsKept rs d (d.answered src) :=
  ⟨fun l _ => at_answered d src l, answered_of_out Dev.rings (fun _ _ => rfl) d src, answered_of_out Dev.movers (fun _ _ => rfl) d src,
    answered_of_out Dev.taps (fun _ _ => rfl) d src, answered_of_out Dev.pools (fun _ _ => rfl) d src,
    answered_of_out Dev.home (fun _ _ => rfl) d src, answered_of_out (fun d => (d.variant, d.cfgLog, d.applied)) (fun _ _ => rfl) d src⟩

theorem ringsKept_written {rs : List RegId} (d : Dev) (src : Src) (l : Loc) : RingsKept rs d (d.written src l) :=
  ⟨fun _ _ => rfl, rfl, rfl, rfl, rfl, rfl, rfl⟩

theorem RingsKept.doorbells {d c : Dev} (h : RingsKept [] d c) (r : Nat) : c.flag MC_BOOT_STAT.DONE (c.ringDie r) = d.flag MC_BOOT_STAT.DONE (d.ringDie r) := by
  rw [h.ringDie, Dev.flag, h.fld (List.not_mem_nil)]
  rfl

/-- A doorbell in its one form in BAR2, and one by RING_DB, ring in the same way. -/
theorem doorbell_rings {d : Dev} {L : Locks} {src : Src} {r v : Nat} {b : Bool} (hr : r < 1024) (hv : v < 65536)
    (h : if b = true then d.waitsCredit (srcDie src) true = false ∧ src.poison = false ∧ d.takesMem src 1 = true ∧
        (d.protCheck (d.srcReq src .doorbell (4096 * r) 4 1)).1.denied = false
      else d.lets src ⟨.RING_DB, 0, r⟩ = true) :
    ∃ c : Dev, RingsKept [] d c ∧ RingsKept [] (c.doorbell r v)
      (if b = true then d.bar2Write src r 0 4 15 v else d.busWrite L src (Loc.offset ⟨.RING_DB, 0, r⟩) 4 15 v 255) := by
  cases b with
  | false =>
    have hbits : bitsOf (BitVec.ofNat 32 v) 15 0 = v := by
      rw [bitsOf_ofNat (by omega)]
      omega
    refine ⟨d.written src ⟨.RING_DB, 0, r⟩, ringsKept_written .., ?_⟩
    rw [if_neg Bool.false_ne_true, busWrite_pulse (fits_pkg rfl hr rfl) (show RegId.RING_DB.pulse = true by decide) h (by omega)]
    simp only [Dev.writeHook, hbits, Bool.false_eq_true, if_false]
    exact ringsKept_answered ..
  | true =>
    obtain ⟨hw, hp, ht, hd⟩ := h
    obtain ⟨-, he⟩ := protCheck_allowed hd
    refine ⟨d, RingsKept.refl _ d, ?_⟩
    rw [if_pos rfl, Dev.bar2Write, hw, if_neg Bool.false_ne_true]
    simp only [Dev.bar2WriteNow, ht, hp, Nat.add_zero, hd, he, Nat.mod_eq_of_lt hv, Bool.not_true, Bool.false_eq_true, if_false]
    exact RingsKept.refl _ _

/-- A doorbell that keeps within its ring moves POSTED alone. -/
theorem doorbell_moves {d : Dev} {r v : Nat} (hv : v < 65536) (hdone : d.flag MC_BOOT_STAT.DONE (d.ringDie r) = true)
    (hs : d.ringState r = 1 ∨ d.ringState r = 2)
    (hroom : (d.posted r + 65536 - d.cplWr r) % 65536 + (v + 65536 - d.posted r) % 65536 ≤ min (d.ring r).size 65535) :
    (d.doorbell r v).posted r = v ∧ (d.doorbell r v).fetched r = d.fetched r ∧ ∀ k : Loc, k ≠ ⟨.RING_PTR, 0, r⟩ → (d.doorbell r v).at k = d.at k := by
  obtain ⟨e, he, hreg⟩ : ∃ e : Dev, d.doorbell r v = e.setFld RING_PTR.POSTED 0 r v ∧ ∀ l, e.at l = d.at l := by
    simp only [Dev.doorbell, hdone, Bool.not_true, Bool.false_eq_true, if_false]
    rw [if_neg (by omega), Nat.mod_eq_of_lt hv]
    refine ⟨_, rfl, fun l => ?_⟩
    split <;> rfl
  rw [he]
  refine ⟨(fld_setFld e (f := RING_PTR.POSTED) 0 r v (by decide)).trans (Nat.mod_eq_of_lt hv), ?_, fun k hk => ?_⟩
  · exact (fld_setFld_apart e (f := RING_PTR.POSTED) (g := RING_PTR.FETCHED) _ _ _ _ _ (by decide) (by decide)).trans (fld_of_at (hreg _))
  · exact (Dev.at_setFld_ne _ _ _ _ _ hk).trans (hreg k)

theorem ringState_lt (d : Dev) (r : Nat) : d.ringState r < 4 := Nat.mod_lt _ (by decide)

/-- Any other sets DB_BAD and moves nothing. -/
theorem doorbell_bad {d : Dev} {r v : Nat} (hdone : d.flag MC_BOOT_STAT.DONE (d.ringDie r) = true)
    (h : ¬ ((d.ringState r = 1 ∨ d.ringState r = 2) ∧
      (d.posted r + 65536 - d.cplWr r) % 65536 + (v + 65536 - d.posted r) % 65536 ≤ min (d.ring r).size 65535)) :
    d.doorbell r v = d.ringEvent RING_STAT.DB_BAD r := by
  have hlt := ringState_lt d r
  simp only [Dev.doorbell, hdone, Bool.not_true, Bool.false_eq_true, if_false]
  exact if_pos (by omega)

theorem doorbell_closed {d : Dev} {r v : Nat} (h : ¬ d.flag MC_BOOT_STAT.DONE (d.ringDie r) = true) : d.doorbell r v = d := by
  simp only [Dev.doorbell, h, Bool.not_false, if_true]

/-- A write of another form to the page of a ring in BAR2 leaves the rings (R90). -/
theorem ringsKept_bar2Write {d : Dev} {src : Src} {r off len en v : Nat} (hw : d.waitsCredit (srcDie src) true = false)
    (h : off ≠ 0 ∨ len ≠ 4 ∨ en % 16 ≠ 15) : RingsKept outwardRegs d (d.bar2Write src r off len en v) := by
  have hlog := fun e x a => ringsKept_logPosted (rs := outwardRegs) (by decide) e x a
  rw [Dev.bar2Write, hw, if_neg Bool.false_ne_true]
  unfold Dev.bar2WriteNow
  dsimp only
  split
  · exact hlog ..
  · split
    · simp only [Dev.poisoned, if_true]
      exact ringsKept_aer ..
    · refine ((ringsKept_protCheck d (d.srcReq src .doorbell (4096 * r + off) len 1)).mono (by decide)).trans ?_
      rw [if_pos (by rcases h with h | h | h <;> simp [h])]
      exact hlog ..

/-! Sums over the rings of a mover -/

theorem foldl_filter_sum {α : Type} (p : α → Bool) (g : α → Nat) : ∀ (xs : List α) (n : Nat),
    (xs.filter p).foldl (fun n q => n + g q) n = n + (xs.map fun q => if p q then g q else 0).sum
  | [], n => by simp
  | x :: xs, n => by
    cases h : p x
    · rw [List.filter_cons_of_neg (by simp [h]), foldl_filter_sum p g xs, List.map_cons, List.sum_cons]
      simp [h]
    · rw [List.filter_cons_of_pos h, List.foldl_cons, foldl_filter_sum p g xs, List.map_cons, List.sum_cons]
      simp only [h, if_true]
      omega

theorem sum_filter_le {α : Type} (p : α → Bool) (g : α → Nat) : ∀ xs : List α, ((xs.filter p).map g).sum ≤ (xs.map g).sum
  | [] => Nat.le_refl _
  | x :: xs => by
    have := sum_filter_le p g xs
    cases h : p x
    · rw [List.filter_cons_of_neg (by simp [h]), List.map_cons, List.sum_cons]
      omega
    · rw [List.filter_cons_of_pos h, List.map_cons, List.sum_cons, List.map_cons, List.sum_cons]
      omega

theorem sum_filter_of_dropped {α : Type} {p : α → Bool} (g : α → Nat) {x : α} (hp : p x = false) : ∀ {xs : List α}, x ∈ xs →
    ((xs.filter p).map g).sum + g x ≤ (xs.map g).sum
  | y :: ys, hx => by
    rw [List.map_cons, List.sum_cons]
    rcases List.mem_cons.mp hx with rfl | hx
    · rw [List.filter_cons_of_neg (by simp [hp])]
      have := sum_filter_le p g ys
      omega
    · have := sum_filter_of_dropped g hp hx
      cases h : p y
      · rw [List.filter_cons_of_neg (by simp [h])]
        omega
      · rw [List.filter_cons_of_pos h, List.map_cons, List.sum_cons]
        omega

theorem Store.sum_insert {V : Type} (k : Key) (v : V) (g : Key → Nat) : ∀ m : Store V,
    ((m.insert k v).map fun e => g e.1).sum = g k + (m.map fun e => g e.1).sum
  | [] => by simp [Store.insert]
  | (k', v') :: m => by
    unfold Store.insert
    split
    · simp
    · rw [List.map_cons, List.sum_cons, Store.sum_insert k v g m, List.map_cons, List.sum_cons]
      simp only
      omega

/-- A sum over the keys of a store does not grow with a write at a key that it lists, or that adds nothing. -/
theorem Store.sum_set_le {V : Type} [DecidableEq V] (dflt v : V) {k : Key} {m : Store V} (g : Key → Nat) (h : g k = 0 ∨ ∃ e ∈ m, e.1 = k) :
    ((Store.set dflt k v m).map fun e => g e.1).sum ≤ (m.map fun e => g e.1).sum := by
  unfold Store.set
  split
  · exact sum_filter_le _ _ m
  · rw [Store.sum_insert]
    rcases h with h | ⟨e, he, rfl⟩
    · have := sum_filter_le (fun e : Key × V => decide (e.1 ≠ k)) (fun e => g e.1) m
      rw [h]
      unfold Store.erase
      omega
    · have := sum_filter_of_dropped (p := fun a : Key × V => decide (a.1 ≠ e.1)) (fun e => g e.1) (x := e) (by simp) he
      unfold Store.erase
      omega

theorem Store.listed_of_ne {V : Type} {dflt : V} {k : Key} : ∀ {m : Store V}, Store.get dflt k m ≠ dflt → ∃ e ∈ m, e.1 = k
  | [], h => absurd rfl h
  | (k', v) :: m, h => by
    by_cases hk : k' = k
    · exact ⟨_, List.mem_cons_self, hk⟩
    · rw [Store.get, if_neg hk] at h
      obtain ⟨e, he, hek⟩ := Store.listed_of_ne h
      exact ⟨e, List.mem_cons_of_mem _ he, hek⟩

/-- A count over the rings of a mover. -/
def Dev.ringSum (d : Dev) (g : Nat → Nat) : Nat := (d.rings.map fun e => g e.1.a).sum

theorem ringSum_modRing_le {d : Dev} {r : Nat} (f : Ring → Ring) (g : Nat → Nat) (h : g r = 0 ∨ d.ring r ≠ {}) :
    (d.modRing r f).ringSum g ≤ d.ringSum g :=
  Store.sum_set_le ({} : Ring) (f (d.ring r)) (fun k => g k.a) (h.imp id fun h => Store.listed_of_ne h)

theorem moverRings_sum (d : Dev) (x m : Nat) (g : Nat → Nat) :
    (d.moverRings x m).foldl (fun n q => n + g q) 0 =
      d.ringSum fun q => if (d.ringDie q == x && (d.ring q).mover == m && d.ringState q != 0) = true then g q else 0 := by
  rw [Dev.moverRings, foldl_filter_sum, Nat.zero_add, List.map_map, Dev.ringSum]
  rfl

/-! One ring goes on -/

/-- Of the rings only one has gone on: it has its set-up, and no ring has gone on or off. -/
structure GoesOn (r : Nat) (d e : Dev) : Prop where
  home : e.home = d.home
  others : ∀ q, q ≠ r → e.ring q = d.ring q
  ctl : (e.ring r).ctl = (d.ring r).ctl
  on : ∀ q, (e.ringState q != 0) = (d.ringState q != 0)
  listed : ∀ g : Nat → Nat, g r = 0 → e.ringSum g ≤ d.ringSum g

namespace GoesOn
variable {r : Nat} {d e c : Dev}

theorem refl (r : Nat) (d : Dev) : GoesOn r d d := ⟨rfl, fun _ _ => rfl, rfl, fun _ => rfl, fun _ _ => Nat.le_refl _⟩

theorem trans (h : GoesOn r d e) (h' : GoesOn r e c) : GoesOn r d c :=
  ⟨h'.home.trans h.home, fun q hq => (h'.others q hq).trans (h.others q hq), h'.ctl.trans h.ctl, fun q => (h'.on q).trans (h.on q),
    fun g hg => (h'.listed g hg).trans (h.listed g hg)⟩

theorem ctls (h : GoesOn r d e) (q : Nat) : (e.ring q).ctl = (d.ring q).ctl := by
  by_cases hq : q = r
  · rw [hq, h.ctl]
  · rw [h.others q hq]

theorem ringDie (h : GoesOn r d e) (q : Nat) : e.ringDie q = d.ringDie q := by rw [Dev.ringDie, h.ctls, h.home]; rfl

theorem mover (h : GoesOn r d e) (q : Nat) : (e.ring q).mover = (d.ring q).mover := by rw [Ring.mover, h.ctls]; rfl

/-- A count to which the ring adds nothing does not grow. -/
theorem sum_le (h : GoesOn r d e) (x m : Nat) (g : Ring → Nat) (hg : g (e.ring r) = 0) :
    (e.moverRings x m).foldl (fun n q => n + g (e.ring q)) 0 ≤ (d.moverRings x m).foldl (fun n q => n + g (d.ring q)) 0 := by
  rw [moverRings_sum e x m fun q => g (e.ring q), moverRings_sum d x m fun q => g (d.ring q)]
  refine (h.listed _ (by simp [hg])).trans ?_
  unfold Dev.ringSum
  refine List.sum_le_sum fun q _ => ?_
  simp only [h.ringDie, h.mover, h.on]
  by_cases hq : q.1.a = r
  · rw [hq, hg]
    split <;> exact Nat.zero_le _
  · rw [h.others _ hq]

theorem cplStaged_le (h : GoesOn r d e) (x m : Nat) (hq : (e.ring r).cplq = []) : e.cplStaged x m ≤ d.cplStaged x m :=
  h.sum_le x m (fun g : Ring => (g.cplq.filter fun c : List Word × Bool => c.1.headD 0 != 0x50001500#32).length) (by simp [hq])

end GoesOn

theorem RingsKept.goesOn {rs : List RegId} {d e : Dev} (h : RingsKept rs d e) (hs : RegId.RING_STAT ∉ rs) (r : Nat) : GoesOn r d e :=
  ⟨h.home, fun q _ => h.ring q, congrArg Ring.ctl (h.ring r), fun q => by rw [h.state hs], fun g _ => by rw [Dev.ringSum, h.rings]; exact Nat.le_refl _⟩

theorem goesOn_modRing (d : Dev) (r : Nat) (f : Ring → Ring) (h : (f (d.ring r)).ctl = (d.ring r).ctl) : GoesOn r d (d.modRing r f) :=
  ⟨rfl, fun _ hq => ring_modRing_ne d hq f, (congrArg Ring.ctl (ring_modRing_same d r f)).trans h, fun _ => rfl,
    fun g hg => ringSum_modRing_le f g (.inl hg)⟩

/-- A change of RING_STAT that leaves a ring on. -/
theorem goesOn_setFld (d : Dev) (r : Nat) {f : Fld} (v : Nat) (h : f.reg ≠ .RING_STAT ∨ f.wide = true ∧ f.apart RING_STAT.STATE = true) (u i : Nat) :
    GoesOn r d (d.setFld f u i v) := by
  refine ⟨rfl, fun _ _ => rfl, rfl, fun q => ?_, fun _ _ => Nat.le_refl _⟩
  rcases h with h | ⟨hw, ha⟩
  · exact congrArg (· != 0) (fld_of_at (f := RING_STAT.STATE) (Dev.at_setFld_ne _ _ _ _ _ fun e => h (congrArg Loc.reg e).symm))
  · exact congrArg (· != 0) (fld_setFld_apart d (f := f) (g := RING_STAT.STATE) _ _ _ _ _ ha hw)

theorem goesOn_stops {d : Dev} {r : Nat} (h : d.ringState r ≠ 0) : GoesOn r d (d.setRingState r 2) := by
  refine ⟨rfl, fun _ _ => rfl, rfl, fun q => ?_, fun _ _ => Nat.le_refl _⟩
  by_cases hq : q = r
  · rw [hq, Dev.ringState, Dev.setRingState, fld_setFld _ _ _ _ (by decide), bne_iff_ne.mpr h]
    rfl
  · exact congrArg (· != 0) (fld_of_at (f := RING_STAT.STATE) (Dev.at_setFld_ne _ _ _ _ _ (by simpa using hq)))

theorem goesOn_status (d : Dev) (r : Nat) {f : Fld} (h : f.wide = true ∧ f.apart RING_STAT.STATE = true) (u i cls x src : Nat) :
    GoesOn r d (d.status f u i cls x src) := by
  unfold Dev.status
  split
  · exact GoesOn.refl r d
  · exact (goesOn_setFld d r 1 (.inr h) u i).trans ((ringsKept_raise (rs := []) _ _ _ _ _ _).goesOn (List.not_mem_nil) r)

/-- The registers that an interrupt changes. -/
def irqRegs : List RegId := [.MSIX_PBA, .BB_IRQ_TX, .BB_IRQ_RX]

theorem ringsKept_irq (d : Dev) (u : Nat) (k : IrqEntry) (vec : Nat) : RingsKept irqRegs d (d.irqRaise u k vec) :=
  ringsKept_irqRaise (by decide) (by decide) (by decide) d u k vec

/-- The notice of a ring (R317). -/
theorem notice_effect (d : Dev) (r : Nat) :
    (d.notice r).ring r =
        { d.ring r with unnoticed := 0, every := max 1 (d.fld RING_NOTE.EVERY (d.ringDie r) r), tail := d.fld RING_NOTE.TAIL (d.ringDie r) r } ∧
      GoesOn r d (d.notice r) ∧ ∀ l : Loc, l.reg ∉ irqRegs → (d.notice r).at l = d.at l := by
  obtain ⟨b, hb⟩ : ∃ b, b = d.modRing r fun g =>
      { g with unnoticed := 0, every := max 1 (d.fld RING_NOTE.EVERY (d.ringDie r) r), tail := d.fld RING_NOTE.TAIL (d.ringDie r) r } := ⟨_, rfl⟩
  have hn : d.notice r = b.irqRaise (d.ringDie r) (.ring r) 0 := by rw [hb]; rfl
  have hk := ringsKept_irq b (d.ringDie r) (.ring r) 0
  rw [hn]
  refine ⟨(hk.ring r).trans (by rw [hb, ring_modRing_same]), GoesOn.trans (by rw [hb]; exact goesOn_modRing d r _ rfl) (hk.goesOn (by decide) r),
    fun l hl => (hk.regs l hl).trans (by rw [hb]; rfl)⟩

/-! The end of a descriptor (R310, R313) -/

/-- One ended descriptor is staged as a completion, which may go at once. -/
theorem stage_one {d : Dev} {r : Nat} {y : DescRun} (hruns : (d.ring r).runs = [y]) (hdone : y.phase = .done) (hq : (d.ring r).cplq = [])
    (hroom : d.cplStaged (d.ringDie r) (d.ring r).mover < 64) :
    let e := (Dev.stageCpls false (d.ring r).runs.length d r).cplPump r
    (e.ring r).runs = [] ∧ (∃ b, (e.ring r).cplq = [(cplWords y, b)]) ∧ (e.ring r).staged = (d.ring r).staged ∧ (∀ l : Loc, e.at l = d.at l) ∧
      GoesOn r d e := by
  obtain ⟨b, hb⟩ : ∃ b : Bool, b = (wbits y.words 0 14 14 == 1 && (y.err.map (·.status)) != some 0x12) := ⟨_, rfl⟩
  obtain ⟨a, ha⟩ : ∃ a : Dev, a = (d.modRing r fun g => { g with runs := [], cplq := g.cplq ++ [(cplWords y, b)] }).note
      (.qpush (d.ringDie r) (32 + (d.ring r).mover) [cplWords y]) := ⟨_, rfl⟩
  have hs : Dev.stageCpls false (d.ring r).runs.length d r = a := by
    have h1 : ¬ 512 + (d.queue (d.ringDie r) (32 + (d.ring r).mover)).extra < 8 * (d.cplStaged (d.ringDie r) (d.ring r).mover + 1) := by omega
    have h2 : ¬ 512 < 8 * (d.cplStaged (d.ringDie r) (d.ring r).mover + 1) := by omega
    rw [hruns, List.length_singleton]
    simp only [Dev.stageCpls, h1, h2, decide_false, Bool.and_false, Bool.false_eq_true, if_false, hruns, hdone, if_true]
    rw [ha, hb]
  have har : a.ring r = { d.ring r with runs := [], cplq := [(cplWords y, b)] } := by
    rw [ha]
    refine (ring_modRing_same d r fun g => { g with runs := [], cplq := g.cplq ++ [(cplWords y, b)] }).trans ?_
    rw [hq]
    rfl
  have hag : GoesOn r d a := by
    rw [ha]
    exact (goesOn_modRing d r _ rfl).trans ((sends_note _ _).ringsKept (rs := []) |>.goesOn List.not_mem_nil r)
  have hat : ∀ l, a.at l = d.at l := fun l => by rw [ha]; rfl
  have hpump : a.cplPump r = a ∨ Sends (a.modRing r fun g => { g with cplOut := true }) (a.cplPump r) := by
    simp only [Dev.cplPump, har]
    split
    · exact .inl rfl
    · exact .inr ((((sends_fresh _).trans (sends_fresh _)).trans (sends_hostFrom _ _ _)).trans (sends_hostFrom _ _ _))
  dsimp only
  rw [hs]
  rcases hpump with h | h
  · rw [h]
    exact ⟨by rw [har], ⟨b, by rw [har]⟩, by rw [har], hat, hag⟩
  · have hk : RingsKept [] _ _ := h.ringsKept
    have hr : (a.cplPump r).ring r = { a.ring r with cplOut := true } := (hk.ring r).trans (ring_modRing_same a r fun g => { g with cplOut := true })
    rw [hr, har]
    exact ⟨rfl, ⟨b, rfl⟩, rfl, fun l => (hk.regs l List.not_mem_nil).trans (hat l),
      (hag.trans (goesOn_modRing a r _ rfl)).trans (hk.goesOn List.not_mem_nil r)⟩

/-- What a ring that goes on does not change of itself when it stops or raises its notice. -/
structure SameWork (g h : Ring) : Prop where
  runs : h.runs = g.runs
  cplq : h.cplq = g.cplq
  staged : h.staged = g.staged

/-- A ring that runs stops after an error; one that has stopped stays as it is (R315). -/
theorem ringStopErr_effect (d : Dev) (r count : Nat) :
    SameWork (d.ring r) ((d.ringStopErr r count).ring r) ∧ GoesOn r d (d.ringStopErr r count) ∧
      (∀ l : Loc, l.reg ∉ RegId.RING_STAT :: .RING_ERR_IDX :: irqRegs → (d.ringStopErr r count).at l = d.at l) ∧
      (d.ringStopErr r count).fld RING_STAT.FETCH_FAULT 0 r = d.fld RING_STAT.FETCH_FAULT 0 r ∧
      (d.ringState r = 1 → (d.ringStopErr r count).ringState r = 2 ∧ (d.ringStopErr r count).fld RING_ERR_IDX.INDEX 0 r = count % 65536) := by
  unfold Dev.ringStopErr
  split
  · next h => exact ⟨⟨rfl, rfl, rfl⟩, GoesOn.refl r d, fun _ _ => rfl, rfl, fun h' => absurd h' h⟩
  · next h =>
    have hst : d.ringState r = 1 := Classical.not_not.mp h
    obtain ⟨b, hb⟩ : ∃ b, b = ((d.setRingState r 2).setFld RING_ERR_IDX.INDEX 0 r count).setFld RING_STAT.STOPPED_ERR 0 r 1 := ⟨_, rfl⟩
    obtain ⟨c, hc⟩ : ∃ c : Dev, c = b.raise (((d.setRingState r 2).setFld RING_ERR_IDX.INDEX 0 r count).ringDie r) evRing ⟨.RING_STAT, 0, r⟩
      RING_STAT.STOPPED_ERR.lo r := ⟨_, rfl⟩
    have hring : b.ring r = d.ring r := by rw [hb]; rfl
    have hgo : GoesOn r d b := by
      rw [hb]
      exact ((goesOn_stops (by omega)).trans (goesOn_setFld _ r count (.inl (by decide)) 0 r)).trans
        (goesOn_setFld _ r 1 (.inr ⟨by decide, by decide⟩) 0 r)
    have hat : ∀ l : Loc, l.reg ≠ .RING_STAT → l.reg ≠ .RING_ERR_IDX → b.at l = d.at l := fun l h1 h2 => by
      rw [hb]
      exact ((Dev.at_setFld_ne _ _ _ _ _ (by rintro rfl; exact h1 rfl)).trans (Dev.at_setFld_ne _ _ _ _ _ (by rintro rfl; exact h2 rfl))).trans
        (Dev.at_setFld_ne _ _ _ _ _ (by rintro rfl; exact h1 rfl))
    have hff : b.fld RING_STAT.FETCH_FAULT 0 r = d.fld RING_STAT.FETCH_FAULT 0 r := by
      rw [hb, fld_setFld_apart _ _ _ _ _ _ (by decide) (by decide), fld_setFld_apart _ _ _ _ _ _ (by decide) (by decide), Dev.setRingState,
        fld_setFld_apart _ _ _ _ _ _ (by decide) (by decide)]
    have hstate : b.ringState r = 2 := by
      rw [Dev.ringState, hb, fld_setFld_apart _ _ _ _ _ _ (by decide) (by decide), fld_setFld_apart _ _ _ _ _ _ (by decide) (by decide),
        Dev.setRingState, fld_setFld _ _ _ _ (by decide)]
      rfl
    have hidx : b.fld RING_ERR_IDX.INDEX 0 r = count % 65536 := by
      rw [hb, fld_setFld_apart _ _ _ _ _ _ (by decide) (by decide), fld_setFld _ _ _ _ (by decide)]
      rfl
    have hk : RingsKept [] b c := by rw [hc]; exact ringsKept_raise ..
    obtain ⟨hn, hng, hnat⟩ := notice_effect c r
    have he : (b.raise (((d.setRingState r 2).setFld RING_ERR_IDX.INDEX 0 r count).ringDie r) evRing ⟨.RING_STAT, 0, r⟩
      RING_STAT.STOPPED_ERR.lo r).notice r = c.notice r := by rw [hc]
    dsimp only
    rw [← hb, he]
    have hfld : ∀ f : Fld, f.reg ∉ irqRegs → ∀ u i, (c.notice r).fld f u i = b.fld f u i := fun f hf u i =>
      (fld_of_at (hnat _ hf)).trans (hk.fld List.not_mem_nil u i)
    refine ⟨?_, (hgo.trans (hk.goesOn List.not_mem_nil r)).trans hng, fun l hl => ?_, (hfld _ (by decide) _ _).trans hff,
      fun _ => ⟨(hfld _ (by decide) _ _).trans hstate, (hfld _ (by decide) _ _).trans hidx⟩⟩
    · rw [hn, hk.ring, hring]
      exact ⟨rfl, rfl, rfl⟩
    · simp only [List.mem_cons, not_or] at hl
      exact ((hnat l hl.2.2).trans (hk.regs l List.not_mem_nil)).trans (hat l hl.1 hl.2.1)

/-- The status with which a descriptor ends. -/
def DescRun.outcome (x : DescRun) : DErr := x.err.getD { status := x.fin, info := x.info }

theorem wbits_cplWords (x : DescRun) (hc : x.count < 65536) (hs : x.outcome.status < 256) (hd : x.outcome.detail < 256) (hp : x.outcome.port < 65536) :
    wbits (cplWords x) 0 15 8 = x.outcome.status ∧ wbits (cplWords x) 3 31 16 = x.count := by
  have hlt : ∀ a c : Nat, a < 16 → c < 256 → 0x50000000 + a * 2 ^ 24 + c * 65536 + x.outcome.status * 256 + x.outcome.detail < 2 ^ 32 := by omega
  have hop : (if (x.outcome.status == 0x12) = true then 0 else descOp x.words) < 16 := by
    split
    · decide
    · exact Nat.mod_lt _ (by decide)
  have hck : (if (x.outcome.status == 0x12) = true then 0 else wbits x.words 0 23 16) < 256 := by
    split
    · decide
    · exact Nat.mod_lt _ (by decide)
  constructor
  · show bitsOf (BitVec.ofNat 32 (0x50000000 + (if (x.outcome.status == 0x12) = true then 0 else descOp x.words) * 2 ^ 24 +
      (if (x.outcome.status == 0x12) = true then 0 else wbits x.words 0 23 16) * 65536 + x.outcome.status * 256 + x.outcome.detail)) 15 8 = _
    generalize (if (x.outcome.status == 0x12) = true then 0 else descOp x.words) = a at *
    generalize (if (x.outcome.status == 0x12) = true then 0 else wbits x.words 0 23 16) = c at *
    rw [bitsOf_ofNat (hlt _ _ hop hck)]
    omega
  · show bitsOf (BitVec.ofNat 32 (x.count * 65536 + x.outcome.port)) 31 16 = _
    rw [bitsOf_ofNat (by omega)]
    omega

theorem ringsKept_countEnd (d : Dev) (r st : Nat) : RingsKept [.MOV_ERR] d (d.countEnd r st) := by
  have hb : ∀ f : Fld, f.reg = .MOV_ERR → ∀ i, RingsKept [.MOV_ERR] d (d.bump f 0 i) := fun f hf i => ringsKept_setFld d 0 i _ (by simp [hf])
  unfold Dev.countEnd
  dsimp only
  repeat' split
  · exact hb _ rfl _
  · exact hb _ rfl _
  · exact hb _ rfl _
  · exact hb _ rfl _
  · exact RingsKept.refl _ d

/-- The registers that the end of a descriptor may change. -/
def endRegs : List RegId := .MOV_ERR :: .RING_STAT :: .RING_ERR_IDX :: irqRegs

/-- The one descriptor of a ring ends: its completion is staged (R310, R313, R314). -/
theorem endRun_effect {d : Dev} {r : Nat} {x y : DescRun} (hruns : (d.ring r).runs = [y]) (hy : y.count = x.count) (hq : (d.ring r).cplq = [])
    (hroom : d.cplStaged (d.ringDie r) (d.ring r).mover < 64) (hc : x.count < 65536) (hs : x.outcome.status < 256) (hd : x.outcome.detail < 256)
    (hp : x.outcome.port < 65536) :
    (d.endRun r x).Completes r x.count x.outcome.status ∧ ((d.endRun r x).ring r).staged = (d.ring r).staged ∧
      (∀ l : Loc, l.reg ∉ endRegs → (d.endRun r x).at l = d.at l) ∧
      (d.endRun r x).fld RING_STAT.FETCH_FAULT 0 r = d.fld RING_STAT.FETCH_FAULT 0 r ∧
      (x.outcome.status = 0x12 → x.aborted = false → d.ringState r = 1 → (d.endRun r x).ringState r = 2 ∧
        (d.endRun r x).fld RING_ERR_IDX.INDEX 0 r = x.count) := by
  obtain ⟨z, hz⟩ : ∃ z : DescRun, z = { x with phase := .done, blks := [], todo := [] } := ⟨_, rfl⟩
  obtain ⟨st, hst⟩ : ∃ st, st = (x.err.map (·.status)).getD x.fin := ⟨_, rfl⟩
  have hst' : st = x.outcome.status := by rw [hst, DescRun.outcome]; cases x.err <;> rfl
  obtain ⟨a, ha⟩ : ∃ a, a = (d.putRun r z).countEnd r st := ⟨_, rfl⟩
  have hput : (d.putRun r z).ring r = { d.ring r with runs := [z] } := by
    rw [Dev.putRun, ring_modRing_same, hruns, hz]
    simp [hy]
  have hk := ringsKept_countEnd (d.putRun r z) r st
  rw [← ha] at hk
  have hga : GoesOn r d a := (goesOn_modRing d r _ rfl).trans (hk.goesOn (by decide) r)
  have haf : ∀ f : Fld, f.reg ≠ .MOV_ERR → ∀ u i, a.fld f u i = d.fld f u i := fun f hf u i => (hk.fld (by simpa using hf) u i).trans (fld_of_at rfl)
  obtain ⟨hw, hgo, hat, hff, hstop⟩ := ringStopErr_effect a r x.count
  obtain ⟨c, hcd⟩ : ∃ c, c = if 3 ≤ st ∧ !x.aborted ∧ (!(wbits x.words 0 13 13 == 1) ∨ st = 0x11 ∨ st = 0x12) then a.ringStopErr r x.count else a := ⟨_, rfl⟩
  have hcw : SameWork (a.ring r) (c.ring r) ∧ GoesOn r a c ∧ (∀ l : Loc, l.reg ∉ RegId.RING_STAT :: .RING_ERR_IDX :: irqRegs → c.at l = a.at l) ∧
      c.fld RING_STAT.FETCH_FAULT 0 r = a.fld RING_STAT.FETCH_FAULT 0 r := by
    rw [hcd]
    split
    · exact ⟨hw, hgo, hat, hff⟩
    · exact ⟨⟨rfl, rfl, rfl⟩, GoesOn.refl r a, fun _ _ => rfl, rfl⟩
  obtain ⟨hwork, hcgo, hcat, hcff⟩ := hcw
  have har : a.ring r = { d.ring r with runs := [z] } := (hk.ring r).trans hput
  have hgc := hga.trans hcgo
  have hcq : (c.ring r).cplq = [] := by rw [hwork.cplq, har]; exact hq
  obtain ⟨h1, ⟨b, h2⟩, h3, h4, -⟩ := stage_one (d := c) (r := r) (y := z) (by rw [hwork.runs, har]) (by rw [hz]) hcq
    (by rw [hgc.ringDie, hgc.mover]; exact Nat.lt_of_le_of_lt (hgc.cplStaged_le _ _ hcq) hroom)
  have he : d.endRun r x = (Dev.stageCpls false (c.ring r).runs.length c r).cplPump r := by rw [hcd, ha, hst, hz]; rfl
  have hout : z.outcome = x.outcome := by rw [hz]; rfl
  have hzc : z.count = x.count := by rw [hz]
  rw [he]
  refine ⟨⟨h1, _, h2, ?_⟩, h3.trans (hwork.staged.trans (by rw [har])), fun l hl => ?_, ?_, fun h12 hab hone => ?_⟩
  · obtain ⟨hw1, hw2⟩ := wbits_cplWords z (by rw [hzc]; exact hc) (by rw [hout]; exact hs) (by rw [hout]; exact hd) (by rw [hout]; exact hp)
    exact ⟨by rw [hw1, hout], by rw [hw2, hzc]⟩
  · simp only [endRegs, List.mem_cons, not_or] at hl
    rw [h4, hcat l (by simp only [List.mem_cons, not_or]; exact hl.2), hk.regs l (by simpa using hl.1)]
    rfl
  · exact (fld_of_at (h4 _)).trans (hcff.trans (haf _ (by decide) _ _))
  · have hca : c = a.ringStopErr r x.count := by
      rw [hcd, hst', h12, hab]
      exact if_pos ⟨by decide, rfl, .inr (.inr rfl)⟩
    have haone : a.ringState r = 1 := (haf _ (by decide) 0 r).trans hone
    obtain ⟨hs2, hidx⟩ := hstop haone
    refine ⟨(fld_of_at (f := RING_STAT.STATE) (h4 _)).trans (by rw [hca]; exact hs2), (fld_of_at (f := RING_ERR_IDX.INDEX) (h4 _)).trans ?_⟩
    rw [hca]
    exact hidx.trans (Nat.mod_eq_of_lt hc)

end Sys2Proof.Machine

/-! ## Rings: batches, CPL_RD and the tail timer (R296, R313, R317) -/

namespace Sys2Proof.Machine

theorem Sends.goesOn {d e : Dev} (h : Sends d e) (r : Nat) : GoesOn r d e := (h.ringsKept (rs := [])).goesOn List.not_mem_nil r

theorem RingsKept.moverRings {rs : List RegId} {d e : Dev} (h : RingsKept rs d e) (hs : RegId.RING_STAT ∉ rs) (x m : Nat) :
    e.moverRings x m = d.moverRings x m := by
  simp only [Dev.moverRings, h.rings, h.ringDie, h.ring, h.state hs]

theorem RingsKept.stagedOf {rs : List RegId} {d e : Dev} (h : RingsKept rs d e) (hs : RegId.RING_STAT ∉ rs) (x m : Nat) :
    e.stagedOf x m = d.stagedOf x m := by
  simp only [Dev.stagedOf, h.moverRings hs, h.ring]

theorem RingsKept.cplStaged {rs : List RegId} {d e : Dev} (h : RingsKept rs d e) (hs : RegId.RING_STAT ∉ rs) (x m : Nat) :
    e.cplStaged x m = d.cplStaged x m := by
  simp only [Dev.cplStaged, h.moverRings hs, h.ring]

/-- Staged descriptors are no more after a change of a listed ring that keeps its set-up and what it has staged. -/
theorem stagedOf_modRing_le {d : Dev} {r : Nat} {f : Ring → Ring} (hc : (f (d.ring r)).ctl = (d.ring r).ctl)
    (hs : (f (d.ring r)).staged = (d.ring r).staged) (hr : d.ring r ≠ {}) (x m : Nat) : (d.modRing r f).stagedOf x m ≤ d.stagedOf x m := by
  obtain ⟨e, he⟩ : ∃ e, e = d.modRing r f := ⟨_, rfl⟩
  have hgo : GoesOn r d e := he ▸ goesOn_modRing d r f hc
  have hst : ∀ q, (e.ring q).staged = (d.ring q).staged := fun q => by
    by_cases hq : q = r
    · rw [hq, he, ring_modRing_same, hs]
    · rw [hgo.others q hq]
  rw [← he, Dev.stagedOf, Dev.stagedOf, moverRings_sum e x m fun q => (e.ring q).staged.length, moverRings_sum d x m fun q => (d.ring q).staged.length]
  refine (he ▸ ringSum_modRing_le (d := d) f _ (.inr hr)).trans (Nat.le_of_eq ?_)
  refine congrArg d.ringSum (funext fun q => ?_)
  rw [hgo.ringDie, hgo.mover, hgo.on, hst]

/-- A batch that has been read is staged whole while the mover has room for it (R296). -/
theorem fetchDone_stages {d : Dev} {r n : Nat} (bytes : List Byte) (ho : (d.ring r).fetchOut = some n)
    (hroom : d.stagedOf (d.ringDie r) (d.ring r).mover + n ≤ 64) :
    let e := d.fetchDone r 0 bytes
    (e.ring r).staged = (d.ring r).staged ++ ((List.range n).map fun k => ((d.fetched r + k) % 65536, wordsLE ((bytes.drop (64 * k)).take 64))) ∧
      e.fetched r = (d.fetched r + n) % 65536 ∧ (e.ring r).fetchOut = none := by
  obtain ⟨a, ha⟩ : ∃ a, a = d.modRing r fun g => { g with fetchOut := none } := ⟨_, rfl⟩
  have har : a.ring r = { d.ring r with fetchOut := none } := by
    rw [ha]
    exact ring_modRing_same d r fun g => { g with fetchOut := none }
  have hgo : GoesOn r d a := by
    rw [ha]
    exact goesOn_modRing d r _ rfl
  have hlisted : d.ring r ≠ {} := fun h => by
    rw [h] at ho
    cases ho
  have hle : a.stagedOf (a.ringDie r) (a.ring r).mover ≤ d.stagedOf (d.ringDie r) (d.ring r).mover := by
    rw [hgo.ringDie, hgo.mover, ha]
    exact stagedOf_modRing_le (f := fun g => { g with fetchOut := none }) rfl rfl hlisted _ _
  have hfit : min n (64 - a.stagedOf (a.ringDie r) (a.ring r).mover) = n := by omega
  have hf : a.fetched r = d.fetched r := by rw [ha]; rfl
  simp only [Dev.fetchDone, ho, if_true]
  rw [← ha, hfit, Nat.sub_self, hf]
  simp only [List.range_zero, List.foldl_nil]
  generalize (List.range n).map (fun k => ((d.fetched r + k) % 65536, wordsLE ((bytes.drop (64 * k)).take 64))) = ws
  obtain ⟨b, hb⟩ : ∃ b, b = a.modRing r fun g => { g with staged := g.staged ++ ws } := ⟨_, rfl⟩
  have hbr : b.ring r = { d.ring r with fetchOut := none, staged := (d.ring r).staged ++ ws } := by
    rw [hb, ring_modRing_same, har]
  rw [← hb]
  exact ⟨congrArg Ring.staged hbr, (fld_setFld b (f := RING_PTR.FETCHED) 0 r _ (by decide)).trans (Nat.mod_mod _ _), congrArg Ring.fetchOut hbr⟩

/-- The first descriptor of a batch that cannot be read ends FETCH_ERROR and stops its ring (R296, R315). -/
theorem fetchDone_fails {d : Dev} {r n fail : Nat} (bytes : List Byte) (ho : (d.ring r).fetchOut = some n) (hf : 0 < fail) (hf' : fail < 32)
    (hst : (d.ring r).staged = []) (hruns : (d.ring r).runs = []) (hq : (d.ring r).cplq = []) (hone : d.ringState r = 1)
    (hroom : d.cplStaged (d.ringDie r) (d.ring r).mover < 64) :
    let e := d.fetchDone r fail bytes
    e.Completes r (d.fetched r) 0x12 ∧ e.ringState r = 2 ∧ e.fld RING_STAT.FETCH_FAULT 0 r = 1 ∧
      e.fld RING_ERR_IDX.INDEX 0 r = d.fetched r ∧ e.fetched r = (d.fetched r + 1) % 65536 := by
  obtain ⟨c, hc⟩ : ∃ c, c = d.fetched r := ⟨_, rfl⟩
  have hclt : c < 65536 := by rw [hc]; exact Nat.mod_lt _ (by decide)
  obtain ⟨a, ha⟩ : ∃ a, a = ((d.modRing r fun g => { g with fetchOut := none }).setFld RING_PTR.FETCHED 0 r ((c + 1) % 65536)).ringEvent
      RING_STAT.FETCH_FAULT r := ⟨_, rfl⟩
  obtain ⟨x, hx⟩ : ∃ x : DescRun, x = { count := c, words := [], phase := .move } := ⟨_, rfl⟩
  obtain ⟨b, hb⟩ : ∃ b, b = (a.modRing r fun g => { g with fetchBad := some (c, fail) }).modRing r fun g => { g with runs := g.runs ++ [x], fetchBad := none } :=
    ⟨_, rfl⟩
  have har : a.ring r = { d.ring r with fetchOut := none } := by
    rw [ha, Dev.ringEvent, ring_status]
    exact ring_modRing_same d r fun g => { g with fetchOut := none }
  have hgo : GoesOn r d a := by
    rw [ha]
    exact ((goesOn_modRing d r _ rfl).trans (goesOn_setFld _ r _ (.inl (by decide)) 0 r)).trans (goesOn_status _ r ⟨by decide, by decide⟩ 0 r _ _ _)
  have hstate : a.ringState r = 1 := by
    rw [← hone, ha, Dev.ringState, Dev.ringEvent, fld_status_apart _ _ _ _ _ _ _ _ (by decide) (by decide),
      fld_setFld_apart _ _ _ _ _ _ (by decide) (by decide)]
    rfl
  have hff : a.fld RING_STAT.FETCH_FAULT 0 r = 1 := by
    rw [ha]
    exact fld_status _ 0 r _ _ _ (f := RING_STAT.FETCH_FAULT) (by decide)
  have hfet : a.fetched r = (c + 1) % 65536 := by
    rw [ha, Dev.fetched, Dev.ringEvent, fld_status_apart _ _ _ _ _ _ _ _ (by decide) (by decide), fld_setFld _ _ _ _ (by decide)]
    exact Nat.mod_mod _ _
  have hbr : b.ring r = { d.ring r with fetchOut := none, runs := [x], fetchBad := none } := by
    rw [hb, ring_modRing_same, ring_modRing_same, har, hruns]
    rfl
  have hgb : GoesOn r d b := by
    rw [hb]
    exact (hgo.trans (goesOn_modRing a r _ rfl)).trans (goesOn_modRing _ r _ rfl)
  have hbf : ∀ f u i, b.fld f u i = a.fld f u i := fun f u i => by rw [hb]; rfl
  obtain ⟨y, hy⟩ : ∃ y : DescRun, y = x.fail { status := 0x12, detail := fail, info := (b.ring r).desc + 64 * (c % (b.ring r).size) } true := ⟨_, rfl⟩
  have he : d.fetchDone r fail bytes = b.endRun r y := by
    have hbad : (a.modRing r fun g => { g with fetchBad := some (c, fail) }).ring r = { d.ring r with fetchOut := none, fetchBad := some (c, fail) } := by
      rw [ring_modRing_same, har]
    have hs : (a.modRing r fun g => { g with fetchBad := some (c, fail) }).ringState r = 1 := hstate
    have hc' : (d.modRing r fun g => { g with fetchOut := none }).fetched r = c := hc.symm
    simp only [Dev.fetchDone, ho, show ¬ fail = 0 by omega, if_false, hc']
    rw [← ha, Dev.endFetch, hbad]
    simp only [hst, List.isEmpty_nil, hs, beq_self_eq_true, Bool.and_self, if_true]
    rw [← hx, ← hb, ← hy]
  have hyc : y.count = c := by rw [hy, hx]; rfl
  have hyo : y.outcome.status = 0x12 ∧ y.outcome.detail = fail ∧ y.outcome.port = 0 ∧ y.aborted = false := by
    rw [hy, hx]
    exact ⟨rfl, rfl, rfl, rfl⟩
  obtain ⟨h1, h2, h3, h4⟩ := hyo
  have hbq : (b.ring r).cplq = [] := by rw [hbr]; exact hq
  obtain ⟨hcompl, -, hat, hkeep, hstop⟩ := endRun_effect (d := b) (r := r) (x := y) (y := x) (by rw [hbr]) (by rw [hyc, hx]) hbq
    (by rw [hgb.ringDie, hgb.mover]; exact Nat.lt_of_le_of_lt (hgb.cplStaged_le _ _ hbq) hroom) (by omega) (by omega) (by omega) (by omega)
  obtain ⟨hstp, hidx⟩ := hstop h1 h4 ((hbf RING_STAT.STATE 0 r).trans hstate)
  dsimp only
  rw [he, ← hc]
  rw [hyc, h1] at hcompl
  exact ⟨hcompl, hstp, hkeep.trans ((hbf _ _ _).trans hff), hidx.trans hyc,
    (fld_of_at (f := RING_PTR.FETCHED) (hat _ (show RegId.RING_PTR ∉ endRegs by decide))).trans ((hbf _ _ _).trans hfet)⟩

/-! What software writes, and the tail timer -/

theorem sends_cplSend (d : Dev) (r : Nat) (ws : List Word) (who : Who) : Sends d (d.cplSend r ws who) :=
  (((sends_fresh _).trans (sends_fresh _)).trans (sends_hostFrom _ _ _)).trans (sends_hostFrom _ _ _)

theorem at_cplPump (d : Dev) (r : Nat) (l : Loc) : (d.cplPump r).at l = d.at l := by
  unfold Dev.cplPump
  dsimp only
  split
  · rfl
  · split
    · rfl
    · exact ((sends_cplSend _ r _ _).at l).trans rfl

theorem swCmd_cplRd {d : Dev} {L : Locks} {src : Src} {r v at_ : Nat} (hr : r < 1024) (hv : v < 65536) (hg : d.lets src ⟨.RING_CPL_PTR, 0, r⟩ = true) :
    ∃ c : Dev, d.swCmd L src ⟨.RING_CPL_PTR, 0, r⟩ (fun c => putBits c RING_CPL_PTR.CPL_RD.hi RING_CPL_PTR.CPL_RD.lo v) at_ = (c.cplPump r).answered src ∧
      c.cplRd r = v ∧ c.cplWr r = d.cplWr r := by
  obtain ⟨k, w, h, hlo, hhi⟩ := swCmd_lowHalf (L := L) (at_ := at_) (.inr rfl) (fits_pkg rfl hr rfl) hv hg
  exact ⟨_, h, hlo, hhi⟩

theorem ringTail_effect {d : Dev} {r : Nat} (ht : (d.ring r).tail ≠ 0) (hu : (d.ring r).unnoticed ≠ 0) :
    ((d.ringTail r).ring r).unnoticed = 0 ∧ ((d.ringTail r).ring r).tail = d.fld RING_NOTE.TAIL (d.ringDie r) r := by
  obtain ⟨hn, -, -⟩ := notice_effect d r
  have he : (d.ringTail r).ring r = (d.notice r).ring r := by
    simp only [Dev.ringTail, beq_eq_false_iff_ne.mpr ht, beq_eq_false_iff_ne.mpr hu, Bool.false_and, Bool.or_self, Bool.false_eq_true, if_false]
    rfl
  rw [he, hn]
  exact ⟨rfl, rfl⟩

theorem ringTail_idle {d : Dev} {r : Nat} (ht : (d.ring r).tail = 0) : d.ringTail r = d := by
  simp only [Dev.ringTail, ht, beq_self_eq_true, Bool.true_or, if_true]

theorem ring_limit {s : State} {src : Src} {r : Nat} {i : Instr} (hi : (∃ b o l e v, i = .doorbell src r b o l e v) ∨ ∃ v, i = .ringCplRdWrite src r v)
    (ht : s.dev.takes i = true) : r < 1024 := by
  rcases hi with ⟨b, o, l, e, v, rfl⟩ | ⟨v, rfl⟩
  · simp_all [Dev.takes, Instr.wf]
  · simp_all [Dev.takes, Instr.wf]

theorem fail_limit {s : State} {r fail : Nat} {bytes : List Byte} (ht : s.dev.takes (.descriptorFetchDone r fail bytes) = true) : fail < 32 := by
  simp_all [Dev.takes, Instr.wf]

/-- Settles O40, one pointer at a time. -/
theorem ringPointers : Obligations.RingPointers := by
  unfold Obligations.RingPointers
  intro s src r v hv
  dsimp only
  refine ⟨fun b hb => ?_, fun off len en hw h => ?_, fun fail bytes => State.does_perform (by dsimp only [exec]; rfl) rfl,
    fun n bytes ho hroom => ?_, fun n fail bytes ho hf hst hruns hq hone hroom ht => ?_, fun hg ht => ?_, fun ht hu hrun => ?_,
    fun ht => State.does_perform (by dsimp only [exec]; rfl) (timed_id _ (ringTail_idle ht))⟩
  · have hbell : ∀ P : Dev → Prop,
        (∀ c g : Dev, RingsKept [] s.dev c → RingsKept [] (c.doorbell r v) g → P g) → s.DoesSome (.doorbell src r b 0 4 15 v) P := fun P h ht => by
      refine State.doesSome_perform (by dsimp only [exec]; rfl) ?_ ht
      obtain ⟨c, hc, hg⟩ := doorbell_rings (L := s.locks) (ring_limit (.inl ⟨b, 0, 4, 15, v, rfl⟩) ht) hv hb
      exact h c _ hc hg
    have hnil : ∀ q : RegId, q ∉ ([] : List RegId) := fun _ => List.not_mem_nil
    refine ⟨fun hon hroom => hbell _ fun c g hc hg => ?_, fun hon hroom => hbell _ fun c g hc hg => ?_, fun hoff => hbell _ fun c g hc hg => ?_⟩
    · obtain ⟨hst, hle⟩ := hroom
      obtain ⟨h1, h2, h3⟩ := doorbell_moves (d := c) (r := r) hv ((hc.doorbells r).trans hon) (by rw [hc.state (hnil _)]; exact hst)
        (by rw [hc.posted (hnil _), hc.ring, Dev.cplWr, hc.fld (hnil _)]; exact hle)
      exact ⟨(hg.posted (hnil _) r).trans h1, (hg.fetched (hnil _) r).trans (h2.trans (hc.fetched (hnil _) r)),
        fun k hk => (hg.regs k (hnil _)).trans ((h3 k hk).trans (hc.regs k (hnil _)))⟩
    · rw [doorbell_bad (d := c) (r := r) (v := v) ((hc.doorbells r).trans hon)
        (by rw [hc.state (hnil _), hc.posted (hnil _), hc.ring, Dev.cplWr, hc.fld (hnil _)]; exact hroom)] at hg
      refine ⟨⟨(hg.posted (hnil _) r).trans ?_, (hg.ring r).trans ((ring_status ..).trans (hc.ring r))⟩, (hg.fld (hnil _) 0 r).trans ?_⟩
      · exact (fld_status_apart _ (f := RING_STAT.DB_BAD) (g := RING_PTR.POSTED) _ _ _ _ _ _ _ (by decide) (by decide)).trans (hc.posted (hnil _) r)
      · exact fld_status _ 0 r _ _ _ (f := RING_STAT.DB_BAD) (by decide)
    · rw [doorbell_closed (d := c) (r := r) (v := v) (by rw [hc.doorbells]; exact hoff)] at hg
      exact ⟨(hg.posted (hnil _) r).trans (hc.posted (hnil _) r), (hg.ring r).trans (hc.ring r)⟩
  · refine State.doesSome_perform (by dsimp only [exec]; rfl) ?_
    have hk := ringsKept_bar2Write (d := s.dev) (src := src) (r := r) (v := v) hw h
    exact ⟨hk.posted (by decide) r, hk.ring r⟩
  · refine State.doesSome_perform (by dsimp only [exec]; rfl) ?_
    have hk : RingsKept [] s.dev _ := (sends_dropReq s.dev (s.dev.ring r).hostDie fun w => w == .ringFetch r).ringsKept
    have := fetchDone_stages (d := s.dev.dropReq (s.dev.ring r).hostDie fun w => w == .ringFetch r) (r := r) bytes (by rw [hk.ring]; exact ho)
      (by rw [hk.ringDie, hk.ring, hk.stagedOf List.not_mem_nil]; exact hroom)
    rw [hk.ring, hk.fetched List.not_mem_nil] at this
    exact this
  · refine State.doesSome_perform (by dsimp only [exec]; rfl) ?_ ht
    have hk : RingsKept [] s.dev _ := (sends_dropReq s.dev (s.dev.ring r).hostDie fun w => w == .ringFetch r).ringsKept
    have := fetchDone_fails (d := s.dev.dropReq (s.dev.ring r).hostDie fun w => w == .ringFetch r) (r := r) bytes (by rw [hk.ring]; exact ho) hf
      (fail_limit ht) (by rw [hk.ring]; exact hst) (by rw [hk.ring]; exact hruns) (by rw [hk.ring]; exact hq) ((hk.state List.not_mem_nil r).trans hone)
      (by rw [hk.ringDie, hk.ring, hk.cplStaged List.not_mem_nil]; exact hroom)
    rw [hk.fetched List.not_mem_nil] at this
    exact this
  · refine State.doesSome_perform (by dsimp only [exec]; rfl) ?_ ht
    obtain ⟨c, hc, hrd, hwr⟩ := swCmd_cplRd (L := s.locks) (at_ := 255) (ring_limit (.inr ⟨v, rfl⟩) ht) hv hg
    rw [hc]
    have hat : ∀ l : Loc, ((c.cplPump r).answered src).at l = c.at l := fun l => (at_answered _ src l).trans (at_cplPump c r l)
    exact ⟨(fld_of_at (f := RING_CPL_PTR.CPL_RD) (hat _)).trans hrd, (fld_of_at (f := RING_CPL_PTR.CPL_WR) (hat _)).trans hwr⟩
  · refine State.doesSome_perform (by dsimp only [exec]; rfl) ?_
    rw [timed_runs hrun]
    exact ringTail_effect ht hu

end Sys2Proof.Machine

/-! ## Descriptors without data: NOP, FENCE, TABLE_SWITCH (R298, R304, R305) -/

namespace Sys2Proof.Machine

/-! The start of a descriptor (R291, R296) -/

/-- Only ring r and the movers' counts differ: the registers but those named, pools, taps and homes are as they were. -/
structure Besides (r : Nat) (rs : List RegId) (d e : Dev) : Prop where
  goes : GoesOn r d e
  regs : ∀ l : Loc, l.reg ∉ rs → e.at l = d.at l

/-- The head of a ring as it starts. -/
def begun (count : Nat) (ws : List Word) : DescRun := { count := count, words := ws, phase := .move }

theorem begin_effect {d : Dev} {r count : Nat} {ws : List Word} {rest : List (Nat × List Word)} (hs : (d.ring r).staged = (count, ws) :: rest)
    (hr : (d.ring r).runs = []) :
    (d.begin_ r count ws .move).ring r = { d.ring r with staged := rest, runs := [begun count ws] } ∧
      Besides r [.MOV_STAT] d (d.begin_ r count ws .move) := by
  obtain ⟨a, ha⟩ : ∃ a, a = d.setMover (d.ringDie r) (d.ring r).mover { d.mover (d.ringDie r) (d.ring r).mover with last := some r } := ⟨_, rfl⟩
  have hga : GoesOn r d a := by
    rw [ha]
    exact ⟨rfl, fun _ _ => rfl, rfl, fun _ => rfl, fun _ _ => Nat.le_refl _⟩
  have har : a.ring r = d.ring r := by rw [ha]; rfl
  obtain ⟨b, hb⟩ : ∃ b, b = a.modRing r fun g => { g with staged := g.staged.drop 1, runs := g.runs ++ [begun count ws] } := ⟨_, rfl⟩
  have hbr : b.ring r = { d.ring r with staged := rest, runs := [begun count ws] } := by
    rw [hb, ring_modRing_same, har, hs, hr]
    rfl
  obtain ⟨v, he⟩ : ∃ v, d.begin_ r count ws .move = (b.setFld MOV_STAT.RING 0 (movIdx (d.ringDie r) (d.ring r).mover) r).setFld MOV_STAT.STARTED 0
      (movIdx (d.ringDie r) (d.ring r).mover) v := ⟨_, by rw [hb, ha]; rfl⟩
  rw [he]
  refine ⟨hbr, ((hga.trans (by rw [hb]; exact goesOn_modRing a r _ rfl)).trans (goesOn_setFld b r r (.inl (by decide)) 0 _)).trans
    (goesOn_setFld _ r _ (.inl (by decide)) 0 _), fun l hl => ?_⟩
  rw [List.mem_singleton] at hl
  have hne : ∀ i, l ≠ ⟨.MOV_STAT, 0, i⟩ := fun i h => hl (congrArg Loc.reg h)
  rw [Dev.at_setFld_ne _ _ _ _ _ (hne _), Dev.at_setFld_ne _ _ _ _ _ (hne _), hb, ha]
  rfl

/-- Completions of a mover that wait leave room where a descriptor may start. -/
theorem cplStaged_of_turn {d : Dev} {r count : Nat} {ws : List Word} {rest : List (Nat × List Word)} (hs : (d.ring r).staged = (count, ws) :: rest)
    (ht : d.turn r = true) : d.cplStaged (d.ringDie r) (d.ring r).mover < 64 := by
  simp only [Dev.turn, Dev.headReady, hs, Dev.canBegin, Bool.and_eq_true, decide_eq_true_eq] at ht
  obtain ⟨⟨⟨⟨⟨-, hw⟩, -⟩, -⟩, -⟩, -⟩ := ht
  refine Nat.lt_of_le_of_lt ?_ hw
  rw [Dev.cplStaged, moverRings_sum d _ _ fun q => ((d.ring q).cplq.filter fun c => c.1.headD 0 != 0x50001500#32).length,
    moverRings_sum d _ _ fun q => (d.ring q).cplq.length]
  refine List.sum_le_sum fun q _ => ?_
  dsimp only
  split
  · exact List.length_filter_le _ _
  · exact Nat.le_refl _

/-- A head that may start is acted on as its opcode says. -/
theorem startOp_heads {d : Dev} {r op count : Nat} {ws : List Word} {rest : List (Nat × List Word)} (h : d.Heads r op count ws rest)
    (f : Dev → DescRun → Dev) :
    ∃ b : Dev, d.startOp r op f = f b (begun count ws) ∧ b.ring r = { d.ring r with staged := rest, runs := [begun count ws] } ∧ Besides r [.MOV_STAT] d b ∧
      b.cplStaged (b.ringDie r) (b.ring r).mover < 64 ∧ b = d.begin_ r count ws .move := by
  obtain ⟨hs, -, hop, hv, ht, hr, hq⟩ := h
  obtain ⟨hbr, hb⟩ := begin_effect hs hr
  refine ⟨d.begin_ r count ws .move, ?_, hbr, hb, ?_, rfl⟩
  · have hrun : (d.begin_ r count ws .move).runOf r count = some (begun count ws) := by
      rw [Dev.runOf, hbr]
      simp [begun]
    simp only [Dev.startOp, hs, hop, hv, ht, Option.isNone_none, and_self, if_true, hrun]
  · rw [hb.goes.ringDie, hb.goes.mover]
    exact Nat.lt_of_le_of_lt (hb.goes.cplStaged_le _ _ (by rw [hbr]; exact hq)) (cplStaged_of_turn hs ht)

theorem startOp_empty {d : Dev} {r op : Nat} (h : (d.ring r).staged = []) (f : Dev → DescRun → Dev) : d.startOp r op f = d := by
  simp only [Dev.startOp, h]

/-- An outcome whose parts fit their fields of a completion. -/
def DErr.fits (e : DErr) : Prop := e.status < 256 ∧ e.detail < 256 ∧ e.port < 65536

theorem fits_status {st : Nat} (info : Nat) (h : st < 256) : DErr.fits { status := st, info := info } :=
  ⟨h, show 0 < 256 by decide, show 0 < 65536 by decide⟩

/-- A descriptor that has just started ends at once (R313). -/
theorem ends_at_once {d b : Dev} {r op count : Nat} {ws : List Word} {rest : List (Nat × List Word)} (h : d.Heads r op count ws rest)
    (hb : b.ring r = { d.ring r with staged := rest, runs := [begun count ws] }) (hroom : b.cplStaged (b.ringDie r) (b.ring r).mover < 64)
    {x : DescRun} (hx : x.count = count) {e : DErr} (ho : x.outcome = e) (hf : e.fits) :
    (b.endRun r x).Completes r count e.status ∧ ((b.endRun r x).ring r).staged = rest := by
  obtain ⟨-, hc, -, -, -, -, hq⟩ := h
  obtain ⟨hs, hd, hp⟩ := hf
  obtain ⟨h1, h2, -⟩ := endRun_effect (d := b) (r := r) (x := x) (y := begun count ws) (by rw [hb]) (by rw [hx]; rfl) (by rw [hb]; exact hq) hroom
    (by omega) (ho ▸ hs) (ho ▸ hd) (ho ▸ hp)
  rw [hx, ho] at h1
  exact ⟨h1, h2.trans (by rw [hb])⟩

/-- The one descriptor of a ring in its new state. -/
theorem ring_putRun {d : Dev} {r : Nat} {y z : DescRun} (hr : (d.ring r).runs = [y]) (hy : y.count = z.count) :
    (d.putRun r z).ring r = { d.ring r with runs := [z] } := by
  rw [Dev.putRun, ring_modRing_same, hr]
  simp [hy]

/-! Fences (R305) -/

/-- A fence sees the rings other than its own, and the counts of all, as before its start. -/
theorem fence_seen {d b : Dev} {r : Nat} (hb : Besides r [.MOV_STAT] d b) (o : Nat) :
    b.ringState o = d.ringState o ∧ b.flag RING_CTL.EN (b.ringDie o) o = d.flag RING_CTL.EN (d.ringDie o) o ∧ b.cplWr o = d.cplWr o := by
  refine ⟨fld_of_at (f := RING_STAT.STATE) (hb.regs _ (show RegId.RING_STAT ∉ _ by decide)), ?_,
    fld_of_at (f := RING_CPL_PTR.CPL_WR) (hb.regs _ (show RegId.RING_CPL_PTR ∉ _ by decide))⟩
  rw [hb.goes.ringDie]
  exact flag_of_at (f := RING_CTL.EN) (hb.regs _ (show RegId.RING_CTL ∉ _ by decide))

/-- A fence that has started (R305): it ends where it awaits nothing, or where its ring has reached the count or is off; else it waits. -/
theorem startFence_effect {d b : Dev} {r count : Nat} {ws : List Word} {rest : List (Nat × List Word)} (h : d.Heads r 6 count ws rest)
    (hb : b.ring r = { d.ring r with staged := rest, runs := [begun count ws] }) (hk : Besides r [.MOV_STAT] d b)
    (hroom : b.cplStaged (b.ringDie r) (b.ring r).mover < 64) :
    let other := wbits ws 2 25 16
    let on : Prop := d.ringState other ≠ 0 ∧ d.flag RING_CTL.EN (d.ringDie other) other = true
    (wbits ws 2 31 31 = 0 ∨ on ∧ (d.cplWr other + 65536 - wbits ws 3 15 0) % 65536 < 32768 → (b.startFence r (begun count ws)).Completes r count 0) ∧
      (wbits ws 2 31 31 = 1 → ¬ on → (b.startFence r (begun count ws)).Completes r count 0x0E) ∧
      (wbits ws 2 31 31 = 1 → on → 32768 ≤ (d.cplWr other + 65536 - wbits ws 3 15 0) % 65536 →
        ∃ x : DescRun, ((b.startFence r (begun count ws)).ring r).runs = [x] ∧ x.phase = .fenceWait ∧ x.count = count ∧ x.words = ws) := by
  obtain ⟨hst, hen, hwr⟩ := fence_seen hk (wbits ws 2 25 16)
  have hends : ∀ {x : DescRun} {e : DErr}, x.count = count → x.outcome = e → e.fits → _ := fun hx ho hf => (ends_at_once h hb hroom hx ho hf).1
  have hmet : b.fenceMet (begun count ws) = (wbits ws 2 31 31 == 0 || decide ((d.cplWr (wbits ws 2 25 16) + 65536 - wbits ws 3 15 0) % 65536 < 32768)) := by
    rw [← hwr]
    rfl
  have hoff : ∀ a c : Dev, (if wbits ws 2 31 31 = 1 ∧ (b.ringState (wbits ws 2 25 16) = 0 ∨ (!b.flag RING_CTL.EN (b.ringDie (wbits ws 2 25 16))
      (wbits ws 2 25 16)) = true) then a else c) = if wbits ws 2 31 31 = 1 ∧ ¬ (d.ringState (wbits ws 2 25 16) ≠ 0 ∧
        d.flag RING_CTL.EN (d.ringDie (wbits ws 2 25 16)) (wbits ws 2 25 16) = true) then a else c := fun a c => by
    refine if_congr (and_congr_right fun _ => ?_) rfl rfl
    rw [hst, hen, Bool.not_eq_true', not_and_or, Bool.not_eq_true, Classical.not_not]
  have hstart : b.startFence r (begun count ws) = if wbits ws 2 31 31 = 1 ∧ ¬ (d.ringState (wbits ws 2 25 16) ≠ 0 ∧
        d.flag RING_CTL.EN (d.ringDie (wbits ws 2 25 16)) (wbits ws 2 25 16) = true) then b.endRun r ((begun count ws).fail { status := 0x0E } true)
      else if b.fenceMet (begun count ws) then b.endRun r (begun count ws) else b.putRun r { begun count ws with phase := .fenceWait } :=
    hoff _ _
  dsimp only
  rw [hstart, hmet]
  refine ⟨fun hc => ?_, fun h1 hoff => ?_, fun h1 hon hle => ?_⟩
  · rw [if_neg (by rcases hc with h0 | ⟨hon, -⟩; exacts [fun h => by omega, fun h => h.2 hon]),
      if_pos (by rcases hc with h0 | ⟨-, hlt⟩ <;> simp_all)]
    exact hends (e := { status := 0 }) rfl rfl (fits_status 0 (by decide))
  · rw [if_pos ⟨h1, hoff⟩]
    exact hends rfl rfl (fits_status 0 (by decide))
  · rw [if_neg fun h => h.2 hon, if_neg (by simp [h1]; omega)]
    refine ⟨{ begun count ws with phase := .fenceWait }, ?_, rfl, rfl, rfl⟩
    exact congrArg Ring.runs (ring_putRun (d := b) (r := r) (y := begun count ws) (z := { begun count ws with phase := .fenceWait }) (by rw [hb]) rfl)

/-- A descriptor that waited ends (R313). -/
theorem waited_ends {d : Dev} {r count : Nat} {x y : DescRun} (hr : (d.ring r).runs = [x]) (hq : (d.ring r).cplq = []) (hcount : x.count = count)
    (hlt : count < 65536) (hroom : d.cplStaged (d.ringDie r) (d.ring r).mover < 64) (hy : y.count = x.count) {e : DErr} (ho : y.outcome = e)
    (hf : e.fits) : (d.endRun r y).Completes r count e.status := by
  obtain ⟨hs, hd, hp⟩ := hf
  have h := (endRun_effect (d := d) (r := r) (x := y) (y := x) hr hy.symm hq hroom (by omega) (ho ▸ hs) (ho ▸ hd) (ho ▸ hp)).1
  rwa [hy, hcount, ho] at h

theorem fenceEnd_eq {d : Dev} {r : Nat} {x : DescRun} (hr : (d.ring r).runs = [x]) (hp : x.phase = .fenceWait) (timeout : Bool) :
    d.fenceEnd r timeout = if d.fenceMet x then d.endRun r x
      else if timeout && word x.words 4 != 0 then d.endRun r (x.fail { status := 0x0D } true) else d := by
  have hf : ((d.ring r).runs.find? fun x => x.phase == .fenceWait) = some x := by
    rw [hr, List.find?_cons_of_pos (by simp [hp])]
  simp only [Dev.fenceEnd, hf]

theorem switchDone_eq {d : Dev} {r : Nat} {x : DescRun} (hr : (d.ring r).runs = [x]) (hp : x.phase = .switchWait) (hn : d.notes = []) :
    d.switchDone r = if d.drained = true then d.endRun r x else d := by
  have hf : ((d.ring r).runs.find? fun x => x.phase == .switchWait) = some x := by
    rw [hr, List.find?_cons_of_pos (by simp [hp])]
  simp only [Dev.switchDone, hf, hn, List.any_nil, Bool.not_false, Bool.and_true]

/-- Settles O41, one descriptor at a time. -/
theorem descriptorsWithoutData : Obligations.DescriptorsWithoutData := by
  unfold Obligations.DescriptorsWithoutData
  intro s r count ws rest
  dsimp only
  have hout : ∀ {x : DescRun}, x.err = none → x.fin = 0 → x.outcome = { status := 0, info := x.info } := fun {x} he hf => by
    rw [DescRun.outcome, he, hf]
    rfl
  refine ⟨⟨State.does_perform (by dsimp only [exec]; rfl) rfl, State.does_perform (by dsimp only [exec]; rfl) rfl,
      fun hr => State.does_perform (by dsimp only [exec]; rfl) (timed_runs hr _)⟩, fun h => ?_, fun h i hi => ?_, fun h => ?_,
    fun x hr hq hp hc hw he hf hlt hroom => ?_, fun h => ?_, fun x hr hq hp hc he hf hlt hn => ?_⟩
  · refine State.doesSome_perform (by dsimp only [exec]; rfl) ?_
    obtain ⟨b, hb, hbr, -, hroom, -⟩ := startOp_heads h fun d x => d.endRun r x
    rw [hb]
    exact ends_at_once h hbr hroom rfl (hout rfl rfl) (fits_status _ (by decide))
  · have hnone : ∀ {i : Instr} {op : Nat} {f : Dev → DescRun → Dev}, exec i s = perform i s (fun _ d => d.startOp r op f) → s.Does i s.dev :=
      fun hx => State.does_perform hx (startOp_empty h _)
    simp only [List.mem_cons, List.not_mem_nil, or_false] at hi
    rcases hi with rfl | rfl | rfl | rfl | rfl | rfl | rfl <;> exact hnone (by dsimp only [exec]; rfl)
  · have hfence : ∀ P : Dev → Prop, (∀ b : Dev, b.ring r = { s.dev.ring r with staged := rest, runs := [begun count ws] } → Besides r [.MOV_STAT] s.dev b →
        b.cplStaged (b.ringDie r) (b.ring r).mover < 64 → P (b.startFence r (begun count ws))) → s.DoesSome (.fence r) P := fun P hP => by
      refine State.doesSome_perform (by dsimp only [exec]; rfl) ?_
      obtain ⟨b, hb, hbr, hk, hroom, -⟩ := startOp_heads h fun d x => d.startFence r x
      rw [hb]
      exact hP b hbr hk hroom
    exact ⟨fun hc => hfence _ fun b hbr hk hroom => (startFence_effect h hbr hk hroom).1 hc,
      fun h1 hoff => hfence _ fun b hbr hk hroom => (startFence_effect h hbr hk hroom).2.1 h1 hoff,
      fun h1 hon hle => hfence _ fun b hbr hk hroom => (startFence_effect h hbr hk hroom).2.2 h1 hon hle⟩
  · have hend : (s.dev.endRun r x).Completes r count 0 := waited_ends hr hq hc hlt hroom rfl (hout he hf) (fits_status _ (by decide))
    refine ⟨fun hm => ⟨State.doesSome_perform (by dsimp only [exec]; rfl) ?_, fun hrun => State.doesSome_perform (by dsimp only [exec]; rfl) ?_⟩,
      fun hm h4 hrun => State.doesSome_perform (by dsimp only [exec]; rfl) ?_, fun hm => State.does_perform (by dsimp only [exec]; rfl) ?_⟩
    · rw [fenceEnd_eq hr hp, hm]
      exact hend
    · rw [timed_runs hrun, fenceEnd_eq hr hp, hm]
      exact hend
    · rw [timed_runs hrun, fenceEnd_eq hr hp, hm, if_neg Bool.false_ne_true, hw, if_pos (by simp [h4])]
      have hfail : x.fail { status := 0x0D } true = { x with err := some { status := 0x0D }, stop := true, todo := [] } := by
        simp [DescRun.fail, he]
      rw [hfail]
      exact waited_ends hr hq hc hlt hroom (y := { x with err := some { status := 0x0D }, stop := true, todo := [] }) rfl
        (e := { status := 0x0D }) rfl (fits_status 0 (by decide))
    · rw [fenceEnd_eq hr hp, hm, if_neg Bool.false_ne_true]
      rfl
  · refine State.doesSome_perform (by dsimp only [exec]; rfl) ?_
    obtain ⟨b, hb, hbr, hk, -, -⟩ := startOp_heads h fun d x => d.startSwitch r x
    rw [hb]
    refine ⟨⟨{ begun count ws with phase := .switchWait }, ?_, rfl⟩, ?_⟩
    · exact congrArg Ring.runs (ring_putRun (d := b) (r := r) (y := begun count ws) (z := { begun count ws with phase := .switchWait }) (by rw [hbr]) rfl)
    · refine List.mem_append_right _ (List.mem_singleton.mpr ?_)
      rw [← hk.goes.ringDie r]
      rfl
  · refine ⟨fun hd hroom => State.doesSome_perform (by dsimp only [exec]; rfl) ?_, fun hd => State.does_perform (by dsimp only [exec]; rfl) ?_⟩
    · rw [switchDone_eq hr hp hn, if_pos hd]
      exact waited_ends hr hq hc hlt hroom rfl (hout he hf) (fits_status _ (by decide))
    · rw [switchDone_eq hr hp hn, hd]
      rfl

end Sys2Proof.Machine

/-! ## Descriptors of data: COPY, FILL, PLAYBACK and RECORD (R299, R300, R307, R340) -/

namespace Sys2Proof.Machine

/-! What a mover sees when it starts a descriptor -/

/-- Only movers, rings, the count of requests and the registers of the mover's status differ. -/
def SameSite (d e : Dev) : Prop :=
  (∃ mv rg regs up id, e = { d with movers := mv, rings := rg, regs := regs, upsets := up, nextId := id }) ∧ ∀ l : Loc, l.reg ≠ .MOV_STAT → e.at l = d.at l

namespace SameSite
variable {d e c : Dev}

theorem refl (d : Dev) : SameSite d d := ⟨⟨_, _, _, _, _, rfl⟩, fun _ _ => rfl⟩

theorem trans (h : SameSite d e) (h' : SameSite e c) : SameSite d c := by
  obtain ⟨⟨_, _, _, _, _, rfl⟩, ha⟩ := h
  obtain ⟨⟨_, _, _, _, _, rfl⟩, ha'⟩ := h'
  exact ⟨⟨_, _, _, _, _, rfl⟩, fun l hl => (ha' l hl).trans (ha l hl)⟩

theorem eq (h : SameSite d e) {α : Type} (P : Dev → α)
    (hP : ∀ (d : Dev) mv rg regs up id, P { d with movers := mv, rings := rg, regs := regs, upsets := up, nextId := id } = P d) : P e = P d := by
  obtain ⟨⟨mv, rg, regs, up, id, rfl⟩, -⟩ := h
  exact hP d mv rg regs up id

theorem fld (h : SameSite d e) {f : Fld} (hf : f.reg ≠ .MOV_STAT) (u i : Nat) : e.fld f u i = d.fld f u i := fld_of_at (h.2 _ hf)

theorem flag (h : SameSite d e) {f : Fld} (hf : f.reg ≠ .MOV_STAT) (u i : Nat) : e.flag f u i = d.flag f u i := flag_of_at (h.2 _ hf)

theorem home (h : SameSite d e) : e.home = d.home := h.eq Dev.home fun _ _ _ _ _ _ => rfl

theorem n (h : SameSite d e) : e.n = d.n := h.eq Dev.n fun _ _ _ _ _ _ => rfl

theorem port (h : SameSite d e) (p : Nat) : e.port p = d.port p := h.eq (Dev.port · p) fun _ _ _ _ _ _ => rfl

theorem mate (h : SameSite d e) (p : Nat) : e.mate p = d.mate p := h.fld (by decide) p 0

theorem mutually (h : SameSite d e) (p : Nat) : e.mutual p = d.mutual p := by
  simp only [Dev.mutual, h.mate, h.flag (f := TIL_BOND.EN) (by decide)]

theorem bonded (h : SameSite d e) (p : Nat) : e.bonded p = d.bonded p := by
  simp only [Dev.bonded, h.mutually, h.fld (f := TIL_BOND.STATE) (by decide)]

theorem listOf (h : SameSite d e) (p : Nat) : e.listOf p = d.listOf p := by simp only [Dev.listOf, h.bonded, h.mate]

theorem portGone (h : SameSite d e) (p : Nat) : e.portGone p = d.portGone p := by
  simp only [Dev.portGone, Dev.lstate, Dev.tileLost, Dev.carried, h.fld (f := BB_LINK_STAT.STATE) (by decide),
    h.fld (f := TIL_SVC_STAT.STATE) (by decide), h.fld (f := TIL_SVC_STAT.CARRIER) (by decide), h.flag (f := TIL_SVC_STAT.CARRYING) (by decide)]

theorem listGone (h : SameSite d e) (p : Nat) : e.listGone p = d.listGone p := by
  simp only [Dev.listGone, Dev.serving, h.listOf, h.bonded, h.mate, h.portGone]

theorem morUp (h : SameSite d e) (x k : Nat) : e.morUp x k = d.morUp x k := by
  simp only [Dev.morUp, h.fld (f := MOR_LINK_STAT.STATE) (by decide)]

theorem follow (h : SameSite d e) : ∀ (x : Nat) (ks : List Nat), e.follow x ks = d.follow x ks
  | _, [] => rfl
  | x, k :: r => by
    have hv : e.variant = d.variant := h.eq Dev.variant fun _ _ _ _ _ _ => rfl
    have hs : ∀ y, e.inService y = d.inService y := fun y => h.eq (Dev.inService · y) fun _ _ _ _ _ _ => rfl
    have ha : e.away = d.away := h.eq Dev.away fun _ _ _ _ _ _ => rfl
    simp only [Dev.follow, hv, h.morUp, hs, ha, h.follow _ r]

theorem shortest (h : SameSite d e) (b : Nat) : ∀ (n : Nat) (front : List (List Nat × Nat)) (seen : List Nat),
    e.shortest b n front seen = d.shortest b n front seen
  | 0, _, _ => rfl
  | n + 1, front, seen => by
    have hv : e.variant = d.variant := h.eq Dev.variant fun _ _ _ _ _ _ => rfl
    have hs : ∀ y, e.inService y = d.inService y := fun y => h.eq (Dev.inService · y) fun _ _ _ _ _ _ => rfl
    have ha : e.away = d.away := h.eq Dev.away fun _ _ _ _ _ _ => rfl
    simp only [Dev.shortest, hv, h.morUp, hs, ha, h.shortest b n]

theorem reach (h : SameSite d e) (a b : Nat) : e.reach a b = d.reach a b := by
  have hv : e.variant = d.variant := h.eq Dev.variant fun _ _ _ _ _ _ => rfl
  have hr : ∀ a b, e.fixedRoute a b = d.fixedRoute a b := fun a b => by simp only [Dev.fixedRoute, hv, Dev.pairLink, h.morUp]
  simp only [Dev.reach, Dev.route, hr, h.follow, h.shortest]

/-- A protection unit answers alike. -/
theorem protCheck (h : SameSite d e) (q : ProtReq) : (e.protCheck q).1 = (d.protCheck q).1 := by
  have hb : ∀ a, e.protByte q a = d.protByte q a := fun a => h.eq (Dev.protByte · q a) fun _ _ _ _ _ _ => rfl
  simp only [Dev.protCheck, hb]
  split <;> rfl

/-- A range that the unit allows leaves the state as it is. -/
theorem allowed (h : SameSite d e) {q : ProtReq} {a : ProtAns} (hd : (d.protCheck q).1 = a) (ha : a.denied = false) : e.protCheck q = (a, e) := by
  have h1 : (e.protCheck q).1 = a := (h.protCheck q).trans hd
  exact Prod.ext h1 (protCheck_allowed (by rw [h1]; exact ha)).2

end SameSite

theorem sameSite_modRing (d : Dev) (r : Nat) (f : Ring → Ring) : SameSite d (d.modRing r f) := ⟨⟨_, _, _, _, _, rfl⟩, fun _ _ => rfl⟩

theorem sameSite_fresh (d : Dev) : SameSite d d.fresh.2 := ⟨⟨_, _, _, _, _, rfl⟩, fun _ _ => rfl⟩

theorem sameSite_begin (d : Dev) (r count : Nat) (ws : List Word) (ph : DPhase) : SameSite d (d.begin_ r count ws ph) := by
  refine ⟨⟨_, _, _, _, _, rfl⟩, fun l hl => ?_⟩
  unfold Dev.begin_
  exact (Dev.at_setFld_ne _ _ _ _ _ (by rintro rfl; exact hl rfl)).trans (Dev.at_setFld_ne _ _ _ _ _ (by rintro rfl; exact hl rfl))

/-! Blocks that stand at no tile -/

/-- No descriptor has a block. -/
def Dev.NoBlks (d : Dev) : Prop := ∀ e ∈ d.rings, ∀ x ∈ e.2.runs, x.blks = []

theorem noBlks_modRing {d : Dev} {r : Nat} {f : Ring → Ring} (h : d.NoBlks) (hf : ∀ x ∈ (f (d.ring r)).runs, x.blks = []) : (d.modRing r f).NoBlks := by
  intro e he
  unfold Dev.modRing Store.set at he
  dsimp only at he
  split at he
  · exact h e (List.mem_of_mem_filter he)
  · rcases Store.mem_insert he with rfl | he
    · exact hf
    · exact h e (List.mem_of_mem_filter he)

theorem foldl_zero {α : Type} {f : Nat → α → Nat} {xs : List α} (h : ∀ x ∈ xs, f 0 x = 0) : xs.foldl f 0 = 0 := by
  induction xs with
  | nil => rfl
  | cons x xs ih =>
    rw [List.foldl_cons, h x List.mem_cons_self]
    exact ih fun y hy => h y (List.mem_cons_of_mem x hy)

theorem staged_none {d : Dev} (h : d.NoBlks) (lp : Nat) (f : Nat → Bool) : d.staged lp f = 0 := by
  refine foldl_zero fun e he => ?_
  split
  · rw [foldl_zero fun x hx => by rw [h e he x hx]; rfl]
  · rfl

theorem blkBytes_none {d : Dev} (h : d.NoBlks) (lp : Nat) : d.blkBytes lp = 0 := by
  refine foldl_zero fun e he => foldl_zero fun x hx => ?_
  split
  · rfl
  · rw [h e he x hx]
    rfl

theorem SameSite.sharedRoom {d e : Dev} (h : SameSite d e) (hd : d.NoBlks) (he : e.NoBlks) (lp direct : Nat) :
    e.sharedRoom lp direct = d.sharedRoom lp direct := by
  have hb : e.bankLoss lp = d.bankLoss lp := h.eq (Dev.bankLoss · lp) fun _ _ _ _ _ _ => rfl
  simp only [Dev.sharedRoom, h.bonded, hb, blkBytes_none hd, blkBytes_none he]

/-! What leaves the rings -/

theorem rings_pushDrop (d : Dev) (x q : Nat) (lost : Fld) (u i : Nat) (w : List Word) : (d.pushDrop x q lost u i w).2.rings = d.rings := by
  unfold Dev.pushDrop
  dsimp only
  split <;> rfl

theorem rings_pfDiscard (d : Dev) (p : Nat) (b : PfBlock) (reason : Nat) : (d.pfDiscard p b reason).rings = d.rings := by
  unfold Dev.pfDiscard
  dsimp only
  generalize ([_, _, _, _, _, _, _, _] : List Word) = w
  split
  · rfl
  · split
    · exact rings_pushDrop d (dieOf p) 61 TC_PFD_STAT.LOST (dieOf p) 0 w
    · exact rings_pushDrop d (dieOf p) 61 TC_PFD_STAT.LOST (dieOf p) 0 w

theorem rings_pfTrim : ∀ (k : Nat) (d : Dev) (p : Nat), (Dev.pfTrim k d p).rings = d.rings
  | 0, _, _ => rfl
  | k + 1, d, p => by
    unfold Dev.pfTrim
    dsimp only
    generalize (if d.bonded p then 2 else 1) = two
    split
    · cases takeFirst (fun b => b.want == 0) (d.port p).pf with
      | mk b r =>
        cases b with
        | none => rfl
        | some b => exact (rings_pfTrim k _ p).trans (rings_pfDiscard (d.modPort p fun o => { o with pf := r }) p b 3)
    · rfl

theorem Sends.rings {d e : Dev} (h : Sends d e) : e.rings = d.rings := h.eq Dev.rings fun _ _ _ _ _ _ => rfl

theorem rings_foldl {α : Type} {f : Dev → α → Dev} (hf : ∀ d a, (f d a).rings = d.rings) : ∀ (xs : List α) (d : Dev), (xs.foldl f d).rings = d.rings
  | [], _ => rfl
  | x :: xs, d => (rings_foldl hf xs (f d x)).trans (hf d x)

theorem rings_chainPut (d : Dev) (lp id : Nat) : (d.chainPut lp id).rings = d.rings := by
  unfold Dev.chainPut
  split
  · exact rings_foldl (f := fun d t => d.note (.qpush (dieOf t) (t % 8) [chainItem id])) (fun _ _ => rfl) _ d
  · rfl

/-- Work that its tile takes leaves the rings. -/
theorem rings_enlist {d : Dev} {w : Work} (h : d.listGone w.port = false) : (d.enlist w).rings = d.rings := by
  simp only [Dev.enlist, h, Bool.false_eq_true, if_false]
  split
  · simp only [Dev.comes]
    refine (rings_pfTrim _ _ _).trans ((rings_chainPut ..).trans ?_)
    cases w.job.accs.head?.map (·.die) with
    | none => rfl
    | some x => exact (sends_cross _ _ _ _).rings
  · rfl

theorem ring_of_rings {d e : Dev} (h : e.rings = d.rings) (r : Nat) : e.ring r = d.ring r := by rw [Dev.ring, h]; rfl

/-! A block starts whole (R307) -/

theorem meetRanges_whole {len : Nat} (h : 0 < len) : meetRanges [(0, len)] [(0, len)] = [(0, len)] := by
  simp [meetRanges, joinRanges, h]

/-- A range of host memory that the mover's unit allows whole. -/
theorem hostAllowed_whole {d s : Dev} (hs : SameSite d s) {r len acc : Nat} {m : HostMap} (hrow : m.row = 0) (hlen : 0 < len)
    (hdie : s.ringDie r = d.ringDie r) (hctl : (s.ring r).ctl = (d.ring r).ctl)
    (h : (d.moverProt (d.ringDie r) (d.ring r).mover (d.ring r).priv m.base len acc).1 = ⟨[(0, len)], false, false⟩) :
    s.hostAllowed r m 0 len acc = ([(0, len)], none, s) := by
  have hm : (s.ring r).mover = (d.ring r).mover := by rw [Ring.mover, hctl]; rfl
  have hp : (s.ring r).priv = (d.ring r).priv := by rw [Ring.priv, hctl]; rfl
  have hseg : m.segs (len + 1) 0 len = [(0, m.base, len)] := by
    simp [HostMap.segs, hrow, show ¬ len = 0 by omega]
  have ha : s.moverProt (d.ringDie r) (d.ring r).mover (d.ring r).priv m.base len acc = (⟨[(0, len)], false, false⟩, s) := hs.allowed h rfl
  simp only [Dev.hostAllowed, hseg, List.foldl_cons, List.foldl_nil, hdie, hm, hp, ha]
  simp

end Sys2Proof.Machine

/-! ## A block starts (R307) -/

namespace Sys2Proof.Machine

theorem runs_putRun {d : Dev} {r : Nat} {y z : DescRun} (hr : (d.ring r).runs = [y]) (hy : y.count = z.count) :
    ((d.putRun r z).ring r).runs = [z] := by rw [ring_putRun hr hy]

/-- A descriptor of ring r moves its one block of `len` bytes, all of them allowed. -/
def Dev.Moving (e : Dev) (r : Nat) (k : XferKind) (len p a : Nat) : Prop :=
  ∃ (x : DescRun) (b : Blk), (e.ring r).runs = [x] ∧ x.phase = .move ∧ x.kind = k ∧ x.blks = [b] ∧ x.todo = [] ∧ b.off = 0 ∧ b.len = len ∧
    b.parts = [(0, len)] ∧ b.port = p ∧ b.addr = a

/-- A descriptor whose block starts: it moves, has nothing else to move, and the block covers all its bytes. -/
structure OneBlk (x : DescRun) (b : Blk) (len : Nat) : Prop where
  phase : x.phase = .move
  todo : x.todo = []
  off : b.off = 0
  len_ : b.len = len
  parts : b.parts = [(0, len)]

theorem Dev.Moving.of_rings {d e : Dev} {r : Nat} {k : XferKind} {len p a : Nat} (h : d.Moving r k len p a) (he : e.rings = d.rings) :
    e.Moving r k len p a := by
  obtain ⟨x, b, hx, h⟩ := h
  exact ⟨x, b, by rw [ring_of_rings he, hx], h⟩

/-- The block put into the descriptor of its ring. -/
theorem moving_putRun {d : Dev} {r len : Nat} {x y : DescRun} {b : Blk} (hr : (d.ring r).runs = [y]) (hy : y.count = x.count) (hx : x.blks = [b])
    (h : OneBlk x b len) : (d.putRun r x).Moving r x.kind len b.port b.addr :=
  ⟨x, b, congrArg Ring.runs (ring_putRun hr hy), h.phase, rfl, hx, h.todo, h.off, h.len_, h.parts, rfl, rfl⟩

/-- The block as its piece numbers name it is put in the place of that of the same number. -/
theorem blks_map {b c : Blk} (h : c.num = b.num) : ([c].map fun c => if c.num == b.num then b else c) = [b] := by simp [h]

theorem sameSite_putRun (d : Dev) (r : Nat) (x : DescRun) : SameSite d (d.putRun r x) := sameSite_modRing d r _

/-- A block handed to a tile that its list serves. -/
theorem blkToTile_moving {d : Dev} {r len : Nat} {x y : DescRun} {b : Blk} (hr : (d.ring r).runs = [y]) (hy : y.count = x.count) {c : Blk}
    (hx : x.blks = [c]) (hc : c.num = b.num) (h : OneBlk x b len) {k : XferKind} {port addr : Nat} (hk : x.kind = k)
    (hpo : b.port = port) (ha : b.addr = addr) (hg : d.listGone port = false) : (d.blkToTile r x b).Moving r k len port addr := by
  subst hk hpo ha
  unfold Dev.blkToTile
  dsimp only
  refine Dev.Moving.of_rings ?_ (rings_enlist ((((sameSite_fresh d).trans (sameSite_putRun _ r _)).listGone _).trans hg))
  exact moving_putRun (d := d.fresh.2) (y := y) (x := { x with blks := x.blks.map fun c => if c.num == b.num then { b with atTile := true, got := [] } else c })
    (b := { b with atTile := true, got := [] }) hr hy (by rw [hx]; exact blks_map (b := { b with atTile := true, got := [] }) hc)
    ⟨h.phase, h.todo, h.off, h.len_, h.parts⟩

/-- Host requests of a block leave the rings. -/
theorem rings_pieces {α : Type} {f : Dev → α → Dev} (hf : ∀ d a, Sends d (f d a)) (xs : List α) (d : Dev) : (xs.foldl f d).rings = d.rings :=
  rings_foldl (fun d a => (hf d a).rings) xs d

/-- A block written to host memory. -/
theorem blkToHost_moving {d : Dev} {r len : Nat} {x y : DescRun} {b : Blk} (hr : (d.ring r).runs = [y]) (hy : y.count = x.count) {c : Blk}
    (hx : x.blks = [c]) (hc : c.num = b.num) (h : OneBlk x b len) {k : XferKind} {port addr : Nat} (hk : x.kind = k)
    (hpo : b.port = port) (ha : b.addr = addr) (bytes : List Byte) : (d.blkToHost r x b bytes).Moving r k len port addr := by
  subst hk hpo ha
  unfold Dev.blkToHost
  dsimp only
  refine Dev.Moving.of_rings ?_ (rings_pieces (fun d _ => (sends_fresh d).trans (sends_hostFrom _ _ _)) _ _)
  generalize (indexed _).map _ = ws
  exact moving_putRun (d := d) (y := y)
    (x := { x with blks := x.blks.map fun c => if c.num == b.num then { b with writes := ws, atTile := false, got := [] } else c })
    (b := { b with writes := ws, atTile := false, got := [] }) hr hy (by rw [hx]; exact blks_map (b := { b with writes := ws, atTile := false, got := [] }) hc)
    ⟨h.phase, h.todo, h.off, h.len_, h.parts⟩

/-- What a unit answers for a range that it allows whole. -/
def wholeAns (len : Nat) : ProtAns := ⟨[(0, len)], false, false⟩

/-- The block of all the bytes of a descriptor. -/
def Dev.oneBlk (d : Dev) (r : Nat) (x : DescRun) (len port addr : Nat) : Blk :=
  { num := x.nextBlk, off := 0, len := len, port := port, addr := addr, parts := [(0, len)], src := [(0, len)], epoch := d.epoch (d.ringDie r) }

/-- A descriptor with the one block that it moves. -/
def DescRun.moves (x : DescRun) (k : XferKind) (b : Blk) : DescRun := { x with kind := k, todo := [], nextBlk := x.nextBlk + 1, blks := [b] }

section
variable {d : Dev} {r len port addr : Nat} {x : DescRun} (hr : (d.ring r).runs = [x]) (hp : x.phase = .move) (hb : x.blks = []) (hlen : 0 < len)

/-- The mover's unit allows the Body Bus range of the block. -/
def Dev.bbWhole (d : Dev) (r : Nat) (x : DescRun) (len port addr acc : Nat) : Prop :=
  d.moverBbProt (d.ringDie r) (d.ring r).mover (d.ring r).priv addr len x.bb.space port acc = (wholeAns len, d)

/-- The mover's unit allows the host range of the block. -/
def Dev.hostWhole (d : Dev) (r : Nat) (x : DescRun) (len acc : Nat) : Prop := d.hostAllowed r x.host 0 len acc = ([(0, len)], none, d)

include hr hp hb hlen

/-- A block of a COPY to the Body Bus is read from host memory. -/
theorem startBlk_toBb (hk : x.kind = .toBb) (hbb : d.bbWhole r x len port addr 1) (hhost : d.hostWhole r x len 0) :
    (d.startBlk r x 0 len port addr []).Moving r .toBb len port addr := by
  unfold Dev.bbWhole at hbb
  unfold Dev.hostWhole at hhost
  have hne : (([(0, len)] : List (Nat × Nat)).isEmpty) = false := rfl
  simp only [Dev.startBlk, hk, show ¬ XferKind.toBb = .fillHost by decide, show ¬ XferKind.toBb = .fillBb by decide,
    show (XferKind.toBb == XferKind.toBb) = true by decide, Bool.true_or, if_true, if_false, hbb, hhost, wholeAns,
    meetRanges_whole hlen, hne, Bool.false_and, Bool.or_false, Bool.false_eq_true, hb, List.nil_append, List.map_cons, List.map_nil,
    beq_self_eq_true]
  refine Dev.Moving.of_rings ?_ (rings_pieces (fun d _ => (sends_fresh d).trans (sends_hostFrom _ _ _)) _ _)
  refine ⟨_, _, runs_putRun (runs_putRun hr rfl) rfl, hp, rfl, rfl, ?_⟩
  exact ⟨rfl, rfl, rfl, rfl, rfl, rfl⟩

/-- A block of a COPY to host memory is read by its tile. -/
theorem startBlk_toHost (hk : x.kind = .toHost) (hbb : d.bbWhole r x len port addr 0) (hhost : d.hostWhole r x len 1)
    (hg : d.listGone port = false) : (d.startBlk r x 0 len port addr []).Moving r .toHost len port addr := by
  unfold Dev.bbWhole at hbb
  unfold Dev.hostWhole at hhost
  have hne : (([(0, len)] : List (Nat × Nat)).isEmpty) = false := rfl
  simp only [Dev.startBlk, hk, show ¬ XferKind.toHost = .fillHost by decide, show ¬ XferKind.toHost = .fillBb by decide,
    show (XferKind.toHost == XferKind.toBb) = false by decide, show (XferKind.toHost == XferKind.fillBb) = false by decide, Bool.or_false,
    if_false, hbb, hhost, wholeAns, meetRanges_whole hlen, hne, Bool.false_and, Bool.false_eq_true, hb, List.nil_append]
  exact blkToTile_moving (b := d.oneBlk r x len port addr)
    (runs_putRun (z := x.moves .toHost (d.oneBlk r x len port addr)) hr rfl) rfl rfl rfl ⟨hp, rfl, rfl, rfl, rfl⟩ rfl rfl rfl
    (((sameSite_putRun d r _).listGone port).trans hg)

/-- A block of a FILL of the Body Bus is written by its tile. -/
theorem startBlk_fillBb (hk : x.kind = .fillBb) (hbb : d.bbWhole r x len port addr 1) (hg : d.listGone port = false) :
    (d.startBlk r x 0 len port addr []).Moving r .fillBb len port addr := by
  unfold Dev.bbWhole at hbb
  have hne : (([(0, len)] : List (Nat × Nat)).isEmpty) = false := rfl
  simp only [Dev.startBlk, hk, show ¬ XferKind.fillBb = .fillHost by decide, show (XferKind.fillBb == XferKind.fillBb) = true by decide,
    Bool.or_true, Bool.true_or, if_true, if_false, hbb, wholeAns, meetRanges_whole hlen, hne, Bool.false_and, Bool.or_false,
    Bool.false_eq_true, hb, List.nil_append]
  generalize patBytes x.pat (x.bb.base + 0) len = bs
  exact blkToTile_moving (b := { d.oneBlk r x len port addr with got := [(0, bs)] })
    (runs_putRun (z := x.moves .fillBb (d.oneBlk r x len port addr)) hr rfl) rfl rfl rfl ⟨hp, rfl, rfl, rfl, rfl⟩ rfl rfl rfl
    (((sameSite_putRun d r _).listGone port).trans hg)

/-- A block of a FILL of host memory is written there. -/
theorem startBlk_fillHost (hk : x.kind = .fillHost) (hhost : d.hostWhole r x len 1) :
    (d.startBlk r x 0 len port addr []).Moving r .fillHost len port addr := by
  unfold Dev.hostWhole at hhost
  have hne : (([(0, len)] : List (Nat × Nat)).isEmpty) = false := rfl
  simp only [Dev.startBlk, hk, show ¬ XferKind.fillHost = .fillBb by decide, show (XferKind.fillHost == XferKind.toBb) = false by decide,
    show (XferKind.fillHost == XferKind.fillBb) = false by decide, Bool.or_false, if_true, if_false, hhost,
    meetRanges_whole hlen, hne, Bool.false_and, Bool.false_eq_true, hb, List.nil_append]
  generalize List.flatMap _ _ = bs
  exact blkToHost_moving (b := d.oneBlk r x len port addr)
    (runs_putRun (z := x.moves .fillHost (d.oneBlk r x len port addr)) hr rfl) rfl rfl rfl ⟨hp, rfl, rfl, rfl, rfl⟩ rfl rfl rfl bs

end

end Sys2Proof.Machine

/-! ## COPY and FILL (R299, R307, R314) -/

namespace Sys2Proof.Machine

/-! A descriptor goes on -/

/-- A descriptor whose one block moves has nothing to start. -/
theorem pumpRun_moving {d : Dev} {r len p a : Nat} {kd : XferKind} (h : d.Moving r kd len p a) : ∀ k count : Nat, d.pumpRun k r count = d
  | 0, _ => rfl
  | k + 1, count => by
    obtain ⟨x, b, hr, hp, -, hb, ht, -⟩ := h
    unfold Dev.pumpRun
    by_cases hc : x.count = count
    · simp [Dev.runOf, hr, hc, hp, ht, hb]
    · simp [Dev.runOf, hr, hc]

section
variable {d : Dev} {r len : Nat} {x : DescRun} (hr : (d.ring r).runs = [x]) (hp : x.phase = .move)

theorem runOf_one : (d.ring r).runs = [x] → d.runOf r x.count = some x := fun hr => by simp [Dev.runOf, hr]

include hr hp

/-- All of a range of host memory starts as one block. -/
theorem goRun_fillHost (hb : x.blks = []) (ht : x.todo = [(0, len)]) (hk : x.kind = .fillHost) (hlen : 0 < len) (hle : len ≤ 65536) (hhost : d.hostWhole r x len 1) :
    (d.goRun r x.count).Moving r .fillHost len 0 0 := by
  have hm := startBlk_fillHost (port := 0) (addr := 0) hr hp hb hlen hk hhost
  have hf : pumpFuel x = (3 + len / 65536 + 3) + 1 := by simp [pumpFuel, ht]; omega
  rw [Dev.goRun, runOf_one hr]
  dsimp only
  rw [hf, Dev.pumpRun, runOf_one hr]
  simp only [hp, ht, hk, hb, ne_eq, not_true_eq_false, if_false, if_true, List.length_nil, Nat.min_eq_left hle, Nat.lt_irrefl]
  rwa [pumpRun_moving hm]

/-- All of a range of the Body Bus starts as one block where its tile has room for it and mortar leads there. -/
theorem goRun_bb (ht : x.todo = [(0, len)]) (hk : x.kind ≠ .fillHost) (hord : x.bb.order = 0) (hst : x.bb.stripe = none) (hlen : 0 < len)
    (hle : x.bb.base % 65536 + len ≤ 65536) (hno : d.NoBlks)
    (hroom : len ≤ d.sharedRoom (d.listOf x.bb.port) (d.port (d.listOf x.bb.port)).staged.2)
    (hreach : d.reach (d.ringDie r) (dieOf (d.listOf x.bb.port)) = true)
    (hm : (d.startBlk r x 0 len x.bb.port x.bb.base []).Moving r x.kind len x.bb.port x.bb.base) :
    (d.goRun r x.count).Moving r x.kind len x.bb.port x.bb.base := by
  have hf : pumpFuel x = (3 + len / 65536 + 3) + 1 := by simp [pumpFuel, ht]; omega
  have hfar : farOf x.bb.order x.bb.base 0 len = x.bb.base := by
    rw [farOf, hord, unitOf, if_neg (by omega), Nat.add_zero]
  have hplace : x.bb.place x.bb.base = (x.bb.port, x.bb.base) := by rw [BbMap.place, hst]
  have htrim := hm.of_rings (rings_pfTrim 64 _ (d.listOf x.bb.port))
  rw [Dev.goRun, runOf_one hr]
  dsimp only
  rw [hf, Dev.pumpRun, runOf_one hr]
  simp only [hp, ht, hk, ne_eq, not_true_eq_false, if_false, Nat.add_zero, Nat.min_eq_left (show len ≤ 65536 - x.bb.base % 65536 by omega), hfar, hplace,
    Nat.lt_irrefl, staged_none hno, hreach, Bool.not_true, Bool.or_false, Int.not_lt.mpr hroom, decide_false]
  rw [if_neg, pumpRun_moving htrim]
  · exact htrim
  · generalize d.fld MOV_CTL.PER_PORT _ _ = v
    split <;> simp

/-- A descriptor with nothing to move ends. -/
theorem goRun_nothing (hb : x.blks = []) (ht : x.todo = []) (htap : x.tap = none) (hop : descOp x.words ≠ 2) : d.goRun r x.count = d.endRun r x := by
  have hf : pumpFuel x = 3 + 1 := by simp [pumpFuel, ht]
  have hmv : d.moved r x = d.endRun r x := by simp [Dev.moved, htap, Dev.afterMove, hop]
  rw [Dev.goRun, runOf_one hr]
  dsimp only
  rw [hf, Dev.pumpRun, runOf_one hr]
  simp only [hp, ht, hb, ne_eq, not_true_eq_false, if_false, List.isEmpty_nil, if_true, hmv]

end

/-! The start of a transfer -/

/-- The one part of a transfer of `len` bytes. -/
def wholePart (len : Nat) : List (Nat × Nat) := if len = 0 then [] else [(0, len)]

theorem xferParts_zero (base len : Nat) : xferParts 0 base len = wholePart len := by
  unfold xferParts wholePart unitOf
  by_cases h : len = 0 <;> simp [h, Nat.mod_one]

/-- A descriptor that starts its transfer. -/
def xferRun (count : Nat) (ws : List Word) (k : XferKind) (bb : BbMap) : DescRun :=
  { begun count ws with kind := k, bb := bb, host := { base := quad ws 4 }, pat := quad ws 6, todo := wholePart (word ws 3) }

/-- The port named by a transfer without a stripe, and its first address there. -/
def onePort (ws : List Word) (base : Nat) : BbMap := { port := wbits ws 2 7 0, base := base, space := wbits ws 2 29 28 }

/-- The outcome of a transfer to a port that is not there. -/
def badTarget (count : Nat) (ws : List Word) : DescRun := (begun count ws).fail { status := 0x0E } true

theorem startXfer_copy (b : Dev) (r count : Nat) {ws : List Word} (hop : descOp ws = 1) (h30 : wbits ws 2 30 30 = 0) (hord : wbits ws 2 27 26 = 0) :
    b.startXfer r (begun count ws) = if 8 * b.n ≤ wbits ws 2 7 0 then b.endRun r (badTarget count ws)
      else (b.putRun r (xferRun count ws (if wbits ws 2 31 31 = 1 then .toHost else .toBb) (onePort ws (quad ws 6)))).goRun r count := by
  unfold Dev.startXfer
  by_cases h31 : wbits ws 2 31 31 = 1 <;> by_cases hp : 8 * b.n ≤ wbits ws 2 7 0 <;>
    simp [begun, hop, h30, hord, h31, hp, xferParts_zero, xferRun, onePort, badTarget]

theorem startXfer_fillBb (b : Dev) (r count : Nat) {ws : List Word} (hop : descOp ws = 4) (h31 : wbits ws 2 31 31 = 1) (h30 : wbits ws 2 30 30 = 0) :
    b.startXfer r (begun count ws) = if 8 * b.n ≤ wbits ws 2 7 0 then b.endRun r (badTarget count ws)
      else (b.putRun r (xferRun count ws .fillBb (onePort ws (quad ws 4)))).goRun r count := by
  unfold Dev.startXfer
  by_cases hp : 8 * b.n ≤ wbits ws 2 7 0 <;> simp [begun, hop, h30, h31, hp, xferParts_zero, xferRun, onePort, badTarget]

theorem startXfer_fillHost (b : Dev) (r count : Nat) {ws : List Word} (hop : descOp ws = 4) (h31 : wbits ws 2 31 31 = 0) :
    b.startXfer r (begun count ws) = (b.putRun r (xferRun count ws .fillHost {})).goRun r count := by
  unfold Dev.startXfer
  simp [begun, hop, h31, xferRun, wholePart]
  rfl

/-- A state in which a descriptor of ring r has started, and what its mover sees. -/
structure Started (r count : Nat) (ws : List Word) (rest : List (Nat × List Word)) (d b : Dev) : Prop where
  ring : b.ring r = { d.ring r with staged := rest, runs := [begun count ws] }
  site : SameSite d b
  before : d.NoBlks
  blks : b.NoBlks
  cplq : (d.ring r).cplq = []
  count : count < 65536
  room : b.cplStaged (b.ringDie r) (b.ring r).mover < 64

/-- A descriptor at the head of its ring starts where no descriptor runs. -/
theorem heads_started {d : Dev} {r op count : Nat} {ws : List Word} {rest : List (Nat × List Word)} (h : d.Heads r op count ws rest)
    (hruns : ∀ e ∈ d.rings, e.2.runs = []) (f : Dev → DescRun → Dev) :
    ∃ b, d.startOp r op f = f b (begun count ws) ∧ Started r count ws rest d b := by
  obtain ⟨b, hf, hbr, -, hroom, rfl⟩ := startOp_heads h f
  obtain ⟨-, hc, -, -, -, hr, hq⟩ := h
  have hno : d.NoBlks := fun e he x hx => by rw [hruns e he] at hx; cases hx
  refine ⟨_, hf, hbr, sameSite_begin d r count ws .move, hno, ?_, hq, hc, hroom⟩
  refine noBlks_modRing (d := d.setMover (d.ringDie r) (d.ring r).mover { d.mover (d.ringDie r) (d.ring r).mover with last := some r }) (r := r)
    (f := fun g => { g with staged := g.staged.drop 1, runs := g.runs ++ [begun count ws] }) hno fun x hx => ?_
  have hx : x ∈ (d.ring r).runs ++ [begun count ws] := hx
  rw [hr, List.nil_append, List.mem_singleton] at hx
  rw [hx]
  rfl

namespace Started
variable {r count : Nat} {ws : List Word} {rest : List (Nat × List Word)} {d b : Dev} (h : Started r count ws rest d b)
include h

theorem runs : (b.ring r).runs = [begun count ws] := by rw [h.ring]

theorem ringDie : b.ringDie r = d.ringDie r := by rw [Dev.ringDie, h.site.home, h.ring]; rfl

/-- It ends at once with an outcome (R313). -/
theorem ends {x : DescRun} (hx : x.count = count) {e : DErr} (ho : x.outcome = e) (hf : e.fits) : (b.endRun r x).Completes r count e.status := by
  obtain ⟨hs, hd, hp⟩ := hf
  have h := (endRun_effect (d := b) (r := r) (x := x) h.runs (by rw [hx]; rfl) (by rw [h.ring]; exact h.cplq) h.room (by rw [hx]; exact h.count)
    (ho ▸ hs) (ho ▸ hd) (ho ▸ hp)).1
  rwa [hx, ho] at h

/-- It stands in its ring in another state, with no block. -/
theorem put {x : DescRun} (hx : x.count = count) (hb : x.blks = []) :
    let c := b.putRun r x
    c.ring r = { d.ring r with staged := rest, runs := [x] } ∧ SameSite d c ∧ c.NoBlks ∧ c.ringDie r = d.ringDie r ∧
      c.cplStaged (c.ringDie r) (c.ring r).mover < 64 := by
  have hr : (b.putRun r x).ring r = { d.ring r with staged := rest, runs := [x] } := by rw [ring_putRun h.runs (by rw [hx]; rfl), h.ring]
  have hg : GoesOn r b (b.putRun r x) := goesOn_modRing b r _ rfl
  refine ⟨hr, h.site.trans (sameSite_putRun b r x), ?_, (hg.ringDie r).trans h.ringDie, ?_⟩
  · refine noBlks_modRing h.blks fun y hy => ?_
    have hy : y ∈ ((b.putRun r x).ring r).runs := by rw [Dev.putRun, ring_modRing_same]; exact hy
    rw [hr, List.mem_singleton] at hy
    rw [hy, hb]
  · rw [hg.ringDie, hg.mover]
    exact Nat.lt_of_le_of_lt (hg.cplStaged_le _ _ (by rw [hr]; exact h.cplq)) h.room

end Started

/-! One block of a descriptor (R299, R307) -/

/-- The mover's unit allows the host range of a descriptor, or the Body Bus range, whole. -/
def Dev.hostFull (d : Dev) (r : Nat) (ws : List Word) (acc : Nat) : Prop :=
  (d.moverProt (d.ringDie r) (d.ring r).mover (d.ring r).priv (quad ws 4) (word ws 3) acc).1 = wholeAns (word ws 3)

@[inherit_doc Dev.hostFull] def Dev.bbFull (d : Dev) (r : Nat) (ws : List Word) (a acc : Nat) : Prop :=
  (d.moverBbProt (d.ringDie r) (d.ring r).mover (d.ring r).priv a (word ws 3) (wbits ws 2 29 28) (wbits ws 2 7 0) acc).1 = wholeAns (word ws 3)

/-- The port of a descriptor has room for its one block, and mortar leads there. -/
def Dev.portTakes (d : Dev) (r : Nat) (ws : List Word) (a : Nat) : Prop :=
  let lp := d.listOf (wbits ws 2 7 0)
  wbits ws 2 7 0 < 8 * d.n ∧ 0 < word ws 3 ∧ a % 65536 + word ws 3 ≤ 65536 ∧ word ws 3 ≤ d.sharedRoom lp (d.port lp).staged.2 ∧
    d.reach (d.ringDie r) (dieOf lp) = true

namespace Started
variable {r count : Nat} {ws : List Word} {rest : List (Nat × List Word)} {d b : Dev} (h : Started r count ws rest d b)
include h

/-- What the units answer for the range of a block, once its descriptor has started. -/
theorem checks {x : DescRun} (hx : x.count = count) (hb : x.blks = []) :
    (∀ acc, x.host.row = 0 → x.host.base = quad ws 4 → 0 < word ws 3 → d.hostFull r ws acc → (b.putRun r x).hostWhole r x (word ws 3) acc) ∧
      ∀ a acc, x.bb.space = wbits ws 2 29 28 → d.bbFull r ws a acc → (b.putRun r x).bbWhole r x (word ws 3) (wbits ws 2 7 0) a acc := by
  obtain ⟨hr, hsite, -, hdie, -⟩ := h.put hx hb
  have hctl : ((b.putRun r x).ring r).ctl = (d.ring r).ctl := by rw [hr]
  refine ⟨fun acc hrow hbase hlen hf => hostAllowed_whole hsite hrow hlen hdie hctl (by rw [hbase]; exact hf), fun a acc hsp hf => ?_⟩
  rw [Dev.bbWhole, hdie, hsp, Ring.mover, Ring.priv, hctl]
  exact hsite.allowed hf rfl

/-- A transfer between host memory and one port starts its block. -/
theorem bb_moves {a : Nat} {k : XferKind} (hk : k ≠ .fillHost) (hroom : d.portTakes r ws a)
    (hm : ∀ c : Dev, (c.ring r).runs = [xferRun count ws k (onePort ws a)] → SameSite d c →
      c = b.putRun r (xferRun count ws k (onePort ws a)) →
      (c.startBlk r (xferRun count ws k (onePort ws a)) 0 (word ws 3) (wbits ws 2 7 0) a []).Moving r k (word ws 3) (wbits ws 2 7 0) a) :
    ((b.putRun r (xferRun count ws k (onePort ws a))).goRun r count).Moving r k (word ws 3) (wbits ws 2 7 0) a := by
  obtain ⟨hport, hlen, hfit, hrm, hreach⟩ := hroom
  obtain ⟨hr, hsite, hno, hdie, -⟩ := h.put (x := xferRun count ws k (onePort ws a)) rfl rfl
  have hl : (b.putRun r (xferRun count ws k (onePort ws a))).listOf (wbits ws 2 7 0) = d.listOf (wbits ws 2 7 0) := hsite.listOf _
  refine goRun_bb (x := xferRun count ws k (onePort ws a)) (by rw [hr]) rfl (by rw [xferRun, wholePart, if_neg (by omega)]) hk rfl rfl hlen hfit hno ?_ ?_
    (hm _ (by rw [hr]) hsite rfl)
  · rw [show (xferRun count ws k (onePort ws a)).bb.port = wbits ws 2 7 0 from rfl, hl, hsite.port, hsite.sharedRoom h.before hno]
    exact hrm
  · rw [show (xferRun count ws k (onePort ws a)).bb.port = wbits ws 2 7 0 from rfl, hdie, hl, hsite.reach]
    exact hreach

/-- A transfer of no bytes completes OK (R314). -/
theorem nothing_completes {k : XferKind} {bb : BbMap} (hop : descOp ws ≠ 2) (hlen : word ws 3 = 0) :
    ((b.putRun r (xferRun count ws k bb)).goRun r count).Completes r count 0 := by
  obtain ⟨hr, -, -, -, hroom⟩ := h.put (x := xferRun count ws k bb) rfl rfl
  have he := goRun_nothing (d := b.putRun r (xferRun count ws k bb)) (r := r) (x := xferRun count ws k bb) (by rw [hr]) rfl rfl
    (by rw [xferRun, wholePart, if_pos hlen]) rfl hop
  rw [show (xferRun count ws k bb).count = count from rfl] at he
  rw [he]
  exact waited_ends (x := xferRun count ws k bb) (by rw [hr]) (by rw [hr]; exact h.cplq) rfl h.count hroom rfl (e := { status := 0 }) rfl
    (fits_status 0 (by decide))

/-- A COPY (R299). -/
theorem copy (hop : descOp ws = 1) (h30 : wbits ws 2 30 30 = 0) (hord : wbits ws 2 27 26 = 0) :
    let e := b.startXfer r (begun count ws)
    (d.portTakes r ws (quad ws 6) → wbits ws 2 31 31 = 0 → d.hostFull r ws 0 → d.bbFull r ws (quad ws 6) 1 →
        e.Moving r .toBb (word ws 3) (wbits ws 2 7 0) (quad ws 6)) ∧
      (d.portTakes r ws (quad ws 6) → wbits ws 2 31 31 = 1 → d.hostFull r ws 1 → d.bbFull r ws (quad ws 6) 0 → d.listGone (wbits ws 2 7 0) = false →
        e.Moving r .toHost (word ws 3) (wbits ws 2 7 0) (quad ws 6)) ∧
      (wbits ws 2 7 0 < 8 * d.n → word ws 3 = 0 → e.Completes r count 0) ∧ (8 * d.n ≤ wbits ws 2 7 0 → e.Completes r count 0x0E) := by
  dsimp only
  rw [startXfer_copy b r count hop h30 hord, h.site.n]
  refine ⟨fun hroom h31 hhost hbb => ?_, fun hroom h31 hhost hbb hg => ?_, fun hp hlen => ?_, fun hp => ?_⟩
  · rw [if_neg (Nat.not_le.mpr hroom.1), if_neg (by omega)]
    refine h.bb_moves (by decide) hroom fun c hr hs hc => ?_
    obtain ⟨h1, h2⟩ := h.checks (x := xferRun count ws .toBb (onePort ws (quad ws 6))) rfl rfl
    exact startBlk_toBb hr rfl rfl hroom.2.1 rfl (hc ▸ h2 _ 1 rfl hbb) (hc ▸ h1 0 rfl rfl hroom.2.1 hhost)
  · rw [if_neg (Nat.not_le.mpr hroom.1), if_pos h31]
    refine h.bb_moves (by decide) hroom fun c hr hs hc => ?_
    obtain ⟨h1, h2⟩ := h.checks (x := xferRun count ws .toHost (onePort ws (quad ws 6))) rfl rfl
    exact startBlk_toHost hr rfl rfl hroom.2.1 rfl (hc ▸ h2 _ 0 rfl hbb) (hc ▸ h1 1 rfl rfl hroom.2.1 hhost) ((hs.listGone _).trans hg)
  · rw [if_neg (Nat.not_le.mpr hp)]
    exact h.nothing_completes (by omega) hlen
  · rw [if_pos hp]
    exact h.ends rfl rfl (fits_status 0 (by decide))

/-- A FILL of the Body Bus (R299). -/
theorem fillBb (hop : descOp ws = 4) (h31 : wbits ws 2 31 31 = 1) (h30 : wbits ws 2 30 30 = 0) :
    let e := b.startXfer r (begun count ws)
    (d.portTakes r ws (quad ws 4) → d.bbFull r ws (quad ws 4) 1 → d.listGone (wbits ws 2 7 0) = false →
        e.Moving r .fillBb (word ws 3) (wbits ws 2 7 0) (quad ws 4)) ∧ (8 * d.n ≤ wbits ws 2 7 0 → e.Completes r count 0x0E) := by
  dsimp only
  rw [startXfer_fillBb b r count hop h31 h30, h.site.n]
  refine ⟨fun hroom hbb hg => ?_, fun hp => ?_⟩
  · rw [if_neg (Nat.not_le.mpr hroom.1)]
    refine h.bb_moves (by decide) hroom fun c hr hs hc => ?_
    obtain ⟨-, h2⟩ := h.checks (x := xferRun count ws .fillBb (onePort ws (quad ws 4))) rfl rfl
    exact startBlk_fillBb hr rfl rfl hroom.2.1 rfl (hc ▸ h2 _ 1 rfl hbb) ((hs.listGone _).trans hg)
  · rw [if_pos hp]
    exact h.ends rfl rfl (fits_status 0 (by decide))

/-- A FILL of host memory (R299). -/
theorem fillHost (hop : descOp ws = 4) (h31 : wbits ws 2 31 31 = 0) :
    let e := b.startXfer r (begun count ws)
    (0 < word ws 3 → word ws 3 ≤ 65536 → d.hostFull r ws 1 → e.Moving r .fillHost (word ws 3) 0 0) ∧ (word ws 3 = 0 → e.Completes r count 0) := by
  dsimp only
  rw [startXfer_fillHost b r count hop h31]
  refine ⟨fun hlen hle hhost => ?_, h.nothing_completes (by omega)⟩
  obtain ⟨hr, -⟩ := h.put (x := xferRun count ws .fillHost {}) rfl rfl
  obtain ⟨h1, -⟩ := h.checks (x := xferRun count ws .fillHost {}) rfl rfl
  exact goRun_fillHost (x := xferRun count ws .fillHost {}) (by rw [hr]) rfl rfl (by rw [xferRun, wholePart, if_neg (by omega)]) rfl hlen hle
    (h1 1 rfl rfl hlen hhost)

/-- A PLAYBACK reads its index entry first (R340). -/
theorem playback (hp : (d.moverProt (d.ringDie r) (d.ring r).mover (d.ring r).priv (quad ws 11 + 32 * word ws 10) 32 0).1 = wholeAns 32) :
    ((b.startPlayback r (begun count ws)).ring r).runs = [{ begun count ws with phase := .entryRead }] := by
  have hctl : (b.ring r).ctl = (d.ring r).ctl := by rw [h.ring]
  have ha : b.moverProt (b.ringDie r) (b.ring r).mover (b.ring r).priv (quad ws 11 + 32 * word ws 10) 32 0 = (wholeAns 32, b) := by
    rw [h.ringDie, Ring.mover, Ring.priv, hctl]
    exact h.site.allowed hp rfl
  have he : ∃ q, b.startPlayback r (begun count ws) =
      (b.fresh.2.putRun r { begun count ws with phase := .entryRead }).hostFrom (b.fresh.2.ringDie r) q := by
    unfold Dev.startPlayback
    simp only [show (begun count ws).words = ws from rfl, ha, wholeAns, Bool.false_eq_true, if_false]
    exact ⟨_, rfl⟩
  obtain ⟨q, he⟩ := he
  rw [he, ring_of_rings (sends_hostFrom _ _ _).rings]
  exact runs_putRun (d := b.fresh.2) h.runs rfl

end Started

end Sys2Proof.Machine

/-! ## RECORD (R300) and the descriptors of data together -/

namespace Sys2Proof.Machine

/-! What a mover sees of a pool -/

namespace SameSite
variable {d e : Dev} (h : SameSite d e) (p : Nat)
include h

theorem homeOf : e.homeOf p = d.homeOf p := by rw [Dev.homeOf, h.home, h.n]; rfl

theorem poolOn : e.poolOn p = d.poolOn p := h.flag (f := POOL_STAT.ACTIVE) (by decide) 0 p

theorem poolSize : e.poolSize p = d.poolSize p := by rw [Dev.poolSize, h.fld (by decide), h.homeOf]; rfl

theorem poolOwners : e.poolOwners p = d.poolOwners p := by rw [Dev.poolOwners, h.fld (by decide), h.homeOf]; rfl

theorem slotTarget : e.slotTarget p = d.slotTarget p := by
  simp only [Dev.slotTarget, h.homeOf, h.fld (f := POOL_TARGET.TARGET) (by decide), h.flag (f := POOL_TARGET.STRIPE) (by decide),
    h.flag (f := STRIPE_CTL.EN) (by decide), h.n]

theorem pool : e.pool p = d.pool p := h.eq (Dev.pool · p) fun _ _ _ _ _ _ => rfl

theorem poolClear (i : Nat) : e.poolClear p i = d.poolClear p i := by rw [Dev.poolClear, h.pool]; rfl

theorem avail (o : Nat) : e.avail p o = d.avail p o := by
  have hr : ∀ {g : RegId}, g ≠ .MOV_STAT → ∀ u i, e.reg g u i = d.reg g u i := fun hg u i => h.2 _ hg
  simp only [Dev.avail, Dev.poolFree, Dev.poolResv, Dev.poolChg, h.poolOwners, h.homeOf, hr (g := .POOL_FREE) (by decide),
    hr (g := .POOL_RESV) (by decide), hr (g := .POOL_CHG) (by decide)]

end SameSite

/-- A buffer that a pool hands out leaves the rings. -/
theorem rings_poolTake {d : Dev} {c : PoolCmd} {h : Nat} {r : List Nat} (ha : 0 < d.avail c.pool c.owner) (hcache : (d.pool c.pool).cache = h :: r)
    (hclear : d.poolClear c.pool (handleIndex h) = true) : (d.poolTake c).rings = d.rings := by
  unfold Dev.poolTake
  simp only [if_neg (Nat.ne_of_gt ha), hcache, hclear, Bool.not_true, Bool.false_eq_true, if_false]
  exact (sends_poolWriteEntry _ _ _ _).rings

theorem rings_refill (d : Dev) (p : Nat) : (d.refill p).rings = d.rings := by
  rcases refill_sends d p with h | ⟨v, h⟩
  · exact h.rings
  · exact h.rings

/-- A GET of a pool with a buffer for its owner (R282). -/
theorem poolCmd_takes {d : Dev} {c : PoolCmd} {h : Nat} {r : List Nat} (hop : c.op = 1) (hon : d.poolOn c.pool = true)
    (how : c.owner < d.poolOwners c.pool) (ha : 0 < d.avail c.pool c.owner) (hcache : (d.pool c.pool).cache = h :: r)
    (hclear : d.poolClear c.pool (handleIndex h) = true) :
    ((d.poolCmd c).pool c.pool).cache = r ∧ (d.poolCmd c).rings = d.rings := by
  obtain ⟨v, hv⟩ := poolCmd_get (d := d) hop
  have hs := samePool_setRr d c.pool v
  have ha' := (hs.avail c.owner).symm ▸ ha
  have hcache' := hs.pool.symm ▸ hcache
  have hclear' := (hs.clear (handleIndex h)).trans hclear
  rw [hv, hon, if_neg (by decide), if_neg (Nat.not_le.mpr how)]
  obtain ⟨-, -, -, -, -, hc, -⟩ := poolTake_takes ha' hcache' hclear'
  exact ⟨(refill_kept _ _).1.trans hc, (rings_refill _ _).trans (rings_poolTake ha' hcache' hclear')⟩

namespace Started
variable {r count : Nat} {ws : List Word} {rest : List (Nat × List Word)} {d b : Dev} (h : Started r count ws rest d b)
include h

/-- A RECORD that obtains its slot gives a GET to its pool (R300). -/
theorem record_gets {p hd : Nat} {more : List Nat} (h31 : wbits ws 2 31 31 = 1) (h29 : wbits ws 2 29 29 = 0) (hp : p = wbits ws 2 23 16)
    (hon : d.poolOn p = true) (hkind : d.flag POOL_CTL.KIND (d.homeOf p) p = true) (hsize : word ws 3 * word ws 7 ≤ d.poolSize p)
    (htgt : d.slotTarget p = true) (how : (d.ring r).owner < d.poolOwners p) (hcache : (d.pool p).cache = hd :: more)
    (hav : 0 < d.avail p (d.ring r).owner) (hclear : d.poolClear p (handleIndex hd) = true) :
    ((b.startRecord r (begun count ws)).ring r).runs = [{ begun count ws with phase := .slotGet }] ∧
      ((b.startRecord r (begun count ws)).pool p).cache = more := by
  obtain ⟨hr, hsite, -, -, -⟩ := h.put (x := { begun count ws with phase := .slotGet }) rfl rfl
  have howner : (b.ring r).owner = (d.ring r).owner := by rw [Ring.owner, h.ring]; rfl
  have hcheck : b.recordCheck ws = none := by
    simp only [Dev.recordCheck, h31, ← hp, h.site.poolOn, h.site.homeOf, h.site.flag (f := POOL_CTL.KIND) (by decide), h.site.poolSize,
      h.site.slotTarget]
    simp [hkind, htgt, Nat.not_lt.mpr hsize]
  have he : ∃ by_, b.startRecord r (begun count ws) =
      (b.putRun r { begun count ws with phase := .slotGet }).poolCmd { by_ := by_, op := 1, pool := p, owner := (d.ring r).owner } := by
    unfold Dev.startRecord
    simp only [show (begun count ws).words = ws from rfl, h31, if_true, hcheck, h29, Nat.zero_ne_one, if_false, Dev.recordSlot, howner, hp]
    exact ⟨_, rfl⟩
  obtain ⟨by_, he⟩ := he
  obtain ⟨h1, h2⟩ := poolCmd_takes (d := b.putRun r { begun count ws with phase := .slotGet })
    (c := { by_ := by_, op := 1, pool := p, owner := (d.ring r).owner }) rfl ((hsite.poolOn p).trans hon) ((hsite.poolOwners p).symm ▸ how)
    ((hsite.avail p _).symm ▸ hav) ((hsite.pool p).symm ▸ hcache) ((hsite.poolClear p _).trans hclear)
  rw [he]
  exact ⟨by rw [ring_of_rings h2, hr], h1⟩

/-- A RECORD of a slot of a pool that is off ends POOL (R300). -/
theorem record_noPool (h31 : wbits ws 2 31 31 = 0) (hoff : d.poolOn (handlePool (quad ws 8)) = false) :
    (b.startRecord r (begun count ws)).Completes r count 4 := by
  have hcheck : b.recordCheck ws = some { status := 4, detail := 0x0A } := by
    simp [Dev.recordCheck, h31, h.site.poolOn, hoff]
  have he : b.startRecord r (begun count ws) = b.endRun r (({ begun count ws with handle := quad ws 8 } : DescRun).fail { status := 4, detail := 0x0A } true) := by
    unfold Dev.startRecord
    simp only [show (begun count ws).words = ws from rfl, h31, Nat.zero_ne_one, if_false, hcheck]
  rw [he]
  exact h.ends rfl (e := { status := 4, detail := 0x0A }) rfl ⟨show 4 < 256 by decide, show 10 < 256 by decide, show 0 < 65536 by decide⟩

end Started

/-- Settles O42: each descriptor starts, and then moves, waits or ends. -/
theorem descriptorsOfData : Obligations.DescriptorsOfData := by
  unfold Obligations.DescriptorsOfData
  intro s r count ws rest hruns
  dsimp only
  have hcopy : ∀ {P : Dev → Prop}, s.dev.Heads r 1 count ws rest → (∀ b, Started r count ws rest s.dev b → P (b.startXfer r (begun count ws))) →
      s.DoesSome (.copy r) P := fun hh hP => by
    refine State.doesSome_perform (by dsimp only [exec]; rfl) ?_
    obtain ⟨b, hb, hst⟩ := heads_started hh hruns fun d x => d.startXfer r x
    rw [hb]
    exact hP b hst
  have hfill : ∀ {P : Dev → Prop}, s.dev.Heads r 4 count ws rest → (∀ b, Started r count ws rest s.dev b → P (b.startXfer r (begun count ws))) →
      s.DoesSome (.fill r) P := fun hh hP => by
    refine State.doesSome_perform (by dsimp only [exec]; rfl) ?_
    obtain ⟨b, hb, hst⟩ := heads_started hh hruns fun d x => d.startXfer r x
    rw [hb]
    exact hP b hst
  have hrecord : ∀ {P : Dev → Prop}, s.dev.Heads r 2 count ws rest → (∀ b, Started r count ws rest s.dev b → P (b.startRecord r (begun count ws))) →
      s.DoesSome (.record r) P := fun hh hP => by
    refine State.doesSome_perform (by dsimp only [exec]; rfl) ?_
    obtain ⟨b, hb, hst⟩ := heads_started hh hruns fun d x => d.startRecord r x
    rw [hb]
    exact hP b hst
  refine ⟨fun hh h30 hord => ?_, fun hh => ?_, fun hh hp => ?_, fun hh => ?_⟩
  · have hop : descOp ws = 1 := hh.2.2.1
    exact ⟨fun hone h31 hhost hbb => hcopy hh fun b hst => (hst.copy hop h30 hord).1 hone h31 hhost hbb,
      fun hone h31 hhost hbb hg => hcopy hh fun b hst => (hst.copy hop h30 hord).2.1 hone h31 hhost hbb hg,
      fun hp hlen => hcopy hh fun b hst => (hst.copy hop h30 hord).2.2.1 hp hlen, fun hp => hcopy hh fun b hst => (hst.copy hop h30 hord).2.2.2 hp⟩
  · have hop : descOp ws = 4 := hh.2.2.1
    exact ⟨fun h31 h30 hone hbb hg => hfill hh fun b hst => (hst.fillBb hop h31 h30).1 hone hbb hg,
      fun h31 hlen hle hhost => hfill hh fun b hst => (hst.fillHost hop h31).1 hlen hle hhost,
      fun h31 hlen => hfill hh fun b hst => (hst.fillHost hop h31).2 hlen, fun h31 h30 hp => hfill hh fun b hst => (hst.fillBb hop h31 h30).2 hp⟩
  · refine State.doesSome_perform (by dsimp only [exec]; rfl) ?_
    obtain ⟨b, hb, hst⟩ := heads_started hh hruns fun d x => d.startPlayback r x
    rw [hb]
    exact ⟨_, hst.playback hp, rfl, rfl, rfl⟩
  · exact ⟨fun p hd more h31 h29 hp hon hkind hsize htgt how hcache hav hclear => hrecord hh fun b hst =>
        let hg := hst.record_gets h31 h29 hp hon hkind hsize htgt how hcache hav hclear
        ⟨⟨_, hg.1, rfl, rfl, rfl⟩, hg.2⟩,
      fun h31 hoff => hrecord hh fun b hst => hst.record_noPool h31 hoff⟩

end Sys2Proof.Machine

/-! ## What the abortion of descriptors leaves of the other rings (R318, R319) -/

namespace Sys2Proof.Machine

/-! Pools and taps beside the rings -/

/-- Rings, movers, homes, and the registers of ring pointers and of the movers' states, are as they were. -/
structure Aside (d e : Dev) : Prop where
  order : (e.variant, e.cfgLog, e.applied) = (d.variant, d.cfgLog, d.applied)
  home : e.home = d.home
  movers : e.movers = d.movers
  rings : e.rings = d.rings
  regs : ∀ l : Loc, l.reg = .RING_PTR ∨ l.reg = .MOV_STAT → e.at l = d.at l

namespace Aside
variable {d e c : Dev}

theorem refl (d : Dev) : Aside d d := ⟨rfl, rfl, rfl, rfl, fun _ _ => rfl⟩

theorem trans (h : Aside d e) (h' : Aside e c) : Aside d c :=
  ⟨h'.order.trans h.order, h'.home.trans h.home, h'.movers.trans h.movers, h'.rings.trans h.rings, fun l hl => (h'.regs l hl).trans (h.regs l hl)⟩

theorem foldl {α : Type} {f : Dev → α → Dev} (hf : ∀ d a, Aside d (f d a)) : ∀ (xs : List α) (d : Dev), Aside d (xs.foldl f d)
  | [], d => refl d
  | x :: xs, d => (hf d x).trans (foldl hf xs (f d x))

end Aside

theorem aside_ite {d a b : Dev} {c : Prop} [Decidable c] (ha : Aside d a) (hb : Aside d b) : Aside d (if c then a else b) := by
  split
  · exact ha
  · exact hb

theorem RingsKept.aside {rs : List RegId} {d e : Dev} (h : RingsKept rs d e) (hp : RegId.RING_PTR ∉ rs) (hm : RegId.MOV_STAT ∉ rs) : Aside d e :=
  ⟨h.order, h.home, h.movers, h.rings, fun l hl => h.regs l (by rcases hl with hl | hl <;> rwa [hl])⟩

theorem Sends.aside {d e : Dev} (h : Sends d e) : Aside d e := h.ringsKept (rs := []) |>.aside List.not_mem_nil List.not_mem_nil

theorem aside_setReg (d : Dev) {r : RegId} (u i : Nat) (w : Word) (hp : r ≠ .RING_PTR) (hm : r ≠ .MOV_STAT) : Aside d (d.setReg r u i w) :=
  ⟨rfl, rfl, rfl, rfl, fun l hl => at_setReg_ne _ _ _ _ _ (by rintro rfl; exact hl.elim hp hm)⟩

theorem aside_setFld (d : Dev) {f : Fld} (u i v : Nat) (hp : f.reg ≠ .RING_PTR) (hm : f.reg ≠ .MOV_STAT) : Aside d (d.setFld f u i v) :=
  aside_setReg d u i _ hp hm

/-- A count that raises an event. -/
theorem aside_counted (d : Dev) {f : Fld} (u i x cls : Nat) (k : Loc) (b src : Nat) (hp : f.reg ≠ .RING_PTR) (hm : f.reg ≠ .MOV_STAT) :
    Aside d ((d.bump f u i).raise x cls k b src) := (aside_setFld d u i _ hp hm).trans ⟨rfl, rfl, rfl, rfl, fun _ _ => rfl⟩

theorem aside_modPool (d : Dev) (p : Nat) (f : Pool → Pool) : Aside d (d.modPool p f) := ⟨rfl, rfl, rfl, rfl, fun _ _ => rfl⟩

theorem aside_setMail (d : Dev) (path : Nat) (m : Mail) : Aside d (d.setMail path m) := ⟨rfl, rfl, rfl, rfl, fun _ _ => rfl⟩

theorem aside_poolGive (d : Dev) (c : PoolCmd) (status handle nown : Nat) : Aside d (d.poolGive c status handle nown) := by
  unfold Dev.poolGive
  cases c.by_ with
  | mailbox path =>
    dsimp only
    refine Aside.trans ?_ (aside_setMail _ path _)
    refine Aside.trans ?_ (aside_setReg _ (r := .POOL_RES_HI) path 0 _ (by decide) (by decide))
    refine Aside.trans ?_ (aside_setReg _ (r := .POOL_RES_LO) path 0 _ (by decide) (by decide))
    exact aside_setReg d (r := .POOL_RES_STAT) path 0 _ (by decide) (by decide)
  | mover die m ring desc => exact (sends_note _ _).aside
  | tap die m t => exact (sends_note _ _).aside

theorem aside_poolReject (d : Dev) (c : PoolCmd) (status nown : Nat) : Aside d (d.poolReject c status nown) := by
  unfold Dev.poolReject
  refine Aside.trans ?_ (aside_poolGive ..)
  split
  · exact aside_setFld d 0 _ _ (by decide) (by decide)
  · split
    · exact aside_counted d 0 _ _ _ _ _ _ (by decide) (by decide)
    · split
      · exact aside_counted d 0 _ _ _ _ _ _ (by decide) (by decide)
      · exact (ringsKept_raise (rs := []) ..).aside List.not_mem_nil List.not_mem_nil

theorem aside_poolTake (d : Dev) (c : PoolCmd) : Aside d (d.poolTake c) := by
  unfold Dev.poolTake
  dsimp only
  split
  · exact aside_poolReject ..
  · split
    · split
      · exact aside_modPool ..
      · refine Aside.trans ?_ (sends_poolWriteEntry _ _ _ _).aside
        refine Aside.trans ?_ (aside_modPool ..)
        refine Aside.trans ?_ (sends_fresh _).aside
        refine Aside.trans ?_ (aside_setReg _ (r := .POOL_CHG) _ _ _ (by decide) (by decide))
        refine Aside.trans ?_ (aside_setReg _ (r := .POOL_FREE) _ _ _ (by decide) (by decide))
        exact (aside_modPool ..).trans (aside_setFld _ (f := POOL_STAT.CACHE) _ _ _ (by decide) (by decide))
    · split
      · exact aside_poolReject ..
      · exact aside_modPool ..

theorem aside_refill (d : Dev) (p : Nat) : Aside d (d.refill p) := by
  rcases refill_sends d p with h | ⟨v, h⟩
  · exact h.aside
  · exact (aside_modPool ..).trans h.aside

theorem aside_poolStart (d : Dev) (c : PoolCmd) : Aside d (d.poolStart c) :=
  ((sends_fresh d).aside.trans (aside_modPool ..)).trans (poolStart_sends d c).aside

/-- A command of a pool. -/
theorem aside_poolCmd (d : Dev) (c : PoolCmd) : Aside d (d.poolCmd c) := by
  have hr : ∀ p v, Aside d (d.setFld POOL_STAT.RR 0 p v) := fun p v => aside_setFld d 0 p v (by decide) (by decide)
  unfold Dev.poolCmd
  dsimp only
  generalize (if c.op = 2 ∨ c.op = 3 ∨ c.op = 4 then { c with pool := handlePool c.handle } else c) = c
  refine aside_ite ((hr _ _).trans (aside_poolReject ..)) (aside_ite ((hr _ _).trans (aside_poolReject ..)) ?_)
  refine aside_ite ((hr _ _).trans (aside_poolReject ..)) (aside_ite ((hr _ _).trans (aside_poolReject ..)) ?_)
  exact aside_ite (((hr _ _).trans (aside_poolTake ..)).trans (aside_refill ..)) (aside_ite ((hr _ _).trans (aside_poolStart ..))
    ((hr _ _).trans (aside_modPool ..)))

theorem aside_setTapRun (d : Dev) (t : Nat) (r : Option TapRun) : Aside d (d.setTapRun t r) :=
  (⟨rfl, rfl, rfl, rfl, fun _ _ => rfl⟩ : Aside d (d.setTap t { d.tap t with run := r })).trans
    (aside_setFld _ (f := TAP_STAT.BUSY) _ _ _ (by decide) (by decide))

theorem aside_tapUnwind (d : Dev) (t : Nat) (r : TapRun) : Aside d (d.tapUnwind t r) := by
  unfold Dev.tapUnwind
  dsimp only
  split
  · exact (aside_setTapRun ..).trans (aside_poolCmd ..)
  · split
    · exact ((aside_setFld d (f := TAP_STAT.HAS_PREV) _ _ _ (by decide) (by decide)).trans (aside_setTapRun ..)).trans (aside_poolCmd ..)
    · exact aside_setTapRun ..

theorem aside_tapLog (d : Dev) (t : Nat) : Aside d (d.tapLog t) := by
  unfold Dev.tapLog
  split
  · exact Aside.refl d
  · split
    · exact (aside_setTapRun ..).trans ((((sends_fresh _).trans (sends_fresh _)).trans (sends_hostFrom _ _ _)).trans (sends_hostFrom _ _ _)).aside
    · exact Aside.refl d

/-- A descriptor that stops reading ends the picture of its tap (R336). -/
theorem aside_tapCut (d : Dev) (t ring desc : Nat) : Aside d (d.tapCut t ring desc) := by
  unfold Dev.tapCut
  split
  · exact Aside.refl d
  · split
    · unfold Dev.tapAbandon
      split
      · exact Aside.refl d
      · split
        · refine Aside.trans ?_ (aside_tapLog ..)
          refine Aside.trans ?_ (aside_tapUnwind ..)
          exact aside_counted d (f := TAP_ERR.CUT) _ _ _ _ _ _ _ (by decide) (by decide)
        · exact Aside.refl d
    · exact Aside.refl d

/-! One ring and the others -/

/-- Only ring r may have changed, of rings, movers, homes and the registers of ring pointers and movers' states. -/
structure OtherRings (r : Nat) (d e : Dev) : Prop where
  order : (e.variant, e.cfgLog, e.applied) = (d.variant, d.cfgLog, d.applied)
  home : e.home = d.home
  movers : e.movers = d.movers
  others : ∀ q, q ≠ r → e.ring q = d.ring q
  regs : ∀ l : Loc, l.reg = .RING_PTR ∨ l.reg = .MOV_STAT → e.at l = d.at l

theorem Aside.other {d e : Dev} (h : Aside d e) (r : Nat) : OtherRings r d e := ⟨h.order, h.home, h.movers, fun q _ => ring_of_rings h.rings q, h.regs⟩

namespace OtherRings
variable {r : Nat} {d e c : Dev}

theorem refl (r : Nat) (d : Dev) : OtherRings r d d := (Aside.refl d).other r

theorem trans (h : OtherRings r d e) (h' : OtherRings r e c) : OtherRings r d c :=
  ⟨h'.order.trans h.order, h'.home.trans h.home, h'.movers.trans h.movers, fun q hq => (h'.others q hq).trans (h.others q hq),
    fun l hl => (h'.regs l hl).trans (h.regs l hl)⟩

theorem mover (h : OtherRings r d e) (x m : Nat) : e.mover x m = d.mover x m := by rw [Dev.mover, h.movers]; rfl

end OtherRings

theorem other_ite {r : Nat} {d a b : Dev} {c : Prop} [Decidable c] (ha : OtherRings r d a) (hb : OtherRings r d b) :
    OtherRings r d (if c then a else b) := by
  split
  · exact ha
  · exact hb

theorem other_modRing (d : Dev) (r : Nat) (f : Ring → Ring) : OtherRings r d (d.modRing r f) :=
  ⟨rfl, rfl, rfl, fun _ hq => ring_modRing_ne d hq f, fun _ _ => rfl⟩

theorem other_status (d : Dev) (r : Nat) {f : Fld} (u i cls x src : Nat) (hp : f.reg ≠ .RING_PTR) (hm : f.reg ≠ .MOV_STAT) :
    OtherRings r d (d.status f u i cls x src) :=
  ((ringsKept_status (rs := [f.reg]) d u i cls x src List.mem_cons_self).aside (by simpa using hp.symm) (by simpa using hm.symm)).other r

theorem other_notice (d : Dev) (r : Nat) : OtherRings r d (d.notice r) :=
  (other_modRing d r _).trans (((ringsKept_irq _ _ _ 0).aside (by decide) (by decide)).other r)

theorem other_ringStopErr (d : Dev) (r count : Nat) : OtherRings r d (d.ringStopErr r count) := by
  unfold Dev.ringStopErr
  split
  · exact OtherRings.refl r d
  · refine OtherRings.trans ?_ (other_notice _ r)
    refine OtherRings.trans ?_ (((ringsKept_raise (rs := []) ..).aside List.not_mem_nil List.not_mem_nil).other r)
    refine OtherRings.trans ?_ ((aside_setFld _ (f := RING_STAT.STOPPED_ERR) _ _ _ (by decide) (by decide)).other r)
    exact ((aside_setFld d (f := RING_STAT.STATE) _ _ _ (by decide) (by decide)).trans
      (aside_setFld _ (f := RING_ERR_IDX.INDEX) _ _ _ (by decide) (by decide))).other r

theorem aside_countEnd (d : Dev) (r status : Nat) : Aside d (d.countEnd r status) := by
  unfold Dev.countEnd
  dsimp only
  split
  · exact aside_setFld _ _ _ _ (by decide) (by decide)
  · split
    · exact aside_setFld _ _ _ _ (by decide) (by decide)
    · split
      · exact aside_setFld _ _ _ _ (by decide) (by decide)
      · split
        · exact aside_setFld _ _ _ _ (by decide) (by decide)
        · exact Aside.refl d

theorem aside_engineOver (d : Dev) (x q words : Nat) : Aside d (d.engineOver x q words) := by
  refine (⟨rfl, rfl, rfl, rfl, fun _ _ => rfl⟩ : Aside d (d.modQueue x q fun s => { s with extra := s.extra - words })).trans ?_
  exact aside_counted _ (f := DIE_Q_STAT.OVERFLOW) _ _ _ _ _ _ _ (by decide) (by decide)

theorem other_stageCpls (all : Bool) (r : Nat) : ∀ (k : Nat) (d : Dev), OtherRings r d (Dev.stageCpls all k d r)
  | 0, d => OtherRings.refl r d
  | k + 1, d => by
    unfold Dev.stageCpls
    dsimp only
    generalize (8 * (d.cplStaged (d.ringDie r) (d.ring r).mover + 1)) = next
    split
    · exact OtherRings.refl r d
    · split
      · split
        · refine OtherRings.trans ?_ (other_stageCpls all r k _)
          exact other_ite (((other_modRing d r _).trans ((aside_engineOver ..).other r)).trans
              (other_status _ r (f := RING_STAT.CPL_LOST) _ _ _ _ _ (by decide) (by decide)))
            ((other_modRing d r _).trans ((sends_note _ _).aside.other r))
        · exact OtherRings.refl r d
      · exact OtherRings.refl r d

theorem other_cplPump (d : Dev) (r : Nat) : OtherRings r d (d.cplPump r) := by
  unfold Dev.cplPump
  dsimp only
  split
  · exact OtherRings.refl r d
  · split
    · exact OtherRings.refl r d
    · exact (other_modRing d r _).trans ((sends_cplSend _ _ _ _).aside.other r)

/-- The end of a descriptor (R313). -/
theorem other_endRun (d : Dev) (r : Nat) (x : DescRun) : OtherRings r d (d.endRun r x) := by
  unfold Dev.endRun
  dsimp only
  refine OtherRings.trans ?_ (other_cplPump _ r)
  refine OtherRings.trans ?_ (other_stageCpls false r _ _)
  have h : OtherRings r d ((d.putRun r { x with phase := .done, blks := [], todo := [] }).countEnd r ((x.err.map (·.status)).getD x.fin)) :=
    (other_modRing d r _).trans ((aside_countEnd ..).other r)
  split
  · exact h.trans (other_ringStopErr ..)
  · exact h

/-! Descriptors that stop (R314) -/

/-- No descriptor of a ring with a count has anything left to start. -/
def Dev.Stopped (d : Dev) (r count : Nat) : Prop := ∀ y ∈ (d.ring r).runs, y.count = count → y.todo = []

theorem Stopped.of_rings {d e : Dev} {r count : Nat} (h : d.Stopped r count) (he : e.rings = d.rings) : e.Stopped r count := by
  unfold Dev.Stopped
  rw [ring_of_rings he]
  exact h

theorem stopped_putRun {d : Dev} {r count : Nat} {x : DescRun} (h : x.count = count → x.todo = []) (hd : x.count = count ∨ d.Stopped r count) :
    (d.putRun r x).Stopped r count := by
  intro y hy hc
  rw [Dev.putRun, ring_modRing_same] at hy
  obtain ⟨z, hz, rfl⟩ := List.mem_map.mp hy
  by_cases hz' : (z.count == x.count) = true
  · rw [if_pos hz'] at hc ⊢
    exact h hc
  · rw [if_neg hz'] at hc ⊢
    rcases hd with hx | hd
    · exact absurd (beq_iff_eq.mpr (hc.trans hx.symm)) hz'
    · exact hd z hz hc

theorem runOf_mem {d : Dev} {r count : Nat} {x : DescRun} (h : d.runOf r count = some x) : x ∈ (d.ring r).runs ∧ x.count = count :=
  ⟨List.mem_of_find?_eq_some h, by simpa using List.find?_some h⟩

theorem other_afterMove (d : Dev) (r : Nat) (x : DescRun) : OtherRings r d (d.afterMove r x) := by
  have hput : ∀ (d : Dev) q, OtherRings r d (d.fresh.2.hostFrom (d.fresh.2.ringDie r) q) := fun d q =>
    ((sends_fresh d).trans (sends_hostFrom _ _ _)).aside.other r
  unfold Dev.afterMove
  dsimp only
  split
  · exact other_endRun ..
  · have hp : ∀ q, OtherRings r d (d.protCheck q).2 := fun q => ((ringsKept_protCheck d q).aside (by decide) (by decide)).other r
    refine other_ite ?_ ?_
    · exact (hp _).trans (other_endRun ..)
    · exact ((((hp _).trans (other_modRing _ r _)).trans (hput _ _)).trans (hput _ _)).trans (hput _ _)

theorem other_moved (d : Dev) (r : Nat) (x : DescRun) : OtherRings r d (d.moved r x) := by
  unfold Dev.moved
  split
  · exact other_ite ((other_modRing d r _).trans ((aside_tapCut ..).other r)) (other_modRing d r _)
  · exact other_afterMove ..

/-- A descriptor with nothing left to start goes on to its end. -/
theorem other_goRun {d : Dev} {r count : Nat} (h : d.Stopped r count) : OtherRings r d (d.goRun r count) := by
  have hp : ∀ k, OtherRings r d (d.pumpRun k r count) := fun k => by
    cases k with
    | zero => exact OtherRings.refl r d
    | succ k =>
      cases hr : d.runOf r count with
      | none =>
        rw [Dev.pumpRun, hr]
        exact OtherRings.refl r d
      | some x =>
        obtain ⟨hx, hc⟩ := runOf_mem hr
        simp only [Dev.pumpRun, hr, h x hx hc]
        exact other_ite (OtherRings.refl r d) (other_ite (other_moved ..) (OtherRings.refl r d))
  unfold Dev.goRun
  split
  · exact OtherRings.refl r d
  · exact hp _

/-- The work of a descriptor taken from the tiles. -/
theorem other_pullWork (d : Dev) {r count : Nat} (h : d.Stopped r count) : OtherRings r d (d.pullWork r count) ∧ (d.pullWork r count).Stopped r count := by
  unfold Dev.pullWork
  refine List.foldlRecOn (motive := fun e => OtherRings r d e ∧ e.Stopped r count) _ _ ⟨OtherRings.refl r d, h⟩ fun e ⟨he, hs⟩ lp _ => ?_
  dsimp only
  split
  · exact ⟨he, hs⟩
  · have hm : ∀ f, OtherRings r d (e.modPort lp f) := fun f =>
      he.trans ((ringsKept_modPort (rs := []) e lp f).aside List.not_mem_nil List.not_mem_nil |>.other r)
    split
    · next x hx =>
      obtain ⟨hmem, hc⟩ := runOf_mem hx
      exact ⟨(hm _).trans (other_modRing _ r _), stopped_putRun (fun hc => hs x hmem hc) (.inl hc)⟩
    · exact ⟨hm _, hs⟩

/-- A descriptor that stops with an error (R314). -/
theorem other_stopRun (d : Dev) (r : Nat) (x : DescRun) (e : DErr) : OtherRings r d (d.stopRun r x e) := by
  obtain ⟨w, hw⟩ : ∃ w, w = x.fail e true := ⟨_, rfl⟩
  have hwt : w.todo = [] := by rw [hw]; rfl
  have htap : ∀ c : Dev, c.Stopped r w.count → OtherRings r d c →
      OtherRings r d ((match w.tap with | some t => c.tapCut t r w.count | none => c).goRun r w.count) := fun c hs hc => by
    cases w.tap with
    | none => exact hc.trans (other_goRun hs)
    | some t => exact (hc.trans ((aside_tapCut ..).other r)).trans (other_goRun (Stopped.of_rings hs (aside_tapCut ..).rings))
  unfold Dev.stopRun
  dsimp only
  rw [← hw]
  generalize List.filter (fun b : Blk => b.atTile || !b.writes.isEmpty) w.blks = bs
  have hput : ∀ c, OtherRings r d c → OtherRings r d ((c.putRun r { w with blks := bs }).pullWork r w.count) ∧
      ((c.putRun r { w with blks := bs }).pullWork r w.count).Stopped r w.count := fun c hc => by
    obtain ⟨h1, h2⟩ := other_pullWork (c.putRun r { w with blks := bs }) (stopped_putRun (count := w.count) (fun _ => hwt) (.inl rfl))
    exact ⟨(hc.trans (other_modRing c r _)).trans h1, h2⟩
  have hf : ∀ f, OtherRings r d (d.forgetReads f) := fun f => ((ringsKept_forgetReads (rs := []) d f).aside List.not_mem_nil List.not_mem_nil).other r
  exact htap _ (hput _ (hf _)).2 (hput _ (hf _)).1

/-- The descriptors of a ring that are in progress end (R318, R319). -/
theorem other_abortRuns (d : Dev) (r : Nat) (e : DErr) : OtherRings r d (d.abortRuns r e) := by
  unfold Dev.abortRuns
  refine List.foldlRecOn (motive := fun c => OtherRings r d c) _ _ (OtherRings.refl r d) fun c hc y _ => hc.trans ?_
  dsimp only
  split
  · exact OtherRings.refl r c
  · split
    · exact other_stopRun ..
    · exact other_endRun ..
    · exact other_endRun ..
    · exact (((ringsKept_forgetReads (rs := []) c _).aside List.not_mem_nil List.not_mem_nil).other r).trans (other_endRun ..)
    · exact (((ringsKept_forgetReads (rs := []) c _).aside List.not_mem_nil List.not_mem_nil).other r).trans (other_endRun ..)
    · exact other_modRing c r _
    · exact other_modRing c r _

end Sys2Proof.Machine

/-! ## Resets of movers (R319) -/

namespace Sys2Proof.Machine

/-! A command in MOV_CTL -/

/-- A write of one word of package configuration that is let through goes to the lead, and is answered; it may be recorded as well. -/
theorem swCmd_cfg_any {d : Dev} {L : Locks} {src : Src} {l : Loc} {f : Word → Word} {at_ : Nat} (hf : l.fits d.n = true)
    (hg : d.lets src l = true) (hc : l.isCfg = true) (hb : d.leadBusy = false) (hp : src.path < 16) :
    ∃ sh held c E, E = ({ ({ d.written src l with shadows := sh } : Dev).leadTakes (d.cfgWord L l.offset
        (f (d.at (l.seenBy src) &&& l.reg.maskWhere fun f => f.ty == .rw || f.ty == .lk)) src.path) at_ with heldCfg := held } : Dev) ∧
      (c = E ∨ ∃ r a, c = E.accErr src true r a 4) ∧ d.swCmd L src l f at_ = c.answered src := by
  obtain ⟨v, hv⟩ : ∃ v, v = f (d.at (l.seenBy src) &&& l.reg.maskWhere fun f => f.ty == .rw || f.ty == .lk) := ⟨_, rfl⟩
  have hl : locate (d.written src l).n l.offset = some l := locate_offset hf
  have hc' : (l.seenBy src).isCfg = true := by
    unfold Loc.seenBy
    split
    · exact hc
    · split <;> exact hc
  have hcw : ∀ sh, ({ d.written src l with shadows := sh } : Dev).cfgWrite L l.offset v src.path at_ =
      ({ d.written src l with shadows := sh } : Dev).leadTakes (d.cfgWord L l.offset v src.path) at_ := fun sh => if_neg (Bool.eq_false_iff.mp hb)
  have hw : ∃ sh r, (d.written src l).writeCourse L src l.offset v at_ =
      (r, ({ d.written src l with shadows := sh } : Dev).leadTakes (d.cfgWord L l.offset v src.path) at_) := by
    simp only [Dev.writeCourse, hl, hc', if_true]
    split
    · exact ⟨_, _, Prod.ext rfl (hcw _)⟩
    · exact ⟨(d.written src l).shadows, _, Prod.ext rfl (hcw _)⟩
  obtain ⟨sh, r, hw⟩ := hw
  have h16 : decide (16 ≤ src.path) = false := by simpa using hp
  have hi : indexed [l.offset] = [(0, l.offset)] := rfl
  have hnote : ∀ (e : Dev) (k : Nat) b, ∃ held, e.noteHeld k 4 b = { e with heldCfg := held } := fun e k b => by
    unfold Dev.noteHeld
    split
    · exact ⟨e.heldCfg, rfl⟩
    · exact ⟨_, rfl⟩
  obtain ⟨held, hn⟩ := hnote (({ d.written src l with shadows := sh } : Dev).leadTakes (d.cfgWord L l.offset v src.path) at_) d.heldCfg.length r.isSome
  have hbus : d.swCmd L src l f at_ = (d.regWrite L src l.offset 4 15 v.toNat at_).2.writeAnswered src (d.regWrite L src l.offset 4 15 v.toNat at_).1 := by
    rw [hv]
    exact busWrite_granted hg
  have hserved : d.served src l.offset = d.written src l := rfl
  have hv32 : BitVec.ofNat 32 v.toNat = v := by simp
  have hl' : locate d.n l.offset = some l := locate_offset hf
  refine ⟨sh, held, ?_⟩
  rw [← hv, hbus]
  simp only [Dev.regWrite, writeReason_word (offset_word l), wordsAt_word (offset_word l), List.any_cons, List.any_nil, hl', Option.any_some, hc, hi, h16,
    Bool.false_and, List.foldl_cons, List.foldl_nil, Bool.or_false, Bool.false_eq_true, if_false, if_true, Nat.mul_zero, Nat.pow_zero, Nat.div_one,
    hserved, hv32, hw]
  cases r with
  | none =>
    refine ⟨_, _, rfl, .inl rfl, ?_⟩
    simp only [Option.isSome_none] at hn ⊢
    rw [hn]
    rfl
  | some r =>
    refine ⟨_, _, rfl, .inr ⟨r, l.offset, rfl⟩, ?_⟩
    simp only [Option.isSome_some] at hn ⊢
    rw [hn]
    rfl

/-! What a ring has fetched goes back (R319) -/

/-- A pointer of a ring moved back over what is fetched and not started. -/
def Dev.backTo (d : Dev) (q : Nat) : Nat := (d.fetched q + 65536 - (d.ring q).unstarted % 65536) % 65536

/-- What a ring has fetched goes, its batch read is forgotten, and its descriptors end. -/
def Dev.emptied (d : Dev) (r : Nat) : Dev := ((d.dropFetch r).unfetch r).abortRuns r { status := 0x13, detail := 1 }

theorem moverResetBegin_eq (d : Dev) (x m : Nat) : d.moverResetBegin x m = (d.moverRings x m).foldl Dev.emptied
    ((d.setMover x m { d.mover x m with resetting := true, held := false }).setFld MOV_STAT.RESETTING 0 (movIdx x m) 1) := rfl

theorem aside_dropFetch (d : Dev) (r : Nat) : Aside (d.modRing r fun g => { g with fetchOut := none }) (d.dropFetch r) :=
  (ringsKept_forgetReads (rs := []) _ _).aside List.not_mem_nil List.not_mem_nil

theorem abortRuns_nothing {d : Dev} {r : Nat} (h : (d.ring r).runs = []) (e : DErr) : d.abortRuns r e = d := by
  rw [Dev.abortRuns, h]
  rfl

/-- Movers, the lead's order and the movers' states are as they were. -/
structure MoversKept (d e : Dev) : Prop where
  order : (e.variant, e.cfgLog, e.applied) = (d.variant, d.cfgLog, d.applied)
  movers : e.movers = d.movers
  stat : ∀ i, e.at ⟨.MOV_STAT, 0, i⟩ = d.at ⟨.MOV_STAT, 0, i⟩

theorem MoversKept.trans {d e c : Dev} (h : MoversKept d e) (h' : MoversKept e c) : MoversKept d c :=
  ⟨h'.order.trans h.order, h'.movers.trans h.movers, fun i => (h'.stat i).trans (h.stat i)⟩

theorem unfetch_kept (d : Dev) (r : Nat) : MoversKept d (d.unfetch r) := ⟨rfl, rfl, fun _ => Dev.at_setFld_ne _ _ _ _ _ (by simp)⟩

theorem emptied_kept (d : Dev) (r : Nat) : MoversKept d (d.emptied r) := by
  have hd := aside_dropFetch d r
  have ho := other_abortRuns ((d.dropFetch r).unfetch r) r { status := 0x13, detail := 1 }
  have h1 : MoversKept d (d.dropFetch r) := ⟨hd.order, hd.movers, fun _ => hd.regs _ (.inr rfl)⟩
  exact (h1.trans (unfetch_kept _ r)).trans ⟨ho.order, ho.movers, fun _ => ho.regs _ (.inr rfl)⟩

/-- Another ring emptied. -/
theorem emptied_other (d : Dev) {q r : Nat} (h : q ≠ r) : (d.emptied r).ring q = d.ring q ∧ (d.emptied r).fetched q = d.fetched q := by
  obtain ⟨c, hc⟩ : ∃ c, c = d.dropFetch r := ⟨_, rfl⟩
  have hd : Aside (d.modRing r fun g => { g with fetchOut := none }) c := by rw [hc]; exact aside_dropFetch d r
  have ho := other_abortRuns (c.unfetch r) r { status := 0x13, detail := 1 }
  have hu : (c.unfetch r).ring q = c.ring q := ring_modRing_ne c h fun g => { g with staged := [], fetchBad := none }
  have hp : (c.unfetch r).fetched q = c.fetched q :=
    fld_of_at (f := RING_PTR.FETCHED) (Dev.at_setFld_ne _ _ _ _ _ (by simpa using h))
  rw [Dev.emptied, ← hc]
  refine ⟨(ho.others q h).trans (hu.trans ((ring_of_rings hd.rings q).trans (ring_modRing_ne d h _))), ?_⟩
  exact (fld_of_at (f := RING_PTR.FETCHED) (ho.regs _ (.inl rfl))).trans (hp.trans (fld_of_at (f := RING_PTR.FETCHED) (hd.regs _ (.inl rfl))))

/-- A ring without descriptors in progress emptied. -/
theorem emptied_same {d : Dev} {q : Nat} (h : (d.ring q).runs = []) :
    (d.emptied q).ring q = { d.ring q with fetchOut := none, staged := [], fetchBad := none } ∧ (d.emptied q).fetched q = d.backTo q := by
  obtain ⟨c, hc⟩ : ∃ c, c = d.dropFetch q := ⟨_, rfl⟩
  have hd : Aside (d.modRing q fun g => { g with fetchOut := none }) c := by rw [hc]; exact aside_dropFetch d q
  have hcr : c.ring q = { d.ring q with fetchOut := none } := (ring_of_rings hd.rings q).trans (ring_modRing_same d q _)
  have hcf : c.fetched q = d.fetched q := fld_of_at (f := RING_PTR.FETCHED) (hd.regs _ (.inl rfl))
  have hbr : (c.unfetch q).ring q = { d.ring q with fetchOut := none, staged := [], fetchBad := none } := by
    refine (ring_modRing_same c q fun g => { g with staged := [], fetchBad := none }).trans ?_
    rw [hcr]
  have hbf : (c.unfetch q).fetched q = d.backTo q := by
    rw [Dev.unfetch, hcf, hcr]
    exact (fld_setFld _ _ _ _ (by decide)).trans (Nat.mod_eq_of_lt (Nat.mod_lt _ (by decide)))
  have he : d.emptied q = c.unfetch q := by
    rw [Dev.emptied, ← hc]
    exact abortRuns_nothing (by rw [hbr]; exact h) _
  rw [he]
  exact ⟨hbr, hbf⟩

/-- The rings of a mover emptied in turn: one of them without descriptors in progress has nothing fetched, and FETCHED is back. -/
theorem emptied_all {q : Nat} : ∀ (rs : List Nat) (d : Dev), (d.ring q).runs = [] →
    (q ∉ rs → (rs.foldl Dev.emptied d).ring q = d.ring q ∧ (rs.foldl Dev.emptied d).fetched q = d.fetched q) ∧
      (q ∈ rs → ((rs.foldl Dev.emptied d).ring q).staged = [] ∧ ((rs.foldl Dev.emptied d).ring q).fetchOut = none ∧
        (rs.foldl Dev.emptied d).fetched q = d.backTo q)
  | [], d, _ => ⟨fun _ => ⟨rfl, rfl⟩, fun h => absurd h List.not_mem_nil⟩
  | r :: rs, d, h => by
    rw [List.foldl_cons]
    by_cases hr : q = r
    · subst hr
      obtain ⟨hring, hf⟩ := emptied_same h
      obtain ⟨hout, hin⟩ := emptied_all rs (d.emptied q) (by rw [hring]; exact h)
      have hback : (d.emptied q).backTo q = d.backTo q := by
        rw [Dev.backTo, hring, hf, Ring.unstarted]
        have : d.backTo q < 65536 := Nat.mod_lt _ (by decide)
        simp
        omega
      refine ⟨fun hn => absurd List.mem_cons_self hn, fun _ => ?_⟩
      by_cases hq : q ∈ rs
      · rw [← hback]
        exact hin hq
      · obtain ⟨h1, h2⟩ := hout hq
        rw [h1, h2, hring]
        exact ⟨rfl, rfl, hf⟩
    · obtain ⟨hring, hf⟩ := emptied_other d hr
      obtain ⟨hout, hin⟩ := emptied_all rs (d.emptied r) (by rw [hring]; exact h)
      have hback : (d.emptied r).backTo q = d.backTo q := by rw [Dev.backTo, hring, hf]; rfl
      refine ⟨fun hn => ?_, fun hi => ?_⟩
      · obtain ⟨h1, h2⟩ := hout fun h => hn (List.mem_cons_of_mem r h)
        exact ⟨h1.trans hring, h2.trans hf⟩
      · rw [← hback]
        exact hin ((List.mem_cons.mp hi).resolve_left hr)

/-- What a mover's reset leaves (R319): it is in reset, and its rings without descriptors in progress have nothing fetched. -/
structure MoverInReset (d : Dev) (x m : Nat) (e : Dev) : Prop where
  resetting : (e.mover x m).resetting = true
  shown : e.fld MOV_STAT.RESETTING 0 (movIdx x m) = 1
  rings : ∀ q ∈ d.moverRings x m, (d.ring q).runs = [] → (e.ring q).staged = [] ∧ (e.ring q).fetchOut = none ∧ e.fetched q = d.backTo q

theorem moverReset_effect {d : Dev} {x m : Nat} (h : (d.mover x m).resetting = false) :
    MoverInReset d x m (d.moverReset x m) ∧ ((d.moverReset x m).variant, (d.moverReset x m).cfgLog, (d.moverReset x m).applied) =
      (d.variant, d.cfgLog, d.applied) := by
  obtain ⟨b, hb⟩ : ∃ b, b = (d.setMover x m { d.mover x m with resetting := true, held := false }).setFld MOV_STAT.RESETTING 0 (movIdx x m) 1 := ⟨_, rfl⟩
  have he : d.moverReset x m = (d.moverRings x m).foldl Dev.emptied b := by
    rw [Dev.moverReset, h, if_neg Bool.false_ne_true, moverResetBegin_eq, hb]
  have hk : ∀ (rs : List Nat) (c : Dev), MoversKept c (rs.foldl Dev.emptied c) := fun rs c =>
    List.foldlRecOn (motive := MoversKept c) rs Dev.emptied ⟨rfl, rfl, fun _ => rfl⟩ fun e he r _ => he.trans (emptied_kept e r)
  have hbm : (b.mover x m).resetting = true := by
    rw [hb]
    exact congrArg Mover.resetting (Store.get_set_same {} _ _ d.movers)
  have hbs : b.fld MOV_STAT.RESETTING 0 (movIdx x m) = 1 := by
    rw [hb]
    exact fld_setFld _ _ _ _ (by decide)
  have hbf : ∀ q, b.fetched q = d.fetched q := fun q => by
    rw [hb]
    exact fld_of_at (f := RING_PTR.FETCHED) (Dev.at_setFld_ne _ _ _ _ _ (by simp))
  have hbr : ∀ q, b.ring q = d.ring q := fun q => by rw [hb]; rfl
  have hkb := hk (d.moverRings x m) b
  rw [he]
  refine ⟨⟨?_, (fld_of_at (f := MOV_STAT.RESETTING) (hkb.stat _)).trans hbs, fun q hq hr => ?_⟩, hkb.order.trans (by rw [hb]; rfl)⟩
  · rw [Dev.mover, hkb.movers]
    exact hbm
  · have hback : b.backTo q = d.backTo q := by rw [Dev.backTo, hbr, hbf]; rfl
    rw [← hback]
    exact (emptied_all (d.moverRings x m) b (by rw [hbr]; exact hr)).2 hq

/-! The write applied on one die after another -/

/-- Movers, rings, homes, and the registers from which a mover's reset is seen, are as they were. -/
structure Still (d e : Dev) : Prop where
  home : e.home = d.home
  movers : e.movers = d.movers
  rings : e.rings = d.rings
  regs : ∀ l : Loc, l.reg = .RING_PTR ∨ l.reg = .MOV_STAT ∨ l.reg = .RING_STAT → e.at l = d.at l

namespace Still
variable {d e c : Dev}

theorem trans (h : Still d e) (h' : Still e c) : Still d c :=
  ⟨h'.home.trans h.home, h'.movers.trans h.movers, h'.rings.trans h.rings, fun l hl => (h'.regs l hl).trans (h.regs l hl)⟩

theorem mover (h : Still d e) (x m : Nat) : e.mover x m = d.mover x m := by rw [Dev.mover, h.movers]; rfl

theorem fetched (h : Still d e) (q : Nat) : e.fetched q = d.fetched q := fld_of_at (f := RING_PTR.FETCHED) (h.regs _ (.inl rfl))

theorem backTo (h : Still d e) (q : Nat) : e.backTo q = d.backTo q := by rw [Dev.backTo, h.fetched, ring_of_rings h.rings]; rfl

theorem moverRings (h : Still d e) (x m : Nat) : e.moverRings x m = d.moverRings x m := by
  have hs : ∀ r, e.ringState r = d.ringState r := fun r => fld_of_at (f := RING_STAT.STATE) (h.regs _ (.inr (.inr rfl)))
  simp only [Dev.moverRings, h.rings, Dev.ringDie, ring_of_rings h.rings, h.home, hs]

end Still

theorem MoverInReset.of_still {d k e c : Dev} {x m : Nat} (h : MoverInReset k x m e) (hd : Still d k) (he : Still e c) : MoverInReset d x m c := by
  refine ⟨by rw [he.mover]; exact h.resetting, (fld_of_at (f := MOV_STAT.RESETTING) (he.regs _ (.inr (.inl rfl)))).trans h.shown, fun q hq hr => ?_⟩
  obtain ⟨h1, h2, h3⟩ := h.rings q (by rw [hd.moverRings]; exact hq) (by rw [ring_of_rings hd.rings]; exact hr)
  exact ⟨by rw [ring_of_rings he.rings]; exact h1, by rw [ring_of_rings he.rings]; exact h2, by rw [he.fetched, ← hd.backTo]; exact h3⟩

theorem still_openSeal (d : Dev) (x : Nat) : Still d (d.openSeal x) := by
  refine ⟨funext fun n => ?_, ?_, ?_, fun l hl => at_openSeal d x (by rcases hl with h | h | h <;> rw [h] <;> decide)⟩ <;> unfold Dev.openSeal <;> split <;> rfl

/-- A word of MOV_CTL stored on a die. -/
theorem still_cfgKept (d : Dev) (x i : Nat) (w : CfgWrite) : Still d (d.cfgKept x ⟨.MOV_CTL, 0, i⟩ w) := by
  have ho : Still d (d.cfgOpened x ⟨.MOV_CTL, 0, i⟩ w) := by
    unfold Dev.cfgOpened
    split
    · exact still_openSeal d x
    · exact ⟨rfl, rfl, rfl, fun _ _ => rfl⟩
  unfold Dev.cfgKept
  split
  · exact ho
  · exact ho.trans ⟨rfl, rfl, rfl, fun l hl => at_setReg_ne _ _ _ _ _ (by rintro rfl; simp at hl)⟩

/-- A mover's reset while its write is applied on one die after another: it begins on the mover's die. -/
structure ResetCourse (d : Dev) (w : CfgWrite) (x m : Nat) (xs : List Nat) (e : Dev) : Prop where
  order : (e.variant, e.cfgLog) = (d.variant, [w])
  todo : ∀ y ∈ xs, e.appliedAt y = 0
  once : xs.Nodup
  before : x ∈ xs → Still d e
  after : x ∉ xs → MoverInReset d x m e

theorem resetCourse_step {d e : Dev} {w : CfgWrite} {x m y : Nat} {xs : List Nat} (hm : m < 16) (hf : Loc.fits ⟨.MOV_CTL, 0, movIdx x m⟩ d.n = true)
    (ho : w.off = Loc.offset ⟨.MOV_CTL, 0, movIdx x m⟩) (hv : w.v.getLsbD 31 = true) (hr : (d.mover x m).resetting = false)
    (h : ResetCourse d w x m (y :: xs) e) : ResetCourse d w x m xs (e.applyTo y 1) := by
  obtain ⟨horder, htodo, honce, hbefore, hafter⟩ := h
  obtain ⟨hy, honce⟩ := List.nodup_cons.mp honce
  simp only [Prod.mk.injEq] at horder
  obtain ⟨hvar, hlog⟩ := horder
  have hloc : locate e.n w.off = some ⟨.MOV_CTL, 0, movIdx x m⟩ := by
    rw [show e.n = d.n by rw [Dev.n, hvar]; rfl, ho]
    exact locate_offset hf
  rw [applyTo_only hlog (htodo y List.mem_cons_self)]
  generalize hc : ({ e with applied := e.applied.set 0 ⟨y, 0, 0⟩ 1 } : Dev) = c
  rw [cfgPlace_plain (d := c) (l := ⟨.MOV_CTL, 0, movIdx x m⟩) (by rw [← hc]; exact hloc) ⟨nofun, nofun, nofun⟩]
  have hec : Still e c := by rw [← hc]; exact ⟨rfl, rfl, rfl, fun _ _ => rfl⟩
  have hek : Still e (c.cfgKept y ⟨.MOV_CTL, 0, movIdx x m⟩ w) := hec.trans (still_cfgKept c y (movIdx x m) w)
  obtain ⟨kframe, kapp, -⟩ := cfgKept_keeps c y ⟨.MOV_CTL, 0, movIdx x m⟩ w
  generalize c.cfgKept y ⟨.MOV_CTL, 0, movIdx x m⟩ w = k at *
  have korder : (k.variant, k.cfgLog) = (d.variant, [w]) := by
    simp only [Dev.frame, Prod.mk.injEq] at kframe
    obtain ⟨h1, -, -, -, -, -, h2⟩ := kframe
    rw [h1, h2, ← hc]
    exact Prod.ext hvar hlog
  have ktodo : ∀ z ∈ xs, k.appliedAt z = 0 := fun z hz => by
    rw [Dev.appliedAt, kapp, ← hc]
    exact (Store.get_set_ne 0 0 (by rintro ⟨⟩; exact hy hz) 1 e.applied).trans (htodo z (List.mem_cons_of_mem y hz))
  have hi : movIdx x m / 16 = x ∧ movIdx x m % 16 = m := by unfold movIdx; omega
  simp only [Dev.cfgHook, hv, hi, Bool.true_and, beq_iff_eq]
  split
  case isTrue hyx =>
    subst hyx
    have hdk := (hbefore List.mem_cons_self).trans hek
    obtain ⟨hin, hord⟩ := moverReset_effect (d := k) (x := y) (m := m) (by rw [hdk.mover]; exact hr)
    simp only [Prod.mk.injEq] at hord korder
    obtain ⟨h1, h2, h3⟩ := hord
    refine ⟨Prod.ext (h1.trans korder.1) (h2.trans korder.2), fun z hz => ?_, honce, fun hin => absurd hin hy,
      fun _ => hin.of_still hdk ⟨rfl, rfl, rfl, fun _ _ => rfl⟩⟩
    rw [Dev.appliedAt, h3]
    exact ktodo z hz
  case isFalse hyx =>
    refine ⟨korder, ktodo, honce, fun hin => (hbefore (List.mem_cons_of_mem y hin)).trans hek, fun hin => ?_⟩
    exact (hafter (by simp [hin, Ne.symm hyx])).of_still ⟨rfl, rfl, rfl, fun _ _ => rfl⟩ hek

/-- A mover's reset, taken by the lead and applied by all dies. -/
theorem leadTakes_reset {d : Dev} {w : CfgWrite} {x m : Nat} (hm : m < 16) (hf : Loc.fits ⟨.MOV_CTL, 0, movIdx x m⟩ d.n = true)
    (ho : w.off = Loc.offset ⟨.MOV_CTL, 0, movIdx x m⟩) (hv : w.v.getLsbD 31 = true) (hl : d.cfgLog = []) (ha : d.applied = [])
    (hx : x ∈ d.replicas) (hr : (d.mover x m).resetting = false) : MoverInReset d x m (d.leadTakes w 255) := by
  have hstart : ResetCourse d w x m d.replicas { d with cfgLog := [w] } :=
    ⟨rfl, fun y _ => by simp [Dev.appliedAt, ha, Store.get], List.Nodup.filter _ List.nodup_range, fun _ => ⟨rfl, rfl, rfl, fun _ _ => rfl⟩,
      fun h => absurd hx h⟩
  have hend := foldl_applies (P := ResetCourse d w x m) (f := fun (e : Dev) y => e.applyTo y 1)
    (fun _ _ _ h => resetCourse_step hm hf ho hv hr h) d.replicas _ hstart
  rw [leadTakes_first hl, List.filter_eq_self.mpr fun x hx => testBit_all hx]
  obtain ⟨log, app, hp⟩ := pruneCfg_view (d.replicas.foldl (fun (e : Dev) x => e.applyTo x 1) { d with cfgLog := [w] })
  rw [hp]
  exact (hend.after List.not_mem_nil).of_still ⟨rfl, rfl, rfl, fun _ _ => rfl⟩ ⟨rfl, rfl, rfl, fun _ _ => rfl⟩

theorem ringsKept_accErr (d : Dev) (src : Src) (write : Bool) (r a len : Nat) : RingsKept accErrRegs d (d.accErr src write r a len) := by
  have hf : ∀ (e : Dev) {f : Fld} (u v : Nat), f.reg = .DIE_ACC_ERR_INFO → RingsKept accErrRegs e (e.setFld f u 0 v) := fun e f u v h =>
    ringsKept_setFld e u 0 v (by rw [h]; decide)
  unfold Dev.accErr
  dsimp only
  split
  · exact hf d _ _ rfl
  · refine RingsKept.trans ?_ (ringsKept_status _ _ _ _ _ _ (by decide))
    refine RingsKept.trans ?_ (hf _ _ _ rfl)
    refine RingsKept.trans ?_ ((hf _ _ _ rfl).trans (hf _ _ _ rfl))
    refine RingsKept.trans ?_ ((hf _ _ _ rfl).trans (hf _ _ _ rfl))
    exact (ringsKept_setReg d _ _ _ (by decide)).trans (ringsKept_setReg _ _ _ _ (by decide))

theorem RingsKept.still {rs : List RegId} {d e : Dev} (h : RingsKept rs d e) (hr : RegId.RING_PTR ∉ rs ∧ RegId.MOV_STAT ∉ rs ∧ RegId.RING_STAT ∉ rs) :
    Still d e := by
  obtain ⟨h1, h2, h3⟩ := hr
  exact ⟨h.home, h.movers, h.rings, fun l hl => h.regs l (by rcases hl with hl | hl | hl <;> rwa [hl])⟩

end Sys2Proof.Machine

/-! ## STOP, RESUME and RESET of rings (R67, R318) -/

namespace Sys2Proof.Machine

theorem ringCmd_limit {s : State} {src : Src} {r : Nat} {i : Instr} (hi : i = .ringStop src r ∨ i = .ringResume src r ∨ i = .ringReset src r)
    (ht : s.dev.takes i = true) : r < 1024 := by
  rcases hi with rfl | rfl | rfl <;> simp_all [Dev.takes, Instr.wf]

/-- The command that gives one of the triggers of RING_CMD: it is carried out, or held (R67). -/
theorem swCmd_ring {d : Dev} {L : Locks} {src : Src} {r k : Nat} (hr : r < 1024) (hk : k = 0 ∨ k = 1 ∨ k = 2) (hg : d.lets src ⟨.RING_CMD, 0, r⟩ = true)
    (hfree : ((d.written src ⟨.RING_CMD, 0, r⟩).ringTrigger r k).1 = false) :
    d.swCmd L src ⟨.RING_CMD, 0, r⟩ (fun c => putBits c k k 1) = ((d.written src ⟨.RING_CMD, 0, r⟩).ringTrigger r k).2.answered src := by
  have hb : bitsSet (putBits 0 k k 1) [0, 1, 2] = [k] := by rcases hk with rfl | rfl | rfl <;> decide
  have hh : (d.written src ⟨.RING_CMD, 0, r⟩).writeHook L src ⟨.RING_CMD, 0, r⟩ (lockOf L ⟨.RING_CMD, 0, r⟩) (d.at ⟨.RING_CMD, 0, r⟩) (putBits 0 k k 1) =
      (d.written src ⟨.RING_CMD, 0, r⟩).ringTrigger r k := by
    simp only [Dev.writeHook, Dev.ringCmd, hb]
  rw [swCmd_pulse (fits_pkg rfl hr rfl) (show RegId.RING_CMD.pulse = true by decide) hg]
  dsimp only
  rw [hh, hfree, if_neg Bool.false_ne_true]

theorem ringTrigger_acts {d : Dev} {r : Nat} (h : d.ringState r ≠ 3) :
    d.ringTrigger r 0 = (false, d.ringStop r) ∧ d.ringTrigger r 1 = (false, d.ringResume r) ∧ d.ringTrigger r 2 = (false, d.ringReset r) := by
  unfold Dev.ringTrigger
  simp only [if_neg h, and_self]

theorem ringTrigger_held {d : Dev} {r : Nat} (k : Nat) (h : d.ringState r = 3) (hh : (d.ring r).heldCmd = none) :
    d.ringTrigger r k = (false, d.modRing r fun g => { g with heldCmd := some k }) := by
  simp only [Dev.ringTrigger, h, if_true, hh, Option.isSome_none, Bool.false_eq_true, if_false]

theorem state_setRingState (d : Dev) (r st : Nat) (h : st < 4) : (d.setRingState r st).ringState r = st :=
  (fld_setFld d 0 r st (by decide)).trans (Nat.mod_eq_of_lt h)

/-- STOP of a ring that runs (R317, R318). -/
theorem ringStop_effect {d : Dev} {r : Nat} (h : d.ringState r = 1) :
    (d.ringStop r).ringState r = 2 ∧ ((d.ringStop r).ring r).unnoticed = 0 ∧ ((d.ringStop r).ring r).runs = (d.ring r).runs := by
  obtain ⟨hr, -, hat⟩ := notice_effect (d.setRingState r 2) r
  rw [Dev.ringStop, if_pos h]
  refine ⟨(fld_of_at (f := RING_STAT.STATE) (hat _ (show RegId.RING_STAT ∉ irqRegs by decide))).trans (state_setRingState d r 2 (by decide)), ?_, ?_⟩
  · rw [hr]
  · rw [hr]
    rfl

theorem abortFences_nothing {d : Dev} (h : ∀ q, (d.ring q).runs = []) (r : Nat) : d.abortFences r = d := by
  unfold Dev.abortFences
  refine List.foldlRecOn (motive := fun e => e = d) _ _ rfl fun e he q _ => ?_
  subst he
  simp only [h, List.find?_nil]

/-- RESET of a ring that is on, where no descriptor is in progress (R318). -/
theorem ringReset_effect {d : Dev} {r : Nat} (h : d.ringState r = 1 ∨ d.ringState r = 2) (hruns : ∀ q, (d.ring q).runs = []) :
    (d.ringReset r).ringState r = 3 ∧ ((d.ringReset r).ring r).staged = [] ∧ ((d.ringReset r).ring r).fetchOut = none := by
  obtain ⟨b, hb⟩ : ∃ b, b = (d.setRingState r 3).modRing r fun g => { g with staged := [], fetchBad := none } := ⟨_, rfl⟩
  have hd := aside_dropFetch b r
  have hbr : b.ring r = { d.ring r with staged := [], fetchBad := none } := by
    rw [hb]
    exact ring_modRing_same _ r _
  have hcr : (b.dropFetch r).ring r = { d.ring r with staged := [], fetchBad := none, fetchOut := none } := by
    rw [ring_of_rings hd.rings, ring_modRing_same, hbr]
  have hall : ∀ q, ((b.dropFetch r).ring q).runs = [] := fun q => by
    by_cases hq : q = r
    · rw [hq, hcr]
      exact hruns r
    · rw [ring_of_rings hd.rings, ring_modRing_ne _ hq, hb, ring_modRing_ne _ hq]
      exact hruns q
  have he : d.ringReset r = b.dropFetch r := by
    rw [Dev.ringReset, if_neg (by omega)]
    dsimp only
    rw [← hb, abortRuns_nothing (hall r), abortFences_nothing hall]
  have hst : (b.dropFetch r).ringState r = b.ringState r := fld_of_at (f := RING_STAT.STATE) ((ringsKept_forgetReads (rs := []) _ _).regs _ List.not_mem_nil)
  rw [he, hst, hcr, hb]
  exact ⟨state_setRingState d r 3 (by decide), rfl, rfl⟩

theorem ringsKept_forgetWrites {rs : List RegId} (d : Dev) (x : Nat) (f : Who → Bool) : RingsKept rs d (d.forgetWrites x f) := by
  unfold Dev.forgetWrites
  dsimp only
  split
  · exact (sends_modPx _ _ _).ringsKept
  · exact RingsKept.refl rs d

/-- The end of a ring's reset where nothing is left of the ring (R318). -/
theorem ringResetEnd_effect {d : Dev} {r : Nat} (h : d.ringState r = 3) (hr : (d.ring r).runs = []) (hq : (d.ring r).cplq = [])
    (hh : (d.ring r).heldCmd = none) (hf : (d.ring r).offSeen = false) :
    let e := d.ringResetEnd r
    e.posted r = 0 ∧ e.fetched r = 0 ∧ e.cplWr r = 0 ∧ e.cplRd r = 0 ∧
      e.ringState r = if d.flag RING_CTL.EN (d.home (d.fld RING_CTL.HOME_DIE (d.ringDie r) r)) r = true then 1 else 0 := by
  obtain ⟨b, hb⟩ : ∃ b, b = d.forgetWrites (d.ring r).hostDie fun w => w == .ringCpl r := ⟨_, rfl⟩
  have hk : RingsKept [] d b := by rw [hb]; exact ringsKept_forgetWrites ..
  obtain ⟨c, hc⟩ : ∃ c, c = ((b.modRing r fun g => { g with cplq := [], cplOut := false, unnoticed := 0, offSeen := false, heldCmd := none }).setReg
    .RING_PTR 0 r 0).setReg .RING_CPL_PTR 0 r 0 := ⟨_, rfl⟩
  have hptr : c.at ⟨.RING_PTR, 0, r⟩ = 0#32 ∧ c.at ⟨.RING_CPL_PTR, 0, r⟩ = 0#32 := by
    rw [hc]
    exact ⟨(at_setReg_ne _ _ _ _ _ (by simp)).trans (reg_setReg_same _ _ _ _ _), reg_setReg_same _ _ _ _ _⟩
  have hreg : ∀ u, c.at ⟨.RING_CTL, u, r⟩ = d.at ⟨.RING_CTL, u, r⟩ := fun u => by
    rw [hc, at_setReg_ne _ _ _ _ _ (by simp), at_setReg_ne _ _ _ _ _ (by simp)]
    exact hk.regs _ List.not_mem_nil
  have hdie : c.ringDie r = d.ringDie r := by
    have hcr : (c.ring r).ctl = (d.ring r).ctl := by
      rw [hc, ← hk.ring]
      exact (congrArg Ring.ctl (ring_modRing_same b r fun g =>
        { g with cplq := [], cplOut := false, unnoticed := 0, offSeen := false, heldCmd := none })).trans rfl
    rw [Dev.ringDie, hcr, show c.home = d.home by rw [hc]; exact hk.home]
    rfl
  have hen : c.flag RING_CTL.EN (c.home (c.fld RING_CTL.HOME_DIE (c.ringDie r) r)) r =
      d.flag RING_CTL.EN (d.home (d.fld RING_CTL.HOME_DIE (d.ringDie r) r)) r := by
    rw [hdie, show c.home = d.home by rw [hc]; exact hk.home, fld_of_at (f := RING_CTL.HOME_DIE) (hreg _), flag_of_at (f := RING_CTL.EN) (hreg _)]
  have he : d.ringResetEnd r = c.setRingState r (if d.flag RING_CTL.EN (d.home (d.fld RING_CTL.HOME_DIE (d.ringDie r) r)) r = true then 1 else 0) := by
    unfold Dev.ringResetEnd
    rw [if_neg (by simp [h, hr]), ← hen]
    simp only [hr, List.length_nil, Dev.stageCpls, hq, List.take_nil, List.drop_nil, List.foldl_nil, ← hb, hk.ring, hh, hf, ← hc, Bool.false_eq_true,
      if_false]
    cases c.flag RING_CTL.EN (c.home (c.fld RING_CTL.HOME_DIE (c.ringDie r) r)) r <;> rfl
  have hset : ∀ {f : Fld} (v : Nat), f.reg ≠ .RING_STAT → (c.setRingState r v).fld f 0 r = c.fld f 0 r := fun v hf =>
    fld_of_at (Dev.at_setFld_ne _ _ _ _ _ (by simpa using hf))
  have hzero : ∀ {f : Fld}, c.at ⟨f.reg, 0, r⟩ = 0#32 → c.fld f 0 r = 0 := fun {f} h0 => by
    rw [Dev.fld, Dev.reg, h0, bitsOf]
    simp
  rw [he]
  refine ⟨(hset _ (by decide)).trans (hzero hptr.1), (hset _ (by decide)).trans (hzero hptr.1), (hset _ (by decide)).trans (hzero hptr.2),
    (hset _ (by decide)).trans (hzero hptr.2), state_setRingState _ _ _ (by split <;> decide)⟩

theorem ringResetEnd_idle {d : Dev} {r : Nat} (h : d.ringState r ≠ 3) : d.ringResetEnd r = d := by
  unfold Dev.ringResetEnd
  rw [if_pos (.inl h)]

/-- What is true of the default and of every entry of a store is true of what it holds at a key. -/
theorem Store.get_of_all {V : Type} {P : V → Prop} {dflt : V} (h0 : P dflt) (k : Key) : ∀ {m : Store V}, (∀ e ∈ m, P e.2) → P (Store.get dflt k m)
  | [], _ => h0
  | (k', v) :: m, h => by
    unfold Store.get
    split
    · exact h (k', v) List.mem_cons_self
    · exact Store.get_of_all h0 k fun e he => h e (List.mem_cons_of_mem _ he)

/-- The commands of a ring by the triggers of RING_CMD. -/
def ringCmds (src : Src) (r : Nat) (i : Instr) (k : Nat) : Prop :=
  i = .ringStop src r ∧ k = 0 ∨ i = .ringResume src r ∧ k = 1 ∨ i = .ringReset src r ∧ k = 2

/-- What a trigger does, its command does. -/
theorem ringCmd_does {s : State} {src : Src} {r k : Nat} {i : Instr} {P : Dev → Prop} (hi : ringCmds src r i k)
    (hg : s.dev.lets src ⟨.RING_CMD, 0, r⟩ = true) (hf : ((s.dev.written src ⟨.RING_CMD, 0, r⟩).ringTrigger r k).1 = false)
    (hP : ∀ c, RingsKept [] ((s.dev.written src ⟨.RING_CMD, 0, r⟩).ringTrigger r k).2 c → P c) : s.DoesSome i P := by
  intro ht
  have hr : r < 1024 := ringCmd_limit (src := src) (i := i) (by rcases hi with ⟨h, -⟩ | ⟨h, -⟩ | ⟨h, -⟩ <;> simp [h]) ht
  have hsw := swCmd_ring (L := s.locks) hr (k := k) (by rcases hi with ⟨-, h⟩ | ⟨-, h⟩ | ⟨-, h⟩ <;> simp [h]) hg hf
  have hx : exec i s = perform i s fun L d => d.swCmd L src ⟨.RING_CMD, 0, r⟩ fun c => putBits c k k 1 := by
    rcases hi with ⟨rfl, rfl⟩ | ⟨rfl, rfl⟩ | ⟨rfl, rfl⟩ <;> rfl
  refine State.doesSome_perform hx ?_ ht
  rw [hsw]
  exact hP _ (ringsKept_answered ..)

theorem mover_limit {s : State} {src : Src} {x m : Nat} (ht : s.dev.takes (.moverReset src x m) = true) : x < s.dev.n ∧ m < 16 := by
  simp only [Dev.takes, Instr.wf, Instr.present, Bool.and_eq_true, decide_eq_true_eq] at ht
  exact ⟨ht.2.2, ht.1.2⟩

/-- MOV_CTL.RESET, taken by the lead (R319). -/
theorem moverReset_does {s : State} {src : Src} {x m : Nat} (hp : src.path < 16) (hg : s.dev.lets src ⟨.MOV_CTL, 0, movIdx x m⟩ = true)
    (hb : s.dev.leadBusy = false) (hl : s.dev.cfgLog = []) (ha : s.dev.applied = []) (hx : x ∈ s.dev.replicas)
    (hr : (s.dev.mover x m).resetting = false) : s.DoesSome (.moverReset src x m) (MoverInReset s.dev x m) := by
  intro ht
  obtain ⟨hxn, hm⟩ := mover_limit ht
  have hn := n_le_eight s.dev
  have hf : Loc.fits ⟨.MOV_CTL, 0, movIdx x m⟩ s.dev.n = true :=
    fits_pkg rfl (show movIdx x m < 128 by unfold movIdx; omega) (decide_eq_true (show movIdx x m < 16 * s.dev.n by unfold movIdx; omega))
  obtain ⟨sh, held, c, E, hE, hc, hsw⟩ := swCmd_cfg_any (L := s.locks) (f := fun c => putBits c 31 31 1) (at_ := 255) hf hg rfl hb hp
  obtain ⟨h1, h2, -⟩ := cfgWord_of (d := s.dev) s.locks (putBits (s.dev.at (Loc.seenBy ⟨.MOV_CTL, 0, movIdx x m⟩ src) &&&
    RegId.MOV_CTL.maskWhere fun f => f.ty == .rw || f.ty == .lk) 31 31 1) src.path (locate_offset hf) nofun
  have hin : MoverInReset s.dev x m E := by
    have hk := leadTakes_reset (d := { s.dev.written src ⟨.MOV_CTL, 0, movIdx x m⟩ with shadows := sh }) (x := x) hm hf h1
      (by rw [h2, getLsbD_putBits_set _ (by decide) (by decide)]; rfl) hl ha hx hr
    rw [hE]
    exact hk.of_still ⟨rfl, rfl, rfl, fun _ _ => rfl⟩ ⟨rfl, rfl, rfl, fun _ _ => rfl⟩
  refine State.doesSome_perform (by dsimp only [exec]; rfl) ?_ ht
  rw [hsw]
  have hc' : Still E (c.answered src) := by
    have hk := fun e => (ringsKept_answered (rs := []) e src).still ⟨List.not_mem_nil, List.not_mem_nil, List.not_mem_nil⟩
    rcases hc with rfl | ⟨r, a, rfl⟩
    · exact hk c
    · exact ((ringsKept_accErr E src true r a 4).still (by decide)).trans (hk _)
  exact hin.of_still ⟨rfl, rfl, rfl, fun _ _ => rfl⟩ hc'

/-- Settles O43, a ring at a time, then the movers. -/
theorem ringControl : Obligations.RingControl := by
  unfold Obligations.RingControl
  intro s src r hp
  dsimp only
  have hw : RingsKept [] s.dev (s.dev.written src ⟨.RING_CMD, 0, r⟩) := ringsKept_written ..
  have hst := hw.state List.not_mem_nil r
  have hkeep : ∀ {c : Dev}, RingsKept [] (s.dev.written src ⟨.RING_CMD, 0, r⟩) c → c.ring r = s.dev.ring r ∧ c.ringState r = s.dev.ringState r :=
    fun hc => ⟨(hc.ring r).trans (hw.ring r), (hc.state List.not_mem_nil r).trans hst⟩
  have hstop : ringCmds src r (.ringStop src r) 0 := .inl ⟨rfl, rfl⟩
  have hresume : ringCmds src r (.ringResume src r) 1 := .inr (.inl ⟨rfl, rfl⟩)
  have hreset : ringCmds src r (.ringReset src r) 2 := .inr (.inr ⟨rfl, rfl⟩)
  refine ⟨fun hg => ⟨fun h1 => ?_, fun h1 h3 => ?_, fun h2 => ?_, fun h01 => ?_, fun h12 hruns => ?_, fun h3 hh i k hi => ?_⟩,
    fun h3 hr hq _ hh hf => ?_,
    fun h3 => State.does_perform (by dsimp only [exec]; rfl) (ringResetEnd_idle h3),
    fun x m hg hb hl ha hx hm hr => ?_⟩
  · obtain ⟨ht, -, -⟩ := ringTrigger_acts (d := s.dev.written src ⟨.RING_CMD, 0, r⟩) (r := r) (by omega)
    refine ringCmd_does hstop hg (by rw [ht]) fun c hc => ?_
    rw [ht] at hc
    obtain ⟨e1, e2, e3⟩ := ringStop_effect (d := s.dev.written src ⟨.RING_CMD, 0, r⟩) (r := r) (hst.trans h1)
    exact ⟨(hc.state List.not_mem_nil r).trans e1, by rw [hc.ring]; exact e2, by rw [hc.ring]; exact e3⟩
  · obtain ⟨ht, -, -⟩ := ringTrigger_acts (d := s.dev.written src ⟨.RING_CMD, 0, r⟩) (r := r) (by omega)
    refine ringCmd_does hstop hg (by rw [ht]) fun c hc => ?_
    rw [ht, Dev.ringStop, if_neg (by omega)] at hc
    exact hkeep hc
  · obtain ⟨-, ht, -⟩ := ringTrigger_acts (d := s.dev.written src ⟨.RING_CMD, 0, r⟩) (r := r) (by omega)
    refine ringCmd_does hresume hg (by rw [ht]) fun c hc => ?_
    rw [ht, Dev.ringResume, if_pos (hst.trans h2)] at hc
    exact ⟨(hc.state List.not_mem_nil r).trans (state_setRingState _ _ _ (by decide)), (hc.ring r).trans (hw.ring r)⟩
  · obtain ⟨-, ht, -⟩ := ringTrigger_acts (d := s.dev.written src ⟨.RING_CMD, 0, r⟩) (r := r) (by omega)
    refine ringCmd_does hresume hg (by rw [ht]) fun c hc => ?_
    rw [ht, Dev.ringResume, if_neg (by omega)] at hc
    exact (hkeep hc).symm
  · obtain ⟨-, -, ht⟩ := ringTrigger_acts (d := s.dev.written src ⟨.RING_CMD, 0, r⟩) (r := r) (by omega)
    refine ringCmd_does hreset hg (by rw [ht]) fun c hc => ?_
    rw [ht] at hc
    obtain ⟨e1, e2, e3⟩ := ringReset_effect (d := s.dev.written src ⟨.RING_CMD, 0, r⟩) (r := r) (by omega) fun q => by
      rw [hw.ring]
      exact Store.get_of_all (P := fun g : Ring => g.runs = []) rfl _ hruns
    exact ⟨(hc.state List.not_mem_nil r).trans e1, by rw [hc.ring]; exact e2, by rw [hc.ring]; exact e3⟩
  · have ht := ringTrigger_held (d := s.dev.written src ⟨.RING_CMD, 0, r⟩) k (hst.trans h3) hh
    refine ringCmd_does hi hg (by rw [ht]) fun c hc => ?_
    rw [ht] at hc
    exact ⟨(hc.ring r).trans (ring_modRing_same _ r _), (hc.state List.not_mem_nil r).trans (hst.trans h3)⟩
  · refine State.doesSome_perform (by dsimp only [exec]; rfl) ?_
    exact ringResetEnd_effect h3 hr hq hh hf
  · have h := moverReset_does hp hg hb hl ha hx hr
    intro ht
    obtain ⟨e, he, h1⟩ := h ht
    exact ⟨e, he, h1.resetting, h1.shown, h1.rings⟩

end Sys2Proof.Machine

/-! ## A violation record that is not there (R246) -/

namespace Sys2Proof.Machine

/-- Refutes O37: PROT_VIO_CLR of index 26 stands for no protection unit (R235), so its offset is reserved space; a write there is recorded in
DIE_ACC_ERR_INFO as one of reserved space, where the statement has nothing but the record of the unit change. -/
theorem not_interruptsAndEvents : ¬ Obligations.InterruptsAndEvents := by
  unfold Obligations.InterruptsAndEvents
  intro ⟨_, h⟩
  obtain ⟨-, -, -, -, -, hclear⟩ := h (atDev (Dev.initial .ez2)) controller0 0 (by decide)
  have hdoes := hclear 26 (by decide +kernel)
  have hvalid := viewNext_of_does hdoes (by decide +kernel) fun d => d.fld DIE_ACC_ERR_INFO.VALID 0
  exact absurd hvalid (by decide +kernel)

end Sys2Proof.Machine

/-! ## Window timers and page lines (R171, R182, R188, R189, R206) -/

namespace Sys2Proof.Machine

/-! Runs (R182) -/

theorem port_chainPut (d : Dev) (lp id p : Nat) : (d.chainPut lp id).port p = d.port p := by
  unfold Dev.chainPut
  split
  · exact foldl_kept (Dev.port · p) (step := fun d t => d.note (.qpush (dieOf t) (t % 8) [chainItem id])) (fun _ _ => rfl) _ d
  · rfl

/-- A run issued behind the work of its tile, where none of it came later on its path. -/
theorem issueRun_effect {d : Dev} {p : Nat} {r : Run} (h : ∀ v ∈ (d.port p).works, ∀ b ∈ v.job.accs, b.die = r.path → b.id ≤ r.last) :
    ((d.issueRun p r).port p).runs = (d.port p).runs ∧
      ∃ came, ((d.issueRun p r).port p).works = (d.port p).works ++ [{ runWork d.nextId r with came := came }] := by
  have hb : ∀ v ∈ (d.port p).works, (!(v.job.accs.any fun b => b.die == r.path && decide (r.last < b.id))) = true := fun v hv => by
    simp only [Bool.not_eq_true', List.any_eq_false, Bool.and_eq_true, beq_iff_eq, decide_eq_true_eq, not_and, Nat.not_lt]
    exact h v hv
  have hput : ∀ (c : Bool) (e : Dev), (if c = true then e.chainPut p d.fresh.1 else e).port p = e.port p := fun c e => by
    split
    · exact port_chainPut ..
    · rfl
  have hf : d.fresh.2.port p = d.port p := rfl
  unfold Dev.issueRun
  dsimp only
  rw [hput, port_modPort_same, hf]
  simp only [List.takeWhile_eq_self_iff.mpr hb, List.dropWhile_eq_nil_iff.mpr hb, List.append_nil]
  exact ⟨trivial, _, rfl⟩

theorem runOut_effect {d : Dev} {p idx : Nat} {q : Run} (hq : (d.port p).runs[idx]? = some q) (hone : (d.port p).runs.filter (· == q) = [q])
    (h : ∀ v ∈ (d.port p).works, ∀ b ∈ v.job.accs, b.die = q.path → b.id ≤ q.last) :
    ((d.runOut p idx).port p).runs = (d.port p).runs.filter (· != q) ∧
      ∃ w : Work, ((d.runOut p idx).port p).works = (d.port p).works ++ [w] ∧ w.job = .write q.accs ∧ w.port = q.win.routePort ∧
        w.courses = runCourses q ∧ w.cls = .direct := by
  obtain ⟨e, he⟩ : ∃ e, e = d.modPort p fun o => { o with runs := o.runs.filter fun r => !(r == q) } := ⟨_, rfl⟩
  have hep : e.port p = { d.port p with runs := (d.port p).runs.filter (· != q) } := by
    rw [he, port_modPort_same]
    rfl
  have hr : d.runOut p idx = e.issueRun p q := by
    rw [Dev.runOut, hq, he]
    simp only [Dev.flushRuns, hone, List.foldl_cons, List.foldl_nil]
  obtain ⟨h1, came, h2⟩ := issueRun_effect (d := e) (p := p) (r := q) (by rw [hep]; exact h)
  rw [hr]
  exact ⟨by rw [h1, hep], _, by rw [h2, hep], rfl, rfl, rfl, rfl⟩

/-! Prefetched blocks (R188, R189) -/

theorem pfAge_effect {d : Dev} {p idx : Nat} {b : PfBlock} (hb : (d.port p).pf[idx]? = some b) (hone : (d.port p).pf.filter (· == b) = [b])
    (hw : b.want = 0) :
    ∃ e : Dev, d.pfAge p idx = e.pfDiscard p b 1 ∧ (e.port p).pf = (d.port p).pf.filter (· != b) ∧ ∀ x k, e.queue x k = d.queue x k := by
  have hsel : ∀ c ∈ (d.port p).pf, (c == b && c.want == 0) = (c == b) := fun c _ => by
    by_cases hc : c = b
    · simp [hc, hw]
    · simp [hc]
  have hgone : ((d.port p).pf.filter fun c => c == b && c.want == 0) = [b] := (List.filter_congr hsel).trans hone
  refine ⟨d.modPort p fun o => { o with pf := (o.pf.filter fun c => !(c == b && c.want == 0)).map fun c =>
    if c == b && c.gone == 0 then { c with gone := 1 } else c }, ?_, ?_, fun _ _ => rfl⟩
  · rw [Dev.pfAge, hb]
    simp only [hw, if_true, Dev.pfDrop, hgone, List.foldl_cons, List.foldl_nil]
  · rw [port_modPort_same]
    dsimp only
    rw [List.map_congr_left (g := id), List.map_id]
    · exact List.filter_congr fun c hc => by rw [hsel c hc]; rfl
    · intro c hc
      obtain ⟨hm, hc⟩ := List.mem_filter.mp hc
      rw [hsel c hm] at hc
      rw [if_neg (by simp_all)]
      rfl

theorem port_pfDiscard (d : Dev) (p : Nat) (b : PfBlock) (reason q : Nat) : (d.pfDiscard p b reason).port q = d.port q := by
  unfold Dev.pfDiscard Dev.pushDrop
  dsimp only
  repeat' split
  all_goals rfl

/-- A block that was returned whole is discarded without a record. -/
theorem pfDiscard_whole {d : Dev} {p : Nat} {b : PfBlock} (h : coveredBy b.used b.far b.data.length = true) (reason : Nat) : d.pfDiscard p b reason = d := by
  unfold Dev.pfDiscard
  rw [if_pos h]

theorem queue_modQueue_ne (d : Dev) (x : Nat) {q k : Nat} (h : q ≠ k) (f : QState → QState) : (d.modQueue x k f).queue x q = d.queue x q := by
  unfold Dev.modQueue Dev.queue
  exact Store.get_set_ne ({} : QState) {} (k := ⟨x, k, 0⟩) (k' := ⟨x, q, 0⟩) (by simpa using h) _ _

/-- A block of which bytes were not returned is logged with its reason (R189). -/
theorem pfDiscard_logs {d : Dev} {p reason : Nat} {b : PfBlock} (h : coveredBy b.used b.far b.data.length = false)
    (hx : (d.queue (dieOf p) 61).extra = 0) (hroom : (d.queue (dieOf p) 61).used + 8 ≤ 8192) (hr : reason < 256) :
    ∃ w : List Word, ((d.pfDiscard p b reason).queue (dieOf p) 61).items = (d.queue (dieOf p) 61).items ++ [w] ∧
      w.getD 1 0 = BitVec.ofNat 32 b.far ∧ w.getD 3 0 = BitVec.ofNat 32 b.data.length ∧ bitsOf (w.getD 7 0) 31 24 = reason := by
  have hpush : ∀ w : List Word, w.length = 8 → (d.pushDrop (dieOf p) 61 TC_PFD_STAT.LOST (dieOf p) 0 w).1 = true ∧
      ((d.pushDrop (dieOf p) 61 TC_PFD_STAT.LOST (dieOf p) 0 w).2.queue (dieOf p) 61).items = (d.queue (dieOf p) 61).items ++ [w] := fun w hw => by
    have hc : w.length ≤ (d.queue (dieOf p) 61).credits 8192 := by rw [QState.credits]; omega
    have hu : (d.queue (dieOf p) 61).used + w.length ≤ 8192 := by omega
    rw [Dev.pushDrop]
    simp only [show (queueRow 61).capacity = 8192 from rfl, if_pos hc, hu, decide_true, queue_modQueue_same, QState.write, if_true, true_and]
    rfl
  have hraise : ∀ (e : Dev) cls k b src, ((e.raise (dieOf p) cls k b src).queue (dieOf p) 61) = e.queue (dieOf p) 61 := fun e cls k b src =>
    queue_modQueue_ne e (dieOf p) (show 61 ≠ 62 by decide) _
  unfold Dev.pfDiscard
  rw [if_neg (by simp [h])]
  dsimp only
  obtain ⟨w, hw⟩ : ∃ w : List Word, w = [BitVec.ofNat 32 (0x10000000 + (if b.win.inb then 2 ^ 27 else 0) + p * 2 ^ 18 + b.win.num), BitVec.ofNat 32 b.far,
    BitVec.ofNat 32 (b.far / 2 ^ 32), BitVec.ofNat 32 b.data.length, BitVec.ofNat 32 (usedMask b), BitVec.ofNat 32 (usedMask b / 2 ^ 32), crc32 b.data,
    BitVec.ofNat 32 (reason * 2 ^ 24)] := ⟨_, rfl⟩
  obtain ⟨h1, h2⟩ := hpush w (by rw [hw]; rfl)
  refine ⟨w, ?_, by rw [hw]; rfl, by rw [hw]; rfl, ?_⟩
  · rw [← hw, h1, if_pos rfl, hraise, h2]
  · rw [hw]
    show bitsOf (BitVec.ofNat 32 (reason * 2 ^ 24)) 31 24 = reason
    rw [bitsOf_ofNat (by omega)]
    omega

/-! Page lines (R171) -/

theorem tc_modTc_same (d : Dev) (x : Nat) (f : TCache → TCache) : (d.modTc x f).tc x = f (d.tc x) := by
  unfold Dev.modTc
  exact Store.get_set_same ({} : TCache) _ _ _

/-- The cache of a die without a page read, with its line where the read is kept. -/
def TCache.lineEnded (t : TCache) (id : Nat) (r : PageRead) (line : Option (List Nat)) : TCache :=
  { t with reads := t.reads.filter fun q => q.id != id,
           lines := match line with
             | some es => if r.keep then
                 (({ inb := r.inb, win := r.win, tableB := r.tableB, line := r.line, entries := es } : PageLine) :: t.lines).take 16384 else t.lines
             | none => t.lines }

theorem Sends.tc {d e : Dev} (h : Sends d e) (x : Nat) : e.tc x = d.tc x := h.eq (Dev.tc · x) fun _ _ _ _ _ _ => rfl

/-- The read of a page line ends: its die's cache holds the line, and its accesses go on in a state that differs in that cache and in what is
under way at the PCI Express ports. -/
theorem lineDone_effect {d : Dev} {x id : Nat} {r : PageRead} (hr : (d.tc x).reads.find? (fun q => q.id == id) = some r) (hp : r.ports = [])
    (line : Option (List Nat)) :
    ∃ c k : Dev, Sends d c ∧ k = { c with tcache := k.tcache } ∧ k.tc x = (d.tc x).lineEnded id r line ∧
      d.lineDone x id line = r.accs.foldl (fun d a => d.lineFor line a) k := by
  obtain ⟨c, hc⟩ : ∃ c, c = d.dies.foldl (fun d y => d.dropReq y fun w => w == .page x id) d := ⟨_, rfl⟩
  have hs : Sends d c := by rw [hc]; exact sends_dropAll d _
  rw [Dev.lineDone, ← hc, Dev.pageDone, hs.tc, hr]
  simp only [hp, List.foldl_nil]
  have hend : ∀ g : TCache → TCache, g (d.tc x) = (d.tc x).lineEnded id r line → ((c.modTc x g).tc x = (d.tc x).lineEnded id r line) := fun g hg => by
    rw [tc_modTc_same, hs.tc, hg]
  cases line with
  | none => exact ⟨c, c.modTc x _, hs, rfl, hend _ rfl, rfl⟩
  | some es =>
    cases hk : r.keep
    · simp only [Bool.false_eq_true, if_false]
      exact ⟨c, c.modTc x _, hs, rfl, hend (fun t => { t with reads := t.reads.filter fun q => q.id != id }) (by simp only [TCache.lineEnded, hk]; rfl), rfl⟩
    · simp only [if_true]
      refine ⟨c, (c.modTc x _).modTc x _, hs, rfl, ?_, rfl⟩
      rw [tc_modTc_same, tc_modTc_same, hs.tc]
      simp only [TCache.lineEnded, hk, if_true]

/-- What the accesses of a line that has been read see of the device is as it was. -/
theorem lineSite {d c k : Dev} (hs : Sends d c) (hk : k = { c with tcache := k.tcache }) :
    k.livePorts = d.livePorts ∧ (∀ p, k.port p = d.port p) ∧ ∀ w, k.listGone (k.listAt w) = d.listGone (d.listAt w) := by
  have hc : c.livePorts = d.livePorts ∧ (∀ p, c.port p = d.port p) ∧ ∀ w, c.listGone (c.listAt w) = d.listGone (d.listAt w) :=
    ⟨hs.eq Dev.livePorts fun _ _ _ _ _ _ => rfl, fun p => hs.eq (Dev.port · p) fun _ _ _ _ _ _ => rfl,
      fun w => hs.eq (fun d : Dev => d.listGone (d.listAt w)) fun _ _ _ _ _ _ => rfl⟩
  rw [hk]
  exact hc

theorem find?_only {α : Type} {f : α → Bool} {a : α} : ∀ {xs : List α}, a ∈ xs → f a = true → (∀ b ∈ xs, b ≠ a → f b = false) → xs.find? f = some a
  | x :: xs, hm, hf, ho => by
    by_cases hx : x = a
    · rw [List.find?_cons_of_pos (by rw [hx]; exact hf), hx]
    · rw [List.find?_cons_of_neg (by rw [ho x List.mem_cons_self hx]; exact Bool.false_ne_true)]
      exact find?_only ((List.mem_cons.mp hm).resolve_left (Ne.symm hx)) hf fun b hb => ho b (List.mem_cons_of_mem _ hb)

/-- The access that waited for a line, alone at its port, becomes a transaction of its tile. -/
theorem lineFor_far {k : Dev} {a : Acc} {w : Work} {p f : Nat} {es : List Nat} (hl : p ∈ k.livePorts) (hw : (k.port p).works = [w])
    (hr : w.ready = false) (hj : w.job.accs = [a]) (ho : ∀ q ∈ k.livePorts, q ≠ p → (k.port q).works = []) (hg : k.listGone (k.listAt a.win) = false)
    (hc : a.op.isWrite = true → a.win.combines = false)
    (hu : useEntry a.win (a.off - a.win.base) (es.getD ((a.off - a.win.base) / 2 ^ 21 % 8) 0) a.op.isWrite = .far f) :
    ((k.lineFor (some es) a).port p).works = [{ accWork { a with far := f } a.id true with came := w.came }] := by
  have hwait : (!w.ready && w.job.accs.any fun b => b.id == a.id) = true := by simp [hr, hj]
  have hfind : (k.livePorts.find? fun q => (k.port q).works.any fun w => !w.ready && w.job.accs.any fun b => b.id == a.id) = some p :=
    find?_only hl (by rw [hw, List.any_cons, hwait]; rfl) fun q hq hne => by rw [ho q hq hne]; rfl
  have hgone : (k.oweFar { a with far := f }).listGone (k.listAt a.win) = false := hg
  have hrun : (k.oweFar { a with far := f }).mayRun (k.listAt a.win) { a with far := f } = false := by
    unfold Dev.mayRun
    split
    · rename_i bs hop
      rw [hc (by rw [show a.op = _ from hop]; rfl)]
      rfl
    · rfl
  have hp : (k.oweFar { a with far := f }).port p = k.port p := rfl
  unfold Dev.lineFor
  dsimp only
  rw [hfind]
  dsimp only
  rw [hu]
  dsimp only
  rw [if_neg (by rw [hgone]; exact Bool.false_ne_true), if_neg (by rw [hrun]; exact Bool.false_ne_true), port_modPort_same, hp]
  simp only [hw, List.map_cons, List.map_nil, hwait, if_true]

/-! ERR_MIRE_CLR (R206) -/

theorem mireWord (inb : Bool) {w : Nat} (hw : w < 4096) :
    (putBits (putBits 0 31 31 (if inb then 1 else 0)) 11 0 w).getLsbD 31 = inb ∧ bitsOf (putBits (putBits 0 31 31 (if inb then 1 else 0)) 11 0 w) 11 0 = w := by
  refine ⟨?_, ?_⟩
  · rw [getLsbD_eq_bit, bitsOf_putBits_ne _ _ (by decide) (by decide)]
    cases inb <;> decide
  · rw [bitsOf_putBits_same _ _ (by decide) (by decide)]
    exact Nat.mod_eq_of_lt hw

theorem swCmd_mire {d : Dev} {L : Locks} {src : Src} {inb : Bool} {w : Nat} (hw : w < 4096) (hg : d.lets src ⟨.ERR_MIRE_CLR, 0, 0⟩ = true) :
    (d.swCmd L src ⟨.ERR_MIRE_CLR, 0, 0⟩ fun c => putBits (putBits c 31 31 (if inb then 1 else 0)) 11 0 w) =
      ((d.written src ⟨.ERR_MIRE_CLR, 0, 0⟩).mireClear inb w).answered src := by
  obtain ⟨h1, h2⟩ := mireWord inb hw
  rw [swCmd_pulse (fits_pkg rfl (by decide) rfl) (show RegId.ERR_MIRE_CLR.pulse = true by decide) hg]
  simp only [Dev.writeHook, h1, h2]
  rfl

theorem mireClear_clears {d : Dev} {inb : Bool} {w : Nat} (h : d.mired inb w = true) (src : Src) :
    ((d.mireClear inb w).answered src).mired inb w = false ∧
      ((d.mireClear inb w).answered src).fld ERR_DEF_INFO.VALID 0 ((if inb then 4096 else 0) + w) = 0 := by
  have hwide : (statFld inb WIN_O_STAT.MIRE).wide = true := by cases inb <;> decide
  have hapart : ERR_DEF_INFO.VALID.apart (statFld inb WIN_O_STAT.MIRE) = true := by cases inb <;> decide
  have hm : ((d.mireClear inb w).answered src).fld (statFld inb WIN_O_STAT.MIRE) 0 w = 0 := by
    rw [fld_answered, Dev.mireClear, if_pos h, fld_setFld_apart _ _ _ _ _ _ hapart (by decide), fld_setFld _ _ _ _ hwide]
    rfl
  refine ⟨?_, ?_⟩
  · have hbit : bitsOf (((d.mireClear inb w).answered src).reg (winReg inb .WIN_O_STAT) 0 w) 31 31 = 0 := hm
    rw [Dev.mired, getLsbD_eq_bit, hbit]
    rfl
  · rw [fld_answered, Dev.mireClear, if_pos h, fld_setFld _ _ _ _ (by decide)]
    rfl

theorem mire_limit {d : Dev} {src : Src} {inb : Bool} {w : Nat} (ht : d.takes (.mireClear src inb w) = true) : w < 4096 := by
  simp only [Dev.takes, Instr.wf, Bool.and_eq_true, decide_eq_true_eq] at ht
  exact ht.1.2

/-! The statement -/

/-- What the two timers do where nothing has run out. -/
theorem runOut_none {d : Dev} {p idx : Nat} (h : (d.port p).runs[idx]? = none) : d.runOut p idx = d := by rw [Dev.runOut, h]

theorem pfAge_none {d : Dev} {p idx : Nat} (h : ∀ b, (d.port p).pf[idx]? = some b → b.want ≠ 0) : d.pfAge p idx = d := by
  unfold Dev.pfAge
  cases hb : (d.port p).pf[idx]? with
  | none => rfl
  | some b => exact if_neg (h b hb)

theorem prefetchAge_effect {d : Dev} {p idx : Nat} {b : PfBlock} (hb : (d.port p).pf[idx]? = some b) (hone : (d.port p).pf.filter (· == b) = [b])
    (hw : b.want = 0) (hr : d.Runs (dieOf p)) : ∃ e, d.timed (dieOf p) (fun d => d.pfAge p idx) = e ∧ (e.port p).pf = (d.port p).pf.filter (· != b) ∧
      (coveredBy b.used b.far b.data.length = true → ∀ k, e.queue (dieOf p) k = d.queue (dieOf p) k) ∧
      (coveredBy b.used b.far b.data.length = false → (d.queue (dieOf p) 61).extra = 0 → (d.queue (dieOf p) 61).used + 8 ≤ 8192 → ∃ w : List Word,
        (e.queue (dieOf p) 61).items = (d.queue (dieOf p) 61).items ++ [w] ∧ w.getD 1 0 = BitVec.ofNat 32 b.far ∧
          w.getD 3 0 = BitVec.ofNat 32 b.data.length ∧ bitsOf (w.getD 7 0) 31 24 = 1) := by
  obtain ⟨e, he, hpf, hq⟩ := pfAge_effect hb hone hw
  refine ⟨_, (timed_runs hr _).trans he, ?_, fun hc k => ?_, fun hc hx hroom => ?_⟩
  · rw [port_pfDiscard, hpf]
  · rw [pfDiscard_whole hc, hq]
  · simpa only [hq] using pfDiscard_logs (d := e) hc (by rw [hq]; exact hx) (by rw [hq]; exact hroom) (show 1 < 256 by decide)

/-- Settles O46. -/
theorem windowTimers : Obligations.WindowTimers := by
  unfold Obligations.WindowTimers
  intro s src port die id idx
  dsimp only
  refine ⟨fun hr => ⟨?_, ?_⟩, fun q hq hone hr hv => ?_, fun hq => ?_, fun b hb hw => ?_, fun b hb hone hw hr => ?_, fun hb => ?_, fun es => ?_,
    fun r hr hp => ⟨fun ha => ⟨fun es => ?_, ?_⟩, fun a w f es ha hl hw hready hj ho hg hc hu => ?_⟩, fun inb w hg => ⟨fun hm ht => ?_, fun hm ht => ?_⟩⟩
  · exact State.does_perform (by dsimp only [exec]; rfl) (timed_runs hr _)
  · exact State.does_perform (by dsimp only [exec]; rfl) (timed_runs hr _)
  · refine State.doesSome_perform (by dsimp only [exec]; rfl) ?_
    rw [timed_runs hr]
    exact runOut_effect hq hone hv
  · exact State.does_perform (by dsimp only [exec]; rfl) (timed_id _ (runOut_none hq))
  · exact State.does_perform (by dsimp only [exec]; rfl) (timed_id _ (pfAge_none fun c hc => by rwa [Option.some.inj (hc.symm.trans hb)]))
  · refine State.doesSome_perform (by dsimp only [exec]; rfl) ?_
    obtain ⟨e, he, h⟩ := prefetchAge_effect hb hone hw hr
    rw [he]
    exact h
  · exact State.does_perform (by dsimp only [exec]; rfl) (timed_id _ (pfAge_none fun c hc => by rw [hb] at hc; cases hc))
  · exact State.does_perform (by dsimp only [exec]; rfl) rfl
  · refine State.doesSome_perform (by dsimp only [exec]; rfl) ?_
    obtain ⟨c, k, -, -, hk, he⟩ := lineDone_effect hr hp (some es)
    rw [he, ha, List.foldl_nil, hk]
    exact ⟨rfl, rfl⟩
  · refine State.doesSome_perform (by dsimp only [exec]; rfl) ?_
    obtain ⟨c, k, -, -, hk, he⟩ := lineDone_effect hr hp none
    rw [he, ha, List.foldl_nil, hk]
    exact ⟨rfl, rfl⟩
  · refine State.doesSome_perform (by dsimp only [exec]; rfl) ?_
    obtain ⟨c, k, hs, hk, -, he⟩ := lineDone_effect hr hp (some es)
    obtain ⟨hlive, hport, hgone⟩ := lineSite hs hk
    rw [he, ha, List.foldl_cons, List.foldl_nil]
    exact lineFor_far (hlive ▸ hl) (by rw [hport]; exact hw) hready hj (fun q hq hne => by rw [hport]; exact ho q (hlive ▸ hq) hne)
      (by rw [hgone]; exact hg) hc hu
  · refine State.doesSome_perform (by dsimp only [exec]; rfl) ?_ ht
    rw [swCmd_mire (mire_limit ht) hg]
    exact mireClear_clears (d := s.dev.written src ⟨.ERR_MIRE_CLR, 0, 0⟩) hm src
  · refine State.does_perform (by dsimp only [exec]; rfl) ?_ ht
    rw [swCmd_mire (mire_limit ht) hg, Dev.mireClear, if_neg]
    rw [show (s.dev.written src ⟨.ERR_MIRE_CLR, 0, 0⟩).mired inb w = false from hm]
    exact Bool.false_ne_true

end Sys2Proof.Machine

/-! ## A register whose read clears some of its fields (R59) -/

namespace Sys2Proof.Machine

/-- Die 0 has been woken once: CLK_WAKE names the cause. -/
def wokenDie : Dev := (Dev.initial .ez2).setReg .CLK_WAKE 0 0 0x80000000#32

def clkWake0 : Loc := ⟨.CLK_WAKE, 0, 0⟩

/-- Refutes O21: CLK_WAKE is listed among the registers whose read changes nothing, but bits 31:27 of it are RC fields (R59, spec/15): a read of the
word clears the cause of the wake. -/
theorem not_registerReads : ¬ Obligations.RegisterReads := by
  unfold Obligations.RegisterReads
  intro ⟨_, _, h, _⟩
  obtain ⟨hstoring, -⟩ := h (atDev wokenDie) controller0 clkWake0 (by decide +kernel) (by decide) (by decide +kernel) (by decide +kernel)
    (by decide +kernel) (by decide +kernel)
  have hwake := viewNext_of_does (hstoring (by decide)) (by decide +kernel) fun d => d.at clkWake0
  exact absurd hwake (by decide +kernel)

end Sys2Proof.Machine

/-! ## Resets of a die (R358, R71) -/

namespace Sys2Proof.Machine

/-! What the reset of a core domain leaves -/

/-- The registers of a die that tell of its reset and of its rejected accesses. -/
def dieTold : List RegId := [.DIE_ACC_ERR_INFO, .DIE_SVC_STAT]

/-- Those registers, the dies away, the banks retired and the lead's order are as they were. -/
structure DieRest (d e : Dev) : Prop where
  regs : ∀ l : Loc, l.reg ∈ dieTold → e.at l = d.at l
  away : e.away = d.away
  banks : e.banks = d.banks
  log : e.cfgLog = d.cfgLog

namespace DieRest
variable {d e c : Dev}

theorem refl (d : Dev) : DieRest d d := ⟨fun _ _ => rfl, rfl, rfl, rfl⟩

theorem trans (h : DieRest d e) (h' : DieRest e c) : DieRest d c :=
  ⟨fun l hl => (h'.regs l hl).trans (h.regs l hl), h'.away.trans h.away, h'.banks.trans h.banks, h'.log.trans h.log⟩

theorem foldl {α : Type} {f : Dev → α → Dev} : ∀ (xs : List α), (∀ a ∈ xs, ∀ d, DieRest d (f d a)) → ∀ d : Dev, DieRest d (xs.foldl f d)
  | [], _, d => refl d
  | x :: xs, hf, d => (hf x List.mem_cons_self d).trans (foldl xs (fun a ha => hf a (List.mem_cons_of_mem x ha)) (f d x))

theorem put (d : Dev) {l : Loc} (h : l.reg ∉ dieTold) (w : Word) : DieRest d (d.put l w) :=
  ⟨fun _ hk => Dev.at_put_ne _ (by rintro rfl; exact h hk) _, rfl, rfl, rfl⟩

theorem setReg (d : Dev) {r : RegId} (h : r ∉ dieTold) (u i : Nat) (w : Word) : DieRest d (d.setReg r u i w) := put d h w

theorem setFld (d : Dev) {f : Fld} (h : f.reg ∉ dieTold) (u i v : Nat) : DieRest d (d.setFld f u i v) := setReg d h u i _

end DieRest

theorem queue_modQueue_apart (d : Dev) {x k y q : Nat} (h : ¬(y = x ∧ q = k)) (f : QState → QState) : (d.modQueue x k f).queue y q = d.queue y q := by
  unfold Dev.modQueue Dev.queue
  exact Store.get_set_ne ({} : QState) {} (k := ⟨x, k, 0⟩) (k' := ⟨y, q, 0⟩) (by simpa using h) _ _

/-- The queues other than that of events, and the page lines, are as they were besides. -/
structure DieKept (d e : Dev) : Prop where
  rest : DieRest d e
  queues : ∀ x q, q ≠ 62 → e.queue x q = d.queue x q
  tcache : e.tcache = d.tcache

namespace DieKept
variable {d e c : Dev}

theorem refl (d : Dev) : DieKept d d := ⟨.refl d, fun _ _ _ => rfl, rfl⟩

theorem trans (h : DieKept d e) (h' : DieKept e c) : DieKept d c :=
  ⟨h.rest.trans h'.rest, fun x q hq => (h'.queues x q hq).trans (h.queues x q hq), h'.tcache.trans h.tcache⟩

theorem foldl {α : Type} {f : Dev → α → Dev} (hf : ∀ d a, DieKept d (f d a)) : ∀ (xs : List α) (d : Dev), DieKept d (xs.foldl f d)
  | [], d => refl d
  | x :: xs, d => (hf d x).trans (foldl hf xs (f d x))

theorem ite {P : Prop} [Decidable P] {a b : Dev} (ha : DieKept d a) (hb : DieKept d b) : DieKept d (if P then a else b) := by
  split
  · exact ha
  · exact hb

theorem put (d : Dev) {l : Loc} (h : l.reg ∉ dieTold) (w : Word) : DieKept d (d.put l w) := ⟨.put d h w, fun _ _ _ => rfl, rfl⟩

theorem setFld (d : Dev) {f : Fld} (h : f.reg ∉ dieTold) (u i v : Nat) : DieKept d (d.setFld f u i v) := ⟨.setFld d h u i v, fun _ _ _ => rfl, rfl⟩

theorem leadCopy (h : DieKept d e) (c : Store (Option Word)) : DieKept d { e with leadCopy := c } :=
  ⟨⟨h.rest.regs, h.rest.away, h.rest.banks, h.rest.log⟩, h.queues, h.tcache⟩

theorem raise (d : Dev) (x cls : Nat) (l : Loc) (b s : Nat) : DieKept d (d.raise x cls l b s) :=
  ⟨⟨fun _ _ => rfl, rfl, rfl, rfl⟩, fun _ _ hq => queue_modQueue_apart d (fun h => hq h.2) _, rfl⟩

end DieKept

/-! The bonds of its tiles -/

theorem dieKept_setBond (d : Dev) (p st : Nat) (a : Bool) : DieKept d (d.setBond p st a) := by
  have h : DieKept d ((d.setFld TIL_BOND.STATE p 0 st).setFld TIL_BOND.ANCHOR p 0 (if a then 1 else 0)) :=
    (DieKept.setFld d (f := TIL_BOND.STATE) (by decide) p 0 st).trans (DieKept.setFld _ (f := TIL_BOND.ANCHOR) (by decide) p 0 _)
  exact .ite h (h.trans (.raise ..))

theorem dieKept_bondSync (d : Dev) (p : Nat) : DieKept d (d.bondSync p) :=
  .ite (.refl d) (.ite ((dieKept_setBond ..).trans (dieKept_setBond ..)) (.ite (.ite (dieKept_setBond ..) (.refl d)) (.refl d)))

theorem dieKept_moveBack (d : Dev) (p : Nat) : DieKept d (d.moveBack p) := by
  have h : DieKept d (if d.fld TIL_SVC_STAT.CARRIER p = partnerTile p then d.setFld TIL_SVC_STAT.CARRYING (d.fld TIL_SVC_STAT.CARRIER p) 0 0 else d) :=
    .ite (.setFld d (by decide) ..) (.refl d)
  exact ((h.trans (.setFld _ (by decide) ..)).trans (.setFld _ (by decide) ..)).trans (dieKept_bondSync ..)

/-! Records of the ledger -/

theorem dieKept_ledgerAppend (d : Dev) (x : Nat) (r : LedgerRec) : DieKept d (d.ledgerAppend x r) := by
  have hflash : ∀ (e : Dev) f, DieKept e { e with flash := f } := fun e f => ⟨⟨fun _ _ => rfl, rfl, rfl, rfl⟩, fun _ _ _ => rfl, rfl⟩
  refine .ite (.ite ((DieKept.setFld d (f := MC_FLASH_STAT.WRITE_ERR) (by decide) x 0 1).trans (.raise ..)) ?_) (.refl d)
  exact ((DieKept.ite (hflash d _) (.refl d)).trans (hflash _ _)).trans (.setFld _ (by decide) ..)

theorem dieKept_ledgerWrite (d : Dev) (r : LedgerRec) : DieKept d (d.ledgerWrite r) := by
  have hdraw : DieKept d d.draw.2 := ⟨⟨fun _ _ => rfl, rfl, rfl, rfl⟩, fun _ _ _ => rfl, rfl⟩
  have hput : ∀ (e : Dev) y, DieKept e (e.ledgerAppend y { r with boot := e.fen.boot, time := d.draw.1 }) := fun e y => dieKept_ledgerAppend ..
  have h := hdraw.trans (DieKept.foldl hput d.draw.2.ledgerDies d.draw.2)
  exact .ite (h.trans ⟨⟨fun _ _ => rfl, rfl, rfl, rfl⟩, fun _ _ _ => rfl, rfl⟩) h

theorem dieKept_modClk (d : Dev) (x : Nat) (f : Clock → Clock) : DieKept d (d.modClk x f) := ⟨⟨fun _ _ => rfl, rfl, rfl, rfl⟩, fun _ _ _ => rfl, rfl⟩

/-! Its registers -/

theorem not_told_of_isP {r : RegId} (h : r.isP = true) : r ∉ dieTold := fun hr => by
  rcases List.mem_cons.mp hr with rfl | hr
  · exact absurd h (by decide)
  · rw [List.mem_singleton.mp hr] at h
    exact absurd h (by decide)

theorem dieKept_putP (d : Dev) {l : Loc} (h : l.reg ∉ dieTold) (w : Word) : DieKept d (d.putP l w) := .put d h _

theorem dieKept_reloadP (d : Dev) (x : Nat) : DieKept d (d.reloadP x) := by
  have hcfg : ∀ (e : Dev) (k : Nat × Nat), DieKept e (match cfgOfKey k.1 with | some r => e.putP ⟨r, x, k.2⟩ (e.reg r (d.copyOf x) k.2) | none => e) :=
    fun e k => by
      cases hr : cfgOfKey k.1 with
      | none => exact .refl e
      | some r => exact dieKept_putP e (l := ⟨r, x, k.2⟩) (not_told_of_isP (Bool.and_eq_true .. ▸ Bool.and_eq_true .. ▸ List.find?_some hr).1.2) _
  unfold Dev.reloadP
  dsimp only
  refine DieKept.trans ?_ (DieKept.foldl (fun e k => ?_) _ _)
  · exact (DieKept.foldl hcfg _ d).trans ⟨⟨fun _ _ => rfl, rfl, rfl, rfl⟩, fun _ _ _ => rfl, rfl⟩
  · split
    · exact .refl e
    · split
      · rename_i r hr
        by_cases hr : r.isP = true
        · exact .ite (.leadCopy (dieKept_putP e (not_told_of_isP hr) _) _) (.refl e)
        · rw [if_neg (by simp [hr])]
          exact .refl e
      · exact .refl e

theorem get_filter_of_all {V : Type} (dflt : V) {p : Key × V → Bool} {k : Key} : ∀ m : Store V, (∀ v, p (k, v) = true) →
    Store.get dflt k (m.filter p) = Store.get dflt k m
  | [], _ => rfl
  | (k', v) :: m, h => by
    by_cases hk : k' = k
    · subst hk
      rw [List.filter_cons_of_pos (h v), Store.get, Store.get, if_pos rfl, if_pos rfl]
    · cases hp : p (k', v)
      · rw [List.filter_cons_of_neg (by rw [hp]; exact Bool.false_ne_true), get_filter_of_all dflt m h, Store.get, if_neg hk]
      · rw [List.filter_cons_of_pos hp, Store.get, Store.get, if_neg hk, if_neg hk, get_filter_of_all dflt m h]

theorem dieKept_monReset (d : Dev) (x : Nat) : DieKept d (d.monReset x) := by
  refine ⟨⟨fun l hl => ?_, rfl, rfl, rfl⟩, fun _ _ _ => rfl, rfl⟩
  have hraw : (d.monReset x).raw l = d.raw l := get_filter_of_all _ d.regs fun w => by
    rcases List.mem_cons.mp hl with h | h
    · simp [Loc.key, h, RegId.ctorIdx]
    · simp [Loc.key, List.mem_singleton.mp h, RegId.ctorIdx]
  unfold Dev.at
  rw [hraw]
  rfl

/-! Registers that are reset -/

/-- A fold whose every step keeps a fact, and of which one step brings it about, ends with it. -/
theorem foldl_brings {α β : Type} {P : α → Prop} {f : α → β → α} : ∀ (xs : List β), (∀ b ∈ xs, ∀ a, P a → P (f a b)) →
    (∃ b ∈ xs, ∀ a, P (f a b)) → ∀ a, P (xs.foldl f a)
  | [], _, ⟨_, hb, _⟩, _ => absurd hb List.not_mem_nil
  | x :: xs, hk, ⟨b, hb, hP⟩, a => by
    have hrest : ∀ b ∈ xs, ∀ a, P a → P (f a b) := fun b hb => hk b (List.mem_cons_of_mem x hb)
    rcases List.mem_cons.mp hb with rfl | hb
    · exact List.foldlRecOn xs f (hP a) fun a ha b hb => hrest b hb a ha
    · exact foldl_brings xs hrest ⟨b, hb, hP⟩ (f a x)

theorem merged_none (a b : Word) : merged a b 0#32 = a := by rw [merged, BitVec.not_zero, BitVec.and_allOnes, BitVec.and_zero, BitVec.or_zero]

theorem at_resetLoc_same (d : Dev) (l : Loc) (h : l.reg.pMask = 0) : (d.resetLoc l).at l = l.resetWord := by
  rw [Dev.resetLoc, Dev.at_put_same, h]
  exact merged_none _ _

theorem at_unprotected (d : Dev) {l : Loc} (h : l.reg.pMask = 0) : d.at l = d.raw l := by
  unfold Dev.at
  split
  · rfl
  · rw [h]
    exact merged_none _ _

theorem get_absent {V : Type} (dflt : V) {k : Key} : ∀ {m : Store V}, (∀ e ∈ m, e.1 ≠ k) → Store.get dflt k m = dflt
  | [], _ => rfl
  | e :: m, h => by
    rw [Store.get, if_neg (h e List.mem_cons_self)]
    exact get_absent dflt fun e he => h e (List.mem_cons_of_mem _ he)

/-- A register that is not protected reads its reset value once its domain has been reset. -/
theorem at_resetRegs (d : Dev) {rs : List RegId} {l : Loc} (hl : l.reg ∈ rs) (hp : l.reg.pMask = 0) : (d.resetRegs rs l.u).at l = l.resetWord := by
  have hkeep : ∀ (k : Loc) (e : Dev), e.at l = l.resetWord → (e.resetLoc k).at l = l.resetWord := fun k e he => by
    by_cases hk : l = k
    · rw [← hk, at_resetLoc_same _ _ hp]
    · exact (Dev.at_put_ne _ hk _).trans he
  unfold Dev.resetRegs
  dsimp only
  by_cases hin : ∃ e ∈ d.regs, e.1 = l.key
  · obtain ⟨e, he, hk⟩ := hin
    refine foldl_brings (P := fun e : Dev => e.at l = l.resetWord) _ 
      (fun r _ e he => List.foldlRecOn (motive := fun e : Dev => e.at l = l.resetWord) _ _ he fun c hc k _ => hkeep _ c hc) ⟨l.reg, hl, fun c => ?_⟩ d
    refine foldl_brings (P := fun e : Dev => e.at l = l.resetWord) _ (fun k _ e he => hkeep _ e he) ⟨e, ?_, fun c => ?_⟩ c
    · simp [List.mem_filter, he, hk, Loc.key]
    · rw [hk]
      exact at_resetLoc_same _ _ hp
  · have h0 : d.at l = l.resetWord := by
      rw [at_unprotected d hp]
      exact get_absent _ fun e he hk => hin ⟨e, he, hk⟩
    exact List.foldlRecOn (motive := fun e : Dev => e.at l = l.resetWord) _ _ h0 fun e he r _ =>
      List.foldlRecOn (motive := fun e : Dev => e.at l = l.resetWord) _ _ he fun e he k _ => hkeep _ e he

theorem at_resetRegs_apart (d : Dev) {rs : List RegId} (u : Nat) {l : Loc} (h : l.reg ∉ rs) : (d.resetRegs rs u).at l = d.at l :=
  foldl_kept_on (Dev.at · l) rs (fun r hr e => foldl_kept_on (Dev.at · l) _ (fun _ _ e => Dev.at_put_ne e (by rintro rfl; exact h hr) _) e) d

theorem resetRegs_frame {α : Type} (P : Dev → α) (h : ∀ (d : Dev) r u, P { d with regs := r, upsets := u } = P d) (d : Dev) (rs : List RegId) (u : Nat) :
    P (d.resetRegs rs u) = P d :=
  foldl_kept P (fun e _ => foldl_kept P (fun c _ => h c _ _) _ e) rs d

theorem dieRest_resetRegs (d : Dev) (rs : List RegId) (u : Nat) (h : ∀ r ∈ rs, r ∉ dieTold) : DieRest d (d.resetRegs rs u) :=
  .foldl _ (fun r hr e => .foldl _ (fun _ _ e => .put e (h r hr) _) e) d

/-! A tile that is cleared -/

theorem dieRest_frame {d e : Dev} (h : (e.regs, e.upsets) = (d.regs, d.upsets)) (k : (e.away, e.banks, e.cfgLog) = (d.away, d.banks, d.cfgLog)) : DieRest d e := by
  simp only [Prod.mk.injEq] at h k
  exact ⟨fun l _ => Dev.at_congr h.1 h.2 l, k.1, k.2.1, k.2.2⟩

/-- The words of a record of discarded data. -/
def pfWords (p : Nat) (b : PfBlock) (reason : Nat) : List Word :=
  [BitVec.ofNat 32 (0x10000000 + (if b.win.inb then 2 ^ 27 else 0) + p * 2 ^ 18 + b.win.num), BitVec.ofNat 32 b.far, BitVec.ofNat 32 (b.far / 2 ^ 32),
    BitVec.ofNat 32 b.data.length, BitVec.ofNat 32 (usedMask b), BitVec.ofNat 32 (usedMask b / 2 ^ 32), crc32 b.data, BitVec.ofNat 32 (reason * 2 ^ 24)]

theorem dieRest_pfDrop (d : Dev) (p : Nat) (f : PfBlock → Bool) (reason : Nat) : DieRest d (d.pfDrop p f reason) := by
  have hpush : ∀ (e : Dev) x w, DieRest e (e.pushDrop x 61 TC_PFD_STAT.LOST x 0 w).2 := fun e x w => by
    unfold Dev.pushDrop
    dsimp only
    split
    · exact dieRest_frame rfl rfl
    · exact DieRest.setFld e (f := TC_PFD_STAT.LOST) (by decide) x 0 _
  have hone : ∀ (e : Dev) b, DieRest e (e.pfDiscard p b reason) := fun e b => by
    unfold Dev.pfDiscard
    dsimp only
    split
    · exact .refl e
    · obtain ⟨c, hc⟩ : ∃ c, c = e.pushDrop (dieOf p) 61 TC_PFD_STAT.LOST (dieOf p) 0 (pfWords p b reason) := ⟨_, rfl⟩
      have h : DieRest e c.2 := by rw [hc]; exact hpush ..
      show DieRest e (if (e.pushDrop (dieOf p) 61 TC_PFD_STAT.LOST (dieOf p) 0 (pfWords p b reason)).1 then
        (e.pushDrop (dieOf p) 61 TC_PFD_STAT.LOST (dieOf p) 0 (pfWords p b reason)).2.raise (dieOf p) evPfd ⟨.TC_PFD_STAT, dieOf p, 0⟩ 16 p else
        (e.pushDrop (dieOf p) 61 TC_PFD_STAT.LOST (dieOf p) 0 (pfWords p b reason)).2)
      rw [← hc]
      split
      · exact h.trans (dieRest_frame rfl rfl)
      · exact h
  exact (dieRest_frame (d := d) (e := d.modPort p _) rfl rfl).trans (.foldl _ (fun b _ e => hone e b) _)

theorem dieRest_reloadTile (d : Dev) (p : Nat) : DieRest d (d.reloadTile p) := by
  refine .foldl _ (fun k _ e => ?_) d
  split
  · rename_i w r hw hr
    by_cases hp : r.isP = true
    · split
      · exact ((dieKept_putP e (l := ⟨r, p, k.1.c⟩) (not_told_of_isP hp) w).leadCopy _).rest
      · exact .refl e
    · rw [if_neg (by simp [hp])]
      exact .refl e
  · exact .refl e

theorem dieRest_tileClear (d : Dev) (p : Nat) : DieRest d (d.tileClear p) := by
  have h1 := dieRest_resetRegs d tileDomain p (by decide)
  obtain ⟨a, ha⟩ : ∃ a, a = (d.resetRegs tileDomain p).freshBlock (16 + p) := ⟨_, rfl⟩
  have h2 : DieRest d a := by rw [ha]; exact h1.trans (dieRest_frame rfl rfl)
  obtain ⟨b, hb⟩ : ∃ b, b = ((a.setFld TIL_SVC_STAT.LAST_REFUSAL p 0 0).setFld TIL_SVC_STAT.FAULTS p 0 0).setFld TIL_SVC_STAT.EVACS p 0 0 := ⟨_, rfl⟩
  have h3 : DieRest a b := by
    rw [hb]
    exact ((DieRest.setFld a (f := TIL_SVC_STAT.LAST_REFUSAL) (by decide) ..).trans (.setFld _ (f := TIL_SVC_STAT.FAULTS) (by decide) ..)).trans
      (.setFld _ (f := TIL_SVC_STAT.EVACS) (by decide) ..)
  obtain ⟨c, hc⟩ : ∃ c, c = (b.setFld TIL_BOND.CFG_REFUSED p 0 0).pfDrop p (fun _ => true) 5 := ⟨_, rfl⟩
  have h4 : DieRest b c := by
    rw [hc]
    exact (DieRest.setFld b (f := TIL_BOND.CFG_REFUSED) (by decide) ..).trans (dieRest_pfDrop ..)
  have h5 : DieRest c ((c.setReg .DIE_Q_STAT (dieOf p) (p % 8) 0).setReg .DIE_Q_STAT (dieOf p) (8 + p % 8) 0) :=
    (DieRest.setReg c (r := .DIE_Q_STAT) (by decide) ..).trans (.setReg _ (r := .DIE_Q_STAT) (by decide) ..)
  unfold Dev.tileClear
  dsimp only
  rw [← ha, ← hb, ← hc]
  refine (((h2.trans h3).trans h4).trans (h5.trans ?_)).trans (dieRest_reloadTile ..)
  exact dieRest_frame rfl rfl

/-! The end of draining (R358) -/

theorem queues_emptied (d : Dev) (x : Nat) {q : Nat} (hq : q < 64) : ((List.range 64).foldl (fun d q => d.modQueue x q fun _ => {}) d).queue x q = {} := by
  refine foldl_brings (P := fun e : Dev => e.queue x q = {}) _ (fun k _ e he => ?_) ⟨q, List.mem_range.mpr hq, fun e => queue_modQueue_same ..⟩ d
  by_cases hk : x = x ∧ q = k
  · rw [hk.2]
    exact queue_modQueue_same ..
  · exact (queue_modQueue_apart e hk _).trans he

theorem bankMask_setBanks (d : Dev) (x m : Nat) : (d.setBanks x m).bankMask x = m := Store.get_set_same 0 _ _ _

theorem dieRest_freshBanks (d : Dev) (x b m : Nat) : (∀ l : Loc, l.reg ∈ dieTold → ((d.freshBlock b).setBanks x m).at l = d.at l) ∧
    ((d.freshBlock b).setBanks x m).away = d.away ∧ ((d.freshBlock b).setBanks x m).cfgLog = d.cfgLog :=
  ⟨fun _ hl => Dev.at_setFld_ne _ DIE_SRAM_STAT.RETIRED _ _ _ (by rintro rfl; exact absurd (show RegId.DIE_SRAM_STAT ∈ dieTold from hl) (by decide)), rfl, rfl⟩

/-- The die before it serves again: its rejected accesses released, its failed banks retired, its queues empty, its page lines gone. -/
structure DieFresh (d e : Dev) (x bad : Nat) : Prop where
  info : e.at ⟨.DIE_ACC_ERR_INFO, x, 0⟩ = 0
  stat : e.at ⟨.DIE_SVC_STAT, x, 0⟩ = d.at ⟨.DIE_SVC_STAT, x, 0⟩
  away : e.away = d.away
  log : e.cfgLog = d.cfgLog
  bank : e.bankMask x = bad
  lines : (e.tc x).lines = []
  queues : ∀ q, q < 64 → q ≠ 62 → e.queue x q = {}

theorem DieFresh.kept {d e c : Dev} {x bad : Nat} (h : DieFresh d e x bad) (k : DieKept e c) : DieFresh d c x bad :=
  ⟨(k.rest.regs _ (.head _)).trans h.info, (k.rest.regs _ (.tail _ (.head _))).trans h.stat, k.rest.away.trans h.away, k.rest.log.trans h.log,
    by rw [Dev.bankMask, k.rest.banks]; exact h.bank, by rw [Dev.tc, k.tcache]; exact h.lines, fun q hq hne => (k.queues x q hne).trans (h.queues q hq hne)⟩

theorem dieFresh_emptied (d : Dev) (x bad : Nat) :
    DieFresh d ((List.range 64).foldl (fun d q => d.modQueue x q fun _ => {})
      (((tilesOf x).foldl (fun d p => d.tileClear p) (((d.resetRegs dieDomain x).freshBlock (1 + x)).setBanks x bad)).modTc x
        fun t => { t with lines := [], reads := t.reads.map fun r => { r with keep := false } })) x bad := by
  obtain ⟨a, ha⟩ : ∃ a, a = ((d.resetRegs dieDomain x).freshBlock (1 + x)).setBanks x bad := ⟨_, rfl⟩
  obtain ⟨hreg, haway, hlog⟩ := dieRest_freshBanks (d.resetRegs dieDomain x) x (1 + x) bad
  rw [← ha] at hreg haway hlog ⊢
  have hstat : a.at ⟨.DIE_SVC_STAT, x, 0⟩ = d.at ⟨.DIE_SVC_STAT, x, 0⟩ :=
    (hreg _ (.tail _ (.head _))).trans (at_resetRegs_apart d x (show RegId.DIE_SVC_STAT ∉ dieDomain by decide))
  have hinfo : a.at ⟨.DIE_ACC_ERR_INFO, x, 0⟩ = 0 :=
    (hreg _ (.head _)).trans (at_resetRegs d (l := ⟨.DIE_ACC_ERR_INFO, x, 0⟩) (show RegId.DIE_ACC_ERR_INFO ∈ dieDomain by decide) rfl)
  have hbank : a.bankMask x = bad := by rw [ha]; exact bankMask_setBanks ..
  obtain ⟨b, hb⟩ : ∃ b, b = (tilesOf x).foldl (fun d p => d.tileClear p) a := ⟨_, rfl⟩
  have hab : DieRest a b := by rw [hb]; exact .foldl _ (fun p _ e => dieRest_tileClear e p) a
  rw [← hb]
  have hkept : ∀ {α : Type} (P : Dev → α), (∀ (d : Dev) q t, P { d with queues := q, tcache := t } = P d) →
      P ((List.range 64).foldl (fun d q => d.modQueue x q fun _ => {}) (b.modTc x fun t =>
        { t with lines := [], reads := t.reads.map fun r => { r with keep := false } })) = P b := fun P h =>
    (foldl_kept P (fun e _ => h e _ e.tcache) _ _).trans (h b b.queues _)
  refine ⟨(hkept (Dev.at · _) fun _ _ _ => rfl).trans ((hab.regs _ (.head _)).trans hinfo),
    (hkept (Dev.at · _) fun _ _ _ => rfl).trans ((hab.regs _ (.tail _ (.head _))).trans hstat),
    (hkept Dev.away fun _ _ _ => rfl).trans (hab.away.trans (haway.trans (resetRegs_frame Dev.away (fun _ _ _ => rfl) d dieDomain x))),
    (hkept Dev.cfgLog fun _ _ _ => rfl).trans (hab.log.trans (hlog.trans (resetRegs_frame Dev.cfgLog (fun _ _ _ => rfl) d dieDomain x))),
    (hkept (Dev.bankMask · x) fun _ _ _ => rfl).trans ?_, ?_, fun q hq _ => queues_emptied _ x hq⟩
  · rw [Dev.bankMask, hab.banks]
    exact hbank
  · refine (congrArg TCache.lines (foldl_kept (step := fun d q => d.modQueue x q fun _ => {}) (fun e : Dev => e.tc x) (fun _ _ => rfl) _ _)).trans ?_
    rw [tc_modTc_same]

theorem fld_mcLoading_role (d : Dev) (x image : Nat) : (d.mcLoading x image).fld MC_ROLE.ROLE x = 0 := by
  refine (foldl_kept (fun e : Dev => e.fld MC_ROLE.ROLE x) (fun e y => ?_) _ _).trans ?_
  · rw [fld_setFld_apart _ (f := MC_ROLE.LEAD) (g := MC_ROLE.ROLE) _ _ _ _ _ (by decide) (by decide),
      fld_setFld_apart _ (f := MC_ROLE.DEPUTY) (g := MC_ROLE.ROLE) _ _ _ _ _ (by decide) (by decide)]
  · exact fld_setFld d (f := MC_ROLE.ROLE) x 0 0 (by decide)

theorem dieKept_mcLoading (d : Dev) (x image : Nat) : DieKept d (d.mcLoading x image) := by
  have h : DieKept d { d.setFld MC_ROLE.ROLE x 0 0 with mcLoad := d.mcLoad.set none ⟨x, 0, 0⟩ (some (image, false)) } :=
    (DieKept.setFld d (f := MC_ROLE.ROLE) (by decide) x 0 0).trans ⟨⟨fun _ _ => rfl, rfl, rfl, rfl⟩, fun _ _ _ => rfl, rfl⟩
  exact h.trans (.foldl (fun e y => (DieKept.setFld e (f := MC_ROLE.DEPUTY) (by decide) y 0 _).trans (.setFld _ (f := MC_ROLE.LEAD) (by decide) y 0 _)) _ _)

/-- The end of draining (R358): the die serves again, RESETS counts. -/
theorem dieDrained_effect {d : Dev} {x bad : Nat} (h : d.dieMayReset x = true) (hlog : d.cfgLog = []) (hbad : bad < 2 ^ 96) :
    (d.dieDrained x bad).fld DIE_SVC_STAT.STATE x = 0 ∧
      (d.dieDrained x bad).fld DIE_SVC_STAT.RESETS x = min (d.fld DIE_SVC_STAT.RESETS x + 1) 255 ∧ x ∉ (d.dieDrained x bad).away ∧
      (∀ q : Nat, q < 64 → q ≠ 62 → (d.dieDrained x bad).queue x q = {}) ∧ ((d.dieDrained x bad).tc x).lines = [] ∧
      (d.dieDrained x bad).reg .DIE_ACC_ERR_INFO x = 0 ∧ (d.dieDrained x bad).bankMask x = bad ∧ (d.dieDrained x bad).fld MC_ROLE.ROLE x = 0 := by
  have hfresh := dieFresh_emptied d x bad
  obtain ⟨a, ha⟩ : ∃ a, a = (((List.range 64).foldl (fun d q => d.modQueue x q fun _ => {})
      (((tilesOf x).foldl (fun d p => d.tileClear p) (((d.resetRegs dieDomain x).freshBlock (1 + x)).setBanks x bad)).modTc x
        fun t => { t with lines := [], reads := t.reads.map fun r => { r with keep := false } })).monReset x) := ⟨_, rfl⟩
  have hfa : DieFresh d (a.reloadP x) x bad := by rw [ha]; exact (hfresh.kept (dieKept_monReset ..)).kept (dieKept_reloadP ..)
  obtain ⟨b, hb⟩ : ∃ b, b = ({ a.reloadP x with away := a.away.filter fun y => y != x } : Dev) := ⟨_, rfl⟩
  obtain ⟨c, hc⟩ : ∃ c, c = (b.setFld DIE_SVC_STAT.STATE x 0 0).bump DIE_SVC_STAT.RESETS x := ⟨_, rfl⟩
  have he : ∃ k e image, DieKept c k ∧ e = k.mcLoading x image ∧ d.dieDrained x bad = e := by
    unfold Dev.dieDrained
    rw [if_pos h]
    dsimp only
    rw [Nat.mod_eq_of_lt hbad, ← ha]
    rw [← hb, applyTo_none (by rw [hb]; exact hfa.log.trans hlog), ← hc]
    refine ⟨_, _, _, ?_, rfl, rfl⟩
    have htiles := DieKept.foldl (f := fun (d : Dev) p => if d.fld TIL_SVC_STAT.STATE p = 0 then d.bondSync p else d.moveBack p)
      (fun e p => .ite (dieKept_bondSync e p) (dieKept_moveBack e p)) (tilesOf x) c
    have hrec := fun f => (htiles.trans (dieKept_modClk _ x f)).trans (dieKept_ledgerWrite _ { kind := 9, step := 3, die := x })
    exact .ite (hrec _) ((hrec _).trans (dieKept_ledgerWrite ..))
  obtain ⟨k, e, image, hck, hek, hde⟩ := he
  have hce : DieKept c e := hck.trans (by rw [hek]; exact dieKept_mcLoading ..)
  have hstat : ∀ f : Fld, f.reg = .DIE_SVC_STAT → e.fld f x = c.fld f x := fun f hf => fld_of_at (hce.rest.regs _ (by rw [hf]; exact .tail _ (.head _)))
  have hbd : ∀ f : Fld, f.reg = .DIE_SVC_STAT → b.fld f x = d.fld f x := fun f hf => by
    rw [hb]
    exact fld_of_at (by rw [hf]; exact hfa.stat)
  rw [hde]
  refine ⟨?_, ?_, ?_, fun q hq hne => ?_, ?_, ?_, ?_, ?_⟩
  · rw [hstat _ rfl, hc, fld_bump_apart _ (f := DIE_SVC_STAT.RESETS) (g := DIE_SVC_STAT.STATE) _ _ _ _ (by decide) (by decide), fld_setFld _ _ _ _ (by decide)]
    rfl
  · rw [hstat _ rfl, hc, fld_bump _ _ _ (by decide), fld_setFld_apart _ _ _ _ _ _ (by decide) (by decide), hbd _ rfl]
    rfl
  · rw [hce.rest.away, hc, hb]
    simp
  · rw [hce.queues x q hne, hc, hb]
    exact hfa.queues q hq hne
  · rw [Dev.tc, hce.tcache, hc, hb]
    exact hfa.lines
  · refine (hce.rest.regs ⟨.DIE_ACC_ERR_INFO, x, 0⟩ (.head _)).trans ?_
    rw [hc, hb, at_bump_ne _ _ _ _ (by simp), Dev.at_setFld_ne _ _ _ _ _ (by simp)]
    exact hfa.info
  · rw [Dev.bankMask, hce.rest.banks, hc, hb]
    exact hfa.bank
  · rw [hek]
    exact fld_mcLoading_role ..

/-! DIE_SVC.RESET (R358) -/

theorem swCmd_dieReset {d : Dev} {L : Locks} {src : Src} {x : Nat} (hx : x < d.n) (hg : d.lets src ⟨.DIE_SVC, x, 0⟩ = true) :
    ∃ b v, d.swCmd L src ⟨.DIE_SVC, x, 0⟩ (fun c => putBits c 0 0 1) = ((d.commanded src ⟨.DIE_SVC, x, 0⟩ b v).dieReset x).answered src := by
  obtain ⟨b, v, hv, he⟩ := swCmd_dieSvc (L := L) (k := 0) hx hg
  exact ⟨b, v, he.trans (by rw [Dev.dieSvc, hv (by decide)]; rfl)⟩

/-- A write of a register without protected fields leaves every other one, the seal's among them. -/
theorem at_commanded_unprotected (d : Dev) (src : Src) {k l : Loc} (b : Bool) (v : Word) (hp : k.reg.pMask = 0) (h : l ≠ k) :
    (d.commanded src k b v).at l = d.at l := by
  have hm : ∀ m : Word, (m &&& k.reg.pMask != 0#32) = false := fun m => by rw [hp]; simp
  unfold Dev.commanded Dev.stored
  split
  · rfl
  · rw [hm, if_neg Bool.false_ne_true]
    exact Dev.at_put_ne _ h _

/-- The state in which DIE_SVC of a die has been written. -/
structure SvcWritten (d c : Dev) (x : Nat) : Prop where
  regs : ∀ k : Loc, k ≠ ⟨.DIE_SVC, x, 0⟩ → c.at k = d.at k
  lead : c.lead = d.lead
  away : c.away = d.away
  n : c.n = d.n

theorem svcWritten_commanded (d : Dev) (src : Src) (x : Nat) (b : Bool) (v : Word) : SvcWritten d (d.commanded src ⟨.DIE_SVC, x, 0⟩ b v) x :=
  ⟨fun _ hk => at_commanded_unprotected d src b v (show RegId.DIE_SVC.pMask = 0 by decide) hk, commanded_of_regs Dev.lead (fun _ _ _ _ => rfl) .., commanded_of_regs Dev.away (fun _ _ _ _ => rfl) ..,
    n_commanded ..⟩

section
variable {d c : Dev} {x : Nat} (h : SvcWritten d c x)
include h

theorem SvcWritten.fld {f : Fld} (hf : f.reg ≠ .DIE_SVC) (u i : Nat) : c.fld f u i = d.fld f u i :=
  fld_of_at (h.regs _ fun hk => hf (congrArg Loc.reg hk))

/-- A tile is out of service: EVACUATED or FAILED. -/
theorem SvcWritten.out : ((tilesOf x).any fun p => (let s := c.fld TIL_SVC_STAT.STATE p; s == 2 || s == 5)) =
    (tilesOf x).any fun p => d.fld TIL_SVC_STAT.STATE p == 2 || d.fld TIL_SVC_STAT.STATE p == 5 := by
  simp only [h.fld (f := TIL_SVC_STAT.STATE) (by decide)]

theorem SvcWritten.busy : (c.dies.any fun y => y != x && c.fld DIE_SVC_STAT.STATE y != 0) = d.dies.any fun y => y != x && d.fld DIE_SVC_STAT.STATE y != 0 := by
  have hd : c.dies = d.dies := by rw [Dev.dies, h.n]; rfl
  simp only [hd, h.fld (f := DIE_SVC_STAT.STATE) (by decide)]

theorem SvcWritten.bonded (p : Nat) : (c.setFld DIE_SVC_STAT.STATE x 0 1).bonded p = d.bonded p := by
  have hb : ∀ f : Fld, f.reg = .TIL_BOND → ∀ q, (c.setFld DIE_SVC_STAT.STATE x 0 1).fld f q 0 = d.fld f q 0 := fun f hf q => by
    rw [fld_setFld_apart _ (f := DIE_SVC_STAT.STATE) _ _ _ _ _ (by rw [Fld.apart, hf]; rfl) (by decide), h.fld (by rw [hf]; decide)]
  simp only [Dev.bonded, Dev.mutual, Dev.mate, Dev.flag, hb TIL_BOND.STATE rfl, hb TIL_BOND.EN rfl, hb TIL_BOND.MATE rfl]

/-- Draining begins (R358). -/
theorem dieReset_begins (hl : x ≠ d.lead.lead) (hs : ∀ y, y < d.n → d.fld DIE_SVC_STAT.STATE y = 0) (hx : x < d.n)
    (ho : ∀ p ∈ tilesOf x, ¬(d.fld TIL_SVC_STAT.STATE p = 2 ∨ d.fld TIL_SVC_STAT.STATE p = 5)) (hb : ∀ p ∈ tilesOf x, d.bonded p = false) :
    c.dieReset x = { c.setFld DIE_SVC_STAT.STATE x 0 1 with away := d.away ++ [x] } := by
  have hbusy : (d.dies.any fun y => y != x && d.fld DIE_SVC_STAT.STATE y != 0) = false := by
    simp only [List.any_eq_false, Bool.and_eq_true, bne_iff_ne, not_and, not_not]
    exact fun y hy _ => hs y (mem_dies.mp hy)
  have hout : ((tilesOf x).any fun p => d.fld TIL_SVC_STAT.STATE p == 2 || d.fld TIL_SVC_STAT.STATE p == 5) = false := by
    simpa [List.any_eq_false] using ho
  obtain ⟨e, he⟩ : ∃ e, e = ({ c.setFld DIE_SVC_STAT.STATE x 0 1 with away := d.away ++ [x] } : Dev) := ⟨_, rfl⟩
  have hnone : ((tilesOf x).filter fun p => e.bonded p && dieOf (e.mate p) != x) = [] := by
    rw [List.filter_eq_nil_iff]
    intro p hp
    rw [show e.bonded p = false by rw [he]; exact (h.bonded p).trans (hb p hp)]
    exact Bool.false_ne_true
  rw [Dev.dieReset, h.lead, if_neg hl, h.busy, hbusy, if_neg Bool.false_ne_true, h.out, hout, if_neg Bool.false_ne_true,
    h.fld (f := DIE_SVC_STAT.STATE) (by decide), hs x hx, if_neg (by simp), h.away]
  dsimp only
  rw [← he, hnone, List.foldl_nil]

/-- What stands in the way of a reset, by its code (R358). -/
theorem dieReset_refused {k : Nat} (hk : x = d.lead.lead ∧ k = 1 ∨
      x ≠ d.lead.lead ∧ (∃ y, y < d.n ∧ y ≠ x ∧ d.fld DIE_SVC_STAT.STATE y ≠ 0) ∧ k = 2 ∨
      x ≠ d.lead.lead ∧ (∀ y : Nat, y < d.n → d.fld DIE_SVC_STAT.STATE y = 0) ∧
        (∃ p ∈ tilesOf x, d.fld TIL_SVC_STAT.STATE p = 2 ∨ d.fld TIL_SVC_STAT.STATE p = 5) ∧ k = 3) :
    c.dieReset x = c.dieRefuse x k := by
  rcases hk with ⟨hl, rfl⟩ | ⟨hl, ⟨y, hy, hne, hst⟩, rfl⟩ | ⟨hl, hs, ⟨p, hp, hst⟩, rfl⟩
  · rw [Dev.dieReset, h.lead, if_pos hl]
  · have hbusy : (d.dies.any fun y => y != x && d.fld DIE_SVC_STAT.STATE y != 0) = true :=
      List.any_eq_true.mpr ⟨y, mem_dies.mpr hy, by simp [hne, hst]⟩
    rw [Dev.dieReset, h.lead, if_neg hl, h.busy, if_pos hbusy]
  · have hbusy : (d.dies.any fun y => y != x && d.fld DIE_SVC_STAT.STATE y != 0) = false := by
      simp only [List.any_eq_false, Bool.and_eq_true, bne_iff_ne, not_and, not_not]
      exact fun y hy _ => hs y (mem_dies.mp hy)
    have hout : ((tilesOf x).any fun p => d.fld TIL_SVC_STAT.STATE p == 2 || d.fld TIL_SVC_STAT.STATE p == 5) = true :=
      List.any_eq_true.mpr ⟨p, hp, by simpa using hst⟩
    rw [Dev.dieReset, h.lead, if_neg hl, h.busy, hbusy, if_neg Bool.false_ne_true, h.out, if_pos hout]

end

theorem away_answered (d : Dev) (src : Src) : (d.answered src).away = d.away := answered_of_out Dev.away (fun _ _ => rfl) d src

theorem performDieReset_next {i : Instr} {x : Nat} {s : State} (h : s.dev.dieMayReset x = true) (ht : s.dev.takes i = true) (f : Locks → Dev → Dev) :
    performDieReset i x s f = .next (State.after { s with locks := s.locks.clearDie x } (f (s.locks.clearDie x) s.dev)) := by
  rw [performDieReset, if_pos h]
  exact perform_next (s := { s with locks := s.locks.clearDie x }) ht f

theorem performDieReset_idle {i : Instr} {x : Nat} {s : State} (h : s.dev.dieMayReset x = false) (f : Locks → Dev → Dev) :
    performDieReset i x s f = perform i s f := by
  rw [performDieReset, h, if_neg Bool.false_ne_true]

theorem dieDrained_idle {d : Dev} {x : Nat} (bad : Nat) (h : d.dieMayReset x = false) : d.dieDrained x bad = d := by
  rw [Dev.dieDrained, h, if_neg Bool.false_ne_true]

theorem exec_dieResetDrained (s : State) (x bad : Nat) :
    exec (.dieResetDrained x bad) s = performDieReset (.dieResetDrained x bad) x s fun _ d => d.dieDrained x bad := by
  dsimp only [exec]
  rfl

/-- Settles O30. -/
theorem dieResets : Obligations.DieResets := by
  unfold Obligations.DieResets
  refine ⟨fun s src x hx hg hb => ?_, fun s x bad hx hbad => ⟨fun h hlog ht => ?_, fun h => ?_⟩⟩
  · dsimp only
    refine ⟨fun hl hs ho => ?_, fun k hk => ?_⟩
    · refine State.doesSome_perform (by dsimp only [exec]; rfl) ?_
      obtain ⟨b, v, he⟩ := swCmd_dieReset (L := s.locks) hx hg
      have hw := svcWritten_commanded s.dev src x b v
      rw [he, dieReset_begins hw hl hs hx ho hb]
      refine ⟨(fld_answered ..).trans (fld_setFld _ (f := DIE_SVC_STAT.STATE) x 0 1 (by decide)), away_answered .., fun l h1 h2 => ?_⟩
      exact (at_answered ..).trans ((Dev.at_setFld_ne _ DIE_SVC_STAT.STATE _ _ _ h2).trans (hw.regs l h1))
    · refine State.doesSome_perform (by dsimp only [exec]; rfl) ?_
      obtain ⟨b, v, he⟩ := swCmd_dieReset (L := s.locks) hx hg
      have hw := svcWritten_commanded s.dev src x b v
      rw [he, dieReset_refused hw hk]
      refine ⟨(fld_answered ..).trans ((fld_dieRefuse ..).trans (Nat.mod_eq_of_lt (by omega))), (fld_answered ..).trans ?_, (away_answered ..).trans hw.away⟩
      rw [Dev.dieRefuse, fld_raise, fld_setFld_apart _ _ _ _ _ _ (by decide) (by decide), hw.fld (by decide)]
  · refine ⟨s.dev.dieDrained x bad, ?_, dieDrained_effect h hlog hbad⟩
    rw [exec_dieResetDrained]
    exact performDieReset_next h ht _
  · exact State.does_perform ((exec_dieResetDrained s x bad).trans (performDieReset_idle h _)) (dieDrained_idle bad h)

end Sys2Proof.Machine

/-! ## What no operation of the units changes: the order of configuration held, the homes, the copied registers, the package's reset -/

namespace Sys2Proof.Machine

/-- Registers of which every die holds a copy of its own: those of package configuration, and what a die notes of them as it applies it. -/
def RegId.copied (r : RegId) : Bool :=
  r.spec.owner == .cfg || r == .TC_SWITCH || r == .TC_INVAL || r == .TC_INVAL_PAGE || r == .DIE_Q_CFG || r == .EVQ_CTL || r == .TC_SWITCH_STAT

/-- The lead's order as far as the dies hold it (R32), and what holds the package in reset (R404, R418). -/
def Dev.steady (d : Dev) : Variant × List CfgWrite × Store Nat × Bool × List (Nat × Nat) :=
  (d.variant, d.cfgLog, d.applied, d.fen.asserted, d.fen.low)

/-- Where homes are: the dies lost or away, and who holds the items of a die. -/
def Dev.homed (d : Dev) : List Nat × Store Nat × Store (Option Nat) × List Nat := (d.lost, d.homes, d.mirrors, d.away)

/-- Both, and the copied registers. Most operations of the units change none of it, as the lemmas below say of one after another; of those that
write a copied register or move homes, `steady_` lemmas say that the first part stays. -/
def Dev.copies (d : Dev) :
    (Variant × List CfgWrite × Store Nat × Bool × List (Nat × Nat)) × (List Nat × Store Nat × Store (Option Nat) × List Nat) × (Loc → Word) :=
  (d.steady, d.homed, fun l => if l.reg.copied then d.at l else 0)

@[simp] theorem steady_eq (d : Dev) : d.steady = d.copies.1 := rfl

@[simp] theorem copies_ite (c : Prop) [Decidable c] (a b : Dev) : (if c then a else b).copies = if c then a.copies else b.copies :=
  apply_ite Dev.copies c a b

@[simp] theorem copies_foldl {α : Type} {f : Dev → α → Dev} (h : ∀ d a, (f d a).copies = d.copies) (xs : List α) (d : Dev) :
    (xs.foldl f d).copies = d.copies := foldl_kept Dev.copies h xs d

@[simp] theorem fst_of_ite {A B : Type} (c : Prop) [Decidable c] (a b : A × B) : (if c then a else b).1 = if c then a.1 else b.1 :=
  apply_ite Prod.fst c a b

@[simp] theorem steady_foldl {α : Type} {f : Dev → α → Dev} (h : ∀ d a, (f d a).copies.1 = d.copies.1) (xs : List α) (d : Dev) :
    (xs.foldl f d).copies.1 = d.copies.1 := foldl_kept (fun d : Dev => d.copies.1) h xs d

section
variable (d : Dev)

@[simp] theorem steady_with_mirrors (v) : ({ d with mirrors := v } : Dev).copies.1 = d.copies.1 := (rfl)
@[simp] theorem steady_with_homes (v) : ({ d with homes := v } : Dev).copies.1 = d.copies.1 := (rfl)
@[simp] theorem steady_with_lost (v) : ({ d with lost := v } : Dev).copies.1 = d.copies.1 := (rfl)
@[simp] theorem steady_with_away (v) : ({ d with away := v } : Dev).copies.1 = d.copies.1 := (rfl)

@[simp] theorem copies_with_irqPend (v) : ({ d with irqPend := v } : Dev).copies = d.copies := (rfl)
@[simp] theorem copies_with_modGap (v) : ({ d with modGap := v } : Dev).copies = d.copies := (rfl)
@[simp] theorem copies_with_modPend (v) : ({ d with modPend := v } : Dev).copies = d.copies := (rfl)
@[simp] theorem copies_with_evqIssued (v) : ({ d with evqIssued := v } : Dev).copies = d.copies := (rfl)
@[simp] theorem copies_with_evq (v) : ({ d with evq := v } : Dev).copies = d.copies := (rfl)
@[simp] theorem copies_with_leadCopy (v) : ({ d with leadCopy := v } : Dev).copies = d.copies := (rfl)
@[simp] theorem copies_with_asleep (v) : ({ d with asleep := v } : Dev).copies = d.copies := (rfl)
@[simp] theorem copies_with_mcLoad (v) : ({ d with mcLoad := v } : Dev).copies = d.copies := (rfl)
@[simp] theorem copies_with_free (v) : ({ d with free := v } : Dev).copies = d.copies := (rfl)
@[simp] theorem copies_with_nextId (v) : ({ d with nextId := v } : Dev).copies = d.copies := (rfl)
@[simp] theorem copies_with_heldRecs (v) : ({ d with heldRecs := v } : Dev).copies = d.copies := (rfl)

end

theorem steady_of_copies {d e : Dev} (h : e.copies = d.copies) : e.steady = d.steady := congrArg Prod.fst h

/-! Registers and errors -/

@[simp] theorem steady_nameMirrors (d : Dev) : d.nameMirrors.copies.1 = d.copies.1 := by simp [Dev.nameMirrors]
@[simp] theorem steady_passItems (d : Dev) (x y : Nat) : (d.passItems x y).copies.1 = d.copies.1 := by simp [Dev.passItems]

@[simp] theorem copies_put (d : Dev) (l : Loc) (w : Word) (h : l.reg.copied = false) : (d.put l w).copies = d.copies := by
  refine Prod.ext rfl (Prod.ext rfl (funext fun k => ?_))
  by_cases hk : k.reg.copied = true
  · exact (if_pos hk).trans ((Dev.at_put_ne _ (by rintro rfl; rw [h] at hk; cases hk) _).trans (if_pos hk).symm)
  · exact (if_neg hk).trans (if_neg hk).symm

@[simp] theorem steady_put (d : Dev) (l : Loc) (w : Word) : (d.put l w).copies.1 = d.copies.1 := (rfl)

@[simp] theorem copies_setReg (d : Dev) (r : RegId) (u i : Nat) (w : Word) (h : r.copied = false) : (d.setReg r u i w).copies = d.copies :=
  copies_put d ⟨r, u, i⟩ w h

@[simp] theorem steady_setReg (d : Dev) (r : RegId) (u i : Nat) (w : Word) : (d.setReg r u i w).copies.1 = d.copies.1 := (rfl)

@[simp] theorem copies_setFld (d : Dev) (f : Fld) (u i v : Nat) (h : f.reg.copied = false) : (d.setFld f u i v).copies = d.copies :=
  copies_setReg d f.reg u i _ h

@[simp] theorem steady_setFld (d : Dev) (f : Fld) (u i v : Nat) : (d.setFld f u i v).copies.1 = d.copies.1 := (rfl)

@[simp] theorem copies_bump (d : Dev) (f : Fld) (u i : Nat) (h : f.reg.copied = false) : (d.bump f u i).copies = d.copies :=
  copies_setFld d f u i _ h

@[simp] theorem steady_bump (d : Dev) (f : Fld) (u : Nat) (i : Nat) : (d.bump f u i).copies.1 = d.copies.1 := (rfl)

@[simp] theorem copies_bumpBy (d : Dev) (f : Fld) (u i k : Nat) (h : f.reg.copied = false) : (d.bumpBy f u i k).copies = d.copies :=
  copies_setFld d f u i _ h

@[simp] theorem steady_bumpBy (d : Dev) (f : Fld) (u i k : Nat) : (d.bumpBy f u i k).copies.1 = d.copies.1 := (rfl)

@[simp] theorem copies_setPair (d : Dev) (lo hi : RegId) (u i v : Nat) (h : lo.copied = false) (h' : hi.copied = false) :
    (d.setPair lo hi u i v).copies = d.copies :=
  (copies_setReg _ hi u i _ h').trans (copies_setReg d lo u i _ h)

@[simp] theorem steady_setPair (d : Dev) (lo hi : RegId) (u i v : Nat) : (d.setPair lo hi u i v).copies.1 = d.copies.1 := (rfl)
@[simp] theorem copies_setPort (d : Dev) (p : Nat) (x : Port) : (d.setPort p x).copies = d.copies := (rfl)
@[simp] theorem copies_modPort (d : Dev) (p : Nat) (f : Port → Port) : (d.modPort p f).copies = d.copies := (rfl)
@[simp] theorem copies_modLink (d : Dev) (p : Nat) (f : Link → Link) : (d.modLink p f).copies = d.copies := (rfl)
@[simp] theorem copies_modPx (d : Dev) (x : Nat) (f : Pcie → Pcie) : (d.modPx x f).copies = d.copies := (rfl)
@[simp] theorem copies_modSem (d : Dev) (s : Nat) (f : Sem → Sem) : (d.modSem s f).copies = d.copies := (rfl)
@[simp] theorem copies_modTc (d : Dev) (x : Nat) (f : TCache → TCache) : (d.modTc x f).copies = d.copies := (rfl)
@[simp] theorem copies_emit (d : Dev) (o : Out) : (d.emit o).copies = d.copies := (rfl)
@[simp] theorem copies_note (d : Dev) (n : Note) : (d.note n).copies = d.copies := (rfl)
@[simp] theorem copies_fresh (d : Dev) : d.fresh.2.copies = d.copies := (rfl)
@[simp] theorem copies_draw (d : Dev) : d.draw.2.copies = d.copies := (rfl)
@[simp] theorem copies_modQueue (d : Dev) (x q : Nat) (f : QState → QState) : (d.modQueue x q f).copies = d.copies := (rfl)
@[simp] theorem copies_raise (d : Dev) (x cls : Nat) (l : Loc) (bit source : Nat) : (d.raise x cls l bit source).copies = d.copies := (rfl)
@[simp] theorem copies_queueOver (d : Dev) (x q : Nat) : (d.queueOver x q).copies = d.copies := by simp +decide [Dev.queueOver]
@[simp] theorem copies_engineOver (d : Dev) (x q words : Nat) : (d.engineOver x q words).copies = d.copies := by simp +decide [Dev.engineOver]

@[simp] theorem copies_status (d : Dev) (f : Fld) (u i cls x source : Nat) (h : f.reg.copied = false) : (d.status f u i cls x source).copies = d.copies :=
  by simp +decide [Dev.status, *]

@[simp] theorem copies_linkEvent (d : Dev) (f : Fld) (p : Nat) (h : f.reg.copied = false) : (d.linkEvent f p).copies = d.copies :=
  by simp +decide [Dev.linkEvent, *]

@[simp] theorem copies_winEvent (d : Dev) (f : Fld) (inb : Bool) (w : Nat) : (d.winEvent f inb w).copies = d.copies := by
  unfold Dev.winEvent
  split <;> simp +decide

@[simp] theorem copies_pushDrop (d : Dev) (x q : Nat) (lost : Fld) (u i : Nat) (w : List Word) (h : lost.reg.copied = false) :
    (d.pushDrop x q lost u i w).2.copies = d.copies := by
  unfold Dev.pushDrop
  dsimp only
  split
  · rfl
  · exact copies_bump _ _ _ _ h

@[simp] theorem steady_pushDrop (d : Dev) (x q : Nat) (lost : Fld) (u i : Nat) (w : List Word) : (d.pushDrop x q lost u i w).2.copies.1 = d.copies.1 := by
  unfold Dev.pushDrop
  dsimp only
  split <;> simp

@[simp] theorem copies_errRec (d : Dev) (x : Nat) (e : ErrRec) : (d.errRec x e).copies = d.copies := by simp +decide [Dev.errRec]

@[simp] theorem copies_eachOf {f : Dev → Nat → Dev} (h : ∀ d x, (f d x).copies = d.copies) (d : Dev) (xs : List Nat) :
    (d.eachOf xs f).copies = d.copies :=
  copies_foldl h xs d
@[simp] theorem steady_eachOf {f : Dev → Nat → Dev} (h : ∀ d x, (f d x).copies.1 = d.copies.1) (d : Dev) (xs : List Nat) :
    (d.eachOf xs f).copies.1 = d.copies.1 :=
  steady_foldl h xs d

/-! Body Bus links -/

@[simp] theorem copies_flushTx (k : Nat) (d : Dev) (p : Nat) : (Dev.flushTx k d p).copies = d.copies := by
  induction k generalizing d with
  | zero => rfl
  | succ k ih =>
    unfold Dev.flushTx
    dsimp only
    repeat' split
    all_goals simp [ih]

@[simp] theorem copies_send (d : Dev) (p : Nat) (x : Pkt) : (d.send p x).copies = d.copies := by simp [Dev.send]
@[simp] theorem copies_setLstate (d : Dev) (p st : Nat) : (d.setLstate p st).copies = d.copies := by simp +decide [Dev.setLstate]
@[simp] theorem copies_sendSyns (d : Dev) (p step : Nat) : (d.sendSyns p step).copies = d.copies := by simp [Dev.sendSyns]
@[simp] theorem copies_recalStop (d : Dev) (p : Nat) : (d.recalStop p).copies = d.copies := by simp +decide [Dev.recalStop]
@[simp] theorem copies_linkDown (d : Dev) (p st : Nat) : (d.linkDown p st).copies = d.copies := by simp +decide [Dev.linkDown]
@[simp] theorem copies_trainStart (d : Dev) (p st : Nat) : (d.trainStart p st).copies = d.copies := by simp +decide [Dev.trainStart]
@[simp] theorem copies_fallBack (d : Dev) (p : Nat) : (d.fallBack p).copies = d.copies := by simp +decide [Dev.fallBack]

@[simp] theorem copies_lane0Leaves (d : Dev) (p : Nat) : (d.lane0Leaves p).copies = d.copies := by
  unfold Dev.lane0Leaves
  split <;> simp

@[simp] theorem copies_retrainEnter (d : Dev) (p cap : Nat) (drop : Bool) : (d.retrainEnter p cap drop).copies = d.copies :=
  by simp +decide [Dev.retrainEnter]

@[simp] theorem copies_retrain (d : Dev) (p : Nat) : (d.retrain p).copies = d.copies := by simp [Dev.retrain]
@[simp] theorem copies_retrainCmd (d : Dev) (p : Nat) : (d.retrainCmd p).copies = d.copies := by simp [Dev.retrainCmd]
@[simp] theorem copies_linkEnable (d : Dev) (p : Nat) : (d.linkEnable p).copies = d.copies := by simp +decide [Dev.linkEnable]
@[simp] theorem copies_linkDisable (d : Dev) (p : Nat) : (d.linkDisable p).copies = d.copies := by simp +decide [Dev.linkDisable]
@[simp] theorem copies_widen (d : Dev) (p : Nat) : (d.widen p).copies = d.copies := by simp +decide [Dev.widen]

/-! Dies and mirrors -/

@[simp] theorem copies_modMor (d : Dev) (x : Nat) (f : Mortar → Mortar) : (d.modMor x f).copies = d.copies := (rfl)
@[simp] theorem copies_cross (d : Dev) (a b stream : Nat) : (d.cross a b stream).copies = d.copies := by simp [Dev.cross]

/-! PCI Express ports -/

@[simp] theorem copies_cfgPut (d : Dev) (x off : Nat) (w : Word) : (d.cfgPut x off w).copies = d.copies := (rfl)
@[simp] theorem copies_cfgSet (d : Dev) (x off : Nat) (bits : List Nat) : (d.cfgSet x off bits).copies = d.copies := (rfl)

@[simp] theorem copies_aerHeader (d : Dev) (x : Nat) (e : AerErr) : (d.aerHeader x e).copies = d.copies := by
  unfold Dev.aerHeader
  dsimp only
  repeat' split
  all_goals rfl

@[simp] theorem copies_aer (d : Dev) (x : Nat) (e : AerErr) (adv : Bool) : (d.aer x e adv).copies = d.copies := by simp [Dev.aer]
@[simp] theorem copies_logPosted (d : Dev) (x : Nat) (abort : Bool) : (d.logPosted x abort).copies = d.copies := by simp +decide [Dev.logPosted]

@[simp] theorem copies_sendCpl (d : Dev) (x rid tag addr : Nat) (st : CplSent) (poison : Bool) (data : List Byte) :
    (d.sendCpl x rid tag addr st poison data).copies = d.copies := by
  unfold Dev.sendCpl
  split <;> simp +decide

@[simp] theorem copies_completeHere (d : Dev) (x id : Nat) (st : CplSent) (poison : Bool) (data : List Byte) :
    (d.completeHere x id st poison data).copies = d.copies := by
  unfold Dev.completeHere
  dsimp only
  repeat' split
  all_goals simp

@[simp] theorem copies_complete (d : Dev) (x id : Nat) (st : CplSent) (poison : Bool) (data : List Byte) :
    (d.complete x id st poison data).copies = d.copies := by
  unfold Dev.complete
  split <;> simp

@[simp] theorem copies_issueReq (d : Dev) (r : HostReq) (t : Nat) : (d.issueReq r t).copies = d.copies := (rfl)

@[simp] theorem copies_sendReq (d : Dev) (r : HostReq) : (d.sendReq r).copies = d.copies := by
  unfold Dev.sendReq
  dsimp only
  repeat' split
  all_goals simp

@[simp] theorem copies_ltrBusy (d : Dev) (x : Nat) : (d.ltrBusy x).copies = d.copies := by simp [Dev.ltrBusy]
@[simp] theorem copies_hostReq (d : Dev) (r : HostReq) : (d.hostReq r).copies = d.copies := by simp [Dev.hostReq]
@[simp] theorem copies_hostFrom (d : Dev) (a : Nat) (r : HostReq) : (d.hostFrom a r).copies = d.copies := by simp [Dev.hostFrom]
@[simp] theorem copies_forgetReads (d : Dev) (f : Who → Bool) : (d.forgetReads f).copies = d.copies := by simp [Dev.forgetReads]
@[simp] theorem copies_msixOut (d : Dev) (x v : Nat) : (d.msixOut x v).copies = d.copies := (rfl)
@[simp] theorem copies_setPba (d : Dev) (x v : Nat) (b : Bool) : (d.setPba x v b).copies = d.copies := by simp +decide [Dev.setPba]

@[simp] theorem copies_msix (d : Dev) (x v : Nat) : (d.msix x v).2.copies = d.copies := by
  unfold Dev.msix
  split <;> simp

@[simp] theorem copies_dropWaiting (d : Dev) (f : Who → Bool) : (d.dropWaiting f).copies = d.copies := by simp [Dev.dropWaiting]

/-! Interrupts -/

@[simp] theorem copies_setRxLevel (d : Dev) (p l : Nat) (b : Bool) : (d.setRxLevel p l b).copies = d.copies := by simp +decide [Dev.setRxLevel]
@[simp] theorem copies_sendIak (d : Dev) (p l : Nat) : (d.sendIak p l).copies = d.copies := by simp [Dev.sendIak]
@[simp] theorem copies_flushPba (d : Dev) (x : Nat) : (d.flushPba x).copies = d.copies := by simp [Dev.flushPba]
@[simp] theorem copies_syncTx (d : Dev) (p : Nat) : (d.syncTx p).copies = d.copies := by simp +decide [Dev.syncTx]
@[simp] theorem copies_assertIrq (d : Dev) (p l vec src : Nat) : (d.assertIrq p l vec src).copies = d.copies := by simp [Dev.assertIrq]

@[simp] theorem copies_syncLevel (d : Dev) (p l : Nat) : (d.syncLevel p l).copies = d.copies := by
  unfold Dev.syncLevel
  repeat' split
  all_goals simp_all

@[simp] theorem copies_irqRaise (d : Dev) (u : Nat) (e : IrqEntry) (vec : Nat) : (d.irqRaise u e vec).copies = d.copies := by
  unfold Dev.irqRaise
  dsimp only
  repeat' split
  all_goals simp

@[simp] theorem copies_evqPump (d : Dev) : d.evqPump.copies = d.copies := by
  unfold Dev.evqPump
  split <;> simp

@[simp] theorem copies_evqWithdraw (d : Dev) : d.evqWithdraw.copies = d.copies := by simp [Dev.evqWithdraw]
@[simp] theorem copies_evqRdWrite (d : Dev) (v : Nat) : (d.evqRdWrite v).copies = d.copies := by simp +decide [Dev.evqRdWrite]

/-! Protection -/

@[simp] theorem copies_protRecord (d : Dev) (q : ProtReq) (addr deniedLen : Nat) (region : Option Nat) :
    (d.protRecord q addr deniedLen region).copies = d.copies := by simp +decide [Dev.protRecord]

@[simp] theorem copies_protCheck (d : Dev) (q : ProtReq) : (d.protCheck q).2.copies = d.copies := by
  unfold Dev.protCheck
  dsimp only
  split <;> simp

@[simp] theorem steady_protCommit (d : Dev) (x : Nat) : (d.protCommit x).copies.1 = d.copies.1 := (rfl)
@[simp] theorem steady_protDiscard (d : Dev) (x : Nat) : (d.protDiscard x).copies.1 = d.copies.1 := (rfl)

/-! The engines of transactions -/

@[simp] theorem copies_semGrant (d : Dev) (s : Nat) (h : Holder) : (d.semGrant s h).copies = d.copies := by simp +decide [Dev.semGrant]
@[simp] theorem copies_atomPhase (d : Dev) (id : Nat) (ph : AtomPhase) : (d.atomPhase id ph).copies = d.copies := by simp [Dev.atomPhase]

@[simp] theorem copies_semNext (d : Dev) (s : Nat) : (d.semNext s).copies = d.copies := by
  unfold Dev.semNext
  dsimp only
  repeat' split
  all_goals simp

@[simp] theorem copies_semRelease (d : Dev) (s : Nat) : (d.semRelease s).copies = d.copies := by simp [Dev.semRelease]

@[simp] theorem copies_semPassed (d : Dev) (id : Nat) (lock : Option Nat) : (d.semPassed id lock).copies = d.copies := by
  unfold Dev.semPassed
  split <;> simp

@[simp] theorem copies_semForce (d : Dev) (s : Nat) : (d.semForce s).copies = d.copies := by
  unfold Dev.semForce
  repeat' split
  all_goals simp +decide

@[simp] theorem copies_pfDiscard (d : Dev) (p : Nat) (b : PfBlock) (reason : Nat) : (d.pfDiscard p b reason).copies = d.copies :=
  by simp +decide [Dev.pfDiscard]

@[simp] theorem copies_pfDrop (d : Dev) (p : Nat) (f : PfBlock → Bool) (reason : Nat) : (d.pfDrop p f reason).copies = d.copies := by simp [Dev.pfDrop]
@[simp] theorem copies_pfStale (d : Dev) (p : Nat) (f : Work → Win → Bool) (reason : Nat) : (d.pfStale p f reason).copies = d.copies := (rfl)
@[simp] theorem copies_pfChange (d : Dev) (p : Nat) (f : Win → Bool) : (d.pfChange p f).copies = d.copies := by simp [Dev.pfChange]

@[simp] theorem copies_pfTrim (k : Nat) (d : Dev) (p : Nat) : (Dev.pfTrim k d p).copies = d.copies := by
  induction k generalizing d with
  | zero => rfl
  | succ k ih =>
    unfold Dev.pfTrim
    dsimp only
    repeat' split
    all_goals simp [ih]

@[simp] theorem copies_mireDrop (d : Dev) (inb : Bool) (w k : Nat) : (d.mireDrop inb w k).copies = d.copies := by
  cases inb
  · exact copies_bumpBy _ _ _ _ _ (by decide)
  · exact copies_bumpBy _ _ _ _ _ (by decide)

@[simp] theorem copies_enterMire (d : Dev) (inb : Bool) (w : Nat) (r : DefRec) : (d.enterMire inb w r).copies = d.copies := by
  unfold Dev.enterMire
  repeat' split
  all_goals simp_all +decide

@[simp] theorem copies_failNextRead (d : Dev) (p : Nat) (a : Acc) : (d.failNextRead p a).copies = d.copies := by
  unfold Dev.failNextRead
  dsimp only
  split <;> simp

@[simp] theorem copies_accRecord (d : Dev) (port : Nat) (a : Acc) (kind code : Nat) (poison : Bool) :
    (d.accRecord port a kind code poison).copies = d.copies := by simp [Dev.accRecord]

@[simp] theorem copies_failWork (d : Dev) (port : Nat) (w : Work) (c : Course) (cause code : Nat) (poison : Bool) :
    (d.failWork port w c cause code poison).copies = d.copies := by
  unfold Dev.failWork
  dsimp only
  split
  · refine (copies_foldl (fun e a => ?_) _ _).trans (copies_semPassed ..)
    split <;> simp
  · repeat' split
    all_goals simp
  · split <;> simp
  · simp

@[simp] theorem copies_dropWork (d : Dev) (lp id : Nat) : (d.dropWork lp id).copies = d.copies := (rfl)

/-! Initiators -/

@[simp] theorem copies_retryStart (d : Dev) (p r : Nat) : (d.retryStart p r).copies = d.copies := by simp +decide [Dev.retryStart]

@[simp] theorem copies_finishAtomic (d : Dev) (lp : Nat) (w : Work) (a : Acc) (old : Nat) (failed : Bool) :
    (d.finishAtomic lp w a old failed).copies = d.copies := by
  unfold Dev.finishAtomic
  split <;> simp

@[simp] theorem copies_atomicRec (d : Dev) (port : Nat) (a : Acc) (code : Nat) (poison failed : Bool) :
    (d.atomicRec port a code poison failed).copies = d.copies := by simp [Dev.atomicRec]

@[simp] theorem copies_chainPut (d : Dev) (lp id : Nat) : (d.chainPut lp id).copies = d.copies := by simp [Dev.chainPut]
@[simp] theorem copies_issueRun (d : Dev) (lp : Nat) (r : Run) : (d.issueRun lp r).copies = d.copies := by simp [Dev.issueRun]
@[simp] theorem copies_flushRuns (d : Dev) (lp : Nat) (f : Run → Bool) : (d.flushRuns lp f).copies = d.copies := by simp [Dev.flushRuns]

@[simp] theorem copies_lostWork (d : Dev) (lp p : Nat) (w : Work) : (d.lostWork lp p w).copies = d.copies := by
  unfold Dev.lostWork
  dsimp only
  repeat' split
  all_goals simp

/-! Accesses of the path -/

@[simp] theorem copies_comes (d : Dev) (lp : Nat) (w : Work) : (d.comes lp w).copies = d.copies := by
  unfold Dev.comes
  dsimp only
  cases w.job.accs.head?.map (·.die) <;> simp

@[simp] theorem copies_enlist (d : Dev) (w : Work) : (d.enlist w).copies = d.copies := by simp [Dev.enlist]
@[simp] theorem copies_invalidate (d : Dev) (x : Nat) (sel : Bool → Nat → Bool → Bool) : (d.invalidate x sel).copies = d.copies := by simp [Dev.invalidate]
@[simp] theorem copies_windowTouched (d : Dev) (x : Nat) (sel : Bool → Nat → Bool) : (d.windowTouched x sel).copies = d.copies := by simp [Dev.windowTouched]
@[simp] theorem steady_tcSwitch (d : Dev) (x g : Nat) : (d.tcSwitch x g).copies.1 = d.copies.1 := by simp [Dev.tcSwitch]

/-! Locks -/

@[simp] theorem copies_semSw (d : Dev) (s path : Nat) (take give : Bool) : (d.semSw s path take give).copies = d.copies := by simp [Dev.semSw]

end Sys2Proof.Machine

/-! ## The same of pools, taps, movers, clocks, port power and monitors -/

namespace Sys2Proof.Machine

/-! Buffer pools -/

@[simp] theorem copies_modPool (d : Dev) (p : Nat) (f : Pool → Pool) : (d.modPool p f).copies = d.copies := (rfl)
@[simp] theorem copies_setMail (d : Dev) (path : Nat) (m : Mail) : (d.setMail path m).copies = d.copies := (rfl)
@[simp] theorem copies_setPoolFree (d : Dev) (p v : Nat) : (d.setPoolFree p v).copies = d.copies := by simp +decide [Dev.setPoolFree]
@[simp] theorem copies_setPoolChg (d : Dev) (p o v : Nat) : (d.setPoolChg p o v).copies = d.copies := by simp +decide [Dev.setPoolChg]

@[simp] theorem copies_poolStore (d : Dev) (p addr : Nat) (bytes : List Byte) (who : Who) :
    (d.poolStore p addr bytes who).copies = d.copies := by simp [Dev.poolStore]

@[simp] theorem copies_ringPut (d : Dev) (p : Nat) (hs : List Nat) : (d.ringPut p hs).copies = d.copies := by simp +decide [Dev.ringPut]
@[simp] theorem copies_syncCache (d : Dev) (p : Nat) : (d.syncCache p).copies = d.copies := by simp +decide [Dev.syncCache]

@[simp] theorem copies_poolStatus (d : Dev) (f : Fld) (p : Nat) (h : f.reg.copied = false) : (d.poolStatus f p).copies = d.copies :=
  by simp +decide [Dev.poolStatus, *]

@[simp] theorem copies_refill (d : Dev) (p : Nat) : (d.refill p).copies = d.copies := by simp [Dev.refill]

@[simp] theorem copies_poolGive (d : Dev) (c : PoolCmd) (status handle nown : Nat) : (d.poolGive c status handle nown).copies = d.copies := by
  unfold Dev.poolGive
  split <;> simp +decide

@[simp] theorem copies_poolReject (d : Dev) (c : PoolCmd) (status : Nat) (nown : Nat) :
    (d.poolReject c status nown).copies = d.copies := by simp +decide [Dev.poolReject]

@[simp] theorem copies_poolWriteEntry (d : Dev) (p : Nat) (j : PoolJob) (e : PoolEntry) :
    (d.poolWriteEntry p j e).copies = d.copies := by simp [Dev.poolWriteEntry]

@[simp] theorem copies_poolTake (d : Dev) (c : PoolCmd) : (d.poolTake c).copies = d.copies := by
  unfold Dev.poolTake
  dsimp only
  repeat' split
  all_goals simp

@[simp] theorem copies_poolStart (d : Dev) (c : PoolCmd) : (d.poolStart c).copies = d.copies := by simp [Dev.poolStart]
@[simp] theorem copies_poolCmd (d : Dev) (c : PoolCmd) : (d.poolCmd c).copies = d.copies := by simp +decide [Dev.poolCmd]
@[simp] theorem copies_poolSwitch (d : Dev) (p : Nat) : (d.poolSwitch p).copies = d.copies := by simp +decide [Dev.poolSwitch]
@[simp] theorem steady_poolCheck (d : Dev) (x p : Nat) : (d.poolCheck x p).copies.1 = d.copies.1 := by simp +decide [Dev.poolCheck]

@[simp] theorem copies_mailWrite (d : Dev) (path : Nat) (w : Word) : (d.mailWrite path w).2.copies = d.copies := by
  unfold Dev.mailWrite
  dsimp only
  repeat' split
  all_goals simp

/-! Taps -/

@[simp] theorem copies_setTap (d : Dev) (t : Nat) (x : Tap) : (d.setTap t x).copies = d.copies := (rfl)
@[simp] theorem copies_setTapRun (d : Dev) (t : Nat) (r : Option TapRun) : (d.setTapRun t r).copies = d.copies := by simp +decide [Dev.setTapRun]

@[simp] theorem copies_moverProt (d : Dev) (die m : Nat) (sup : Bool) (addr len access : Nat) :
    (d.moverProt die m sup addr len access).2.copies = d.copies := by simp [Dev.moverProt]

@[simp] theorem copies_tapFail (d : Dev) (t : Nat) (r : TapRun) (status p : Nat) : (d.tapFail t r status p).1.copies = d.copies := by
  unfold Dev.tapFail
  split <;> simp +decide

@[simp] theorem copies_tapUnwind (d : Dev) (t : Nat) (r : TapRun) : (d.tapUnwind t r).copies = d.copies := by simp +decide [Dev.tapUnwind]

@[simp] theorem copies_tapLog (d : Dev) (t : Nat) : (d.tapLog t).copies = d.copies := by
  unfold Dev.tapLog
  split <;> simp

@[simp] theorem copies_tapAbandon (d : Dev) (t status : Nat) : (d.tapAbandon t status).copies = d.copies := by
  unfold Dev.tapAbandon
  split <;> simp

@[simp] theorem copies_tapCut (d : Dev) (t ring desc : Nat) : (d.tapCut t ring desc).copies = d.copies := by
  unfold Dev.tapCut
  split <;> simp

@[simp] theorem copies_tapForget (d : Dev) (t : Nat) : (d.tapForget t).copies = d.copies := by
  unfold Dev.tapForget
  split <;> simp +decide

@[simp] theorem steady_tapCheckCfg (d : Dev) (x t : Nat) (was shape : Bool) : (d.tapCheckCfg x t was shape).copies.1 = d.copies.1 := by simp [Dev.tapCheckCfg]

/-! Movers and rings -/

@[simp] theorem copies_modRing (d : Dev) (r : Nat) (f : Ring → Ring) : (d.modRing r f).copies = d.copies := (rfl)
@[simp] theorem copies_setMover (d : Dev) (x m : Nat) (v : Mover) : (d.setMover x m v).copies = d.copies := (rfl)
@[simp] theorem copies_setRingState (d : Dev) (r st : Nat) : (d.setRingState r st).copies = d.copies := by simp +decide [Dev.setRingState]

@[simp] theorem copies_ringEvent (d : Dev) (f : Fld) (r : Nat) (h : f.reg.copied = false) : (d.ringEvent f r).copies = d.copies :=
  by simp +decide [Dev.ringEvent, *]

@[simp] theorem copies_notice (d : Dev) (r : Nat) : (d.notice r).copies = d.copies := by simp [Dev.notice]
@[simp] theorem copies_doorbell (d : Dev) (r tail : Nat) : (d.doorbell r tail).copies = d.copies := by simp +decide [Dev.doorbell]
@[simp] theorem copies_putRun (d : Dev) (r : Nat) (x : DescRun) : (d.putRun r x).copies = d.copies := (rfl)

@[simp] theorem copies_moverBbProt (d : Dev) (die m : Nat) (sup : Bool) (addr len space port access : Nat) :
    (d.moverBbProt die m sup addr len space port access).2.copies = d.copies := by simp [Dev.moverBbProt]

@[simp] theorem copies_hostAllowed (d : Dev) (r : Nat) (h : HostMap) (off len access : Nat) : (d.hostAllowed r h off len access).2.2.copies = d.copies := by
  refine List.foldlRecOn (motive := fun a : List (Nat × Nat) × Option Nat × Dev => a.2.2.copies = d.copies) _ _ rfl fun a ha s _ => ?_
  exact (copies_moverProt ..).trans ha

@[simp] theorem copies_blkToTile (d : Dev) (r : Nat) (x : DescRun) (b : Blk) : (d.blkToTile r x b).copies = d.copies := by simp [Dev.blkToTile]

@[simp] theorem copies_blkToHost (d : Dev) (r : Nat) (x : DescRun) (b : Blk) (bytes : List Byte) :
    (d.blkToHost r x b bytes).copies = d.copies := by simp [Dev.blkToHost]

@[simp] theorem copies_startBlk (d : Dev) (r : Nat) (x : DescRun) (off len port addr : Nat) (rest : List (Nat × Nat)) :
    (d.startBlk r x off len port addr rest).copies = d.copies := by
  unfold Dev.startBlk
  extract_lets g die wr
  split
  rename_i bbParts bbLow b hb
  have hb : b.copies = d.copies := by
    split at hb
    · exact (congrArg (·.2.2.copies) hb).symm
    · exact (congrArg (·.2.2.copies) hb).symm.trans (copies_moverBbProt ..)
  split
  rename_i hostParts hostLow c hc
  have hc : c.copies = d.copies := by
    split at hc
    · exact (congrArg (·.2.2.copies) hc).symm.trans hb
    · exact (congrArg (·.2.2.copies) hc).symm.trans ((copies_hostAllowed ..).trans hb)
  rw [← hc]
  extract_lets
  split
  · exact copies_putRun ..
  · split
    · exact (copies_foldl (fun e k => (copies_hostFrom ..).trans (copies_fresh e)) _ _).trans ((copies_putRun ..).trans (copies_putRun ..))
    · exact (copies_blkToTile ..).trans (copies_putRun ..)
    · exact (copies_blkToTile ..).trans (copies_putRun ..)
    · exact (copies_blkToHost ..).trans (copies_putRun ..)

@[simp] theorem copies_cplSend (d : Dev) (r : Nat) (ws : List Word) (who : Who) : (d.cplSend r ws who).copies = d.copies := by simp [Dev.cplSend]

@[simp] theorem copies_cplPump (d : Dev) (r : Nat) : (d.cplPump r).copies = d.copies := by
  unfold Dev.cplPump
  dsimp only
  split <;> simp

@[simp] theorem copies_stageCpls (all : Bool) (k : Nat) (d : Dev) (r : Nat) : (Dev.stageCpls all k d r).copies = d.copies := by
  induction k generalizing d with
  | zero => rfl
  | succ k ih =>
    unfold Dev.stageCpls
    dsimp only
    split
    · rfl
    · split
      · simp +decide [ih]
      · rfl

@[simp] theorem copies_ringStopErr (d : Dev) (r count : Nat) : (d.ringStopErr r count).copies = d.copies := by simp +decide [Dev.ringStopErr]
@[simp] theorem copies_countEnd (d : Dev) (r status : Nat) : (d.countEnd r status).copies = d.copies := by simp +decide [Dev.countEnd]
@[simp] theorem copies_endRun (d : Dev) (r : Nat) (x : DescRun) : (d.endRun r x).copies = d.copies := by simp [Dev.endRun]
@[simp] theorem copies_afterMove (d : Dev) (r : Nat) (x : DescRun) : (d.afterMove r x).copies = d.copies := by simp [Dev.afterMove]

@[simp] theorem copies_moved (d : Dev) (r : Nat) (x : DescRun) : (d.moved r x).copies = d.copies := by
  unfold Dev.moved
  split <;> simp

@[simp] theorem copies_pumpRun (k : Nat) (d : Dev) (r count : Nat) : (Dev.pumpRun k d r count).copies = d.copies := by
  induction k generalizing d with
  | zero => rfl
  | succ k ih =>
    unfold Dev.pumpRun
    dsimp only
    repeat' split
    all_goals simp [ih]

@[simp] theorem copies_goRun (d : Dev) (r count : Nat) : (d.goRun r count).copies = d.copies := by
  unfold Dev.goRun
  split <;> simp

@[simp] theorem copies_pullWork (d : Dev) (r count : Nat) : (d.pullWork r count).copies = d.copies := by
  refine copies_foldl (fun e q => ?_) _ d
  dsimp only
  repeat' split
  all_goals simp

@[simp] theorem copies_stopRun (d : Dev) (r : Nat) (x : DescRun) (e : DErr) : (d.stopRun r x e).copies = d.copies := by
  unfold Dev.stopRun
  dsimp only
  split <;> simp

@[simp] theorem copies_unfetch (d : Dev) (r : Nat) : (d.unfetch r).copies = d.copies := by simp +decide [Dev.unfetch]
@[simp] theorem copies_dropFetch (d : Dev) (r : Nat) : (d.dropFetch r).copies = d.copies := by simp [Dev.dropFetch]

@[simp] theorem copies_abortRuns (d : Dev) (r : Nat) (e : DErr) : (d.abortRuns r e).copies = d.copies := by
  refine copies_foldl (fun c y => ?_) _ d
  dsimp only
  repeat' split
  all_goals simp

@[simp] theorem copies_abortFences (d : Dev) (r : Nat) : (d.abortFences r).copies = d.copies := by
  refine copies_foldl (fun e q => ?_) _ d
  split
  · exact copies_endRun ..
  · rfl

@[simp] theorem copies_ringStop (d : Dev) (r : Nat) : (d.ringStop r).copies = d.copies := by simp [Dev.ringStop]
@[simp] theorem copies_ringResume (d : Dev) (r : Nat) : (d.ringResume r).copies = d.copies := by simp [Dev.ringResume]
@[simp] theorem copies_ringUp (d : Dev) (x r : Nat) : (d.ringUp x r).copies = d.copies := by simp +decide [Dev.ringUp]
@[simp] theorem copies_ringReset (d : Dev) (r : Nat) : (d.ringReset r).copies = d.copies := by simp [Dev.ringReset]

@[simp] theorem copies_ringTrigger (d : Dev) (r k : Nat) : (d.ringTrigger r k).2.copies = d.copies := by
  unfold Dev.ringTrigger
  repeat' split
  all_goals simp_all

@[simp] theorem copies_moverResetBegin (d : Dev) (x m : Nat) : (d.moverResetBegin x m).copies = d.copies := by simp +decide [Dev.moverResetBegin]
@[simp] theorem copies_moverReset (d : Dev) (x m : Nat) : (d.moverReset x m).copies = d.copies := by simp [Dev.moverReset]
@[simp] theorem steady_ringCheck (d : Dev) (x r : Nat) : (d.ringCheck x r).copies.1 = d.copies.1 := by simp +decide [Dev.ringCheck]
@[simp] theorem steady_stripeCheck (d : Dev) (x s : Nat) : (d.stripeCheck x s).copies.1 = d.copies.1 := by simp [Dev.stripeCheck]

/-! Clocks -/

@[simp] theorem copies_modClk (d : Dev) (x : Nat) (f : Clock → Clock) : (d.modClk x f).copies = d.copies := (rfl)

@[simp] theorem copies_setPll (d : Dev) (x k st : Nat) : (d.setPll x k st).copies = d.copies := by
  refine copies_setFld _ _ _ _ _ ?_
  unfold pllField
  split
  · decide
  · split <;> decide

@[simp] theorem copies_syncOk (d : Dev) (x : Nat) : (d.syncOk x).copies = d.copies := by simp +decide [Dev.syncOk]
@[simp] theorem copies_setRef (d : Dev) (x k c : Nat) : (d.setRef x k c).copies = d.copies := (rfl)
@[simp] theorem copies_setRoot (d : Dev) (x src : Nat) : (d.setRoot x src).copies = d.copies := by simp +decide [Dev.setRoot]
@[simp] theorem copies_startPll (d : Dev) (x k : Nat) : (d.startPll x k).copies = d.copies := by simp +decide [Dev.startPll]
@[simp] theorem copies_restore (d : Dev) (x : Nat) : (d.restore x).copies = d.copies := by simp +decide [Dev.restore]

@[simp] theorem copies_pllSwap {refuse : Dev → Dev} (h : ∀ d, (refuse d).copies = d.copies) (d : Dev) (x : Nat) : (d.pllSwap x refuse).copies = d.copies :=
  by simp +decide [Dev.pllSwap, *]

@[simp] theorem copies_sleep (d : Dev) (x : Nat) : (d.sleep x).copies = d.copies := by simp +decide [Dev.sleep]

/-! Port power -/

@[simp] theorem copies_modMp (d : Dev) (p : Nat) (f : MagPort → MagPort) : (d.modMp p f).copies = d.copies := (rfl)
@[simp] theorem copies_mpGo (d : Dev) (p st : Nat) : (d.mpGo p st).copies = d.copies := by simp +decide [Dev.mpGo]
@[simp] theorem copies_mpCheck (d : Dev) (p : Nat) : (d.mpCheck p).copies = d.copies := by simp +decide [Dev.mpCheck]
@[simp] theorem copies_mpEnable (d : Dev) (p : Nat) (en : Bool) : (d.mpEnable p en).copies = d.copies := by simp +decide [Dev.mpEnable]
@[simp] theorem copies_mpLeaveFault (d : Dev) (p : Nat) : (d.mpLeaveFault p).copies = d.copies := by simp [Dev.mpLeaveFault]
@[simp] theorem copies_mpClear (d : Dev) (p : Nat) : (d.mpClear p).copies = d.copies := by simp [Dev.mpClear]

/-! Monitors -/

@[simp] theorem copies_monClear (d : Dev) (x s : Nat) : (d.monClear x s).copies = d.copies := by simp +decide [Dev.monClear]
@[simp] theorem copies_monMoved (d : Dev) (x r home : Nat) : (d.monMoved x r home).copies = d.copies := by simp +decide [Dev.monMoved]

@[simp] theorem copies_monSource (d : Dev) (x s v : Nat) : (d.monSource x s v).copies = d.copies := by
  have h : ∀ (c : Dev) m, ({ c with monFrom := m } : Dev).copies = c.copies := fun _ _ => rfl
  rw [Dev.monSource, copies_monClear, h, copies_setFld _ _ _ _ _ (by decide), copies_setFld _ _ _ _ _ (by decide)]

/-! Mortar links -/

@[simp] theorem copies_morTrain (d : Dev) (x k : Nat) (ok : Bool) : (d.morTrain x k ok).copies = d.copies := by
  unfold Dev.morTrain
  split <;> simp +decide

end Sys2Proof.Machine

/-! ## The same of the configuration's own effects, of service, of register accesses and of the steps of a start -/

namespace Sys2Proof.Machine

/-! The order of configuration -/

@[simp] theorem copies_openSeal (d : Dev) (x : Nat) : (d.openSeal x).copies = d.copies := by simp +decide [Dev.openSeal]

/-- A COMMIT of the seal writes PKG_SEAL_VALUE and PKG_SEAL_STAT, and the walker begins anew. -/
theorem sealCommit_form (d : Dev) (x : Nat) : ∃ (w : Word) (a b : Nat) (s r : List Nat), d.sealCommit x =
    if d.variant = .ez8 then { ((d.setReg .PKG_SEAL_VALUE 0 x w).setFld PKG_SEAL_STAT.SEALED 0 0 a).setFld PKG_SEAL_STAT.OPEN 0 0 b with
      sealStop := s, reloaded := r } else d := ⟨_, _, _, _, _, rfl⟩

@[simp] theorem copies_sealCommit (d : Dev) (x : Nat) : (d.sealCommit x).copies = d.copies := by
  have h : ∀ (c : Dev) s r, ({ c with sealStop := s, reloaded := r } : Dev).copies = c.copies := fun _ _ _ => rfl
  obtain ⟨w, a, b, s, r, hform⟩ := sealCommit_form d x
  rw [hform]
  split
  · rw [h]
    simp +decide
  · rfl

@[simp] theorem steady_putP (d : Dev) (l : Loc) (w : Word) : (d.putP l w).copies.1 = d.copies.1 := (rfl)

@[simp] theorem steady_windowWritten (d : Dev) (x : Nat) (inb : Bool) (w : Nat) (ctl : Bool) :
    (d.windowWritten x inb w ctl).copies.1 = d.copies.1 := by simp [Dev.windowWritten]

@[simp] theorem steady_irqWritten (d : Dev) (x : Nat) (ctl tgt : RegId) (i : Nat) (bbin : Bool) :
    (d.irqWritten x ctl tgt i bbin).copies.1 = d.copies.1 := by simp [Dev.irqWritten]

@[simp] theorem copies_tcInval (d : Dev) (x : Nat) (v : Word) : (d.tcInval x v).copies = d.copies := by simp [Dev.tcInval]

@[simp] theorem steady_cfgHook (d : Dev) (x : Nat) (r : RegId) (i : Nat) (v : Word) : (d.cfgHook x r i v).copies.1 = d.copies.1 := by
  unfold Dev.cfgHook
  split <;> simp

@[simp] theorem steady_cfgPlace (d : Dev) (x : Nat) (w : CfgWrite) : (d.cfgPlace x w).copies.1 = d.copies.1 := by
  unfold Dev.cfgPlace
  dsimp only
  repeat' split
  all_goals simp

@[simp] theorem steady_accErr (d : Dev) (s : Src) (write : Bool) (reason off len : Nat) :
    (d.accErr s write reason off len).copies.1 = d.copies.1 := by simp +decide [Dev.accErr]

/-! Flash and ledger -/

@[simp] theorem steady_flashPut (d : Dev) (x a : Nat) (bs : List Byte) : (d.flashPut x a bs).copies.1 = d.copies.1 := (rfl)
@[simp] theorem steady_flashErase (d : Dev) (x a n : Nat) : (d.flashErase x a n).copies.1 = d.copies.1 := (rfl)
@[simp] theorem steady_bootEvent (d : Dev) (x : Nat) (f : Fld) : (d.bootEvent x f).copies.1 = d.copies.1 := (rfl)
@[simp] theorem steady_ledgerAppend (d : Dev) (x : Nat) (r : LedgerRec) : (d.ledgerAppend x r).copies.1 = d.copies.1 := by simp [Dev.ledgerAppend]
@[simp] theorem steady_keepRec (d : Dev) (x : Nat) (r : LedgerRec) : (d.keepRec x r).copies.1 = d.copies.1 := (rfl)
@[simp] theorem steady_ledgerWrite (d : Dev) (r : LedgerRec) : (d.ledgerWrite r).copies.1 = d.copies.1 := by simp [Dev.ledgerWrite]
@[simp] theorem steady_flashEnd (d : Dev) (x result : Nat) : (d.flashEnd x result).copies.1 = d.copies.1 := by simp [Dev.flashEnd]
@[simp] theorem steady_setFlashRun (d : Dev) (x : Nat) (v : Option (Nat × Nat)) : (d.setFlashRun x v).copies.1 = d.copies.1 := (rfl)
@[simp] theorem steady_flashCmd (d : Dev) (x op : Nat) : (d.flashCmd x op).copies.1 = d.copies.1 := by simp [Dev.flashCmd]
@[simp] theorem steady_markImage (d : Dev) (x image : Nat) : (d.markImage x image).copies.1 = d.copies.1 := by simp [Dev.markImage]

@[simp] theorem steady_readmitDies (d : Dev) (x mask : Nat) : (d.readmitDies x mask).copies.1 = d.copies.1 := by
  refine steady_foldl (fun e y => ?_) _ d
  rfl

/-! Service of tiles and dies -/

@[simp] theorem steady_setBond (d : Dev) (p st : Nat) (anchor : Bool) : (d.setBond p st anchor).copies.1 = d.copies.1 := by simp [Dev.setBond]
@[simp] theorem steady_bondSync (d : Dev) (p : Nat) : (d.bondSync p).copies.1 = d.copies.1 := by simp [Dev.bondSync]
@[simp] theorem steady_bondWritten (d : Dev) (p oldMate : Nat) : (d.bondWritten p oldMate).copies.1 = d.copies.1 := by simp [Dev.bondWritten]
@[simp] theorem steady_tilRefuse (d : Dev) (p code : Nat) : (d.tilRefuse p code).copies.1 = d.copies.1 := (rfl)
@[simp] theorem steady_moveBack (d : Dev) (p : Nat) : (d.moveBack p).copies.1 = d.copies.1 := by simp [Dev.moveBack]

@[simp] theorem steady_evacuate (d : Dev) (p : Nat) : (d.evacuate p).copies.1 = d.copies.1 := by
  unfold Dev.evacuate
  repeat' split
  all_goals simp_all

@[simp] theorem steady_tileBack (d : Dev) (p : Nat) : (d.tileBack p).copies.1 = d.copies.1 := by simp [Dev.tileBack]
@[simp] theorem steady_resetLoc (d : Dev) (l : Loc) : (d.resetLoc l).copies.1 = d.copies.1 := (rfl)
@[simp] theorem steady_resetRegs (d : Dev) (rs : List RegId) (u : Nat) : (d.resetRegs rs u).copies.1 = d.copies.1 := by simp [Dev.resetRegs]

@[simp] theorem steady_reloadTile (d : Dev) (p : Nat) : (d.reloadTile p).copies.1 = d.copies.1 := by
  refine steady_foldl (fun e k => ?_) _ d
  split
  · split <;> rfl
  · rfl

@[simp] theorem steady_freshBlock (d : Dev) (b : Nat) : (d.freshBlock b).copies.1 = d.copies.1 := (rfl)
@[simp] theorem steady_tileClear (d : Dev) (p : Nat) : (d.tileClear p).copies.1 = d.copies.1 := by simp [Dev.tileClear]
@[simp] theorem steady_tileReset (d : Dev) (p : Nat) : (d.tileReset p).copies.1 = d.copies.1 := by simp [Dev.tileReset]
@[simp] theorem steady_setBanks (d : Dev) (x mask : Nat) : (d.setBanks x mask).copies.1 = d.copies.1 := (rfl)
@[simp] theorem copies_dieRefuse (d : Dev) (x code : Nat) : (d.dieRefuse x code).copies = d.copies := by simp +decide [Dev.dieRefuse]

@[simp] theorem steady_dieReset (d : Dev) (x : Nat) : (d.dieReset x).copies.1 = d.copies.1 := by
  unfold Dev.dieReset
  repeat' split
  · simp
  · simp
  · simp
  · rfl
  · exact (steady_foldl (fun e p => steady_evacuate e p) _ _).trans (steady_setFld d DIE_SVC_STAT.STATE x 0 1)

@[simp] theorem steady_roleSync (d : Dev) : d.roleSync.copies.1 = d.copies.1 := by simp [Dev.roleSync]

@[simp] theorem steady_mcLoading (d : Dev) (x image : Nat) : (d.mcLoading x image).copies.1 = d.copies.1 :=
  (steady_roleSync _).trans (steady_setFld d MC_ROLE.ROLE x 0 0)

@[simp] theorem steady_recal (d : Dev) (p : Nat) : (d.recal p).copies.1 = d.copies.1 := by simp [Dev.recal]
@[simp] theorem steady_countLost (d : Dev) (x q k : Nat) : (d.countLost x q k).copies.1 = d.copies.1 := by simp [Dev.countLost]
@[simp] theorem steady_queueFlush (d : Dev) (x q : Nat) : (d.queueFlush x q).copies.1 = d.copies.1 := by simp [Dev.queueFlush]
@[simp] theorem steady_mcRestart (d : Dev) (x image : Nat) : (d.mcRestart x image).copies.1 = d.copies.1 := by simp [Dev.mcRestart]

/-! Register access -/

@[simp] theorem steady_setShadow (d : Dev) (k : Key) (v : Option Word) : (d.setShadow k v).copies.1 = d.copies.1 := (rfl)
@[simp] theorem steady_mireClear (d : Dev) (inb : Bool) (w : Nat) : (d.mireClear inb w).copies.1 = d.copies.1 := by simp [Dev.mireClear]
@[simp] theorem steady_vioClear (d : Dev) (u : Nat) : (d.vioClear u).copies.1 = d.copies.1 := (rfl)

@[simp] theorem steady_tilSvc (d : Dev) (p : Nat) (v : Word) : (d.tilSvc p v).copies.1 = d.copies.1 := by
  unfold Dev.tilSvc
  split <;> simp

@[simp] theorem steady_swapCmd (d : Dev) (x : Nat) : (d.swapCmd x).copies.1 = d.copies.1 := by simp [Dev.swapCmd]

@[simp] theorem steady_ringCmd (d : Dev) (r : Nat) (v : Word) : (d.ringCmd r v).2.copies.1 = d.copies.1 := by
  unfold Dev.ringCmd
  split <;> simp

@[simp] theorem steady_ledgerCtl (d : Dev) (x : Nat) (v : Word) : (d.ledgerCtl x v).copies.1 = d.copies.1 := by simp [Dev.ledgerCtl]

/-! Start-up -/

@[simp] theorem steady_holdRec (d : Dev) (x : Nat) (r : LedgerRec) : (d.holdRec x r).copies.1 = d.copies.1 := by simp [Dev.holdRec]
@[simp] theorem steady_bootRec (d : Dev) (x : Nat) (r : LedgerRec) : (d.bootRec x r).copies.1 = d.copies.1 := by simp [Dev.bootRec]
@[simp] theorem steady_sendHeld (d : Dev) (x : Nat) : (d.sendHeld x).copies.1 = d.copies.1 := by simp [Dev.sendHeld]
@[simp] theorem steady_noteCause (d : Dev) : d.noteCause.copies.1 = d.copies.1 := (rfl)

@[simp] theorem steady_flushHeld (d : Dev) (found : Nat) : (d.flushHeld found).copies.1 = d.copies.1 := by
  unfold Dev.flushHeld
  dsimp only [Dev.draw]
  refine (steady_foldl (fun e x => steady_setReg ..) _ _).trans ?_
  have hput := fun (rs : List LedgerRec) (e : Dev) => steady_foldl (f := fun d r => d.ledgerDies.foldl (fun d x => d.ledgerAppend x r) d)
    (fun d r => steady_foldl (fun d x => steady_ledgerAppend d x r) _ d) rs e
  split
  · exact (steady_keepRec ..).trans (hput _ _)
  · exact hput _ _

@[simp] theorem steady_setHist (d : Dev) (x s : Nat) (o : StepOutcome) : (d.setHist x s o).copies.1 = d.copies.1 := (rfl)

@[simp] theorem steady_headerLocks (d : Dev) : d.headerLocks.copies.1 = d.copies.1 := by
  unfold Dev.headerLocks
  split <;> simp

@[simp] theorem steady_takeImage (d : Dev) (x image sync : Nat) : (d.takeImage x image sync).copies.1 = d.copies.1 := (rfl)

@[simp] theorem steady_loadImage (d : Dev) (x image : Nat) : (d.loadImage x image).2.copies.1 = d.copies.1 := by
  unfold Dev.loadImage
  split <;> simp

@[simp] theorem steady_startFails (d : Dev) (x : Option Nat) : (d.startFails x).copies.1 = d.copies.1 := by
  unfold Dev.startFails
  dsimp only
  repeat' split
  all_goals rfl

@[simp] theorem steady_markStep (d : Dev) (s x : Nat) (r : RegId) : (d.markStep s x r).copies.1 = d.copies.1 := by simp [Dev.markStep]
@[simp] theorem steady_stepLost (d : Dev) (s x : Nat) : (d.stepLost s x).copies.1 = d.copies.1 := by simp [Dev.stepLost]
@[simp] theorem steady_leaveOut (d : Dev) (x : Nat) : (d.leaveOut x).copies.1 = d.copies.1 := by simp [Dev.leaveOut]

end Sys2Proof.Machine

/-! ## What holds the package in reset, over the whole of a start -/

namespace Sys2Proof.Machine

/-- What holds the package in reset (R404, R418): the pin, and the rails that are low. -/
def Dev.pinned (d : Dev) : Bool × List (Nat × Nat) := (d.fen.asserted, d.fen.low)

theorem pinned_of_steady {d e : Dev} (h : e.steady = d.steady) : e.pinned = d.pinned := congrArg (fun t => (t.2.2.2.1, t.2.2.2.2)) h

theorem pinned_ite {c : Prop} [Decidable c] {d a b : Dev} (ha : a.pinned = d.pinned) (hb : b.pinned = d.pinned) :
    (if c then a else b).pinned = d.pinned := by
  split
  · exact ha
  · exact hb

theorem pinned_foldl {α : Type} {f : Dev → α → Dev} (h : ∀ d a, (f d a).pinned = d.pinned) (xs : List α) (d : Dev) :
    (xs.foldl f d).pinned = d.pinned := foldl_kept Dev.pinned h xs d

theorem pinned_of_copies {d e : Dev} (h : e.copies = d.copies) : e.pinned = d.pinned := pinned_of_steady (steady_of_copies h)

/-! The lead's order -/

theorem pinned_pruneCfg (d : Dev) : d.pruneCfg.pinned = d.pinned := by
  unfold Dev.pruneCfg
  exact pinned_ite rfl rfl

theorem pinned_applyNext (d : Dev) (x : Nat) : (d.applyNext x).pinned = d.pinned := by
  unfold Dev.applyNext
  split
  · rfl
  · exact (pinned_of_steady (steady_cfgPlace ..)).trans rfl

theorem pinned_applyTo (d : Dev) (x n : Nat) : (d.applyTo x n).pinned = d.pinned := pinned_foldl (fun d _ => pinned_applyNext d x) _ d

theorem pinned_leadTakes (d : Dev) (w : CfgWrite) (at_ : Nat) : (d.leadTakes w at_).pinned = d.pinned :=
  (pinned_pruneCfg _).trans (pinned_foldl (fun d x => pinned_applyTo d x _) _ _)

theorem pinned_cfgWrite (d : Dev) (L : Locks) (off : Nat) (v : Word) (path at_ : Nat) : (d.cfgWrite L off v path at_).pinned = d.pinned := by
  unfold Dev.cfgWrite
  exact pinned_ite rfl (pinned_leadTakes ..)

theorem pinned_releaseCfg (d : Dev) (L : Locks) : (d.releaseCfg L).pinned = d.pinned := by
  refine List.foldlRecOn (motive := fun a : Bool × Dev => a.2.pinned = d.pinned) _ _ rfl fun a ha h _ => ?_
  exact (pinned_leadTakes ..).trans (pinned_ite ((pinned_of_steady (steady_accErr ..)).trans ha) ha)

/-! The lead -/

theorem pinned_newLead (d : Dev) (L : Locks) (x : Nat) : (d.newLead L x).pinned = d.pinned := by
  unfold Dev.newLead
  refine (pinned_of_copies (copies_evqPump _)).trans ((pinned_releaseCfg _ L).trans ((pinned_of_steady (steady_roleSync _)).trans ?_))
  have h : ((({ d with lead := { lead := x } } : Dev).nameMirrors.setFld MC_ROLE.ROLE x 0 3).raise x evLead ⟨.MC_ROLE, x, 0⟩ 30 x).pinned = d.pinned :=
    pinned_of_steady (steady_nameMirrors ..)
  exact pinned_ite h h

theorem pinned_handoffDone (d : Dev) (L : Locks) (e : Nat) : (d.handoffDone L e).pinned = d.pinned := by
  unfold Dev.handoffDone
  have h : ((d.newLead L e).bump MC_HB.HANDOFFS e).pinned = d.pinned := pinned_newLead d L e
  refine (pinned_of_steady (steady_roleSync _)).trans ?_
  have h' : ∀ c : Dev, c.pinned = d.pinned → (if d.lead.lead != e && c.fld MC_ROLE.ROLE d.lead.lead == 3 then
      c.setFld MC_ROLE.ROLE d.lead.lead 0 1 else c).pinned = d.pinned := fun c hc => pinned_ite hc hc
  refine h' _ (pinned_ite ((pinned_foldl (fun c y => ?_) _ _).trans h) h)
  exact pinned_ite rfl rfl

theorem pinned_handoffTry (d : Dev) (L : Locks) : (d.handoffTry L).pinned = d.pinned := by
  unfold Dev.handoffTry
  split
  · exact pinned_ite (pinned_handoffDone ..) rfl
  · rfl

theorem pinned_handoff (d : Dev) (L : Locks) (e : Nat) : (d.handoff L e).pinned = d.pinned := by
  unfold Dev.handoff
  exact pinned_ite (pinned_handoffTry ..) rfl

theorem pinned_dieSvc (d : Dev) (L : Locks) (x : Nat) (v : Word) : (d.dieSvc L x v).pinned = d.pinned := by
  unfold Dev.dieSvc
  split
  · rfl
  · exact pinned_of_steady (steady_dieReset ..)
  · exact pinned_of_steady (steady_swapCmd ..)
  · exact pinned_handoff ..
  · exact pinned_of_steady (steady_mcRestart ..)
  · rfl

/-! Writes of registers -/

theorem pinned_writeHook (d : Dev) (L : Locks) (s : Src) (l : Loc) (locked : Bool) (old v : Word) : (d.writeHook L s l locked old v).2.pinned = d.pinned := by
  obtain ⟨r, u, i⟩ := l
  by_cases hr : r = .DIE_SVC
  · subst hr
    exact pinned_dieSvc ..
  · refine pinned_of_steady ?_
    unfold Dev.writeHook
    split <;> simp_all
    split <;> simp

theorem pinned_openSeal_put (d : Dev) (x : Nat) (l : Loc) (w : Word) : ((d.openSeal x).put l w).pinned = d.pinned := pinned_of_steady (by simp)

theorem pinned_writeCourse (d : Dev) (L : Locks) (s : Src) (off : Nat) (v : Word) (at_ : Nat) : (d.writeCourse L s off v at_).2.pinned = d.pinned := by
  unfold Dev.writeCourse
  split
  · rfl
  · extract_lets locked hit l lo b twice m old c e
    have hb : b.pinned = d.pinned := by
      obtain ⟨o, ho⟩ : ∃ o, o = lo := ⟨lo, rfl⟩
      show (match lo with | some o => _ | none => d).pinned = d.pinned
      rw [← ho]
      cases o <;> rfl
    split
    · exact (pinned_cfgWrite ..).trans hb
    · refine (pinned_writeHook ..).trans (Eq.trans ?_ hb)
      exact pinned_ite rfl (pinned_ite (pinned_openSeal_put b l.keeper l (merged old v m)) rfl)

/-! Presets and locks of the flash header (R431, R433) -/

theorem pinned_presetOne (d : Dev) (L : Locks) (off : Nat) (v : Word) : (d.presetOne L off v).2.pinned = d.pinned := by
  have hp : ∀ q, (d.protCheck q).2.pinned = d.pinned := fun q => pinned_of_copies (copies_protCheck d q)
  unfold Dev.presetOne
  extract_lets src
  split
  rename_i ans c hc
  have hcd : c.pinned = d.pinned := (congrArg (·.2.pinned) hc).symm.trans (hp _)
  split
  · exact hcd
  · split
    · exact (pinned_of_steady (steady_accErr ..)).trans hcd
    · split
      rename_i r e he
      have hec : e.pinned = d.pinned := (congrArg (·.2.pinned) he).symm.trans ((pinned_writeCourse ..).trans hcd)
      split
      · exact (pinned_of_steady (steady_accErr ..)).trans hec
      · exact hec

theorem pinned_presets (d : Dev) (L : Locks) : (d.presets L).2.pinned = d.pinned := by
  unfold Dev.presets
  split
  · rfl
  · extract_lets n bs ws
    split
    · rfl
    · refine List.foldlRecOn (motive := fun a : Bool × Dev => a.2.pinned = d.pinned) _ _ rfl fun a ha k _ => ?_
      exact (pinned_presetOne ..).trans ha

/-! The steps of a start -/

theorem pinned_elect (d : Dev) : d.elect.pinned = d.pinned := by
  unfold Dev.elect
  split
  · rfl
  · refine (pinned_of_steady (steady_roleSync _)).trans ((pinned_foldl (fun c x => ?_) _ _).trans rfl)
    exact pinned_ite rfl (pinned_ite rfl rfl)

theorem pinned_bootDo (d : Dev) (L : Locks) (s x method detail : Nat) : (d.bootDo L s x method detail).2.pinned = d.pinned := by
  unfold Dev.bootDo
  extract_lets ok
  split
  · split
    rename_i v c hc
    have h : (if method = 0 then (detail, d) else d.draw).2.pinned = d.pinned := by
      split
      · rfl
      · exact pinned_of_copies (copies_draw d)
    exact (congrArg (·.2.pinned) hc).symm.trans h
  · exact pinned_of_steady (by simp +zetaDelta)
  · exact pinned_of_steady (by split <;> simp +zetaDelta)
  · exact pinned_of_steady (by simp +zetaDelta)
  · exact pinned_of_steady (by simp +zetaDelta)
  · split
    · refine (pinned_of_steady (steady_flushHeld ..)).trans (pinned_foldl (fun d y => ?_) _ _)
      exact pinned_ite rfl rfl
    · rfl
  · exact pinned_of_steady (steady_loadImage ..)
  · exact pinned_ite rfl rfl
  · split
    · rfl
    · exact pinned_of_steady (by split <;> simp +zetaDelta)
  · exact pinned_ite rfl rfl
  · split <;> rfl
  · exact pinned_presets ..
  · exact pinned_of_steady (steady_headerLocks ..)
  · exact pinned_of_steady (by split <;> simp +zetaDelta)
  · split
    · rfl
    · refine (pinned_foldl (fun c y => ?_) _ _).trans ((pinned_foldl (fun c y => ?_) _ _).trans ?_)
      · rfl
      · exact pinned_of_steady (steady_ledgerWrite ..)
      · rfl
  · rfl

theorem pinned_tryMethod (d : Dev) (L : Locks) (s x method detail : Nat) (fails : Bool) :
    (d.tryMethod L s x method detail fails).2.pinned = d.pinned := by
  unfold Dev.tryMethod
  extract_lets a b
  have hb : b.pinned = d.pinned := pinned_of_steady (by simp +zetaDelta)
  split
  rename_i good c hc
  have h : c.pinned = d.pinned := by
    refine (congrArg (·.2.pinned) hc).symm.trans (Eq.trans ?_ hb)
    split
    · rfl
    · exact pinned_bootDo ..
  split
  · exact (pinned_of_steady (by split <;> simp)).trans h
  · exact (pinned_of_steady (by simp)).trans h

theorem pinned_runStep (d : Dev) (L : Locks) (hw : List BootFact) (s x : Nat) : (d.runStep L hw s x).pinned = d.pinned := by
  have lost : ∀ c : Dev, c.pinned = d.pinned → (c.stepLost s x).pinned = d.pinned := fun c h => (pinned_of_steady (steady_stepLost ..)).trans h
  have tried : ∀ (c : Dev) m n f, c.pinned = d.pinned → ∀ r : Bool × Dev, c.tryMethod L s x m n f = r → r.2.pinned = d.pinned :=
    fun c m n f h r hr => (congrArg (·.2.pinned) hr).symm.trans ((pinned_tryMethod ..).trans h)
  unfold Dev.runStep
  split
  · rfl
  · extract_lets f m a b
    have hb : b.pinned = d.pinned := pinned_of_steady (by simp +zetaDelta)
    clear_value b
    split
    · exact lost _ ((pinned_of_steady (by simp)).trans hb)
    · split
      · exact (pinned_of_steady (steady_bootRec ..)).trans hb
      · split
        · split
          rename_i good c hc
          have h := tried _ _ _ _ hb _ hc
          exact pinned_ite h (lost _ h)
        · split
          rename_i good c hc
          have h := tried _ _ _ _ hb _ hc
          refine pinned_ite h (pinned_ite ?_ (lost _ h))
          split
          rename_i good' e he
          have h' := tried _ _ _ _ h _ he
          exact pinned_ite h' (lost _ h')

/-- A start before its first step: the dies left out, the cause noted, the lead that of the lowest die in service. -/
def Dev.readied (d : Dev) : Dev :=
  let out := if d.fen.cold then [] else d.fen.leftOut.filter fun x => !d.fen.readmit.contains x
  let d := { d with fen := { d.fen with leftOut := out, readmit := [], ahead := d.fen.ahead + 1 }, lost := [], homes := [], mirrors := [] }
  let d := (out.foldl Dev.leaveOut d).noteCause
  let d := { d with lead := { lead := (d.dies.find? fun x => d.inService x).getD 0 } }
  d.dies.foldl (fun d x =>
    (d.setFld MC_BOOT_STAT.COLD x 0 (if d.fen.cold then 1 else 0)).setFld MC_BOOT_STAT.FAILED_STARTS x 0
      (min (d.failedStarts.get 0 ⟨x, 0, 0⟩) 15)) d

/-- One step of a start, on every die that it runs on. -/
def Dev.bootRound (L : Locks) (hw : List BootFact) (d : Dev) (s : Nat) : Dev :=
  if d.bootStopped then d
  else
    let d := (d.bootDies s).foldl (fun d x => d.runStep L hw s x) d
    if s = 9 && !d.bootStopped then d.elect else d

/-- A start is its twenty steps, one after another. -/
theorem start_eq (d : Dev) (L : Locks) (hw : List BootFact) : d.start L hw = (List.range 20).foldl (Dev.bootRound L hw) d.readied := rfl

theorem pinned_readied (d : Dev) : d.readied.pinned = d.pinned := by
  unfold Dev.readied
  refine (pinned_foldl (fun c x => ?_) _ _).trans ?_
  · rfl
  refine (pinned_of_steady (steady_noteCause _)).trans ?_
  refine (pinned_foldl (fun c x => ?_) _ _).trans ?_
  · exact pinned_of_steady (steady_leaveOut ..)
  · rfl

theorem pinned_bootRound (L : Locks) (hw : List BootFact) (d : Dev) (s : Nat) : (d.bootRound L hw s).pinned = d.pinned := by
  unfold Dev.bootRound
  refine pinned_ite rfl ?_
  have h : ((d.bootDies s).foldl (fun d x => d.runStep L hw s x) d).pinned = d.pinned := pinned_foldl (fun d x => pinned_runStep ..) _ _
  exact pinned_ite ((pinned_elect _).trans h) h

/-- A start begins and ends nothing of what holds the package in reset. -/
theorem pinned_start (d : Dev) (L : Locks) (hw : List BootFact) : (d.start L hw).pinned = d.pinned := by
  rw [start_eq, pinned_foldl (pinned_bootRound L hw), pinned_readied]

end Sys2Proof.Machine

/-! ## The end of a start, and starts that fail (R420, R427, R428) -/

namespace Sys2Proof.Machine

/-- What tells how far a start has come: the fens, the dies left out, the starts that failed, and what MC_BOOT_STAT says of both. -/
def Dev.bootView (d : Dev) : Variant × List Nat × Fen × Store Nat × (Nat → Nat × Nat) :=
  (d.variant, d.lost, d.fen, d.failedStarts, fun y => (d.fld MC_BOOT_STAT.DONE y, d.fld MC_BOOT_STAT.FAILED_STARTS y))

theorem bootView_ite {c : Prop} [Decidable c] {d a b : Dev} (ha : a.bootView = d.bootView) (hb : b.bootView = d.bootView) :
    (if c then a else b).bootView = d.bootView := by
  split
  · exact ha
  · exact hb

/-- Fields of a start's own that no other write touches. -/
theorem bootView_setFld (d : Dev) {f : Fld} (hf : f.wide = true) (h : f.apart MC_BOOT_STAT.DONE = true ∧ f.apart MC_BOOT_STAT.FAILED_STARTS = true)
    (u i v : Nat) : (d.setFld f u i v).bootView = d.bootView := by
  have hy : ∀ y, ((d.setFld f u i v).fld MC_BOOT_STAT.DONE y, (d.setFld f u i v).fld MC_BOOT_STAT.FAILED_STARTS y) =
      (d.fld MC_BOOT_STAT.DONE y, d.fld MC_BOOT_STAT.FAILED_STARTS y) := fun y => by
    rw [fld_setFld_apart _ _ _ _ _ _ h.1 hf, fld_setFld_apart _ _ _ _ _ _ h.2 hf]
  exact congrArg (fun g => (d.variant, d.lost, d.fen, d.failedStarts, g)) (funext hy)

/-! Records of a start -/

theorem bootView_ledgerAppend (d : Dev) (x : Nat) (r : LedgerRec) : (d.ledgerAppend x r).bootView = d.bootView := by
  have hfill : ∀ (e : Dev) v, (e.setFld MC_FLASH_STAT.FILL x 0 v).bootView = e.bootView := fun e v => bootView_setFld e (by decide) (by decide) _ _ _
  have herr : (d.setFld MC_FLASH_STAT.WRITE_ERR x 0 1).bootView = d.bootView := bootView_setFld d (by decide) (by decide) _ _ _
  unfold Dev.ledgerAppend
  exact bootView_ite (bootView_ite herr ((hfill _ _).trans (bootView_ite rfl rfl))) rfl

theorem bootView_ledgerWrite (d : Dev) (r : LedgerRec) : (d.ledgerWrite r).bootView = d.bootView := by
  have h := foldl_kept Dev.bootView (step := fun (c : Dev) x => c.ledgerAppend x { r with boot := c.fen.boot, time := d.draw.1 })
    (fun c x => bootView_ledgerAppend c x _) d.draw.2.ledgerDies d.draw.2
  unfold Dev.ledgerWrite
  exact bootView_ite (Eq.trans rfl h) h

theorem bootView_holdRec (d : Dev) (x : Nat) (r : LedgerRec) : (d.holdRec x r).bootView = d.bootView := by
  unfold Dev.holdRec
  exact bootView_ite (bootView_setFld d (f := MC_BOOT_STAT.LOST) (by decide) (by decide) _ _ _) rfl

theorem bootView_bootRec (d : Dev) (x : Nat) (r : LedgerRec) : (d.bootRec x r).bootView = d.bootView := by
  unfold Dev.bootRec
  exact bootView_ite (bootView_holdRec ..) (bootView_ledgerWrite ..)

theorem bootView_setHist (d : Dev) (x s : Nat) (o : StepOutcome) : (d.setHist x s o).bootView = d.bootView := rfl

/-! A start that ends -/

/-- Every die in service shows that its start is done. -/
def Dev.finished (d : Dev) : Prop := ∀ y ∈ d.dies, d.inService y = true → d.fld MC_BOOT_STAT.DONE y = 1

theorem finished_congr {d e : Dev} (h : e.bootView = d.bootView) (hd : d.finished) : e.finished := by
  intro y hy hs
  have hv : e.variant = d.variant := congrArg (·.1) h
  have hl : e.lost = d.lost := congrArg (·.2.1) h
  have hf : e.fld MC_BOOT_STAT.DONE y = d.fld MC_BOOT_STAT.DONE y := congrArg (fun t => (t.2.2.2.2 y).1) h
  have hn : e.n = d.n := congrArg Variant.dies hv
  rw [hf]
  refine hd y (mem_dies.mpr (hn ▸ mem_dies.mp hy)) ?_
  rw [Dev.inService, hn, hl] at hs
  exact hs

/-- A start stops where a step hangs or is lost. -/
def Dev.doneOrStopped (d : Dev) : Prop := d.fen.hung = none → d.fen.failed = none → d.finished

/-- BS19 shows the start done on every die in service (R423). -/
def Dev.showDone (d : Dev) : Dev :=
  (d.dies.filter fun y => d.inService y).foldl (fun d y => (d.setFld MC_BOOT_STAT.FAILED_STARTS y 0 0).setFld MC_BOOT_STAT.DONE y 0 1) d

theorem finished_showDone (d : Dev) : d.showDone.finished := by
  obtain ⟨step, hdef, hstep⟩ : ∃ step : Dev → Nat → Dev, d.showDone = (d.dies.filter fun y => d.inService y).foldl step d ∧
      step = fun d y => (d.setFld MC_BOOT_STAT.FAILED_STARTS y 0 0).setFld MC_BOOT_STAT.DONE y 0 1 := ⟨_, rfl, rfl⟩
  have hkept : (d.showDone.variant, d.showDone.lost) = (d.variant, d.lost) := by
    rw [hdef]
    exact foldl_kept (fun c : Dev => (c.variant, c.lost)) (fun c y => by rw [hstep]; rfl) _ d
  have hn : d.showDone.n = d.n := congrArg (fun t => t.1.dies) hkept
  have hl : d.showDone.lost = d.lost := congrArg (·.2) hkept
  intro y hy hs
  have hmem : y ∈ d.dies.filter fun y => d.inService y := by
    refine List.mem_filter.mpr ⟨mem_dies.mpr (hn ▸ mem_dies.mp hy), ?_⟩
    rw [Dev.inService, hn, hl] at hs
    exact hs
  have hself : ∀ c, (step c y).fld MC_BOOT_STAT.DONE y = 1 := fun c => by
    rw [hstep]
    exact fld_setFld _ _ _ _ (by decide)
  rw [hdef]
  refine foldl_brings (P := fun c : Dev => c.fld MC_BOOT_STAT.DONE y = 1) _ (fun z _ c hc => ?_) ⟨y, hmem, hself⟩ d
  by_cases hz : z = y
  · exact hz ▸ hself c
  · rw [hstep]
    dsimp only
    rw [Dev.fld_setFld_ne _ _ _ _ _ _ _ _ (by simp [Ne.symm hz]), Dev.fld_setFld_ne _ _ _ _ _ _ _ _ (by simp [Ne.symm hz]), hc]

theorem bootDo_last (d : Dev) (L : Locks) (x method detail : Nat) (h : (d.bootDo L 19 x method detail).1 = true) :
    (d.bootDo L 19 x method detail).2.finished := by
  obtain ⟨c, hc⟩ : ∃ c : Dev, d.bootDo L 19 x method detail = if method = 0 && d.ledgerDies.all d.refuses then (false, d) else (true, c.showDone) :=
    ⟨_, rfl⟩
  rw [hc] at h ⊢
  split
  · rw [if_pos ‹_›] at h
    cases h
  · exact finished_showDone c

theorem finished_tryMethod (d : Dev) (L : Locks) (x method detail : Nat) (fails : Bool) (h : (d.tryMethod L 19 x method detail fails).1 = true) :
    (d.tryMethod L 19 x method detail fails).2.finished := by
  revert h
  unfold Dev.tryMethod
  extract_lets a b
  have good : ∀ r : Bool × Dev, (if fails then (false, b) else b.bootDo L 19 x method detail) = r → r.1 = true → r.2.finished := by
    intro r hr' hr
    subst hr'
    cases fails
    · exact bootDo_last b L x method detail hr
    · cases hr
  split
  rename_i g c hc
  have hg := good _ hc
  cases g
  · exact fun h => absurd h (by simp)
  · exact fun _ => finished_congr (bootView_bootRec c x _) (hg rfl)

/-! A start that fails -/

theorem startFails_none (d : Dev) : (d.startFails none).fen = { d.fen with hung := none, failed := some none } := rfl

/-- A start stopped by a required step of a die: it is counted, and the fourth in a row leaves the die out where another is left (R428). -/
theorem startFails_some (d : Dev) (x : Nat) :
    let e := d.startFails (some x)
    let k := d.failedStarts.get 0 ⟨x, 0, 0⟩ + 1
    e.fen.hung = none ∧ e.fen.failed = some (some x) ∧ e.fld MC_BOOT_STAT.FAILED_STARTS x = min k 15 ∧
      (k < 4 → e.failedStarts.get 0 ⟨x, 0, 0⟩ = k ∧ e.fen.leftOut = d.fen.leftOut) ∧
      (4 ≤ k → (∃ y ∈ d.dies, y ≠ x ∧ y ∉ d.fen.leftOut) → x ∈ e.fen.leftOut) ∧
      (4 ≤ k → (∀ y ∈ d.dies, y = x ∨ y ∈ d.fen.leftOut) → e.fen.leftOut = d.fen.leftOut ∧ Out.alert true ∈ e.out) := by
  intro e k
  obtain ⟨c, hc⟩ : ∃ c, c = ({ d with fen := { d.fen with hung := none, failed := some (some x) }, failedStarts := Store.set 0 ⟨x, 0, 0⟩ k [] } :
    Dev).setFld MC_BOOT_STAT.FAILED_STARTS x 0 (min k 15) := ⟨_, rfl⟩
  have hfen : c.fen = { d.fen with hung := none, failed := some (some x) } := by rw [hc]; rfl
  have hdies : c.dies = d.dies := by rw [hc]; rfl
  have hcount : c.failedStarts.get 0 ⟨x, 0, 0⟩ = k := by rw [hc]; exact Store.get_set_same 0 _ k []
  have hfld : c.fld MC_BOOT_STAT.FAILED_STARTS x = min k 15 := by
    rw [hc, fld_setFld _ _ _ _ (by decide)]
    exact Nat.mod_eq_of_lt (Nat.lt_of_le_of_lt (min_le_right _ _) (by decide))
  have hany : (d.dies.any fun y => y != x && !d.fen.leftOut.contains y) = true ↔ ∃ y ∈ d.dies, y ≠ x ∧ y ∉ d.fen.leftOut := by simp
  have he : e = if k < 4 then c else if d.dies.any fun y => y != x && !d.fen.leftOut.contains y then
      { c with fen := { c.fen with leftOut := (c.fen.leftOut.filter fun y => y != x) ++ [x] }, failedStarts := [] } else c.emit (.alert true) := by
    rw [hc]
    rfl
  clear_value e
  by_cases hk : k < 4
  · rw [if_pos hk] at he
    subst he
    exact ⟨by rw [hfen], by rw [hfen], hfld, fun _ => ⟨hcount, by rw [hfen]⟩, fun h => by omega, fun h => by omega⟩
  · rw [if_neg hk] at he
    by_cases ho : ∃ y ∈ d.dies, y ≠ x ∧ y ∉ d.fen.leftOut
    · rw [if_pos (hany.mpr ho)] at he
      subst he
      refine ⟨congrArg (·.hung) hfen, congrArg (·.failed) hfen, hfld, fun h => absurd h hk, fun _ _ => ?_, fun _ h => ?_⟩
      · exact List.mem_append_right _ (List.mem_singleton_self x)
      · obtain ⟨y, hy, hne, hout⟩ := ho
        exact absurd ((h y hy).resolve_left hne) hout
    · rw [if_neg (mt hany.mp ho)] at he
      subst he
      refine ⟨congrArg (·.hung) hfen, congrArg (·.failed) hfen, hfld, fun h => absurd h hk, fun _ h => absurd h ho,
        fun _ _ => ⟨congrArg (·.leftOut) hfen, ?_⟩⟩
      exact List.mem_append_right _ (List.mem_singleton_self _)

/-! The last step -/

theorem doneOrStopped_startFails (d : Dev) (x : Nat) : (d.startFails (some x)).doneOrStopped := by
  obtain ⟨_, hf, _⟩ := startFails_some d x
  exact fun _ h => absurd (hf.symm.trans h) (by simp)

theorem bootMethod_last (d : Dev) (x : Nat) : d.bootMethod x 19 ≠ 2 := by
  have h : ∀ t, methodFor 19 t ≠ 2 := by
    intro t
    unfold methodFor
    split
    · decide
    · decide
    · decide
    · decide
    · split <;> decide
    · decide
  exact h _

/-- BS19 ends with DONE, or the start stops there. -/
theorem doneOrStopped_runStep (d : Dev) (L : Locks) (hw : List BootFact) (x : Nat) : (d.runStep L hw 19 x).doneOrStopped := by
  have lost : ∀ c : Dev, (c.stepLost 19 x).doneOrStopped := fun c => doneOrStopped_startFails c x
  have tried : ∀ (c : Dev) m n f (r : Bool × Dev), c.tryMethod L 19 x m n f = r → r.1 = true → r.2.doneOrStopped := by
    rintro c m n f r rfl h _ _
    exact finished_tryMethod _ _ _ _ _ _ h
  unfold Dev.runStep
  split
  next hs =>
    intro hh hf
    rw [Dev.bootStopped, hh, hf] at hs
    cases hs
  next =>
    extract_lets f m a b
    rw [if_neg (bootMethod_last d x)]
    clear_value b
    split
    · exact fun h => absurd h (by simp)
    · split
      · split
        rename_i g c hc
        cases g
        · exact lost c
        · exact tried _ _ _ _ _ hc rfl
      · split
        rename_i g c hc
        cases g
        · rw [if_neg Bool.false_ne_true, if_pos (show bootHasAlt 19 = true from rfl)]
          split
          rename_i g' e he
          cases g'
          · exact lost e
          · exact tried _ _ _ _ _ he rfl
        · exact tried _ _ _ _ _ hc rfl

/-- A start runs to its end, or stops failed or hung. -/
theorem doneOrStopped_start (d : Dev) (L : Locks) (hw : List BootFact) : (d.start L hw).doneOrStopped := by
  have hlast : ∀ c, (Dev.bootRound L hw c 19).doneOrStopped := by
    intro c hh hf
    by_cases hs : c.bootStopped = true
    · rw [Dev.bootRound, if_pos hs] at hh hf ⊢
      rw [Dev.bootStopped, hh, hf] at hs
      cases hs
    · have h : Dev.bootRound L hw c 19 = c.runStep L hw 19 c.lead.lead := by
        rw [Dev.bootRound, if_neg hs]
        rfl
      rw [h] at hh hf ⊢
      exact doneOrStopped_runStep c L hw _ hh hf
  have h20 : List.range 20 = List.range 19 ++ [19] := List.range_succ
  rw [start_eq, h20, List.foldl_append]
  exact hlast _

/-! A package reset (R418) -/

theorem frame_drawBytes : ∀ (n : Nat) (d : Dev), ((Dev.drawBytes n d).2.variant, (Dev.drawBytes n d).2.fen) = (d.variant, d.fen)
  | 0, _ => rfl
  | n + 1, d => frame_drawBytes n d.draw.2

theorem frame_cutFlash (d : Dev) (x : Nat) : ((d.cutFlash x).variant, (d.cutFlash x).fen) = (d.variant, d.fen) := by
  unfold Dev.cutFlash
  split
  · split
    · rfl
    · split
      rename_i bs e he
      exact (congrArg (fun r => (r.2.variant, r.2.fen)) he).symm.trans (frame_drawBytes _ d)
  · rfl

/-- What a package reset leaves of the registers, the units and the fens. -/
def Dev.resetView (d : Dev) : (Loc → Word) × Store Port × Store Ring × Store Pool × List CfgWrite × Store Byte × Fen :=
  (d.at, d.ports, d.rings, d.pools, d.cfgLog, d.flash, d.fen)

theorem resetView_ite {c : Prop} [Decidable c] {a b : Dev} (h : a.resetView = b.resetView) : (if c then a else b).resetView = b.resetView := by
  split
  · exact h
  · rfl

/-- The pins and the power stages of the ports are no part of it. -/
theorem resetView_packageReset (d : Dev) (cold : Bool) (cause : Nat × Nat × Nat) :
    (d.packageReset cold cause).resetView = (({ variant := d.variant } : Dev).at, [], [], [], [], ((d.cutFlash 0).cutFlash 1).flash,
      { d.fen with cold := d.fen.cold || cold, cause := some cause, hung := none, failed := none, ahead := if cold then 0 else d.fen.ahead, noWrite := 0 }) := by
  obtain ⟨c, hc⟩ : ∃ c, c = (d.cutFlash 0).cutFlash 1 := ⟨_, rfl⟩
  have hcd : (c.variant, c.fen) = (d.variant, d.fen) := by rw [hc, frame_cutFlash, frame_cutFlash]
  have hv : c.variant = d.variant := congrArg (·.1) hcd
  have hf : c.fen = d.fen := congrArg (·.2) hcd
  unfold Dev.packageReset
  rw [← hc, ← hv, ← hf]
  extract_lets
  refine (foldl_kept Dev.resetView (fun n p => ?_) _ _).trans ((foldl_kept Dev.resetView (fun n x => ?_) _ _).trans ?_)
  · refine (resetView_ite ?_).trans (resetView_ite ?_)
    · rfl
    · rfl
  · rfl
  · refine (resetView_ite ?_).trans ?_
    · rfl
    · rfl

/-- What holds the package in reset holds it over a package reset too. -/
theorem pinned_packageReset (d : Dev) (cold : Bool) (cause : Nat × Nat × Nat) : (d.packageReset cold cause).pinned = d.pinned := by
  exact congrArg (fun t => (t.2.2.2.2.2.2.asserted, t.2.2.2.2.2.2.low)) (resetView_packageReset d cold cause)

/-! The obligation -/

theorem stepTimeout_hung {d : Dev} {x step method : Nat} (h : d.fen.hung = some (x, step, method)) :
    ∃ c : Dev, d.stepTimeout x = c.startFails (if bootOptional step then none else some x) ∧ c.bootView = d.bootView := by
  refine ⟨_, ?_, (bootView_setHist _ x step (if method = 1 then .alternateFailed else .primaryFailed)).trans
    (bootView_bootRec d x { kind := 4, step := step, die := x, method := method, reason := 2 })⟩
  rw [Dev.stepTimeout, h]
  dsimp only
  rw [if_pos rfl]
  cases bootOptional step <;> rfl

theorem stepTimeout_other {d : Dev} {x : Nat} (h : ∀ step method, d.fen.hung ≠ some (x, step, method)) : d.stepTimeout x = d := by
  unfold Dev.stepTimeout
  split
  · split
    · subst x
      exact absurd ‹_› (h _ _)
    · rfl
  · rfl

/-- A start begun while nothing holds the package in reset. -/
theorem inReset_start {d : Dev} (L : Locks) (hw : List BootFact) (h : d.pinned = (false, [])) : (d.start L hw).inReset = false := by
  have hp : (d.start L hw).pinned = (false, []) := (pinned_start d L hw).trans h
  have ha : (d.start L hw).fen.asserted = false := congrArg (·.1) hp
  have hl : (d.start L hw).fen.low = [] := congrArg (·.2) hp
  rw [Dev.inReset, ha, hl]
  rfl

/-- Settles O53: a start that stops, and the reset after it. -/
theorem failedStarts : Obligations.FailedStarts := by
  unfold Obligations.FailedStarts
  intro s x d
  refine ⟨fun step method hh => ?_, fun h => ?_, fun hw => ⟨fun hf hr ht => ?_, fun h => ?_⟩⟩
  · refine State.doesSome_perform (by dsimp only [exec]; rfl) ?_
    obtain ⟨c, hdef, hc⟩ := stepTimeout_hung hh
    have hfen : c.fen = d.fen := congrArg (·.2.2.1) hc
    have hcount : c.failedStarts = d.failedStarts := congrArg (·.2.2.2.1) hc
    have hdies : c.dies = d.dies := congrArg (fun t : Variant × _ => List.range t.1.dies) hc
    dsimp only
    rw [hdef]
    cases hs : bootOptional step
    · have h := startFails_some c x
      dsimp only at h
      rw [hfen, hcount, hdies] at h
      obtain ⟨hhung, hfailed, hrest⟩ := h
      exact ⟨hhung, fun h => absurd h (by simp), fun _ => ⟨hfailed, hrest⟩⟩
    · exact ⟨rfl, fun _ => rfl, fun h => absurd h (by simp)⟩
  · exact State.does_perform (by dsimp only [exec]; rfl) (stepTimeout_other h)
  · have hm : s.dev.mayRestart = true := by
      rw [Dev.mayRestart, hr, Option.isSome_iff_ne_none.mpr hf]
      rfl
    refine ⟨(d.packageReset false (4, 0, 0)).start Locks.clear hw, ?_, inReset_start _ _ ?_, doneOrStopped_start _ _ _⟩
    · have hx : exec (.failedStartReset hw) s = perform (.failedStartReset hw) { s with locks := Locks.clear } fun L d => d.restart L hw := by
        dsimp only [exec]
        rw [execFailedStartReset, if_pos hm]
      have hd : s.dev.restart Locks.clear hw = (d.packageReset false (4, 0, 0)).start Locks.clear hw := if_pos hm
      rw [hx, perform_next (s := { s with locks := Locks.clear }) ht]
      exact congrArg (fun e => Host.Outcome.next (State.after { s with locks := Locks.clear } e)) hd
    · rw [pinned_packageReset]
      rw [Dev.inReset, Bool.or_eq_false_iff, Bool.not_eq_false', List.isEmpty_iff] at hr
      exact Prod.ext hr.1 hr.2
  · have hm : ¬ s.dev.mayRestart = true := by
      rw [Dev.mayRestart]
      rcases h with h | h
      · rw [show s.dev.fen.failed = none from h]
        simp
      · rw [show s.dev.inReset = true from h]
        simp
    refine State.does_perform (by dsimp only [exec]; rw [execFailedStartReset, if_neg hm]) ?_
    exact if_neg hm

/-! Resets of the package -/

theorem cutFlash_idle {d : Dev} {x : Nat} (h : d.flashWindow x = none) : d.cutFlash x = d := by
  unfold Dev.cutFlash
  rw [h]

/-- Cells that the board's flashes hold change nothing else. -/
theorem fen_boardFlash (d : Dev) (board : List (Nat × Nat × Byte)) : ((d.boardFlash board).fen, (d.boardFlash board).at) = (d.fen, d.at) :=
  foldl_kept (fun c : Dev => (c.fen, c.at)) (fun c x => by split <;> rfl) board d

/-- A package reset while no flash command runs, and what holds it. -/
theorem reset_effect {d e : Dev} {cold : Bool} {cause : Nat × Nat × Nat} (h0 : d.flashWindow 0 = none) (h1 : d.flashWindow 1 = none)
    (he : e = { d.packageReset cold cause with fen := e.fen }) :
    (∀ l : Loc, e.at l = ({ variant := d.variant } : Dev).at l) ∧ e.ports = [] ∧ e.rings = [] ∧ e.pools = [] ∧ e.cfgLog = [] ∧ e.flash = d.flash := by
  have h := resetView_packageReset d cold cause
  rw [cutFlash_idle h0, cutFlash_idle h1] at h
  rw [Dev.resetView] at h
  simp only [Prod.mk.injEq] at h
  obtain ⟨hat, hp, hr, hq, hc, hf, _⟩ := h
  rw [he]
  exact ⟨fun l => congrFun hat l, hp, hr, hq, hc, hf⟩

/-- A start that begins once nothing holds the package in reset. -/
theorem starts_effect {d : Dev} (L : Locks) (hw : List BootFact) (ha : d.fen.asserted = false) (hl : d.fen.low = []) :
    (d.start L hw).inReset = false ∧ ((d.start L hw).fen.hung = none → (d.start L hw).fen.failed = none → (d.start L hw).finished) :=
  ⟨inReset_start L hw (Prod.ext ha hl), doneOrStopped_start d L hw⟩

/-- PKG_RESET_N released (R420): the start begins where no rail is low. -/
theorem releaseReset_eq {d : Dev} (L : Locks) (board : List (Nat × Nat × Byte)) (hw : List BootFact) (ha : d.fen.asserted = true) :
    ∃ b : Dev, b.fen = { d.fen with asserted := false } ∧ b.at = d.at ∧
      d.releaseReset L board hw = if d.fen.low.isEmpty then b.start L hw else b := by
  obtain ⟨b, hb⟩ : ∃ b, b = ({ d with fen := { d.fen with asserted := false } } : Dev).boardFlash board := ⟨_, rfl⟩
  have hf : (b.fen, b.at) = ({ d.fen with asserted := false }, d.at) := hb ▸ fen_boardFlash _ board
  have hfen : b.fen = { d.fen with asserted := false } := congrArg (·.1) hf
  refine ⟨b, hfen, congrArg (·.2) hf, ?_⟩
  rw [Dev.releaseReset, ha, if_neg (by decide), ← hb]
  dsimp only
  rw [hfen]

/-- Every rail back (R404): the start begins where the pin is released. -/
theorem railsBack_eq {d : Dev} (L : Locks) (board : List (Nat × Nat × Byte)) (hw : List BootFact) (hl : d.fen.low ≠ []) :
    ∃ b : Dev, b.fen = { d.fen with low := [] } ∧ b.at = d.at ∧ d.railsBack L board hw = if d.fen.asserted then b else b.start L hw := by
  obtain ⟨b, hb⟩ : ∃ b, b = ({ d with fen := { d.fen with low := [] } } : Dev).boardFlash board := ⟨_, rfl⟩
  have hf : (b.fen, b.at) = ({ d.fen with low := [] }, d.at) := hb ▸ fen_boardFlash _ board
  have hfen : b.fen = { d.fen with low := [] } := congrArg (·.1) hf
  refine ⟨b, hfen, congrArg (·.2) hf, ?_⟩
  rw [Dev.railsBack, if_neg (by simpa using hl), ← hb]
  dsimp only
  rw [hfen]

/-- Settles O52: the resets of the package, and what ends them. -/
theorem packageResets : Obligations.PackageResets := by
  unfold Obligations.PackageResets
  intro s h0 h1 hh d resets starts
  have hreset : ∀ (i : Instr) (P : Dev → Prop) (f : Locks → Dev → Dev) cold cause, exec i s = performReset i s f →
      f Locks.clear d = { d.packageReset cold cause with fen := (f Locks.clear d).fen } → (f Locks.clear d).inReset = true →
      P (f Locks.clear d) → resets i P := by
    intro i P f cold cause hx hf hr hP ht
    obtain ⟨hat, hp, hri, hq, hc, hfl⟩ := reset_effect h0 h1 hf
    exact ⟨_, by rw [hx, performReset_next ht], hr, hat, hp, hri, hq, hc, hfl, hP⟩
  have hcause : ∀ cold cause, (d.packageReset cold cause).fen.cause = some cause := fun cold cause =>
    congrArg (fun t => t.2.2.2.2.2.2.cause) (resetView_packageReset d cold cause)
  refine ⟨fun die rail => ?_, fun cold => ?_, fun board hw =>
    ⟨fun ha hl _ => ?_, fun ha hl => ?_, fun ha => ?_, fun hl ha _ => ?_, fun hl ha => ?_, fun hl => ?_⟩⟩
  · obtain ⟨c, hc⟩ : ∃ c, c = d.packageReset false (3, rail, die) := ⟨_, rfl⟩
    have hd : d.railLow die rail = { c with fen := { c.fen with low := (c.fen.low.filter fun e => e != (die, rail)) ++ [(die, rail)] } } := by
      rw [hc, Dev.railLow, hh]
    refine hreset _ _ (fun _ d => d.railLow die rail) false (3, rail, die) rfl ?_ ?_ ⟨?_, ?_⟩
    · rw [hd, hc]
    · rw [hd, Dev.inReset]
      simp
    · rw [hd, hc]
      exact hcause ..
    · rw [hd]
      exact List.mem_append_right _ (List.mem_singleton_self _)
  · exact hreset _ _ (fun _ d => d.assertReset cold) cold (if cold then 1 else 2, 0, 0) rfl rfl rfl ⟨rfl, hcause ..⟩
  · refine State.doesSome_perform (by dsimp only [exec]; rfl) ?_
    obtain ⟨b, hfen, _, hd⟩ := releaseReset_eq (d := s.dev) s.locks board hw ha
    rw [hd, if_pos (List.isEmpty_iff.mpr hl)]
    exact starts_effect s.locks hw (by rw [hfen]) (by rw [hfen]; exact hl)
  · refine State.doesSome_perform (by dsimp only [exec]; rfl) ?_
    obtain ⟨b, hfen, hat, hd⟩ := releaseReset_eq (d := s.dev) s.locks board hw ha
    rw [hd, if_neg (mt List.isEmpty_iff.mp hl)]
    exact ⟨hfen, fun l => congrFun hat l⟩
  · refine State.does_perform (by dsimp only [exec]; rfl) (if_pos ?_)
    rw [show s.dev.fen.asserted = false from ha]
    rfl
  · refine State.doesSome_perform (by dsimp only [exec]; rfl) ?_
    obtain ⟨b, hfen, _, hd⟩ := railsBack_eq (d := s.dev) s.locks board hw hl
    rw [hd, if_neg (by rw [show s.dev.fen.asserted = false from ha]; decide)]
    exact starts_effect s.locks hw (by rw [hfen]; exact ha) (by rw [hfen])
  · refine State.doesSome_perform (by dsimp only [exec]; rfl) ?_
    obtain ⟨b, hfen, hat, hd⟩ := railsBack_eq (d := s.dev) s.locks board hw hl
    rw [hd, if_pos ha]
    exact ⟨hfen, fun l => congrFun hat l⟩
  · exact State.does_perform (by dsimp only [exec]; rfl) (if_pos (List.isEmpty_iff.mpr hl))

end Sys2Proof.Machine

/-! ## What a die does as it applies a write of the lead's order (R32, R249, R172, R190, R206) -/

namespace Sys2Proof.Machine

/-! Page lines and windows -/

/-- Registers in which a window or the prefetch of a die tells what happened to it. -/
def winTold : List RegId := [.TC_PFD_STAT, .WIN_O_STAT, .WIN_I_STAT]

/-- The other registers, and the page lines. -/
def Dev.winView (d : Dev) : (Loc → Word) × Store TCache := (fun l => if l.reg ∈ winTold then 0 else d.at l, d.tcache)

theorem at_of_winView {d e : Dev} (h : e.winView = d.winView) {l : Loc} (hl : l.reg ∉ winTold) : e.at l = d.at l := by
  have h' : (if l.reg ∈ winTold then 0 else e.at l) = (if l.reg ∈ winTold then 0 else d.at l) := congrFun (congrArg Prod.fst h) l
  rwa [if_neg hl, if_neg hl] at h'

theorem winView_setReg (d : Dev) {r : RegId} (h : r ∈ winTold) (u i : Nat) (w : Word) : (d.setReg r u i w).winView = d.winView := by
  refine Prod.ext (funext fun l => ?_) rfl
  by_cases hl : l.reg ∈ winTold
  · exact (if_pos hl).trans (if_pos hl).symm
  · refine (if_neg hl).trans (Eq.trans ?_ (if_neg hl).symm)
    exact at_setReg_ne _ _ _ _ _ (by rintro rfl; exact hl h)

theorem winView_ite {c : Prop} [Decidable c] {d a b : Dev} (ha : a.winView = d.winView) (hb : b.winView = d.winView) :
    (if c then a else b).winView = d.winView := by
  split
  · exact ha
  · exact hb

theorem winView_pushDrop (d : Dev) (x q u i : Nat) (w : List Word) : (d.pushDrop x q TC_PFD_STAT.LOST u i w).2.winView = d.winView := by
  unfold Dev.pushDrop
  extract_lets s cap
  split
  · rfl
  · exact winView_setReg d (r := .TC_PFD_STAT) (by decide) ..

theorem winView_pfDiscard (d : Dev) (p : Nat) (b : PfBlock) (reason : Nat) : (d.pfDiscard p b reason).winView = d.winView := by
  unfold Dev.pfDiscard
  split
  · rfl
  · extract_lets w m words x r
    have h : r.2.winView = d.winView := winView_pushDrop ..
    exact winView_ite (Eq.trans rfl h) h

theorem winView_pfChange (d : Dev) (p : Nat) (f : Win → Bool) : (d.pfChange p f).winView = d.winView :=
  (foldl_kept Dev.winView (fun c b => winView_pfDiscard c p b 4) _ (d.modPort p _)).trans rfl

theorem winView_chainPut (d : Dev) (p id : Nat) : (d.chainPut p id).winView = d.winView := by
  unfold Dev.chainPut
  refine winView_ite (foldl_kept Dev.winView (fun c t => ?_) _ d) rfl
  rfl

theorem winView_issueRun (d : Dev) (p : Nat) (r : Run) : (d.issueRun p r).winView = d.winView := by
  unfold Dev.issueRun
  exact winView_ite ((winView_chainPut ..).trans rfl) rfl

theorem winView_flushRuns (d : Dev) (p : Nat) (f : Run → Bool) : (d.flushRuns p f).winView = d.winView :=
  (foldl_kept Dev.winView (fun c r => winView_issueRun c p r) _ (d.modPort p _)).trans rfl

/-- What a change of windows does to the held runs and to the prefetched data of the ports. -/
theorem winView_windowTouched (d : Dev) (x : Nat) (sel : Bool → Nat → Bool) : (d.windowTouched x sel).winView = d.winView :=
  (foldl_kept Dev.winView (fun c p => winView_pfChange c p _) _ _).trans (foldl_kept Dev.winView (fun c p => winView_flushRuns c p _) _ d)

theorem winView_winEvent (d : Dev) (f : Fld) (inb : Bool) (w : Nat) : (d.winEvent f inb w).winView = d.winView := by
  unfold Dev.winEvent Dev.status
  cases inb
  · exact winView_ite rfl (winView_setReg d (r := .WIN_O_STAT) (by decide) ..)
  · exact winView_ite rfl (winView_setReg d (r := .WIN_I_STAT) (by decide) ..)

/-- An invalidation of everything leaves no page line (R190). -/
theorem lines_invalidate_all (d : Dev) (x : Nat) : ((d.invalidate x fun _ _ _ => true).tc x).lines = [] := by
  unfold Dev.invalidate
  extract_lets c
  have h := congrArg Prod.snd (foldl_kept Dev.winView (fun e p => winView_pfChange e p fun _ => true) (c.livePorts.filter fun p => dieOf p == x) c)
  rw [Dev.tc, show (List.foldl _ c _).tcache = c.tcache from h]
  exact (congrArg TCache.lines (tc_modTc_same d x _)).trans (by simp)

/-- A switch of tables is counted (R206). -/
theorem switches_tcSwitch (d : Dev) (x g : Nat) : ((d.tcSwitch x g).tc x).switches = (d.tc x).switches + 1 := by
  unfold Dev.tcSwitch
  extract_lets o i a flip b
  have ha : a.tcache = d.tcache := congrArg Prod.snd (winView_windowTouched d x _)
  have hflip : ∀ inb (c : Dev) w, (flip inb c w).tcache = c.tcache := fun _ _ _ => rfl
  have hb : b.tcache = d.tcache := (foldl_kept Dev.tcache (hflip true) i _).trans ((foldl_kept Dev.tcache (hflip false) o a).trans ha)
  rw [tc_modTc_same, Dev.tc, hb]
  rfl

theorem getLsbD_putBits_cleared {c : Word} {j : Nat} (h : c.getLsbD j = false) (k : Nat) : (putBits c k k 0).getLsbD j = false := by
  rw [putBits_getLsbD, h]
  simp

/-- A window of which EN is written 0 stays off. -/
theorem off_windowWritten {d : Dev} {x w : Nat} {inb : Bool} (h : (d.reg (winReg inb .WIN_O_CTL) x w).getLsbD 31 = false) (ctl : Bool) :
    ((d.windowWritten x inb w ctl).reg (winReg inb .WIN_O_CTL) x w).getLsbD 31 = false := by
  have hctl : winReg inb .WIN_O_CTL ∉ winTold := by cases inb <;> decide
  unfold Dev.windowWritten
  extract_lets v home r pfBad a b c e
  have hput : ∀ (c : Dev) k, (c.reg r x w).getLsbD 31 = false → ((c.setReg r x w (putBits (c.reg r x w) k k 0)).reg r x w).getLsbD 31 = false :=
    fun c k hc => (congrArg (·.getLsbD 31) (Dev.at_put_same c ⟨r, x, w⟩ _)).trans (getLsbD_putBits_cleared hc k)
  have hev : ∀ (c : Dev) f, (c.reg r x w).getLsbD 31 = false → ((if home then c.winEvent f inb w else c).reg r x w).getLsbD 31 = false := by
    intro c f hc
    split
    · exact (congrArg (·.getLsbD 31) (at_of_winView (winView_winEvent c f inb w) (l := ⟨r, x, w⟩) hctl)).trans hc
    · exact hc
  have hb : (b.reg r x w).getLsbD 31 = false := by
    unfold b
    split
    · exact hev _ _ (hput d 23 h)
    · exact h
  have he : (e.reg r x w).getLsbD 31 = false := by
    unfold e
    split
    · exact hev _ _ (hput b 31 hb)
    · exact hb
  exact (congrArg (·.getLsbD 31) (at_of_winView (winView_windowTouched e x _) (l := ⟨r, x, w⟩) hctl)).trans he

end Sys2Proof.Machine

/-! ## Pending and active rules of the protection units (R248, R249) -/

namespace Sys2Proof.Machine

/-! One store grafted onto another -/

/-- The first entry of a key, with no larger key before it: where the entries put in later leave it. -/
def Store.Leads {V : Type} (k : Key) (v : V) (m : Store V) : Prop := ∃ a b, m = a ++ (k, v) :: b ∧ ∀ e ∈ a, e.1 ≠ k ∧ k.lt e.1 = false

theorem Store.Leads.get {V : Type} {k : Key} {v : V} {m : Store V} (h : Store.Leads k v m) (dflt : V) : Store.get dflt k m = v := by
  obtain ⟨a, b, rfl, ha⟩ := h
  induction a with
  | nil => exact if_pos rfl
  | cons e a ih =>
    have he := (ha e List.mem_cons_self).1
    exact (if_neg he).trans (ih fun e he => ha e (List.mem_cons_of_mem _ he))

/-- Another entry goes behind it, or before it with a smaller key. -/
theorem Store.Leads.insert {V : Type} {k : Key} {v : V} {m : Store V} (h : Store.Leads k v m) (k' : Key) (v' : V) : Store.Leads k v (m.insert k' v') := by
  obtain ⟨a, b, rfl, ha⟩ := h
  induction a with
  | nil =>
    rw [List.nil_append, Store.insert]
    split
    next hlt =>
      refine ⟨[(k', v')], b, rfl, fun e he => ?_⟩
      rw [List.mem_singleton.mp he]
      refine ⟨?_, ?_⟩
      · rintro rfl
        rw [Key.lt_irrefl] at hlt
        cases hlt
      · by_contra hc
        have := Key.lt_trans hlt (Bool.eq_true_of_not_eq_false hc)
        rw [Key.lt_irrefl] at this
        cases this
    next => exact ⟨[], _, rfl, fun _ h => absurd h List.not_mem_nil⟩
  | cons e a ih =>
    obtain ⟨hek, hel⟩ := ha e List.mem_cons_self
    rw [List.cons_append, Store.insert]
    split
    next hlt =>
      refine ⟨(k', v') :: e :: a, b, rfl, fun c hc => ?_⟩
      rcases List.mem_cons.mp hc with rfl | hc
      · refine ⟨?_, ?_⟩
        · rintro rfl
          exact absurd hlt (by rw [hel]; decide)
        · by_contra hc
          exact absurd (Key.lt_trans (Bool.eq_true_of_not_eq_false hc) hlt) (by rw [hel]; decide)
      · exact ha c hc
    next =>
      obtain ⟨a', b', hab, ha'⟩ := ih fun e he => ha e (List.mem_cons_of_mem _ he)
      refine ⟨e :: a', b', by rw [hab]; rfl, fun c hc => ?_⟩
      rcases List.mem_cons.mp hc with rfl | hc
      · exact ⟨hek, hel⟩
      · exact ha' c hc

/-- An entry of a key that a store lacks. -/
theorem Store.leads_insert {V : Type} {k : Key} (v : V) : ∀ {m : Store V}, (∀ e ∈ m, e.1 ≠ k) → Store.Leads k v (m.insert k v)
  | [], _ => ⟨[], [], rfl, fun _ h => absurd h List.not_mem_nil⟩
  | e :: m, h => by
    have he := h e List.mem_cons_self
    rw [Store.insert]
    split
    next => exact ⟨[], _, rfl, fun _ h => absurd h List.not_mem_nil⟩
    next hlt =>
      obtain ⟨a, b, hab, ha⟩ := Store.leads_insert v fun e he => h e (List.mem_cons_of_mem _ he)
      refine ⟨e :: a, b, by rw [hab]; rfl, fun c hc => ?_⟩
      rcases List.mem_cons.mp hc with rfl | hc
      · exact ⟨he, Bool.eq_false_of_not_eq_true hlt⟩
      · exact ha c hc

/-- Entries put in one after another: the first of a key is the one read. -/
theorem Store.get_foldl_insert {V : Type} (dflt : V) {k : Key} : ∀ (src : Store V) {m : Store V}, (∀ e ∈ m, e.1 ≠ k) →
    Store.get dflt k (src.foldl (fun m e => Store.insert e.1 e.2 m) m) = Store.get dflt k src
  | [], _, h => get_absent dflt h
  | e :: src, m, h => by
    rw [List.foldl_cons]
    by_cases hk : e.1 = k
    · have hlead : Store.Leads k e.2 (src.foldl (fun m e => Store.insert e.1 e.2 m) (Store.insert e.1 e.2 m)) :=
        List.foldlRecOn (motive := Store.Leads k e.2) src _ (by rw [hk]; exact Store.leads_insert e.2 h) fun m hm c _ => hm.insert c.1 c.2
      rw [hlead.get, Store.get, if_pos hk]
    · rw [Store.get_foldl_insert dflt src, Store.get, if_neg hk]
      intro c hc
      rcases Store.mem_insert hc with rfl | hc
      · exact hk
      · exact h c hc

theorem Store.get_graft {V : Type} (dflt : V) {sel : Key → Bool} {k : Key} (h : sel k = true) (src dst : Store V) :
    Store.get dflt k (Store.graft sel src dst) = Store.get dflt k src := by
  unfold Store.graft
  rw [Store.get_foldl_insert dflt _ fun e he hk => ?_, get_filter_of_all dflt src fun _ => h]
  have hs := (List.mem_filter.mp he).2
  rw [hk, h] at hs
  cases hs

/-! The rules voted into a store -/

/-- The registers of a protection unit's rules. -/
def protRegs : List RegId := [.PROT_DEFAULT, .PROT_BIND, .PROT_RGN_BASE_LO, .PROT_RGN_BASE_HI, .PROT_RGN_LIMIT_LO, .PROT_RGN_LIMIT_HI]

theorem mem_protRegs {r : RegId} (h : isProtReg r = true) : r ∈ protRegs := by
  unfold isProtReg at h
  split at h
  · decide
  · decide
  · decide
  · decide
  · decide
  · decide
  · cases h

theorem find_protRegs : ∀ r ∈ protRegs, protRegs.find? (fun q => q.ctorIdx == r.ctorIdx) = some r := by decide

theorem protKey_of_mem {r : RegId} (h : r ∈ protRegs) (x k : Nat) : protKey x ⟨r.ctorIdx, x, k⟩ = true := by
  have hc : ∀ r ∈ protRegs, (r.ctorIdx == RegId.PROT_DEFAULT.ctorIdx || r.ctorIdx == RegId.PROT_BIND.ctorIdx || r.ctorIdx == RegId.PROT_RGN_BASE_LO.ctorIdx ||
    r.ctorIdx == RegId.PROT_RGN_BASE_HI.ctorIdx || r.ctorIdx == RegId.PROT_RGN_LIMIT_LO.ctorIdx || r.ctorIdx == RegId.PROT_RGN_LIMIT_HI.ctorIdx) = true := by decide
  rw [protKey, hc r h, beq_self_eq_true]
  rfl

/-- What each rule with an upset copy reads, put in its place. -/
def voteInto (x : Nat) (vote : RegId → Nat → Nat → Word) (ups : Store (Option (Word × Word))) (m : Store Word) : Store Word :=
  ups.foldl (fun m e =>
    match protRegs.find? fun r => r.ctorIdx == e.1.a with
    | some r => if protKey x e.1 then m.set r.resetWord e.1 (vote r e.1.b e.1.c) else m
    | none => m) m

theorem get_voteInto_unlisted {x : Nat} {vote : RegId → Nat → Nat → Word} {ups : Store (Option (Word × Word))} {m : Store Word} {k : Key}
    (h : ∀ e ∈ ups, e.1 ≠ k) (w : Word) : Store.get w k (voteInto x vote ups m) = Store.get w k m := by
  refine List.foldlRecOn (motive := fun n : Store Word => Store.get w k n = Store.get w k m) ups _ rfl fun n hn e he => ?_
  split
  · split
    · exact (Store.get_set_ne _ w (h e he).symm _ _).trans hn
    · exact hn
  · exact hn

theorem get_voteInto_listed {x k : Nat} {r : RegId} (hr : r ∈ protRegs) {vote : RegId → Nat → Nat → Word}
    {ups : Store (Option (Word × Word))} {m : Store Word} (h : ∃ e ∈ ups, e.1 = ⟨r.ctorIdx, x, k⟩) :
    Store.get r.resetWord ⟨r.ctorIdx, x, k⟩ (voteInto x vote ups m) = vote r x k := by
  have hself : ∀ e : Key × Option (Word × Word), e.1 = ⟨r.ctorIdx, x, k⟩ → ∀ m : Store Word,
      Store.get r.resetWord ⟨r.ctorIdx, x, k⟩ (match protRegs.find? fun r => r.ctorIdx == e.1.a with
        | some r => if protKey x e.1 then m.set r.resetWord e.1 (vote r e.1.b e.1.c) else m
        | none => m) = vote r x k := by
    intro e he m
    rw [he, find_protRegs r hr]
    dsimp only
    rw [if_pos (protKey_of_mem hr x k), Store.get_set_same]
  obtain ⟨e, he, hk⟩ := h
  refine foldl_brings (P := fun m : Store Word => Store.get r.resetWord ⟨r.ctorIdx, x, k⟩ m = vote r x k) ups (fun c _ m hm => ?_) ⟨e, he, hself e hk⟩ m
  by_cases hc : c.1 = ⟨r.ctorIdx, x, k⟩
  · exact hself c hc m
  · split
    · split
      · rw [Store.get_set_ne _ _ (Ne.symm hc), hm]
      · exact hm
    · exact hm

theorem resetWord_prot : ∀ r ∈ protRegs, ∀ u i, (⟨r, u, i⟩ : Loc).resetWord = r.resetWord := by
  intro r hr u i
  have h : ∀ r ∈ protRegs, r ≠ .TIL_BOND ∧ r ≠ .DIE_Q_CFG := by decide
  rw [Loc.resetWord, if_neg (h r hr).1, if_neg fun c => (h r hr).2 c.1]

/-- COMMIT takes each pending rule as its copies vote it. -/
theorem get_votedProt (d : Dev) {r : RegId} (hr : r ∈ protRegs) (x k : Nat) :
    Store.get r.resetWord ⟨r.ctorIdx, x, k⟩ (d.votedProt x) = d.at ⟨r, x, k⟩ := by
  have hdef : d.votedProt x = voteInto x (fun r u i => d.at ⟨r, u, i⟩) d.upsets d.regs := rfl
  rw [hdef]
  by_cases h : ∃ e ∈ d.upsets, e.1 = ⟨r.ctorIdx, x, k⟩
  · exact get_voteInto_listed hr h
  · have h' : ∀ e ∈ d.upsets, e.1 ≠ ⟨r.ctorIdx, x, k⟩ := fun e he hk => h ⟨e, he, hk⟩
    rw [get_voteInto_unlisted h', Dev.at, Loc.key, get_absent _ h', Dev.raw, resetWord_prot r hr, Loc.key]

/-- DISCARD takes each active one. -/
theorem get_votedActive (d : Dev) {r : RegId} (hr : r ∈ protRegs) (x k : Nat) :
    Store.get r.resetWord ⟨r.ctorIdx, x, k⟩ (d.votedActive x) = d.actv r x k := by
  have hdef : d.votedActive x = voteInto x (fun r u i => d.actv r u i) d.activeUpsets d.active := rfl
  rw [hdef]
  by_cases h : ∃ e ∈ d.activeUpsets, e.1 = ⟨r.ctorIdx, x, k⟩
  · exact get_voteInto_listed hr h
  · have h' : ∀ e ∈ d.activeUpsets, e.1 ≠ ⟨r.ctorIdx, x, k⟩ := fun e he hk => h ⟨e, he, hk⟩
    rw [get_voteInto_unlisted h', Dev.actv, Loc.key, get_absent _ h']

/-! COMMIT and DISCARD -/

theorem get_kept_none {V : Type} {p : Key → Bool} {k : Key} (h : p k = true) (m : Store (Option V)) :
    Store.get none k (m.filter fun e => !p e.1) = none := by
  refine get_absent _ fun e he hk => ?_
  have := (List.mem_filter.mp he).2
  rw [hk, h] at this
  cases this

/-- COMMIT of a die's rules: the pending ones become active, in a new epoch (R249). -/
theorem protCommit_effect (d : Dev) (x : Nat) : (d.protCommit x).fld PROT_EPOCH.EPOCH x = (d.fld PROT_EPOCH.EPOCH x + 1) % 65536 ∧
    (d.protCommit x).fld PROT_CTL.DIRTY x = 0 ∧ ∀ (r : RegId) (k : Nat), isProtReg r = true → (d.protCommit x).actv r x k = d.at ⟨r, x, k⟩ := by
  obtain ⟨c, hc⟩ : ∃ c : Dev, c = { d with active := Store.graft (protKey x) (d.votedProt x) d.active,
                                           activeUpsets := d.activeUpsets.filter fun e => !protKey x e.1 } := ⟨_, rfl⟩
  have he : d.protCommit x = (c.setFld PROT_EPOCH.EPOCH x 0 ((d.fld PROT_EPOCH.EPOCH x + 1) % 65536)).setFld PROT_CTL.DIRTY x 0 0 := by rw [hc]; rfl
  rw [he]
  refine ⟨?_, fld_setFld _ _ _ _ (by decide), fun r k hr => ?_⟩
  · rw [fld_setFld_apart _ _ _ _ _ _ (f := PROT_CTL.DIRTY) (g := PROT_EPOCH.EPOCH) (by decide) (by decide), fld_setFld _ _ _ _ (by decide)]
    exact Nat.mod_mod _ _
  · have hact : c.active = Store.graft (protKey x) (d.votedProt x) d.active := by rw [hc]
    have hups : c.activeUpsets = d.activeUpsets.filter fun e => !protKey x e.1 := by rw [hc]
    have hkey := protKey_of_mem (mem_protRegs hr) x k
    show c.actv r x k = _
    rw [Dev.actv, hups, Loc.key, get_kept_none hkey, hact, Store.get_graft _ hkey, get_votedProt d (mem_protRegs hr)]

/-- DISCARD brings the active ones back. -/
theorem protDiscard_effect (d : Dev) (x : Nat) : (d.protDiscard x).fld PROT_CTL.DIRTY x = 0 ∧
    ∀ (r : RegId) (k : Nat), isProtReg r = true → (d.protDiscard x).at ⟨r, x, k⟩ = d.actv r x k := by
  obtain ⟨c, hc⟩ : ∃ c : Dev, c = { d with regs := Store.graft (protKey x) (d.votedActive x) d.regs, upsets := d.upsets.filter fun e => !protKey x e.1 } :=
    ⟨_, rfl⟩
  have he : d.protDiscard x = c.setFld PROT_CTL.DIRTY x 0 0 := by rw [hc]; rfl
  rw [he]
  refine ⟨fld_setFld _ _ _ _ (by decide), fun r k hr => ?_⟩
  have hmem := mem_protRegs hr
  have hregs : c.regs = Store.graft (protKey x) (d.votedActive x) d.regs := by rw [hc]
  have hups : c.upsets = d.upsets.filter fun e => !protKey x e.1 := by rw [hc]
  have hkey := protKey_of_mem hmem x k
  have hne : r ≠ .PROT_CTL := by rintro rfl; cases hr
  rw [Dev.at_setFld_ne _ _ _ _ _ (by simp [hne]), Dev.at, hups, Loc.key, get_kept_none hkey, Dev.raw, resetWord_prot r hmem, hregs, Loc.key,
    Store.get_graft _ hkey, get_votedActive d hmem]

/-! The obligation -/

/-- Registers of which a write does no more than store its word. -/
def storedAlone : List RegId :=
  [.PKG_BB_CTRL_BASE_LO, .PKG_BB_CTRL_BASE_HI, .PKG_BB_CTRL_PORTS_LO, .PKG_BB_CTRL_PORTS_HI, .IRQ_NMI_CTL, .PLAY_CONCEAL_LO, .PLAY_CONCEAL_HI, .TC_INVAL_PAGE]

theorem cfgHook_storedAlone (d : Dev) (x i : Nat) (v : Word) {r : RegId} (h : r ∈ storedAlone) : d.cfgHook x r i v = d := by
  simp only [storedAlone, List.mem_cons, List.not_mem_nil, or_false] at h
  rcases h with rfl | rfl | rfl | rfl | rfl | rfl | rfl | rfl <;> rfl

theorem reg_cfgKept (d : Dev) (x : Nat) {l : Loc} {w : CfgWrite} (hm : w.mask ≠ 0) (hs : l.reg ≠ .PKG_SEAL_STAT) :
    (d.cfgKept x l w).reg l.reg x l.i = merged (d.reg l.reg x l.i) w.v w.mask := by
  rw [Dev.cfgKept, if_neg hm]
  exact (Dev.at_put_same _ _ _).trans (congrArg (merged · w.v w.mask) (at_cfgOpened d x l w hs))

/-- A write without a mask stores nothing. -/
theorem cfgKept_none (d : Dev) (x : Nat) (l : Loc) {w : CfgWrite} (hm : w.mask = 0) : d.cfgKept x l w = d := by
  rw [Dev.cfgKept, if_pos hm, Dev.cfgOpened, hm, if_neg]
  simp

/-- Settles O23: a die that applies the first write of the lead's order. -/
theorem configurationApplied : Obligations.ConfigurationApplied := by
  unfold Obligations.ConfigurationApplied
  intro s x c l rest hfits hoff hu hlog hat
  refine State.doesSome_perform (by dsimp only [exec]; rfl) ?_
  obtain ⟨b, hb⟩ : ∃ b : Dev, b = { s.dev with applied := s.dev.applied.set 0 ⟨x, 0, 0⟩ (s.dev.appliedAt x + 1) } := ⟨_, rfl⟩
  have hnext : s.dev.cfgLog[s.dev.appliedAt x]? = some c := by rw [hat, hlog]; rfl
  have hd : s.dev.applyNext x = b.cfgPlace x c := by rw [Dev.applyNext, hnext, hb]
  have hsame : b.at = s.dev.at ∧ b.tcache = s.dev.tcache := by rw [hb]; exact ⟨rfl, rfl⟩
  have hloc : locate b.n c.off = some l := by rw [hoff, hb]; exact locate_offset hfits
  have hsteady : (s.dev.applyNext x).steady = b.steady := by rw [hd]; exact steady_cfgPlace ..
  have happ : (s.dev.applyNext x).applied = s.dev.applied.set 0 ⟨x, 0, 0⟩ (s.dev.appliedAt x + 1) := by
    exact (congrArg (fun t => t.2.2.1) hsteady).trans (by rw [hb])
  have hplace : ∀ {r}, l.reg = r → (r ≠ .POOL_BASE_HI ∧ r ≠ .TAP_CTL ∧ r ≠ .RING_CTL) →
      s.dev.applyNext x = (b.cfgKept x l c).cfgHook x r l.i c.v := by
    rintro r rfl hr
    rw [hd, cfgPlace_plain hloc hr]
  have hplain : ∀ {r}, l.reg = r → (r ≠ .POOL_BASE_HI ∧ r ≠ .TAP_CTL ∧ r ≠ .RING_CTL) → c.mask = 0 → s.dev.applyNext x = b.cfgHook x r l.i c.v :=
    fun hr hp hm => by rw [hplace hr hp, cfgKept_none b x l hm]
  refine ⟨?_, ?_, fun hr hm => ?_, fun hr hm hv => ?_, fun hr hm hv hv' => ?_, fun hr hm hv => ?_, fun hr hm hv => ?_, fun hr hm hv => ?_, fun y hy => ?_⟩
  · rw [Dev.appliedAt, happ, hat, Store.get_set_same]
  · exact (congrArg (fun t => t.2.1) hsteady).trans ((by rw [hb]; rfl : b.steady.2.1 = s.dev.cfgLog).trans hlog)
  · have hns : ∀ r ∈ storedAlone, (r ≠ .POOL_BASE_HI ∧ r ≠ .TAP_CTL ∧ r ≠ .RING_CTL) ∧ r ≠ .PKG_SEAL_STAT := by decide
    rw [hplace rfl (hns _ hr).1, cfgHook_storedAlone _ _ _ _ hr, reg_cfgKept b x hm (hns _ hr).2]
    exact congrArg (fun g : Loc → Word => merged (g ⟨l.reg, x, l.i⟩) c.v c.mask) hsame.1
  · have hhook : b.cfgHook x .PROT_CTL l.i c.v = b.protCommit x := if_pos hv
    rw [hplain hr (by decide) hm, hhook]
    obtain ⟨hepoch, hdirty, hact⟩ := protCommit_effect b x
    rw [fld_of_at (congrFun hsame.1 _)] at hepoch
    exact ⟨hepoch, hdirty, fun r k h => (hact r k h).trans (congrFun hsame.1 _)⟩
  · have hhook : b.cfgHook x .PROT_CTL l.i c.v = b.protDiscard x := (if_neg (by rw [hv]; decide)).trans (if_pos hv')
    rw [hplain hr (by decide) hm, hhook]
    obtain ⟨hdirty, hact⟩ := protDiscard_effect b x
    exact ⟨hdirty, fun r k h => (hact r k h).trans (by rw [hb]; rfl)⟩
  · have hhook : b.cfgHook x .TC_INVAL l.i c.v = b.invalidate x fun _ _ _ => true := if_pos hv
    rw [hplain hr (by decide) hm, hhook]
    exact lines_invalidate_all b x
  · have hhook : b.cfgHook x .TC_SWITCH l.i c.v = (b.tcSwitch x (bitsOf c.v 7 0)).setFld TC_SWITCH_STAT.LAST_GROUP x 0 (bitsOf c.v 7 0) := if_neg hv
    rw [hplain hr (by decide) hm, hhook]
    refine ⟨(fld_setFld _ _ _ _ (by decide)).trans (Nat.mod_mod _ _), ?_⟩
    exact (switches_tcSwitch b x _).trans (by rw [Dev.tc, hsame.2]; rfl)
  · have hm0 : c.mask ≠ 0 := by
      intro h
      rw [h] at hm
      cases hm
    have hoff : ∀ {r}, l.reg = r → r ≠ .PKG_SEAL_STAT → ((b.cfgKept x l c).reg r x l.i).getLsbD 31 = false := by
      rintro r rfl hs
      rw [reg_cfgKept b x hm0 hs, getLsbD_merged, hm, hv]
      rfl
    simp only [List.mem_cons, List.not_mem_nil, or_false] at hr
    rcases hr with hr | hr
    · rw [hplace hr (by decide), hr]
      exact off_windowWritten (inb := false) (hoff hr (by decide)) true
    · rw [hplace hr (by decide), hr]
      exact off_windowWritten (inb := true) (hoff hr (by decide)) true
  · rw [Dev.appliedAt, happ]
    exact Store.get_set_ne 0 0 (by simp [hy]) _ _

end Sys2Proof.Machine
